-- ==== Sys2Proof/Word.lean ====
section
/-! DEFINITION. The word types of the VH4K: what the manual treats as bits. -/

namespace Sys2Proof

/-- A line address L = DPA[45:6] (R37, chapter 3). -/
abbrev Line := BitVec 40
/-- A 12-bit agent ID (R32); 0xFFF names no agent. -/
abbrev AgentId := BitVec 12
/-- The 64 bytes of a line, byte 0 in the low bits. -/
abbrev LineData := BitVec 512
/-- A register word (R399). -/
abbrev Word32 := BitVec 32
/-- A byte. -/
abbrev Byte := BitVec 8
/-- A register address: 24 bits, byte-addressed (R399). -/
abbrev RegAddr := BitVec 24
/-- Slice number (R14). -/
abbrev SliceId := BitVec 6
/-- Memory-port number (R15). -/
abbrev PortId := BitVec 5
/-- Link-attachment number (R15). -/
abbrev AttId := BitVec 4

end Sys2Proof
end

