-- ==== Sys2Proof/Syntax.lean ====
section
/-! DEFINITION. The commands of the VH4K: one constructor per row of spec/opcode_table.json, with the row's
operands. What an operand carries comes from outside the block (a message, a beat, bytes of the flash, a pin, what a
check found on physical bits), or names the unit, slot or timer the step is about. What the checks of a pass, of tags or of a
write-back's words find stands last, and where it is left out they find nothing wrong. -/

namespace Sys2Proof

/-- The fields of a REQ or RWD header (R37). The opcode is the command itself; `mv` is META. -/
structure ReqHdr where
  agent   : AgentId
  tag     : BitVec 16
  laddr   : Line
  otag    : BitVec 4
  snptype : BitVec 3
  mv      : BitVec 2
  ncnt    : BitVec 4
  aop     : BitVec 4
  aw      : BitVec 2
  aoff    : BitVec 4
  psn     : Bool
  deriving DecidableEq, Repr

/-- What an RWD message carries beside its header (R34): byte enable and data. -/
structure WrData where
  be   : BitVec 64
  data : LineData
  deriving DecidableEq, Repr

/-- The inbound link channels (R34). -/
inductive InCh where
  | req | rwd | birsp
  deriving DecidableEq, Repr

/-- The outbound link channels (R34). -/
inductive OutCh where
  | ndr | drs | bisnp
  deriving DecidableEq, Repr

/-- A channel on which the block spends credits (R430). -/
inductive CreditCh where
  | link (la : AttId) (ch : OutCh)
  | mcmd (m : PortId)
  | mwdata (m : PortId)
  deriving DecidableEq, Repr

/-- STATUS on MRDATA and MRESP (R221); the encoding 0b11 is handled as ERROR and stands as `error`. -/
inductive MemStatus where
  | ok | poison | error
  deriving DecidableEq, Repr

/-- What the check of stored bits found (R73): nothing wrong, a corrected fault, or an uncorrectable one. -/
inductive Ecc where
  | clean | corrected | uncorr
  deriving DecidableEq, Repr

/-- What the checks of one slice pass find on the physical state: whether the two pipelines disagree (R375), what
the code of the line's way or pool block gives (R73, R77), of its transit entry (R381), and of a way that the pass evicts
(R379). -/
structure PassCheck where
  mismatch : Bool
  way      : Ecc
  pool     : Ecc
  transit  : Ecc
  victim   : Ecc
  deriving DecidableEq, Repr

/-- The checks of a pass find nothing wrong. -/
def PassCheck.clean : PassCheck :=
  { mismatch := false, way := .clean, pool := .clean, transit := .clean, victim := .clean }

/-- A 64-byte cast-store bucket as the memory side returned it (R83, R88). -/
structure BucketRead where
  status : MemStatus
  data   : LineData
  deriving DecidableEq, Repr

/-- What the parity of an HLB way's words gives on a read (R174): good; bad in words that are good in the other copy;
bad in a word that fails in both. -/
inductive Parity where
  | good | badOne | badBoth
  deriving DecidableEq, Repr

/-- What the scrub of one way of an HLB set finds, or, of the tags alone, a command's lookup (R174, R175). -/
inductive HlbFind where
  | dirtyWords (p : Parity)      -- the DIRTY way's data
  | mirrorWords                  -- the MIRROR way's data, good in the DIRTY way
  | tagOne                       -- a single-bit tag error
  | tagLost                      -- an uncorrectable tag
  | tagBoth                      -- a DIRTY way and its MIRROR both fail their tags
  deriving DecidableEq, Repr

/-- The parity of a DXB beat (R389). -/
inductive BeatParity where
  | good | dataBad | headerBad
  deriving DecidableEq, Repr

/-- An output of one of the two DXB switches (R21). -/
inductive DxbOut where
  | read (la : AttId)
  | write (m : PortId)
  deriving DecidableEq, Repr

/-- A router's port: its four link ports and its local port (R244). -/
inductive LinkPort where
  | n | e | s | w | loc
  deriving DecidableEq, Repr

/-- A flit: 512 bits of payload and a 48-bit sideband (R248). -/
structure Flit where
  payload  : BitVec 512
  sideband : BitVec 48
  deriving DecidableEq, Repr

/-- A unit that holds queues with error registers (R269, R274). -/
inductive QUnit where
  | slice (s : SliceId)
  | att (k : AttId)
  | port (m : PortId)
  | router (i : Fin 80)
  | service
  deriving DecidableEq, Repr

/-- What SFDP reports of the flash (R302). -/
structure Sfdp where
  has144     : Bool     -- 1-4-4 with 0xEB
  has114     : Bool     -- 1-1-4 with 0x6B
  qer        : BitVec 3 -- the Quad Enable Requirements field
  qeVolatile : Bool     -- that field names a volatile status-register method
  wait144    : BitVec 8 -- dummy cycles and mode bits of 1-4-4, and of 1-1-4
  mode144    : BitVec 8
  wait114    : BitVec 8
  mode114    : BitVec 8
  wait111    : BitVec 8 -- dummy cycles of 1-1-1 fast read
  addr4Only  : Bool     -- the device supports 4-byte addressing alone
  deriving DecidableEq, Repr

/-- Who presents a register access (R318, R320, R423). -/
inductive RegSrc where
  | host | cox | jtag
  deriving DecidableEq, Repr

/-- One register write as it stands at the service hub (R318). -/
structure RegWrite where
  addr : RegAddr
  be   : BitVec 4
  data : Word32
  deriving DecidableEq, Repr

/-- A mailbox channel (R362). -/
inductive MbxCh where
  | host | sideband
  deriving DecidableEq, Repr

/-- A sensor of the hub with its reading (R355). -/
inductive SensorSample where
  | thermal (i : Fin 12) (t : BitVec 12)
  | droop (i : Fin 6) (d : BitVec 8)
  | aging (i : Fin 4) (count : BitVec 20)
  deriving DecidableEq, Repr

/-- An event-log record as its writer presents it (R358). -/
structure LogRec where
  type : BitVec 16
  unit : BitVec 16
  data : BitVec 128
  deriving DecidableEq, Repr

/-- A rail whose loss is the event (R278, R419). -/
inductive Rail where
  | vcore | vsram | vaon
  deriving DecidableEq, Repr

/-- WKIND of a WINDOW_REQ (R221). -/
inductive WKind where
  | zq | rdLevel | wrLevel | other
  deriving DecidableEq, Repr

/-- The commands of the VH4K. -/
inductive Instr where
  -- requests on REQ and RWD
  | rdShared (la : AttId) (q : ReqHdr)
  | rdOwn (la : AttId) (q : ReqHdr)
  | rdCur (la : AttId) (q : ReqHdr)
  | rdAtomic (la : AttId) (q : ReqHdr)
  | inv (la : AttId) (q : ReqHdr)
  | evictClean (la : AttId) (q : ReqHdr)
  | conflict (la : AttId) (q : ReqHdr)
  | fence (la : AttId) (q : ReqHdr)
  | rsvRd (la : AttId) (q : ReqHdr)
  | wrFull (la : AttId) (q : ReqHdr) (w : WrData)
  | wrKeep (la : AttId) (q : ReqHdr) (w : WrData)
  | wrPartial (la : AttId) (q : ReqHdr) (w : WrData)
  | hatom (la : AttId) (q : ReqHdr) (w : WrData)
  | condWr (la : AttId) (q : ReqHdr) (w : WrData)
  -- snoop responses and acknowledgements on BIRSP
  | birspI (la : AttId) (agent : AgentId) (htag : BitVec 16) (laddr : Line)
  | birspS (la : AttId) (agent : AgentId) (htag : BitVec 16) (laddr : Line)
  | birspE (la : AttId) (agent : AgentId) (htag : BitVec 16) (laddr : Line)
  | egressAck (la : AttId) (agent : AgentId) (htag : BitVec 16)
  -- credits and the attachment edge
  | creditReturn (ch : CreditCh)
  | creditAdvertisement (ch : CreditCh)
  | linkEgressSend (la : AttId) (ch : OutCh)
  | gateRelease (la : AttId) (agent : AgentId) (tag : BitVec 16)
  | barrierExpiry (la : AttId) (agent : AgentId) (otag : BitVec 4)
  | dataPull (la : AttId)
  | dxbBeat (out : DxbOut) (par : BeatParity)
  | egressAckLate (s : SliceId) (slot : BitVec 10)
  -- slice passes
  | newRequestPass (s : SliceId) (chk : PassCheck)
  | handOverPass (s : SliceId) (chk : PassCheck)
  | snoopResponsePass (s : SliceId) (chk : PassCheck := .clean)
  | egressAckPass (s : SliceId) (chk : PassCheck := .clean)
  | snoopResponseWrite (s : SliceId) (chk : PassCheck := .clean)
  | portRpt (s : SliceId) (chk : PassCheck := .clean)
  | snoopIssue (s : SliceId) (row : BitVec 3)
  | snoopTimeout (s : SliceId) (slot : BitVec 10) (agent : AgentId)
  | snoopClose (s : SliceId) (slot : BitVec 10) (agent : AgentId)
  | escalationRetry (s : SliceId) (chk : PassCheck := .clean)
  | ticketExpiry (s : SliceId) (agent : AgentId)
  | replay (s : SliceId) (chk : PassCheck)
  | backgroundWaitLimit (s : SliceId)
  | castFetchReturn (s : SliceId) (chk : PassCheck := .clean)
  | castWriteCompletion (s : SliceId) (chk : PassCheck := .clean)
  | cuckooBucketRead (s : SliceId) (chk : PassCheck := .clean)
  | capacityRecallStart (s : SliceId) (chk : PassCheck := .clean)
  | broadcastRecoveryStart (s : SliceId) (chk : PassCheck := .clean)
  | departureSweepStep (s : SliceId) (chk : PassCheck) (finds : List (BitVec 4 × Ecc))
  | patrolScrubStep (s : SliceId) (finds : List (BitVec 4 × Ecc)) (badCounters : List (BitVec 20)) (chk : PassCheck := .clean)
  | silhouetteRebuildStep (s : SliceId) (chk : PassCheck)
  | admissionScanStep (s : SliceId) (bucket : BitVec 12) (chk : PassCheck)
  | ageClockAdvance (s : SliceId)
  | predictorDecay (s : SliceId)
  -- agents
  | agentLeavingDone (a : AgentId)
  | joinLimitExpiry (a : AgentId)
  | join (a : AgentId)
  | leave (a : AgentId)
  | agentFence (a : AgentId)
  | release (a : AgentId)
  | unknownAgentCommand (a : AgentId) (cmd : BitVec 4)
  | agentPermissionWrite (a : AgentId) (perfRead hatom rsv : Bool)
  -- clear commands
  | laRefuseClear (la : AttId)
  | flowErrClear (s : SliceId)
  | serClear (s : SliceId)
  | hlbClear (m : PortId)
  | atmClear (s : SliceId)
  | mpClear (m : PortId)
  | rtrLinkClear (i : Fin 80)
  | rtrProbeClear (i : Fin 80)
  | qClear (u : QUnit)
  | modeClear
  | regClear
  | evClear
  | sampClear
  | laOrdClear (la : AttId)
  | rasClear (s : SliceId)
  | rasGlobalClear
  -- memory ports
  | read (m : PortId) (par : Parity) (tags : List (BitVec 4 × HlbFind) := [])
  | write (m : PortId) (tags : List (BitVec 4 × HlbFind) := [])
  | writePartial (m : PortId) (par : Parity) (tags : List (BitVec 4 × HlbFind) := [])
  | atomic (m : PortId) (par : Parity) (tags : List (BitVec 4 × HlbFind) := [])
  | castStoreCommand (m : PortId)
  | mcmdIssue (m : PortId) (par : Parity := .good)
  | mrdataBeat (m : PortId) (ctag : BitVec 8) (st : MemStatus) (data : LineData)
  | cmpl (m : PortId) (ctag : BitVec 8) (st : MemStatus)
  | windowReq (m : PortId) (kind : WKind) (pair : Bool) (wlen : BitVec 11)
  | windowArbiterGrant
  | windowRequestStarving (m : PortId)
  | drainLimitExpiry (m : PortId)
  | windowLimitExpiry (m : PortId)
  | sweepRequest (m : PortId)
  | sweepStep (m : PortId)
  | fenceClose (m : PortId)
  | fenceReport (la : AttId)
  | epochAdvance (m : PortId)
  | ageEngineVisit (m : PortId)
  | hlbScrubStep (m : PortId) (finds : List (BitVec 4 × HlbFind))
  | hlbMaintStart (m : PortId) (op : BitVec 2) (setway all : Bool)
  | hlbMaintVisit (m : PortId)
  | hlbDisable (m : PortId)
  | hlbEnable (m : PortId)
  -- calibration
  | calibrationSample (s : SliceId)
  | calibrationWindowEnd
  -- Armature and gating
  | flitReceive (i : Fin 80) (link : LinkPort) (plane : Bool) (err : Flit) (under : Option (BitVec 2) := none)
  | nak (i : Fin 80) (link : LinkPort) (plane : Bool) (seq : BitVec 6)
  | routerReconfigStart (i : Fin 80) (bounce : BitVec 4) (crcLim : BitVec 4)
  | routerReconfigSwitch (i : Fin 80)
  | queuePointerMismatch (u : QUnit) (q : BitVec 6)
  | laGateClose (la : AttId)
  | gateAck (la : AttId)
  | gateDrained (la : AttId)
  | laGateOpen (la : AttId)
  | gateReopen (la : AttId)
  | bouncedMessage
  | traceOut
  -- modes, shed, resets
  | restReq
  | quiesceSet
  | quiesceClear
  | quiesceDrainAdvance
  | restEntryStep (m : BitVec 24)
  | restDrainLimit
  | sidebandAddressMatch (addr : BitVec 7)
  | wakeIn
  | restExitStep (ticks : BitVec 48)
  | shedQualify (mon : BitVec 2) (droop : BitVec 8)
  | droopAlert (level : Bool)
  | shedStepDown
  | shedForce (level : BitVec 3)
  | calibrateExit
  | warmReset
  | warmLimitExpiry
  | warmResetRelease
  | coldReset
  | coldResetRelease (straps : BitVec 16) (keyHash : BitVec 384) (keyValid : Bool) (svnFloor : BitVec 16)
  | aonReset
  | powerFail
  | powerLoss (rail : Rail)
  -- re-homing
  | resize (target : BitVec 2)
  | move (bucket : BitVec 12) (dest : SliceId)
  | bucketMarkMoving (bucket : BitVec 12)
  | bucketWriteBack (bucket : BitVec 12) (chk : PassCheck := .clean)
  | handover (s : SliceId)
  | mapSet (row : BitVec 4)
  | mapAck
  -- boot
  | flashDiscovery (sfdp : Option Sfdp)
  | slotHeaderCheck (anchorZeros : BitVec 17) (hdrA hdrB : List Byte)
  | signatureCheck
  | bodyBlockRead (words : List Word32)
  | padRecord
  | writeRecord
  | maskRecord
  | pollRecord
  | pollRead
  | pollLimitExpiry
  | waitRecord
  | waitExpiry
  | endRecord
  | bodyHashCheck (cox : List Byte)
  | arrayClearDone
  -- registers
  | registerWrite (src : RegSrc) (w : RegWrite) (other : Option RegWrite)
  | broadcastRead (src : RegSrc) (addr : RegAddr)
  -- event controller
  | eventMessage
  | globalSourceChange
  | claim (n : BitVec 3) (src : RegSrc)
  | complete (n : BitVec 3) (id : BitVec 12)
  | evSrcWrite (i : BitVec 11) (be : BitVec 4) (data : Word32)
  | tgtCtrlWrite (n : BitVec 3) (be : BitVec 4) (data : Word32)
  -- counters, snapshot, sampling
  | cntLoRead (i : Fin 3584)
  | dcycLowRead (d : Fin 40)
  | prbCntLowRead (i : Fin 80) (n : Bool)
  | tbNowLoRead
  | arm (i : Fin 3584)
  | disarm (i : Fin 3584)
  | counterOverflow (i : Fin 3584) (occ : BitVec 16)
  | freeze
  | freezeRelease
  | counterClear
  | snapGo
  | snapNow
  | snapCapture (d : Fin 40) (stamp : BitVec 64)
  | snapDomainTimeout (d : Fin 40)
  | sampleRecord
  | counterWindowRead (la : AttId)
  -- Cox, sensors, logs, mailbox, updates
  | coxReset
  | watchdogExpiry
  | watchdogKick
  | coxFault
  | sensorSample (x : SensorSample)
  | clockAbsent (d : Fin 40)
  | clockPresent (d : Fin 40)
  | eventLogRecord (cox : Option LogRec)
  | journalProgram (sector : BitVec 6) (record : BitVec 7) (bytes : List Byte) (readBack : List Byte)
  | mailboxPost
  | mailboxTake (ch : MbxCh)
  | mailboxReply (ch : MbxCh) (msg : List Byte)
  | mailboxTaken
  | sbBlockWrite (bytes : List Byte) (pec : Option Byte)
  | sbBlockRead (extended : Bool)
  | sbReadByte (extended : Bool)
  | getInfo (ch : MbxCh) (fwVersion : Word32)
  | readLog (ch : MbxCh)
  | readJournal (ch : MbxCh) (rec : List Byte)
  | readSensors (ch : MbxCh)
  | getLife (ch : MbxCh) (activeBefore restBefore : Word32)
  | updBegin (ch : MbxCh)
  | updData (ch : MbxCh)
  | updCommit (ch : MbxCh) (readBack : List Byte)
  | updConfirm (ch : MbxCh) (anchorZeros : BitVec 17)
  | updAbort (ch : MbxCh)
  -- timebase and Plinth
  | tbSet
  | timePulse
  | timebaseSlewStep
  | operatingMinute
  | holdEnter
  | holdFlush
  -- debug, BIST, late rows
  | debugUnlock (level : Bool)
  | jtagRegacc (wr : Bool) (addr : RegAddr) (data : Word32)
  | mbistStart
  | aonResetRelease
  | mbistDone (fail : Bool)
  | coxRestartDone (sram : List Byte) (reload : List Byte)
  | castHeaderReturn (hdr : BucketRead) (image : List LineData) (imageOk : Bool)
  | unlistedRequest (la : AttId) (ch : InCh) (opc : BitVec 5) (q : ReqHdr)
  | unlistedBirsp (la : AttId) (opc : BitVec 4) (agent : AgentId)
  | unlistedMrespWord (m : PortId) (opc : BitVec 4)
  deriving DecidableEq, Repr

end Sys2Proof
end

