-- ==== Sys2Proof/Config.lean ====
section
/-! DEFINITION. What the manual leaves open, as constants without a body: a statement about the machine holds for every
value of them. -/

namespace Sys2Proof

/-- SHA-384 of a byte string (R306): a function the manual names and does not define. Log 20. -/
opaque Config.sha384 : List (BitVec 8) → BitVec 384

/-- Whether an ECDSA P-384 signature over a message verifies under a public key (R306). Log 20. -/
opaque Config.ecdsaP384 : (key msg sig : List (BitVec 8)) → Bool

/-- The pseudo-random value of the n-th reload of a sampling countdown (R344), before it is brought below 2^JITTER.
Log 21. -/
opaque Config.jitter : Nat → Nat

/-- The HTAG of the n-th join probe of a JOIN of an agent (R55): the manual gives none. Log 22. -/
opaque Config.probeHtag : BitVec 12 → Nat → BitVec 16

/-- How many rising edges the clock of domain d has in the cycle of clk_ref that begins at a timebase value (R337).
Log 23. -/
opaque Config.edges : (domain now : Nat) → Nat

/-- vh_jtag_mfr, which the integrator ties (R423). Log 75. -/
opaque Config.jtagMfr : BitVec 11

/-- The STATUS of a mailbox step of an update that is not open on its channel (R364, R366): the manual gives none.
Log 5. -/
opaque Config.freeValue : Nat → BitVec 32

/-- The body of a message whose fields R251 lists without bit positions: of its type and the fields in the listed order. Log
25. -/
opaque Config.body : (mtype : Nat) → List Nat → BitVec 107

/-- How many entries beyond three an observation queue has whose depth the manual does not give, by its queue number (R262, R269). Log 50. -/
opaque Config.queueRoom : Nat → Nat

/-- The line address that a header message of PORT_RPT, a memory command or a cast-store message carries: the manual lists
it in the body and gives no bits (R251, R270). Log 25. -/
opaque Config.bodyLine : BitVec 128 → BitVec 40

end Sys2Proof
end

