-- ==== Sys2Proof/Machine/Store.lean ====
section
/-! DEFINITION. A store: the block's arrays as lists of (key, value) pairs in one canonical form, keys strictly rising
and no entry equal to what an unlisted key reads as. -/

namespace Sys2Proof.Machine

/-- An array held sparsely. -/
abbrev Store (α : Type) := List (Nat × α)

/-- What key `k` reads as; an unlisted key reads as `d`. -/
def Store.get {α : Type} (d : α) : Store α → Nat → α
  | [], _ => d
  | (k', v) :: m, k => if k = k' then v else if k < k' then d else Store.get d m k

/-- The store without the entries at keys up to `k`. -/
def Store.above {α : Type} (k : Nat) : Store α → Store α
  | [] => []
  | (k', v) :: m => if k' ≤ k then Store.above k m else (k', v) :: m

/-- The store with `v` at key `k`: writing what an unlisted key reads as removes the entry. -/
def Store.set {α : Type} [DecidableEq α] (d : α) : Store α → Nat → α → Store α
  | [], k, v => if v = d then [] else [(k, v)]
  | (k', v') :: m, k, v =>
    if k < k' then (if v = d then (k', v') :: m else (k, v) :: (k', v') :: m)
    else if k = k' then (if v = d then Store.above k m else (k, v) :: m)
    else (k', v') :: Store.set d m k v

/-- The canonical form, where an unlisted key `k` reads as `d k`. -/
def Store.wf {α : Type} [DecidableEq α] (d : Nat → α) : Store α → Bool
  | [] => true
  | (k, v) :: m => decide (v ≠ d k) && (match m with | [] => true | (k', _) :: _ => decide (k < k')) && Store.wf d m

/-- The lowest key below `n` that reads as `d` (R99: the lowest free number). -/
def Store.lowestFree {α : Type} [DecidableEq α] (d : α) (m : Store α) (n : Nat) : Option Nat :=
  (List.range n).find? (fun k => Store.get d m k = d)

end Sys2Proof.Machine
end

