-- ==== Sys2Proof/Machine/State.lean ====
section
/-! DEFINITION. The state of the VH4K as plain data, and the state after reset. Every array is a store (canonical form);
register words that the manual gives an address stand in `regs`, but for those a structured field holds (agents, event
sources, counters, occupancy and mode fields, which a register read computes). -/

namespace Sys2Proof.Machine

/-- An entry of an observation queue (R262): an item, or a gap marker with the count of items discarded. -/
inductive Obs (α : Type) where
  | item (x : α)
  | gap (n : Nat)
  deriving DecidableEq, Repr

/-! ## Agents (chapter 2) -/

/-- STATE of an agent-table entry (R52). -/
inductive AState where
  | absent | joining | active | leaving | quarantine | fenced
  deriving DecidableEq, Repr

/-- A JOIN in progress (R55, R56): when it was accepted, the home tags and issue stamps of the probes still open, the longest
round trip. -/
structure JoinProbe where
  start   : Nat
  stamps  : List (BitVec 16 × Nat)
  longest : Nat
  deriving DecidableEq, Repr

/-- One agent-table entry (R52), with its JOIN in progress. -/
structure Agent where
  st       : AState
  la       : AttId
  perfRead : Bool
  hatom    : Bool
  rsv      : Bool
  sweep    : Bool
  result   : BitVec 4
  tocnt    : BitVec 4
  snpTo    : BitVec 16
  backoff  : BitVec 16
  held     : BitVec 32
  join     : Option JoinProbe
  deriving DecidableEq, Repr

/-- The reset value of an agent-table entry (R52). -/
def Agent.reset : Agent :=
  { st := .absent, la := 0, perfRead := false, hatom := false, rsv := false, sweep := false, result := 0, tocnt := 0,
    snpTo := 0, backoff := 0, held := 0, join := none }

/-- A calibration histogram (R233) and the windows it has been carried (R234). -/
structure Hist where
  bins : Store Nat
  age  : Nat
  deriving DecidableEq, Repr

/-- An empty histogram. -/
def Hist.empty : Hist := { bins := [], age := 0 }

/-! ## Messages (R37, R39, R108, R109, R251) -/

/-- The request opcodes (R38). -/
inductive Op where
  | rdShared | rdOwn | rdCur | rdAtomic | inv | evictClean | conflict | fence | rsvRd
  | wrFull | wrKeep | wrPartial | hatom | condWr
  deriving DecidableEq, Repr

/-- A transaction being precisely sampled (R344, R345): stamps of its stages and what was found. -/
structure Sample where
  admitAt   : Nat
  lookup  : Option Nat
  snpSent : Option Nat
  snpDone : Option Nat
  memIss  : Option Nat
  memDone : Option Nat
  egress  : Option Nat
  snoops  : Nat
  flags   : BitVec 8
  found   : BitVec 2
  deriving DecidableEq, Repr

/-- A request inside the block: its opcode, the attachment it came by, its header, its write-data buffer, and
what precise sampling has recorded of it. -/
structure Req where
  op  : Op
  la  : AttId
  q   : ReqHdr
  buf : Option (BitVec 5)
  smp : Option Sample := none
  known : Bool := false          -- a recovery that a lost marker started has run for it, and its line stayed held (R381)
  hatom : Bool := false          -- its agent had the HATOM permission when it was admitted (R53)
  deriving DecidableEq, Repr

/-- NDR opcodes (R39). -/
inductive NdrOp where
  | cmp | cmpS | cmpE | cmpNear | conflictAck | retry
  deriving DecidableEq, Repr

/-- STATUS of an NDR (R39). -/
inductive NStat where
  | ok | fail | error
  deriving DecidableEq, Repr

/-- An NDR message (R39); `otag` is the pair of a RETRYed request, which the edge keeps and does not send (R193). -/
structure Ndr where
  op      : NdrOp
  agent   : AgentId
  tag     : BitVec 16
  htag    : BitVec 16
  status  : NStat
  parts   : BitVec 2
  backoff : BitVec 12
  otag    : BitVec 4
  deriving DecidableEq, Repr

/-- A DRS message: DATA (R39), with the completion kind that a DATA beat's header carries as well (R21, R109): the NDR message
that goes with it, if one does. -/
structure Drs where
  agent : AgentId
  tag   : BitVec 16
  htag  : BitVec 16
  parts : BitVec 2
  psn   : Bool
  data  : LineData
  kind  : Option NdrOp
  deriving DecidableEq, Repr

/-- The snoops (R39, R102). -/
inductive SnpOp where
  | inv | data | cur
  deriving DecidableEq, Repr

/-- A BISNP message (R39). -/
structure Bisnp where
  op    : SnpOp
  agent : AgentId
  htag  : BitVec 16
  laddr : Line
  deriving DecidableEq, Repr

/-- The snoop responses (R39). -/
inductive RspOp where
  | i | s | e
  deriving DecidableEq, Repr

/-- A message of the RSP class at a slice (R129): a snoop response with its arrival stamp, an EGRESS_ACK, or a CONFLICT. -/
inductive RspMsg where
  | conflict (la : AttId) (q : ReqHdr)
  | birsp (op : RspOp) (agent : AgentId) (htag : BitVec 16) (laddr : Line) (stamp : Nat)
  | eack (agent : AgentId) (htag : BitVec 16)
  deriving DecidableEq, Repr

/-- The memory commands of the flows (R109). -/
inductive MemOp where
  | read | write | wpartial | atomic
  deriving DecidableEq, Repr

/-- A memory command on its way to a port (R109): the line, its command tag and HTAG, who wrote or reads, and for READ
and ATOMIC what the DATA beat's header carries. `poison` marks the poisoning WRITE of R387;
`htag` is absent in one that no flow waits for. -/
structure MemCmd where
  op     : MemOp
  line   : Line
  slice  : SliceId
  htag   : Option (BitVec 16)
  tag    : BitVec 16
  la     : AttId
  agent  : AgentId
  rtag   : BitVec 16
  parts  : BitVec 2
  poison : Bool
  aop    : BitVec 4
  aw     : BitVec 2
  aoff   : BitVec 4
  kind   : Option NdrOp
  deriving DecidableEq, Repr

/-- A PORT_RPT (R108); `htag` is absent in a write-back report (R167). -/
structure PortRpt where
  htag   : Option (BitVec 16)
  tag    : BitVec 16
  line   : Line
  st     : MemStatus
  hdirty : Bool
  deriving DecidableEq, Repr

/-- A cast-store command of a slice (R80, R88): which transit entry, or scan of the slice (18 the rebuild, 20 the departure
sweep, 32 + b the admission scan of bucket b), it belongs to, which bucket (by its line address), for a write the 64 bytes,
whether it has been reissued (R432), and its precedence, 1 to 4 (R89). -/
structure CastCmd where
  slice   : SliceId
  transit : Nat
  addr    : Line
  data    : Option LineData
  again   : Bool
  rank    : Nat
  deriving DecidableEq, Repr

/-- A write-switch beat (R21): the command it belongs to, its data, byte enable and poison. -/
structure WBeat where
  port  : PortId
  slice : SliceId
  tag   : BitVec 16
  w     : WrData
  psn   : Bool
  deriving DecidableEq, Repr

/-- A read-switch beat (R21): DATA for an attachment, and the report that follows its entry into the egress queue where
its PARTS is 0 (R136). -/
structure RBeat where
  la  : AttId
  drs : Drs
  rpt : Option (SliceId × PortRpt)
  deriving DecidableEq, Repr

/-- A DATA_PULL at an attachment (R108); no port named frees the buffer. -/
structure Pull where
  buf   : BitVec 5
  port  : Option PortId
  slice : SliceId
  tag   : BitVec 16
  deriving DecidableEq, Repr

/-! ## Link attachments (chapters 2, 7, 9) -/

/-- Credits the block holds on an outbound channel, with its advertisement (R430). -/
structure Credits where
  n       : Nat
  advOpen : Bool
  run     : Nat
  deriving DecidableEq, Repr

/-- Credits after reset: none, the advertisement open (R430). -/
def Credits.reset : Credits := { n := 0, advOpen := true, run := 0 }

/-- An order-table entry (R194): the request, whether the gate holds it, how many completions are still owed before
it is performed (R190), and the number of its acceptance. -/
structure OrdEntry where
  req   : Req
  gated : Bool
  left  : Nat
  acc   : Nat
  deriving DecidableEq, Repr

/-- A RETRY barrier (R193): its pair, the TAG it names, the number of that request's acceptance (none for one that was refused
on arrival), and when it was set. -/
structure Barrier where
  agent : AgentId
  otag  : BitVec 4
  tag   : BitVec 16
  acc   : Option Nat
  setAt : Nat
  deriving DecidableEq, Repr

/-- A fence entry (R202): the FENCE, when it took the entry, the ports that have reported, whether one reported ERROR,
and whether its agent was fenced (R204). -/
structure FenceEntry where
  agent : AgentId
  tag   : BitVec 16
  otag  : BitVec 4
  start : Nat
  ports : List PortId
  err   : Bool
  dead  : Bool
  deriving DecidableEq, Repr

/-- A fence report at an attachment (R202). -/
structure FenceRpt where
  entry : BitVec 2
  port  : PortId
  err   : Bool
  deriving DecidableEq, Repr

/-- A write-data buffer in use (R107, R143): what it holds, and which share of the 32 it counts in. -/
structure WBuf where
  w     : WrData
  psn   : Bool
  snoop : Bool
  high  : Bool
  deriving DecidableEq, Repr

/-- The state of a gate (R275). -/
inductive GateSt where
  | opened | closing | drained | opening
  deriving DecidableEq, Repr

/-- One link attachment's edge. -/
structure Att where
  reqCr     : Nat                -- credits the attachment holds on REQ, RWD and BIRSP (R34)
  rwdCr     : Nat
  birspCr   : Nat
  reqHold   : Nat                -- returns on REQ and RWD withheld at L3 and above (R289)
  rwdHold   : Nat
  ndrC      : Credits
  drsC      : Credits
  bisnpC    : Credits
  waitIn    : List Req
  order     : List OrdEntry
  accN      : Nat                -- requests accepted so far
  barriers  : List Barrier
  fences    : Store (Option FenceEntry)
  snooped   : List (AgentId × Line)
  bufs      : Store (Option WBuf)
  ndrQ      : List (Nat × Ndr)
  drsQ      : List (Nat × Drs)
  bisnpQ    : List (Nat × Bisnp)
  seq       : Nat
  pulls     : List Pull
  reports   : List FenceRpt
  wsIn      : List WBeat
  winRd     : List Req
  gate      : GateSt
  gateReq   : Bool
  gateAck   : Bool
  reopen    : Bool
  restGated : Bool
  passing   : Bool               -- the reopening gate's edge router is returning to pass mode (R267)
  ndrPin    : Option Ndr
  drsPin    : Option Drs
  bisnpPin  : Option Bisnp
  deriving DecidableEq, Repr

/-- An attachment after reset: nothing queued, no credit advertised, the gate OPEN. -/
def Att.reset : Att :=
  { reqCr := 0, rwdCr := 0, birspCr := 0, reqHold := 0, rwdHold := 0, ndrC := .reset, drsC := .reset,
    bisnpC := .reset, waitIn := [], order := [], accN := 0, barriers := [], fences := [], snooped := [], bufs := [], ndrQ := [],
    drsQ := [], bisnpQ := [], seq := 0, pulls := [], reports := [], wsIn := [], winRd := [], gate := .opened,
    gateReq := false, gateAck := false, reopen := false, restGated := false, passing := false, ndrPin := none,
    drsPin := none, bisnpPin := none }

/-! ## Slices (chapters 3, 4, 5, 7, 15) -/

/-- A directory entry (R72): STATE E or S, HD, PIN, DIRTY, CAST, AGE, the holders in ascending order (SCNT of them), and
for the POOL format the head block of its run (R76, R77). -/
structure Entry where
  line    : Line
  own     : Bool
  hd      : Bool
  pin     : Bool
  dirty   : Bool
  cast    : Bool
  age     : BitVec 4
  holders : List AgentId
  head    : Option Nat
  deriving DecidableEq, Repr

/-- What a transit entry is there for (R70, R429, R431). -/
inductive TKind where
  | spill      -- insertion of a new record: the hand of the cuckoo engine (R85)
  | update     -- rewriting its record (R86)
  | delete     -- writing its record's slot empty (R86)
  | fetch      -- a fetch of C1 and C2 (R88)
  | recall     -- a capacity recall's entry (R94)
  | reserved   -- reserved for a delete (R431)
  deriving DecidableEq, Repr

/-- A transit entry: its line and entry, the buckets read so far, reads and writes not yet complete, displacements made,
the bucket at hand, the phase (0 reads of C1 and C2, or an insertion's annex probe; 1 an insertion at its bucket;
2 written, so that only commands outstanding are awaited; 3 its annex slot is read; 4 an update's annex probe, and a recall
whose record stands in the cast store; 6 as 3, but for an entry that has been replaced meanwhile), its annex slot,
whether the way has the line's authoritative copy, so that it is not consulted, and whether the departure sweep formed it, so
that its commands come last (R89). -/
structure Transit where
  kind    : TKind
  e       : Entry
  rds     : List (Line × BucketRead)
  reads   : Nat
  writes  : Nat
  moves   : Nat
  bucket  : Line
  phase   : Nat
  annex   : Option Nat
  copied  : Bool
  swp     : Bool
  deriving DecidableEq, Repr

/-- Where a snoop stands: in the snoop-issue queue, sent and open, answered. -/
inductive SnSt where
  | queued | sent | answered
  deriving DecidableEq, Repr

/-- A snoop of a flow (R103, R153, R154): its copies whose response has not come (2 after a resend), whether it was
resent for a timeout, invalid answers seen, first issue stamp, timer start and value, and when it was answered. -/
structure Snoop where
  op       : SnpOp
  agent    : AgentId
  st       : SnSt
  copies   : Nat
  resent   : Bool
  bad      : Nat
  issued   : Nat
  timer    : Nat
  limit    : Nat
  answered : Nat
  deriving DecidableEq, Repr

/-- The transient states BUSY_x (R101, R383). -/
inductive Busy where
  | shared | own | near | cur | rsv | hatom | condwr | write | evict | inv | recall | recover
  deriving DecidableEq, Repr

/-- A snoop-response write being served inside a flow (R106). -/
structure Srw where
  agent : AgentId
  la    : AttId
  rtag  : BitVec 16
  tag   : BitVec 16
  deriving DecidableEq, Repr

/-- A transaction slot in use (R99, R100). -/
structure Slot where
  busy     : Busy
  line     : Line
  req      : Option Req
  decided  : Bool
  granted  : Bool              -- the directory holds the transition of R114
  other    : Option AgentId    -- the E holder other than the requester when the flow was decided
  snoops   : List Snoop
  srws     : List Srw
  cmdSent  : Bool              -- the flow's own READ, write or ATOMIC has been issued
  rpts     : List (BitVec 16)  -- command tags of the flow whose PORT_RPT is owed
  poison   : Bool              -- a poisoning WRITE is owed (R155, R384)
  psnTag   : Option (BitVec 16)   -- its command tag, once it has been issued
  memErr   : Bool
  rsvOk    : Bool              -- a COND_WR whose reservation stood
  ndrSent  : Bool              -- the NDR completion has been sent
  parts    : BitVec 2          -- PARTS of the completion sent; 0 owes no EGRESS_ACK
  eack     : Bool              -- an EGRESS_ACK is awaited
  partsOut : Nat               -- parts that have left the block
  eackAt   : Option Nat        -- when the last part left the block
  late     : Bool
  released : Bool              -- the line is released; the slot waits for its EGRESS_ACK or its snoops
  dead     : Bool              -- its requester is FENCED (R151)
  lostWay  : Bool              -- its entry was lost; broadcast recovery takes the line on release (R380)
  marker   : Option (BitVec 32)
  delT     : Option Nat        -- the transit entry reserved for a delete (R431)
  fetchT   : Option Nat        -- the fetch its lookup waits for
  fetched  : Bool              -- a recovery's fetch has returned
  chained  : Bool
  esc      : Bool
  deriving DecidableEq, Repr

/-- What a hand-over hands the line to (R134, R138, R152), or the flow of a slot that goes on with it: one that waited for a
transit entry for its delete (R431). -/
inductive Heir where
  | waiter (r : Req) (esc : Bool)
  | sweep
  | flow (slot : Nat)
  deriving DecidableEq, Repr

/-- A pass of a slice, by what it works on (R129, R375). -/
inductive Pass where
  | newReq (r : Req)
  | write (r : Req)
  | rsp (m : RspMsg)
  | rpt (r : PortRpt)
  | handOver (l : Line) (h : Heir)
  | castRd (transit : Nat) (addr : Line) (rd : BucketRead)
  | castWr (c : CastCmd) (st : MemStatus)
  | escRetry
  | recallStart (transit : Nat)
  | recoverStart (l : Line) (marker : Option (BitVec 32))
  | sweepStep (finds : List (BitVec 4 × Ecc))
  | scrubStep (finds : List (BitVec 4 × Ecc)) (bad : List (BitVec 20))
  | rebuildStep
  | admitStep (bucket : BitVec 12)
  | writeBack (bucket : BitVec 12)
  deriving DecidableEq, Repr

/-- A message of the INT class at a slice (R129). -/
inductive IntMsg where
  | rpt (r : PortRpt)
  | castRd (transit : Nat) (addr : Line) (rd : BucketRead)
  | castWr (c : CastCmd) (st : MemStatus)
  | handOver (l : Line) (h : Heir)
  | escRetry
  | recallStart (transit : Nat)
  | recoverStart (l : Line) (marker : Option (BitVec 32))
  | replay (p : Pass) (n : Nat)
  deriving DecidableEq, Repr

/-- A conflict chain (R137): its line, the escalated request in its reserved slot, its ordinary waiters in order. -/
structure Chain where
  line    : Line
  esc     : Option Req
  waiters : List Req
  deriving DecidableEq, Repr

/-- What waits for a line ahead of its chain (R124, R152, R383), or holding its line for a resource (R431). -/
inductive Job where
  | recall (transit : Nat)
  | recover (marker : Option (BitVec 32))
  | sweep
  | flow (slot : Nat)
  deriving DecidableEq, Repr

/-- An escalation ticket (R140, R142): when it was issued, since when it has been the oldest waiting while a slot was free,
whether its request is in the slice, and whether it has been presented since then. -/
structure Ticket where
  agent  : AgentId
  tag    : BitVec 16
  issued : Nat
  since  : Option Nat
  inside : Bool
  shown  : Bool
  deriving DecidableEq, Repr

/-- A resource that a pass has freed while an escalated request waits for it (R141): a chain, the reserved waiter slot of a
chain, a way by its key, a transit entry, a pool run by its head and length. -/
inductive Res where
  | chain (n : Nat)
  | seat (n : Nat)
  | way (k : Nat)
  | transit (t : Nat)
  | run (h n : Nat)
  deriving DecidableEq, Repr

/-- What a scan of the cast store has read (R59, R92, R93): reads outstanding, and the buckets that have come. -/
structure ScanRd where
  out : Nat
  rds : List (Line × BucketRead)
  deriving DecidableEq, Repr

/-- A scan that has read nothing. -/
def ScanRd.reset : ScanRd := { out := 0, rds := [] }

/-- A home reservation (R207). -/
structure Rsv where
  agent : AgentId
  line  : Line
  setAt : Nat
  deriving DecidableEq, Repr

/-- An agent in the departure scan (R59): where the scan stood when it joined, whether the circle from there is complete,
and the partitions gained since that the scan has still to visit for it (R296). -/
structure Swept where
  agent : AgentId
  start : Nat
  whole : Bool
  extra : List (BitVec 12)
  deriving DecidableEq, Repr

/-- A bucket in bypass (R93): the next record bucket its admission scan reads. -/
structure Bypass where
  bucket : BitVec 12
  next   : Nat
  deriving DecidableEq, Repr

/-- One slice. -/
structure Slice where
  active    : Bool
  dir       : Store (Option Entry)
  transit   : Store (Option Transit)
  ageClock  : BitVec 4
  lookups   : Nat
  sil       : Store (BitVec 4)
  rebuild   : Option Nat
  recount   : Bool                       -- the rebuild of a carried start also counts the records (R82, R97)
  bypass    : List Bypass
  permByp   : List (BitVec 12)
  recN      : Store Nat                  -- records of each bucket (R97, R296)
  inserting : Option Nat
  recalls   : Nat
  wb        : List Req
  rsp       : List RspMsg
  int       : List IntMsg
  new       : List Req
  ptr       : BitVec 2
  bgWait    : Nat
  slots     : Store (Option Slot)
  handing   : List Line
  chains    : Store (Option Chain)
  jobs      : List (Line × Job)
  jobPark   : List (Line × Job)          -- holding their line, waiting for a slot or for one of the 2 recoveries
  escPark   : List (Line × Req)          -- escalated waiters holding their line until a resource frees (R135)
  recallQ   : List Nat                   -- transit entries whose recall would be a fifth (R94)
  locks     : List (Line × Nat)          -- buckets with an access: the transit entry that reads, 17 for a write (R85, R88)
  castQ     : List CastCmd               -- accesses that wait for an earlier one to their bucket (R88)
  snpQ      : Store (List (BitVec 10 × AgentId))
  roster    : List Ticket
  escSlots  : List Req
  kept      : List (Res × AgentId × BitVec 16)   -- resources reserved for an escalated request, by AGENT and TAG (R141)
  stopped   : Bool
  rsvs      : List Rsv
  pred      : Store (BitVec 3)
  decayAt   : Nat                        -- the last decay boundary, and the period that runs from it (R213, R235)
  decayPer  : Nat
  decayPos  : Option Nat                 -- the counter that a decay halves next
  scanPos   : Nat
  scanRds   : Store ScanRd
  swept     : List Swept
  sweepWait : List AgentId
  scrubSet  : BitVec 12
  vic       : Ecc                        -- what the code of a way gives that the pass at work evicts (R379)
  moveHold  : List Req
  sampCnt   : Nat
  sampOvf   : Bool
  sampSeq   : BitVec 32
  sampFly   : Nat
  calQ      : List (Obs (AgentId × Nat × Nat))   -- samples for the calibration engine: agent, round trip, arrival stamp
  calLast   : Option (Obs (AgentId × Nat × Nat)) -- the last that was read from the queue (R261)
  nextTag   : BitVec 16
  deriving DecidableEq, Repr

/-- A slice after reset: active, every array empty, every counter 0; the sampling countdown stands at the reset value of
PERIOD (R349), the decay period at that of DECAY. The age clock and its lookups at 0: DESIGN CHOICE, log 54. -/
def Slice.reset : Slice :=
  { active := true, dir := [], transit := [], ageClock := 0, lookups := 0, sil := [], rebuild := none,
    recount := false, bypass := [], permByp := [], recN := [], inserting := none, recalls := 0, wb := [], rsp := [],
    int := [], new := [], ptr := 0, bgWait := 0, slots := [], handing := [], chains := [], jobs := [],
    jobPark := [], escPark := [], recallQ := [], locks := [], castQ := [],
    snpQ := [], roster := [], escSlots := [], kept := [], stopped := false, rsvs := [], pred := [], decayAt := 0, decayPer := 0x28,
    decayPos := none, scanPos := 0, scanRds := [], swept := [], sweepWait := [], scrubSet := 0, vic := .clean, moveHold := [], sampCnt := 0x400, sampOvf := false,
    sampSeq := 0, sampFly := 0, calQ := [], calLast := none, nextTag := 0 }

/-! ## Memory ports (chapters 6, 8) -/

/-- ST of an HLB way that is not INVALID (R161). -/
inductive HSt where
  | clean | dirty | mirror
  deriving DecidableEq, Repr

/-- Why a write-back is issued (R168). -/
inductive WbWhy where
  | sweep | flush | pressure | maint | age
  deriving DecidableEq, Repr

/-- An HLB way that is not INVALID (R161); `wb` counts its write-backs in flight (R167), so WBF is `wb ≠ 0`; `inv`
marks a way that CLEAN_INV makes INVALID when its write-back completes (R179), `rew` one to be written back again when
the write-backs in flight have completed (R172). -/
structure Way where
  line    : Line
  st      : HSt
  mway    : BitVec 4
  lwr     : AgentId
  epoch   : BitVec 4
  redirty : Bool
  psn     : Bool
  pf      : Bool
  wb      : Nat
  inv     : Bool
  rew     : Option WbWhy
  lost    : Bool                 -- its tag and its mirror's have failed: the address is unknown (R175)
  stag    : BitVec 8
  data    : LineData
  deriving DecidableEq, Repr

/-- What an MCMD command is for, and so what its answer completes (R220, R230, R432). `counted` marks a write-through that
counts as its line's write-back, which is known when it is issued (R167, R176); `old` is the old value an ATOMIC returns once its result has been sent
(R122); `drop` marks a prefetch read whose line a write has reached (R165). -/
inductive Purpose where
  | demandRead (c : MemCmd)
  | fill (c : MemCmd) (w : WBeat) (early : Bool)   -- the line for a WRITE_PARTIAL or ATOMIC, EARLY_ACK as it was accepted (R198)
  | prefetch (drop : Bool)
  | through (c : MemCmd) (counted : Bool) (old : Option (LineData × Bool))
  | psnWrite (c : MemCmd) (counted again : Bool)   -- a poisoning WRITE written through
  | back (why : WbWhy) (again : Bool)
  | castRd (c : CastCmd)
  | castWr (c : CastCmd)
  | header (again : Bool)                     -- a header, agent-image or clear write of the header logic
  | headerRd                                  -- a header or agent-image read of the header logic (R82)
  | fence (la : AttId) (entry : BitVec 2)
  | save
  | restore
  | grant
  deriving DecidableEq, Repr

/-- A command for the memory side: its purpose, line, for a WRITE its data, poison and stream tag, and for a media read
since when a drain or a window has held it (R241). A write-back takes its data when it is issued (R167). -/
structure MCmd where
  why  : Purpose
  line : Line
  data : Option (LineData × Bool)
  stag : BitVec 8
  held : Option Nat
  deriving DecidableEq, Repr

/-- A fence joined to a port's sweep (R171): whose it is and how many sets are left; 0 left and `closing` waits for the
write-backs queued before it and for the reissues its steps decided (R172). -/
structure JoinedFence where
  la      : AttId
  entry   : BitVec 2
  agent   : AgentId
  left    : Nat
  rews    : List Line
  closed  : Bool
  deriving DecidableEq, Repr

/-- A prefetch tracker (R177); the list of trackers is kept most recently used first. -/
structure Tracker where
  agent  : AgentId
  page   : BitVec 34
  off    : BitVec 6
  stride : Int
  count  : Nat
  deriving DecidableEq, Repr

/-- A maintenance operation in progress (R179), and the lines whose write-backs it waits for. -/
structure Maint where
  op     : BitVec 2
  setway : Bool
  all    : Bool
  lo     : Line
  hi     : Line
  set    : BitVec 10
  way    : BitVec 4
  next   : Nat
  waits  : List Line
  deriving DecidableEq, Repr

/-- Where a port's easy-oar window stands (R237 to R240). -/
inductive WinSt where
  | none
  | drain (grantedAt wlen : Nat) (pair owner : Bool)
  | window (openedAt : Nat) (wlen : Nat)
  deriving DecidableEq, Repr

/-- A pending WINDOW_REQ (R237): its length, PAIR, age, and whether it starves (R238). -/
structure WinReq where
  wlen  : Nat
  pair  : Bool
  since : Nat
  starv : Bool
  deriving DecidableEq, Repr

/-- HLB_STAT.MODE (R185). -/
inductive HMode where
  | enabled | disabling | disabled
  deriving DecidableEq, Repr

/-- One memory port. -/
structure Port where
  ways      : Store (Option Way)
  plru      : Store (BitVec 15)
  hmode     : HMode
  flushing  : Bool
  epoch     : BitVec 4
  period    : Nat
  epochAt   : Nat
  agePos    : Nat
  fences    : List JoinedFence
  sweepReqs : List JoinedFence
  sweepPos  : BitVec 10
  scrubSet  : BitVec 10
  trackers  : List Tracker
  maint     : Option Maint
  intake    : List MemCmd
  castIn    : List CastCmd
  beats     : List WBeat
  waitq     : List MCmd
  outq      : Store (Option MCmd)
  mcmdC     : Credits
  mwdataC   : Credits
  tokens    : Nat
  scanTokens  : Nat              -- the quarter of the cap that the rebuild and admission scans share, in quarters of a token (R89)
  sweepTokens : Nat              -- the quarter of the departure sweep (R59)
  winReq    : Option WinReq
  win       : WinSt
  winEnd    : Option Nat
  saving    : Bool
  saved     : Bool
  saveErr   : Bool
  restoring : Bool
  wbLast    : Bool               -- the last MWDATA slot went to a sweep or flush write-back (R170)
  gate      : GateSt
  rsIn      : List RBeat
  mcmdPin   : Option (BitVec 64)
  mwdataPin : Option (BitVec 8 × LineData × Bool)
  deriving DecidableEq, Repr

/-- A port after reset: every way INVALID, nothing outstanding, no credit advertised. PERIOD's reset value rules the
first epoch, which begins at timebase 0 (R169, R185; DESIGN CHOICE, log 60). -/
def Port.reset : Port :=
  { ways := [], plru := [], hmode := .enabled, flushing := false, epoch := 0, period := 0x40, epochAt := 0, agePos := 0,
    fences := [], sweepReqs := [], sweepPos := 0, scrubSet := 0, trackers := [], maint := none,
    intake := [], castIn := [], beats := [], waitq := [], outq := [], mcmdC := .reset, mwdataC := .reset, tokens := 0, scanTokens := 0, sweepTokens := 0,
    winReq := none, win := .none, winEnd := none, saving := false, saved := false, saveErr := false, restoring := false, wbLast := false,
    gate := .opened, rsIn := [], mcmdPin := none, mwdataPin := none }

/-! ## Armature (chapter 9) -/

/-- A packet of the Armature (R249): the plane and lane it travels in, its destination router, its header message and the
data messages that follow it. -/
structure Pkt where
  plane : Bool
  lane  : Nat
  dest  : Nat
  hdr   : BitVec 128
  more  : List (BitVec 128)
  deriving DecidableEq, Repr

/-- The receiving side of a link and plane (R253): the sequence number expected, whether flits are discarded until it
arrives, and whether the next flit on the reverse link carries NAK. -/
structure LinkRx where
  expect  : BitVec 6
  skip    : Bool
  nakDue  : Bool
  deriving DecidableEq, Repr

/-- The sending side of a link and plane (R254): the number of its next flit, the replay buffer, the flits on the wire that
the neighbour has not received, and how often in a row the same flit was named by a NAK. -/
structure LinkTx where
  next   : BitVec 6
  replay : List Flit
  wire   : List Flit
  nakSeq : BitVec 6
  naks   : Nat
  deriving DecidableEq, Repr

/-- One router: its links; its lane buffers by input and lane, and the last flit read from each lane (R252, R261); the link
credits it has spent on each output and lane, and those it withholds from each input and lane (R252, R255); where the
rotating grants of its outputs stand (R247); BOUNCE, the reconfiguration that runs and the one that follows it (BOUNCE and
CRC_LIM), and its probes' counts with their latched high words. -/
structure Router where
  rx       : Store LinkRx
  tx       : Store LinkTx
  bufs     : Store (List Flit)
  lastRead : Store Flit
  spent    : Store Nat
  owed     : Store Nat
  inTurn   : Store Nat
  laneTurn : Store Nat
  bounce  : BitVec 4
  reconf  : Option (BitVec 4 × BitVec 4)
  reconf2 : Option (BitVec 4 × BitVec 4)
  prb0    : BitVec 48
  prb1    : BitVec 48
  latch0  : BitVec 16
  latch1  : BitVec 16
  deriving DecidableEq, Repr

/-- The reset value of a link's receiving side. -/
def LinkRx.reset : LinkRx := { expect := 0, skip := false, nakDue := false }

/-- The reset value of a link's sending side. -/
def LinkTx.reset : LinkTx := { next := 0, replay := [], wire := [], nakSeq := 0, naks := 0 }

/-- A router after reset. -/
def Router.reset : Router :=
  { rx := [], tx := [], bufs := [], lastRead := [], spent := [], owed := [], inTurn := [], laneTurn := [], bounce := 0,
    reconf := none, reconf2 := none, prb0 := 0, prb1 := 0, latch0 := 0, latch1 := 0 }

/-- A message on its way back to its sender (R266, R297). -/
inductive Bounced where
  | snoop (la : AttId) (b : Bisnp)
  | ndr (la : AttId) (n : Ndr)
  | pull (la : AttId) (p : Pull)
  | rpt (la : AttId) (f : FenceRpt)
  | sweep (m : PortId) (f : JoinedFence)
  | cmd (m : PortId) (c : MemCmd)
  | cast (m : PortId) (c : CastCmd)
  | rehome (r : Req)
  deriving DecidableEq, Repr

/-- The pointers of a crossing queue (R258): the write and the read pointer, and as Gray codes the stages of the three-stage
synchronisers that carry each to the other side, oldest last. -/
structure Cross where
  wr     : BitVec 8
  rd     : BitVec 8
  wrSync : List (BitVec 8)
  rdSync : List (BitVec 8)
  deriving DecidableEq, Repr

/-- A crossing queue after reset. -/
def Cross.reset : Cross := { wr := 0, rd := 0, wrSync := [0, 0, 0], rdSync := [0, 0, 0] }

/-- A domain's timebase follower (R257): its value, and since when its clock runs. -/
structure Follower where
  value : Nat
  since : Option Nat
  deriving DecidableEq, Repr

/-- A follower whose clock has not been seen. -/
def Follower.reset : Follower := { value := 0, since := none }

/-- The Armature's state: routers, the packets that the units of each router have yet to bring into their local port, the
pointers of the crossing queues, the timebase followers, trace rings and trace out, messages on their way back, commands kept
for a closed gate, and the arbiters of the DXB's outputs (R22). -/
structure Mesh where
  routers  : Store Router
  inj      : Store (List Pkt)
  cross    : Store Cross
  follow   : Store Follower
  traceQ   : List (BitVec 256)
  rings    : Store (List (BitVec 256))
  ringTurn : Nat
  tracePin : Option (BitVec 256)
  bounced  : List Bounced
  parked   : List Bounced
  rdPtr    : Store Nat
  wrPtr    : Store Nat
  deriving DecidableEq, Repr

/-- The Armature after reset. -/
def Mesh.reset : Mesh :=
  { routers := [], inj := [], cross := [], follow := [], traceQ := [], rings := [], ringTurn := 0, tracePin := none, bounced := [], parked := [], rdPtr := [], wrPtr := [] }

/-! ## Home map, cast-store header (chapters 3, 10) -/

/-- Where a bucket's move stands (R296). -/
inductive MoveSt where
  | waiting
  | marked
  | handed                       -- written back; HANDOVER sent
  | updating (acks : List (BitVec 4))
  deriving DecidableEq, Repr

/-- A bucket move (R295, R296). -/
structure Move where
  bucket : BitVec 12
  src    : SliceId
  dst    : SliceId
  st     : MoveSt
  mask   : List AgentId
  deriving DecidableEq, Repr

/-- The home map (R294, R300): the count it was set to at CALIBRATE (before that every bucket reads slice 0), the
buckets moved since, and the moves in progress. -/
structure HMap where
  init   : Option (BitVec 2)
  moved  : Store (Option SliceId)
  epoch  : BitVec 16
  count  : BitVec 2
  moves  : List Move
  resize : Option (BitVec 2)
  sets   : List (BitVec 4 × BitVec 12 × SliceId × BitVec 16)
  acks   : List (BitVec 4 × BitVec 12 × BitVec 16)
  hands  : List (SliceId × BitVec 12 × Nat × List AgentId)
  edges  : Store (Option SliceId)
  deriving DecidableEq, Repr

/-- The home map after reset (R300: every bucket reads slice 0, EPOCH 0). -/
def HMap.reset : HMap :=
  { init := none, moved := [], epoch := 0, count := 0, moves := [], resize := none, sets := [], acks := [], hands := [],
    edges := [] }

/-- The cast-store header logic (R81, R82). -/
structure CastHdr where
  gen     : BitVec 7
  dsc     : BitVec 32
  carried : Bool
  init    : Bool
  hdrNew  : Bool
  done    : Bool                 -- the header has been processed at this start
  clean   : Bool                 -- CLEAN of the header as last written by the block
  writes  : Nat                  -- header, image and clear writes not yet complete
  clear   : Option Nat           -- the bucket of the region that a running clear writes (R82)
  deriving DecidableEq, Repr

/-- The header logic after reset (R96). -/
def CastHdr.reset : CastHdr :=
  { gen := 0, dsc := 0, carried := false, init := false, hdrNew := false, done := false, clean := false, writes := 0,
    clear := none }

/-! ## Modes, Plinth, boot (chapters 10, 11, 14, 17) -/

/-- The modes (R277). -/
inductive Mode where
  | off | boot | calibrate | serve | shed | quiesce | rest | hold
  deriving DecidableEq, Repr

/-- The mode logic, the shed actuator and the reset sequencer. -/
structure Modes where
  mode       : Mode
  level      : BitVec 3
  drained    : Bool
  drainStep  : Nat
  restPhase  : BitVec 3
  restReqd   : Bool              -- REST entry accepted and running
  restStart  : Nat
  restLimit  : Bool              -- the REST drain limit has passed
  warm       : Option Nat        -- a warm reset's drain runs since then
  warmPin    : Bool              -- vh_rst_warm_n asserted
  warmDone   : Bool              -- the internal warm reset has taken effect
  coldPin    : Bool
  aonPin     : Bool
  pwrFail    : Bool
  droops     : Store (BitVec 8)
  alert      : Bool
  levelSince : Nat               -- since when the 100 µs of R290 run
  wakeLatch  : BitVec 2
  calWindows : Nat               -- calibration windows ended since CALIBRATE began
  arraysClr  : Bool              -- the arrays are clear (R416)
  bistBusy   : Bool
  bistUndef  : Bool              -- BIST left the arrays undefined (R424)
  cleanWr    : Bool              -- CLEAN 1 was written since admission last opened
  afterWarm  : Bool              -- this start follows a warm reset (R82)
  railCore   : Bool
  railSram   : Bool
  railAon    : Bool
  gatePos    : Nat               -- edges of clk_core since the gate of L3 began, modulo 4 (R26, R289)
  deriving DecidableEq, Repr

/-- The mode logic after reset: BOOT, level 0 (R299), every reset released, every rail good. -/
def Modes.reset : Modes :=
  { mode := .boot, level := 0, drained := false, drainStep := 0, restPhase := 0, restReqd := false, restStart := 0,
    restLimit := false, warm := none, warmPin := false, warmDone := false, coldPin := false,
    aonPin := false, pwrFail := false, droops := [], alert := false, levelSince := 0, wakeLatch := 0,
    calWindows := 0, arraysClr := false, bistBusy := false, bistUndef := false, cleanWr := false, afterWarm := false,
    railCore := true, railSram := true, railAon := true, gatePos := 0 }

/-- Output pins that are not channel bundles (R410, R418). -/
structure Pins where
  fatalOut  : Bool
  thermTrip : Bool
  wakeOut   : Bool
  coreOffOk : Bool
  lnkOffOk  : BitVec 16
  memOffOk  : BitVec 16
  bistDone  : Bool
  bistFail  : Bool
  spi       : List (BitVec 8 × Nat × List Byte)   -- the SPI commands last sent: kind, flash address, bytes
  deriving DecidableEq, Repr

/-- The pins after reset: all low. -/
def Pins.reset : Pins :=
  { fatalOut := false, thermTrip := false, wakeOut := false, coreOffOk := false, lnkOffOk := 0, memOffOk := 0,
    bistDone := false, bistFail := false, spi := [] }

/-- The Plinth: timebase, wake and operating hours, and the samples of the static inputs (R361, R368 to R370, R422). -/
structure Plinth where
  now       : Nat
  hiLatch   : Word32
  slew      : Int
  slewNext  : Nat                -- since when the next slewing cycle may come (R369)
  lastPulse : Option Nat
  active    : Word32
  rest      : Word32
  retM      : BitVec 24
  restEntry : Nat
  straps    : BitVec 16
  keyHash   : BitVec 384
  keyValid  : Bool
  svnFloor  : BitVec 16
  dbgPin    : Bool
  deriving DecidableEq, Repr

/-- The Plinth after aon reset. -/
def Plinth.reset : Plinth :=
  { now := 0, hiLatch := 0, slew := 0, slewNext := 0, lastPulse := none, active := 0, rest := 0, retM := 0, restEntry := 0, straps := 0,
    keyHash := 0, keyValid := true, svnFloor := 0, dbgPin := false }

/-- Where the loader stands (R301). -/
inductive BootSt where
  | held                         -- a reset is in effect: BOOT has not begun
  | start | discovered | checked | body | done | failed
  deriving DecidableEq, Repr

/-- A record in progress that takes time (R310). -/
inductive BootWait where
  | none
  | poll (addr : RegAddr) (mask value : Word32) (since limit : Nat)
  | wait (till : Nat)
  deriving DecidableEq, Repr

/-- The Maquette loader; `dummy` and `modeBits` go with the read mode that discovery chose (R302). -/
structure Boot where
  st      : BootSt
  dummy    : BitVec 8
  modeBits : BitVec 8
  slot    : Bool                 -- the slot being tried: false A, true B
  tried   : List Bool
  goodA   : Bool                 -- slot A's header passed R306 apart from its signature
  goodB   : Bool
  hdrA    : List Byte
  hdrB    : List Byte
  anchor  : BitVec 17
  bufs    : List (List Word32)   -- block buffers read and checked, oldest first; at most 2
  blocks  : Nat                  -- body blocks read of the slot
  index   : Nat                  -- next word of the first buffer
  base    : Nat                  -- number of the block in the first buffer
  ended   : Bool                 -- END has been processed
  body    : List Byte            -- body bytes read so far, for BODY_HASH
  waiting : BootWait
  held    : List (RegAddr × Word32)
  start   : Nat                  -- cold-reset release on the timebase
  coxLen  : Nat
  coxHash : BitVec 384
  deriving DecidableEq, Repr

/-- The loader after reset. -/
def Boot.reset : Boot :=
  { st := .start, dummy := 0, modeBits := 0, slot := false, tried := [], goodA := false, goodB := false, hdrA := [], hdrB := [], anchor := 0,
    bufs := [], blocks := 0, index := 0, base := 0, ended := false, body := [], waiting := .none, held := [], start := 0,
    coxLen := 0, coxHash := 0 }

/-! ## Events, counters, Cox (chapters 12 to 14) -/

/-- An event source (R325 to R327, R334); `edge` remembers an edge that arrived while it was ACTIVE. -/
structure EvSrc where
  prio     : BitVec 8
  targets  : BitVec 8
  trig     : Bool                -- true: edge
  pending  : Bool
  active   : Bool
  claimant : BitVec 3
  input    : Bool
  edge     : Bool
  deriving DecidableEq, Repr

/-- The event controller: sources, the event messages on their way, the global sources' changes to be sampled, and the
value the last read of CLAIM_n returned. -/
structure Events where
  srcs  : Store EvSrc
  msgs  : List (BitVec 11 × Bool)
  globs : List (BitVec 11 × Bool)
  claim : BitVec 12
  deriving DecidableEq, Repr

/-- The event controller after reset. -/
def Events.reset : Events := { srcs := [], msgs := [], globs := [], claim := 0xFFF }

/-- An event counter (R336 to R339, R350). -/
structure Counter where
  value  : BitVec 48
  latch  : BitVec 16
  preset : BitVec 48
  reload : Bool
  sample : Bool
  armed  : Bool
  ovf    : Bool
  deriving DecidableEq, Repr

/-- A counter after reset: 0, PRESET 1 (R350). -/
def Counter.reset : Counter :=
  { value := 0, latch := 0, preset := 1, reload := false, sample := false, armed := false, ovf := false }

/-- A domain cycle counter (R337, R349). -/
structure Dcyc where
  value : BitVec 48
  latch : BitVec 16
  deriving DecidableEq, Repr

/-- A domain cycle counter after reset. -/
def Dcyc.reset : Dcyc := { value := 0, latch := 0 }

/-- The snapshot procedure and its SRAM (R341, R342, R351). -/
structure Snap where
  busy : Option Nat
  left : List (Fin 40)
  miss : BitVec 40
  late : BitVec 40
  idle : Bool
  done : Bool
  t    : BitVec 64
  seq  : BitVec 32
  cnts : Store (BitVec 48)
  doms : Store (BitVec 48 × BitVec 64)
  behind : Bool                  -- T had passed when the snapshot was started (R342)
  deriving DecidableEq, Repr

/-- The snapshot after reset. -/
def Snap.reset : Snap :=
  { busy := none, left := [], miss := 0, late := 0, idle := false, done := false, t := 0, seq := 0, cnts := [],
    doms := [], behind := false }

/-- Counters, DCYC, snapshot and the sample ring. -/
structure Counts where
  cnts   : Store Counter
  dcyc   : Store Dcyc
  frozen : Bool
  snap   : Snap
  recQ   : List (Obs (BitVec 512))
  recLast : Option (Obs (BitVec 512))   -- the last that was read from the queue (R261)
  ring   : Store (BitVec 512)
  deriving DecidableEq, Repr

/-- The counter logic after reset. -/
def Counts.reset : Counts :=
  { cnts := [], dcyc := [], frozen := false, snap := .reset, recQ := [], recLast := none, ring := [] }

/-- An open update (R366). -/
structure Upd where
  ch     : MbxCh
  target : Bool
  hdr    : List Byte
  deriving DecidableEq, Repr

/-- Cox and its peripherals. -/
structure Cox where
  running  : Bool
  restart  : Bool
  wdtFrom  : Nat
  sram     : List Byte
  h2cTaken : List Byte
  s2c      : List Byte
  s2cTaken : List Byte
  c2h      : List Byte
  c2s      : List Byte
  s2cFull  : Bool
  c2sReady : Bool
  h2cFull  : Bool
  c2hReady : Bool
  sbOut    : List Byte
  log      : Store (BitVec 256)
  logSeq   : BitVec 32
  logQ     : List (Obs LogRec)
  logLast  : Option (Obs LogRec)        -- the last that was read from the queue (R261)
  upd      : Option Upd
  clkPres  : BitVec 40
  deriving DecidableEq, Repr

/-- Cox after reset: held in reset, nothing posted. -/
def Cox.reset : Cox :=
  { running := false, restart := false, wdtFrom := 0, sram := [], h2cTaken := [], s2c := [], s2cTaken := [], c2h := [],
    c2s := [], s2cFull := false, c2sReady := false, h2cFull := false, c2hReady := false, sbOut := [], log := [],
    logSeq := 0, logQ := [], logLast := none, upd := none, clkPres := 0 }

/-- STATUS of a register response (R318). -/
inductive RegSt where
  | ok | collided | notReady
  deriving DecidableEq, Repr

/-- A register response (R318). -/
structure RegRsp where
  data   : Word32
  status : RegSt
  deriving DecidableEq, Repr

/-- The state of the block. -/
structure State where
  pending : List Instr
  modes   : Modes
  plinth  : Plinth
  pins    : Pins
  boot    : Boot
  regs    : Store Word32
  hostRsp : Option RegRsp
  hostOut : List RegRsp          -- responses that the host has yet to take, in request order (R319)
  coxRsp  : Option RegRsp
  agents  : Store Agent
  hists   : Store Hist
  atts    : Store Att
  slices  : Store Slice
  ports   : Store Port
  mesh    : Mesh
  hmap    : HMap
  cast    : CastHdr
  events  : Events
  counts  : Counts
  cox     : Cox
  calAt   : Nat
  freeCtr : Nat
  castMem : Store (Option LineData)   -- the lines of the cast-store region as the block has last written them, by line address
  deriving DecidableEq, Repr

/-- Why the machine stops with a fault. -/
inductive Fault where
  /-- Raised by the message commands of a link attachment when its gate is not OPEN and it has raised its gate
  acknowledgement: R265 binds the attachment to send nothing then, and R9 gives no promise where an obligation is
  broken. Safe: the model stops where the manual promises nothing. -/
  | noPromise
  deriving DecidableEq, Repr

/-- Why the machine has no next state for a command. -/
inductive Refusal where
  /-- A command that has no meaning in the model yet; raised by the dispatch alone. Safe. -/
  | notModelled (mnemonic : String)
  /-- A term that is no command of the block (a flash header of other than 512 bytes, a message of more than 64 bytes):
  raised by the meanings of the commands that carry lists. Safe. -/
  | illFormed
  deriving DecidableEq, Repr

/-- The machine right after reset: BOOT begins, every field at the value its chapter gives for reset. -/
def State.reset : State :=
  { pending := [], modes := .reset, plinth := .reset, pins := .reset, boot := .reset, regs := [], hostRsp := none, hostOut := [],
    coxRsp := none, agents := [], hists := [], atts := [], slices := [], ports := [], mesh := .reset, hmap := .reset,
    cast := .reset, events := .reset, counts := .reset, cox := .reset, calAt := 1000000, freeCtr := 0,
    castMem := [] }

end Sys2Proof.Machine
end

