-- ==== Sys2Proof/Machine/Operands.lean ====
section
/-! DEFINITION. The operand forms: the hashes and maps of a line address, agent sets, byte merging, the atomic
operations, checksums, and words of the formats of the manual. -/

namespace Sys2Proof.Machine

/-! ## Line addresses -/

/-- rotlN of a 12-bit value (chapter 3). -/
def rotl12 (n : Nat) (x : BitVec 12) : BitVec 12 := x.rotateLeft n

/-- SET(L) (R71). -/
def setOf (l : Line) : BitVec 12 :=
  rotl12 7 (l.extractLsb' 0 12) ^^^ l.extractLsb' 12 12 ^^^ rotl12 2 (l.extractLsb' 24 12)
    ^^^ (l.extractLsb' 36 4).setWidth 12

/-- B(L) (R79). -/
def bucketOf (l : Line) : BitVec 12 :=
  l.extractLsb' 0 12 ^^^ rotl12 1 (l.extractLsb' 12 12) ^^^ rotl12 5 (l.extractLsb' 24 12)
    ^^^ (l.extractLsb' 36 4).setWidth 12

/-- PIDX(L) (R211). -/
def pidxOf (l : Line) : BitVec 10 :=
  l.extractLsb' 0 10 ^^^ (l.extractLsb' 10 10).rotateLeft 3 ^^^ l.extractLsb' 20 10 ^^^ l.extractLsb' 30 10

/-- HSET(L) (R160). -/
def hsetOf (l : Line) : BitVec 10 :=
  l.extractLsb' 0 10 ^^^ l.extractLsb' 10 10 ^^^ l.extractLsb' 20 10 ^^^ l.extractLsb' 30 10

/-- PORT(L) (R224): the sum of the eight 5-bit fields of L modulo 32. -/
def portOf (l : Line) : PortId :=
  l.extractLsb' 0 5 + l.extractLsb' 5 5 + l.extractLsb' 10 5 + l.extractLsb' 15 5
    + l.extractLsb' 20 5 + l.extractLsb' 25 5 + l.extractLsb' 30 5 + l.extractLsb' 35 5

/-- One bit step of CRC-32C, reflected (R84). -/
def crc32cBit (c : BitVec 32) : BitVec 32 := if c.getLsbD 0 then (c >>> 1) ^^^ 0x82F63B78 else c >>> 1

/-- One byte of CRC-32C, reflected (R84). -/
def crc32cByte (c : BitVec 32) (b : Byte) : BitVec 32 :=
  crc32cBit (crc32cBit (crc32cBit (crc32cBit (crc32cBit (crc32cBit (crc32cBit (crc32cBit (c ^^^ b.setWidth 32))))))))

/-- CRC-32C over bytes from a register value, with neither pre- nor post-inversion. -/
def crc32cFrom (c : BitVec 32) (bs : List Byte) : BitVec 32 := bs.foldl crc32cByte c

/-- CRC-32C of a byte string in its standard form: inverted before and after (R81, R308). DEDUCED, log 24. -/
def crc32c (bs : List Byte) : BitVec 32 := ~~~ crc32cFrom 0xFFFFFFFF bs

/-- The five bytes of a line address, least significant first (R84). -/
def lineBytes (l : Line) : List Byte := [l.extractLsb' 0 8, l.extractLsb' 8 8, l.extractLsb' 16 8, l.extractLsb' 24 8,
  l.extractLsb' 32 8]

/-- h1, h2, h3 (R84). -/
def hash1 (l : Line) : BitVec 32 := crc32cFrom 0x5EED0001 (lineBytes l)
/-- h2 (R84). -/
def hash2 (l : Line) : BitVec 32 := crc32cFrom 0x5EED0002 (lineBytes l)
/-- h3 (R84). -/
def hash3 (l : Line) : BitVec 32 := crc32cFrom 0x5EED0003 (lineBytes l)

/-- The silhouette indices k1, k2, k3 (R90). -/
def silIdx (l : Line) : List Nat :=
  [(hash1 l).toNat % 2 ^ 20, (hash2 l).toNat % 2 ^ 20, (hash1 l).toNat / 2 ^ 20 * 2 ^ 8 + (hash2 l).toNat / 2 ^ 24]

/-! ## Bytes and bit fields -/

/-- The field of `len` bits at bit `lo` of a word. -/
def bits (w : Word32) (lo len : Nat) : Nat := w.toNat / 2 ^ lo % 2 ^ len

/-- A word with the field of `len` bits at bit `lo` set to `n`, of which the low `len` bits are taken. -/
def putBits (w : Word32) (lo len n : Nat) : Word32 :=
  BitVec.ofNat 32 (w.toNat - bits w lo len * 2 ^ lo + n % 2 ^ len * 2 ^ lo)

/-- A mask of `len` ones at bit `lo`. -/
def ones (lo len : Nat) : Word32 := BitVec.ofNat 32 ((2 ^ len - 1) * 2 ^ lo)

/-- The bits a byte enable selects in a word (R402). -/
def beMask (be : BitVec 4) : Word32 :=
  (if be.getLsbD 0 then 0xFF else 0) ||| (if be.getLsbD 1 then 0xFF00 else 0) ||| (if be.getLsbD 2 then 0xFF0000 else 0)
    ||| (if be.getLsbD 3 then 0xFF000000 else 0)

/-- The enabled bytes of `new` merged into `old` (R317 step 1). -/
def mergeBe (old new : Word32) (be : BitVec 4) : Word32 := (old &&& ~~~ beMask be) ||| (new &&& beMask be)

/-- Byte k of 64 bytes. -/
def byteOf (d : LineData) (k : Nat) : Byte := d.extractLsb' (8 * k) 8

/-- The 64-byte word whose byte k is `f k`. -/
def lineOfBytes (f : Nat → Byte) : LineData :=
  (List.range 64).foldl (fun d k => d ||| ((f k).setWidth 512 <<< (8 * k))) 0

/-- The bytes `be` enables of `w` merged into `d` (R119). -/
def mergeLine (d w : LineData) (be : BitVec 64) : LineData :=
  lineOfBytes (fun k => if be.getLsbD k then byteOf w k else byteOf d k)

/-- Bytes `lo` to `lo + n - 1` of 64 bytes as a little-endian number. -/
def bytesNat (d : LineData) (lo n : Nat) : Nat := d.toNat / 2 ^ (8 * lo) % 2 ^ (8 * n)

/-- `d` with the `n` bytes at byte `lo` set to the little-endian number `v`. -/
def putBytes (d : LineData) (lo n v : Nat) : LineData :=
  BitVec.ofNat 512 (d.toNat - bytesNat d lo n * 2 ^ (8 * lo) + v % 2 ^ (8 * n) * 2 ^ (8 * lo))

/-- The bytes of 64-byte data. -/
def bytesOfLine (d : LineData) : List Byte := (List.range 64).map (byteOf d)

/-- The little-endian number of a byte list. -/
def natOfBytes : List Byte → Nat
  | [] => 0
  | b :: bs => b.toNat + 256 * natOfBytes bs

/-- `n` little-endian bytes of a number. -/
def bytesOfNat : Nat → Nat → List Byte
  | 0, _ => []
  | n + 1, v => BitVec.ofNat 8 v :: bytesOfNat n (v / 256)

/-- Bytes `lo` to `lo + n - 1` of a byte list. -/
def slice (bs : List Byte) (lo n : Nat) : List Byte := (bs.drop lo).take n

/-- The two's-complement value of a number of `n` bits. -/
def toInt (n v : Nat) : Int := if v < 2 ^ (n - 1) then (v : Int) else (v : Int) - 2 ^ n

/-! ## HATOM (R45, R214) -/

/-- The width of an atomic in bytes. -/
def atomWidth (aw : BitVec 2) : Nat := 2 ^ (aw.toNat + 2)

/-- The HATOM fields that R45 does not answer with ERROR. -/
def atomOk (q : ReqHdr) : Bool :=
  decide (q.aop.toNat ≤ 9) && decide (q.aw ≠ 3) && (decide (q.aw ≠ 2) || decide (q.aop = 5))
    && decide (q.aoff.toNat * 4 % atomWidth q.aw = 0)

/-- The new value of an atomic operation of R214 on `old` with operands A and B, at `w` bytes. -/
def atomNew (aop : BitVec 4) (w old a b : Nat) : Nat :=
  match aop.toNat with
  | 0 => (old + a) % 2 ^ (8 * w)
  | 1 => old &&& a
  | 2 => old ||| a
  | 3 => old ^^^ a
  | 4 => a
  | 5 => if old = a then b else old
  | 6 => if toInt (8 * w) a < toInt (8 * w) old then a else old
  | 7 => if toInt (8 * w) old < toInt (8 * w) a then a else old
  | 8 => if a < old then a else old
  | _ => if old < a then a else old

/-- Whether the operation writes its target bytes: a CAS that fails writes none (R214). -/
def atomWrites (aop : BitVec 4) (old a : Nat) : Bool := decide (aop ≠ 5) || decide (old = a)

/-- An ATOMIC on a line: the old value as the bytes of DATA (R44), and the line after it. -/
def atomRun (aop : BitVec 4) (aw : BitVec 2) (aoff : BitVec 4) (line ops : LineData) : LineData × LineData :=
  let w := atomWidth aw
  let at_ := aoff.toNat * 4
  let old := bytesNat line at_ w
  let a := bytesNat ops 0 w
  let b := bytesNat ops 16 w
  (BitVec.ofNat 512 old, if atomWrites aop old a then putBytes line at_ w (atomNew aop w old a b) else line)

/-! ## Agent sets: ascending lists without repeats -/

/-- A set with an agent added, ascending. -/
def addAgent (a : AgentId) : List AgentId → List AgentId
  | [] => [a]
  | b :: bs => if a < b then a :: b :: bs else if a = b then b :: bs else b :: addAgent a bs

/-- The number of 64-agent groups a holder set spans (R77). -/
def groupsOf (h : List AgentId) : Nat := ((h.map (fun a => a.toNat / 64)).eraseDups).length

/-- The pool blocks a holder set needs (R76, R77): none up to 4 holders. -/
def poolBlocks (h : List AgentId) : Nat :=
  if h.length ≤ 4 then 0 else if groupsOf h ≤ 7 then 1 else 1 + (groupsOf h - 7 + 7) / 8

/-! ## The home map (R294) -/

/-- The number of active slices an encoding names (R294). -/
def countOf (n : BitVec 2) : Nat := 64 - 16 * n.toNat

/-- Whether slice s is in A_n (R294). -/
def inActive (n : BitVec 2) (s : Nat) : Bool :=
  match n.toNat with
  | 0 => true
  | 1 => decide (s % 4 ≠ 3)
  | 2 => decide (s % 2 = 0)
  | _ => decide (s % 4 = 0)

/-- A_n in ascending order. -/
def actives (n : BitVec 2) : List Nat := (List.range 64).filter (inActive n)

/-- I_n in ascending order. -/
def inactives (n : BitVec 2) : List Nat := (List.range 64).filter (fun s => !inActive n s)

/-- T_n(b) (R294). -/
def targetHome (n : BitVec 2) (b : BitVec 12) : SliceId :=
  let s := b.toNat % 64
  let k := b.toNat / 64
  if inActive n s then BitVec.ofNat 6 s
  else BitVec.ofNat 6 ((actives n).getD ((k + 64 * (inactives n).idxOf s) % countOf n) 0)

/-! ## Units -/

/-- The router index of a slice: 10r + c with c = 1 + s mod 8 and r = s div 8 (R14). -/
def sliceRouter (s : SliceId) : Nat := 10 * (s.toNat / 8) + 1 + s.toNat % 8

/-- The router of an attachment (R244). -/
def attRouter (k : AttId) : Nat := 10 * (k.toNat / 2)
/-- The router of a memory port (R244). -/
def portRouter (m : PortId) : Nat := 10 * (m.toNat / 4) + 9

/-- The input a round-robin arbiter of n inputs grants: the nearest at or after its pointer that presents (R22, R247). -/
def grantOf (n ptr : Nat) (p : Nat → Bool) : Option Nat := ((List.range n).map (fun k => (ptr + k) % n)).find? p

/-- A slice transaction's home tag (R39). -/
def htagOf (s : SliceId) (slot : Nat) : BitVec 16 := BitVec.ofNat 16 (s.toNat * 1024 + slot)

/-- The slice of a home tag (R39). -/
def htagSlice (h : BitVec 16) : SliceId := h.extractLsb' 10 6

/-- The slot of a home tag (R39). -/
def htagSlot (h : BitVec 16) : BitVec 10 := h.extractLsb' 0 10

/-! ## Headers as the channels carry them (R37, R39) -/

/-- The opcode of a request (R38). -/
def Op.code : Op → Nat
  | .rdShared => 1 | .rdOwn => 2 | .rdCur => 3 | .rdAtomic => 4 | .inv => 5 | .evictClean => 6 | .conflict => 7
  | .fence => 8 | .rsvRd => 9 | .wrFull => 16 | .wrKeep => 17 | .wrPartial => 18 | .hatom => 19 | .condWr => 20

/-- Requests that come with data on RWD (R38). -/
def Op.rwd : Op → Bool
  | .wrFull | .wrKeep | .wrPartial | .hatom | .condWr => true
  | _ => false

/-- The three plain writes, which a snoop can match (R106, R107). -/
def Op.plainWrite : Op → Bool
  | .wrFull | .wrKeep | .wrPartial => true
  | _ => false

/-- The five kinds of read that R191 keeps in order. -/
def Op.ordRead : Op → Bool
  | .rdShared | .rdOwn | .rdCur | .rdAtomic | .rsvRd => true
  | _ => false

/-- STATUS of an NDR as its two bits (R39). -/
def NStat.code : NStat → Nat
  | .ok => 0 | .fail => 1 | .error => 2

/-- The NDR opcodes (R39). -/
def NdrOp.code : NdrOp → Nat
  | .cmp => 1 | .cmpS => 2 | .cmpE => 3 | .cmpNear => 4 | .conflictAck => 5 | .retry => 6

/-- The header of a request on REQ or RWD (R37, R38). -/
def reqHeader (op : Op) (q : ReqHdr) : BitVec 128 :=
  BitVec.ofNat 128 (op.code * 2 ^ 123 + q.agent.toNat * 2 ^ 111 + q.tag.toNat * 2 ^ 95 + q.laddr.toNat * 2 ^ 55
    + q.otag.toNat * 2 ^ 51 + q.snptype.toNat * 2 ^ 48 + q.mv.toNat * 2 ^ 46 + q.ncnt.toNat * 2 ^ 42 + q.aop.toNat * 2 ^ 38
    + q.aw.toNat * 2 ^ 36 + q.aoff.toNat * 2 ^ 32 + (if op.rwd ∧ q.psn then 2 ^ 29 else 0))

/-- A BIRSP header (R39): a snoop response, or with opcode 8 an EGRESS_ACK. -/
def birspHeader (opc : Nat) (a : AgentId) (h : BitVec 16) (l : Line) : BitVec 128 :=
  BitVec.ofNat 128 (opc * 2 ^ 124 + a.toNat * 2 ^ 112 + h.toNat * 2 ^ 96 + l.toNat * 2 ^ 56)

/-- The snoop responses' opcodes (R39). -/
def RspOp.code : RspOp → Nat
  | .i => 1 | .s => 2 | .e => 3

/-- STATUS of the memory side as a number (R221). -/
def MemStatus.code : MemStatus → Nat
  | .ok => 0 | .poison => 1 | .error => 2

/-- The body of a message that carries a link-channel header: its bits [127:21] (R250). -/
def headerBody (h : BitVec 128) : BitVec 107 := h.extractLsb' 21 107

/-- An NDR header (R39). -/
def Ndr.header (n : Ndr) : BitVec 128 :=
  BitVec.ofNat 128 (n.op.code * 2 ^ 124 + n.agent.toNat * 2 ^ 112 + n.tag.toNat * 2 ^ 96 + n.htag.toNat * 2 ^ 80
    + n.status.code * 2 ^ 78 + n.parts.toNat * 2 ^ 76 + n.backoff.toNat * 2 ^ 64)

/-- A BISNP header (R39). -/
def Bisnp.header (b : Bisnp) : BitVec 128 :=
  BitVec.ofNat 128 ((match b.op with | .inv => 1 | .data => 2 | .cur => 3) * 2 ^ 124 + b.agent.toNat * 2 ^ 112
    + b.htag.toNat * 2 ^ 96 + b.laddr.toNat * 2 ^ 56)

/-- A DRS header (R39). -/
def Drs.header (d : Drs) : BitVec 128 :=
  BitVec.ofNat 128 (2 ^ 124 + d.agent.toNat * 2 ^ 112 + d.tag.toNat * 2 ^ 96 + d.htag.toNat * 2 ^ 80
    + d.parts.toNat * 2 ^ 76)

end Sys2Proof.Machine
end

