-- ==== Sys2Proof/Machine/Flags.lean ====
section
/-! DEFINITION. The register table: of each word of the register map the reset word and, as masks, the bits of each access
code of R11 that a write can reach; and the clamping of R316 and R317. Bits in no mask are RO. -/

namespace Sys2Proof.Machine

/-- What a write can reach in a word, by access code (R11). -/
structure RegDef where
  rw    : Word32 := 0      -- RW and RWC
  rwl   : Word32 := 0      -- RWL: written only by the image
  w1c   : Word32 := 0
  wo    : Word32 := 0
  reset : Word32 := 0

/-- The queue-error words of a unit (R274), at offset `o` of their four words. -/
def queueDef (o : Nat) : RegDef :=
  if o = 0 then { w1c := 0xFFFFFFFF } else if o = 4 then { w1c := 0xFFFFFFFF } else if o = 12 then { wo := 1 } else {}

/-- The slice window (R401). -/
def sliceDef (o : Nat) : RegDef :=
  if o = 0x210 then { wo := 1 } else if o = 0x224 then { wo := 1 } else if o = 0x254 then { wo := 1 }
  else if o = 0x288 then { rw := 7, reset := 0x2804 } else if o = 0x290 then { wo := 1 }
  else if o = 0x300 then { rw := 0xFFFF, reset := 0x400 } else if o = 0x314 then { wo := 1 }
  else if 0xF00 ≤ o ∧ o < 0xF10 then queueDef (o - 0xF00) else {}

/-- The memory-port window (R401). -/
def portDef (o : Nat) : RegDef :=
  if o = 0x114 then { wo := 1 } else if o = 0x400 then { rw := 7, reset := 7 }
  else if o = 0x404 then { rw := 0x3FFF, reset := 0x2040 }
  else if o = 0x410 then { rw := 0xF, wo := 0x10, w1c := 0x40 } else if o = 0x414 then { rw := 0x3FFF }
  else if o = 0x418 ∨ o = 0x420 then { rw := 0xFFFFFFFF } else if o = 0x41C ∨ o = 0x424 then { rw := 0xFF }
  else if o = 0x440 then { wo := 1 } else if 0xF00 ≤ o ∧ o < 0xF10 then queueDef (o - 0xF00) else {}

/-- The link-attachment window (R401). -/
def attDef (o : Nat) : RegDef :=
  if o = 0x104 then { wo := 1 } else if o = 0x130 then { wo := 1 } else if o = 0x150 then { rw := 1, w1c := 8 }
  else if 0xF00 ≤ o ∧ o < 0xF10 then queueDef (o - 0xF00) else {}

/-- The router window (R401); the service queues' words stand in router 0's alone. -/
def routerDef (i o : Nat) : RegDef :=
  if o = 0 then { rw := 0xF0, reset := 0x80 } else if o = 8 then { wo := 3 }
  else if o = 0x100 ∨ o = 0x120 then { rw := 0xFFFF, reset := 0xFFF8 }
  else if o = 0x104 ∨ o = 0x124 then { rw := 0xFFFFFF, reset := 0x880880 }
  else if o = 0x108 ∨ o = 0x110 ∨ o = 0x128 ∨ o = 0x130 then { rw := 0xFFFFFFFF }
  else if o = 0x10C ∨ o = 0x114 ∨ o = 0x12C ∨ o = 0x134 then { rw := 0xFF }
  else if 0xF00 ≤ o ∧ o < 0xF10 then queueDef (o - 0xF00)
  else if 0xF10 ≤ o ∧ o < 0xF20 ∧ i = 0 then queueDef (o - 0xF10) else {}

/-- The reset word of a group mask (R314), at offset `o` from 0x1100. -/
def groupReset (o : Nat) : Word32 :=
  if o < 0x80 then
    (if o % 8 = 0 then (if o / 8 < 8 then 0xF <<< (4 * (o / 8)) else 0)
     else if 8 ≤ o / 8 then 0xF <<< (4 * (o / 8 - 8)) else 0)
  else if o < 0xA0 then 0xF <<< (o - 0x80)
  else if o < 0xB0 then 0xF <<< (o - 0xA0) else 0

/-- The global blocks (R400), but for the words that structured state holds. -/
def globalDef (a : Nat) : RegDef :=
  if a = 0 then { reset := 0x5648344B } else if a = 4 then { reset := 0x00020004 } else if a = 0xC then { reset := 0x3FFA1040 }
  else if a = 0x14 then { rw := 0xFFFFFFFF }
  else if a = 0x1000 then { reset := 3 } else if a = 0x1014 then { rwl := 1 } else if a = 0x1028 then { wo := 1 }
  else if a = 0x1034 ∨ a = 0x103C then { reset := 0xFE00 }
  else if 0x1100 ≤ a ∧ a < 0x11A0 then { rwl := 0xFFFFFFFF, reset := groupReset (a - 0x1100) }
  else if 0x11A0 ≤ a ∧ a < 0x11B0 then { rwl := 0xFFFF, reset := groupReset (a - 0x1100) }
  else if 0x12000 ≤ a ∧ a < 0x12080 then
    (if a % 16 = 4 then { wo := 0xFFF } else if a % 16 = 8 then { rw := 0xFFFFFF, reset := 0xC08040 } else {})
  else if a = 0x1230C then { wo := 1 }
  else if a = 0x20000 then { rw := 1, wo := 2 } else if a = 0x20008 ∨ a = 0x2000C then { rw := 0xFFFFFFFF }
  else if a = 0x20010 then { rw := 0xFF0, wo := 3, w1c := 8, reset := 0x20 }
  else if a = 0x20040 then { rw := 0x3FFFFFF, reset := 0x0010011E } else if a = 0x20044 then { rw := 0x3FFF, reset := 0x1000 }
  else if a = 0x20048 ∨ a = 0x20050 then { rw := 0xFFFFFFFF } else if a = 0x2004C ∨ a = 0x20054 then { rw := 0xFF }
  else if a = 0x20060 then { rw := 0x1FFF0000 } else if a = 0x20068 then { rw := 0x1FFF, reset := 0xC00 }
  else if a = 0x2006C then { wo := 1 } else if a = 0x20070 then { rw := 0xFFF } else if a = 0x200C0 then { rwl := 0xFFFFFFF }
  else if a = 0x30000 then { rw := 0x1FFA, wo := 5, reset := 0x322 }
  else if 0x30100 ≤ a ∧ a < 0x30140 then { rw := 0xFFFFFFFF } else if a = 0x30140 then { wo := 1 }
  else if a = 0x301C0 then { wo := 2 }
  else if 0x30470 ≤ a ∧ a < 0x30480 then { rw := 0xFFFFF }
  else if a = 0x30480 then { rw := 0xFFF00FF, rwl := 0xFF00, reset := 0x01057D69 } else if a = 0x30484 then { rw := 0xFF, reset := 0x32 }
  else if a = 0x30804 then { rw := 0x7FF } else if a = 0x30A00 then { w1c := 2 }
  else if a = 0x30C08 ∨ a = 0x30C0C then { rw := 0xFFFFFFFF }
  else if a = 0x30C10 then { rw := 0x1FFFFFE, wo := 1, reset := 0x003E9F40 }
  else if a = 0x48000 then { rw := 0x1FC, rwl := 3, reset := 0x40 } else if a = 0x48004 then { rw := 3, wo := 4 }
  else if a = 0x48008 then { rw := 0x3FFFF, wo := 0x40000 } else if a = 0x4800C then { w1c := 0x80000 }
  else if a = 0x4C000 then { rwl := 0xFFFF, reset := 0xFFC0 } else if a = 0x4C004 then { rw := 0xFF00, rwl := 0x3F, reset := 0x2016 }
  else if a = 0x4C010 then { rw := 0xFFFFFFFF, reset := 0x02000400 }
  else if 0x50000 ≤ a ∧ a < 0x50400 then
    (if a % 16 < 8 then { rwl := 0x3FFFFFFF } else if a % 16 = 8 then { rw := 2, rwl := 1, reset := 2 } else {})
  else if a = 0x50400 then { rw := 1, reset := 1 }
  else if 0x50800 ≤ a ∧ a < 0x50C00 then
    (if a % 16 < 8 then { rwl := 0x3FFFFFFF } else if a % 16 = 8 then { rwl := 0xFF01 } else {})
  else if a = 0x50C00 then { rwl := 0xFFFF, reset := 0xFF00 }
  else if a = 0x60000 then { rw := 0x3FFFF1, reset := 0x000B3E81 } else if a = 0x60004 then { rw := 0xFFFFFFFF, reset := 0x27100040 }
  else if a = 0x60008 then { rw := 0xFFFFFF, reset := 0x8019 } else if a = 0x6000C then { rw := 0xFFFFFFFF, reset := 0x03E80480 }
  else if a = 0x60010 then { rw := 0xFFFF, reset := 0x83E8 } else if a = 0x60020 then { rw := 0x3FFFFFFF, reset := 0x08100322 }
  else if a = 0x60024 then { rw := 0xFFFF, reset := 0x3E8 }
  else if a = 0x70000 then { rw := 6, wo := 1 } else if a = 0x70008 then { rw := 0xFFFFFFFF, reset := 0x3E814FFF }
  else if a = 0x70018 then { w1c := 0xFE } else if a = 0x70020 then { rw := 0x1FF, reset := 0x1D8 }
  else if a = 0x70030 then { rw := 0x3FFFFFFF, reset := 0x1C61440C } else if a = 0x70034 then { rw := 0x3F, reset := 3 }
  else if a = 0x70040 then { wo := 1 } else if a = 0x70110 then { wo := 3 } else if a = 0x70128 then { wo := 1 } else {}

/-- The definition of the word at a unicast address (R399 to R401). -/
def regDef (a : Nat) : RegDef :=
  if a < 0x80000 then globalDef a
  else if 0x400000 ≤ a ∧ a < 0x800000 then sliceDef (a % 0x10000)
  else if 0xA00000 ≤ a ∧ a < 0xC00000 then portDef (a % 0x10000)
  else if 0xD00000 ≤ a ∧ a < 0xE00000 then attDef (a % 0x10000)
  else if 0xE00000 ≤ a ∧ a < 0xE50000 then routerDef ((a - 0xE00000) / 0x1000) (a % 0x1000) else {}

/-- The reset word of a word of the map. -/
def resetWord (a : Nat) : Word32 := (regDef a).reset

/-- A field brought into a range (R316). -/
def clampF (w : Word32) (lo len mn mx : Nat) : Word32 :=
  putBits w lo len (if mx < bits w lo len then mx else if bits w lo len < mn then mn else bits w lo len)

/-- A field that must be at least another value, its own top governing (R317). -/
def atLeast (w : Word32) (lo len mn mx : Nat) : Word32 := clampF w lo len (if mn < mx then mn else mx) mx

/-- The clamping of the words of global blocks (R316, R317). -/
def clampGlobal (a : Nat) (w : Word32) : Word32 :=
  if 0x12000 ≤ a ∧ a < 0x12080 ∧ a % 16 = 8 then
    let w := atLeast w 8 8 (bits w 0 8) 255
    atLeast w 16 8 (bits w 8 8) 255
  else if a = 0x20010 then clampF w 4 8 1 255
  else if a = 0x20040 then clampF w 6 4 0 12
  else if a = 0x20060 then
    (if 4096 < (bits w 0 13 + 8192 - bits w 16 13) % 8192 then putBits w 16 13 (bits w 0 13) else w)
  else if a = 0x20068 then clampF w 0 13 1 0x1000
  else if a = 0x30000 then clampF w 3 10 0xA 0x3FF
  else if a = 0x30480 then
    let w := clampF w 8 8 0x50 0x82
    clampF (clampF (clampF w 0 8 0x3C (bits w 8 8 - 1)) 16 4 1 15) 20 8 4 0x3C
  else if a = 0x30484 then clampF w 0 8 0xA 0xC8
  else if a = 0x30C10 then
    clampF (clampF (if bits w 1 2 = 3 then putBits w 1 2 0 else w) 3 10 1 0x3E8) 13 12 0xA 0xFFF
  else if a = 0x48000 then clampF w 2 7 1 0x40
  else if a = 0x4C004 then clampF (clampF w 0 4 0 10) 8 8 8 0x80
  else if a = 0x4C010 then clampF (clampF w 0 16 0x40 0xFFFF) 16 16 0x10 0x1000
  else if a = 0x60000 then clampF (clampF (clampF w 4 10 0x64 0x3FF) 14 4 6 15) 18 4 1 15
  else if a = 0x60004 then
    let w := clampF w 0 16 0x10 0x1000
    atLeast w 16 16 (bits w 0 16) 0xFFFF
  else if a = 0x60008 then clampF (clampF w 0 12 1 0xFFF) 12 12 1 0xFFF
  else if a = 0x6000C then
    let w := clampF (clampF w 0 8 0x10 0xFF) 8 8 1 0xFF
    atLeast w 16 16 (bits w 8 8) 0xFFFF
  else if a = 0x60010 then clampF (clampF w 0 12 0x64 0xFFF) 12 4 1 15
  else if a = 0x60020 then clampF (clampF (clampF w 0 4 1 8) 4 10 0xA 0x3FF) 14 8 8 0x7D
  else if a = 0x60024 then clampF w 0 16 0x64 0xFFFF
  else if a = 0x70008 then clampF (clampF (clampF w 0 12 0x100 0xFFF) 12 8 3 0xFF) 20 12 0x64 0xFFF
  else if a = 0x70020 then (if bits w 0 7 ≤ 7 ∨ 0x78 ≤ bits w 0 7 then putBits w 0 7 0x58 else w)
  else if a = 0x70030 then
    let w := clampF w 0 6 4 0x3C
    let w := atLeast (clampF w 6 6 4 0x3C) 6 6 (bits w 0 6 + 2) 0x3C
    let w := atLeast (clampF w 12 6 4 0x3C) 12 6 (bits w 6 6 + 2) 0x3C
    let w := atLeast (clampF w 18 6 4 0x3C) 18 6 (bits w 12 6 + 2) 0x3C
    atLeast (clampF w 24 6 4 0x3C) 24 6 (bits w 18 6 + 2) 0x3C
  else if a = 0x70034 then clampF (clampF w 0 3 0 5) 3 3 0 4
  else w

/-- The stored value of a word after clamping (R316, R317). -/
def clampWord (a : Nat) (w : Word32) : Word32 :=
  if a < 0x80000 then clampGlobal a w
  else if 0x400000 ≤ a ∧ a < 0x800000 then
    (if a % 0x10000 = 0x288 then clampF w 0 3 1 7 else if a % 0x10000 = 0x300 then clampF w 0 16 0x40 0xFFFF else w)
  else if 0xA00000 ≤ a ∧ a < 0xC00000 then
    (if a % 0x10000 = 0x404 then clampF (clampF w 0 10 1 0x3FF) 10 4 2 0xC
     else if a % 0x10000 = 0x410 then (if bits w 0 2 = 3 then putBits w 0 2 0 else w) else w)
  else if 0xE00000 ≤ a ∧ a < 0xE50000 then
    (if a % 0x1000 = 0 then clampF w 4 4 2 15
     else if a % 0x1000 = 0x104 ∨ a % 0x1000 = 0x124 then clampF (clampF w 0 7 0 0x4F) 12 7 0 0x4F else w)
  else w

/-! ## Field names: address, lowest bit, length -/

/-- A register field. -/
structure Fld where
  addr : Nat
  lo   : Nat
  len  : Nat

/-- A slice register's field. -/
def Fld.sl (s : SliceId) (o lo len : Nat) : Fld := ⟨0x400000 + 0x10000 * s.toNat + o, lo, len⟩
/-- A memory port register's field. -/
def Fld.mp (m : PortId) (o lo len : Nat) : Fld := ⟨0xA00000 + 0x10000 * m.toNat + o, lo, len⟩
/-- A link-attachment register's field. -/
def Fld.la (k : AttId) (o lo len : Nat) : Fld := ⟨0xD00000 + 0x10000 * k.toNat + o, lo, len⟩
/-- A router register's field. -/
def Fld.rt (i : Nat) (o lo len : Nat) : Fld := ⟨0xE00000 + 0x1000 * i + o, lo, len⟩

/-- LA_REFUSE.NOT_ACTIVE. -/
def Fld.notActive (k : AttId) : Fld := Fld.la k 0x100 0 8
/-- LA_REFUSE.PERM. -/
def Fld.perm (k : AttId) : Fld := Fld.la k 0x100 8 8
/-- LA_REFUSE.SPOOF. -/
def Fld.spoof (k : AttId) : Fld := Fld.la k 0x100 16 8
/-- LA_REFUSE.FORMAT. -/
def Fld.format (k : AttId) : Fld := Fld.la k 0x100 24 8

/-! ## Event source numbers (R324) -/

/-- Slice s, event j. -/
def evSl (s : SliceId) (j : Nat) : Nat := 16 * s.toNat + j
/-- Link attachment k, event j. -/
def evLa (k : AttId) (j : Nat) : Nat := 1024 + 16 * k.toNat + j
/-- Memory port m, event j. -/
def evMp (m : PortId) (j : Nat) : Nat := 1280 + 16 * m.toNat + j
/-- Router i, event j. -/
def evRt (i : Nat) (j : Nat) : Nat := 1792 + 2 * i + j
/-- Global event j. -/
def evG (j : Nat) : Nat := 1952 + j

/-- Whether a source is reserved (R325, source list). -/
def evReserved (i : Nat) : Bool :=
  if i < 1024 then false
  else if i < 1280 then decide (9 ≤ i % 16)
  else if i < 1792 then decide (i % 16 = 15)
  else if i < 1952 then false
  else decide (1952 + 42 ≤ i)

/-- The reset TRIG of a source: true is edge (source list). -/
def evTrig (i : Nat) : Bool :=
  if i < 1024 then decide (i % 16 ≠ 4) && decide (i % 16 ≠ 11)
  else if i < 1280 then true
  else if i < 1792 then decide (i % 16 ≠ 5) && decide (i % 16 ≠ 11)
  else if i < 1952 then true
  else let j := i - 1952; decide (24 ≤ j) && decide (j ≠ 29) && decide (j ≠ 36)

/-- The reset value of source i (R332, R334). -/
def EvSrc.reset (i : Nat) : EvSrc :=
  { prio := 0x80, targets := 1, trig := evTrig i, pending := false, active := false, claimant := 0, input := false,
    edge := false }

/-! ## Counter numbers (R336) -/

/-- Slice s, counter event j. -/
def cSl (s : SliceId) (j : Nat) : Nat := 32 * s.toNat + j
/-- Link attachment k, counter event j. -/
def cLa (k : AttId) (j : Nat) : Nat := 2048 + 32 * k.toNat + j
/-- Memory port m, counter event j. -/
def cMp (m : PortId) (j : Nat) : Nat := 2560 + 32 * m.toNat + j

/-- A reserved counter (R336). -/
def cReserved (i : Nat) : Bool :=
  if i < 2048 then false else if i < 2560 then decide (27 ≤ i % 32) else decide (29 ≤ i % 32)

end Sys2Proof.Machine
end

