-- ==== Sys2Proof/Machine/Messages.lean ====
section
/-! DEFINITION. The messages of the Armature (chapter 9): flits and their fields, message types and their lanes, the units'
places, and the packets that units send. -/

namespace Sys2Proof

/-! ## Flits (R248, R249, R250, R253) -/

/-- One bit of CRC-16 with polynomial 0x1021 (R248). -/
def crc16Bit (c : BitVec 16) (b : Bool) : BitVec 16 := if c.msb ≠ b then (c <<< 1) ^^^ 0x1021 else c <<< 1

/-- The CRC of a flit: the payload and then sideband bits [47:16], each from its highest bit (R248). DESIGN CHOICE, log
26. -/
def Flit.crc (f : Flit) : BitVec 16 :=
  (((List.range 512).map (fun k => f.payload.getLsbD (511 - k))) ++ ((List.range 32).map (fun k => f.sideband.getLsbD (47 - k)))).foldl
    crc16Bit 0xFFFF

/-- The flit of zeros: what a lane that has never been read holds as its last flit. DESIGN CHOICE, log 50. -/
def Flit.zero : Flit := { payload := 0, sideband := 0 }

/-- The CRC that a flit carries. -/
def Flit.crcField (f : Flit) : BitVec 16 := f.sideband.extractLsb' 0 16
/-- NAK. -/
def Flit.nak (f : Flit) : Bool := f.sideband.getLsbD 16
/-- ACKSEQ. -/
def Flit.ackSeq (f : Flit) : BitVec 6 := f.sideband.extractLsb' 17 6
/-- SEQ. -/
def Flit.seq (f : Flit) : BitVec 6 := f.sideband.extractLsb' 23 6
/-- CONT of slot j. -/
def Flit.cont (f : Flit) (j : Nat) : Bool := f.sideband.getLsbD (29 + j)
/-- VALID of slot j. -/
def Flit.valid (f : Flit) (j : Nat) : Bool := f.sideband.getLsbD (33 + j)
/-- An idle flit: VALID 0. -/
def Flit.idle (f : Flit) : Bool := (List.range 4).all (fun j => !f.valid j)
/-- LANE. -/
def Flit.lane (f : Flit) : Nat := (f.sideband.extractLsb' 37 2).toNat
/-- DEST. -/
def Flit.dest (f : Flit) : Nat := (f.sideband.extractLsb' 39 7).toNat
/-- The header messages of a flit (R249, R250). -/
def Flit.headers (f : Flit) : List (BitVec 128) :=
  (List.range 4).filterMap (fun j => if f.valid j && !f.cont j then some (f.payload.extractLsb' (128 * j) 128) else none)

/-- A flit begins a packet of 5 messages: it is full, a header and three data messages (R249). -/
def Flit.begins5 (f : Flit) : Bool := (List.range 4).all f.valid && !f.cont 0 && f.cont 1 && f.cont 2 && f.cont 3

/-- A flit as it changed on the wire: the bits of `e` are inverted. -/
def Flit.flip (f e : Flit) : Flit := { payload := f.payload ^^^ e.payload, sideband := f.sideband ^^^ e.sideband }

/-- A router's port as R270 and R271 number it: 0 local, 1 N, 2 E, 3 S, 4 W. -/
def LinkPort.num : LinkPort → Nat
  | .loc => 0 | .n => 1 | .e => 2 | .s => 3 | .w => 4

/-- The port at the other end of a link. -/
def LinkPort.opposite : LinkPort → LinkPort
  | .n => .s | .e => .w | .s => .n | .w => .e | .loc => .loc

/-- The router at the other end of a link of router i (R14, R244). -/
def LinkPort.neighbour (i : Nat) : LinkPort → Nat
  | .n => i - 10 | .e => i + 1 | .s => i + 10 | .w => i - 1 | .loc => i

/-- A flit as a router sends it: reserved bits 0, its SEQ, the ACKSEQ and NAK of the reverse link, and a fresh CRC (R248,
R253). -/
def Flit.stamp (f : Flit) (seq : BitVec 6) (rx : Machine.LinkRx) : Flit :=
  let side : BitVec 48 := BitVec.ofNat 48 (f.sideband.toNat / 2 ^ 29 % 2 ^ 17 * 2 ^ 29 + seq.toNat * 2 ^ 23
    + rx.expect.toNat * 2 ^ 17 + (if rx.nakDue then 2 ^ 16 else 0))
  let g : Flit := { f with sideband := side }
  { g with sideband := side + BitVec.ofNat 48 g.crc.toNat }

end Sys2Proof

namespace Sys2Proof.Machine

/-! ## Message types (R246, R250, R251) -/

/-- MTYPE of a header message. -/
def mtypeOf (h : BitVec 128) : Nat := (h.extractLsb' 122 6).toNat
/-- DUNIT of a header message. -/
def dunitOf (h : BitVec 128) : Nat := (h.extractLsb' 119 3).toNat
/-- SROUTER of a header message. -/
def srouterOf (h : BitVec 128) : Nat := (h.extractLsb' 112 7).toNat
/-- SUNIT of a header message. -/
def sunitOf (h : BitVec 128) : Nat := (h.extractLsb' 109 3).toNat
/-- BOUNCE of a header message. -/
def bounceOf (h : BitVec 128) : Nat := (h.extractLsb' 107 2).toNat

/-- A listed MTYPE (R251). -/
def mtypeListed (n : Nat) : Bool :=
  decide (1 ≤ n ∧ n ≤ 5) || decide (8 ≤ n ∧ n ≤ 10) || decide (0x10 ≤ n ∧ n ≤ 0x12) || decide (0x18 ≤ n ∧ n ≤ 0x1A)
    || decide (0x20 ≤ n ∧ n ≤ 0x26)

/-- The plane and lane of a message type (R246, R251). -/
def laneOf (mtype : Nat) : Bool × Nat :=
  if mtype ≤ 2 then (false, 3) else if mtype = 3 then (false, 0) else if mtype ≤ 5 then (false, 1)
  else if mtype ≤ 0xA then (false, 2) else if mtype = 0x10 then (true, 0) else if mtype ≤ 0x12 then (true, 1)
  else if mtype ≤ 0x1A then (true, 2) else (true, 3)

/-- The line address a header message carries, if it carries one (R37, R39, R250, R251). -/
def lineIn (h : BitVec 128) : Option Line :=
  let n := mtypeOf h
  if 1 ≤ n ∧ n ≤ 4 then some (h.extractLsb' 34 40)
  else if n = 5 ∨ n = 0x10 then some (h.extractLsb' 35 40)
  else if n = 8 ∨ n = 9 ∨ n = 0x18 ∨ n = 0x19 then some (Config.bodyLine h) else none

/-- A unit on the Armature: its router and its number there (R244). -/
structure Place where
  router : Nat
  unit   : Nat

/-- A slice's place. -/
def Place.slice (i : SliceId) : Place := ⟨sliceRouter i, 0⟩
/-- An attachment's place. -/
def Place.att (k : AttId) : Place := ⟨attRouter k, k.toNat % 2⟩
/-- A memory port's place. -/
def Place.port (m : PortId) : Place := ⟨portRouter m, m.toNat % 4⟩
/-- The service hub's place. -/
def Place.hub : Place := ⟨0, 2⟩

/-- A header message (R250). -/
def headerOf (mtype : Nat) (src dst : Place) (body : BitVec 107) : BitVec 128 :=
  BitVec.ofNat 128 (mtype * 2 ^ 122 + dst.unit * 2 ^ 119 + src.router * 2 ^ 112 + src.unit * 2 ^ 109 + body.toNat)

/-- A header message on its way back to its sender (R264): BOUNCE set, its body as it was. -/
def bouncedHeader (h : BitVec 128) (bounce : Nat) : BitVec 128 :=
  BitVec.ofNat 128 (mtypeOf h * 2 ^ 122 + sunitOf h * 2 ^ 119 + srouterOf h * 2 ^ 112 + sunitOf h * 2 ^ 109 + bounce * 2 ^ 107
    + h.toNat % 2 ^ 107)

/-- The body of a write that carries its buffer's index in BODY[7:3] (R250). -/
def rwdBody (op : Op) (q : ReqHdr) (buf : Option (BitVec 5)) : BitVec 107 :=
  let b := (headerBody (reqHeader op q)).toNat
  BitVec.ofNat 107 (b - b / 8 % 32 * 8 + ((buf.map (·.toNat)).getD 0) * 8)

/-- 64 bytes as four data messages, ascending (R249). -/
def dataMsgs (d : LineData) : List (BitVec 128) := (List.range 4).map (fun j => d.extractLsb' (128 * j) 128)

/-! ## Packets of the units (R246, R249, R252) -/

/-- A packet joins those that wait for a router's local port. -/
def State.putPkt (s : State) (i : Nat) (p : Pkt) : State :=
  { s with mesh := { s.mesh with inj := Store.set [] s.mesh.inj i (Store.get [] s.mesh.inj i ++ [p]) } }

/-- A message goes back from a router to its sender (R264, R297). -/
def State.sendBack (s : State) (i : Nat) (plane : Bool) (lane : Nat) (h : BitVec 128) (bounce : Nat) : State :=
  s.putPkt i { plane := plane, lane := lane, dest := srouterOf h, hdr := bouncedHeader h bounce, more := [] }

/-- The body of a home-map command (R300): KIND, the bucket, for MAP_SET the slice, and the epoch or the sweep mask. -/
def mapBody (kind : Nat) (b : BitVec 12) (i : SliceId) (e : BitVec 16) : BitVec 107 :=
  BitVec.ofNat 107 (kind * 2 ^ 104 + b.toNat * 2 ^ 92 + i.toNat * 2 ^ 86 + e.toNat * 2 ^ 70)

/-- A unit's packet joins those that wait for its router's local port. Each send of a message between units gives one; the
message has its effect at its destination with the row that stands for its reception there. DEDUCED, log 29. -/
def State.inject (s : State) (src dst : Place) (mtype : Nat) (body : BitVec 107) (more : List (BitVec 128)) : State :=
  s.putPkt src.router
    { plane := (laneOf mtype).1, lane := (laneOf mtype).2, dest := dst.router, hdr := headerOf mtype src dst body, more := more }

end Sys2Proof.Machine
end

