-- ==== Sys2Proof/Machine/Ops.lean ====
section
/-! DEFINITION. The named operations over State that every family uses: arrays, registers, counts, events, counters, the
timebase, agents, refusals, messages to the edges, and entry to HOLD. -/

namespace Sys2Proof.Machine

/-! ## Arrays of units -/

/-- Link attachment k. -/
def State.att (s : State) (k : AttId) : Att := Store.get Att.reset s.atts k.toNat
/-- Link attachment k replaced. -/
def State.setAtt (s : State) (k : AttId) (a : Att) : State := { s with atts := Store.set Att.reset s.atts k.toNat a }
/-- Link attachment k changed. -/
def State.modAtt (s : State) (k : AttId) (f : Att → Att) : State := s.setAtt k (f (s.att k))

/-- Slice i. -/
def State.sl (s : State) (i : SliceId) : Slice := Store.get Slice.reset s.slices i.toNat
/-- Slice i replaced. -/
def State.setSl (s : State) (i : SliceId) (x : Slice) : State := { s with slices := Store.set Slice.reset s.slices i.toNat x }
/-- Slice i changed. -/
def State.modSl (s : State) (i : SliceId) (f : Slice → Slice) : State := s.setSl i (f (s.sl i))

/-- Memory port m. -/
def State.mp (s : State) (m : PortId) : Port := Store.get Port.reset s.ports m.toNat
/-- Memory port m replaced. -/
def State.setMp (s : State) (m : PortId) (x : Port) : State := { s with ports := Store.set Port.reset s.ports m.toNat x }
/-- Memory port m changed. -/
def State.modMp (s : State) (m : PortId) (f : Port → Port) : State := s.setMp m (f (s.mp m))

/-- Agent-table entry a. -/
def State.agent (s : State) (a : AgentId) : Agent := Store.get Agent.reset s.agents a.toNat
/-- Agent-table entry a replaced; entry 0xFFF ignores writes (R52). -/
def State.setAgent (s : State) (a : AgentId) (x : Agent) : State :=
  if a = 0xFFF then s else { s with agents := Store.set Agent.reset s.agents a.toNat x }
/-- Agent-table entry a changed. -/
def State.modAgent (s : State) (a : AgentId) (f : Agent → Agent) : State := s.setAgent a (f (s.agent a))

/-- Agent a's calibration histogram. -/
def State.hist (s : State) (a : AgentId) : Hist := Store.get Hist.empty s.hists a.toNat
/-- Agent a's histogram replaced. -/
def State.setHist (s : State) (a : AgentId) (x : Hist) : State := { s with hists := Store.set Hist.empty s.hists a.toNat x }

/-- Router i. -/
def State.router (s : State) (i : Nat) : Router := Store.get Router.reset s.mesh.routers i
/-- Router i replaced. -/
def State.setRouter (s : State) (i : Nat) (x : Router) : State :=
  { s with mesh := { s.mesh with routers := Store.set Router.reset s.mesh.routers i x } }

/-- Unit u of router i is in bounce mode (R264, R272). -/
def State.bounces (s : State) (i u : Nat) : Bool := (s.router i).bounce.getLsbD u
/-- Messages to an attachment bounce. -/
def State.attBounces (s : State) (k : AttId) : Bool := s.bounces (attRouter k) (k.toNat % 2)
/-- Messages to a memory port bounce. -/
def State.portBounces (s : State) (m : PortId) : Bool := s.bounces (portRouter m) (m.toNat % 4)
/-- Unit u of a router enters or leaves bounce mode. -/
def State.setBounce (s : State) (i u : Nat) (v : Bool) : State :=
  let r := s.router i
  s.setRouter i { r with bounce := if v then r.bounce ||| (1#4 <<< u) else r.bounce &&& ~~~ (1#4 <<< u) }

/-- Event source i. -/
def State.ev (s : State) (i : Nat) : EvSrc := Store.get (EvSrc.reset i) s.events.srcs i
/-- Event source i replaced. -/
def State.setEv (s : State) (i : Nat) (x : EvSrc) : State :=
  { s with events := { s.events with srcs := Store.set (EvSrc.reset i) s.events.srcs i x } }

/-- Counter i. -/
def State.cnt (s : State) (i : Nat) : Counter := Store.get Counter.reset s.counts.cnts i
/-- Counter i replaced. -/
def State.setCnt (s : State) (i : Nat) (x : Counter) : State :=
  { s with counts := { s.counts with cnts := Store.set Counter.reset s.counts.cnts i x } }

/-! ## Registers -/

/-- The stored word at a unicast address. -/
def State.reg (s : State) (a : Nat) : Word32 := Store.get (resetWord a) s.regs a
/-- The stored word at a unicast address replaced. -/
def State.setReg (s : State) (a : Nat) (w : Word32) : State := { s with regs := Store.set (resetWord a) s.regs a w }

/-- The value of a field. -/
def State.fld (s : State) (f : Fld) : Nat := bits (s.reg f.addr) f.lo f.len
/-- A field set. -/
def State.putF (s : State) (f : Fld) (n : Nat) : State := s.setReg f.addr (putBits (s.reg f.addr) f.lo f.len n)
/-- A count raised by n, saturating at the field's maximum. -/
def State.addF (s : State) (f : Fld) (n : Nat) : State :=
  s.putF f (if 2 ^ f.len - 1 < s.fld f + n then 2 ^ f.len - 1 else s.fld f + n)
/-- A count raised by 1, saturating. -/
def State.incF (s : State) (f : Fld) : State := s.addF f 1
/-- A count raised by 1, wrapping. -/
def State.wrapF (s : State) (f : Fld) : State := s.putF f (s.fld f + 1)
/-- A field raised to at least n. -/
def State.maxF (s : State) (f : Fld) (n : Nat) : State := if s.fld f < n then s.putF f n else s

/-! ## Events -/

/-- The place of a source's unit (R324). -/
def evPlace (i : Nat) : Place :=
  if i < 1024 then .slice (BitVec.ofNat 6 (i / 16)) else if i < 1280 then .att (BitVec.ofNat 4 ((i - 1024) / 16))
  else if i < 1792 then .port (BitVec.ofNat 5 ((i - 1280) / 16)) else ⟨(i - 1792) / 2, 0⟩

/-- A change of a source's condition is reported: an event message from a unit, a new level for a global source (R325). A
reserved source has no input. -/
def State.evSend (s : State) (i : Nat) (v : Bool) : State :=
  if evReserved i then s
  else if i < 1952 then
    { s with events := { s.events with msgs := s.events.msgs ++ [(BitVec.ofNat 11 i, v)] } }.inject (evPlace i) .hub 0x22
      (Config.body 0x22 [i, v.toNat]) []
  else { s with events := { s.events with globs := s.events.globs ++ [(BitVec.ofNat 11 i, v)] } }

/-- A one-shot happening: 1 and then 0 (R325). -/
def State.fire (s : State) (i : Nat) : State := (s.evSend i true).evSend i false

/-- The last value reported for a source. -/
def State.evLast (s : State) (i : Nat) : Bool :=
  match ((if i < 1952 then s.events.msgs else s.events.globs).filter (fun m => decide (m.1 = BitVec.ofNat 11 i))).getLast? with
  | some m => m.2
  | none => (s.ev i).input

/-- The condition of a level source: reported when it changes (R325). -/
def State.evLevel (s : State) (i : Nat) (v : Bool) : State := if s.evLast i = v then s else s.evSend i v

/-- The two bits of a source after its input takes a value (R326). The flag says whether an edge was merged. -/
def EvSrc.take (e : EvSrc) (v : Bool) : EvSrc × Bool :=
  let e' := { e with input := v }
  if e.trig then
    if v then
      (if e.active then ({ e' with edge := true }, e.edge) else ({ e' with pending := true }, e.pending))
    else (e', false)
  else if e.active then (e', false)
  else ({ e' with pending := v }, false)

/-- A count of the event controller with its LAST and TGT (R334). -/
def State.evCount (s : State) (a : Nat) (src tgt : Nat) : State :=
  ((s.incF ⟨a, 0, 16⟩).putF ⟨a, 16, 11⟩ src).putF ⟨a, 27, 3⟩ tgt

/-- A source's input takes a value at the controller (R325, R326). -/
def State.evInput (s : State) (i : Nat) (v : Bool) : State :=
  let (e, merged) := (s.ev i).take v
  let s := s.setEv i e
  if merged then s.evCount 0x12308 i 0 else s

/-! ## Counters (R336, R339) -/

/-- The CNT_OVF source of counter i's unit (R339). -/
def ovfSource (i : Nat) : Nat :=
  if i < 2048 then 16 * (i / 32) + 15 else if i < 2560 then 1024 + 16 * ((i - 2048) / 32) + 8
  else 1280 + 16 * ((i - 2560) / 32) + 14

/-- A counter after n occurrences, and whether it wrapped armed (R336, R339). -/
def Counter.add (c : Counter) (n : Nat) : Counter × Bool :=
  let t := c.value.toNat + n
  if t < 2 ^ 48 then ({ c with value := BitVec.ofNat 48 t }, false)
  else if c.armed then
    ({ c with value := BitVec.ofNat 48 (if c.reload then 2 ^ 48 - c.preset.toNat + (t - 2 ^ 48) else t - 2 ^ 48),
              armed := c.reload, ovf := true }, true)
  else ({ c with value := BitVec.ofNat 48 t }, false)

/-- Counter i adds n occurrences, unless frozen (R340) or reserved. -/
def State.count (s : State) (i n : Nat) : State :=
  if s.counts.frozen || cReserved i then s
  else
    let (c, wrapped) := (s.cnt i).add n
    let s := s.setCnt i c
    if wrapped then
      let s := s.fire (ovfSource i)
      if i < 2048 ∧ c.sample then s.modSl (BitVec.ofNat 6 (i / 32)) (fun x => { x with sampOvf := true }) else s
    else s

/-! ## The timebase -/

/-- The timebase in ns. -/
def State.now (s : State) : Nat := s.plinth.now

/-- The moment `t` has come: the timebase stands at it or later. -/
def State.reach (s : State) (t : Nat) : State :=
  if s.plinth.now < t then { s with plinth := { s.plinth with now := t } } else s

/-! ## Modes -/

/-- MODE. -/
def State.mode (s : State) : Mode := s.modes.mode
/-- The block is in HOLD. -/
def State.held (s : State) : Bool := decide (s.modes.mode = .hold)
/-- The modes in which the slices and ports run (R277, R392). -/
def State.runs (s : State) : Bool :=
  match s.modes.mode with
  | .calibrate | .serve | .shed | .quiesce => true
  | _ => false

/-- The shed level (R288). -/
def State.level (s : State) : Nat := s.modes.level.toNat

/-- The encoding of a mode in MODE_STAT.MODE (R277): OFF is never read; REST reads as QUIESCE. -/
def Mode.code : Mode → Nat
  | .off => 0 | .boot => 1 | .calibrate => 2 | .serve => 3 | .shed => 4 | .quiesce => 5 | .rest => 5 | .hold => 7

/-! ## Queue errors (R260 to R263, R269, R274) -/

/-- The base address of a unit's queue-error words (R274). -/
def queueBase (u : QUnit) : Nat :=
  match u with
  | .slice i => (Fld.sl i 0xF00 0 0).addr
  | .att k => (Fld.la k 0xF00 0 0).addr
  | .port m => (Fld.mp m 0xF00 0 0).addr
  | .router i => (Fld.rt i.val 0xF00 0 0).addr
  | .service => (Fld.rt 0 0xF10 0 0).addr

/-- The unit kind and number of a record (R373). -/
def unitCode : QUnit → Nat × Nat
  | .slice i => (0, i.toNat) | .att k => (1, k.toNat) | .port m => (2, m.toNat) | .router i => (3, i.val) | .service => (4, 0)

/-- A unit's queue event (source list). -/
def queueEv : QUnit → Nat
  | .slice i => evSl i 12 | .att k => evLa k 5 | .port m => evMp m 13 | .router i => evRt i.val 1 | .service => evG 40

/-- The observation queues (R263). -/
def observes : QUnit → Nat → Bool
  | .slice _, q => decide (q = 47)
  | .service, q => decide (q = 10) || decide (q = 11) || decide (12 ≤ q ∧ q ≤ 28) || decide (35 ≤ q ∧ q ≤ 58)
  | _, _ => false

/-- A queue error is recorded in its unit (R260 to R262, R274): kind 1 a gap, 2 a pointer reset, 3 an underrun, which sets the
queue's bit of Q_UNDER0 or Q_UNDER1. -/
def State.queueNote (s : State) (u : QUnit) (q kind : Nat) : State :=
  let b := queueBase u
  let s := if kind = 1 then s.incF ⟨b + 8, 0, 8⟩ else if kind = 2 then s.incF ⟨b + 8, 8, 8⟩
    else s.putF ⟨b + 4 * (q / 32), q % 32, 1⟩ 1
  (s.putF ⟨b + 8, 16, 6⟩ q).putF ⟨b + 8, 22, 2⟩ kind

/-- An observation queue has no more than its reserved last entry free (R262); `n` entries of it are looked at. -/
def fullFrom {α : Type} : List α → Nat → Bool
  | _, 0 => true
  | [], _ + 1 => false
  | _ :: xs, n + 1 => fullFrom xs n

/-- A writer that cannot wait writes an observation queue (R262): while a place beside the reserved one is free the item
enters; else it is discarded into a gap marker, which counts further discards while it stays the last entry. The second part
says whether a marker formed. -/
def obsPut {α : Type} (q : List (Obs α)) (room : Nat) (x : α) : List (Obs α) × Bool :=
  if fullFrom q room then
    (match q.getLast? with
     | some (.gap n) => (q.dropLast ++ [.gap (n + 1)], false)
     | _ => (q ++ [.gap 1], true))
  else (q ++ [.item x], false)

/-- A RECOVERED error (R373). -/
def State.classRec (s : State) : State := s.incF ⟨0x70120, 0, 32⟩

/-- A record enters the event-log write queue, which is an observation queue (R262, R263, R358). -/
def State.logPut (s : State) (r : LogRec) : State :=
  let q := obsPut s.cox.logQ (Config.queueRoom 57 + 2) r
  let s := { s with cox := { s.cox with logQ := q.1 } }
  if q.2 then (s.queueNote .service 57 1).classRec else s

/-- A hardware record goes to the event log (R358). The places of its fields in DATA: DEDUCED, log 31. -/
def State.logHw (s : State) (type unit data : Nat) : State :=
  s.logPut { type := BitVec.ofNat 16 type, unit := BitVec.ofNat 16 unit, data := BitVec.ofNat 128 data }

/-- The mode changes (R277): the global MODE_CHANGE source receives an edge, and the event log a MODE record. -/
def State.toMode (s : State) (m : Mode) : State :=
  if s.modes.mode = m then s
  else (({ s with modes := { s.modes with mode := m } }).fire (evG 25)).logHw 2 0
    (s.modes.mode.code + 2 ^ 8 * m.code + 2 ^ 16 * s.modes.restPhase.toNat)

/-! ## Who takes a register command (R319, R405, R406) -/

/-- The register port takes a write: neither OFF nor REST, and no reset in effect. -/
def State.portUp (s : State) : Bool := decide (s.modes.mode ≠ .off) && decide (s.modes.mode ≠ .rest) && decide (s.boot.st ≠ .held)

/-- A command that is a register write of firmware has its effect outside BOOT alone: until then a read or a write there
answers NOT_READY (R319). -/
def State.fwUp (s : State) : Bool := s.portUp && decide (s.modes.mode ≠ .boot)

/-- A register command for an attachment's window or its counters while the gate is not OPEN: it bounces. -/
def State.attShut (s : State) (k : AttId) : Bool := decide ((s.att k).gate ≠ .opened)
/-- The same of a memory port. -/
def State.mpShut (s : State) (m : PortId) : Bool := decide ((s.mp m).gate ≠ .opened)

/-- Cox's core runs. -/
def State.coxUp (s : State) : Bool := s.cox.running && decide (s.modes.mode ≠ .rest)

/-- The TAP is unlocked (R423): never in BOOT. -/
def State.tapOpen (s : State) : Bool := decide (s.fld ⟨0x1014, 0, 1⟩ = 1) && s.plinth.dbgPin && s.fwUp

/-- A source of register commands is there: Cox while its core runs, the TAP while it is unlocked. -/
def State.srcUp (s : State) (src : RegSrc) : Bool :=
  s.portUp && (match src with
    | .host => true
    | .cox => s.coxUp
    | .jtag => s.tapOpen)

/-- A message for an attachment whose gate is not OPEN comes back: its gate register counts it (R266, R275). -/
def State.attBounced (s : State) (k : AttId) : State := s.incF (Fld.la k 0x150 16 16)
/-- A message for a memory port comes back. -/
def State.mpBounced (s : State) (m : PortId) : State := s.incF (Fld.mp m 0x118 16 16)

/-- Firmware's command at a register of the service hub or a router. -/
def State.regG (s : State) (f : State → State) : State := if s.fwUp then f s else s
/-- Firmware's WO command at a slice: an inactive one ignores it (R405). -/
def State.regSl (s : State) (i : SliceId) (f : State → State) : State := if s.fwUp ∧ (s.sl i).active then f s else s
/-- Firmware's command at a link attachment, whose gate it bounces at while that is not OPEN (R406). -/
def State.regLa (s : State) (k : AttId) (f : State → State) : State :=
  if !s.fwUp then s else if s.attShut k then s.attBounced k else f s
/-- Firmware's command at a memory port. -/
def State.regMp (s : State) (m : PortId) (f : State → State) : State :=
  if !s.fwUp then s else if s.mpShut m then s.mpBounced m else f s

/-! ## Messages out of the block -/

/-- A message takes the next place of an attachment's egress order. -/
def State.egNdr (s : State) (k : AttId) (n : Ndr) : State :=
  s.modAtt k (fun a => { a with ndrQ := a.ndrQ ++ [(a.seq, n)], seq := a.seq + 1 })
/-- A DATA message in an attachment's DRS egress queue. -/
def State.egDrs (s : State) (k : AttId) (d : Drs) : State :=
  s.modAtt k (fun a => { a with drsQ := a.drsQ ++ [(a.seq, d)], seq := a.seq + 1 })
/-- A snoop in an attachment's BISNP egress queue. -/
def State.egBisnp (s : State) (k : AttId) (b : Bisnp) : State :=
  s.modAtt k (fun a => { a with bisnpQ := a.bisnpQ ++ [(a.seq, b)], seq := a.seq + 1 })

/-- An ERROR completion (R38, R51, R54): CMP, STATUS ERROR, PARTS 0. -/
def errNdr (q : ReqHdr) : Ndr :=
  { op := .cmp, agent := q.agent, tag := q.tag, htag := 0, status := .error, parts := 0, backoff := 0, otag := q.otag }

/-- BACKOFF of a RETRY: the lower of the agent's value and 0xFFF (R52). -/
def State.backoff (s : State) (a : AgentId) : BitVec 12 :=
  if 0xFFF < (s.agent a).backoff.toNat then 0xFFF else BitVec.ofNat 12 (s.agent a).backoff.toNat

/-- A RETRY with a back-off (R39). -/
def retryNdr (q : ReqHdr) (b : BitVec 12) : Ndr :=
  { op := .retry, agent := q.agent, tag := q.tag, htag := 0, status := .ok, parts := 0, backoff := b, otag := q.otag }

/-- A count of LA_REFUSE, its event source, and the attachment's refusal counter (R54, R65, source list). -/
def State.refuse (s : State) (k : AttId) (f : AttId → Fld) : State :=
  ((s.incF (f k)).fire (evLa k 1)).count (cLa k 20) 1

/-! ## Entry to HOLD (R343, R391, R392) -/

/-- A snapshot starts at timebase T (R341); one that runs already counts the write as ignored. -/
def State.snapStart (s : State) (t : Nat) : State :=
  if s.counts.snap.busy.isSome then s.incF ⟨0x20010, 16, 16⟩
  else { s with counts := { s.counts with snap := { s.counts.snap with
    busy := some t, left := List.finRange 40, miss := 0, late := 0, idle := false, done := false, t := BitVec.ofNat 64 t,
    behind := decide (t < s.plinth.now) } } }

/-- REQ and RWD credits return to an attachment; at L3 and above those that would bring it past 32 and 16 are withheld
(R289). -/
def Att.giveBack (a : Att) (shed : Bool) (req rwd : Nat) : Att :=
  let r := a.reqHold + req
  let w := a.rwdHold + rwd
  let g := if shed then min r (32 - a.reqCr) else r
  let h := if shed then min w (16 - a.rwdCr) else w
  { a with
    reqCr := a.reqCr + g, reqHold := r - g, rwdCr := a.rwdCr + h, rwdHold := w - h }

/-- Credits return to attachment k. -/
def State.giveBack (s : State) (k : AttId) (req rwd : Nat) : State := s.modAtt k (fun a => a.giveBack (decide (3 ≤ s.level)) req rwd)

/-- In HOLD an edge answers every request it has accepted and not performed with ERROR, and returns its credits (R392). -/
def State.holdAnswer (s : State) (k : AttId) : State :=
  let a := s.att k
  let rs := a.order.map (·.req) ++ a.waitIn
  let s := s.addF ⟨0x70114, 16, 16⟩ rs.length
  let s := rs.foldl (fun s r => s.egNdr k (errNdr r.q)) s
  let bufs := rs.filterMap (·.buf)
  let kept := ((a.order.filter (·.gated)).map (·.req) ++ a.waitIn).filter (fun r => !r.op.rwd)
  (s.modAtt k (fun a => { a with
    order := [], waitIn := [], winRd := [], bufs := bufs.foldl (fun m b => Store.set none m b.toNat none) a.bufs })).giveBack k
      kept.length bufs.length

/-- A FATAL cause (R390, R391): the first is recorded with its unit and time, later ones are counted. A warm reset that
drains then takes effect in HOLD (R394), and a power-fail notice lets VCORE go (R420). -/
def State.fatal (s : State) (cause kind num detail : Nat) : State :=
  if s.held then s.incF ⟨0x70100, 8, 8⟩
  else
    let s := s.putF ⟨0x70100, 0, 8⟩ cause
    let s := ((s.putF ⟨0x70104, 0, 3⟩ kind).putF ⟨0x70104, 3, 7⟩ num).putF ⟨0x70104, 10, 6⟩ detail
    let s := (s.setReg 0x70108 (BitVec.ofNat 32 s.now)).setReg 0x7010C (BitVec.ofNat 32 (s.now / 2 ^ 32))
    let s := s.toMode .hold
    let s := { s with
      pins := { s.pins with fatalOut := true, coreOffOk := s.pins.coreOffOk || s.modes.pwrFail },
      modes := { s.modes with restReqd := false, restPhase := 0, drainStep := 0 } }
    let s := s.evLevel (evG 0) true
    let s := s.logHw 5 (kind * 2 ^ 7 + num) cause
    let s := if s.counts.snap.busy.isSome then s else s.snapStart (s.now + 1000 * s.fld ⟨0x20010, 4, 8⟩)
    (List.range 16).foldl (fun s k => s.holdAnswer (BitVec.ofNat 4 k)) s

/-- A POISONED error (R373). -/
def State.classPsn (s : State) : State := s.incF ⟨0x70124, 0, 32⟩
/-- Reservations of a slice that a condition names are lost (R209). -/
def State.loseRsv (s : State) (i : SliceId) (p : Rsv → Bool) : State :=
  let n := ((s.sl i).rsvs.filter p).length
  (s.modSl i (fun x => { x with rsvs := x.rsvs.filter (fun r => !p r) })).addF (Fld.sl i 0x280 16 16) n

/-- Every slice. -/
def allSlices : List SliceId := (List.range 64).map (BitVec.ofNat 6)
/-- Every memory port. -/
def allPorts : List PortId := (List.range 32).map (BitVec.ofNat 5)
/-- Every link attachment. -/
def allAtts : List AttId := (List.range 16).map (BitVec.ofNat 4)

/-- Reservations lost in every slice (R209). -/
def State.loseRsvAll (s : State) (p : Rsv → Bool) : State := allSlices.foldl (fun s i => s.loseRsv i p) s

/-- A slice raises an error event: every reservation in it ends (R209, R373). -/
def State.sliceErr (s : State) (i : SliceId) : State := s.loseRsv i (fun _ => true)

/-! ## The home map (R79, R294, R300) -/

/-- The slice that homes a bucket. -/
def State.homeOf (s : State) (b : BitVec 12) : SliceId :=
  match Store.get none s.hmap.moved b.toNat with
  | some i => i
  | none => match s.hmap.init with | some n => targetHome n b | none => 0

/-- The slice that homes a line (R79). -/
def State.home (s : State) (l : Line) : SliceId := s.homeOf (bucketOf l)

/-- The move a bucket is in, if any (R296). -/
def State.moveOf (s : State) (b : BitVec 12) : Option Move := s.hmap.moves.find? (fun m => decide (m.bucket = b))

/-- A slice serves a bucket: the map names it, or the bucket has been handed to it and edges are being told (R296). -/
def State.serves (s : State) (i : SliceId) (b : BitVec 12) : Bool :=
  decide (s.homeOf b = i) || (match s.moveOf b with
    | some m => decide (m.dst = i) && (match m.st with | .updating _ => true | _ => false)
    | none => false)

/-- A slice's scans visit the partition of a bucket: it homes the bucket, or the bucket has been handed to it; what it has
handed over itself is the new slice's (R59, R296). -/
def State.scans (s : State) (i : SliceId) (b : BitVec 12) : Bool :=
  match s.moveOf b with
  | none => decide (s.homeOf b = i)
  | some m => match m.st with
    | .waiting | .marked => decide (m.src = i)
    | .handed => false
    | .updating _ => decide (m.dst = i)

/-- The slice that the map of an edge router names for a bucket (R296): rows 0 to 7 are the west routers', 8 to 15 the
east ones'. -/
def State.edgeHome (s : State) (row : Nat) (b : BitVec 12) : SliceId :=
  match Store.get none s.hmap.edges (row * 4096 + b.toNat) with
  | some i => i
  | none => s.homeOf b

/-! ## The cast-store region (R80) -/

/-- CAST_CFG.SIZE. -/
def State.castSize (s : State) : Nat := s.fld ⟨0x4C004, 0, 4⟩
/-- CAST_BASE.BASE: bits below the region's size alignment read as 0 (R96). -/
def State.castBase (s : State) : Nat := s.fld ⟨0x4C000, 0, 16⟩ / 2 ^ s.castSize * 2 ^ s.castSize
/-- The first line of the region: DPA[45:30] is BASE. -/
def State.castLine0 (s : State) : Nat := s.castBase * 2 ^ 24
/-- A line lies in the region. -/
def State.inCast (s : State) (l : Line) : Bool :=
  decide (s.castLine0 ≤ l.toNat) && decide (l.toNat < s.castLine0 + 2 ^ (24 + s.castSize))
/-- P: buckets of a partition (R80). -/
def State.castP (s : State) : Nat := 2 ^ (12 + s.castSize)
/-- A: annex buckets of a partition (R80). -/
def State.castA (s : State) : Nat := s.castP / 2 ^ (5 - s.fld ⟨0x4C004, 4, 2⟩)
/-- N: record buckets of a partition (R80). -/
def State.castN (s : State) : Nat := s.castP - s.castA - 1
/-- The line address of bucket k of partition p. -/
def State.castAddr (s : State) (p k : Nat) : Line := BitVec.ofNat 40 (s.castLine0 + p * s.castP + k)
/-- C1: the first record bucket of a line (R84). -/
def State.c1 (s : State) (l : Line) : Nat := 1 + (hash1 l).toNat * s.castN / 2 ^ 32
/-- C2: the second record bucket of a line (R84). -/
def State.c2 (s : State) (l : Line) : Nat :=
  let c := 1 + (hash2 l).toNat * s.castN / 2 ^ 32
  if c = s.c1 l then s.c1 l % s.castN + 1 else c

/-! ## The counter window (R347) -/

/-- A line lies in the counter window. -/
def State.inWindow (s : State) (l : Line) : Bool :=
  decide (s.fld ⟨0x200C0, 27, 1⟩ = 1) && decide (l.toNat / 2 ^ 13 = s.fld ⟨0x200C0, 0, 27⟩)

/-! ## Ordering and stream-tag regions (R197, R225) -/

/-- Line l lies in the region of three words at address a whose EN is bit 0 of the third. -/
def State.inRegion (s : State) (a : Nat) (l : Line) : Bool :=
  decide (s.fld ⟨a + 8, 0, 1⟩ = 1) && decide (s.fld ⟨a, 0, 30⟩ ≤ l.toNat / 2 ^ 10)
    && decide (l.toNat / 2 ^ 10 < s.fld ⟨a + 4, 0, 30⟩)

/-- EARLY_ACK of a line (R197). -/
def State.earlyAck (s : State) (l : Line) : Bool :=
  match (List.range 64).find? (fun n => s.inRegion (0x50000 + 16 * n) l) with
  | some n => decide (s.fld ⟨0x50000 + 16 * n + 8, 1, 1⟩ = 1)
  | none => decide (s.fld ⟨0x50400, 0, 1⟩ = 1)

/-- The stream tag of a line (R225). -/
def State.streamTag (s : State) (l : Line) : BitVec 8 :=
  match (List.range 64).find? (fun n => s.inRegion (0x50800 + 16 * n) l) with
  | some n => BitVec.ofNat 8 (s.fld ⟨0x50800 + 16 * n + 8, 8, 8⟩)
  | none => BitVec.ofNat 8 (s.fld ⟨0x50C00, 0, 8⟩)

/-- The stream tag of cast-store commands (R225). -/
def State.castTag (s : State) : BitVec 8 := BitVec.ofNat 8 (s.fld ⟨0x50C00, 8, 8⟩)

end Sys2Proof.Machine
end

