-- ==== Sys2Proof/Machine/Lanes.lean ====
section
/-! DEFINITION. The lanes of the Armature (chapter 9): packets as flits, lane buffers and link credits, the switch, the queues'
errors, and the crossing queues' pointers. -/

namespace Sys2Proof.Machine

/-! ## Packets as flits (R249) -/

/-- A flit of up to 4 messages. -/
def flitOf (p : Pkt) (msgs : List (BitVec 128)) (cont : Nat) : Flit :=
  { payload := (msgs.zipIdx).foldl (fun (d : BitVec 512) (m : BitVec 128 × Nat) => d ||| (m.1.setWidth 512 <<< (128 * m.2))) 0
    sideband := BitVec.ofNat 48 (p.dest * 2 ^ 39 + p.lane * 2 ^ 37 + (2 ^ msgs.length - 1) * 2 ^ 33 + cont * 2 ^ 29) }

/-- The flits of a packet (R249): one message, or 5 in two consecutive flits. Packets do not share a flit: DESIGN CHOICE, log
29. -/
def Pkt.flits (p : Pkt) : List Flit :=
  match p.more with
  | [] => [flitOf p [p.hdr] 0]
  | ms => [flitOf p (p.hdr :: ms.take 3) 0xE, flitOf p (ms.drop 3) 1]

/-! ## Lane buffers and credits (R252) -/

/-- A lane's number among the eight of a router. -/
def lane8 (plane : Bool) (lane : Nat) : Nat := (if plane then 4 else 0) + lane

/-- The flits of an input in a lane. -/
def Router.buf (r : Router) (inp lane : Nat) : List Flit := Store.get [] r.bufs (8 * inp + lane)
/-- The flits of an input in a lane replaced. -/
def Router.putBuf (r : Router) (inp lane : Nat) (x : List Flit) : Router := { r with bufs := Store.set [] r.bufs (8 * inp + lane) x }
/-- Flits of a lane over the five inputs. -/
def Router.laneFlits (r : Router) (lane : Nat) : List Flit := (List.range 5).flatMap (fun inp => r.buf inp lane)

/-- The receiving side at a key. -/
def Router.rxAt (r : Router) (k : Nat) : LinkRx := Store.get LinkRx.reset r.rx k
/-- The sending side at a key. -/
def Router.txAt (r : Router) (k : Nat) : LinkTx := Store.get LinkTx.reset r.tx k
/-- The receiving side replaced. -/
def Router.putRx (r : Router) (k : Nat) (x : LinkRx) : Router := { r with rx := Store.set LinkRx.reset r.rx k x }
/-- The sending side replaced. -/
def Router.putTx (r : Router) (k : Nat) (x : LinkTx) : Router := { r with tx := Store.set LinkTx.reset r.tx k x }

/-- The key of a link and plane. -/
def linkKey (l : LinkPort) (plane : Bool) : Nat := 2 * l.num + (if plane then 1 else 0)

/-- Link credits held for the next router at an output and lane: 4 less those spent (R252). -/
def Router.credits (r : Router) (out : LinkPort) (lane : Nat) : Nat := 4 - Store.get 0 r.spent (8 * out.num + lane)

/-- Entries of the local input that a unit holds credits for: 4 less the flits there and the credits withheld (R252, R255). -/
def Router.localRoom (r : Router) (lane : Nat) : Nat := 4 - ((r.buf 0 lane).length + Store.get 0 r.owed lane)

/-- Flits may leave by an output: there is a credit for each at the next router, and room in the replay buffer of 8 (R252,
R254). -/
def Router.maySend (r : Router) (out : LinkPort) (plane : Bool) (lane n : Nat) : Bool :=
  decide (out = .loc) || (decide (n ≤ r.credits out (lane8 plane lane)) && decide ((r.txAt (linkKey out plane)).replay.length + n ≤ 8))

/-! ## Links and routes (R244, R245) -/

/-- Ports that face off the grid are absent (R244). -/
def linkPresent (i : Nat) (l : LinkPort) : Bool :=
  match l with
  | .n => decide (10 ≤ i) | .e => decide (i % 10 ≠ 9) | .s => decide (i / 10 ≠ 7) | .w => decide (i % 10 ≠ 0) | .loc => true

/-- The output of a message's next hop: along the row, then along the column, and at its destination the local port (R245). -/
def routeFrom (i dest : Nat) : LinkPort :=
  if i % 10 < dest % 10 then .e else if dest % 10 < i % 10 then .w
  else if i / 10 < dest / 10 then .s else if dest / 10 < i / 10 then .n else .loc

/-- A router's ports in their order. -/
def ports5 : List LinkPort := [.loc, .n, .e, .s, .w]

/-! ## The switch (R245, R247, R249, R252) -/

/-- The packet at the head of a buffer, whole: one flit, or the two of a packet of 5 messages (R249). -/
def packetAt : List Flit → Option (List Flit × List Flit)
  | [] => none
  | f :: rest =>
    if f.begins5 then (match rest with | [] => none | g :: rest => some ([f, g], rest)) else some ([f], rest)

/-- An input of a lane has a packet that can leave by an output. -/
def Router.offers (r : Router) (i : Nat) (out : LinkPort) (plane : Bool) (lane inp : Nat) : Bool :=
  match packetAt (r.buf inp (lane8 plane lane)) with
  | some (p, _) => (p.head?.map (fun f => decide (routeFrom i f.dest = out))).getD false && r.maySend out plane lane p.length
  | none => false

/-- The lane and input that an output grants on a plane: lanes in rotating order, and within a lane inputs in rotating
order (R247). -/
def Router.grant (r : Router) (i : Nat) (out : LinkPort) (plane : Bool) : Option (Nat × Nat) :=
  let inputs (l : Nat) : Option Nat :=
    grantOf 5 (Store.get 0 r.inTurn (8 * out.num + lane8 plane l)) (fun inp => r.offers i out plane l inp)
  match grantOf 4 (Store.get 0 r.laneTurn (linkKey out plane)) (fun l => (inputs l).isSome) with
  | some l => (inputs l).map (fun inp => (l, inp))
  | none => none

/-- A grant that some output of a router can give: output, plane, lane and input. -/
def Router.pick (r : Router) (i : Nat) : Option (LinkPort × Bool × Nat × Nat) :=
  (ports5.flatMap (fun o => [(o, false), (o, true)])).findSome? (fun c => (r.grant i c.1 c.2).map (fun g => (c.1, c.2, g.1, g.2)))

/-- A flit goes onto a link: stamped, kept for replay, a credit spent; a NAK that was due has gone (R252 to R254). -/
def Router.send (r : Router) (out : LinkPort) (plane : Bool) (lane : Nat) (f : Flit) : Router :=
  let k := linkKey out plane
  let t := r.txAt k
  let x := r.rxAt k
  let g := f.stamp t.next x
  let r := (r.putTx k { t with next := t.next + 1, replay := t.replay ++ [g], wire := t.wire ++ [g] }).putRx k { x with nakDue := false }
  { r with spent := Store.set 0 r.spent (8 * out.num + lane8 plane lane) (Store.get 0 r.spent (8 * out.num + lane8 plane lane) + 1) }

/-- A packet leaves an input's buffer, and the output's turns go on (R247). -/
def Router.take (r : Router) (out : LinkPort) (plane : Bool) (lane inp : Nat) (p rest : List Flit) : Router :=
  let l8 := lane8 plane lane
  { (r.putBuf inp l8 rest) with
    lastRead := Store.set Flit.zero r.lastRead l8 ((p.getLast?).getD Flit.zero)
    inTurn := Store.set 0 r.inTurn (8 * out.num + l8) ((inp + 1) % 5)
    laneTurn := Store.set 0 r.laneTurn (linkKey out plane) ((lane + 1) % 4) }

/-- Entries of an input have come free: their credits return to the neighbour, or stay withheld while the router holds for a
reconfiguration (R252, R255). -/
def State.giveCredit (s : State) (i inp lane n : Nat) : State :=
  let r := s.router i
  if r.reconf.isSome then
    s.setRouter i { r with owed := Store.set 0 r.owed (8 * inp + lane) (Store.get 0 r.owed (8 * inp + lane) + n) }
  else
    match ports5[inp]? with
    | some .loc => s
    | some l =>
      let j := l.neighbour i
      let o := s.router j
      let k := 8 * l.opposite.num + lane
      s.setRouter j { o with spent := Store.set 0 o.spent k (Store.get 0 o.spent k - n) }
    | none => s

/-- Messages that reach a router's local port are handed to their units (R244, R264). One for a unit in bounce mode goes back to
its sender; one with an unlisted MTYPE is discarded, and on a protected lane is FATAL (R251). -/
def State.eject (s : State) (i : Nat) (plane : Bool) (lane : Nat) (p : List Flit) : State :=
  (p.flatMap Flit.headers).foldl (fun s h =>
    if !mtypeListed (mtypeOf h) then (if plane = false ∨ lane ≠ 3 then s.fatal 6 3 i lane else s)
    else if s.bounces i (dunitOf h) ∧ bounceOf h = 0 then s.sendBack i plane lane h 1
    else s) s

/-- One grant of a router's switch. -/
def State.switchMove (s : State) (i : Nat) (out : LinkPort) (plane : Bool) (lane inp : Nat) : State :=
  let r := s.router i
  match packetAt (r.buf inp (lane8 plane lane)) with
  | none => s
  | some (p, rest) =>
    let r := r.take out plane lane inp p rest
    let s :=
      if out = .loc then (s.setRouter i r).eject i plane lane p
      else s.setRouter i (p.foldl (fun r f => r.send out plane lane f) r)
    s.giveCredit i inp (lane8 plane lane) p.length

/-- The switches of routers move what they can; a credit that returns lets the neighbour go on. -/
def State.pump : Nat → List Nat → State → State
  | 0, _, s => s
  | _, [], s => s
  | n + 1, i :: is, s =>
    match (s.router i).pick i with
    | none => State.pump n is s
    | some (out, plane, lane, inp) =>
      let up := match ports5[inp]? with | some l => [l.neighbour i] | none => []
      State.pump n (i :: up ++ is) (s.switchMove i out plane lane inp)

/-- The switch of a router runs. -/
def State.runSwitch (s : State) (i : Nat) : State := State.pump 4096 [i] s

/-! ## Errors of queues (R260 to R263) -/

/-- An error of an observation queue is RECOVERED, in a slice with the loss of its reservations (R209, R263, R373). -/
def State.queueRec (s : State) (u : QUnit) : State :=
  match u with
  | .slice i => s.classRec.sliceErr i
  | _ => s.classRec

/-- A read of an empty queue (R261, R263): in an observation queue the last value is read again; in a coherence queue it is
discarded and FATAL. -/
def State.underrun (s : State) (u : QUnit) (q : Nat) : State :=
  let s := s.queueNote u q 3
  if observes u q then s.queueRec u else s.fatal 3 (unitCode u).1 (unitCode u).2 q

/-- A gap marker forms in an observation queue (R262). -/
def State.gapNote (s : State) (u : QUnit) (q : Nat) : State := (s.queueNote u q 1).queueRec u

/-! ## Crossing queues (R256, R258, R259) -/

/-- The Gray code of a pointer. -/
def gray (x : BitVec 8) : BitVec 8 := x ^^^ (x >>> 1)

/-- A queue's number in the store of crossing queues. -/
def crossKey (u : QUnit) (q : Nat) : Nat :=
  64 * (match u with
    | .slice i => i.toNat | .att k => 64 + k.toNat | .port m => 80 + m.toNat | .router i => 112 + i.val | .service => 192) + q

/-- The pointers of a crossing queue. -/
def State.crossOf (s : State) (u : QUnit) (q : Nat) : Cross := Store.get Cross.reset s.mesh.cross (crossKey u q)
/-- The pointers of a crossing queue replaced. -/
def State.setCross (s : State) (u : QUnit) (q : Nat) (c : Cross) : State :=
  { s with mesh := { s.mesh with cross := Store.set Cross.reset s.mesh.cross (crossKey u q) c } }

/-- A stage of each synchroniser passes on: what the other side last saw, and the pointers as they now stand (R258). -/
def Cross.clock (c : Cross) : Cross :=
  { c with wrSync := gray c.wr :: c.wrSync.dropLast, rdSync := gray c.rd :: c.rdSync.dropLast }

/-- A number of edges of the clocks of a crossing queue. -/
def Cross.clocks : Nat → Cross → Cross
  | 0, c => c
  | n + 1, c => Cross.clocks n c.clock

/-- The reader sees the queue empty: its view of the write pointer is its own read pointer (R258). -/
def Cross.seenEmpty (c : Cross) : Bool := decide (c.wrSync.getLast? = some (gray c.rd))

/-- The writer sees a queue of `depth` entries full: its pointer is that far ahead of its view of the read pointer (R258). -/
def Cross.seenFull (c : Cross) (depth : Nat) : Bool :=
  (List.range 256).any (fun k => decide (c.rdSync.getLast? = some (gray (c.wr - BitVec.ofNat 8 k))) && decide (depth ≤ k))

/-- An item enters a crossing queue: its writer publishes the pointer with the whole packet (R259). -/
def State.crossIn (s : State) (u : QUnit) (q : Nat) : State :=
  let c := s.crossOf u q
  s.setCross u q { c with wr := c.wr + 1 }

/-- The reader takes an item of a crossing queue. -/
def State.crossOut (s : State) (u : QUnit) (q : Nat) : State :=
  let c := s.crossOf u q
  s.setCross u q { c with rd := c.rd + 1 }

/-- An item passes a crossing queue between the block and its surroundings: it enters and is taken within the command that
stands for its crossing; the synchronisers' delay is timing (log 3). -/
def State.crossing (s : State) (u : QUnit) (q : Nat) : State := (s.crossIn u q).crossOut u q

/-- A domain's follower (R257). -/
def State.follower (s : State) (d : Nat) : Follower := Store.get Follower.reset s.mesh.follow d

/-- A domain's follower stands at a value at one of its clock's edges; sideband SCL has none (R257). -/
def State.followTo (s : State) (d : Nat) (t : Nat) : State :=
  if d = 36 then s
  else { s with mesh := { s.mesh with follow := Store.set Follower.reset s.mesh.follow d { s.follower d with value := t } } }

/-- Both pointers of a crossing queue are 0 again (R260, R267). -/
def State.crossReset (s : State) (u : QUnit) (q : Nat) : State := s.setCross u q .reset

end Sys2Proof.Machine
end

