-- ==== Sys2Proof/Machine/Edge.lean ====
section
/-! DEFINITION. The link-attachment edge (chapters 2, 7, 9): acceptance of requests, the order table and the gate, the
write-data buffers, the fence entries, snoop records, and egress. -/

namespace Sys2Proof.Machine

/-! ## Into the slices -/

/-- The slice an edge's copy of the home map names for a bucket (R296). -/
def State.homeAt (s : State) (k : AttId) (b : BitVec 12) : SliceId := s.edgeHome (k.toNat / 2) b

/-- The input port of a slice's router by which a request of an attachment comes: along its row, then up or down
(R131, R245): 0 W, 1 N, 3 S. -/
def inPort (k : AttId) (i : SliceId) : BitVec 2 :=
  if k.toNat / 2 = i.toNat / 8 then 0 else if k.toNat / 2 < i.toNat / 8 then 1 else 3

/-- A request stands in the NEW queue of 64 entries: it has been presented (R129, R142). -/
def Slice.present (x : Slice) (r : Req) : Slice :=
  { x with roster := x.roster.map (fun t => if t.agent = r.q.agent ∧ t.tag = r.q.tag then { t with inside := true, shown := true } else t) }

/-- The head of NEW leaves; a request that the full queue held back at the router enters it (R129). -/
def Slice.popNew (x : Slice) (rest : List Req) : Slice :=
  let x := { x with new := rest }
  match rest[63]? with
  | some r => x.present r
  | none => x

/-- A new request enters its home slice's NEW queue, or while that is full waits at the slice's router; ptr becomes the port after
its port (R129, R131). Each arrival is a core cycle of its own: DEDUCED, log 41. -/
def State.toNew (s : State) (r : Req) : State :=
  let i := s.homeAt r.la (bucketOf r.q.laddr)
  (s.inject (.att r.la) (.slice i) (if r.op.rwd then 2 else 1)
    (if r.op.rwd then rwdBody r.op r.q r.buf else headerBody (reqHeader r.op r.q)) []).modSl i (fun x =>
    let y := { x with new := x.new ++ [r], ptr := inPort r.la i + 1 }
    if x.new.length < 64 then y.present r else y)

/-- A write matched to a snoop enters its home slice's WB queue (R107, R129). -/
def State.toWb (s : State) (r : Req) : State :=
  let i := s.homeAt r.la (bucketOf r.q.laddr)
  (s.inject (.att r.la) (.slice i) 3 (rwdBody r.op r.q r.buf) []).modSl i (fun x => { x with wb := x.wb ++ [r] })

/-- A message of the RSP class enters a slice's queue. -/
def State.toRsp (s : State) (i : SliceId) (m : RspMsg) : State := s.modSl i (fun x => { x with rsp := x.rsp ++ [m] })

/-- A message of the INT class enters a slice's queue. -/
def State.toInt (s : State) (i : SliceId) (m : IntMsg) : State := s.modSl i (fun x => { x with int := x.int ++ [m] })

/-! ## Write-data buffers and credits -/

/-- A write-data buffer is freed and its RWD credit returned (R107, R108). -/
def State.freeBuf (s : State) (k : AttId) (b : Option (BitVec 5)) : State :=
  match b with
  | none => s
  | some i => (s.modAtt k (fun a => { a with bufs := Store.set none a.bufs i.toNat none })).giveBack k 0 1

/-- A REQ credit is returned. -/
def State.retReq (s : State) (k : AttId) : State := s.giveBack k 1 0

/-- An RWD credit returns. -/
def State.retRwd (s : State) (k : AttId) : State := s.giveBack k 0 1

/-- A request leaves the edge without entering the block: its credit is returned, with its buffer if it has one. -/
def State.dropReq (s : State) (r : Req) : State := if r.op.rwd then s.freeBuf r.la r.buf else s.retReq r.la

/-- The lowest free write-data buffer takes a write's data (R99, R107); `none` where all 32 are in use. -/
def State.takeBuf (s : State) (k : AttId) (q : ReqHdr) (w : WrData) (snoop : Bool) : State × Option (BitVec 5) :=
  match Store.lowestFree none (s.att k).bufs 32 with
  | none => (s, none)
  | some i =>
    let b : WBuf := { w := w, psn := q.psn, snoop := snoop, high := decide (8 ≤ q.ncnt.toNat) }
    (s.modAtt k (fun a => { a with bufs := Store.set none a.bufs i (some b) }), some (BitVec.ofNat 5 i))

/-- The buffers that ordinary writes hold, of those whose NCNT is 8 or more or not as `high` says (R107, R143). -/
def Att.ordBufs (a : Att) (p : WBuf → Bool) : Nat :=
  (a.bufs.filter (fun e => match e.2 with | some b => !b.snoop && p b | none => false)).length

/-- An ordinary write finds room: fewer than 24 ordinary writes, and fewer than 20 of NCNT below 8 for one of those
(R107, R143). -/
def Att.writeRoom (a : Att) (q : ReqHdr) : Bool :=
  decide (a.ordBufs (fun _ => true) < 24) && (decide (8 ≤ q.ncnt.toNat) || decide (a.ordBufs (fun b => !b.high) < 20))

/-! ## The order table and the gate (R190 to R194) -/

/-- One pair (AGENT, OTAG). -/
def samePair (a b : ReqHdr) : Bool := decide (a.agent = b.agent) && decide (a.otag = b.otag)

/-- Whether an earlier request of the table keeps a later one waiting (R191). -/
def mustWait (e r : Req) : Bool :=
  samePair e.q r.q && (!r.op.ordRead || e.op.ordRead || decide (e.op = .fence) || decide (e.q.laddr = r.q.laddr))

/-- A request's turn has come: no earlier entry keeps it waiting (R191). -/
def turnOf (earlier : List OrdEntry) (r : Req) : Bool := !(earlier.any (fun e => mustWait e.req r))

/-- The entries that stand before the entry of an agent's tag. -/
def beforeEntry (o : List OrdEntry) (a : AgentId) (t : BitVec 16) : List OrdEntry :=
  o.takeWhile (fun e => !(decide (e.req.q.agent = a) && decide (e.req.q.tag = t)))

/-- The entry of an agent's tag. -/
def findEntry (o : List OrdEntry) (a : AgentId) (t : BitVec 16) : Option OrdEntry :=
  o.find? (fun e => decide (e.req.q.agent = a) && decide (e.req.q.tag = t))

/-- The table without the entry of an agent's tag. -/
def dropEntry : List OrdEntry → AgentId → BitVec 16 → List OrdEntry
  | [], _, _ => []
  | e :: o, a, t => if e.req.q.agent = a ∧ e.req.q.tag = t then o else e :: dropEntry o a t

/-- The table with the entry of an agent's tag changed. -/
def modEntry (f : OrdEntry → OrdEntry) : List OrdEntry → AgentId → BitVec 16 → List OrdEntry
  | [], _, _ => []
  | e :: o, a, t => if e.req.q.agent = a ∧ e.req.q.tag = t then f e :: o else e :: modEntry f o a t

/-- Messages held in the gate (R194). -/
def Att.gated (a : Att) : Nat := (a.order.filter (·.gated)).length

/-- The edge answers a request RETRY under R193 or R194. -/
def State.edgeRetry (s : State) (r : Req) : State :=
  let s := (s.egNdr r.la (retryNdr r.q (s.backoff r.q.agent))).dropReq r
  (s.incF (Fld.la r.la 0x124 0 16)).count (cLa r.la 13) 1

/-- A message to a unit in bounce mode is on its way back to its sender (R264, R266), and the gate counts it. -/
def State.bounceAt (s : State) (k : AttId) (b : Bounced) : State :=
  let s := s.attBounced k
  { s with mesh := { s.mesh with bounced := s.mesh.bounced ++ [b] } }

/-- A sweep request reaches a port's sweep engine, or comes back (R202, R264). -/
def State.sendSweep (s : State) (m : PortId) (f : JoinedFence) : State :=
  let s := s.inject (.att f.la) (.port m) 0x1A (Config.body 0x1A [f.entry.toNat, f.agent.toNat]) []
  if !s.portBounces m then s.modMp m (fun p => { p with sweepReqs := p.sweepReqs ++ [f] })
  else
    let s := s.mpBounced m
    { s with mesh := { s.mesh with bounced := s.mesh.bounced ++ [.sweep m f] } }

/-- An entry is freed. -/
def State.freeEntry0 (s : State) (k : AttId) (a : AgentId) (t : BitVec 16) : State :=
  match findEntry (s.att k).order a t with
  | none => s
  | some _ => s.modAtt k (fun x => { x with order := dropEntry x.order a t })

/-- The edge answers a request it holds an entry for with ERROR, and its entry is free (R190). -/
def State.edgeError (s : State) (r : Req) : State := ((s.egNdr r.la (errNdr r.q)).freeEntry0 r.la r.q.agent r.q.tag).dropReq r

/-- The fence logic takes a FENCE at the lowest free entry and sends its sweep requests (R202). -/
def State.fenceTake (s : State) (k : AttId) (i : Nat) (r : Req) : State :=
  let f : FenceEntry :=
    { agent := r.q.agent, tag := r.q.tag, otag := r.q.otag, start := s.now, ports := [], err := false, dead := false }
  let s := s.modAtt k (fun a => { a with fences := Store.set none a.fences i (some f) })
  let s := allPorts.foldl (fun s m => s.sendSweep m
    { la := k, entry := BitVec.ofNat 2 i, agent := r.q.agent, left := 1024, rews := [], closed := false }) s
  (s.retReq k).count (cLa k 14) 1

/-- The gate passes a request into the block: check 3, and for a FENCE checks 3 and 4 (R98, R202, R280, R347, R392). -/
def State.passIn (s : State) (r : Req) : State :=
  let st := (s.agent r.q.agent).st
  match s.mode with
  | .hold => s.edgeError r
  | .serve | .shed =>
    if r.op = .fence then
      (if st = .joining then (s.egNdr r.la (retryNdr r.q (s.backoff r.q.agent))).dropReq r
       else if st = .active ∨ st = .leaving then
         (match Store.lowestFree none (s.att r.la).fences 4 with
          | some i => s.fenceTake r.la i r
          | none => s)
       else (s.refuse r.la Fld.notActive).edgeError r)
    else if s.inWindow r.q.laddr then
      (if st = .joining then (s.egNdr r.la (retryNdr r.q (s.backoff r.q.agent))).dropReq r
       else if st = .active then
         (if r.op = .rdCur ∧ (s.agent r.q.agent).perfRead then
            ((s.inject (.att r.la) .hub 0x26 (Config.body 0x26 [r.q.laddr.toNat % 8192]) []).modAtt r.la (fun a => { a with
              winRd := a.winRd ++ [r] })).retReq r.la
          else (s.refuse r.la Fld.perm).edgeError r)
       else if st = .leaving ∧ (r.op.plainWrite ∨ r.op = .evictClean) then (s.refuse r.la Fld.perm).edgeError r
       else (s.refuse r.la Fld.notActive).edgeError r)
    else (if r.op.rwd then s else s.retReq r.la).toNew r
  | _ => (s.egNdr r.la (retryNdr r.q (BitVec.ofNat 12 (s.fld ⟨0x70008, 0, 12⟩)))).dropReq r

/-- The gate can pass a request: its turn has come, and for a FENCE an entry is free; checks 3 and 4 are made in the cycle
in which it takes that entry (R98, R202, R204). -/
def State.canPass (s : State) (earlier : List OrdEntry) (r : Req) : Bool :=
  turnOf earlier r && (decide (r.op ≠ .fence) || (Store.lowestFree none (s.att r.la).fences 4).isSome)

/-- The barrier of a pair, if one stands (R193). -/
def Att.barrier (a : Att) (q : ReqHdr) : Option Barrier :=
  a.barriers.find? (fun b => decide (b.agent = q.agent) && decide (b.otag = q.otag))

/-- The barriers without that of a pair. -/
def Att.noBarrier (a : Att) (q : ReqHdr) : Att :=
  { a with barriers := a.barriers.filter (fun b => !(decide (b.agent = q.agent) && decide (b.otag = q.otag))) }

/-- A barrier refuses a request of its pair with another TAG (R193). -/
def Att.barred (a : Att) (q : ReqHdr) : Bool := (a.barrier q).any (fun b => decide (b.tag ≠ q.tag))

/-- A request is accepted: it takes an order-table entry, with the number of its acceptance, and a barrier on its pair clears
(R193, R194). -/
def Att.enter (a : Att) (r : Req) (gated : Bool) : Att :=
  let a := a.noBarrier r.q
  { a with order := a.order ++ [{ req := r, gated := gated, left := 2, acc := a.accN }], accN := a.accN + 1 }

/-- A request takes an order-table entry: it passes at once, is held in the gate, or as a 49th held message receives RETRY and
is not accepted (R194). -/
def State.enterOrder (s : State) (r : Req) : State :=
  let a := s.att r.la
  if s.canPass a.order r then (s.modAtt r.la (fun a => a.enter r false)).passIn r
  else if a.gated < 48 then (s.modAtt r.la (fun a => a.enter r true)).count (cLa r.la 12) 1
  else s.edgeRetry r

/-- Freed entries let the requests that wait in the input queues take entries, in the order in which they arrived (R194): each
is accepted as on arrival, so that a barrier that now stands refuses it (R193). -/
def State.pullLoop : Nat → AttId → State → State
  | 0, _, s => s
  | n + 1, k, s =>
    let a := s.att k
    match a.waitIn with
    | [] => s
    | r :: rest =>
      if 512 ≤ a.order.length then s
      else
        let s := s.modAtt k (fun a => { a with waitIn := rest })
        State.pullLoop n k (if a.barred r.q then s.edgeRetry r else s.enterOrder r)

/-- The requests that wait in an attachment's input queues take what entries are free. -/
def State.pullWait (s : State) (k : AttId) : State := State.pullLoop (s.att k).waitIn.length k s

/-- An entry is freed, and a request that waits for one can take it. -/
def State.freeEntry (s : State) (k : AttId) (a : AgentId) (t : BitVec 16) : State :=
  match findEntry (s.att k).order a t with
  | none => s
  | some _ => (s.freeEntry0 k a t).pullWait k

/-- A completion message of a request has entered the edge's egress queues: the request is performed once the last one
has (R190). -/
def State.performPart (s : State) (k : AttId) (a : AgentId) (t : BitVec 16) (parts : BitVec 2) : State :=
  match findEntry (s.att k).order a t with
  | none => s
  | some e =>
    if parts = 2 ∧ e.left = 2 then
      s.modAtt k (fun x => { x with order := modEntry (fun e => { e with left := 1 }) x.order a t })
    else s.freeEntry k a t

/-- An NDR completion other than RETRY and CONFLICT_ACK goes to an agent's attachment and performs its part. -/
def State.complete (s : State) (k : AttId) (n : Ndr) : State := (s.egNdr k n).performPart k n.agent n.tag n.parts

/-- An NDR message of a slice on the Armature. -/
def State.sendNdrMsg (s : State) (i : SliceId) (k : AttId) (n : Ndr) : State :=
  s.inject (.slice i) (.att k) 0x11 (headerBody n.header) []

/-- A slice's completion reaches its attachment's edge over the Armature. -/
def State.deliver (s : State) (i : SliceId) (k : AttId) (n : Ndr) : State :=
  let s := s.sendNdrMsg i k n
  if !s.attBounces k then s.complete k n else s.bounceAt k (.ndr k n)

/-- A slice's RETRY or CONFLICT_ACK reaches its attachment's edge, performing nothing. -/
def State.routeNdr (s : State) (i : SliceId) (k : AttId) (n : Ndr) : State :=
  let s := s.sendNdrMsg i k n
  if !s.attBounces k then s.egNdr k n else s.bounceAt k (.ndr k n)

/-- A snoop reaches its attachment's edge. -/
def State.routeBisnp (s : State) (i : SliceId) (k : AttId) (b : Bisnp) : State :=
  let s := s.inject (.slice i) (.att k) 0x10 (headerBody b.header) []
  if !s.attBounces k then s.egBisnp k b else s.bounceAt k (.snoop k b)

/-- A DATA_PULL reaches its attachment's edge (R108). -/
def State.routePull (s : State) (k : AttId) (p : Pull) : State :=
  let s := s.inject (.slice p.slice) (.att k) 0x12
    (Config.body 0x12 [p.buf.toNat, ((p.port.map (·.toNat)).getD 32), p.tag.toNat]) []
  if !s.attBounces k then s.modAtt k (fun a => { a with pulls := a.pulls ++ [p] }) else s.bounceAt k (.pull k p)

/-- The CMP of a FENCE (R202, R205): with ERROR where a port's PERSIST_FENCE failed or its agent was fenced (R204). -/
def State.fenceCmp (s : State) (k : AttId) (f : FenceEntry) (err : Bool) : State :=
  let s := s.complete k { op := .cmp, agent := f.agent, tag := f.tag, htag := 0, status := if err then .error else .ok,
                          parts := 0, backoff := 0, otag := f.otag }
  ((s.incF (Fld.la k 0x128 16 16)).maxF (Fld.la k 0x12C 0 32) (s.now - f.start)).count (cLa k 15) 1

/-! ## Acceptance (R35, R51, R98, R107, R148, R193) -/

/-- CONFLICT (R148): check 3 is made at acceptance, and then it enters the RSP queue of the line's slice, where a pass makes
checks 4 and 5 and answers it. It is held nowhere (R192). -/
def State.acceptConflict (s : State) (r : Req) : State :=
  let s := s.retReq r.la
  match s.mode with
  | .hold => s
  | .serve | .shed | .quiesce =>
    let i := s.homeAt r.la (bucketOf r.q.laddr)
    (s.inject (.att r.la) (.slice i) 4 (headerBody (reqHeader r.op r.q)) []).toRsp i (.conflict r.la r.q)
  | _ => s.egNdr r.la (retryNdr r.q (BitVec.ofNat 12 (s.fld ⟨0x70008, 0, 12⟩)))

/-- A request whose buffer, if it needs one, is taken: the order table holds it, or its input queue while the table is full or
an earlier request waits there (R194). -/
def State.acceptOrdered (s : State) (r : Req) : State :=
  let a := s.att r.la
  if 512 ≤ a.order.length ∨ a.waitIn.any (fun x => decide (x.op.rwd = r.op.rwd)) then
    s.modAtt r.la (fun a => { a with waitIn := a.waitIn ++ [r] })
  else s.enterOrder r

/-- A request that checks 1 and 2 have passed (R98, R107, R193, R194). -/
def State.acceptChecked (s : State) (r : Req) (w : WrData) : State :=
  let a := s.att r.la
  if s.mode = .hold then
    (if r.op.rwd then s.retRwd r.la else s.retReq r.la).egNdr r.la (errNdr r.q)
      |>.incF ⟨0x70114, 16, 16⟩
  else if r.op.plainWrite ∧ (r.q.agent, r.q.laddr) ∈ a.snooped then
    let (s, b) := s.takeBuf r.la r.q w true
    (s.toWb { r with buf := b }).count (cLa r.la 16) 1
  else
    if a.barred r.q then
      (if r.op.rwd then
        let s := s.retRwd r.la
        ((s.egNdr r.la (retryNdr r.q (s.backoff r.q.agent))).incF (Fld.la r.la 0x124 0 16)).count (cLa r.la 13) 1
      else s.edgeRetry r)
    else if r.op.rwd then
      (if a.writeRoom r.q then
        let (s, b) := s.takeBuf r.la r.q w false
        s.acceptOrdered { r with buf := b }
      else
        let s := s.retRwd r.la
        (s.egNdr r.la (retryNdr r.q (s.backoff r.q.agent))).count (cLa r.la 17) 1)
    else s.acceptOrdered r

/-- An ERROR on the attachment where a request arrived, its credit returned (R38, R51). -/
def State.arrivalError (s : State) (op : Op) (la : AttId) (q : ReqHdr) (f : AttId → Fld) : State :=
  let s := if op.rwd then s.retRwd la else s.retReq la
  (s.refuse la f).egNdr la (errNdr q)

/-- A message of REQ or RWD takes its credit; without one a gap marker forms, which is FATAL (R35, R263). -/
def State.takeCredit (s : State) (rwd : Bool) (la : AttId) : Option State :=
  let a := s.att la
  let s := s.crossing (.att la) (if rwd then 1 else 0)
  if rwd then (if a.rwdCr = 0 then none else some ((s.setAtt la { a with rwdCr := a.rwdCr - 1 }).giveBack la 0 0))
  else (if a.reqCr = 0 then none else some ((s.setAtt la { a with reqCr := a.reqCr - 1 }).giveBack la 0 0))

/-- A request arrives at an attachment: R51's AGENT 0xFFF, checks 1 and 2, then acceptance. -/
def State.accept (s : State) (op : Op) (la : AttId) (q : ReqHdr) (w : WrData) : State :=
  match s.takeCredit op.rwd la with
  | none => s.fatal 3 1 la.toNat (if op.rwd then 1 else 0)
  | some s =>
    let s := s.count (cLa la (if op.rwd then 1 else 0)) 1
    if q.agent = 0xFFF then
      (if op.rwd then s.retRwd la else s.retReq la).refuse la Fld.spoof
    else if op = .hatom ∧ !atomOk q then s.arrivalError op la q Fld.format
    else if (s.agent q.agent).la ≠ la then s.arrivalError op la q Fld.spoof
    else if op = .conflict then s.acceptConflict { op := op, la := la, q := q, buf := none }
    else s.acceptChecked { op := op, la := la, q := q, buf := none } w

/-- No data: the operand of a request on REQ. -/
def noData : WrData := { be := 0, data := 0 }

/-- An attachment that has acknowledged the closing of its gate sends nothing (R265): where it does, the manual promises
nothing (R9). -/
def State.silent (s : State) (la : AttId) : Bool := decide ((s.att la).gate ≠ .opened) && (s.att la).gateAck

/-- A request message of an attachment. -/
def request (op : Op) (la : AttId) (q : ReqHdr) (w : WrData) (s : State) : Host.Outcome State Fault Refusal :=
  if s.silent la then .fault .noPromise else .next (s.accept op la q w)

/-! ## Responses on BIRSP (R40, R48, R55, R107) -/

/-- A snoop of a slot still answers to an agent (R40): it has been sent, and a copy's response is still owed. -/
def Slot.openSnoop (x : Slot) (a : AgentId) : Bool :=
  x.snoops.any (fun n => decide (n.agent = a) && decide (n.copies ≠ 0) && decide (n.st ≠ .queued))

/-- The slot a home tag names. -/
def State.slotOf (s : State) (h : BitVec 16) : Option Slot :=
  Store.get none (s.sl (htagSlice h)).slots (htagSlot h).toNat

/-- The clamping bounds of pacing calibration on SNP_TO, CAL_TO (R55, R234). -/
def State.clampTo (s : State) (v : Nat) : BitVec 16 :=
  let mn := s.fld ⟨0x60004, 0, 16⟩
  let mx := s.fld ⟨0x60004, 16, 16⟩
  BitVec.ofNat 16 (if mx < v then mx else if v < mn then mn else v)

/-- A calibration sample with its arrival stamp joins a slice's 4-entry queue, whose last entry is a gap marker's: where it finds
no other place it is dropped and counted (R231, R262). -/
def State.calSample (s : State) (i : SliceId) (a : AgentId) (rtt arrived : Nat) : State :=
  let q := obsPut (s.sl i).calQ 3 (a, rtt, arrived)
  let s := if fullFrom (s.sl i).calQ 3 then s.incF ⟨0x60018, 16, 16⟩
    else s.inject (.slice i) .hub 0x23 (Config.body 0x23 [a.toNat, rtt]) []
  let s := s.modSl i (fun x => { x with calQ := q.1 })
  if q.2 then s.gapNote (.slice i) 47 else s

/-- A JOIN fails: ABSENT, RESULT 4, its probes abandoned (R55). -/
def State.joinFail (s : State) (a : AgentId) : State :=
  s.modAgent a (fun x => { x with st := .absent, result := 4, join := none })

/-- The answer to a join probe of a home tag (R55, R56). The seed of SNP_TO, four times the longest round trip in ns, is rounded up
to units of 8 ns: DESIGN CHOICE, log 51. -/
def State.probeAnswer (s : State) (a : AgentId) (op : RspOp) (h : BitVec 16) (j : JoinProbe) : State :=
  match j.stamps.find? (fun p => decide (p.1 = h)) with
  | none => s
  | some p =>
    if op ≠ .i then s.joinFail a
    else
      let rtt := s.now - p.2
      let rest := j.stamps.erase p
      let longest := if j.longest < rtt then rtt else j.longest
      let s := s.calSample (s.home (BitVec.ofNat 40 s.castLine0)) a rtt s.now
      if rest = [] then
        s.modAgent a (fun x => { x with st := .active, result := 1, join := none, snpTo := s.clampTo ((4 * longest + 7) / 8),
                                        backoff := BitVec.ofNat 16 (s.fld ⟨0x60008, 0, 12⟩) })
      else s.modAgent a (fun x => { x with join := some { j with stamps := rest, longest := longest } })

/-- The JOIN of a JOINING agent that has an open probe of a home tag (R40, R55, R56). -/
def State.openProbe (s : State) (a : AgentId) (h : BitVec 16) : Option JoinProbe :=
  if (s.agent a).st = .joining then (s.agent a).join.filter (fun j => j.stamps.any (fun p => decide (p.1 = h))) else none

/-- A snoop response arrives at an attachment (R35, R40, R51, R107, R392). -/
def State.birsp (s : State) (la : AttId) (op : RspOp) (a : AgentId) (h : BitVec 16) (l : Line) : State :=
  if (s.att la).birspCr = 0 then s.fatal 3 1 la.toNat 2
  else
    let s := (s.crossing (.att la) 2).count (cLa la 2) 1
    if a = 0xFFF then s.refuse la Fld.spoof
    else if (s.agent a).la ≠ la then s.refuse la Fld.spoof
    else if s.held then s
    else
      match s.openProbe a h with
      | some j => (s.modAtt la (fun x => { x with snooped := x.snooped.erase (a, l) })).probeAnswer a op h j
      | none =>
        if ((s.slotOf h).map (·.openSnoop a)).getD false then
          ((s.modAtt la (fun x => { x with snooped := x.snooped.erase (a, l) })).inject (.att la) (.slice (htagSlice h)) 5
            (headerBody (birspHeader op.code a h l)) []).toRsp (htagSlice h) (.birsp op a h l s.now)
        else s.refuse la Fld.format

/-- A completion of a slot awaits its acknowledgement from an agent (R40, R99). -/
def Slot.awaitsAck (x : Slot) (a : AgentId) : Bool :=
  x.eack && (match x.req with | some r => decide (r.q.agent = a) | none => false)

/-- An EGRESS_ACK arrives at an attachment (R40, R48, R51, R392). -/
def State.eack (s : State) (la : AttId) (a : AgentId) (h : BitVec 16) : State :=
  if (s.att la).birspCr = 0 then s.fatal 3 1 la.toNat 2
  else
    let s := ((s.crossing (.att la) 2).count (cLa la 2) 1).count (cLa la 10) 1
    if a = 0xFFF then s.refuse la Fld.spoof
    else if (s.agent a).la ≠ la then s.refuse la Fld.spoof
    else if s.held then s
    else if ((s.slotOf h).map (·.awaitsAck a)).getD false then
      (s.inject (.att la) (.slice (htagSlice h)) 5 (headerBody (birspHeader 8 a h 0)) []).toRsp (htagSlice h) (.eack a h)
    else s.refuse la Fld.format

/-! ## Egress (R36, R107, R136, R192, R193) -/

/-- A RETRY leaves the edge: its entry is freed, every held request of its pair receives RETRY too, and a barrier stands
on the pair, naming the earliest-accepted of the pair's RETRYed requests; one that stands already names a request accepted
earlier than its own, and keeps the moment at which it was set (DESIGN CHOICE, log 52) (R193). -/
def State.retryLeft (s : State) (k : AttId) (n : Ndr) : State :=
  let a := s.att k
  let pair (e : OrdEntry) : Bool := decide (e.req.q.agent = n.agent) && decide (e.req.q.otag = n.otag)
  let hit (e : OrdEntry) : Bool := pair e && (e.gated || decide (e.req.q.tag = n.tag))
  let first := match a.order.find? hit with | some e => (e.req.q.tag, some e.acc) | none => (n.tag, none)
  let earlier (b : Barrier) : Bool :=
    match first.2, b.acc with
    | some x, some y => decide (x < y)
    | some _, none => true
    | none, _ => false
  let gated := a.order.filter (fun e => pair e && e.gated)
  let s := s.modAtt k (fun a => { a with
    order := a.order.filter (fun e => !hit e),
    barriers := if a.barriers.any (fun b => decide (b.agent = n.agent) && decide (b.otag = n.otag)) then
        a.barriers.map (fun (b : Barrier) =>
          if decide (b.agent = n.agent) && decide (b.otag = n.otag) && earlier b then { b with tag := first.1, acc := first.2 } else b)
      else a.barriers ++ [{ agent := n.agent, otag := n.otag, tag := first.1, acc := first.2, setAt := s.now }] })
  let s := gated.foldl (fun s e => s.edgeRetry e.req) s
  s.pullWait k

/-- A BISNP leaves the edge: its record is set, and a write of the agent for the line that the gate holds, or that waits for an
order-table entry, is released as a snoop-response write (R107, R192). That a waiting one is too: DEDUCED, log 53. -/
def State.snoopLeft (s : State) (k : AttId) (b : Bisnp) : State :=
  let m (e : OrdEntry) : Bool := e.gated && e.req.op.plainWrite && decide (e.req.q.agent = b.agent) && decide (e.req.q.laddr = b.laddr)
  let w (r : Req) : Bool := r.op.plainWrite && decide (r.q.agent = b.agent) && decide (r.q.laddr = b.laddr)
  let free := ((s.att k).order.filter m).map (·.req) ++ (s.att k).waitIn.filter w
  let s := s.modAtt k (fun a => { a with
    waitIn := a.waitIn.filter (fun r => !w r),
    snooped := if (b.agent, b.laddr) ∈ a.snooped then a.snooped else a.snooped ++ [(b.agent, b.laddr)],
    order := a.order.filter (fun e => !m e) })
  let s := free.foldl (fun s e => (s.modAtt k (fun a => { a with bufs := (match e.buf with
    | some i => Store.set none a.bufs i.toNat ((Store.get none a.bufs i.toNat).map (fun x => { x with snoop := true }))
    | none => a.bufs) })).toWb e) s
  if free = [] then s else s.pullWait k

/-- A part of a completion has left the block: the EGRESS_ACK is owed from the last one on (R49). -/
def State.partLeft (s : State) (h : BitVec 16) (a : AgentId) : State :=
  match s.slotOf h with
  | none => s
  | some x =>
    if x.parts ≠ 0 ∧ ((x.req.map (fun r => decide (r.q.agent = a))).getD false) then
      s.modSl (htagSlice h) (fun y => { y with slots := Store.set none y.slots (htagSlot h).toNat (some { x with
        partsOut := x.partsOut + 1, eackAt := if x.parts.toNat ≤ x.partsOut + 1 then some s.now else x.eackAt }) })
    else s

/-- A credit is spent on a channel whose advertisement has ended (R430). -/
def Credits.spend (c : Credits) : Option Credits := if c.advOpen ∨ c.n = 0 then none else some { c with n := c.n - 1 }

/-- The head of the NDR egress queue leaves with a credit. -/
def State.sendNdr (s : State) (k : AttId) : State :=
  let a := s.att k
  match a.ndrQ with
  | [] => s
  | (_, n) :: rest =>
    match a.ndrC.spend with
    | none => s.count (cLa k 6) 1
    | some c =>
      let s := (s.setAtt k { a with ndrQ := rest, ndrC := c, ndrPin := some n }).crossing (.att k) 3
      let s := s.count (cLa k 3) 1
      let s := if n.op = .retry then s.count (cLa k 8) 1 else s
      let s := if n.status = .error then s.count (cLa k 9) 1 else s
      let s := if n.parts ≠ 0 then s.partLeft n.htag n.agent else s
      if n.op = .retry then s.retryLeft k n else s

/-- The head of the DRS egress queue leaves with a credit. -/
def State.sendDrs (s : State) (k : AttId) : State :=
  let a := s.att k
  match a.drsQ with
  | [] => s
  | (_, d) :: rest =>
    match a.drsC.spend with
    | none => s.count (cLa k 6) 1
    | some c =>
      let s := ((s.setAtt k { a with drsQ := rest, drsC := c, drsPin := some d }).crossing (.att k) 4).count (cLa k 4) 1
      if d.parts ≠ 0 then s.partLeft d.htag d.agent else s

/-- The head of the BISNP egress queue leaves with a credit, unless a DRS message for its agent entered before it
(R136). -/
def State.sendBisnp (s : State) (k : AttId) : State :=
  let a := s.att k
  match a.bisnpQ with
  | [] => s
  | (q, b) :: rest =>
    if a.drsQ.any (fun d => decide (d.2.agent = b.agent) && decide (d.1 < q)) then s
    else
      match a.bisnpC.spend with
      | none => s.count (cLa k 6) 1
      | some c =>
        (((s.setAtt k { a with bisnpQ := rest, bisnpC := c, bisnpPin := some b }).crossing (.att k) 5).count (cLa k 5) 1).snoopLeft k b

end Sys2Proof.Machine
end

