-- ==== Sys2Proof/Machine/Slice.lean ====
section
/-! DEFINITION. The slice's arrays (chapters 3, 5, 15): directory cache, transit buffer, silhouette filter, records and
annex, holders and HELD, departure sweeps, and the commands a slice sends to memory ports. -/

namespace Sys2Proof.Machine

/-! ## Directory cache (R71, R74) -/

/-- The keys of the 16 ways of a set, in ascending way order. -/
def wayKeys (set : BitVec 12) : List Nat := (List.range 16).map (fun w => set.toNat * 16 + w)

/-- The entry in a way. -/
def Slice.way (x : Slice) (k : Nat) : Option Entry := Store.get none x.dir k

/-- A way replaced. -/
def Slice.putWay (x : Slice) (k : Nat) (e : Option Entry) : Slice := { x with dir := Store.set none x.dir k e }

/-- The way that holds a line: its set's way whose LADDR equals it (R71). -/
def Slice.findWay (x : Slice) (l : Line) : Option (Nat × Entry) :=
  (wayKeys (setOf l)).findSome? (fun k => match x.way k with
    | some e => if e.line = l then some (k, e) else none
    | none => none)

/-- An entry's age (R74). -/
def Slice.ageOf (x : Slice) (e : Entry) : Nat := (x.ageClock - e.age).toNat

/-- The better victim of two unpinned ways: greater age, then CAST 1 with DIRTY 0, then the one met first (R74). -/
def Slice.victimOf (x : Slice) (best : Option (Nat × Entry)) (k : Nat) (e : Entry) : Option (Nat × Entry) :=
  match best with
  | none => some (k, e)
  | some (kb, b) =>
    if x.ageOf b < x.ageOf e then some (k, e)
    else if x.ageOf e < x.ageOf b then some (kb, b)
    else if (e.cast && !e.dirty) && !(b.cast && !b.dirty) then some (k, e)
    else some (kb, b)

/-- A resource is reserved for an escalated request: for every other it is not free (R141). -/
def Slice.keeps (x : Slice) (r : Res) : Bool := x.kept.any (fun e => decide (e.1 = r))

/-- The victim of a set (R74): `none` where every way is pinned, or reserved (R141). -/
def Slice.victim (x : Slice) (set : BitVec 12) : Option (Nat × Entry) :=
  (wayKeys set).foldl (fun b k => match x.way k with
    | some e => if e.pin || x.keeps (.way k) then b else x.victimOf b k e
    | none => b) none

/-- The lowest free way of a set. -/
def Slice.freeWay (x : Slice) (set : BitVec 12) : Option Nat :=
  (wayKeys set).find? (fun k => (x.way k).isNone && !x.keeps (.way k))

/-! ## Transit buffer (R70, R429, R431) -/

/-- Transit entry t. -/
def Slice.tr (x : Slice) (t : Nat) : Option Transit := Store.get none x.transit t
/-- Transit entry t replaced. -/
def Slice.putTr (x : Slice) (t : Nat) (v : Option Transit) : Slice := { x with transit := Store.set none x.transit t v }
/-- The lowest free transit entry (R99, R141). -/
def Slice.freeTr (x : Slice) : Option Nat := (List.range 16).find? (fun t => (x.tr t).isNone && !x.keeps (.transit t))

/-- The transit entries in use, with their numbers. -/
def Slice.trList (x : Slice) : List (Nat × Transit) :=
  (List.range 16).filterMap (fun t => (x.tr t).map (fun v => (t, v)))

/-- The transit entry that is authoritative for a line: not reserved, not copied back (R70, R429). An entry that holds the
line's holders comes before a fetch, and a fetch before a delete of the line's older record. -/
def Slice.findTr (x : Slice) (l : Line) : Option (Nat × Transit) :=
  let on (p : Nat × Transit) : Bool := decide (p.2.e.line = l) && !p.2.copied && decide (p.2.kind ≠ .reserved)
  let own (p : Nat × Transit) : Bool := on p && decide (p.2.kind ≠ .fetch) && decide (p.2.kind ≠ .delete)
  (x.trList.find? own).orElse (fun _ => (x.trList.find? (fun p => on p && decide (p.2.kind = .fetch))).orElse (fun _ =>
    x.trList.find? on))

/-- A transit entry as it begins. -/
def Transit.mk0 (k : TKind) (e : Entry) : Transit :=
  { kind := k, e := e, rds := [], reads := 0, writes := 0, moves := 0, bucket := 0, phase := 0, annex := none,
    copied := false, swp := false }

/-- A transit entry is given up: with commands outstanding it stays, consulted by none, until they have returned. -/
def Slice.dropTr (x : Slice) (t : Nat) : Slice :=
  x.putTr t ((x.tr t).bind (fun v => if v.reads = 0 ∧ v.writes = 0 then none else some { v with kind := .fetch, copied := true }))

/-- A transit entry that only carries writes a scan has decided: no lookup finds it (R382, R431). -/
def Transit.carrier (e : Entry) (swp : Bool) : Transit := { Transit.mk0 .fetch e with copied := true, swp := swp }

/-- An empty entry for a line. -/
def Entry.blank (l : Line) : Entry :=
  { line := l, own := false, hd := false, pin := false, dirty := false, cast := false, age := 0, holders := [],
    head := none }

/-! ## Silhouette filter (R90, R91) -/

/-- A silhouette counter. -/
def Slice.silAt (x : Slice) (k : Nat) : Nat := (Store.get 0 x.sil k).toNat

/-- A line's counters rise (R90); one that reaches 15 keeps it (R91). -/
def Slice.silUp (x : Slice) (l : Line) : Slice :=
  (silIdx l).foldl (fun x k => { x with sil := Store.set 0 x.sil k (if x.silAt k = 15 then 15 else BitVec.ofNat 4 (x.silAt k + 1)) }) x

/-- A line's counters fall: a sticky one stays, one at 0 becomes 15 (R91); during a rebuild, or its bucket's admission
scan, they stay (R92, R93). -/
def Slice.silDown (x : Slice) (l : Line) : Slice :=
  if x.rebuild.isSome || x.bypass.any (fun p => decide (p.bucket = bucketOf l)) then x
  else (silIdx l).foldl (fun x k =>
    let v := if x.silAt k = 15 then 15 else if x.silAt k = 0 then 15 else BitVec.ofNat 4 (x.silAt k - 1)
    { x with sil := Store.set 0 x.sil k v }) x

/-- The filter passes a line: all three counters nonzero, or a rebuild runs (R90, R92). -/
def Slice.silPass (x : Slice) (l : Line) : Bool := x.rebuild.isSome || (silIdx l).all (fun k => decide (x.silAt k ≠ 0))

/-- SIL_STAT.STICKY (R91). -/
def Slice.sticky (x : Slice) : Nat := (x.sil.filter (fun e => decide (e.2 = 15))).length

/-- A bucket is in bypass (R93, R382). -/
def Slice.bypassed (x : Slice) (b : BitVec 12) : Bool := x.bypass.any (fun p => decide (p.bucket = b)) || x.permByp.contains b

/-- A bucket enters permanent bypass (R382). -/
def Slice.byp (x : Slice) (b : BitVec 12) : Slice := if x.permByp.contains b then x else { x with permByp := x.permByp ++ [b] }

/-! ## Slots, chains, holds -/

/-- A slice's slots in use, with their numbers. -/
def Slice.slotList (x : Slice) : List (Nat × Slot) := x.slots.filterMap (fun e => e.2.map (fun v => (e.1, v)))
/-- Slot n. -/
def Slice.slot (x : Slice) (n : Nat) : Option Slot := Store.get none x.slots n
/-- Slot n replaced. -/
def Slice.putSlot (x : Slice) (n : Nat) (v : Option Slot) : Slice := { x with slots := Store.set none x.slots n v }
/-- The slot that holds a line. -/
def Slice.findSlot (x : Slice) (l : Line) : Option (Nat × Slot) :=
  x.slotList.find? (fun p => decide (p.2.line = l) && !p.2.released)
/-- A line is held (R100, R134). -/
def Slice.holds (x : Slice) (l : Line) : Bool := (x.findSlot l).isSome || x.handing.contains l

/-- A slice's chains in use. -/
def Slice.chainList (x : Slice) : List (Nat × Chain) := x.chains.filterMap (fun e => e.2.map (fun v => (e.1, v)))
/-- The chain of a line. -/
def Slice.findChain (x : Slice) (l : Line) : Option (Nat × Chain) := x.chainList.find? (fun p => decide (p.2.line = l))
/-- Ordinary waiters (R137). -/
def Slice.waiters (x : Slice) : Nat := (x.chainList.map (fun p => p.2.waiters.length)).sum
/-- Escalated waiters. -/
def Slice.escWaiters (x : Slice) : Nat := (x.chainList.filter (fun p => p.2.esc.isSome)).length

/-- The lowest free slot outside the reserve, which the model takes to be slots 1,020 to 1,023 (R99, R141; log 28). -/
def Slice.freeSlot (x : Slice) : Option Nat := Store.lowestFree none x.slots 1020
/-- The lowest free slot of the reserve (R141). -/
def Slice.freeReserve (x : Slice) : Option Nat :=
  (List.range 4).findSome? (fun k => if (x.slot (1020 + k)).isNone then some (1020 + k) else none)

/-- An escalation retry is queued at the head of INT when an escalated request may find a resource freed (R141). -/
def State.kickEsc (s : State) (i : SliceId) : State :=
  let x := s.sl i
  if x.escSlots = [] ∨ x.int.contains .escRetry then s else s.modSl i (fun x => { x with int := .escRetry :: x.int })

/-! ## Departure sweeps (R57 to R59) -/

/-- The record buckets and annex slots of a partition, which a scan visits one by one (R59). -/
def State.perPart (s : State) : Nat := s.castN + s.castA / 10

/-- The first bucket from b on whose partition a slice's scans visit. -/
def State.nextHomed (s : State) (i : SliceId) (b : Nat) : Option Nat :=
  (List.range 4096).find? (fun n => decide (b ≤ n) && s.scans i (BitVec.ofNat 12 n))

/-- The step after a scan's: a set, or 4,096 + b × perPart + k for the k-th bucket or slot of a partition (R59). -/
def State.scanNext (s : State) (i : SliceId) (pos : Nat) : Nat :=
  let n := pos + 1
  if n < 4096 then n
  else
    let b := (n - 4096) / s.perPart
    let k := (n - 4096) % s.perPart
    if k ≠ 0 ∧ s.scans i (BitVec.ofNat 12 b) then n
    else match s.nextHomed i (if k = 0 then b else b + 1) with
      | some b => 4096 + b * s.perPart
      | none => 0

/-- Waiting agents join a slice's scan where it stands while a place is free (R59). -/
def State.joinScan (s : State) (i : SliceId) : State :=
  let x := s.sl i
  let room := 16 - x.swept.length
  let n := x.sweepWait.take room
  if n = [] then s
  else s.modSl i (fun x => { x with swept := x.swept ++ n.map (fun a => { agent := a, start := x.scanPos, whole := false, extra := [] }), sweepWait := x.sweepWait.drop room })

/-- A sweep ends: SWEEP 0, a QUARANTINE agent becomes ABSENT (R58). -/
def State.sweepOff (s : State) (a : AgentId) : State :=
  let s := allSlices.foldl (fun s i =>
    let x := s.sl i
    if x.swept.any (fun w => decide (w.agent = a)) ∨ a ∈ x.sweepWait then
      ((s.modSl i (fun x => { x with swept := x.swept.filter (fun w => !decide (w.agent = a)), sweepWait := x.sweepWait.erase a })).fire
        (evSl i 14)).joinScan i
    else s) s
  s.modAgent a (fun x => { x with sweep := false, st := if x.st = .quarantine then .absent else x.st })

/-- A sweep begins: every active slice takes the agent (R58, R59), and a partition on its way to a new slice has not been swept
for it (R296). -/
def State.sweepOn (s : State) (a : AgentId) : State :=
  let s := s.modAgent a (fun x => { x with sweep := true })
  let s := { s with hmap := { s.hmap with hands := s.hmap.hands.map (fun h => (h.1, h.2.1, h.2.2.1, h.2.2.2.erase a)) } }
  allSlices.foldl (fun s i => if (s.sl i).active then (s.modSl i (fun x => { x with sweepWait := x.sweepWait ++ [a] })).joinScan i else s) s

/-- An agent enters QUARANTINE or FENCED (R58, R384): RAS_DEPART.SEQ counts it; with HELD 0 no sweep runs. -/
def State.depart (s : State) (a : AgentId) (fenced : Bool) : State :=
  let s := s.wrapF ⟨0x70118, 0, 32⟩
  let s := s.modAgent a (fun x => { x with st := if fenced then .fenced else .quarantine, join := none })
  if (s.agent a).held = 0 then (if fenced then s else s.modAgent a (fun x => { x with st := .absent })) else s.sweepOn a

/-! ## Holders and HELD (R58, R113) -/

/-- HELD rises. -/
def State.heldUp (s : State) (a : AgentId) : State := s.modAgent a (fun x => { x with held := x.held + 1 })
/-- HELD falls, and a sweep whose agent's HELD reaches 0 ends (R58). -/
def State.heldDown (s : State) (a : AgentId) : State :=
  let s := s.modAgent a (fun x => { x with held := x.held - 1 })
  if (s.agent a).sweep ∧ (s.agent a).held = 0 then s.sweepOff a else s

/-- HELD follows a change of a holder set (R113). -/
def State.heldDiff (s : State) (old new : List AgentId) : State :=
  let s := (new.filter (fun a => !old.contains a)).foldl State.heldUp s
  (old.filter (fun a => !new.contains a)).foldl State.heldDown s

/-! ## Vector pool (R77, R78) -/

/-- The blocks an entry's run covers. -/
def Entry.run (e : Entry) : List Nat := match e.head with | some h => (List.range (poolBlocks e.holders)).map (h + ·) | none => []

/-- Pool blocks in use in a slice. -/
def Slice.poolUsed (x : Slice) : List Nat := x.dir.flatMap (fun p => match p.2 with | some e => e.run | none => [])

/-- Pool blocks reserved for escalated requests (R141). -/
def Slice.keptBlocks (x : Slice) : List Nat :=
  x.kept.flatMap (fun e => match e.1 with | .run h n => (List.range n).map (h + ·) | _ => [])

/-- The lowest index that begins n free blocks (R78). -/
def Slice.findRun (x : Slice) (n : Nat) : Option Nat :=
  let used := x.poolUsed ++ x.keptBlocks
  (List.range (4097 - n)).find? (fun h => (List.range n).all (fun k => !used.contains (h + k)))

/-! ## Commands to memory ports (R108, R109, R387) -/

/-- The memory commands' numbers. -/
def MemOp.code : MemOp → Nat
  | .read => 0 | .write => 1 | .wpartial => 2 | .atomic => 3

/-- A memory command goes to its line's port over the Armature (R109, R251). -/
def State.sendCmd (s : State) (c : MemCmd) : State :=
  let m := portOf c.line
  let s := s.inject (.slice c.slice) (.port m) 0x18 (Config.body 0x18
    [c.op.code, c.line.toNat, c.tag.toNat, (c.htag.map (·.toNat)).getD 0, c.la.toNat, c.agent.toNat, c.rtag.toNat, c.parts.toNat,
     (c.kind.map (·.code)).getD 0]) []
  if !s.portBounces m then s.modMp m (fun p => { p with intake := p.intake ++ [c] })
  else { (s.mpBounced m) with mesh := { s.mesh with bounced := s.mesh.bounced ++ [.cmd m c] } }

/-- A PORT_RPT goes from its line's port to a slice over the Armature (R108, R251). -/
def State.rptTo (s : State) (i : SliceId) (r : PortRpt) : State :=
  (s.inject (.port (portOf r.line)) (.slice i) 8 (Config.body 8
    [(r.htag.map (·.toNat)).getD 0x10000, r.tag.toNat, MemStatus.code r.st, r.hdirty.toNat, r.line.toNat]) []).toInt i (.rpt r)

/-- A slice's next command tag (log 14). -/
def State.nextTag (s : State) (i : SliceId) : State × BitVec 16 :=
  (s.modSl i (fun x => { x with nextTag := x.nextTag + 1 }), (s.sl i).nextTag)

/-- The poisoning WRITE of a line (R387); every reservation naming the line is lost (R209). -/
def State.poison (s : State) (i : SliceId) (l : Line) (h : Option (BitVec 16)) : State × BitVec 16 :=
  let (s, t) := s.nextTag i
  let s := (s.loseRsv i (fun r => decide (r.line = l))).classPsn
  (s.sendCmd { op := .write, line := l, slice := i, htag := h, tag := t, la := 0, agent := 0xFFF, rtag := 0, parts := 0,
               poison := true, aop := 0, aw := 0, aoff := 0, kind := none }, t)

/-- A cast-store command goes to its bucket's port over the Armature, a WRITE with the 64 bytes behind it (R249, R251). -/
def State.sendCast (s : State) (c : CastCmd) : State :=
  let m := portOf c.addr
  let s := s.inject (.slice c.slice) (.port m) 0x19 (Config.body 0x19 [c.data.isSome.toNat, c.addr.toNat, c.transit])
    ((c.data.map dataMsgs).getD [])
  if !s.portBounces m then s.modMp m (fun p => { p with castIn := p.castIn ++ [c] })
  else { (s.mpBounced m) with mesh := { s.mesh with bounced := s.mesh.bounced ++ [.cast m c] } }

/-- What has a bucket: the transit entry that reads it, until what was read has been dealt with (the lock of R85), or 17
while a write of it is outstanding. -/
def Slice.lockOf (x : Slice) (a : Line) : Option Nat := (x.locks.find? (fun p => decide (p.1 = a))).map (·.2)

/-- The buckets that a transit entry has locked. -/
def Slice.heldBy (x : Slice) (t : Nat) : List Line := (x.locks.filter (fun p => decide (p.2 = t))).map (·.1)

/-- An access to a bucket is outstanding or waits (R88). -/
def Slice.bucketBusy (x : Slice) (a : Line) : Bool := (x.lockOf a).isSome || x.castQ.any (fun c => decide (c.addr = a))

/-- What a scan has read (R59, R92, R93). -/
def Slice.scanOf (x : Slice) (k : Nat) : ScanRd := Store.get ScanRd.reset x.scanRds k
/-- What a scan has read replaced. -/
def Slice.putScan (x : Slice) (k : Nat) (v : ScanRd) : Slice := { x with scanRds := Store.set ScanRd.reset x.scanRds k v }

/-- A bucket is written: what a scan has read of it no longer counts. -/
def Slice.scanStale (x : Slice) (a : Line) : Slice :=
  { x with scanRds := x.scanRds.foldl (fun m e =>
    Store.set ScanRd.reset m e.1 { e.2 with rds := e.2.rds.filter (fun p => !decide (p.1 = a)) }) x.scanRds }

/-- An access takes its bucket and goes to the memory port. -/
def State.castGo (s : State) (i : SliceId) (c : CastCmd) : State :=
  (s.modSl i (fun x =>
    let y := if c.data.isSome then x.scanStale c.addr else x
    { y with locks := y.locks.filter (fun p => !decide (p.1 = c.addr)) ++ [(c.addr, if c.data.isSome then 17 else c.transit)] })).sendCast c

/-- The precedence of an access (R89): fetches; spills, updates, deletes and annex slots; the rebuild and admission scans; the
departure sweep. -/
def Slice.castRank (x : Slice) (t : Nat) : Nat :=
  if t = 20 then 4
  else if 18 ≤ t then 3
  else match x.tr t with
    | some v => if v.swp then 4 else if v.kind = .fetch then 1 else 2
    | none => 2

/-- A transit entry reads a bucket; a later access to a bucket waits for the earlier one (R88). -/
def State.castRead (s : State) (i : SliceId) (t : Nat) (a : Line) : State :=
  let c : CastCmd := { slice := i, transit := t, addr := a, data := none, again := false, rank := (s.sl i).castRank t }
  let s := s.modSl i (fun x => x.putTr t ((x.tr t).map (fun v => { v with reads := v.reads + 1 })))
  if (s.sl i).bucketBusy a then s.modSl i (fun x => { x with castQ := x.castQ ++ [c] }) else s.castGo i c

/-- A scan reads a bucket (R59, R92, R93). -/
def State.scanRead (s : State) (i : SliceId) (k : Nat) (a : Line) : State :=
  (s.modSl i (fun x => x.putScan k { x.scanOf k with out := (x.scanOf k).out + 1 })).castRead i k a

/-- The bucket that a scan wants, as it was read, if it has come and has not been written since. -/
def Slice.scanned (x : Slice) (k : Nat) (a : Line) : Option BucketRead :=
  ((x.scanOf k).rds.find? (fun p => decide (p.1 = a))).map (·.2)

/-- A transit entry writes a bucket that it has read, or that nothing else accesses; otherwise the write waits (R88). The
entry is released only once the write is complete; transit 16 names no entry. -/
def State.castWrite (s : State) (i : SliceId) (t : Nat) (a : Line) (d : LineData) : State :=
  let c : CastCmd := { slice := i, transit := t, addr := a, data := some d, again := false, rank := max 2 ((s.sl i).castRank t) }
  let mine : Bool := decide ((s.sl i).lockOf a = some t) && (((s.sl i).tr t).map (fun v => decide (v.reads = 0))).getD false
  let s := s.modSl i (fun x => x.putTr t ((x.tr t).map (fun v => { v with writes := v.writes + 1 })))
  if (s.sl i).bucketBusy a && !mine then s.modSl i (fun x => { x with castQ := x.castQ ++ [c] }) else s.castGo i c

/-- A write takes its place ahead of the reads that wait for its bucket. -/
def putAhead (c : CastCmd) : List CastCmd → List CastCmd
  | [] => [c]
  | d :: ds => if d.addr = c.addr ∧ d.data = none then c :: d :: ds else d :: putAhead c ds

/-- A bucket is written by what holds its lock (R85): at once, or after a write of it that is outstanding. -/
def State.castOver (s : State) (i : SliceId) (t : Nat) (a : Line) (d : LineData) : State :=
  let c : CastCmd := { slice := i, transit := t, addr := a, data := some d, again := false, rank := max 2 ((s.sl i).castRank t) }
  let s := s.modSl i (fun x => x.putTr t ((x.tr t).map (fun v => { v with writes := v.writes + 1 })))
  if (s.sl i).lockOf a = some 17 then s.modSl i (fun x => { x with castQ := putAhead c x.castQ }) else s.castGo i c

/-- The next access that waits for a bucket goes (R88). -/
def State.castNext (s : State) (i : SliceId) (a : Line) : State :=
  if ((s.sl i).lockOf a).isSome then s
  else
    match (s.sl i).castQ.find? (fun c => decide (c.addr = a)) with
    | some c => (s.modSl i (fun x => { x with castQ := x.castQ.erase c })).castGo i c
    | none => s

/-- What a transit entry, or with 17 a write, still has of some buckets becomes free for the next access (R85, R88). -/
def State.castFree (s : State) (i : SliceId) (t : Nat) (as : List Line) : State :=
  as.foldl (fun s a => s.castNext i a) (s.modSl i (fun x => { x with
    locks := x.locks.filter (fun p => !(decide (p.2 = t) && as.contains p.1)) }))

/-- The INT message that starts a job on its line. -/
def Job.msg (l : Line) : Job → IntMsg
  | .recall t => .recallStart t
  | .recover mkr => .recoverStart l mkr
  | .sweep => .handOver l .sweep
  | .flow n => .handOver l (.flow n)

/-- A parked job that waits for a transit entry, or for one of the recoveries that run to end: a recall waits for a slot, which
is given to it when it frees. -/
def Job.waitsTr : Job → Bool
  | .recall _ => false
  | _ => true

/-- The first parked job that a freed resource may let go on stands at the head of INT (R124, R383, R431). -/
def State.kickJobs (s : State) (i : SliceId) : State :=
  match (s.sl i).jobPark.find? (fun p => p.2.waitsTr) with
  | none => s
  | some p => s.modSl i (fun x => { x with jobPark := x.jobPark.erase p, int := p.2.msg p.1 :: x.int })

/-- A resource of the slice has freed: escalated requests, escalated waiters that hold their line, and parked jobs try again
(R135, R141, R383): in INT the jobs stand first. -/
def State.kick (s : State) (i : SliceId) : State :=
  let s := s.kickEsc i
  let x := s.sl i
  (s.setSl i { x with int := x.escPark.map (fun p => .handOver p.1 (.waiter p.2 true)) ++ x.int, escPark := [] }).kickJobs i

/-! ## Records (R83, R87, R382) -/

/-- A record's fields. -/
structure Rec where
  line  : Line
  st    : Nat
  hd    : Bool
  annex : Bool
  scnt  : Nat
  gen   : Nat
  shr   : Nat
  deriving DecidableEq, Repr

/-- The record in half h (0 or 1) of a bucket. -/
def recAt (d : LineData) (h : Nat) : Rec :=
  let n := d.toNat / 2 ^ (256 * h) % 2 ^ 256
  { line := BitVec.ofNat 40 (n / 2 ^ 216), st := n / 2 ^ 214 % 4, hd := n.testBit 213, annex := n.testBit 212,
    scnt := n / 2 ^ 200 % 2 ^ 12, gen := n / 2 ^ 193 % 2 ^ 7, shr := n % 2 ^ 192 }

/-- A record as its 256 bits. -/
def Rec.bits (r : Rec) : Nat :=
  r.line.toNat * 2 ^ 216 + r.st * 2 ^ 214 + (if r.hd then 2 ^ 213 else 0) + (if r.annex then 2 ^ 212 else 0)
    + r.scnt * 2 ^ 200 + r.gen * 2 ^ 193 + r.shr

/-- A bucket with half h replaced. -/
def putRec (d : LineData) (h n : Nat) : LineData :=
  BitVec.ofNat 512 (d.toNat - d.toNat / 2 ^ (256 * h) % 2 ^ 256 * 2 ^ (256 * h) + n * 2 ^ (256 * h))

/-- An empty slot (R83). -/
def Rec.empty (r : Rec) (gen : Nat) : Bool := decide (r.st = 0) || (decide (r.gen ≠ gen))

/-- A lost marker (R382): STATE 0b11 with the current GEN. -/
def Rec.marker (r : Rec) (gen : Nat) : Bool := decide (r.st = 3) && decide (r.gen = gen)

/-- The IDs of an INLINE record (R83). -/
def inlineIds (n shr : Nat) : List AgentId := (List.range n).map (fun k => BitVec.ofNat 12 (shr / 2 ^ (12 * k)))

/-- SHARERS of an INLINE record: 0xFFF in unused places. -/
def inlineShr (h : List AgentId) : Nat :=
  ((List.range 16).map (fun k => (h.getD k 0xFFF).toNat * 2 ^ (12 * k))).sum

/-- The groups of a holder set in ascending order, with their words (R77). -/
def groupWords (h : List AgentId) : List (Nat × Nat) :=
  (List.range 64).filterMap (fun g =>
    let w := ((h.filter (fun a => decide (a.toNat / 64 = g))).map (fun a => 2 ^ (a.toNat % 64))).sum
    if w = 0 then none else some (g, w))

/-- The words of a run of blocks: the mask, then the group words (R77). -/
def poolWords (h : List AgentId) : List Nat :=
  ((groupWords h).map (fun p => 2 ^ p.1)).sum :: (groupWords h).map (·.2)

/-- A run's blocks of eight 64-bit words. -/
def blocksOf (h : List AgentId) : List LineData :=
  (List.range (1 + (groupsOf h - 7 + 7) / 8)).map (fun b =>
    BitVec.ofNat 512 (((List.range 8).map (fun w => (poolWords h).getD (8 * b + w) 0 * 2 ^ (64 * w))).sum))

/-- The holders that blocks record. -/
def holdersOfBlocks (bs : List LineData) : List AgentId :=
  let words := bs.flatMap (fun b => (List.range 8).map (fun w => b.toNat / 2 ^ (64 * w) % 2 ^ 64))
  match words with
  | [] => []
  | mask :: ws =>
    let gs := (List.range 64).filter (fun g => mask.testBit g)
    (gs.zip ws).flatMap (fun p => ((List.range 64).filter (fun k => p.2.testBit k)).map (fun k => BitVec.ofNat 12 (64 * p.1 + k)))

/-- The record of an entry; annex slot and count where it has 17 or more holders (R83). -/
def recOf (e : Entry) (gen : Nat) (slot : Nat) : Rec :=
  if e.holders.length ≤ 16 then
    { line := e.line, st := if e.own then 2 else 1, hd := e.hd, annex := false, scnt := e.holders.length, gen := gen,
      shr := inlineShr e.holders }
  else
    { line := e.line, st := if e.own then 2 else 1, hd := e.hd, annex := true, scnt := e.holders.length, gen := gen,
      shr := slot + (blocksOf e.holders).length * 2 ^ 17 }

/-- A record is uncorrectable on its face (R73, R83): STATE 0b11 that is no marker, or counts that do not fit. -/
def Rec.bad (r : Rec) : Bool :=
  decide (r.st = 3) || (decide (r.st = 2) && decide (r.scnt ≠ 1)) || (decide (r.st = 1) && decide (r.scnt = 0))
    || (decide (r.st ≠ 0) && ((decide (r.scnt ≤ 16) && r.annex) || (decide (16 < r.scnt) && !r.annex)))

/-- The current generation (R81). -/
def State.gen (s : State) : Nat := s.cast.gen.toNat

/-- A lost marker as written now (R382). -/
def State.markerBits (s : State) : Nat := 3 * 2 ^ 214 + s.gen * 2 ^ 193 + s.fld ⟨0x70118, 0, 32⟩

/-- The line address of the header bucket of annex slot k of a bucket's partition (R80, R87). -/
def State.annexAddr (s : State) (b : BitVec 12) (k j : Nat) : Line := s.castAddr b.toNat (s.castN + 1 + 10 * k + j)

/-- The number of annex slots of a partition (R80). -/
def State.annexSlots (s : State) : Nat := s.castA / 10

/-- The eight annex slots an allocation probes (R87). -/
def State.annexProbe (s : State) (l : Line) : List Nat :=
  (List.range 8).map (fun k => ((hash3 l).toNat * s.annexSlots / 2 ^ 32 + k) % s.annexSlots)

/-- An annex header (R87). -/
def annexHdr (l : Line) (gen n : Nat) : LineData := BitVec.ofNat 512 (l.toNat + gen * 2 ^ 40 + n * 2 ^ 48)

/-- A free annex slot (R87). -/
def annexFree (d : LineData) (gen : Nat) : Bool :=
  decide (d.toNat / 2 ^ 40 % 2 ^ 7 ≠ gen) || decide (d.toNat / 2 ^ 48 % 16 = 0)

/-! ## Spill, update, delete (R75, R85, R86) -/

/-- The record count of a bucket. -/
def Slice.recOfBucket (x : Slice) (b : BitVec 12) : Nat := Store.get 0 x.recN b.toNat
/-- The record count of a bucket replaced. -/
def Slice.putRecN (x : Slice) (b : BitVec 12) (n : Nat) : Slice := { x with recN := Store.set 0 x.recN b.toNat n }
/-- The record count of a line's bucket changes. -/
def Slice.recs (x : Slice) (l : Line) (d : Int) : Slice :=
  x.putRecN (bucketOf l) ((x.recOfBucket (bucketOf l) : Int) + d).toNat
/-- DIR_REC.REC_CNT (R97). -/
def Slice.recCnt (x : Slice) : Nat := (x.recN.map (·.2)).sum

/-- The headers of the annex slots that an allocation probes are read (R87). -/
def State.probeAnnex (s : State) (i : SliceId) (t : Nat) (l : Line) : State :=
  (s.annexProbe l).foldl (fun s k => s.castRead i t (s.annexAddr (bucketOf l) k 0)) s

/-- The hand goes to a bucket, which is locked and read (R85). -/
def State.toBucket (s : State) (i : SliceId) (t : Nat) (b : Line) : State :=
  (s.modSl i (fun x => x.putTr t ((x.tr t).map (fun v => { v with phase := 1, bucket := b, rds := [] })))).castRead i t b

/-- An insertion or the waiting of one begins: one runs at a time in a slice (R85). A record of 17 or more holders first
probes its annex slots (R87). -/
def State.startInsert (s : State) (i : SliceId) (t : Nat) : State :=
  match (s.sl i).tr t with
  | none => s
  | some v =>
    if (s.sl i).inserting.isSome then s
    else
      let b := s.castAddr (bucketOf v.e.line).toNat (s.c1 v.e.line)
      let s := s.modSl i (fun x => { (x.putTr t ((x.tr t).map (fun v => { v with bucket := b }))) with inserting := some t })
      if 16 < v.e.holders.length then s.probeAnnex i t v.e.line else s.toBucket i t b

/-- The next waiting insertion of a slice starts (R85): of several that of the lowest transit entry. DESIGN CHOICE, log 55. -/
def State.nextInsert (s : State) (i : SliceId) : State :=
  match (s.sl i).trList.find? (fun p => decide (p.2.kind = .spill) && decide (p.2.phase = 0) && decide (p.2.reads = 0)) with
  | some p => s.startInsert i p.1
  | none => s

/-- The insertion of a slice is done with its hand: the hand's record has been written, or dropped. -/
def State.insertDone (s : State) (i : SliceId) : State := (s.modSl i (fun x => { x with inserting := none })).nextInsert i

/-- An update or delete reads C1 and C2 of its line (R86), as a fetch does (R88). -/
def State.readPair (s : State) (i : SliceId) (t : Nat) (l : Line) : State :=
  let p := (bucketOf l).toNat
  (s.castRead i t (s.castAddr p (s.c1 l))).castRead i t (s.castAddr p (s.c2 l))

/-- The insertion hand of a line, in the engine or waiting for it (R86). -/
def Slice.handOf (x : Slice) (l : Line) : Option (Nat × Transit) :=
  x.trList.find? (fun p => decide (p.2.kind = .spill) && decide (p.2.phase ≠ 2) && decide (p.2.e.line = l))

/-- What is under way for the record of a line, and has not yet been applied to it: its update, delete or recall. -/
def Slice.pendOf (x : Slice) (l : Line) : Option (Nat × Transit) :=
  x.trList.find? (fun p => decide (p.2.e.line = l) &&
    (decide (p.2.kind = .recall) || ((decide (p.2.kind = .update) || decide (p.2.kind = .delete)) && decide (p.2.phase ≠ 2))))

/-- A rebuild begins: every counter is 0 but for those of the records that are in no bucket, which no scan meets, so that the
counts that result are not below the true ones (R92). DEDUCED, log 56. -/
def Slice.startRebuild (x : Slice) : Slice :=
  ((x.trList.filter (fun p => (decide (p.2.kind = .spill) && decide (p.2.phase ≠ 2)) || (decide (p.2.kind = .recall) && decide (p.2.phase = 0)))).foldl
    (fun x p => x.silUp p.2.e.line) { x with rebuild := some 0, sil := [] })

/-- A record bucket is one that the slice's rebuild has still to read. -/
def State.rebuildAhead (s : State) (i : SliceId) (a : Line) : Bool :=
  let n := a.toNat - s.castLine0
  match (s.sl i).rebuild with
  | some pos => decide (pos ≤ n / s.castP * s.castN + (n % s.castP - 1))
  | none => false

/-- A record bucket is one that the rebuild, or the admission scan of its partition, has still to read (R92, R93). -/
def State.scanAhead (s : State) (i : SliceId) (a : Line) : Bool :=
  let n := a.toNat - s.castLine0
  s.rebuildAhead i a || (s.sl i).bypass.any (fun p => decide (p.bucket.toNat = n / s.castP) && decide (p.next ≤ n % s.castP - 1))

/-- A record comes into a bucket, or leaves one, that a rebuild which also counts the records has still to read: it is
counted there, or no longer counted there. -/
def State.recsAhead (s : State) (i : SliceId) (a l : Line) (d : Int) : State :=
  if s.rebuildAhead i a && (s.sl i).recount then s.modSl i (fun x => x.recs l d) else s

/-- The header and blocks of an entry in an annex slot (R87). -/
def State.writeAnnex (s : State) (i : SliceId) (t : Nat) (e : Entry) (k : Nat) : State :=
  let bs := blocksOf e.holders
  let s := s.castWrite i t (s.annexAddr (bucketOf e.line) k 0) (annexHdr e.line s.gen bs.length)
  (List.range bs.length).foldl (fun s j => s.castWrite i t (s.annexAddr (bucketOf e.line) k (1 + j)) (bs.getD j 0)) s

/-- An annex slot, where there is one, is freed: its header is written with block count 0 (R87). -/
def State.freeSlotK (s : State) (i : SliceId) (t : Nat) (l : Line) (k : Option Nat) : State :=
  match k with
  | some k => s.castWrite i t (s.annexAddr (bucketOf l) k 0) (annexHdr l s.gen 0)
  | none => s

/-- An update is applied to the insertion hand (R86): the hand's annex slot is rewritten, or freed where 16 holders or fewer
are left; a hand that comes to need a slot probes for one at its next bucket. While its slot is being read, it is rewritten
once the reads are in. -/
def State.setHand (s : State) (i : SliceId) (t : Nat) (v : Transit) (e : Entry) (copied : Bool) : State :=
  if v.phase = 3 ∨ v.phase = 6 then s.modSl i (fun x => x.putTr t (some { v with e := e, copied := copied, phase := 6 }))
  else if v.e.holders = e.holders then s.modSl i (fun x => x.putTr t (some { v with e := e, copied := copied }))
  else
    match v.annex with
    | none => s.modSl i (fun x => x.putTr t (some { v with e := e, copied := copied }))
    | some k =>
      if 16 < e.holders.length then
        (s.modSl i (fun x => x.putTr t (some { v with e := e, copied := copied }))).writeAnnex i t e k
      else (s.modSl i (fun x => x.putTr t (some { v with e := e, copied := copied, annex := none }))).freeSlotK i t e.line (some k)

/-- SIL_STAT.STICKY against its limit, and the rebuild it starts (R92, source list). -/
def State.stickyCheck (s : State) (i : SliceId) : State :=
  let x := s.sl i
  let above := decide (s.fld ⟨0x4C010, 0, 16⟩ < x.sticky)
  let s := s.evLevel (evSl i 4) above
  if above ∧ x.rebuild.isNone ∧ x.recCnt < s.fld ⟨0x4C010, 16, 16⟩ * 1024 then
    s.modSl i (fun x => x.startRebuild)
  else s

/-- A record comes into being: its line's counters rise and its bucket counts it (R90, R97). -/
def State.recordIn (s : State) (i : SliceId) (l : Line) : State :=
  (s.modSl i (fun x => (x.silUp l).recs l 1)).stickyCheck i

/-- A record is gone: its line's counters fall and its bucket counts it no more (R90, R97). -/
def State.recordOut (s : State) (i : SliceId) (l : Line) : State :=
  (s.modSl i (fun x => (x.silDown l).recs l (-1))).stickyCheck i

/-- The insertion hand is dropped with its annex slot, and the next insertion starts (R86, R90, R433). -/
def State.dropHand (s : State) (i : SliceId) (t : Nat) (v : Transit) : State :=
  let s := s.freeSlotK i t v.e.line v.annex
  let s := (s.modSl i (fun x => { (x.dropTr t) with recallQ := x.recallQ.erase t })).recordOut i v.e.line
  (if (s.sl i).inserting = some t then s.insertDone i else s).kick i

/-- An update that has not yet been applied becomes the delete of its record. -/
def State.updGone (s : State) (i : SliceId) (t : Nat) (v : Transit) : State :=
  if t ∈ (s.sl i).recallQ then
    (s.modSl i (fun x => { (x.putTr t (some (Transit.mk0 .delete (Entry.blank v.e.line)))) with recallQ := x.recallQ.erase t })).readPair
      i t v.e.line
  else s.modSl i (fun x => x.putTr t (some { v with kind := .delete, e := Entry.blank v.e.line }))

/-- The pool run of a holder set in the bank (R76 to R78): unchanged where it fits, new where it has grown. -/
def Slice.runFor (x : Slice) (old : Option Entry) (h : List AgentId) : Option (Option Nat) :=
  if h.length ≤ 4 then some none
  else
    match old with
    | some e =>
      if e.head.isSome ∧ poolBlocks h ≤ poolBlocks e.holders then some e.head
      else (x.findRun (poolBlocks h)).map some
    | none => (x.findRun (poolBlocks h)).map some

/-- An entry that has reached I is deleted (R86): its way is free already; with CAST 1 a transit entry, the reserved one
or the lowest free, carries the delete. A record in the insertion hand is dropped with the hand; an update under way becomes
the delete; a recall under way finds no holder left. -/
def State.deleteRec (s : State) (i : SliceId) (e : Entry) (res : Option Nat) : State :=
  let s := s.modSl i (fun x => match res with | some t => x.dropTr t | none => x)
  if !e.cast then s
  else
    match (s.sl i).handOf e.line with
    | some (t, v) => s.dropHand i t v
    | none =>
      match (s.sl i).pendOf e.line with
      | some (t, v) =>
        if v.kind = .recall then s.modSl i (fun x => x.putTr t (some { v with e := Entry.blank e.line, copied := false }))
        else if v.kind = .update then s.updGone i t v
        else s
      | none =>
        match res.orElse (fun _ => (s.sl i).freeTr) with
        | none => s
        | some t =>
          (s.modSl i (fun x => x.putTr t (some { Transit.mk0 .delete (Entry.blank e.line) with
            writes := ((x.tr t).map (·.writes)).getD 0 }))).readPair i t e.line

/-- An entry whose record exists is written to the cast store (R86): applied to the insertion hand, or to what is under way
for the record, or as an update of its own in transit entry t. -/
def State.updateRec (s : State) (i : SliceId) (t : Nat) (e : Entry) (copied : Bool) : State :=
  match (s.sl i).handOf e.line with
  | some (th, v) => s.setHand i th v e copied
  | none =>
    match (s.sl i).pendOf e.line with
    | some (u, v) => s.modSl i (fun x => x.putTr u (some { v with kind := if v.kind = .delete then .update else v.kind, e := e, copied := copied }))
    | none => (s.modSl i (fun x => x.putTr t (some { Transit.mk0 .update e with copied := copied }))).readPair i t e.line

/-- A clean entry leaves the directory cache: a copy of it on its way to the cast store is authoritative again (R70). -/
def Slice.uncopy (x : Slice) (l : Line) : Slice :=
  match (x.handOf l).orElse (fun _ => x.pendOf l) with
  | some (t, v) => if v.kind = .delete then x else x.putTr t (some { v with copied := false })
  | none => x

/-- Agents whose SWEEP is 1, and holders in QUARANTINE or FENCED, are removed from an entry that a pass touches (R58, R155,
R433): the holders left, and whether an E holder was removed, so that the line is to be poisoned. -/
def State.purged (s : State) (e : Entry) : List AgentId × Bool :=
  let gone (a : AgentId) : Bool := (s.agent a).sweep || decide ((s.agent a).st = .quarantine) || decide ((s.agent a).st = .fenced)
  (e.holders.filter (fun a => !gone a), e.own && e.holders.any gone)

/-- An entry leaves the directory cache into transit entry t: clean ones leave at once, others are spilled (R75). -/
def State.spillTo (s : State) (i : SliceId) (t : Nat) (e : Entry) : State :=
  let s := s.loseRsv i (fun r => decide (r.line = e.line))
  let (h, psn) := s.purged e
  let s := if psn then (s.poison i e.line none).1 else s
  let s := s.heldDiff e.holders h
  let e := { e with pin := false, head := none, holders := h, own := e.own && decide (h ≠ []),
                    dirty := e.dirty || decide (h ≠ e.holders) }
  if h = [] then s.deleteRec i e (some t)
  else if e.cast && !e.dirty then s.modSl i (fun x => x.uncopy e.line)
  else
    let s := s.count (cSl i 13) 1
    if e.cast then s.updateRec i t e false
    else
      ((s.modSl i (fun x => x.putTr t (some (Transit.mk0 .spill e)))).recordIn i e.line).startInsert i t

/-! ## Lost and corrected entries (R73, R373, R379 to R381) -/

/-- An entry, pool block or transit entry was corrected. -/
def State.corrected (s : State) (i : SliceId) : State :=
  (((s.incF (Fld.sl i 0x304 0 16)).fire (evSl i 2)).count (cSl i 29) 1).sliceErr i

/-- Broadcast recovery of a line begins (R379, R381, R383): it takes the line when no flow holds it. -/
def State.startRecover (s : State) (i : SliceId) (l : Line) (marker : Option (BitVec 32)) : State :=
  let s := ((s.fire (evSl i 1)).classRec).sliceErr i
  match (s.sl i).findSlot l with
  | some (n, _) => s.modSl i (fun x => x.putSlot n ((x.slot n).map (fun y => { y with lostWay := true })))
  | none =>
    if (s.sl i).handing.contains l then s.modSl i (fun x => { x with jobs := x.jobs ++ [(l, .recover marker)] })
    else s.modSl i (fun x => { x with handing := x.handing ++ [l], int := x.int ++ [.recoverStart l marker] })

/-- A line's stored address passes its check (R379): the home map names this slice, or the bucket moves out of it. -/
def State.addrOk (s : State) (i : SliceId) (l : Line) : Bool :=
  s.serves i (bucketOf l) || (match s.moveOf (bucketOf l) with | some m => decide (m.src = i) | none => false)

/-- An uncorrectable way: freed, counted, its line recovered; a stored address that fails its check is FATAL. -/
def State.loseWay (s : State) (i : SliceId) (k : Nat) (e : Entry) : State :=
  if s.addrOk i e.line then
    ((s.modSl i (fun x => x.putWay k none)).incF (Fld.sl i 0x304 16 16)).startRecover i e.line none
  else (s.sliceErr i).fatal 2 0 i.toNat 0

/-- A victim of a set is evicted (R75): the way frees where a transit entry is free and some way is unpinned. A way whose code
fails is freed for a recovery of its line instead (R379). -/
def State.evict (s : State) (i : SliceId) (k : Nat) (e : Entry) : Option State :=
  let c := (s.sl i).vic
  let s := s.modSl i (fun x => { x with vic := .clean })
  if c = .uncorr then some (s.loseWay i k e)
  else
    match (s.sl i).freeTr with
    | none => none
    | some t =>
      let s := if c = .corrected then s.corrected i else s
      some ((s.modSl i (fun x => x.putWay k none)).spillTo i t e)

/-- A way of a line's set is allocated: the lowest free one, or the victim's (R74, R75). -/
def State.allocWay (s : State) (i : SliceId) (l : Line) : Option (State × Nat) :=
  match (s.sl i).freeWay (setOf l) with
  | some k => some (s, k)
  | none =>
    match (s.sl i).victim (setOf l) with
    | none => none
    | some (k, e) => (s.evict i k e).map (fun s => (s, k))

/-- R78: with no run free the unpinned POOL entry of the greatest age in the bank is evicted for the retried request. -/
def State.evictPool (s : State) (i : SliceId) : State :=
  let x := s.sl i
  match x.dir.foldl (fun b p => match p.2 with
      | some e => if e.pin ∨ e.head.isNone then b else x.victimOf b p.1 e
      | none => b) none with
  | none => s
  | some (k, e) => (s.evict i k e).getD s

/-! ## Writing a line's holders (R95, R113) -/

/-- The entry in a way gets a state and holders, and DIRTY; an empty set deletes it (R72, R86, R113). -/
def State.writeHolders (s : State) (i : SliceId) (k : Nat) (e : Entry) (own : Bool) (h : List AgentId) (res : Option Nat) : State :=
  if h = [] then
    ((s.modSl i (fun x => x.putWay k none)).heldDiff e.holders []).deleteRec i e res
  else
    match (s.sl i).runFor (some e) h with
    | none => s
    | some hd =>
      if own = e.own ∧ h = e.holders then s
      else
        (s.modSl i (fun x => x.putWay k (some { e with
          own := own, holders := h, head := hd, dirty := true }))).heldDiff e.holders h

/-- HD of a line follows a report (R68); a line whose entry is not on-die is left alone. -/
def State.putHd (s : State) (i : SliceId) (l : Line) (v : Bool) : State :=
  match (s.sl i).findWay l with
  | some (k, e) => if e.hd = v then s else s.modSl i (fun x => x.putWay k (some { e with hd := v, dirty := true }))
  | none =>
    match (s.sl i).findTr l with
    | some (t, v') => s.modSl i (fun x => x.putTr t (some { v' with e := { v'.e with hd := v } }))
    | none => s

/-- PIN of a line's entry (R69, R100). -/
def State.putPin (s : State) (i : SliceId) (l : Line) (v : Bool) : State :=
  match (s.sl i).findWay l with
  | some (k, e) => if e.pin = v then s else s.modSl i (fun x => x.putWay k (some { e with pin := v }))
  | none => s

end Sys2Proof.Machine
end

