-- ==== Sys2Proof/Machine/Cast.lean ====
section
/-! DEFINITION. The slice's side of the cast store (chapter 3, R381, R382): what a bucket read is worth, updates and deletes,
the cuckoo insertion, the annex, and the start of a capacity recall. -/

namespace Sys2Proof.Machine

/-! ## Buckets as read (R73, R83, R381, R382) -/

/-- The data of a bucket in which the given halves have become lost markers: they are written back from transit entry t,
counted, and the bucket of the home map enters permanent bypass (R381, R382, R432). -/
def State.markBucket (s : State) (i : SliceId) (t : Nat) (b : BitVec 12) (addr : Line) (d : LineData) (hs : List Nat) : State × LineData :=
  if hs = [] then (s, d)
  else
    let d := hs.foldl (fun d h => putRec d h s.markerBits) d
    let s := (s.castOver i t addr d).addF (Fld.sl i 0x310 0 16) hs.length
    (((s.modSl i (fun x => x.byp b)).sliceErr i).classRec, d)

/-- The halves of a good bucket read whose record is uncorrectable on its face, a marker left alone (R381). -/
def badHalves (d : LineData) (gen : Nat) : List Nat :=
  (List.range 2).filter (fun h => let r := recAt d h; decide (r.gen = gen) && !r.marker gen && r.bad)

/-- A bucket as read loses a record, so that a marker is to be written (R381). -/
def readLoses (rd : BucketRead) (gen : Nat) : Bool := decide (rd.status ≠ .ok) || decide (badHalves rd.data gen ≠ [])

/-- A bucket read: POISON or ERROR makes both slots lost markers, an uncorrectable record its own (R381). -/
def State.readBucket (s : State) (i : SliceId) (t : Nat) (b : BitVec 12) (addr : Line) (rd : BucketRead) : State × LineData :=
  if rd.status ≠ .ok then s.markBucket i t b addr 0 [0, 1]
  else s.markBucket i t b addr rd.data (badHalves rd.data s.gen)

/-- The half of a bucket that holds a good record of a line (R83). -/
def findRec (d : LineData) (gen : Nat) (l : Line) : Option (Nat × Rec) :=
  (List.range 2).findSome? (fun h =>
    let r := recAt d h
    if !r.empty gen ∧ !r.marker gen ∧ r.line = l then some (h, r) else none)

/-- A bucket holds a lost marker. -/
def hasMarker (d : LineData) (gen : Nat) : Bool := (recAt d 0).marker gen || (recAt d 1).marker gen

/-- The annex slot of a record, where it has one, is freed (R87). -/
def State.freeAnnex (s : State) (i : SliceId) (t : Nat) (l : Line) (r : Rec) : State :=
  s.freeSlotK i t l (if r.annex then some (r.shr % 2 ^ 17) else none)

/-! ## Capacity recall (R94, R124) -/

/-- A line is held by its recall: at once, or when the flow that holds it releases it (R124). A way copy of a hand that failed is
pinned from then on as the recall's entry (R429). -/
def State.queueRecall (s : State) (i : SliceId) (t : Nat) : State :=
  match (s.sl i).tr t with
  | none => s
  | some v =>
    let l := v.e.line
    let s := s.putPin i l true
    let x := s.sl i
    if x.holds l then s.setSl i { x with jobs := x.jobs ++ [(l, .recall t)] }
    else s.setSl i { x with handing := x.handing ++ [l], int := x.int ++ [.recallStart t] }

/-- A capacity recall of the entry in transit begins (R94), counted under CUCKOO or ANNEX. The entry of an update leaves its
older record in the cast store until the recall ends. -/
def State.beginRecall (s : State) (i : SliceId) (t : Nat) : State :=
  match (s.sl i).tr t with
  | none => s
  | some v =>
    let upd := decide (v.kind = .update)
    let s := s.modSl i (fun x => { (x.putTr t (some { v with kind := .recall, phase := if upd then 4 else 0 })) with
      recalls := x.recalls + 1, inserting := if x.inserting = some t then none else x.inserting })
    let s := ((s.incF (if upd || decide (v.phase = 0) then Fld.sl i 0x208 16 16 else Fld.sl i 0x208 0 16)).fire (evSl i 3)).count (cSl i 15) 1
    (s.queueRecall i t).nextInsert i

/-- An entry in transit is to be recalled: with 4 recalls open it waits, as it is, until one completes (R94). -/
def State.recall (s : State) (i : SliceId) (t : Nat) : State :=
  if 4 ≤ (s.sl i).recalls then s.modSl i (fun x => { x with recallQ := x.recallQ ++ [t] }) else s.beginRecall i t

/-! ## Updates and deletes (R86, R382) -/

/-- A transit entry without outstanding commands is released. -/
def State.trDone (s : State) (i : SliceId) (t : Nat) : State :=
  match (s.sl i).tr t with
  | none => s
  | some v => if v.reads = 0 ∧ v.writes = 0 then (s.modSl i (fun x => x.putTr t none)).kick i else s

/-- An update writes its record into half h of a bucket. -/
def State.putUpdate (s : State) (i : SliceId) (t : Nat) (e : Entry) (addr : Line) (d : LineData) (h : Nat) (k : Nat) : State :=
  (s.modSl i (fun x => x.putTr t ((x.tr t).map (fun v => { v with phase := 2 })))).castOver i t addr
    (putRec d h (recOf e s.gen k).bits)

/-- Both buckets of an update or delete are read: the record is rewritten, or written empty (R86). A record lost with its
bucket is inserted again, or counts as deleted (R382). An update that gains an annex slot probes for it first (R87). -/
def State.applyRec (s : State) (i : SliceId) (t : Nat) : State :=
  match (s.sl i).tr t with
  | none => s
  | some v =>
    let l := v.e.line
    let hit := v.rds.findSome? (fun p => (findRec p.2.data s.gen l).map (fun q => (p.1, p.2.data, q)))
    match v.kind, hit with
    | .delete, some (addr, d, h, r) =>
      (((s.modSl i (fun x => x.putTr t (some { v with phase := 2 }))).castOver i t addr (putRec d h 0)).freeAnnex i t l r).recsAhead
        i addr l 1
    | .delete, none => (s.recordOut i l).trDone i t
    | .update, some (addr, d, h, r) =>
      let e := v.e
      if e.holders.length ≤ 16 then (s.putUpdate i t e addr d h 0).freeAnnex i t l r
      else if r.annex then
        (s.putUpdate i t e addr d h (r.shr % 2 ^ 17)).writeAnnex i t e (r.shr % 2 ^ 17)
      else
        match v.annex with
        | some k => (s.putUpdate i t e addr d h k).writeAnnex i t e k
        | none =>
          (s.modSl i (fun x => x.putTr t (some { v with phase := 4 }))).probeAnnex i t l
    | .update, none =>
      (s.modSl i (fun x => x.putTr t (some { Transit.mk0 .spill v.e with copied := v.copied }))).startInsert i t
    | _, _ => s

/-- The first of the probed annex slots that is free, from their headers as read (R87). -/
def State.annexPick (s : State) (l : Line) (rds : List (Line × BucketRead)) : Option Nat :=
  (s.annexProbe l).find? (fun k => match rds.find? (fun p => decide (p.1 = s.annexAddr (bucketOf l) k 0)) with
    | some p => decide (p.2.status = .ok) && annexFree p.2.data s.gen
    | none => false)

/-! ## The cuckoo insertion (R85, R382, R433) -/

/-- The entry a record stands for (R83); the holders of an ANNEX record come from its annex slot. -/
def entryOf (r : Rec) (h : List AgentId) (age : BitVec 4) : Entry :=
  { line := r.line, own := decide (r.st = 2), hd := r.hd, pin := false, dirty := false, cast := true, age := age, holders := h,
    head := none }

/-- The blocks of a record's annex slot are read, its header first (R87). -/
def State.readAnnex (s : State) (i : SliceId) (t : Nat) (r : Rec) : State :=
  let k := r.shr % 2 ^ 17
  (List.range (1 + r.shr / 2 ^ 17 % 16)).foldl (fun s j => s.castRead i t (s.annexAddr (bucketOf r.line) k j)) s

/-- A record becomes the hand and goes on to its bucket. Departing agents leave it, unless its line's way has the
authoritative copy; left with no holder it is dropped (R433). -/
def State.takeHand (s : State) (i : SliceId) (t : Nat) (v : Transit) : State :=
  let (h, psn) := s.purged v.e
  let s := s.modSl i (fun x => x.putTr t (some v))
  if v.copied ∨ h = v.e.holders then s.toBucket i t v.bucket
  else
    let s := if psn then (s.poison i v.e.line none).1 else s
    let s := s.heldDiff v.e.holders h
    if h = [] then s.dropHand i t v
    else (s.setHand i t v { v.e with holders := h } false).toBucket i t v.bucket

/-- The other bucket of a hand: C2 where it came from C1 (R85). -/
def State.otherBucket (s : State) (l : Line) (b : Line) : Line :=
  let p := (bucketOf l).toNat
  if s.castAddr p (s.c1 l) = b then s.castAddr p (s.c2 l) else s.castAddr p (s.c1 l)

/-- The hand has been written over record r at a bucket (R85): the record becomes the hand, and its annex slot is read
first where it has one. An update under way for the record is applied to the hand (R86). A record that is to be deleted, or
recalled, is gone with this write, and so is its annex slot: the insertion is done. A record that a scan has still to count
where it stood is counted now, so that no count is below the true one (R92, R95). -/
def State.displace (s : State) (i : SliceId) (t : Nat) (v : Transit) (addr : Line) (r : Rec) : State :=
  let s := if s.scanAhead i addr then ((s.modSl i (fun x => x.silUp r.line)).stickyCheck i).recsAhead i addr r.line 1 else s
  let nb := s.otherBucket r.line addr
  let k := if r.annex then some (r.shr % 2 ^ 17) else none
  let hand (e : Entry) (copied : Bool) : Transit :=
    { Transit.mk0 .spill e with writes := v.writes + 1, moves := v.moves + 1, bucket := nb, phase := 1, annex := k, copied := copied }
  match (s.sl i).pendOf r.line with
  | some (u, w) =>
    if w.kind = .update then
      let s := (s.modSl i (fun x => { (x.dropTr u) with recallQ := x.recallQ.erase u })).kick i
      (s.setHand i t (hand { w.e with holders := [] } w.copied) w.e w.copied).toBucket i t nb
    else
      let s := s.modSl i (fun x => x.putTr u (some (if w.kind = .recall then { w with phase := 0 } else w)))
      let s := s.modSl i (fun x => x.putTr t ((x.tr t).map (fun y => { y with phase := 2 })))
      (s.freeSlotK i t r.line k).insertDone i
  | none =>
    let copied := ((s.sl i).findWay r.line).isSome
    if r.annex then
      (s.modSl i (fun x => x.putTr t (some { hand (entryOf r [] 0) copied with phase := 3 }))).readAnnex i t r
    else s.takeHand i t (hand (entryOf r (inlineIds r.scnt r.shr) 0) copied)

/-- One bucket read of the insertion (R85): the hand goes into the lowest empty slot, displaces a victim, or is recalled. A
hand that an update has left without an annex slot it needs probes for one first, and comes back to the bucket (R86, R87). -/
def State.cuckooStep (s : State) (i : SliceId) (t : Nat) (v : Transit) (addr : Line) (rd : BucketRead) : State :=
  let b := bucketOf v.e.line
  let (s, d) := s.readBucket i t b addr rd
  let v := { v with writes := (((s.sl i).tr t).map (·.writes)).getD 0 }
  let k := v.annex.getD 0
  if 16 < v.e.holders.length ∧ v.annex = none then
    (s.modSl i (fun x => x.putTr t (some { v with phase := 0, rds := [] }))).probeAnnex i t v.e.line
  else
    match (List.range 2).find? (fun h => (recAt d h).empty s.gen) with
    | some h =>
      let s := s.modSl i (fun x => x.putTr t (some { v with phase := 2, reads := 0 }))
      ((s.castOver i t addr (putRec d h (recOf v.e s.gen k).bits)).recsAhead i addr v.e.line (-1)).insertDone i
    | none =>
      let pick := v.moves % 2
      let vh := if (recAt d pick).marker s.gen then 1 - pick else pick
      if 8 ≤ v.moves ∨ (recAt d vh).marker s.gen then
        (s.modSl i (fun x => x.putTr t (some { v with reads := 0 }))).recall i t
      else
        let s := (s.castOver i t addr (putRec d vh (recOf v.e s.gen k).bits)).count (cSl i 14) 1
        (s.recsAhead i addr v.e.line (-1)).displace i t v addr (recAt d vh)

/-- The holders an annex slot records for a line, from its buckets as read: `none` where the slot fails its checks
(R87). -/
def State.annexHolders (s : State) (l : Line) (k n : Nat) (rds : List (Line × BucketRead)) : Option (List AgentId) :=
  let get (j : Nat) : Option LineData := (rds.find? (fun p => decide (p.1 = s.annexAddr (bucketOf l) k j))).bind (fun p =>
    if p.2.status = .ok then some p.2.data else none)
  match get 0 with
  | none => none
  | some hd =>
    let bs := (List.range n).filterMap (fun j => get (1 + j))
    if hd.toNat % 2 ^ 40 = l.toNat ∧ hd.toNat / 2 ^ 48 % 16 = n ∧ bs.length = n then some (holdersOfBlocks bs) else none

end Sys2Proof.Machine
end

