-- ==== Sys2Proof/Machine/Flow.lean ====
section
/-! DEFINITION. Flows (chapters 4, 5, 7, 15): the transition table of R114 as a function, the checks of R98 a slice makes,
decision, the one function that moves a flow on, release and hand-over, refusal and escalation, reservations, the
predictor, and precise sampling. -/

namespace Sys2Proof.Machine

/-! ## The transition table (R114) -/

/-- The memory command of a flow. -/
inductive MemK where
  | none | read | write | wpartial | atomic
  deriving DecidableEq, Repr

/-- What a flow does, by R114. `early`: its READ is issued at decide (R110). `parts` is PARTS of its completion. -/
structure Plan where
  op    : SnpOp
  targets : List AgentId
  mem   : MemK
  early : Bool
  ndr   : Option NdrOp
  parts : BitVec 2
  deriving DecidableEq, Repr

/-- META as R114 reads it: A keeps E, S keeps S, I and 0b11 keep nothing, but for WR_KEEP, where they keep S. -/
def keepsE (q : ReqHdr) : Bool := decide (q.mv = 2)
/-- META S. -/
def keepsS (q : ReqHdr) : Bool := decide (q.mv = 1)

/-- The rows of R114. `own` and `h` are the state and holders found; `near` and `ok` the predictor's choice (R212) and
the reservation's judgement (R122). -/
def planOf (op : Op) (q : ReqHdr) (near ok own : Bool) (h : List AgentId) : Plan :=
  let a := q.agent
  let others := h.filter (fun b => decide (b ≠ a))
  let eb := own && decide (others ≠ [])
  match op with
  | .rdShared => { op := .data, targets := if eb then others else [], mem := .read, early := !eb, ndr := some .cmpS, parts := 2 }
  | .rdOwn => { op := .inv, targets := others, mem := .read, early := !eb, ndr := some .cmpE, parts := 2 }
  | .rdAtomic =>
    if near then { op := .inv, targets := [], mem := .none, early := false, ndr := some .cmpNear, parts := 1 }
    else { op := .inv, targets := others, mem := .read, early := !eb, ndr := some .cmpE, parts := 2 }
  | .rdCur => { op := .cur, targets := if eb then others else [], mem := .read, early := !eb, ndr := none, parts := 0 }
  | .rsvRd => { op := .cur, targets := if eb then others else [], mem := .read, early := !eb, ndr := none, parts := 1 }
  | .hatom => { op := .inv, targets := h, mem := .atomic, early := false, ndr := none, parts := 1 }
  | .condWr =>
    if ok then { op := .inv, targets := h, mem := .wpartial, early := false, ndr := some .cmp, parts := 1 }
    else { op := .inv, targets := [], mem := .none, early := false, ndr := some .cmp, parts := 1 }
  | .wrFull => { op := .inv, targets := others, mem := .write, early := false, ndr := some .cmp, parts := 0 }
  | .wrKeep => { op := .inv, targets := others, mem := .write, early := false, ndr := some .cmp, parts := 1 }
  | .wrPartial =>
    { op := .inv, targets := others, mem := .wpartial, early := false, ndr := some .cmp, parts := if keepsE q || keepsS q then 1 else 0 }
  | .evictClean => { op := .inv, targets := [], mem := .none, early := false, ndr := some .cmp, parts := 0 }
  | .inv =>
    if keepsE q then { op := .inv, targets := others, mem := .none, early := false, ndr := some .cmpE, parts := 1 }
    else if keepsS q then
      { op := .data, targets := if eb then others else [], mem := .none, early := false,
        ndr := some (if h.contains a then .cmpS else .cmp), parts := if h.contains a then 1 else 0 }
    else { op := .inv, targets := others, mem := .none, early := false, ndr := some .cmp, parts := 0 }
  | .conflict | .fence => { op := .inv, targets := [], mem := .none, early := false, ndr := none, parts := 0 }

/-- The final state of R114, from the state and holders left once every snoop has been answered. -/
def finalOf (op : Op) (q : ReqHdr) (near ok own : Bool) (h : List AgentId) : Bool × List AgentId :=
  let a := q.agent
  match op with
  | .rdShared => (false, addAgent a h)
  | .rdOwn => (true, [a])
  | .rdAtomic => if near then (own, h) else (true, [a])
  | .rdCur | .rsvRd | .conflict | .fence => (own, h)
  | .hatom => (false, [])
  | .condWr => if ok then (false, []) else (own, h)
  | .wrFull => (false, [])
  | .wrKeep => if keepsE q then (true, [a]) else (false, [a])
  | .wrPartial => if keepsE q then (true, [a]) else if keepsS q then (false, [a]) else (false, [])
  | .evictClean => (own && decide (h.filter (fun b => decide (b ≠ a)) ≠ []), h.filter (fun b => decide (b ≠ a)))
  | .inv =>
    if keepsE q then (true, [a])
    else if keepsS q then (if own && h.contains a then (false, h) else (own, h))
    else (false, [])

/-- Whether a flow may leave the line in I (R431). -/
def mayEmpty (op : Op) (q : ReqHdr) (near ok own : Bool) (h : List AgentId) : Bool :=
  decide ((finalOf op q near ok own (h.filter (fun b => !((planOf op q near ok own h).targets.contains b)))).2 = [])

/-- The transient state of a flow (R101). -/
def busyOf (op : Op) (near : Bool) : Busy :=
  match op with
  | .rdShared => .shared | .rdOwn => .own | .rdAtomic => if near then .near else .own | .rdCur => .cur | .rsvRd => .rsv
  | .hatom => .hatom | .condWr => .condwr | .wrFull | .wrKeep | .wrPartial => .write | .evictClean => .evict
  | .inv => .inv | .conflict | .fence => .cur

/-- The slice event counter of a decided request (R336). -/
def decidedCnt (op : Op) : Nat :=
  match op with
  | .rdShared => 2 | .rdOwn | .rdAtomic => 3 | .rdCur | .rsvRd => 4 | .wrFull | .wrKeep | .wrPartial | .condWr => 5
  | .hatom => 6 | .evictClean | .inv => 7 | .conflict | .fence => 4

/-! ## Precise sampling (R344, R345) -/

/-- CLASS bit of a request (R344). -/
def classBit (op : Op) : Nat :=
  match op with
  | .rdShared | .rdOwn | .rdCur => 0
  | .wrFull | .wrKeep | .wrPartial => 1
  | .rdAtomic | .hatom | .rsvRd | .condWr => 2
  | _ => 3

/-- A 40-bit line address of two register words (R185, R349). -/
def State.lineReg (s : State) (a : Nat) : Nat := s.fld ⟨a, 0, 32⟩ + s.fld ⟨a + 4, 0, 8⟩ * 2 ^ 32

/-- A request passes the sampling filter (R344). -/
def State.smpFilter (s : State) (r : Req) : Bool :=
  (s.reg 0x20040).getLsbD (1 + classBit r.op)
    && (decide (s.fld ⟨0x20044, 12, 1⟩ = 1) || decide (s.fld ⟨0x20044, 0, 12⟩ = r.q.agent.toNat))
    && (decide (s.fld ⟨0x20044, 13, 1⟩ = 0)
      || (decide (s.lineReg 0x20048 ≤ r.q.laddr.toNat) && decide (r.q.laddr.toNat < s.lineReg 0x20050)))

/-- A fresh sample. -/
def Sample.start (t : Nat) (ovf : Bool) : Sample :=
  { admitAt := t, lookup := none, snpSent := none, snpDone := none, memIss := none, memDone := none, egress := none,
    snoops := 0, flags := if ovf then 0x40 else 0, found := 0 }

/-- The selection at the first pass of a new request (R344). -/
def State.smpSelect (s : State) (i : SliceId) (r : Req) : State × Req :=
  if s.fld ⟨0x20040, 0, 1⟩ = 1 ∧ s.level = 0 ∧ s.smpFilter r then
    let x := s.sl i
    let period := s.fld ⟨0x20040, 10, 16⟩
    let left := x.sampCnt - 1
    let hit := decide (period ≠ 0) && decide (left = 0)
    let ovf := decide (s.fld ⟨0x20040, 5, 1⟩ = 1) && x.sampOvf
    let reload := period + Config.jitter s.freeCtr % 2 ^ s.fld ⟨0x20040, 6, 4⟩
    let x := { x with sampCnt := if period = 0 then x.sampCnt else if hit then reload else left, sampOvf := x.sampOvf && !ovf }
    let s := { (s.setSl i x) with freeCtr := if hit then s.freeCtr + 1 else s.freeCtr }
    if hit || ovf then
      (if 8 ≤ x.sampFly then (s.incF ⟨0x20064, 16, 16⟩, r)
       else (s.modSl i (fun x => { x with sampFly := x.sampFly + 1 }), { r with smp := some (Sample.start s.now (ovf && !hit)) }))
    else (s, r)
  else (s, r)

/-- A D_ field of a record (R345). -/
def dField (t0 : Nat) (t : Option Nat) : Nat :=
  match t with
  | none => 0xFFFFFFFF
  | some t => if 0xFFFFFFFE < t - t0 then 0xFFFFFFFE else t - t0

/-- The state of an entry as its code: 0 I, 1 S, 2 E, 3 O (R345). -/
def stCode (e : Option Entry) : Nat :=
  match e with
  | none => 0
  | some e => if e.own then 2 else if e.hd then 3 else 1

/-- A sampled transaction's record is sent (R345). `fl` are further flags. -/
def State.smpSend (s : State) (i : SliceId) (r : Req) (htag fl : Nat) : State :=
  match r.smp with
  | none => s
  | some m =>
    let x := s.sl i
    let fin := stCode ((x.findWay r.q.laddr).map (·.2))
    let n := m.admitAt + (dField m.admitAt m.lookup) * 2 ^ 64 + (dField m.admitAt m.snpSent) * 2 ^ 96
      + (dField m.admitAt m.snpDone) * 2 ^ 128 + (dField m.admitAt m.memIss) * 2 ^ 160 + (dField m.admitAt m.memDone) * 2 ^ 192
      + (dField m.admitAt m.egress) * 2 ^ 224 + (dField m.admitAt (some s.now)) * 2 ^ 256 + r.q.laddr.toNat * 2 ^ 288
      + r.q.agent.toNat * 2 ^ 328 + r.q.otag.toNat * 2 ^ 340 + r.op.code * 2 ^ 344 + i.toNat * 2 ^ 352
      + (portOf r.q.laddr).toNat * 2 ^ 360 + (if m.memIss.isSome then 2 ^ 365 else 0) + m.snoops % 4096 * 2 ^ 368
      + r.q.ncnt.toNat * 2 ^ 380 + (m.flags ||| BitVec.ofNat 8 fl).toNat * 2 ^ 384 + m.found.toNat * 2 ^ 392 + fin * 2 ^ 394
      + htag * 2 ^ 400 + x.sampSeq.toNat * 2 ^ 480
    let s := s.modSl i (fun x => { x with sampSeq := x.sampSeq + 1, sampFly := x.sampFly - 1 })
    let q := obsPut s.counts.recQ (Config.queueRoom 10 + 2) (BitVec.ofNat 512 n)
    let s := { s with counts := { s.counts with recQ := q.1 } }.inject (.slice i) .hub 0x24 (Config.body 0x24 [])
      ((List.range 4).map (fun j => (BitVec.ofNat 512 n).extractLsb' (128 * j) 128))
    if q.2 then s.gapNote .service 10 else s

/-- A slot's sample is updated. -/
def Slot.smp (x : Slot) (f : Sample → Sample) : Slot :=
  { x with req := x.req.map (fun r => { r with smp := r.smp.map f }) }

/-! ## Refusal at a slice (R54, R98, R108, R139 to R142) -/

/-- A write's buffer is freed by a DATA_PULL that names no port (R108). -/
def State.pullNone (s : State) (i : SliceId) (r : Req) : State :=
  match r.buf with
  | none => s
  | some b => s.routePull r.la { buf := b, port := none, slice := i, tag := 0 }

/-- An ERROR from the slice, counted in LA_REFUSE (R54, R98). -/
def State.sliceError (s : State) (i : SliceId) (r : Req) (f : AttId → Fld) : State :=
  (((s.refuse r.la f).deliver i r.la (errNdr r.q)).pullNone i r).smpSend i r 0 0x10

/-- A request leaves the slice, so that its ticket, if it has one, waits for it to be presented again (R142). -/
def Slice.outside (x : Slice) (r : Req) : Slice :=
  { x with roster := x.roster.map (fun t => if t.agent = r.q.agent ∧ t.tag = r.q.tag then { t with inside := false } else t) }

/-- What is reserved for an escalated request is given up (R141). -/
def Slice.unkeep (x : Slice) (r : Req) : Slice :=
  { x with kept := x.kept.filter (fun e => !(decide (e.2.1 = r.q.agent) && decide (e.2.2 = r.q.tag))) }

/-- A RETRY from the slice (R98); its order-table entry stands until the RETRY leaves the edge (R193). -/
def State.sliceRetry (s : State) (i : SliceId) (r : Req) : State :=
  let s := s.modSl i (fun x => x.outside r)
  (((s.routeNdr i r.la (retryNdr r.q (s.backoff r.q.agent))).count (cSl i 21) 1).pullNone i r).smpSend i r 0 0x20

/-- The oldest waiting ticket's clock runs while an escalation slot is free; a request that stands in the slice when it starts
has been presented (R142). -/
def State.rosterClock (s : State) (i : SliceId) : State :=
  let x := s.sl i
  let inSlot (t : Ticket) : Bool := x.escSlots.any (fun r => decide (r.q.agent = t.agent) && decide (r.q.tag = t.tag))
  let first := if x.escSlots.length < 4 then x.roster.find? (fun t => !inSlot t) else none
  s.setSl i { x with roster := x.roster.map (fun t =>
    if some t = first then { t with since := some (t.since.getD s.now), shown := if t.since.isSome then t.shown else t.inside } else { t with since := none }) }

/-- A ticket ends. -/
def State.endTicket (s : State) (i : SliceId) (a : AgentId) : State :=
  (s.modSl i (fun x => { x with roster := x.roster.filter (fun t => !decide (t.agent = a)) })).rosterClock i

/-- A request leaves its escalation slot. -/
def State.endEsc (s : State) (i : SliceId) (r : Req) : State :=
  let same (e : Req) : Bool := decide (e.q.agent = r.q.agent) && decide (e.q.tag = r.q.tag)
  if (s.sl i).escSlots.any same then
    (s.modSl i (fun x => { (x.unkeep r) with escSlots := x.escSlots.filter (fun e => !same e) })).endTicket i r.q.agent
  else s

/-- General chaining stops or resumes; the CHAIN_STOP source follows (R141). -/
def State.chainStop (s : State) (i : SliceId) (v : Bool) : State :=
  if (s.sl i).stopped = v then s else (s.modSl i (fun x => { x with stopped := v })).evLevel (evSl i 11) v

/-- A request that checks 7, 8 or 9 would answer RETRY (R139, R140): a ticket, an escalation slot, or RETRY, counted under
CHAIN or RESOURCE (R158). -/
def State.wouldRetry (s : State) (i : SliceId) (r : Req) (chain : Bool) : State :=
  let retry (s : State) : State :=
    ((s.incF (if chain then Fld.sl i 0x248 0 16 else Fld.sl i 0x248 16 16)).sliceRetry i r).rosterClock i
  if r.q.ncnt.toNat < 8 then retry s
  else
    let x := s.sl i
    let s := if x.roster.any (fun t => decide (t.agent = r.q.agent)) then s
      else s.modSl i (fun x => { x with roster := x.roster ++ [{
          agent := r.q.agent, tag := r.q.tag, issued := s.now, since := none, inside := true, shown := true }] })
    let x := s.sl i
    let inSlot (t : Ticket) : Bool := x.escSlots.any (fun e => decide (e.q.agent = t.agent) && decide (e.q.tag = t.tag))
    if x.roster.any (fun t => decide (t.agent = r.q.agent) && decide (t.tag = r.q.tag)) then
      (if x.escSlots.length < 4 ∧ !(((x.roster.takeWhile (fun t => decide (t.agent ≠ r.q.agent))).any (fun t => !inSlot t))) then
         let r := { r with known := false, smp := r.smp.map (fun m => { m with flags := m.flags ||| 2 }) }
         let s := (s.modSl i (fun x => { x with escSlots := x.escSlots ++ [r] })).rosterClock i
         (((s.incF (Fld.sl i 0x24C 0 16)).fire (evSl i 9)).count (cSl i 22) 1).kickEsc i
       else retry s)
    else retry s

/-! ## Reservations and the predictor (R207 to R212) -/

/-- RSV_RD sets an entry (R207): refreshed for the same line, replaced for another, the oldest replaced in a full table. -/
def State.setRsv (s : State) (i : SliceId) (a : AgentId) (l : Line) : State :=
  let x := s.sl i
  let e : Rsv := { agent := a, line := l, setAt := s.now }
  match x.rsvs.find? (fun r => decide (r.agent = a)) with
  | some r =>
    let s := s.modSl i (fun x => { x with rsvs := x.rsvs.filter (fun r => !decide (r.agent = a)) ++ [e] })
    if r.line = l then s else s.incF (Fld.sl i 0x280 16 16)
  | none =>
    if x.rsvs.length < 256 then s.modSl i (fun x => { x with rsvs := x.rsvs ++ [e] })
    else (s.modSl i (fun x => { x with rsvs := x.rsvs.drop 1 ++ [e] })).incF (Fld.sl i 0x280 16 16)

/-- Agent a's entry names L and stands (R208). -/
def Slice.rsvStands (x : Slice) (a : AgentId) (l : Line) : Bool := x.rsvs.any (fun r => decide (r.agent = a) && decide (r.line = l))

/-- A line's contention counter (R211). -/
def Slice.predAt (x : Slice) (l : Line) : Nat := (Store.get 0 x.pred (pidxOf l).toNat).toNat
/-- A line's contention counter rises, saturating at 7, or falls, stopping at 0 (R211). -/
def Slice.predAdd (x : Slice) (l : Line) (d : Int) : Slice :=
  let v := (x.predAt l + d).toNat
  { x with pred := Store.set 0 x.pred (pidxOf l).toNat (BitVec.ofNat 3 (if 7 < v then 7 else v)) }

/-- Requests whose failing check 7 raises the counter (R211). -/
def predRaises (r : Req) : Bool :=
  match r.op with
  | .rdOwn | .rdAtomic | .wrFull | .wrKeep | .wrPartial | .hatom | .condWr => true
  | .inv => keepsE r.q
  | _ => false

/-- Flows that write L or grant E, which cancel the other agents' reservations (R209). -/
def cancels (r : Req) (near ok : Bool) : Bool :=
  match r.op with
  | .wrFull | .wrKeep | .wrPartial | .hatom | .rdOwn => true
  | .condWr => ok
  | .rdAtomic => !near
  | .inv => keepsE r.q
  | _ => false

/-! ## Slots -/

/-- A slot as it begins. -/
def Slot.fresh (b : Busy) (l : Line) (r : Option Req) : Slot :=
  { busy := b, line := l, req := r, decided := false, granted := false, other := none, snoops := [], srws := [],
    cmdSent := false, rpts := [], poison := false, psnTag := none, memErr := false, rsvOk := false, ndrSent := false,
    parts := 0, eack := false, partsOut := 0, eackAt := none, late := false, released := false, dead := false,
    lostWay := false, marker := none, delT := none, fetchT := none, fetched := false, chained := false, esc := false }

/-- A slot changed. -/
def State.modSlot (s : State) (i : SliceId) (n : Nat) (f : Slot → Slot) : State :=
  s.modSl i (fun x => x.putSlot n ((x.slot n).map f))

/-- A snoop is still to be answered. -/
def Slot.waitsSnoop (x : Slot) : Bool := x.snoops.any (fun n => decide (n.st ≠ .answered))
/-- A snoop is still open (R154). -/
def Slot.openCopies (x : Slot) : Bool := x.snoops.any (fun n => decide (n.copies ≠ 0))

/-- Broadcast recoveries that run in a slice (R383). -/
def Slice.recoveries (x : Slice) : Nat := (x.slotList.filter (fun p => decide (p.2.busy = .recover) && !p.2.released)).length

/-- The parked job that the next free slot goes to, ahead of every request (R124, R383): a third recovery waits. -/
def Slice.slotJob (x : Slice) : Option (Line × Job) :=
  x.jobPark.find? (fun p => match p.2 with
    | .recall _ => true
    | .recover _ => decide (x.recoveries < 2) && !(x.slotList.any (fun q => decide (q.2.line = p.1) && !q.2.released))
    | _ => false)

/-- A slot outside the reserve has freed: the job that waits for one takes it (R124, R383). -/
def State.giveSlot (s : State) (i : SliceId) (n : Nat) : State :=
  if 1020 ≤ n then s
  else
    match (s.sl i).slotJob with
    | none => s
    | some p =>
      let y : Slot := match p.2 with
        | .recall t => { Slot.fresh .recall p.1 none with fetchT := some t }
        | .recover m => { Slot.fresh .recover p.1 none with marker := m }
        | _ => Slot.fresh .recover p.1 none
      s.modSl i (fun x => { (x.putSlot n (some y)) with jobPark := x.jobPark.erase p, int := p.2.msg p.1 :: x.int })

/-- A slot is freed once its line is released and every message that carries its HTAG has come (R99); its sampled record
is sent then (R345). -/
def State.freeSlot (s : State) (i : SliceId) (n : Nat) : State :=
  match (s.sl i).slot n with
  | none => s
  | some x =>
    if x.released ∧ x.rpts = [] ∧ x.eack = false ∧ x.openCopies = false then
      let s := match x.req with
        | some r => s.smpSend i r (htagOf i n).toNat (if x.memErr then 0x10 else 0)
        | none => s
      ((s.modSl i (fun y => y.putSlot n none)).giveSlot i n).kick i
    else s

/-! ## Release and hand-over (R134, R137, R138, R152, R383) -/

/-- The rank of what waits for a line: a capacity recall, a recovery, then a sweep step. -/
def jobRank : Job → Nat
  | .recall _ => 0
  | .recover _ => 1
  | .sweep => 2
  | .flow _ => 3

/-- The next job that waits for a line. -/
def Slice.nextJob (x : Slice) (l : Line) : Option Job :=
  let js := (x.jobs.filter (fun j => decide (j.1 = l))).map (·.2)
  (js.find? (fun j => decide (jobRank j = 0))).orElse (fun _ =>
    (js.find? (fun j => decide (jobRank j = 1))).orElse (fun _ => js.find? (fun j => decide (jobRank j = 2))))

/-- The head waiter leaves a chain, the escalated request in its reserved slot first (R134, R138). -/
def Slice.popChain (x : Slice) (n : Nat) (c : Chain) : Slice × Option (Req × Bool) :=
  let put (c : Chain) : Slice := { x with chains := Store.set none x.chains n (some c) }
  match c.esc with
  | some r => (put { c with esc := none }, some (r, true))
  | none =>
    match c.waiters with
    | r :: rest => (put { c with waiters := rest }, some (r, false))
    | [] => (put c, none)

/-- A waiter of a line has left its chain and has not been handed the line yet: its hand-over stands in INT, or it waits at the
head holding the line (R135). -/
def Slice.handsOn (x : Slice) (l : Line) : Bool :=
  x.escPark.any (fun p => decide (p.1 = l)) || x.int.any (fun m => match m with
    | .handOver l' (.waiter _ _) => decide (l' = l)
    | .replay (.handOver l' (.waiter _ _)) _ => decide (l' = l)
    | _ => false)

/-- The chain of a line is free once its last waiter has been handed the line (R137). -/
def Slice.tidyChain (x : Slice) (l : Line) : Slice :=
  match x.findChain l with
  | some (n, c) =>
    if c.esc = none ∧ c.waiters = [] ∧ x.handsOn l = false then { x with chains := Store.set none x.chains n none } else x
  | none => x

/-- The line passes on: to a recall, a recovery, a sweep step or the head waiter by a message of the INT class, the line
staying held; with none of them it is free (R134, R138, R152, R383). -/
def State.passLine (s : State) (i : SliceId) (l : Line) : State :=
  let x := s.sl i
  let x := { x with handing := x.handing.erase l }
  match x.nextJob l with
  | some j =>
    s.setSl i { x with jobs := x.jobs.erase (l, j), handing := x.handing ++ [l], int := x.int ++ [j.msg l] }
  | none =>
    match x.findChain l with
    | none => (s.setSl i x).putPin i l false
    | some (n, c) =>
      match x.popChain n c with
      | (x, some (r, esc)) =>
        (s.setSl i { x with handing := x.handing ++ [l], int := x.int ++ [.handOver l (.waiter r esc)] }).kickEsc i
      | (x, none) => ((s.setSl i (x.tidyChain l)).putPin i l false).kickEsc i

/-- A flow's release event (R101, R134, R380). -/
def State.release (s : State) (i : SliceId) (n : Nat) : State :=
  match (s.sl i).slot n with
  | none => s
  | some x =>
    if x.released then s
    else
      let s := if stCode (((s.sl i).findWay x.line).map (·.2)) = 3 then s.count (cSl i 24) 1 else s
      let s := s.modSl i (fun y => match x.delT with | some t => y.putTr t none | none => y)
      let s := s.modSlot i n (fun y => { y with released := true, delT := none })
      let s := if x.lostWay then s.modSl i (fun y => { y with jobs := y.jobs ++ [(x.line, .recover none)] }) else s
      ((s.passLine i x.line).freeSlot i n).kick i

/-! ## Sending a flow's commands and completion (R108 to R112) -/

/-- A flow's memory command, with its DATA_PULL where data is written (R108, R109). -/
def State.flowCmd (s : State) (i : SliceId) (n : Nat) (x : Slot) (r : Req) (m : MemK) : State :=
  let what : Option MemOp := match m with
    | .none => none | .read => some .read | .write => some .write | .wpartial => some .wpartial | .atomic => some .atomic
  match what with
  | none => s
  | some mop =>
    let (s, t) := s.nextTag i
    let c : MemCmd := { op := mop, line := x.line, slice := i, htag := some (htagOf i n), tag := t, la := r.la,
                        agent := r.q.agent, rtag := r.q.tag, parts := x.parts, poison := false, aop := r.q.aop, aw := r.q.aw,
                        aoff := r.q.aoff,
                        kind := if m = .read ∨ m = .atomic then (planOf r.op r.q (decide (x.busy = .near)) x.rsvOk false []).ndr else none }
    let s := s.sendCmd c
    let s := match r.buf with
      | some b =>
        let pl : Pull := { buf := b, port := some (portOf x.line), slice := i, tag := t }
        if mop = MemOp.read then s else s.routePull r.la pl
      | none => s
    let now := s.now
    let ack : Bool := decide (r.op = Op.hatom) || decide (r.op = Op.rsvRd)
    s.modSlot i n (fun (y : Slot) =>
      let z := y.smp (fun m => { m with memIss := some now })
      { z with cmdSent := true, rpts := y.rpts ++ [t], eack := y.eack || (decide (y.parts = 1) && ack) })

/-- A poisoning WRITE that a flow owes is issued before any other command of it (R155, R384). -/
def State.flowPoison (s : State) (i : SliceId) (n : Nat) : State :=
  match (s.sl i).slot n with
  | none => s
  | some x =>
    if x.poison ∧ x.psnTag = none ∧ x.cmdSent = false then
      let (s, t) := s.poison i x.line (some (htagOf i n))
      s.modSlot i n (fun y => { (y.smp (fun m => { m with flags := m.flags ||| 8 })) with rpts := y.rpts ++ [t], psnTag := some t })
    else s

/-- A flow's NDR completion (R114); one with PARTS 1 or 2 awaits its EGRESS_ACK. -/
def State.flowNdr (s : State) (i : SliceId) (n : Nat) (r : Req) (op : NdrOp) (st : NStat) (parts : BitVec 2) : State :=
  let s := s.deliver i r.la { op := op, agent := r.q.agent, tag := r.q.tag, htag := if parts = 0 then 0 else htagOf i n,
                              status := st, parts := parts, backoff := 0, otag := 0 }
  let now := s.now
  s.modSlot i n (fun y => { (y.smp (fun m => if parts = 0 then { m with egress := some now } else m)) with
    ndrSent := true, parts := parts, eack := y.eack || decide (parts ≠ 0) })

/-! ## The transition (R95, R113, R114, R380, R431) -/

/-- The line's holders take the final state of R114, before the completion that grants it leaves (R95); agents that depart leave
the entry with it (R433). `none`: an entry had to be allocated and could not be (R380). -/
def State.grant (s : State) (i : SliceId) (n : Nat) (x : Slot) (r : Req) : Option State :=
  let near := decide (x.busy = .near)
  match (s.sl i).findWay x.line with
  | some (k, e) =>
    let (left, psn) := s.purged e
    let (own0, h0) := finalOf r.op r.q near x.rsvOk e.own e.holders
    let (own1, h1) := finalOf r.op r.q near x.rsvOk (e.own && decide (left ≠ [])) left
    let lean : Bool := decide (h1 ≠ []) && decide (left ≠ e.holders)
    let s := if lean && psn then (s.poison i x.line none).1 else s
    let (own, h) := if lean then (own1, h1) else (own0, h0)
    let s := s.writeHolders i k e own h x.delT
    some (s.modSlot i n (fun y => { y with granted := true, delT := if h = [] then none else y.delT }))
  | none =>
    let (own, h) := finalOf r.op r.q near x.rsvOk false []
    if h = [] then some (s.modSlot i n (fun y => { y with granted := true }))
    else
      match s.allocWay i x.line with
      | none => none
      | some (s, k) =>
        let e : Entry := { Entry.blank x.line with own := own, pin := true, dirty := true, age := (s.sl i).ageClock, holders := h }
        some (((s.modSl i (fun y => y.putWay k (some e))).heldDiff [] h).modSlot i n (fun y => { y with granted := true }))

/-! ## A flow moves on (R100, R101, R110, R111, R151) -/

/-- A flow waits, its line held, for a transit entry or a directory resource (R380, R431). -/
def State.parkFlow (s : State) (i : SliceId) (n : Nat) (l : Line) : State :=
  if (s.sl i).jobPark.contains (l, .flow n) then s else s.modSl i (fun x => { x with jobPark := x.jobPark ++ [(l, .flow n)] })

/-- A flow's entry that its snoops have emptied reaches I in this pass: its way frees, and its record is deleted (R86). The second
part says that no transit entry is free for the delete, so that the flow waits (R431). -/
def State.emptied (s : State) (i : SliceId) (n : Nat) (x : Slot) : State × Bool :=
  match (s.sl i).findWay x.line with
  | none => (s, false)
  | some (k, e) =>
    if e.holders ≠ [] then (s, false)
    else if e.cast ∧ x.delT.isNone ∧ ((s.sl i).handOf x.line).isNone ∧ ((s.sl i).pendOf x.line).isNone ∧ ((s.sl i).freeTr).isNone then
      (s.parkFlow i n x.line, true)
    else ((s.writeHolders i k e false [] x.delT).modSlot i n (fun y => { y with delT := none }), false)

/-- A flow whose requester has been fenced ends (R151): no further message but the ERROR it still owes, and release once
its last response and report are in. -/
def State.advanceDead (s : State) (i : SliceId) (n : Nat) (x : Slot) (r : Req) : State :=
  if x.waitsSnoop then s
  else
  match s.emptied i n x with
  | (s, true) => s
  | (s, false) =>
  if x.rpts ≠ [] then s
  else
    let dataOnly : Bool := decide (r.op = .rdCur) || decide (r.op = .rsvRd) || decide (r.op = .hatom)
    let s := if x.ndrSent ∨ (dataOnly ∧ (findEntry (s.att r.la).order r.q.agent r.q.tag).isNone) then s
      else (s.flowNdr i n r .cmp .error 0).pullNone i (if x.cmdSent then { r with buf := none } else r)
    s.release i n

/-- The completion and release of a flow whose transition is made. -/
def State.advanceDone (s : State) (i : SliceId) (n : Nat) (x : Slot) (r : Req) (p : Plan) : State :=
  match r.op with
  | .rdShared | .rdOwn =>
    if x.ndrSent then s else s.flowNdr i n r (if r.op = .rdShared then .cmpS else .cmpE) .ok 2
  | .rdAtomic =>
    if x.ndrSent then s
    else if x.busy = .near then s.flowNdr i n r .cmpNear .ok 1 else s.flowNdr i n r .cmpE .ok 2
  | .rdCur => if x.cmdSent ∧ x.rpts = [] then s.release i n else s
  | .rsvRd | .hatom => s
  | .condWr =>
    if x.ndrSent then s
    else if x.rsvOk then
      (if x.cmdSent ∧ x.rpts = [] then
         (if x.memErr then s.flowNdr i n r .cmp .error 1
          else (s.flowNdr i n r .cmp .ok 1).incF (Fld.sl i 0x284 0 16))
       else s)
    else if x.rpts = [] then
      ((s.flowNdr i n r .cmp .fail 1).incF (Fld.sl i 0x284 16 16)).count (cSl i 27) 1 |>.pullNone i r
    else s
  | .wrFull | .wrKeep | .wrPartial =>
    if x.ndrSent then s
    else if x.cmdSent ∧ x.rpts = [] then
      let s := s.flowNdr i n r .cmp (if x.memErr then .error else .ok) p.parts
      if p.parts = 0 then s.release i n else s
    else s
  | .evictClean | .inv =>
    if x.ndrSent then s
    else if x.rpts = [] then
      let s := s.flowNdr i n r (p.ndr.getD .cmp) .ok p.parts
      if p.parts = 0 then s.release i n else s
    else s
  | .conflict | .fence => s

/-- What a slot's plan was: PARTS and completion of an INV stand as they were decided. -/
def Slot.planNow (x : Slot) (r : Req) : Plan :=
  let p := planOf r.op r.q (decide (x.busy = .near)) x.rsvOk false []
  if r.op = .inv ∧ keepsS r.q then { p with ndr := some (if x.parts = 1 then .cmpS else .cmp), parts := x.parts } else p

/-- The poisoning WRITE of a flow is out: its MEMORY phase waits for the report before anything else (R155). -/
def Slot.psnOwed (x : Slot) : Bool := match x.psnTag with | some t => x.rpts.contains t | none => false

/-- A decided request flow does what is next: the READ or write once its snoops are answered, the transition, the
completion, the release. -/
def State.advanceReq (s : State) (i : SliceId) (n : Nat) (x : Slot) (r : Req) : State :=
  if x.dead then s.advanceDead i n x r
  else if x.waitsSnoop ∨ x.psnOwed then s
  else
    let p := x.planNow r
    if x.granted then
      (if p.mem ≠ .none ∧ x.cmdSent = false then s.flowCmd i n x r p.mem else s.advanceDone i n x r p)
    else
      match s.grant i n x r with
      | none =>
        if x.esc then s.parkFlow i n x.line
        else
          let s := s.wouldRetry i r false
          (s.modSlot i n (fun y => { y with req := none, eack := false })).release i n
      | some s =>
        let s := if p.mem ≠ .none ∧ x.cmdSent = false then s.flowCmd i n x r p.mem else s
        match (s.sl i).slot n with
        | some y => s.advanceDone i n y r p
        | none => s

/-- A capacity recall moves on (R94, R124): its entry is dropped when it has reached I, with the annex slot it has. A record
that its update could not rewrite is deleted from the cast store as well. The recall that waits longest takes its place. -/
def State.advanceRecall (s : State) (i : SliceId) (n : Nat) (x : Slot) : State :=
  if x.waitsSnoop ∨ x.rpts ≠ [] then s
  else
    let t := x.fetchT.getD 16
    let s := s.modSl i (fun y => { y with recalls := y.recalls - 1 })
    let s := match (s.sl i).tr t with
      | none => s
      | some v =>
        if v.kind ≠ TKind.recall then s
        else if v.phase = 4 then
          (s.modSl i (fun y => y.putTr t (some (Transit.mk0 .delete (Entry.blank x.line))))).readPair i t x.line
        else ((s.freeSlotK i t x.line v.annex).modSl i (fun y => y.dropTr t)).recordOut i x.line
    let s := match (s.sl i).findWay x.line with
      | some (k, e) => (s.modSl i (fun y => y.putWay k none)).heldDiff e.holders []
      | none => s
    let s := match (s.sl i).recallQ with
      | [] => s
      | t' :: rest => (s.modSl i (fun y => { y with recallQ := rest })).beginRecall i t'
    s.release i n

/-- Broadcast recovery moves on (R383 to R385): the record that the fetch found, or that is on its way to the cast store, is
deleted, the line poisoned where R384 requires, released in I. -/
def State.advanceRecover (s : State) (i : SliceId) (n : Nat) (x : Slot) : State :=
  if x.waitsSnoop ∨ !x.fetched ∨ x.rpts ≠ [] then s
  else if x.granted then
    ((s.incF (Fld.sl i 0x30C 0 16)).release i n)
  else
    let s := match (s.sl i).findWay x.line with
      | some (k, e) => (s.modSl i (fun y => y.putWay k none)).heldDiff e.holders []
      | none => s
    let rec_ : Bool := x.fetchT.isSome || ((s.sl i).handOf x.line).isSome || ((s.sl i).pendOf x.line).isSome
    let s := s.deleteRec i { Entry.blank x.line with cast := rec_ } x.fetchT
    let seq := BitVec.ofNat 32 (s.fld ⟨0x70118, 0, 32⟩)
    let psn := s.agents.any (fun e => e.2.sweep) || (match x.marker with | some m => decide (m ≠ seq) | none => false)
    let s := s.modSlot i n (fun y => { y with granted := true, poison := psn || y.poison, fetchT := none })
    if psn || x.poison then (s.incF (Fld.sl i 0x30C 16 16)).flowPoison i n
    else (s.incF (Fld.sl i 0x30C 0 16)).release i n

/-- A slot moves on as far as it can. -/
def State.advance (s : State) (i : SliceId) (n : Nat) : State :=
  let s := s.flowPoison i n
  match (s.sl i).slot n with
  | none => s
  | some x =>
    if x.released then s.freeSlot i n
    else if !x.decided then s
    else
      match x.busy, x.req with
      | .recall, _ => s.advanceRecall i n x
      | .recover, _ => s.advanceRecover i n x
      | _, some r => s.advanceReq i n x r
      | _, none => s

end Sys2Proof.Machine
end

