-- ==== Sys2Proof/Machine/Look.lean ====
section
/-! DEFINITION. What a slice does with a request (chapters 3 to 5, 15): checks 4 to 9 of R98, lookup and fill, decision,
chains, broadcast recovery's start, and the fencing of an agent. -/

namespace Sys2Proof.Machine

/-! ## Checks 4 to 6 (R54, R98, R150, R296) -/

/-- What a check answers. -/
inductive Verdict where
  | ok
  | retry
  | error (perm : Bool)
  deriving DecidableEq, Repr

/-- Requests served in LEAVING (R54). -/
def Op.leavingOk : Op → Bool
  | .wrFull | .wrKeep | .wrPartial | .evictClean | .conflict | .fence => true
  | _ => false

/-- Check 4: STATE and permission (R54). -/
def State.check4 (s : State) (r : Req) : Verdict :=
  let a := s.agent r.q.agent
  match a.st with
  | .joining => .retry
  | .active =>
    (match r.op with
     | .hatom => if a.hatom then .ok else .error true
     | .rsvRd | .condWr => if a.rsv then .ok else .error true
     | _ => .ok)
  | .leaving => if r.op.leavingOk then .ok else .error false
  | _ => .error false

/-- The refusal count an ERROR of check 4 goes to. -/
def refusalFld (perm : Bool) : AttId → Fld := if perm then Fld.perm else Fld.notActive

/-- The slice works on passes: a mode in which slices run, and the slice is active. -/
def State.passGo (s : State) (i : SliceId) : Bool := s.runs && (s.sl i).active

/-! ## Entries and holders inside a flow (R103, R113) -/

/-- An entry's holders become `h`, the way staying in place even where `h` is empty: the flow that holds the line makes
the transition in the same pass. -/
def State.shrink (s : State) (i : SliceId) (k : Nat) (e : Entry) (own : Bool) (h : List AgentId) : State :=
  if own = e.own ∧ h = e.holders then s
  else
    let hd := if h.length ≤ 4 then none else e.head
    (s.modSl i (fun x => x.putWay k (some { e with own := own, holders := h, head := hd, dirty := true }))).heldDiff
      e.holders h

/-- Agent a's holding of a line changes by its answer: removed, or from E to S. -/
def State.dropHolder (s : State) (i : SliceId) (l : Line) (a : AgentId) (keep : Bool) : State :=
  match (s.sl i).findWay l with
  | some (k, e) =>
    if e.holders.contains a then
      (if keep then s.shrink i k e false e.holders
       else let h := e.holders.filter (fun b => decide (b ≠ a)); s.shrink i k e (e.own && decide (h ≠ [])) h)
    else s
  | none =>
    match (s.sl i).findTr l with
    | some (t, v) =>
      if v.kind = .recall ∧ v.e.holders.contains a ∧ !keep then
        let h := v.e.holders.filter (fun b => decide (b ≠ a))
        (s.modSl i (fun x => x.putTr t (some { v with e := { v.e with holders := h } }))).heldDiff v.e.holders h
      else s
    | none => s

/-- Agent a holds a line in E. -/
def State.ownedBy (s : State) (i : SliceId) (l : Line) (a : AgentId) : Bool :=
  match (s.sl i).findWay l with
  | some (_, e) => e.own && e.holders.contains a
  | none => match (s.sl i).findTr l with | some (_, v) => v.e.own && v.e.holders.contains a | none => false

/-! ## Chains (R133, R137, R379) -/

/-- A chain's place for an ordinary waiter is free. -/
def Slice.waiterRoom (x : Slice) : Bool := decide (x.waiters < 224)

/-- The lowest free conflict chain; one reserved for an escalated request is not free (R99, R141). -/
def Slice.freeChain (x : Slice) : Option Nat :=
  (List.range 32).find? (fun n => decide (Store.get none x.chains n = none) && !x.keeps (.chain n))

/-- A request has become a waiter (R336, R345). -/
def State.joined (s : State) (i : SliceId) : State := s.count (cSl i 20) 1

/-- The request with its sample marked as chained (R345). -/
def Req.chainMark (r : Req) : Req := { r with smp := r.smp.map (fun m => { m with flags := m.flags ||| 1 }) }

/-- A request that is not escalated fails check 7: it joins or takes a chain, or would receive RETRY (R137, R139). -/
def State.chainJoin (s : State) (i : SliceId) (r : Req) (front : Bool) : State :=
  let x := s.sl i
  let r := { r.chainMark with known := front && r.known }
  if x.stopped then s.wouldRetry i r true
  else
    match x.findChain r.q.laddr with
    | some (n, c) =>
      if x.waiterRoom then
        (s.modSl i (fun x => { x with chains := Store.set none x.chains n (some { c with
          waiters := if front then r :: c.waiters else c.waiters ++ [r] }) })).joined i
      else s.wouldRetry i r true
    | none =>
      match x.freeChain with
      | some n =>
        if x.waiterRoom then
          (s.modSl i (fun x => { x with chains := Store.set none x.chains n (some { line := r.q.laddr, esc := none, waiters := [r] }) })).joined i
        else s.wouldRetry i r true
      | none => s.wouldRetry i r true

/-- An escalated request takes the reserved slot of its line's chain, or a free chain; with none free general chaining
stops (R141). The flag says whether it has a chain. -/
def State.escChain (s : State) (i : SliceId) (r : Req) : State × Bool :=
  let x := s.sl i
  match x.findChain r.q.laddr with
  | some (n, c) =>
    if c.esc.isNone ∧ x.keeps (.seat n) = false then
      ((s.modSl i (fun x => { x with chains := Store.set none x.chains n (some { c with esc := some r.chainMark }) })).joined i, true)
    else (s, c.esc.isSome)
  | none =>
    match x.freeChain with
    | some n =>
      ((s.modSl i (fun x => { x with chains := Store.set none x.chains n (some { line := r.q.laddr, esc := some r.chainMark, waiters := [] }) })).joined i, true)
    | none => (s.chainStop i true, false)

/-- A request that met its own line's lost entry stands at the head of the line's chain, behind the recovery (R379). -/
def State.chainHead (s : State) (i : SliceId) (r : Req) (esc : Bool) : State :=
  if esc then (s.escChain i r).1 else s.chainJoin i r true

/-! ## A request leaves its slot again (R98, R135, R141) -/

/-- A slot is given up before its flow is decided; its fetch's transit entry is given up with it. -/
def State.dropSlot (s : State) (i : SliceId) (n : Nat) : State :=
  let t := ((s.sl i).slot n).bind (·.fetchT)
  (·.giveSlot i n) <| s.modSl i (fun x => (match t with
    | some t => (match x.tr t with | some v => if v.kind = TKind.fetch then x.dropTr t else x | none => x)
    | none => x).putSlot n none)

/-- A request fails check 9: an escalated waiter waits at the head, holding the line; an escalated request that holds
none gives the line up; any other receives RETRY or its ticket, and the line passes on (R135, R139, R141). -/
def State.fail9 (s : State) (i : SliceId) (n : Nat) : State :=
  match (s.sl i).slot n with
  | none => s
  | some x =>
    match x.req with
    | none => s
    | some r =>
      let s := s.dropSlot i n
      if x.esc ∧ x.chained then
        s.modSl i (fun y => { y with handing := y.handing ++ [x.line], escPark := y.escPark ++ [(x.line, r)] })
      else if x.esc then s.passLine i x.line
      else ((s.wouldRetry i r false).passLine i x.line).kickJobs i

/-- A flow's line turns out to need broadcast recovery before the flow is decided: the request stands at the head of the
chain, the recovery takes the line (R379, R381). One that met a lost marker is decided after this recovery: DEDUCED, log
49. -/
def State.lostUnder (s : State) (i : SliceId) (n : Nat) (marker : Option (BitVec 32)) : State :=
  match (s.sl i).slot n with
  | none => s
  | some x =>
    let s := s.dropSlot i n
    let s := match x.req with | some r => s.chainHead i { r with known := marker.isSome } x.esc | none => s
    s.startRecover i x.line marker

/-! ## Lookup (R70 to R75, R90, R429) -/

/-- What a lookup finds. -/
inductive Look where
  | ready     -- the entry stands in a way, or the line is in I
  | wait      -- a fetch is out
  | short     -- a directory resource is missing
  | lost      -- the entry was uncorrectable
  deriving DecidableEq, Repr

/-- One lookup for the age clock, which sets the AGE of the entry it finds (R74). -/
def State.lookTick (s : State) (i : SliceId) (l : Option Line) : State :=
  s.modSl i (fun x =>
    let y := { x with lookups := x.lookups + 1 }
    match l.bind y.findWay with
    | some (k, e) => y.putWay k (some { e with age := y.ageClock })
    | none => y)

/-- What the check of the stored bits gives for the way, and its pool blocks, that a pass meets (R73, R77, R379 to R381): a way
that a flow holds goes as well, and the flow continues. -/
def State.wayCheck (s : State) (i : SliceId) (l : Line) (chk : PassCheck) : State :=
  match (s.sl i).findWay l with
  | none => s
  | some (k, e) =>
    if chk.way = .uncorr ∨ (chk.pool = .uncorr ∧ e.head.isSome) then s.loseWay i k e
    else if chk.way = .corrected ∨ (chk.pool = .corrected ∧ e.head.isSome) then s.corrected i
    else s

/-- A way found: its age is the clock's (R74), and it is pinned for the flow (R69). -/
def State.touch (s : State) (i : SliceId) (k : Nat) (e : Entry) : State :=
  s.modSl i (fun x => x.putWay k (some { e with age := x.ageClock, pin := true }))

/-- An entry takes a way of its line's set (R74, R75, R78), pinned; `none` where a way or a pool run is missing, in which
case the oldest unpinned POOL entry has been evicted where it was the run (R78). -/
def State.fillWay (s : State) (i : SliceId) (e : Entry) : State × Bool :=
  match s.allocWay i e.line with
  | none => (s, false)
  | some (s', k) =>
    match (s'.sl i).runFor none e.holders with
    | none => (s.evictPool i, false)
    | some hd =>
      (s'.modSl i (fun x => x.putWay k (some { e with head := hd, pin := true, age := x.ageClock })), true)

/-- The authoritative copy in the transit buffer is copied back into a way (R429), without the agents that have departed
since its write was issued (R433); left with no holder, the line is in I and its record is to be deleted. -/
def State.copyBack (s : State) (i : SliceId) (t : Nat) (v : Transit) : State × Bool :=
  let (h, psn) := s.purged v.e
  let leave (s : State) : State :=
    if h = v.e.holders then s else ((if psn then (s.poison i v.e.line none).1 else s).heldDiff v.e.holders h)
  let gone (s : State) : State := s.modSl i (fun x => x.putTr t ((x.tr t).map (fun v => { v with copied := true })))
  if h = [] ∧ v.e.holders ≠ [] then
    (if ((s.sl i).freeTr).isNone then (s, false)
     else ((gone (leave s)).deleteRec i { Entry.blank v.e.line with cast := true } none, true))
  else
    match s.fillWay i { v.e with cast := true, dirty := true, holders := h, own := v.e.own && decide (h ≠ []) } with
    | (s, false) => (s, false)
    | (s, true) => (gone (leave s), true)

/-- An uncorrectable transit entry is dropped (R381). What it was to write is not known, its annex slot with it. -/
def State.loseTr (s : State) (i : SliceId) (t : Nat) (v : Transit) : State :=
  if v.kind = .spill ∧ v.phase ≠ 2 then s.dropHand i t { v with annex := none }
  else s.modSl i (fun x => { (x.dropTr t) with recallQ := x.recallQ.erase t })

/-- The slot of a flow waits for transit entry t's fetch. -/
def State.waitFetch (s : State) (i : SliceId) (n t : Nat) : State := s.modSlot i n (fun y => { y with fetchT := some t })

/-- The line is looked up for slot n (R70). -/
def State.lookup (s : State) (i : SliceId) (n : Nat) (l : Line) (chk : PassCheck) : State × Look :=
  match (s.sl i).findWay l with
  | some (k, e) =>
    let s := s.count (cSl i 8) 1
    if chk.way = .uncorr ∨ (chk.pool = .uncorr ∧ e.head.isSome) then
      ((s.modSl i (fun x => x.putWay k none)).incF (Fld.sl i 0x304 16 16), .lost)
    else
      let s := if chk.way = .corrected ∨ (chk.pool = .corrected ∧ e.head.isSome) then s.corrected i else s
      (s.touch i k e, .ready)
  | none =>
    match (s.sl i).findTr l with
    | some (t, v) =>
      let s := s.count (cSl i 9) 1
      match v.kind with
      | .delete => (s, .ready)
      | .fetch => (s.waitFetch i n t, .wait)
      | _ =>
        if v.phase = 3 then (s.waitFetch i n t, .wait)
        else if chk.transit = .uncorr then
          ((s.loseTr i t v).incF (Fld.sl i 0x304 16 16), .lost)
        else
          let s := if chk.transit = .corrected then s.corrected i else s
          match s.copyBack i t v with
          | (s, true) => (s, .ready)
          | (s, false) => (s, .short)
    | none =>
      if (s.sl i).silPass l || (s.sl i).bypassed (bucketOf l) then
        match (s.sl i).freeTr with
        | none => (s, .short)
        | some t =>
          let s := (s.modSl i (fun x => x.putTr t (some (Transit.mk0 .fetch (Entry.blank l))))).count (cSl i 11) 1
          ((s.readPair i t l).waitFetch i n t, .wait)
      else (s.count (cSl i 10) 1, .ready)

/-- A sweep step queues on a line (R152). -/
def State.queueSweep (s : State) (i : SliceId) (l : Line) : State :=
  if (s.sl i).jobs.contains (l, .sweep) then s else s.modSl i (fun x => { x with jobs := x.jobs ++ [(l, .sweep)] })

/-! ## Decision (R98 check 9, R102, R110, R114, R115, R122, R207 to R212, R431) -/

/-- The row's index for a target's snoops: that of the west edge row that serves its attachment (R104). -/
def State.rowOf (s : State) (a : AgentId) : Nat := (s.agent a).la.toNat / 2

/-- A snoop joins its row's issue queue. -/
def State.queueSnoop (s : State) (i : SliceId) (n : Nat) (a : AgentId) : State :=
  let row := s.rowOf a
  s.modSl i (fun x => { x with snpQ := Store.set [] x.snpQ row (Store.get [] x.snpQ row ++ [(BitVec.ofNat 10 n, a)]) })

/-- A snoop as it is queued. -/
def Snoop.fresh (op : SnpOp) (a : AgentId) : Snoop :=
  { op := op, agent := a, st := .queued, copies := 1, resent := false, bad := 0, issued := 0, timer := 0, limit := 0, answered := 0 }

/-- A write from a snooped agent is served inside the flow of slot n. -/
def State.snoopWrite (s : State) (i : SliceId) (n : Nat) (r : Req) : State :=
  let (s, t) := s.nextTag i
  let s := s.loseRsv i (fun v => decide (v.line = r.q.laddr) && decide (v.agent ≠ r.q.agent))
  let mop : MemOp := if r.op = .wrPartial then .wpartial else .write
  let s := s.sendCmd { op := mop, line := r.q.laddr, slice := i, htag := some (htagOf i n), tag := t, la := r.la,
                       agent := r.q.agent, rtag := r.q.tag, parts := 0, poison := false, aop := 0, aw := 0, aoff := 0, kind := none }
  let s := match r.buf with
    | some b => s.routePull r.la { buf := b, port := some (portOf r.q.laddr), slice := i, tag := t }
    | none => s
  s.modSlot i n (fun y => { y with
    srws := y.srws ++ [{ agent := r.q.agent, la := r.la, rtag := r.q.tag, tag := t }], rpts := y.rpts ++ [t] })

/-- Writes of newly snooped agents that wait for the line, in its chain, in an escalation slot, or held for a move, are served
inside the flow: their agents answer only after them (R147, R383). DEDUCED, log 30. -/
def State.claimWrites (s : State) (i : SliceId) (n : Nat) (as : List AgentId) : State :=
  match (s.sl i).slot n with
  | none => s
  | some y =>
    let x := s.sl i
    let mine (r : Req) : Bool := r.op.plainWrite && as.contains r.q.agent && decide (r.q.laddr = y.line)
    let inChain : List Req := match x.findChain y.line with | some (_, c) => (c.esc.toList ++ c.waiters).filter mine | none => []
    let inEsc := x.escSlots.filter (fun r => mine r && !inChain.any (fun c => decide (c.q.agent = r.q.agent) && decide (c.q.tag = r.q.tag)))
    let rs := inChain ++ inEsc ++ x.moveHold.filter mine
    if rs = [] then s
    else
      let chains := match x.findChain y.line with
        | some (k, c) =>
          Store.set none x.chains k (some { c with esc := c.esc.filter (fun r => !mine r), waiters := c.waiters.filter (fun r => !mine r) })
        | none => x.chains
      let x := { x with chains := chains, moveHold := x.moveHold.filter (fun r => !mine r) }
      let s := s.setSl i (x.tidyChain y.line)
      (rs.foldl (fun s r => (s.endEsc i r).snoopWrite i n r) s).kickEsc i

/-- A flow's snoops are queued in ascending agent order (R104); writes that wait for the line become part of the flow (R147). -/
def State.sendSnoops (s : State) (i : SliceId) (n : Nat) (op : SnpOp) (as : List AgentId) : State :=
  let s := s.modSlot i n (fun y => { (y.smp (fun m => { m with snoops := as.length })) with
    snoops := y.snoops ++ as.map (Snoop.fresh op) })
  (as.foldl (fun s a => s.queueSnoop i n a) s).claimWrites i n as

/-- The contention counter follows a decision (R211). -/
def State.predDecide (s : State) (i : SliceId) (r : Req) (near : Bool) (others : Bool) : State :=
  let up : Bool := others && (decide (r.op = .rdOwn) || (decide (r.op = .rdAtomic) && !near) || (decide (r.op = .inv) && keepsE r.q))
  if up then s.modSl i (fun x => x.predAdd r.q.laddr 1)
  else if r.op = .rdAtomic ∧ !near ∧ !others then s.modSl i (fun x => x.predAdd r.q.laddr (-1))
  else s

/-- RD_ATOMIC is served near (R115, R212), by the permission its agent had when it was admitted (R53). -/
def State.nearChoice (s : State) (i : SliceId) (r : Req) : Bool :=
  decide (r.op = .rdAtomic) && r.hatom && decide (s.fld (Fld.sl i 0x288 0 3) ≤ (s.sl i).predAt r.q.laddr)

/-- The directory resources of a flow (check 9 of R98): a way for a line in I that is to gain a holder, a pool run for a
set that grows, a transit entry for a delete. The transit entry reserved, where there is one. -/
def State.resources (s : State) (i : SliceId) (l : Line) (we : Option (Nat × Entry)) (targets fin : List AgentId) (empty : Bool) :
    Option (Option Nat) :=
  match we with
  | none => if fin = [] then some none else (s.allocWay i l).map (fun _ => none)
  | some (_, e) =>
    if targets = [] ∧ fin ≠ [] ∧ ((s.sl i).runFor (some e) fin).isNone then none
    else if e.cast ∧ empty then (s.sl i).freeTr.map some
    else some none

/-- The flow of slot n is decided: its purge, counts, reservations, predictor, snoops and early READ. The flag says that
check 9 passed. -/
def State.decideFlow (s : State) (i : SliceId) (n : Nat) : State × Bool :=
  match (s.sl i).slot n with
  | none => (s, true)
  | some x =>
    match x.req with
    | none => (s, true)
    | some r =>
      let l := x.line
      let we := (s.sl i).findWay l
      let (h, psn) := match we with | some (_, e) => s.purged e | none => ([], false)
      let own := match we with | some (_, e) => e.own && decide (h ≠ []) | none => false
      let near := s.nearChoice i r
      let ok := decide (r.op = .condWr) && (s.sl i).rsvStands r.q.agent l
      let p := planOf r.op r.q near ok own h
      let fin := (finalOf r.op r.q near ok own h).2
      match s.resources i l we p.targets fin (mayEmpty r.op r.q near ok own h) with
      | none =>
        let s := match we with | some (_, e) => if ((s.sl i).runFor (some e) fin).isNone then s.evictPool i else s | none => s
        (match we with
         | some (k, e) =>
           if h = e.holders then s
           else if h = [] then s.queueSweep i l
           else (if psn then (s.poison i l none).1 else s).shrink i k e own h
         | none => s, false)
      | some del =>
        let s := match we with | some (k, e) => s.shrink i k e own h | none => s
        let s := s.modSl i (fun y => match del with | some t => y.putTr t (some (Transit.mk0 .reserved (Entry.blank l))) | none => y)
        let s := s.endEsc i r
        let s := if (s.sl i).roster.any (fun t => decide (t.agent = r.q.agent) && decide (t.tag = r.q.tag)) then s.endTicket i r.q.agent else s
        let others := decide (h.filter (fun b => decide (b ≠ r.q.agent)) ≠ [])
        let c := if r.op = .rdAtomic ∧ near then 25 else decidedCnt r.op
        let s := s.count (cSl i c) 1
        let s := if r.op = .rdAtomic ∧ !near then (s.count (cSl i 26) 1).incF (Fld.sl i 0x28C 16 16) else s
        let s := if r.op = .rdAtomic ∧ near then s.incF (Fld.sl i 0x28C 0 16) else s
        let s := s.predDecide i r near others
        let s := if r.op = .evictClean ∧ !h.contains r.q.agent then s.incF (Fld.sl i 0x220 16 16) else s
        let s := if r.op = .condWr ∧ ok then
            s.modSl i (fun y => { y with rsvs := y.rsvs.filter (fun v => !decide (v.agent = r.q.agent)) }) else s
        let s := if cancels r near ok then s.loseRsv i (fun v => decide (v.line = l) && decide (v.agent ≠ r.q.agent)) else s
        let s := if r.op = .rsvRd then s.setRsv i r.q.agent l else s
        let now := s.now
        let found := stCode (we.map (·.2))
        let s := s.modSlot i n (fun y => { (y.smp (fun m => { m with lookup := some now, found := BitVec.ofNat 2 found })) with
          busy := busyOf r.op near, decided := true, rsvOk := ok, parts := p.parts, delT := del, poison := y.poison || psn,
          fetchT := none,
          other := if own then h.find? (fun b => decide (b ≠ r.q.agent)) else none })
        let s := s.sendSnoops i n p.op p.targets
        let s := s.flowPoison i n
        let s := if p.early ∧ p.mem = .read ∧ psn = false then (match (s.sl i).slot n with | some y => s.flowCmd i n y r .read | none => s) else s
        (s, true)

/-- Decision of a flow whose line's entry is at hand: it moves on, or fails check 9. A flow whose requester has been
fenced meanwhile ends (R151). -/
def State.decideOr (s : State) (i : SliceId) (n : Nat) : State :=
  if (((s.sl i).slot n).map (·.dead)).getD false then
    (s.modSlot i n (fun y => { y with decided := true, granted := true, fetchT := none })).advance i n
  else
    match s.decideFlow i n with
    | (s, true) => s.advance i n
    | (s, false) => s.fail9 i n

/-! ## Admission (R98 checks 7 and 8, R99, R100) -/

/-- A request takes slot n and its line; the entry is looked up, and decided where it is at hand. -/
def State.admitIn (s : State) (i : SliceId) (n : Nat) (r : Req) (esc chained : Bool) (chk : PassCheck) : State :=
  let l := r.q.laddr
  let r := { r with hatom := (s.agent r.q.agent).hatom }
  let x : Slot := { Slot.fresh (busyOf r.op false) l (some r) with esc := esc, chained := chained }
  let s := (s.modSl i (fun y => { (y.putSlot n (some x)) with handing := y.handing.erase l })).count (cSl i 1) 1
  match s.lookup i n l chk with
  | (s, .ready) => s.decideOr i n
  | (s, .wait) => s
  | (s, .short) => s.fail9 i n
  | (s, .lost) => s.lostUnder i n none

/-! ## Snoop-response writes (R106, R147, R209) -/

/-- The flow that holds a line and waits for an agent's answer. -/
def Slice.snooper (x : Slice) (l : Line) (a : AgentId) : Option Nat :=
  (x.slotList.find? (fun p => decide (p.2.line = l) && !p.2.released
    && p.2.snoops.any (fun v => decide (v.agent = a) && decide (v.st ≠ .answered)))).map (·.1)

/-! ## Checks 4 to 9 in order (R98, R133, R147, R296, R297) -/

/-- A request whose bucket this slice no longer homes goes back to its edge (R297); its ticket is dropped. -/
def State.bounceReq (s : State) (i : SliceId) (r : Req) : State :=
  let s := (s.incF (Fld.sl i 0x2C0 16 16)).endEsc i r
  let s := if (s.sl i).roster.any (fun t => decide (t.agent = r.q.agent) && decide (t.tag = r.q.tag)) then s.endTicket i r.q.agent else s
  let h := headerOf (if r.op.rwd then 2 else 1) (.att r.la) (.slice i)
    (if r.op.rwd then rwdBody r.op r.q r.buf else headerBody (reqHeader r.op r.q))
  let s := s.sendBack (sliceRouter i) false 3 h 2
  { s with mesh := { s.mesh with bounced := s.mesh.bounced ++ [.rehome r] } }

/-- Check 6 for a new request: its bucket is here and still, or the request is held, refused or bounced; a write that the
edge matched to a snoop is never refused here (R147). -/
def State.check6 (s : State) (i : SliceId) (r : Req) (wb : Bool) : Option State :=
  let b := bucketOf r.q.laddr
  if !s.serves i b then some (s.bounceReq i r)
  else
    match s.moveOf b with
    | none => none
    | some m =>
      if m.src ≠ i ∨ m.st = .waiting then none
      else if (s.sl i).moveHold.length < 32 ∨ wb then some (s.modSl i (fun x => { x with moveHold := x.moveHold ++ [r] }))
      else some (s.sliceRetry i r)

/-- A new request at its slice: checks 4 to 8, then admission (R98). -/
def State.newRequest (s : State) (i : SliceId) (r : Req) (wb : Bool) (chk : PassCheck) : State :=
  match s.check4 r with
  | .error perm => s.sliceError i r (refusalFld perm)
  | .retry => s.sliceRetry i r
  | .ok =>
    if s.inCast r.q.laddr then s.sliceError i r Fld.perm
    else
      match (if r.op.plainWrite then (s.sl i).snooper r.q.laddr r.q.agent else none) with
      | some n => (s.wayCheck i r.q.laddr chk).snoopWrite i n r
      | none =>
        match s.check6 i r wb with
        | some s => s
        | none =>
          let x := s.sl i
          if x.holds r.q.laddr ∨ (x.findChain r.q.laddr).isSome then
            let s := if predRaises r then s.modSl i (fun x => x.predAdd r.q.laddr 2) else s
            let s := s.wayCheck i r.q.laddr chk
            s.chainJoin i r false
          else
            match x.freeSlot with
            | none => s.wouldRetry i r false
            | some n => s.admitIn i n r false false chk

/-! ## Lockstep (R375 to R377) -/

/-- A pass mismatched with replay count n: it goes back to the head of INT, or the slice stops. -/
def State.mismatch (s : State) (i : SliceId) (p : Pass) (n : Nat) : State :=
  if 3 ≤ n then (s.sliceErr i).fatal 1 0 i.toNat 0
  else
    let s := s.modSl i (fun x => { x with int := .replay p (n + 1) :: x.int })
    let s := ((s.incF (Fld.sl i 0x308 0 16)).maxF (Fld.sl i 0x308 16 2) (n + 1)).fire (evSl i 0)
    ((s.count (cSl i 28) 1).classRec).sliceErr i

/-! ## Which pass the arbiter gives (R129, R130) -/

/-- Background work of a slice is pending that its mode and its shed level let run (R129, R281, R288, R295): the write-back of a
moving bucket, and but for QUIESCE a departure scan, and below L2 the scrub with rebuilds and admission scans. -/
def State.bgPending (s : State) (i : SliceId) : Bool :=
  s.hmap.moves.any (fun m => decide (m.src = i) && decide (m.st = .marked))
    || (decide (s.mode ≠ .quiesce) && (decide ((s.sl i).swept ≠ []) || decide (s.level < 2)))

/-- No pass of a class may start: background work has waited 63 cc. -/
def State.bgFirst (s : State) (i : SliceId) : Bool := decide ((s.sl i).bgWait = 63) && s.bgPending i

/-- The four queues of a slice are empty. -/
def Slice.idle (x : Slice) : Bool := decide (x.wb = []) && decide (x.rsp = []) && decide (x.int = []) && decide (x.new = [])

/-- Background work may take the pass. -/
def State.bgMay (s : State) (i : SliceId) : Bool := s.bgFirst i || (s.sl i).idle

/-- The head of WB has the pass. -/
def State.headWb (s : State) (i : SliceId) : Option (Req × List Req) :=
  if s.bgFirst i then none else match (s.sl i).wb with | r :: t => some (r, t) | [] => none
/-- The head of RSP has the pass. -/
def State.headRsp (s : State) (i : SliceId) : Option (RspMsg × List RspMsg) :=
  if s.bgFirst i ∨ (s.sl i).wb ≠ [] then none else match (s.sl i).rsp with | r :: t => some (r, t) | [] => none
/-- The head of INT has the pass. -/
def State.headInt (s : State) (i : SliceId) : Option (IntMsg × List IntMsg) :=
  if s.bgFirst i ∨ (s.sl i).wb ≠ [] ∨ (s.sl i).rsp ≠ [] then none else match (s.sl i).int with | r :: t => some (r, t) | [] => none
/-- The head of NEW has the pass. -/
def State.headNew (s : State) (i : SliceId) : Option (Req × List Req) :=
  if s.bgFirst i ∨ (s.sl i).wb ≠ [] ∨ (s.sl i).rsp ≠ [] ∨ (s.sl i).int ≠ [] then none
  else match (s.sl i).new with | r :: t => some (r, t) | [] => none

/-! ## Fencing an agent (R61, R142, R151, R155, R209) -/

/-- A request that waits somewhere is refused: ERROR, counted in NOT_ACTIVE. -/
def State.refuseWaiting (s : State) (i : SliceId) (r : Req) : State := s.sliceError i r Fld.notActive

/-- The request that a pass works on while it waits in INT for its replay, or that its hand-over hands the line to (R61, R376). -/
def Pass.waits : Pass → Option Req
  | .newReq r => some r
  | .write r => some r
  | .handOver _ (.waiter r _) => some r
  | _ => none

/-- The line that a pass names itself. -/
def Pass.line : Pass → Option Line
  | .newReq r => some r.q.laddr
  | .write r => some r.q.laddr
  | .rsp (.birsp _ _ _ l _) => some l
  | .rsp (.conflict _ q) => some q.laddr
  | .rpt p => if p.htag.isNone then some p.line else none
  | .handOver l _ => some l
  | .recoverStart l _ => some l
  | _ => none

/-- The request that waits in a message of INT. -/
def IntMsg.waits : IntMsg → Option Req
  | .handOver _ (.waiter r _) => some r
  | .replay p _ => p.waits
  | _ => none

/-- The line that a hand-over in INT holds for a waiter. -/
def IntMsg.holdsFor : IntMsg → Option Line
  | .handOver l (.waiter _ _) => some l
  | .replay (.handOver l (.waiter _ _)) _ => some l
  | _ => none

/-- The requests of an agent that wait at a slice leave it with ERROR, with whatever they hold (R61, R141, R142). -/
def State.fenceSlice (s : State) (a : AgentId) (i : SliceId) : State :=
  let x := s.sl i
  let mine (r : Req) : Bool := decide (r.q.agent = a)
  let hit (m : IntMsg) : Bool := (m.waits.map mine).getD false
  let inInt := x.int.filter hit
  let parked := x.escPark.filter (fun p => mine p.2)
  let chained := x.chainList.flatMap (fun p => (p.2.esc.toList ++ p.2.waiters).filter mine)
  let elsewhere := chained ++ parked.map (·.2) ++ inInt.filterMap (·.waits)
  let inEsc := x.escSlots.filter (fun r => mine r && !(elsewhere.any (fun c => decide (c.q.tag = r.q.tag))))
  let all := x.new.filter mine ++ x.wb.filter mine ++ elsewhere ++ x.moveHold.filter mine ++ inEsc
  let y := { x with
    new := x.new.filter (fun r => !mine r), wb := x.wb.filter (fun r => !mine r),
    moveHold := x.moveHold.filter (fun r => !mine r), escSlots := x.escSlots.filter (fun r => !mine r),
    escPark := x.escPark.filter (fun p => !mine p.2), int := x.int.filter (fun m => !hit m),
    roster := x.roster.filter (fun t => !decide (t.agent = a)), kept := x.kept.filter (fun e => !decide (e.2.1 = a)),
    chains := x.chainList.foldl (fun m p => Store.set none m p.1 (some { p.2 with
      esc := p.2.esc.filter (fun r => !mine r), waiters := p.2.waiters.filter (fun r => !mine r) })) x.chains }
  let s := s.setSl i (x.chainList.foldl (fun y p => y.tidyChain p.2.line) y)
  let s := all.foldl (fun s r => s.refuseWaiting i r) s
  let s := (inInt.filterMap (·.holdsFor) ++ parked.map (·.1)).foldl (fun s l => s.passLine i l) s
  s.rosterClock i

/-- The flows a fence touches in a slice: those of the agent's requests end under R151, and open snoops to it are
answered (R61, R155). -/
def State.fenceFlows (s : State) (a : AgentId) (i : SliceId) : State :=
  let ns := ((s.sl i).slotList.filter (fun p => (match p.2.req with | some r => decide (r.q.agent = a) | none => false)
    || p.2.snoops.any (fun v => decide (v.agent = a) && decide (v.st ≠ .answered)))).map (·.1)
  let s := ns.foldl (fun s n =>
    match (s.sl i).slot n with
    | none => s
    | some x =>
      let dead := (match x.req with | some r => decide (r.q.agent = a) | none => false)
      let hit := x.snoops.any (fun v => decide (v.agent = a) && decide (v.st ≠ .answered))
      let psn := hit && s.ownedBy i x.line a
      let s := if hit then s.dropHolder i x.line a false else s
      let s := s.modSl i (fun y => { y with snpQ := y.snpQ.foldl (fun m e =>
        Store.set [] m e.1 ((Store.get [] m e.1).filter (fun q =>
          !(decide (q.1.toNat = n) && (decide (q.2 = a) || (dead && x.snoops.any (fun v => decide (v.agent = q.2) && decide (v.st = .queued)))))))) y.snpQ })
      s.modSlot i n (fun y => { y with
        dead := y.dead || dead, poison := y.poison || psn,
        snoops := (if dead then y.snoops.filter (fun v => !decide (v.st = .queued) || decide (v.agent = a)) else y.snoops).map (fun v =>
          if v.agent = a ∧ v.st ≠ .answered then { v with st := .answered, copies := 0, answered := s.now } else v) })) s
  ns.foldl (fun s n => s.advance i n) s

/-- An agent's requests at an edge are refused, its data is discarded, its fences are marked (R61, R151, R204). -/
def State.fenceEdge (s : State) (a : AgentId) (k : AttId) : State :=
  let x := s.att k
  let mine (r : Req) : Bool := decide (r.q.agent = a)
  let waits := x.waitIn.filter mine
  let gated := (x.order.filter (fun e => e.gated && mine e.req)).map (·.req)
  let wins := x.winRd.filter mine
  let fen := x.fences.filterMap (fun f => f.2.filter (fun f => decide (f.agent = a) && !f.dead))
  let s := s.setAtt k { x with
    waitIn := x.waitIn.filter (fun r => !mine r), winRd := x.winRd.filter (fun r => !mine r),
    drsQ := x.drsQ.filter (fun d => !decide (d.2.agent = a)),
    snooped := x.snooped.filter (fun p => !decide (p.1 = a)),
    fences := x.fences.map (fun f => (f.1, f.2.map (fun f => if f.agent = a then { f with dead := true } else f))) }
  let s := waits.foldl (fun s r => ((s.refuse k Fld.notActive).egNdr k (errNdr r.q)).dropReq r) s
  let s := gated.foldl (fun s r => (s.refuse k Fld.notActive).edgeError r) s
  let s := fen.foldl (fun s f => s.fenceCmp k f true) s
  wins.foldl (fun s r => (s.refuse k Fld.notActive).complete k (errNdr r.q)) s

/-- A transit entry that names a departing agent loses it in place (R433); one whose write has been issued keeps the old
value, which the scan meets in the cast store. An entry left with no holder is dropped, or becomes a delete (R86). -/
def State.purgeTr (s : State) (i : SliceId) (t : Nat) : State :=
  match (s.sl i).tr t with
  | none => s
  | some v =>
    let (h, psn) := s.purged v.e
    if v.copied ∨ v.phase = 2 ∨ h = v.e.holders then s
    else
      let s := (if psn then (s.poison i v.e.line none).1 else s).heldDiff v.e.holders h
      let e := { v.e with holders := h, own := v.e.own && decide (h ≠ []) }
      match v.kind with
      | .spill => if h = [] then s.dropHand i t v else s.setHand i t v e false
      | .update => if h = [] then s.updGone i t v else s.modSl i (fun x => x.putTr t (some { v with e := e }))
      | _ => s.modSl i (fun x => x.putTr t (some { v with e := e }))

/-- Every transit entry of every slice. -/
def State.purgeAll (s : State) : State :=
  allSlices.foldl (fun s i => (List.range 16).foldl (fun s t => s.purgeTr i t) s) s

/-- The block fences an agent (R61). -/
def State.fenceAgent (s : State) (a : AgentId) : State :=
  let s := s.modAgent a (fun x => { x with st := .fenced, join := none })
  let s := allAtts.foldl (fun s k => s.fenceEdge a k) s
  let s := allSlices.foldl (fun s i => s.fenceSlice a i) s
  let s := allSlices.foldl (fun s i => s.fenceFlows a i) s
  ((s.loseRsvAll (fun r => decide (r.agent = a))).depart a true).purgeAll

end Sys2Proof.Machine
end

