-- ==== Sys2Proof/Machine/Agents.lean ====
section
/-! DEFINITION. The agent table's commands and timers (chapter 2). -/

namespace Sys2Proof.Machine

/-- RESULT of an agent's last command (R52). -/
def State.result (s : State) (a : AgentId) (r : BitVec 4) : State := s.modAgent a (fun x => { x with result := r })

/-- The agent table takes commands: modes in which the block runs; entry 0xFFF ignores writes (R52). Where a start has still to
process its header no command of CALIBRATE has come yet, since the table is restored before (R64): DEDUCED, log 71. -/
def State.takesCmd (s : State) (a : AgentId) : Bool :=
  s.runs && (s.cast.done || decide (s.mode ≠ .calibrate)) && decide (a ≠ 0xFFF)

/-- The 8 join probes leave for the agent's attachment: BISNP_CUR on the first line of the cast-store region (R55), each under
a home tag that the manual does not give (log 22); at a gate that is not OPEN they bounce (R268). -/
def State.sendProbes (s : State) (a : AgentId) (htags : List (BitVec 16)) : State :=
  htags.foldl (fun s h =>
    let k := (s.agent a).la
    let b : Bisnp := { op := .cur, agent := a, htag := h, laddr := BitVec.ofNat 40 s.castLine0 }
    if s.attShut k then s.bounceAt k (.snoop k b) else s.routeBisnp (s.home b.laddr) k b) s

/-- JOIN (R55, R56): SNP_TO reads 0 until it is seeded, and RESULT 0 until the JOIN has an outcome. Through a gate that is not
OPEN its probes bounce, and it fails at its limit (R268). -/
def State.join (s : State) (a : AgentId) : State :=
  match (s.agent a).st with
  | .absent =>
    let htags := (List.range 8).map (fun n => Config.probeHtag a (s.freeCtr + n))
    let j : JoinProbe := { start := s.now, stamps := htags.map (fun h => (h, s.now)), longest := 0 }
    let s := s.modAgent a (fun x => { x with st := .joining, tocnt := 0, held := 0, snpTo := 0, result := 0, join := some j })
    { s with freeCtr := s.freeCtr + 8 }.sendProbes a htags
  | .quarantine => s.result a 2
  | _ => s.result a 3

/-- JOIN. -/
def execJoin (a : AgentId) (s : State) : Host.Outcome State Fault Refusal :=
  if s.takesCmd a then .next (s.join a) else .next s

/-- JOIN_LIMIT_EXPIRY (R55): 100 µs after the JOIN some probe is unanswered. -/
def execJoinLimitExpiry (a : AgentId) (s : State) : Host.Outcome State Fault Refusal :=
  match (s.agent a).st, (s.agent a).join with
  | .joining, some j => if s.runs then .next ((s.reach (j.start + 100000)).joinFail a) else .next s
  | _, _ => .next s

/-- Every ticket of an agent is dropped without counting (R142). -/
def State.dropTickets (s : State) (a : AgentId) : State := allSlices.foldl (fun s i => s.endTicket i a) s

/-- An agent enters QUARANTINE (R57, R58, R142, R433). -/
def State.quarantine (s : State) (a : AgentId) : State := ((s.dropTickets a).depart a false).purgeAll

/-- LEAVE (R57, R209). RESULT becomes 1 when it is accepted, as for FENCE and RELEASE: DESIGN CHOICE, log 59. -/
def State.leave (s : State) (a : AgentId) : State :=
  match (s.agent a).st with
  | .joining => (s.result a 1).quarantine a
  | .active => ((s.modAgent a (fun x => { x with st := .leaving })).loseRsvAll (fun r => decide (r.agent = a))).result a 1
  | _ => s.result a 3

/-- LEAVE. -/
def execLeave (a : AgentId) (s : State) : Host.Outcome State Fault Refusal :=
  if s.takesCmd a then .next (s.leave a) else .next s

/-- A request of an agent is outstanding at an attachment (R57). -/
def Att.owes (x : Att) (a : AgentId) : Bool :=
  x.order.any (fun e => decide (e.req.q.agent = a)) || x.waitIn.any (fun r => decide (r.q.agent = a))
    || x.winRd.any (fun r => decide (r.q.agent = a)) || x.fences.any (fun f => (f.2.map (fun f => decide (f.agent = a))).getD false)

/-- A write of an agent that a slot serves as a flow of its own, which may have no entry at the edge (R106, R147), is not
performed yet. -/
def Slot.owesWrite (x : Slot) (a : AgentId) : Bool :=
  x.req.any (fun r => decide (r.q.agent = a) && r.op.rwd) && !x.ndrSent && !x.dead

/-- A request of an agent, a write it sent in answer to a snoop, or a snoop to it is outstanding in a slice, wherever it stands
there (R57, R150). -/
def Slice.owes (x : Slice) (a : AgentId) : Bool :=
  (x.new ++ x.wb ++ x.moveHold ++ x.escSlots ++ x.escPark.map (·.2) ++ x.int.filterMap IntMsg.waits).any
      (fun r => decide (r.q.agent = a))
    || x.chainList.any (fun c => (c.2.esc.toList ++ c.2.waiters).any (fun r => decide (r.q.agent = a)))
    || x.slotList.any (fun p => p.2.owesWrite a || p.2.srws.any (fun w => decide (w.agent = a))
      || p.2.snoops.any (fun v => decide (v.agent = a) && decide (v.st ≠ .answered)))

/-- A request of an agent is on its way back to its edge, which sends it on to the new home (R297). -/
def Bounced.owes (a : AgentId) : Bounced → Bool
  | .rehome r => decide (r.q.agent = a)
  | _ => false

/-- Something of an agent is outstanding anywhere in the block (R57). -/
def State.owes (s : State) (a : AgentId) : Bool :=
  allAtts.any (fun k => (s.att k).owes a) || allSlices.any (fun i => (s.sl i).owes a) || s.mesh.bounced.any (Bounced.owes a)

/-- AGENT_LEAVING_DONE (R57): nothing of a LEAVING agent is outstanding any more. -/
def execAgentLeavingDone (a : AgentId) (s : State) : Host.Outcome State Fault Refusal :=
  if s.runs ∧ (s.agent a).st = .leaving ∧ !s.owes a then
    .next (s.quarantine a)
  else .next s

/-- FENCE written by firmware (R61); RESULT: DESIGN CHOICE, log 59. -/
def State.fenceCmd (s : State) (a : AgentId) : State :=
  match (s.agent a).st with
  | .joining | .active | .leaving => (s.result a 1).fenceAgent a
  | _ => s.result a 3

/-- FENCE of the agent table. -/
def execAgentFence (a : AgentId) (s : State) : Host.Outcome State Fault Refusal :=
  if s.takesCmd a then .next (s.fenceCmd a) else .next s

/-- The slots that still wait for an EGRESS_ACK of an agent are freed (R62). -/
def State.freeOwed (s : State) (a : AgentId) : State :=
  allSlices.foldl (fun s i =>
    ((s.sl i).slotList.filter (fun p => p.2.awaitsAck a)).foldl (fun s p =>
      (s.modSlot i p.1 (fun y => { y with eack := false })).freeSlot i p.1) s) s

/-- RELEASE (R62); RESULT: DESIGN CHOICE, log 59. -/
def State.releaseAgent (s : State) (a : AgentId) : State :=
  let x := s.agent a
  if x.st = .fenced ∧ x.sweep = false then ((s.modAgent a (fun x => { x with st := .absent })).result a 1).freeOwed a
  else s.result a 3

/-- RELEASE. -/
def execRelease (a : AgentId) (s : State) : Host.Outcome State Fault Refusal :=
  if s.takesCmd a then .next (s.releaseAgent a) else .next s

/-- A command word of an agent-table entry (R52): 0 has no effect. -/
def State.agentCmd (s : State) (a : AgentId) (c : Nat) : State :=
  if !s.takesCmd a then s
  else
    match c with
    | 0 => s
    | 1 => s.join a
    | 2 => s.leave a
    | 3 => s.fenceCmd a
    | 4 => s.releaseAgent a
    | _ => s.result a 5

/-- UNKNOWN_AGENT_COMMAND (R52): a CMD that is none of the listed values. -/
def execUnknownAgentCommand (a : AgentId) (cmd : BitVec 4) (s : State) : Host.Outcome State Fault Refusal :=
  if s.takesCmd a ∧ 5 ≤ cmd.toNat then .next (s.result a 5) else .next s

/-- The permission bits of an entry are written (R53, R209). -/
def State.permit (s : State) (a : AgentId) (p h r : Bool) : State :=
  if a = 0xFFF then s
  else
    let s := s.modAgent a (fun x => { x with perfRead := p, hatom := h, rsv := r })
    if r then s else s.loseRsvAll (fun v => decide (v.agent = a))

/-- AGENT_PERMISSION_WRITE (R53). -/
def execAgentPermissionWrite (a : AgentId) (p h r : Bool) (s : State) : Host.Outcome State Fault Refusal :=
  .next (s.regG (fun s => s.permit a p h r))

/-! ## Clear commands -/

/-- Fields set to 0. -/
def State.zero (s : State) (fs : List Fld) : State := fs.foldl (fun s f => s.putF f 0) s

/-- LA_REFUSE_CLR (R65). -/
def State.clearRefuse (s : State) (k : AttId) : State := s.zero [Fld.la k 0x100 0 32]
/-- FLOW_ERR_CLR (R127). -/
def State.clearFlowErr (s : State) (i : SliceId) : State := s.zero [Fld.sl i 0x220 0 32]
/-- SER_CLR (R158). -/
def State.clearSer (s : State) (i : SliceId) : State :=
  s.zero [Fld.sl i 0x244 16 16, Fld.sl i 0x248 0 32, Fld.sl i 0x24C 0 32, Fld.sl i 0x250 0 32]
/-- HLB_CLR (R185). -/
def State.clearHlb (s : State) (m : PortId) : State :=
  s.zero [Fld.mp m 0x430 0 32, Fld.mp m 0x434 0 32, Fld.mp m 0x438 0 32, Fld.mp m 0x43C 0 32]
/-- ATM_CLR (R216). -/
def State.clearAtm (s : State) (i : SliceId) : State :=
  s.zero [Fld.sl i 0x280 16 16, Fld.sl i 0x284 0 32, Fld.sl i 0x28C 0 32]
/-- MP_CLR (R242). -/
def State.clearMp (s : State) (m : PortId) : State := s.zero [Fld.mp m 0x108 0 32, Fld.mp m 0x10C 0 32, Fld.mp m 0x110 0 32]
/-- RTR_CLR.LINK (R272). -/
def State.clearRtrLink (s : State) (i : Nat) : State := s.zero [Fld.rt i 4 0 32]
/-- RTR_CLR.PROBE (R272). -/
def State.clearRtrProbe (s : State) (i : Nat) : State := s.setRouter i { s.router i with prb0 := 0, prb1 := 0 }

/-- Q_CLR (R274): GAPS, PTR_RESETS and LASTKIND. -/
def State.clearQueue (s : State) (u : QUnit) : State :=
  s.zero [⟨queueBase u + 8, 0, 8⟩, ⟨queueBase u + 8, 8, 8⟩, ⟨queueBase u + 8, 22, 2⟩]
/-- MODE_CLR (R299). -/
def State.clearMode (s : State) : State :=
  s.zero [⟨0x70010, 0, 16⟩, ⟨0x70010, 19, 8⟩, ⟨0x70038, 0, 32⟩, ⟨0x7003C, 0, 32⟩]
/-- REG_CLR (R322). -/
def State.clearReg (s : State) : State := s.zero [⟨0x1020, 0, 32⟩]
/-- EV_CLR (R334). -/
def State.clearEv (s : State) : State := s.zero [⟨0x12300, 0, 32⟩, ⟨0x12304, 0, 32⟩, ⟨0x12308, 0, 32⟩]
/-- SAMP_CLR (R349). -/
def State.clearSamp (s : State) : State := s.zero [⟨0x20064, 0, 32⟩, ⟨0x20010, 16, 16⟩]
/-- LA_ORD_CLR (R205). -/
def State.clearLaOrd (s : State) (k : AttId) : State :=
  s.zero [Fld.la k 0x124 0 32, Fld.la k 0x128 16 16, Fld.la k 0x12C 0 32]
/-- RAS_CLR (R396). -/
def State.clearRas (s : State) (i : SliceId) : State :=
  s.zero [Fld.sl i 0x304 0 32, Fld.sl i 0x308 0 32, Fld.sl i 0x30C 0 32, Fld.sl i 0x310 0 16]
/-- RAS_GCLR (R397). -/
def State.clearRasGlobal (s : State) : State := s.zero [⟨0x70120, 0, 32⟩, ⟨0x70124, 0, 32⟩]

/-- LA_REFUSE_CLEAR. -/
def execLaRefuseClear (k : AttId) (s : State) : Host.Outcome State Fault Refusal := .next (s.regLa k (fun s => s.clearRefuse k))
/-- FLOW_ERR_CLEAR. -/
def execFlowErrClear (i : SliceId) (s : State) : Host.Outcome State Fault Refusal := .next (s.regSl i (fun s => s.clearFlowErr i))
/-- SER_CLEAR. -/
def execSerClear (i : SliceId) (s : State) : Host.Outcome State Fault Refusal := .next (s.regSl i (fun s => s.clearSer i))
/-- HLB_CLEAR. -/
def execHlbClear (m : PortId) (s : State) : Host.Outcome State Fault Refusal := .next (s.regMp m (fun s => s.clearHlb m))
/-- ATM_CLEAR. -/
def execAtmClear (i : SliceId) (s : State) : Host.Outcome State Fault Refusal := .next (s.regSl i (fun s => s.clearAtm i))
/-- MP_CLEAR. -/
def execMpClear (m : PortId) (s : State) : Host.Outcome State Fault Refusal := .next (s.regMp m (fun s => s.clearMp m))
/-- RTR_LINK_CLEAR. -/
def execRtrLinkClear (i : Fin 80) (s : State) : Host.Outcome State Fault Refusal := .next (s.regG (fun s => s.clearRtrLink i.val))
/-- RTR_PROBE_CLEAR. -/
def execRtrProbeClear (i : Fin 80) (s : State) : Host.Outcome State Fault Refusal := .next (s.regG (fun s => s.clearRtrProbe i.val))
/-- Q_CLEAR. -/
def execQClear (u : QUnit) (s : State) : Host.Outcome State Fault Refusal := .next (match u with
  | .slice i => s.regSl i (fun s => s.clearQueue u)
  | .att k => s.regLa k (fun s => s.clearQueue u)
  | .port m => s.regMp m (fun s => s.clearQueue u)
  | _ => s.regG (fun s => s.clearQueue u))
/-- MODE_CLEAR. -/
def execModeClear (s : State) : Host.Outcome State Fault Refusal := .next (s.regG State.clearMode)
/-- REG_CLEAR. -/
def execRegClear (s : State) : Host.Outcome State Fault Refusal := .next (s.regG State.clearReg)
/-- EV_CLEAR. -/
def execEvClear (s : State) : Host.Outcome State Fault Refusal := .next (s.regG State.clearEv)
/-- SAMP_CLEAR. -/
def execSampClear (s : State) : Host.Outcome State Fault Refusal := .next (s.regG State.clearSamp)
/-- LA_ORD_CLEAR. -/
def execLaOrdClear (k : AttId) (s : State) : Host.Outcome State Fault Refusal := .next (s.regLa k (fun s => s.clearLaOrd k))
/-- RAS_CLEAR. -/
def execRasClear (i : SliceId) (s : State) : Host.Outcome State Fault Refusal := .next (s.regSl i (fun s => s.clearRas i))
/-- RAS_GLOBAL_CLEAR. -/
def execRasGlobalClear (s : State) : Host.Outcome State Fault Refusal := .next (s.regG State.clearRasGlobal)

end Sys2Proof.Machine
end

