-- ==== Sys2Proof/Machine/Link.lean ====
section
/-! DEFINITION. The commands of a link attachment's edge (chapters 1, 2, 7): requests, responses, credits, egress, the gate
and its barriers, DATA_PULL, and the beats of the DXB. -/

namespace Sys2Proof.Machine

/-! ## Requests on REQ (R38, R98) -/

/-- RD_SHARED arrives (R38). -/
def execRdShared (la : AttId) (q : ReqHdr) (s : State) : Host.Outcome State Fault Refusal := request .rdShared la q noData s
/-- RD_OWN arrives. -/
def execRdOwn (la : AttId) (q : ReqHdr) (s : State) : Host.Outcome State Fault Refusal := request .rdOwn la q noData s
/-- RD_CUR arrives. -/
def execRdCur (la : AttId) (q : ReqHdr) (s : State) : Host.Outcome State Fault Refusal := request .rdCur la q noData s
/-- RD_ATOMIC arrives. -/
def execRdAtomic (la : AttId) (q : ReqHdr) (s : State) : Host.Outcome State Fault Refusal := request .rdAtomic la q noData s
/-- INV arrives. -/
def execInv (la : AttId) (q : ReqHdr) (s : State) : Host.Outcome State Fault Refusal := request .inv la q noData s
/-- EVICT_CLEAN arrives. -/
def execEvictClean (la : AttId) (q : ReqHdr) (s : State) : Host.Outcome State Fault Refusal := request .evictClean la q noData s
/-- CONFLICT arrives (R148). -/
def execConflict (la : AttId) (q : ReqHdr) (s : State) : Host.Outcome State Fault Refusal := request .conflict la q noData s
/-- FENCE arrives (R201). -/
def execFence (la : AttId) (q : ReqHdr) (s : State) : Host.Outcome State Fault Refusal := request .fence la q noData s
/-- RSV_RD arrives. -/
def execRsvRd (la : AttId) (q : ReqHdr) (s : State) : Host.Outcome State Fault Refusal := request .rsvRd la q noData s

/-! ## Requests on RWD -/

/-- WR_FULL arrives. -/
def execWrFull (la : AttId) (q : ReqHdr) (w : WrData) (s : State) : Host.Outcome State Fault Refusal := request .wrFull la q w s
/-- WR_KEEP arrives. -/
def execWrKeep (la : AttId) (q : ReqHdr) (w : WrData) (s : State) : Host.Outcome State Fault Refusal := request .wrKeep la q w s
/-- WR_PARTIAL arrives. -/
def execWrPartial (la : AttId) (q : ReqHdr) (w : WrData) (s : State) : Host.Outcome State Fault Refusal := request .wrPartial la q w s
/-- HATOM arrives. -/
def execHatom (la : AttId) (q : ReqHdr) (w : WrData) (s : State) : Host.Outcome State Fault Refusal := request .hatom la q w s
/-- COND_WR arrives. -/
def execCondWr (la : AttId) (q : ReqHdr) (w : WrData) (s : State) : Host.Outcome State Fault Refusal := request .condWr la q w s

/-! ## BIRSP (R40, R103) -/

/-- A BIRSP message of an attachment. -/
def onBirsp (la : AttId) (f : State → State) (s : State) : Host.Outcome State Fault Refusal :=
  if s.silent la then .fault .noPromise else .next (f s)

/-- BIRSP_I arrives. -/
def execBirspI (la : AttId) (a : AgentId) (h : BitVec 16) (l : Line) (s : State) : Host.Outcome State Fault Refusal :=
  onBirsp la (fun s => s.birsp la .i a h l) s
/-- BIRSP_S arrives. -/
def execBirspS (la : AttId) (a : AgentId) (h : BitVec 16) (l : Line) (s : State) : Host.Outcome State Fault Refusal :=
  onBirsp la (fun s => s.birsp la .s a h l) s
/-- BIRSP_E arrives. -/
def execBirspE (la : AttId) (a : AgentId) (h : BitVec 16) (l : Line) (s : State) : Host.Outcome State Fault Refusal :=
  onBirsp la (fun s => s.birsp la .e a h l) s
/-- EGRESS_ACK arrives (R48). -/
def execEgressAck (la : AttId) (a : AgentId) (h : BitVec 16) (s : State) : Host.Outcome State Fault Refusal :=
  onBirsp la (fun s => s.eack la a h) s

/-! ## Unlisted messages (R38, R40, R51) -/

/-- A request opcode listed for its channel (R38). -/
def listedReq (ch : InCh) (opc : BitVec 5) : Bool :=
  match ch with
  | .req => decide (1 ≤ opc.toNat) && decide (opc.toNat ≤ 9)
  | .rwd => decide (16 ≤ opc.toNat) && decide (opc.toNat ≤ 20)
  | .birsp => true

/-- UNLISTED_REQUEST (R38): ERROR on the attachment where it arrived, counted in FORMAT. -/
def execUnlistedRequest (la : AttId) (ch : InCh) (opc : BitVec 5) (q : ReqHdr) (s : State) : Host.Outcome State Fault Refusal :=
  if listedReq ch opc then .next s
  else if s.silent la then .fault .noPromise
  else
    let rwd := decide (ch = .rwd)
    let op : Op := if rwd then .wrFull else .rdCur
    match s.takeCredit rwd la with
    | none => .next (s.fatal 3 1 la.toNat (if rwd then 1 else 0))
    | some s =>
      let s := s.count (cLa la (if rwd then 1 else 0)) 1
      if q.agent = 0xFFF then
        .next ((if rwd then s.retRwd la else s.retReq la).refuse la Fld.spoof)
      else .next (s.arrivalError op la q Fld.format)

/-- UNLISTED_BIRSP (R40): discarded, its credit returned. -/
def execUnlistedBirsp (la : AttId) (opc : BitVec 4) (a : AgentId) (s : State) : Host.Outcome State Fault Refusal :=
  if opc = 1 ∨ opc = 2 ∨ opc = 3 ∨ opc = 8 then .next s
  else if s.silent la then .fault .noPromise
  else if (s.att la).birspCr = 0 then .next (s.fatal 3 1 la.toNat 2)
  else .next (((s.crossing (.att la) 2).count (cLa la 2) 1).refuse la (if a = 0xFFF then Fld.spoof else Fld.format))

/-! ## Credits (R34, R35, R430) -/

/-- A credit-return cycle: it lengthens the advertisement, or adds a credit. -/
def Credits.ret (c : Credits) : Credits :=
  if c.advOpen then { c with run := c.run + 1 } else { c with n := if 255 ≤ c.n then 255 else c.n + 1 }

/-- The run of an advertisement ends: its length, brought into 8 to 255; whether that clamped it. -/
def Credits.adv (c : Credits) : Credits × Bool :=
  if c.advOpen ∧ c.run ≠ 0 then
    ({ n := if c.run < 8 then 8 else if 255 < c.run then 255 else c.run, advOpen := false, run := 0 },
     decide (c.run < 8) || decide (255 < c.run))
  else (c, false)

/-- CREDIT_RETURN (R430). -/
def execCreditReturn (ch : CreditCh) (s : State) : Host.Outcome State Fault Refusal :=
  match ch with
  | .link k .ndr => .next (s.modAtt k (fun a => { a with ndrC := a.ndrC.ret }))
  | .link k .drs => .next (s.modAtt k (fun a => { a with drsC := a.drsC.ret }))
  | .link k .bisnp => .next (s.modAtt k (fun a => { a with bisnpC := a.bisnpC.ret }))
  | .mcmd m => .next (s.modMp m (fun p => { p with mcmdC := p.mcmdC.ret }))
  | .mwdata m => .next (s.modMp m (fun p => { p with mwdataC := p.mwdataC.ret }))

/-- A clamped advertisement of an attachment is reported (source list). -/
def State.advEvent (s : State) (k : AttId) (clamped : Bool) : State := if clamped then s.fire (evLa k 7) else s

/-- CREDIT_ADVERTISEMENT (R430). -/
def execCreditAdvertisement (ch : CreditCh) (s : State) : Host.Outcome State Fault Refusal :=
  match ch with
  | .link k .ndr =>
    let c := (s.att k).ndrC.adv
    .next ((s.modAtt k (fun a => { a with ndrC := c.1 })).advEvent k c.2)
  | .link k .drs =>
    let c := (s.att k).drsC.adv
    .next ((s.modAtt k (fun a => { a with drsC := c.1 })).advEvent k c.2)
  | .link k .bisnp =>
    let c := (s.att k).bisnpC.adv
    .next ((s.modAtt k (fun a => { a with bisnpC := c.1 })).advEvent k c.2)
  | .mcmd m => .next (s.modMp m (fun p => { p with mcmdC := p.mcmdC.adv.1 }))
  | .mwdata m => .next (s.modMp m (fun p => { p with mwdataC := p.mwdataC.adv.1 }))

/-! ## Egress and the gate (R136, R191 to R194) -/

/-- LINK_EGRESS_SEND (R34): the head of an egress queue leaves. -/
def execLinkEgressSend (la : AttId) (ch : OutCh) (s : State) : Host.Outcome State Fault Refusal :=
  match ch with
  | .ndr => .next (s.sendNdr la)
  | .drs => .next (s.sendDrs la)
  | .bisnp => .next (s.sendBisnp la)

/-- GATE_RELEASE (R191): a held request passes once its turn has come. -/
def execGateRelease (la : AttId) (a : AgentId) (t : BitVec 16) (s : State) : Host.Outcome State Fault Refusal :=
  match findEntry (s.att la).order a t with
  | none => .next s
  | some e =>
    if e.gated ∧ s.canPass (beforeEntry (s.att la).order a t) e.req then
      .next ((s.modAtt la (fun x => { x with order := modEntry (fun e => { e with gated := false }) x.order a t })).passIn e.req |>.pullWait la)
    else .next s

/-- BARRIER_EXPIRY (R193): 100 µs after it was set. -/
def execBarrierExpiry (la : AttId) (a : AgentId) (o : BitVec 4) (s : State) : Host.Outcome State Fault Refusal :=
  match (s.att la).barriers.find? (fun b => decide (b.agent = a) && decide (b.otag = o)) with
  | none => .next s
  | some b =>
    let s := (s.reach (b.setAt + 100000)).modAtt la (fun x => { x with
      barriers := x.barriers.filter (fun b => !(decide (b.agent = a) && decide (b.otag = o))) })
    .next ((s.incF (Fld.la la 0x124 16 16)).fire (evLa la 2))

/-! ## Data (R21 to R23, R108, R389) -/

/-- DATA_PULL (R108): the buffered data goes to the write switch, or the buffer is freed. -/
def execDataPull (la : AttId) (s : State) : Host.Outcome State Fault Refusal :=
  match (s.att la).pulls with
  | [] => .next s
  | p :: rest =>
    let s := s.modAtt la (fun a => { a with pulls := rest })
    match p.port, Store.get none (s.att la).bufs p.buf.toNat with
    | some m, some b =>
      .next ((s.modAtt la (fun a => { a with wsIn := a.wsIn ++ [{ port := m, slice := p.slice, tag := p.tag, w := b.w, psn := b.psn }] })).freeBuf
        la (some p.buf))
    | _, _ => .next (s.freeBuf la (some p.buf))

/-- A beat of the read switch reaches attachment la (R136, R151, R389). One for a fenced agent is discarded; where its flow has
sent an NDR completion it counts as having entered the egress queue, and else the flow owes the ERROR. -/
def State.readBeat (s : State) (la : AttId) (b : RBeat) (bad : Bool) : State :=
  let s := s.count (cLa la 21) 1
  let s := if bad then s.classPsn else s
  let s :=
    if (s.agent b.drs.agent).st = .fenced then
      (if b.drs.parts = 2 then s.performPart la b.drs.agent b.drs.tag 2 else s)
    else (s.egDrs la { b.drs with psn := b.drs.psn || bad }).performPart la b.drs.agent b.drs.tag b.drs.parts
  match b.rpt with
  | some (i, r) => s.rptTo i r
  | none => s

/-- DXB_BEAT (R22): an output's arbiter grants one of the beats presented to it. -/
def execDxbBeat (out : DxbOut) (par : BeatParity) (s : State) : Host.Outcome State Fault Refusal :=
  match out with
  | .read la =>
    let head (m : Nat) : Option RBeat := (s.mp (BitVec.ofNat 5 m)).rsIn.head?
    match grantOf 32 (Store.get 0 s.mesh.rdPtr la.toNat) (fun m => ((head m).map (fun b => decide (b.la = la))).getD false) with
    | none => .next s
    | some m =>
      match head m with
      | none => .next s
      | some b =>
        let s := { s with mesh := { s.mesh with rdPtr := Store.set 0 s.mesh.rdPtr la.toNat ((m + 1) % 32) } }
        let s := s.modMp (BitVec.ofNat 5 m) (fun p => { p with rsIn := p.rsIn.drop 1 })
        if par = .headerBad then .next (s.fatal 8 1 la.toNat 0) else .next (s.readBeat la b (decide (par = .dataBad)))
  | .write m =>
    let head (k : Nat) : Option WBeat := (s.att (BitVec.ofNat 4 k)).wsIn.head?
    match grantOf 16 (Store.get 0 s.mesh.wrPtr m.toNat) (fun k => ((head k).map (fun b => decide (b.port = m))).getD false) with
    | none => .next s
    | some k =>
      match head k with
      | none => .next s
      | some b =>
        let la : AttId := BitVec.ofNat 4 k
        let s := { s with mesh := { s.mesh with wrPtr := Store.set 0 s.mesh.wrPtr m.toNat ((k + 1) % 16) } }
        let s := (s.modAtt la (fun a => { a with wsIn := a.wsIn.drop 1 })).count (cLa la 22) 1
        if par = .headerBad then .next (s.fatal 8 2 m.toNat 0)
        else
          let bad := decide (par = .dataBad)
          let s := if bad then s.classPsn else s
          .next (s.modMp m (fun p => { p with beats := p.beats ++ [{ b with psn := b.psn || bad }] }))

end Sys2Proof.Machine
end

