-- ==== Sys2Proof/Machine/Armature.lean ====
section
/-! DEFINITION. The Armature (chapter 9): flits and their CRC, replay, routers and their reconfiguration, probes and trace
rings, queue errors, gating of attachments, and bounced messages. -/

namespace Sys2Proof.Machine

/-! ## Replay (R253, R254) -/

/-- The flits of a replay buffer from a sequence number on. -/
def fromSeq (seq : BitVec 6) : List Flit → List Flit
  | [] => []
  | f :: fs => if f.seq = seq then f :: fs else fromSeq seq fs

/-- An ACKSEQ beyond the flits of a replay buffer frees them; once the flit that a NAK named is free its failures are no longer
consecutive (R254). -/
def LinkTx.acked (t : LinkTx) (seq : BitVec 6) : LinkTx :=
  let left :=
    if t.next = seq then [] else if t.replay.any (fun f => decide (f.seq = seq)) then fromSeq seq t.replay else t.replay
  { t with replay := left, naks := if left.any (fun f => decide (f.seq = t.nakSeq)) then t.naks else 0 }

/-- CRC_LIM of a router. -/
def State.crcLim (s : State) (i : Nat) : Nat := s.fld (Fld.rt i 0 4 4)

/-- A NAK names a flit (R254): the flits before it are acknowledged; it and every later one are sent again, before any new
flit; when it has failed CRC_LIM times in a row the link has failed. -/
def State.linkNak (s : State) (i : Nat) (l : LinkPort) (plane : Bool) (seq : BitVec 6) : State :=
  let k := linkKey l plane
  let r := s.router i
  let t := (r.txAt k).acked seq
  if t.replay.any (fun f => decide (f.seq = seq)) then
    let n := if t.nakSeq = seq then t.naks + 1 else 1
    let x := r.rxAt k
    let again := t.replay.map (fun f => f.stamp f.seq x)
    let s := s.setRouter i ((r.putTx k { t with replay := again, wire := t.wire ++ again, nakSeq := seq, naks := n }).putRx k { x with nakDue := false })
    if s.crcLim i ≤ n then (s.fire (evRt i 0)).fatal 5 3 i l.num else s
  else s.setRouter i (r.putTx k t)

/-- The acknowledgement or NAK that a link's receiving side owes leaves in an idle flit where no other flit has carried it
(R248, R253). -/
def State.idleFlit (s : State) (i : Nat) (l : LinkPort) (plane : Bool) : State :=
  let k := linkKey l plane
  let r := s.router i
  let t := r.txAt k
  let x := r.rxAt k
  if x.nakDue ∨ t.wire.getLast?.map Flit.ackSeq ≠ some x.expect then
    s.setRouter i ((r.putTx k { t with wire := t.wire ++ [Flit.zero.stamp 0 x] }).putRx k { x with nakDue := false })
  else s

/-! ## Probes and trace rings (R270, R271) -/

/-- A router's window field. -/
def State.rfld (s : State) (i o lo len : Nat) : Nat := s.fld (Fld.rt i o lo len)

/-- The line address in a pair of words of a router's window. -/
def State.rline (s : State) (i o : Nat) : Nat := s.rfld i o 0 32 + s.rfld i (o + 4) 0 8 * 2 ^ 32

/-- Filter n of a router matches a header message (R270). -/
def State.prbMatch (s : State) (i n : Nat) (l : LinkPort) (lane : Nat) (dest : Nat) (h : BitVec 128) : Bool :=
  let o := 0x100 + 0x20 * n
  let f (lo len : Nat) := s.rfld i (o + 4) lo len
  decide (s.rfld i o 0 1 = 1) && decide (s.rfld i o (3 + lane) 1 = 1) && decide (s.rfld i o (11 + l.num) 1 = 1)
    && (decide (f 7 1 = 1) || decide (f 0 7 = (h.extractLsb' 112 7).toNat))
    && (decide (f 11 1 = 1) || decide (f 8 3 = (h.extractLsb' 109 3).toNat))
    && (decide (f 19 1 = 1) || decide (f 12 7 = dest))
    && (decide (f 23 1 = 1) || decide (f 20 3 = (h.extractLsb' 119 3).toNat))
    && (decide (s.rfld i o 2 1 = 0) || (match lineIn h with
        | some x => decide (s.rline i (o + 8) ≤ x.toNat) && decide (x.toNat < s.rline i (o + 0x10))
        | none => false))

/-- A trace-ring entry (R271). -/
def traceEntry (now i lane l n : Nat) (h : BitVec 128) : BitVec 256 :=
  BitVec.ofNat 256 (now * 2 ^ 192 + i * 2 ^ 185 + lane * 2 ^ 182 + l * 2 ^ 179 + n * 2 ^ 178 + h.toNat)

/-- A gap marker in a trace ring (R262, R271). -/
def gapEntry (now i : Nat) : BitVec 256 := BitVec.ofNat 256 (now * 2 ^ 192 + i * 2 ^ 185 + 2 ^ 177 + 1)

/-- An entry is a gap marker. -/
def isGap (e : BitVec 256) : Bool := e.getLsbD 177

/-- The ring of a router. -/
def State.ring (s : State) (g : Nat) : List (BitVec 256) := Store.get [] s.mesh.rings g
/-- A ring replaced. -/
def State.setRing (s : State) (g : Nat) (x : List (BitVec 256)) : State :=
  { s with mesh := { s.mesh with rings := Store.set [] s.mesh.rings g x } }

/-- A match that finds no room or no intake is discarded into a gap marker (R262, R271). -/
def State.ringGap (s : State) (i : Nat) : State :=
  let g := i / 5
  match (s.ring g).getLast? with
  | some e =>
    if isGap e then s.setRing g ((s.ring g).dropLast ++ [e + 1])
    else (((s.setRing g (s.ring g ++ [gapEntry s.now i])).queueNote .service (12 + g) 1).fire (evRt i 1)).classRec
  | none => (((s.setRing g [gapEntry s.now i]).queueNote .service (12 + g) 1).fire (evRt i 1)).classRec

/-- Matches of one cycle go to the router's ring: two at most, and while the ring keeps its last place (R262, R271). -/
def State.ringAdd (i : Nat) : Nat → List (BitVec 256) → State → State
  | _, [], s => s
  | 0, _ :: es, s => State.ringAdd i 0 es (s.ringGap i)
  | n + 1, e :: es, s =>
    State.ringAdd i n es (if (s.ring (i / 5)).length < 1023 then s.setRing (i / 5) (s.ring (i / 5) ++ [e]) else s.ringGap i)

/-- A 48-bit count raised, saturating (R272). -/
def satAdd (x : BitVec 48) (m : Nat) : BitVec 48 :=
  if 2 ^ 48 - 1 < x.toNat + m then BitVec.ofNat 48 (2 ^ 48 - 1) else BitVec.ofNat 48 (x.toNat + m)

/-- A filter counts its matches, unless frozen (R270, R340). -/
def State.prbAdd (s : State) (i n m : Nat) : State :=
  if s.counts.frozen then s
  else
    let r := s.router i
    s.setRouter i (if n = 0 then { r with prb0 := satAdd r.prb0 m } else { r with prb1 := satAdd r.prb1 m })

/-- The header messages of a flit enter a router's switch (R270, R271). -/
def State.probe (s : State) (i : Nat) (l : LinkPort) (plane : Bool) (f : Flit) : State :=
  let lane := (if plane then 4 else 0) + f.lane
  let hits (n : Nat) : List (BitVec 128) := f.headers.filter (fun h => s.prbMatch i n l lane f.dest h)
  let es := (List.range 2).flatMap (fun n =>
    if s.rfld i (0x100 + 0x20 * n) 1 1 = 1 ∧ s.level < 2 then (hits n).map (traceEntry s.now i lane l.num n) else [])
  ((s.prbAdd i 0 (hits 0).length).prbAdd i 1 (hits 1).length) |> State.ringAdd i 2 es

/-! ## FLIT_RECEIVE and NAK -/

/-- A packet at a router's local port can enter: its lane's local input has an entry with a credit for each flit (R252). -/
def Router.admits (r : Router) (plane : Bool) (p : Pkt) : Bool :=
  decide (p.plane = plane) && decide (p.flits.length ≤ r.localRoom (lane8 p.plane p.lane))

/-- The first packet of a router's units that can enter on a plane enters the local input, and the switch runs (R247, R252). -/
def State.injectNext (s : State) (i : Nat) (plane : Bool) : State :=
  let r := s.router i
  let q := Store.get [] s.mesh.inj i
  match q.find? (r.admits plane) with
  | none => s
  | some p =>
    let l := lane8 p.plane p.lane
    let s := { s with mesh := { s.mesh with inj := Store.set [] s.mesh.inj i (q.erase p) } }
    let s := p.flits.foldl (fun s f => s.probe i .loc plane f) s
    let r := s.router i
    (s.setRouter i (r.putBuf 0 l (r.buf 0 l ++ p.flits))).runSwitch i

/-- A flit with a good CRC brings the acknowledgement of the reverse link (R248, R254). -/
def State.linkAck (s : State) (i : Nat) (l : LinkPort) (plane : Bool) (f : Flit) : State :=
  if f.nak then s.linkNak i l plane f.ackSeq
  else
    let k := linkKey l plane
    let r := s.router i
    s.setRouter i (r.putTx k ((r.txAt k).acked f.ackSeq))

/-- A flit arrives at a router over a link (R253, R254): with a bad CRC it is discarded and named by a NAK, and so is every flit
that follows until the one that is expected; an accepted one enters its input's lane buffer and the switch runs. -/
def State.linkFlit (s : State) (i : Nat) (l : LinkPort) (plane : Bool) (f : Flit) : State :=
  let k := linkKey l plane
  let r := s.router i
  let rx := r.rxAt k
  if f.crc ≠ f.crcField then
    (if rx.skip ∧ f.seq ≠ rx.expect then s
     else (((s.setRouter i (r.putRx k { rx with skip := true, nakDue := true })).incF (Fld.rt i 4 (8 * (l.num - 1)) 8)).fire
       (evRt i 0)).idleFlit i l plane)
  else if rx.skip ∧ (f.idle ∨ f.seq ≠ rx.expect) then s
  else
    let s := s.linkAck i l plane f
    if f.idle ∨ f.seq ≠ rx.expect then s.runSwitch i
    else
      let r := s.router i
      let s := s.setRouter i (r.putRx k { r.rxAt k with expect := rx.expect + 1, skip := false })
      let s := s.probe i l plane f
      let r := s.router i
      let b := lane8 plane f.lane
      ((s.setRouter i (r.putBuf l.num b (r.buf l.num b ++ [f]))).runSwitch i).idleFlit i l plane

/-- FLIT_RECEIVE (R252 to R254, R261, R263): at a link, the next flit that the neighbour has put on the wire arrives, changed by
`err`; at the local port, the next packet of the router's units. `under` names a lane that the router reads though none of its
inputs holds a flit. -/
def execFlitReceive (i : Fin 80) (l : LinkPort) (plane : Bool) (err : Flit) (s : State) (under : Option (BitVec 2) := none) :
    Host.Outcome State Fault Refusal :=
  if !linkPresent i.val l then .next s
  else
    match under.filter (fun n => decide ((s.router i.val).laneFlits (lane8 plane n.toNat) = [])) with
    | some n => .next (s.underrun (.router i) (lane8 plane n.toNat))
    | none =>
      if l = .loc then .next (s.injectNext i.val plane)
      else
        let j := l.neighbour i.val
        let k := linkKey l.opposite plane
        let o := s.router j
        match (o.txAt k).wire with
        | [] => .next s
        | f :: rest => .next ((s.setRouter j (o.putTx k { o.txAt k with wire := rest })).linkFlit i.val l plane (f.flip err))

/-- NAK (R254). -/
def execNak (i : Fin 80) (l : LinkPort) (plane : Bool) (seq : BitVec 6) (s : State) : Host.Outcome State Fault Refusal :=
  if linkPresent i.val l ∧ l ≠ .loc then .next (s.linkNak i.val l plane seq) else .next s

/-! ## Reconfiguration (R255) -/

/-- A change to RTR_CFG starts a reconfiguration, or waits for the one that runs. -/
def State.reconf (s : State) (i : Nat) (bounce crcLim : BitVec 4) : State :=
  let r := s.router i
  let c : BitVec 4 := if crcLim.toNat < 2 then 2 else crcLim
  s.setRouter i (if r.reconf.isSome then { r with reconf2 := some (bounce, c) } else { r with reconf := some (bounce, c) })

/-- ROUTER_RECONFIG_START (R255). -/
def execRouterReconfigStart (i : Fin 80) (bounce crcLim : BitVec 4) (s : State) : Host.Outcome State Fault Refusal :=
  .next (s.reconf i.val bounce crcLim)

/-- The configuration a router will have once its reconfigurations are done. -/
def State.cfgAhead (s : State) (i : Nat) : BitVec 4 × BitVec 4 :=
  let r := s.router i
  (r.reconf2.orElse (fun _ => r.reconf)).getD (r.bounce, BitVec.ofNat 4 (s.crcLim i))

/-! ## Queue errors (R260, R263, R269) -/

/-- How many queues a unit has (R269). -/
def queuesOf : QUnit → Nat
  | .slice _ => 48 | .att _ => 12 | .port _ => 8 | .router _ => 8 | .service => 64

/-- The packets of a unit that wait for its router's local port, those of a plane and lane or all of them, are lost. -/
def State.dropInj (s : State) (p : Place) (lane : Option Nat) : State :=
  { s with mesh := { s.mesh with inj := Store.set [] s.mesh.inj p.router ((Store.get [] s.mesh.inj p.router).filter (fun x =>
    !(decide (sunitOf x.hdr = p.unit) && decide (srouterOf x.hdr = p.router)
      && (lane.map (fun l => x.plane && decide (x.lane = l))).getD true))) } }

/-- A service queue loses its contents (R260, R269). -/
def State.dropService (s : State) (q : Nat) : State :=
  if q = 1 then { s with hostRsp := none, hostOut := [] } else if q = 3 then { s with coxRsp := none }
  else if q = 4 then { s with cox := { s.cox with h2cFull := false } }
  else if q = 5 then { s with cox := { s.cox with c2hReady := false } }
  else if q = 6 then { s with cox := { s.cox with s2cFull := false } }
  else if q = 7 then { s with cox := { s.cox with c2sReady := false } }
  else if q = 8 ∨ q = 9 then { s with events := { s.events with msgs := [] } }
  else if q = 10 then { s with counts := { s.counts with recQ := [] } }
  else if 12 ≤ q ∧ q < 28 then s.setRing (q - 12) []
  else if q = 28 then { s with mesh := { s.mesh with traceQ := [] } }
  else if q = 29 then { s with pins := { s.pins with spi := [] } }
  else if q = 32 then { s with cox := { s.cox with sbOut := [] } }
  else if q = 57 then { s with cox := { s.cox with logQ := [] } }
  else if q = 61 then { s with boot := { s.boot with bufs := [] } }
  else if q = 62 then allAtts.foldl (fun s k => s.modAtt k (fun a => { a with winRd := [] })) s
  else s

/-- A queue loses its contents (R260). The queues whose items pass within the command that brings them hold none. -/
def State.dropQueue (s : State) (u : QUnit) (q : Nat) : State :=
  match u with
  | .slice i =>
      if 44 ≤ q ∧ q < 47 then s.dropInj (.slice i) (some (q - 43))
      else s.modSl i (fun x =>
        if q = 0 then { x with wb := [] } else if q = 1 then { x with rsp := [] } else if q = 2 then { x with int := [] }
        else if q = 3 then { x with new := [] } else if q < 36 then { x with chains := Store.set none x.chains (q - 4) none }
        else if q < 44 then { x with snpQ := Store.set [] x.snpQ (q - 36) [] } else { x with calQ := [] })
  | .att k =>
      if q = 9 then s.dropInj (.att k) none
      else s.modAtt k (fun a =>
        if q < 2 then { a with waitIn := a.waitIn.filter (fun r => !decide (r.op.rwd = decide (q = 1))) }
        else if q = 6 then { a with ndrQ := [] } else if q = 7 then { a with drsQ := [] } else if q = 8 then { a with bisnpQ := [] }
        else if q = 10 then { a with pulls := [], reports := [] }
        else if q = 11 then { a with order := a.order.filter (fun e => !e.gated) } else a)
  | .port m =>
      if q = 5 then s.dropInj (.port m) none
      else s.modMp m (fun p =>
        if q = 0 then { p with waitq := p.waitq.filter (fun c => decide (c.why = .prefetch true)) }
        else if q = 4 then { p with intake := [], castIn := [], sweepReqs := [] }
        else if q = 6 then { p with rsIn := [] } else if q = 7 then { p with beats := [] } else p)
  | .router i =>
      let r := s.router i.val
      s.setRouter i.val ((List.range 5).foldl (fun r inp => r.putBuf inp q []) r)
  | .service => s.dropService q

/-- QUEUE_POINTER_MISMATCH (R260, R263): the queue resets; in a coherence queue the block enters HOLD. -/
def execQueuePointerMismatch (u : QUnit) (q : BitVec 6) (s : State) : Host.Outcome State Fault Refusal :=
  if queuesOf u ≤ q.toNat then .next s
  else
    let s := (((s.dropQueue u q.toNat).crossReset u q.toNat).queueNote u q.toNat 2).fire (queueEv u)
    if observes u q.toNat then .next (s.queueRec u)
    else .next (s.fatal 4 (unitCode u).1 (unitCode u).2 q.toNat)

/-- A unit's bounce bit is to change: a reconfiguration of its router starts, or follows the one that runs (R255). -/
def State.reconfBounce (s : State) (i u : Nat) (v : Bool) : State :=
  let c := s.cfgAhead i
  s.reconf i (if v then c.1 ||| (1#4 <<< u) else c.1 &&& ~~~ (1#4 <<< u)) c.2

/-! ## Gating an attachment (R264 to R268) -/

/-- Every agent of an attachment is ABSENT. -/
def State.allAway (s : State) (k : AttId) : Bool :=
  s.agents.all (fun e => decide (e.2.la ≠ k) || decide (e.2.st = .absent))

/-- A gate begins to close: the attachment is asked, and the edge router is to bounce its messages (R264). -/
def State.gateStart (s : State) (k : AttId) : State :=
  (s.modAtt k (fun a => { a with gate := .closing, gateReq := true, gateAck := false, reopen := false })).reconfBounce
    (attRouter k) (k.toNat % 2) true

/-- LA_GATE.REQ written to 1 (R264): refused while an agent of the attachment is not ABSENT. -/
def State.gateClose (s : State) (k : AttId) : State :=
  match (s.att k).gate with
  | .opened =>
    if s.allAway k then (s.putF (Fld.la k 0x150 0 1) 1).gateStart k
    else (s.putF (Fld.la k 0x150 3 1) 1).fire (evLa k 4)
  | .closing => (s.putF (Fld.la k 0x150 0 1) 1).modAtt k (fun a => { a with reopen := false })
  | _ => s.putF (Fld.la k 0x150 0 1) 1

/-- LA_GATE_CLOSE (R264, R268). -/
def execLaGateClose (k : AttId) (s : State) : Host.Outcome State Fault Refusal := .next (s.regG (fun s => s.gateClose k))

/-- GATE_ACK (R264, R265): the attachment answers the request. -/
def execGateAck (k : AttId) (s : State) : Host.Outcome State Fault Refusal :=
  if (s.att k).gateReq then .next (s.modAtt k (fun a => { a with gateAck := true })) else .next s

/-- Every queue of an attachment's edge is empty (R264). -/
def Att.quiet (a : Att) : Bool :=
  decide (a.waitIn = []) && decide (a.ndrQ = []) && decide (a.drsQ = []) && decide (a.bisnpQ = []) && decide (a.pulls = [])
    && decide (a.reports = []) && decide (a.wsIn = []) && decide (a.winRd = []) && decide (a.gated = 0)

/-- A bit of an output vector set. -/
def setPin (v : BitVec 16) (k : Nat) (x : Bool) : BitVec 16 := if x then v ||| (1#16 <<< k) else v &&& ~~~ (1#16 <<< k)

/-- LA_GATE.STATE changes; bit k of vh_lnk_off_ok says DRAINED (R264, R418). -/
def State.toGate (s : State) (k : AttId) (g : GateSt) : State :=
  let s := s.modAtt k (fun a => { a with gate := g })
  { s with pins := { s.pins with lnkOffOk := setPin s.pins.lnkOffOk k.toNat (decide (g = .drained)) } }

/-- GATE_DRAINED (R264): the acknowledgement is in, the edge router bounces, and the edge's queues are empty. A reopening
asked for meanwhile goes on at once (R267). -/
def execGateDrained (k : AttId) (s : State) : Host.Outcome State Fault Refusal :=
  let a := s.att k
  if a.gate = .closing ∧ a.gateAck ∧ a.quiet ∧ s.attBounces k then
    let s := (s.toGate k .drained).fire (evLa k 3)
    .next (if a.reopen then (s.toGate k .opening).modAtt k (fun a => { a with reopen := false }) else s)
  else .next s

/-- LA_GATE.REQ written to 0 (R267): a gate still CLOSING reopens once it is DRAINED. -/
def State.gateOpen (s : State) (k : AttId) : State :=
  let s := s.putF (Fld.la k 0x150 0 1) 0
  match (s.att k).gate with
  | .drained => s.toGate k .opening
  | .closing => s.modAtt k (fun a => { a with reopen := true })
  | _ => s

/-- LA_GATE_OPEN (R267). -/
def execLaGateOpen (k : AttId) (s : State) : Host.Outcome State Fault Refusal := .next (s.regG (fun s => s.gateOpen k))

/-- The credits the block advertises on REQ, RWD and BIRSP (R34), and the advertisements of the attachment that open with
them (R430). -/
def Att.advertise (a : Att) : Att :=
  { a with
    reqCr := 64, rwdCr := 32, birspCr := 64, reqHold := 0, rwdHold := 0, ndrC := Credits.reset, drsC := Credits.reset, bisnpC := Credits.reset }

/-- A gate reopens (R267): its crossing queues' pointers are reset, its credits advertised again and vh_lnkk_gate_req lowered,
and its edge router begins to return to pass mode; it is OPEN once that router has switched. -/
def State.gateUp (s : State) (k : AttId) : State :=
  let s := (List.range 6).foldl (fun s q => s.crossReset (.att k) q) s
  let s := s.modAtt k (fun a => { (a.advertise) with
    ndrQ := [], drsQ := [], bisnpQ := [], gateReq := false, gateAck := false, reopen := false, passing := true })
  s.reconfBounce (attRouter k) (k.toNat % 2) false

/-- GATE_REOPEN (R267): clk_lnkk has been seen for 1,024 cycles. -/
def execGateReopen (k : AttId) (s : State) : Host.Outcome State Fault Refusal :=
  if (s.att k).gate = .opening ∧ !(s.att k).passing then .next (s.gateUp k) else .next s

/-! ## Bounced messages, trace out (R266, R271, R297) -/

/-- A memory command, a cast-store command or a sweep request that came back stays with its sender while its port bounces. -/
def State.park (s : State) (b : Bounced) : State := { s with mesh := { s.mesh with parked := s.mesh.parked ++ [b] } }

/-- A bounced message is handled by lane (R266): a command is kept for the reopening of the port's gate; a request bounced
by re-homing is sent to its bucket's slice (R297); any other is discarded. -/
def State.handleBounced (s : State) (b : Bounced) : State :=
  match b with
  | .snoop _ _ => s
  | .ndr _ _ => s
  | .pull _ _ => s
  | .rpt _ _ => s
  | .cmd m c => if s.portBounces m then s.park b else s.sendCmd c
  | .cast m c => if s.portBounces m then s.park b else s.sendCast c
  | .sweep m f => if s.portBounces m then s.park b else s.sendSweep m f
  | .rehome r => (s.count (cLa r.la 19) 1).toNew r

/-- BOUNCED_MESSAGE (R266). -/
def execBouncedMessage (s : State) : Host.Outcome State Fault Refusal :=
  match s.mesh.bounced with
  | [] => .next s
  | b :: rest => .next ({ s with mesh := { s.mesh with bounced := rest } }.handleBounced b)

/-- The commands kept for a port are sent when its gate reopens (R266). -/
def State.unpark (s : State) : State :=
  s.mesh.parked.foldl State.handleBounced { s with mesh := { s.mesh with parked := [] } }

/-- The next ring with an entry, in rotating order, sends one into the trace crossing queue, unless its writer sees that full
(R258, R271). -/
def State.traceIn (s : State) : State :=
  if (s.crossOf .service 28).seenFull (Config.queueRoom 28 + 2) then s
  else
    match grantOf 16 s.mesh.ringTurn (fun g => decide (s.ring g ≠ [])) with
    | none => s
    | some g =>
      match s.ring g with
      | [] => s
      | e :: rest =>
        let s := (s.setRing g rest).crossIn .service 28
        { s with mesh := { s.mesh with traceQ := s.mesh.traceQ ++ [e], ringTurn := (g + 1) % 16 } }

/-- Trace out takes the head of the crossing queue, unless its reader sees that empty (R258, R271). -/
def State.traceRead (s : State) : State :=
  if (s.crossOf .service 28).seenEmpty then s
  else
    match s.mesh.traceQ with
    | [] => s
    | e :: rest =>
      let s := s.crossOut .service 28
      { s with mesh := { s.mesh with traceQ := rest, tracePin := some e } }

/-- TRACE_OUT (R271): at L2 and above trace out stops. -/
def execTraceOut (s : State) : Host.Outcome State Fault Refusal :=
  if 2 ≤ s.level then .next s else .next s.traceRead.traceIn

/-! ## The switch of a reconfiguration (R255, R267) -/

/-- The credits that a reconfiguration withheld flow again (R255). -/
def State.resume (s : State) (i : Nat) : State :=
  let held := (s.router i).owed
  let s := s.setRouter i { s.router i with owed := [] }
  held.foldl (fun s e => (s.giveCredit i (e.1 / 8) (e.1 % 8) e.2).runSwitch
    (((ports5[e.1 / 8]?).map (fun l => l.neighbour i)).getD i)) s

/-- A gate whose edge router passes messages again is OPEN, and its BOUNCED clears (R267). -/
def State.gateOpened (s : State) (i : Nat) : State :=
  allAtts.foldl (fun s k =>
    if attRouter k = i ∧ (s.att k).gate = .opening ∧ (s.att k).passing ∧ !s.attBounces k then
      ((s.toGate k .opened).modAtt k (fun a => { a with passing := false })).putF (Fld.la k 0x150 16 16) 0
    else s) s

/-- A memory port's gate likewise (R286). -/
def State.gateOpenedMp (s : State) (i : Nat) : State :=
  allPorts.foldl (fun s m =>
    if portRouter m = i ∧ (s.mp m).gate = .opening ∧ !s.portBounces m then
      ((s.modMp m (fun p => { p with gate := .opened })).putF (Fld.mp m 0x118 16 16) 0).unpark
    else s) s

/-- ROUTER_RECONFIG_SWITCH (R255): the new configuration takes effect once the lane buffers have drained, the withheld credits
flow again, and a write made meanwhile starts a second sequence. -/
def execRouterReconfigSwitch (i : Fin 80) (s : State) : Host.Outcome State Fault Refusal :=
  let r := s.router i.val
  match r.reconf with
  | none => .next s
  | some (b, c) =>
    if r.bufs ≠ [] then .next s
    else
      let s := (s.setRouter i.val { r with bounce := b, reconf := none, reconf2 := none }).putF (Fld.rt i.val 0 4 4) c.toNat
      let s := s.resume i.val
      let s := s.setRouter i.val { s.router i.val with reconf := r.reconf2 }
      .next ((s.gateOpened i.val).gateOpenedMp i.val)

end Sys2Proof.Machine
end

