-- ==== Sys2Proof/Machine/Pass.lean ====
section
/-! DEFINITION. What the slice's passes do (chapters 3 to 5, 15): hand-overs, snoop responses, CONFLICT, reports, escalation, the
returns of the cast store, recalls and recoveries; and snoop issue with its timers. A command that names work the slice does
not have leaves the state unchanged (log 1). -/

namespace Sys2Proof.Machine

/-! ## Hand-overs (R134, R135, R150, R152) -/

/-- A swept agent is removed from an entry in a way (R58), and an entry left with no holder goes; `none` where a delete finds
no transit entry (R431). -/
def State.sweepEntry (s : State) (i : SliceId) (k : Nat) (e : Entry) : Option State :=
  let (h, psn) := s.purged e
  if h = e.holders ∧ h ≠ [] then some s
  else if h = [] ∧ e.cast ∧ ((s.sl i).handOf e.line).isNone ∧ ((s.sl i).freeTr).isNone then none
  else
    let s := if psn then (s.poison i e.line none).1 else s
    some (s.writeHolders i k e (e.own && decide (h ≠ [])) h none)

/-- A queued sweep step has its line: it holds it for its own pass only (R152). A record that stands in the cast store alone is
read, and the departing agents leave it when it comes (R433). Without a transit entry the step waits (R431). -/
def State.sweepLine (s : State) (i : SliceId) (l : Line) : State :=
  match (s.sl i).findWay l with
  | none =>
    let park : State := s.modSl i (fun x => { x with jobPark := x.jobPark ++ [(l, .sweep)] })
    (match (s.sl i).findTr l with
     | some (_, v) => if v.phase = 2 then park else s.passLine i l
     | none =>
       if (s.sl i).silPass l || (s.sl i).bypassed (bucketOf l) then
         (match (s.sl i).freeTr with
          | none => park
          | some t => ((s.modSl i (fun x => x.putTr t (some (Transit.mk0 .fetch (Entry.blank l))))).readPair i t l).passLine i l)
       else s.passLine i l)
  | some (k, e) =>
    match s.sweepEntry i k e with
    | some s => s.passLine i l
    | none => s.modSl i (fun x => { x with jobPark := x.jobPark ++ [(l, .sweep)] })

/-- A waiter has its line: checks 4 and 8 again, then admission (R135). An escalated waiter that finds no slot waits at the head,
holding the line. -/
def State.handWaiter (s : State) (i : SliceId) (l : Line) (r : Req) (esc : Bool) (chk : PassCheck) : State :=
  match s.check4 r with
  | .error perm => ((s.sliceError i r (refusalFld perm)).endEsc i r).passLine i l
  | .retry => (s.sliceRetry i r).passLine i l
  | .ok =>
    let s := if esc then s.modSl i (fun x => x.unkeep r) else s
    let free := if esc then (s.sl i).freeReserve.orElse (fun _ => (s.sl i).freeSlot) else (s.sl i).freeSlot
    match free with
    | none =>
      if esc then s.modSl i (fun x => { x with escPark := x.escPark ++ [(l, r)] }) else (s.wouldRetry i r false).passLine i l
    | some n => s.admitIn i n r esc true chk

/-- A hand-over's pass; a chain whose last waiter it hands the line is free (R137). -/
def State.handOver (s : State) (i : SliceId) (l : Line) (h : Heir) (chk : PassCheck) : State :=
  match h with
  | .sweep => s.sweepLine i l
  | .waiter r esc => ((s.handWaiter i l r esc chk).modSl i (fun x => x.tidyChain l)).kickEsc i
  | .flow n => s.advance i n

/-! ## Snoop responses (R103, R154, R231) -/

/-- A response is valid for a snoop (R103). -/
def validRsp (op : SnpOp) (r : RspOp) : Bool :=
  match op, r with
  | .inv, .i => true
  | .inv, _ => false
  | .data, .e => false
  | .data, _ => true
  | .cur, _ => true

/-- The snoop of a slot to an agent changed. -/
def Slot.modSnoop (x : Slot) (a : AgentId) (f : Snoop → Snoop) : Slot :=
  { x with snoops := x.snoops.map (fun v => if v.agent = a then f v else v) }

/-- The open snoop of a slot to an agent. -/
def Slot.snoopTo (x : Slot) (a : AgentId) : Option Snoop :=
  x.snoops.find? (fun v => decide (v.agent = a) && decide (v.copies ≠ 0) && decide (v.st ≠ .queued))

/-- An invalid response: counted, the snoop sent once more, and the agent fenced at the second (R103). -/
def State.badAnswer (s : State) (i : SliceId) (n : Nat) (a : AgentId) (v : Snoop) : State :=
  let s := (s.incF (Fld.sl i 0x220 0 16)).fire (evSl i 8)
  if 1 ≤ v.bad then (s.fenceAgent a).fire (evSl i 7)
  else
    (s.modSlot i n (fun y => (y.smp (fun m => { m with flags := m.flags ||| 4 })).modSnoop a (fun v => { v with bad := v.bad + 1 }))).queueSnoop i n a

/-- The first valid response to a snoop (R103, R113, R154). -/
def State.goodAnswer (s : State) (i : SliceId) (n : Nat) (x : Slot) (v : Snoop) (r : RspOp) (stamp : Nat) : State :=
  let s := s.calSample i v.agent (stamp - v.issued) stamp
  let s := match r with
    | .i => s.dropHolder i x.line v.agent false
    | .s => s.dropHolder i x.line v.agent true
    | .e => s
  let s := s.modSlot i n (fun y => (y.smp (fun m => { m with snpDone := some stamp })).modSnoop v.agent (fun v => { v with
    st := .answered, copies := v.copies - 1, answered := stamp }))
  s.advance i n

/-- A snoop response reaches its flow. -/
def State.answer (s : State) (i : SliceId) (r : RspOp) (a : AgentId) (h : BitVec 16) (stamp : Nat) : State :=
  let n := (htagSlot h).toNat
  match (s.sl i).slot n with
  | none => s
  | some x =>
    match x.snoopTo a with
    | none => s
    | some v =>
      if v.st = .answered then
        ((s.incF (Fld.sl i 0x250 16 16)).modSlot i n (fun y => y.modSnoop a (fun v => { v with copies := v.copies - 1 }))).freeSlot i n
      else if validRsp v.op r then s.goodAnswer i n x v r stamp
      else s.badAnswer i n a v

/-- An EGRESS_ACK releases its flow's line, or frees a slot whose line is released (R99, R101). -/
def State.ackSlot (s : State) (i : SliceId) (n : Nat) : State :=
  match (s.sl i).slot n with
  | none => s
  | some x =>
    let now := s.now
    let s := s.modSlot i n (fun y => { (y.smp (fun m => { m with egress := some now })) with eack := false })
    if x.released then s.freeSlot i n else if x.dead then s.advance i n else s.release i n

/-- CONFLICT in its pass (R148): checks 4 and 5, then CONFLICT_ACK, whatever the state of the line. -/
def State.conflictAck (s : State) (i : SliceId) (k : AttId) (q : ReqHdr) : State :=
  let r : Req := { op := .conflict, la := k, q := q, buf := none }
  match s.check4 r with
  | .retry => s.routeNdr i k (retryNdr q (s.backoff q.agent))
  | .error perm => (s.refuse k (refusalFld perm)).routeNdr i k (errNdr q)
  | .ok =>
    if s.inCast q.laddr then (s.refuse k Fld.perm).routeNdr i k (errNdr q)
    else
      ((s.routeNdr i k { op := .conflictAck, agent := q.agent, tag := q.tag, htag := 0, status := .ok, parts := 0, backoff := 0,
                         otag := q.otag }).incF (Fld.sl i 0x24C 16 16)).count (cSl i 23) 1

/-- A message of the RSP class in its pass. -/
def State.rspPass (s : State) (i : SliceId) (m : RspMsg) : State :=
  match m with
  | .birsp r a h _ t => s.answer i r a h t
  | .eack _ h => s.ackSlot i (htagSlot h).toNat
  | .conflict k q => s.conflictAck i k q

/-! ## Reports (R68, R106, R108, R111, R112) -/

/-- Whether a report belongs to the flow's READ. -/
def Slot.readRpt (x : Slot) (tag : BitVec 16) : Bool :=
  decide (x.psnTag ≠ some tag) && !(x.srws.any (fun w => decide (w.tag = tag)))
    && (match x.req with | some r => r.op.ordRead | none => false)

/-- A report of a snoop-response write: CMP with PARTS 0 to the writer (R106). -/
def State.srwDone (s : State) (i : SliceId) (n : Nat) (w : Srw) (st : MemStatus) : State :=
  (s.deliver i w.la { op := .cmp, agent := w.agent, tag := w.rtag, htag := 0, status := if st = .error then .error else .ok,
                      parts := 0, backoff := 0, otag := 0 }).modSlot i n (fun y => { y with srws := y.srws.erase w })

/-- A report that carries a home tag. -/
def State.report (s : State) (i : SliceId) (n : Nat) (p : PortRpt) : State :=
  match (s.sl i).slot n with
  | none => s
  | some x =>
    if x.rpts.contains p.tag then
      let now := s.now
      let rd := x.readRpt p.tag
      let s := if rd then (if p.hdirty then s.putHd i x.line true else s) else s.putHd i x.line p.hdirty
      let own := decide (x.psnTag ≠ some p.tag) && !rd && !(x.srws.any (fun w => decide (w.tag = p.tag)))
      let s := s.modSlot i n (fun y =>
        let y := y.smp (fun m => { m with memDone := some now, flags := if p.st = .ok then m.flags else m.flags ||| 8 })
        { y with rpts := y.rpts.erase p.tag, memErr := y.memErr || (own && decide (p.st = .error)) })
      let s := match x.srws.find? (fun w => decide (w.tag = p.tag)) with
        | some w => s.srwDone i n w p.st
        | none => s
      s.advance i n
    else s

/-- Agents that depart leave the entry of a line that a pass reads, or its sweep step queues on the line (R152, R433). -/
def State.purgeLine (s : State) (i : SliceId) (l : Line) : State :=
  match (s.sl i).findWay l with
  | none => s
  | some (k, e) =>
    if (s.purged e).1 = e.holders then s
    else if (s.sl i).holds l ∨ ((s.sl i).findChain l).isSome then s.queueSweep i l
    else (s.sweepEntry i k e).getD (s.modSl i (fun x => { x with handing := x.handing ++ [l], jobPark := x.jobPark ++ [(l, .sweep)] }))

/-- A PORT_RPT in its pass (R108): with an HTAG it advances its flow; without one it updates HD of its line (R68, R167), unless
another slice homes the line (R297), and departing agents leave the entry (R433). -/
def State.rptPass (s : State) (i : SliceId) (p : PortRpt) : State :=
  match p.htag with
  | some h => s.report i (htagSlot h).toNat p
  | none => if s.serves i (bucketOf p.line) then (s.putHd i p.line p.hdirty).purgeLine i p.line else s

/-! ## Snoop issue and timers (R61, R104, R153, R154, R156) -/

/-- The counter of a snoop sent (R336). -/
def snpCnt (op : SnpOp) : Nat := match op with | .inv => 16 | .data => 17 | .cur => 18

/-- SNOOP_ISSUE (R104): the head of a row's queue leaves; its timer starts (R153). -/
def execSnoopIssue (i : SliceId) (row : BitVec 3) (s : State) : Host.Outcome State Fault Refusal :=
  if s.passGo i then
    match Store.get [] (s.sl i).snpQ row.toNat with
    | [] => .next s
    | (n, a) :: rest =>
      let s := s.modSl i (fun x => { x with snpQ := Store.set [] x.snpQ row.toNat rest })
      match (((s.sl i).slot n.toNat).bind (fun x => (x.snoops.find? (fun v => decide (v.agent = a) && decide (v.copies ≠ 0))).map (fun v => (x, v)))) with
      | none => .next s
      | some (x, v) =>
        let now := s.now
        let lim := (s.agent a).snpTo.toNat
        let s := s.routeBisnp i (s.agent a).la { op := v.op, agent := a, htag := htagOf i n.toNat, laddr := x.line }
        let s := s.count (cSl i (snpCnt v.op)) 1
        .next (s.modSlot i n.toNat (fun y => (y.smp (fun m => { m with snpSent := some (m.snpSent.getD now) })).modSnoop a (fun v => { v with
          st := if v.st = .queued then .sent else v.st, issued := if v.st = .queued then now else v.issued,
          timer := now, limit := lim })))
  else .next s

/-- A copy of a slot's snoop to an agent stands in an issue queue. -/
def Slice.inSnpQ (x : Slice) (n : Nat) (a : AgentId) : Bool :=
  x.snpQ.any (fun e => e.2.any (fun q => decide (q.1.toNat = n) && decide (q.2 = a)))

/-- A response from an agent to a slot has arrived: it stands in the RSP queue of 64 entries (R129, R153). -/
def Slice.rspIn (x : Slice) (i : SliceId) (n : Nat) (a : AgentId) : Bool :=
  (x.rsp.take 64).any (fun m => match m with | .birsp _ b h _ _ => decide (b = a) && decide (h = htagOf i n) | _ => false)

/-- SNOOP_TIMEOUT (R61): the resend at the first, the fence at the second; an arrival in the same cycle wins (R156). -/
def execSnoopTimeout (i : SliceId) (slot : BitVec 10) (a : AgentId) (s : State) : Host.Outcome State Fault Refusal :=
  let n := slot.toNat
  if s.passGo i then
    match ((s.sl i).slot n).bind (·.snoopTo a) with
    | none => .next s
    | some v =>
      if v.st ≠ .sent ∨ (s.sl i).inSnpQ n a ∨ (s.sl i).rspIn i n a then .next s
      else
        let s := s.reach (v.timer + 8 * v.limit)
        let s := s.modAgent a (fun x => { x with tocnt := if x.tocnt = 15 then 15 else x.tocnt + 1 })
        if v.resent then .next ((s.fenceAgent a).fire (evSl i 7))
        else
          let s := s.modSlot i n (fun y => (y.smp (fun m => { m with flags := m.flags ||| 4 })).modSnoop a (fun v => { v with
            resent := true, copies := v.copies + 1 }))
          .next ((((s.queueSnoop i n a).incF (Fld.sl i 0x250 0 16)).fire (evSl i 6)).count (cSl i 19) 1)
  else .next s

/-- SNOOP_CLOSE (R154): a resent snoop closes 2 × SNP_TO after its answer. -/
def execSnoopClose (i : SliceId) (slot : BitVec 10) (a : AgentId) (s : State) : Host.Outcome State Fault Refusal :=
  let n := slot.toNat
  if s.passGo i then
    match ((s.sl i).slot n).bind (·.snoopTo a) with
    | none => .next s
    | some v =>
      if v.st ≠ .answered ∨ (s.sl i).rspIn i n a then .next s
      else
        let s := (s.reach (v.answered + 16 * v.limit)).modSlot i n (fun y => y.modSnoop a (fun v => { v with copies := 0 }))
        .next (s.freeSlot i n)
  else .next s

/-- EGRESS_ACK_LATE (R49): 64 µs after the last part left, the acknowledgement has not come. -/
def execEgressAckLate (i : SliceId) (slot : BitVec 10) (s : State) : Host.Outcome State Fault Refusal :=
  let n := slot.toNat
  match (s.sl i).slot n with
  | none => .next s
  | some x =>
    match x.eackAt, x.req with
    | some t, some r =>
      if x.eack ∧ x.late = false ∧ s.runs ∧ !((s.sl i).rsp.any (fun m => match m with | .eack _ h => decide (h = htagOf i n) | _ => false)) then
        let s := (s.reach (t + 64000)).modSlot i n (fun y => { y with late := true })
        .next (((s.incF (Fld.la r.la 0x108 0 16)).fire (evLa r.la 0)).count (cLa r.la 11) 1)
      else .next s
    | _, _ => .next s

/-! ## Escalation (R141, R142) -/

/-- An escalated request has a place: in a chain, at the head of its line, in a hand-over, or in a slot whose flow is not yet
decided (R141). -/
def Slice.escPlaced (x : Slice) (r : Req) : Bool :=
  let same (c : Req) : Bool := decide (c.q.agent = r.q.agent) && decide (c.q.tag = r.q.tag)
  x.chainList.any (fun p => (p.2.esc.map same).getD false) || x.escPark.any (fun p => same p.2)
    || x.int.any (fun m => (m.waits.map same).getD false)
    || x.slotList.any (fun p => p.2.esc && !p.2.decided && (p.2.req.map same).getD false)

/-- One escalated request retries (R141). -/
def State.escTry (s : State) (i : SliceId) (r : Req) (chk : PassCheck) : State :=
  let same (c : Req) : Bool := decide (c.q.agent = r.q.agent) && decide (c.q.tag = r.q.tag)
  if (s.sl i).escPlaced r then s
  else
    match s.check4 r with
    | .error perm => (s.sliceError i r (refusalFld perm)).endEsc i r
    | .retry => s
    | .ok =>
      let s := s.modSl i (fun x => x.unkeep r)
      let x := s.sl i
      let b := bucketOf r.q.laddr
      if !s.serves i b then
        (s.modSl i (fun x => { x with escSlots := x.escSlots.filter (fun e => !same e) })).bounceReq i r
      else if ((s.moveOf b).map (fun m => decide (m.src = i) && decide (m.st ≠ .waiting))).getD false then s
      else if x.holds r.q.laddr ∨ (x.findChain r.q.laddr).isSome then (s.escChain i r).1
      else
        match x.freeReserve.orElse (fun _ => x.freeSlot) with
        | some n => s.admitIn i n r true false chk
        | none => s

/-- Escalated requests in ascending ticket age. -/
def Slice.escOrder (x : Slice) : List Req :=
  x.roster.filterMap (fun t => x.escSlots.find? (fun r => decide (r.q.agent = t.agent) && decide (r.q.tag = t.tag)))

/-- An escalated request that has no chain while its line is held and no chain is free (R141). -/
def Slice.wantsChain (x : Slice) (r : Req) : Bool :=
  x.holds r.q.laddr && (x.findChain r.q.laddr).isNone && x.freeChain.isNone

/-- The escalated requests retry, oldest ticket first; general chaining goes on once none of them wants a chain (R141). -/
def State.escRetry (s : State) (i : SliceId) (chk : PassCheck) : State :=
  let s := (s.sl i).escOrder.foldl (fun s r => s.escTry i r chk) s
  if (s.sl i).escSlots.any (s.sl i).wantsChain then s else s.chainStop i false

/-- TICKET_EXPIRY (R142): 50 µs after a ticket became the oldest waiting while a slot was free, its request has not been
presented. -/
def execTicketExpiry (i : SliceId) (a : AgentId) (s : State) : Host.Outcome State Fault Refusal :=
  match (s.sl i).roster.find? (fun t => decide (t.agent = a)) with
  | none => .next s
  | some t =>
    match t.since with
    | none => .next s
    | some t0 =>
      if !s.passGo i ∨ t.shown then .next s
      else .next ((((s.reach (t0 + 50000)).endTicket i a).incF (Fld.sl i 0x244 16 16)).fire (evSl i 10))

/-! ## The returns of the cast store (R85 to R88, R381, R382, R432) -/

/-- A bucket read reaches its transit entry. -/
def State.trRead (s : State) (i : SliceId) (t : Nat) (addr : Line) (rd : BucketRead) : State :=
  s.modSl i (fun x => x.putTr t ((x.tr t).map (fun v => { v with rds := v.rds ++ [(addr, rd)], reads := v.reads - 1 })))

/-- The buckets read for a line, with lost ones marked from transit entry t (R381). -/
def State.cleanRds (s : State) (i : SliceId) (t : Nat) (b : BitVec 12) (rds : List (Line × BucketRead)) : State × List (Line × BucketRead) :=
  rds.foldl (fun p q =>
    let (s, d) := p.1.readBucket i t b q.1 q.2
    (s, p.2 ++ [(q.1, { status := .ok, data := d })])) (s, [])

/-- The slot that waits for a transit entry's fetch. -/
def Slice.fetchWaiter (x : Slice) (t : Nat) : Option (Nat × Slot) :=
  x.slotList.find? (fun p => decide (p.2.fetchT = some t) && !p.2.released)

/-- The marker's value in the buckets read: RAS_DEPART.SEQ when it was written (R382, R384). -/
def markerIn (rds : List (Line × BucketRead)) (gen : Nat) : Option (BitVec 32) :=
  rds.findSome? (fun p => (List.range 2).findSome? (fun h =>
    let r := recAt p.2.data h
    if r.marker gen then some (BitVec.ofNat 32 r.shr) else none))

/-- A record read names an agent that departs, and fills no way: the record is rewritten without it, or deleted (R58, R433). -/
def State.purgeRecord (s : State) (i : SliceId) (t : Nat) (v : Transit) (e : Entry) : State :=
  let (h, psn) := s.purged e
  if h = e.holders then (s.modSl i (fun x => x.dropTr t)).kick i
  else
    let s := (if psn then (s.poison i e.line none).1 else s).heldDiff e.holders h
    let w : Transit := if h = [] then { v with kind := .delete, e := Entry.blank e.line, phase := 0 }
      else { v with kind := .update, e := { e with holders := h }, phase := 0 }
    (s.modSl i (fun x => x.putTr t (some w))).applyRec i t

/-- A record found fills a way, and the flow is decided (R88); agents that depart leave it first (R433). Without a way or run
it fails check 9, and the record is changed in the cast store. -/
def State.fillFrom (s : State) (i : SliceId) (n t : Nat) (v : Transit) (e : Entry) : State :=
  let (h, psn) := s.purged e
  if h = e.holders then
    match (s.modSl i (fun x => x.dropTr t)).fillWay i e with
    | (s, true) => s.decideOr i n
    | (s, false) => s.fail9 i n
  else if h = [] then (s.purgeRecord i t v e).decideOr i n
  else
    match s.fillWay i { e with holders := h, dirty := true } with
    | (s, false) => (s.purgeRecord i t v e).fail9 i n
    | (s, true) =>
      let s := (if psn then (s.poison i e.line none).1 else s).heldDiff e.holders h
      (s.modSl i (fun x => x.dropTr t)).decideOr i n

/-- A fetch has found its line's record: the flow that waits for it goes on. A departing agent leaves the record even where no
flow waits, or where its requester has been fenced meanwhile (R151). -/
def State.fetched (s : State) (i : SliceId) (t : Nat) (v : Transit) (e : Entry) : State :=
  match (s.sl i).fetchWaiter t with
  | none => s.purgeRecord i t v e
  | some (n, x) => if x.dead then (s.purgeRecord i t v e).decideOr i n else s.fillFrom i n t v e

/-- The fetch of a broadcast recovery is in (R383): where there is a record, its transit entry is kept for the delete. The
transit buffer is searched again before none is concluded (R88). -/
def State.recoverFetched (s : State) (i : SliceId) (n t : Nat) (l : Line) (hit : Bool) : State :=
  if hit || ((s.sl i).handOf l).isSome then
    ((s.modSl i (fun y => y.putTr t (some { Transit.mk0 .reserved (Entry.blank l) with writes := ((y.tr t).map (·.writes)).getD 0 }))).modSlot i n (fun y => { y with fetched := true })).advance
      i n
  else ((s.modSl i (fun y => y.dropTr t)).modSlot i n (fun y => { y with fetched := true, fetchT := none })).advance i n

/-- A fetch has not found its line's record: the transit buffer is searched again before the line is in I (R88). A marker
starts a recovery, which comes once before the flow is decided (R381). DEDUCED, log 49. -/
def State.fetchMiss (s : State) (i : SliceId) (n : Nat) (l : Line) (marker : Option (BitVec 32)) : State :=
  match (s.sl i).findTr l with
  | some (t2, v2) =>
    if v2.kind = .delete then s.decideOr i n
    else if v2.phase = 3 then s.waitFetch i n t2
    else
      (match s.copyBack i t2 v2 with
       | (s, true) => s.decideOr i n
       | (s, false) => s.fail9 i n)
  | none =>
    let known := ((((s.sl i).slot n).bind (·.req)).map (·.known)).getD false
    match (if known then none else marker) with
    | some m => s.lostUnder i n (some m)
    | none => (s.count (cSl i 12) 1).decideOr i n

/-- C1 and C2 of a fetch are in (R88). -/
def State.fetchDone (s : State) (i : SliceId) (t : Nat) (v : Transit) : State :=
  let l := v.e.line
  let (s, rds) := s.cleanRds i t (bucketOf l) v.rds
  let v := { v with rds := rds, writes := (((s.sl i).tr t).map (·.writes)).getD 0 }
  let hit := rds.findSome? (fun p => (findRec p.2.data s.gen l).map (·.2))
  let w := (s.sl i).fetchWaiter t
  if (w.map (fun p => decide (p.2.busy = .recover))).getD false then
    (match w with | some (n, _) => s.recoverFetched i n t l hit.isSome | none => s)
  else
    match hit with
    | some r =>
      if r.annex then
        (s.modSl i (fun y => y.putTr t (some { v with phase := 3, annex := some (r.shr % 2 ^ 17) }))).readAnnex i t r
      else s.fetched i t v (entryOf r (inlineIds r.scnt r.shr) 0)
    | none =>
      let s := s.modSl i (fun y => y.dropTr t)
      match w with
      | none => s.kick i
      | some (n, x) => if x.dead then s.decideOr i n else s.fetchMiss i n l (markerIn rds s.gen)

/-- The flow that waits for a line's record that has turned out lost gives its slot up to the recovery (R381). -/
def State.lostFor (s : State) (i : SliceId) (l : Line) (w : Option (Nat × Slot)) : State :=
  match w with
  | none => s.startRecover i l none
  | some (n, x) => if x.dead then (s.startRecover i l none).decideOr i n else s.lostUnder i n none

/-- The annex slot of a fetched record is in; where it fails its checks, it is freed and the record deleted (R87, R381). -/
def State.annexDone (s : State) (i : SliceId) (t : Nat) (v : Transit) : State :=
  let l := v.e.line
  match v.rds.findSome? (fun p => (findRec p.2.data s.gen l).map (·.2)) with
  | none => (s.modSl i (fun x => x.dropTr t)).kick i
  | some r =>
    match s.annexHolders l (r.shr % 2 ^ 17) (r.shr / 2 ^ 17 % 16) v.rds with
    | some h => s.fetched i t v (entryOf r h 0)
    | none =>
      let w := (s.sl i).fetchWaiter t
      let s := match w with | some (n, _) => s.modSlot i n (fun y => { y with fetchT := none }) | none => s
      let s := s.modSl i (fun y => y.putTr t (some { v with kind := .delete, phase := 0 }))
      ((s.applyRec i t).incF (Fld.sl i 0x304 16 16)).lostFor i l w

/-- The last read that a fetch, update or delete waits for is in. -/
def State.readsDone (s : State) (i : SliceId) (t : Nat) (v : Transit) : State :=
  match v.kind with
  | .fetch =>
    if v.copied then s.trDone i t else if v.phase = 3 then s.annexDone i t v else s.fetchDone i t v
  | .update | .delete =>
    if v.phase = 4 then
      if v.kind = .delete ∨ v.e.holders.length ≤ 16 then (s.modSl i (fun x => x.putTr t (some { v with phase := 0 }))).applyRec i t
      else
        (match s.annexPick v.e.line v.rds with
         | some k => (s.modSl i (fun x => x.putTr t (some { v with phase := 0, annex := some k }))).applyRec i t
         | none => s.recall i t)
    else
      let (s, rds) := s.cleanRds i t (bucketOf v.e.line) v.rds
      (s.modSl i (fun x => x.putTr t ((x.tr t).map (fun v => { v with rds := rds })))).applyRec i t
  | _ => s

/-- A transit entry keeps its buckets until its annex slot has been read, or probed for (R88). -/
def Slice.keepsLocks (x : Slice) (t : Nat) : Bool :=
  match x.tr t with
  | some v => decide (v.reads ≠ 0) && (decide (v.phase = 4) || (decide (v.kind = .fetch) && decide (v.phase = 3)))
  | none => false

/-- What has been read has been dealt with: the buckets that a transit entry had locked go to the accesses that wait. -/
def State.castAfter (s : State) (i : SliceId) (t : Nat) (as : List Line) : State :=
  if (s.sl i).keepsLocks t then s else s.castFree i t as

/-- The transit entry of a recall is dropped: the record in the hand goes with it; an update's older record still stands in the cast
store (R94, R381). -/
def State.loseRecall (s : State) (i : SliceId) (t : Nat) (v : Transit) : State :=
  let s := s.loseTr i t v
  if v.phase = 4 then s else s.recordOut i v.e.line

/-- A transit entry whose code fails is dropped, and its line recovered (R381). A recovery whose own fetch is lost is followed by
another; a recall of it becomes one (R383). -/
def State.trLost (s : State) (i : SliceId) (t : Nat) (v : Transit) : State :=
  let w := (s.sl i).fetchWaiter t
  let s := (if v.kind = .recall then s.loseRecall i t v else s.loseTr i t v).incF (Fld.sl i 0x304 16 16)
  match w with
  | some (n, x) =>
    if x.busy = .recover then
      (s.modSlot i n (fun y => { y with fetched := true, fetchT := none, lostWay := true })).advance i n
    else if x.busy = .recall then s.startRecover i v.e.line none
    else s.lostFor i v.e.line w
  | none => s.startRecover i v.e.line none

/-- The code of the transit entry that a pass works on (R381): corrected, or lost, as the second part says. -/
def State.trCheck (s : State) (i : SliceId) (t : Nat) (chk : PassCheck) : State × Bool :=
  match (s.sl i).tr t with
  | none => (s, false)
  | some v =>
    if chk.transit = .uncorr ∧ !v.copied then (s.trLost i t v, true)
    else if chk.transit = .corrected then (s.corrected i, false)
    else (s, false)

/-- An annex slot for the hand has been probed (R87, R94): it is written, and the hand goes on to its bucket. A hand that an
update has left with 16 holders or fewer needs none. -/
def State.annexChosen (s : State) (i : SliceId) (t : Nat) (v : Transit) : State :=
  if v.e.holders.length ≤ 16 then s.toBucket i t v.bucket
  else
    match s.annexPick v.e.line v.rds with
    | none => s.recall i t
    | some k => ((s.modSl i (fun x => x.putTr t (some { v with annex := some k }))).writeAnnex i t v.e k).toBucket i t v.bucket

/-- The flow that waits for a hand whose annex slot is read goes on (R88, R429). -/
def State.wakeHand (s : State) (i : SliceId) (l : Line) (w : Option (Nat × Slot)) : State :=
  match w with
  | none => s
  | some (n, x) => if x.dead then s.decideOr i n else s.fetchMiss i n l none

/-- The annex slot of a displaced record is in (R85, R381, R433); an entry that has replaced it meanwhile is written in its
place. -/
def State.handAnnex (s : State) (i : SliceId) (t : Nat) (v : Transit) : State :=
  let l := v.e.line
  let w := (s.sl i).fetchWaiter t
  if v.phase = 6 then
    (s.setHand i t { v with phase := 1, e := { v.e with holders := [] } } v.e v.copied).toBucket i t v.bucket
  else
    let k := v.annex.getD 0
    let n := match v.rds.find? (fun p => decide (p.1 = s.annexAddr (bucketOf l) k 0)) with
      | some p => p.2.data.toNat / 2 ^ 48 % 16 | none => 0
    match s.annexHolders l k n v.rds with
    | some h => (s.takeHand i t { v with e := { v.e with holders := h }, phase := 1 }).wakeHand i l w
    | none => ((s.dropHand i t v).incF (Fld.sl i 0x304 16 16)).lostFor i l w

/-- A read of the insertion has dealt with its transit entry. -/
def State.handReads (s : State) (i : SliceId) (t : Nat) (v : Transit) (addr : Line) (rd : BucketRead) : State :=
  if v.phase = 0 then s.annexChosen i t v
  else if v.phase = 3 ∨ v.phase = 6 then s.handAnnex i t v
  else s.cuckooStep i t v addr rd

/-- A bucket read in its pass (R59, R85, R88, R92, R93): one of a scan is kept for its next step; the last one that a transit entry
waits for is dealt with. -/
def State.readPass (s : State) (i : SliceId) (t : Nat) (addr : Line) (rd : BucketRead) (chk : PassCheck) : State :=
  if 18 ≤ t then
    (s.modSl i (fun x => x.putScan t { out := (x.scanOf t).out - 1, rds := (x.scanOf t).rds ++ [(addr, rd)] })).castFree i t [addr]
  else
    match (s.trRead i t addr rd).trCheck i t chk with
    | (s, true) => s.castFree i t ((s.sl i).heldBy t)
    | (s, false) =>
      match (s.sl i).tr t with
      | none => s.castFree i t [addr]
      | some v =>
        if v.reads ≠ 0 then s
        else if v.kind = .spill then (s.handReads i t v addr rd).castFree i t ((s.sl i).heldBy t)
        else (s.readsDone i t v).castAfter i t ((s.sl i).heldBy t)

/-- A cast-store write of a transit entry is complete (R86, R88, R90). -/
def State.writeDone (s : State) (i : SliceId) (t : Nat) : State :=
  let s := s.modSl i (fun x => x.putTr t ((x.tr t).map (fun v => { v with writes := v.writes - 1 })))
  match (s.sl i).tr t with
  | none => s
  | some v =>
    if v.writes ≠ 0 ∨ v.reads ≠ 0 then s
    else
      match v.kind with
      | .delete =>
        ((s.modSl i (fun x => x.putTr t none)).recordOut i v.e.line).kick i
      | .fetch => if v.copied then (s.modSl i (fun x => x.putTr t none)).kick i else s
      | .spill | .update => if v.phase = 2 then (s.modSl i (fun x => x.putTr t none)).kick i else s
      | _ => s

/-- A write completion in its pass (R88, R432): a failed write is issued once more, and a second failure is FATAL. -/
def State.writePass (s : State) (i : SliceId) (c : CastCmd) (st : MemStatus) : State :=
  if st = .ok then (s.castFree i 17 [c.addr]).writeDone i c.transit
  else if c.again then (s.sliceErr i).fatal 0xC 0 i.toNat 0
  else s.sendCast { c with again := true }

/-! ## Recalls and recoveries (R94, R124, R383) -/

/-- A capacity recall has a slot: BISNP_INV to every holder (R94, R124). -/
def State.recallIn (s : State) (i : SliceId) (n t : Nat) (v : Transit) : State :=
  let l := v.e.line
  let s := s.loseRsv i (fun r => decide (r.line = l))
  let e := match (s.sl i).findWay l with | some (_, e) => e | none => v.e
  let (h, psn) := s.purged e
  let x : Slot := { Slot.fresh .recall l none with decided := true, granted := true, fetchT := some t, poison := psn }
  let s := s.modSl i (fun y => { (y.putSlot n (some x)) with handing := y.handing.erase l })
  let s := (match (s.sl i).findWay l with
    | some (k, e) => s.shrink i k { e with pin := true } e.own h
    | none => (s.modSl i (fun y => y.putTr t (some { v with e := { v.e with holders := h } }))).heldDiff v.e.holders h).putPin i l true
  (s.sendSnoops i n .inv h).advance i n

/-- The slot that a recall or a recovery of a line has been given, or else the lowest free one (R124, R383). -/
def Slice.slotFor (x : Slice) (l : Line) (b : Busy) : Option Nat :=
  match x.findSlot l with
  | some (n, y) => if y.busy = b ∧ !y.decided then some n else x.freeSlot
  | none => x.freeSlot

/-- A capacity recall in its pass (R124): without a slot it holds its line and waits for the next one. One whose transit entry is
uncorrectable becomes a recovery (R383). -/
def State.recallPass (s : State) (i : SliceId) (t : Nat) (chk : PassCheck) : State :=
  match (s.sl i).tr t with
  | none => s
  | some v =>
    if chk.transit = .uncorr then
      let s := (s.loseRecall i t v).incF (Fld.sl i 0x304 16 16)
      let s := s.modSl i (fun x => { x with
        recalls := x.recalls - 1, slots := match x.findSlot v.e.line with | some (n, _) => Store.set none x.slots n none | none => x.slots })
      (s.startRecover i v.e.line none).passLine i v.e.line
    else
      let s := if chk.transit = .corrected then s.corrected i else s
      match (s.sl i).slotFor v.e.line .recall with
      | none => s.modSl i (fun x => { x with jobPark := x.jobPark ++ [(v.e.line, .recall t)] })
      | some n => s.recallIn i n t v

/-- Every agent in ACTIVE or LEAVING, ascending (R383). -/
def State.liveAgents (s : State) : List AgentId :=
  (s.agents.filter (fun e => decide (e.2.st = .active) || decide (e.2.st = .leaving))).map (fun e => BitVec.ofNat 12 e.1)

/-- A recovery has its slot and a transit entry: step 1 (R383). -/
def State.recoverIn (s : State) (i : SliceId) (n t : Nat) (l : Line) (mkr : Option (BitVec 32)) : State :=
  let x : Slot := { Slot.fresh .recover l none with decided := true, marker := mkr, fetchT := some t }
  let s := s.modSl i (fun y => { ((y.putSlot n (some x)).putTr t (some (Transit.mk0 .fetch (Entry.blank l)))) with
    handing := y.handing.erase l })
  let s := ((s.count (cSl i 11) 1).readPair i t l).putPin i l true
  (s.sendSnoops i n .inv s.liveAgents).advance i n

/-- A broadcast recovery in its pass (R383): at most 2 run, and without a slot or a transit entry it waits, holding its line. -/
def State.recoverPass (s : State) (i : SliceId) (l : Line) (mkr : Option (BitVec 32)) : State :=
  let x := s.sl i
  let given := x.slotList.any (fun p => decide (p.2.line = l) && decide (p.2.busy = .recover) && !p.2.decided)
  match x.slotFor l .recover, x.freeTr with
  | some n, some t =>
    if given ∨ x.recoveries < 2 then s.recoverIn i n t l mkr
    else s.modSl i (fun x => { x with jobPark := x.jobPark ++ [(l, .recover mkr)] })
  | _, _ => s.modSl i (fun x => { x with jobPark := x.jobPark ++ [(l, .recover mkr)] })

end Sys2Proof.Machine
end

