-- ==== Sys2Proof/Machine/Background.lean ====
section
/-! DEFINITION. The slice's background work and clocks (chapters 2, 3, 5, 7, 10, 15): the departure scan, the patrol scrub, the
silhouette rebuild and admission scans, the write-back of a moving bucket, the age clock, and the predictor's decay. -/

namespace Sys2Proof.Machine

/-- BACKGROUND_WAIT_LIMIT (R130): the work has waited 63 cc and takes the next pass. -/
def execBackgroundWaitLimit (i : SliceId) (s : State) : Host.Outcome State Fault Refusal :=
  if s.passGo i ∧ s.bgPending i then .next (s.modSl i (fun x => { x with bgWait := 63 })) else .next s

/-! ## Departure scan (R58, R59, R152, R433) -/

/-- A line is held or has waiters, so that a sweep step queues on it (R152). -/
def Slice.blocked (x : Slice) (l : Line) : Bool := x.holds l || (x.findChain l).isSome

/-- What a step finds of one way (R73, R378, R379). -/
def State.foundWay (s : State) (i : SliceId) (set : BitVec 12) (w : BitVec 4) (f : Ecc) : State :=
  let k := set.toNat * 16 + w.toNat
  match f with
  | .clean => s
  | .corrected => s.corrected i
  | .uncorr => match (s.sl i).way k with | some e => s.loseWay i k e | none => s

/-- One set of the directory cache. `none`: a delete waits for a transit entry (R431). -/
def State.sweepSet (s : State) (i : SliceId) (set : BitVec 12) : Option State :=
  (wayKeys set).foldl (fun o k => o.bind (fun s =>
    match (s.sl i).way k with
    | none => some s
    | some e =>
      if (s.purged e).1 = e.holders then some s
      else if (s.sl i).blocked e.line then some (s.queueSweep i e.line)
      else s.sweepEntry i k e)) (some s)

/-- The buckets of a record's annex slot. -/
def State.annexOf (s : State) (r : Rec) : List Line :=
  (List.range (1 + r.shr / 2 ^ 17 % 16)).map (fun j => s.annexAddr (bucketOf r.line) (r.shr % 2 ^ 17) j)

/-- A scan meets the only copy of a record: it is in no way, and in no transit entry, and nothing holds its line (R70, R152). -/
def State.scanMeets (s : State) (i : SliceId) (r : Rec) : Bool :=
  !r.empty s.gen && !r.marker s.gen && !r.bad && ((s.sl i).findWay r.line).isNone && ((s.sl i).findTr r.line).isNone
    && !(s.sl i).blocked r.line

/-- The annex buckets of a bucket's records that the scan has still to read (R59). -/
def State.sweepReads (s : State) (i : SliceId) (d : LineData) : List Line :=
  ((List.range 2).flatMap (fun h =>
    let r := recAt d h
    if s.scanMeets i r && r.annex then s.annexOf r else [])).filter (fun a => ((s.sl i).scanned 20 a).isNone)

/-- The annex slot of a record cannot be rewritten yet: an access to a bucket of it is outstanding or waits (R88). -/
def State.annexBusy (s : State) (i : SliceId) (r : Rec) : Bool := r.annex && (s.annexOf r).any (fun a => (s.sl i).bucketBusy a)

/-- One record of a bucket (R58): swept agents leave it; a line held queues the step; a copy on-die is authoritative and is
left to its own pass (R70). What is written is written from a transit entry of its own (R431). The bucket's data afterwards;
`none`: the step waits for a transit entry, or for an earlier access (R88). -/
def State.sweepRec (s : State) (i : SliceId) (addr : Line) (d : LineData) (h : Nat) : Option (State × LineData) :=
  let r := recAt d h
  let l := r.line
  if r.empty s.gen ∨ r.marker s.gen ∨ ((s.sl i).findWay l).isSome then some (s, d)
  else if ((s.sl i).findTr l).isSome then
    (if (((s.sl i).findTr l).map (fun p => decide (p.2.phase = 2))).getD false then none else some (s, d))
  else if (s.sl i).blocked l then some (s.queueSweep i l, d)
  else if s.annexBusy i r then none
  else
    match (s.sl i).freeTr with
    | none => none
    | some t =>
      let del (s : State) : State × LineData :=
        let d := putRec d h 0
        let s := s.modSl i (fun x => x.putTr t (some { Transit.mk0 .delete (Entry.blank l) with phase := 2, swp := true }))
        (((s.castOver i t addr d).freeAnnex i t l r).recsAhead i addr l 1, d)
      match (if r.annex then s.annexHolders l (r.shr % 2 ^ 17) (r.shr / 2 ^ 17 % 16) ((s.sl i).scanOf 20).rds
             else some (inlineIds r.scnt r.shr)) with
      | none =>
        let (s, d) := del s
        some ((s.incF (Fld.sl i 0x304 16 16)).startRecover i l none, d)
      | some hs =>
        let e := entryOf r hs 0
        let (h', psn) := s.purged e
        if h' = hs then some (s, d)
        else if h' = [] then
          let (s, d) := del (if psn then (s.poison i l none).1 else s)
          some (s.heldDiff hs [], d)
        else
          let k := r.shr % 2 ^ 17
          let e := { e with holders := h' }
          let d := putRec d h (recOf e s.gen k).bits
          let s := s.modSl i (fun x => x.putTr t (some { Transit.mk0 .update e with phase := 2, swp := true }))
          let s := (s.castOver i t addr d).heldDiff hs h'
          some (if r.annex then (if 16 < h'.length then s.writeAnnex i t e k else s.freeAnnex i t l r) else s, d)

/-- A transit entry for the lost markers that a scan writes; `none` where one is needed and none is free (R381, R431). -/
def State.markerTr (s : State) (i : SliceId) (rd : BucketRead) (l : Line) : Option (State × Nat) :=
  if readLoses rd s.gen then
    match (s.sl i).freeTr with
    | some t => some (s.modSl i (fun x => x.putTr t (some (Transit.carrier (Entry.blank l) false))), t)
    | none => none
  else some (s, 16)

/-- One record bucket of the scan, as read; it waits for an earlier access to the bucket (R88). -/
def State.sweepBucket (s : State) (i : SliceId) (b : BitVec 12) (addr : Line) (rd : BucketRead) : Option State :=
  if (s.sl i).bucketBusy addr then none
  else
    match s.markerTr i rd addr with
    | none => none
    | some (s, t) =>
      let (s, d) := s.readBucket i t b addr rd
      ((s.sweepRec i addr d 0).bind (fun p => p.1.sweepRec i addr p.2 1)).map (·.1)

/-- The scan goes on by one step (R59). -/
def State.scanOn (s : State) (i : SliceId) : State :=
  let x := s.sl i
  let pos := x.scanPos
  let next := s.scanNext i pos
  let past (w : Swept) : Bool := if pos < next then decide (pos < w.start) && decide (w.start ≤ next)
    else decide (pos < w.start) || decide (w.start ≤ next)
  let over_ (b : BitVec 12) : Bool := decide (pos = 4096 + b.toNat * s.perPart + (s.perPart - 1))
  s.setSl i { (x.putScan 20 { x.scanOf 20 with rds := [] }) with
    scanPos := next
    swept := x.swept.map (fun w => { w with whole := w.whole || past w, extra := w.extra.filter (fun b => !over_ b) }) }

/-- A sweep step still waits for its line in a slice, or a fetch is out whose record a departing agent may have to leave
(R152, R433). -/
def Slice.sweepsOwed (x : Slice) : Bool :=
  x.jobs.any (fun j => decide (j.2 = .sweep)) || x.jobPark.any (fun j => decide (j.2 = .sweep))
    || x.int.any (fun m => match m with | .handOver _ .sweep => true | .replay (.handOver _ .sweep) _ => true | _ => false)
    || x.trList.any (fun p => decide (p.2.kind = .fetch) && !p.2.copied)

/-- Agents whose circle is complete, and whose queued steps have been made, leave the scan (R59); an agent that no slice sweeps any
more is done (R58). -/
def State.scanDone (s : State) (i : SliceId) : State :=
  let x := s.sl i
  let fin (w : Swept) : Bool := w.whole && decide (w.extra = [])
  let done := (x.swept.filter fin).map (·.agent)
  if done = [] ∨ x.sweepsOwed then s
  else
    let s := s.setSl i { x with swept := x.swept.filter (fun w => !fin w) }
    let s := done.foldl (fun s a =>
      let s := s.fire (evSl i 14)
      if allSlices.any (fun j => (s.sl j).swept.any (fun w => decide (w.agent = a)) || (s.sl j).sweepWait.contains a) then s
      else s.sweepOff a) s
    s.joinScan i

/-- A scan has no read outstanding and reads a bucket (R59, R92, R93). -/
def State.scanFetch (s : State) (i : SliceId) (k : Nat) (as : List Line) : State :=
  if ((s.sl i).scanOf k).out = 0 then as.foldl (fun s a => s.scanRead i k a) s else s

/-- A departure-sweep step (R59): one set, or one record bucket with the annex slots of its records once the scan has read
them, or the place of an annex slot in the circle. -/
def State.sweepPass (s : State) (i : SliceId) (finds : List (BitVec 4 × Ecc)) : State :=
  let pos := (s.sl i).scanPos
  if (s.sl i).swept = [] then s
  else if pos < 4096 then
    let set := BitVec.ofNat 12 pos
    let s := finds.foldl (fun s f => s.foundWay i set f.1 f.2) s
    match s.sweepSet i set with
    | some s => s.scanOn i
    | none => s
  else
    let b := BitVec.ofNat 12 ((pos - 4096) / s.perPart)
    let k := (pos - 4096) % s.perPart
    if k < s.castN ∧ s.scans i b then
      let addr := s.castAddr b.toNat (1 + k)
      match (s.sl i).scanned 20 addr with
      | none => s.scanFetch i 20 [addr]
      | some rd =>
        if rd.status = .ok ∧ s.sweepReads i rd.data ≠ [] then s.scanFetch i 20 (s.sweepReads i rd.data)
        else
          match s.sweepBucket i b addr rd with
          | some s => s.scanOn i
          | none => s
    else s.scanOn i

/-! ## Patrol scrub (R73, R77, R91, R378, R379) -/

/-- A patrol-scrub step (R378): one set and the 256 silhouette counters that go with it. -/
def State.scrubPass (s : State) (i : SliceId) (finds : List (BitVec 4 × Ecc)) (bad : List (BitVec 20)) : State :=
  let set := (s.sl i).scrubSet
  let s := finds.foldl (fun s f => s.foundWay i set f.1 f.2) s
  let bad := bad.filter (fun c => decide (c.toNat / 256 = set.toNat))
  let s := if bad = [] then s else
    ((s.modSl i (fun x => bad.foldl (fun x c => { x with sil := Store.set 0 x.sil c.toNat 15 }) x)).sliceErr i).stickyCheck i
  let s := s.modSl i (fun x => { x with scrubSet := x.scrubSet + 1 })
  if set = 0xFFF then s.wrapF (Fld.sl i 0x300 16 16) else s

/-! ## Silhouette rebuild and admission scans (R92, R93) -/

/-- The valid records of a bucket are counted; a marker puts the bucket of the home map into permanent bypass (R382). `none`: a
marker waits for a transit entry. -/
def State.countBucket (s : State) (i : SliceId) (b : BitVec 12) (addr : Line) (rd : BucketRead) (recount : Bool) : Option State :=
  (s.markerTr i rd addr).map (fun (s, t) =>
    let (s, d) := s.readBucket i t b addr rd
    (List.range 2).foldl (fun s h =>
      let r := recAt d h
      if r.marker s.gen then s.modSl i (fun x => x.byp b)
      else if r.empty s.gen then s
      else s.modSl i (fun x => let y := x.silUp r.line; if recount then y.recs r.line 1 else y)) s)

/-- Where a rebuild that stands at b × N + k reads next: partitions that are another slice's are passed over. -/
def State.rebuildAt (s : State) (i : SliceId) (pos : Nat) : Option Nat :=
  let b := pos / s.castN
  if b < 4096 ∧ s.scans i (BitVec.ofNat 12 b) then some pos
  else (s.nextHomed i (if pos % s.castN = 0 then b else b + 1)).map (· * s.castN)

/-- The bucket at which a rebuild stands. -/
def State.rebuildAddr (s : State) (p : Nat) : Line := s.castAddr (p / s.castN) (1 + p % s.castN)

/-- A rebuild ends (R92). -/
def State.rebuildEnd (s : State) (i : SliceId) : State :=
  ((s.modSl i (fun x => { (x.putScan 18 { x.scanOf 18 with rds := [] }) with rebuild := none, recount := false })).fire (evSl i 5)).stickyCheck i

/-- A rebuild step (R92): the record bucket that has been read is counted, and the next one read; the last one ends the rebuild. A
bucket that is being accessed is counted after that access (R88). -/
def State.rebuildPass (s : State) (i : SliceId) : State :=
  match (s.sl i).rebuild with
  | none => s
  | some pos =>
    match s.rebuildAt i pos with
    | none => s.rebuildEnd i
    | some p =>
      let addr := s.rebuildAddr p
      match (s.sl i).scanned 18 addr with
      | none => s.scanFetch i 18 [addr]
      | some rd =>
        if (s.sl i).bucketBusy addr then s
        else
          match s.countBucket i (BitVec.ofNat 12 (p / s.castN)) addr rd (s.sl i).recount with
          | none => s
          | some s =>
            match s.rebuildAt i (p + 1) with
            | some q => ((s.modSl i (fun x => { (x.putScan 18 { x.scanOf 18 with rds := [] }) with rebuild := some q })).stickyCheck i).scanFetch
                i 18 [s.rebuildAddr q]
            | none => s.rebuildEnd i

/-- An admission-scan step (R93): the record bucket of a gained bucket's partition that has been read is counted, and the next one
read; the last one clears the bypass. -/
def State.admitPass (s : State) (i : SliceId) (b : BitVec 12) : State :=
  match (s.sl i).bypass.find? (fun p => decide (p.bucket = b)) with
  | none => s
  | some p =>
    let k := 32 + b.toNat
    let addr := s.castAddr b.toNat (1 + p.next)
    match (s.sl i).scanned k addr with
    | none => s.scanFetch i k [addr]
    | some rd =>
      if (s.sl i).bucketBusy addr then s
      else
        match s.countBucket i b addr rd false with
        | none => s
        | some s =>
          let last := decide (s.castN ≤ p.next + 1)
          let f (q : Bypass) : Bypass := if q.bucket = b then { q with next := q.next + 1 } else q
          let s := (s.modSl i (fun x => { (x.putScan k { x.scanOf k with rds := [] }) with
            bypass := if last then x.bypass.filter (fun q => !decide (q.bucket = b)) else x.bypass.map f })).stickyCheck i
          if last then s else s.scanFetch i k [s.castAddr b.toNat (2 + p.next)]

/-- A move changed. -/
def State.modMove (s : State) (b : BitVec 12) (f : Move → Move) : State :=
  { s with hmap := { s.hmap with moves := s.hmap.moves.map (fun m => if m.bucket = b then f m else m) } }

/-! ## The write-back of a moving bucket (R296) -/

/-- Something of a bucket still runs in its old slice: a flow, a waiter, an escalated request that has been placed, a recall
or a sweep step. -/
def Slice.busyBucket (x : Slice) (b : BitVec 12) : Bool :=
  let on (l : Line) : Bool := decide (bucketOf l = b)
  x.slotList.any (fun p => on p.2.line) || x.handing.any on || x.chainList.any (fun c => on c.2.line) || x.jobs.any (fun j => on j.1)
    || x.jobPark.any (fun j => on j.1) || x.escPark.any (fun e => on e.1)
    || x.int.any (fun m => match m with | .replay p _ => (p.line.map on).getD false | _ => false)
    || x.wb.any (fun r => on r.q.laddr)

/-- Transit entries and insertions of a bucket, and accesses to its partition. -/
def State.transitOf (s : State) (i : SliceId) (b : BitVec 12) : Bool :=
  let x := s.sl i
  let inPart (a : Line) : Bool := decide ((a.toNat - s.castLine0) / s.castP = b.toNat)
  x.transit.any (fun p => (p.2.map (fun v => decide (bucketOf v.e.line = b))).getD false)
    || x.locks.any (fun p => inPart p.1) || x.castQ.any (fun c => inPart c.addr)

/-- The ways of a bucket's lines. -/
def Slice.waysOf (x : Slice) (b : BitVec 12) : List (Nat × Entry) :=
  x.dir.filterMap (fun p => match p.2 with
    | some e => if bucketOf e.line = b then some (p.1, e) else none
    | none => none)

/-- The agents whose departure sweep has finished a bucket's partition in its old slice: their circle is over, or the scan
has passed the whole of it since they joined. -/
def State.sweptPast (s : State) (i : SliceId) (b : BitVec 12) : List AgentId :=
  let x := s.sl i
  let first := 4096 + b.toNat * s.perPart
  let last := first + (s.perPart - 1)
  let seen (w : Swept) : Bool :=
    !w.extra.contains b && (w.whole ||
      (if w.start ≤ x.scanPos then decide (w.start ≤ first) && decide (last < x.scanPos)
       else decide (w.start ≤ first) || decide (last < x.scanPos)))
  ((s.agents.filter (fun e => e.2.sweep)).map (fun e => BitVec.ofNat 12 e.1)).filter (fun a =>
    !x.sweepWait.contains a && (match x.swept.find? (fun w => decide (w.agent = a)) with
      | some w => seen w
      | none => true))

/-- A rebuild that also counts the records has still to count some of a bucket's (R82, R97). -/
def State.uncounted (s : State) (i : SliceId) (b : BitVec 12) : Bool :=
  (s.sl i).recount && s.rebuildAhead i (s.castAddr b.toNat s.castN)

/-- A write-back step (R296): entries of the bucket leave under R75 as transit entries are free; when no entry, transit entry
or insertion is left, the record count, once it is known, and the sweep mask go to the new slice. -/
def State.writeBackPass (s : State) (i : SliceId) (b : BitVec 12) : State :=
  match s.moveOf b with
  | none => s
  | some m =>
    if m.src ≠ i ∨ m.st ≠ .marked ∨ (s.sl i).busyBucket b then s
    else
      let ways := (s.sl i).waysOf b
      if ways ≠ [] then ways.foldl (fun s p => (s.evict i p.1 p.2).getD s) s
      else if s.transitOf i b || s.uncounted i b then s
      else
        let mask := s.sweptPast i b
        let s := (s.modMove b (fun m => { m with st := .handed, mask := mask })).inject (.slice i) (.slice m.dst) 0x25
          (mapBody 2 b 0 ((Config.body 0x25 (mask.map (·.toNat))).setWidth 16) + BitVec.ofNat 107 ((s.sl i).recOfBucket b % 2 ^ 32 * 2 ^ 32)) []
        { s with hmap := { s.hmap with hands := s.hmap.hands ++ [(m.dst, b, (s.sl i).recOfBucket b, mask)] } }

/-! ## Clocks of the slice (R74, R213) -/

/-- AGE_CLOCK_ADVANCE (R74): after every 16,384 lookups. -/
def execAgeClockAdvance (i : SliceId) (s : State) : Host.Outcome State Fault Refusal :=
  if (s.sl i).lookups < 16384 then .next s
  else .next (s.modSl i (fun x => { x with ageClock := x.ageClock + 1, lookups := x.lookups - 16384 }))

/-- PREDICTOR_DECAY (R213, R235): at a decay boundary a halving of every contention counter begins, and the period then written
counts from there; each step halves one counter, in index order. A new boundary comes when the last halving is complete, at the
moment that the boundary before it and its period give, so that several that have passed each give a halving. -/
def execPredictorDecay (i : SliceId) (s : State) : Host.Outcome State Fault Refusal :=
  if s.passGo i then
    let x := s.sl i
    let (s, k) := match x.decayPos with
      | some k => (s, k)
      | none =>
        let t := x.decayAt + 1000 * x.decayPer
        ((s.reach t).modSl i (fun x => { x with decayAt := t, decayPer := s.fld (Fld.sl i 0x288 8 16) }), 0)
    .next (s.modSl i (fun x => { x with
      pred := Store.set 0 x.pred k (Store.get 0 x.pred k >>> 1), decayPos := if k = 1023 then none else some (k + 1) }))
  else .next s

end Sys2Proof.Machine
end

