-- ==== Sys2Proof/Machine/Cal.lean ====
section
/-! DEFINITION. Pacing calibration (chapter 8, R231 to R236). -/

namespace Sys2Proof.Machine

/-- The bin of a round trip (R233): 26 bins, four equal parts to each octave from 128 to 8,192 ns. -/
def binOf (rtt : Nat) : Nat :=
  if rtt < 128 then 0 else if 8192 ≤ rtt then 25
  else
    let o := (List.range 6).foldl (fun o k => if 128 * 2 ^ k ≤ rtt then k else o) 0
    1 + 4 * o + (rtt - 128 * 2 ^ o) / (32 * 2 ^ o)

/-- The upper edge of a bin in ns: `none` for the last, which is infinite (R234). -/
def binTop (b : Nat) : Option Nat :=
  if b = 0 then some 128 else if 25 ≤ b then none else some (32 * 2 ^ ((b - 1) / 4) * (5 + (b - 1) % 4))

/-- The samples of a histogram (R233). -/
def binSum (h : Store Nat) : Nat := (h.map (·.2)).sum

/-- A sample joins a histogram: bins are halved first where one would pass 4,095 (R233). -/
def addSample (h : Store Nat) (rtt : Nat) : Store Nat :=
  let b := binOf rtt
  let h := if 4095 ≤ Store.get 0 h b then (List.range 26).foldl (fun m k => Store.set 0 m k (Store.get 0 m k / 2)) h else h
  Store.set 0 h b (Store.get 0 h b + 1)

/-- The bin that holds the sample of a rank in ascending order (R234). -/
def binAt (h : Store Nat) (rank : Nat) : Nat :=
  ((List.range 25).find? (fun b => decide (rank ≤ ((List.range (b + 1)).map (fun k => Store.get 0 h k)).sum))).getD 25

/-- P999 (R234). -/
def p999 (h : Store Nat) : Option Nat := binTop (binAt h ((999 * binSum h + 999) / 1000))
/-- P50 (R234). -/
def p50 (h : Store Nat) : Option Nat := binTop (binAt h ((binSum h + 1) / 2))

/-- A value brought into a range. -/
def within (lo hi v : Nat) : Nat := if hi < v then hi else if v < lo then lo else v

/-- t of R234: the calibrated timeout in 8 ns units. -/
def State.calTo (s : State) (h : Store Nat) : Nat :=
  match p999 h with
  | some p => (s.clampTo ((p * s.fld ⟨0x60000, 14, 4⟩ + 31) / 32)).toNat
  | none => s.fld ⟨0x60004, 16, 16⟩

/-- BACKOFF of R234. -/
def State.calBo (s : State) (h : Store Nat) : Nat :=
  match p50 h with
  | some p => within (s.fld ⟨0x60008, 12, 12⟩) 0xFFF ((p * s.fld ⟨0x60000, 18, 4⟩ + 31) / 32)
  | none => 0xFFF

/-- SNP_TO falls by a quarter of the gap at most, and rises at once (R234). -/
def stepTo (old t : Nat) : Nat := if old ≤ t ∨ old - t < 4 then t else old - (old - t) / 4

/-- The engine visits an agent at a window's end; the block's histogram and the number of agents updated go along
(R234, R236). -/
def State.calVisit (s : State) (a : AgentId) (acc : Store Nat × Nat) : State × (Store Nat × Nat) :=
  let h := s.hist a
  let x := s.agent a
  let n := binSum h.bins
  if x.st ≠ .active ∧ x.st ≠ .leaving then (s.setHist a { h with bins := [] }, acc)
  else if n < s.fld ⟨0x60010, 0, 12⟩ then
    (if h.age = s.fld ⟨0x60010, 12, 4⟩ then s.setHist a { h with bins := [] } else s.setHist a { h with age := h.age + 1 }, acc)
  else
    let en := decide (s.fld ⟨0x60000, 0, 1⟩ = 1)
    let s' := if en then s.setAgent a { x with snpTo := BitVec.ofNat 16 (stepTo x.snpTo.toNat (s.calTo h.bins)),
                                               backoff := BitVec.ofNat 16 (s.calBo h.bins) } else s
    (s'.setHist a Hist.empty,
     (List.range 26).foldl (fun m b => Store.set 0 m b (Store.get 0 m b + Store.get 0 h.bins b)) acc.1, acc.2 + (if en then 1 else 0))

/-- The agents a window's end can change, in ascending order: those with a table entry or a histogram. -/
def State.calAgents (s : State) : List AgentId :=
  ((List.range 4096).filter (fun n => s.agents.any (fun e => decide (e.1 = n)) || s.hists.any (fun e => decide (e.1 = n)))).map (BitVec.ofNat 12)

/-- A sample of an agent is added to its histogram (R233). -/
def State.calAdd (s : State) (a : AgentId) (rtt : Nat) : State :=
  s.setHist a { s.hist a with bins := addSample (s.hist a).bins rtt }

/-- What the engine reads from a slice's queue: a sample, or a gap marker, which adds nothing (R262). -/
def State.calTake (s : State) : Obs (AgentId × Nat × Nat) → State
  | .item (a, rtt, _) => s.calAdd a rtt
  | .gap _ => s

/-- An entry belongs to the window in progress: a sample stamped before its end, or a gap marker (R232). -/
def State.calDue (s : State) : Obs (AgentId × Nat × Nat) → Bool
  | .item (_, _, t) => decide (t < s.calAt)
  | .gap _ => true

/-- CALIBRATION_SAMPLE (R231, R233): the head of a slice's queue reaches the engine; one that belongs to a window that has
not begun waits for the end of the one in progress (R232). A read of the empty queue gives the last value read (R261). -/
def execCalibrationSample (i : SliceId) (s : State) : Host.Outcome State Fault Refusal :=
  if s.mode = .hold then .next s
  else
    match (s.sl i).calQ with
    | [] => .next ((s.sl i).calLast.toList.foldl State.calTake (s.underrun (.slice i) 47))
    | e :: rest =>
      if s.calDue e then .next ((s.modSl i (fun x => { x with calQ := rest, calLast := some e })).calTake e) else .next s

/-- The samples in a slice's queue that belong to the window that ends (R232). -/
def State.calDrain (s : State) (i : SliceId) : State :=
  let due := (s.sl i).calQ.filter s.calDue
  due.foldl State.calTake (s.modSl i (fun x => { x with
    calQ := x.calQ.filter (fun e => !s.calDue e), calLast := due.getLast?.orElse (fun _ => x.calLast) }))

/-- DECAY of every slice (R235). -/
def State.setDecay (s : State) (v : Nat) : State :=
  allSlices.foldl (fun s i => s.putF (Fld.sl i 0x288 8 16) (within (s.fld ⟨0x6000C, 8, 8⟩) (s.fld ⟨0x6000C, 16, 16⟩) v)) s

/-- P50B and DECAY from the samples of the `n` updated agents: with none, and so while CAL_CTRL.EN is 0, nothing is written
(R235, R236). -/
def State.calBlock (s : State) (h : Store Nat) (n : Nat) : State :=
  if n = 0 then s
  else
    let s := s.putF ⟨0x60018, 0, 16⟩ ((p50 h).getD 0xFFFF)
    s.setDecay (match p50 h with
      | some p => (p * s.fld ⟨0x6000C, 0, 8⟩ + 999) / 1000
      | none => s.fld ⟨0x6000C, 16, 16⟩)

/-- CALIBRATION_WINDOW_END (R232, R234, R235): the visits, the block-wide median, and the next window, of the length that
CAL_CTRL.WIN then names. -/
def execCalibrationWindowEnd (s : State) : Host.Outcome State Fault Refusal :=
  if s.mode = .hold ∨ s.mode = .off ∨ s.mode = .rest then .next s
  else
    let s := allSlices.foldl State.calDrain (s.reach s.calAt)
    let r := s.calAgents.foldl (fun (r : State × (Store Nat × Nat)) a => r.1.calVisit a r.2) (s, ([], 0))
    let s := r.1.calBlock r.2.1 r.2.2
    let s := ((s.wrapF ⟨0x60014, 0, 16⟩).putF ⟨0x60014, 16, 12⟩ r.2.2).putF ⟨0x60018, 16, 16⟩ 0
    let w := 1000 * s.fld ⟨0x60000, 4, 10⟩
    .next (({ s with calAt := (s.now / w + 1) * w, modes := { s.modes with calWindows := s.modes.calWindows + 1 } }).fire (evG 28))

end Sys2Proof.Machine
end

