-- ==== Sys2Proof/Machine/Header.lean ====
section
/-! DEFINITION. The cast-store header, the agent image and the clear of the region (R64, R80 to R82), and the words of an
agent-table entry (R52). -/

namespace Sys2Proof.Machine

/-! ## Agent-table words (R52) -/

/-- STATE of an entry. -/
def AState.code : AState → Nat
  | .absent => 0 | .joining => 1 | .active => 2 | .leaving => 3 | .quarantine => 4 | .fenced => 5

/-- A bit as a number. -/
def b2n (b : Bool) : Nat := if b then 1 else 0

/-- Word 0 of an entry. -/
def Agent.word0 (x : Agent) : Nat :=
  x.st.code + 8 * x.la.toNat + 2 ^ 8 * b2n x.perfRead + 2 ^ 9 * b2n x.hatom + 2 ^ 10 * b2n x.rsv + 2 ^ 11 * b2n x.sweep
    + 2 ^ 12 * x.result.toNat + 2 ^ 16 * x.tocnt.toNat

/-- Word n of an entry; word 3 reads 0. -/
def Agent.word (x : Agent) (n : Nat) : Word32 :=
  match n with
  | 0 => BitVec.ofNat 32 x.word0
  | 1 => BitVec.ofNat 32 (x.snpTo.toNat + 2 ^ 16 * x.backoff.toNat)
  | 2 => x.held
  | _ => 0

/-! ## The agent image (R64) -/

/-- Image entry of an agent: its words 0 to 2, and a fourth word of 0. -/
def Agent.image (x : Agent) : Nat := (x.word 0).toNat + 2 ^ 32 * (x.word 1).toNat + 2 ^ 64 * (x.word 2).toNat

/-- The n-th bucket of the agent image: entries 4n to 4n + 3. -/
def State.imageLine (s : State) (n : Nat) : LineData :=
  BitVec.ofNat 512 (((List.range 4).map (fun j => (s.agent (BitVec.ofNat 12 (4 * n + j))).image * 2 ^ (128 * j))).sum)

/-- The agent image, bucket 0 of partitions 1 to 1,024. -/
def State.image (s : State) : List LineData := (List.range 1024).map s.imageLine

/-- ACRC of an image (R81). -/
def imageCrc (image : List LineData) : BitVec 32 := crc32c (image.flatMap bytesOfLine)

/-- The 16-byte entry of agent a in an image. -/
def imageEntry (image : List LineData) (a : Nat) : Nat := (image.getD (a / 4) 0).toNat / 2 ^ (128 * (a % 4)) % 2 ^ 128

/-! ## The header (R81) -/

/-- A header's first 60 bytes. -/
def headerLow (size annex gen dsc clean tstamp acrc : Nat) : LineData :=
  BitVec.ofNat 512 (0x43415354 + 2 ^ 32 + size * 2 ^ 40 + annex * 2 ^ 48 + gen * 2 ^ 56 + dsc * 2 ^ 64 + clean * 2 ^ 96
    + tstamp * 2 ^ 128 + acrc * 2 ^ 192)

/-- A header with its CRC. -/
def withHdrCrc (d : LineData) : LineData := putBytes d 60 4 (crc32c ((bytesOfLine d).take 60)).toNat

/-- The agent image as it stands in the cast store: what the block has written there (R64). -/
def State.storedImage (s : State) : List LineData :=
  (List.range 1024).map (fun n => (Store.get none s.castMem (s.castAddr (n + 1) 0).toNat).getD (s.imageLine n))

/-- The header as the block writes it now; ACRC is that of the image written before it (R64, R81). -/
def State.header (s : State) (clean : Bool) : LineData :=
  withHdrCrc (headerLow s.castSize (s.fld ⟨0x4C004, 4, 2⟩) s.gen s.cast.dsc.toNat (b2n clean) (s.now % 2 ^ 64)
    (if clean then (imageCrc s.storedImage).toNat else 0))

/-- A header as read matches the configuration and its own CRC (R82). -/
def State.headerOk (s : State) (rd : BucketRead) : Bool :=
  decide (rd.status = .ok) && decide (bytesNat rd.data 0 4 = 0x43415354) && decide (bytesNat rd.data 4 1 = 1)
    && decide (bytesNat rd.data 5 1 = s.castSize) && decide (bytesNat rd.data 6 1 = s.fld ⟨0x4C004, 4, 2⟩)
    && decide (bytesNat rd.data 60 4 = (crc32c ((bytesOfLine rd.data).take 60)).toNat)

/-! ## Writes of the header logic (R89, R432) -/

/-- A write of the header logic waits for MCMD at its bucket's port; it is held until it completes. -/
def State.hdrWrite (s : State) (l : Line) (d : LineData) : State :=
  let c : MCmd := { why := .header false, line := l, data := some (d, false), stag := s.castTag, held := none }
  let s := s.modMp (portOf l) (fun p => { p with waitq := p.waitq ++ [c] })
  { s with cast := { s.cast with writes := s.cast.writes + 1 } }

/-- A read of the header logic waits for MCMD (R82). -/
def State.hdrRead (s : State) (l : Line) : State :=
  s.modMp (portOf l) (fun p => { p with waitq := p.waitq ++ [{ why := .headerRd, line := l, data := none, stag := 0, held := none }] })

/-- The reads of a start (R64, R82): the header, and after a warm reset the agent image with it. -/
def State.startReads (s : State) : State :=
  let s := s.hdrRead (s.castAddr 0 0)
  if s.modes.afterWarm then (List.range 1024).foldl (fun s n => s.hdrRead (s.castAddr (n + 1) 0)) s else s

/-- The header is written. -/
def State.writeHeader (s : State) (clean : Bool) : State :=
  let s := s.hdrWrite (s.castAddr 0 0) (s.header clean)
  { s with cast := { s.cast with clean := clean } }

/-- The agent image is written (R64). -/
def State.writeImage (s : State) : State :=
  (List.range 1024).foldl (fun s n => s.hdrWrite (s.castAddr (n + 1) 0) (s.imageLine n)) s

/-! ## The clear (R82) -/

/-- The bucket a clear writes after bucket `pos` of the region: every record bucket, and the header bucket of every annex
slot; `none` after the last. -/
def State.clearNext (s : State) (pos : Nat) : Option Nat :=
  let p := pos / s.castP
  let k := pos % s.castP
  let n := if k < s.castN then k + 1 else if k = s.castN then k + 1 else k + 10
  if n ≤ s.castN ∨ (n - s.castN - 1) / 10 < s.annexSlots then some (p * s.castP + n)
  else if p + 1 < 4096 then some ((p + 1) * s.castP + 1) else none

/-- One write of a clear. The model has one outstanding at a time. DESIGN CHOICE, log 32. -/
def State.clearAt (s : State) (pos : Nat) : State :=
  let s := s.hdrWrite (BitVec.ofNat 40 (s.castLine0 + pos)) 0
  { s with cast := { s.cast with clear := some pos } }

/-- A clear starts: INIT is 1 while it runs, and GEN will be 1. -/
def State.clearStart (s : State) : State :=
  { s with cast := { s.cast with gen := 1, init := true } }.clearAt 1

/-- A write of the header logic is complete. A clear goes on; after its last write the header is written (R82). -/
def State.hdrDone (s : State) : State :=
  let s := { s with cast := { s.cast with writes := s.cast.writes - 1 } }
  match s.cast.clear with
  | none => s
  | some pos =>
    match s.clearNext pos with
    | some q => s.clearAt q
    | none => ({ s with cast := { s.cast with clear := none, init := false } }).writeHeader false

end Sys2Proof.Machine
end

