-- ==== Sys2Proof/Machine/Port.lean ====
section
/-! DEFINITION. A memory port and its home line buffer (chapters 6 and 8): lookup, allocation and replacement, protection,
absorption and write-through, write-backs, the flush, the commands waiting for MCMD, and easy-oar windows. -/

namespace Sys2Proof.Machine

/-! ## The bank (R160 to R164) -/

/-- The keys of the 16 ways of an HLB set, in ascending way order. -/
def hKeys (set : BitVec 10) : List Nat := (List.range 16).map (fun w => set.toNat * 16 + w)

/-- The way at a key. -/
def Port.hway (p : Port) (k : Nat) : Option Way := Store.get none p.ways k

/-- A way replaced. -/
def Port.putHway (p : Port) (k : Nat) (w : Option Way) : Port := { p with ways := Store.set none p.ways k w }

/-- The CLEAN or DIRTY way that holds a line (R160). -/
def Port.findHway (p : Port) (l : Line) : Option (Nat × Way) :=
  (hKeys (hsetOf l)).findSome? (fun k => match p.hway k with
    | some w => if w.line = l ∧ w.st ≠ .mirror ∧ !w.lost then some (k, w) else none
    | none => none)

/-- The key of a DIRTY way's mirror, or of a MIRROR way's primary (R161, R162). -/
def mateKey (k : Nat) (w : Way) : Nat := k / 16 * 16 + w.mway.toNat

/-- The MIRROR of a DIRTY way at key k: the same line and data (R162). -/
def Way.mirrorOf (w : Way) (k : Nat) : Way :=
  { w with st := .mirror, mway := BitVec.ofNat 4 k, wb := 0, redirty := false, inv := false, rew := none, pf := false }

/-- A DIRTY way is written, and its MIRROR with it (R162). -/
def Port.putDirty (p : Port) (k : Nat) (w : Way) : Port := (p.putHway k (some w)).putHway (mateKey k w) (some (w.mirrorOf k))

/-- A way is written; with its mirror if it is DIRTY. -/
def Port.putWay (p : Port) (k : Nat) (w : Way) : Port := if w.st = .dirty then p.putDirty k w else p.putHway k (some w)

/-- A way becomes INVALID, with its mirror if it is DIRTY (R167). -/
def Port.dropWay (p : Port) (k : Nat) (w : Way) : Port :=
  if w.st = .dirty then (p.putHway k none).putHway (mateKey k w) none else p.putHway k none

/-- The DIRTY ways of a set (R162). -/
def Port.dirtyIn (p : Port) (set : BitVec 10) : List (Nat × Way) :=
  (hKeys set).filterMap (fun k => match p.hway k with | some w => if w.st = .dirty then some (k, w) else none | none => none)

/-- The ways that are not INVALID, with their keys. -/
def Port.wayList (p : Port) : List (Nat × Way) := p.ways.filterMap (fun e => e.2.map (fun w => (e.1, w)))

/-- HLB_STAT.DIRTY (R185). -/
def Port.dirtyCnt (p : Port) : Nat := (p.wayList.filter (fun e => decide (e.2.st = .dirty))).length

/-- A way that a flush writes back: DIRTY, or CLEAN with PSN 1 (R176); not one whose address is unknown (R393). -/
def Way.owes (w : Way) : Bool := !w.lost && (decide (w.st = .dirty) || (decide (w.st = .clean) && w.psn))

/-- A node of the pseudo-LRU tree set (R164). -/
def setNode (b : BitVec 15) (n : Nat) (v : Bool) : BitVec 15 := if v then b ||| (1#15 <<< n) else b &&& ~~~ (1#15 <<< n)

/-- The pseudo-LRU after a use of way w: each node on its path points to the half without it (R164). -/
def plruUse (b : BitVec 15) (w : Nat) : BitVec 15 :=
  setNode (setNode (setNode (setNode b 0 (w / 8 % 2 = 0)) (1 + w / 8) (w / 4 % 2 = 0)) (3 + w / 4) (w / 2 % 2 = 0)) (7 + w / 2)
    (w % 2 = 0)

/-- The choice of the tree among eligible ways, from node n over the 2^d ways at `lo` (R164). -/
def plruPick (b : BitVec 15) (e : Nat → Bool) : Nat → Nat → Nat → Option Nat
  | 0, _, lo => if e lo then some lo else none
  | d + 1, n, lo =>
    let some_ (x : Nat) : Bool := (List.range (2 ^ d)).any (fun k => e (x + k))
    let up := if b.getLsbD n then some_ (lo + 2 ^ d) else !(some_ lo)
    if up then plruPick b e d (2 * n + 2) (lo + 2 ^ d) else plruPick b e d (2 * n + 1) lo

/-- The pseudo-LRU of a set after a use of the way at key k. -/
def Port.use (p : Port) (k : Nat) : Port :=
  { p with plru := Store.set 0 p.plru (k / 16) (plruUse (Store.get 0 p.plru (k / 16)) (k % 16)) }

/-- A demand command of a line: a READ, fill or write-through waiting or at the memory side (R165). -/
def MCmd.demandOf (c : MCmd) (l : Line) : Bool :=
  decide (c.line = l) && (match c.why with
    | .demandRead _ | .fill _ _ _ | .through _ _ _ | .psnWrite _ _ _ => true
    | _ => false)

/-- The commands waiting for MCMD or outstanding at the memory side. -/
def Port.cmds (p : Port) : List MCmd := p.waitq ++ p.outq.filterMap (·.2)

/-- A command or a fill of a line waits or is outstanding, prefetches and write-backs with them (R164). -/
def MCmd.touches (c : MCmd) (l : Line) : Bool :=
  c.demandOf l || (decide (c.line = l) && (match c.why with | .prefetch _ | .back _ _ => true | _ => false))

/-- A command or fill is pending for a line (R164). -/
def Port.touched (p : Port) (l : Line) : Bool := p.cmds.any (fun c => c.touches l) || p.intake.any (fun c => decide (c.line = l))

/-- A command for a line has started and is unfinished (R165). -/
def Port.pendingLine (p : Port) (l : Line) : Bool := p.cmds.any (fun c => c.demandOf l)

/-- An eligible CLEAN way (R164). -/
def Port.eligible (p : Port) (skip : List Nat) (k : Nat) : Bool :=
  !skip.contains k && (match p.hway k with
    | some w => decide (w.st = .clean) && !w.psn && decide (w.wb = 0) && !p.touched w.line
    | none => false)

/-- The way a new line takes in a set, none of `skip` (R164). -/
def Port.hvictim (p : Port) (set : BitVec 10) (skip : List Nat) : Option Nat :=
  match (hKeys set).find? (fun k => (p.hway k).isNone && !skip.contains k) with
  | some k => some k
  | none =>
    match (hKeys set).find? (fun k => p.eligible skip k && ((p.hway k).map (·.pf)).getD false) with
    | some k => some k
    | none =>
      (plruPick (Store.get 0 p.plru set.toNat) (fun w => p.eligible skip (set.toNat * 16 + w)) 4 0 0).map
        (fun w => set.toNat * 16 + w)

/-- A CLEAN way as it is filled. -/
def Way.fresh (l : Line) (d : LineData) (psn pf : Bool) : Way :=
  { line := l, st := .clean, mway := 0, lwr := 0, epoch := 0, redirty := false, psn := psn, pf := pf, wb := 0, inv := false,
    rew := none, lost := false, stag := 0, data := d }

/-- A line is allocated CLEAN where a way can be taken (R163). -/
def Port.fillClean (p : Port) (l : Line) (d : LineData) (psn pf : Bool) : Port :=
  if (p.findHway l).isSome then p
  else
    match p.hvictim (hsetOf l) [] with
    | some k => (p.putHway k (some (Way.fresh l d psn pf))).use k
    | none => p

/-! ## Answers of a port (R108, R109, R136) -/

/-- PORT_RPT of a command; in HOLD a port sends none (R391). -/
def State.sendRpt (s : State) (c : MemCmd) (st : MemStatus) (hd : Bool) : State :=
  if s.held then s else
  s.rptTo c.slice { htag := c.htag, tag := c.tag, line := c.line, st := st, hdirty := hd }

/-- The DATA beat of a READ or ATOMIC on the read switch (R109). -/
def State.sendBeat (s : State) (m : PortId) (c : MemCmd) (d : LineData) (psn : Bool) (rpt : Option (SliceId × PortRpt)) : State :=
  s.modMp m (fun p => { p with rsIn := p.rsIn ++ [{ la := c.la, rpt := rpt, drs :=
    { agent := c.agent, tag := c.rtag, htag := c.htag.getD 0, parts := c.parts, psn := psn, data := d,
      kind := c.kind } }] })

/-- DATA and PORT_RPT of a READ or ATOMIC; with PARTS 0 the report follows the beat into the egress queue (R136). -/
def State.memAnswer (s : State) (m : PortId) (c : MemCmd) (d : LineData) (psn : Bool) (st : MemStatus) (hd : Bool) : State :=
  let r : PortRpt := { htag := c.htag, tag := c.tag, line := c.line, st := st, hdirty := hd }
  if c.parts = 0 then s.sendBeat m c d psn (some (c.slice, r)) else (s.sendBeat m c d psn none).sendRpt c st hd

/-- HDIRTY of a line: DIRTY in the bank (R108). -/
def Port.hdirty (p : Port) (l : Line) : Bool := ((p.findHway l).map (fun e => decide (e.2.st = .dirty))).getD false

/-! ## Protection (R174) -/

/-- A DIRTY way fails in both copies: PSN is set (R174). -/
def State.poisonWay (s : State) (m : PortId) (k : Nat) (w : Way) : State :=
  let s := s.modMp m (fun p => p.putWay k { w with psn := true })
  ((((s.incF (Fld.mp m 0x434 0 16)).fire (evMp m 7)).classPsn).count (cMp m 24) 1)

/-- A recovery from a mirror, or of a mirror (R174). -/
def State.mirrorFix (s : State) (m : PortId) : State :=
  ((((s.incF (Fld.mp m 0x430 16 16)).fire (evMp m 6)).classRec).count (cMp m 22) 1)

/-- The words of a way are checked as it is read; the flag says that a CLEAN way was lost, so that the command misses
(R174). -/
def State.readWay (s : State) (m : PortId) (k : Nat) (w : Way) (par : Parity) : State × Bool :=
  match par with
  | .good => (s, false)
  | .badOne =>
    if w.st = .dirty then (s.mirrorFix m, false)
    else
      let s := ((s.incF (Fld.mp m 0x430 0 16)).fire (evMp m 8)).count (cMp m 23) 1
      if w.psn then (s, false) else (s.modMp m (fun p => p.putHway k none), true)
  | .badBoth =>
    if w.st = .dirty then (s.poisonWay m k w, false)
    else
      let s := ((s.incF (Fld.mp m 0x430 0 16)).fire (evMp m 8)).count (cMp m 23) 1
      if w.psn then (s, false) else (s.modMp m (fun p => p.putHway k none), true)

/-! ## Write-backs (R167, R168, R170) -/

/-- The precedence of a reason among write-backs (R170). -/
def WbWhy.rank : WbWhy → Nat
  | .sweep => 0 | .flush => 1 | .pressure => 2 | .maint => 3 | .age => 4

/-- A write-back of a line that waits for MCMD. -/
def Port.queuedBack (p : Port) (l : Line) : Option MCmd :=
  p.waitq.find? (fun c => decide (c.line = l) && (match c.why with | .back _ _ => true | _ => false))

/-- WBF: a write-back is in flight, or waits to be (R161). -/
def Port.wbf (p : Port) (w : Way) : Bool := decide (w.wb ≠ 0) || (p.queuedBack w.line).isSome

/-- A write-back command. -/
def backCmd (why : WbWhy) (again : Bool) (l : Line) : MCmd :=
  { why := .back why again, line := l, data := none, stag := 0, held := none }

/-- A write-back is queued; one that waits for a reason of lower precedence takes the new one's place. -/
def Port.queueBack (p : Port) (why : WbWhy) (l : Line) : Port :=
  match p.queuedBack l with
  | none => { p with waitq := p.waitq ++ [backCmd why false l] }
  | some c =>
    match c.why with
    | .back y again => if why.rank < y.rank then { p with waitq := p.waitq.erase c ++ [backCmd why again l] } else p
    | _ => p

/-- A way is to be written back: at once, or when the write-backs in flight have completed if a write has landed since
(R172). -/
def Port.startBack (p : Port) (why : WbWhy) (k : Nat) (w : Way) : Port :=
  if w.wb = 0 then p.queueBack why w.line
  else if w.redirty then
    p.putHway k (some { w with rew := match w.rew with | some y => some (if why.rank < y.rank then why else y) | none => some why })
  else p

/-- The age of a DIRTY way in epochs (R169). -/
def Port.ageOf (p : Port) (w : Way) : Nat := (p.epoch - w.epoch).toNat

/-- A pressure write-back of one DIRTY way with WBF 0, of the greatest age, the lowest-numbered among equals (R163). -/
def Port.pressure (p : Port) (set : BitVec 10) : Port :=
  let best := (p.dirtyIn set).foldl (fun (b : Option (Nat × Way)) e =>
    if p.wbf e.2 then b
    else match b with
      | some y => if p.ageOf y.2 < p.ageOf e.2 then some e else b
      | none => some e) none
  match best with
  | some (_, w) => p.queueBack .pressure w.line
  | none => p

/-- The level source FLUSHING follows HLB_STAT.FLUSHING. -/
def State.flushEv (s : State) (m : PortId) : State := s.evLevel (evMp m 11) (s.mp m).flushing

/-- A flush ends when no DIRTY way remains; a disable when no poisoned CLEAN way remains either (R168, R180). -/
def State.settle (s : State) (m : PortId) : State :=
  let s := s.modMp m (fun p => { p with flushing := p.flushing && p.wayList.any (fun e => decide (e.2.st = .dirty) && !e.2.lost) })
  let s := s.flushEv m
  let p := s.mp m
  if p.hmode = .disabling ∧ p.wayList.all (fun e => !e.2.owes) then
    (s.modMp m (fun p => { p with hmode := .disabled })).fire (evMp m 10)
  else s

/-- A flush trigger (R168): every DIRTY way, and every poisoned CLEAN way, is written back. A line that becomes DIRTY later, the
trigger having ended, is not among them, though FLUSHING reads 1 till no DIRTY way is left: DESIGN CHOICE, log 63. -/
def State.flush (s : State) (m : PortId) : State :=
  let s := s.modMp m (fun p => { (p.wayList.foldl (fun p e => if e.2.owes then p.startBack .flush e.1 e.2 else p) p) with
    flushing := true })
  s.settle m

/-- A maintenance operation is over when its visits are done and none of its write-backs is left (R179). -/
def Maint.over (t : Maint) : Bool := decide ((if t.setway && !t.all then 1 else 1024) ≤ t.next) && decide (t.waits = [])

/-- BUSY clears and DONE sets (R179). -/
def State.maintEnd (s : State) (m : PortId) : State :=
  match (s.mp m).maint with
  | none => s
  | some t =>
    if t.over then
      (((s.modMp m (fun p => { p with maint := none })).putF (Fld.mp m 0x410 5 1) 0).putF (Fld.mp m 0x410 6 1) 1).fire (evMp m 9)
    else s

/-- A line's write-backs are done: maintenance waits for it no longer. -/
def Port.unwait (p : Port) (l : Line) : Port :=
  { p with maint := p.maint.map (fun t => { t with waits := t.waits.filter (fun x => !decide (x = l)) }) }

/-- A write-back report to the line's home slice (R167); in HOLD none is sent (R391). -/
def State.backRpt (s : State) (l : Line) : State :=
  if s.held then s
  else s.rptTo (s.edgeHome (8 + (portOf l).toNat / 4) (bucketOf l)) { htag := none, tag := 0, line := l, st := .ok, hdirty := false }

/-- A queued reissue leaves the fences that wait for it (R172). -/
def Port.reissued (p : Port) (l : Line) : Port :=
  { p with fences := p.fences.map (fun f => { f with rews := f.rews.filter (fun x => !decide (x = l)) }) }

/-- One write-back of a line is subtracted from its count (R230). -/
def Port.subBack (p : Port) (k : Nat) (w : Way) : Port := p.putHway k (some { w with wb := w.wb - 1 })

/-- A flush trigger runs: FLUSHING, or a disable that has poisoned CLEAN ways left (R168, R180). -/
def Port.cleaning (p : Port) : Bool := p.flushing || decide (p.hmode = .disabling)

/-- A write-back of a line counts as complete (R167). One that CLEAN_INV asked for, completing with REDIRTY 1, leaves the line
DIRTY and is done with it (R179). -/
def State.backDone (s : State) (m : PortId) (l : Line) : State :=
  match (s.mp m).findHway l with
  | none => s
  | some (k, w) =>
    let w := { w with wb := w.wb - 1 }
    if w.wb ≠ 0 then s.modMp m (fun p => p.putHway k (some w))
    else if w.redirty then
      let s := s.modMp m (fun p => (p.putHway k (some { w with redirty := false, rew := none, inv := w.inv && w.rew.isSome })).reissued l)
      match w.rew with
      | some y => s.modMp m (fun p => p.queueBack y l)
      | none => (s.modMp m (fun p => if p.cleaning then (p.unwait l).queueBack .flush l else p.unwait l)).maintEnd m
    else
      let s := s.modMp m (fun p =>
        let p := ({ p with waitq := match p.queuedBack l with | some c => p.waitq.erase c | none => p.waitq }.unwait l).reissued l
        if w.psn then p.dropWay k w
        else if w.st = .dirty then
          (if w.inv then p.dropWay k w else (p.dropWay k w).putHway k (some { w with st := .clean, mway := 0, inv := false, rew := none }))
        else p.putHway k (some { w with rew := none }))
      let s := if w.st = .dirty ∨ w.psn then s.backRpt l else s
      (s.settle m).maintEnd m

/-! ## Absorption and write-through (R111, R163, R197) -/

/-- The port absorbs a write whose region's EARLY_ACK was `early` when the port accepted it (R163, R198). -/
def State.absorbs (s : State) (m : PortId) (early : Bool) : Bool :=
  decide ((s.mp m).hmode = .enabled) && decide (s.level < 4) && decide (s.mode ≠ .quiesce) && early

/-- The DIRTY and MIRROR ways an absorbed write uses: `none` where no way qualifies or the dirty limit is reached (R162,
R163). The pseudo-LRU is updated for the first way before the mirror's is chosen: DESIGN CHOICE, log 62. -/
def Port.absorbPlan (p : Port) (l : Line) : Option (Nat × Nat) :=
  let set := hsetOf l
  match p.findHway l with
  | some (k, w) =>
    if w.st = .dirty then some (k, mateKey k w)
    else if 6 ≤ (p.dirtyIn set).length then none
    else ((p.use k).hvictim set [k]).map (fun km => (k, km))
  | none =>
    if 6 ≤ (p.dirtyIn set).length then none
    else
      match p.hvictim set [] with
      | some k => ((p.use k).hvictim set [k]).map (fun km => (k, km))
      | none => none

/-- The set's dirty limit turns a write to a line into a write-through (R163). -/
def Port.limited (p : Port) (l : Line) : Bool := !p.hdirty l && decide (6 ≤ (p.dirtyIn (hsetOf l)).length)

/-- LWR after a write (R163). -/
def nextLwr (old : Option Way) (a : AgentId) : AgentId :=
  match old with
  | some w => if w.st = .dirty ∧ w.lwr ≠ a then 0xFFF else a
  | none => a

/-- A demand command has used a way: the pseudo-LRU, and PF clears (R161, R164). -/
def State.useWay (s : State) (m : PortId) (k : Nat) (w : Way) : State :=
  let s := s.modMp m (fun p => p.use k)
  if w.pf then
    ((s.modMp m (fun p => p.putHway k (some { w with pf := false }))).incF (Fld.mp m 0x438 16 16)).count (cMp m 19) 1
  else s

/-- A write lands in the bank: DIRTY in way k with its mirror in way km (R163). -/
def State.absorb (s : State) (m : PortId) (l : Line) (d : LineData) (psn : Bool) (a : AgentId) (k km : Nat) : State :=
  let old := ((s.mp m).findHway l).map (·.2)
  let s := match old with | some w => s.useWay m k w | none => s
  let wb := (old.map (·.wb)).getD 0
  let w : Way := { line := l, st := .dirty, mway := BitVec.ofNat 4 km, lwr := nextLwr old a, epoch := (s.mp m).epoch,
                   redirty := decide (wb ≠ 0), psn := psn, pf := false, wb := wb, inv := (old.map (·.inv)).getD false,
                   rew := (old.map (·.rew)).getD none, lost := false, stag := s.streamTag l, data := d }
  let fresh := (old.map (fun v => decide (v.st ≠ HSt.dirty))).getD true
  let s := s.modMp m (fun p => (if fresh then (p.use k).use km else p.use k).putDirty k w)
  let s := if wb ≠ 0 ∧ (old.map (·.redirty)).getD false = false then s.count (cMp m 17) 1 else s
  s.count (cMp m 10) 1

/-- A write is written through: the hit way is updated, and the line waits for MCMD (R163, R167, R176). Landing while WBF is 1
it sets REDIRTY; when it is issued it counts as its line's write-back (`Port.issueThrough`). -/
def State.writeThrough (s : State) (m : PortId) (c : MemCmd) (d : LineData) (psn : Bool) (a : AgentId)
    (old : Option (LineData × Bool)) : State :=
  let hit : Option (Nat × Way) := if (s.mp m).hmode = .disabled then none else (s.mp m).findHway c.line
  let s := match hit with
    | some (k, w) =>
      let s := s.useWay m k w
      let dirty := decide (w.st = HSt.dirty)
      let w' : Way := { w with
        data := d, psn := psn, pf := false, redirty := w.redirty || decide (w.wb ≠ 0),
        lwr := if dirty then nextLwr (some w) a else w.lwr, epoch := if dirty then (s.mp m).epoch else w.epoch }
      s.modMp m (fun p => p.putWay k w')
    | none => s
  let x : MCmd := { why := if c.poison then .psnWrite c false false else .through c false old, line := c.line,
                    data := some (d, psn), stag := s.streamTag c.line, held := none }
  let s := s.modMp m (fun p => { p with waitq := p.waitq ++ [x] })
  s.count (cMp m 11) 1

/-- The whole line a command writes, and its poison, land under R111 and R163. `old` is the old value an ATOMIC
returns, `early` the region's EARLY_ACK as it was accepted. -/
def State.landWrite (s : State) (m : PortId) (c : MemCmd) (d : LineData) (psn : Bool) (old : Option (LineData × Bool))
    (early : Bool) : State :=
  let a : AgentId := if c.poison then 0xFFF else c.agent
  if s.absorbs m early then
    match (s.mp m).absorbPlan c.line with
    | some (k, km) =>
      let s := s.absorb m c.line d psn a k km
      (match old with
       | some (v, p) => s.memAnswer m c v p .ok true
       | none => s.sendRpt c .ok true)
    | none =>
      let s := if (s.mp m).limited c.line then s.modMp m (fun p => p.pressure (hsetOf c.line)) else s
      s.writeThrough m c d psn a old
  else s.writeThrough m c d psn a old

/-- The line of a WRITE_PARTIAL or an ATOMIC is at hand: the enabled bytes are merged (R119), or the atomic unit runs
(R176, R214). -/
def State.finishMerge (s : State) (m : PortId) (c : MemCmd) (w : WBeat) (d : LineData) (psn early : Bool) : State :=
  if c.op = .atomic then
    let s := s.count (cMp m 20) 1
    let r := atomRun c.aop c.aw c.aoff d w.w.data
    let hd := (s.mp m).hdirty c.line
    if psn then s.memAnswer m c r.1 true .poison hd
    else if w.psn then s.landWrite m c d true (some (r.1, false)) early
    else if atomWrites c.aop r.1.toNat (bytesNat w.w.data 0 (atomWidth c.aw)) then
      s.landWrite m c r.2 false (some (r.1, false)) early
    else s.memAnswer m c r.1 false .ok hd
  else (s.count (cMp m 21) 1).landWrite m c (mergeLine d w.w.data w.w.be) (psn || w.psn) none early

/-! ## Commands reaching the port (R163, R165, R183) -/

/-- The first command that may start, with the others, the earlier ones given to the test. -/
def pickCmd (ok : List MemCmd → MemCmd → Bool) : List MemCmd → List MemCmd → Option (MemCmd × List MemCmd)
  | _, [] => none
  | pre, c :: cs => if ok pre c then some (c, pre ++ cs) else pickCmd ok (pre ++ [c]) cs

/-- The beat of a command has come (R21, R109). -/
def Port.beatOf (p : Port) (c : MemCmd) : Option WBeat :=
  p.beats.find? (fun b => decide (b.slice = c.slice) && decide (b.tag = c.tag))

/-- The beats without that of a command. -/
def Port.takeBeat (p : Port) (c : MemCmd) : Port :=
  { p with beats := match p.beatOf c with | some b => p.beats.erase b | none => p.beats }

/-- No earlier command of the line is unfinished (R165). -/
def Port.inTurn (p : Port) (earlier : List MemCmd) (c : MemCmd) : Bool :=
  !earlier.any (fun e => decide (e.line = c.line)) && !p.pendingLine c.line

/-- A write of a whole line can be taken now: outside a drain and a window always; there only where it is absorbed
(R183). -/
def State.canWrite (s : State) (m : PortId) (c : MemCmd) : Bool :=
  decide ((s.mp m).win = .none) || (s.absorbs m (s.earlyAck c.line) && ((s.mp m).absorbPlan c.line).isSome)

/-- A WRITE_PARTIAL or ATOMIC can be taken now: a media fill waits among the commands for MCMD (R183). -/
def State.canMerge (s : State) (m : PortId) (c : MemCmd) : Bool :=
  decide ((s.mp m).hmode = .disabled) || ((s.mp m).findHway c.line).isNone || s.canWrite m c

/-- The READ of a line for a command joins the commands waiting for MCMD; a drain or window holds it (R183, R241). -/
def State.mediaRead (s : State) (m : PortId) (why : Purpose) (l : Line) : State :=
  let held := if (s.mp m).win = .none then none else some s.now
  let s := s.modMp m (fun p => { p with waitq := p.waitq ++ [{ why := why, line := l, data := none, stag := 0, held := held }] })
  if held.isSome then s.count (cMp m 28) 1 else s

/-- A write has reached a line: prefetch reads for it will be dropped (R165). -/
def Port.dropPrefetch (p : Port) (l : Line) : Port :=
  let f (c : MCmd) : MCmd := if c.line = l then (match c.why with | .prefetch _ => { c with why := .prefetch true } | _ => c) else c
  { p with waitq := p.waitq.map f, outq := p.outq.map (fun e => (e.1, e.2.map f)) }

/-- A prefetch read of a line that is still wanted. -/
def MCmd.prefetchOf (c : MCmd) (l : Line) : Bool := decide (c.line = l) && decide (c.why = .prefetch false)

/-- A demand READ is served from the prefetch read in flight for its line (R165), which is the READ's own from then on: DESIGN
CHOICE, log 61. -/
def Port.joinPrefetch (p : Port) (c : MemCmd) : Option Port :=
  if p.cmds.any (fun x => x.prefetchOf c.line) then
    let f (x : MCmd) : MCmd := if x.prefetchOf c.line then { x with why := .demandRead c } else x
    some { p with waitq := p.waitq.map f, outq := p.outq.map (fun e => (e.1, e.2.map f)) }
  else none

/-! ## Stride prefetcher (R177, R178) -/

/-- The page of a line (R177). -/
def pageOf (l : Line) : BitVec 34 := l.extractLsb' 6 34

/-- A tracker after a READ at an offset (R177). -/
def Tracker.step (t : Tracker) (off : BitVec 6) : Tracker :=
  let delta : Int := (off.toNat : Int) - (t.off.toNat : Int)
  if delta = t.stride ∧ delta ≠ 0 then { t with off := off, count := if 3 ≤ t.count then 3 else t.count + 1 }
  else { t with off := off, stride := delta, count := 1 }

/-- A demand READ updates its tracker; the tracker it saw, if there is one (R177). -/
def Port.track (p : Port) (a : AgentId) (l : Line) (hit : Bool) : Port × Option Tracker :=
  let off := l.extractLsb' 0 6
  match p.trackers.find? (fun t => decide (t.agent = a) && decide (t.page = pageOf l)) with
  | some t => ({ p with trackers := t.step off :: p.trackers.erase t }, some (t.step off))
  | none =>
    if hit then (p, none)
    else
      let t : Tracker := { agent := a, page := pageOf l, off := off, stride := 0, count := 0 }
      ({ p with trackers := t :: p.trackers.take 63 }, some t)

/-- The prefetch reads outstanding (R178). -/
def Port.prefetches (p : Port) : Nat :=
  (p.cmds.filter (fun c => match c.why with | .prefetch _ => true | _ => false)).length

/-- The lines a trained tracker names in the page (R178). -/
def strideLines (l : Line) (stride : Int) : List Line :=
  (List.range 4).filterMap (fun k =>
    let off : Int := (l.toNat % 64 : Nat) + (k + 1) * stride
    if 0 ≤ off ∧ off < 64 then some (BitVec.ofNat 40 (l.toNat / 64 * 64 + off.toNat)) else none)

/-- A media read of a line. -/
def MCmd.readsLine (c : MCmd) (l : Line) : Bool :=
  decide (c.line = l) && (match c.why with | .demandRead _ | .fill _ _ _ | .prefetch _ => true | _ => false)

/-- Prefetch reads may be issued, windows apart (R178, R180, R288). -/
def State.prefetchOn (s : State) (m : PortId) : Bool :=
  decide ((s.mp m).hmode = .enabled) && decide (s.fld (Fld.mp m 0x400 2 1) = 1) && decide (s.level = 0)

/-- Prefetch reads along a trained stride (R178). -/
def State.prefetchAlong (s : State) (m : PortId) (l : Line) (stride : Int) : State :=
  if s.prefetchOn m = false ∨ (s.mp m).win ≠ .none then s
  else
    (strideLines l stride).foldl (fun s x =>
      let p := s.mp m
      if portOf x = m ∧ (p.findHway x).isNone ∧ p.cmds.all (fun c => !c.readsLine x)
          ∧ p.intake.all (fun c => !(decide (c.line = x) && decide (c.op = .read))) ∧ p.prefetches < 8 then
        s.mediaRead m (.prefetch false) x
      else s) s

/-! ## Easy-oar windows (R237 to R240) -/

/-- The other port of a clock pair. -/
def pairOf (m : PortId) : PortId := m ^^^ 1

/-- A header on MCMD (R219). -/
def mcmdHeader (opc ctag field stag cast : Nat) : BitVec 64 :=
  BitVec.ofNat 64 (opc * 2 ^ 60 + ctag * 2 ^ 52 + field * 2 ^ 12 + stag * 2 ^ 4 + cast * 2 ^ 3)

/-- A port in drain has every answer, and a credit for WINDOW_GRANT (R239). -/
def Port.drained (p : Port) : Bool := p.outq.all (fun e => e.2.isNone) && p.mcmdC.spend.isSome

/-- WINDOW_GRANT is sent and the window opens (R239, R240). -/
def State.openWindow (s : State) (m : PortId) (wlen : Nat) (owner : Bool) : State :=
  let s := s.modMp m (fun p => { p with
    win := .window s.now wlen, winReq := if owner then none else p.winReq, mcmdC := p.mcmdC.spend.getD p.mcmdC,
    outq := Store.set none p.outq 0 (some { why := .grant, line := 0, data := none, stag := 0, held := none }),
    mcmdPin := some (mcmdHeader 8 0 (wlen * 2 ^ 29) 0 0) })
  let s := if owner then s.evLevel (evMp m 5) false else s
  (s.incF (Fld.mp m 0x108 0 16)).count (cMp m 27) 1

/-- DRAIN_END (R239): the last answer is in, and the window opens; on both ports of a pair together. -/
def State.drainEnd (s : State) (m : PortId) : State :=
  match (s.mp m).win with
  | .drain _ wlen pair owner =>
    if !(s.mp m).drained then s
    else if !pair then s.openWindow m wlen owner
    else
      match (s.mp (pairOf m)).win with
      | .drain _ _ _ own2 =>
        if (s.mp (pairOf m)).drained then (s.openWindow m wlen owner).openWindow (pairOf m) wlen own2 else s
      | _ => s.openWindow m wlen owner
  | _ => s

/-- A window ends, and the port resumes (R240). -/
def State.windowEnd (s : State) (m : PortId) : State := s.modMp m (fun p => { p with win := .none, winEnd := some s.now })

/-- An MRESP word or beat is discarded (R221). -/
def State.mpFormat (s : State) (m : PortId) : State := (s.incF (Fld.mp m 0x110 24 8)).fire (evMp m 12)

end Sys2Proof.Machine
end

