-- ==== Sys2Proof/Machine/Hlb.lean ====
section
/-! DEFINITION. The commands of a memory port (chapters 6 and 8): the four memory commands, cast-store commands, MCMD and the
answers of the memory side, windows, fences, the age engine, the scrub, maintenance, and disable and enable. -/

namespace Sys2Proof.Machine

/-! ## Tags (R175) -/

/-- A tag has been corrected or rebuilt (R175). -/
def State.tagFix (s : State) (m : PortId) : State := s.incF (Fld.mp m 0x434 16 16)

/-- What the code of a way's tag gives, where the way is in use (R175). -/
def State.tagFind (s : State) (m : PortId) (k : Nat) (w : Way) (f : HlbFind) : State :=
  match f with
  | .tagOne => s.tagFix m
  | .tagLost => if w.st = .clean then s.modMp m (fun p => p.putHway k none) else (s.tagFix m).classRec
  | .tagBoth =>
    if w.st = .clean then s else (s.modMp m (fun p => p.putHway k (some { w with lost := true }))).fatal 7 2 m.toNat 0
  | _ => s

/-- A command's lookup reads the tags of its line's set (R175); a bank that is DISABLED is never looked up (R180). -/
def State.lookTags (s : State) (m : PortId) (l : Line) (tags : List (BitVec 4 × HlbFind)) : State :=
  if (s.mp m).hmode = .disabled then s
  else tags.foldl (fun s e =>
    let k := (hsetOf l).toNat * 16 + e.1.toNat
    match (s.mp m).hway k with
    | some w => s.tagFind m k w e.2
    | none => s) s

/-! ## READ (R163, R177, R178) -/

/-- A demand READ has been seen: its tracker, and prefetch reads where it is trained (R177, R178). -/
def State.afterRead (s : State) (m : PortId) (c : MemCmd) (hit : Bool) : State :=
  let r := (s.mp m).track c.agent c.line hit
  let s := s.setMp m r.1
  match r.2 with
  | some t => if t.count = 3 then s.prefetchAlong m c.line t.stride else s
  | none => s

/-- A READ misses: it is served from the prefetch read in flight for its line, or reads the media (R165). -/
def State.readMiss (s : State) (m : PortId) (c : MemCmd) : State :=
  let s := s.count (cMp m 9) 1
  let s := match (s.mp m).joinPrefetch c with
    | some p => s.setMp m p
    | none => s.mediaRead m (.demandRead c) c.line
  s.afterRead m c false

/-- A demand READ at the port (R163, R174). -/
def State.demandRead (s : State) (m : PortId) (c : MemCmd) (par : Parity) : State :=
  let hit := if (s.mp m).hmode = .disabled then none else (s.mp m).findHway c.line
  match hit with
  | none => s.readMiss m c
  | some (k, w) =>
    let r := s.readWay m k w par
    if r.2 then r.1.readMiss m c
    else
      let w := ((r.1.mp m).hway k).getD w
      let s := (r.1.useWay m k w).count (cMp m 8) 1
      (s.memAnswer m c w.data w.psn (if w.psn then .poison else .ok) (decide (w.st = HSt.dirty))).afterRead m c true

/-- READ (R163). -/
def execRead (m : PortId) (par : Parity) (s : State) (tags : List (BitVec 4 × HlbFind) := []) : Host.Outcome State Fault Refusal :=
  let p := s.mp m
  match pickCmd (fun pre c => decide (c.op = MemOp.read) && p.inTurn pre c) [] p.intake with
  | none => .next s
  | some (c, rest) =>
    if !s.runs then .next s
    else
      let t := s.lookTags m c.line tags
      if t.held then .next t else .next ((t.modMp m (fun p => { p with intake := rest })).demandRead m c par)

/-! ## WRITE, WRITE_PARTIAL, ATOMIC (R119, R122, R163, R214, R387) -/

/-- A write leaves the intake with its beat; prefetch reads of its line will be dropped (R165). -/
def State.takeCmd (s : State) (m : PortId) (c : MemCmd) (rest : List MemCmd) : State :=
  s.modMp m (fun p => { (p.takeBeat c).dropPrefetch c.line with intake := rest })

/-- WRITE (R163): its beat's line, or zeros with PSN 1 for a poisoning WRITE (R387). -/
def execWrite (m : PortId) (s : State) (tags : List (BitVec 4 × HlbFind) := []) : Host.Outcome State Fault Refusal :=
  let p := s.mp m
  match pickCmd (fun pre c => decide (c.op = MemOp.write) && p.inTurn pre c && (c.poison || (p.beatOf c).isSome) && s.canWrite m c)
      [] p.intake with
  | none => .next s
  | some (c, rest) =>
    if s.runs then
      let s := s.lookTags m c.line tags
      if s.held then .next s else
      let d : LineData × Bool := if c.poison then (0, true) else match p.beatOf c with | some b => (b.w.data, b.psn) | none => (0, true)
      .next ((s.takeCmd m c rest).landWrite m c d.1 d.2 none (s.earlyAck c.line))
    else .next s

/-- The line of a merge is read from the bank, or from the media (R119, R122, R163). -/
def State.merge (s : State) (m : PortId) (c : MemCmd) (w : WBeat) (par : Parity) : State :=
  let hit := if (s.mp m).hmode = .disabled then none else (s.mp m).findHway c.line
  match hit with
  | none => s.mediaRead m (.fill c w (s.earlyAck c.line)) c.line
  | some (k, v) =>
    let r := s.readWay m k v par
    if r.2 then r.1.mediaRead m (.fill c w (s.earlyAck c.line)) c.line
    else
      let v := ((r.1.mp m).hway k).getD v
      (r.1.useWay m k v).finishMerge m c w v.data v.psn (s.earlyAck c.line)

/-- WRITE_PARTIAL (R119): a byte enable of all ones is a WRITE, one of all zeros writes nothing. -/
def execWritePartial (m : PortId) (par : Parity) (s : State) (tags : List (BitVec 4 × HlbFind) := []) :
    Host.Outcome State Fault Refusal :=
  let p := s.mp m
  let ready (c : MemCmd) : Bool := match p.beatOf c with
    | some b => if b.w.be = 0 then true else if b.w.be = BitVec.allOnes 64 then s.canWrite m c else s.canMerge m c
    | none => false
  match pickCmd (fun pre c => decide (c.op = MemOp.wpartial) && p.inTurn pre c && ready c) [] p.intake with
  | none => .next s
  | some (c, rest) =>
    match s.runs, p.beatOf c with
    | true, some b =>
      let s := s.lookTags m c.line tags
      if s.held then .next s else
      let s := s.takeCmd m c rest
      if b.w.be = 0 then .next (s.sendRpt c .ok ((s.mp m).hdirty c.line))
      else if b.w.be = BitVec.allOnes 64 then .next (s.landWrite m c b.w.data b.psn none (s.earlyAck c.line))
      else .next (s.merge m c b par)
    | _, _ => .next s

/-- The atomic unit waits for the fill of an ATOMIC (R215). -/
def Port.atomBusy (p : Port) : Bool :=
  p.cmds.any (fun c => match c.why with | .fill q _ _ => decide (q.op = .atomic) | _ => false)

/-- ATOMIC (R122, R214), one at a time (R215). -/
def execAtomic (m : PortId) (par : Parity) (s : State) (tags : List (BitVec 4 × HlbFind) := []) : Host.Outcome State Fault Refusal :=
  let p := s.mp m
  match pickCmd (fun pre c => decide (c.op = MemOp.atomic) && !p.atomBusy && p.inTurn pre c && (p.beatOf c).isSome && s.canMerge m c) [] p.intake with
  | none => .next s
  | some (c, rest) =>
    match s.runs, p.beatOf c with
    | true, some b =>
      let s := s.lookTags m c.line tags
      if s.held then .next s else .next ((s.takeCmd m c rest).merge m c b par)
    | _, _ => .next s

/-! ## Cast-store commands (R80, R88, R89) -/

/-- Two accesses of a slice to one bucket of which one is a write (R88). -/
def castClash (a b : CastCmd) : Bool :=
  decide (a.slice = b.slice) && decide (a.addr = b.addr) && (a.data.isSome || b.data.isSome)

/-- The cast-store commands waiting for MCMD or outstanding. -/
def Port.castCmds (p : Port) : List CastCmd :=
  p.cmds.filterMap (fun c => match c.why with | .castRd x => some x | .castWr x => some x | _ => none)

/-- The first cast-store command that waits for no earlier access to its bucket (R88). -/
def pickCast (busy : List CastCmd) : List CastCmd → Option CastCmd
  | [] => none
  | c :: cs => if busy.any (castClash c) then pickCast (busy ++ [c]) cs else some c

/-- CAST_STORE_COMMAND (R89): the command waits for cast tokens. -/
def execCastStoreCommand (m : PortId) (s : State) : Host.Outcome State Fault Refusal :=
  let p := s.mp m
  match pickCast p.castCmds p.castIn with
  | none => .next s
  | some c =>
    let x : MCmd := { why := if c.data.isSome then .castWr c else .castRd c, line := c.addr,
                      data := c.data.map (fun d => (d, false)), stag := s.castTag, held := none }
    if s.runs then .next (s.modMp m (fun p => { p with castIn := p.castIn.erase c, waitq := p.waitq ++ [x] })) else .next s

/-! ## MCMD (R89, R170, R219, R220, R222, R226 to R228) -/

/-- A command carries a beat on MWDATA. -/
def MCmd.isWrite (c : MCmd) : Bool :=
  match c.why with
  | .through _ _ _ | .psnWrite _ _ _ | .back _ _ | .castWr _ | .header _ => true
  | _ => false

/-- A command reads a line from the memory side. -/
def MCmd.isRead (c : MCmd) : Bool :=
  match c.why with
  | .demandRead _ | .fill _ _ _ | .prefetch _ | .castRd _ | .headerRd => true
  | _ => false

/-- A command of the cast store (R219). -/
def MCmd.isCast (c : MCmd) : Bool :=
  match c.why with
  | .castRd _ | .castWr _ | .header _ | .headerRd => true
  | _ => false

/-- The write-backs that take at least one of every two MWDATA slots (R170). -/
def MCmd.urgentBack (c : MCmd) : Bool :=
  match c.why with
  | .back .sweep _ | .back .flush _ => true
  | _ => false

/-- The order of precedence (R89, R170): cast-store commands by their own, with the header logic's among the spill writes. -/
def MCmd.rank (c : MCmd) : Nat :=
  match c.why with
  | .restore | .save | .grant => 0
  | .castRd q | .castWr q => q.rank
  | .header _ | .headerRd => 2
  | .demandRead _ | .fill _ _ _ => 10
  | .through _ _ _ | .psnWrite _ _ _ => 11
  | .fence _ _ => 12
  | .back y _ => 12 + y.rank
  | .prefetch _ => 20

/-- The precedence with the share of sweep and flush write-backs, which go ahead of demand commands in it, in their own order
(R170). -/
def MCmd.rankIn (c : MCmd) (share : Bool) : Nat := if share && c.urgentBack then c.rank - 7 else c.rank

/-- A command keeps its place among the sweep write-backs and PERSIST_FENCEs that wait (R170): a fence follows every sweep
write-back queued before it, and no write-back queued after a fence passes it. -/
def Port.inPlace (p : Port) (c : MCmd) : Bool :=
  let before := p.waitq.takeWhile (fun x => !decide (x = c))
  match c.why with
  | .fence _ _ => !before.any (fun x => match x.why with | .back .sweep _ => true | _ => false)
  | .back _ _ => !before.any (fun x => match x.why with | .fence _ _ => true | _ => false)
  | _ => true

/-- The quarters of the cap that scans and the departure sweep have (R59, R89): a command of theirs spends a whole token's worth
of its quarter, 4 times 256. -/
def Port.quarterOk (p : Port) (c : MCmd) : Bool :=
  match c.why with
  | .castRd q | .castWr q => if q.rank = 3 then decide (1024 ≤ p.scanTokens) else if q.rank = 4 then decide (1024 ≤ p.sweepTokens) else true
  | _ => true

/-- A quarter's tokens after a command. -/
def Port.spendQuarter (p : Port) (c : MCmd) : Port :=
  match c.why with
  | .castRd q | .castWr q =>
    if q.rank = 3 then { p with scanTokens := p.scanTokens - 1024 }
    else if q.rank = 4 then { p with sweepTokens := p.sweepTokens - 1024 } else p
  | _ => p

/-- A command may be issued now: credits, tokens, its place, no drain or window, no save standing, and in HOLD only the flush
(R89, R170, R218, R227, R228, R239, R392, R393). -/
def State.canIssue (s : State) (m : PortId) (c : MCmd) : Bool :=
  let p := s.mp m
  p.mcmdC.spend.isSome && (!c.isWrite || p.mwdataC.spend.isSome) && (!c.isCast || decide (256 ≤ p.tokens)) && p.quarterOk c
    && decide (p.win = .none) && !p.restoring && !p.saving
    && (match c.why with
        | .restore => true
        | .save => !p.flushing && p.outq.all (fun e => ((e.2.map (fun x => !x.isWrite)).getD true))
            && p.waitq.all (fun x => !x.isWrite)
        | .back _ _ => !p.saved && ((s.runs && p.inPlace c) || (s.held && decide (s.fld ⟨0x70114, 0, 1⟩ = 1)))
        | .fence _ _ => !p.saved && s.runs && p.inPlace c
        | _ => !p.saved && s.runs)
    && (decide (c.why = .restore) || !p.waitq.any (fun x => decide (x.why = .restore)))

/-- The most urgent command, the first among equals. -/
def mostUrgent (share : Bool) : List MCmd → Option MCmd
  | [] => none
  | c :: cs =>
    match mostUrgent share cs with
    | none => some c
    | some b => if b.rankIn share < c.rankIn share then some b else some c

/-- The header of a command on MCMD (R219, R220). -/
def MCmd.header (c : MCmd) (ctag : Nat) : BitVec 64 :=
  let cast := if c.isCast then 1 else 0
  match c.why with
  | .save => mcmdHeader 5 ctag 0 0 0
  | .restore => mcmdHeader 6 ctag 0 0 0
  | .fence _ _ => mcmdHeader 7 ctag 0 0 0
  | .grant => mcmdHeader 8 ctag 0 0 0
  | _ => if c.isWrite then mcmdHeader 2 ctag c.line.toNat c.stag.toNat cast else mcmdHeader 1 ctag c.line.toNat 0 cast

/-- The counters of a command sent. -/
def State.countSent (s : State) (m : PortId) (c : MCmd) : State :=
  let s := if c.isRead then s.count (cMp m 0) 1 else if c.isWrite then s.count (cMp m 1) 1 else s
  let s := if c.isCast then s.count (cMp m 2) 1 else s
  match c.why with
  | .fence _ _ => s.count (cMp m 3) 1
  | .prefetch _ => (s.incF (Fld.mp m 0x438 0 16)).count (cMp m 18) 1
  | .back .age _ => (s.count (cMp m 12) 1).incF (Fld.mp m 0x43C 0 16)
  | .back .pressure _ => (s.count (cMp m 13) 1).incF (Fld.mp m 0x43C 16 16)
  | .back .sweep _ => s.count (cMp m 14) 1
  | .back .flush _ => s.count (cMp m 15) 1
  | .back .maint _ => s.count (cMp m 16) 1
  | _ => s

/-- A write-back of way k at its issue: WBF set, the count raised, REDIRTY cleared (R167); a reissue that waited for the one in
flight is no longer owed. -/
def Port.countBack (p : Port) (k : Nat) (w : Way) : Port :=
  (p.putHway k (some { w with wb := w.wb + 1, redirty := false, rew := none })).reissued w.line

/-- A write-through counts as its line's write-back, where the bank holds the line DIRTY or poisoned (R167, R176). -/
def Port.counts (p : Port) (w : Way) : Bool := decide (p.hmode ≠ .disabled) && (decide (w.st = HSt.dirty) || w.psn)

/-- A command at its issue (R167, R225): a write-back takes the way's data, poison and tag, that of a CLEAN line from the
region table, and it and a write-through that counts raise the line's count. -/
def State.issueWrite (s : State) (m : PortId) (c : MCmd) : State × MCmd :=
  match c.why, (s.mp m).findHway c.line with
  | .back _ _, some (k, w) =>
    (s.modMp m (fun p => p.countBack k w),
     { c with data := some (w.data, w.psn), stag := if w.st = .dirty then w.stag else s.streamTag c.line })
  | .through q _ old, some (k, w) =>
    if (s.mp m).counts w then (s.modMp m (fun p => p.countBack k w), { c with why := .through q true old }) else (s, c)
  | .psnWrite q false again, some (k, w) =>
    if (s.mp m).counts w then (s.modMp m (fun p => p.countBack k w), { c with why := .psnWrite q true again }) else (s, c)
  | _, _ => (s, c)

/-- A line of the cast-store region as the block knows it: `none` where it does not (R6). -/
def State.castPut (s : State) (l : Line) (d : Option LineData) : State := { s with castMem := Store.set none s.castMem l.toNat d }

/-- What a read of a line of the region returns: what the block last wrote there, where it has written it (R6, R223). -/
def State.castSeen (s : State) (l : Line) (rd : BucketRead) : BucketRead :=
  match Store.get none s.castMem l.toNat with
  | some d => if rd.status = .ok then { rd with data := d } else rd
  | none => rd

/-- A write-back's way is read and its words checked (R174): a CLEAN way that is lost needs no write-back any more. -/
def State.readBack (s : State) (m : PortId) (c : MCmd) (par : Parity) : State × Bool :=
  match c.why with
  | .back _ _ =>
    (match (s.mp m).findHway c.line with
     | some (k, w) => s.readWay m k w par
     | none => (s, true))
  | _ => (s, false)

/-- A command is sent with a CTAG and its credits (R222). -/
def State.issue (s : State) (m : PortId) (c : MCmd) (ctag : Nat) : State :=
  let r := s.issueWrite m c
  let x := r.2
  let s := if x.isWrite ∧ !x.isCast then r.1.castPut x.line none else r.1
  let s := s.crossing (.port m) 0
  let s := if c.isWrite then s.crossing (.port m) 1 else s
  let s := s.modMp m (fun p =>
    let q := { p with waitq := p.waitq.erase c }
    { q.spendQuarter c with
      outq := Store.set none q.outq ctag (some x), mcmdC := q.mcmdC.spend.getD q.mcmdC,
      mwdataC := if c.isWrite then q.mwdataC.spend.getD q.mwdataC else q.mwdataC,
      tokens := if c.isCast then q.tokens - 256 else q.tokens, mcmdPin := some (x.header ctag),
      mwdataPin := match x.data with | some d => some (BitVec.ofNat 8 ctag, d.1, d.2) | none => q.mwdataPin,
      wbLast := c.urgentBack,
      saving := q.saving || decide (c.why = .save), restoring := q.restoring || decide (c.why = .restore) })
  let s := s.countSent m c
  let s := match c.held with | some t => s.maxF (Fld.mp m 0x10C 0 32) (s.now - t) | none => s
  match c.why with
  | .through q _ (some (v, psn)) => s.sendBeat m q v psn none
  | _ => s

/-- A token counter gains CAP, and saturates at 4,096 (R89). -/
def gain (cap n : Nat) : Nat := if 4096 < n + cap then 4096 else n + cap

/-- Prefetch reads that wait and may not be issued any more are given up (R178): DESIGN CHOICE, log 70. -/
def Port.noPrefetch (p : Port) : Port :=
  { p with waitq := p.waitq.filter (fun c => match c.why with | .prefetch _ => false | _ => true) }

/-- A command leaves, unless it is the write-back of a way that a parity failure has just emptied (R174). -/
def State.issueChecked (s : State) (m : PortId) (c : MCmd) (t : Nat) (par : Parity) : State :=
  let r := s.readBack m c par
  if r.2 then (r.1.modMp m (fun p => { p with waitq := p.waitq.erase c }.unwait c.line)).maintEnd m else r.1.issue m c t

/-- MCMD_ISSUE (R89, R170): one memory cycle of the port. -/
def execMcmdIssue (m : PortId) (s : State) (par : Parity := .good) : Host.Outcome State Fault Refusal :=
  let cap := s.fld ⟨0x4C004, 8, 8⟩
  let s := s.modMp m (fun p =>
    { p with tokens := gain cap p.tokens, scanTokens := gain cap p.scanTokens, sweepTokens := gain cap p.sweepTokens })
  let s := if s.prefetchOn m then s else s.modMp m Port.noPrefetch
  let p := s.mp m
  let s := if p.waitq ≠ [] ∧ p.mcmdC.spend.isNone then s.count (cMp m 5) 1 else s
  let s := if p.waitq.any (fun c => c.isCast) ∧ p.tokens < 256 then s.count (cMp m 6) 1 else s
  let ready := p.waitq.filter (s.canIssue m)
  let share := !p.wbLast && ready.any MCmd.urgentBack
  match mostUrgent share ready, (List.range 256).find? (fun t => (Store.get none p.outq t).isNone) with
  | some c, some t => .next (s.issueChecked m c t par)
  | _, _ => .next (s.drainEnd m)

/-- A STREAM_RESTORE waits at a port, ahead of everything else (R227, R228). -/
def restoreCmd : MCmd := { why := .restore, line := 0, data := none, stag := 0, held := none }

/-! ## Answers of the memory side (R112, R176, R221, R229, R230, R432) -/

/-- The command an answer names, taken out of those outstanding. -/
def Port.answered (p : Port) (ctag : BitVec 8) (rd : Bool) : Option (MCmd × Port) :=
  match Store.get none p.outq ctag.toNat with
  | some c => if c.isRead = rd then some (c, { p with outq := Store.set none p.outq ctag.toNat none }) else none
  | none => none

/-- An MRDATA beat completes its command (R112, R163, R176, R178). -/
def State.beatFor (s : State) (m : PortId) (c : MCmd) (st : MemStatus) (d : LineData) : State :=
  let enabled := decide ((s.mp m).hmode = .enabled)
  match c.why with
  | .demandRead q =>
    let s := if enabled ∧ s.fld (Fld.mp m 0x400 1 1) = 1 ∧ st = .ok then s.modMp m (fun p => p.fillClean q.line d false false) else s
    s.memAnswer m q d (decide (st ≠ .ok)) st false
  | .fill q w early =>
    let psn := decide (st ≠ .ok)
    let s := if enabled then s.modMp m (fun p => p.fillClean q.line d psn false) else s
    s.finishMerge m q w d psn early
  | .prefetch drop =>
    if enabled ∧ drop = false ∧ st = .ok ∧ (s.mp m).intake.all (fun q => decide (q.line ≠ c.line) || decide (q.op = .read)) then
      s.modMp m (fun p => p.fillClean c.line d false true)
    else s
  | .castRd q =>
    let rd := s.castSeen q.addr { status := st, data := d }
    (s.inject (.port m) (.slice q.slice) 9 (Config.body 9 [q.transit, q.addr.toNat, MemStatus.code st]) (dataMsgs rd.data)).toInt q.slice
      (.castRd q.transit q.addr rd)
  | .headerRd => if st = .ok then s.castPut c.line (some (s.castSeen c.line { status := st, data := d }).data) else s
  | _ => s

/-- MRDATA_BEAT (R221). -/
def execMrdataBeat (m : PortId) (ctag : BitVec 8) (st : MemStatus) (d : LineData) (s : State) : Host.Outcome State Fault Refusal :=
  let s := s.crossing (.port m) 2
  match (s.mp m).answered ctag true with
  | none => .next (s.mpFormat m)
  | some (c, p) =>
    let s := s.setMp m p
    let s := if st ≠ .ok then s.count (cMp m 4) 1 else s
    let s := if st ≠ .ok ∧ !c.isCast then s.classPsn else s
    let s := if st = .error then (s.incF (Fld.mp m 0x110 0 8)).fire (evMp m 2) else s
    if s.held then .next s else .next ((s.beatFor m c st d).drainEnd m)

/-- A write that failed twice (R230, R432). -/
def State.wrErr (s : State) (m : PortId) : State := (((s.incF (Fld.mp m 0x110 8 8)).fire (evMp m 1)).classRec)

/-- The save or restore of a port's streams failed (R227, R228). -/
def State.streamErr (s : State) (m : PortId) : State := (s.incF (Fld.mp m 0x110 16 8)).fire (evMp m 0)

/-- A command is reissued once: it waits for MCMD again (R230, R432). -/
def State.reissue (s : State) (m : PortId) (c : MCmd) (why : Purpose) : State :=
  s.modMp m (fun p => { p with waitq := p.waitq ++ [{ c with why := why }] })

/-- A failed write-back, or a failed write-through that counted as one, is taken out of its line's count (R230). -/
def State.backFailed (s : State) (m : PortId) (l : Line) (redirty : Bool) : State :=
  match (s.mp m).findHway l with
  | some (k, w) =>
    s.modMp m (fun p =>
      let q := p.subBack k { w with redirty := w.redirty || redirty }
      if redirty && decide (w.wb ≤ 1) then
        (if p.cleaning then q.queueBack .flush l
         else if ((p.maint.map (fun t => t.waits.contains l)).getD false) then q.queueBack .maint l else q)
      else q)
  | none => s

/-- A fence report goes to its attachment over the Armature, and bounces at one that is gated (R202, R251, R266). -/
def State.fenceRpt (s : State) (m : PortId) (la : AttId) (f : FenceRpt) : State :=
  let s := s.inject (.port m) (.att la) 0xA (Config.body 0xA [f.entry.toNat, f.port.toNat, f.err.toNat]) []
  if s.attBounces la then s.bounceAt la (.rpt la f) else s.modAtt la (fun a => { a with reports := a.reports ++ [f] })

/-- A CMPL completes its command (R167, R221, R227, R228, R230, R240, R432). -/
def State.cmplFor (s : State) (m : PortId) (c : MCmd) (err : Bool) : State :=
  match c.why with
  | .through q counted _ =>
    let s := if counted then (if err then s.backFailed m q.line true else s.backDone m q.line) else s
    s.sendRpt q (if err then .error else .ok) ((s.mp m).hdirty q.line)
  | .psnWrite q counted again =>
    if err ∧ again = false then s.reissue m c (.psnWrite q counted true)
    else
      let s := if err then s.wrErr m else s
      let s := if counted then s.backDone m q.line else s
      s.sendRpt q .ok ((s.mp m).hdirty q.line)
  | .back why again =>
    if err ∧ again = false then (s.backFailed m c.line false).modMp m (fun p => { p with waitq := p.waitq ++ [backCmd why true c.line] })
    else (if err then s.wrErr m else s).backDone m c.line
  | .castWr q =>
    let s := (if err ∧ q.again then s.incF (Fld.mp m 0x110 8 8) else s).castPut q.addr (if err then none else q.data)
    let st : MemStatus := if err then .error else .ok
    (s.inject (.port m) (.slice q.slice) 9 (Config.body 9 [q.transit, q.addr.toNat, MemStatus.code st]) []).toInt q.slice (.castWr q st)
  | .header again =>
    if err ∧ again = false then s.reissue m c (.header true)
    else if err then ((s.castPut c.line none).incF (Fld.mp m 0x110 8 8)).fatal 12 2 m.toNat 0
    else (s.castPut c.line (c.data.map (·.1))).hdrDone
  | .fence la entry =>
    let s := s.modMp m (fun p => { p with fences := p.fences.filter (fun f => !(decide (f.la = la) && decide (f.entry = entry))) })
    s.fenceRpt m la { entry := entry, port := m, err := err }
  | .save =>
    if err then (s.modMp m (fun p => { p with saving := false, saveErr := true })).streamErr m
    else
      let stays := s.modes.restReqd && decide (s.modes.restPhase = 4)
      s.modMp m (fun p => { p with saving := false, saved := true, waitq := if stays then p.waitq else restoreCmd :: p.waitq })
  | .restore =>
    let s := s.modMp m (fun p => { p with restoring := false, saved := false })
    if err then s.streamErr m else s
  | .grant =>
    let s := if err then s.incF (Fld.mp m 0x108 28 4) else s
    (match (s.mp m).win with | .window _ _ => s.windowEnd m | _ => s)
  | _ => s

/-- HOLD_STAT once every port has flushed (R393). -/
def State.holdSettle (s : State) : State :=
  if s.held ∧ s.fld ⟨0x70114, 0, 1⟩ = 1 ∧ allPorts.all (fun m => !(s.mp m).flushing) then
    (s.putF ⟨0x70114, 0, 1⟩ 0).putF ⟨0x70114, 1, 1⟩ 1
  else s

/-- What a completion does in HOLD: write-backs and windows end, answers for flows are recorded only (R392, R393). -/
def State.cmplHeld (s : State) (m : PortId) (c : MCmd) (err : Bool) : State :=
  match c.why with
  | .back .flush _ => (s.cmplFor m c err).holdSettle
  | .back _ _ | .through _ true _ => if err then s.backFailed m c.line true else (s.backDone m c.line).holdSettle
  | .psnWrite _ true _ => (s.backDone m c.line).holdSettle
  | .grant => s.cmplFor m c err
  | .castWr _ | .header _ => s.castPut c.line (if err then none else c.data.map (·.1))
  | _ => s

/-- CMPL (R221): POISON is handled as ERROR. -/
def execCmpl (m : PortId) (ctag : BitVec 8) (st : MemStatus) (s : State) : Host.Outcome State Fault Refusal :=
  let s := s.crossing (.port m) 3
  match (s.mp m).answered ctag false with
  | none => .next (s.mpFormat m)
  | some (c, p) =>
    let s := s.setMp m p
    let err := decide (st ≠ .ok)
    if s.held then .next ((s.cmplHeld m c err).drainEnd m) else .next ((s.cmplFor m c err).drainEnd m)

/-- UNLISTED_MRESP_WORD (R221): an opcode other than CMPL and WINDOW_REQ is discarded and counted. -/
def execUnlistedMrespWord (m : PortId) (opc : BitVec 4) (s : State) : Host.Outcome State Fault Refusal :=
  let s := s.crossing (.port m) 3
  if opc = 1 ∨ opc = 2 then .next s else .next (s.mpFormat m)

/-! ## Windows (R237 to R240) -/

/-- WINDOW_REQ (R237): WLEN 0 or above 2,000 is taken as 2,000 ns. -/
def execWindowReq (m : PortId) (_kind : WKind) (pair : Bool) (wlen : BitVec 11) (s : State) : Host.Outcome State Fault Refusal :=
  let s := s.crossing (.port m) 3
  if (s.mp m).win ≠ .none then .next (s.mpFormat m)
  else
    let n := if wlen = 0 ∨ 2000 < wlen.toNat then 2000 else wlen.toNat
    .next (s.modMp m (fun p => { p with winReq := some (match p.winReq with
      | some r => { r with wlen := n, pair := pair }
      | none => { wlen := n, pair := pair, since := s.now, starv := false }) }))

/-- The ports in drain or in a window (R238). -/
def State.windowsOpen (s : State) : Nat := (allPorts.filter (fun m => decide ((s.mp m).win ≠ .none))).length

/-- The media reads of a port, outstanding and waiting (R238). -/
def Port.mediaReads (p : Port) : Nat := (p.cmds.filter (fun c => c.isRead && !c.isCast)).length

/-- The conditions of R238 on one port that a grant would put in drain. -/
def State.portGrantable (s : State) (m : PortId) (starv : Bool) : Bool :=
  let p := s.mp m
  decide (p.win = .none) && decide (p.hmode = .enabled) && !p.flushing
    && (starv || ((match p.winEnd with | some t => decide (t + 1000 * s.fld ⟨0x60020, 4, 10⟩ ≤ s.now) | none => true)
      && decide (p.mediaReads ≤ s.fld ⟨0x60020, 22, 8⟩)))

/-- A pending request meets every condition (R238); one for a PAIR meets conditions 5 and 6 on both ports: DESIGN CHOICE, log 66. -/
def State.grantable (s : State) (m : PortId) (r : WinReq) : Bool :=
  (decide (s.mode = .serve) || decide (s.mode = .shed)) && !s.modes.restReqd && (r.starv || decide (s.level ≤ 3))
    && decide (s.windowsOpen + (if r.pair then 2 else 1) ≤ s.fld ⟨0x60020, 0, 4⟩)
    && s.portGrantable m r.starv && (!r.pair || s.portGrantable (pairOf m) r.starv)

/-- The request the arbiter grants: starving ones first, then the oldest, then the lower port number (R238). -/
def State.winPick (s : State) : Option (PortId × WinReq) :=
  allPorts.foldl (fun (b : Option (PortId × WinReq)) m =>
    match (s.mp m).winReq with
    | none => b
    | some r =>
      if !s.grantable m r then b
      else match b with
        | none => some (m, r)
        | some (_, y) =>
          if y.starv then (if r.starv ∧ r.since < y.since then some (m, r) else b)
          else if r.starv ∨ r.since < y.since then some (m, r) else b) none

/-- A port enters drain: the media reads that wait are held (R239, R241). Its request stays pending till the window opens, and
CAL_WIN_STAT.PENDING counts it: DESIGN CHOICE, log 64. -/
def State.drainStart (s : State) (m : PortId) (wlen : Nat) (pair owner : Bool) : State :=
  let n := ((s.mp m).waitq.filter (fun c => c.isRead && !c.isCast)).length
  let s := s.modMp m (fun p => { p with
    win := .drain s.now wlen pair owner,
    waitq := p.waitq.map (fun c => if c.isRead && !c.isCast && c.held.isNone then { c with held := some s.now } else c) })
  s.count (cMp m 28) n

/-- WINDOW_ARBITER_GRANT (R238, R239). -/
def execWindowArbiterGrant (s : State) : Host.Outcome State Fault Refusal :=
  match s.winPick with
  | none => .next s
  | some (m, r) =>
    let s := s.drainStart m r.wlen r.pair true
    let s := if r.pair then s.drainStart (pairOf m) r.wlen true false else s
    .next (s.drainEnd m)

/-- WINDOW_REQUEST_STARVING (R238): pending for STARVE µs. -/
def execWindowRequestStarving (m : PortId) (s : State) : Host.Outcome State Fault Refusal :=
  match (s.mp m).winReq with
  | none => .next s
  | some r =>
    if r.starv then .next s
    else
      let s := s.reach (r.since + 1000 * s.fld ⟨0x60024, 0, 16⟩)
      .next ((s.modMp m (fun p => { p with winReq := some { r with starv := true } })).evLevel (evMp m 5) true)

/-- A grant is abandoned: the port resumes and the request stays pending (R239). -/
def State.drainDrop (s : State) (m : PortId) : State :=
  ((s.modMp m (fun p => { p with win := .none })).incF (Fld.mp m 0x108 16 6)).fire (evMp m 4)

/-- DRAIN_LIMIT_EXPIRY (R239): a last answer that has come by then wins. An abandoned grant of a PAIR counts on both ports:
DESIGN CHOICE, log 65. -/
def execDrainLimitExpiry (m : PortId) (s : State) : Host.Outcome State Fault Refusal :=
  match (s.mp m).win with
  | .drain t _ pair _ =>
    let s := (s.reach (t + 8 * s.fld ⟨0x60020, 14, 8⟩)).drainEnd m
    (match (s.mp m).win with
     | .drain _ _ _ _ =>
       let s := s.drainDrop m
       if pair then
         (match (s.mp (pairOf m)).win with
          | .drain _ _ _ _ => .next (s.drainDrop (pairOf m))
          | _ => .next s)
       else .next s
     | _ => .next s)
  | _ => .next s

/-- WINDOW_LIMIT_EXPIRY (R240): the window reaches O + WLEN without its CMPL. -/
def execWindowLimitExpiry (m : PortId) (s : State) : Host.Outcome State Fault Refusal :=
  match (s.mp m).win with
  | .window o wlen =>
    let s := (s.reach (o + wlen)).windowEnd m
    .next ((s.incF (Fld.mp m 0x108 22 6)).fire (evMp m 3))
  | _ => .next s

/-! ## The writer sweep (R171, R172, R202) -/

/-- SWEEP_REQUEST (R171): a fence joins the sweep while one of the 64 places is free. -/
def execSweepRequest (m : PortId) (s : State) : Host.Outcome State Fault Refusal :=
  let p := s.mp m
  match p.sweepReqs with
  | [] => .next s
  | f :: rest =>
    if 64 ≤ p.fences.length then .next s
    else .next ((s.setMp m { p with sweepReqs := rest, fences := p.fences ++ [f] }).count (cMp m 25) 1)

/-- The places taken in the sweep write-back queue (R172). -/
def Port.sweepPlaces (p : Port) : Nat :=
  (p.waitq.filter (fun c => match c.why with | .back .sweep _ => true | .fence _ _ => true | _ => false)).length

/-- One set of the scan: its DIRTY ways that match a joined fence are written back; the lines to be reissued (R171,
R172). -/
def Port.sweepSet (p : Port) (set : BitVec 10) : Port × List Line :=
  let runs := p.fences.filter (fun f => decide (f.left ≠ 0))
  (p.dirtyIn set).foldl (fun (r : Port × List Line) e =>
    let w := e.2
    if w.lwr = 0xFFF ∨ runs.any (fun f => decide (f.agent = w.lwr)) then
      (if w.wb ≠ 0 ∧ w.redirty then (r.1.startBack .sweep e.1 w, r.2 ++ [w.line]) else (r.1.startBack .sweep e.1 w, r.2))
    else r) (p, [])

/-- SWEEP_STEP (R172). -/
def execSweepStep (m : PortId) (s : State) : Host.Outcome State Fault Refusal :=
  let p := s.mp m
  if p.fences.all (fun f => decide (f.left = 0)) ∨ 16 < p.sweepPlaces + 6 ∨ !s.runs then .next s
  else
    let r := p.sweepSet p.sweepPos
    .next (s.setMp m { r.1 with
      sweepPos := p.sweepPos + 1,
      fences := r.1.fences.map (fun f => if f.left = 0 then f else { f with left := f.left - 1, rews := f.rews ++ r.2 }) })

/-- FENCE_CLOSE (R172): a fence whose write-backs have been issued or queued ahead of it queues its PERSIST_FENCE. -/
def execFenceClose (m : PortId) (s : State) : Host.Outcome State Fault Refusal :=
  let p := s.mp m
  match p.fences.find? (fun f => decide (f.left = 0) && !f.closed && decide (f.rews = [])) with
  | none => .next s
  | some f =>
    if 16 ≤ p.sweepPlaces ∨ !s.runs then .next s
    else
      let x : MCmd := { why := .fence f.la f.entry, line := 0, data := none, stag := 0, held := none }
      .next (s.setMp m { p with
        waitq := p.waitq ++ [x], fences := p.fences.map (fun g => if g = f then { g with closed := true } else g) })

/-- FENCE_REPORT (R202, R204): the 32nd report sends the CMP, unless the agent was fenced, and frees the entry. -/
def execFenceReport (la : AttId) (s : State) : Host.Outcome State Fault Refusal :=
  match (s.att la).reports with
  | [] => .next s
  | r :: rest =>
    let s := s.modAtt la (fun a => { a with reports := rest })
    let s := if r.err then s.fire (evLa la 6) else s
    match Store.get none (s.att la).fences r.entry.toNat with
    | none => .next s
    | some f =>
      let f : FenceEntry := { f with ports := if r.port ∈ f.ports then f.ports else f.ports ++ [r.port], err := f.err || r.err }
      if 32 ≤ f.ports.length then
        let s := s.modAtt la (fun a => { a with fences := Store.set none a.fences r.entry.toNat none })
        .next (if f.dead then s else s.fenceCmp la f f.err)
      else .next (s.modAtt la (fun a => { a with fences := Store.set none a.fences r.entry.toNat (some f) }))

/-! ## Age (R169) -/

/-- EPOCH_ADVANCE (R169): the epoch in progress ends after its period; the next lasts HLB_WB.PERIOD. -/
def execEpochAdvance (m : PortId) (s : State) : Host.Outcome State Fault Refusal :=
  if s.runs then
    let p := s.mp m
    let t := p.epochAt + 1000 * p.period
    let s := s.reach t
    .next (s.setMp m { p with epoch := p.epoch + 1, period := s.fld (Fld.mp m 0x404 0 10), epochAt := t, agePos := 0 })
  else .next s

/-- AGE_ENGINE_VISIT (R169): a window pauses the engine. -/
def execAgeEngineVisit (m : PortId) (s : State) : Host.Outcome State Fault Refusal :=
  let p := s.mp m
  let inWin : Bool := match p.win with | .window _ _ => true | _ => false
  if 1024 ≤ p.agePos ∨ inWin ∨ !s.runs then .next s
  else
    let lim := s.fld (Fld.mp m 0x404 10 4)
    let q := (p.dirtyIn (BitVec.ofNat 10 p.agePos)).foldl (fun p e =>
      if p.wbf e.2 = false ∧ lim ≤ p.ageOf e.2 then p.queueBack .age e.2.line else p) p
    .next (s.setMp m { q with agePos := p.agePos + 1 })

/-! ## The scrub (R174, R175) -/

/-- What the scrub finds in one way (R174, R175). -/
def State.hlbScrubWay (s : State) (m : PortId) (k : Nat) (f : HlbFind) : State :=
  match (s.mp m).hway k with
  | none => s
  | some w =>
    match f with
    | .dirtyWords .good => s
    | .dirtyWords .badOne => if w.st = .dirty then s.mirrorFix m else s
    | .dirtyWords .badBoth => if w.st = .dirty then s.poisonWay m k w else s
    | .mirrorWords => if w.st = .clean then s else s.mirrorFix m
    | _ => s.tagFind m k w f

/-- HLB_SCRUB_STEP (R174). -/
def execHlbScrubStep (m : PortId) (finds : List (BitVec 4 × HlbFind)) (s : State) : Host.Outcome State Fault Refusal :=
  if s.runs ∧ s.level < 2 ∧ (s.mp m).hmode ≠ .disabled then
    let set := (s.mp m).scrubSet
    let s := finds.foldl (fun s e => s.hlbScrubWay m (set.toNat * 16 + e.1.toNat) e.2) s
    .next (s.modMp m (fun p => { p with scrubSet := set + 1 }))
  else .next s

/-! ## Maintenance (R179) -/

/-- The line address in a pair of words at an offset of a port's window. -/
def State.boundReg (s : State) (m : PortId) (o : Nat) : Line :=
  BitVec.ofNat 40 (s.fld (Fld.mp m o 0 32) + s.fld (Fld.mp m (o + 4) 0 8) * 2 ^ 32)

/-- HLB_MAINT.START (R179): ignored while BUSY is 1. -/
def State.maintStart (s : State) (m : PortId) : State :=
  if (s.mp m).maint.isSome then s
  else
    let t : Maint := { op := BitVec.ofNat 2 (s.fld (Fld.mp m 0x410 0 2)), setway := decide (s.fld (Fld.mp m 0x410 2 1) = 1),
                       all := decide (s.fld (Fld.mp m 0x410 3 1) = 1), lo := s.boundReg m 0x418, hi := s.boundReg m 0x420,
                       set := BitVec.ofNat 10 (s.fld (Fld.mp m 0x414 0 10)), way := BitVec.ofNat 4 (s.fld (Fld.mp m 0x414 10 4)),
                       next := 0, waits := [] }
    ((s.modMp m (fun p => { p with maint := some t })).putF (Fld.mp m 0x410 5 1) 1).putF (Fld.mp m 0x410 16 16) 0

/-- HLB_MAINT_START (R179): OP, MODE and ALL are written and START with them; OP 0b11 is stored as 0b00. -/
def execHlbMaintStart (m : PortId) (op : BitVec 2) (setway all : Bool) (s : State) : Host.Outcome State Fault Refusal :=
  .next (s.regMp m (fun s =>
    let s := s.putF (Fld.mp m 0x410 0 2) (if op = 3 then 0 else op.toNat)
    let s := s.putF (Fld.mp m 0x410 2 1) (if setway then 1 else 0)
    (s.putF (Fld.mp m 0x410 3 1) (if all then 1 else 0)).maintStart m))

/-- The operation at one way (R179). -/
def State.maintWay (s : State) (m : PortId) (t : Maint) (k : Nat) : State :=
  match (s.mp m).hway k with
  | none => s
  | some w =>
    let inRange := t.setway || (decide (t.lo ≤ w.line) && decide (w.line < t.hi))
    let back (inv : Bool) : State := s.modMp m (fun p =>
      let w' : Way := { w with inv := w.inv || inv }
      let p := (p.putHway k (some w')).startBack .maint k w'
      { p with maint := p.maint.map (fun t => { t with waits := if w.line ∈ t.waits then t.waits else t.waits ++ [w.line] }) })
    if !inRange then s
    else
      match t.op.toNat with
      | 0 => if w.owes then back false else s
      | 1 => if w.st = .clean ∧ w.psn = false then s.modMp m (fun p => p.putHway k none) else s.incF (Fld.mp m 0x410 16 16)
      | _ => if w.owes then back true else if w.st = .clean then s.modMp m (fun p => p.putHway k none) else s

/-- A line command is pending in a set (R179). -/
def Port.busySet (p : Port) (set : BitVec 10) : Bool :=
  p.cmds.any (fun c => decide (hsetOf c.line = set) && c.demandOf c.line) || p.intake.any (fun c => decide (hsetOf c.line = set))

/-- HLB_MAINT_VISIT (R179): a visit waits for the commands pending in its set. -/
def execHlbMaintVisit (m : PortId) (s : State) : Host.Outcome State Fault Refusal :=
  match (s.mp m).maint with
  | none => .next s
  | some t =>
    let single := t.setway && !t.all
    let set : BitVec 10 := if single then t.set else BitVec.ofNat 10 t.next
    let last := if single then 1 else 1024
    if last ≤ t.next ∨ (s.mp m).busySet set ∨ !s.runs then .next s
    else
      let keys := if single then [set.toNat * 16 + t.way.toNat] else hKeys set
      let s := keys.foldl (fun s k => s.maintWay m t k) s
      .next ((s.modMp m (fun p => { p with maint := p.maint.map (fun t => { t with next := t.next + 1 }) })).maintEnd m)

/-! ## Disable and enable (R180, R181) -/

/-- HLB_CTRL.EN written to 0 (R180). -/
def State.hlbDisable (s : State) (m : PortId) : State :=
  let s := s.putF (Fld.mp m 0x400 0 1) 0
  if (s.mp m).hmode = .enabled then (s.modMp m (fun p => { p with hmode := .disabling })).flush m else s

/-- HLB_CTRL.EN written to 1 (R180): a disable stops, its write-backs that have not been issued dropped with it. -/
def State.hlbEnable (s : State) (m : PortId) : State :=
  let s := s.putF (Fld.mp m 0x400 0 1) 1
  match (s.mp m).hmode with
  | .enabled => s
  | .disabling =>
    let keep := decide (4 ≤ s.level) || decide (s.mode = .quiesce)
    (s.modMp m (fun p => { p with
      hmode := .enabled, flushing := p.flushing && keep,
      waitq := if keep then p.waitq else p.waitq.filter (fun c => !(match c.why with | .back .flush _ => true | _ => false)) })).flushEv m
  | .disabled => s.modMp m (fun p => { p with hmode := .enabled })

/-- HLB_DISABLE (R180). -/
def execHlbDisable (m : PortId) (s : State) : Host.Outcome State Fault Refusal := .next (s.regMp m (fun s => s.hlbDisable m))

/-- HLB_ENABLE (R180). -/
def execHlbEnable (m : PortId) (s : State) : Host.Outcome State Fault Refusal := .next (s.regMp m (fun s => s.hlbEnable m))

end Sys2Proof.Machine
end

