-- ==== Sys2Proof/Machine/Modes.lean ====
section
/-! DEFINITION. Operating modes (chapters 3, 10, 17): QUIESCE and its drain, REST, shedding, resets and rails, and what the
header leads to at a start. -/

namespace Sys2Proof.Machine

/-! ## QUIESCE (R278, R280, R281) -/

/-- A trigger holds QUIESCE: L5, MODE_CTRL.QUIESCE, REST entry, a warm drain or a power-fail notice (R278). -/
def State.quiesceHeld (s : State) : Bool :=
  decide (s.level = 5) || decide (s.fld ⟨0x70000, 1, 1⟩ = 1) || s.modes.restReqd || s.modes.warm.isSome || s.modes.pwrFail

/-- SERVE or SHED, by the level. -/
def State.admitMode (s : State) : Mode := if s.level = 0 then .serve else .shed

/-- Every reservation is lost (R209, R281). -/
def State.noRsvs (s : State) : State := s.loseRsvAll (fun _ => true)

/-- QUIESCE begins: every reservation is lost, and the drain starts (R281). -/
def State.startDrain (s : State) : State :=
  let s := s.toMode .quiesce
  { s with modes := { s.modes with drainStep := 1, drained := false } }.noRsvs

/-- A trigger of QUIESCE arises (R278). -/
def State.enterQuiesce (s : State) : State :=
  match s.mode with
  | .serve | .shed => s.startDrain
  | _ => s

/-- Admission opens in SERVE or SHED; a trigger that still stands enters QUIESCE at once (R279). -/
def State.openAdmission (s : State) : State :=
  let s := s.writeHeader false
  let s := { s with modes := { s.modes with drained := false, drainStep := 0, restPhase := 0, cleanWr := false } }
  let s := s.toMode s.admitMode
  if s.quiesceHeld then s.enterQuiesce else s

/-- A trigger of QUIESCE has ended; with the last one the block returns to SERVE or SHED (R278). -/
def State.leaveQuiesce (s : State) : State :=
  if s.mode ≠ .quiesce ∨ s.quiesceHeld ∨ s.modes.restPhase ≠ 0 then s
  else
    let s := if s.modes.cleanWr then s.writeHeader false else s
    let s := { s with modes := { s.modes with drained := false, drainStep := 0, cleanWr := false } }
    s.toMode s.admitMode

/-- MODE_CTRL.QUIESCE written to 1. -/
def State.quiesceSet (s : State) : State := (s.putF ⟨0x70000, 1, 1⟩ 1).enterQuiesce
/-- MODE_CTRL.QUIESCE written to 0. -/
def State.quiesceClear (s : State) : State := (s.putF ⟨0x70000, 1, 1⟩ 0).leaveQuiesce

/-- QUIESCE_SET. -/
def execQuiesceSet (s : State) : Host.Outcome State Fault Refusal := if s.fwUp then .next s.quiesceSet else .next s
/-- QUIESCE_CLEAR. -/
def execQuiesceClear (s : State) : Host.Outcome State Fault Refusal := if s.fwUp then .next s.quiesceClear else .next s

/-! ## Resets (R414 to R416, R291, R292) -/

/-- The words that stand in the Plinth: the wake configuration, the timebase and the operating hours (R414). -/
def State.plinthRegs (s : State) : Store Word32 :=
  s.regs.filter (fun e => decide (e.1 = 0x70020) || (decide (0x30C00 ≤ e.1) && decide (e.1 < 0x30D08)))

/-- The lines of the cast-store region that a stop leaves known: the memory side keeps them (R292), but of a write without its
answer. -/
def State.castKept (s : State) : Store (Option LineData) :=
  allPorts.foldl (fun m p => (s.mp p).outq.foldl (fun m e => match e.2 with
    | some c => if c.isWrite && c.isCast then Store.set none m c.line.toNat none else m
    | none => m) m) s.castMem

/-- The epochs and the decay periods begin at the timebase's value (R169, R213): DESIGN CHOICE, log 60. -/
def State.startClocks (s : State) : State :=
  let s := allPorts.foldl (fun s m => s.modMp m (fun p => { p with epochAt := s.now })) s
  allSlices.foldl (fun s i => s.modSl i (fun x => { x with decayAt := s.now })) s

/-- Everything outside the Plinth takes its reset value (R414). Input levels stay what they are; windows are cut by the
timebase, which runs on; the cast store keeps what stands in it. -/
def State.resetCore (s : State) (m : Mode) : State :=
  { State.reset with
    pending := s.pending, plinth := s.plinth, regs := s.plinthRegs, freeCtr := s.freeCtr,
    calAt := (s.now / 1000000 + 1) * 1000000, castMem := s.castKept,
    boot := { Boot.reset with st := .held },
    modes := { Modes.reset with
      mode := m, coldPin := s.modes.coldPin, warmPin := s.modes.warmPin, aonPin := s.modes.aonPin, alert := s.modes.alert,
      bistBusy := s.modes.bistBusy, bistUndef := s.modes.bistUndef, railCore := s.modes.railCore,
      railSram := s.modes.railSram, railAon := s.modes.railAon } }.startClocks

/-- BOOT begins (R301, R416): with no valid root key it fails at once. -/
def State.bootBegin (s : State) : State :=
  let s := { s with boot := { Boot.reset with start := s.now }, modes := { s.modes with mode := .boot } }
  if s.plinth.keyValid then s
  else
    let s := (((s.putF ⟨0x1000, 0, 2⟩ 3).putF ⟨0x1000, 2, 4⟩ 0xB).putF ⟨0x1000, 6, 4⟩ 0xB)
    ({ s with boot := { s.boot with st := .failed } }).fatal 0xA 5 0 0

/-- The internal warm reset takes effect; BOOT begins now, or at the release of the input if that comes later (R415). The
fatal output stays until then (R395). `whole` says that its drain is complete: after any other the contents are discarded
(R292). -/
def State.warmEffect (s : State) (whole : Bool) : State :=
  let t := s.resetCore .boot
  let t := { t with modes := { t.modes with warmDone := true, afterWarm := whole } }
  if s.modes.warmPin then { t with pins := { t.pins with fatalOut := s.pins.fatalOut } }
  else ({ t with modes := { t.modes with warmDone := false } }).bootBegin

/-- Every port that has saved restores; a save not yet sent is dropped (R227, R283). -/
def State.undoSaves (s : State) : State :=
  allPorts.foldl (fun s m => s.modMp m (fun p =>
    let q := { p with waitq := p.waitq.filter (fun c => !decide (c.why = Purpose.save)), saveErr := false }
    if q.saved then { q with waitq := restoreCmd :: q.waitq } else q)) s

/-- REST entry stops at its step (R291): no refusal is counted. -/
def State.stopEntry (s : State) : State :=
  ({ s with modes := { s.modes with restReqd := false, restPhase := 0, restLimit := false, wakeLatch := 0 } }).undoSaves

/-- The clocks that exit from REST waits for are present: clk_core, clk_cox, clk_sense and every clk_memN (R286). -/
def State.clocksUp (s : State) : Bool :=
  ([0, 33, 39] ++ (List.range 16).map (17 + ·)).all (fun d => s.cox.clkPres.getLsbD d)

/-- A warm reset in REST takes effect once VCORE and the clocks are back, the clocks showing that VCORE is (R291). -/
def State.warmInRest (s : State) : State :=
  if s.mode = .rest ∧ s.modes.warm.isSome ∧ s.clocksUp then s.warmEffect true else s

/-- The wake output rises, and VCORE may no longer be removed (R286, R418). -/
def State.raiseWake (s : State) : State := { s with pins := { s.pins with wakeOut := true, coreOffOk := false } }

/-- A warm reset's drain runs (R291). -/
def State.warmDrain (s : State) : State := { s with modes := { s.modes with warm := some s.now } }

/-- vh_rst_warm_n is asserted (R291). -/
def State.warmReset (s : State) : State :=
  let s := { s with modes := { s.modes with warmPin := true } }
  if s.modes.warm.isSome ∨ s.modes.warmDone then s
  else if s.fld ⟨0x70000, 2, 1⟩ = 1 ∧ s.mode ≠ Mode.off then s.warmEffect false
  else
    match s.mode with
    | .serve | .shed => s.warmDrain.startDrain
    | .quiesce => if s.modes.restReqd then s.stopEntry.warmDrain else ({ s with modes := { s.modes with restPhase := 0 } }).warmDrain
    | .calibrate =>
      let s := s.agents.foldl (fun s e => if e.2.st = .joining then s.joinFail (BitVec.ofNat 12 e.1) else s) s
      s.warmDrain.startDrain
    | .rest => s.warmDrain.raiseWake.warmInRest
    | .hold | .boot => s.warmEffect false
    | .off => s

/-- WARM_RESET. -/
def execWarmReset (s : State) : Host.Outcome State Fault Refusal := .next s.warmReset

/-- WARM_LIMIT_EXPIRY (R291): WARM_LIM ms after the assertion the reset takes effect undrained. -/
def execWarmLimitExpiry (s : State) : Host.Outcome State Fault Refusal :=
  match s.modes.warm with
  | some t => if s.mode = .rest then .next s else .next ((s.reach (t + 1000000 * s.fld ⟨0x70008, 12, 8⟩)).warmEffect false)
  | none => .next s

/-- WARM_RESET_RELEASE (R415). -/
def execWarmResetRelease (s : State) : Host.Outcome State Fault Refusal :=
  let s := { s with modes := { s.modes with warmPin := false } }
  if s.modes.warmDone then
    .next ({ s with modes := { s.modes with warmDone := false }, pins := { s.pins with fatalOut := false } }).bootBegin
  else .next s

/-- COLD_RESET (R414): asserted with every rail good. In OFF the block stays OFF until the release. -/
def execColdReset (s : State) : Host.Outcome State Fault Refusal :=
  let t := s.resetCore (if s.mode = .off then Mode.off else Mode.boot)
  .next { t with modes := { t.modes with coldPin := true, railCore := true, railSram := true, railAon := true } }

/-- COLD_RESET_RELEASE (R278, R301, R422): the straps, the root key and the SVN floor are sampled, and BOOT begins, where every
rail is good and aon reset is released. -/
def execColdResetRelease (straps : BitVec 16) (keyHash : BitVec 384) (keyValid : Bool) (svnFloor : BitVec 16) (s : State) :
    Host.Outcome State Fault Refusal :=
  if !s.modes.coldPin then .next s
  else
    let s := { s with
      plinth := { s.plinth with straps := straps, keyHash := keyHash, keyValid := keyValid, svnFloor := svnFloor },
      modes := { s.modes with coldPin := false, bistUndef := false } }
    if s.modes.aonPin || !s.modes.railCore || !s.modes.railSram || !s.modes.railAon then .next s else .next s.bootBegin

/-- AON_RESET (R414): everything, the Plinth and the timebase included. -/
def execAonReset (s : State) : Host.Outcome State Fault Refusal :=
  let u : State := { s with plinth := Plinth.reset, regs := [] }
  let t := u.resetCore (if s.mode = .off then .off else .boot)
  .next { t with calAt := 1000000, modes := { t.modes with aonPin := true } }

/-- AON_RESET_RELEASE (R414): the Plinth and the timebase run from 0. -/
def execAonResetRelease (s : State) : Host.Outcome State Fault Refusal :=
  .next { s with modes := { s.modes with aonPin := false } }

/-- MBIST_START (R424): acts only under cold reset and outside REST; the arrays become undefined. -/
def execMbistStart (s : State) : Host.Outcome State Fault Refusal :=
  if s.modes.coldPin ∧ s.mode ≠ .rest then
    .next { s with
      modes := { s.modes with bistBusy := true, bistUndef := true }, pins := { s.pins with bistDone := false, bistFail := false } }
  else .next s

/-- MBIST_DONE (R424). -/
def execMbistDone (fail : Bool) (s : State) : Host.Outcome State Fault Refusal :=
  if s.modes.bistBusy then
    .next { s with modes := { s.modes with bistBusy := false }, pins := { s.pins with bistDone := true, bistFail := fail } }
  else .next s

/-! ## Power (R419, R420) -/

/-- VCORE may be removed (R418). -/
def State.raiseOff (s : State) : State := { s with pins := { s.pins with coreOffOk := true } }

/-- POWER_FAIL (R420). -/
def execPowerFail (s : State) : Host.Outcome State Fault Refusal :=
  if s.mode = .off then .next s
  else
    let s := { s with modes := { s.modes with pwrFail := true } }
    match s.mode with
    | .serve | .shed => .next s.startDrain
    | .quiesce => .next (if s.modes.drained && !s.modes.restReqd then s.raiseOff else s)
    | .boot | .calibrate | .hold => .next s.raiseOff
    | _ => .next s

/-- Power is lost: everything outside the Plinth, and the Plinth with VAON (R278, R292). -/
def State.powerOff (s : State) (aon : Bool) : State :=
  let s := if aon then { s with plinth := Plinth.reset, regs := [] } else s
  s.resetCore .off

/-- POWER_LOSS (R278, R419): VCORE may go in REST, until a wake ends the permission. -/
def execPowerLoss (rail : Rail) (s : State) : Host.Outcome State Fault Refusal :=
  match rail with
  | .vcore =>
    let t := { s with modes := { s.modes with railCore := false } }
    if s.mode = .rest ∧ s.pins.coreOffOk then .next { t with cox := { t.cox with clkPres := 0 } } else .next (t.powerOff false)
  | .vsram => .next (({ s with modes := { s.modes with railSram := false } }).powerOff false)
  | .vaon => .next (({ s with modes := { s.modes with railAon := false } }).powerOff true)

/-! ## The drain (R281) -/

/-- Admitted flows, waiters and escalated requests of a slice have run to release. -/
def Slice.flowsDone (x : Slice) : Bool :=
  decide (x.slotList = []) && decide (x.handing = []) && decide (x.chainList = []) && decide (x.escSlots = [])
    && decide (x.escPark = []) && decide (x.jobs = []) && decide (x.jobPark = []) && decide (x.recallQ = [])
    && decide (x.wb = []) && decide (x.new = []) && decide (x.rsp = []) && decide (x.int = [])

/-- No transit entry is in use in a slice, and no access to the cast store is outstanding. -/
def Slice.transitEmpty (x : Slice) : Bool := x.transit.all (fun e => e.2.isNone) && decide (x.locks = []) && decide (x.castQ = [])

/-- The entries of a slice that differ from their records: DIRTY 1 or CAST 0. -/
def Slice.owed (x : Slice) : List (Nat × Entry) :=
  x.dir.filterMap (fun p => match p.2 with
    | some e => if e.dirty || !e.cast then some (p.1, e) else none
    | none => none)

/-- Nothing of an admitted flow is left in any slice, nor a request on its way back to its edge (R281). -/
def State.flowsOut (s : State) : Bool :=
  allSlices.all (fun i => (s.sl i).flowsDone) && !s.mesh.bounced.any (fun b => match b with | .rehome _ => true | _ => false)

/-- One entry is written to the cast store through a transit entry and stays valid with CAST 1 and DIRTY 0. -/
def State.writeEntry (s : State) (i : SliceId) (p : Nat × Entry) : State :=
  match (s.sl i).freeTr with
  | none => s
  | some t =>
    let e := { p.2 with pin := false, head := none }
    let s := s.modSl i (fun x => x.putWay p.1 (some { p.2 with cast := true, dirty := false }))
    if e.cast then s.updateRec i t e true
    else
      let v : Transit := { Transit.mk0 .spill e with copied := true }
      (s.modSl i (fun x => ((x.putTr t (some v)).silUp e.line).recs e.line 1)).startInsert i t

/-- As many entries of a slice as there are transit entries free. -/
def State.writeEntries (s : State) (i : SliceId) : State := (s.sl i).owed.foldl (fun s p => s.writeEntry i p) s

/-- No bank holds a way to be flushed. -/
def State.flushed (s : State) : Bool := allPorts.all (fun m => (s.mp m).wayList.all (fun e => !e.2.owes) && !(s.mp m).flushing)

/-- DRAINED becomes 1 (R281). -/
def State.setDrained (s : State) : State :=
  let s := { s with modes := { s.modes with drained := true, drainStep := 7 } }
  if s.modes.pwrFail then s.raiseOff else s

/-- A step of the drain begins once the step before it is complete. The header that a drain in CALIBRATE writes keeps GEN and DSC,
so that the start's header is processed before it (R82, R291). -/
def State.drainOn (s : State) : State :=
  let step (n : Nat) (s : State) : State := { s with modes := { s.modes with drainStep := n } }
  match s.modes.drainStep with
  | 1 => if s.flowsOut then step 2 s else s
  | 2 => if s.hmap.moves.all (fun m => decide (m.st = .waiting)) then step 3 (allPorts.foldl State.flush s) else s
  | 3 => if s.flushed then step 4 s else s
  | 4 =>
    if allSlices.any (fun i => decide ((s.sl i).owed ≠ [])) then allSlices.foldl State.writeEntries s
    else if s.flowsOut ∧ s.flushed ∧ allSlices.all (fun i => (s.sl i).transitEmpty && decide ((s.sl i).moveHold = []))
        ∧ s.cast.done ∧ s.cast.init = false ∧ s.cast.writes = 0 then step 5 s.writeImage
    else s
  | 5 =>
    if s.cast.writes ≠ 0 then s
    else
      let s := step 6 (s.writeHeader true)
      { s with modes := { s.modes with cleanWr := true } }
  | 6 => if s.cast.writes ≠ 0 then s else s.setDrained
  | _ => s

/-- QUIESCE_DRAIN_ADVANCE (R281, R291, R394). -/
def execQuiesceDrainAdvance (s : State) : Host.Outcome State Fault Refusal :=
  if s.held ∧ s.modes.warm.isSome then .next (s.warmEffect false)
  else if s.mode = .quiesce ∧ s.modes.restLimit = false ∧ s.modes.restPhase ≠ 7 then
    let s := s.drainOn
    .next (if s.modes.drained ∧ s.modes.warm.isSome then s.warmEffect true else s)
  else .next s

/-! ## REST entry (R282, R283) -/

/-- MP_STAT.READY (R242). -/
def Port.ready (p : Port) : Bool :=
  !p.mcmdC.advOpen && !p.mwdataC.advOpen && !p.saving && !p.restoring && !p.saveErr
    && !p.waitq.any (fun c => decide (c.why = .restore) || decide (c.why = .save))

/-- The lowest of a list of units with a condition, as a refusal's reason, unit kind and number. -/
def firstOf (r kind n : Nat) (p : Nat → Bool) : List (Nat × Nat × Nat) :=
  match (List.range n).find? p with
  | some k => [(r, kind, k)]
  | none => []

/-- A slice holds something that keeps REST from being entered. -/
def State.sliceOut (s : State) (i : SliceId) : Bool :=
  let x := s.sl i
  decide (x.slotList ≠ []) || decide (x.chainList ≠ []) || decide (x.escSlots ≠ []) || decide (x.escPark ≠ []) || !x.transitEmpty
    || s.hmap.moves.any (fun m => decide (m.src = i) && decide (m.st ≠ .waiting))

/-- An attachment has an order-table or fence entry in use. -/
def Att.out (a : Att) : Bool := decide (a.order ≠ []) || a.fences.any (fun f => f.2.isSome)

/-- The reasons checked at the request (R283). -/
def State.restFails1 (s : State) : List (Nat × Nat × Nat) :=
  (if s.cox.upd.isSome || s.cox.restart then [(4, 3, 0)] else [])
    ++ (match s.events.srcs.find? (fun e => decide (e.2.targets ≠ 0) && (e.2.pending || e.2.active)) with
        | some e => [(5, 4, e.1)]
        | none => [])
    ++ (if s.counts.snap.busy.isSome then [(6, 5, 0)] else [])

/-- The reasons checked at step 3 (R283), in ascending order. -/
def State.restFails3 (s : State) : List (Nat × Nat × Nat) :=
  (match firstOf 1 0 64 (fun i => s.sliceOut (BitVec.ofNat 6 i)) with
   | [] => firstOf 1 1 16 (fun k => (s.att (BitVec.ofNat 4 k)).out)
   | l => l)
    ++ firstOf 2 2 32 (fun m => decide ((s.mp (BitVec.ofNat 5 m)).dirtyCnt ≠ 0))
    ++ firstOf 3 2 32 (fun m => decide ((s.mp (BitVec.ofNat 5 m)).win ≠ .none))
    ++ s.restFails1
    ++ firstOf 7 2 32 (fun m => !(s.mp (BitVec.ofNat 5 m)).ready)

/-- REST entry is refused (R283). -/
def State.refuseRest (s : State) (f : List (Nat × Nat × Nat)) : State :=
  match f with
  | [] => s
  | (r, kind, num) :: _ =>
    let s := s.stopEntry
    let s := ((s.incF ⟨0x70010, 0, 16⟩).putF ⟨0x70010, 16, 3⟩ r)
    let s := (s.putF ⟨0x70014, 0, 3⟩ kind).putF ⟨0x70014, 3, 11⟩ num
    let s := f.foldl (fun s x => s.putF ⟨0x70018, x.1, 1⟩ 1) s
    let s := (s.fire (evG 26)).logHw 4 num r
    s.leaveQuiesce

/-- REST_PHASE changes. -/
def State.phase (s : State) (n : BitVec 3) : State := { s with modes := { s.modes with restPhase := n } }

/-- MODE_CTRL.REST_REQ written to 1 (R279, R282). -/
def State.restReq (s : State) : State :=
  match s.mode with
  | .hold | .boot | .calibrate => s.incF ⟨0x70010, 19, 8⟩
  | .serve | .shed | .quiesce =>
    if s.modes.restReqd || s.modes.warm.isSome || decide (s.modes.restPhase = 7) then s
    else
      let s := { s with modes := { s.modes with restReqd := true, restStart := s.now, restLimit := false, wakeLatch := 0 } }
      let s := s.phase 1
      (match s.restFails1 with
       | [] => (s.phase 2).enterQuiesce.noRsvs
       | f => s.refuseRest f)
  | _ => s

/-- REST_REQ. -/
def execRestReq (s : State) : Host.Outcome State Fault Refusal := if s.portUp then .next s.restReq else .next s

/-- Step 3: refused, or every port saves (R227, R282). -/
def State.restCheck (s : State) : State :=
  match s.restFails3 with
  | [] =>
    allPorts.foldl (fun s m => s.modMp m (fun p => { p with
      waitq := p.waitq ++ [{ why := .save, line := 0, data := none, stag := 0, held := none }] })) (s.phase 4)
  | f => s.refuseRest f

/-- A memory port's queues are empty. -/
def Port.quiet (p : Port) : Bool :=
  decide (p.waitq = []) && p.outq.all (fun e => e.2.isNone) && decide (p.intake = []) && decide (p.castIn = []) && decide (p.beats = [])
    && decide (p.rsIn = [])

/-- Step 5, first the attachments: every gate that is OPEN begins to close (R264, R282). -/
def State.gateAtts (s : State) : State :=
  allAtts.foldl (fun s k => if (s.att k).gate = .opened then
    (s.modAtt k (fun a => { a with restGated := true })).gateStart k else s) s

/-- Then the memory pairs: the edge routers are to bounce what comes for them. -/
def State.gatePorts (s : State) : State :=
  let s := allPorts.foldl (fun s m => s.modMp m (fun p => { p with gate := .closing })) s
  (List.range 8).foldl (fun s r => s.reconf (10 * r + 9) 0xF (s.cfgAhead (10 * r + 9)).2) s

/-- The memory pairs are gated; vh_mem_off_ok says so (R418). -/
def State.portsGated (s : State) : State :=
  let s := allPorts.foldl (fun s m => s.modMp m (fun p => { p with gate := .drained })) s
  { s with pins := { s.pins with memOffOk := 0xFFFF } }

/-- The block is in REST (R282): VCORE may go, the timebase is stamped, and a latched wake begins the exit at once. -/
def State.toRest (s : State) : State :=
  let s := { s with
    modes := { s.modes with mode := .rest, restReqd := false, restPhase := 0, wakeLatch := 0 },
    plinth := { s.plinth with restEntry := s.now } }
  (s.incF ⟨0x7001C, 0, 16⟩).raiseOff.noRsvs

/-- A wake begins the exit (R285, R286). -/
def State.wakeNow (s : State) (src : BitVec 2) : State := (s.putF ⟨0x70020, 9, 2⟩ src.toNat).raiseWake

/-- REST_ENTRY_STEP (R282), with the M that step 6 measures. -/
def execRestEntryStep (m : BitVec 24) (s : State) : Host.Outcome State Fault Refusal :=
  if s.modes.restReqd = false then .next s
  else
    match s.modes.restPhase.toNat with
    | 2 => .next (if s.modes.drained then s.phase 3 else s)
    | 3 => .next s.restCheck
    | 4 =>
      (match firstOf 7 2 32 (fun m => (s.mp (BitVec.ofNat 5 m)).saveErr) with
       | [] => .next (if allPorts.all (fun m => (s.mp m).saved) then (s.phase 5).gateAtts else s)
       | f => .next (s.refuseRest f))
    | 5 =>
      if !allAtts.all (fun k => decide ((s.att k).gate = .drained)) then .next s.gateAtts
      else if allPorts.all (fun m => decide ((s.mp m).gate = .closing)) then
        .next (if allPorts.all (fun m => (s.mp m).quiet && s.portBounces m) then s.portsGated.phase 6 else s)
      else .next s.gatePorts
    | 6 =>
      let l := s.modes.wakeLatch
      let s := ({ s with plinth := { s.plinth with retM := m } }).setReg 0x30C24 (m.setWidth 32)
      let s := s.toRest
      .next (if l = 0 then s else s.wakeNow l)
    | _ => .next s

/-- REST_DRAIN_LIMIT (R282): REST_LIM µs have passed, and the checks of step 3 are made. -/
def execRestDrainLimit (s : State) : Host.Outcome State Fault Refusal :=
  if s.modes.restReqd ∧ s.modes.restPhase = 2 then
    let s := s.reach (s.modes.restStart + 1000 * s.fld ⟨0x70008, 20, 12⟩)
    let s := if s.modes.drained then s else { s with modes := { s.modes with restLimit := true } }
    .next (s.phase 3).restCheck
  else .next s

/-! ## Wake and REST exit (R285, R286, R370) -/

/-- A wake: in REST it begins the exit, during entry it is latched (R285). -/
def State.wake (s : State) (src : BitVec 2) : State :=
  if s.mode = .rest then (if s.pins.wakeOut then s else s.wakeNow src)
  else if s.modes.restReqd then
    { s with modes := { s.modes with wakeLatch := if s.modes.wakeLatch = 0 then src else s.modes.wakeLatch } }
  else s

/-- SIDEBAND_ADDRESS_MATCH (R285): an address byte on the sideband, its seven address bits. -/
def execSidebandAddressMatch (addr : BitVec 7) (s : State) : Host.Outcome State Fault Refusal :=
  if s.fld ⟨0x70020, 7, 1⟩ = 1 ∧ addr.toNat = s.fld ⟨0x70020, 0, 7⟩ then .next (s.wake 1) else .next s

/-- WAKE_IN (R285). -/
def execWakeIn (s : State) : Host.Outcome State Fault Refusal :=
  if s.fld ⟨0x70020, 8, 1⟩ = 1 then .next (s.wake 2) else .next s

/-- n / d rounded up. -/
def ceilDiv (n d : Nat) : Nat := (n + d - 1) / d

/-- The timebase after N retention ticks, its uncertainty, and ALIGNED (R369, R370). -/
def State.wakeTime (s : State) (ticks : Nat) : State :=
  let e := ticks * s.plinth.retM.toNat * 10 / 1024
  let u := ceilDiv (ticks * 10) 1024 + ceilDiv (e * s.fld ⟨0x30C10, 13, 12⟩) 1000000 + 20
  let s := s.reach (s.plinth.restEntry + e)
  let s := if s.fld ⟨0x30000, 1, 1⟩ = 1 then { s with cox := { s.cox with wdtFrom := s.cox.wdtFrom + (s.now - s.plinth.restEntry) } } else s
  (s.setReg 0x30C28 (BitVec.ofNat 32 (if 0xFFFFFFFF < u then 0xFFFFFFFF else u))).putF ⟨0x30C14, 0, 1⟩ 0

/-- A memory port's gate reopens (R286, R430): its advertisement opens, STREAM_RESTORE is its first command, its trackers are
cleared (R184), and it has had no window (R238). Its edge router is still to pass messages again. -/
def Port.reopen (p : Port) : Port :=
  { p with
    gate := .opening, mcmdC := Credits.reset, mwdataC := Credits.reset, trackers := [], winEnd := none, waitq := restoreCmd :: p.waitq }

/-- The memory pairs reopen, and then the attachments that were OPEN before entry begin to (R286). -/
def State.ungate (s : State) : State :=
  let s := allPorts.foldl (fun s m => s.modMp m Port.reopen) s
  let s := (List.range 8).foldl (fun s r => s.reconf (10 * r + 9) 0 (s.cfgAhead (10 * r + 9)).2) s
  let s := { s with pins := { s.pins with memOffOk := 0 } }
  allAtts.foldl (fun s k => if (s.att k).restGated then
    (s.toGate k .opening).modAtt k (fun a => { a with restGated := false }) else s) s

/-- REST_EXIT_STEP (R286), with the N that the exit edge gives: first the clocks are back, and so VCORE is, then every port is
ready. -/
def execRestExitStep (ticks : BitVec 48) (s : State) : Host.Outcome State Fault Refusal :=
  if s.mode = .rest ∧ s.pins.wakeOut ∧ s.modes.warm = none ∧ s.clocksUp then
    let s := { s with modes := { s.modes with mode := .quiesce, restPhase := 7 } }.wakeTime ticks.toNat
    .next (((s.fire (evG 41)).logHw 6 0 (s.fld ⟨0x70020, 9, 2⟩ + 2 ^ 8 * s.fld ⟨0x30C28, 0, 32⟩)).ungate)
  else if s.mode = .quiesce ∧ s.modes.restPhase = 7 ∧ s.modes.pwrFail = false ∧ allPorts.all (fun m => (s.mp m).ready) then
    .next ({ s with pins := { s.pins with wakeOut := false } }).openAdmission
  else .next s

/-! ## Shedding (R287 to R290) -/

/-- Threshold Tn of SHED_THR. -/
def State.shedT (s : State) (n : Nat) : Nat := s.fld ⟨0x70030, 6 * (n - 1), 6⟩

/-- The deepest level a droop reaches. -/
def State.levelOf (s : State) (droop : Nat) : Nat := ((List.range 6).filter (fun n => decide (n = 0) || decide (s.shedT n ≤ droop))).foldl max 0

/-- The deepest droop of the VCORE monitors as last reported. -/
def State.deepest (s : State) : Nat := s.modes.droops.foldl (fun m e => max m e.2.toNat) 0

/-- The 100 µs of R290 begin again. -/
def State.restartDwell (s : State) : State := { s with modes := { s.modes with levelSince := s.now } }

/-- The actions of one level at its entry (R288): L4 flushes every bank, L5 enters QUIESCE. The others act by the level
itself. -/
def State.enterLevel (s : State) (n : Nat) : State :=
  let s := s.incF ⟨0x7003C, 6 * (n - 1), 6⟩
  if n = 4 ∧ s.runs then allPorts.foldl State.flush s else if n = 5 then s.enterQuiesce else s

/-- The level changes: SHED_STAT, the SHED record and event, and the actions, in order (R287 to R290). -/
def State.setLevel (s : State) (n : Nat) : State :=
  let old := s.level
  if n = old then s
  else
    let s := ({ s with modes := { s.modes with level := BitVec.ofNat 3 n } }).restartDwell
    let s := (s.maxF ⟨0x70038, 0, 3⟩ n).fire (evG 24)
    let s := s.logHw 1 0 (old + 2 ^ 8 * n + 2 ^ 16 * s.deepest)
    if old < n then
      let s := if s.mode = .serve then s.toMode .shed else s
      ((List.range 6).filter (fun k => decide (old < k ∧ k ≤ n))).foldl State.enterLevel s
    else
      let s := if n < 3 ∧ 3 ≤ old then allAtts.foldl (fun s k => s.giveBack k 0 0) s else s
      let s := if n = 0 ∧ s.mode = .shed then s.toMode .serve else s
      s.leaveQuiesce

/-- Level n qualifies (R287): the level rises to it, and the 100 µs restart (R290). -/
def State.qualify (s : State) (n : Nat) : State :=
  if s.level < n then s.setLevel n else if s.level = n ∧ n ≠ 0 then s.restartDwell else s

/-- The Plinth watches the droop of monitor i: at or beyond the exit point of the level the 100 µs restart (R290). -/
def State.seeDroop (s : State) (i : Nat) (d : BitVec 8) : State :=
  let exit (x : Nat) : Bool := decide (s.level ≠ 0) && decide (s.shedT s.level ≤ x + 4)
  let before := s.deepest
  let s := { s with modes := { s.modes with droops := Store.set 0 s.modes.droops i d } }
  if exit before || exit s.deepest then s.restartDwell else s

/-- SHED_QUALIFY (R287): VCORE monitor `mon` has seen a droop in every cycle for 2 µs. -/
def execShedQualify (mon : BitVec 2) (droop : BitVec 8) (s : State) : Host.Outcome State Fault Refusal :=
  if s.mode = .off ∨ s.mode = .rest then .next s
  else .next ((s.seeDroop mon.toNat droop).qualify (s.levelOf droop.toNat))

/-- DROOP_ALERT (R287): vh_droop_alert changes; its assertion qualifies EXT_LEVEL at once. -/
def execDroopAlert (level : Bool) (s : State) : Host.Outcome State Fault Refusal :=
  let ext := s.fld ⟨0x70034, 0, 3⟩
  let s := { s with modes := { s.modes with alert := level } }
  if s.mode = .off ∨ s.mode = .rest then .next s
  else if level then .next (s.qualify ext)
  else .next (if s.level ≠ 0 ∧ s.level ≤ ext then s.restartDwell else s)

/-- SHED_STEP_DOWN (R290): the level has stood its 100 µs below the exit point. -/
def execShedStepDown (s : State) : Host.Outcome State Fault Refusal :=
  let n := s.level
  if n = 0 ∨ s.mode = .off ∨ s.mode = .rest then .next s
  else if s.deepest + 4 < s.shedT n ∧ !(s.modes.alert && decide (n ≤ s.fld ⟨0x70034, 0, 3⟩)) ∧ s.fld ⟨0x70034, 3, 3⟩ < n then
    .next ((s.reach (s.modes.levelSince + 100000)).setLevel (n - 1))
  else .next s

/-- The level stands at FORCE at least (R287). -/
def State.shedForce (s : State) : State := if s.level < s.fld ⟨0x70034, 3, 3⟩ then s.setLevel (s.fld ⟨0x70034, 3, 3⟩) else s

/-- SHED_FORCE (R287, R299): a write of SHED_CFG.FORCE; a value above 4 is stored as 4. -/
def execShedForce (level : BitVec 3) (s : State) : Host.Outcome State Fault Refusal :=
  if s.fwUp then .next (s.putF ⟨0x70034, 3, 3⟩ (if 4 < level.toNat then 4 else level.toNat)).shedForce else .next s

/-! ## Starts (R64, R82, R278, R294) -/

/-- Credits are advertised at the start of CALIBRATE (R34, R278). -/
def State.advertiseAll (s : State) : State := allAtts.foldl (fun s k => s.modAtt k Att.advertise) s

/-- The home map is set to T_n for INIT_ACTIVE, and the slices outside A_n are inactive (R278, R294). -/
def State.initMap (s : State) : State :=
  let n := BitVec.ofNat 2 (s.fld ⟨0x48000, 0, 2⟩)
  let s := { s with hmap := { s.hmap with init := some n, epoch := 1, count := n, moved := [], edges := [] } }
  allSlices.foldl (fun s i => s.modSl i (fun x => { x with active := inActive n i.toNat })) s

/-- BOOT to CALIBRATE (R278): the home map is set, credits are advertised, and the header logic reads the header. -/
def State.toCalibrate (s : State) : State :=
  let s := s.initMap.advertiseAll.startReads
  let s := { s with modes := { s.modes with calWindows := 0 } }
  s.toMode .calibrate

/-- Every JOIN written since BOOT has its RESULT. -/
def State.joinsDone (s : State) : Bool := s.agents.all (fun e => decide (e.2.st ≠ .joining))

/-- CALIBRATE_EXIT (R278). -/
def execCalibrateExit (s : State) : Host.Outcome State Fault Refusal :=
  if s.mode = .calibrate ∧ s.cast.done ∧ s.cast.init = false ∧ allPorts.all (fun m => (s.mp m).ready) ∧ s.joinsDone
      ∧ s.modes.calWindows ≠ 0 then
    .next s.openAdmission
  else .next s

/-- An agent as its image entry restores it (R64). -/
def Agent.restored (n : Nat) : Agent :=
  let w0 := n % 2 ^ 32
  let code := w0 % 8
  let keep := decide (2 ≤ code)
  let act := decide (code = 2) || decide (code = 3)
  { Agent.reset with
    st := (match code with | 2 => .active | 3 => .leaving | 4 => .quarantine | 5 => .fenced | _ => .absent),
    la := BitVec.ofNat 4 (w0 / 8), perfRead := w0.testBit 8, hatom := w0.testBit 9, rsv := w0.testBit 10,
    snpTo := if act then BitVec.ofNat 16 (n / 2 ^ 32) else 0, backoff := if act then BitVec.ofNat 16 (n / 2 ^ 48) else 0,
    held := if keep then BitVec.ofNat 32 (n / 2 ^ 64) else 0 }

/-- One agent restored: a LEAVING agent goes to QUARANTINE at once, and sweeps start again from their beginning (R64). -/
def State.restoreAgent (s : State) (image : List LineData) (a : Nat) : State :=
  let id : AgentId := BitVec.ofNat 12 a
  let x := Agent.restored (imageEntry image a)
  let s := s.setAgent id x
  match x.st with
  | .leaving => s.quarantine id
  | .quarantine => if x.held = 0 then s.modAgent id (fun x => { x with st := .absent }) else s.sweepOn id
  | .fenced => if x.held = 0 then s else s.sweepOn id
  | _ => s

/-- The directory contents are carried over (R82): the agent table is restored, and every slice starts a rebuild. -/
def State.carry (s : State) (image : List LineData) : State :=
  let s := { s with cast := { s.cast with carried := true } }
  let s := (List.range 4095).foldl (fun s a => s.restoreAgent image a) s
  allSlices.foldl (fun s i => if (s.sl i).active then s.modSl i (fun x => { x.startRebuild with recount := true }) else s) s

/-- The header of a start, as read, with the agent image where it was read (R82). -/
def State.takeHeader (s : State) (hdr : BucketRead) (image : List LineData) (imageOk : Bool) : State :=
  let s := { s with cast := { s.cast with done := true } }
  if !s.headerOk hdr then ({ s with cast := { s.cast with dsc := 0, hdrNew := true } }).clearStart
  else
    let clean := decide (bytesNat hdr.data 12 1 = 1)
    let gen := bytesNat hdr.data 7 1 % 128
    let dsc : BitVec 32 := BitVec.ofNat 32 (bytesNat hdr.data 8 4 + b2n (!clean))
    let s := { s with cast := { s.cast with dsc := dsc, gen := BitVec.ofNat 7 gen } }
    if clean ∧ s.modes.afterWarm ∧ imageOk ∧ image.length = 1024 ∧ (imageCrc image).toNat = bytesNat hdr.data 24 4 then s.carry image
    else if 127 ≤ gen then s.clearStart
    else { s with cast := { s.cast with gen := BitVec.ofNat 7 (gen + 1) } }

/-- A read of the header logic waits for MCMD. -/
def State.hdrWaits (s : State) : Bool := allPorts.any (fun m => (s.mp m).waitq.any (fun c => decide (c.why = Purpose.headerRd)))

/-- The reads of the header logic have returned. -/
def Port.hdrTaken (p : Port) : Port :=
  let taken (o : Store (Option MCmd)) (e : Nat × Option MCmd) : Store (Option MCmd) :=
    match e.2 with
    | some c => if c.why = Purpose.headerRd then Store.set none o e.1 none else o
    | none => o
  { p with outq := p.outq.foldl taken p.outq }

/-- The same at every port. -/
def State.hdrTaken (s : State) : State :=
  allPorts.foldl (fun s m => s.modMp m Port.hdrTaken) s

/-- CAST_HEADER_RETURN (R82): the reads of the header, and of the agent image where it was read, have been issued and have
returned. What the block has written there itself is what it reads (R6). -/
def execCastHeaderReturn (hdr : BucketRead) (image : List LineData) (imageOk : Bool) (s : State) : Host.Outcome State Fault Refusal :=
  if (s.mode = .calibrate ∨ s.mode = .quiesce) ∧ s.cast.done = false ∧ s.hdrWaits = false then
    let image := image.zipIdx.map (fun p => (Store.get none s.castMem (s.castAddr (p.2 + 1) 0).toNat).getD p.1)
    .next (s.hdrTaken.takeHeader (s.castSeen (s.castAddr 0 0) hdr) image imageOk)
  else .next s

end Sys2Proof.Machine
end

