-- ==== Sys2Proof/Machine/Events.lean ====
section
/-! DEFINITION. The event controller (chapter 12): tiers, running tiers, claims and completions, and writes to EV_SRC and
TGT_CTRL. -/

namespace Sys2Proof.Machine

/-- vh_reg_req_ready: fewer than 8 requests are outstanding (R319). -/
def State.reqReady (s : State) : Bool := decide (s.hostOut.length < 8)

/-- A request transfers at the register port: with 8 outstanding only once the oldest response has been taken, in request order
(R319). That a response is taken no sooner: DESIGN CHOICE, log 73. -/
def State.reqTaken (s : State) : State := if s.reqReady then s else { s with hostOut := s.hostOut.drop 1 }

/-- A register response to its source; JTAG counts as the host port (R318, R423). -/
def State.respond (s : State) (src : RegSrc) (data : Word32) (st : RegSt) : State :=
  let r : RegRsp := { data := data, status := st }
  match src with
  | .cox => { (s.crossing .service 2).crossing .service 3 with coxRsp := some r }
  | _ =>
    let s := ((s.crossing .service 0).crossing .service 1).reqTaken
    { s with hostRsp := some r, hostOut := s.hostOut ++ [r] }

/-- A read by a command of its own: nothing without a register port; NOT_READY in BOOT (R319); else its effect, which answers
with the data of the read. -/
def State.readBy (s : State) (src : RegSrc) (f : State → State × Word32) : State :=
  if !s.srcUp src then s
  else if s.mode = .boot then s.respond src 0 .notReady
  else let (s, d) := f s; s.respond src d .ok

/-- The tier of a priority at target n: the number of edges at or below it (R327). -/
def State.tier (s : State) (n : BitVec 3) (prio : BitVec 8) : Nat :=
  let w := 0x12008 + 16 * n.toNat
  ([s.fld ⟨w, 0, 8⟩, s.fld ⟨w, 8, 8⟩, s.fld ⟨w, 16, 8⟩].filter (fun e => decide (e ≤ prio.toNat))).length

/-- Source e is claimed by target n. -/
def EvSrc.heldBy (e : EvSrc) (n : BitVec 3) : Bool := e.active && decide (e.claimant = n)

/-- RUNTIER of target n: the least tier among its claims, 4 without one (R328). -/
def State.runTier (s : State) (n : BitVec 3) : Nat :=
  s.events.srcs.foldl (fun m e => if e.2.heldBy n then min m (s.tier n e.2.prio) else m) 4

/-- Source e is eligible for target n (R328). -/
def State.eligible (s : State) (n : BitVec 3) (e : EvSrc) : Bool :=
  e.pending && e.targets.getLsbD n.toNat && decide (s.tier n e.prio < s.runTier n)

/-- The sources that are eligible for target n, in the order of their numbers. -/
def State.eligibles (s : State) (n : BitVec 3) : List (Nat × EvSrc) := s.events.srcs.filter (fun e => s.eligible n e.2)

/-- irq[n] (R328). -/
def State.irq (s : State) (n : BitVec 3) : Bool := decide (s.eligibles n ≠ [])

/-- The first of the least priority (R329: ties go to the lowest number). -/
def urgentOf : List (Nat × EvSrc) → Option (Nat × EvSrc)
  | [] => none
  | e :: es =>
    match urgentOf es with
    | none => some e
    | some b => if b.2.prio < e.2.prio then some b else some e

/-- A read of CLAIM_n (R329): the number it returns. -/
def State.claimFor (s : State) (n : BitVec 3) : State × Word32 :=
  match urgentOf (s.eligibles n) with
  | none => ({ s with events := { s.events with claim := 0xFFF } }, 0xFFF)
  | some (i, e) =>
    let s := s.setEv i { e with pending := false, active := true, claimant := n }
    ({ s with events := { s.events with claim := BitVec.ofNat 12 i } }, BitVec.ofNat 32 i)

/-- A claim ends (R330): an edge source takes up the edge that arrived meanwhile, a level source its input. -/
def EvSrc.finish (e : EvSrc) : EvSrc :=
  { e with
    active := false, edge := false, pending := if e.trig then e.edge else e.input }

/-- A write of COMPLETE_n (R330). -/
def State.completeFor (s : State) (n : BitVec 3) (id : BitVec 12) : State :=
  let e := s.ev id.toNat
  if id = 0xFFF then s
  else if id.toNat < 2048 ∧ e.heldBy n then
    let s := s.setEv id.toNat e.finish
    if e.trig || e.input then s else s.evCount 0x12304 id.toNat n.toNat
  else s.evCount 0x12300 id.toNat n.toNat

/-- A Cox reset ends every claim of target 0, without any count (R332). -/
def State.dropClaims (s : State) : State :=
  s.events.srcs.foldl (fun s e => if e.2.heldBy 0 then s.setEv e.1 e.2.finish else s) s

/-- EV_SRC as it reads (R334); a reserved source reads 0 (R325). -/
def State.evWord (s : State) (i : Nat) : Word32 :=
  let e := s.ev i
  if evReserved i then 0
  else BitVec.ofNat 32 (e.prio.toNat + 2 ^ 8 * e.targets.toNat + 2 ^ 16 * e.trig.toNat + 2 ^ 24 * e.pending.toNat
    + 2 ^ 25 * e.active.toNat + 2 ^ 26 * e.claimant.toNat + 2 ^ 29 * e.input.toNat)

/-- A write of EV_SRC_i (R317, R325, R333). -/
def State.evSrcPut (s : State) (i : Nat) (be : BitVec 4) (data : Word32) : State :=
  let e := s.ev i
  let w := mergeBe (s.evWord i) data be
  let trig := w.getLsbD 16
  if evReserved i then s
  else s.setEv i { e with
    prio := w.extractLsb' 0 8, targets := w.extractLsb' 8 8, trig := trig,
    pending := if e.trig && !trig && !e.active then e.input else e.pending }

/-- A write of TGT_CTRL_n (R333): stored under the clamps of its edges. -/
def State.tgtCtrlPut (s : State) (n : BitVec 3) (be : BitVec 4) (data : Word32) : State :=
  let a := 0x12008 + 16 * n.toNat
  s.setReg a (clampWord a (mergeBe (s.reg a) data be &&& 0xFFFFFF))

/-- TGT_STAT_n as it reads (R334). -/
def State.tgtStat (s : State) (n : BitVec 3) : Word32 :=
  BitVec.ofNat 32 (s.runTier n + 2 ^ 9 * (s.irq n).toNat
    + 2 ^ 10 * (s.events.srcs.filter (fun e => e.2.heldBy n)).length)

/-- EVENT_MESSAGE (R325, R326): the first event message on its way reaches the controller. -/
def execEventMessage (s : State) : Host.Outcome State Fault Refusal :=
  match s.events.msgs with
  | [] => .next s
  | (i, v) :: ms => .next (({ s with events := { s.events with msgs := ms } }).evInput i.toNat v)

/-- GLOBAL_SOURCE_CHANGE (R325, R326): the first change of a global source is sampled. -/
def execGlobalSourceChange (s : State) : Host.Outcome State Fault Refusal :=
  match s.events.globs with
  | [] => .next s
  | (i, v) :: ms => .next (({ s with events := { s.events with globs := ms } }).evInput i.toNat v)

/-- CLAIM (R329). -/
def execClaim (n : BitVec 3) (src : RegSrc) (s : State) : Host.Outcome State Fault Refusal :=
  .next (s.readBy src (fun s => s.claimFor n))

/-- COMPLETE (R330). -/
def execComplete (n : BitVec 3) (id : BitVec 12) (s : State) : Host.Outcome State Fault Refusal :=
  if s.fwUp then .next (s.completeFor n id) else .next s

/-- EV_SRC_WRITE (R333). -/
def execEvSrcWrite (i : BitVec 11) (be : BitVec 4) (data : Word32) (s : State) : Host.Outcome State Fault Refusal :=
  if s.fwUp then .next (s.evSrcPut i.toNat be data) else .next s

/-- TGT_CTRL_WRITE (R333). -/
def execTgtCtrlWrite (n : BitVec 3) (be : BitVec 4) (data : Word32) (s : State) : Host.Outcome State Fault Refusal :=
  if s.fwUp then .next (s.tgtCtrlPut n be data) else .next s

end Sys2Proof.Machine
end

