-- ==== Sys2Proof/Machine/Counts.lean ====
section
/-! DEFINITION. Counters, snapshot, the sample ring and the counter window (chapter 13). -/

namespace Sys2Proof.Machine

/-! ## Gates (R406) -/

/-- Counter i's unit bounces the command. -/
def State.cntShut (s : State) (i : Nat) : Bool :=
  if i < 2048 then false
  else if i < 2560 then s.attShut (BitVec.ofNat 4 ((i - 2048) / 32)) else s.mpShut (BitVec.ofNat 5 ((i - 2560) / 32))

/-- The bounce is counted at the unit's edge router (R266, R275). -/
def State.cntBounce (s : State) (i : Nat) : State :=
  if i < 2560 then s.attBounced (BitVec.ofNat 4 ((i - 2048) / 32)) else s.mpBounced (BitVec.ofNat 5 ((i - 2560) / 32))

/-! ## Reads that latch (R338, R349, R273, R368) -/

/-- A read of CNT_LO (R338). -/
def State.cntLo (s : State) (i : Nat) : State × Word32 :=
  if s.cntShut i then (s.cntBounce i, 0)
  else if cReserved i then (s, 0)
  else
    let c := s.cnt i
    (s.setCnt i { c with latch := c.value.extractLsb' 32 16 }, c.value.setWidth 32)

/-- The cycle counter of domain d. -/
def State.dc (s : State) (d : Nat) : Dcyc := Store.get Dcyc.reset s.counts.dcyc d
/-- The cycle counter of domain d replaced. -/
def State.setDc (s : State) (d : Nat) (x : Dcyc) : State :=
  { s with counts := { s.counts with dcyc := Store.set Dcyc.reset s.counts.dcyc d x } }

/-- A read of a DCYC low word (R349). -/
def State.dcycLo (s : State) (d : Nat) : State × Word32 :=
  let c := s.dc d
  (s.setDc d { c with latch := c.value.extractLsb' 32 16 }, c.value.setWidth 32)

/-- A read of PRB_CNT_0 or PRB_CNT_1's low word (R273). -/
def State.prbLo (s : State) (i : Nat) (n : Bool) : State × Word32 :=
  let r := s.router i
  if n then (s.setRouter i { r with latch1 := r.prb1.extractLsb' 32 16 }, r.prb1.setWidth 32)
  else (s.setRouter i { r with latch0 := r.prb0.extractLsb' 32 16 }, r.prb0.setWidth 32)

/-- A read of TB_NOW_LO (R368). -/
def State.tbLo (s : State) : State × Word32 :=
  ({ s with plinth := { s.plinth with hiLatch := BitVec.ofNat 32 (s.now / 2 ^ 32) } }, BitVec.ofNat 32 s.now)

/-- CNT_LO_READ. -/
def execCntLoRead (i : Fin 3584) (s : State) : Host.Outcome State Fault Refusal := .next (s.readBy .host (fun s => s.cntLo i.val))
/-- DCYC_LOW_READ. -/
def execDcycLowRead (d : Fin 40) (s : State) : Host.Outcome State Fault Refusal := .next (s.readBy .host (fun s => s.dcycLo d.val))
/-- PRB_CNT_LOW_READ. -/
def execPrbCntLowRead (i : Fin 80) (n : Bool) (s : State) : Host.Outcome State Fault Refusal :=
  .next (s.readBy .host (fun s => s.prbLo i.val n))
/-- TB_NOW_LO_READ. -/
def execTbNowLoRead (s : State) : Host.Outcome State Fault Refusal := .next (s.readBy .host State.tbLo)

/-! ## Presets (R339) -/

/-- ARM of counter i. -/
def State.armCnt (s : State) (i : Nat) : State :=
  let c := s.cnt i
  if cReserved i then s else s.setCnt i { c with value := BitVec.ofNat 48 (2 ^ 48 - c.preset.toNat), armed := true }

/-- DISARM of counter i. -/
def State.disarmCnt (s : State) (i : Nat) : State := s.setCnt i { s.cnt i with armed := false }

/-- ARM. -/
def execArm (i : Fin 3584) (s : State) : Host.Outcome State Fault Refusal :=
  if s.fwUp then .next (if s.cntShut i.val then s.cntBounce i.val else s.armCnt i.val) else .next s

/-- DISARM. -/
def execDisarm (i : Fin 3584) (s : State) : Host.Outcome State Fault Refusal :=
  if s.fwUp then .next (if s.cntShut i.val then s.cntBounce i.val else s.disarmCnt i.val) else .next s

/-- COUNTER_OVERFLOW (R339): a cycle whose occurrences wrap an armed counter. -/
def execCounterOverflow (i : Fin 3584) (occ : BitVec 16) (s : State) : Host.Outcome State Fault Refusal :=
  let c := s.cnt i.val
  if c.armed ∧ 2 ^ 48 ≤ c.value.toNat + occ.toNat then .next (s.count i.val occ.toNat) else .next s

/-! ## FREEZE (R340) -/

/-- CNT_CTRL.FREEZE takes a value. -/
def State.freezeTo (s : State) (v : Bool) : State :=
  let s := s.putF ⟨0x20000, 0, 1⟩ v.toNat
  { s with counts := { s.counts with frozen := v } }

/-- CNT_CTRL.CLEAR (R340): ignored unless frozen. -/
def State.clearCnts (s : State) : State :=
  if s.counts.frozen then
    s.counts.cnts.foldl (fun s e => s.setCnt e.1 { e.2 with value := 0, armed := false, ovf := false }) s
  else s

/-- FREEZE. -/
def execFreeze (s : State) : Host.Outcome State Fault Refusal := if s.fwUp then .next (s.freezeTo true) else .next s
/-- FREEZE_RELEASE. -/
def execFreezeRelease (s : State) : Host.Outcome State Fault Refusal := if s.fwUp then .next (s.freezeTo false) else .next s
/-- COUNTER_CLEAR. -/
def execCounterClear (s : State) : Host.Outcome State Fault Refusal := if s.fwUp then .next s.clearCnts else .next s

/-! ## The snapshot (R341, R342, R351) -/

/-- A write of SNAP_CTRL.GO. -/
def State.snapGo (s : State) : State := s.snapStart (s.fld ⟨0x20008, 0, 32⟩ + 2 ^ 32 * s.fld ⟨0x2000C, 0, 32⟩)

/-- A write of SNAP_CTRL.NOW. -/
def State.snapNow (s : State) : State := s.snapStart (s.now + 1000 * s.fld ⟨0x20010, 4, 8⟩)

/-- SNAP_GO. -/
def execSnapGo (s : State) : Host.Outcome State Fault Refusal := if s.fwUp then .next s.snapGo else .next s
/-- SNAP_NOW. -/
def execSnapNow (s : State) : Host.Outcome State Fault Refusal := if s.fwUp then .next s.snapNow else .next s

/-- The domain in which counter i counts (R336). -/
def cntDomain (i : Nat) : Nat :=
  if i < 2048 then 0
  else if i < 2560 then (if i % 32 < 8 then 1 + (i - 2048) / 32 else 0)
  else if i % 32 < 8 then 17 + (i - 2560) / 64 else 0

/-- Domain d's capture is in the SRAM; after the last one the snapshot is done (R341). -/
def State.snapDone (s : State) (d : Fin 40) (f : Snap → Snap) : State :=
  let s := s.crossing .service 59
  let p := f s.counts.snap
  let left := p.left.filter (fun e => decide (e ≠ d))
  let p := { p with left := left }
  if left = [] then
    let s := { s with counts := { s.counts with snap := { p with busy := none, done := true, seq := p.seq + 1 } } }
    (s.putF ⟨0x20010, 3, 1⟩ 1).fire (evG 35)
  else { s with counts := { s.counts with snap := p } }

/-- The counters of domain d in the SRAM replaced by given ones. -/
def Snap.putCnts (p : Snap) (d : Nat) (cs : Store Counter) : Snap :=
  { p with
    cnts := (cs.filter (fun e => decide (cntDomain e.1 = d))).foldl (fun m e => Store.set 0 m e.1 e.2.value)
      (p.cnts.filter (fun e => decide (cntDomain e.1 ≠ d))) }

/-- SNAP_CAPTURE (R341, R342): the first edge of domain d whose follower value, which never steps backward (R257), is at or after
T. -/
def execSnapCapture (d : Fin 40) (stamp : BitVec 64) (s : State) : Host.Outcome State Fault Refusal :=
  match s.counts.snap.busy with
  | none => .next s
  | some t =>
    if s.counts.snap.left.contains d ∧ t ≤ stamp.toNat ∧ (s.follower d.val).value ≤ stamp.toNat then
      .next (((s.reach stamp.toNat).followTo d.val stamp.toNat).snapDone d (fun p =>
        let p := p.putCnts d.val s.counts.cnts
        { p with
          doms := Store.set (0, 0) p.doms d.val ((s.dc d.val).value, stamp),
          late := if p.behind then p.late ||| (1#40 <<< d.val) else p.late }))
    else .next s

/-- SNAP_DOMAIN_TIMEOUT (R342): no capture by T + 10 µs. -/
def execSnapDomainTimeout (d : Fin 40) (s : State) : Host.Outcome State Fault Refusal :=
  match s.counts.snap.busy with
  | none => .next s
  | some t =>
    if s.counts.snap.left.contains d then
      .next ((s.reach (t + 10000)).snapDone d (fun p =>
        if d.val = 36 then
          { p with idle := true, doms := Store.set (0, 0) p.doms 36 ((s.dc 36).value, BitVec.ofNat 64 t) }
        else
          let p := p.putCnts d.val []
          { p with doms := Store.set (0, 0) p.doms d.val (0, 0), miss := p.miss ||| (1#40 <<< d.val) }))
    else .next s

/-- The 8 bytes at offset 8k of the snapshot SRAM (R351). -/
def Snap.at8 (p : Snap) (k : Nat) : BitVec 64 :=
  if k < 3584 then (Store.get 0 p.cnts k).setWidth 64
  else if k < 3664 then
    let d := Store.get (0, 0) p.doms ((k - 3584) / 2)
    if k % 2 = 0 then d.1.setWidth 64 else d.2
  else if k = 3712 then p.t
  else if k = 3713 then p.miss.setWidth 64
  else if k = 3714 then p.late.setWidth 64
  else if k = 3715 then BitVec.ofNat 64 (p.done.toNat + 2 * p.idle.toNat + 2 ^ 32 * p.seq.toNat)
  else 0

/-! ## The sample ring (R346) -/

/-- The ring's occupancy. -/
def State.ringOcc (s : State) : Nat := (s.fld ⟨0x20060, 0, 13⟩ + 8192 - s.fld ⟨0x20060, 16, 13⟩) % 8192

/-- The SAMPLE_RING source follows the occupancy. -/
def State.ringLevel (s : State) : State := s.evLevel (evG 36) (decide (s.fld ⟨0x20068, 0, 13⟩ ≤ s.ringOcc))

/-- Entry e of the ring. -/
def State.ringAt (s : State) (e : Nat) : BitVec 512 := Store.get 0 s.counts.ring e

/-- A record reaches the hub. -/
def State.ringPut (s : State) (r : BitVec 512) : State :=
  if 4096 ≤ s.ringOcc then s.incF ⟨0x20064, 0, 16⟩
  else
    let w := s.fld ⟨0x20060, 0, 13⟩
    let s := { s with counts := { s.counts with ring := Store.set 0 s.counts.ring (w % 4096) r } }
    (s.putF ⟨0x20060, 0, 13⟩ (w + 1)).ringLevel

/-- What the hub reads from the record queue (R262, R346): a record, or a gap marker, whose count adds to LOST. -/
def State.recTake (s : State) : Obs (BitVec 512) → State
  | .item r => s.ringPut r
  | .gap n => s.addF ⟨0x20064, 0, 16⟩ n

/-- SAMPLE_RECORD (R346): the head of the record queue reaches the hub. A read of the empty queue gives the last value read
(R261). -/
def execSampleRecord (s : State) : Host.Outcome State Fault Refusal :=
  match s.counts.recQ with
  | [] => .next (s.counts.recLast.toList.foldl State.recTake (s.underrun .service 10))
  | r :: rs => .next (({ s with counts := { s.counts with recQ := rs, recLast := some r } }).recTake r)

/-! ## The counter window (R347) -/

/-- Eight 64-bit values as a line. -/
def lineOf8 (f : Nat → BitVec 64) : LineData :=
  (List.range 8).foldl (fun d k => d ||| ((f k).setWidth 512 <<< (64 * k))) 0

/-- The line at line offset n of the window. -/
def State.winLine (s : State) (n : Nat) : LineData :=
  if n < 448 then lineOf8 (fun k => (s.cnt (8 * n + k)).value.setWidth 64)
  else if 512 ≤ n ∧ n < 1024 then lineOf8 (fun k => s.counts.snap.at8 (8 * (n - 512) + k))
  else if 4096 ≤ n ∧ n < 8192 then s.ringAt (n - 4096)
  else 0

/-- The unit that holds the line at line offset n of the window: a counter's unit, else the service hub (R347). -/
def winPlace (n : Nat) : Place :=
  let i := 8 * n
  if 3584 ≤ i then .hub else if i < 2048 then .slice (BitVec.ofNat 6 (i / 32))
  else if i < 2560 then .att (BitVec.ofNat 4 ((i - 2048) / 32)) else .port (BitVec.ofNat 5 ((i - 2560) / 32))

/-- COUNTER_WINDOW_READ: the first window read of the attachment goes to the unit that holds the line, and is answered. -/
def execCounterWindowRead (la : AttId) (s : State) : Host.Outcome State Fault Refusal :=
  match (s.att la).winRd with
  | [] => .next s
  | r :: rs =>
    let s := s.modAtt la (fun a => { a with winRd := rs })
    let n := r.q.laddr.toNat % 8192
    let s := (s.crossing .service 62).crossing .service 63
    let s := (s.inject (.att la) (winPlace n) 0x26 (Config.body 0x26 [n]) []).inject (winPlace n) (.att la) 0x26 (Config.body 0x26 [n])
      (dataMsgs (s.winLine n))
    let d : Drs := { agent := r.q.agent, tag := r.q.tag, htag := 0, parts := 0, psn := false,
                     data := s.winLine n, kind := none }
    .next (((s.egDrs la d).performPart la r.q.agent r.q.tag 0).count (cLa la 18) 1)

end Sys2Proof.Machine
end

