-- ==== Sys2Proof/Machine/Cox.lean ====
section
/-! DEFINITION. Cox, sensors, clock monitors, the event log and the journal, and HOLD by firmware (chapter 14, R390, R393). -/

namespace Sys2Proof.Machine

/-! ## The core (R352 to R354) -/

/-- The watchdog is enabled. -/
def State.wdtOn (s : State) : Bool := decide (s.fld ⟨0x30000, 1, 1⟩ = 1)

/-- The watchdog's period in ns. -/
def State.wdtLen (s : State) : Nat := 1000000 * s.fld ⟨0x30000, 3, 10⟩

/-- The watchdog begins a period; while it does not count, `wdtFrom` holds the time it has counted. -/
def State.wdtKick (s : State) : State := { s with cox := { s.cox with wdtFrom := if s.wdtOn then s.now else 0 } }

/-- WDT_EN takes a value: the time counted is kept. -/
def State.wdtSet (s : State) (on : Bool) : State :=
  let s' := s.putF ⟨0x30000, 1, 1⟩ on.toNat
  if s.wdtOn = on then s' else { s' with cox := { s'.cox with wdtFrom := s.now - s.cox.wdtFrom } }

/-- An open update ends (R366, R354): the target header stays as the flash has it. -/
def State.updEnd (s : State) : State :=
  if s.cox.upd.isSome then
    (({ s with cox := { s.cox with upd := none } }).putF ⟨0x30A00, 0, 1⟩ 0).fire (evG 39)
  else s

/-- Cox restarts (R353, R354). -/
def State.coxRestart (s : State) (cause : Nat) : State :=
  let s := ((s.putF ⟨0x30004, 1, 2⟩ cause).putF ⟨0x30004, 3, 2⟩ 0).incF ⟨0x30004, 5, 16⟩
  let s := ({ s with cox := { s.cox with running := false, restart := true } }).updEnd
  s.dropClaims

/-- COX_RESET. -/
def execCoxReset (s : State) : Host.Outcome State Fault Refusal := if s.fwUp then .next (s.coxRestart 1) else .next s

/-- WATCHDOG_EXPIRY. -/
def execWatchdogExpiry (s : State) : Host.Outcome State Fault Refusal :=
  if s.cox.running ∧ s.wdtOn ∧ s.mode ≠ .rest then .next ((s.reach (s.cox.wdtFrom + s.wdtLen)).coxRestart 2) else .next s

/-- WATCHDOG_KICK. -/
def execWatchdogKick (s : State) : Host.Outcome State Fault Refusal := if s.cox.running ∧ s.mode ≠ .rest then .next s.wdtKick else .next s

/-- COX_FAULT. -/
def execCoxFault (s : State) : Host.Outcome State Fault Refusal :=
  if s.cox.running ∧ s.mode ≠ .rest then .next (s.coxRestart 3) else .next s

/-- The core starts at offset 0 with what its SRAM holds (R353). -/
def State.coxStart (s : State) (sram : List Byte) : State :=
  ({ s with cox := { s.cox with running := true, restart := false, sram := sram } }).wdtKick

/-- The COX_RESTART record (R358). -/
def State.logRestart (s : State) : State :=
  s.logHw 3 0 (s.fld ⟨0x30004, 1, 2⟩ + 2 ^ 8 * s.fld ⟨0x30004, 3, 1⟩ + 2 ^ 16 * s.fld ⟨0x30004, 4, 1⟩)

/-- COX_RESTART_DONE (R353): the section in SRAM is checked, and what the ROM reloads where it does not match. -/
def execCoxRestartDone (sram reload : List Byte) (s : State) : Host.Outcome State Fault Refusal :=
  if !s.cox.restart then .next s
  else if sram.length ≠ s.boot.coxLen then .refused .illFormed
  else if Config.sha384 sram = s.boot.coxHash then .next ((s.coxStart sram).logRestart)
  else if reload.length ≠ s.boot.coxLen then .refused .illFormed
  else if Config.sha384 reload = s.boot.coxHash then .next (((s.putF ⟨0x30004, 3, 1⟩ 1).coxStart reload).logRestart)
  else
    let s := { s with cox := { s.cox with restart := false, sram := reload } }
    .next (((s.putF ⟨0x30004, 3, 1⟩ 1).putF ⟨0x30004, 4, 1⟩ 1).logRestart)

/-! ## Sensors (R355, R356) -/

/-- DEGRADE of aging monitor i. -/
def State.degrade (s : State) (i : Nat) : Nat :=
  let base := s.fld ⟨0x30470 + 4 * i, 0, 20⟩
  let n := s.fld ⟨0x30460 + 4 * i, 0, 20⟩
  if base = 0 ∨ base ≤ n then 0 else (base - n) * 1000 / base

/-- The sources that follow the droops and the aging monitors. -/
def State.sensLevels (s : State) : State :=
  let s := (List.range 4).foldl (fun s i => s.evLevel (evG (14 + i)) (decide (s.shedT 1 ≤ s.fld ⟨0x30440 + 4 * i, 0, 8⟩))) s
  let s := (List.range 2).foldl (fun s i =>
    s.evLevel (evG (18 + i)) (decide (s.fld ⟨0x30480, 20, 8⟩ ≤ s.fld ⟨0x30450 + 4 * i, 0, 8⟩))) s
  (List.range 4).foldl (fun s i =>
    (s.putF ⟨0x30460 + 4 * i, 20, 12⟩ (s.degrade i)).evLevel (evG (20 + i)) (decide (s.fld ⟨0x30484, 0, 8⟩ ≤ s.degrade i))) s

/-- A flag with hysteresis: set at the threshold and above, cleared below the threshold less the hysteresis (R355). -/
def hystFlag (old : Bool) (t : Int) (thr hyst : Nat) : Bool :=
  decide (4 * (thr : Int) ≤ t) || (old && decide (4 * ((thr : Int) - hyst) ≤ t))

/-- A thermal sample. -/
def State.thermal (s : State) (i : Nat) (t : BitVec 12) : State :=
  let a := 0x30400 + 4 * i
  let v := Machine.toInt 12 t.toNat
  let h := s.fld ⟨0x30480, 16, 4⟩
  let warn := hystFlag (decide (s.fld ⟨a, 12, 1⟩ = 1)) v (s.fld ⟨0x30480, 0, 8⟩) h
  let trip := hystFlag (decide (s.fld ⟨a, 13, 1⟩ = 1)) v (s.fld ⟨0x30480, 8, 8⟩) h
  let s := ((s.putF ⟨a, 0, 12⟩ t.toNat).putF ⟨a, 12, 1⟩ warn.toNat).putF ⟨a, 13, 1⟩ trip.toNat
  let any := (List.range 12).any (fun k => decide (s.fld ⟨0x30400 + 4 * k, 13, 1⟩ = 1))
  let s := { s with pins := { s.pins with thermTrip := any } }
  (s.evLevel (evG (2 + i)) warn).evLevel (evG 1) any

/-- SENSOR_SAMPLE (R355). -/
def execSensorSample (x : SensorSample) (s : State) : Host.Outcome State Fault Refusal :=
  if !s.portUp then .next s
  else
    match x with
    | .thermal i t => .next ((s.crossing .service (35 + i.val)).thermal i.val t)
    | .droop i d =>
      let s := (s.crossing .service (47 + i.val)).putF ⟨0x30440 + 4 * i.val, 0, 8⟩ d.toNat
      .next (if i.val < 4 then s.seeDroop i.val d else s).sensLevels
    | .aging i n => .next ((s.crossing .service (53 + i.val)).putF ⟨0x30460 + 4 * i.val, 0, 20⟩ n.toNat).sensLevels

/-! ## Clock monitors (R357) -/

/-- Domain d is gated: an attachment's from DRAINED until it is OPEN again, a memory pair's while it is gated (R264, R282). -/
def State.gatedDom (s : State) (d : Nat) : Bool :=
  if 1 ≤ d ∧ d ≤ 16 then
    decide ((s.att (BitVec.ofNat 4 (d - 1))).gate = .drained) || decide ((s.att (BitVec.ofNat 4 (d - 1))).gate = .opening)
  else if 17 ≤ d ∧ d ≤ 32 then decide ((s.mp (BitVec.ofNat 5 (2 * (d - 17)))).gate = .drained)
  else false

/-- Domain d is expected. -/
def State.expected (s : State) (d : Nat) : Bool :=
  !(decide (36 ≤ d) && decide (d ≤ 38)) && !s.gatedDom d && decide (s.mode ≠ .rest)

/-- The CLOCK_LOSS source follows the monitors. -/
def State.clkLevel (s : State) : State :=
  s.evLevel (evG 29) ((List.range 40).any (fun d => s.expected d && !s.cox.clkPres.getLsbD d))

/-- The loss of domain d's clock is FATAL (R390). -/
def State.clkFatal (s : State) (d : Nat) : Bool :=
  if 1 ≤ d ∧ d ≤ 16 then decide ((s.att (BitVec.ofNat 4 (d - 1))).gate = .opened)
  else (decide (d = 0) || decide (d = 34) || decide (d = 39) || (decide (17 ≤ d) && decide (d ≤ 32))) && !s.gatedDom d

/-- CLOCK_ABSENT (R357, R390). -/
def execClockAbsent (d : Fin 40) (s : State) : Host.Outcome State Fault Refusal :=
  let had := s.cox.clkPres.getLsbD d.val
  let s := ({ s with cox := { s.cox with clkPres := s.cox.clkPres &&& ~~~ (1#40 <<< d.val) } })
  if s.mode = .off then .next s
  else
    let s := s.clkLevel
    .next (if had ∧ s.clkFatal d.val ∧ s.portUp then s.fatal 9 5 d.val 0 else s)

/-- CLOCK_PRESENT (R357); a warm reset that waits in REST for the clocks takes effect with the last one (R291). A clk_core that runs
shows that VCORE has been restored (R286, R417): DEDUCED, log 72. -/
def execClockPresent (d : Fin 40) (s : State) : Host.Outcome State Fault Refusal :=
  let s := ({ s with
    cox := { s.cox with clkPres := s.cox.clkPres ||| (1#40 <<< d.val) }
    modes := { s.modes with railCore := s.modes.railCore || decide (d = 0) } })
  if s.mode = .off then .next s else .next s.clkLevel.warmInRest

/-! ## The event log (R358) -/

/-- A record is written into the ring. -/
def State.logWrite (s : State) (r : LogRec) : State :=
  let w := s.fld ⟨0x30800, 0, 11⟩
  let n := s.now % 2 ^ 64 + 2 ^ 64 * r.type.toNat + 2 ^ 80 * r.unit.toNat + 2 ^ 96 * r.data.toNat + 2 ^ 224 * s.cox.logSeq.toNat
  let s := if Store.get 0 s.cox.log w = 0 then s else s.wrapF ⟨0x30800, 11, 16⟩
  let s := { s with cox := { s.cox with log := Store.set 0 s.cox.log w (BitVec.ofNat 256 n), logSeq := s.cox.logSeq + 1 } }
  s.putF ⟨0x30800, 0, 11⟩ (w + 1)

/-- Cox's record: the types it may write, with the writer's bit (R358). -/
def State.logCox (s : State) (r : LogRec) : State :=
  if s.cox.running ∧ 0x100 ≤ r.type.toNat ∧ r.type.toNat ≤ 0x7FFF then s.logWrite { r with type := r.type ||| 0x8000 } else s

/-- What is read from the event-log write queue: a record, or a gap marker, which becomes a record of TYPE 0 (R262, R358). -/
def State.logTake (s : State) : Obs LogRec → State
  | .item r => s.logWrite r
  | .gap n => s.logWrite { type := 0, unit := 0, data := BitVec.ofNat 128 (n % 2 ^ 32) }

/-- EVENT_LOG_RECORD (R358): the hardware's record goes first. With no record of Cox, a read of the empty queue gives the last
value read (R261). -/
def execEventLogRecord (cox : Option LogRec) (s : State) : Host.Outcome State Fault Refusal :=
  if !s.portUp then .next s
  else
    let s := match s.cox.logQ with
      | [] => if cox.isSome then s else s.cox.logLast.toList.foldl State.logTake (s.underrun .service 57)
      | r :: rs => ({ s with cox := { s.cox with logQ := rs, logLast := some r } }).logTake r
    .next (match cox with | some r => s.logCox r | none => s)

/-! ## The SPI controller and the journal (R359, R360) -/

/-- The flash addresses that an SPI command changes, from the first to the one after the last: kind 0 erases a sector of 4 KiB, 1
programs bytes, 2 erases a slot; others change none. -/
def spiSpan (c : BitVec 8 × Nat × List Byte) : Nat × Nat :=
  if c.1 = 0 then (c.2.1 / 4096 * 4096, c.2.1 / 4096 * 4096 + 4096) else if c.1 = 1 then (c.2.1, c.2.1 + c.2.2.length)
  else if c.1 = 2 then (c.2.1, c.2.1 + 0x200000) else (0, 0)

/-- A program would set a bit of the anchor whose lowest `zeros` bits are 0 (R307, R365, R367). -/
def setsOne (zeros addr : Nat) (bytes : List Byte) : Bool :=
  (bytes.zipIdx).any (fun e => decide (0x400000 ≤ addr + e.2) && decide (addr + e.2 < 0x402000)
    && (List.range 8).any (fun b => decide (8 * (addr + e.2 - 0x400000) + b < zeros) && e.1.getLsbD b))

/-- The guards of the SPI controller refuse a command (R365). -/
def State.guarded (s : State) (c : BitVec 8 × Nat × List Byte) : Bool :=
  let r := spiSpan c
  let meets (lo hi : Nat) : Bool := decide (r.1 < hi) && decide (lo < r.2)
  let slot := s.fld ⟨0x1000, 0, 2⟩
  decide (s.fld ⟨0x1000, 14, 1⟩ = 1) && (decide (slot < 2) && meets (0x200000 * slot) (0x200000 * slot + 0x200000)
    || decide (c.1 ≠ 1) && meets 0x400000 0x402000 || decide (c.1 = 1) && setsOne s.boot.anchor.toNat c.2.1 c.2.2)

/-- SPI commands leave the block; those that a guard refuses leave the flash unchanged and set UPD_STAT.GUARD (R365). -/
def State.spi (s : State) (cs : List (BitVec 8 × Nat × List Byte)) : State :=
  let good := cs.filter (fun c => !s.guarded c)
  let s := if good = cs then s else s.putF ⟨0x30A00, 1, 1⟩ 1
  if good = [] then s else { s.crossing .service 29 with pins := { s.pins with spi := good } }

/-- A command whose effect on the flash's contents is `f`: none where a guard refuses it (R365). -/
def State.spiDo (s : State) (c : BitVec 8 × Nat × List Byte) (f : State → State) : State :=
  (if s.guarded c then s else f s).spi [c]

/-- A byte list with the byte at a position replaced. -/
def setByte (bs : List Byte) (n : Nat) (b : Byte) : List Byte := bs.set n b

/-- JOURNAL_PROGRAM (R359, R360): the sector is erased before its first record; COMMIT is programmed only after the read-back
has matched. -/
def execJournalProgram (sector : BitVec 6) (record : BitVec 7) (bytes readBack : List Byte) (s : State) : Host.Outcome State Fault Refusal :=
  if bytes.length ≠ 32 ∨ readBack.length ≠ 32 then .refused .illFormed
  else if !s.cox.running ∨ s.mode = .rest then .next s
  else
    let a := 0x402000 + 4096 * sector.toNat + 32 * record.toNat
    let body := setByte bytes 1 0xFF
    let ok := decide (readBack = body)
    let s := s.spi ((if record = 0 then [((0 : BitVec 8), a, [])] else []) ++ [((1 : BitVec 8), a, body)]
      ++ (if ok then [((1 : BitVec 8), a + 1, [(0 : Byte)])] else []))
    let s := s.crossing .service 58
    let s := (s.putF ⟨0x30900, 0, 6⟩ (sector.toNat + (if record = 127 then 1 else 0))).putF ⟨0x30900, 6, 7⟩ (record.toNat + 1)
    .next (if ok then s else (s.incF ⟨0x30900, 13, 16⟩).fire (evG 38))

/-! ## HOLD by firmware (R390, R393) -/

/-- HOLD_CTRL.ENTER. -/
def State.holdEnter (s : State) : State := s.fatal 0xB 4 0 0

/-- HOLD_CTRL.FLUSH. -/
def State.holdFlush (s : State) : State :=
  if s.held ∧ s.fld ⟨0x70114, 0, 1⟩ = 0 then
    let s := (s.putF ⟨0x70114, 0, 1⟩ 1).putF ⟨0x70114, 1, 1⟩ 0
    (allPorts.foldl State.flush s).holdSettle
  else s

/-- HOLD_ENTER. -/
def execHoldEnter (s : State) : Host.Outcome State Fault Refusal := if s.fwUp then .next s.holdEnter else .next s
/-- HOLD_FLUSH. -/
def execHoldFlush (s : State) : Host.Outcome State Fault Refusal := if s.fwUp then .next s.holdFlush else .next s

end Sys2Proof.Machine
end

