-- ==== Sys2Proof/Machine/Image.lean ====
section
/-! DEFINITION. The Maquette image: a slot's header and the checks of R305 to R307. -/

namespace Sys2Proof.Machine

/-- A little-endian number of a header: `n` bytes at byte `lo`. -/
def hdrNat (h : List Byte) (lo n : Nat) : Nat := natOfBytes (slice h lo n)

/-- Bytes of a header that R305 wants to be 0. -/
def hdrZeros (h : List Byte) : Bool :=
  (slice h 10 2 ++ slice h 24 8 ++ slice h 272 240).all (fun b => decide (b = 0))

/-- REC_LEN. -/
def recLen (h : List Byte) : Nat := hdrNat h 16 4
/-- COX_LEN. -/
def coxLen (h : List Byte) : Nat := hdrNat h 20 4
/-- SEQ. -/
def hdrSeq (h : List Byte) : Nat := hdrNat h 12 4
/-- SVN. -/
def hdrSvn (h : List Byte) : Nat := hdrNat h 8 2
/-- BODY_HASH, a big-endian string of 48 bytes. -/
def bodyHash (h : List Byte) : BitVec 384 := BitVec.ofNat 384 (natOfBytes (slice h 32 48).reverse)

/-- The lengths meet R305. -/
def lengthsOk (h : List Byte) : Bool :=
  decide (recLen h % 4096 = 0) && decide (4096 ≤ recLen h) && decide (coxLen h % 4 = 0) && decide (coxLen h ≤ 196608)
    && decide (512 + recLen h + coxLen h ≤ 0x200000)

/-- The reason for which a header fails R306, the signature apart: 0 none, else its number in BOOT_STAT. -/
def hdrReason (h : List Byte) (keyHash : BitVec 384) (floor : Nat) : Nat :=
  if slice h 0 4 ≠ [0x4D, 0x41, 0x51, 0x54] ∨ hdrNat h 4 2 ≠ 1 ∨ hdrZeros h = false then 1
  else if hdrNat h 6 1 ≠ 2 ∨ 4 < hdrNat h 7 1 then 2
  else if lengthsOk h = false then 3
  else if Config.sha384 (slice h 80 96) ≠ keyHash then 4
  else if hdrSvn h < floor then 5
  else 0

/-- The signature of a header verifies (R306). -/
def hdrSigned (h : List Byte) : Bool := Config.ecdsaP384 (slice h 80 96) (slice h 0 176) (slice h 176 96)

/-- The effective floor (R307). -/
def State.svnFloor (s : State) : Nat := max s.boot.anchor.toNat s.plinth.svnFloor.toNat

/-- The header of a slot: false A, true B. -/
def Boot.hdr (b : Boot) (slot : Bool) : List Byte := if slot then b.hdrB else b.hdrA

/-- The header of a slot as the flash now holds it. -/
def State.setHdr (s : State) (slot : Bool) (h : List Byte) : State :=
  if slot then { s with boot := { s.boot with hdrB := h } } else { s with boot := { s.boot with hdrA := h } }

/-- A slot's header passes R306 apart from its signature. -/
def State.hdrGood (s : State) (slot : Bool) : Bool :=
  decide (hdrReason (s.boot.hdr slot) s.plinth.keyHash s.svnFloor = 0)

/-- The flash address of a slot (R304). -/
def slotBase (slot : Bool) : Nat := if slot then 0x200000 else 0

end Sys2Proof.Machine
end

