-- ==== Sys2Proof/Machine/Mailbox.lean ====
section
/-! DEFINITION. The mailbox, its commands, updates, and the timebase (chapter 14, R361 to R369, R423). -/

namespace Sys2Proof.Machine

/-! ## The mailbox (R362) -/

/-- A message filled up to 64 bytes. -/
def pad64 (bs : List Byte) : List Byte := bs ++ List.replicate (64 - bs.length) 0

/-- The 64 bytes of MBX_H2C. -/
def State.h2c (s : State) : List Byte := (List.range 16).flatMap (fun w => bytesOfNat 4 (s.reg (0x30100 + 4 * w)).toNat)

/-- MBX_H2C_CTRL.POST. -/
def State.mbxPost (s : State) : State :=
  if s.cox.h2cFull then s.incF ⟨0x30140, 8, 8⟩
  else (({ s with cox := { s.cox with h2cFull := true } }).crossing .service 4).fire (evG 32)

/-- MBX_C2H_CTRL.TAKEN. -/
def State.mbxTaken (s : State) : State := { s with cox := { s.cox with c2hReady := false } }

/-- MAILBOX_POST. -/
def execMailboxPost (s : State) : Host.Outcome State Fault Refusal := if s.fwUp then .next s.mbxPost else .next s
/-- MAILBOX_TAKEN. -/
def execMailboxTaken (s : State) : Host.Outcome State Fault Refusal := if s.fwUp then .next s.mbxTaken else .next s

/-- MAILBOX_TAKE: Cox reads a posted message and clears its flag. -/
def execMailboxTake (ch : MbxCh) (s : State) : Host.Outcome State Fault Refusal :=
  if !s.coxUp then .next s
  else
    match ch with
    | .host => if s.cox.h2cFull then .next { s with cox := { s.cox with h2cTaken := s.h2c, h2cFull := false } } else .next s
    | .sideband =>
      if s.cox.s2cFull then .next { s with cox := { s.cox with s2cTaken := s.cox.s2c, s2cFull := false } } else .next s

/-- A reply is posted. -/
def State.reply (s : State) (ch : MbxCh) (msg : List Byte) : State :=
  let m := pad64 msg
  let s := match ch with
    | .host => ({ s with cox := { s.cox with c2h := m, c2hReady := true } }).crossing .service 5
    | .sideband => ({ s with cox := { s.cox with c2s := m, c2sReady := true } }).crossing .service 7
  s.fire (evG 34)

/-- MAILBOX_REPLY. -/
def execMailboxReply (ch : MbxCh) (msg : List Byte) (s : State) : Host.Outcome State Fault Refusal :=
  if 64 < msg.length then .refused .illFormed else if s.coxUp then .next (s.reply ch msg) else .next s

/-! ## The sideband (R363) -/

/-- One bit step of SMBus PEC: CRC-8 with polynomial 0x07. PRESUMED from SMBus 3.1, log 33. -/
def pecBit (c : Byte) : Byte := if c.getLsbD 7 then (c <<< 1) ^^^ 0x07 else c <<< 1
/-- One byte of PEC. -/
def pecByte (c b : Byte) : Byte := pecBit (pecBit (pecBit (pecBit (pecBit (pecBit (pecBit (pecBit (c ^^^ b))))))))
/-- PEC over the bytes of a transaction. -/
def pec (bs : List Byte) : Byte := bs.foldl pecByte 0

/-- The address byte of a write or a read. -/
def State.sbAddr (s : State) (rd : Bool) : Byte := BitVec.ofNat 8 (2 * s.fld ⟨0x70020, 0, 7⟩ + rd.toNat)

/-- SB_BLOCK_WRITE: NACKed while S2C_FULL is 1; discarded on a wrong PEC. -/
def execSbBlockWrite (bytes : List Byte) (p : Option Byte) (s : State) : Host.Outcome State Fault Refusal :=
  if bytes.length = 0 ∨ 64 < bytes.length then .refused .illFormed
  else if !s.portUp ∨ s.cox.s2cFull then .next s
  else
    let good := match p with
      | none => true
      | some c => decide (c = pec ([s.sbAddr false, 0x10, BitVec.ofNat 8 bytes.length] ++ bytes))
    let s := (s.crossing .service 31).crossing .service 6
    if good then .next (({ s with cox := { s.cox with s2c := pad64 bytes, s2cFull := true } }).fire (evG 33))
    else .next (s.incF ⟨0x30240, 8, 8⟩)

/-- The bytes of a read with the PEC that an extended read receives. -/
def withPec (pre data : List Byte) (ext : Bool) : List Byte := if ext then data ++ [pec (pre ++ data)] else data

/-- SB_BLOCK_READ: the reply, or 64 bytes of 0. -/
def execSbBlockRead (extended : Bool) (s : State) : Host.Outcome State Fault Refusal :=
  if !s.portUp then .next s
  else
    let data := if s.cox.c2sReady then s.cox.c2s else List.replicate 64 0
    let pre := [s.sbAddr false, 0x11, s.sbAddr true, 64]
    let s := s.crossing .service 32
    .next { s with cox := { s.cox with sbOut := withPec pre data extended, c2sReady := false } }

/-- SB_READ_BYTE: the two flags. -/
def execSbReadByte (extended : Bool) (s : State) : Host.Outcome State Fault Refusal :=
  if !s.portUp then .next s
  else
    let data : List Byte := [BitVec.ofNat 8 (s.cox.s2cFull.toNat + 2 * s.cox.c2sReady.toNat)]
    let s := s.crossing .service 32
    .next { s with cox := { s.cox with sbOut := withPec [s.sbAddr false, 0x12, s.sbAddr true] data extended } }

/-! ## Mailbox commands (R364) -/

/-- The message that Cox has taken from a channel. -/
def State.taken (s : State) (ch : MbxCh) : List Byte :=
  match ch with
  | .host => s.cox.h2cTaken
  | .sideband => s.cox.s2cTaken

/-- The message has been served. -/
def State.untake (s : State) (ch : MbxCh) : State :=
  match ch with
  | .host => { s with cox := { s.cox with h2cTaken := [] } }
  | .sideband => { s with cox := { s.cox with s2cTaken := [] } }

/-- The reply to a message: OPC + 0x80, LEN, its SEQ, STATUS and a payload. -/
def replyTo (msg : List Byte) (status : Byte) (payload : List Byte) : List Byte :=
  [msg.getD 0 0 + 0x80, BitVec.ofNat 8 (1 + payload.length)] ++ slice msg 2 2 ++ [status] ++ payload

/-- Cox serves the message it has taken, if its OPC is this command's; a payload of another length is BAD_ARG. -/
def State.serve (s : State) (ch : MbxCh) (opc len : Nat) (f : State → List Byte → State × Byte × List Byte) : State :=
  let msg := s.taken ch
  if !s.coxUp ∨ msg.length < 4 ∨ hdrNat msg 0 1 ≠ opc then s
  else
    let s := s.untake ch
    if hdrNat msg 1 1 ≠ len then s.reply ch (replyTo msg 2 [])
    else
      let (s, st, payload) := f s (slice msg 4 len)
      s.reply ch (replyTo msg st payload)

/-- GET_INFO. -/
def execGetInfo (ch : MbxCh) (fwVersion : Word32) (s : State) : Host.Outcome State Fault Refusal :=
  .next (s.serve ch 0x01 0 (fun s _ =>
    (s, 0, [s.reg 4, s.reg 0x100C, s.reg 0x1008, fwVersion].flatMap (fun w => bytesOfNat 4 w.toNat))))

/-- READ_LOG. -/
def execReadLog (ch : MbxCh) (s : State) : Host.Outcome State Fault Refusal :=
  .next (s.serve ch 0x02 2 (fun s p =>
    let i := natOfBytes p
    if 2048 ≤ i then (s, 2, [])
    else (s, 0, bytesOfNat 32 (Store.get 0 s.cox.log i).toNat ++ bytesOfNat 2 ((i + 1) % 2048))))

/-- READ_JOURNAL: the record as the flash holds it. -/
def execReadJournal (ch : MbxCh) (rec : List Byte) (s : State) : Host.Outcome State Fault Refusal :=
  if rec.length ≠ 32 then .refused .illFormed
  else .next (s.serve ch 0x03 2 (fun s p => if 64 ≤ hdrNat p 0 1 ∨ 128 ≤ hdrNat p 1 1 then (s, 2, []) else (s, 0, rec)))

/-- A temperature as two bytes, signed. -/
def State.temp2 (s : State) (i : Nat) : List Byte :=
  bytesOfNat 2 ((BitVec.ofNat 12 (s.fld ⟨0x30400 + 4 * i, 0, 12⟩)).signExtend 16).toNat

/-- READ_SENSORS. -/
def execReadSensors (ch : MbxCh) (s : State) : Host.Outcome State Fault Refusal :=
  .next (s.serve ch 0x04 0 (fun s _ =>
    (s, 0, (List.range 12).flatMap s.temp2 ++ (List.range 6).flatMap (fun i => bytesOfNat 1 (s.fld ⟨0x30440 + 4 * i, 0, 8⟩))
      ++ (List.range 4).flatMap (fun i => bytesOfNat 2 (s.degrade i)))))

/-- GET_LIFE: the totals are those of the journal before this count plus the Plinth's (R361). -/
def execGetLife (ch : MbxCh) (activeBefore restBefore : Word32) (s : State) : Host.Outcome State Fault Refusal :=
  .next (s.serve ch 0x05 0 (fun s _ =>
    (s, 0, bytesOfNat 4 (activeBefore + s.plinth.active).toNat ++ bytesOfNat 4 (restBefore + s.plinth.rest).toNat
      ++ bytesOfNat 2 ((List.range 4).foldl (fun m i => max m (s.degrade i)) 0))))

/-! ## Updates (R365 to R367) -/

/-- The slot that is not running. -/
def State.target (s : State) : Bool := decide (s.fld ⟨0x1000, 0, 2⟩ = 0)

/-- The STATUS of a step for which no update is open on the channel: the manual gives none. Log 5. -/
def State.freeStatus (s : State) : State × Byte × List Byte :=
  ({ s with freeCtr := s.freeCtr + 1 }, (Config.freeValue s.freeCtr).setWidth 8, [])

/-- A step of an update that is open on this channel. -/
def State.inUpd (s : State) (ch : MbxCh) (f : Upd → State × Byte × List Byte) : State × Byte × List Byte :=
  match s.cox.upd with
  | some u => if u.ch = ch then f u else s.freeStatus
  | none => s.freeStatus

/-- An erased header. -/
def erasedHdr : List Byte := List.replicate 512 0xFF

/-- UPD_BEGIN. -/
def State.updBegin (s : State) (ch : MbxCh) : State × Byte × List Byte :=
  if s.cox.upd.any (fun u => decide (u.ch ≠ ch)) then (s, 3, [])
  else
    let t := s.target
    let s := { s with cox := { s.cox with upd := some { ch := ch, target := t, hdr := erasedHdr } } }
    let s := (s.putF ⟨0x30A00, 0, 1⟩ 1).putF ⟨0x30A00, 2, 1⟩ t.toNat
    (s.spiDo (2, slotBase t, []) (fun s => s.setHdr t erasedHdr), 0, [])

/-- `n` bytes of a list from position `lo` replaced. -/
def putList (bs : List Byte) (lo : Nat) (new : List Byte) : List Byte := bs.take lo ++ new ++ bs.drop (lo + new.length)

/-- UPD_DATA: header bytes are held, the others are programmed. An update writes only its target slot (R366): data that runs beyond
it and into what the controller guards is sent and refused there, with the STATUS that the manual does not give; other data beyond
the slot is BAD_ARG. DESIGN CHOICE, log 35. -/
def State.updData (s : State) (u : Upd) (p : List Byte) : State × Byte × List Byte :=
  let off := natOfBytes (slice p 0 4)
  let data := slice p 4 48
  let op : BitVec 8 × Nat × List Byte := (1, slotBase u.target + off, data)
  if 0x200000 < off + 48 then (if s.guarded op then (s.spi [op]).freeStatus else (s, 2, []))
  else
    let low := data.take (512 - off)
    let high := data.drop (512 - off)
    let s := if low = [] then s
      else { s with cox := { s.cox with upd := some { u with hdr := putList u.hdr off low } } }
    (if high = [] then s else s.spi [(1, slotBase u.target + max off 512, high)], 0, [])

/-- UPD_COMMIT: the held header under R306 with its SEQ above BOOT_SEQ, and the body as read back. -/
def State.updCommit (s : State) (u : Upd) (body : List Byte) : State × Byte × List Byte :=
  let h := u.hdr
  if hdrReason h s.plinth.keyHash s.svnFloor = 0 ∧ hdrSigned h ∧ s.fld ⟨0x100C, 0, 32⟩ < hdrSeq h
      ∧ body.length = recLen h + coxLen h ∧ Config.sha384 body = bodyHash h then
    ((s.spiDo (1, slotBase u.target, h) (fun s => s.setHdr u.target h)).updEnd, 0, [])
  else (s, 4, [])

/-- The running image is the committed one: the other slot holds no valid header of a higher SEQ (R367). -/
def State.runsCommitted (s : State) : Bool :=
  !(s.hdrGood s.target && decide (s.fld ⟨0x100C, 0, 32⟩ < hdrSeq (s.boot.hdr s.target)))

/-- The bytes that bring the anchor's number of 0 bits to an SVN (R307). -/
def anchorBytes (svn : Nat) : List Byte :=
  List.replicate (svn / 8) (0 : Byte) ++ (if svn % 8 = 0 then [] else [BitVec.ofNat 8 (0x100 - 2 ^ (svn % 8))])

/-- UPD_CONFIRM: the anchor, with this many 0 bits, is raised to the image's SVN. -/
def State.updConfirm (s : State) (zeros : Nat) : State × Byte × List Byte :=
  let svn := s.fld ⟨0x1008, 0, 16⟩
  if s.fld ⟨0x1000, 14, 1⟩ = 0 ∨ !s.runsCommitted then (s, 3, [])
  else if svn ≤ zeros then (s, 0, [])
  else
    (s.spiDo (1, 0x400000, anchorBytes svn) (fun s => { s with boot := { s.boot with anchor := BitVec.ofNat 17 svn } }), 0, [])

/-- UPD_BEGIN. -/
def execUpdBegin (ch : MbxCh) (s : State) : Host.Outcome State Fault Refusal :=
  .next (s.serve ch 0x10 0 (fun s _ => s.updBegin ch))
/-- UPD_DATA. -/
def execUpdData (ch : MbxCh) (s : State) : Host.Outcome State Fault Refusal :=
  .next (s.serve ch 0x11 52 (fun s p => s.inUpd ch (fun u => s.updData u p)))
/-- UPD_COMMIT, with the body as read back from the target slot. -/
def execUpdCommit (ch : MbxCh) (readBack : List Byte) (s : State) : Host.Outcome State Fault Refusal :=
  .next (s.serve ch 0x12 0 (fun s _ => s.inUpd ch (fun u => s.updCommit u readBack)))
/-- UPD_CONFIRM, with the number of 0 bits in the anchor. -/
def execUpdConfirm (ch : MbxCh) (anchorZeros : BitVec 17) (s : State) : Host.Outcome State Fault Refusal :=
  .next (s.serve ch 0x13 0 (fun s _ => s.updConfirm anchorZeros.toNat))
/-- UPD_ABORT. -/
def execUpdAbort (ch : MbxCh) (s : State) : Host.Outcome State Fault Refusal :=
  .next (s.serve ch 0x14 0 (fun s _ => s.inUpd ch (fun _ => (s.updEnd, 0, []))))

/-! ## The timebase (R368, R369) -/

/-- TB_CTRL.SET. -/
def State.tbSet (s : State) : State :=
  let t := s.fld ⟨0x30C08, 0, 32⟩ + 2 ^ 32 * s.fld ⟨0x30C0C, 0, 32⟩
  if s.mode = .calibrate ∧ s.joinsDone ∧ s.now < t then
    (s.reach t).logHw 7 0 (s.now % 2 ^ 64 + 2 ^ 64 * t)
  else s.incF ⟨0x30C14, 24, 8⟩

/-- TB_SET. -/
def execTbSet (s : State) : Host.Outcome State Fault Refusal := if s.fwUp then .next s.tbSet else .next s

/-- The multiple of p nearest to t, the greater one on a tie. -/
def nearest (p t : Nat) : Nat := (2 * t + p) / (2 * p) * p

/-- An accepted pulse (R369). -/
def State.pulse (s : State) : State :=
  let t := s.now
  let s := { s with plinth := { s.plinth with lastPulse := some t } }
  let s := (((s.setReg 0x30C18 (BitVec.ofNat 32 t)).setReg 0x30C1C (BitVec.ofNat 32 (t / 2 ^ 32))).wrapF ⟨0x30C14, 8, 8⟩).fire (evG 37)
  if s.fld ⟨0x30C10, 1, 2⟩ = 2 then
    let e : Int := (nearest (1000000 * s.fld ⟨0x30C10, 3, 10⟩) t : Int) - t
    let s := { s with plinth := { s.plinth with slew := e } }
    let s := s.setReg 0x30C20 (BitVec.ofInt 32 e)
    if e.natAbs ≤ 20 then s.putF ⟨0x30C14, 0, 1⟩ 1 else s
  else s

/-- TIME_PULSE. -/
def execTimePulse (s : State) : Host.Outcome State Fault Refusal :=
  if !s.portUp ∨ s.fld ⟨0x30C10, 1, 2⟩ = 0 then .next s
  else
    match s.plinth.lastPulse with
    | some p => if s.now < p + 500000 * s.fld ⟨0x30C10, 3, 10⟩ then .next (s.incF ⟨0x30C14, 16, 8⟩) else .next s.pulse
    | none => .next s.pulse

/-! ## A cycle of clk_ref -/

/-- What the counters of a link attachment count of themselves in a cycle of clk_ref (R336). -/
def State.tickAtt (s : State) (k : AttId) (core lnk : Nat) : State :=
  let a := s.att k
  let s := if a.gate = .opened then s.count (cLa k 7) lnk else s
  let s := if allPorts.any (fun m => ((s.mp m).rsIn.head?.map (fun b => decide (b.la = k))).getD false) then s.count (cLa k 23) core else s
  ((s.count (cLa k 24) (core * a.order.length)).count (cLa k 25) (core * a.gated)).count (cLa k 26)
    (core * (a.fences.filter (fun f => f.2.isSome)).length)

/-- The same of a memory port. -/
def State.tickMp (s : State) (m : PortId) (core mem : Nat) : State :=
  let p := s.mp m
  let s := if p.win = .none then s else s.count (cMp m 7) mem
  s.count (cMp m 26) (core * p.dirtyCnt)

/-- The same of a slice; an inactive one counts nothing. -/
def State.tickSl (s : State) (i : SliceId) (core : Nat) : State :=
  let x := s.sl i
  if x.active then (s.count (cSl i 30) (core * x.slotList.length)).count (cSl i 31) core else s

/-- The timebase counts cycles of clk_ref: VAON is good, no aon reset is asserted, and the block is not in REST (R368, R370). -/
def State.refRuns (s : State) : Bool := s.modes.railAon && !s.modes.aonPin && decide (s.mode ≠ .rest)

/-- The domains of a crossing queue's writer and reader (R256, R269), by its number in the store. Those of the service queues:
DEDUCED, log 44. -/
def crossDomains (key : Nat) : Nat × Nat :=
  let u := key / 64
  let q := key % 64
  if u < 64 then (0, 0)
  else if u < 80 then (if q < 3 then (1 + (u - 64), 0) else (0, 1 + (u - 64)))
  else if u < 112 then (if q < 2 then (0, 17 + (u - 80) / 2) else (17 + (u - 80) / 2, 0))
  else if u = 192 then
    if q = 0 ∨ q = 2 then (33, 0) else if q = 1 ∨ q = 3 ∨ q = 57 then (0, 33) else if q = 4 ∨ q = 5 then (33, 33)
    else if q = 6 ∨ q = 31 then (36, 33) else if q = 7 ∨ q = 32 then (33, 36) else if q = 28 then (0, 38)
    else if q = 29 ∨ q = 58 then (33, 35) else if q = 30 then (35, 33) else if q = 33 then (37, 0) else if q = 34 then (0, 37)
    else if 35 ≤ q ∧ q ≤ 56 then (39, 33) else if q = 60 then (34, 33) else if q = 61 then (35, 0) else (0, 0)
  else (0, 0)

/-- The synchronisers of a crossing queue take the edges of their domains' clocks (R258). -/
def Cross.tick (e : Nat → Nat) (key : Nat) (c : Cross) : Cross :=
  { Cross.clocks (e (crossDomains key).2) c with rdSync := (Cross.clocks (e (crossDomains key).1) c).rdSync }

/-- A follower in a cycle of clk_ref: it starts with its domain's clock, corrects itself to the timebase and never steps
backward; sideband SCL has none (R257). -/
def Follower.tick (f : Follower) (present : Bool) (now : Nat) : Follower :=
  if present then { value := if f.value < now then now else f.value, since := some (f.since.getD now) } else { f with since := none }

/-- The crossing queues' synchronisers and the timebase followers in a cycle of clk_ref (R257, R258). -/
def State.tickMesh (s : State) (e : Nat → Nat) : State :=
  { s with mesh := { s.mesh with
    cross := s.mesh.cross.foldl (fun m c => Store.set Cross.reset m c.1 (c.2.tick e c.1)) []
    follow := (List.range 40).foldl (fun m d => if d = 36 then m
      else Store.set Follower.reset m d ((s.follower d).tick (s.cox.clkPres.getLsbD d) s.now)) s.mesh.follow } }

/-- The first `n` edges of clk_core from position `p` that the gate of L3 suppresses: the first of every four (R26, R289). Which of
the four: DESIGN CHOICE, log 74. -/
def suppressed (p n : Nat) : Nat := (p + n + 3) / 4 - (p + 3) / 4

/-- One cycle of clk_ref that adds `ns` to the timebase: the edges of every domain are counted, and the occupancies. In OFF and
under a reset only the Plinth runs; in REST the counters hold (R348). -/
def State.tick (s : State) (ns : Nat) : State :=
  if !s.refRuns then s
  else
    let t := s.now
    let s := { s with plinth := { s.plinth with now := t + ns } }
    if !s.portUp then s
    else
      let n := Config.edges 0 t
      let gated := decide (3 ≤ s.level)
      let p := s.modes.gatePos
      let e (d : Nat) : Nat := if d = 0 then (if gated then n - suppressed p n else n) else Config.edges d t
      let s := { s with modes := { s.modes with gatePos := if gated then (p + n) % 4 else 0 } }
      let s := (List.range 40).foldl (fun s d => let c := s.dc d; s.setDc d { c with value := c.value + BitVec.ofNat 48 (e d) }) s
      let s := s.tickMesh e
      let s := allSlices.foldl (fun s i => s.tickSl i (e 0)) s
      let s := allAtts.foldl (fun s k => s.tickAtt k (e 0) (e (1 + k.toNat))) s
      allPorts.foldl (fun s m => s.tickMp m (e 0) (e (17 + m.toNat / 2))) s

/-- TIMEBASE_SLEW_STEP (R369): a cycle of clk_ref in which the timebase adds 11 or 9; 15 cycles of 10 stand between two of them. -/
def execTimebaseSlewStep (s : State) : Host.Outcome State Fault Refusal :=
  let e := s.plinth.slew
  if e = 0 ∨ !s.refRuns ∨ s.now < s.plinth.slewNext then .next s
  else
    let up := decide (0 < e)
    let s := s.tick (if up then 11 else 9)
    .next { s with plinth := { s.plinth with slew := if up then e - 1 else e + 1, slewNext := s.now + 150 } }

/-- OPERATING_MINUTE (R361). -/
def execOperatingMinute (s : State) : Host.Outcome State Fault Refusal :=
  if !s.modes.railAon ∨ s.modes.aonPin then .next s
  else if s.mode = .rest then .next { s with plinth := { s.plinth with rest := s.plinth.rest + 1 } }
  else .next { s with plinth := { s.plinth with active := s.plinth.active + 1 } }

/-! ## JTAG (R423) -/

/-- DEBUG_UNLOCK. -/
def execDebugUnlock (level : Bool) (s : State) : Host.Outcome State Fault Refusal :=
  .next { s with plinth := { s.plinth with dbgPin := level } }

end Sys2Proof.Machine
end

