-- ==== Sys2Proof/Machine/Lockstep.lean ====
section
/-! DEFINITION. The pass of a slice as the lockstep pipelines make it (R17, R130, R375 to R377): the compare, the lookup that goes
with it, what the pass does, and the resources that it leaves to escalated requests; and the rows that are passes. A command
that names work the slice does not have leaves the state unchanged (log 1). -/

namespace Sys2Proof.Machine

/-! ## A pass -/

/-- What a pass does once its outcome has been compared. -/
def State.runPass (s : State) (i : SliceId) (p : Pass) (chk : PassCheck) : State :=
  match p with
  | .newReq r => let (s, r) := s.smpSelect i r; s.newRequest i r false chk
  | .write r => s.newRequest i r true chk
  | .rsp m => s.rspPass i m
  | .rpt r => s.rptPass i r
  | .handOver l h => s.handOver i l h chk
  | .castRd t a rd => s.readPass i t a rd chk
  | .castWr c st => s.writePass i c st
  | .escRetry => s.escRetry i chk
  | .recallStart t => s.recallPass i t chk
  | .recoverStart l m => s.recoverPass i l m
  | .sweepStep f => s.sweepPass i f
  | .scrubStep f b => s.scrubPass i f b
  | .rebuildStep => s.rebuildPass i
  | .admitStep b => s.admitPass i b
  | .writeBack b => s.writeBackPass i b

/-- A pass looks its line up (R427): every one but those that name their slot by HTAG. -/
def Pass.looks : Pass → Bool
  | .rsp (.eack _ _) => false
  | .rpt p => p.htag.isNone
  | _ => true

/-- The line that a pass looks up: its own, or that of the transit entry it names. A background step looks up more than a line, or
none, and counts as one lookup: DEDUCED, log 57. -/
def Slice.lineOf (x : Slice) (p : Pass) : Option Line :=
  match p with
  | .castRd t _ _ => (x.tr t).map (·.e.line)
  | .castWr c _ => (x.tr c.transit).map (·.e.line)
  | .recallStart t => (x.tr t).map (·.e.line)
  | p => p.line

/-- The passes that read the stored bits of their line's way here; the others do so where they use the entry (R379). -/
def Pass.checks : Pass → Bool
  | .rsp _ => true
  | .rpt _ => true
  | .castRd _ _ _ => true
  | .castWr _ _ => true
  | .recallStart _ => true
  | .recoverStart _ _ => true
  | _ => false

/-- The resource that an escalated request lacked in `x` and that is free in `y` (R141): a chain or its reserved slot where its line is
held, else a way of its set, a transit entry, or a run for its line's entry. -/
def Slice.freedFor (x y : Slice) (r : Req) : List Res :=
  let l := r.q.laddr
  if x.escPlaced r && !(x.escPark.any (fun p => decide (p.2.q.agent = r.q.agent) && decide (p.2.q.tag = r.q.tag))) then []
  else
    let chain : List Res := if x.wantsChain r then (y.freeChain.map Res.chain).toList else []
    let seat : List Res := match x.findChain l, y.findChain l with
      | some (_, c), some (n, d) => if c.esc.isSome ∧ d.esc.isNone ∧ y.keeps (.seat n) = false then [.seat n] else []
      | _, _ => []
    let way : List Res :=
      if (x.findWay l).isNone && (x.freeWay (setOf l)).isNone && (x.victim (setOf l)).isNone then
        (((y.freeWay (setOf l)).orElse (fun _ => (y.victim (setOf l)).map (·.1))).map Res.way).toList
      else []
    let tr : List Res := if x.freeTr.isNone then (y.freeTr.map Res.transit).toList else []
    let run : List Res := match x.findWay l with
      | some (_, e) =>
        let h := addAgent r.q.agent e.holders
        if (x.runFor (some e) h).isNone then ((y.findRun (poolBlocks h)).map (fun k => Res.run k (poolBlocks h))).toList else []
      | none => []
    chain ++ seat ++ way ++ tr ++ run

/-- What a pass has freed is reserved for the escalated requests that waited for it, oldest ticket first (R141). -/
def State.keepFreed (s : State) (i : SliceId) (x : Slice) : State :=
  if x.escSlots = [] then s
  else
    x.escOrder.foldl (fun s r =>
      if (s.sl i).escSlots.any (fun e => decide (e.q.agent = r.q.agent) && decide (e.q.tag = r.q.tag)) then
        s.modSl i (fun y => { y with kept := y.kept ++ (x.freedFor y r).map (fun k => (k, r.q.agent, r.q.tag)) })
      else s) s

/-- A pass with its compare (R375 to R377), its lookup (R74, R427), its effect, and what follows it in the same pass. -/
def State.pass (s : State) (i : SliceId) (p : Pass) (n : Nat) (chk : PassCheck) : State :=
  let s := s.count (cSl i 0) 1
  if chk.mismatch then s.mismatch i p n
  else
    let x := s.sl i
    let l := x.lineOf p
    let s := if p.looks then s.lookTick i l else s
    let s := match l with
      | some l => if p.checks then s.wayCheck i l chk else s
      | none => s
    let s := (s.modSl i (fun x => { x with vic := chk.victim })).runPass i p chk
    ((s.modSl i (fun x => { x with vic := .clean })).keepFreed i x).scanDone i

/-- A background pass: its wait begins again (R130). -/
def State.bgPass (s : State) (i : SliceId) (p : Pass) (chk : PassCheck) : State :=
  (s.modSl i (fun x => { x with bgWait := 0 })).pass i p 0 chk

/-! ## The rows of WB, RSP and NEW -/

/-- NEW_REQUEST_PASS (R98): the head of NEW has the pass; none while the header write that opens admission is outstanding
(R82, R278). -/
def execNewRequestPass (i : SliceId) (chk : PassCheck) (s : State) : Host.Outcome State Fault Refusal :=
  if s.passGo i ∧ (s.cast.writes = 0 ∨ s.mode = .quiesce) then
    match s.headNew i with
    | some (r, rest) => .next ((s.modSl i (fun x => x.popNew rest)).pass i (.newReq r) 0 chk)
    | none => .next s
  else .next s

/-- SNOOP_RESPONSE_PASS (R103, R148): a snoop response, or a CONFLICT, at the head of RSP. That a CONFLICT takes this row: DEDUCED,
log 58. -/
def execSnoopResponsePass (i : SliceId) (s : State) (chk : PassCheck := .clean) : Host.Outcome State Fault Refusal :=
  if s.passGo i then
    match s.headRsp i with
    | some (.eack _ _, _) => .next s
    | some (m, rest) => .next ((s.modSl i (fun x => { x with rsp := rest })).pass i (.rsp m) 0 chk)
    | none => .next s
  else .next s

/-- EGRESS_ACK_PASS (R427). -/
def execEgressAckPass (i : SliceId) (s : State) (chk : PassCheck := .clean) : Host.Outcome State Fault Refusal :=
  if s.passGo i then
    match s.headRsp i with
    | some (.eack a h, rest) => .next ((s.modSl i (fun x => { x with rsp := rest })).pass i (.rsp (.eack a h)) 0 chk)
    | _ => .next s
  else .next s

/-- SNOOP_RESPONSE_WRITE (R106): the head of WB; with no flow that snoops its agent it is an ordinary request (R147). -/
def execSnoopResponseWrite (i : SliceId) (s : State) (chk : PassCheck := .clean) : Host.Outcome State Fault Refusal :=
  if s.passGo i then
    match s.headWb i with
    | some (r, rest) => .next ((s.modSl i (fun x => { x with wb := rest })).pass i (.write r) 0 chk)
    | none => .next s
  else .next s

/-! ## The rows of INT -/

/-- The head of INT has the pass and is a message that a row stands for: it leaves the queue, and its pass runs. -/
def State.intPass (s : State) (i : SliceId) (f : IntMsg → Option (Pass × Nat)) (chk : PassCheck) : State :=
  if s.passGo i then
    match s.headInt i with
    | some (m, rest) =>
      (match f m with
       | some (p, n) => (s.modSl i (fun x => { x with int := rest })).pass i p n chk
       | none => s)
    | none => s
  else s

/-- HAND_OVER_PASS (R134). -/
def execHandOverPass (i : SliceId) (chk : PassCheck) (s : State) : Host.Outcome State Fault Refusal :=
  .next (s.intPass i (fun m => match m with | .handOver l h => some (.handOver l h, 0) | _ => none) chk)

/-- PORT_RPT (R108). -/
def execPortRpt (i : SliceId) (s : State) (chk : PassCheck := .clean) : Host.Outcome State Fault Refusal :=
  .next (s.intPass i (fun m => match m with | .rpt p => some (.rpt p, 0) | _ => none) chk)

/-- REPLAY (R376, R377): the head of INT is a replay with its count. -/
def execReplay (i : SliceId) (chk : PassCheck) (s : State) : Host.Outcome State Fault Refusal :=
  .next (s.intPass i (fun m => match m with | .replay p n => some (p, n) | _ => none) chk)

/-- ESCALATION_RETRY (R141). -/
def execEscalationRetry (i : SliceId) (s : State) (chk : PassCheck := .clean) : Host.Outcome State Fault Refusal :=
  .next (s.intPass i (fun m => match m with | .escRetry => some (.escRetry, 0) | _ => none) chk)

/-- A bucket read belongs to the insertion that runs (R85). -/
def Slice.isHand (x : Slice) (t : Nat) : Bool := ((x.tr t).map (fun v => decide (v.kind = .spill))).getD false

/-- CAST_FETCH_RETURN (R88): a bucket read of a fetch, an update, a delete or a scan is at the head of INT. -/
def execCastFetchReturn (i : SliceId) (s : State) (chk : PassCheck := .clean) : Host.Outcome State Fault Refusal :=
  .next (s.intPass i (fun m => match m with
    | .castRd t a rd => if (s.sl i).isHand t then none else some (.castRd t a rd, 0)
    | _ => none) chk)

/-- CUCKOO_BUCKET_READ (R85): a read of the insertion is at the head of INT. -/
def execCuckooBucketRead (i : SliceId) (s : State) (chk : PassCheck := .clean) : Host.Outcome State Fault Refusal :=
  .next (s.intPass i (fun m => match m with
    | .castRd t a rd => if (s.sl i).isHand t then some (.castRd t a rd, 0) else none
    | _ => none) chk)

/-- CAST_WRITE_COMPLETION (R88, R432). -/
def execCastWriteCompletion (i : SliceId) (s : State) (chk : PassCheck := .clean) : Host.Outcome State Fault Refusal :=
  .next (s.intPass i (fun m => match m with | .castWr c st => some (.castWr c st, 0) | _ => none) chk)

/-- CAPACITY_RECALL_START (R124). -/
def execCapacityRecallStart (i : SliceId) (s : State) (chk : PassCheck := .clean) : Host.Outcome State Fault Refusal :=
  .next (s.intPass i (fun m => match m with | .recallStart t => some (.recallStart t, 0) | _ => none) chk)

/-- BROADCAST_RECOVERY_START (R383). -/
def execBroadcastRecoveryStart (i : SliceId) (s : State) (chk : PassCheck := .clean) : Host.Outcome State Fault Refusal :=
  .next (s.intPass i (fun m => match m with | .recoverStart l k => some (.recoverStart l k, 0) | _ => none) chk)

/-! ## The rows of the background class -/

/-- Background steps run: in modes in which slices run, but for QUIESCE, where they pause (R281). -/
def State.bgGo (s : State) (i : SliceId) : Bool := s.passGo i && decide (s.mode ≠ .quiesce) && s.bgMay i

/-- DEPARTURE_SWEEP_STEP (R59). -/
def execDepartureSweepStep (i : SliceId) (chk : PassCheck) (finds : List (BitVec 4 × Ecc)) (s : State) :
    Host.Outcome State Fault Refusal :=
  if s.bgGo i ∧ (s.sl i).swept ≠ [] then .next (s.bgPass i (.sweepStep finds) chk) else .next s

/-- PATROL_SCRUB_STEP (R378). -/
def execPatrolScrubStep (i : SliceId) (finds : List (BitVec 4 × Ecc)) (bad : List (BitVec 20)) (s : State) (chk : PassCheck := .clean) :
    Host.Outcome State Fault Refusal :=
  if s.bgGo i ∧ s.level < 2 then .next (s.bgPass i (.scrubStep finds bad) chk) else .next s

/-- SILHOUETTE_REBUILD_STEP (R92). -/
def execSilhouetteRebuildStep (i : SliceId) (chk : PassCheck) (s : State) : Host.Outcome State Fault Refusal :=
  if s.bgGo i ∧ s.level < 2 ∧ (s.sl i).rebuild.isSome then .next (s.bgPass i .rebuildStep chk) else .next s

/-- ADMISSION_SCAN_STEP (R93). -/
def execAdmissionScanStep (i : SliceId) (b : BitVec 12) (chk : PassCheck) (s : State) : Host.Outcome State Fault Refusal :=
  if s.bgGo i ∧ s.level < 2 ∧ s.scans i b then .next (s.bgPass i (.admitStep b) chk) else .next s

/-- BUCKET_WRITE_BACK (R296): in QUIESCE as well, where a move in progress completes (R295). -/
def execBucketWriteBack (b : BitVec 12) (s : State) (chk : PassCheck := .clean) : Host.Outcome State Fault Refusal :=
  match s.moveOf b with
  | none => .next s
  | some m =>
    if m.st = .marked ∧ s.passGo m.src ∧ s.bgMay m.src then .next (s.bgPass m.src (.writeBack b) chk) else .next s

end Sys2Proof.Machine
end

