-- ==== Sys2Proof/Machine/Rehome.lean ====
section
/-! DEFINITION. Re-homing (R294 to R298): the commands that move buckets between slices, and the four steps of a move. -/

namespace Sys2Proof.Machine

/-! ## The commands (R295) -/

/-- HMAP_STAT.BUSY. -/
def State.hmapBusy (s : State) : Bool := s.hmap.resize.isSome || decide (s.hmap.moves ≠ [])

/-- A command is accepted: SERVE or SHED, and none runs. -/
def State.hmapTakes (s : State) : Bool := (decide (s.mode = .serve) || decide (s.mode = .shed)) && !s.hmapBusy

/-- A command is refused. -/
def State.hmapRefuse (s : State) : State := s.putF ⟨0x4800C, 19, 1⟩ 1

/-- A slice that is left with no bucket becomes inactive (R295): requests that still wait for a pass bounce (R297), its arrays
hold nothing, and its sweeps are over. The positions of the scan and of the scrub stay (R59, R378). -/
def State.deactivate (s : State) (i : SliceId) : State :=
  let s := (s.sl i).new.foldl (fun s r => s.bounceReq i r) s
  let x := s.sl i
  let gone := x.swept.map (·.agent) ++ x.sweepWait
  let s := s.setSl i { Slice.reset with
    active := false, nextTag := x.nextTag, sampCnt := x.sampCnt, sampSeq := x.sampSeq, decayAt := x.decayAt,
    decayPer := x.decayPer, calQ := x.calQ, calLast := x.calLast, sampFly := x.sampFly, sampOvf := x.sampOvf, scanPos := x.scanPos, scrubSet := x.scrubSet }
  gone.foldl (fun s a =>
    if allSlices.any (fun j => (s.sl j).swept.any (fun w => decide (w.agent = a)) || (s.sl j).sweepWait.contains a) then s
    else s.sweepOff a) s

/-- A resize ends when its last bucket has moved (R295). -/
def State.resizeEnd (s : State) : State :=
  match s.hmap.resize with
  | none => s
  | some n =>
    if s.hmap.moves ≠ [] then s
    else
      let s := { s with hmap := { s.hmap with resize := none, count := n } }
      let s := allSlices.foldl (fun s i => if (s.sl i).active ∧ s.nextHomed i 0 = none then s.deactivate i else s) s
      s.fire (evG 27)

/-- A move that has not started. -/
def Move.new (b : BitVec 12) (src dst : SliceId) : Move := { bucket := b, src := src, dst := dst, st := .waiting, mask := [] }

/-- A slice becomes active (R295): its decay periods begin now. DESIGN CHOICE, log 60. -/
def State.activate (s : State) (i : SliceId) : State :=
  if (s.sl i).active then s
  else s.modSl i (fun x => { x with active := true, decayAt := s.now, decayPer := s.fld (Fld.sl i 0x288 8 16) })

/-- HMAP_RESIZE.GO: the buckets whose home differs from T_TARGET move, in ascending order; growth activates its slices
first. -/
def State.resizeGo (s : State) (n : BitVec 2) : State :=
  if !s.hmapTakes then s.hmapRefuse
  else
    let moves := (List.range 4096).filterMap (fun k =>
      let b := BitVec.ofNat 12 k
      if s.homeOf b = targetHome n b then none else some (Move.new b (s.homeOf b) (targetHome n b)))
    let s := { s with hmap := { s.hmap with resize := some n, moves := moves } }
    let s := allSlices.foldl (fun s i => if inActive n i.toNat then s.activate i else s) s
    s.resizeEnd

/-- RESIZE (R295). -/
def execResize (target : BitVec 2) (s : State) : Host.Outcome State Fault Refusal :=
  if s.fwUp then .next ((s.putF ⟨0x48004, 0, 2⟩ target.toNat).resizeGo target) else .next s

/-- HMAP_MOVE.GO: one bucket; refused where the destination is not active. -/
def State.moveGo (s : State) (b : BitVec 12) (dst : SliceId) : State :=
  if !s.hmapTakes ∨ !(s.sl dst).active then s.hmapRefuse
  else if s.homeOf b = dst then s.fire (evG 27)
  else { s with hmap := { s.hmap with moves := [Move.new b (s.homeOf b) dst] } }

/-- MOVE (R295). -/
def execMove (b : BitVec 12) (dst : SliceId) (s : State) : Host.Outcome State Fault Refusal :=
  if s.fwUp then .next (((s.putF ⟨0x48008, 0, 12⟩ b.toNat).putF ⟨0x48008, 12, 6⟩ dst.toNat).moveGo b dst) else .next s

/-! ## Step 1: mark moving -/

/-- A move may start: SERVE or SHED, MAXMOVE not reached, none out of the same slice, and every bucket below it that waits
stands behind a move out of its own slice (R295). -/
def State.mayMark (s : State) (m : Move) : Bool :=
  (decide (s.mode = .serve) || decide (s.mode = .shed)) && decide (m.st = .waiting)
    && decide ((s.hmap.moves.filter (fun x => decide (x.st ≠ .waiting))).length < s.fld ⟨0x48000, 2, 7⟩)
    && !s.hmap.moves.any (fun x => decide (x.src = m.src) && decide (x.st ≠ .waiting))
    && decide (s.hmap.moves.find? (fun x => decide (x.st = .waiting)
      && !s.hmap.moves.any (fun y => decide (y.src = x.src) && decide (y.st ≠ .waiting))) = some m)

/-- BUCKET_MARK_MOVING (R296): the reservations on its lines are lost. -/
def execBucketMarkMoving (b : BitVec 12) (s : State) : Host.Outcome State Fault Refusal :=
  match s.moveOf b with
  | some m =>
    if s.mayMark m then
      .next ((s.modMove b (fun m => { m with st := .marked })).loseRsv m.src (fun r => decide (bucketOf r.line = b)))
    else .next s
  | none => .next s

/-! ## Step 3: advance the epoch -/

/-- The partition is swept at its new slice for an agent that the mask does not name: unless the agent's circle there has
still to come to it. -/
def State.sweepGained (s : State) (i : SliceId) (b : BitVec 12) (a : AgentId) : State :=
  s.modSl i (fun x =>
    if x.sweepWait.contains a then x
    else if x.swept.any (fun w => decide (w.agent = a)) then
      { x with swept := x.swept.map (fun w => if w.agent = a ∧ !w.extra.contains b then { w with extra := w.extra ++ [b] } else w) }
    else if x.swept.length < 16 then
      { x with swept := x.swept ++ [{ agent := a, start := x.scanPos, whole := true, extra := [b] }] }
    else { x with sweepWait := x.sweepWait ++ [a] })

/-- EPOCH wraps from 0xFFFF to 1. -/
def nextEpoch (e : BitVec 16) : BitVec 16 := if e = 0xFFFF then 1 else e + 1

/-- An edge router (R14, R296): rows 0 to 7 west, 8 to 15 east. Its commands name unit 0: DESIGN CHOICE, log 29. -/
def edgePlace (r : Nat) : Place := ⟨r % 8 * 10 + r / 8 * 9, 0⟩

/-- HANDOVER (R93, R296): the new slice takes the count and the mask, marks the bucket in bypass, and the map update goes to
the 16 edge routers. -/
def execHandover (i : SliceId) (s : State) : Host.Outcome State Fault Refusal :=
  match s.hmap.hands.find? (fun h => decide (h.1 = i)) with
  | none => .next s
  | some h =>
    let b := h.2.1
    let s := { s with hmap := { s.hmap with hands := s.hmap.hands.erase h } }
    let s := s.modSl i (fun x => { x.putRecN b h.2.2.1 with bypass := x.bypass ++ [{ bucket := b, next := 0 }] })
    let owing := (s.agents.filter (fun e => e.2.sweep)).map (fun e => (BitVec.ofNat 12 e.1 : AgentId))
    let s := (owing.filter (fun a => !h.2.2.2.contains a)).foldl (fun s a => s.sweepGained i b a) s
    let s := s.modMove b (fun m => { m with st := .updating [] })
    let s := (List.range 16).foldl (fun s r => s.inject (.slice i) (edgePlace r) 0x25 (mapBody 0 b i (nextEpoch s.hmap.epoch)) []) s
    .next { s with hmap := { s.hmap with
      sets := s.hmap.sets ++ (List.range 16).map (fun r => (BitVec.ofNat 4 r, b, i, nextEpoch s.hmap.epoch)) } }

/-- MAP_SET (R296): an edge router takes the new home of a bucket and acknowledges. -/
def execMapSet (row : BitVec 4) (s : State) : Host.Outcome State Fault Refusal :=
  match s.hmap.sets.find? (fun x => decide (x.1 = row)) with
  | none => .next s
  | some x =>
    let (b, i, e) := x.2
    let s := s.inject (edgePlace row.toNat) (.slice i) 0x25 (mapBody 1 b 0 e) []
    .next { s with hmap := { s.hmap with
      sets := s.hmap.sets.erase x, edges := Store.set none s.hmap.edges (row.toNat * 4096 + b.toNat) (some i),
      acks := s.hmap.acks ++ [(row, b, e)] } }

/-! ## Step 4: the commit (R296, R297) -/

/-- The map names a bucket's new home. -/
def State.mapTo (s : State) (b : BitVec 12) (i : SliceId) : State :=
  let plain := match s.hmap.init with | some n => decide (targetHome n b = i) | none => false
  let edges := (List.range 16).foldl (fun m r => Store.set none m (r * 4096 + b.toNat) none) s.hmap.edges
  { s with hmap := { s.hmap with
    moved := Store.set none s.hmap.moved b.toNat (if plain then none else some i), edges := edges, epoch := nextEpoch s.hmap.epoch,
    moves := s.hmap.moves.filter (fun m => !decide (m.bucket = b)) } }

/-- The old slice after the commit: held requests bounce, the count is gone, no sweep owes the partition, and a rebuild starts
unless one runs (R93, R297). -/
def State.loseBucket (s : State) (i : SliceId) (b : BitVec 12) : State :=
  let mine (r : Req) : Bool := decide (bucketOf r.q.laddr = b)
  let held := (s.sl i).moveHold.filter mine
  let s := s.modSl i (fun x => { x.putRecN b 0 with
    moveHold := x.moveHold.filter (fun r => !mine r),
    swept := x.swept.map (fun w => { w with extra := w.extra.filter (fun c => !decide (c = b)) }),
    bypass := x.bypass.filter (fun p => !decide (p.bucket = b)), permByp := x.permByp.filter (fun c => !decide (c = b)) })
  let s := s.modSl i (fun x => if x.rebuild.isSome then x else x.startRebuild)
  held.foldl (fun s r => s.bounceReq i r) (s.kickEsc i)

/-- The epoch is committed. -/
def State.commitMove (s : State) (m : Move) : State :=
  let s := ((s.mapTo m.bucket m.dst).loseBucket m.src m.bucket)
  let s := (s.fire (evSl m.src 13)).fire (evSl m.dst 13)
  if s.hmap.resize.isSome then s.resizeEnd else s.fire (evG 27)

/-- MAP_ACK (R296): the 16th commits the epoch. -/
def execMapAck (s : State) : Host.Outcome State Fault Refusal :=
  match s.hmap.acks with
  | [] => .next s
  | (row, b, _) :: rest =>
    let s := { s with hmap := { s.hmap with acks := rest } }
    match s.moveOf b with
    | none => .next s
    | some m =>
      match m.st with
      | .updating l =>
        let l := if l.contains row then l else l ++ [row]
        if l.length = 16 then .next (s.commitMove m) else .next (s.modMove b (fun m => { m with st := .updating l }))
      | _ => .next s

end Sys2Proof.Machine
end

