-- ==== Sys2Proof/Machine/Regs.lean ====
section
/-! DEFINITION. Register access (chapters 11 and 16): what a word reads as, what a write to it does, broadcast and group
windows, collisions, and reads. -/

namespace Sys2Proof.Machine

/-! ## What a word reads as -/

/-- A word with computed fields: (bit, value) pairs; each value fits the bits up to the next field. -/
def fields (fs : List (Nat × Nat)) : Word32 := BitVec.ofNat 32 (fs.foldl (fun n f => n + f.2 * 2 ^ f.1) 0)

/-- The two bits of a gate's STATE (R275). -/
def GateSt.code : GateSt → Nat
  | .opened => 0 | .closing => 1 | .drained => 2 | .opening => 3

/-- HLB_STAT.MODE (R185). -/
def HMode.code : HMode → Nat
  | .enabled => 0 | .disabling => 1 | .disabled => 2

/-- MP_STAT.WSTATE (R242). -/
def Port.wstate (p : Port) : Nat :=
  match p.win with
  | .drain _ _ _ _ => 2
  | .window _ _ => 3
  | .none => if p.winReq.isSome then 1 else 0

/-- A slice register (R401); `o` is its offset, `w` the stored word. -/
def State.readSl (s : State) (i : SliceId) (o : Nat) (w : Word32) : Word32 :=
  let x := s.sl i
  if o = 0x200 then fields [(0, (x.dir.filter (fun p => p.2.isSome)).length), (17, x.poolUsed.length)]
  else if o = 0x204 then fields [(0, x.recCnt)]
  else if o = 0x20C then fields [(0, x.sticky), (21, x.rebuild.isSome.toNat), (22, x.bypass.length)]
  else if o = 0x240 then fields [(0, x.slotList.length), (11, x.waiters + x.escWaiters + x.escPark.length), (20, x.chainList.length), (26, x.escSlots.length)]
  else if o = 0x244 then w ||| fields [(0, x.roster.length)]
  else if o = 0x280 then w ||| fields [(0, x.rsvs.length)]
  else if o = 0x2C0 then w ||| fields [(0, x.moveHold.length)]
  else if o = 0x310 then w ||| fields [(16, x.permByp.length)]
  else w

/-- A memory-port register (R401). -/
def State.readMp (s : State) (m : PortId) (o : Nat) (w : Word32) : Word32 :=
  let p := s.mp m
  if o = 0x100 then fields [(0, p.ready.toNat), (1, p.wstate), (3, (p.outq.filter (fun e => e.2.isSome)).length), (12, p.tokens)]
  else if o = 0x118 then w ||| fields [(0, p.gate.code)]
  else if o = 0x408 then
    let absorb := decide (p.hmode = .enabled) && decide (s.level < 4) && decide (s.mode ≠ .quiesce)
    fields [(0, p.hmode.code), (2, p.dirtyCnt), (15, p.wayList.length), (30, absorb.toNat), (31, p.flushing.toNat)]
  else w

/-- A link-attachment register (R401). -/
def State.readLa (s : State) (k : AttId) (o : Nat) (w : Word32) : Word32 :=
  let a := s.att k
  if o = 0x120 then fields [(0, a.order.length), (10, a.gated)]
  else if o = 0x128 then w ||| fields [(0, (a.fences.filter (fun f => f.2.isSome)).length)]
  else if o = 0x150 then w ||| fields [(1, a.gate.code)]
  else w

/-- A router register (R401). -/
def State.readRt (s : State) (i o : Nat) (w : Word32) : Word32 :=
  let r := s.router i
  if o = 0 then w ||| fields [(0, r.bounce.toNat), (8, r.reconf.isSome.toNat)]
  else if o = 0x118 then r.prb0.setWidth 32
  else if o = 0x11C then r.latch0.setWidth 32
  else if o = 0x138 then r.prb1.setWidth 32
  else if o = 0x13C then r.latch1.setWidth 32
  else w

/-- An agent-table word (R52); entry 0xFFF reads 0. -/
def State.readAgent (s : State) (a : AgentId) (n : Nat) : Word32 :=
  let x := s.agent a
  if a = 0xFFF then 0
  else if n = 0 then fields [(0, x.st.code), (3, x.la.toNat), (8, x.perfRead.toNat), (9, x.hatom.toNat), (10, x.rsv.toNat),
    (11, x.sweep.toNat), (12, x.result.toNat), (16, x.tocnt.toNat)]
  else if n = 1 then fields [(0, x.snpTo.toNat), (16, x.backoff.toNat)]
  else if n = 2 then x.held
  else 0

/-- A counter's word (R350). -/
def State.readCnt (s : State) (i n : Nat) : Word32 :=
  let c := s.cnt i
  if cReserved i then 0
  else if n = 0 then c.value.setWidth 32
  else if n = 1 then c.latch.setWidth 32
  else if n = 2 then c.preset.setWidth 32
  else fields [(0, c.preset.toNat / 2 ^ 32), (18, c.reload.toNat), (19, c.sample.toNat), (20, c.armed.toNat), (21, c.ovf.toNat)]

/-- Bytes 4w to 4w + 3 of a message. -/
def wordOf (bs : List Byte) (w : Nat) : Word32 := BitVec.ofNat 32 (natOfBytes (slice bs (4 * w) 4))

/-- The event-controller block (R334). -/
def State.readEv (s : State) (o : Nat) (w : Word32) : Word32 :=
  if o < 0x2000 then s.evWord (o / 4)
  else if o < 0x2080 then
    let n := BitVec.ofNat 3 (o / 16)
    if o % 16 = 0 then s.events.claim.setWidth 32 else if o % 16 = 12 then s.tgtStat n else w
  else if 0x2100 ≤ o ∧ o < 0x2200 then
    fields ((List.range 32).map (fun j => (j, ((s.ev (32 * ((o - 0x2100) / 4) + j)).pending).toNat)))
  else if 0x2200 ≤ o ∧ o < 0x2300 then
    fields ((List.range 32).map (fun j => (j, ((s.ev (32 * ((o - 0x2200) / 4) + j)).active).toNat)))
  else w

/-- The counter-control block (R349). -/
def State.readCtl (s : State) (o : Nat) (w : Word32) : Word32 :=
  if o = 0x10 then w ||| fields [(2, s.counts.snap.busy.isSome.toNat)]
  else if 0x80 ≤ o ∧ o < 0xC0 then (s.ringAt (s.fld ⟨0x20070, 0, 12⟩)).extractLsb' (32 * ((o - 0x80) / 4)) 32
  else if 0x400 ≤ o ∧ o < 0x540 then
    let c := s.dc ((o - 0x400) / 8)
    if o % 8 = 0 then c.value.setWidth 32 else c.latch.setWidth 32
  else w

/-- The Cox block (R371). -/
def State.readCox (s : State) (o : Nat) (w : Word32) : Word32 :=
  let c := s.cox
  if o = 4 then w ||| fields [(0, c.running.toNat)]
  else if o = 0x140 then w ||| fields [(1, c.h2cFull.toNat)]
  else if 0x180 ≤ o ∧ o < 0x1C0 then wordOf c.c2h ((o - 0x180) / 4)
  else if o = 0x1C0 then fields [(0, c.c2hReady.toNat)]
  else if 0x200 ≤ o ∧ o < 0x240 then wordOf c.s2c ((o - 0x200) / 4)
  else if o = 0x240 then w ||| fields [(0, c.s2cFull.toNat), (1, c.c2sReady.toNat)]
  else if 0x280 ≤ o ∧ o < 0x2C0 then wordOf c.c2s ((o - 0x280) / 4)
  else if o = 0x488 then c.clkPres.setWidth 32
  else if o = 0x48C then (c.clkPres >>> 32).setWidth 32
  else if 0x820 ≤ o ∧ o < 0x840 then (Store.get 0 c.log (s.fld ⟨0x30804, 0, 11⟩)).extractLsb' (32 * ((o - 0x820) / 4)) 32
  else if o = 0xC00 then BitVec.ofNat 32 s.now
  else if o = 0xC04 then s.plinth.hiLatch
  else if o = 0xC14 then w ||| fields [(1, (decide (s.plinth.slew ≠ 0)).toNat)]
  else if o = 0xD00 then s.plinth.active
  else if o = 0xD04 then s.plinth.rest
  else w

/-- Ports in drain or in a window. -/
def State.windows (s : State) : Nat := (allPorts.filter (fun m => decide ((s.mp m).win ≠ .none))).length

/-- The home-map block (R300). -/
def State.readHmap (s : State) (o : Nat) (w : Word32) : Word32 :=
  if o < 0x4000 then
    let b := BitVec.ofNat 12 (o / 4)
    fields [(0, (s.homeOf b).toNat), (6, ((s.moveOf b).map (fun m => decide (m.st ≠ .waiting))).getD false |>.toNat)]
  else if o = 0x800C then
    w ||| fields [(0, s.hmap.epoch.toNat), (16, s.hmap.count.toNat), (18, s.hmapBusy.toNat),
      (20, s.hmap.moves.length)]
  else if o = 0xC000 then BitVec.ofNat 32 s.castBase
  else if o = 0xC008 then fields [(0, s.cast.gen.toNat), (7, s.cast.carried.toNat), (8, s.cast.init.toNat), (9, s.cast.hdrNew.toNat)]
  else if o = 0xC00C then s.cast.dsc
  else w

/-- GLB_STAT (R407). -/
def State.glbStat (s : State) : Word32 :=
  fields [(0, s.mode.code), (3, s.level), (6, s.fld ⟨0x1000, 14, 1⟩), (7, (decide (s.fld ⟨0x70100, 0, 8⟩ ≠ 0)).toNat),
    (8, s.modes.drained.toNat), (9, s.cast.init.toNat), (10, (allSlices.any (fun i => (s.sl i).rebuild.isSome)).toNat),
    (11, s.hmapBusy.toNat), (12, (allPorts.any (fun m => (s.mp m).flushing) || decide (s.fld ⟨0x70114, 0, 1⟩ = 1)).toNat),
    (13, (decide (s.windows ≠ 0)).toNat), (14, (allPorts.all (fun m => (s.mp m).ready)).toNat)]

/-- The word at a unicast address as a read returns it (R402, R403). -/
def State.readWord (s : State) (a : Nat) : Word32 :=
  let w := s.reg a
  if a = 8 then s.plinth.straps.setWidth 32
  else if a = 0x10 then s.glbStat
  else if a = 0x1014 then (if s.mode = .boot then 0 else w)
  else if a < 0x10000 then w
  else if a < 0x20000 then s.readEv (a - 0x10000) w
  else if a < 0x30000 then s.readCtl (a - 0x20000) w
  else if a < 0x40000 then s.readCox (a - 0x30000) w
  else if a < 0x50000 then s.readHmap (a - 0x40000) w
  else if a = 0x60014 then w ||| fields [(28, (decide (s.calAt ≤ s.now)).toNat)]
  else if a = 0x60028 then fields [(0, s.windows), (4, (allPorts.filter (fun m => (s.mp m).winReq.isSome)).length)]
  else if a = 0x70004 then fields [(0, s.mode.code), (3, s.level), (6, s.modes.drained.toNat), (7, s.modes.restPhase.toNat)]
  else if 0x80000 ≤ a ∧ a < 0x90000 then s.readAgent (BitVec.ofNat 12 ((a - 0x80000) / 16)) (a / 4 % 4)
  else if 0x400000 ≤ a ∧ a < 0x800000 then s.readSl (BitVec.ofNat 6 (a / 0x10000)) (a % 0x10000) w
  else if 0xA00000 ≤ a ∧ a < 0xC00000 then s.readMp (BitVec.ofNat 5 (a / 0x10000)) (a % 0x10000) w
  else if 0xD00000 ≤ a ∧ a < 0xE00000 then s.readLa (BitVec.ofNat 4 (a / 0x10000)) (a % 0x10000) w
  else if 0xE00000 ≤ a ∧ a < 0xE50000 then s.readRt ((a - 0xE00000) / 0x1000) (a % 0x1000) w
  else if 0xF00000 ≤ a ∧ a < 0xF0E000 then s.readCnt ((a - 0xF00000) / 16) (a / 4 % 4)
  else if 0xF80000 ≤ a ∧ a < 0xF87420 then
    let v := s.counts.snap.at8 ((a - 0xF80000) / 8)
    if a % 8 = 0 then v.setWidth 32 else (v >>> 32).setWidth 32
  else w

/-! ## Units, windows and gates -/

/-- The attachment whose window or counters hold an address, LA_GATE apart (R406). -/
def attOf (a : Nat) : Option AttId :=
  if 0xD00000 ≤ a ∧ a < 0xE00000 ∧ a % 0x10000 ≠ 0x150 then some (BitVec.ofNat 4 (a / 0x10000))
  else if 0xF08000 ≤ a ∧ a < 0xF0A000 then some (BitVec.ofNat 4 ((a - 0xF08000) / 0x200))
  else none

/-- The memory port whose window or counters hold an address, MP_GATE apart (R406). -/
def portAt (a : Nat) : Option PortId :=
  if 0xA00000 ≤ a ∧ a < 0xC00000 ∧ a % 0x10000 ≠ 0x118 then some (BitVec.ofNat 5 (a / 0x10000))
  else if 0xF0A000 ≤ a ∧ a < 0xF0E000 then some (BitVec.ofNat 5 ((a - 0xF0A000) / 0x200))
  else none

/-- The slice whose window holds an address. -/
def sliceAt (a : Nat) : Option SliceId := if 0x400000 ≤ a ∧ a < 0x800000 then some (BitVec.ofNat 6 (a / 0x10000)) else none

/-- A command for an address bounces at a gate (R406): what is counted. -/
def State.shutAt (s : State) (a : Nat) : Option State :=
  match attOf a with
  | some k => if s.attShut k then some (s.attBounced k) else none
  | none =>
    match portAt a with
    | some m => if s.mpShut m then some (s.mpBounced m) else none
    | none => none

/-- The members of a group mask word pair or word (R314). -/
def maskUnits (m : Nat) (n : Nat) : List Nat := (List.range n).filter (fun i => m.testBit i)

/-- The members of the broadcast or group window that holds an address, as (unit number, unicast address) (R313); none for a
unicast address. -/
def State.members (s : State) (a : Nat) : Option (List (Nat × Nat)) :=
  let o := a % 0x10000
  let sl (us : List Nat) : List (Nat × Nat) := us.map (fun u => (u, 0x400000 + 0x10000 * u + o))
  let mp (us : List Nat) : List (Nat × Nat) := us.map (fun u => (u, 0xA00000 + 0x10000 * u + o))
  let la (us : List Nat) : List (Nat × Nat) := us.map (fun u => (u, 0xD00000 + 0x10000 * u + o))
  if 0x800000 ≤ a ∧ a < 0x810000 then some (sl (List.range 64))
  else if 0x810000 ≤ a ∧ a < 0x910000 then
    let g := (a - 0x810000) / 0x10000
    some (sl (maskUnits ((s.reg (0x1100 + 8 * g)).toNat + 2 ^ 32 * (s.reg (0x1104 + 8 * g)).toNat) 64))
  else if 0xC00000 ≤ a ∧ a < 0xC10000 then some (mp (List.range 32))
  else if 0xC10000 ≤ a ∧ a < 0xC90000 then some (mp (maskUnits (s.reg (0x1180 + 4 * ((a - 0xC10000) / 0x10000))).toNat 32))
  else if 0xE80000 ≤ a ∧ a < 0xE90000 then some (la (List.range 16))
  else if 0xE90000 ≤ a ∧ a < 0xED0000 then some (la (maskUnits (s.reg (0x11A0 + 4 * ((a - 0xE90000) / 0x10000))).toNat 16))
  else none

/-- The unicast addresses a command goes to (R313), its two low address bits ignored (R318). -/
def State.targets (s : State) (a : RegAddr) : List Nat :=
  let a := a.toNat / 4 * 4
  match s.members a with
  | some ms => ms.map (·.2)
  | none => [a]

/-! ## WO commands -/

/-- The WO commands of a slice; an inactive slice ignores them (R405). -/
def State.woSl (s : State) (i : SliceId) (o : Nat) : State :=
  if !(s.sl i).active then s
  else if o = 0x210 then (if (s.sl i).rebuild.isSome then s else s.modSl i (fun x => x.startRebuild))
  else if o = 0x224 then s.clearFlowErr i
  else if o = 0x254 then s.clearSer i
  else if o = 0x290 then s.clearAtm i
  else if o = 0x314 then s.clearRas i
  else if o = 0xF0C then s.clearQueue (.slice i)
  else s

/-- The WO commands of a memory port. -/
def State.woMp (s : State) (m : PortId) (o : Nat) : State :=
  if o = 0x114 then s.clearMp m
  else if o = 0x410 then s.maintStart m
  else if o = 0x440 then s.clearHlb m
  else if o = 0xF0C then s.clearQueue (.port m)
  else s

/-- The WO commands of a link attachment. -/
def State.woLa (s : State) (k : AttId) (o : Nat) : State :=
  if o = 0x104 then s.clearRefuse k
  else if o = 0x130 then s.clearLaOrd k
  else if o = 0xF0C then s.clearQueue (.att k)
  else s

/-- The WO commands of a router; `v` holds the bits written to 1. -/
def State.woRt (s : State) (i : Fin 80) (o : Nat) (v : Word32) : State :=
  if o = 8 then
    let s := if v.getLsbD 0 then s.clearRtrLink i.val else s
    if v.getLsbD 1 then s.clearRtrProbe i.val else s
  else if o = 0xF0C then s.clearQueue (.router i)
  else if o = 0xF1C ∧ i.val = 0 then s.clearQueue .service
  else s

/-- The WO commands of the global blocks. Where one write gives two commands, the lower bit's acts first: DESIGN CHOICE, log 67. -/
def State.woGlobal (s : State) (a : Nat) (v : Word32) (cox : Bool) : State :=
  if a = 0x1028 then s.clearReg
  else if 0x12000 ≤ a ∧ a < 0x12080 ∧ a % 16 = 4 then s.completeFor (BitVec.ofNat 3 (a / 16)) (v.setWidth 12)
  else if a = 0x1230C then s.clearEv
  else if a = 0x20000 then s.clearCnts
  else if a = 0x20010 then
    let s := if v.getLsbD 0 then s.snapGo else s
    if v.getLsbD 1 then s.snapNow else s
  else if a = 0x2006C then s.clearSamp
  else if a = 0x30000 then
    let s := if v.getLsbD 0 then s.coxRestart 1 else s
    if v.getLsbD 2 && cox then s.wdtKick else s
  else if a = 0x30140 then s.mbxPost
  else if a = 0x301C0 then s.mbxTaken
  else if a = 0x30C10 then s.tbSet
  else if a = 0x48004 then s.resizeGo (BitVec.ofNat 2 (s.fld ⟨0x48004, 0, 2⟩))
  else if a = 0x48008 then s.moveGo (BitVec.ofNat 12 (s.fld ⟨0x48008, 0, 12⟩)) (BitVec.ofNat 6 (s.fld ⟨0x48008, 12, 6⟩))
  else if a = 0x70000 then s.restReq
  else if a = 0x70040 then s.clearMode
  else if a = 0x70110 then
    let s := if v.getLsbD 0 then s.holdEnter else s
    if v.getLsbD 1 then s.holdFlush else s
  else if a = 0x70128 then s.clearRasGlobal
  else s

/-- The command that the WO bits `v` written to a word give (R11, R404); of two in one word the lower bit's acts first: DESIGN
CHOICE, log 67. -/
def State.woEffect (s : State) (a : Nat) (v : Word32) (cox : Bool) : State :=
  if a < 0x80000 then s.woGlobal a v cox
  else if a < 0x90000 then s.agentCmd (BitVec.ofNat 12 ((a - 0x80000) / 16)) (v.toNat % 16)
  else if 0x400000 ≤ a ∧ a < 0x800000 then s.woSl (BitVec.ofNat 6 (a / 0x10000)) (a % 0x10000)
  else if 0xA00000 ≤ a ∧ a < 0xC00000 then s.woMp (BitVec.ofNat 5 (a / 0x10000)) (a % 0x10000)
  else if 0xD00000 ≤ a ∧ a < 0xE00000 then s.woLa (BitVec.ofNat 4 (a / 0x10000)) (a % 0x10000)
  else if 0xE00000 ≤ a ∧ a < 0xE50000 then s.woRt (Fin.ofNat 80 ((a - 0xE00000) / 0x1000)) (a % 0x1000) v
  else if 0xF00000 ≤ a ∧ a < 0xF0E000 then
    let i := (a - 0xF00000) / 16
    let s := if v.getLsbD 16 then s.armCnt i else s
    if v.getLsbD 17 then s.disarmCnt i else s
  else s

/-- The WO bits of a word. -/
def woMask (a : Nat) : Word32 :=
  if 0x80000 ≤ a ∧ a < 0x90000 ∧ a % 16 = 12 then 0xF
  else if 0xF00000 ≤ a ∧ a < 0xF0E000 ∧ a % 16 = 12 then 0x30000
  else (regDef a).wo

/-- A write of WO bits is a command: some bit is 1, or the word is COMPLETE_n, whose ID may be 0. -/
def isCommand (a : Nat) (v : Word32) (be : BitVec 4) : Bool :=
  decide (v ≠ 0) || (decide (0x12000 ≤ a) && decide (a < 0x12080) && decide (a % 16 = 4) && be.getLsbD 0)

/-! ## Stored fields -/

/-- A field changes that something follows (R287, R299, R317): what follows it. -/
def State.follow (s : State) (a : Nat) (old : Word32) : State :=
  let new := s.reg a
  if a = 0x20000 then s.freezeTo (new.getLsbD 0)
  else if a = 0x20060 ∨ a = 0x20068 then s.ringLevel
  else if a = 0x30480 ∨ a = 0x30484 ∨ a = 0x70030 ∨ (0x30470 ≤ a ∧ a < 0x30480) then s.sensLevels
  else if a = 0x4C010 then allSlices.foldl State.stickyCheck s
  else if a = 0x70000 then (if new.getLsbD 1 = old.getLsbD 1 then s else if new.getLsbD 1 then s.quiesceSet else s.quiesceClear)
  else if a = 0x70034 then s.shedForce
  else if 0xA00000 ≤ a ∧ a < 0xC00000 ∧ a % 0x10000 = 0x400 ∧ new.getLsbD 0 ≠ old.getLsbD 0 then
    let m := BitVec.ofNat 5 (a / 0x10000)
    if new.getLsbD 0 then s.hlbEnable m else s.hlbDisable m
  else s

/-- The words whose RW fields are not stored as written: COX_CTRL with its watchdog, and LA_GATE. -/
def State.storeWord (s : State) (a : Nat) (w : Word32) : State :=
  let old := s.reg a
  if a = 0x30000 then (s.setReg a (putBits w 1 1 (bits old 1 1))).wdtSet (w.getLsbD 1)
  else if 0xD00000 ≤ a ∧ a < 0xE00000 ∧ a % 0x10000 = 0x150 then
    let k := BitVec.ofNat 4 (a / 0x10000)
    let s := s.setReg a (putBits w 0 1 (bits old 0 1))
    if w.getLsbD 0 = old.getLsbD 0 then s else if w.getLsbD 0 then s.gateClose k else s.gateOpen k
  else (s.setReg a w).follow a old

/-- What a write makes of a stored word before its WO bits (R317): the enabled bytes merged, the fields of `mask` taken and
clamped, W1C bits cleared. -/
def stored (a : Nat) (old data : Word32) (be : BitVec 4) (mask : Word32) : Word32 :=
  let m := mergeBe old data be
  clampWord a ((old &&& ~~~ mask) ||| (m &&& mask)) &&& ~~~ (data &&& beMask be &&& (regDef a).w1c)

/-- A write of an agent-table word 0 (R52, R53). -/
def State.writeAgent (s : State) (a : AgentId) (data : Word32) (be : BitVec 4) : State :=
  if a = 0xFFF then s
  else
    let w := mergeBe (s.readAgent a 0) data be
    let s := s.modAgent a (fun x => if x.st = .absent then { x with la := w.extractLsb' 3 4 } else x)
    s.permit a (w.getLsbD 8) (w.getLsbD 9) (w.getLsbD 10)

/-- A write of a counter's preset words (R350). -/
def State.writeCnt (s : State) (i n : Nat) (data : Word32) (be : BitVec 4) : State :=
  let w := mergeBe (s.readCnt i n) data be
  let c := s.cnt i
  let pre (v : Nat) : BitVec 48 := if v = 0 then 1 else BitVec.ofNat 48 v
  if cReserved i then s
  else if n = 2 then s.setCnt i { c with preset := pre (c.preset.toNat / 2 ^ 32 * 2 ^ 32 + w.toNat) }
  else if n = 3 then
    s.setCnt i { c with
      preset := pre (bits w 0 16 * 2 ^ 32 + c.preset.toNat % 2 ^ 32), reload := w.getLsbD 18,
      sample := w.getLsbD 19 && decide (i < 2048), ovf := c.ovf && !(data &&& beMask be).getLsbD 21 }
  else s

/-- A write of RTR_CFG (R255, R272): a new CRC_LIM starts a reconfiguration. -/
def State.writeRtrCfg (s : State) (i : Nat) (data : Word32) (be : BitVec 4) : State :=
  let c := BitVec.ofNat 4 (bits (clampWord 0xE00000 data) 4 4)
  if be.getLsbD 0 = false ∨ c = (s.cfgAhead i).2 then s else s.reconf i (s.cfgAhead i).1 c

/-- A write to one word, its WO bits apart. `lock` lets it write RWL fields. -/
def State.writeFields (s : State) (a : Nat) (data : Word32) (be : BitVec 4) (lock : Bool) : State :=
  if 0x80000 ≤ a ∧ a < 0x90000 then (if a % 16 = 0 then s.writeAgent (BitVec.ofNat 12 ((a - 0x80000) / 16)) data be else s)
  else if 0xF00000 ≤ a ∧ a < 0xF0E000 then s.writeCnt ((a - 0xF00000) / 16) (a / 4 % 4) data be
  else if 0xE00000 ≤ a ∧ a < 0xE50000 ∧ a % 0x1000 = 0 then s.writeRtrCfg ((a - 0xE00000) / 0x1000) data be
  else if 0x10000 ≤ a ∧ a < 0x12000 then s.evSrcPut ((a - 0x10000) / 4) be data
  else
    let d := regDef a
    let w := stored a (s.reg a) data be (d.rw ||| (if lock then d.rwl else 0))
    if w = s.reg a then s else s.storeWord a w

/-- The unit that holds a register at a unicast address, other than the service hub (R16, R428). -/
def regPlace (a : Nat) : Option Place :=
  if 0x400000 ≤ a ∧ a < 0x800000 then some (.slice (BitVec.ofNat 6 (a / 0x10000)))
  else if 0xA00000 ≤ a ∧ a < 0xC00000 then some (.port (BitVec.ofNat 5 (a / 0x10000)))
  else if 0xD00000 ≤ a ∧ a < 0xE00000 then some (.att (BitVec.ofNat 4 (a / 0x10000)))
  else if 0xE01000 ≤ a ∧ a < 0xE50000 then some ⟨(a - 0xE00000) / 0x1000, 0⟩
  else if 0xF00000 ≤ a ∧ a < 0xF0E000 then some (winPlace ((a - 0xF00000) / 128))
  else none

/-- A register command travels to its unit, and the response back (R16, R251). -/
def State.regTravel (s : State) (a : Nat) : State :=
  match regPlace a with
  | some p => (s.inject .hub p 0x20 (Config.body 0x20 [a]) []).inject p .hub 0x21 (Config.body 0x21 [a]) []
  | none => s

/-- A write to one word at its unit (R317, R402): a byte enable of 0 changes nothing; a gate that is not OPEN bounces it. -/
def State.writeOne (s : State) (a : Nat) (data : Word32) (be : BitVec 4) (cox : Bool) : State :=
  let s := s.regTravel a
  if be = 0 then s
  else
    match s.shutAt a with
    | some t => t
    | none =>
      let s := s.writeFields a data be false
      let v := data &&& beMask be &&& woMask a
      if isCommand a v be then s.woEffect a v cox else s

/-- A write would change a locked field of a word (R315). The low bits of CAST_BASE that its alignment ignores hold no value (R96). -/
def State.locksAt (s : State) (a : Nat) (data : Word32) (be : BitVec 4) : Bool :=
  let d := regDef a
  let w := stored a (s.reg a) data be (d.rw ||| d.rwl)
  let low : Nat := if a = 0x4C000 then s.castSize else 0
  decide ((w &&& d.rwl) >>> low ≠ (s.reg a &&& d.rwl) >>> low)

/-- A register write of one source, less the targets `skip` (R315, R320). -/
def State.writeReg (s : State) (w : RegWrite) (cox : Bool) (skip : List Nat) : State :=
  let ts := (s.targets w.addr).filter (fun a => !skip.contains a)
  let locked := ts.any (fun a => s.locksAt a w.data w.be)
  let s := if locked then (s.incF ⟨0x1020, 16, 16⟩).fire (evG 31) else s
  ts.foldl (fun s a => s.writeOne a w.data w.be cox) s

/-- A register stands at a unicast address (R400, R401, R403). -/
def mapped (a : Nat) : Bool :=
  let o := a % 0x10000
  let q := decide (0xF00 ≤ o) && decide (o < 0xF10)
  if a < 0x18 then true
  else if 0x1000 ≤ a ∧ a < 0x1100 then [0, 4, 8, 0xC, 0x10, 0x14, 0x20, 0x24, 0x28, 0x30, 0x34, 0x38, 0x3C].contains (a - 0x1000)
  else if 0x1100 ≤ a ∧ a < 0x11B0 then true
  else if 0x10000 ≤ a ∧ a < 0x12080 then true
  else if 0x12100 ≤ a ∧ a < 0x12310 then true
  else if 0x20000 ≤ a ∧ a < 0x200C4 then
    [0, 8, 0xC, 0x10, 0x40, 0x44, 0x48, 0x4C, 0x50, 0x54, 0x60, 0x64, 0x68, 0x6C, 0x70, 0xC0].contains (a - 0x20000)
      || decide (0x20080 ≤ a ∧ a < 0x200C0)
  else if 0x20400 ≤ a ∧ a < 0x20540 then true
  else if 0x30000 ≤ a ∧ a < 0x30D08 then
    let c := a - 0x30000
    decide (c < 8) || decide (0x100 ≤ c ∧ c < 0x144) || decide (0x180 ≤ c ∧ c < 0x1C4) || decide (0x200 ≤ c ∧ c < 0x244)
      || decide (0x280 ≤ c ∧ c < 0x2C0) || decide (0x400 ≤ c ∧ c < 0x430) || decide (0x440 ≤ c ∧ c < 0x458)
      || decide (0x460 ≤ c ∧ c < 0x490) || decide (0x800 ≤ c ∧ c < 0x808) || decide (0x820 ≤ c ∧ c < 0x840)
      || [0x900, 0xA00, 0xD00, 0xD04].contains c || decide (0xC00 ≤ c ∧ c < 0xC2C)
  else if 0x40000 ≤ a ∧ a < 0x44000 then true
  else if 0x48000 ≤ a ∧ a < 0x48010 then true
  else if 0x4C000 ≤ a ∧ a < 0x4C014 then true
  else if (0x50000 ≤ a ∧ a < 0x50400) ∨ (0x50800 ≤ a ∧ a < 0x50C00) then decide (a % 16 ≠ 12)
  else if a = 0x50400 ∨ a = 0x50C00 then true
  else if 0x60000 ≤ a ∧ a < 0x6002C then decide (a ≠ 0x6001C)
  else if 0x70000 ≤ a ∧ a < 0x7012C then
    [0, 4, 8, 0x10, 0x14, 0x18, 0x1C, 0x20, 0x30, 0x34, 0x38, 0x3C, 0x40, 0x100, 0x104, 0x108, 0x10C, 0x110, 0x114, 0x118, 0x120,
      0x124, 0x128].contains (a - 0x70000)
  else if 0x80000 ≤ a ∧ a < 0x90000 then true
  else if 0x400000 ≤ a ∧ a < 0x800000 then
    q || decide (0x200 ≤ o ∧ o < 0x214) || decide (0x220 ≤ o ∧ o < 0x228) || decide (0x240 ≤ o ∧ o < 0x258)
      || decide (0x280 ≤ o ∧ o < 0x294) || decide (o = 0x2C0) || decide (0x300 ≤ o ∧ o < 0x318)
  else if 0xA00000 ≤ a ∧ a < 0xC00000 then
    q || (decide (0x100 ≤ o ∧ o < 0x11C) && decide (o ≠ 0x104))
      || (decide (0x400 ≤ o ∧ o < 0x444) && decide (o ≠ 0x40C) && decide (o ≠ 0x428) && decide (o ≠ 0x42C))
  else if 0xD00000 ≤ a ∧ a < 0xE00000 then
    q || decide (0x100 ≤ o ∧ o < 0x10C) || decide (0x120 ≤ o ∧ o < 0x134) || decide (o = 0x150)
  else if 0xE00000 ≤ a ∧ a < 0xE50000 then
    let r := a % 0x1000
    decide (r < 12) || decide (0x100 ≤ r ∧ r < 0x140) || decide (0xF00 ≤ r ∧ r < 0xF10) || decide (0xF10 ≤ r ∧ r < 0xF20 ∧ a < 0xE01000)
  else if 0xF00000 ≤ a ∧ a < 0xF0E000 then !cReserved ((a - 0xF00000) / 16)
  else decide (0xF80000 ≤ a ∧ a < 0xF87420)

/-- The registers at which a host write and a Cox write of one cycle collide (R320). -/
def State.collisions (s : State) (h c : RegWrite) : List Nat :=
  if h.be = 0 ∨ c.be = 0 then []
  else (s.targets h.addr).filter (fun a => (s.targets c.addr).contains a && mapped a)

/-- A write gives the command of bit n of the word at an address. -/
def State.commands (s : State) (w : RegWrite) (a n : Nat) : Bool :=
  (s.targets w.addr).contains a && (w.data &&& beMask w.be).getLsbD n

/-- The place of a register's write among those of one cycle: clears of counts go first (R158, R274, R323, R335, R372, R398), COMPLETE
writes in ascending target order before other writes of the event controller (R331), a move before a resize (R298). -/
def writeRank (a : Nat) : Nat :=
  let o := a % 0x10000
  if a = 0x1028 ∨ a = 0x1230C ∨ a = 0x2006C ∨ a = 0x70040 ∨ a = 0x70128 ∨ a = 0xE00F1C then 0
  else if 0x400000 ≤ a ∧ a < 0x910000 ∧ (o = 0x224 ∨ o = 0x254 ∨ o = 0x290 ∨ o = 0x314 ∨ o = 0xF0C) then 0
  else if 0xA00000 ≤ a ∧ a < 0xC90000 ∧ (o = 0x114 ∨ o = 0x440 ∨ o = 0xF0C) then 0
  else if 0xD00000 ≤ a ∧ a < 0xED0000 ∧ (o = 0x104 ∨ o = 0x130 ∨ o = 0xF0C ∨ o % 0x1000 = 8 ∨ o % 0x1000 = 0xF0C) then 0
  else if 0x12000 ≤ a ∧ a < 0x12080 ∧ a % 16 = 4 then 1 + (a - 0x12000) / 16
  else if a = 0x48008 then 9 else 10

/-- The writes of a host and of Cox that do not collide, in one cycle, less the targets `skip` of the host's, by their places; of
equal ones the host's goes first, which is DESIGN CHOICE, log 67. -/
def State.writePair (s : State) (h c : RegWrite) (skip : List Nat) : State :=
  if writeRank c.addr.toNat < writeRank h.addr.toNat then (s.writeReg c true []).writeReg h false skip
  else if s.commands h 0x1028 0 || s.commands c 0x1028 0 then (s.writeReg h false (0x1028 :: skip)).writeReg c true [0x1028]
  else (s.writeReg h false skip).writeReg c true []

/-- Two writes of one core cycle (R320): the Cox write is applied; the host write is applied where they do not collide. A clear of
REG_COLLIDE is applied before what the cycle counts (R323). -/
def State.writeBoth (s : State) (h c : RegWrite) : State :=
  let s := if s.commands h 0x1028 0 || s.commands c 0x1028 0 then s.clearReg else s
  match s.collisions h c with
  | [] => ((s.writePair h c []).respond .host 0 .ok).respond .cox 0 .ok
  | a :: as =>
    let s := ((s.incF ⟨0x1020, 0, 16⟩).setReg 0x1024 (BitVec.ofNat 32 (as.foldl min a))).fire (evG 30)
    ((s.writePair h c (a :: as)).respond .host 0 .collided).respond .cox 0 .ok

/-- A source's register write, with the other source's of the same cycle. -/
def State.write (s : State) (src : RegSrc) (w : RegWrite) (other : Option RegWrite) : State :=
  let other := other.filter (fun _ => s.srcUp (if src = .cox then .host else .cox))
  if !s.srcUp src then s
  else if s.mode = .boot then s.respond src 0 .notReady
  else
    match src, other with
    | .cox, some h => s.writeBoth h w
    | .cox, none => (s.writeReg w true []).respond .cox 0 .ok
    | _, some c => s.writeBoth w c
    | _, none => (s.writeReg w false []).respond .host 0 .ok

/-- REGISTER_WRITE (R317, R320). -/
def execRegisterWrite (src : RegSrc) (w : RegWrite) (other : Option RegWrite) (s : State) : Host.Outcome State Fault Refusal :=
  .next (s.write src w other)

/-! ## Reads -/

/-- A read of one word at its unit, with the effect that R402 gives it. -/
def State.readOne (s : State) (a : Nat) : State × Word32 :=
  let s := s.regTravel a
  match s.shutAt a with
  | some t => (t, 0)
  | none =>
    if 0x12000 ≤ a ∧ a < 0x12080 ∧ a % 16 = 0 then s.claimFor (BitVec.ofNat 3 (a / 16))
    else if 0xF00000 ≤ a ∧ a < 0xF0E000 ∧ a % 16 = 0 then s.cntLo ((a - 0xF00000) / 16)
    else if 0x20400 ≤ a ∧ a < 0x20540 ∧ a % 8 = 0 then s.dcycLo ((a - 0x20400) / 8)
    else if 0xE00000 ≤ a ∧ a < 0xE50000 ∧ a % 0x1000 = 0x118 then s.prbLo ((a - 0xE00000) / 0x1000) false
    else if 0xE00000 ≤ a ∧ a < 0xE50000 ∧ a % 0x1000 = 0x138 then s.prbLo ((a - 0xE00000) / 0x1000) true
    else if a = 0x30C00 then s.tbLo
    else (s, s.readWord a)

/-- Every member of a window is read: the values, with the unit numbers. -/
def State.readAll (s : State) : List (Nat × Nat) → State × List (Nat × Word32)
  | [] => (s, [])
  | (u, a) :: ms =>
    let (s, w) := s.readOne a
    let (s, ws) := s.readAll ms
    (s, (u, w) :: ws)

/-- The UNIFORM pair of a source is written (R321, R322). -/
def State.uniform (s : State) (src : RegSrc) (a : Nat) (ws : List (Nat × Word32)) : State :=
  let at_ := if src = .cox then 0x1038 else 0x1030
  let v : Word32 := match ws with
    | [] => fields [(0, 1), (1, 1), (9, 0x7F)]
    | (_, w) :: _ =>
      match ws.find? (fun e => decide (e.2 ≠ w)) with
      | none => fields [(0, 1), (2, ws.length), (9, 0x7F)]
      | some d => fields [(2, ws.length), (9, d.1)]
  (s.setReg at_ (BitVec.ofNat 32 a)).setReg (at_ + 4) v

/-- A read by address: unicast, or of a window, which returns its lowest member's value (R321). -/
def State.readReg (s : State) (src : RegSrc) (addr : RegAddr) : State × Word32 :=
  let a := addr.toNat / 4 * 4
  match s.members a with
  | none => s.readOne a
  | some ms =>
    let (s, ws) := s.readAll ms
    (s.uniform src a ws, (ws.head?.map (·.2)).getD 0)

/-- A read from the register port or Cox (R319): in BOOT only the global and the boot block are served. -/
def State.read (s : State) (src : RegSrc) (addr : RegAddr) : State :=
  if !s.srcUp src then s
  else if s.mode = .boot ∧ 0x2000 ≤ addr.toNat then s.respond src 0 .notReady
  else
    let (s, w) := s.readReg src addr
    s.respond src w .ok

/-- BROADCAST_READ (R321). -/
def execBroadcastRead (src : RegSrc) (addr : RegAddr) (s : State) : Host.Outcome State Fault Refusal := .next (s.read src addr)

/-- The IDCODE of the TAP (R423). -/
def idcode : Word32 := BitVec.ofNat 32 (0x2 * 2 ^ 28 + 0x564B * 2 ^ 12 + Config.jtagMfr.toNat * 2 + 1)

/-- JTAG_REGACC (R423): an access of an unlocked TAP, as a host-port command. -/
def execJtagRegacc (wr : Bool) (addr : RegAddr) (data : Word32) (s : State) : Host.Outcome State Fault Refusal :=
  let s := if s.tapOpen then (s.crossing .service 33).crossing .service 34 else s
  if wr then .next (s.write .jtag { addr := addr, be := 0xF, data := data } none)
  else .next (s.read .jtag addr)

end Sys2Proof.Machine
end

