-- ==== Sys2Proof/Machine/Loader.lean ====
section
/-! DEFINITION. The Maquette loader (R301 to R312, R434, R416). -/

namespace Sys2Proof.Machine

/-- The loader changed. -/
def State.modBoot (s : State) (f : Boot → Boot) : State := { s with boot := f s.boot }

/-- BOOT runs, at a step of the loader. -/
def State.booting (s : State) (b : BootSt) : Bool := decide (s.mode = .boot) && decide (s.boot.st = b)

/-! ## Failure and fall-back (R309) -/

/-- The words that a failed slot leaves: the Plinth's as they are; those of the boot block and of Cox without what records
wrote. Log 40. -/
def State.undoneRegs (s : State) : Store Word32 :=
  s.regs.foldl (fun m e =>
    let d := regDef e.1
    let own := (decide (0x1000 ≤ e.1) && decide (e.1 < 0x2000)) || (decide (0x30000 ≤ e.1) && decide (e.1 < 0x30C00))
    if own then Store.set d.reset m e.1 ((e.2 &&& ~~~ (d.rw ||| d.rwl)) ||| (d.reset &&& (d.rw ||| d.rwl)))
    else if s.plinthRegs.contains e then Store.set d.reset m e.1 e.2
    else m) []

/-- Every unit but the Plinth, the boot block and Cox returns to its reset state, its epochs and decay periods beginning anew (log
60). -/
def State.undoSlot (s : State) : State :=
  { State.reset with
    pending := s.pending, modes := s.modes, plinth := s.plinth, pins := s.pins, boot := s.boot, regs := s.undoneRegs,
    hostRsp := s.hostRsp, hostOut := s.hostOut, coxRsp := s.coxRsp, cox := s.cox, calAt := s.calAt, freeCtr := s.freeCtr, castMem := s.castMem }.startClocks

/-- No slot loads: SLOT is none, and the block enters HOLD. -/
def State.bootFail (s : State) : State := ((s.putF ⟨0x1000, 0, 2⟩ 3).modBoot (fun b => { b with st := .failed })).fatal 0xA 5 0 0

/-- A slot is tried: SLOT names it, and its signature is verified next. -/
def State.trySlot (s : State) (slot : Bool) : State :=
  (s.putF ⟨0x1000, 0, 2⟩ slot.toNat).modBoot (fun b => { b with
    slot := slot, tried := slot :: b.tried, st := .checked, bufs := [], blocks := 0, index := 0, base := 0, ended := false,
    body := [], waiting := .none, held := [] })

/-- A failure of the chosen slot (R309). -/
def State.failSlot (s : State) (reason : Nat) : State :=
  let b := s.boot
  let s := s.putF ⟨0x1000, if b.slot then 6 else 2, 4⟩ reason
  let s := s.undoSlot
  if (if b.slot then b.goodA else b.goodB) ∧ !b.tried.contains (!b.slot) then s.trySlot (!b.slot) else s.bootFail

/-- A failure at a byte offset of the slot (BOOT_FAIL). -/
def State.failAt (s : State) (reason off : Nat) : State := (s.putF ⟨0x1004, 0, 21⟩ off).failSlot reason

/-! ## Discovery, headers, signature (R302, R306, R307) -/

/-- The read mode that SFDP leads to. -/
def rdMode (x : Sfdp) : Nat := if x.qeVolatile && x.has144 then 3 else if x.qeVolatile && x.has114 then 2 else 1

/-- The dummy cycles and mode bits of the read mode that SFDP leads to: those that the table gives (R302). -/
def rdTiming (x : Sfdp) : BitVec 8 × BitVec 8 :=
  if rdMode x = 3 then (x.wait144, x.mode144) else if rdMode x = 2 then (x.wait114, x.mode114) else (x.wait111, 0)

/-- FLASH_DISCOVERY (R302): a quad mode is used once the QE bit has been set by the volatile status-register write of the method
that the table names; it leaves as an SPI command of kind 3 with that method. -/
def execFlashDiscovery (sfdp : Option Sfdp) (s : State) : Host.Outcome State Fault Refusal :=
  if !s.booting .start then .next s
  else
    let s := s.modBoot (fun b => { b with st := .discovered })
    match sfdp with
    | none => .next s
    | some x =>
      let s := if rdMode x = 1 then s else s.spi [(3, x.qer.toNat, [])]
      let s := s.modBoot (fun b => { b with dummy := (rdTiming x).1, modeBits := (rdTiming x).2 })
      .next (((s.putF ⟨0x1000, 10, 2⟩ (rdMode x)).putF ⟨0x1000, 12, 1⟩ x.addr4Only.toNat).putF ⟨0x1000, 13, 1⟩ 1)

/-- SLOT_HEADER_CHECK (R306, R307): the headers are checked and a slot is chosen. -/
def execSlotHeaderCheck (anchorZeros : BitVec 17) (hdrA hdrB : List Byte) (s : State) : Host.Outcome State Fault Refusal :=
  if hdrA.length ≠ 512 ∨ hdrB.length ≠ 512 then .refused .illFormed
  else if !s.booting .discovered then .next s
  else
    let s := s.modBoot (fun b => { b with anchor := anchorZeros, hdrA := hdrA, hdrB := hdrB })
    let floor := s.svnFloor
    let ra := hdrReason hdrA s.plinth.keyHash floor
    let rb := hdrReason hdrB s.plinth.keyHash floor
    let s := ((s.putF ⟨0x1008, 16, 16⟩ (min floor 0xFFFF)).putF ⟨0x1000, 2, 4⟩ ra).putF ⟨0x1000, 6, 4⟩ rb
    let s := s.modBoot (fun b => { b with goodA := decide (ra = 0), goodB := decide (rb = 0) })
    if ra ≠ 0 ∧ rb ≠ 0 then .next s.bootFail
    else .next (s.trySlot (decide (ra ≠ 0) || (decide (rb = 0) && decide (hdrSeq hdrA < hdrSeq hdrB))))

/-- SIGNATURE_CHECK (R306). -/
def execSignatureCheck (s : State) : Host.Outcome State Fault Refusal :=
  if !s.booting .checked then .next s
  else if hdrSigned (s.boot.hdr s.boot.slot) then .next (s.modBoot (fun b => { b with st := .body }))
  else .next (s.failSlot 6)

/-! ## The body (R308, R434) -/

/-- Blocks of the slot's record area. -/
def Boot.total (b : Boot) : Nat := recLen (b.hdr b.slot) / 4096

/-- BODY_BLOCK_READ (R308): words 0 to 1,022 and their CRC-32C; reading waits while both buffers are full. -/
def execBodyBlockRead (words : List Word32) (s : State) : Host.Outcome State Fault Refusal :=
  if words.length ≠ 1024 then .refused .illFormed
  else
    let b := s.boot
    if !s.booting .body ∨ b.total ≤ b.blocks ∨ 2 ≤ b.bufs.length then .next s
    else
      let s := s.crossing .service 61
      let recs := words.take 1023
      let bytes (ws : List Word32) : List Byte := ws.flatMap (fun w => bytesOfNat 4 w.toNat)
      if crc32c (bytes recs) = words.getD 1023 0 then
        .next (s.modBoot (fun b => { b with
          bufs := if b.ended then b.bufs else b.bufs ++ [recs], blocks := b.blocks + 1, body := b.body ++ bytes words }))
      else .next (s.failAt 7 (512 + 4096 * b.blocks))

/-! ## Records (R310 to R312) -/

/-- The byte offset in the slot of the record at hand. -/
def Boot.offset (b : Boot) : Nat := 512 + 4096 * b.base + 4 * b.index

/-- The record at hand fails. -/
def State.recordFail (s : State) : State := s.failAt 8 s.boot.offset

/-- The record at hand, of n words, is done: the next one begins, in the next block after the last word. -/
def Boot.advance (b : Boot) (n : Nat) : Boot :=
  if 1023 ≤ b.index + n then { b with bufs := b.bufs.drop 1, index := 0, base := b.base + 1, waiting := .none }
  else { b with index := b.index + n, waiting := .none }

/-- A record of a kind is processed: `f` is given its header's low 28 bits and the words after it in its block. A header of an
unlisted kind, and a record area that ends before END, fail the slot. -/
def State.record (s : State) (kind : Nat) (f : Nat → List Word32 → State) : State :=
  let b := s.boot
  if !s.booting .body ∨ b.ended ∨ b.waiting ≠ .none ∨ !s.modes.arraysClr then s
  else
    match b.bufs with
    | [] => if b.total ≤ b.blocks then s.recordFail else s
    | buf :: _ =>
      match buf.drop b.index with
      | [] => s
      | h :: rest =>
        let k := bits h 28 4
        if 5 ≤ k ∧ k ≠ 15 then s.recordFail else if k ≠ kind then s else f (bits h 0 28) rest

/-- One word written by a record (R311, R312): RWL fields are open, and a WO command is held. -/
def State.bootWrite (s : State) (a : Nat) (data : Word32) : State :=
  match s.shutAt a with
  | some t => t
  | none =>
    let s := s.writeFields a data 0xF true
    let v := data &&& woMask a
    if isCommand a v 0xF then s.modBoot (fun b => { b with held := b.held ++ [(BitVec.ofNat 24 a, v)] }) else s

/-- Every target of an address written. -/
def State.bootWriteAll (s : State) (addr : RegAddr) (f : State → Nat → Word32) : State :=
  (s.targets addr).foldl (fun s a => s.bootWrite a (f s a)) s

/-- PAD_RECORD. -/
def execPadRecord (s : State) : Host.Outcome State Fault Refusal :=
  .next (s.record 0 (fun h _ => if h ≠ 0 then s.recordFail else s.modBoot (fun b => b.advance 1023)))

/-- WRITE_RECORD. -/
def execWriteRecord (s : State) : Host.Outcome State Fault Refusal :=
  .next (s.record 1 (fun h rest =>
    let n := h / 2 ^ 24 + 1
    let addr : RegAddr := BitVec.ofNat 24 h
    if h % 4 ≠ 0 ∨ rest.length < n then s.recordFail
    else
      let s := ((rest.take n).zipIdx).foldl (fun s e => s.bootWriteAll (addr + BitVec.ofNat 24 (4 * e.2)) (fun _ _ => e.1)) s
      s.modBoot (fun b => b.advance (1 + n))))

/-- MASK_RECORD: W1C bits outside the mask are left alone. -/
def execMaskRecord (s : State) : Host.Outcome State Fault Refusal :=
  .next (s.record 2 (fun h rest =>
    match rest with
    | mask :: data :: _ =>
      if h / 2 ^ 24 ≠ 0 ∨ h % 4 ≠ 0 then s.recordFail
      else
        let s := s.bootWriteAll (BitVec.ofNat 24 h) (fun s a =>
          (s.readWord a &&& ~~~ (regDef a).w1c &&& ~~~ mask) ||| (data &&& mask))
        s.modBoot (fun b => b.advance 3)
    | _ => s.recordFail))

/-- POLL_RECORD. -/
def execPollRecord (s : State) : Host.Outcome State Fault Refusal :=
  .next (s.record 3 (fun h rest =>
    match rest with
    | mask :: value :: limit :: _ =>
      if h / 2 ^ 24 ≠ 0 ∨ h % 4 ≠ 0 ∨ limit = 0 ∨ 1000000 < limit.toNat then s.recordFail
      else s.modBoot (fun b => { b with waiting := .poll (BitVec.ofNat 24 h) mask value s.now limit.toNat })
    | _ => s.recordFail))

/-- One read of a POLL's targets: whether every one matches. -/
def State.pollOnce (s : State) (addr : RegAddr) (mask value : Word32) : State × Bool :=
  (s.targets addr).foldl (fun r a => let (s, w) := r.1.readOne a; (s, r.2 && decide (w &&& mask = value))) (s, true)

/-- POLL_READ. -/
def execPollRead (s : State) : Host.Outcome State Fault Refusal :=
  match s.boot.waiting with
  | .poll addr mask value _ _ =>
    if !s.booting .body then .next s
    else
      let (s, ok) := s.pollOnce addr mask value
      .next (if ok then s.modBoot (fun b => b.advance 4) else s)
  | _ => .next s

/-- POLL_LIMIT_EXPIRY: a read that matches as the limit expires counts as a match. -/
def execPollLimitExpiry (s : State) : Host.Outcome State Fault Refusal :=
  match s.boot.waiting with
  | .poll addr mask value since limit =>
    if !s.booting .body then .next s
    else
      let (s, ok) := (s.reach (since + 1000 * limit)).pollOnce addr mask value
      .next (if ok then s.modBoot (fun b => b.advance 4) else s.failAt 9 s.boot.offset)
  | _ => .next s

/-- WAIT_RECORD. -/
def execWaitRecord (s : State) : Host.Outcome State Fault Refusal :=
  .next (s.record 4 (fun h _ =>
    if h / 2 ^ 24 ≠ 0 ∨ h = 0 then s.recordFail else s.modBoot (fun b => { b with waiting := .wait (s.now + 1000 * h) })))

/-- WAIT_EXPIRY. -/
def execWaitExpiry (s : State) : Host.Outcome State Fault Refusal :=
  match s.boot.waiting with
  | .wait till => if !s.booting .body then .next s else .next ((s.reach till).modBoot (fun b => b.advance 1))
  | _ => .next s

/-- END_RECORD. -/
def execEndRecord (s : State) : Host.Outcome State Fault Refusal :=
  .next (s.record 15 (fun h _ => if h ≠ 0 then s.recordFail else s.modBoot (fun b => { b with ended := true, bufs := [], index := 0 })))

/-! ## The end of BOOT (R301, R312, R416) -/

/-- BOOT has completed: Cox is released, the block enters CALIBRATE, and the held commands take effect in record order. -/
def State.bootDone (s : State) (cox : List Byte) : State :=
  let b := s.boot
  let h := b.hdr b.slot
  let s := ((s.putF ⟨0x1000, 14, 1⟩ 1).putF ⟨0x1008, 0, 16⟩ (hdrSvn h)).setReg 0x100C (BitVec.ofNat 32 (hdrSeq h))
  let s := s.setReg 0x1010 (BitVec.ofNat 32 ((s.now - b.start) / 1000))
  let s := s.modBoot (fun b => { b with
    st := .done, bufs := [], body := [], held := [], coxLen := cox.length, coxHash := Config.sha384 cox })
  let s := (s.coxStart cox).toCalibrate
  b.held.foldl (fun s e => s.woEffect e.1.toNat e.2 false) s

/-- The Cox section has been written to Cox SRAM from address 0 as it was read (R308). -/
def State.coxStream (s : State) (cox : List Byte) : State :=
  { s with cox := { s.cox with sram := cox ++ s.cox.sram.drop cox.length } }

/-- BODY_HASH_CHECK (R301, R308): the whole body has been read, its Cox section last, and every record has taken effect. -/
def execBodyHashCheck (cox : List Byte) (s : State) : Host.Outcome State Fault Refusal :=
  let b := s.boot
  if !s.booting .body ∨ b.blocks < b.total ∨ b.waiting ≠ .none then .next s
  else if !b.ended then .next (if b.bufs = [] then s.recordFail else s)
  else if cox.length ≠ coxLen (b.hdr b.slot) then .refused .illFormed
  else if Config.sha384 (b.body ++ cox) = bodyHash (b.hdr b.slot) then .next (s.bootDone cox)
  else .next ((s.coxStream cox).failSlot 0xA)

/-- ARRAY_CLEAR_DONE (R416): every directory set and every HLB set is clear. -/
def execArrayClearDone (s : State) : Host.Outcome State Fault Refusal :=
  if s.mode = .boot ∧ s.boot.st ≠ .held ∧ s.modes.arraysClr = false then
    let s := { s with modes := { s.modes with arraysClr := true, bistUndef := false } }
    let s := allSlices.foldl (fun s i => s.modSl i (fun x => { x with dir := [] })) s
    .next (allPorts.foldl (fun s m => s.modMp m (fun p => { p with ways := [] })) s)
  else .next s

end Sys2Proof.Machine
end

