-- ==== Sys2Proof/Machine/Dispatch.lean ====
section
/-! DEFINITION. The dispatch: one arm per command, each one direct call of its meaning. -/

namespace Sys2Proof.Machine

/-- The effect of a command on everything but the queue. -/
def exec (i : Instr) (s : State) : Host.Outcome State Fault Refusal :=
  match i with
  | .rdShared la q => Sys2Proof.Machine.execRdShared la q s
  | .rdOwn la q => Sys2Proof.Machine.execRdOwn la q s
  | .rdCur la q => Sys2Proof.Machine.execRdCur la q s
  | .rdAtomic la q => Sys2Proof.Machine.execRdAtomic la q s
  | .inv la q => Sys2Proof.Machine.execInv la q s
  | .evictClean la q => Sys2Proof.Machine.execEvictClean la q s
  | .conflict la q => Sys2Proof.Machine.execConflict la q s
  | .fence la q => Sys2Proof.Machine.execFence la q s
  | .rsvRd la q => Sys2Proof.Machine.execRsvRd la q s
  | .wrFull la q w => Sys2Proof.Machine.execWrFull la q w s
  | .wrKeep la q w => Sys2Proof.Machine.execWrKeep la q w s
  | .wrPartial la q w => Sys2Proof.Machine.execWrPartial la q w s
  | .hatom la q w => Sys2Proof.Machine.execHatom la q w s
  | .condWr la q w => Sys2Proof.Machine.execCondWr la q w s
  | .birspI la agent htag laddr => Sys2Proof.Machine.execBirspI la agent htag laddr s
  | .birspS la agent htag laddr => Sys2Proof.Machine.execBirspS la agent htag laddr s
  | .birspE la agent htag laddr => Sys2Proof.Machine.execBirspE la agent htag laddr s
  | .egressAck la agent htag => Sys2Proof.Machine.execEgressAck la agent htag s
  | .creditReturn ch => Sys2Proof.Machine.execCreditReturn ch s
  | .creditAdvertisement ch => Sys2Proof.Machine.execCreditAdvertisement ch s
  | .linkEgressSend la ch => Sys2Proof.Machine.execLinkEgressSend la ch s
  | .gateRelease la agent tag => Sys2Proof.Machine.execGateRelease la agent tag s
  | .barrierExpiry la agent otag => Sys2Proof.Machine.execBarrierExpiry la agent otag s
  | .dataPull la => Sys2Proof.Machine.execDataPull la s
  | .dxbBeat out par => Sys2Proof.Machine.execDxbBeat out par s
  | .egressAckLate sl slot => Sys2Proof.Machine.execEgressAckLate sl slot s
  | .newRequestPass sl chk => Sys2Proof.Machine.execNewRequestPass sl chk s
  | .handOverPass sl chk => Sys2Proof.Machine.execHandOverPass sl chk s
  | .snoopResponsePass sl chk => Sys2Proof.Machine.execSnoopResponsePass sl s chk
  | .egressAckPass sl chk => Sys2Proof.Machine.execEgressAckPass sl s chk
  | .snoopResponseWrite sl chk => Sys2Proof.Machine.execSnoopResponseWrite sl s chk
  | .portRpt sl chk => Sys2Proof.Machine.execPortRpt sl s chk
  | .snoopIssue sl row => Sys2Proof.Machine.execSnoopIssue sl row s
  | .snoopTimeout sl slot agent => Sys2Proof.Machine.execSnoopTimeout sl slot agent s
  | .snoopClose sl slot agent => Sys2Proof.Machine.execSnoopClose sl slot agent s
  | .escalationRetry sl chk => Sys2Proof.Machine.execEscalationRetry sl s chk
  | .ticketExpiry sl agent => Sys2Proof.Machine.execTicketExpiry sl agent s
  | .replay sl chk => Sys2Proof.Machine.execReplay sl chk s
  | .backgroundWaitLimit sl => Sys2Proof.Machine.execBackgroundWaitLimit sl s
  | .castFetchReturn sl chk => Sys2Proof.Machine.execCastFetchReturn sl s chk
  | .castWriteCompletion sl chk => Sys2Proof.Machine.execCastWriteCompletion sl s chk
  | .cuckooBucketRead sl chk => Sys2Proof.Machine.execCuckooBucketRead sl s chk
  | .capacityRecallStart sl chk => Sys2Proof.Machine.execCapacityRecallStart sl s chk
  | .broadcastRecoveryStart sl chk => Sys2Proof.Machine.execBroadcastRecoveryStart sl s chk
  | .departureSweepStep sl chk finds => Sys2Proof.Machine.execDepartureSweepStep sl chk finds s
  | .patrolScrubStep sl finds badCounters chk => Sys2Proof.Machine.execPatrolScrubStep sl finds badCounters s chk
  | .silhouetteRebuildStep sl chk => Sys2Proof.Machine.execSilhouetteRebuildStep sl chk s
  | .admissionScanStep sl bucket chk => Sys2Proof.Machine.execAdmissionScanStep sl bucket chk s
  | .ageClockAdvance sl => Sys2Proof.Machine.execAgeClockAdvance sl s
  | .predictorDecay sl => Sys2Proof.Machine.execPredictorDecay sl s
  | .agentLeavingDone a => Sys2Proof.Machine.execAgentLeavingDone a s
  | .joinLimitExpiry a => Sys2Proof.Machine.execJoinLimitExpiry a s
  | .join a => Sys2Proof.Machine.execJoin a s
  | .leave a => Sys2Proof.Machine.execLeave a s
  | .agentFence a => Sys2Proof.Machine.execAgentFence a s
  | .release a => Sys2Proof.Machine.execRelease a s
  | .unknownAgentCommand a cmd => Sys2Proof.Machine.execUnknownAgentCommand a cmd s
  | .agentPermissionWrite a perfRead hatom rsv => Sys2Proof.Machine.execAgentPermissionWrite a perfRead hatom rsv s
  | .laRefuseClear la => Sys2Proof.Machine.execLaRefuseClear la s
  | .flowErrClear sl => Sys2Proof.Machine.execFlowErrClear sl s
  | .serClear sl => Sys2Proof.Machine.execSerClear sl s
  | .hlbClear m => Sys2Proof.Machine.execHlbClear m s
  | .atmClear sl => Sys2Proof.Machine.execAtmClear sl s
  | .mpClear m => Sys2Proof.Machine.execMpClear m s
  | .rtrLinkClear ix => Sys2Proof.Machine.execRtrLinkClear ix s
  | .rtrProbeClear ix => Sys2Proof.Machine.execRtrProbeClear ix s
  | .qClear u => Sys2Proof.Machine.execQClear u s
  | .modeClear => Sys2Proof.Machine.execModeClear s
  | .regClear => Sys2Proof.Machine.execRegClear s
  | .evClear => Sys2Proof.Machine.execEvClear s
  | .sampClear => Sys2Proof.Machine.execSampClear s
  | .laOrdClear la => Sys2Proof.Machine.execLaOrdClear la s
  | .rasClear sl => Sys2Proof.Machine.execRasClear sl s
  | .rasGlobalClear => Sys2Proof.Machine.execRasGlobalClear s
  | .read m par tags => Sys2Proof.Machine.execRead m par s tags
  | .write m tags => Sys2Proof.Machine.execWrite m s tags
  | .writePartial m par tags => Sys2Proof.Machine.execWritePartial m par s tags
  | .atomic m par tags => Sys2Proof.Machine.execAtomic m par s tags
  | .castStoreCommand m => Sys2Proof.Machine.execCastStoreCommand m s
  | .mcmdIssue m par => Sys2Proof.Machine.execMcmdIssue m s par
  | .mrdataBeat m ctag st data => Sys2Proof.Machine.execMrdataBeat m ctag st data s
  | .cmpl m ctag st => Sys2Proof.Machine.execCmpl m ctag st s
  | .windowReq m kind pair wlen => Sys2Proof.Machine.execWindowReq m kind pair wlen s
  | .windowArbiterGrant => Sys2Proof.Machine.execWindowArbiterGrant s
  | .windowRequestStarving m => Sys2Proof.Machine.execWindowRequestStarving m s
  | .drainLimitExpiry m => Sys2Proof.Machine.execDrainLimitExpiry m s
  | .windowLimitExpiry m => Sys2Proof.Machine.execWindowLimitExpiry m s
  | .sweepRequest m => Sys2Proof.Machine.execSweepRequest m s
  | .sweepStep m => Sys2Proof.Machine.execSweepStep m s
  | .fenceClose m => Sys2Proof.Machine.execFenceClose m s
  | .fenceReport la => Sys2Proof.Machine.execFenceReport la s
  | .epochAdvance m => Sys2Proof.Machine.execEpochAdvance m s
  | .ageEngineVisit m => Sys2Proof.Machine.execAgeEngineVisit m s
  | .hlbScrubStep m finds => Sys2Proof.Machine.execHlbScrubStep m finds s
  | .hlbMaintStart m op setway all => Sys2Proof.Machine.execHlbMaintStart m op setway all s
  | .hlbMaintVisit m => Sys2Proof.Machine.execHlbMaintVisit m s
  | .hlbDisable m => Sys2Proof.Machine.execHlbDisable m s
  | .hlbEnable m => Sys2Proof.Machine.execHlbEnable m s
  | .calibrationSample sl => Sys2Proof.Machine.execCalibrationSample sl s
  | .calibrationWindowEnd => Sys2Proof.Machine.execCalibrationWindowEnd s
  | .flitReceive ix link plane err under => Sys2Proof.Machine.execFlitReceive ix link plane err s under
  | .nak ix link plane seq => Sys2Proof.Machine.execNak ix link plane seq s
  | .routerReconfigStart ix bounce crcLim => Sys2Proof.Machine.execRouterReconfigStart ix bounce crcLim s
  | .routerReconfigSwitch ix => Sys2Proof.Machine.execRouterReconfigSwitch ix s
  | .queuePointerMismatch u q => Sys2Proof.Machine.execQueuePointerMismatch u q s
  | .laGateClose la => Sys2Proof.Machine.execLaGateClose la s
  | .gateAck la => Sys2Proof.Machine.execGateAck la s
  | .gateDrained la => Sys2Proof.Machine.execGateDrained la s
  | .laGateOpen la => Sys2Proof.Machine.execLaGateOpen la s
  | .gateReopen la => Sys2Proof.Machine.execGateReopen la s
  | .bouncedMessage => Sys2Proof.Machine.execBouncedMessage s
  | .traceOut => Sys2Proof.Machine.execTraceOut s
  | .restReq => Sys2Proof.Machine.execRestReq s
  | .quiesceSet => Sys2Proof.Machine.execQuiesceSet s
  | .quiesceClear => Sys2Proof.Machine.execQuiesceClear s
  | .quiesceDrainAdvance => Sys2Proof.Machine.execQuiesceDrainAdvance s
  | .restEntryStep m => Sys2Proof.Machine.execRestEntryStep m s
  | .restDrainLimit => Sys2Proof.Machine.execRestDrainLimit s
  | .sidebandAddressMatch addr => Sys2Proof.Machine.execSidebandAddressMatch addr s
  | .wakeIn => Sys2Proof.Machine.execWakeIn s
  | .restExitStep ticks => Sys2Proof.Machine.execRestExitStep ticks s
  | .shedQualify mon droop => Sys2Proof.Machine.execShedQualify mon droop s
  | .droopAlert level => Sys2Proof.Machine.execDroopAlert level s
  | .shedStepDown => Sys2Proof.Machine.execShedStepDown s
  | .shedForce level => Sys2Proof.Machine.execShedForce level s
  | .calibrateExit => Sys2Proof.Machine.execCalibrateExit s
  | .warmReset => Sys2Proof.Machine.execWarmReset s
  | .warmLimitExpiry => Sys2Proof.Machine.execWarmLimitExpiry s
  | .warmResetRelease => Sys2Proof.Machine.execWarmResetRelease s
  | .coldReset => Sys2Proof.Machine.execColdReset s
  | .coldResetRelease straps keyHash keyValid svnFloor => Sys2Proof.Machine.execColdResetRelease straps keyHash keyValid svnFloor s
  | .aonReset => Sys2Proof.Machine.execAonReset s
  | .powerFail => Sys2Proof.Machine.execPowerFail s
  | .powerLoss rail => Sys2Proof.Machine.execPowerLoss rail s
  | .resize target => Sys2Proof.Machine.execResize target s
  | .move bucket dest => Sys2Proof.Machine.execMove bucket dest s
  | .bucketMarkMoving bucket => Sys2Proof.Machine.execBucketMarkMoving bucket s
  | .bucketWriteBack bucket chk => Sys2Proof.Machine.execBucketWriteBack bucket s chk
  | .handover sl => Sys2Proof.Machine.execHandover sl s
  | .mapSet row => Sys2Proof.Machine.execMapSet row s
  | .mapAck => Sys2Proof.Machine.execMapAck s
  | .flashDiscovery sfdp => Sys2Proof.Machine.execFlashDiscovery sfdp s
  | .slotHeaderCheck anchorZeros hdrA hdrB => Sys2Proof.Machine.execSlotHeaderCheck anchorZeros hdrA hdrB s
  | .signatureCheck => Sys2Proof.Machine.execSignatureCheck s
  | .bodyBlockRead words => Sys2Proof.Machine.execBodyBlockRead words s
  | .padRecord => Sys2Proof.Machine.execPadRecord s
  | .writeRecord => Sys2Proof.Machine.execWriteRecord s
  | .maskRecord => Sys2Proof.Machine.execMaskRecord s
  | .pollRecord => Sys2Proof.Machine.execPollRecord s
  | .pollRead => Sys2Proof.Machine.execPollRead s
  | .pollLimitExpiry => Sys2Proof.Machine.execPollLimitExpiry s
  | .waitRecord => Sys2Proof.Machine.execWaitRecord s
  | .waitExpiry => Sys2Proof.Machine.execWaitExpiry s
  | .endRecord => Sys2Proof.Machine.execEndRecord s
  | .bodyHashCheck cox => Sys2Proof.Machine.execBodyHashCheck cox s
  | .arrayClearDone => Sys2Proof.Machine.execArrayClearDone s
  | .registerWrite src w other => Sys2Proof.Machine.execRegisterWrite src w other s
  | .broadcastRead src addr => Sys2Proof.Machine.execBroadcastRead src addr s
  | .eventMessage => Sys2Proof.Machine.execEventMessage s
  | .globalSourceChange => Sys2Proof.Machine.execGlobalSourceChange s
  | .claim n src => Sys2Proof.Machine.execClaim n src s
  | .complete n id => Sys2Proof.Machine.execComplete n id s
  | .evSrcWrite ix be data => Sys2Proof.Machine.execEvSrcWrite ix be data s
  | .tgtCtrlWrite n be data => Sys2Proof.Machine.execTgtCtrlWrite n be data s
  | .cntLoRead ix => Sys2Proof.Machine.execCntLoRead ix s
  | .dcycLowRead d => Sys2Proof.Machine.execDcycLowRead d s
  | .prbCntLowRead ix n => Sys2Proof.Machine.execPrbCntLowRead ix n s
  | .tbNowLoRead => Sys2Proof.Machine.execTbNowLoRead s
  | .arm ix => Sys2Proof.Machine.execArm ix s
  | .disarm ix => Sys2Proof.Machine.execDisarm ix s
  | .counterOverflow ix occ => Sys2Proof.Machine.execCounterOverflow ix occ s
  | .freeze => Sys2Proof.Machine.execFreeze s
  | .freezeRelease => Sys2Proof.Machine.execFreezeRelease s
  | .counterClear => Sys2Proof.Machine.execCounterClear s
  | .snapGo => Sys2Proof.Machine.execSnapGo s
  | .snapNow => Sys2Proof.Machine.execSnapNow s
  | .snapCapture d stamp => Sys2Proof.Machine.execSnapCapture d stamp s
  | .snapDomainTimeout d => Sys2Proof.Machine.execSnapDomainTimeout d s
  | .sampleRecord => Sys2Proof.Machine.execSampleRecord s
  | .counterWindowRead la => Sys2Proof.Machine.execCounterWindowRead la s
  | .coxReset => Sys2Proof.Machine.execCoxReset s
  | .watchdogExpiry => Sys2Proof.Machine.execWatchdogExpiry s
  | .watchdogKick => Sys2Proof.Machine.execWatchdogKick s
  | .coxFault => Sys2Proof.Machine.execCoxFault s
  | .sensorSample x => Sys2Proof.Machine.execSensorSample x s
  | .clockAbsent d => Sys2Proof.Machine.execClockAbsent d s
  | .clockPresent d => Sys2Proof.Machine.execClockPresent d s
  | .eventLogRecord cox => Sys2Proof.Machine.execEventLogRecord cox s
  | .journalProgram sector record bytes readBack => Sys2Proof.Machine.execJournalProgram sector record bytes readBack s
  | .mailboxPost => Sys2Proof.Machine.execMailboxPost s
  | .mailboxTake ch => Sys2Proof.Machine.execMailboxTake ch s
  | .mailboxReply ch msg => Sys2Proof.Machine.execMailboxReply ch msg s
  | .mailboxTaken => Sys2Proof.Machine.execMailboxTaken s
  | .sbBlockWrite bytes pec => Sys2Proof.Machine.execSbBlockWrite bytes pec s
  | .sbBlockRead extended => Sys2Proof.Machine.execSbBlockRead extended s
  | .sbReadByte extended => Sys2Proof.Machine.execSbReadByte extended s
  | .getInfo ch fwVersion => Sys2Proof.Machine.execGetInfo ch fwVersion s
  | .readLog ch => Sys2Proof.Machine.execReadLog ch s
  | .readJournal ch rec => Sys2Proof.Machine.execReadJournal ch rec s
  | .readSensors ch => Sys2Proof.Machine.execReadSensors ch s
  | .getLife ch activeBefore restBefore => Sys2Proof.Machine.execGetLife ch activeBefore restBefore s
  | .updBegin ch => Sys2Proof.Machine.execUpdBegin ch s
  | .updData ch => Sys2Proof.Machine.execUpdData ch s
  | .updCommit ch readBack => Sys2Proof.Machine.execUpdCommit ch readBack s
  | .updConfirm ch anchorZeros => Sys2Proof.Machine.execUpdConfirm ch anchorZeros s
  | .updAbort ch => Sys2Proof.Machine.execUpdAbort ch s
  | .tbSet => Sys2Proof.Machine.execTbSet s
  | .timePulse => Sys2Proof.Machine.execTimePulse s
  | .timebaseSlewStep => Sys2Proof.Machine.execTimebaseSlewStep s
  | .operatingMinute => Sys2Proof.Machine.execOperatingMinute s
  | .holdEnter => Sys2Proof.Machine.execHoldEnter s
  | .holdFlush => Sys2Proof.Machine.execHoldFlush s
  | .debugUnlock level => Sys2Proof.Machine.execDebugUnlock level s
  | .jtagRegacc wr addr data => Sys2Proof.Machine.execJtagRegacc wr addr data s
  | .mbistStart => Sys2Proof.Machine.execMbistStart s
  | .aonResetRelease => Sys2Proof.Machine.execAonResetRelease s
  | .mbistDone fail => Sys2Proof.Machine.execMbistDone fail s
  | .coxRestartDone sram reload => Sys2Proof.Machine.execCoxRestartDone sram reload s
  | .castHeaderReturn hdr image imageOk => Sys2Proof.Machine.execCastHeaderReturn hdr image imageOk s
  | .unlistedRequest la ch opc q => Sys2Proof.Machine.execUnlistedRequest la ch opc q s
  | .unlistedBirsp la opc agent => Sys2Proof.Machine.execUnlistedBirsp la opc agent s
  | .unlistedMrespWord m opc => Sys2Proof.Machine.execUnlistedMrespWord m opc s

end Sys2Proof.Machine
end

