-- ==== Sys2Proof/WellFormed.lean ====
section
/-! DEFINITION. Which terms are commands of the block: what the operands' types leave unsaid. -/

namespace Sys2Proof

/-- An opcode that REQ or RWD does not list (R38). -/
def unlistedReq (ch : InCh) (opc : BitVec 5) : Bool :=
  match ch with
  | .req => !(decide (1 ≤ opc.toNat) && decide (opc.toNat ≤ 9))
  | .rwd => !(decide (16 ≤ opc.toNat) && decide (opc.toNat ≤ 20))
  | .birsp => false

/-- An opcode that BIRSP does not list (R39): 1, 2, 3 and 8 are listed. -/
def unlistedRsp (opc : BitVec 4) : Bool :=
  decide (opc ≠ 1) && decide (opc ≠ 2) && decide (opc ≠ 3) && decide (opc ≠ 8)

/-- An opcode that MRESP does not list (R221): 1 and 2 are listed. -/
def unlistedMresp (opc : BitVec 4) : Bool := decide (opc ≠ 1) && decide (opc ≠ 2)

/-- The term is a command: lists have the length of what they stand for, and the rows for unlisted opcodes carry one. -/
def Instr.wellFormed : Instr → Bool
  | .slotHeaderCheck _ a b => decide (a.length = 512) && decide (b.length = 512)   -- the two 512-byte slot headers (R302, R303)
  | .bodyBlockRead ws => decide (ws.length = 1024)   -- one 4,096-byte block (R308)
  | .journalProgram _ _ b r => decide (b.length = 32) && decide (r.length = 32)   -- one journal record and what was read back (R359)
  | .mailboxReply _ m => decide (m.length ≤ 64)   -- a message of up to 64 bytes (R362)
  | .sbBlockWrite bs _ => decide (0 < bs.length) && decide (bs.length ≤ 64)   -- a block of 1 to 64 bytes (R363)
  | .readJournal _ r => decide (r.length = 32)   -- one journal record (R359)
  | .castHeaderReturn _ im ok => !ok || decide (im.length = 1024)   -- the 1,024 buckets of the agent image (R64)
  | .unlistedRequest _ ch o _ => unlistedReq ch o   -- an opcode not listed for its channel (R38)
  | .unlistedBirsp _ o _ => unlistedRsp o   -- an opcode not listed for BIRSP (R39)
  | .unlistedMrespWord _ o => unlistedMresp o   -- an opcode not listed for MRESP (R221)
  | .rdShared .. | .rdOwn .. | .rdCur .. | .rdAtomic .. | .inv .. | .evictClean .. | .conflict .. | .fence ..
  | .rsvRd .. | .wrFull .. | .wrKeep .. | .wrPartial .. | .hatom .. | .condWr .. | .birspI .. | .birspS ..
  | .birspE .. | .egressAck .. | .creditReturn .. | .creditAdvertisement .. | .linkEgressSend .. | .gateRelease ..
  | .barrierExpiry .. | .dataPull .. | .dxbBeat .. | .egressAckLate .. | .newRequestPass .. | .handOverPass ..
  | .snoopResponsePass .. | .egressAckPass .. | .snoopResponseWrite .. | .portRpt .. | .snoopIssue ..
  | .snoopTimeout .. | .snoopClose .. | .escalationRetry .. | .ticketExpiry .. | .replay ..
  | .backgroundWaitLimit .. | .castFetchReturn .. | .castWriteCompletion .. | .cuckooBucketRead ..
  | .capacityRecallStart .. | .broadcastRecoveryStart .. | .departureSweepStep .. | .patrolScrubStep ..
  | .silhouetteRebuildStep .. | .admissionScanStep .. | .ageClockAdvance .. | .predictorDecay ..
  | .agentLeavingDone .. | .joinLimitExpiry .. | .join .. | .leave .. | .agentFence .. | .release ..
  | .unknownAgentCommand .. | .agentPermissionWrite .. | .laRefuseClear .. | .flowErrClear .. | .serClear ..
  | .hlbClear .. | .atmClear .. | .mpClear .. | .rtrLinkClear .. | .rtrProbeClear .. | .qClear .. | .modeClear ..
  | .regClear .. | .evClear .. | .sampClear .. | .laOrdClear .. | .rasClear .. | .rasGlobalClear .. | .read ..
  | .write .. | .writePartial .. | .atomic .. | .castStoreCommand .. | .mcmdIssue .. | .mrdataBeat .. | .cmpl ..
  | .windowReq .. | .windowArbiterGrant .. | .windowRequestStarving .. | .drainLimitExpiry ..
  | .windowLimitExpiry .. | .sweepRequest .. | .sweepStep .. | .fenceClose .. | .fenceReport .. | .epochAdvance ..
  | .ageEngineVisit .. | .hlbScrubStep .. | .hlbMaintStart .. | .hlbMaintVisit .. | .hlbDisable .. | .hlbEnable ..
  | .calibrationSample .. | .calibrationWindowEnd .. | .flitReceive .. | .nak .. | .routerReconfigStart ..
  | .routerReconfigSwitch .. | .queuePointerMismatch .. | .laGateClose .. | .gateAck .. | .gateDrained ..
  | .laGateOpen .. | .gateReopen .. | .bouncedMessage .. | .traceOut .. | .restReq .. | .quiesceSet ..
  | .quiesceClear .. | .quiesceDrainAdvance .. | .restEntryStep .. | .restDrainLimit .. | .sidebandAddressMatch ..
  | .wakeIn .. | .restExitStep .. | .shedQualify .. | .droopAlert .. | .shedStepDown .. | .shedForce ..
  | .calibrateExit .. | .warmReset .. | .warmLimitExpiry .. | .warmResetRelease .. | .coldReset ..
  | .coldResetRelease .. | .aonReset .. | .powerFail .. | .powerLoss .. | .resize .. | .move ..
  | .bucketMarkMoving .. | .bucketWriteBack .. | .handover .. | .mapSet .. | .mapAck .. | .flashDiscovery ..
  | .signatureCheck .. | .padRecord .. | .writeRecord .. | .maskRecord .. | .pollRecord .. | .pollRead ..
  | .pollLimitExpiry .. | .waitRecord .. | .waitExpiry .. | .endRecord .. | .bodyHashCheck .. | .arrayClearDone ..
  | .registerWrite .. | .broadcastRead .. | .eventMessage .. | .globalSourceChange .. | .claim .. | .complete ..
  | .evSrcWrite .. | .tgtCtrlWrite .. | .cntLoRead .. | .dcycLowRead .. | .prbCntLowRead .. | .tbNowLoRead ..
  | .arm .. | .disarm .. | .counterOverflow .. | .freeze .. | .freezeRelease .. | .counterClear .. | .snapGo ..
  | .snapNow .. | .snapCapture .. | .snapDomainTimeout .. | .sampleRecord .. | .counterWindowRead .. | .coxReset ..
  | .watchdogExpiry .. | .watchdogKick .. | .coxFault .. | .sensorSample .. | .clockAbsent .. | .clockPresent ..
  | .eventLogRecord .. | .mailboxPost .. | .mailboxTake .. | .mailboxTaken .. | .sbBlockRead .. | .sbReadByte ..
  | .getInfo .. | .readLog .. | .readSensors .. | .getLife .. | .updBegin .. | .updData .. | .updCommit ..
  | .updConfirm .. | .updAbort .. | .tbSet .. | .timePulse .. | .timebaseSlewStep .. | .operatingMinute ..
  | .holdEnter .. | .holdFlush .. | .debugUnlock .. | .jtagRegacc .. | .mbistStart .. | .aonResetRelease ..
  | .mbistDone .. | .coxRestartDone .. => true

end Sys2Proof
end

