-- ==== Sys2Proof/Safety.lean ====
section
/-! DEFINITION. What counts as a safe run, in the terms the statements use. -/

namespace Sys2Proof.Machine

/-- Whether an outcome is a next state. -/
def goesOn (o : Host.Outcome State Fault Refusal) : Bool :=
  match o with
  | .next _ => true
  | _ => false

/-- The attachment on which a command is a message of REQ, RWD or BIRSP (R34). -/
def msgFrom : Instr → Option AttId
  | .rdShared la _ | .rdOwn la _ | .rdCur la _ | .rdAtomic la _ | .inv la _ | .evictClean la _ | .conflict la _
  | .fence la _ | .rsvRd la _ | .wrFull la _ _ | .wrKeep la _ _ | .wrPartial la _ _ | .hatom la _ _ | .condWr la _ _
  | .birspI la _ _ _ | .birspS la _ _ _ | .birspE la _ _ _ | .egressAck la _ _ | .unlistedRequest la _ _ _
  | .unlistedBirsp la _ _ => some la
  | _ => none

/-- A command that an attachment with a promise to send nothing (R265) does not send. -/
def State.keepsPromise (s : State) (c : Instr) : Prop := ∀ la, msgFrom c = some la → s.silent la = false

/-- Two register fields have no bit in common. -/
def Fld.apart (f g : Fld) : Prop := f.addr ≠ g.addr ∨ f.lo + f.len ≤ g.lo ∨ g.lo + g.len ≤ f.lo

/-- The stores of a state are in their one canonical form: registers, agents, histograms, attachments, slices, ports,
routers, event sources and counters. -/
def State.canonical (s : State) : Prop :=
  Store.wf resetWord s.regs = true ∧ Store.wf (fun _ => Agent.reset) s.agents = true
    ∧ Store.wf (fun _ => Hist.empty) s.hists = true ∧ Store.wf (fun _ => Att.reset) s.atts = true
    ∧ Store.wf (fun _ => Slice.reset) s.slices = true ∧ Store.wf (fun _ => Port.reset) s.ports = true
    ∧ Store.wf (fun _ => Router.reset) s.mesh.routers = true ∧ Store.wf EvSrc.reset s.events.srcs = true
    ∧ Store.wf (fun _ => Counter.reset) s.counts.cnts = true

/-- The command that is a request of an opcode (R38). -/
def Op.command (op : Op) (la : AttId) (q : ReqHdr) (w : WrData) : Instr :=
  match op with
  | .rdShared => .rdShared la q
  | .rdOwn => .rdOwn la q
  | .rdCur => .rdCur la q
  | .rdAtomic => .rdAtomic la q
  | .inv => .inv la q
  | .evictClean => .evictClean la q
  | .conflict => .conflict la q
  | .fence => .fence la q
  | .rsvRd => .rsvRd la q
  | .wrFull => .wrFull la q w
  | .wrKeep => .wrKeep la q w
  | .wrPartial => .wrPartial la q w
  | .hatom => .hatom la q w
  | .condWr => .condWr la q w

/-- A request arrives with its credit, passes checks 1 and 2 of R98, meets no snoop record, barrier or full order table, finds no
request of its channel waiting to be accepted, and its turn has come at the gate; while the block serves it then passes into the block at once. -/
def State.passesAtOnce (s : State) (op : Op) (la : AttId) (q : ReqHdr) : Prop :=
  s.silent la = false ∧ (s.mode = .serve ∨ s.mode = .shed) ∧ q.agent ≠ 0xFFF ∧ (s.agent q.agent).la = la
    ∧ (if op.rwd then 0 < (s.att la).rwdCr ∧ (s.att la).writeRoom q = true else 0 < (s.att la).reqCr)
    ∧ (op.plainWrite = true → (q.agent, q.laddr) ∉ (s.att la).snooped) ∧ (op = .hatom → atomOk q = true)
    ∧ (s.att la).barrier q = none ∧ (s.att la).order.length < 512
    ∧ (s.att la).waitIn.any (fun x => decide (x.op.rwd = op.rwd)) = false
    ∧ turnOf (s.att la).order { op := op, la := la, q := q, buf := none } = true ∧ s.inWindow q.laddr = false

/-- A BIRSP message arrives with a credit from the attachment of its agent, outside HOLD. -/
def State.birspArrives (s : State) (la : AttId) (a : AgentId) : Prop :=
  s.silent la = false ∧ 0 < (s.att la).birspCr ∧ a ≠ 0xFFF ∧ (s.agent a).la = la ∧ s.held = false

/-- The credits the block holds on a channel (R430). -/
def State.creditsOf (s : State) (ch : CreditCh) : Credits :=
  match ch with
  | .link k .ndr => (s.att k).ndrC
  | .link k .drs => (s.att k).drsC
  | .link k .bisnp => (s.att k).bisnpC
  | .mcmd m => (s.mp m).mcmdC
  | .mwdata m => (s.mp m).mwdataC

/-- A unit takes firmware's register commands (R405, R406). -/
def State.unitUp (s : State) (u : QUnit) : Bool :=
  s.fwUp && (match u with
    | .slice i => (s.sl i).active
    | .att k => !s.attShut k
    | .port m => !s.mpShut m
    | _ => true)

/-- The unit whose counts a clear command clears, and the fields it clears there (R65, R127, R158, R185, R205, R216, R242,
R272, R274, R299, R322, R334, R349, R396, R397); `none` of any other command. -/
def clearedBy (c : Instr) : Option (QUnit × List Fld) :=
  match c with
  | .laRefuseClear k => some (.att k, [Fld.notActive k, Fld.perm k, Fld.spoof k, Fld.format k])
  | .laOrdClear k => some (.att k, [Fld.la k 0x124 0 32, Fld.la k 0x128 16 16, Fld.la k 0x12C 0 32])
  | .flowErrClear i => some (.slice i, [Fld.sl i 0x220 0 32])
  | .serClear i => some (.slice i, [Fld.sl i 0x244 16 16, Fld.sl i 0x248 0 32, Fld.sl i 0x24C 0 32, Fld.sl i 0x250 0 32])
  | .atmClear i => some (.slice i, [Fld.sl i 0x280 16 16, Fld.sl i 0x284 0 32, Fld.sl i 0x28C 0 32])
  | .rasClear i => some (.slice i, [Fld.sl i 0x304 0 32, Fld.sl i 0x308 0 32, Fld.sl i 0x30C 0 32, Fld.sl i 0x310 0 16])
  | .hlbClear m => some (.port m, [Fld.mp m 0x430 0 32, Fld.mp m 0x434 0 32, Fld.mp m 0x438 0 32, Fld.mp m 0x43C 0 32])
  | .mpClear m => some (.port m, [Fld.mp m 0x108 0 32, Fld.mp m 0x10C 0 32, Fld.mp m 0x110 0 32])
  | .rtrLinkClear i => some (.service, [Fld.rt i.val 4 0 32])
  | .qClear u => some (u, [⟨queueBase u + 8, 0, 8⟩, ⟨queueBase u + 8, 8, 8⟩, ⟨queueBase u + 8, 22, 2⟩])
  | .modeClear => some (.service, [⟨0x70010, 0, 16⟩, ⟨0x70010, 19, 8⟩, ⟨0x70038, 0, 32⟩, ⟨0x7003C, 0, 32⟩])
  | .regClear => some (.service, [⟨0x1020, 0, 32⟩])
  | .evClear => some (.service, [⟨0x12300, 0, 32⟩, ⟨0x12304, 0, 32⟩, ⟨0x12308, 0, 32⟩])
  | .sampClear => some (.service, [⟨0x20064, 0, 32⟩, ⟨0x20010, 16, 16⟩])
  | .rasGlobalClear => some (.service, [⟨0x70120, 0, 32⟩, ⟨0x70124, 0, 32⟩])
  | _ => none

/-- The loader stands at a record with header `h` and the words `rest` after it in its block (R310). -/
def State.recordAt (s : State) (h : Word32) (rest : List Word32) : Prop :=
  s.booting .body = true ∧ s.boot.ended = false ∧ s.boot.waiting = .none ∧ s.modes.arraysClr = true
    ∧ ∃ buf more, s.boot.bufs = buf :: more ∧ buf.drop s.boot.index = h :: rest

/-- What a reset leaves outside the Plinth: no agent, and every attachment, slice and port at its reset value, their epochs and decay
periods beginning now (R414; log 60). -/
def State.blank (s : State) : Prop :=
  s.agents = [] ∧ s.atts = [] ∧ (∀ i, s.sl i = { Slice.reset with decayAt := s.now })
    ∧ ∀ m, s.mp m = { Port.reset with epochAt := s.now }

/-- Cox has taken a message, of 64 bytes, of an OPC and a LEN from a channel (R362, R364). -/
def State.hasTaken (s : State) (ch : MbxCh) (opc len : Nat) : Prop :=
  (s.taken ch).length = 64 ∧ hdrNat (s.taken ch) 0 1 = opc ∧ hdrNat (s.taken ch) 1 1 = len

/-- After a program of the flash asked for in `s`: it was sent alone, or a guard refused it, the block sent nothing and GUARD is 1
(R365). -/
def State.programs (s t : State) (c : BitVec 8 × Nat × List Byte) : Prop :=
  (s.guarded c = false → t.pins.spi = [c]) ∧ (s.guarded c = true → t.pins = s.pins ∧ t.fld ⟨0x30A00, 1, 1⟩ = 1)

/-- The reply that stands posted on a channel (R362). -/
def State.posted (s : State) (ch : MbxCh) : List Byte :=
  match ch with
  | .host => s.cox.c2h
  | .sideband => s.cox.c2s

end Sys2Proof.Machine
end

