-- ==== Sys2Proof/Certificates/Slice0/Obligations.lean ====
section
/-! DEFINITION. The statements for the provers. -/

open Sys2Proof Sys2Proof.Machine

/-! ## The queue, the step and what stops it -/

/-- A step with a command in front of the queue is that command's effect on the state with the queue's rest. -/
def Obligations.StepRunsFrontCommand : Prop :=
  ∀ (s : State) (c : Instr) (rest : List Instr), s.pending = c :: rest → step s = exec c { s with pending := rest }

/-- On an empty queue a cycle of clk_ref passes (the model's choice, log 2): the timebase counts 10 ns while it runs, and nothing
else can change but the place of L3's clock gate, the counters, what they report (event messages, and a slice's mark for
sampling), and the Armature's packets, synchronisers and followers. A command's effect is on everything but the queue. -/
def Obligations.EmptyQueueTicksAndCommandsLeaveTheQueue : Prop :=
  (∀ s : State, s.pending = [] → ∃ t, step s = .next t
    ∧ t = { s with plinth := { s.plinth with now := s.plinth.now + (if s.refRuns then 10 else 0) },
                   modes := { s.modes with gatePos := t.modes.gatePos },
                   slices := t.slices, mesh := t.mesh, events := t.events, counts := t.counts }
    ∧ (∀ i, t.sl i = { s.sl i with sampOvf := (t.sl i).sampOvf })
    ∧ t.mesh = { s.mesh with inj := t.mesh.inj, cross := t.mesh.cross, follow := t.mesh.follow }
    ∧ t.events = { s.events with msgs := t.events.msgs })
  ∧ (∀ (c : Instr) (s t : State), exec c s = .next t → t.pending = s.pending)

/-- A command stops the machine only where it is a message of an attachment that has acknowledged the closing of its gate, or
a term that is no command: one of its lists has not the length of what it stands for. Such a message does stop it:
R265 binds the attachment to send none, and no promise covers a broken obligation. -/
def Obligations.StopsAreNamed : Prop :=
  (∀ (c : Instr) (s : State), s.keepsPromise c → c.wellFormed = true →
    (∀ cox, c = .bodyHashCheck cox → cox.length = coxLen (s.boot.hdr s.boot.slot)) →
    (∀ a b, c = .coxRestartDone a b → a.length = s.boot.coxLen ∧ b.length = s.boot.coxLen) → ∃ t, exec c s = .next t)
  ∧ (∀ (c : Instr) (la : AttId) (s : State), c.wellFormed = true → msgFrom c = some la → s.silent la = true →
    exec c s = .fault .noPromise)

/-! ## Invariants -/

/-- Entry 0xFFF of the agent table keeps its reset value, ABSENT, through every step. -/
def Obligations.Entry0xFFFStaysAbsent : Prop :=
  ∀ s t : State, s.agent 0xFFF = Agent.reset → step s = .next t → t.agent 0xFFF = Agent.reset

/-- A reserved counter that reads 0 reads 0 after every step. -/
def Obligations.ReservedCountersStayZero : Prop :=
  ∀ s t : State, (∀ i, cReserved i = true → (s.cnt i).value = 0) → step s = .next t →
    ∀ i, cReserved i = true → (t.cnt i).value = 0

/-- Every step keeps the stores of registers, agents, histograms, attachments, slices, ports, routers, event sources and
counters in their one canonical form: equal contents stay equal data. -/
def Obligations.StepKeepsCanonicalForm : Prop :=
  ∀ s t : State, s.canonical → step s = .next t → t.canonical

/-- After reset the three invariants hold, the block is in BOOT at level 0, every home bucket reads slice 0 with EPOCH 0,
every agent is ABSENT with no permission, and every register word has its reset value. -/
def Obligations.ResetMeetsTheInvariants : Prop :=
  (State.reset.canonical ∧ State.reset.agent 0xFFF = Agent.reset ∧ ∀ i, cReserved i = true → (State.reset.cnt i).value = 0)
  ∧ (State.reset.mode = .boot ∧ State.reset.level = 0 ∧ (∀ b, State.reset.homeOf b = 0) ∧ State.reset.hmap.epoch = 0
    ∧ (∀ a, (State.reset.agent a).st = .absent ∧ (State.reset.agent a).perfRead = false
        ∧ (State.reset.agent a).hatom = false ∧ (State.reset.agent a).rsv = false)
    ∧ (∀ a, State.reset.reg a = resetWord a))

/-! ## Link attachments -/

/-- A request that passes the edge at once takes an order-table entry and enters the NEW queue of its home slice behind the requests
that wait there; no other attachment or slice, no port, agent or register changes. Without data its REQ credit returns;
with data it takes the lowest free write-data buffer for its byte enable, data and poison, and spends an RWD credit. -/
def Obligations.RequestsEnterTheirHome : Prop :=
  (∀ (op : Op) (la : AttId) (q : ReqHdr) (s : State), op.rwd = false → op ≠ .fence → op ≠ .conflict → s.passesAtOnce op la q →
    ∃ t, exec (op.command la q noData) s = .next t
      ∧ (t.sl (s.homeAt la (bucketOf q.laddr))).new
          = (s.sl (s.homeAt la (bucketOf q.laddr))).new ++ [{ op := op, la := la, q := q, buf := none }]
      ∧ (t.att la).order = (s.att la).order ++ [OrdEntry.mk { op := op, la := la, q := q, buf := none } false 2 (s.att la).accN]
      ∧ (t.att la).reqCr + (t.att la).reqHold = (s.att la).reqCr + (s.att la).reqHold
      ∧ (∀ k, k ≠ la → t.att k = s.att k) ∧ (∀ i, i ≠ s.homeAt la (bucketOf q.laddr) → t.sl i = s.sl i)
      ∧ t.ports = s.ports ∧ t.agents = s.agents ∧ t.regs = s.regs)
  ∧ (∀ (op : Op) (la : AttId) (q : ReqHdr) (w : WrData) (b : Nat) (s : State), op.rwd = true → s.passesAtOnce op la q →
    Store.lowestFree none (s.att la).bufs 32 = some b →
    ∃ t, exec (op.command la q w) s = .next t
      ∧ (t.sl (s.homeAt la (bucketOf q.laddr))).new
          = (s.sl (s.homeAt la (bucketOf q.laddr))).new ++ [{ op := op, la := la, q := q, buf := some (BitVec.ofNat 5 b) }]
      ∧ (t.att la).order = (s.att la).order
          ++ [OrdEntry.mk { op := op, la := la, q := q, buf := some (BitVec.ofNat 5 b) } false 2 (s.att la).accN]
      ∧ Store.get none (t.att la).bufs b = some { w := w, psn := q.psn, snoop := false, high := decide (8 ≤ q.ncnt.toNat) }
      ∧ (t.att la).rwdCr + (t.att la).rwdHold + 1 = (s.att la).rwdCr + (s.att la).rwdHold
      ∧ (∀ k, k ≠ la → t.att k = s.att k) ∧ (∀ i, i ≠ s.homeAt la (bucketOf q.laddr) → t.sl i = s.sl i)
      ∧ t.ports = s.ports ∧ t.agents = s.agents ∧ t.regs = s.regs)

/-- A FENCE of an ACTIVE or LEAVING agent that passes the gate takes the lowest free fence entry, and every memory port that is not in
bounce mode receives a sweep request for it. A CONFLICT takes no order-table entry and its credit returns: it enters the RSP
queue of its line's home slice. There a pass of that slice answers it: CONFLICT_ACK for an ACTIVE or LEAVING agent and a line
outside the cast-store region. -/
def Obligations.FencesAndConflictsAreTaken : Prop :=
  (∀ (la : AttId) (q : ReqHdr) (i : Nat) (s : State), s.passesAtOnce .fence la q →
    ((s.agent q.agent).st = .active ∨ (s.agent q.agent).st = .leaving) → Store.lowestFree none (s.att la).fences 4 = some i →
    ∃ t, exec (.fence la q) s = .next t
      ∧ Store.get none (t.att la).fences i = some (FenceEntry.mk q.agent q.tag q.otag s.now [] false false)
      ∧ ∀ m, s.portBounces m = false → (t.mp m).sweepReqs = (s.mp m).sweepReqs ++
          [{ la := la, entry := BitVec.ofNat 2 i, agent := q.agent, left := 1024, rews := [], closed := false }])
  ∧ (∀ (la : AttId) (q : ReqHdr) (s : State), s.silent la = false → (s.mode = .serve ∨ s.mode = .shed ∨ s.mode = .quiesce) →
    q.agent ≠ 0xFFF → (s.agent q.agent).la = la → 0 < (s.att la).reqCr →
    ∃ t, exec (.conflict la q) s = .next t
      ∧ (t.sl (s.homeAt la (bucketOf q.laddr))).rsp = (s.sl (s.homeAt la (bucketOf q.laddr))).rsp ++ [.conflict la q]
      ∧ (∀ i, i ≠ s.homeAt la (bucketOf q.laddr) → t.sl i = s.sl i)
      ∧ (t.att la).order = (s.att la).order ∧ (t.att la).waitIn = (s.att la).waitIn
      ∧ (t.att la).reqCr + (t.att la).reqHold = (s.att la).reqCr + (s.att la).reqHold
      ∧ (∀ k, k ≠ la → t.att k = s.att k) ∧ t.ports = s.ports ∧ t.agents = s.agents ∧ t.regs = s.regs)
  ∧ (∀ (i : SliceId) (la : AttId) (q : ReqHdr) (s : State), ((s.agent q.agent).st = .active ∨ (s.agent q.agent).st = .leaving) →
    s.inCast q.laddr = false → s.attBounces la = false →
    ((s.conflictAck i la q).att la).ndrQ
      = (s.att la).ndrQ ++ [((s.att la).seq, Ndr.mk .conflictAck q.agent q.tag 0 .ok 0 0 q.otag)])

/-- A snoop response to an open snoop of the slot its HTAG names clears the line's snoop record and enters the RSP queue of that
slot's slice, with the time it arrived; so does an EGRESS_ACK of the agent whose completion a slot awaits. -/
def Obligations.ResponsesReachTheirSlot : Prop :=
  (∀ (la : AttId) (a : AgentId) (h : BitVec 16) (l : Line) (s : State), s.birspArrives la a → s.openProbe a h = none →
    ((s.slotOf h).map (·.openSnoop a)).getD false = true →
    ∀ c op, (c = .birspI la a h l ∧ op = RspOp.i ∨ c = .birspS la a h l ∧ op = RspOp.s ∨ c = .birspE la a h l ∧ op = RspOp.e) →
    ∃ t, exec c s = .next t
      ∧ (t.sl (htagSlice h)).rsp = (s.sl (htagSlice h)).rsp ++ [.birsp op a h l s.now]
      ∧ (t.att la).snooped = (s.att la).snooped.erase (a, l)
      ∧ (∀ i, i ≠ htagSlice h → t.sl i = s.sl i) ∧ (∀ k, k ≠ la → t.att k = s.att k) ∧ t.regs = s.regs)
  ∧ (∀ (la : AttId) (a : AgentId) (h : BitVec 16) (s : State), s.birspArrives la a →
    ((s.slotOf h).map (·.awaitsAck a)).getD false = true →
    ∃ t, exec (.egressAck la a h) s = .next t
      ∧ (t.sl (htagSlice h)).rsp = (s.sl (htagSlice h)).rsp ++ [.eack a h]
      ∧ (∀ i, i ≠ htagSlice h → t.sl i = s.sl i) ∧ t.atts = s.atts ∧ t.regs = s.regs)

/-- A message with an opcode that its channel does not list is counted in LA_REFUSE.FORMAT; its credit returns. A request is answered
with ERROR; a BIRSP message is discarded, and no attachment changes. -/
def Obligations.UnlistedMessagesAreCountedInFormat : Prop :=
  (∀ (la : AttId) (ch : InCh) (opc : BitVec 5) (q : ReqHdr) (s : State), unlistedReq ch opc = true → s.silent la = false →
    q.agent ≠ 0xFFF → (if ch = .rwd then 0 < (s.att la).rwdCr else 0 < (s.att la).reqCr) →
    ∃ t, exec (.unlistedRequest la ch opc q) s = .next t
      ∧ t.fld (Fld.format la) = min 255 (s.fld (Fld.format la) + 1)
      ∧ (t.att la).ndrQ = (s.att la).ndrQ ++ [((s.att la).seq, errNdr q)]
      ∧ (t.att la).reqCr + (t.att la).reqHold = (s.att la).reqCr + (s.att la).reqHold
      ∧ (t.att la).rwdCr + (t.att la).rwdHold = (s.att la).rwdCr + (s.att la).rwdHold
      ∧ (∀ g, (Fld.format la).apart g → t.fld g = s.fld g))
  ∧ (∀ (la : AttId) (opc : BitVec 4) (a : AgentId) (s : State), unlistedRsp opc = true → s.silent la = false → a ≠ 0xFFF →
    0 < (s.att la).birspCr →
    ∃ t, exec (.unlistedBirsp la opc a) s = .next t
      ∧ t.fld (Fld.format la) = min 255 (s.fld (Fld.format la) + 1) ∧ t.atts = s.atts
      ∧ (∀ g, (Fld.format la).apart g → t.fld g = s.fld g))

/-- A credit-return cycle lengthens the advertisement while it is open; after it, it adds a credit, up to 255. An advertisement
that ends counts as its length, and outside 8 to 255 as 8 or 255, whichever is nearer. -/
def Obligations.CreditsAreCounted : Prop :=
  (∀ (ch : CreditCh) (s : State), ∃ t, exec (.creditReturn ch) s = .next t
    ∧ t.creditsOf ch = (if (s.creditsOf ch).advOpen then { s.creditsOf ch with run := (s.creditsOf ch).run + 1 }
        else { s.creditsOf ch with n := if 255 ≤ (s.creditsOf ch).n then 255 else (s.creditsOf ch).n + 1 })
    ∧ (∀ ch', ch' ≠ ch → t.creditsOf ch' = s.creditsOf ch') ∧ t.slices = s.slices ∧ t.regs = s.regs)
  ∧ (∀ (ch : CreditCh) (s : State), (s.creditsOf ch).advOpen = true → (s.creditsOf ch).run ≠ 0 →
    ∃ t, exec (.creditAdvertisement ch) s = .next t
      ∧ t.creditsOf ch = { n := max 8 (min 255 (s.creditsOf ch).run), advOpen := false, run := 0 }
      ∧ (∀ ch', ch' ≠ ch → t.creditsOf ch' = s.creditsOf ch') ∧ t.slices = s.slices ∧ t.regs = s.regs)

/-- The head of an egress queue leaves with a credit and stands on the channel. A snoop leaves its record, and waits while data for its
agent that entered before it waits. A RETRY leaves a barrier on its pair where no request waits for an order-table entry:
the pair's held requests, and the entry of the RETRYed one, are no longer in the table, and each held one receives RETRY. -/
def Obligations.EgressSendsTheHead : Prop :=
  (∀ (k : AttId) (n : Nat) (m : Ndr) (rest : List (Nat × Ndr)) (c : Credits) (s : State), (s.att k).ndrQ = (n, m) :: rest →
    (s.att k).ndrC.spend = some c →
    ∃ t, exec (.linkEgressSend k .ndr) s = .next t ∧ (t.att k).ndrPin = some m ∧ (t.att k).ndrC = c
      ∧ (m.op ≠ .retry → (t.att k).ndrQ = rest)
      ∧ (m.op = .retry → (s.att k).waitIn = [] → (∀ e ∈ (s.att k).order, e.req.la = k) →
        (∃ b ∈ (t.att k).barriers, b.agent = m.agent ∧ b.otag = m.otag)
        ∧ (t.att k).order = (s.att k).order.filter (fun e =>
            !(decide (e.req.q.agent = m.agent) && decide (e.req.q.otag = m.otag) && (e.gated || decide (e.req.q.tag = m.tag))))
        ∧ (t.att k).ndrQ.map (·.2) = rest.map (·.2) ++ ((s.att k).order.filter (fun e =>
            decide (e.req.q.agent = m.agent) && decide (e.req.q.otag = m.otag) && e.gated)).map
              (fun e => retryNdr e.req.q (s.backoff e.req.q.agent))))
  ∧ (∀ (k : AttId) (n : Nat) (m : Drs) (rest : List (Nat × Drs)) (c : Credits) (s : State), (s.att k).drsQ = (n, m) :: rest →
    (s.att k).drsC.spend = some c →
    ∃ t, exec (.linkEgressSend k .drs) s = .next t ∧ (t.att k).drsPin = some m ∧ (t.att k).drsC = c ∧ (t.att k).drsQ = rest)
  ∧ (∀ (k : AttId) (n : Nat) (m : Bisnp) (rest : List (Nat × Bisnp)) (c : Credits) (s : State),
    (s.att k).bisnpQ = (n, m) :: rest → (s.att k).bisnpC.spend = some c →
    (∀ d ∈ (s.att k).drsQ, d.2.agent = m.agent → n ≤ d.1) →
    ∃ t, exec (.linkEgressSend k .bisnp) s = .next t ∧ (t.att k).bisnpPin = some m ∧ (t.att k).bisnpC = c
      ∧ (t.att k).bisnpQ = rest ∧ (m.agent, m.laddr) ∈ (t.att k).snooped)
  ∧ (∀ (k : AttId) (n : Nat) (m : Bisnp) (rest : List (Nat × Bisnp)) (s : State), (s.att k).bisnpQ = (n, m) :: rest →
    (∃ d ∈ (s.att k).drsQ, d.2.agent = m.agent ∧ d.1 < n) → exec (.linkEgressSend k .bisnp) s = .next s)

/-- A held request whose turn has come leaves the gate and enters the NEW queue of its home slice (where none waits for an order-table
entry). A barrier ends 100 us after it was set and is counted. A slot whose EGRESS_ACK is owed 64 us after its last part left the block is marked late and
counted; the slot is kept. -/
def Obligations.GatesBarriersAndLateAcks : Prop :=
  (∀ (la : AttId) (a : AgentId) (tag : BitVec 16) (e : OrdEntry) (s : State), findEntry (s.att la).order a tag = some e →
    e.gated = true → s.canPass (beforeEntry (s.att la).order a tag) e.req = true → (s.mode = .serve ∨ s.mode = .shed) →
    e.req.op ≠ .fence → s.inWindow e.req.q.laddr = false → (s.att la).waitIn = [] →
    ∃ t, exec (.gateRelease la a tag) s = .next t
      ∧ (t.sl (s.homeAt e.req.la (bucketOf e.req.q.laddr))).new
          = (s.sl (s.homeAt e.req.la (bucketOf e.req.q.laddr))).new ++ [e.req]
      ∧ findEntry (t.att la).order a tag = some { e with gated := false })
  ∧ (∀ (la : AttId) (a : AgentId) (o : BitVec 4) (b : Barrier) (s : State),
    (s.att la).barriers.find? (fun b => decide (b.agent = a) && decide (b.otag = o)) = some b →
    ∃ t, exec (.barrierExpiry la a o) s = .next t
      ∧ (∀ b' ∈ (t.att la).barriers, ¬ (b'.agent = a ∧ b'.otag = o))
      ∧ t.plinth.now = max s.plinth.now (b.setAt + 100000)
      ∧ t.fld (Fld.la la 0x124 16 16) = min 65535 (s.fld (Fld.la la 0x124 16 16) + 1)
      ∧ (∀ k, k ≠ la → t.att k = s.att k) ∧ t.slices = s.slices ∧ t.ports = s.ports)
  ∧ (∀ (i : SliceId) (slot : BitVec 10) (x : Slot) (r : Req) (t0 : Nat) (s : State), (s.sl i).slot slot.toNat = some x →
    x.eackAt = some t0 → x.req = some r → x.eack = true → x.late = false → s.runs = true →
    (∀ m ∈ (s.sl i).rsp, ∀ a, m ≠ .eack a (htagOf i slot.toNat)) →
    ∃ t, exec (.egressAckLate i slot) s = .next t ∧ (t.sl i).slot slot.toNat = some { x with late := true }
      ∧ t.fld (Fld.la r.la 0x108 0 16) = min 65535 (s.fld (Fld.la r.la 0x108 0 16) + 1)
      ∧ t.plinth.now = max s.plinth.now (t0 + 64000) ∧ t.atts = s.atts ∧ t.ports = s.ports)

/-- A DATA_PULL that names a port sends the buffer's data to the write switch, frees the buffer and returns an RWD credit. A beat of
the read switch that its arbiter grants enters the attachment's DRS egress queue, and a granted beat of the write switch
the memory port; a beat with bad data parity goes on as poison; the arbiter's pointer moves behind the granted input. -/
def Obligations.DataMovesThroughTheDxb : Prop :=
  (∀ (la : AttId) (p : Pull) (rest : List Pull) (m : PortId) (b : WBuf) (s : State), (s.att la).pulls = p :: rest →
    p.port = some m → Store.get none (s.att la).bufs p.buf.toNat = some b →
    ∃ t, exec (.dataPull la) s = .next t ∧ (t.att la).pulls = rest
      ∧ (t.att la).wsIn = (s.att la).wsIn ++ [{ port := m, slice := p.slice, tag := p.tag, w := b.w, psn := b.psn }]
      ∧ Store.get none (t.att la).bufs p.buf.toNat = none
      ∧ (t.att la).rwdCr + (t.att la).rwdHold = (s.att la).rwdCr + (s.att la).rwdHold + 1
      ∧ (∀ k, k ≠ la → t.att k = s.att k) ∧ t.slices = s.slices ∧ t.ports = s.ports)
  ∧ ((∀ (la : AttId) (m : Nat) (b : RBeat) (par : BeatParity) (s : State),
    grantOf 32 (Store.get 0 s.mesh.rdPtr la.toNat)
      (fun m => (((s.mp (BitVec.ofNat 5 m)).rsIn.head?).map (fun b => decide (b.la = la))).getD false) = some m →
    (s.mp (BitVec.ofNat 5 m)).rsIn.head? = some b → par ≠ .headerBad → (s.agent b.drs.agent).st ≠ .fenced →
    ∃ t, exec (.dxbBeat (.read la) par) s = .next t
      ∧ (t.att la).drsQ = (s.att la).drsQ ++ [((s.att la).seq, { b.drs with psn := b.drs.psn || decide (par = .dataBad) })]
      ∧ (t.mp (BitVec.ofNat 5 m)).rsIn = (s.mp (BitVec.ofNat 5 m)).rsIn.drop 1
      ∧ Store.get 0 t.mesh.rdPtr la.toNat = (m + 1) % 32)
  ∧ (∀ (m : PortId) (k : Nat) (b : WBeat) (par : BeatParity) (s : State),
    grantOf 16 (Store.get 0 s.mesh.wrPtr m.toNat)
      (fun k => (((s.att (BitVec.ofNat 4 k)).wsIn.head?).map (fun b => decide (b.port = m))).getD false) = some k →
    (s.att (BitVec.ofNat 4 k)).wsIn.head? = some b → par ≠ .headerBad →
    ∃ t, exec (.dxbBeat (.write m) par) s = .next t
      ∧ (t.mp m).beats = (s.mp m).beats ++ [{ b with psn := b.psn || decide (par = .dataBad) }]
      ∧ (t.att (BitVec.ofNat 4 k)).wsIn = (s.att (BitVec.ofNat 4 k)).wsIn.drop 1
      ∧ Store.get 0 t.mesh.wrPtr m.toNat = (k + 1) % 16))

/-! ## Agents and clear commands -/

/-- JOIN of an ABSENT agent makes it JOINING with RESULT, TOCNT, HELD and SNP_TO 0, with 8 probes open from then on; no other agent
changes. The probes are BISNP_CUR on the first line of the cast-store region: they enter the egress queue of its attachment,
and through a gate that is not OPEN they come back. In QUARANTINE a JOIN answers RESULT 2, in any other state RESULT 3. A
JOIN that is not complete 100 us after it was accepted ends in ABSENT with RESULT 4. (The probes' home tags are free: log 22.) -/
def Obligations.JoinsStartAndEnd : Prop :=
  (∀ (a : AgentId) (s : State), s.takesCmd a = true → (s.agent a).st = .absent →
    ∃ t, exec (.join a) s = .next t
      ∧ t.agent a = { s.agent a with
          st := .joining, result := 0, tocnt := 0, held := 0, snpTo := 0,
          join := some { start := s.now, longest := 0, stamps := (List.range 8).map (fun n => (Config.probeHtag a (s.freeCtr + n), s.now)) } }
      ∧ ((s.att (s.agent a).la).gate = .opened → s.attBounces (s.agent a).la = false →
        (t.att (s.agent a).la).bisnpQ = (s.att (s.agent a).la).bisnpQ ++ (List.range 8).map (fun n =>
          ((s.att (s.agent a).la).seq + n,
            { op := .cur, agent := a, htag := Config.probeHtag a (s.freeCtr + n), laddr := BitVec.ofNat 40 s.castLine0 })))
      ∧ ((s.att (s.agent a).la).gate ≠ .opened → t.atts = s.atts ∧ t.mesh.bounced = s.mesh.bounced ++ (List.range 8).map (fun n =>
          .snoop (s.agent a).la
            { op := .cur, agent := a, htag := Config.probeHtag a (s.freeCtr + n), laddr := BitVec.ofNat 40 s.castLine0 }))
      ∧ (∀ b, b ≠ a → t.agent b = s.agent b) ∧ t.slices = s.slices ∧ t.ports = s.ports)
  ∧ (∀ (a : AgentId) (s : State), s.takesCmd a = true → (s.agent a).st ≠ .absent →
    exec (.join a) s = .next (s.modAgent a (fun x => { x with result := if (s.agent a).st = .quarantine then 2 else 3 })))
  ∧ (∀ (a : AgentId) (j : JoinProbe) (s : State), s.runs = true → a ≠ 0xFFF → (s.agent a).st = .joining → (s.agent a).join = some j →
    ∃ t, exec (.joinLimitExpiry a) s = .next t
      ∧ t.agent a = { s.agent a with st := .absent, result := 4, join := none }
      ∧ t.now = max s.now (j.start + 100000)
      ∧ (∀ b, b ≠ a → t.agent b = s.agent b) ∧ t.atts = s.atts ∧ t.slices = s.slices ∧ t.regs = s.regs)

/-- LEAVE of an ACTIVE agent makes it LEAVING with RESULT 1, and its reservations are lost in every slice; of a JOINING one it goes
on to QUARANTINE at once; in any other state it answers RESULT 3 (RESULT 1 stands at the acceptance: the model's choice, log 59). A
LEAVING agent of which nothing is outstanding goes on to QUARANTINE. An agent that enters QUARANTINE or FENCED is counted in
RAS_DEPART.SEQ, which wraps; with HELD 0 no sweep runs, and from QUARANTINE it is ABSENT at once; otherwise every active slice
sweeps it or has it wait for a place. -/
def Obligations.AgentsLeave : Prop :=
  ((∀ (a : AgentId) (s : State), s.takesCmd a = true → (s.agent a).st = .active →
    ∃ t, exec (.leave a) s = .next t ∧ t.agent a = { s.agent a with st := .leaving, result := 1 }
      ∧ (∀ i, (t.sl i).rsvs = (s.sl i).rsvs.filter (fun r => !decide (r.agent = a)))
      ∧ (∀ b, b ≠ a → t.agent b = s.agent b) ∧ t.atts = s.atts ∧ t.ports = s.ports)
  ∧ (∀ (a : AgentId) (s : State), s.takesCmd a = true → (s.agent a).st = .joining →
    exec (.leave a) s = .next ((s.modAgent a (fun x => { x with result := 1 })).quarantine a))
  ∧ (∀ (a : AgentId) (s : State), s.takesCmd a = true → (s.agent a).st ≠ .active → (s.agent a).st ≠ .joining →
    exec (.leave a) s = .next (s.modAgent a (fun x => { x with result := 3 })))
  ∧ (∀ (a : AgentId) (s : State), s.runs = true → (s.agent a).st = .leaving → (∀ k, (s.att k).owes a = false) →
    (∀ i, (s.sl i).owes a = false) → (∀ b ∈ s.mesh.bounced, Bounced.owes a b = false) →
    exec (.agentLeavingDone a) s = .next (s.quarantine a)))
  ∧ (∀ (a : AgentId) (fenced : Bool) (s : State), a ≠ 0xFFF →
    (s.depart a fenced).fld ⟨0x70118, 0, 32⟩ = (s.fld ⟨0x70118, 0, 32⟩ + 1) % 2 ^ 32
    ∧ ((s.agent a).held = 0 →
      (s.depart a fenced).agent a = { s.agent a with st := if fenced then .fenced else .absent, join := none }
      ∧ (s.depart a fenced).slices = s.slices)
    ∧ ((s.agent a).held ≠ 0 →
      (s.depart a fenced).agent a = { s.agent a with st := if fenced then .fenced else .quarantine, join := none, sweep := true }
      ∧ ∀ i, (s.sl i).active = true →
        (∃ w ∈ ((s.depart a fenced).sl i).swept, w.agent = a) ∨ a ∈ ((s.depart a fenced).sl i).sweepWait)
    ∧ (∀ b, b ≠ a → (s.depart a fenced).agent b = s.agent b))

/-- FENCE in JOINING, ACTIVE or LEAVING has the block fence the agent, with RESULT 1: each edge keeps no DATA for it, no snoop
record and no request that waits for an order-table entry of it. RELEASE moves a FENCED agent whose SWEEP is 0 to ABSENT with RESULT
1; at any other time each answers RESULT 3 (RESULT 1 stands at the acceptance: the model's choice, log 59). A CMD that is none of
the listed values answers RESULT 5 alone. The permission bits take the values written, and clearing RSV cancels the agent's
reservations in every slice. -/
def Obligations.AgentsAreFencedReleasedAndPermitted : Prop :=
  ((∀ (a : AgentId) (s : State), s.takesCmd a = true →
    ((s.agent a).st = .joining ∨ (s.agent a).st = .active ∨ (s.agent a).st = .leaving) →
    exec (.agentFence a) s = .next ((s.modAgent a (fun x => { x with result := 1 })).fenceAgent a))
  ∧ (∀ (a : AgentId) (s : State), s.takesCmd a = true → (s.agent a).st ≠ .joining → (s.agent a).st ≠ .active →
    (s.agent a).st ≠ .leaving → exec (.agentFence a) s = .next (s.modAgent a (fun x => { x with result := 3 })))
  ∧ (∀ (a : AgentId) (k : AttId) (s : State),
    (∀ d ∈ ((s.fenceEdge a k).att k).drsQ, d.2.agent ≠ a) ∧ (∀ p ∈ ((s.fenceEdge a k).att k).snooped, p.1 ≠ a)
    ∧ ∀ r ∈ ((s.fenceEdge a k).att k).waitIn, r.q.agent ≠ a))
  ∧ ((∀ (a : AgentId) (s : State), s.takesCmd a = true → (s.agent a).st = .fenced → (s.agent a).sweep = false →
    ∃ t, exec (.release a) s = .next t ∧ t.agent a = { s.agent a with st := .absent, result := 1 }
      ∧ (∀ b, b ≠ a → t.agent b = s.agent b) ∧ t.ports = s.ports ∧ t.modes = s.modes)
  ∧ (∀ (a : AgentId) (s : State), s.takesCmd a = true → ((s.agent a).st ≠ .fenced ∨ (s.agent a).sweep = true) →
    exec (.release a) s = .next (s.modAgent a (fun x => { x with result := 3 }))))
  ∧ (∀ (a : AgentId) (cmd : BitVec 4) (s : State), s.takesCmd a = true → 5 ≤ cmd.toNat →
    ∃ t, exec (.unknownAgentCommand a cmd) s = .next t ∧ t.agent a = { s.agent a with result := 5 }
      ∧ (∀ b, b ≠ a → t.agent b = s.agent b) ∧ t = { s with agents := t.agents })
  ∧ (∀ (a : AgentId) (p h r : Bool) (s : State), s.fwUp = true → a ≠ 0xFFF →
    ∃ t, exec (.agentPermissionWrite a p h r) s = .next t
      ∧ t.agent a = { s.agent a with perfRead := p, hatom := h, rsv := r } ∧ (∀ b, b ≠ a → t.agent b = s.agent b)
      ∧ (r = true → t.slices = s.slices ∧ t.regs = s.regs)
      ∧ (r = false → ∀ i, (t.sl i).rsvs = (s.sl i).rsvs.filter (fun r => !decide (r.agent = a))
        ∧ t.fld (Fld.sl i 0x280 16 16)
            = min 65535 (s.fld (Fld.sl i 0x280 16 16) + ((s.sl i).rsvs.filter (fun r => decide (r.agent = a))).length))
      ∧ t.atts = s.atts ∧ t.ports = s.ports ∧ t.modes = s.modes)

/-- Each clear command, where its unit takes firmware's writes, sets its fields to 0 and changes no other bit of any register and
nothing else; RTR_CLR.PROBE sets a router's two probe counts to 0. -/
def Obligations.ClearCommandsClearTheirFields : Prop :=
  (∀ (c : Instr) (u : QUnit) (fs : List Fld) (s : State), clearedBy c = some (u, fs) → s.unitUp u = true →
    ∃ t, exec c s = .next t ∧ t = { s with regs := t.regs } ∧ (∀ f ∈ fs, t.fld f = 0)
      ∧ ∀ g, (∀ f ∈ fs, f.apart g) → t.fld g = s.fld g)
  ∧ (∀ (i : Fin 80) (s : State), s.fwUp = true →
    ∃ t, exec (.rtrProbeClear i) s = .next t ∧ t.router i.val = { s.router i.val with prb0 := 0, prb1 := 0 }
      ∧ (∀ j, j ≠ i.val → t.router j = s.router j) ∧ t = { s with mesh := t.mesh })

/-- A refusal counted after a write of 1 to LA_REFUSE_CLR.CLEAR is counted in the cleared field, so that it reads as 1. -/
def Obligations.ARefusalAfterAClearReadsAsOne : Prop :=
  ∀ (k : AttId) (s t : State) (f : AttId → Fld), f ∈ [Fld.notActive, Fld.perm, Fld.spoof, Fld.format] → s.fwUp = true →
    (s.att k).gate = .opened → exec (.laRefuseClear k) s = .next t →
    (t.refuse k f).fld (f k) = 1 ∧ ∀ g, g ∈ [Fld.notActive, Fld.perm, Fld.spoof, Fld.format] → (f k).apart (g k) →
      (t.refuse k f).fld (g k) = 0

/-! ## Slices -/

/-- The head of NEW has its pass and leaves the queue; so does the head of INT that brings a line to its heir, and a pass that is
replayed. A pass for which the two pipelines differ goes back to the head of INT with its count raised, loses every
reservation of the slice and changes no directory entry; with a replay count of 3 it is FATAL, with cause LOCKSTEP. -/
def Obligations.PassesTakeTheHeadOfTheirQueue : Prop :=
  (∀ (i : SliceId) (chk : PassCheck) (r : Req) (rest : List Req) (s : State), s.passGo i = true → s.cast.writes = 0 →
    s.headNew i = some (r, rest) →
    exec (.newRequestPass i chk) s = .next ((s.modSl i (fun x => x.popNew rest)).pass i (.newReq r) 0 chk))
  ∧ (∀ (i : SliceId) (chk : PassCheck) (l : Line) (h : Heir) (rest : List IntMsg) (s : State), s.passGo i = true →
    s.headInt i = some (.handOver l h, rest) →
    exec (.handOverPass i chk) s = .next ((s.modSl i (fun x => { x with int := rest })).pass i (.handOver l h) 0 chk))
  ∧ (∀ (i : SliceId) (chk : PassCheck) (p : Pass) (n : Nat) (rest : List IntMsg) (s : State), s.passGo i = true →
    s.headInt i = some (.replay p n, rest) →
    exec (.replay i chk) s = .next ((s.modSl i (fun x => { x with int := rest })).pass i p n chk))
  ∧ (∀ (i : SliceId) (p : Pass) (n : Nat) (chk : PassCheck) (s : State), chk.mismatch = true → s.held = false →
    (n < 3 → ((s.pass i p n chk).sl i).int = .replay p (n + 1) :: (s.sl i).int ∧ ((s.pass i p n chk).sl i).rsvs = []
      ∧ ((s.pass i p n chk).sl i).dir = (s.sl i).dir
      ∧ (s.pass i p n chk).fld (Fld.sl i 0x308 0 16) = min 65535 (s.fld (Fld.sl i 0x308 0 16) + 1)
      ∧ n + 1 ≤ (s.pass i p n chk).fld (Fld.sl i 0x308 16 2) ∧ (s.pass i p n chk).mode = s.mode)
    ∧ (3 ≤ n → (s.pass i p n chk).mode = .hold ∧ (s.pass i p n chk).fld ⟨0x70100, 0, 8⟩ = 1
      ∧ (s.pass i p n chk).fld ⟨0x70104, 3, 7⟩ = i.toNat ∧ ((s.pass i p n chk).sl i).dir = (s.sl i).dir
      ∧ ((s.pass i p n chk).sl i).rsvs = []))

/-- In its pass a new request of an agent in ABSENT, QUARANTINE or FENCED receives ERROR from its slice, and of one in JOINING RETRY;
the directory stays as it is, no slot is taken and, where no request waits for an order-table entry, no port changes. One
that is no write, on a held line whose stored bits check clean, is no flow yet: it takes no slot and changes no entry. -/
def Obligations.PassesRefuseAndHold : Prop :=
  (∀ (i : SliceId) (chk : PassCheck) (r : Req) (s : State), s.attBounces r.la = false →
    (∀ st, (s.agent r.q.agent).st = st → (st = .absent ∨ st = .quarantine ∨ st = .fenced) →
      ∃ m ∈ ((s.newRequest i r false chk).att r.la).ndrQ, m.2 = errNdr r.q)
    ∧ ((s.agent r.q.agent).st = .joining →
      ∃ m ∈ ((s.newRequest i r false chk).att r.la).ndrQ, m.2 = retryNdr r.q (s.backoff r.q.agent))
    ∧ ((s.agent r.q.agent).st ≠ .active → (s.agent r.q.agent).st ≠ .leaving →
      ((s.newRequest i r false chk).sl i).dir = (s.sl i).dir ∧ ((s.newRequest i r false chk).sl i).slots = (s.sl i).slots
      ∧ ((s.att r.la).waitIn = [] → (s.newRequest i r false chk).ports = s.ports)
      ∧ (s.newRequest i r false chk).agents = s.agents))
  ∧ (∀ (i : SliceId) (chk : PassCheck) (r : Req) (s : State), (s.sl i).holds r.q.laddr = true → r.op.plainWrite = false →
    chk.way = .clean → chk.pool = .clean →
    ((s.newRequest i r false chk).sl i).slots = (s.sl i).slots ∧ ((s.newRequest i r false chk).sl i).dir = (s.sl i).dir)

/-- A snoop leaves its row's queue for its agent's attachment, where that is not in bounce mode, with the agent's SNP_TO as its limit
and its timer started. One that reaches its limit
unanswered is sent once more with TOCNT raised; the second time its agent is fenced; a response that has arrived wins. A
resent snoop that was answered closes 16 x SNP_TO ns after its answer. -/
def Obligations.SnoopsAreIssuedAndTimed : Prop :=
  (∀ (i : SliceId) (row : BitVec 3) (n : BitVec 10) (a : AgentId) (rest : List (BitVec 10 × AgentId)) (x : Slot) (v : Snoop)
    (s : State), s.passGo i = true → Store.get [] (s.sl i).snpQ row.toNat = (n, a) :: rest →
    (s.sl i).slot n.toNat = some x → x.snoops.find? (fun v => decide (v.agent = a) && decide (v.copies ≠ 0)) = some v →
    s.attBounces (s.agent a).la = false →
    ∃ t, exec (.snoopIssue i row) s = .next t
      ∧ (t.att (s.agent a).la).bisnpQ = (s.att (s.agent a).la).bisnpQ
          ++ [((s.att (s.agent a).la).seq, Bisnp.mk v.op a (htagOf i n.toNat) x.line)]
      ∧ Store.get [] (t.sl i).snpQ row.toNat = rest
      ∧ (((t.sl i).slot n.toNat).map (·.snoops)) = some (x.modSnoop a (fun v =>
          let u := if v.st = .queued then { v with st := .sent, issued := s.now } else v
          { u with timer := s.now, limit := (s.agent a).snpTo.toNat })).snoops
      ∧ t.ports = s.ports ∧ t.agents = s.agents ∧ t.regs = s.regs)
  ∧ (∀ (i : SliceId) (slot : BitVec 10) (a : AgentId) (x : Slot) (v : Snoop) (s : State), s.passGo i = true → a ≠ 0xFFF →
    (s.sl i).slot slot.toNat = some x → x.snoopTo a = some v → v.st = .sent → (s.sl i).inSnpQ slot.toNat a = false →
    ((s.sl i).rspIn i slot.toNat a = true → exec (.snoopTimeout i slot a) s = .next s)
    ∧ ((s.sl i).rspIn i slot.toNat a = false → v.resent = false →
      ∃ t, exec (.snoopTimeout i slot a) s = .next t ∧ t.now = max s.now (v.timer + 8 * v.limit)
        ∧ (t.agent a).tocnt = (if (s.agent a).tocnt = 15 then 15 else (s.agent a).tocnt + 1) ∧ (t.agent a).st = (s.agent a).st
        ∧ t.fld (Fld.sl i 0x250 0 16) = min 65535 (s.fld (Fld.sl i 0x250 0 16) + 1)
        ∧ Store.get [] (t.sl i).snpQ (s.rowOf a) = Store.get [] (s.sl i).snpQ (s.rowOf a) ++ [(BitVec.ofNat 10 slot.toNat, a)]
        ∧ t.atts = s.atts ∧ t.ports = s.ports)
    ∧ ((s.sl i).rspIn i slot.toNat a = false → v.resent = true →
      exec (.snoopTimeout i slot a) s = .next ((((s.reach (v.timer + 8 * v.limit)).modAgent a (fun x => { x with
        tocnt := if x.tocnt = 15 then 15 else x.tocnt + 1 })).fenceAgent a).fire (evSl i 7))))
  ∧ (∀ (i : SliceId) (slot : BitVec 10) (a : AgentId) (x : Slot) (v : Snoop) (s : State), s.passGo i = true →
    (s.sl i).slot slot.toNat = some x → x.snoopTo a = some v → v.st = .answered → (s.sl i).rspIn i slot.toNat a = false →
    ∃ t, exec (.snoopClose i slot a) s = .next t ∧ t.now = max s.now (v.answered + 16 * v.limit)
      ∧ (x.released = false → (t.sl i).slot slot.toNat = some (x.modSnoop a (fun v => { v with copies := 0 })))
      ∧ t.atts = s.atts ∧ t.ports = s.ports ∧ t.agents = s.agents)

/-- A snoop response, or a CONFLICT, has its pass at the head of RSP, and the response is answered there. An invalidating snoop takes I alone, a data snoop I or S, a current-value one any; an
invalid one counts, and the snoop is sent once more; at the second the agent is fenced. -/
def Obligations.SnoopResponsesTakeTheirPass : Prop :=
  ((∀ (i : SliceId) (chk : PassCheck) (m : RspMsg) (rest : List RspMsg) (s : State), s.passGo i = true →
    s.headRsp i = some (m, rest) → (∀ a h, m ≠ .eack a h) →
    exec (.snoopResponsePass i chk) s = .next ((s.modSl i (fun x => { x with rsp := rest })).pass i (.rsp m) 0 chk))
  ∧ (∀ (i : SliceId) (chk : PassCheck) (s : State),
    (∀ r a h l t0, s.runPass i (.rsp (.birsp r a h l t0)) chk = s.answer i r a h t0)
    ∧ ∀ k q, s.runPass i (.rsp (.conflict k q)) chk = s.conflictAck i k q)
  ∧ (∀ (i : SliceId) (r : RspOp) (a : AgentId) (h : BitVec 16) (t0 : Nat) (x : Slot) (v : Snoop) (s : State),
    (s.sl i).slot (htagSlot h).toNat = some x → x.snoopTo a = some v → v.st ≠ .answered → validRsp v.op r = false →
    (1 ≤ v.bad → s.answer i r a h t0
      = (((s.incF (Fld.sl i 0x220 0 16)).fire (evSl i 8)).fenceAgent a).fire (evSl i 7))
    ∧ (v.bad = 0 → ((s.answer i r a h t0).fld (Fld.sl i 0x220 0 16) = min 65535 (s.fld (Fld.sl i 0x220 0 16) + 1)
      ∧ Store.get [] ((s.answer i r a h t0).sl i).snpQ (s.rowOf a)
          = Store.get [] (s.sl i).snpQ (s.rowOf a) ++ [(BitVec.ofNat 10 (htagSlot h).toNat, a)]))))
  ∧ ((∀ r, validRsp .inv r = true ↔ r = .i) ∧ (∀ r, validRsp .data r = true ↔ (r = .i ∨ r = .s)) ∧ ∀ r, validRsp .cur r = true)

/-- A snoop-response write at the head of WB has its pass there, and the flow that snoops its agent serves it: a WRITE, or for
WR_PARTIAL a WRITE_PARTIAL, goes to the line's port, where that is not in bounce mode, under a tag of the flow's, with the
writer on record for its completion, and every other agent's reservation of the line is lost. An EGRESS_ACK at the head of RSP
has its pass there: it clears its slot's wait, and a slot whose line was released and that awaits no report and no snoop
response is free, where no job waits for a slot. -/
def Obligations.SlotsAreServedAndFreed : Prop :=
  ((∀ (i : SliceId) (chk : PassCheck) (r : Req) (rest : List Req) (s : State), s.passGo i = true → s.headWb i = some (r, rest) →
    exec (.snoopResponseWrite i chk) s = .next ((s.modSl i (fun x => { x with wb := rest })).pass i (.write r) 0 chk))
  ∧ (∀ (i : SliceId) (n : Nat) (r : Req) (x : Slot) (s : State), (s.sl i).slot n = some x →
    s.portBounces (portOf r.q.laddr) = false →
    ((s.snoopWrite i n r).sl i).slot n = some { x with
      srws := x.srws ++ [{ agent := r.q.agent, la := r.la, rtag := r.q.tag, tag := (s.sl i).nextTag }],
      rpts := x.rpts ++ [(s.sl i).nextTag] }
    ∧ ((s.snoopWrite i n r).mp (portOf r.q.laddr)).intake = (s.mp (portOf r.q.laddr)).intake
        ++ [{ op := if r.op = .wrPartial then .wpartial else .write, line := r.q.laddr, slice := i, htag := some (htagOf i n), tag := (s.sl i).nextTag, la := r.la,
              agent := r.q.agent, rtag := r.q.tag, parts := 0, poison := false, aop := 0, aw := 0, aoff := 0, kind := none }]
    ∧ (∀ v ∈ ((s.snoopWrite i n r).sl i).rsvs, v.line = r.q.laddr → v.agent = r.q.agent)))
  ∧ ((∀ (i : SliceId) (chk : PassCheck) (a : AgentId) (h : BitVec 16) (rest : List RspMsg) (s : State), s.passGo i = true →
    s.headRsp i = some (.eack a h, rest) →
    exec (.egressAckPass i chk) s = .next ((s.modSl i (fun x => { x with rsp := rest })).pass i (.rsp (.eack a h)) 0 chk))
  ∧ (∀ (i : SliceId) (n : Nat) (x : Slot) (s : State), (s.sl i).slot n = some x → x.released = true → x.rpts = [] →
    (x.openCopies = false → (s.sl i).jobPark = [] → ((s.ackSlot i n).sl i).slot n = none)
    ∧ (x.openCopies = true → ∃ y, ((s.ackSlot i n).sl i).slot n = some y ∧ y.eack = false)))

/-- A PORT_RPT at the head of INT has its pass there. In it a report with a home tag goes to the flow of its slot; a write-back report
updates HD of its line's entry, where its slice serves the line and none of its holders departs. An escalation retry at the
head of INT has its pass there. A ticket whose request has not been presented 50 us after it became the oldest waiting while
a slot was free ends and is counted. -/
def Obligations.ReportsRetriesAndTickets : Prop :=
  ((∀ (i : SliceId) (chk : PassCheck) (p : PortRpt) (rest : List IntMsg) (s : State), s.passGo i = true →
    s.headInt i = some (.rpt p, rest) →
    exec (.portRpt i chk) s = .next ((s.modSl i (fun x => { x with int := rest })).pass i (.rpt p) 0 chk))
  ∧ (∀ (i : SliceId) (chk : PassCheck) (p : PortRpt) (s : State),
    (∀ h, p.htag = some h → s.runPass i (.rpt p) chk = s.report i (htagSlot h).toNat p)
    ∧ (∀ k e, p.htag = none → s.serves i (bucketOf p.line) = true → (s.sl i).findWay p.line = some (k, e) →
      (s.purged e).1 = e.holders →
      ((s.runPass i (.rpt p) chk).sl i).findWay p.line
          = some (k, if e.hd = p.hdirty then e else { e with hd := p.hdirty, dirty := true })
      ∧ (s.runPass i (.rpt p) chk).atts = s.atts ∧ (s.runPass i (.rpt p) chk).ports = s.ports
      ∧ (s.runPass i (.rpt p) chk).agents = s.agents ∧ (s.runPass i (.rpt p) chk).regs = s.regs)))
  ∧ (∀ (i : SliceId) (chk : PassCheck) (rest : List IntMsg) (s : State), s.passGo i = true →
    s.headInt i = some (.escRetry, rest) →
    exec (.escalationRetry i chk) s = .next ((s.modSl i (fun x => { x with int := rest })).pass i .escRetry 0 chk))
  ∧ (∀ (i : SliceId) (t : Ticket) (t0 : Nat) (s : State), s.passGo i = true →
    (s.sl i).roster.find? (fun u => decide (u.agent = t.agent)) = some t → t.since = some t0 → t.shown = false →
    ∃ u, exec (.ticketExpiry i t.agent) s = .next u ∧ (∀ v ∈ (u.sl i).roster, v.agent ≠ t.agent)
      ∧ u.now = max s.now (t0 + 50000)
      ∧ u.fld (Fld.sl i 0x244 16 16) = min 65535 (s.fld (Fld.sl i 0x244 16 16) + 1)
      ∧ (∀ j, j ≠ i → u.sl j = s.sl j) ∧ u.atts = s.atts ∧ u.ports = s.ports ∧ u.agents = s.agents)

/-- The final state that R114 gives a flow keeps at most one holder where it is E, and every agent it names was a holder or
is the requester; a flow whose other holders are all snooped out keeps none of them. -/
def Obligations.FinalStatesKeepOneOwner : Prop :=
  ∀ (op : Op) (q : ReqHdr) (near ok own : Bool) (h : List AgentId), (own = true → h.length ≤ 1) →
    ((finalOf op q near ok own h).1 = true → (finalOf op q near ok own h).2.length ≤ 1)
    ∧ (∀ b ∈ (finalOf op q near ok own h).2, b = q.agent ∨ b ∈ h)
    ∧ ((op = .rdOwn ∨ op = .wrFull ∨ op = .wrKeep ∨ op = .wrPartial ∨ op = .hatom) →
        (∀ b ∈ (finalOf op q near ok own h).2, b = q.agent) ∧ ∀ b ∈ h, b ≠ q.agent → b ∈ (planOf op q near ok own h).targets)

/-- A bucket read at the head of INT has its pass there: one of an insertion as CUCKOO_BUCKET_READ, any other as
CAST_FETCH_RETURN; so has a completed cast-store write. In its pass a read of a scan is kept for the scan's next step, and one
of a transit entry whose code checks clean joins the entry, which goes on when it was the last. An insertion takes an empty
slot of its bucket where there is one. A write that failed is issued once more, and a second failure is FATAL with cause
CAST. -/
def Obligations.CastStorePassesReachTheirEntry : Prop :=
  ((∀ (i : SliceId) (chk : PassCheck) (t : Nat) (addr : Line) (rd : BucketRead) (rest : List IntMsg) (s : State),
    s.passGo i = true → s.headInt i = some (.castRd t addr rd, rest) →
    ((s.sl i).isHand t = false → exec (.castFetchReturn i chk) s
      = .next ((s.modSl i (fun x => { x with int := rest })).pass i (.castRd t addr rd) 0 chk))
    ∧ ((s.sl i).isHand t = true → exec (.cuckooBucketRead i chk) s
      = .next ((s.modSl i (fun x => { x with int := rest })).pass i (.castRd t addr rd) 0 chk)))
  ∧ (∀ (i : SliceId) (chk : PassCheck) (c : CastCmd) (st : MemStatus) (rest : List IntMsg) (s : State), s.passGo i = true →
    s.headInt i = some (.castWr c st, rest) → exec (.castWriteCompletion i chk) s
      = .next ((s.modSl i (fun x => { x with int := rest })).pass i (.castWr c st) 0 chk)))
  ∧ ((∀ (i : SliceId) (chk : PassCheck) (t : Nat) (addr : Line) (rd : BucketRead) (s : State), 18 ≤ t →
    ((s.runPass i (.castRd t addr rd) chk).sl i).scanOf t
      = { out := ((s.sl i).scanOf t).out - 1, rds := ((s.sl i).scanOf t).rds ++ [(addr, rd)] })
  ∧ (∀ (i : SliceId) (chk : PassCheck) (t : Nat) (addr : Line) (rd : BucketRead) (v : Transit) (s : State), t < 16 →
    (s.sl i).tr t = some v → chk.transit = .clean →
    let u := s.trRead i t addr rd
    let w := { v with rds := v.rds ++ [(addr, rd)], reads := v.reads - 1 }
    (u.sl i).tr t = some w
    ∧ (w.reads ≠ 0 → s.runPass i (.castRd t addr rd) chk = u)
    ∧ (w.reads = 0 → v.kind ≠ .spill →
      s.runPass i (.castRd t addr rd) chk = (u.readsDone i t w).castAfter i t ((u.sl i).heldBy t))
    ∧ (w.reads = 0 → v.kind = .spill →
      s.runPass i (.castRd t addr rd) chk = (u.handReads i t w addr rd).castFree i t ((u.sl i).heldBy t))))
  ∧ (∀ (i : SliceId) (t : Nat) (v : Transit) (addr : Line) (d : LineData) (s : State),
    (recAt d 0).st = 0 → (recAt d 1).bad = false → s.portBounces (portOf addr) = false →
    (v.e.holders.length ≤ 16 ∨ v.annex ≠ none) → (s.sl i).lockOf addr ≠ some 17 →
    (∃ k, { slice := i, transit := t, addr := addr, data := some (putRec d 0 (recOf v.e s.gen (v.annex.getD 0)).bits), again := false,
            rank := k } ∈ ((s.cuckooStep i t v addr { status := .ok, data := d }).mp (portOf addr)).castIn)
    ∧ ((s.cuckooStep i t v addr { status := .ok, data := d }).sl i).dir = (s.sl i).dir)
  ∧ (∀ (i : SliceId) (chk : PassCheck) (c : CastCmd) (st : MemStatus) (s : State),
    (st = .ok → s.runPass i (.castWr c st) chk = (s.castFree i 17 [c.addr]).writeDone i c.transit)
    ∧ (st ≠ .ok → c.again = false → s.portBounces (portOf c.addr) = false →
      ((s.runPass i (.castWr c st) chk).mp (portOf c.addr)).castIn = (s.mp (portOf c.addr)).castIn ++ [{ c with again := true }])
    ∧ (st ≠ .ok → c.again = true → s.held = false → (s.runPass i (.castWr c st) chk).mode = .hold
      ∧ (s.runPass i (.castWr c st) chk).fld ⟨0x70100, 0, 8⟩ = 12))

/-- The start of a capacity recall at the head of INT has its pass there, and so has that of a broadcast recovery. A recall whose
transit entry checks clean begins in the slot it has been given, or else in the lowest free one, and with none waits, holding
its line. A recovery that has a slot and a transit entry, with fewer than 2 running, takes the line in BUSY_RECOVER: it snoops
every agent in ACTIVE or LEAVING with BISNP_INV and fetches the record; without one of them it waits, holding its line. -/
def Obligations.RecallsAndRecoveriesStart : Prop :=
  ((∀ (i : SliceId) (chk : PassCheck) (t : Nat) (rest : List IntMsg) (s : State), s.passGo i = true →
    s.headInt i = some (.recallStart t, rest) → exec (.capacityRecallStart i chk) s
      = .next ((s.modSl i (fun x => { x with int := rest })).pass i (.recallStart t) 0 chk))
  ∧ (∀ (i : SliceId) (chk : PassCheck) (l : Line) (mkr : Option (BitVec 32)) (rest : List IntMsg) (s : State), s.passGo i = true →
    s.headInt i = some (.recoverStart l mkr, rest) → exec (.broadcastRecoveryStart i chk) s
      = .next ((s.modSl i (fun x => { x with int := rest })).pass i (.recoverStart l mkr) 0 chk)))
  ∧ (∀ (i : SliceId) (chk : PassCheck) (t : Nat) (v : Transit) (s : State), (s.sl i).tr t = some v → chk.transit = .clean →
    (∀ n, (s.sl i).slotFor v.e.line .recall = some n → s.runPass i (.recallStart t) chk = s.recallIn i n t v)
    ∧ ((s.sl i).slotFor v.e.line .recall = none → s.runPass i (.recallStart t) chk
      = s.modSl i (fun x => { x with jobPark := x.jobPark ++ [(v.e.line, .recall t)] })))
  ∧ (∀ (i : SliceId) (chk : PassCheck) (l : Line) (mkr : Option (BitVec 32)) (s : State),
    (∀ n t, (s.sl i).slotFor l .recover = some n → (s.sl i).freeTr = some t → (s.sl i).recoveries < 2 →
      ∃ y, ((s.runPass i (.recoverStart l mkr) chk).sl i).slot n = some y ∧ y.busy = .recover ∧ y.line = l
        ∧ y.snoops = s.liveAgents.map (Snoop.fresh .inv) ∧ y.marker = mkr ∧ y.fetchT = some t
        ∧ (((s.runPass i (.recoverStart l mkr) chk).sl i).tr t).map (·.kind) = some .fetch
        ∧ (((s.runPass i (.recoverStart l mkr) chk).sl i).tr t).map (·.reads) = some 2
        ∧ (s.runPass i (.recoverStart l mkr) chk).agents = s.agents)
    ∧ (((s.sl i).slotFor l .recover = none ∨ (s.sl i).freeTr = none) → s.runPass i (.recoverStart l mkr) chk
      = s.modSl i (fun x => { x with jobPark := x.jobPark ++ [(l, .recover mkr)] })))

/-- A departure-sweep step and a patrol-scrub step are background passes of their slice. A step of the departure scan visits a set of
the directory cache, or reads the record bucket at which it stands, or passes over a place that it does not visit, and goes on;
an agent that departs leaves the ways of the set, where the holders that stay find a run. A scrub step that finds nothing wrong moves to the next set, and counts a
turn after the last; a silhouette counter of its set with bad parity becomes 15; a way found uncorrectable is freed, where the
home map names its slice, and the slice's reservations are lost. -/
def Obligations.ScansAndScrubsStep : Prop :=
  ((∀ (i : SliceId) (chk : PassCheck) (finds : List (BitVec 4 × Ecc)) (s : State), s.bgGo i = true → (s.sl i).swept ≠ [] →
    exec (.departureSweepStep i chk finds) s = .next (s.bgPass i (.sweepStep finds) chk))
  ∧ (∀ (i : SliceId) (chk : PassCheck) (finds : List (BitVec 4 × Ecc)) (bad : List (BitVec 20)) (s : State), s.bgGo i = true →
    s.level < 2 → exec (.patrolScrubStep i finds bad chk) s = .next (s.bgPass i (.scrubStep finds bad) chk)))
  ∧ (∀ (i : SliceId) (s : State), (s.sl i).swept ≠ [] →
    let pos := (s.sl i).scanPos
    let b := BitVec.ofNat 12 ((pos - 4096) / s.perPart)
    let k := (pos - 4096) % s.perPart
    (pos < 4096 → s.sweepPass i [] = ((s.sweepSet i (BitVec.ofNat 12 pos)).map (fun w => w.scanOn i)).getD s)
    ∧ (4096 ≤ pos → k < s.castN → s.scans i b = true → (s.sl i).scanned 20 (s.castAddr b.toNat (1 + k)) = none →
      ((s.sl i).scanOf 20).out = 0 → s.sweepPass i [] = s.scanRead i 20 (s.castAddr b.toNat (1 + k)))
    ∧ (4096 ≤ pos → (s.castN ≤ k ∨ s.scans i b = false) → s.sweepPass i [] = s.scanOn i)
    ∧ ((s.scanOn i).sl i).scanPos = s.scanNext i pos)
  ∧ (∀ (i : SliceId) (k : Nat) (e : Entry) (s t : State), (s.purged e).1 ≠ [] → (s.sl i).way k = some e →
    ((s.sl i).runFor (some e) (s.purged e).1).isSome = true → s.sweepEntry i k e = some t → ∃ f, (t.sl i).way k = some f ∧ f.line = e.line ∧ f.holders = (s.purged e).1)
  ∧ ((∀ (i : SliceId) (s : State),
    ((s.scrubPass i [] []).sl i).scrubSet = (s.sl i).scrubSet + 1
      ∧ ((s.scrubPass i [] []).sl i).dir = (s.sl i).dir ∧ ((s.scrubPass i [] []).sl i).sil = (s.sl i).sil
      ∧ (s.scrubPass i [] []).fld (Fld.sl i 0x300 16 16)
          = (if (s.sl i).scrubSet = 0xFFF then (s.fld (Fld.sl i 0x300 16 16) + 1) % 65536 else s.fld (Fld.sl i 0x300 16 16)))
  ∧ (∀ (i : SliceId) (c : BitVec 20) (s : State), c.toNat / 256 = (s.sl i).scrubSet.toNat → (s.sl i).rebuild.isSome = true →
    Store.get 0 ((s.scrubPass i [] [c]).sl i).sil c.toNat = 15 ∧ ((s.scrubPass i [] [c]).sl i).rsvs = []
      ∧ ((s.scrubPass i [] [c]).sl i).dir = (s.sl i).dir)
  ∧ (∀ (i : SliceId) (set : BitVec 12) (w : BitVec 4) (e : Entry) (s : State), (s.sl i).way (set.toNat * 16 + w.toNat) = some e →
    s.addrOk i e.line = true →
    ((s.foundWay i set w .uncorr).sl i).way (set.toNat * 16 + w.toNat) = none ∧ ((s.foundWay i set w .uncorr).sl i).rsvs = []
      ∧ s.foundWay i set w .clean = s))

/-- Steps of a silhouette rebuild and of an admission scan are background passes of their slice. A rebuild step reads the record bucket
at which it stands; once the bucket has come, with no lost record, it counts its records and stands at the next bucket; with
none left the rebuild ends. A step of an admission scan that has its bucket moves on, and the last clears the bypass. The age
clock advances once for every 16,384 lookups; at a DECAY boundary the contention counters begin to be halved, each step halving
one in index order; background work that has waited takes the next pass. -/
def Obligations.RebuildsAdmissionsAndClocks : Prop :=
  ((∀ (i : SliceId) (chk : PassCheck) (s : State), s.bgGo i = true → s.level < 2 → (s.sl i).rebuild.isSome = true →
    exec (.silhouetteRebuildStep i chk) s = .next (s.bgPass i .rebuildStep chk))
  ∧ (∀ (i : SliceId) (b : BitVec 12) (chk : PassCheck) (s : State), s.bgGo i = true → s.level < 2 → s.scans i b = true →
    exec (.admissionScanStep i b chk) s = .next (s.bgPass i (.admitStep b) chk)))
  ∧ (∀ (i : SliceId) (pos : Nat) (s : State), (s.sl i).rebuild = some pos →
    (s.rebuildAt i pos = none → s.rebuildPass i = s.rebuildEnd i
      ∧ (BitVec.ofNat 11 (evSl i 5), true) ∈ (s.rebuildEnd i).events.msgs)
    ∧ (∀ p, s.rebuildAt i pos = some p → (s.sl i).scanned 18 (s.rebuildAddr p) = none → ((s.sl i).scanOf 18).out = 0 →
      s.rebuildPass i = s.scanRead i 18 (s.rebuildAddr p))
    ∧ (∀ p q rd, s.rebuildAt i pos = some p → s.rebuildAt i (p + 1) = some q → (s.sl i).scanned 18 (s.rebuildAddr p) = some rd →
      (s.sl i).bucketBusy (s.rebuildAddr p) = false → readLoses rd s.gen = false →
      ((s.rebuildPass i).sl i).rebuild = some q ∧ ((s.rebuildPass i).sl i).dir = (s.sl i).dir
      ∧ ((s.rebuildPass i).sl i).sil = ((List.range 2).foldl (fun (x : Slice) h =>
          if (recAt rd.data h).marker s.gen ∨ (recAt rd.data h).empty s.gen then x else x.silUp (recAt rd.data h).line) (s.sl i)).sil))
  ∧ (∀ (i : SliceId) (b : BitVec 12) (p : Bypass) (rd : BucketRead) (s : State),
    (s.sl i).bypass.find? (fun q => decide (q.bucket = b)) = some p →
    (s.sl i).scanned (32 + b.toNat) (s.castAddr b.toNat (1 + p.next)) = some rd →
    (s.sl i).bucketBusy (s.castAddr b.toNat (1 + p.next)) = false → readLoses rd s.gen = false →
    ((s.admitPass i b).sl i).bypass = (if s.castN ≤ p.next + 1 then (s.sl i).bypass.filter (fun q => !decide (q.bucket = b))
        else (s.sl i).bypass.map (fun q => if q.bucket = b then { q with next := q.next + 1 } else q)))
  ∧ ((∀ (i : SliceId) (s : State), 16384 ≤ (s.sl i).lookups →
    ∃ t, exec (.ageClockAdvance i) s = .next t
      ∧ t.sl i = { s.sl i with ageClock := (s.sl i).ageClock + 1, lookups := (s.sl i).lookups - 16384 }
      ∧ (∀ j, j ≠ i → t.sl j = s.sl j) ∧ t = { s with slices := t.slices })
  ∧ (∀ (i : SliceId) (s : State), s.passGo i = true →
    ((s.sl i).decayPos = none → ∃ t, exec (.predictorDecay i) s = .next t
      ∧ t.now = max s.now ((s.sl i).decayAt + 1000 * (s.sl i).decayPer)
      ∧ t.sl i = { s.sl i with
          decayAt := (s.sl i).decayAt + 1000 * (s.sl i).decayPer, decayPer := s.fld (Fld.sl i 0x288 8 16), decayPos := some 1,
          pred := Store.set 0 (s.sl i).pred 0 (Store.get 0 (s.sl i).pred 0 >>> 1) }
      ∧ (∀ j, j ≠ i → t.sl j = s.sl j))
    ∧ (∀ k, (s.sl i).decayPos = some k → ∃ t, exec (.predictorDecay i) s = .next t
      ∧ t.sl i = { s.sl i with decayPos := if k = 1023 then none else some (k + 1),
                               pred := Store.set 0 (s.sl i).pred k (Store.get 0 (s.sl i).pred k >>> 1) }
      ∧ (∀ j, j ≠ i → t.sl j = s.sl j) ∧ t = { s with slices := t.slices }))
  ∧ (∀ (i : SliceId) (s : State), s.passGo i = true → s.bgPending i = true →
    ∃ t, exec (.backgroundWaitLimit i) s = .next t ∧ t.sl i = { s.sl i with bgWait := 63 } ∧ t.bgMay i = true
      ∧ t.headNew i = none ∧ (∀ j, j ≠ i → t.sl j = s.sl j) ∧ t = { s with slices := t.slices }))

/-! ## Memory ports -/

/-- A READ whose turn has come at a port and that hits is answered with the way's line, as poison where its PSN is 1, and a report
with its HDIRTY, which follows the beat where PARTS is 0; one that misses is a READ to the memory side, or takes over the prefetch
read in flight, which becomes its own (the model's choice, log 61). -/
def Obligations.ReadsAreServed : Prop :=
  ∀ (m : PortId) (c : MemCmd) (rest : List MemCmd) (s : State), s.runs = true → (s.mp m).intake = c :: rest → c.op = .read →
    (s.mp m).pendingLine c.line = false →
    (∀ k w, (s.mp m).hmode ≠ .disabled → (s.mp m).findHway c.line = some (k, w) →
      ∃ t, exec (.read m .good []) s = .next t ∧
        let r : PortRpt := ⟨c.htag, c.tag, c.line, if w.psn then .poison else .ok, decide (w.st = .dirty)⟩
        (t.mp m).rsIn = (s.mp m).rsIn ++ [{
          la := c.la, rpt := if c.parts = 0 then some (c.slice, r) else none,
          drs := Drs.mk c.agent c.rtag (c.htag.getD 0) c.parts w.psn w.data c.kind }]
        ∧ (t.sl c.slice).int = (s.sl c.slice).int ++ (if c.parts = 0 then [] else [.rpt r])
        ∧ (t.mp m).intake = rest ∧ t.atts = s.atts ∧ t.agents = s.agents)
    ∧ (((s.mp m).hmode = .disabled ∨ (s.mp m).findHway c.line = none) → ∀ par,
      ∃ t, exec (.read m par []) s = .next t ∧ (∃ x ∈ (t.mp m).cmds, x.why = .demandRead c ∧ x.line = c.line)
        ∧ (t.mp m).ways = (s.mp m).ways ∧ (t.mp m).rsIn = (s.mp m).rsIn ∧ (t.mp m).intake = rest
        ∧ t.slices = s.slices ∧ t.atts = s.atts)

/-- A WRITE whose turn has come at a port leaves the intake with its beat. A poisoning WRITE is zeros with PSN 1; a WRITE_PARTIAL of
no bytes is reported alone, one of all bytes is a WRITE; any other, and an ATOMIC while no other waits for its fill, is merged:
bytes with their enable bit set are replaced, and no others. Absorbed, both copies hold the line and the report says HDIRTY 1;
else the line waits for MCMD. -/
def Obligations.WritesLand : Prop :=
  ((∀ (m : PortId) (c : MemCmd) (rest : List MemCmd) (s : State), s.runs = true → (s.mp m).intake = c :: rest → c.op = .write →
    (s.mp m).pendingLine c.line = false → s.canWrite m c = true →
    (∀ b, c.poison = false → (s.mp m).beatOf c = some b →
      exec (.write m []) s = .next ((s.takeCmd m c rest).landWrite m c b.w.data b.psn none (s.earlyAck c.line)))
    ∧ (c.poison = true → exec (.write m []) s = .next ((s.takeCmd m c rest).landWrite m c 0 true none (s.earlyAck c.line))))
  ∧ (∀ (m : PortId) (c : MemCmd) (rest : List MemCmd) (b : WBeat) (par : Parity) (s : State), s.runs = true →
    (s.mp m).intake = c :: rest → c.op = .wpartial → (s.mp m).pendingLine c.line = false → (s.mp m).beatOf c = some b →
    (b.w.be = 0 → exec (.writePartial m par []) s
      = .next ((s.takeCmd m c rest).sendRpt c .ok ((s.mp m).hdirty c.line)))
    ∧ (b.w.be = BitVec.allOnes 64 → s.canWrite m c = true → exec (.writePartial m par []) s
      = .next ((s.takeCmd m c rest).landWrite m c b.w.data b.psn none (s.earlyAck c.line)))
    ∧ (b.w.be ≠ 0 → b.w.be ≠ BitVec.allOnes 64 → s.canMerge m c = true → exec (.writePartial m par []) s
      = .next ((s.takeCmd m c rest).merge m c b par)))
  ∧ (∀ (m : PortId) (c : MemCmd) (rest : List MemCmd) (b : WBeat) (par : Parity) (s : State), s.runs = true →
    (s.mp m).intake = c :: rest → c.op = .atomic → (s.mp m).atomBusy = false → (s.mp m).pendingLine c.line = false →
    (s.mp m).beatOf c = some b → s.canMerge m c = true →
    exec (.atomic m par []) s = .next ((s.takeCmd m c rest).merge m c b par)))
  ∧ (∀ (m : PortId) (c : MemCmd) (d : LineData) (psn early : Bool) (s : State), s.held = false →
    let t := s.landWrite m c d psn none early
    (∀ k km, s.absorbs m early = true → (s.mp m).absorbPlan c.line = some (k, km) → km ≠ k → km / 16 = k / 16 →
      (∃ w v, (t.mp m).hway k = some w ∧ w.line = c.line ∧ w.st = .dirty ∧ w.data = d ∧ w.psn = psn
        ∧ (t.mp m).hway km = some v ∧ v.line = c.line ∧ v.st = .mirror ∧ v.data = d ∧ v.psn = psn)
      ∧ (t.sl c.slice).int = (s.sl c.slice).int ++ [.rpt (PortRpt.mk c.htag c.tag c.line .ok true)])
    ∧ (s.absorbs m early = false →
      (∃ x, (t.mp m).waitq.getLast? = some x ∧ x.line = c.line ∧ x.data = some (d, psn) ∧ x.isWrite = true)
      ∧ t.slices = s.slices))
  ∧ (∀ (m : PortId) (c : MemCmd) (w : WBeat) (d : LineData) (psn early : Bool) (s : State), c.op = .wpartial →
    s.finishMerge m c w d psn early = (s.count (cMp m 21) 1).landWrite m c (mergeLine d w.w.data w.w.be) (psn || w.psn) none early)
  ∧ (∀ (d w : LineData) (be : BitVec 64) (k : Nat), k < 64 →
    byteOf (mergeLine d w be) k = if be.getLsbD k then byteOf w k else byteOf d k)

/-- A cast-store command that waits for no earlier access to its bucket waits for MCMD; in a memory cycle the most urgent command
that may be issued leaves under the lowest free CTAG, with its credits and for one of the cast store 256 tokens. An MRDATA
beat answers the READ its CTAG names, and a CMPL the write-through, cast-store write or PERSIST_FENCE; what names no such
command is discarded and counted in FORMAT. -/
def Obligations.TheMemorySideIsAskedAndAnswers : Prop :=
  ((∀ (m : PortId) (c : CastCmd) (s : State), s.runs = true → pickCast (s.mp m).castCmds (s.mp m).castIn = some c →
    ∃ t x, exec (.castStoreCommand m) s = .next t ∧ (t.mp m).waitq = (s.mp m).waitq ++ [x] ∧ x.line = c.addr
      ∧ x.data = c.data.map (fun d => (d, false)) ∧ x.isCast = true ∧ x.isWrite = c.data.isSome
      ∧ (t.mp m).castIn = (s.mp m).castIn.erase c ∧ (∀ n, n ≠ m → t.mp n = s.mp n) ∧ t = { s with ports := t.ports })
  ∧ (∀ (m : PortId) (c : MCmd) (n : Nat) (s : State),
    let u := s.modMp m (fun p => { p with
      tokens := min 4096 (p.tokens + s.fld ⟨0x4C004, 8, 8⟩), scanTokens := min 4096 (p.scanTokens + s.fld ⟨0x4C004, 8, 8⟩),
      sweepTokens := min 4096 (p.sweepTokens + s.fld ⟨0x4C004, 8, 8⟩) })
    let v := if s.prefetchOn m then u else u.modMp m Port.noPrefetch
    let ready := (v.mp m).waitq.filter (v.canIssue m)
    mostUrgent (!(v.mp m).wbLast && ready.any MCmd.urgentBack) ready = some c →
    (List.range 256).find? (fun k => (Store.get none (s.mp m).outq k).isNone) = some n →
    (∀ y again, c.why = .back y again → ((s.mp m).findHway c.line).isSome = true) →
    ∃ t x, exec (.mcmdIssue m .good) s = .next t ∧ Store.get none (t.mp m).outq n = some x ∧ x.line = c.line
      ∧ x.isRead = c.isRead ∧ x.isWrite = c.isWrite ∧ x.isCast = c.isCast
      ∧ (t.mp m).mcmdPin = some (x.header n) ∧ (t.mp m).waitq = (v.mp m).waitq.erase c
      ∧ some (t.mp m).mcmdC = (s.mp m).mcmdC.spend
      ∧ (c.isWrite = true → some (t.mp m).mwdataC = (s.mp m).mwdataC.spend)
      ∧ (c.isCast = true → (t.mp m).tokens + 256 = (v.mp m).tokens)
      ∧ (∀ d, x.data = some d → (t.mp m).mwdataPin = some (BitVec.ofNat 8 n, d.1, d.2))
      ∧ t.atts = s.atts ∧ t.slices = s.slices ∧ t.agents = s.agents))
  ∧ ((∀ (m : PortId) (ctag : BitVec 8) (st : MemStatus) (d : LineData) (c : MCmd) (s : State), s.held = false →
    (s.mp m).win = .none → Store.get none (s.mp m).outq ctag.toNat = some c →
    (∀ q, c.why = .demandRead q → ∃ t, exec (.mrdataBeat m ctag st d) s = .next t ∧
      let r : PortRpt := ⟨q.htag, q.tag, q.line, st, false⟩
      Store.get none (t.mp m).outq ctag.toNat = none
      ∧ (t.mp m).rsIn = (s.mp m).rsIn ++ [{
          la := q.la, rpt := if q.parts = 0 then some (q.slice, r) else none,
          drs := Drs.mk q.agent q.rtag (q.htag.getD 0) q.parts (decide (st ≠ .ok)) d q.kind }]
      ∧ (t.sl q.slice).int = (s.sl q.slice).int ++ (if q.parts = 0 then [] else [.rpt r])
      ∧ t.atts = s.atts ∧ t.agents = s.agents)
    ∧ (∀ q, c.why = .castRd q → ∃ t, exec (.mrdataBeat m ctag st d) s = .next t
      ∧ Store.get none (t.mp m).outq ctag.toNat = none
      ∧ (t.sl q.slice).int = (s.sl q.slice).int ++ [.castRd q.transit q.addr (s.castSeen q.addr { status := st, data := d })]
      ∧ t.atts = s.atts ∧ t.agents = s.agents))
  ∧ (∀ (m : PortId) (ctag : BitVec 8) (st : MemStatus) (c : MCmd) (s : State), s.held = false → (s.mp m).win = .none →
    Store.get none (s.mp m).outq ctag.toNat = some c →
    (∀ q old, c.why = .through q false old → ∃ t, exec (.cmpl m ctag st) s = .next t ∧ t.agents = s.agents ∧ t.atts = s.atts
      ∧ (t.sl q.slice).int = (s.sl q.slice).int
          ++ [.rpt (PortRpt.mk q.htag q.tag q.line (if st = .ok then .ok else .error) ((s.mp m).hdirty q.line))])
    ∧ (∀ q, c.why = .castWr q → ∃ t, exec (.cmpl m ctag st) s = .next t ∧ t.agents = s.agents ∧ t.atts = s.atts
      ∧ (t.sl q.slice).int = (s.sl q.slice).int ++ [.castWr q (if st = .ok then .ok else .error)])
    ∧ (∀ la e, c.why = .fence la e → s.attBounces la = false → ∃ t, exec (.cmpl m ctag st) s = .next t ∧ t.agents = s.agents
      ∧ t.slices = s.slices ∧ (t.att la).reports = (s.att la).reports ++ [FenceRpt.mk e m (decide (st ≠ .ok))]))
  ∧ (∀ (m : PortId) (ctag : BitVec 8) (st : MemStatus) (d : LineData) (opc : BitVec 4) (i : Instr) (s : State),
    (i = .mrdataBeat m ctag st d ∧ ((Store.get none (s.mp m).outq ctag.toNat).map (·.isRead)).getD false = false
      ∨ i = .cmpl m ctag st ∧ ((Store.get none (s.mp m).outq ctag.toNat).map (·.isRead)).getD true = true
      ∨ i = .unlistedMrespWord m opc ∧ opc ≠ 1 ∧ opc ≠ 2) →
    ∃ t, exec i s = .next t ∧ t.fld (Fld.mp m 0x110 24 8) = min 255 (s.fld (Fld.mp m 0x110 24 8) + 1)
      ∧ (∀ g, (Fld.mp m 0x110 24 8).apart g → t.fld g = s.fld g) ∧ t.ports = s.ports ∧ t.slices = s.slices ∧ t.atts = s.atts))

/-- A WINDOW_REQ outside a drain and a window is pending with its length, 0 and more than 2,000 taken as 2,000 ns; it starves
STARVE us after it came; a grant of one port puts it in drain, or opens the window at once where every answer is in; a
drain that reaches its limit with an answer out is abandoned, with the last answer in it has its window, and a window that
reaches its length ends; both ends are counted. -/
def Obligations.Windows : Prop :=
  (∀ (m : PortId) (kind : WKind) (pair : Bool) (wlen : BitVec 11) (s : State),
    ((s.mp m).win = .none → ∃ t r, exec (.windowReq m kind pair wlen) s = .next t ∧ (t.mp m).winReq = some r ∧ r.pair = pair
      ∧ r.wlen = (if wlen = 0 ∨ 2000 < wlen.toNat then 2000 else wlen.toNat)
      ∧ ((s.mp m).winReq = none → r.since = s.now ∧ r.starv = false) ∧ (∀ n, n ≠ m → t.mp n = s.mp n) ∧ t.regs = s.regs)
    ∧ ((s.mp m).win ≠ .none → ∃ t, exec (.windowReq m kind pair wlen) s = .next t ∧ t.ports = s.ports
      ∧ t.fld (Fld.mp m 0x110 24 8) = min 255 (s.fld (Fld.mp m 0x110 24 8) + 1)))
  ∧ (∀ (m : PortId) (r : WinReq) (s : State), (s.mp m).winReq = some r → r.starv = false →
    ∃ t, exec (.windowRequestStarving m) s = .next t ∧ (t.mp m).winReq = some { r with starv := true }
      ∧ t.now = max s.now (r.since + 1000 * s.fld ⟨0x60024, 0, 16⟩) ∧ (∀ n, n ≠ m → t.mp n = s.mp n) ∧ t.regs = s.regs)
  ∧ (∀ (m : PortId) (r : WinReq) (s : State), s.winPick = some (m, r) → r.pair = false →
    ((s.mp m).drained = false → ∃ t, exec .windowArbiterGrant s = .next t ∧ (t.mp m).win = .drain s.now r.wlen false true
      ∧ (t.mp m).winReq = (s.mp m).winReq ∧ (∀ n, n ≠ m → t.mp n = s.mp n) ∧ t.regs = s.regs)
    ∧ ((s.mp m).drained = true → ∃ t, exec .windowArbiterGrant s = .next t ∧ (t.mp m).win = .window s.now r.wlen
      ∧ (t.mp m).winReq = none ∧ (t.mp m).mcmdPin = some (mcmdHeader 8 0 (r.wlen * 2 ^ 29) 0 0)
      ∧ some (t.mp m).mcmdC = (s.mp m).mcmdC.spend ∧ (∀ n, n ≠ m → t.mp n = s.mp n)
      ∧ t.fld (Fld.mp m 0x108 0 16) = min 65535 (s.fld (Fld.mp m 0x108 0 16) + 1)))
  ∧ (∀ (m : PortId) (t0 wlen : Nat) (owner : Bool) (s : State), (s.mp m).win = .drain t0 wlen false owner →
    ((s.mp m).drained = false → ∃ t, exec (.drainLimitExpiry m) s = .next t ∧ (t.mp m).win = .none
      ∧ (t.mp m).winReq = (s.mp m).winReq ∧ t.now = max s.now (t0 + 8 * s.fld ⟨0x60020, 14, 8⟩)
      ∧ t.fld (Fld.mp m 0x108 16 6) = min 63 (s.fld (Fld.mp m 0x108 16 6) + 1) ∧ (∀ n, n ≠ m → t.mp n = s.mp n))
    ∧ ((s.mp m).drained = true → ∃ t, exec (.drainLimitExpiry m) s = .next t ∧ (t.mp m).win = .window t.now wlen
      ∧ t.fld (Fld.mp m 0x108 16 6) = s.fld (Fld.mp m 0x108 16 6) ∧ (∀ n, n ≠ m → t.mp n = s.mp n)))
  ∧ (∀ (m : PortId) (o wlen : Nat) (s : State), (s.mp m).win = .window o wlen →
    ∃ t, exec (.windowLimitExpiry m) s = .next t ∧ (t.mp m).win = .none ∧ (t.mp m).winEnd = some t.now
      ∧ t.now = max s.now (o + wlen)
      ∧ t.fld (Fld.mp m 0x108 22 6) = min 63 (s.fld (Fld.mp m 0x108 22 6) + 1) ∧ (∀ n, n ≠ m → t.mp n = s.mp n))

/-- A fence joins a port's sweep while a place is free; each step visits one set for every joined fence that has sets left, and
queues the write-backs of the DIRTY lines whose last writer is a fence's agent or several; a fence with no set and no reissue left
queues its PERSIST_FENCE; the 32nd report sends the CMP of a FENCE, with ERROR where one of them was, and frees its entry. -/
def Obligations.FencesSweepEveryPort : Prop :=
  (∀ (m : PortId) (f : JoinedFence) (rest : List JoinedFence) (s : State), (s.mp m).sweepReqs = f :: rest →
    (s.mp m).fences.length < 64 → ∃ t, exec (.sweepRequest m) s = .next t ∧ (t.mp m).fences = (s.mp m).fences ++ [f]
      ∧ (t.mp m).sweepReqs = rest ∧ (∀ n, n ≠ m → t.mp n = s.mp n) ∧ t.slices = s.slices ∧ t.regs = s.regs)
  ∧ (∀ (m : PortId) (f : JoinedFence) (s : State), s.runs = true → f ∈ (s.mp m).fences → f.left ≠ 0 → (s.mp m).sweepPlaces ≤ 10 →
    ∃ t, exec (.sweepStep m) s = .next t ∧ (t.mp m).sweepPos = (s.mp m).sweepPos + 1
      ∧ (∃ g ∈ (t.mp m).fences, g.la = f.la ∧ g.entry = f.entry ∧ g.agent = f.agent ∧ g.left = f.left - 1)
      ∧ (∀ k w, (s.mp m).hway k = some w → w.wb = 0 → (t.mp m).hway k = some w)
      ∧ (∀ k w, k ∈ hKeys (s.mp m).sweepPos → (s.mp m).hway k = some w → w.st = .dirty → (w.lwr = 0xFFF ∨ w.lwr = f.agent) → w.wb = 0 →
          ((t.mp m).queuedBack w.line).isSome = true)
      ∧ (∀ n, n ≠ m → t.mp n = s.mp n) ∧ t = { s with ports := t.ports })
  ∧ (∀ (m : PortId) (f : JoinedFence) (s : State), s.runs = true → (s.mp m).sweepPlaces < 16 →
    (s.mp m).fences.find? (fun f => decide (f.left = 0) && !f.closed && decide (f.rews = [])) = some f →
    ∃ t x, exec (.fenceClose m) s = .next t ∧ (t.mp m).waitq = (s.mp m).waitq ++ [x] ∧ x.why = .fence f.la f.entry
      ∧ { f with closed := true } ∈ (t.mp m).fences ∧ (∀ n, n ≠ m → t.mp n = s.mp n) ∧ t = { s with ports := t.ports })
  ∧ (∀ (la : AttId) (r : FenceRpt) (rest : List FenceRpt) (f : FenceEntry) (s : State), (s.att la).reports = r :: rest →
    Store.get none (s.att la).fences r.entry.toNat = some f →
    (r.port ∉ f.ports → f.ports.length < 31 → ∃ t, exec (.fenceReport la) s = .next t
      ∧ Store.get none (t.att la).fences r.entry.toNat = some { f with ports := f.ports ++ [r.port], err := f.err || r.err }
      ∧ (t.att la).reports = rest ∧ (t.att la).ndrQ = (s.att la).ndrQ)
    ∧ (r.port ∉ f.ports → f.ports.length = 31 → f.dead = false → (s.att la).waitIn = [] → ∃ t, exec (.fenceReport la) s = .next t
      ∧ Store.get none (t.att la).fences r.entry.toNat = none
      ∧ ∃ n, (n, Ndr.mk .cmp f.agent f.tag 0 (if f.err || r.err then .error else .ok) 0 0 f.otag) ∈ (t.att la).ndrQ))

/-- The age engine's epoch advances after its period, at its boundary; a visit queues the write-backs of the lines old enough in its
set and moves on; a scrub step moves to the next set. A maintenance command starts its operation, whose visits go through the
sets in order, each waiting for the commands pending in its set; a disable of a buffer that owes nothing ends in DISABLED, and an enable in ENABLED. -/
def Obligations.HomeLineBufferUpkeep : Prop :=
  (∀ (m : PortId) (s : State), s.runs = true → ∃ t, exec (.epochAdvance m) s = .next t ∧ (t.mp m).epoch = (s.mp m).epoch + 1
    ∧ (t.mp m).epochAt = (s.mp m).epochAt + 1000 * (s.mp m).period ∧ t.now = max s.now (t.mp m).epochAt ∧ (t.mp m).agePos = 0
    ∧ (t.mp m).period = s.fld (Fld.mp m 0x404 0 10) ∧ (t.mp m).ways = (s.mp m).ways ∧ (∀ n, n ≠ m → t.mp n = s.mp n) ∧ t.regs = s.regs)
  ∧ (∀ (m : PortId) (s : State), s.runs = true → (s.mp m).agePos < 1024 → (∀ o w, (s.mp m).win ≠ .window o w) →
    ∃ t, exec (.ageEngineVisit m) s = .next t ∧ (t.mp m).agePos = (s.mp m).agePos + 1 ∧ (t.mp m).ways = (s.mp m).ways
      ∧ (∀ k w, k ∈ hKeys (BitVec.ofNat 10 (s.mp m).agePos) → (s.mp m).hway k = some w → w.st = .dirty → w.wb = 0 →
          s.fld (Fld.mp m 0x404 10 4) ≤ (s.mp m).ageOf w → ((t.mp m).queuedBack w.line).isSome = true)
      ∧ (∀ n, n ≠ m → t.mp n = s.mp n) ∧ t = { s with ports := t.ports })
  ∧ (∀ (m : PortId) (s : State), s.runs = true → s.level < 2 → (s.mp m).hmode ≠ .disabled →
    exec (.hlbScrubStep m []) s = .next (s.modMp m (fun p => { p with scrubSet := p.scrubSet + 1 })))
  ∧ (∀ (m : PortId) (op : BitVec 2) (setway all : Bool) (s : State), s.fwUp = true → (s.mp m).gate = .opened → (s.mp m).maint = none →
    ∃ t x, exec (.hlbMaintStart m op setway all) s = .next t ∧ (t.mp m).maint = some x
      ∧ x.op = (if op = 3 then 0 else op) ∧ x.setway = setway ∧ x.all = all ∧ x.next = 0 ∧ x.waits = []
      ∧ t.fld (Fld.mp m 0x410 5 1) = 1 ∧ t.fld (Fld.mp m 0x410 16 16) = 0 ∧ (t.mp m).ways = (s.mp m).ways
      ∧ (∀ n, n ≠ m → t.mp n = s.mp n))
  ∧ (∀ (m : PortId) (x : Maint) (s : State), s.runs = true → (s.mp m).maint = some x →
    (s.mp m).busySet (BitVec.ofNat 10 x.next) = false → (x.setway = false ∨ x.all = true) → x.next < 1024 →
    exec (.hlbMaintVisit m) s = .next ((((hKeys (BitVec.ofNat 10 x.next)).foldl (fun s k => s.maintWay m x k) s).modMp m (fun p =>
      { p with maint := p.maint.map (fun t => { t with next := t.next + 1 }) })).maintEnd m))
  ∧ (∀ (m : PortId) (s : State), s.fwUp = true → (s.mp m).gate = .opened → (s.mp m).hmode = .enabled →
    (∀ e ∈ (s.mp m).wayList, e.2.owes = false) → ∃ t, exec (.hlbDisable m) s = .next t ∧ (t.mp m).hmode = .disabled
      ∧ t.fld (Fld.mp m 0x400 0 1) = 0 ∧ (t.mp m).ways = (s.mp m).ways ∧ (∀ n, n ≠ m → t.mp n = s.mp n))
  ∧ (∀ (m : PortId) (s : State), s.fwUp = true → (s.mp m).gate = .opened → ∃ t, exec (.hlbEnable m) s = .next t
      ∧ (t.mp m).hmode = .enabled ∧ t.fld (Fld.mp m 0x400 0 1) = 1 ∧ (t.mp m).ways = (s.mp m).ways
      ∧ (∀ n, n ≠ m → t.mp n = s.mp n))

/-- A calibration sample of the window in progress reaches its agent's histogram; the window's end is counted, and the
next one ends at the following multiple of the window's length. -/
def Obligations.Calibration : Prop :=
  (∀ (i : SliceId) (a : AgentId) (rtt t0 : Nat) (rest : List (Obs (AgentId × Nat × Nat))) (s : State),
    (s.sl i).calQ = .item (a, rtt, t0) :: rest → t0 < s.calAt → s.mode ≠ .hold →
    ∃ t, exec (.calibrationSample i) s = .next t ∧ (t.sl i).calQ = rest
      ∧ (t.hist a).bins = addSample (s.hist a).bins rtt ∧ (t.hist a).age = (s.hist a).age
      ∧ (∀ b, b ≠ a → t.hist b = s.hist b) ∧ (∀ j, j ≠ i → t.sl j = s.sl j) ∧ t.regs = s.regs ∧ t.agents = s.agents)
  ∧ (∀ s : State, s.mode ≠ .hold → s.mode ≠ .off → s.mode ≠ .rest → s.fld ⟨0x60000, 4, 10⟩ ≠ 0 →
    ∃ t, exec .calibrationWindowEnd s = .next t
      ∧ t.now = max s.now s.calAt ∧ t.now < t.calAt ∧ t.calAt % (1000 * s.fld ⟨0x60000, 4, 10⟩) = 0
      ∧ t.calAt ≤ t.now + 1000 * s.fld ⟨0x60000, 4, 10⟩
      ∧ t.fld ⟨0x60014, 0, 16⟩ = (s.fld ⟨0x60014, 0, 16⟩ + 1) % 65536 ∧ t.fld ⟨0x60018, 16, 16⟩ = 0
      ∧ t.modes.calWindows = s.modes.calWindows + 1 ∧ t.atts = s.atts ∧ t.ports = s.ports)

/-! ## The Armature -/

/-- The next flit on a link's wire, if its CRC is bad and the link does not skip, is discarded: the link skips, an idle flit goes back
with NAK, and LCRC counts it. One with a good CRC and no NAK that stands in sequence and is not idle is accepted, and the link
expects the next. A NAK that names a flit of the replay buffer has it and every later one sent again, and the flit that has failed
CRC_LIM times in a row is FATAL. A router that reads a lane that holds no flit has an underrun, which is FATAL. -/
def Obligations.FlitsAreCheckedAndReplayed : Prop :=
  (∀ (i : Fin 80) (l : LinkPort) (p : Bool) (f err : Flit) (rest : List Flit) (s : State), linkPresent i.val l = true → l ≠ .loc →
    ((s.router (l.neighbour i.val)).txAt (linkKey l.opposite p)).wire = f :: rest →
    let k := linkKey l p
    let rx := (s.router i.val).rxAt k
    let x := f.flip err
    (x.crc ≠ x.crcField → rx.skip = false → ∃ t, exec (.flitReceive i l p err none) s = .next t
      ∧ (t.router i.val).rxAt k = { rx with skip := true, nakDue := false }
      ∧ ((t.router i.val).txAt k).wire = ((s.router i.val).txAt k).wire ++ [Flit.zero.stamp 0 { rx with skip := true, nakDue := true }]
      ∧ ((t.router (l.neighbour i.val)).txAt (linkKey l.opposite p)).wire = rest
      ∧ t.fld (Fld.rt i.val 4 (8 * (l.num - 1)) 8) = min 255 (s.fld (Fld.rt i.val 4 (8 * (l.num - 1)) 8) + 1)
      ∧ (∀ g, (Fld.rt i.val 4 (8 * (l.num - 1)) 8).apart g → t.fld g = s.fld g)
      ∧ (∀ j, j ≠ i.val → j ≠ l.neighbour i.val → t.router j = s.router j)
      ∧ t.atts = s.atts ∧ t.slices = s.slices ∧ t.ports = s.ports)
    ∧ (x.crc = x.crcField → x.nak = false → x.idle = false → x.seq = rx.expect → ∃ t, exec (.flitReceive i l p err none) s = .next t
      ∧ ((t.router i.val).rxAt k).expect = x.seq + 1 ∧ ((t.router i.val).rxAt k).skip = false
      ∧ t.slices = s.slices ∧ t.ports = s.ports ∧ t.agents = s.agents))
  ∧ (∀ (i : Fin 80) (l : LinkPort) (p : Bool) (q : BitVec 6) (s : State), linkPresent i.val l = true → l ≠ .loc →
    let k := linkKey l p
    let x := ((s.router i.val).txAt k).acked q
    let n := if x.nakSeq = q then x.naks + 1 else 1
    let again := x.replay.map (fun f => f.stamp f.seq ((s.router i.val).rxAt k))
    x.replay.any (fun f => decide (f.seq = q)) = true →
    ∃ t, exec (.nak i l p q) s = .next t
      ∧ (t.router i.val).txAt k = { x with replay := again, wire := x.wire ++ again, nakSeq := q, naks := n }
      ∧ (n < s.crcLim i.val → t.mode = s.mode ∧ t.regs = s.regs)
      ∧ (s.crcLim i.val ≤ n → s.held = false → t.mode = .hold ∧ t.fld ⟨0x70100, 0, 8⟩ = 5 ∧ t.fld ⟨0x70104, 3, 7⟩ = i.val)
      ∧ (∀ j, j ≠ i.val → t.router j = s.router j) ∧ t.slices = s.slices ∧ t.ports = s.ports)
  ∧ (∀ (i : Fin 80) (l : LinkPort) (p : Bool) (err : Flit) (n : BitVec 2) (s : State), linkPresent i.val l = true →
    (s.router i.val).laneFlits (lane8 p n.toNat) = [] → s.held = false →
    ∃ t, exec (.flitReceive i l p err (some n)) s = .next t ∧ t.mode = .hold ∧ t.fld ⟨0x70100, 0, 8⟩ = 3
      ∧ t.fld ⟨0x70104, 3, 7⟩ = i.val ∧ t.fld ⟨0x70104, 10, 6⟩ = lane8 p n.toNat ∧ t.slices = s.slices ∧ t.ports = s.ports)

/-- A change to RTR_CFG runs as a reconfiguration, or waits for the one that runs; at the switch, with the lanes drained, the
new BOUNCE and CRC_LIM stand, CRC_LIM at least 2, and the change that waited runs. A queue whose pointers differ is reset and
recorded; an observation queue goes on, and in any other the block enters HOLD. Trace out sends the head of its crossing
queue, and the first entry of the next ring in order enters it; a command that bounces at a closed port is kept. -/
def Obligations.RoutersReconfigureAndQueuesReset : Prop :=
  (∀ (i : Fin 80) (b c : BitVec 4) (s : State), ∃ t, exec (.routerReconfigStart i b c) s = .next t
    ∧ t.router i.val = (if (s.router i.val).reconf.isSome = true
        then { s.router i.val with reconf2 := some (b, if c.toNat < 2 then 2 else c) }
        else { s.router i.val with reconf := some (b, if c.toNat < 2 then 2 else c) })
    ∧ (∀ j, j ≠ i.val → t.router j = s.router j) ∧ t = { s with mesh := t.mesh })
  ∧ (∀ (i : Fin 80) (b c : BitVec 4) (s : State), (s.router i.val).reconf = some (b, c) → (s.router i.val).bufs = [] →
    (∃ t, exec (.routerReconfigSwitch i) s = .next t ∧ (t.router i.val).bounce = b
      ∧ (t.router i.val).reconf = (s.router i.val).reconf2 ∧ (t.router i.val).reconf2 = none)
    ∧ ((s.router i.val).owed = [] → (∀ k, attRouter k = i.val → (s.att k).gate ≠ .opening) →
      (∀ m, portRouter m = i.val → (s.mp m).gate ≠ .opening) → ∃ t, exec (.routerReconfigSwitch i) s = .next t
      ∧ t.router i.val = { s.router i.val with bounce := b, reconf := (s.router i.val).reconf2, reconf2 := none }
      ∧ t.fld (Fld.rt i.val 0 4 4) = c.toNat ∧ (∀ g, (Fld.rt i.val 0 4 4).apart g → t.fld g = s.fld g)
      ∧ (∀ j, j ≠ i.val → t.router j = s.router j) ∧ t.atts = s.atts ∧ t.slices = s.slices ∧ t.ports = s.ports))
  ∧ (∀ (u : QUnit) (q : BitVec 6) (s : State), q.toNat < queuesOf u →
    (observes u q.toNat = false → s.held = false → ∃ t, exec (.queuePointerMismatch u q) s = .next t ∧ t.mode = .hold
      ∧ t.fld ⟨0x70100, 0, 8⟩ = 4 ∧ t.fld ⟨0x70104, 0, 3⟩ = (unitCode u).1 ∧ t.fld ⟨0x70104, 3, 7⟩ = (unitCode u).2
      ∧ t.fld ⟨0x70104, 10, 6⟩ = q.toNat ∧ t.crossOf u q.toNat = Cross.reset)
    ∧ (observes u q.toNat = true → ∃ t, exec (.queuePointerMismatch u q) s = .next t ∧ t.mode = s.mode
      ∧ t.crossOf u q.toNat = Cross.reset
      ∧ t.fld ⟨queueBase u + 8, 8, 8⟩ = min 255 (s.fld ⟨queueBase u + 8, 8, 8⟩ + 1)
      ∧ t.fld ⟨queueBase u + 8, 16, 6⟩ = q.toNat ∧ t.fld ⟨queueBase u + 8, 22, 2⟩ = 2
      ∧ t.fld ⟨0x70120, 0, 32⟩ = min 0xFFFFFFFF (s.fld ⟨0x70120, 0, 32⟩ + 1) ∧ t.agents = s.agents ∧ t.atts = s.atts))
  ∧ (∀ s : State, s.level < 2 → ∃ t, exec .traceOut s = .next t ∧ t = { s with mesh := t.mesh }
    ∧ (∀ e rest, s.mesh.traceQ = e :: rest → (s.crossOf .service 28).seenEmpty = false →
      t.mesh.tracePin = some e ∧ (t.mesh.traceQ = rest ∨ ∃ x, t.mesh.traceQ = rest ++ [x]))
    ∧ (∀ g e rest, grantOf 16 s.mesh.ringTurn (fun g => decide (s.ring g ≠ [])) = some g → s.ring g = e :: rest →
      (s.traceRead.crossOf .service 28).seenFull (Config.queueRoom 28 + 2) = false →
      t.ring g = rest ∧ t.mesh.ringTurn = (g + 1) % 16 ∧ t.mesh.traceQ.getLast? = some e ∧ ∀ h, h ≠ g → t.ring h = s.ring h))
  ∧ (∀ (b : Bounced) (rest : List Bounced) (s : State), s.mesh.bounced = b :: rest →
    exec .bouncedMessage s = .next ({ s with mesh := { s.mesh with bounced := rest } }.handleBounced b)
    ∧ (∀ m c, b = .cmd m c → s.portBounces m = true →
      exec .bouncedMessage s = .next { s with mesh := { s.mesh with bounced := rest, parked := s.mesh.parked ++ [b] } }))

/-- LA_GATE.REQ 1 begins to close the gate of an attachment whose agents are all ABSENT, and is refused else; the attachment
acknowledges; its router is to bounce its messages, and with that done and its queues empty the gate is DRAINED and its
lnk_off_ok bit rises. REQ 0 has it reopen, with its credits advertised again, and when its router has switched back the gate is
OPEN. -/
def Obligations.GatesCloseAndReopen : Prop :=
  (∀ (k : AttId) (s : State), s.fwUp = true → (s.att k).gate = .opened →
    (s.allAway k = true → ∃ t, exec (.laGateClose k) s = .next t ∧ (t.att k).gate = .closing ∧ (t.att k).gateReq = true
      ∧ (t.att k).gateAck = false ∧ t.fld (Fld.la k 0x150 0 1) = 1 ∧ (∀ j, j ≠ k → t.att j = s.att j) ∧ t.slices = s.slices
      ∧ ((s.router (attRouter k)).reconf2 = none → (t.cfgAhead (attRouter k)).1.getLsbD (k.toNat % 2) = true))
    ∧ (s.allAway k = false → ∃ t, exec (.laGateClose k) s = .next t ∧ t.atts = s.atts ∧ t.fld (Fld.la k 0x150 3 1) = 1
      ∧ (∀ g, (Fld.la k 0x150 3 1).apart g → t.fld g = s.fld g)))
  ∧ (∀ (k : AttId) (s : State), (s.att k).gateReq = true → ∃ t, exec (.gateAck k) s = .next t
      ∧ t.att k = { s.att k with gateAck := true } ∧ (∀ j, j ≠ k → t.att j = s.att j) ∧ t = { s with atts := t.atts })
  ∧ (∀ (k : AttId) (s : State), (s.att k).gate = .closing → (s.att k).gateAck = true → (s.att k).quiet = true →
    s.attBounces k = true → ∃ t, exec (.gateDrained k) s = .next t
      ∧ t.att k = { s.att k with gate := if (s.att k).reopen = true then .opening else .drained, reopen := false }
      ∧ t.pins.lnkOffOk.getLsbD k.toNat = !(s.att k).reopen ∧ (∀ j, j ≠ k → t.att j = s.att j) ∧ t.regs = s.regs)
  ∧ (∀ (k : AttId) (s : State), s.fwUp = true →
    ((s.att k).gate = .drained → ∃ t, exec (.laGateOpen k) s = .next t ∧ t.att k = { s.att k with gate := .opening }
      ∧ t.pins.lnkOffOk.getLsbD k.toNat = false ∧ t.fld (Fld.la k 0x150 0 1) = 0 ∧ (∀ j, j ≠ k → t.att j = s.att j))
    ∧ ((s.att k).gate = .closing → ∃ t, exec (.laGateOpen k) s = .next t ∧ t.att k = { s.att k with reopen := true }
      ∧ t.pins = s.pins ∧ t.fld (Fld.la k 0x150 0 1) = 0 ∧ (∀ j, j ≠ k → t.att j = s.att j)))
  ∧ (∀ (k : AttId) (s : State), (s.att k).gate = .opening → (s.att k).passing = false → ∃ t, exec (.gateReopen k) s = .next t
      ∧ (t.att k).passing = true ∧ (t.att k).gateReq = false
      ∧ (t.att k).reqCr = 64 ∧ (t.att k).rwdCr = 32 ∧ (t.att k).birspCr = 64 ∧ (t.att k).ndrC = Credits.reset
      ∧ (t.att k).drsC = Credits.reset ∧ (t.att k).bisnpC = Credits.reset
      ∧ ((s.router (attRouter k)).reconf2 = none → (t.cfgAhead (attRouter k)).1.getLsbD (k.toNat % 2) = false)
      ∧ (∀ j, j ≠ k → t.att j = s.att j) ∧ t.slices = s.slices)
  ∧ (∀ (k : AttId) (i : Fin 80) (b c : BitVec 4) (s : State), i.val = attRouter k → (s.router i.val).reconf = some (b, c) →
      (s.router i.val).bufs = [] → (s.att k).gate = .opening → (s.att k).passing = true → b.getLsbD (k.toNat % 2) = false →
      ∃ t, exec (.routerReconfigSwitch i) s = .next t ∧ (t.att k).gate = .opened ∧ (t.att k).passing = false)

/-! ## Modes, resets, re-homing -/

/-- MODE_CTRL.QUIESCE 1 starts the drain and loses every reservation; 0, with no other trigger standing, opens admission in the
mode of the level. A step of the drain begins when the one before is complete, and the last sets DRAINED; a warm reset that waits then takes
effect, as it does in HOLD. -/
def Obligations.QuiesceDrains : Prop :=
  (∀ s : State, s.fwUp = true → (s.mode = .serve ∨ s.mode = .shed) → ∃ t, exec .quiesceSet s = .next t ∧ t.mode = .quiesce
    ∧ t.modes.drainStep = 1 ∧ t.modes.drained = false ∧ t.fld ⟨0x70000, 1, 1⟩ = 1 ∧ (∀ i, (t.sl i).rsvs = [])
    ∧ t.agents = s.agents ∧ t.atts = s.atts ∧ t.ports = s.ports)
  ∧ (∀ s : State, s.fwUp = true → s.mode = .quiesce → s.modes.restPhase = 0 → s.level ≠ 5 → s.modes.restReqd = false →
    s.modes.warm = none → s.modes.pwrFail = false → ∃ t, exec .quiesceClear s = .next t ∧ t.mode = s.admitMode
    ∧ t.modes.drained = false ∧ t.modes.cleanWr = false ∧ t.fld ⟨0x70000, 1, 1⟩ = 0
    ∧ t.agents = s.agents ∧ t.atts = s.atts ∧ t.slices = s.slices)
  ∧ (∀ s : State, s.mode = .quiesce → s.modes.restLimit = false → s.modes.restPhase ≠ 7 →
    exec .quiesceDrainAdvance s = .next (if s.drainOn.modes.drained = true ∧ s.drainOn.modes.warm.isSome = true
      then s.drainOn.warmEffect true else s.drainOn)
    ∧ (s.modes.drainStep = 1 → s.flowsOut = true → s.drainOn = { s with modes := { s.modes with drainStep := 2 } })
    ∧ (s.modes.drainStep = 3 → s.flushed = true → s.drainOn = { s with modes := { s.modes with drainStep := 4 } })
    ∧ (s.modes.drainStep = 5 → s.cast.writes = 0 → s.drainOn.modes.drainStep = 6 ∧ s.drainOn.cast.clean = true)
    ∧ (s.modes.drainStep = 6 → s.cast.writes = 0 → s.drainOn.modes.drained = true ∧ s.drainOn.modes.drainStep = 7))
  ∧ (∀ s : State, s.held = true → s.modes.warm.isSome = true → exec .quiesceDrainAdvance s = .next (s.warmEffect false))

/-- REST_REQ in SERVE or SHED with no reason against it enters QUIESCE on the way to REST; a reason is counted, recorded and
leaves the mode; in BOOT, CALIBRATE and HOLD the request is ignored and counted. The steps of the entry follow one
another, up to REST with its drain limit; there VCORE may go unless a wake was latched. -/
def Obligations.RestIsEntered : Prop :=
  (∀ s : State, s.portUp = true → (s.mode = .serve ∨ s.mode = .shed) → s.modes.restReqd = false → s.modes.warm = none →
    s.modes.restPhase ≠ 7 →
    (s.restFails1 = [] → ∃ t, exec .restReq s = .next t ∧ t.mode = .quiesce ∧ t.modes.restReqd = true ∧ t.modes.restPhase = 2
      ∧ t.modes.drainStep = 1 ∧ t.atts = s.atts ∧ t.ports = s.ports)
    ∧ (∀ x rest, s.restFails1 = x :: rest → ∃ t, exec .restReq s = .next t ∧ t.mode = s.mode ∧ t.modes.restReqd = false
      ∧ t.fld ⟨0x70010, 0, 16⟩ = min 65535 (s.fld ⟨0x70010, 0, 16⟩ + 1) ∧ t.fld ⟨0x70010, 16, 3⟩ = x.1 ∧ t.slices = s.slices))
  ∧ (∀ s : State, s.portUp = true → (s.mode = .boot ∨ s.mode = .calibrate ∨ s.mode = .hold) → ∃ t, exec .restReq s = .next t
    ∧ t.fld ⟨0x70010, 19, 8⟩ = min 255 (s.fld ⟨0x70010, 19, 8⟩ + 1) ∧ t = { s with regs := t.regs })
  ∧ (∀ (m : BitVec 24) (s : State), s.modes.restReqd = true →
    (s.modes.restPhase = 2 → s.modes.drained = true →
      exec (.restEntryStep m) s = .next { s with modes := { s.modes with restPhase := 3 } })
    ∧ (s.modes.restPhase = 3 → s.restFails3 = [] → ∃ t, exec (.restEntryStep m) s = .next t ∧ t.modes.restPhase = 4
      ∧ (∀ n, (t.mp n).waitq = (s.mp n).waitq ++ [{ why := .save, line := 0, data := none, stag := 0, held := none }])
      ∧ t.slices = s.slices ∧ t.atts = s.atts)
    ∧ (s.modes.restPhase = 4 → (∀ n, (s.mp n).saved = true ∧ (s.mp n).saveErr = false) → ∃ t, exec (.restEntryStep m) s = .next t
      ∧ t.modes.restPhase = 5 ∧ (∀ k, (s.att k).gate = .opened → (t.att k).gate = .closing ∧ (t.att k).restGated = true)
      ∧ t.slices = s.slices ∧ t.ports = s.ports)
    ∧ (s.modes.restPhase = 5 → (∀ k, (s.att k).gate = .drained) →
      (∀ n, (s.mp n).gate = .closing ∧ (s.mp n).quiet = true ∧ s.portBounces n = true) → ∃ t, exec (.restEntryStep m) s = .next t
      ∧ t.modes.restPhase = 6 ∧ t.pins.memOffOk = 0xFFFF ∧ (∀ n, (t.mp n).gate = .drained) ∧ t.slices = s.slices ∧ t.atts = s.atts)
    ∧ (s.modes.restPhase = 6 → ∃ t, exec (.restEntryStep m) s = .next t ∧ t.mode = .rest ∧ t.modes.restReqd = false
      ∧ t.plinth.retM = m ∧ t.plinth.restEntry = s.now ∧ t.reg 0x30C24 = m.setWidth 32
      ∧ t.fld ⟨0x7001C, 0, 16⟩ = min 65535 (s.fld ⟨0x7001C, 0, 16⟩ + 1)
      ∧ (s.modes.wakeLatch = 0 → t.pins.coreOffOk = true ∧ t.pins.wakeOut = s.pins.wakeOut)
      ∧ (s.modes.wakeLatch ≠ 0 → t.pins.coreOffOk = false ∧ t.pins.wakeOut = true
        ∧ t.fld ⟨0x70020, 9, 2⟩ = s.modes.wakeLatch.toNat)))
  ∧ (∀ s : State, s.modes.restReqd = true → s.modes.restPhase = 2 →
    let u := s.reach (s.modes.restStart + 1000 * s.fld ⟨0x70008, 20, 12⟩)
    (s.modes.drained = true → exec .restDrainLimit s = .next (u.phase 3).restCheck)
    ∧ (s.modes.drained = false →
      exec .restDrainLimit s = .next (({ u with modes := { u.modes with restLimit := true } }).phase 3).restCheck))

/-- A wake that is enabled begins the exit from REST: the wake output rises, VCORE may no longer go, and the source is recorded.
With the clocks back the block is in QUIESCE, the timebase has taken up the retention time, and every memory port and every
attachment that was open begins to reopen; a port is OPEN when its router has switched back. With every port ready admission
opens. -/
def Obligations.WakesLeaveRest : Prop :=
  (∀ (a : BitVec 7) (s : State), s.mode = .rest → s.pins.wakeOut = false → s.fld ⟨0x70020, 7, 1⟩ = 1 →
    a.toNat = s.fld ⟨0x70020, 0, 7⟩ → ∃ t, exec (.sidebandAddressMatch a) s = .next t ∧ t.pins.wakeOut = true
      ∧ t.pins.coreOffOk = false ∧ t.fld ⟨0x70020, 9, 2⟩ = 1 ∧ t.mode = .rest ∧ t.plinth = s.plinth)
  ∧ (∀ s : State, s.mode = .rest → s.pins.wakeOut = false → s.fld ⟨0x70020, 8, 1⟩ = 1 → ∃ t, exec .wakeIn s = .next t
      ∧ t.pins.wakeOut = true ∧ t.pins.coreOffOk = false ∧ t.fld ⟨0x70020, 9, 2⟩ = 2 ∧ t.mode = .rest ∧ t.plinth = s.plinth)
  ∧ (∀ (n : BitVec 48) (s : State), s.mode = .rest → s.pins.wakeOut = true → s.modes.warm = none →
    s.clocksUp = true → ∃ t, exec (.restExitStep n) s = .next t ∧ t.mode = .quiesce ∧ t.modes.restPhase = 7
      ∧ t.now = max s.now (s.plinth.restEntry + n.toNat * s.plinth.retM.toNat * 10 / 1024) ∧ t.pins.memOffOk = 0
      ∧ (∀ m, (t.mp m).gate = .opening ∧ (t.mp m).mcmdC = Credits.reset ∧ (t.mp m).mwdataC = Credits.reset)
      ∧ ∀ k, (s.att k).restGated = true → (t.att k).gate = .opening ∧ (t.att k).restGated = false)
  ∧ (∀ (m : PortId) (i : Fin 80) (b c : BitVec 4) (s : State), i.val = portRouter m → (s.router i.val).reconf = some (b, c) →
      (s.router i.val).bufs = [] → (s.mp m).gate = .opening → b.getLsbD (m.toNat % 4) = false →
      ∃ t, exec (.routerReconfigSwitch i) s = .next t ∧ (t.mp m).gate = .opened)
  ∧ (∀ (n : BitVec 48) (s : State), s.mode = .quiesce → s.modes.restPhase = 7 → s.modes.pwrFail = false →
    (∀ m, (s.mp m).ready = true) → ∃ t, exec (.restExitStep n) s = .next t ∧ t.pins.wakeOut = false ∧ t.modes.restPhase = 0
      ∧ t.mode = (if s.quiesceHeld = true then .quiesce else s.admitMode) ∧ t.agents = s.agents ∧ t.atts = s.atts)

/-- The shed level rises at once to the level that qualifies, whether by droop, by alert or by FORCE, and falls by one after its
100 us; DEEPEST keeps the deepest level a droop brought. CALIBRATE ends in admission once the header, the ports, the JOINs and
a window are done; a header that does not match starts a clear, one that matches gives DSC, which counts an unclean stop. -/
def Obligations.LevelsAndStarts : Prop :=
  (∀ (mon : BitVec 2) (d : BitVec 8) (s : State), s.mode ≠ .off → s.mode ≠ .rest → ∃ t, exec (.shedQualify mon d) s = .next t
    ∧ t.level = max s.level (s.levelOf d.toNat) ∧ Store.get 0 t.modes.droops mon.toNat = d
    ∧ (s.level < s.levelOf d.toNat → t.fld ⟨0x70038, 0, 3⟩ = max (s.fld ⟨0x70038, 0, 3⟩) (s.levelOf d.toNat)))
  ∧ (∀ (v : Bool) (s : State), s.mode ≠ .off → s.mode ≠ .rest → ∃ t, exec (.droopAlert v) s = .next t ∧ t.modes.alert = v
    ∧ t.level = (if v = true then max s.level (s.fld ⟨0x70034, 0, 3⟩) else s.level))
  ∧ (∀ s : State, s.mode ≠ .off → s.mode ≠ .rest → s.level ≠ 0 → s.deepest + 4 < s.shedT s.level →
    (s.modes.alert = false ∨ s.fld ⟨0x70034, 0, 3⟩ < s.level) → s.fld ⟨0x70034, 3, 3⟩ < s.level →
    ∃ t, exec .shedStepDown s = .next t ∧ t.level = s.level - 1 ∧ t.now = max s.now (s.modes.levelSince + 100000))
  ∧ (∀ (v : BitVec 3) (s : State), s.fwUp = true → ∃ t, exec (.shedForce v) s = .next t
    ∧ t.fld ⟨0x70034, 3, 3⟩ = min 4 v.toNat ∧ t.level = max s.level (min 4 v.toNat))
  ∧ (∀ s : State, s.mode = .calibrate → s.cast.done = true → s.cast.init = false → (∀ m, (s.mp m).ready = true) →
    s.joinsDone = true → s.modes.calWindows ≠ 0 → ∃ t, exec .calibrateExit s = .next t
    ∧ t.mode = (if s.quiesceHeld = true then .quiesce else s.admitMode) ∧ t.cast.clean = false ∧ t.agents = s.agents)
  ∧ (∀ (h : BucketRead) (im : List LineData) (ok : Bool) (s : State), s.mode = .calibrate → s.cast.done = false →
    s.hdrWaits = false → let rd := s.castSeen (s.castAddr 0 0) h
    (s.headerOk rd = false → ∃ t, exec (.castHeaderReturn h im ok) s = .next t ∧ t.cast.done = true ∧ t.cast.hdrNew = true
      ∧ t.cast.init = true ∧ t.cast.gen = 1 ∧ t.cast.dsc = 0 ∧ t.cast.clear = some 1)
    ∧ (s.headerOk rd = true → ∃ t, exec (.castHeaderReturn h im ok) s = .next t ∧ t.cast.done = true
      ∧ t.cast.dsc = BitVec.ofNat 32 (bytesNat rd.data 8 4 + (if bytesNat rd.data 12 1 = 1 then 0 else 1))))

/-- A warm reset drains from SERVE and SHED, and takes effect at once from BOOT and HOLD or at its limit: all but the Plinth takes
its reset value (the epochs and decay periods begin then: the model's choice, log 60). A cold reset holds the block until its
release, which samples the straps and begins BOOT; an aon reset takes the Plinth too. BIST runs under cold reset. A power-fail
notice drains, or lets VCORE go; the loss of a rail turns the block off, that of VCORE in REST, while it may go, only its clocks. -/
def Obligations.ResetsAndPower : Prop :=
  ((∀ s : State, (s.mode = .serve ∨ s.mode = .shed) → s.modes.warm = none → s.modes.warmDone = false → s.fld ⟨0x70000, 2, 1⟩ = 0 →
    ∃ t, exec .warmReset s = .next t ∧ t.mode = .quiesce ∧ t.modes.warm = some s.now ∧ t.modes.warmPin = true
      ∧ t.modes.drainStep = 1 ∧ t.agents = s.agents ∧ t.ports = s.ports)
  ∧ (∀ s : State, (s.mode = .boot ∨ s.mode = .hold) → s.modes.warm = none → s.modes.warmDone = false →
    ∃ t, exec .warmReset s = .next t ∧ t.mode = .boot ∧ t.boot.st = .held ∧ t.modes.warmDone = true
      ∧ t.modes.afterWarm = false ∧ t.blank ∧ t.plinth = s.plinth ∧ t.regs = s.plinthRegs ∧ t.castMem = s.castKept
      ∧ t.pins.fatalOut = s.pins.fatalOut)
  ∧ (∀ (t0 : Nat) (s : State), s.modes.warm = some t0 → s.mode ≠ .rest →
    exec .warmLimitExpiry s = .next ((s.reach (t0 + 1000000 * s.fld ⟨0x70008, 12, 8⟩)).warmEffect false))
  ∧ (∀ s : State, s.modes.warmDone = true → s.plinth.keyValid = true → ∃ t, exec .warmResetRelease s = .next t
    ∧ t.mode = .boot ∧ t.boot.st = .start ∧ t.boot.start = s.now ∧ t.modes.warmPin = false ∧ t.modes.warmDone = false
    ∧ t.pins.fatalOut = false ∧ t.regs = s.regs)
  ∧ (∀ s : State, ∃ t, exec .coldReset s = .next t ∧ t.mode = (if s.mode = .off then .off else .boot) ∧ t.modes.coldPin = true
    ∧ t.boot.st = .held ∧ t.blank ∧ t.plinth = s.plinth ∧ t.regs = s.plinthRegs)
  ∧ (∀ (x : BitVec 16) (kh : BitVec 384) (kv : Bool) (fl : BitVec 16) (s : State), s.modes.coldPin = true → s.modes.aonPin = false →
    ∃ t, exec (.coldResetRelease x kh kv fl) s = .next t ∧ t.modes.coldPin = false ∧ t.plinth.straps = x
      ∧ t.plinth.keyHash = kh ∧ t.plinth.svnFloor = fl
      ∧ ((s.modes.railCore && s.modes.railSram && s.modes.railAon) = false → t.mode = s.mode ∧ t.boot = s.boot)
      ∧ ((s.modes.railCore && s.modes.railSram && s.modes.railAon) = true → kv = true →
        t.mode = .boot ∧ t.boot.st = .start ∧ t.regs = s.regs)
      ∧ ((s.modes.railCore && s.modes.railSram && s.modes.railAon) = true → kv = false → t.mode = .hold ∧ t.boot.st = .failed ∧ t.fld ⟨0x70100, 0, 8⟩ = 0xA ∧ t.fld ⟨0x1000, 2, 4⟩ = 0xB))
  ∧ (∀ s : State, ∃ t, exec .aonReset s = .next t ∧ t.modes.aonPin = true ∧ t.plinth = Plinth.reset ∧ t.regs = []
    ∧ t.boot.st = .held ∧ t.blank)
  ∧ (∀ s : State, exec .aonResetRelease s = .next { s with modes := { s.modes with aonPin := false } }))
  ∧ ((∀ s : State, s.modes.coldPin = true → s.mode ≠ .rest → ∃ t, exec .mbistStart s = .next t ∧ t.modes.bistBusy = true
    ∧ t.modes.bistUndef = true ∧ t.pins.bistDone = false ∧ t.pins.bistFail = false ∧ t.regs = s.regs)
  ∧ (∀ (f : Bool) (s : State), s.modes.bistBusy = true → ∃ t, exec (.mbistDone f) s = .next t ∧ t.modes.bistBusy = false
    ∧ t.pins.bistDone = true ∧ t.pins.bistFail = f ∧ t.regs = s.regs)
  ∧ (∀ s : State, (s.mode = .serve ∨ s.mode = .shed) → ∃ t, exec .powerFail s = .next t ∧ t.mode = .quiesce
    ∧ t.modes.pwrFail = true ∧ t.modes.drainStep = 1 ∧ t.pins = s.pins)
  ∧ (∀ s : State, (s.mode = .boot ∨ s.mode = .calibrate ∨ s.mode = .hold) → ∃ t, exec .powerFail s = .next t ∧ t.mode = s.mode
    ∧ t.modes.pwrFail = true ∧ t.pins.coreOffOk = true ∧ t.slices = s.slices)
  ∧ (∀ (r : Rail) (s : State), ¬(r = .vcore ∧ s.mode = .rest ∧ s.pins.coreOffOk = true) →
    ∃ t, exec (.powerLoss r) s = .next t ∧ t.mode = .off ∧ t.blank ∧ (r ≠ .vaon → t.plinth = s.plinth ∧ t.regs = s.plinthRegs)
    ∧ (r = .vaon → t.plinth = Plinth.reset ∧ t.regs = []))
  ∧ (∀ s : State, s.mode = .rest → s.pins.coreOffOk = true → ∃ t, exec (.powerLoss .vcore) s = .next t ∧ t.mode = .rest ∧ t.modes.railCore = false
    ∧ t.cox.clkPres = 0 ∧ t.agents = s.agents ∧ t.slices = s.slices ∧ t.regs = s.regs))

/-- RESIZE and MOVE are refused unless the block is in SERVE or SHED with no command running (and, for MOVE, the destination is
active): REFUSED is 1 and the map stays. Accepted, they queue a move for each bucket whose home differs. A move is marked
and its reservations lost; with nothing of the bucket left in the old slice its count is handed over; the new slice takes
it in bypass and tells the 16 edge routers; the 16th acknowledgement commits the new home and advances the epoch. -/
def Obligations.BucketsMove : Prop :=
  (∀ (n : BitVec 2) (s : State), s.fwUp = true →
    (s.hmapTakes = false → ∃ t, exec (.resize n) s = .next t ∧ t.fld ⟨0x4800C, 19, 1⟩ = 1 ∧ t.hmap = s.hmap)
    ∧ (s.hmapTakes = true → (∃ b, s.homeOf b ≠ targetHome n b) → ∃ t, exec (.resize n) s = .next t ∧ t.hmap.resize = some n
      ∧ (∀ b, s.homeOf b ≠ targetHome n b → t.moveOf b = some (Move.new b (s.homeOf b) (targetHome n b)))
      ∧ (∀ b, s.homeOf b = targetHome n b → t.moveOf b = none)
      ∧ (∀ i, inActive n i.toNat = true → (t.sl i).active = true) ∧ t.fld ⟨0x48004, 0, 2⟩ = n.toNat
      ∧ t.atts = s.atts ∧ t.ports = s.ports)
    ∧ (s.hmapTakes = true → (∀ b, s.homeOf b = targetHome n b) → ∃ t, exec (.resize n) s = .next t ∧ t.hmap.resize = none
      ∧ t.hmap.moves = [] ∧ t.hmap.count = n ∧ ∀ b, t.homeOf b = s.homeOf b))
  ∧ (∀ (b : BitVec 12) (d : SliceId) (s : State), s.fwUp = true →
    ((s.hmapTakes = false ∨ (s.sl d).active = false) → ∃ t, exec (.move b d) s = .next t ∧ t.fld ⟨0x4800C, 19, 1⟩ = 1
      ∧ t.hmap = s.hmap)
    ∧ (s.hmapTakes = true → (s.sl d).active = true → s.homeOf b ≠ d → ∃ t, exec (.move b d) s = .next t
      ∧ t.hmap.moves = [Move.new b (s.homeOf b) d] ∧ t.slices = s.slices ∧ t.fld ⟨0x48008, 0, 12⟩ = b.toNat
      ∧ t.fld ⟨0x48008, 12, 6⟩ = d.toNat)
    ∧ (s.hmapTakes = true → (s.sl d).active = true → s.homeOf b = d → ∃ t, exec (.move b d) s = .next t
      ∧ t.hmap = s.hmap ∧ t.slices = s.slices))
  ∧ (∀ (b : BitVec 12) (m : Move) (s : State), s.moveOf b = some m → s.mayMark m = true →
    ∃ t, exec (.bucketMarkMoving b) s = .next t ∧ t.moveOf b = some { m with st := .marked }
      ∧ (t.sl m.src).rsvs = (s.sl m.src).rsvs.filter (fun r => !decide (bucketOf r.line = b))
      ∧ (∀ i, i ≠ m.src → t.sl i = s.sl i) ∧ t.atts = s.atts ∧ t.ports = s.ports)
  ∧ (∀ (b : BitVec 12) (m : Move) (chk : PassCheck) (s : State), s.moveOf b = some m → m.st = .marked → s.passGo m.src = true →
    s.bgMay m.src = true → exec (.bucketWriteBack b chk) s = .next (s.bgPass m.src (.writeBack b) chk))
  ∧ (∀ (b : BitVec 12) (m : Move) (s : State), s.moveOf b = some m → m.st = .marked → (s.sl m.src).busyBucket b = false →
    ((s.sl m.src).waysOf b = [] → s.transitOf m.src b = false → s.uncounted m.src b = false →
      (s.writeBackPass m.src b).moveOf b = some { m with st := .handed, mask := s.sweptPast m.src b }
      ∧ (s.writeBackPass m.src b).hmap.hands
          = s.hmap.hands ++ [(m.dst, b, (s.sl m.src).recOfBucket b, s.sweptPast m.src b)]
      ∧ (s.writeBackPass m.src b).slices = s.slices)
    ∧ ((s.sl m.src).waysOf b ≠ [] → s.writeBackPass m.src b
      = ((s.sl m.src).waysOf b).foldl (fun s p => (s.evict m.src p.1 p.2).getD s) s))
  ∧ (∀ (i : SliceId) (h : SliceId × BitVec 12 × Nat × List AgentId) (s : State),
    s.hmap.hands.find? (fun h => decide (h.1 = i)) = some h → ∃ t, exec (.handover i) s = .next t
      ∧ (t.sl i).recOfBucket h.2.1 = h.2.2.1 ∧ (t.sl i).bypass = (s.sl i).bypass ++ [{ bucket := h.2.1, next := 0 }]
      ∧ t.hmap.sets = s.hmap.sets ++ (List.range 16).map (fun r => (BitVec.ofNat 4 r, h.2.1, i, nextEpoch s.hmap.epoch))
      ∧ t.hmap.hands = s.hmap.hands.erase h ∧ (∀ j, j ≠ i → t.sl j = s.sl j) ∧ t.atts = s.atts ∧ t.ports = s.ports)
  ∧ (∀ (row : BitVec 4) (x : BitVec 4 × BitVec 12 × SliceId × BitVec 16) (s : State), s.hmap.sets.find? (fun x => decide (x.1 = row)) = some x →
    ∃ t, exec (.mapSet row) s = .next t ∧ t.edgeHome row.toNat x.2.1 = x.2.2.1 ∧ t.hmap.acks = s.hmap.acks ++ [(row, x.2.1, x.2.2.2)]
      ∧ (∀ b, t.homeOf b = s.homeOf b) ∧ t = { s with hmap := t.hmap, mesh := t.mesh })
  ∧ (∀ (row : BitVec 4) (b : BitVec 12) (e : BitVec 16) (rest : List (BitVec 4 × BitVec 12 × BitVec 16)) (m : Move)
    (l : List (BitVec 4)) (s : State), s.hmap.acks = (row, b, e) :: rest → s.moveOf b = some m → m.st = .updating l → row ∉ l →
    (l.length ≠ 15 → ∃ t, exec .mapAck s = .next t ∧ t.moveOf b = some { m with st := .updating (l ++ [row]) }
      ∧ (∀ c, t.homeOf c = s.homeOf c) ∧ t = { s with hmap := t.hmap })
    ∧ (l.length = 15 → ∃ t, exec .mapAck s = .next t ∧ t.homeOf b = m.dst ∧ t.moveOf b = none
      ∧ (∀ c, c ≠ b → t.homeOf c = s.homeOf c) ∧ t.hmap.epoch = (if s.hmap.epoch = 0xFFFF then 1 else s.hmap.epoch + 1)
      ∧ t.atts = s.atts ∧ t.ports = s.ports))

/-! ## The loader -/

/-- Discovery leaves the read mode of the flash with its timing, a quad mode after the volatile write of its QE bit; the headers are checked and the slot with the higher SEQ is tried first, A on a
tie; a bad signature, a bad block CRC and a body whose hash is wrong fail the slot, and a failed slot gives way to the
other, or the block enters HOLD with cause 0xA. A good body completes BOOT. -/
def Obligations.TheLoaderChoosesASlot : Prop :=
  (∀ (x : Option Sfdp) (s : State), s.booting .start = true → ∃ t, exec (.flashDiscovery x) s = .next t ∧ t.boot.st = .discovered
    ∧ (x = none → t.regs = s.regs)
    ∧ (∀ y, x = some y → t.fld ⟨0x1000, 10, 2⟩ = rdMode y ∧ t.fld ⟨0x1000, 12, 1⟩ = y.addr4Only.toNat ∧ t.fld ⟨0x1000, 13, 1⟩ = 1
      ∧ t.boot.dummy = (rdTiming y).1 ∧ t.boot.modeBits = (rdTiming y).2
      ∧ (rdMode y ≠ 1 → t.pins.spi = [(3, y.qer.toNat, [])]) ∧ (rdMode y = 1 → t.pins = s.pins)))
  ∧ (∀ (z : BitVec 17) (a b : List Byte) (s : State), a.length = 512 → b.length = 512 → s.booting .discovered = true →
    let floor := max z.toNat s.plinth.svnFloor.toNat
    let ra := hdrReason a s.plinth.keyHash floor
    let rb := hdrReason b s.plinth.keyHash floor
    ∃ t, exec (.slotHeaderCheck z a b) s = .next t ∧ t.fld ⟨0x1000, 2, 4⟩ = ra ∧ t.fld ⟨0x1000, 6, 4⟩ = rb
      ∧ t.fld ⟨0x1008, 16, 16⟩ = min floor 0xFFFF
      ∧ (ra ≠ 0 → rb ≠ 0 → t.mode = .hold ∧ t.fld ⟨0x1000, 0, 2⟩ = 3 ∧ t.fld ⟨0x70100, 0, 8⟩ = 0xA ∧ t.boot.st = .failed)
      ∧ (ra = 0 → (rb ≠ 0 ∨ hdrSeq b ≤ hdrSeq a) → t.boot.st = .checked ∧ t.boot.slot = false ∧ t.fld ⟨0x1000, 0, 2⟩ = 0)
      ∧ (rb = 0 → (ra ≠ 0 ∨ hdrSeq a < hdrSeq b) → t.boot.st = .checked ∧ t.boot.slot = true ∧ t.fld ⟨0x1000, 0, 2⟩ = 1))
  ∧ (∀ s : State, s.booting .checked = true → exec .signatureCheck s = .next
      (if hdrSigned (s.boot.hdr s.boot.slot) = true then { s with boot := { s.boot with st := .body } } else s.failSlot 6))
  ∧ (∀ (ws : List Word32) (s : State), ws.length = 1024 → s.booting .body = true → s.boot.blocks < s.boot.total →
    s.boot.bufs.length < 2 →
    let sum := crc32c ((ws.take 1023).flatMap (fun w => bytesOfNat 4 w.toNat))
    (sum = ws.getD 1023 0 → ∃ t, exec (.bodyBlockRead ws) s = .next t ∧ t.boot.blocks = s.boot.blocks + 1
      ∧ (s.boot.ended = false → t.boot.bufs = s.boot.bufs ++ [ws.take 1023]) ∧ t = { s with boot := t.boot, mesh := t.mesh })
    ∧ (sum ≠ ws.getD 1023 0 → exec (.bodyBlockRead ws) s = .next (s.failAt 7 (512 + 4096 * s.boot.blocks))))
  ∧ (∀ (cox : List Byte) (s : State), s.booting .body = true → s.boot.total ≤ s.boot.blocks → s.boot.waiting = .none →
    s.boot.ended = true → cox.length = coxLen (s.boot.hdr s.boot.slot) →
    exec (.bodyHashCheck cox) s = .next
      (if Config.sha384 (s.boot.body ++ cox) = bodyHash (s.boot.hdr s.boot.slot) then s.bootDone cox else (s.coxStream cox).failSlot 0xA))
  ∧ (∀ (cox : List Byte) (s : State), s.mode = .boot → s.boot.held = [] → (s.bootDone cox).mode = .calibrate
    ∧ (s.bootDone cox).cox.running = true ∧ (s.bootDone cox).fld ⟨0x1000, 14, 1⟩ = 1 ∧ (s.bootDone cox).hmap.epoch = 1
    ∧ (∀ k, ((s.bootDone cox).att k).reqCr = 64 ∧ ((s.bootDone cox).att k).rwdCr = 32)
    ∧ (∀ b, (s.bootDone cox).homeOf b = targetHome (BitVec.ofNat 2 (s.fld ⟨0x48000, 0, 2⟩)) b))
  ∧ (∀ (n : Nat) (s : State), s.held = false →
    ((if s.boot.slot = true then s.boot.goodA else s.boot.goodB) = true → (!s.boot.slot) ∉ s.boot.tried →
      (s.failSlot n).boot.st = .checked ∧ (s.failSlot n).boot.slot = (!s.boot.slot) ∧ (s.failSlot n).mode = s.mode)
    ∧ (((if s.boot.slot = true then s.boot.goodA else s.boot.goodB) = false ∨ (!s.boot.slot) ∈ s.boot.tried) →
      (s.failSlot n).mode = .hold ∧ (s.failSlot n).fld ⟨0x1000, 0, 2⟩ = 3))
  ∧ (∀ s : State, s.mode = .boot → s.boot.st ≠ .held → s.modes.arraysClr = false → ∃ t, exec .arrayClearDone s = .next t
    ∧ t.modes.arraysClr = true ∧ (∀ i, (t.sl i).dir = []) ∧ (∀ m, (t.mp m).ways = []) ∧ t.regs = s.regs)

/-- A record of the image does what it says and the next one begins after its words: PAD skips the rest of its block, WRITE and MASK
write their targets, POLL and WAIT make the loader wait until a match, a limit or a time, END ends the records. A record that
is malformed or of an unlisted kind fails the slot at its offset, as does a POLL that never matched when its limit expires. -/
def Obligations.RecordsTakeEffect : Prop :=
  (∀ (h : Word32) (rest : List Word32) (s : State), s.recordAt h rest →
    let k := bits h 28 4
    let x := bits h 0 28
    (k = 0 → exec .padRecord s = .next (if x ≠ 0 then s.recordFail else { s with boot := s.boot.advance 1023 }))
    ∧ (k = 1 → x % 4 = 0 → x / 2 ^ 24 + 1 ≤ rest.length → exec .writeRecord s = .next
        ((((rest.take (x / 2 ^ 24 + 1)).zipIdx).foldl (fun s e =>
          s.bootWriteAll (BitVec.ofNat 24 x + BitVec.ofNat 24 (4 * e.2)) (fun _ _ => e.1)) s).modBoot (fun b => b.advance (2 + x / 2 ^ 24))))
    ∧ (k = 2 → x / 2 ^ 24 = 0 → x % 4 = 0 → ∀ mask data more, rest = mask :: data :: more → exec .maskRecord s = .next
        ((s.bootWriteAll (BitVec.ofNat 24 x) (fun s a => (s.readWord a &&& ~~~ (regDef a).w1c &&& ~~~ mask) ||| (data &&& mask))).modBoot
          (fun b => b.advance 3)))
    ∧ (k = 3 → x / 2 ^ 24 = 0 → x % 4 = 0 → ∀ mask value limit more, rest = mask :: value :: limit :: more → limit ≠ 0 →
      limit.toNat ≤ 1000000 → exec .pollRecord s = .next { s with boot := { s.boot with
        waiting := .poll (BitVec.ofNat 24 x) mask value s.now limit.toNat } })
    ∧ (k = 4 → x / 2 ^ 24 = 0 → x ≠ 0 → exec .waitRecord s = .next { s with boot := { s.boot with
        waiting := .wait (s.now + 1000 * x) } })
    ∧ (k = 15 → exec .endRecord s = .next (if x ≠ 0 then s.recordFail else { s with boot := { s.boot with
        ended := true, bufs := [], index := 0 } }))
    ∧ (k = 1 → (x % 4 ≠ 0 ∨ rest.length ≤ x / 2 ^ 24) → exec .writeRecord s = .next s.recordFail)
    ∧ (k = 2 → (x / 2 ^ 24 ≠ 0 ∨ x % 4 ≠ 0 ∨ rest.length < 2) → exec .maskRecord s = .next s.recordFail)
    ∧ (k = 3 → (x / 2 ^ 24 ≠ 0 ∨ x % 4 ≠ 0 ∨ rest.length < 3 ∨ rest.getD 2 0 = 0 ∨ 1000000 < (rest.getD 2 0).toNat) →
      exec .pollRecord s = .next s.recordFail)
    ∧ (k = 4 → (x / 2 ^ 24 ≠ 0 ∨ x = 0) → exec .waitRecord s = .next s.recordFail)
    ∧ (5 ≤ k → k ≠ 15 → ∀ c, (c = .padRecord ∨ c = .writeRecord ∨ c = .maskRecord ∨ c = .pollRecord ∨ c = .waitRecord ∨ c = .endRecord) →
      exec c s = .next s.recordFail)
    ∧ (∀ n, (s.boot.index + n < 1023 → (s.boot.advance n).index = s.boot.index + n ∧ (s.boot.advance n).bufs = s.boot.bufs)
      ∧ (1023 ≤ s.boot.index + n → (s.boot.advance n).index = 0 ∧ (s.boot.advance n).bufs = s.boot.bufs.drop 1
        ∧ (s.boot.advance n).base = s.boot.base + 1)))
  ∧ ((∀ (a : RegAddr) (mask v : Word32) (t0 lim : Nat) (s : State), s.booting .body = true → s.boot.waiting = .poll a mask v t0 lim →
    exec .pollRead s = .next (if (s.pollOnce a mask v).2 = true then (s.pollOnce a mask v).1.modBoot (fun b => b.advance 4)
      else (s.pollOnce a mask v).1)
    ∧ let u := s.reach (t0 + 1000 * lim)
      exec .pollLimitExpiry s = .next (if (u.pollOnce a mask v).2 = true then (u.pollOnce a mask v).1.modBoot (fun b => b.advance 4)
        else (u.pollOnce a mask v).1.failAt 9 (u.pollOnce a mask v).1.boot.offset))
  ∧ (∀ (a : Nat) (adr : RegAddr) (mask v : Word32) (s : State), s.targets adr = [a] → s.readOne a = (s, s.readWord a) →
    s.pollOnce adr mask v = (s, decide (s.readWord a &&& mask = v)))
  ∧ (∀ (till : Nat) (s : State), s.booting .body = true → s.boot.waiting = .wait till → ∃ t, exec .waitExpiry s = .next t
    ∧ t.boot = s.boot.advance 1 ∧ t.now = max s.now till ∧ t.regs = s.regs ∧ t.slices = s.slices))

/-! ## Registers, events, counters -/

/-- A register command of a source that is there: in BOOT a write, and a read outside the global and the boot block, answers NOT_READY
and does nothing; else a write has its effect, the Cox write of a cycle is applied and the host's is COLLIDED where they
meet, and a read answers the word its address gives, of a window its lowest member's, with the UNIFORM pair. An access of
the TAP is the host port's, and without the unlock it is nothing. -/
def Obligations.RegisterCommands : Prop :=
  ((∀ (src : RegSrc) (w : RegWrite) (a : RegAddr) (s : State), s.srcUp src = true → s.mode = .boot →
    exec (.registerWrite src w none) s = .next (s.respond src 0 .notReady)
    ∧ (0x2000 ≤ a.toNat → exec (.broadcastRead src a) s = .next (s.respond src 0 .notReady)))
  ∧ (∀ (w : RegWrite) (o : Option RegWrite) (s : State), s.mode ≠ .boot → (o = none ∨ s.srcUp .cox = false) →
    s.srcUp .host = true → exec (.registerWrite .host w o) s = .next ((s.writeReg w false []).respond .host 0 .ok))
  ∧ (∀ (w : RegWrite) (s : State), s.mode ≠ .boot → s.srcUp .cox = true →
    exec (.registerWrite .cox w none) s = .next ((s.writeReg w true []).respond .cox 0 .ok))
  ∧ (∀ (h c : RegWrite) (s : State), s.mode ≠ .boot → s.srcUp .host = true → s.srcUp .cox = true →
    (s.collisions h c = [] → (s.commands h 0x1028 0 || s.commands c 0x1028 0) = false → exec (.registerWrite .host h (some c)) s
      = .next (((if writeRank c.addr.toNat < writeRank h.addr.toNat then (s.writeReg c true []).writeReg h false []
          else (s.writeReg h false []).writeReg c true []).respond .host 0 .ok).respond .cox 0 .ok))
    ∧ (s.collisions h c ≠ [] → ∃ t, exec (.registerWrite .host h (some c)) s = .next t
      ∧ t.hostRsp = some (RegRsp.mk 0 .collided) ∧ t.coxRsp = some (RegRsp.mk 0 .ok)
      ∧ exec (.registerWrite .cox c (some h)) s = .next t))
  ∧ (∀ (be : BitVec 4) (d : Word32) (s : State), s.srcUp .host = true → s.mode ≠ .boot →
    ∃ t, exec (.registerWrite .host { addr := 0x14, be := be, data := d } none) s = .next t ∧ t.reg 0x14 = mergeBe (s.reg 0x14) d be
      ∧ (∀ a, a ≠ 0x14 → t.reg a = s.reg a) ∧ t.hostOut = (if s.hostOut.length < 8 then s.hostOut else s.hostOut.drop 1) ++ [RegRsp.mk 0 .ok]
      ∧ t = { s with regs := t.regs, hostRsp := some (RegRsp.mk 0 .ok), hostOut := t.hostOut, mesh := t.mesh })
  ∧ (∀ (src : RegSrc) (a : RegAddr) (s : State), s.srcUp src = true → (s.mode ≠ .boot ∨ a.toNat < 0x2000) →
    exec (.broadcastRead src a) s = .next ((s.readReg src a).1.respond src (s.readReg src a).2 .ok))
  ∧ (∀ (wr : Bool) (a : RegAddr) (d : Word32) (s : State),
    let u := (s.crossing .service 33).crossing .service 34
    (s.srcUp .jtag = true → (wr = true → exec (.jtagRegacc wr a d) s
        = .next ((u.writeReg { addr := a, be := 0xF, data := d } false []).respond .host 0 .ok))
      ∧ (wr = false → exec (.jtagRegacc wr a d) s = .next ((u.readReg .jtag a).1.respond .host (u.readReg .jtag a).2 .ok)))
    ∧ (s.srcUp .jtag = false → exec (.jtagRegacc wr a d) s = .next s)))
  ∧ ((∀ (src : RegSrc) (addr : RegAddr) (u a : Nat) (ms : List (Nat × Nat)) (s : State),
    s.members (addr.toNat / 4 * 4) = some ((u, a) :: ms) → (∀ b ∈ (u, a) :: ms, s.shutAt b.2 = none) →
    let at_ := if src = .cox then 0x1038 else 0x1030
    let v := s.readWord a
    (s.readReg src addr).2 = v ∧ (s.readReg src addr).1.reg at_ = BitVec.ofNat 32 (addr.toNat / 4 * 4)
    ∧ ((∀ b ∈ ms, s.readWord b.2 = v) → (s.readReg src addr).1.reg (at_ + 4)
        = fields [(0, 1), (2, ms.length + 1), (9, 0x7F)])
    ∧ ((∃ b ∈ ms, s.readWord b.2 ≠ v) → ((s.readReg src addr).1.reg (at_ + 4)).getLsbD 0 = false)
    ∧ (∀ b, b ≠ at_ → b ≠ at_ + 4 → (s.readReg src addr).1.reg b = s.reg b))
  ∧ (∀ (a : Nat) (d : Word32) (cox : Bool) (s : State), s.writeOne a d 0 cox = s.regTravel a)
  ∧ (∀ (i : SliceId) (o : Nat) (s : State), (s.sl i).active = false → s.woSl i o = s))

/-- Each event message, and each change of a global source, is taken in order: an edge source becomes PENDING at a 1, or remembers it
while ACTIVE; a level source that is not ACTIVE follows its input. A completion by the claimant ends the claim; any other is
counted. EV_SRC takes the fields written, TGT_CTRL its edges in ascending order. -/
def Obligations.EventsAreTakenAndEnded : Prop :=
  (∀ (i : BitVec 11) (v : Bool) (ms : List (BitVec 11 × Bool)) (s : State),
    let e := s.ev i.toNat
    let r := { e with
      input := v, pending := if e.active = true then e.pending else if e.trig = true then e.pending || v else v,
      edge := if e.trig = true ∧ e.active = true ∧ v = true then true else e.edge }
    (s.events.msgs = (i, v) :: ms → ∃ t, exec .eventMessage s = .next t ∧ t.events.msgs = ms ∧ t.ev i.toNat = r
      ∧ (∀ j, j ≠ i.toNat → t.ev j = s.ev j) ∧ t.events.globs = s.events.globs ∧ t.slices = s.slices ∧ t.atts = s.atts)
    ∧ (s.events.globs = (i, v) :: ms → ∃ t, exec .globalSourceChange s = .next t ∧ t.events.globs = ms ∧ t.ev i.toNat = r
      ∧ (∀ j, j ≠ i.toNat → t.ev j = s.ev j) ∧ t.events.msgs = s.events.msgs ∧ t.slices = s.slices ∧ t.atts = s.atts))
  ∧ ((∀ (n : BitVec 3) (id : BitVec 12) (s : State), s.fwUp = true → id.toNat < 2048 →
    ((s.ev id.toNat).heldBy n = true → ∃ t, exec (.complete n id) s = .next t
      ∧ t.ev id.toNat = { s.ev id.toNat with
          active := false, edge := false, pending := if (s.ev id.toNat).trig = true then (s.ev id.toNat).edge else (s.ev id.toNat).input }
      ∧ (∀ j, j ≠ id.toNat → t.ev j = s.ev j) ∧ t.slices = s.slices ∧ t.atts = s.atts)
    ∧ ((s.ev id.toNat).heldBy n = false → ∃ t, exec (.complete n id) s = .next t ∧ t.events = s.events
      ∧ t.fld ⟨0x12300, 0, 16⟩ = min 65535 (s.fld ⟨0x12300, 0, 16⟩ + 1) ∧ t.fld ⟨0x12300, 16, 11⟩ = id.toNat
      ∧ t.fld ⟨0x12300, 27, 3⟩ = n.toNat ∧ (∀ a, a ≠ 0x12300 → t.reg a = s.reg a)))
  ∧ (∀ (i : BitVec 11) (d : Word32) (s : State), s.fwUp = true → evReserved i.toNat = false →
    ∃ t, exec (.evSrcWrite i 0xF d) s = .next t ∧ (t.ev i.toNat).prio = d.extractLsb' 0 8 ∧ (t.ev i.toNat).targets = d.extractLsb' 8 8
      ∧ (t.ev i.toNat).trig = d.getLsbD 16 ∧ (t.ev i.toNat).active = (s.ev i.toNat).active
      ∧ (t.ev i.toNat).claimant = (s.ev i.toNat).claimant ∧ (∀ j, j ≠ i.toNat → t.ev j = s.ev j) ∧ t.regs = s.regs)
  ∧ (∀ (n : BitVec 3) (d : Word32) (s : State), s.fwUp = true → ∃ t, exec (.tgtCtrlWrite n 0xF d) s = .next t
    ∧ t.fld ⟨0x12008 + 16 * n.toNat, 0, 8⟩ = d.toNat % 256
    ∧ t.fld ⟨0x12008 + 16 * n.toNat, 8, 8⟩ = max (d.toNat % 256) (d.toNat / 256 % 256)
    ∧ t.fld ⟨0x12008 + 16 * n.toNat, 16, 8⟩ = max (max (d.toNat % 256) (d.toNat / 256 % 256)) (d.toNat / 65536 % 256)
    ∧ (∀ a, a ≠ 0x12008 + 16 * n.toNat → t.reg a = s.reg a) ∧ t.events = s.events))

/-- A claim takes the eligible source of least priority, the lowest number among equals: it leaves PENDING, becomes ACTIVE and is
the target's; with none eligible it answers 0xFFF and changes nothing but the answer. -/
def Obligations.ClaimsTakeTheMostUrgent : Prop :=
  ∀ (n : BitVec 3) (src : RegSrc) (s : State), s.srcUp src = true → s.mode ≠ .boot → Store.wf EvSrc.reset s.events.srcs = true →
    (s.eligibles n = [] → ∃ t, exec (.claim n src) s = .next t ∧ t.events.srcs = s.events.srcs
      ∧ t = { s.respond src 0xFFF .ok with events := { s.events with claim := 0xFFF } })
    ∧ (∀ i e, (i, e) ∈ s.eligibles n → (∀ j f, (j, f) ∈ s.eligibles n → e.prio ≤ f.prio ∧ (f.prio = e.prio → i ≤ j)) →
      ∃ t, exec (.claim n src) s = .next t ∧ t.ev i = { e with pending := false, active := true, claimant := n }
        ∧ (∀ j, j ≠ i → t.ev j = s.ev j)
        ∧ (if src = .cox then t.coxRsp else t.hostRsp) = some (RegRsp.mk (BitVec.ofNat 32 i) .ok)
        ∧ t.regs = s.regs ∧ t.slices = s.slices)

/-- A read of the low word of a counter answers bits 31:0 and latches the high bits; the count stays. ARM starts a counter at 2^48 less
its PRESET and DISARM ends it; the wrap of an armed counter sets OVF and goes on from the PRESET with RELOAD and disarmed
without. FREEZE stops the counters and its release lets them go on; CLEAR acts while they are frozen alone. -/
def Obligations.CountersAreReadArmedAndFrozen : Prop :=
  (∀ s : State, s.portUp = true → s.mode ≠ .boot →
    (∀ i : Fin 3584, s.cntShut i.val = false → cReserved i.val = false → ∃ t, exec (.cntLoRead i) s = .next t
      ∧ t.hostRsp = some (RegRsp.mk ((s.cnt i.val).value.setWidth 32) .ok)
      ∧ t.cnt i.val = { s.cnt i.val with latch := (s.cnt i.val).value.extractLsb' 32 16 }
      ∧ (∀ j, j ≠ i.val → t.cnt j = s.cnt j) ∧ t.regs = s.regs)
    ∧ (∀ d : Fin 40, ∃ t, exec (.dcycLowRead d) s = .next t ∧ t.hostRsp = some (RegRsp.mk ((s.dc d.val).value.setWidth 32) .ok)
      ∧ t.dc d.val = { s.dc d.val with latch := (s.dc d.val).value.extractLsb' 32 16 } ∧ (∀ j, j ≠ d.val → t.dc j = s.dc j)
      ∧ t.regs = s.regs)
    ∧ (∀ i : Fin 80, (∃ t, exec (.prbCntLowRead i false) s = .next t
        ∧ t.hostRsp = some (RegRsp.mk ((s.router i.val).prb0.setWidth 32) .ok)
        ∧ t.router i.val = { s.router i.val with latch0 := (s.router i.val).prb0.extractLsb' 32 16 }
        ∧ ∀ j, j ≠ i.val → t.router j = s.router j)
      ∧ ∃ t, exec (.prbCntLowRead i true) s = .next t ∧ t.hostRsp = some (RegRsp.mk ((s.router i.val).prb1.setWidth 32) .ok)
        ∧ t.router i.val = { s.router i.val with latch1 := (s.router i.val).prb1.extractLsb' 32 16 }
        ∧ ∀ j, j ≠ i.val → t.router j = s.router j)
    ∧ ∃ t, exec .tbNowLoRead s = .next t ∧ t.hostRsp = some (RegRsp.mk (BitVec.ofNat 32 s.now) .ok) ∧ t.now = s.now
      ∧ t.plinth.hiLatch = BitVec.ofNat 32 (s.now / 2 ^ 32) ∧ t.regs = s.regs)
  ∧ ((∀ (i : Fin 3584) (s : State), s.fwUp = true → s.cntShut i.val = false → cReserved i.val = false →
    (∃ t, exec (.arm i) s = .next t ∧ t.cnt i.val = { s.cnt i.val with
        value := BitVec.ofNat 48 (2 ^ 48 - (s.cnt i.val).preset.toNat), armed := true }
      ∧ (∀ j, j ≠ i.val → t.cnt j = s.cnt j) ∧ t.regs = s.regs)
    ∧ ∃ t, exec (.disarm i) s = .next t ∧ t.cnt i.val = { s.cnt i.val with armed := false }
      ∧ (∀ j, j ≠ i.val → t.cnt j = s.cnt j) ∧ t.regs = s.regs)
  ∧ (∀ (i : Fin 3584) (n : BitVec 16) (s : State), cReserved i.val = false → s.counts.frozen = false →
    (s.cnt i.val).armed = true → 2 ^ 48 ≤ (s.cnt i.val).value.toNat + n.toNat →
    ∃ t, exec (.counterOverflow i n) s = .next t ∧ (t.cnt i.val).ovf = true ∧ (t.cnt i.val).armed = (s.cnt i.val).reload
      ∧ (t.cnt i.val).value = BitVec.ofNat 48 ((s.cnt i.val).value.toNat + n.toNat
          - (if (s.cnt i.val).reload = true then (s.cnt i.val).preset.toNat else 0))
      ∧ (∀ j, j ≠ i.val → t.cnt j = s.cnt j) ∧ t.regs = s.regs ∧ t.atts = s.atts ∧ t.ports = s.ports)
  ∧ (∀ s : State, s.fwUp = true →
    (∃ t, exec .freeze s = .next t ∧ t.counts.frozen = true ∧ t.fld ⟨0x20000, 0, 1⟩ = 1 ∧ t.counts.cnts = s.counts.cnts
      ∧ ∀ i n, t.count i n = t)
    ∧ (∃ t, exec .freezeRelease s = .next t ∧ t.counts.frozen = false ∧ t.fld ⟨0x20000, 0, 1⟩ = 0 ∧ t.counts.cnts = s.counts.cnts)
    ∧ (s.counts.frozen = false → exec .counterClear s = .next s)
    ∧ (s.counts.frozen = true → Store.wf (fun _ => Counter.reset) s.counts.cnts = true → ∃ t, exec .counterClear s = .next t
      ∧ t.regs = s.regs ∧ ∀ i, t.cnt i = { s.cnt i with value := 0, armed := false, ovf := false })))

/-- A snapshot is started for a time given or for one LEAD us on; each domain is captured at its first edge at or after T, or missed
10 us after T (the idle domain is captured then); after the last DONE and the next SEQ stand. A sample record enters the
ring behind the others, or is dropped and counted while it is full, and a gap marker adds its count to LOST. A read of the counter
window is answered with its line; with no request waiting for its entry, no other attachment changes. -/
def Obligations.SnapshotsAndSamplesAreTaken : Prop :=
  ((∀ s : State, s.fwUp = true →
    (s.counts.snap.busy = none → ∃ t, exec .snapGo s = .next t
      ∧ t.counts.snap.busy = some (s.fld ⟨0x20008, 0, 32⟩ + 2 ^ 32 * s.fld ⟨0x2000C, 0, 32⟩)
      ∧ t.counts.snap.left = List.finRange 40 ∧ t.counts.snap.miss = 0 ∧ t.counts.snap.late = 0 ∧ t.counts.snap.done = false
      ∧ t = { s with counts := { s.counts with snap := t.counts.snap } })
    ∧ (s.counts.snap.busy = none → ∃ t, exec .snapNow s = .next t
      ∧ t.counts.snap.busy = some (s.now + 1000 * s.fld ⟨0x20010, 4, 8⟩)
      ∧ t.counts.snap.left = List.finRange 40 ∧ t.counts.snap.miss = 0 ∧ t.counts.snap.late = 0 ∧ t.counts.snap.done = false
      ∧ t = { s with counts := { s.counts with snap := t.counts.snap } })
    ∧ (s.counts.snap.busy ≠ none → ∃ t, exec .snapGo s = .next t ∧ exec .snapNow s = .next t
      ∧ t.fld ⟨0x20010, 16, 16⟩ = min 65535 (s.fld ⟨0x20010, 16, 16⟩ + 1) ∧ t = { s with regs := t.regs }))
  ∧ (∀ (d : Fin 40) (stamp : BitVec 64) (t0 : Nat) (s : State), s.counts.snap.busy = some t0 → d ∈ s.counts.snap.left → t0 ≤ stamp.toNat →
    (s.follower d.val).value ≤ stamp.toNat → ∃ t, exec (.snapCapture d stamp) s = .next t ∧ t.now = max s.now stamp.toNat ∧ d ∉ t.counts.snap.left
      ∧ Store.get (0, 0) t.counts.snap.doms d.val = ((s.dc d.val).value, stamp)
      ∧ t.counts.snap.late.getLsbD d.val = (s.counts.snap.behind || s.counts.snap.late.getLsbD d.val)
      ∧ ((∃ e ∈ s.counts.snap.left, e ≠ d) → t.counts.snap.busy = some t0)
      ∧ ((∀ e ∈ s.counts.snap.left, e = d) → t.counts.snap.busy = none ∧ t.counts.snap.done = true
        ∧ t.counts.snap.seq = s.counts.snap.seq + 1 ∧ t.fld ⟨0x20010, 3, 1⟩ = 1))
  ∧ (∀ (d : Fin 40) (t0 : Nat) (s : State), s.counts.snap.busy = some t0 → d ∈ s.counts.snap.left →
    ∃ t, exec (.snapDomainTimeout d) s = .next t ∧ t.now = max s.now (t0 + 10000) ∧ d ∉ t.counts.snap.left
      ∧ (d.val ≠ 36 → t.counts.snap.miss.getLsbD d.val = true ∧ Store.get (0, 0) t.counts.snap.doms d.val = (0, 0))
      ∧ (d.val = 36 → t.counts.snap.idle = true ∧ t.counts.snap.miss = s.counts.snap.miss
        ∧ Store.get (0, 0) t.counts.snap.doms 36 = ((s.dc 36).value, BitVec.ofNat 64 t0))))
  ∧ ((∀ (r : BitVec 512) (rest : List (Obs (BitVec 512))) (s : State), s.counts.recQ = .item r :: rest →
    (s.ringOcc < 4096 → ∃ t, exec .sampleRecord s = .next t ∧ t.counts.recQ = rest
      ∧ t.ringAt (s.fld ⟨0x20060, 0, 13⟩ % 4096) = r ∧ t.fld ⟨0x20060, 0, 13⟩ = (s.fld ⟨0x20060, 0, 13⟩ + 1) % 8192
      ∧ (∀ e, e ≠ s.fld ⟨0x20060, 0, 13⟩ % 4096 → t.ringAt e = s.ringAt e) ∧ t.slices = s.slices)
    ∧ (4096 ≤ s.ringOcc → ∃ t, exec .sampleRecord s = .next t ∧ t.counts = { s.counts with recQ := rest, recLast := some (.item r) }
      ∧ t.fld ⟨0x20064, 0, 16⟩ = min 65535 (s.fld ⟨0x20064, 0, 16⟩ + 1)))
  ∧ (∀ (n : Nat) (rest : List (Obs (BitVec 512))) (s : State), s.counts.recQ = .gap n :: rest → ∃ t, exec .sampleRecord s = .next t
    ∧ t.counts = { s.counts with recQ := rest, recLast := some (.gap n) }
    ∧ t.fld ⟨0x20064, 0, 16⟩ = min 65535 (s.fld ⟨0x20064, 0, 16⟩ + n))
  ∧ (∀ (la : AttId) (r : Req) (rest : List Req) (s : State), (s.att la).winRd = r :: rest → (s.att la).waitIn = [] →
    ∃ t, exec (.counterWindowRead la) s = .next t ∧ (t.att la).winRd = rest
      ∧ (∃ n, (t.att la).drsQ = (s.att la).drsQ ++ [(n, Drs.mk r.q.agent r.q.tag 0 0 false (s.winLine (r.q.laddr.toNat % 8192)) none)])
      ∧ (∀ k, k ≠ la → t.att k = s.att k) ∧ t.slices = s.slices ∧ t.ports = s.ports)
  ∧ (∀ (n k : Nat) (s : State), n < 448 → k < 8 → ((s.winLine n).extractLsb' (64 * k) 64) = (s.cnt (8 * n + k)).value.setWidth 64))

/-! ## Cox, sensors, mailbox, time -/

/-- Cox restarts by command, by its watchdog and by a fault, with the cause recorded; the command counts the restart and ends an
update of Cox's. A kick begins the watchdog's period again. The restart ends with the section checked, reloaded, or failed. -/
def Obligations.CoxRestarts : Prop :=
  (∀ s : State, s.fwUp = true → ∃ t, exec .coxReset s = .next t ∧ t.cox.running = false ∧ t.cox.restart = true ∧ t.cox.upd = none
    ∧ t.fld ⟨0x30004, 1, 2⟩ = 1 ∧ t.fld ⟨0x30004, 5, 16⟩ = min 65535 (s.fld ⟨0x30004, 5, 16⟩ + 1) ∧ t.slices = s.slices ∧ t.atts = s.atts)
  ∧ (∀ s : State, s.cox.running = true → s.wdtOn = true → s.mode ≠ .rest → ∃ t, exec .watchdogExpiry s = .next t
    ∧ t.cox.running = false ∧ t.cox.restart = true ∧ t.fld ⟨0x30004, 1, 2⟩ = 2 ∧ t.now = max s.now (s.cox.wdtFrom + s.wdtLen)
    ∧ t.slices = s.slices ∧ t.atts = s.atts)
  ∧ (∀ s : State, s.cox.running = true → s.mode ≠ .rest →
    (∃ t, exec .coxFault s = .next t ∧ t.cox.running = false ∧ t.cox.restart = true ∧ t.fld ⟨0x30004, 1, 2⟩ = 3 ∧ t.now = s.now
      ∧ t.slices = s.slices ∧ t.atts = s.atts)
    ∧ ∃ t, exec .watchdogKick s = .next t ∧ (s.wdtOn = true → t.cox.wdtFrom = s.now) ∧ t = { s with cox := t.cox })
  ∧ (∀ (a b : List Byte) (s : State), s.cox.restart = true → a.length = s.boot.coxLen → b.length = s.boot.coxLen →
    ∃ t, exec (.coxRestartDone a b) s = .next t ∧ t.cox.restart = false
      ∧ (Config.sha384 a = s.boot.coxHash → t.cox.running = true ∧ t.cox.sram = a
        ∧ t.fld ⟨0x30004, 3, 2⟩ = s.fld ⟨0x30004, 3, 2⟩)
      ∧ (Config.sha384 a ≠ s.boot.coxHash → t.fld ⟨0x30004, 3, 1⟩ = 1 ∧ t.cox.sram = b
        ∧ (Config.sha384 b = s.boot.coxHash → t.cox.running = true ∧ t.fld ⟨0x30004, 4, 1⟩ = s.fld ⟨0x30004, 4, 1⟩)
        ∧ (Config.sha384 b ≠ s.boot.coxHash → t.cox.running = s.cox.running ∧ t.fld ⟨0x30004, 4, 1⟩ = 1)))

/-- A sensor's reading stands in its register, its flags following thresholds with hysteresis. A clock monitor follows its domain;
the loss of a clock that the block cannot do without is FATAL with cause 9, and with its clocks back a warm reset that waits in REST
takes effect. -/
def Obligations.SensorsAndClocks : Prop :=
  (∀ (i : Fin 12) (v : BitVec 12) (s : State), s.portUp = true → ∃ t, exec (.sensorSample (.thermal i v)) s = .next t
    ∧ t.fld ⟨0x30400 + 4 * i.val, 0, 12⟩ = v.toNat
    ∧ t.fld ⟨0x30400 + 4 * i.val, 12, 1⟩ = (hystFlag (decide (s.fld ⟨0x30400 + 4 * i.val, 12, 1⟩ = 1)) (toInt 12 v.toNat)
        (s.fld ⟨0x30480, 0, 8⟩) (s.fld ⟨0x30480, 16, 4⟩)).toNat
    ∧ t.fld ⟨0x30400 + 4 * i.val, 13, 1⟩ = (hystFlag (decide (s.fld ⟨0x30400 + 4 * i.val, 13, 1⟩ = 1)) (toInt 12 v.toNat)
        (s.fld ⟨0x30480, 8, 8⟩) (s.fld ⟨0x30480, 16, 4⟩)).toNat
    ∧ (t.fld ⟨0x30400 + 4 * i.val, 13, 1⟩ = 1 → t.pins.thermTrip = true)
    ∧ (∀ a, a ≠ 0x30400 + 4 * i.val → t.reg a = s.reg a) ∧ t.slices = s.slices)
  ∧ (∀ (i : Fin 6) (d : BitVec 8) (s : State), s.portUp = true → ∃ t, exec (.sensorSample (.droop i d)) s = .next t
    ∧ t.fld ⟨0x30440 + 4 * i.val, 0, 8⟩ = d.toNat ∧ (i.val < 4 → Store.get 0 t.modes.droops i.val = d) ∧ t.level = s.level
    ∧ t.mode = s.mode ∧ t.slices = s.slices)
  ∧ (∀ (i : Fin 4) (n : BitVec 20) (s : State), s.portUp = true → ∃ t, exec (.sensorSample (.aging i n)) s = .next t
    ∧ t.fld ⟨0x30460 + 4 * i.val, 0, 20⟩ = n.toNat ∧ t.fld ⟨0x30460 + 4 * i.val, 20, 12⟩ = t.degrade i.val % 4096
    ∧ t.mode = s.mode ∧ t.slices = s.slices)
  ∧ (∀ (d : Fin 40) (s : State), s.mode ≠ .off → ∃ t, exec (.clockAbsent d) s = .next t ∧ t.cox.clkPres.getLsbD d.val = false
    ∧ (∀ j, j ≠ d.val → t.cox.clkPres.getLsbD j = s.cox.clkPres.getLsbD j)
    ∧ (s.cox.clkPres.getLsbD d.val = true → s.clkFatal d.val = true → s.portUp = true → s.held = false → t.mode = .hold
      ∧ t.fld ⟨0x70100, 0, 8⟩ = 9 ∧ t.fld ⟨0x70104, 3, 7⟩ = d.val)
    ∧ ((s.cox.clkPres.getLsbD d.val = false ∨ s.clkFatal d.val = false ∨ s.portUp = false) → t.mode = s.mode ∧ t.regs = s.regs))
  ∧ (∀ (d : Fin 40) (s : State), (s.mode ≠ .rest ∨ s.modes.warm = none) → ∃ t, exec (.clockPresent d) s = .next t ∧ t.cox.clkPres.getLsbD d.val = true
    ∧ (∀ j, j ≠ d.val → t.cox.clkPres.getLsbD j = s.cox.clkPres.getLsbD j) ∧ t.mode = s.mode ∧ t.regs = s.regs
    ∧ (d.val = 0 → t.modes.railCore = true))
  ∧ (∀ (d : Fin 40) (s : State), s.mode = .rest → s.modes.warm.isSome = true → s.modes.warmPin = true →
    (∀ j, j < 40 → j ≠ d.val → s.cox.clkPres.getLsbD j = true) → ∃ t, exec (.clockPresent d) s = .next t ∧ t.mode = .boot
      ∧ t.modes.warmDone = true ∧ t.modes.afterWarm = true)

/-- The event log takes the oldest hardware record at its head, with its type, its data and the next sequence number. A journal
record is programmed and committed where its read-back matches, and counted as failed else. HOLD by firmware is FATAL with
cause 0xB; FLUSH there writes every bank back. The Plinth counts its minutes, and follows the unlock pin. -/
def Obligations.LogsAndHold : Prop :=
  (∀ (r : LogRec) (rest : List (Obs LogRec)) (s : State), s.portUp = true → s.cox.logQ = .item r :: rest →
    ∃ t, exec (.eventLogRecord none) s = .next t ∧ t.cox.logQ = rest ∧ t.cox.logSeq = s.cox.logSeq + 1
      ∧ t.fld ⟨0x30800, 0, 11⟩ = (s.fld ⟨0x30800, 0, 11⟩ + 1) % 2048
      ∧ ((Store.get 0 t.cox.log (s.fld ⟨0x30800, 0, 11⟩)).extractLsb' 64 16 = r.type)
      ∧ ((Store.get 0 t.cox.log (s.fld ⟨0x30800, 0, 11⟩)).extractLsb' 96 128 = r.data)
      ∧ ((Store.get 0 t.cox.log (s.fld ⟨0x30800, 0, 11⟩)).extractLsb' 224 32 = s.cox.logSeq) ∧ t.slices = s.slices)
  ∧ (∀ (sec : BitVec 6) (n : BitVec 7) (bs rb : List Byte) (s : State), bs.length = 32 → rb.length = 32 → s.cox.running = true →
    s.mode ≠ .rest → ∃ t, exec (.journalProgram sec n bs rb) s = .next t
      ∧ t.fld ⟨0x30900, 6, 7⟩ = (n.toNat + 1) % 128 ∧ t.fld ⟨0x30900, 0, 6⟩ = (sec.toNat + (if n = 127 then 1 else 0)) % 64
      ∧ (rb = setByte bs 1 0xFF → t.fld ⟨0x30900, 13, 16⟩ = s.fld ⟨0x30900, 13, 16⟩
        ∧ (1, 0x402000 + 4096 * sec.toNat + 32 * n.toNat + 1, [0]) ∈ t.pins.spi)
      ∧ (rb ≠ setByte bs 1 0xFF → t.fld ⟨0x30900, 13, 16⟩ = min 65535 (s.fld ⟨0x30900, 13, 16⟩ + 1)
        ∧ (1, 0x402000 + 4096 * sec.toNat + 32 * n.toNat + 1, [0]) ∉ t.pins.spi)
      ∧ t.slices = s.slices)
  ∧ (∀ s : State, s.fwUp = true → s.held = false → ∃ t, exec .holdEnter s = .next t ∧ t.mode = .hold ∧ t.fld ⟨0x70100, 0, 8⟩ = 0xB
    ∧ t.fld ⟨0x70104, 0, 3⟩ = 4 ∧ t.pins.fatalOut = true ∧ t.reg 0x70108 = BitVec.ofNat 32 s.now ∧ t.slices = s.slices ∧ t.ports = s.ports
    ∧ ∀ k, (t.att k).order = [] ∧ (t.att k).waitIn = [])
  ∧ (∀ s : State, s.fwUp = true → s.held = true → s.fld ⟨0x70114, 0, 1⟩ = 0 → exec .holdFlush s
    = .next ((allPorts.foldl State.flush ((s.putF ⟨0x70114, 0, 1⟩ 1).putF ⟨0x70114, 1, 1⟩ 0)).holdSettle))
  ∧ (∀ s : State, s.modes.railAon = true → s.modes.aonPin = false → ∃ t, exec .operatingMinute s = .next t
    ∧ (s.mode = .rest → t = { s with plinth := { s.plinth with rest := s.plinth.rest + 1 } })
    ∧ (s.mode ≠ .rest → t = { s with plinth := { s.plinth with active := s.plinth.active + 1 } }))
  ∧ (∀ (v : Bool) (s : State), exec (.debugUnlock v) s = .next { s with plinth := { s.plinth with dbgPin := v } })

/-- A post fills the host's channel, or is dropped and counted while it is full; Cox takes a message and clears its flag; a reply is
posted on its channel; the sideband writes and reads its own. Cox answers a message it has taken, of this OPC and the LEN its
command wants, with OPC + 0x80, the SEQ, STATUS 0 and the payload its command gives; an index out of range is BAD_ARG. -/
def Obligations.TheMailboxAnswers : Prop :=
  ((∀ s : State, s.fwUp = true →
    (s.cox.h2cFull = false → ∃ t, exec .mailboxPost s = .next t ∧ t.cox = { s.cox with h2cFull := true } ∧ t.regs = s.regs
      ∧ t.events.globs = s.events.globs ++ [(BitVec.ofNat 11 (evG 32), true), (BitVec.ofNat 11 (evG 32), false)])
    ∧ (s.cox.h2cFull = true → ∃ t, exec .mailboxPost s = .next t ∧ t.cox = s.cox
      ∧ t.fld ⟨0x30140, 8, 8⟩ = min 255 (s.fld ⟨0x30140, 8, 8⟩ + 1))
    ∧ exec .mailboxTaken s = .next { s with cox := { s.cox with c2hReady := false } })
  ∧ (∀ s : State, s.coxUp = true →
    (s.cox.h2cFull = true → exec (.mailboxTake .host) s
      = .next { s with cox := { s.cox with h2cTaken := s.h2c, h2cFull := false } })
    ∧ (s.cox.s2cFull = true → exec (.mailboxTake .sideband) s
      = .next { s with cox := { s.cox with s2cTaken := s.cox.s2c, s2cFull := false } })
    ∧ (∀ msg : List Byte, msg.length ≤ 64 →
      (∃ t, exec (.mailboxReply .host msg) s = .next t ∧ t.cox = { s.cox with c2h := pad64 msg, c2hReady := true } ∧ t.regs = s.regs)
      ∧ ∃ t, exec (.mailboxReply .sideband msg) s = .next t ∧ t.cox = { s.cox with c2s := pad64 msg, c2sReady := true } ∧ t.regs = s.regs))
  ∧ (∀ (bs : List Byte) (p : Option Byte) (s : State), bs ≠ [] → bs.length ≤ 64 → s.portUp = true → s.cox.s2cFull = false →
    ((p = none ∨ p = some (pec ([s.sbAddr false, 0x10, BitVec.ofNat 8 bs.length] ++ bs))) → ∃ t, exec (.sbBlockWrite bs p) s = .next t
      ∧ t.cox = { s.cox with s2c := pad64 bs, s2cFull := true } ∧ t.regs = s.regs)
    ∧ (∀ c, p = some c → c ≠ pec ([s.sbAddr false, 0x10, BitVec.ofNat 8 bs.length] ++ bs) → ∃ t, exec (.sbBlockWrite bs p) s = .next t
      ∧ t.cox = s.cox ∧ t.fld ⟨0x30240, 8, 8⟩ = min 255 (s.fld ⟨0x30240, 8, 8⟩ + 1)))
  ∧ (∀ (x : Bool) (s : State), s.portUp = true →
    (∃ t, exec (.sbBlockRead x) s = .next t ∧ t.cox.c2sReady = false ∧ t = { s with cox := t.cox, mesh := t.mesh }
      ∧ let d := if s.cox.c2sReady = true then s.cox.c2s else List.replicate 64 0
        t.cox.sbOut = if x = true then d ++ [pec ([s.sbAddr false, 0x11, s.sbAddr true, 64] ++ d)] else d)
    ∧ ∃ t, exec (.sbReadByte x) s = .next t ∧ t = { s with cox := { s.cox with sbOut := t.cox.sbOut }, mesh := t.mesh }
      ∧ t.cox.sbOut.head? = some (BitVec.ofNat 8 (s.cox.s2cFull.toNat + 2 * s.cox.c2sReady.toNat))))
  ∧ ((∀ (ch : MbxCh) (v : Word32) (s : State), s.coxUp = true → s.hasTaken ch 0x01 0 → ∃ t, exec (.getInfo ch v) s = .next t
    ∧ t.posted ch = pad64 (replyTo (s.taken ch) 0 ([s.reg 4, s.reg 0x100C, s.reg 0x1008, v].flatMap (fun w => bytesOfNat 4 w.toNat)))
    ∧ t.taken ch = [] ∧ t.regs = s.regs ∧ t.slices = s.slices)
  ∧ (∀ (ch : MbxCh) (s : State), s.coxUp = true → s.hasTaken ch 0x02 2 →
    let n := natOfBytes (slice (s.taken ch) 4 2)
    ∃ t, exec (.readLog ch) s = .next t ∧ t.taken ch = [] ∧ t.regs = s.regs ∧ t.cox.log = s.cox.log
      ∧ (2048 ≤ n → t.posted ch = pad64 (replyTo (s.taken ch) 2 []))
      ∧ (n < 2048 → t.posted ch = pad64 (replyTo (s.taken ch) 0
          (bytesOfNat 32 (Store.get 0 s.cox.log n).toNat ++ bytesOfNat 2 ((n + 1) % 2048)))))
  ∧ (∀ (ch : MbxCh) (r : List Byte) (s : State), r.length = 32 → s.coxUp = true → s.hasTaken ch 0x03 2 →
    let p := slice (s.taken ch) 4 2
    ∃ t, exec (.readJournal ch r) s = .next t ∧ t.taken ch = [] ∧ t.regs = s.regs
      ∧ ((64 ≤ hdrNat p 0 1 ∨ 128 ≤ hdrNat p 1 1) → t.posted ch = pad64 (replyTo (s.taken ch) 2 []))
      ∧ (hdrNat p 0 1 < 64 → hdrNat p 1 1 < 128 → t.posted ch = pad64 (replyTo (s.taken ch) 0 r)))
  ∧ (∀ (ch : MbxCh) (s : State), s.coxUp = true → s.hasTaken ch 0x04 0 → ∃ t, exec (.readSensors ch) s = .next t
    ∧ t.posted ch = pad64 (replyTo (s.taken ch) 0 ((List.range 12).flatMap s.temp2
        ++ (List.range 6).flatMap (fun i => bytesOfNat 1 (s.fld ⟨0x30440 + 4 * i, 0, 8⟩))
        ++ (List.range 4).flatMap (fun i => bytesOfNat 2 (s.degrade i)))) ∧ t.taken ch = [] ∧ t.regs = s.regs)
  ∧ (∀ (ch : MbxCh) (a r : Word32) (s : State), s.coxUp = true → s.hasTaken ch 0x05 0 → ∃ t d, exec (.getLife ch a r) s = .next t
    ∧ t.posted ch = pad64 (replyTo (s.taken ch) 0 (bytesOfNat 4 (a + s.plinth.active).toNat ++ bytesOfNat 4 (r + s.plinth.rest).toNat
        ++ bytesOfNat 2 d)) ∧ (∀ i, i < 4 → s.degrade i ≤ d) ∧ t.taken ch = [] ∧ t.regs = s.regs))

/-- BEGIN opens an update into the slot that is not running and erases it, unless the other channel has one open (BUSY); DATA
programs the body and holds the header; COMMIT writes a header that passes its checks with the body as read back, and
else is VERIFY_FAIL; CONFIRM raises the anchor to the SVN of a running image that is the committed one; ABORT ends the
update. Where no update is open on the channel the STATUS is left open, and nothing else happens. A program that a guard of
the flash refuses changes nothing there and sets GUARD. What DATA beyond its slot answers is the model's choice (log 35). -/
def Obligations.UpdatesAreWritten : Prop :=
  (∀ (ch : MbxCh) (s : State), s.coxUp = true → s.hasTaken ch 0x10 0 →
    ((∀ u, s.cox.upd = some u → u.ch = ch) → ∃ t, exec (.updBegin ch) s = .next t
      ∧ t.posted ch = pad64 (replyTo (s.taken ch) 0 []) ∧ t.cox.upd = some (Upd.mk ch s.target erasedHdr)
      ∧ t.boot.hdr s.target = erasedHdr ∧ t.pins.spi = [(2, slotBase s.target, [])] ∧ t.fld ⟨0x30A00, 0, 1⟩ = 1
      ∧ t.fld ⟨0x30A00, 2, 1⟩ = s.target.toNat)
    ∧ (∀ u, s.cox.upd = some u → u.ch ≠ ch → ∃ t, exec (.updBegin ch) s = .next t
      ∧ t.posted ch = pad64 (replyTo (s.taken ch) 3 []) ∧ t.cox.upd = s.cox.upd ∧ t.regs = s.regs ∧ t.pins = s.pins))
  ∧ (∀ (ch : MbxCh) (u : Upd) (s : State), s.coxUp = true → s.hasTaken ch 0x11 52 → s.cox.upd = some u → u.ch = ch →
    let off := natOfBytes (slice (slice (s.taken ch) 4 52) 0 4)
    let data := slice (slice (s.taken ch) 4 52) 4 48
    (0x200000 < off + 48 → ∃ t, exec (.updData ch) s = .next t ∧ t.cox.upd = s.cox.upd ∧ t.pins = s.pins
      ∧ (s.guarded (1, slotBase u.target + off, data) = false → t.posted ch = pad64 (replyTo (s.taken ch) 2 []) ∧ t.regs = s.regs)
      ∧ (s.guarded (1, slotBase u.target + off, data) = true → t.fld ⟨0x30A00, 1, 1⟩ = 1
        ∧ ∃ b, t.posted ch = pad64 (replyTo (s.taken ch) b [])))
    ∧ (512 ≤ off → off + 48 ≤ 0x200000 → ∃ t, exec (.updData ch) s = .next t ∧ t.posted ch = pad64 (replyTo (s.taken ch) 0 [])
      ∧ t.cox.upd = s.cox.upd ∧ s.programs t (1, slotBase u.target + off, data))
    ∧ (off + 48 ≤ 512 → ∃ t, exec (.updData ch) s = .next t ∧ t.posted ch = pad64 (replyTo (s.taken ch) 0 [])
      ∧ t.cox.upd = some { u with hdr := putList u.hdr off data } ∧ t.pins = s.pins)
    ∧ (off < 512 → 512 < off + 48 → ∃ t, exec (.updData ch) s = .next t ∧ t.posted ch = pad64 (replyTo (s.taken ch) 0 [])
      ∧ t.cox.upd = some { u with hdr := putList u.hdr off (data.take (512 - off)) }
      ∧ s.programs t (1, slotBase u.target + 512, data.drop (512 - off))))
  ∧ (∀ (ch : MbxCh) (u : Upd) (body : List Byte) (s : State), s.coxUp = true → s.hasTaken ch 0x12 0 → s.cox.upd = some u → u.ch = ch →
    let good := hdrReason u.hdr s.plinth.keyHash s.svnFloor = 0 ∧ hdrSigned u.hdr = true ∧ s.fld ⟨0x100C, 0, 32⟩ < hdrSeq u.hdr
      ∧ body.length = recLen u.hdr + coxLen u.hdr ∧ Config.sha384 body = bodyHash u.hdr
    ∃ t, exec (.updCommit ch body) s = .next t
      ∧ (good → t.posted ch = pad64 (replyTo (s.taken ch) 0 []) ∧ t.cox.upd = none
        ∧ s.programs t (1, slotBase u.target, u.hdr)
        ∧ t.boot.hdr u.target = if s.guarded (1, slotBase u.target, u.hdr) = true then s.boot.hdr u.target else u.hdr)
      ∧ (¬ good → t.posted ch = pad64 (replyTo (s.taken ch) 4 []) ∧ t.cox.upd = s.cox.upd ∧ t.boot = s.boot ∧ t.pins = s.pins))
  ∧ (∀ (ch : MbxCh) (z : BitVec 17) (s : State), s.coxUp = true → s.hasTaken ch 0x13 0 →
    (s.fld ⟨0x1000, 14, 1⟩ = 0 ∨ s.runsCommitted = false → ∃ t, exec (.updConfirm ch z) s = .next t
      ∧ t.posted ch = pad64 (replyTo (s.taken ch) 3 []) ∧ t.boot = s.boot ∧ t.pins = s.pins)
    ∧ (s.fld ⟨0x1000, 14, 1⟩ ≠ 0 → s.runsCommitted = true → ∃ t, exec (.updConfirm ch z) s = .next t
      ∧ t.posted ch = pad64 (replyTo (s.taken ch) 0 [])
      ∧ (s.fld ⟨0x1008, 0, 16⟩ ≤ z.toNat → t.boot = s.boot ∧ t.pins = s.pins)
      ∧ (z.toNat < s.fld ⟨0x1008, 0, 16⟩ → s.programs t (1, 0x400000, anchorBytes (s.fld ⟨0x1008, 0, 16⟩))
        ∧ t.boot.anchor.toNat = if s.guarded (1, 0x400000, anchorBytes (s.fld ⟨0x1008, 0, 16⟩)) = true then s.boot.anchor.toNat
          else s.fld ⟨0x1008, 0, 16⟩)))
  ∧ (∀ (ch : MbxCh) (u : Upd) (s : State), s.coxUp = true → s.hasTaken ch 0x14 0 → s.cox.upd = some u → u.ch = ch →
    ∃ t, exec (.updAbort ch) s = .next t ∧ t.posted ch = pad64 (replyTo (s.taken ch) 0 []) ∧ t.cox.upd = none
      ∧ t.fld ⟨0x30A00, 0, 1⟩ = 0 ∧ t.boot = s.boot ∧ t.pins = s.pins)
  ∧ (∀ (ch : MbxCh) (body : List Byte) (c : Instr) (s : State), s.coxUp = true → (∀ u, s.cox.upd = some u → u.ch ≠ ch) →
    (s.hasTaken ch 0x11 52 ∧ c = .updData ch ∨ s.hasTaken ch 0x12 0 ∧ c = .updCommit ch body ∨ s.hasTaken ch 0x14 0 ∧ c = .updAbort ch) →
    ∃ t b, exec c s = .next t ∧ t.posted ch = pad64 (replyTo (s.taken ch) b []) ∧ t.cox.upd = s.cox.upd ∧ t.freeCtr = s.freeCtr + 1
      ∧ t.boot = s.boot ∧ t.pins = s.pins)

/-- TB_SET moves the timebase forward in CALIBRATE with no JOIN running, and is counted else; a pulse is captured, and one less
than half its period after the last is counted; the slew adds 11 or 9 ns in one cycle of clk_ref of every 16 until it is used up. -/
def Obligations.TheTimebaseIsSetAndSlewed : Prop :=
  (∀ s : State, s.fwUp = true →
    let x := s.fld ⟨0x30C08, 0, 32⟩ + 2 ^ 32 * s.fld ⟨0x30C0C, 0, 32⟩
    (s.mode = .calibrate → s.joinsDone = true → s.now < x → ∃ t, exec .tbSet s = .next t ∧ t.now = x
      ∧ t.fld ⟨0x30C14, 24, 8⟩ = s.fld ⟨0x30C14, 24, 8⟩ ∧ t.agents = s.agents ∧ t.atts = s.atts)
    ∧ ((s.mode ≠ .calibrate ∨ s.joinsDone = false ∨ x ≤ s.now) → ∃ t, exec .tbSet s = .next t ∧ t.now = s.now
      ∧ t.fld ⟨0x30C14, 24, 8⟩ = min 255 (s.fld ⟨0x30C14, 24, 8⟩ + 1)))
  ∧ (∀ s : State, s.portUp = true → s.fld ⟨0x30C10, 1, 2⟩ ≠ 0 →
    (∀ p, s.plinth.lastPulse = some p → s.now < p + 500000 * s.fld ⟨0x30C10, 3, 10⟩ → ∃ t, exec .timePulse s = .next t
      ∧ t.fld ⟨0x30C14, 16, 8⟩ = min 255 (s.fld ⟨0x30C14, 16, 8⟩ + 1) ∧ t.plinth = s.plinth)
    ∧ ((∀ p, s.plinth.lastPulse = some p → p + 500000 * s.fld ⟨0x30C10, 3, 10⟩ ≤ s.now) → ∃ t, exec .timePulse s = .next t
      ∧ t.plinth.lastPulse = some s.now ∧ t.reg 0x30C18 = BitVec.ofNat 32 s.now ∧ t.reg 0x30C1C = BitVec.ofNat 32 (s.now / 2 ^ 32)
      ∧ t.fld ⟨0x30C14, 8, 8⟩ = (s.fld ⟨0x30C14, 8, 8⟩ + 1) % 256 ∧ t.now = s.now
      ∧ (s.fld ⟨0x30C10, 1, 2⟩ = 2 → t.plinth.slew = (nearest (1000000 * s.fld ⟨0x30C10, 3, 10⟩) s.now : Int) - s.now)))
  ∧ (∀ s : State, s.refRuns = true → s.plinth.slewNext ≤ s.now →
    (0 < s.plinth.slew → ∃ t, exec .timebaseSlewStep s = .next t ∧ t.now = s.now + 11 ∧ t.plinth.slew = s.plinth.slew - 1
      ∧ t.plinth.slewNext = s.now + 161)
    ∧ (s.plinth.slew < 0 → ∃ t, exec .timebaseSlewStep s = .next t ∧ t.now = s.now + 9 ∧ t.plinth.slew = s.plinth.slew + 1
      ∧ t.plinth.slewNext = s.now + 159))
end

