-- ==== Sys2Proof/Laws/Store.lean ====
section
/-! SUPPORT. The laws of stores: a read after a write, and that writing keeps the canonical form. -/

namespace Sys2Proof.Machine

variable {α : Type} {d : α} {m : Store α} {j k : Nat} {v : α}

@[simp] theorem Store.get_nil : Store.get d ([] : Store α) k = d := rfl

theorem Store.get_above_gt (h : k < j) : Store.get d (Store.above k m) j = Store.get d m j := by
  induction m with
  | nil => rfl
  | cons x m ih =>
    obtain ⟨k', v'⟩ := x
    by_cases hk : k' ≤ k
    · have h1 : ¬ j = k' := by omega
      have h2 : ¬ j < k' := by omega
      simp [Store.above, Store.get, hk, h1, h2, ih]
    · simp [Store.above, hk]

theorem Store.get_above_le (h : j ≤ k) : Store.get d (Store.above k m) j = d := by
  induction m with
  | nil => rfl
  | cons x m ih =>
    obtain ⟨k', v'⟩ := x
    by_cases hk : k' ≤ k
    · simp [Store.above, hk, ih]
    · have h1 : ¬ j = k' := by omega
      have h2 : j < k' := by omega
      simp [Store.above, Store.get, hk, h1, h2]

variable [DecidableEq α]

/-- A read after a write of the same key gives the value written. -/
@[simp] theorem Store.get_set_self : Store.get d (Store.set d m k v) k = v := by
  induction m with
  | nil => by_cases hv : v = d <;> simp [Store.set, Store.get, hv]
  | cons x m ih =>
    obtain ⟨k', v'⟩ := x
    by_cases h1 : k < k'
    · have h2 : ¬ k = k' := by omega
      by_cases hv : v = d <;> simp [Store.set, Store.get, h1, h2, hv]
    · by_cases h2 : k = k'
      · subst h2
        by_cases hv : v = d
        · simp [Store.set, hv, Store.get_above_le]
        · simp [Store.set, Store.get, hv]
      · simp [Store.set, Store.get, h1, h2, ih]

/-- A write leaves every other key alone. -/
theorem Store.get_set_ne {e : α} (h : j ≠ k) : Store.get d (Store.set e m k v) j = Store.get d m j := by
  induction m with
  | nil =>
    by_cases hv : v = e
    · simp [Store.set, hv]
    · simp [Store.set, Store.get, hv, h]
  | cons x m ih =>
    obtain ⟨k', v'⟩ := x
    by_cases h1 : k < k'
    · by_cases hv : v = e
      · simp [Store.set, h1, hv]
      · by_cases hj : j < k
        · have h3 : j < k' := by omega
          have h4 : ¬ j = k' := by omega
          simp [Store.set, Store.get, h1, hv, h, hj, h3, h4]
        · simp [Store.set, Store.get, h1, hv, h, hj]
    · by_cases h2 : k = k'
      · subst h2
        by_cases hv : v = e
        · by_cases hj : j < k
          · simp [Store.set, Store.get, hv, h, hj, Store.get_above_le (Nat.le_of_lt hj)]
          · have h5 : k < j := by omega
            simp [Store.set, Store.get, hv, h, hj, Store.get_above_gt h5]
        · simp [Store.set, Store.get, hv, h]
      · simp [Store.set, Store.get, h1, h2, ih]

/-- A read after a write, at any key. -/
theorem Store.get_set : Store.get d (Store.set d m k v) j = if j = k then v else Store.get d m j := by
  by_cases h : j = k
  · subst h; simp
  · simp [h, Store.get_set_ne h]

variable {f : Nat → α}

/-- The canonical form of a store without its first entry. -/
theorem Store.wf_tail {x : Nat × α} (h : Store.wf f (x :: m) = true) : Store.wf f m = true := by
  simp only [Store.wf, Bool.and_eq_true] at h; exact h.2

/-- What the canonical form says of the first entry. -/
theorem Store.wf_cons {w : α} : Store.wf f ((k, w) :: m) = true ↔
    w ≠ f k ∧ (∀ p ∈ m.head?, k < p.1) ∧ Store.wf f m = true := by
  cases m with
  | nil => simp [Store.wf]
  | cons y m => simp [Store.wf, and_assoc]

theorem Store.above_head {w : α} (h : Store.wf f ((k, w) :: m) = true) : Store.above k m = m := by
  cases m with
  | nil => rfl
  | cons y m =>
    have h1 := (Store.wf_cons.mp h).2.1 y (by simp)
    obtain ⟨k', v'⟩ := y
    have h2 : ¬ k' ≤ k := by simp at h1; omega
    simp [Store.above, h2]

/-- The first key after a write is the first key before it or the key written. -/
theorem Store.head_set {p : Nat × α} (h : p ∈ (Store.set d m k v).head?) (hw : Store.wf f m = true) :
    p.1 = k ∨ ∃ q ∈ m.head?, q.1 ≤ p.1 := by
  cases m with
  | nil => by_cases hv : v = d <;> simp [Store.set, hv] at h; exact .inl (by rw [← h])
  | cons y m =>
    obtain ⟨k', v'⟩ := y
    by_cases h1 : k < k'
    · by_cases hv : v = d
      · simp [Store.set, h1, hv] at h; exact .inr ⟨_, rfl, by rw [← h]⟩
      · simp [Store.set, h1, hv] at h; exact .inl (by rw [← h])
    · by_cases h2 : k = k'
      · subst h2
        by_cases hv : v = d
        · simp [Store.set, hv, Store.above_head hw] at h
          have := (Store.wf_cons.mp hw).2.1 p (by simp [h])
          exact .inr ⟨_, rfl, Nat.le_of_lt this⟩
        · simp [Store.set, hv] at h; exact .inl (by rw [← h])
      · simp [Store.set, h1, h2] at h; exact .inr ⟨_, rfl, by rw [← h]⟩

/-- A write keeps the canonical form. -/
theorem Store.wf_set (h : Store.wf f m = true) : Store.wf f (Store.set (f k) m k v) = true := by
  induction m with
  | nil => by_cases hv : v = f k <;> simp [Store.set, Store.wf, hv]
  | cons x m ih =>
    obtain ⟨k', v'⟩ := x
    have ht := Store.wf_tail h
    have hc := Store.wf_cons.mp h
    by_cases h1 : k < k'
    · by_cases hv : v = f k
      · simp [Store.set, h1, hv, h]
      · simp only [Store.set, h1, hv, if_true, if_false]
        exact Store.wf_cons.mpr ⟨hv, by simpa using h1, h⟩
    · by_cases h2 : k = k'
      · subst h2
        by_cases hv : v = f k
        · simp [Store.set, hv, Store.above_head h, ht]
        · simp only [Store.set, hv, if_false, Nat.lt_irrefl, if_true]
          exact Store.wf_cons.mpr ⟨hv, hc.2.1, ht⟩
      · simp only [Store.set, h1, h2, if_false]
        refine Store.wf_cons.mpr ⟨hc.1, fun p hp => ?_, ih ht⟩
        rcases Store.head_set hp ht with h3 | ⟨q, hq, h3⟩
        · omega
        · have := hc.2.1 q hq; omega

/-- The empty store has the canonical form. -/
@[simp] theorem Store.wf_nil : Store.wf f ([] : Store α) = true := rfl

end Sys2Proof.Machine
end

