-- ==== Sys2Proof/Laws/State.lean ====
section
/-! SUPPORT. What each named operation leaves alone, one lemma per field and operation; what it writes, read back. -/

namespace Sys2Proof.Machine

variable {s : State}

/-! ## Reading back what an operation wrote -/

theorem State.att_setAtt {j k : AttId} {a : Att} : (s.setAtt k a).att j = if j = k then a else s.att j := by
  simp [State.att, State.setAtt, Store.get_set, BitVec.toNat_inj]
theorem State.sl_setSl {i j : SliceId} {x : Slice} : (s.setSl i x).sl j = if j = i then x else s.sl j := by
  simp [State.sl, State.setSl, Store.get_set, BitVec.toNat_inj]
theorem State.mp_setMp {j m : PortId} {x : Port} : (s.setMp m x).mp j = if j = m then x else s.mp j := by
  simp [State.mp, State.setMp, Store.get_set, BitVec.toNat_inj]
theorem State.hist_setHist {a j : AgentId} {x : Hist} : (s.setHist a x).hist j = if j = a then x else s.hist j := by
  simp [State.hist, State.setHist, Store.get_set, BitVec.toNat_inj]
theorem State.router_setRouter {i j : Nat} {x : Router} : (s.setRouter i x).router j = if j = i then x else s.router j := by
  simp [State.router, State.setRouter, Store.get_set]
theorem State.cnt_setCnt {i j : Nat} {x : Counter} : (s.setCnt i x).cnt j = if j = i then x else s.cnt j := by
  simp [State.cnt, State.setCnt, Store.get_set]
theorem State.ev_setEv {i j : Nat} {x : EvSrc} : (s.setEv i x).ev j = if j = i then x else s.ev j := by
  by_cases h : j = i
  · subst h; simp [State.ev, State.setEv]
  · simp [State.ev, State.setEv, h, Store.get_set_ne]
theorem State.reg_setReg {a b : Nat} {w : Word32} : (s.setReg a w).reg b = if b = a then w else s.reg b := by
  by_cases h : b = a
  · subst h; simp [State.reg, State.setReg]
  · simp [State.reg, State.setReg, h, Store.get_set_ne]
/-- Entry 0xFFF of the agent table ignores writes (R52). -/
theorem State.agent_setAgent {a j : AgentId} {x : Agent} :
    (s.setAgent a x).agent j = if j = a ∧ a ≠ 0xFFF then x else s.agent j := by
  unfold State.setAgent
  split
  · simp_all
  · rename_i h; have h1 : ¬ a = 4095#12 := h; simp [State.agent, h1, Store.get_set, BitVec.toNat_inj]

@[simp] theorem State.att_setAtt_self {k : AttId} {a : Att} : (s.setAtt k a).att k = a := by simp [State.att_setAtt]
@[simp] theorem State.att_modAtt_self {k : AttId} {g : Att → Att} : (s.modAtt k g).att k = g (s.att k) := by simp [State.modAtt]
@[simp] theorem State.sl_setSl_self {i : SliceId} {x : Slice} : (s.setSl i x).sl i = x := by simp [State.sl_setSl]
@[simp] theorem State.sl_modSl_self {i : SliceId} {g : Slice → Slice} : (s.modSl i g).sl i = g (s.sl i) := by simp [State.modSl]
@[simp] theorem State.mp_setMp_self {m : PortId} {x : Port} : (s.setMp m x).mp m = x := by simp [State.mp_setMp]
@[simp] theorem State.mp_modMp_self {m : PortId} {g : Port → Port} : (s.modMp m g).mp m = g (s.mp m) := by simp [State.modMp]
@[simp] theorem State.ev_setEv_self {i : Nat} {x : EvSrc} : (s.setEv i x).ev i = x := by simp [State.ev_setEv]
@[simp] theorem State.cnt_setCnt_self {i : Nat} {x : Counter} : (s.setCnt i x).cnt i = x := by simp [State.cnt_setCnt]
@[simp] theorem State.reg_setReg_self {a : Nat} {w : Word32} : (s.setReg a w).reg a = w := by simp [State.reg_setReg]
@[simp] theorem State.router_setRouter_self {i : Nat} {x : Router} : (s.setRouter i x).router i = x := by
  simp [State.router_setRouter]

theorem State.att_modAtt {j k : AttId} {g : Att → Att} : (s.modAtt k g).att j = if j = k then g (s.att k) else s.att j := by
  simp [State.modAtt, State.att_setAtt]
theorem State.sl_modSl {i j : SliceId} {g : Slice → Slice} : (s.modSl i g).sl j = if j = i then g (s.sl i) else s.sl j := by
  simp [State.modSl, State.sl_setSl]
theorem State.mp_modMp {j m : PortId} {g : Port → Port} : (s.modMp m g).mp j = if j = m then g (s.mp m) else s.mp j := by
  simp [State.modMp, State.mp_setMp]
theorem State.agent_modAgent {a j : AgentId} {g : Agent → Agent} :
    (s.modAgent a g).agent j = if j = a ∧ a ≠ 0xFFF then g (s.agent a) else s.agent j := by
  simp [State.modAgent, State.agent_setAgent]

/-! ## Reads that rest on one part of the state -/

variable {t : State}

theorem State.inWindow_of {j : Line} (h0 : t.regs = s.regs) : t.inWindow j = s.inWindow j := by
  unfold State.inWindow State.fld State.reg; rw [h0]
theorem State.inCast_of {j : Line} (h0 : t.regs = s.regs) : t.inCast j = s.inCast j := by
  unfold State.inCast State.castLine0 State.castBase State.castSize State.fld State.reg; rw [h0]
theorem State.homeOf_of {j : BitVec 12} (h0 : t.hmap = s.hmap) : t.homeOf j = s.homeOf j := by
  unfold State.homeOf; rw [h0]
theorem State.edgeHome_of {j : Nat} {b1 : BitVec 12} (h0 : t.hmap = s.hmap) : t.edgeHome j b1 = s.edgeHome j b1 := by
  unfold State.edgeHome State.homeOf; rw [h0]
theorem State.serves_of {j : SliceId} {b1 : BitVec 12} (h0 : t.hmap = s.hmap) : t.serves j b1 = s.serves j b1 := by
  unfold State.serves State.moveOf State.homeOf; rw [h0]
theorem State.attBounces_of {j : AttId} (h0 : ∀ i, t.router i = s.router i) : t.attBounces j = s.attBounces j := by
  unfold State.attBounces State.bounces; rw [h0]
theorem State.portBounces_of {j : PortId} (h0 : ∀ i, t.router i = s.router i) : t.portBounces j = s.portBounces j := by
  unfold State.portBounces State.bounces; rw [h0]
theorem State.attShut_of {j : AttId} (h0 : t.atts = s.atts) : t.attShut j = s.attShut j := by
  unfold State.attShut State.att; rw [h0]
theorem State.mpShut_of {j : PortId} (h0 : t.ports = s.ports) : t.mpShut j = s.mpShut j := by
  unfold State.mpShut State.mp; rw [h0]
theorem State.coxUp_of (h0 : t.cox = s.cox) (h1 : t.modes = s.modes) : t.coxUp = s.coxUp := by
  unfold State.coxUp; rw [h0, h1]

/-! ## setAtt -/

@[simp] theorem State.setAtt_pending {k : AttId} {a : Att} : (s.setAtt k a).pending = s.pending := rfl
@[simp] theorem State.setAtt_modes {k : AttId} {a : Att} : (s.setAtt k a).modes = s.modes := rfl
@[simp] theorem State.setAtt_plinth {k : AttId} {a : Att} : (s.setAtt k a).plinth = s.plinth := rfl
@[simp] theorem State.setAtt_pins {k : AttId} {a : Att} : (s.setAtt k a).pins = s.pins := rfl
@[simp] theorem State.setAtt_boot {k : AttId} {a : Att} : (s.setAtt k a).boot = s.boot := rfl
@[simp] theorem State.setAtt_regs {k : AttId} {a : Att} : (s.setAtt k a).regs = s.regs := rfl
@[simp] theorem State.setAtt_hostRsp {k : AttId} {a : Att} : (s.setAtt k a).hostRsp = s.hostRsp := rfl
@[simp] theorem State.setAtt_hostOut {k : AttId} {a : Att} : (s.setAtt k a).hostOut = s.hostOut := rfl
@[simp] theorem State.setAtt_coxRsp {k : AttId} {a : Att} : (s.setAtt k a).coxRsp = s.coxRsp := rfl
@[simp] theorem State.setAtt_agents {k : AttId} {a : Att} : (s.setAtt k a).agents = s.agents := rfl
@[simp] theorem State.setAtt_hists {k : AttId} {a : Att} : (s.setAtt k a).hists = s.hists := rfl
@[simp] theorem State.setAtt_slices {k : AttId} {a : Att} : (s.setAtt k a).slices = s.slices := rfl
@[simp] theorem State.setAtt_ports {k : AttId} {a : Att} : (s.setAtt k a).ports = s.ports := rfl
@[simp] theorem State.setAtt_mesh {k : AttId} {a : Att} : (s.setAtt k a).mesh = s.mesh := rfl
@[simp] theorem State.setAtt_hmap {k : AttId} {a : Att} : (s.setAtt k a).hmap = s.hmap := rfl
@[simp] theorem State.setAtt_cast {k : AttId} {a : Att} : (s.setAtt k a).cast = s.cast := rfl
@[simp] theorem State.setAtt_events {k : AttId} {a : Att} : (s.setAtt k a).events = s.events := rfl
@[simp] theorem State.setAtt_counts {k : AttId} {a : Att} : (s.setAtt k a).counts = s.counts := rfl
@[simp] theorem State.setAtt_cox {k : AttId} {a : Att} : (s.setAtt k a).cox = s.cox := rfl
@[simp] theorem State.setAtt_calAt {k : AttId} {a : Att} : (s.setAtt k a).calAt = s.calAt := rfl
@[simp] theorem State.setAtt_freeCtr {k : AttId} {a : Att} : (s.setAtt k a).freeCtr = s.freeCtr := rfl
@[simp] theorem State.setAtt_castMem {k : AttId} {a : Att} : (s.setAtt k a).castMem = s.castMem := rfl
@[simp] theorem State.setAtt_sl {k : AttId} {a : Att} {j : SliceId} : (s.setAtt k a).sl j = s.sl j := rfl
@[simp] theorem State.setAtt_mp {k : AttId} {a : Att} {j : PortId} : (s.setAtt k a).mp j = s.mp j := rfl
@[simp] theorem State.setAtt_agent {k : AttId} {a : Att} {j : AgentId} : (s.setAtt k a).agent j = s.agent j := rfl
@[simp] theorem State.setAtt_hist {k : AttId} {a : Att} {j : AgentId} : (s.setAtt k a).hist j = s.hist j := rfl
@[simp] theorem State.setAtt_router {k : AttId} {a : Att} {j : Nat} : (s.setAtt k a).router j = s.router j := rfl
@[simp] theorem State.setAtt_ev {k : AttId} {a : Att} {j : Nat} : (s.setAtt k a).ev j = s.ev j := rfl
@[simp] theorem State.setAtt_cnt {k : AttId} {a : Att} {j : Nat} : (s.setAtt k a).cnt j = s.cnt j := rfl
@[simp] theorem State.setAtt_reg {k : AttId} {a : Att} {j : Nat} : (s.setAtt k a).reg j = s.reg j := rfl
@[simp] theorem State.setAtt_fld {k : AttId} {a : Att} {j : Fld} : (s.setAtt k a).fld j = s.fld j := rfl
@[simp] theorem State.setAtt_now {k : AttId} {a : Att} : (s.setAtt k a).now = s.now := rfl
@[simp] theorem State.setAtt_mode {k : AttId} {a : Att} : (s.setAtt k a).mode = s.mode := rfl
@[simp] theorem State.setAtt_held {k : AttId} {a : Att} : (s.setAtt k a).held = s.held := rfl
@[simp] theorem State.setAtt_runs {k : AttId} {a : Att} : (s.setAtt k a).runs = s.runs := rfl
@[simp] theorem State.setAtt_level {k : AttId} {a : Att} : (s.setAtt k a).level = s.level := rfl
@[simp] theorem State.setAtt_portUp {k : AttId} {a : Att} : (s.setAtt k a).portUp = s.portUp := rfl
@[simp] theorem State.setAtt_fwUp {k : AttId} {a : Att} : (s.setAtt k a).fwUp = s.fwUp := rfl
@[simp] theorem State.setAtt_inWindow {k : AttId} {a : Att} {j : Line} : (s.setAtt k a).inWindow j = s.inWindow j := rfl
@[simp] theorem State.setAtt_inCast {k : AttId} {a : Att} {j : Line} : (s.setAtt k a).inCast j = s.inCast j := rfl
@[simp] theorem State.setAtt_homeOf {k : AttId} {a : Att} {j : BitVec 12} : (s.setAtt k a).homeOf j = s.homeOf j := rfl
@[simp] theorem State.setAtt_edgeHome {k : AttId} {a : Att} {j : Nat} {b1 : BitVec 12} : (s.setAtt k a).edgeHome j b1 = s.edgeHome j b1 := rfl
@[simp] theorem State.setAtt_serves {k : AttId} {a : Att} {j : SliceId} {b1 : BitVec 12} : (s.setAtt k a).serves j b1 = s.serves j b1 := rfl
@[simp] theorem State.setAtt_attBounces {k : AttId} {a : Att} {j : AttId} : (s.setAtt k a).attBounces j = s.attBounces j := rfl
@[simp] theorem State.setAtt_portBounces {k : AttId} {a : Att} {j : PortId} : (s.setAtt k a).portBounces j = s.portBounces j := rfl
@[simp] theorem State.setAtt_mpShut {k : AttId} {a : Att} {j : PortId} : (s.setAtt k a).mpShut j = s.mpShut j := rfl
@[simp] theorem State.setAtt_coxUp {k : AttId} {a : Att} : (s.setAtt k a).coxUp = s.coxUp := rfl

/-! ## modAtt -/

@[simp] theorem State.modAtt_pending {k : AttId} {g : Att → Att} : (s.modAtt k g).pending = s.pending := rfl
@[simp] theorem State.modAtt_modes {k : AttId} {g : Att → Att} : (s.modAtt k g).modes = s.modes := rfl
@[simp] theorem State.modAtt_plinth {k : AttId} {g : Att → Att} : (s.modAtt k g).plinth = s.plinth := rfl
@[simp] theorem State.modAtt_pins {k : AttId} {g : Att → Att} : (s.modAtt k g).pins = s.pins := rfl
@[simp] theorem State.modAtt_boot {k : AttId} {g : Att → Att} : (s.modAtt k g).boot = s.boot := rfl
@[simp] theorem State.modAtt_regs {k : AttId} {g : Att → Att} : (s.modAtt k g).regs = s.regs := rfl
@[simp] theorem State.modAtt_hostRsp {k : AttId} {g : Att → Att} : (s.modAtt k g).hostRsp = s.hostRsp := rfl
@[simp] theorem State.modAtt_hostOut {k : AttId} {g : Att → Att} : (s.modAtt k g).hostOut = s.hostOut := rfl
@[simp] theorem State.modAtt_coxRsp {k : AttId} {g : Att → Att} : (s.modAtt k g).coxRsp = s.coxRsp := rfl
@[simp] theorem State.modAtt_agents {k : AttId} {g : Att → Att} : (s.modAtt k g).agents = s.agents := rfl
@[simp] theorem State.modAtt_hists {k : AttId} {g : Att → Att} : (s.modAtt k g).hists = s.hists := rfl
@[simp] theorem State.modAtt_slices {k : AttId} {g : Att → Att} : (s.modAtt k g).slices = s.slices := rfl
@[simp] theorem State.modAtt_ports {k : AttId} {g : Att → Att} : (s.modAtt k g).ports = s.ports := rfl
@[simp] theorem State.modAtt_mesh {k : AttId} {g : Att → Att} : (s.modAtt k g).mesh = s.mesh := rfl
@[simp] theorem State.modAtt_hmap {k : AttId} {g : Att → Att} : (s.modAtt k g).hmap = s.hmap := rfl
@[simp] theorem State.modAtt_cast {k : AttId} {g : Att → Att} : (s.modAtt k g).cast = s.cast := rfl
@[simp] theorem State.modAtt_events {k : AttId} {g : Att → Att} : (s.modAtt k g).events = s.events := rfl
@[simp] theorem State.modAtt_counts {k : AttId} {g : Att → Att} : (s.modAtt k g).counts = s.counts := rfl
@[simp] theorem State.modAtt_cox {k : AttId} {g : Att → Att} : (s.modAtt k g).cox = s.cox := rfl
@[simp] theorem State.modAtt_calAt {k : AttId} {g : Att → Att} : (s.modAtt k g).calAt = s.calAt := rfl
@[simp] theorem State.modAtt_freeCtr {k : AttId} {g : Att → Att} : (s.modAtt k g).freeCtr = s.freeCtr := rfl
@[simp] theorem State.modAtt_castMem {k : AttId} {g : Att → Att} : (s.modAtt k g).castMem = s.castMem := rfl
@[simp] theorem State.modAtt_sl {k : AttId} {g : Att → Att} {j : SliceId} : (s.modAtt k g).sl j = s.sl j := rfl
@[simp] theorem State.modAtt_mp {k : AttId} {g : Att → Att} {j : PortId} : (s.modAtt k g).mp j = s.mp j := rfl
@[simp] theorem State.modAtt_agent {k : AttId} {g : Att → Att} {j : AgentId} : (s.modAtt k g).agent j = s.agent j := rfl
@[simp] theorem State.modAtt_hist {k : AttId} {g : Att → Att} {j : AgentId} : (s.modAtt k g).hist j = s.hist j := rfl
@[simp] theorem State.modAtt_router {k : AttId} {g : Att → Att} {j : Nat} : (s.modAtt k g).router j = s.router j := rfl
@[simp] theorem State.modAtt_ev {k : AttId} {g : Att → Att} {j : Nat} : (s.modAtt k g).ev j = s.ev j := rfl
@[simp] theorem State.modAtt_cnt {k : AttId} {g : Att → Att} {j : Nat} : (s.modAtt k g).cnt j = s.cnt j := rfl
@[simp] theorem State.modAtt_reg {k : AttId} {g : Att → Att} {j : Nat} : (s.modAtt k g).reg j = s.reg j := rfl
@[simp] theorem State.modAtt_fld {k : AttId} {g : Att → Att} {j : Fld} : (s.modAtt k g).fld j = s.fld j := rfl
@[simp] theorem State.modAtt_now {k : AttId} {g : Att → Att} : (s.modAtt k g).now = s.now := rfl
@[simp] theorem State.modAtt_mode {k : AttId} {g : Att → Att} : (s.modAtt k g).mode = s.mode := rfl
@[simp] theorem State.modAtt_held {k : AttId} {g : Att → Att} : (s.modAtt k g).held = s.held := rfl
@[simp] theorem State.modAtt_runs {k : AttId} {g : Att → Att} : (s.modAtt k g).runs = s.runs := rfl
@[simp] theorem State.modAtt_level {k : AttId} {g : Att → Att} : (s.modAtt k g).level = s.level := rfl
@[simp] theorem State.modAtt_portUp {k : AttId} {g : Att → Att} : (s.modAtt k g).portUp = s.portUp := rfl
@[simp] theorem State.modAtt_fwUp {k : AttId} {g : Att → Att} : (s.modAtt k g).fwUp = s.fwUp := rfl
@[simp] theorem State.modAtt_inWindow {k : AttId} {g : Att → Att} {j : Line} : (s.modAtt k g).inWindow j = s.inWindow j := rfl
@[simp] theorem State.modAtt_inCast {k : AttId} {g : Att → Att} {j : Line} : (s.modAtt k g).inCast j = s.inCast j := rfl
@[simp] theorem State.modAtt_homeOf {k : AttId} {g : Att → Att} {j : BitVec 12} : (s.modAtt k g).homeOf j = s.homeOf j := rfl
@[simp] theorem State.modAtt_edgeHome {k : AttId} {g : Att → Att} {j : Nat} {b1 : BitVec 12} : (s.modAtt k g).edgeHome j b1 = s.edgeHome j b1 := rfl
@[simp] theorem State.modAtt_serves {k : AttId} {g : Att → Att} {j : SliceId} {b1 : BitVec 12} : (s.modAtt k g).serves j b1 = s.serves j b1 := rfl
@[simp] theorem State.modAtt_attBounces {k : AttId} {g : Att → Att} {j : AttId} : (s.modAtt k g).attBounces j = s.attBounces j := rfl
@[simp] theorem State.modAtt_portBounces {k : AttId} {g : Att → Att} {j : PortId} : (s.modAtt k g).portBounces j = s.portBounces j := rfl
@[simp] theorem State.modAtt_mpShut {k : AttId} {g : Att → Att} {j : PortId} : (s.modAtt k g).mpShut j = s.mpShut j := rfl
@[simp] theorem State.modAtt_coxUp {k : AttId} {g : Att → Att} : (s.modAtt k g).coxUp = s.coxUp := rfl

/-! ## setSl -/

@[simp] theorem State.setSl_pending {i : SliceId} {x : Slice} : (s.setSl i x).pending = s.pending := rfl
@[simp] theorem State.setSl_modes {i : SliceId} {x : Slice} : (s.setSl i x).modes = s.modes := rfl
@[simp] theorem State.setSl_plinth {i : SliceId} {x : Slice} : (s.setSl i x).plinth = s.plinth := rfl
@[simp] theorem State.setSl_pins {i : SliceId} {x : Slice} : (s.setSl i x).pins = s.pins := rfl
@[simp] theorem State.setSl_boot {i : SliceId} {x : Slice} : (s.setSl i x).boot = s.boot := rfl
@[simp] theorem State.setSl_regs {i : SliceId} {x : Slice} : (s.setSl i x).regs = s.regs := rfl
@[simp] theorem State.setSl_hostRsp {i : SliceId} {x : Slice} : (s.setSl i x).hostRsp = s.hostRsp := rfl
@[simp] theorem State.setSl_hostOut {i : SliceId} {x : Slice} : (s.setSl i x).hostOut = s.hostOut := rfl
@[simp] theorem State.setSl_coxRsp {i : SliceId} {x : Slice} : (s.setSl i x).coxRsp = s.coxRsp := rfl
@[simp] theorem State.setSl_agents {i : SliceId} {x : Slice} : (s.setSl i x).agents = s.agents := rfl
@[simp] theorem State.setSl_hists {i : SliceId} {x : Slice} : (s.setSl i x).hists = s.hists := rfl
@[simp] theorem State.setSl_atts {i : SliceId} {x : Slice} : (s.setSl i x).atts = s.atts := rfl
@[simp] theorem State.setSl_ports {i : SliceId} {x : Slice} : (s.setSl i x).ports = s.ports := rfl
@[simp] theorem State.setSl_mesh {i : SliceId} {x : Slice} : (s.setSl i x).mesh = s.mesh := rfl
@[simp] theorem State.setSl_hmap {i : SliceId} {x : Slice} : (s.setSl i x).hmap = s.hmap := rfl
@[simp] theorem State.setSl_cast {i : SliceId} {x : Slice} : (s.setSl i x).cast = s.cast := rfl
@[simp] theorem State.setSl_events {i : SliceId} {x : Slice} : (s.setSl i x).events = s.events := rfl
@[simp] theorem State.setSl_counts {i : SliceId} {x : Slice} : (s.setSl i x).counts = s.counts := rfl
@[simp] theorem State.setSl_cox {i : SliceId} {x : Slice} : (s.setSl i x).cox = s.cox := rfl
@[simp] theorem State.setSl_calAt {i : SliceId} {x : Slice} : (s.setSl i x).calAt = s.calAt := rfl
@[simp] theorem State.setSl_freeCtr {i : SliceId} {x : Slice} : (s.setSl i x).freeCtr = s.freeCtr := rfl
@[simp] theorem State.setSl_castMem {i : SliceId} {x : Slice} : (s.setSl i x).castMem = s.castMem := rfl
@[simp] theorem State.setSl_att {i : SliceId} {x : Slice} {j : AttId} : (s.setSl i x).att j = s.att j := rfl
@[simp] theorem State.setSl_mp {i : SliceId} {x : Slice} {j : PortId} : (s.setSl i x).mp j = s.mp j := rfl
@[simp] theorem State.setSl_agent {i : SliceId} {x : Slice} {j : AgentId} : (s.setSl i x).agent j = s.agent j := rfl
@[simp] theorem State.setSl_hist {i : SliceId} {x : Slice} {j : AgentId} : (s.setSl i x).hist j = s.hist j := rfl
@[simp] theorem State.setSl_router {i : SliceId} {x : Slice} {j : Nat} : (s.setSl i x).router j = s.router j := rfl
@[simp] theorem State.setSl_ev {i : SliceId} {x : Slice} {j : Nat} : (s.setSl i x).ev j = s.ev j := rfl
@[simp] theorem State.setSl_cnt {i : SliceId} {x : Slice} {j : Nat} : (s.setSl i x).cnt j = s.cnt j := rfl
@[simp] theorem State.setSl_reg {i : SliceId} {x : Slice} {j : Nat} : (s.setSl i x).reg j = s.reg j := rfl
@[simp] theorem State.setSl_fld {i : SliceId} {x : Slice} {j : Fld} : (s.setSl i x).fld j = s.fld j := rfl
@[simp] theorem State.setSl_now {i : SliceId} {x : Slice} : (s.setSl i x).now = s.now := rfl
@[simp] theorem State.setSl_mode {i : SliceId} {x : Slice} : (s.setSl i x).mode = s.mode := rfl
@[simp] theorem State.setSl_held {i : SliceId} {x : Slice} : (s.setSl i x).held = s.held := rfl
@[simp] theorem State.setSl_runs {i : SliceId} {x : Slice} : (s.setSl i x).runs = s.runs := rfl
@[simp] theorem State.setSl_level {i : SliceId} {x : Slice} : (s.setSl i x).level = s.level := rfl
@[simp] theorem State.setSl_portUp {i : SliceId} {x : Slice} : (s.setSl i x).portUp = s.portUp := rfl
@[simp] theorem State.setSl_fwUp {i : SliceId} {x : Slice} : (s.setSl i x).fwUp = s.fwUp := rfl
@[simp] theorem State.setSl_inWindow {i : SliceId} {x : Slice} {j : Line} : (s.setSl i x).inWindow j = s.inWindow j := rfl
@[simp] theorem State.setSl_inCast {i : SliceId} {x : Slice} {j : Line} : (s.setSl i x).inCast j = s.inCast j := rfl
@[simp] theorem State.setSl_homeOf {i : SliceId} {x : Slice} {j : BitVec 12} : (s.setSl i x).homeOf j = s.homeOf j := rfl
@[simp] theorem State.setSl_edgeHome {i : SliceId} {x : Slice} {j : Nat} {b1 : BitVec 12} : (s.setSl i x).edgeHome j b1 = s.edgeHome j b1 := rfl
@[simp] theorem State.setSl_serves {i : SliceId} {x : Slice} {j : SliceId} {b1 : BitVec 12} : (s.setSl i x).serves j b1 = s.serves j b1 := rfl
@[simp] theorem State.setSl_attBounces {i : SliceId} {x : Slice} {j : AttId} : (s.setSl i x).attBounces j = s.attBounces j := rfl
@[simp] theorem State.setSl_portBounces {i : SliceId} {x : Slice} {j : PortId} : (s.setSl i x).portBounces j = s.portBounces j := rfl
@[simp] theorem State.setSl_attShut {i : SliceId} {x : Slice} {j : AttId} : (s.setSl i x).attShut j = s.attShut j := rfl
@[simp] theorem State.setSl_mpShut {i : SliceId} {x : Slice} {j : PortId} : (s.setSl i x).mpShut j = s.mpShut j := rfl
@[simp] theorem State.setSl_coxUp {i : SliceId} {x : Slice} : (s.setSl i x).coxUp = s.coxUp := rfl

/-! ## modSl -/

@[simp] theorem State.modSl_pending {i : SliceId} {g : Slice → Slice} : (s.modSl i g).pending = s.pending := rfl
@[simp] theorem State.modSl_modes {i : SliceId} {g : Slice → Slice} : (s.modSl i g).modes = s.modes := rfl
@[simp] theorem State.modSl_plinth {i : SliceId} {g : Slice → Slice} : (s.modSl i g).plinth = s.plinth := rfl
@[simp] theorem State.modSl_pins {i : SliceId} {g : Slice → Slice} : (s.modSl i g).pins = s.pins := rfl
@[simp] theorem State.modSl_boot {i : SliceId} {g : Slice → Slice} : (s.modSl i g).boot = s.boot := rfl
@[simp] theorem State.modSl_regs {i : SliceId} {g : Slice → Slice} : (s.modSl i g).regs = s.regs := rfl
@[simp] theorem State.modSl_hostRsp {i : SliceId} {g : Slice → Slice} : (s.modSl i g).hostRsp = s.hostRsp := rfl
@[simp] theorem State.modSl_hostOut {i : SliceId} {g : Slice → Slice} : (s.modSl i g).hostOut = s.hostOut := rfl
@[simp] theorem State.modSl_coxRsp {i : SliceId} {g : Slice → Slice} : (s.modSl i g).coxRsp = s.coxRsp := rfl
@[simp] theorem State.modSl_agents {i : SliceId} {g : Slice → Slice} : (s.modSl i g).agents = s.agents := rfl
@[simp] theorem State.modSl_hists {i : SliceId} {g : Slice → Slice} : (s.modSl i g).hists = s.hists := rfl
@[simp] theorem State.modSl_atts {i : SliceId} {g : Slice → Slice} : (s.modSl i g).atts = s.atts := rfl
@[simp] theorem State.modSl_ports {i : SliceId} {g : Slice → Slice} : (s.modSl i g).ports = s.ports := rfl
@[simp] theorem State.modSl_mesh {i : SliceId} {g : Slice → Slice} : (s.modSl i g).mesh = s.mesh := rfl
@[simp] theorem State.modSl_hmap {i : SliceId} {g : Slice → Slice} : (s.modSl i g).hmap = s.hmap := rfl
@[simp] theorem State.modSl_cast {i : SliceId} {g : Slice → Slice} : (s.modSl i g).cast = s.cast := rfl
@[simp] theorem State.modSl_events {i : SliceId} {g : Slice → Slice} : (s.modSl i g).events = s.events := rfl
@[simp] theorem State.modSl_counts {i : SliceId} {g : Slice → Slice} : (s.modSl i g).counts = s.counts := rfl
@[simp] theorem State.modSl_cox {i : SliceId} {g : Slice → Slice} : (s.modSl i g).cox = s.cox := rfl
@[simp] theorem State.modSl_calAt {i : SliceId} {g : Slice → Slice} : (s.modSl i g).calAt = s.calAt := rfl
@[simp] theorem State.modSl_freeCtr {i : SliceId} {g : Slice → Slice} : (s.modSl i g).freeCtr = s.freeCtr := rfl
@[simp] theorem State.modSl_castMem {i : SliceId} {g : Slice → Slice} : (s.modSl i g).castMem = s.castMem := rfl
@[simp] theorem State.modSl_att {i : SliceId} {g : Slice → Slice} {j : AttId} : (s.modSl i g).att j = s.att j := rfl
@[simp] theorem State.modSl_mp {i : SliceId} {g : Slice → Slice} {j : PortId} : (s.modSl i g).mp j = s.mp j := rfl
@[simp] theorem State.modSl_agent {i : SliceId} {g : Slice → Slice} {j : AgentId} : (s.modSl i g).agent j = s.agent j := rfl
@[simp] theorem State.modSl_hist {i : SliceId} {g : Slice → Slice} {j : AgentId} : (s.modSl i g).hist j = s.hist j := rfl
@[simp] theorem State.modSl_router {i : SliceId} {g : Slice → Slice} {j : Nat} : (s.modSl i g).router j = s.router j := rfl
@[simp] theorem State.modSl_ev {i : SliceId} {g : Slice → Slice} {j : Nat} : (s.modSl i g).ev j = s.ev j := rfl
@[simp] theorem State.modSl_cnt {i : SliceId} {g : Slice → Slice} {j : Nat} : (s.modSl i g).cnt j = s.cnt j := rfl
@[simp] theorem State.modSl_reg {i : SliceId} {g : Slice → Slice} {j : Nat} : (s.modSl i g).reg j = s.reg j := rfl
@[simp] theorem State.modSl_fld {i : SliceId} {g : Slice → Slice} {j : Fld} : (s.modSl i g).fld j = s.fld j := rfl
@[simp] theorem State.modSl_now {i : SliceId} {g : Slice → Slice} : (s.modSl i g).now = s.now := rfl
@[simp] theorem State.modSl_mode {i : SliceId} {g : Slice → Slice} : (s.modSl i g).mode = s.mode := rfl
@[simp] theorem State.modSl_held {i : SliceId} {g : Slice → Slice} : (s.modSl i g).held = s.held := rfl
@[simp] theorem State.modSl_runs {i : SliceId} {g : Slice → Slice} : (s.modSl i g).runs = s.runs := rfl
@[simp] theorem State.modSl_level {i : SliceId} {g : Slice → Slice} : (s.modSl i g).level = s.level := rfl
@[simp] theorem State.modSl_portUp {i : SliceId} {g : Slice → Slice} : (s.modSl i g).portUp = s.portUp := rfl
@[simp] theorem State.modSl_fwUp {i : SliceId} {g : Slice → Slice} : (s.modSl i g).fwUp = s.fwUp := rfl
@[simp] theorem State.modSl_inWindow {i : SliceId} {g : Slice → Slice} {j : Line} : (s.modSl i g).inWindow j = s.inWindow j := rfl
@[simp] theorem State.modSl_inCast {i : SliceId} {g : Slice → Slice} {j : Line} : (s.modSl i g).inCast j = s.inCast j := rfl
@[simp] theorem State.modSl_homeOf {i : SliceId} {g : Slice → Slice} {j : BitVec 12} : (s.modSl i g).homeOf j = s.homeOf j := rfl
@[simp] theorem State.modSl_edgeHome {i : SliceId} {g : Slice → Slice} {j : Nat} {b1 : BitVec 12} : (s.modSl i g).edgeHome j b1 = s.edgeHome j b1 := rfl
@[simp] theorem State.modSl_serves {i : SliceId} {g : Slice → Slice} {j : SliceId} {b1 : BitVec 12} : (s.modSl i g).serves j b1 = s.serves j b1 := rfl
@[simp] theorem State.modSl_attBounces {i : SliceId} {g : Slice → Slice} {j : AttId} : (s.modSl i g).attBounces j = s.attBounces j := rfl
@[simp] theorem State.modSl_portBounces {i : SliceId} {g : Slice → Slice} {j : PortId} : (s.modSl i g).portBounces j = s.portBounces j := rfl
@[simp] theorem State.modSl_attShut {i : SliceId} {g : Slice → Slice} {j : AttId} : (s.modSl i g).attShut j = s.attShut j := rfl
@[simp] theorem State.modSl_mpShut {i : SliceId} {g : Slice → Slice} {j : PortId} : (s.modSl i g).mpShut j = s.mpShut j := rfl
@[simp] theorem State.modSl_coxUp {i : SliceId} {g : Slice → Slice} : (s.modSl i g).coxUp = s.coxUp := rfl

/-! ## setMp -/

@[simp] theorem State.setMp_pending {m : PortId} {x : Port} : (s.setMp m x).pending = s.pending := rfl
@[simp] theorem State.setMp_modes {m : PortId} {x : Port} : (s.setMp m x).modes = s.modes := rfl
@[simp] theorem State.setMp_plinth {m : PortId} {x : Port} : (s.setMp m x).plinth = s.plinth := rfl
@[simp] theorem State.setMp_pins {m : PortId} {x : Port} : (s.setMp m x).pins = s.pins := rfl
@[simp] theorem State.setMp_boot {m : PortId} {x : Port} : (s.setMp m x).boot = s.boot := rfl
@[simp] theorem State.setMp_regs {m : PortId} {x : Port} : (s.setMp m x).regs = s.regs := rfl
@[simp] theorem State.setMp_hostRsp {m : PortId} {x : Port} : (s.setMp m x).hostRsp = s.hostRsp := rfl
@[simp] theorem State.setMp_hostOut {m : PortId} {x : Port} : (s.setMp m x).hostOut = s.hostOut := rfl
@[simp] theorem State.setMp_coxRsp {m : PortId} {x : Port} : (s.setMp m x).coxRsp = s.coxRsp := rfl
@[simp] theorem State.setMp_agents {m : PortId} {x : Port} : (s.setMp m x).agents = s.agents := rfl
@[simp] theorem State.setMp_hists {m : PortId} {x : Port} : (s.setMp m x).hists = s.hists := rfl
@[simp] theorem State.setMp_atts {m : PortId} {x : Port} : (s.setMp m x).atts = s.atts := rfl
@[simp] theorem State.setMp_slices {m : PortId} {x : Port} : (s.setMp m x).slices = s.slices := rfl
@[simp] theorem State.setMp_mesh {m : PortId} {x : Port} : (s.setMp m x).mesh = s.mesh := rfl
@[simp] theorem State.setMp_hmap {m : PortId} {x : Port} : (s.setMp m x).hmap = s.hmap := rfl
@[simp] theorem State.setMp_cast {m : PortId} {x : Port} : (s.setMp m x).cast = s.cast := rfl
@[simp] theorem State.setMp_events {m : PortId} {x : Port} : (s.setMp m x).events = s.events := rfl
@[simp] theorem State.setMp_counts {m : PortId} {x : Port} : (s.setMp m x).counts = s.counts := rfl
@[simp] theorem State.setMp_cox {m : PortId} {x : Port} : (s.setMp m x).cox = s.cox := rfl
@[simp] theorem State.setMp_calAt {m : PortId} {x : Port} : (s.setMp m x).calAt = s.calAt := rfl
@[simp] theorem State.setMp_freeCtr {m : PortId} {x : Port} : (s.setMp m x).freeCtr = s.freeCtr := rfl
@[simp] theorem State.setMp_castMem {m : PortId} {x : Port} : (s.setMp m x).castMem = s.castMem := rfl
@[simp] theorem State.setMp_att {m : PortId} {x : Port} {j : AttId} : (s.setMp m x).att j = s.att j := rfl
@[simp] theorem State.setMp_sl {m : PortId} {x : Port} {j : SliceId} : (s.setMp m x).sl j = s.sl j := rfl
@[simp] theorem State.setMp_agent {m : PortId} {x : Port} {j : AgentId} : (s.setMp m x).agent j = s.agent j := rfl
@[simp] theorem State.setMp_hist {m : PortId} {x : Port} {j : AgentId} : (s.setMp m x).hist j = s.hist j := rfl
@[simp] theorem State.setMp_router {m : PortId} {x : Port} {j : Nat} : (s.setMp m x).router j = s.router j := rfl
@[simp] theorem State.setMp_ev {m : PortId} {x : Port} {j : Nat} : (s.setMp m x).ev j = s.ev j := rfl
@[simp] theorem State.setMp_cnt {m : PortId} {x : Port} {j : Nat} : (s.setMp m x).cnt j = s.cnt j := rfl
@[simp] theorem State.setMp_reg {m : PortId} {x : Port} {j : Nat} : (s.setMp m x).reg j = s.reg j := rfl
@[simp] theorem State.setMp_fld {m : PortId} {x : Port} {j : Fld} : (s.setMp m x).fld j = s.fld j := rfl
@[simp] theorem State.setMp_now {m : PortId} {x : Port} : (s.setMp m x).now = s.now := rfl
@[simp] theorem State.setMp_mode {m : PortId} {x : Port} : (s.setMp m x).mode = s.mode := rfl
@[simp] theorem State.setMp_held {m : PortId} {x : Port} : (s.setMp m x).held = s.held := rfl
@[simp] theorem State.setMp_runs {m : PortId} {x : Port} : (s.setMp m x).runs = s.runs := rfl
@[simp] theorem State.setMp_level {m : PortId} {x : Port} : (s.setMp m x).level = s.level := rfl
@[simp] theorem State.setMp_portUp {m : PortId} {x : Port} : (s.setMp m x).portUp = s.portUp := rfl
@[simp] theorem State.setMp_fwUp {m : PortId} {x : Port} : (s.setMp m x).fwUp = s.fwUp := rfl
@[simp] theorem State.setMp_inWindow {m : PortId} {x : Port} {j : Line} : (s.setMp m x).inWindow j = s.inWindow j := rfl
@[simp] theorem State.setMp_inCast {m : PortId} {x : Port} {j : Line} : (s.setMp m x).inCast j = s.inCast j := rfl
@[simp] theorem State.setMp_homeOf {m : PortId} {x : Port} {j : BitVec 12} : (s.setMp m x).homeOf j = s.homeOf j := rfl
@[simp] theorem State.setMp_edgeHome {m : PortId} {x : Port} {j : Nat} {b1 : BitVec 12} : (s.setMp m x).edgeHome j b1 = s.edgeHome j b1 := rfl
@[simp] theorem State.setMp_serves {m : PortId} {x : Port} {j : SliceId} {b1 : BitVec 12} : (s.setMp m x).serves j b1 = s.serves j b1 := rfl
@[simp] theorem State.setMp_attBounces {m : PortId} {x : Port} {j : AttId} : (s.setMp m x).attBounces j = s.attBounces j := rfl
@[simp] theorem State.setMp_portBounces {m : PortId} {x : Port} {j : PortId} : (s.setMp m x).portBounces j = s.portBounces j := rfl
@[simp] theorem State.setMp_attShut {m : PortId} {x : Port} {j : AttId} : (s.setMp m x).attShut j = s.attShut j := rfl
@[simp] theorem State.setMp_coxUp {m : PortId} {x : Port} : (s.setMp m x).coxUp = s.coxUp := rfl

/-! ## modMp -/

@[simp] theorem State.modMp_pending {m : PortId} {g : Port → Port} : (s.modMp m g).pending = s.pending := rfl
@[simp] theorem State.modMp_modes {m : PortId} {g : Port → Port} : (s.modMp m g).modes = s.modes := rfl
@[simp] theorem State.modMp_plinth {m : PortId} {g : Port → Port} : (s.modMp m g).plinth = s.plinth := rfl
@[simp] theorem State.modMp_pins {m : PortId} {g : Port → Port} : (s.modMp m g).pins = s.pins := rfl
@[simp] theorem State.modMp_boot {m : PortId} {g : Port → Port} : (s.modMp m g).boot = s.boot := rfl
@[simp] theorem State.modMp_regs {m : PortId} {g : Port → Port} : (s.modMp m g).regs = s.regs := rfl
@[simp] theorem State.modMp_hostRsp {m : PortId} {g : Port → Port} : (s.modMp m g).hostRsp = s.hostRsp := rfl
@[simp] theorem State.modMp_hostOut {m : PortId} {g : Port → Port} : (s.modMp m g).hostOut = s.hostOut := rfl
@[simp] theorem State.modMp_coxRsp {m : PortId} {g : Port → Port} : (s.modMp m g).coxRsp = s.coxRsp := rfl
@[simp] theorem State.modMp_agents {m : PortId} {g : Port → Port} : (s.modMp m g).agents = s.agents := rfl
@[simp] theorem State.modMp_hists {m : PortId} {g : Port → Port} : (s.modMp m g).hists = s.hists := rfl
@[simp] theorem State.modMp_atts {m : PortId} {g : Port → Port} : (s.modMp m g).atts = s.atts := rfl
@[simp] theorem State.modMp_slices {m : PortId} {g : Port → Port} : (s.modMp m g).slices = s.slices := rfl
@[simp] theorem State.modMp_mesh {m : PortId} {g : Port → Port} : (s.modMp m g).mesh = s.mesh := rfl
@[simp] theorem State.modMp_hmap {m : PortId} {g : Port → Port} : (s.modMp m g).hmap = s.hmap := rfl
@[simp] theorem State.modMp_cast {m : PortId} {g : Port → Port} : (s.modMp m g).cast = s.cast := rfl
@[simp] theorem State.modMp_events {m : PortId} {g : Port → Port} : (s.modMp m g).events = s.events := rfl
@[simp] theorem State.modMp_counts {m : PortId} {g : Port → Port} : (s.modMp m g).counts = s.counts := rfl
@[simp] theorem State.modMp_cox {m : PortId} {g : Port → Port} : (s.modMp m g).cox = s.cox := rfl
@[simp] theorem State.modMp_calAt {m : PortId} {g : Port → Port} : (s.modMp m g).calAt = s.calAt := rfl
@[simp] theorem State.modMp_freeCtr {m : PortId} {g : Port → Port} : (s.modMp m g).freeCtr = s.freeCtr := rfl
@[simp] theorem State.modMp_castMem {m : PortId} {g : Port → Port} : (s.modMp m g).castMem = s.castMem := rfl
@[simp] theorem State.modMp_att {m : PortId} {g : Port → Port} {j : AttId} : (s.modMp m g).att j = s.att j := rfl
@[simp] theorem State.modMp_sl {m : PortId} {g : Port → Port} {j : SliceId} : (s.modMp m g).sl j = s.sl j := rfl
@[simp] theorem State.modMp_agent {m : PortId} {g : Port → Port} {j : AgentId} : (s.modMp m g).agent j = s.agent j := rfl
@[simp] theorem State.modMp_hist {m : PortId} {g : Port → Port} {j : AgentId} : (s.modMp m g).hist j = s.hist j := rfl
@[simp] theorem State.modMp_router {m : PortId} {g : Port → Port} {j : Nat} : (s.modMp m g).router j = s.router j := rfl
@[simp] theorem State.modMp_ev {m : PortId} {g : Port → Port} {j : Nat} : (s.modMp m g).ev j = s.ev j := rfl
@[simp] theorem State.modMp_cnt {m : PortId} {g : Port → Port} {j : Nat} : (s.modMp m g).cnt j = s.cnt j := rfl
@[simp] theorem State.modMp_reg {m : PortId} {g : Port → Port} {j : Nat} : (s.modMp m g).reg j = s.reg j := rfl
@[simp] theorem State.modMp_fld {m : PortId} {g : Port → Port} {j : Fld} : (s.modMp m g).fld j = s.fld j := rfl
@[simp] theorem State.modMp_now {m : PortId} {g : Port → Port} : (s.modMp m g).now = s.now := rfl
@[simp] theorem State.modMp_mode {m : PortId} {g : Port → Port} : (s.modMp m g).mode = s.mode := rfl
@[simp] theorem State.modMp_held {m : PortId} {g : Port → Port} : (s.modMp m g).held = s.held := rfl
@[simp] theorem State.modMp_runs {m : PortId} {g : Port → Port} : (s.modMp m g).runs = s.runs := rfl
@[simp] theorem State.modMp_level {m : PortId} {g : Port → Port} : (s.modMp m g).level = s.level := rfl
@[simp] theorem State.modMp_portUp {m : PortId} {g : Port → Port} : (s.modMp m g).portUp = s.portUp := rfl
@[simp] theorem State.modMp_fwUp {m : PortId} {g : Port → Port} : (s.modMp m g).fwUp = s.fwUp := rfl
@[simp] theorem State.modMp_inWindow {m : PortId} {g : Port → Port} {j : Line} : (s.modMp m g).inWindow j = s.inWindow j := rfl
@[simp] theorem State.modMp_inCast {m : PortId} {g : Port → Port} {j : Line} : (s.modMp m g).inCast j = s.inCast j := rfl
@[simp] theorem State.modMp_homeOf {m : PortId} {g : Port → Port} {j : BitVec 12} : (s.modMp m g).homeOf j = s.homeOf j := rfl
@[simp] theorem State.modMp_edgeHome {m : PortId} {g : Port → Port} {j : Nat} {b1 : BitVec 12} : (s.modMp m g).edgeHome j b1 = s.edgeHome j b1 := rfl
@[simp] theorem State.modMp_serves {m : PortId} {g : Port → Port} {j : SliceId} {b1 : BitVec 12} : (s.modMp m g).serves j b1 = s.serves j b1 := rfl
@[simp] theorem State.modMp_attBounces {m : PortId} {g : Port → Port} {j : AttId} : (s.modMp m g).attBounces j = s.attBounces j := rfl
@[simp] theorem State.modMp_portBounces {m : PortId} {g : Port → Port} {j : PortId} : (s.modMp m g).portBounces j = s.portBounces j := rfl
@[simp] theorem State.modMp_attShut {m : PortId} {g : Port → Port} {j : AttId} : (s.modMp m g).attShut j = s.attShut j := rfl
@[simp] theorem State.modMp_coxUp {m : PortId} {g : Port → Port} : (s.modMp m g).coxUp = s.coxUp := rfl

/-! ## setAgent -/

@[simp] theorem State.setAgent_pending {a : AgentId} {x : Agent} : (s.setAgent a x).pending = s.pending := by
  unfold State.setAgent; (repeat' split) <;> simp
@[simp] theorem State.setAgent_modes {a : AgentId} {x : Agent} : (s.setAgent a x).modes = s.modes := by
  unfold State.setAgent; (repeat' split) <;> simp
@[simp] theorem State.setAgent_plinth {a : AgentId} {x : Agent} : (s.setAgent a x).plinth = s.plinth := by
  unfold State.setAgent; (repeat' split) <;> simp
@[simp] theorem State.setAgent_pins {a : AgentId} {x : Agent} : (s.setAgent a x).pins = s.pins := by
  unfold State.setAgent; (repeat' split) <;> simp
@[simp] theorem State.setAgent_boot {a : AgentId} {x : Agent} : (s.setAgent a x).boot = s.boot := by
  unfold State.setAgent; (repeat' split) <;> simp
@[simp] theorem State.setAgent_regs {a : AgentId} {x : Agent} : (s.setAgent a x).regs = s.regs := by
  unfold State.setAgent; (repeat' split) <;> simp
@[simp] theorem State.setAgent_hostRsp {a : AgentId} {x : Agent} : (s.setAgent a x).hostRsp = s.hostRsp := by
  unfold State.setAgent; (repeat' split) <;> simp
@[simp] theorem State.setAgent_hostOut {a : AgentId} {x : Agent} : (s.setAgent a x).hostOut = s.hostOut := by
  unfold State.setAgent; (repeat' split) <;> simp
@[simp] theorem State.setAgent_coxRsp {a : AgentId} {x : Agent} : (s.setAgent a x).coxRsp = s.coxRsp := by
  unfold State.setAgent; (repeat' split) <;> simp
@[simp] theorem State.setAgent_hists {a : AgentId} {x : Agent} : (s.setAgent a x).hists = s.hists := by
  unfold State.setAgent; (repeat' split) <;> simp
@[simp] theorem State.setAgent_atts {a : AgentId} {x : Agent} : (s.setAgent a x).atts = s.atts := by
  unfold State.setAgent; (repeat' split) <;> simp
@[simp] theorem State.setAgent_slices {a : AgentId} {x : Agent} : (s.setAgent a x).slices = s.slices := by
  unfold State.setAgent; (repeat' split) <;> simp
@[simp] theorem State.setAgent_ports {a : AgentId} {x : Agent} : (s.setAgent a x).ports = s.ports := by
  unfold State.setAgent; (repeat' split) <;> simp
@[simp] theorem State.setAgent_mesh {a : AgentId} {x : Agent} : (s.setAgent a x).mesh = s.mesh := by
  unfold State.setAgent; (repeat' split) <;> simp
@[simp] theorem State.setAgent_hmap {a : AgentId} {x : Agent} : (s.setAgent a x).hmap = s.hmap := by
  unfold State.setAgent; (repeat' split) <;> simp
@[simp] theorem State.setAgent_cast {a : AgentId} {x : Agent} : (s.setAgent a x).cast = s.cast := by
  unfold State.setAgent; (repeat' split) <;> simp
@[simp] theorem State.setAgent_events {a : AgentId} {x : Agent} : (s.setAgent a x).events = s.events := by
  unfold State.setAgent; (repeat' split) <;> simp
@[simp] theorem State.setAgent_counts {a : AgentId} {x : Agent} : (s.setAgent a x).counts = s.counts := by
  unfold State.setAgent; (repeat' split) <;> simp
@[simp] theorem State.setAgent_cox {a : AgentId} {x : Agent} : (s.setAgent a x).cox = s.cox := by
  unfold State.setAgent; (repeat' split) <;> simp
@[simp] theorem State.setAgent_calAt {a : AgentId} {x : Agent} : (s.setAgent a x).calAt = s.calAt := by
  unfold State.setAgent; (repeat' split) <;> simp
@[simp] theorem State.setAgent_freeCtr {a : AgentId} {x : Agent} : (s.setAgent a x).freeCtr = s.freeCtr := by
  unfold State.setAgent; (repeat' split) <;> simp
@[simp] theorem State.setAgent_castMem {a : AgentId} {x : Agent} : (s.setAgent a x).castMem = s.castMem := by
  unfold State.setAgent; (repeat' split) <;> simp
@[simp] theorem State.setAgent_att {a : AgentId} {x : Agent} {j : AttId} : (s.setAgent a x).att j = s.att j := by simp [State.att]
@[simp] theorem State.setAgent_sl {a : AgentId} {x : Agent} {j : SliceId} : (s.setAgent a x).sl j = s.sl j := by simp [State.sl]
@[simp] theorem State.setAgent_mp {a : AgentId} {x : Agent} {j : PortId} : (s.setAgent a x).mp j = s.mp j := by simp [State.mp]
@[simp] theorem State.setAgent_hist {a : AgentId} {x : Agent} {j : AgentId} : (s.setAgent a x).hist j = s.hist j := by simp [State.hist]
@[simp] theorem State.setAgent_router {a : AgentId} {x : Agent} {j : Nat} : (s.setAgent a x).router j = s.router j := by simp [State.router]
@[simp] theorem State.setAgent_ev {a : AgentId} {x : Agent} {j : Nat} : (s.setAgent a x).ev j = s.ev j := by simp [State.ev]
@[simp] theorem State.setAgent_cnt {a : AgentId} {x : Agent} {j : Nat} : (s.setAgent a x).cnt j = s.cnt j := by simp [State.cnt]
@[simp] theorem State.setAgent_reg {a : AgentId} {x : Agent} {j : Nat} : (s.setAgent a x).reg j = s.reg j := by simp [State.reg]
@[simp] theorem State.setAgent_fld {a : AgentId} {x : Agent} {j : Fld} : (s.setAgent a x).fld j = s.fld j := by simp [State.fld, State.reg]
@[simp] theorem State.setAgent_now {a : AgentId} {x : Agent} : (s.setAgent a x).now = s.now := by simp [State.now]
@[simp] theorem State.setAgent_mode {a : AgentId} {x : Agent} : (s.setAgent a x).mode = s.mode := by simp [State.mode]
@[simp] theorem State.setAgent_held {a : AgentId} {x : Agent} : (s.setAgent a x).held = s.held := by simp [State.held]
@[simp] theorem State.setAgent_runs {a : AgentId} {x : Agent} : (s.setAgent a x).runs = s.runs := by simp [State.runs]
@[simp] theorem State.setAgent_level {a : AgentId} {x : Agent} : (s.setAgent a x).level = s.level := by simp [State.level]
@[simp] theorem State.setAgent_portUp {a : AgentId} {x : Agent} : (s.setAgent a x).portUp = s.portUp := by simp [State.portUp]
@[simp] theorem State.setAgent_fwUp {a : AgentId} {x : Agent} : (s.setAgent a x).fwUp = s.fwUp := by simp [State.fwUp, State.portUp]
@[simp] theorem State.setAgent_inWindow {a : AgentId} {x : Agent} {j : Line} : (s.setAgent a x).inWindow j = s.inWindow j := State.inWindow_of (by simp)
@[simp] theorem State.setAgent_inCast {a : AgentId} {x : Agent} {j : Line} : (s.setAgent a x).inCast j = s.inCast j := State.inCast_of (by simp)
@[simp] theorem State.setAgent_homeOf {a : AgentId} {x : Agent} {j : BitVec 12} : (s.setAgent a x).homeOf j = s.homeOf j := State.homeOf_of (by simp)
@[simp] theorem State.setAgent_edgeHome {a : AgentId} {x : Agent} {j : Nat} {b1 : BitVec 12} : (s.setAgent a x).edgeHome j b1 = s.edgeHome j b1 := State.edgeHome_of (by simp)
@[simp] theorem State.setAgent_serves {a : AgentId} {x : Agent} {j : SliceId} {b1 : BitVec 12} : (s.setAgent a x).serves j b1 = s.serves j b1 := State.serves_of (by simp)
@[simp] theorem State.setAgent_attBounces {a : AgentId} {x : Agent} {j : AttId} : (s.setAgent a x).attBounces j = s.attBounces j := State.attBounces_of (by simp)
@[simp] theorem State.setAgent_portBounces {a : AgentId} {x : Agent} {j : PortId} : (s.setAgent a x).portBounces j = s.portBounces j := State.portBounces_of (by simp)
@[simp] theorem State.setAgent_attShut {a : AgentId} {x : Agent} {j : AttId} : (s.setAgent a x).attShut j = s.attShut j := State.attShut_of (by simp)
@[simp] theorem State.setAgent_mpShut {a : AgentId} {x : Agent} {j : PortId} : (s.setAgent a x).mpShut j = s.mpShut j := State.mpShut_of (by simp)
@[simp] theorem State.setAgent_coxUp {a : AgentId} {x : Agent} : (s.setAgent a x).coxUp = s.coxUp := State.coxUp_of (by simp) (by simp)

/-! ## modAgent -/

@[simp] theorem State.modAgent_pending {a : AgentId} {g : Agent → Agent} : (s.modAgent a g).pending = s.pending := by simp [State.modAgent]
@[simp] theorem State.modAgent_modes {a : AgentId} {g : Agent → Agent} : (s.modAgent a g).modes = s.modes := by simp [State.modAgent]
@[simp] theorem State.modAgent_plinth {a : AgentId} {g : Agent → Agent} : (s.modAgent a g).plinth = s.plinth := by simp [State.modAgent]
@[simp] theorem State.modAgent_pins {a : AgentId} {g : Agent → Agent} : (s.modAgent a g).pins = s.pins := by simp [State.modAgent]
@[simp] theorem State.modAgent_boot {a : AgentId} {g : Agent → Agent} : (s.modAgent a g).boot = s.boot := by simp [State.modAgent]
@[simp] theorem State.modAgent_regs {a : AgentId} {g : Agent → Agent} : (s.modAgent a g).regs = s.regs := by simp [State.modAgent]
@[simp] theorem State.modAgent_hostRsp {a : AgentId} {g : Agent → Agent} : (s.modAgent a g).hostRsp = s.hostRsp := by simp [State.modAgent]
@[simp] theorem State.modAgent_hostOut {a : AgentId} {g : Agent → Agent} : (s.modAgent a g).hostOut = s.hostOut := by simp [State.modAgent]
@[simp] theorem State.modAgent_coxRsp {a : AgentId} {g : Agent → Agent} : (s.modAgent a g).coxRsp = s.coxRsp := by simp [State.modAgent]
@[simp] theorem State.modAgent_hists {a : AgentId} {g : Agent → Agent} : (s.modAgent a g).hists = s.hists := by simp [State.modAgent]
@[simp] theorem State.modAgent_atts {a : AgentId} {g : Agent → Agent} : (s.modAgent a g).atts = s.atts := by simp [State.modAgent]
@[simp] theorem State.modAgent_slices {a : AgentId} {g : Agent → Agent} : (s.modAgent a g).slices = s.slices := by simp [State.modAgent]
@[simp] theorem State.modAgent_ports {a : AgentId} {g : Agent → Agent} : (s.modAgent a g).ports = s.ports := by simp [State.modAgent]
@[simp] theorem State.modAgent_mesh {a : AgentId} {g : Agent → Agent} : (s.modAgent a g).mesh = s.mesh := by simp [State.modAgent]
@[simp] theorem State.modAgent_hmap {a : AgentId} {g : Agent → Agent} : (s.modAgent a g).hmap = s.hmap := by simp [State.modAgent]
@[simp] theorem State.modAgent_cast {a : AgentId} {g : Agent → Agent} : (s.modAgent a g).cast = s.cast := by simp [State.modAgent]
@[simp] theorem State.modAgent_events {a : AgentId} {g : Agent → Agent} : (s.modAgent a g).events = s.events := by simp [State.modAgent]
@[simp] theorem State.modAgent_counts {a : AgentId} {g : Agent → Agent} : (s.modAgent a g).counts = s.counts := by simp [State.modAgent]
@[simp] theorem State.modAgent_cox {a : AgentId} {g : Agent → Agent} : (s.modAgent a g).cox = s.cox := by simp [State.modAgent]
@[simp] theorem State.modAgent_calAt {a : AgentId} {g : Agent → Agent} : (s.modAgent a g).calAt = s.calAt := by simp [State.modAgent]
@[simp] theorem State.modAgent_freeCtr {a : AgentId} {g : Agent → Agent} : (s.modAgent a g).freeCtr = s.freeCtr := by simp [State.modAgent]
@[simp] theorem State.modAgent_castMem {a : AgentId} {g : Agent → Agent} : (s.modAgent a g).castMem = s.castMem := by simp [State.modAgent]
@[simp] theorem State.modAgent_att {a : AgentId} {g : Agent → Agent} {j : AttId} : (s.modAgent a g).att j = s.att j := by simp [State.att]
@[simp] theorem State.modAgent_sl {a : AgentId} {g : Agent → Agent} {j : SliceId} : (s.modAgent a g).sl j = s.sl j := by simp [State.sl]
@[simp] theorem State.modAgent_mp {a : AgentId} {g : Agent → Agent} {j : PortId} : (s.modAgent a g).mp j = s.mp j := by simp [State.mp]
@[simp] theorem State.modAgent_hist {a : AgentId} {g : Agent → Agent} {j : AgentId} : (s.modAgent a g).hist j = s.hist j := by simp [State.hist]
@[simp] theorem State.modAgent_router {a : AgentId} {g : Agent → Agent} {j : Nat} : (s.modAgent a g).router j = s.router j := by simp [State.router]
@[simp] theorem State.modAgent_ev {a : AgentId} {g : Agent → Agent} {j : Nat} : (s.modAgent a g).ev j = s.ev j := by simp [State.ev]
@[simp] theorem State.modAgent_cnt {a : AgentId} {g : Agent → Agent} {j : Nat} : (s.modAgent a g).cnt j = s.cnt j := by simp [State.cnt]
@[simp] theorem State.modAgent_reg {a : AgentId} {g : Agent → Agent} {j : Nat} : (s.modAgent a g).reg j = s.reg j := by simp [State.reg]
@[simp] theorem State.modAgent_fld {a : AgentId} {g : Agent → Agent} {j : Fld} : (s.modAgent a g).fld j = s.fld j := by simp [State.fld, State.reg]
@[simp] theorem State.modAgent_now {a : AgentId} {g : Agent → Agent} : (s.modAgent a g).now = s.now := by simp [State.now]
@[simp] theorem State.modAgent_mode {a : AgentId} {g : Agent → Agent} : (s.modAgent a g).mode = s.mode := by simp [State.mode]
@[simp] theorem State.modAgent_held {a : AgentId} {g : Agent → Agent} : (s.modAgent a g).held = s.held := by simp [State.held]
@[simp] theorem State.modAgent_runs {a : AgentId} {g : Agent → Agent} : (s.modAgent a g).runs = s.runs := by simp [State.runs]
@[simp] theorem State.modAgent_level {a : AgentId} {g : Agent → Agent} : (s.modAgent a g).level = s.level := by simp [State.level]
@[simp] theorem State.modAgent_portUp {a : AgentId} {g : Agent → Agent} : (s.modAgent a g).portUp = s.portUp := by simp [State.portUp]
@[simp] theorem State.modAgent_fwUp {a : AgentId} {g : Agent → Agent} : (s.modAgent a g).fwUp = s.fwUp := by simp [State.fwUp, State.portUp]
@[simp] theorem State.modAgent_inWindow {a : AgentId} {g : Agent → Agent} {j : Line} : (s.modAgent a g).inWindow j = s.inWindow j := State.inWindow_of (by simp)
@[simp] theorem State.modAgent_inCast {a : AgentId} {g : Agent → Agent} {j : Line} : (s.modAgent a g).inCast j = s.inCast j := State.inCast_of (by simp)
@[simp] theorem State.modAgent_homeOf {a : AgentId} {g : Agent → Agent} {j : BitVec 12} : (s.modAgent a g).homeOf j = s.homeOf j := State.homeOf_of (by simp)
@[simp] theorem State.modAgent_edgeHome {a : AgentId} {g : Agent → Agent} {j : Nat} {b1 : BitVec 12} : (s.modAgent a g).edgeHome j b1 = s.edgeHome j b1 := State.edgeHome_of (by simp)
@[simp] theorem State.modAgent_serves {a : AgentId} {g : Agent → Agent} {j : SliceId} {b1 : BitVec 12} : (s.modAgent a g).serves j b1 = s.serves j b1 := State.serves_of (by simp)
@[simp] theorem State.modAgent_attBounces {a : AgentId} {g : Agent → Agent} {j : AttId} : (s.modAgent a g).attBounces j = s.attBounces j := State.attBounces_of (by simp)
@[simp] theorem State.modAgent_portBounces {a : AgentId} {g : Agent → Agent} {j : PortId} : (s.modAgent a g).portBounces j = s.portBounces j := State.portBounces_of (by simp)
@[simp] theorem State.modAgent_attShut {a : AgentId} {g : Agent → Agent} {j : AttId} : (s.modAgent a g).attShut j = s.attShut j := State.attShut_of (by simp)
@[simp] theorem State.modAgent_mpShut {a : AgentId} {g : Agent → Agent} {j : PortId} : (s.modAgent a g).mpShut j = s.mpShut j := State.mpShut_of (by simp)
@[simp] theorem State.modAgent_coxUp {a : AgentId} {g : Agent → Agent} : (s.modAgent a g).coxUp = s.coxUp := State.coxUp_of (by simp) (by simp)

/-! ## setHist -/

@[simp] theorem State.setHist_pending {a : AgentId} {x : Hist} : (s.setHist a x).pending = s.pending := rfl
@[simp] theorem State.setHist_modes {a : AgentId} {x : Hist} : (s.setHist a x).modes = s.modes := rfl
@[simp] theorem State.setHist_plinth {a : AgentId} {x : Hist} : (s.setHist a x).plinth = s.plinth := rfl
@[simp] theorem State.setHist_pins {a : AgentId} {x : Hist} : (s.setHist a x).pins = s.pins := rfl
@[simp] theorem State.setHist_boot {a : AgentId} {x : Hist} : (s.setHist a x).boot = s.boot := rfl
@[simp] theorem State.setHist_regs {a : AgentId} {x : Hist} : (s.setHist a x).regs = s.regs := rfl
@[simp] theorem State.setHist_hostRsp {a : AgentId} {x : Hist} : (s.setHist a x).hostRsp = s.hostRsp := rfl
@[simp] theorem State.setHist_hostOut {a : AgentId} {x : Hist} : (s.setHist a x).hostOut = s.hostOut := rfl
@[simp] theorem State.setHist_coxRsp {a : AgentId} {x : Hist} : (s.setHist a x).coxRsp = s.coxRsp := rfl
@[simp] theorem State.setHist_agents {a : AgentId} {x : Hist} : (s.setHist a x).agents = s.agents := rfl
@[simp] theorem State.setHist_atts {a : AgentId} {x : Hist} : (s.setHist a x).atts = s.atts := rfl
@[simp] theorem State.setHist_slices {a : AgentId} {x : Hist} : (s.setHist a x).slices = s.slices := rfl
@[simp] theorem State.setHist_ports {a : AgentId} {x : Hist} : (s.setHist a x).ports = s.ports := rfl
@[simp] theorem State.setHist_mesh {a : AgentId} {x : Hist} : (s.setHist a x).mesh = s.mesh := rfl
@[simp] theorem State.setHist_hmap {a : AgentId} {x : Hist} : (s.setHist a x).hmap = s.hmap := rfl
@[simp] theorem State.setHist_cast {a : AgentId} {x : Hist} : (s.setHist a x).cast = s.cast := rfl
@[simp] theorem State.setHist_events {a : AgentId} {x : Hist} : (s.setHist a x).events = s.events := rfl
@[simp] theorem State.setHist_counts {a : AgentId} {x : Hist} : (s.setHist a x).counts = s.counts := rfl
@[simp] theorem State.setHist_cox {a : AgentId} {x : Hist} : (s.setHist a x).cox = s.cox := rfl
@[simp] theorem State.setHist_calAt {a : AgentId} {x : Hist} : (s.setHist a x).calAt = s.calAt := rfl
@[simp] theorem State.setHist_freeCtr {a : AgentId} {x : Hist} : (s.setHist a x).freeCtr = s.freeCtr := rfl
@[simp] theorem State.setHist_castMem {a : AgentId} {x : Hist} : (s.setHist a x).castMem = s.castMem := rfl
@[simp] theorem State.setHist_att {a : AgentId} {x : Hist} {j : AttId} : (s.setHist a x).att j = s.att j := rfl
@[simp] theorem State.setHist_sl {a : AgentId} {x : Hist} {j : SliceId} : (s.setHist a x).sl j = s.sl j := rfl
@[simp] theorem State.setHist_mp {a : AgentId} {x : Hist} {j : PortId} : (s.setHist a x).mp j = s.mp j := rfl
@[simp] theorem State.setHist_agent {a : AgentId} {x : Hist} {j : AgentId} : (s.setHist a x).agent j = s.agent j := rfl
@[simp] theorem State.setHist_router {a : AgentId} {x : Hist} {j : Nat} : (s.setHist a x).router j = s.router j := rfl
@[simp] theorem State.setHist_ev {a : AgentId} {x : Hist} {j : Nat} : (s.setHist a x).ev j = s.ev j := rfl
@[simp] theorem State.setHist_cnt {a : AgentId} {x : Hist} {j : Nat} : (s.setHist a x).cnt j = s.cnt j := rfl
@[simp] theorem State.setHist_reg {a : AgentId} {x : Hist} {j : Nat} : (s.setHist a x).reg j = s.reg j := rfl
@[simp] theorem State.setHist_fld {a : AgentId} {x : Hist} {j : Fld} : (s.setHist a x).fld j = s.fld j := rfl
@[simp] theorem State.setHist_now {a : AgentId} {x : Hist} : (s.setHist a x).now = s.now := rfl
@[simp] theorem State.setHist_mode {a : AgentId} {x : Hist} : (s.setHist a x).mode = s.mode := rfl
@[simp] theorem State.setHist_held {a : AgentId} {x : Hist} : (s.setHist a x).held = s.held := rfl
@[simp] theorem State.setHist_runs {a : AgentId} {x : Hist} : (s.setHist a x).runs = s.runs := rfl
@[simp] theorem State.setHist_level {a : AgentId} {x : Hist} : (s.setHist a x).level = s.level := rfl
@[simp] theorem State.setHist_portUp {a : AgentId} {x : Hist} : (s.setHist a x).portUp = s.portUp := rfl
@[simp] theorem State.setHist_fwUp {a : AgentId} {x : Hist} : (s.setHist a x).fwUp = s.fwUp := rfl
@[simp] theorem State.setHist_inWindow {a : AgentId} {x : Hist} {j : Line} : (s.setHist a x).inWindow j = s.inWindow j := rfl
@[simp] theorem State.setHist_inCast {a : AgentId} {x : Hist} {j : Line} : (s.setHist a x).inCast j = s.inCast j := rfl
@[simp] theorem State.setHist_homeOf {a : AgentId} {x : Hist} {j : BitVec 12} : (s.setHist a x).homeOf j = s.homeOf j := rfl
@[simp] theorem State.setHist_edgeHome {a : AgentId} {x : Hist} {j : Nat} {b1 : BitVec 12} : (s.setHist a x).edgeHome j b1 = s.edgeHome j b1 := rfl
@[simp] theorem State.setHist_serves {a : AgentId} {x : Hist} {j : SliceId} {b1 : BitVec 12} : (s.setHist a x).serves j b1 = s.serves j b1 := rfl
@[simp] theorem State.setHist_attBounces {a : AgentId} {x : Hist} {j : AttId} : (s.setHist a x).attBounces j = s.attBounces j := rfl
@[simp] theorem State.setHist_portBounces {a : AgentId} {x : Hist} {j : PortId} : (s.setHist a x).portBounces j = s.portBounces j := rfl
@[simp] theorem State.setHist_attShut {a : AgentId} {x : Hist} {j : AttId} : (s.setHist a x).attShut j = s.attShut j := rfl
@[simp] theorem State.setHist_mpShut {a : AgentId} {x : Hist} {j : PortId} : (s.setHist a x).mpShut j = s.mpShut j := rfl
@[simp] theorem State.setHist_coxUp {a : AgentId} {x : Hist} : (s.setHist a x).coxUp = s.coxUp := rfl

/-! ## setRouter -/

@[simp] theorem State.setRouter_pending {i : Nat} {x : Router} : (s.setRouter i x).pending = s.pending := rfl
@[simp] theorem State.setRouter_modes {i : Nat} {x : Router} : (s.setRouter i x).modes = s.modes := rfl
@[simp] theorem State.setRouter_plinth {i : Nat} {x : Router} : (s.setRouter i x).plinth = s.plinth := rfl
@[simp] theorem State.setRouter_pins {i : Nat} {x : Router} : (s.setRouter i x).pins = s.pins := rfl
@[simp] theorem State.setRouter_boot {i : Nat} {x : Router} : (s.setRouter i x).boot = s.boot := rfl
@[simp] theorem State.setRouter_regs {i : Nat} {x : Router} : (s.setRouter i x).regs = s.regs := rfl
@[simp] theorem State.setRouter_hostRsp {i : Nat} {x : Router} : (s.setRouter i x).hostRsp = s.hostRsp := rfl
@[simp] theorem State.setRouter_hostOut {i : Nat} {x : Router} : (s.setRouter i x).hostOut = s.hostOut := rfl
@[simp] theorem State.setRouter_coxRsp {i : Nat} {x : Router} : (s.setRouter i x).coxRsp = s.coxRsp := rfl
@[simp] theorem State.setRouter_agents {i : Nat} {x : Router} : (s.setRouter i x).agents = s.agents := rfl
@[simp] theorem State.setRouter_hists {i : Nat} {x : Router} : (s.setRouter i x).hists = s.hists := rfl
@[simp] theorem State.setRouter_atts {i : Nat} {x : Router} : (s.setRouter i x).atts = s.atts := rfl
@[simp] theorem State.setRouter_slices {i : Nat} {x : Router} : (s.setRouter i x).slices = s.slices := rfl
@[simp] theorem State.setRouter_ports {i : Nat} {x : Router} : (s.setRouter i x).ports = s.ports := rfl
@[simp] theorem State.setRouter_hmap {i : Nat} {x : Router} : (s.setRouter i x).hmap = s.hmap := rfl
@[simp] theorem State.setRouter_cast {i : Nat} {x : Router} : (s.setRouter i x).cast = s.cast := rfl
@[simp] theorem State.setRouter_events {i : Nat} {x : Router} : (s.setRouter i x).events = s.events := rfl
@[simp] theorem State.setRouter_counts {i : Nat} {x : Router} : (s.setRouter i x).counts = s.counts := rfl
@[simp] theorem State.setRouter_cox {i : Nat} {x : Router} : (s.setRouter i x).cox = s.cox := rfl
@[simp] theorem State.setRouter_calAt {i : Nat} {x : Router} : (s.setRouter i x).calAt = s.calAt := rfl
@[simp] theorem State.setRouter_freeCtr {i : Nat} {x : Router} : (s.setRouter i x).freeCtr = s.freeCtr := rfl
@[simp] theorem State.setRouter_castMem {i : Nat} {x : Router} : (s.setRouter i x).castMem = s.castMem := rfl
@[simp] theorem State.setRouter_att {i : Nat} {x : Router} {j : AttId} : (s.setRouter i x).att j = s.att j := rfl
@[simp] theorem State.setRouter_sl {i : Nat} {x : Router} {j : SliceId} : (s.setRouter i x).sl j = s.sl j := rfl
@[simp] theorem State.setRouter_mp {i : Nat} {x : Router} {j : PortId} : (s.setRouter i x).mp j = s.mp j := rfl
@[simp] theorem State.setRouter_agent {i : Nat} {x : Router} {j : AgentId} : (s.setRouter i x).agent j = s.agent j := rfl
@[simp] theorem State.setRouter_hist {i : Nat} {x : Router} {j : AgentId} : (s.setRouter i x).hist j = s.hist j := rfl
@[simp] theorem State.setRouter_ev {i : Nat} {x : Router} {j : Nat} : (s.setRouter i x).ev j = s.ev j := rfl
@[simp] theorem State.setRouter_cnt {i : Nat} {x : Router} {j : Nat} : (s.setRouter i x).cnt j = s.cnt j := rfl
@[simp] theorem State.setRouter_reg {i : Nat} {x : Router} {j : Nat} : (s.setRouter i x).reg j = s.reg j := rfl
@[simp] theorem State.setRouter_fld {i : Nat} {x : Router} {j : Fld} : (s.setRouter i x).fld j = s.fld j := rfl
@[simp] theorem State.setRouter_now {i : Nat} {x : Router} : (s.setRouter i x).now = s.now := rfl
@[simp] theorem State.setRouter_mode {i : Nat} {x : Router} : (s.setRouter i x).mode = s.mode := rfl
@[simp] theorem State.setRouter_held {i : Nat} {x : Router} : (s.setRouter i x).held = s.held := rfl
@[simp] theorem State.setRouter_runs {i : Nat} {x : Router} : (s.setRouter i x).runs = s.runs := rfl
@[simp] theorem State.setRouter_level {i : Nat} {x : Router} : (s.setRouter i x).level = s.level := rfl
@[simp] theorem State.setRouter_portUp {i : Nat} {x : Router} : (s.setRouter i x).portUp = s.portUp := rfl
@[simp] theorem State.setRouter_fwUp {i : Nat} {x : Router} : (s.setRouter i x).fwUp = s.fwUp := rfl
@[simp] theorem State.setRouter_inWindow {i : Nat} {x : Router} {j : Line} : (s.setRouter i x).inWindow j = s.inWindow j := rfl
@[simp] theorem State.setRouter_inCast {i : Nat} {x : Router} {j : Line} : (s.setRouter i x).inCast j = s.inCast j := rfl
@[simp] theorem State.setRouter_homeOf {i : Nat} {x : Router} {j : BitVec 12} : (s.setRouter i x).homeOf j = s.homeOf j := rfl
@[simp] theorem State.setRouter_edgeHome {i : Nat} {x : Router} {j : Nat} {b1 : BitVec 12} : (s.setRouter i x).edgeHome j b1 = s.edgeHome j b1 := rfl
@[simp] theorem State.setRouter_serves {i : Nat} {x : Router} {j : SliceId} {b1 : BitVec 12} : (s.setRouter i x).serves j b1 = s.serves j b1 := rfl
@[simp] theorem State.setRouter_attShut {i : Nat} {x : Router} {j : AttId} : (s.setRouter i x).attShut j = s.attShut j := rfl
@[simp] theorem State.setRouter_mpShut {i : Nat} {x : Router} {j : PortId} : (s.setRouter i x).mpShut j = s.mpShut j := rfl
@[simp] theorem State.setRouter_coxUp {i : Nat} {x : Router} : (s.setRouter i x).coxUp = s.coxUp := rfl

/-! ## setBounce -/

@[simp] theorem State.setBounce_pending {i u : Nat} {v : Bool} : (s.setBounce i u v).pending = s.pending := rfl
@[simp] theorem State.setBounce_modes {i u : Nat} {v : Bool} : (s.setBounce i u v).modes = s.modes := rfl
@[simp] theorem State.setBounce_plinth {i u : Nat} {v : Bool} : (s.setBounce i u v).plinth = s.plinth := rfl
@[simp] theorem State.setBounce_pins {i u : Nat} {v : Bool} : (s.setBounce i u v).pins = s.pins := rfl
@[simp] theorem State.setBounce_boot {i u : Nat} {v : Bool} : (s.setBounce i u v).boot = s.boot := rfl
@[simp] theorem State.setBounce_regs {i u : Nat} {v : Bool} : (s.setBounce i u v).regs = s.regs := rfl
@[simp] theorem State.setBounce_hostRsp {i u : Nat} {v : Bool} : (s.setBounce i u v).hostRsp = s.hostRsp := rfl
@[simp] theorem State.setBounce_hostOut {i u : Nat} {v : Bool} : (s.setBounce i u v).hostOut = s.hostOut := rfl
@[simp] theorem State.setBounce_coxRsp {i u : Nat} {v : Bool} : (s.setBounce i u v).coxRsp = s.coxRsp := rfl
@[simp] theorem State.setBounce_agents {i u : Nat} {v : Bool} : (s.setBounce i u v).agents = s.agents := rfl
@[simp] theorem State.setBounce_hists {i u : Nat} {v : Bool} : (s.setBounce i u v).hists = s.hists := rfl
@[simp] theorem State.setBounce_atts {i u : Nat} {v : Bool} : (s.setBounce i u v).atts = s.atts := rfl
@[simp] theorem State.setBounce_slices {i u : Nat} {v : Bool} : (s.setBounce i u v).slices = s.slices := rfl
@[simp] theorem State.setBounce_ports {i u : Nat} {v : Bool} : (s.setBounce i u v).ports = s.ports := rfl
@[simp] theorem State.setBounce_hmap {i u : Nat} {v : Bool} : (s.setBounce i u v).hmap = s.hmap := rfl
@[simp] theorem State.setBounce_cast {i u : Nat} {v : Bool} : (s.setBounce i u v).cast = s.cast := rfl
@[simp] theorem State.setBounce_events {i u : Nat} {v : Bool} : (s.setBounce i u v).events = s.events := rfl
@[simp] theorem State.setBounce_counts {i u : Nat} {v : Bool} : (s.setBounce i u v).counts = s.counts := rfl
@[simp] theorem State.setBounce_cox {i u : Nat} {v : Bool} : (s.setBounce i u v).cox = s.cox := rfl
@[simp] theorem State.setBounce_calAt {i u : Nat} {v : Bool} : (s.setBounce i u v).calAt = s.calAt := rfl
@[simp] theorem State.setBounce_freeCtr {i u : Nat} {v : Bool} : (s.setBounce i u v).freeCtr = s.freeCtr := rfl
@[simp] theorem State.setBounce_castMem {i u : Nat} {v : Bool} : (s.setBounce i u v).castMem = s.castMem := rfl
@[simp] theorem State.setBounce_att {i u : Nat} {v : Bool} {j : AttId} : (s.setBounce i u v).att j = s.att j := rfl
@[simp] theorem State.setBounce_sl {i u : Nat} {v : Bool} {j : SliceId} : (s.setBounce i u v).sl j = s.sl j := rfl
@[simp] theorem State.setBounce_mp {i u : Nat} {v : Bool} {j : PortId} : (s.setBounce i u v).mp j = s.mp j := rfl
@[simp] theorem State.setBounce_agent {i u : Nat} {v : Bool} {j : AgentId} : (s.setBounce i u v).agent j = s.agent j := rfl
@[simp] theorem State.setBounce_hist {i u : Nat} {v : Bool} {j : AgentId} : (s.setBounce i u v).hist j = s.hist j := rfl
@[simp] theorem State.setBounce_ev {i u : Nat} {v : Bool} {j : Nat} : (s.setBounce i u v).ev j = s.ev j := rfl
@[simp] theorem State.setBounce_cnt {i u : Nat} {v : Bool} {j : Nat} : (s.setBounce i u v).cnt j = s.cnt j := rfl
@[simp] theorem State.setBounce_reg {i u : Nat} {v : Bool} {j : Nat} : (s.setBounce i u v).reg j = s.reg j := rfl
@[simp] theorem State.setBounce_fld {i u : Nat} {v : Bool} {j : Fld} : (s.setBounce i u v).fld j = s.fld j := rfl
@[simp] theorem State.setBounce_now {i u : Nat} {v : Bool} : (s.setBounce i u v).now = s.now := rfl
@[simp] theorem State.setBounce_mode {i u : Nat} {v : Bool} : (s.setBounce i u v).mode = s.mode := rfl
@[simp] theorem State.setBounce_held {i u : Nat} {v : Bool} : (s.setBounce i u v).held = s.held := rfl
@[simp] theorem State.setBounce_runs {i u : Nat} {v : Bool} : (s.setBounce i u v).runs = s.runs := rfl
@[simp] theorem State.setBounce_level {i u : Nat} {v : Bool} : (s.setBounce i u v).level = s.level := rfl
@[simp] theorem State.setBounce_portUp {i u : Nat} {v : Bool} : (s.setBounce i u v).portUp = s.portUp := rfl
@[simp] theorem State.setBounce_fwUp {i u : Nat} {v : Bool} : (s.setBounce i u v).fwUp = s.fwUp := rfl
@[simp] theorem State.setBounce_inWindow {i u : Nat} {v : Bool} {j : Line} : (s.setBounce i u v).inWindow j = s.inWindow j := rfl
@[simp] theorem State.setBounce_inCast {i u : Nat} {v : Bool} {j : Line} : (s.setBounce i u v).inCast j = s.inCast j := rfl
@[simp] theorem State.setBounce_homeOf {i u : Nat} {v : Bool} {j : BitVec 12} : (s.setBounce i u v).homeOf j = s.homeOf j := rfl
@[simp] theorem State.setBounce_edgeHome {i u : Nat} {v : Bool} {j : Nat} {b1 : BitVec 12} : (s.setBounce i u v).edgeHome j b1 = s.edgeHome j b1 := rfl
@[simp] theorem State.setBounce_serves {i u : Nat} {v : Bool} {j : SliceId} {b1 : BitVec 12} : (s.setBounce i u v).serves j b1 = s.serves j b1 := rfl
@[simp] theorem State.setBounce_attShut {i u : Nat} {v : Bool} {j : AttId} : (s.setBounce i u v).attShut j = s.attShut j := rfl
@[simp] theorem State.setBounce_mpShut {i u : Nat} {v : Bool} {j : PortId} : (s.setBounce i u v).mpShut j = s.mpShut j := rfl
@[simp] theorem State.setBounce_coxUp {i u : Nat} {v : Bool} : (s.setBounce i u v).coxUp = s.coxUp := rfl

/-! ## putPkt -/

@[simp] theorem State.putPkt_pending {i : Nat} {p : Pkt} : (s.putPkt i p).pending = s.pending := rfl
@[simp] theorem State.putPkt_modes {i : Nat} {p : Pkt} : (s.putPkt i p).modes = s.modes := rfl
@[simp] theorem State.putPkt_plinth {i : Nat} {p : Pkt} : (s.putPkt i p).plinth = s.plinth := rfl
@[simp] theorem State.putPkt_pins {i : Nat} {p : Pkt} : (s.putPkt i p).pins = s.pins := rfl
@[simp] theorem State.putPkt_boot {i : Nat} {p : Pkt} : (s.putPkt i p).boot = s.boot := rfl
@[simp] theorem State.putPkt_regs {i : Nat} {p : Pkt} : (s.putPkt i p).regs = s.regs := rfl
@[simp] theorem State.putPkt_hostRsp {i : Nat} {p : Pkt} : (s.putPkt i p).hostRsp = s.hostRsp := rfl
@[simp] theorem State.putPkt_hostOut {i : Nat} {p : Pkt} : (s.putPkt i p).hostOut = s.hostOut := rfl
@[simp] theorem State.putPkt_coxRsp {i : Nat} {p : Pkt} : (s.putPkt i p).coxRsp = s.coxRsp := rfl
@[simp] theorem State.putPkt_agents {i : Nat} {p : Pkt} : (s.putPkt i p).agents = s.agents := rfl
@[simp] theorem State.putPkt_hists {i : Nat} {p : Pkt} : (s.putPkt i p).hists = s.hists := rfl
@[simp] theorem State.putPkt_atts {i : Nat} {p : Pkt} : (s.putPkt i p).atts = s.atts := rfl
@[simp] theorem State.putPkt_slices {i : Nat} {p : Pkt} : (s.putPkt i p).slices = s.slices := rfl
@[simp] theorem State.putPkt_ports {i : Nat} {p : Pkt} : (s.putPkt i p).ports = s.ports := rfl
@[simp] theorem State.putPkt_hmap {i : Nat} {p : Pkt} : (s.putPkt i p).hmap = s.hmap := rfl
@[simp] theorem State.putPkt_cast {i : Nat} {p : Pkt} : (s.putPkt i p).cast = s.cast := rfl
@[simp] theorem State.putPkt_events {i : Nat} {p : Pkt} : (s.putPkt i p).events = s.events := rfl
@[simp] theorem State.putPkt_counts {i : Nat} {p : Pkt} : (s.putPkt i p).counts = s.counts := rfl
@[simp] theorem State.putPkt_cox {i : Nat} {p : Pkt} : (s.putPkt i p).cox = s.cox := rfl
@[simp] theorem State.putPkt_calAt {i : Nat} {p : Pkt} : (s.putPkt i p).calAt = s.calAt := rfl
@[simp] theorem State.putPkt_freeCtr {i : Nat} {p : Pkt} : (s.putPkt i p).freeCtr = s.freeCtr := rfl
@[simp] theorem State.putPkt_castMem {i : Nat} {p : Pkt} : (s.putPkt i p).castMem = s.castMem := rfl
@[simp] theorem State.putPkt_att {i : Nat} {p : Pkt} {j : AttId} : (s.putPkt i p).att j = s.att j := rfl
@[simp] theorem State.putPkt_sl {i : Nat} {p : Pkt} {j : SliceId} : (s.putPkt i p).sl j = s.sl j := rfl
@[simp] theorem State.putPkt_mp {i : Nat} {p : Pkt} {j : PortId} : (s.putPkt i p).mp j = s.mp j := rfl
@[simp] theorem State.putPkt_agent {i : Nat} {p : Pkt} {j : AgentId} : (s.putPkt i p).agent j = s.agent j := rfl
@[simp] theorem State.putPkt_hist {i : Nat} {p : Pkt} {j : AgentId} : (s.putPkt i p).hist j = s.hist j := rfl
@[simp] theorem State.putPkt_router {i : Nat} {p : Pkt} {j : Nat} : (s.putPkt i p).router j = s.router j := rfl
@[simp] theorem State.putPkt_ev {i : Nat} {p : Pkt} {j : Nat} : (s.putPkt i p).ev j = s.ev j := rfl
@[simp] theorem State.putPkt_cnt {i : Nat} {p : Pkt} {j : Nat} : (s.putPkt i p).cnt j = s.cnt j := rfl
@[simp] theorem State.putPkt_reg {i : Nat} {p : Pkt} {j : Nat} : (s.putPkt i p).reg j = s.reg j := rfl
@[simp] theorem State.putPkt_fld {i : Nat} {p : Pkt} {j : Fld} : (s.putPkt i p).fld j = s.fld j := rfl
@[simp] theorem State.putPkt_now {i : Nat} {p : Pkt} : (s.putPkt i p).now = s.now := rfl
@[simp] theorem State.putPkt_mode {i : Nat} {p : Pkt} : (s.putPkt i p).mode = s.mode := rfl
@[simp] theorem State.putPkt_held {i : Nat} {p : Pkt} : (s.putPkt i p).held = s.held := rfl
@[simp] theorem State.putPkt_runs {i : Nat} {p : Pkt} : (s.putPkt i p).runs = s.runs := rfl
@[simp] theorem State.putPkt_level {i : Nat} {p : Pkt} : (s.putPkt i p).level = s.level := rfl
@[simp] theorem State.putPkt_portUp {i : Nat} {p : Pkt} : (s.putPkt i p).portUp = s.portUp := rfl
@[simp] theorem State.putPkt_fwUp {i : Nat} {p : Pkt} : (s.putPkt i p).fwUp = s.fwUp := rfl
@[simp] theorem State.putPkt_inWindow {i : Nat} {p : Pkt} {j : Line} : (s.putPkt i p).inWindow j = s.inWindow j := rfl
@[simp] theorem State.putPkt_inCast {i : Nat} {p : Pkt} {j : Line} : (s.putPkt i p).inCast j = s.inCast j := rfl
@[simp] theorem State.putPkt_homeOf {i : Nat} {p : Pkt} {j : BitVec 12} : (s.putPkt i p).homeOf j = s.homeOf j := rfl
@[simp] theorem State.putPkt_edgeHome {i : Nat} {p : Pkt} {j : Nat} {b1 : BitVec 12} : (s.putPkt i p).edgeHome j b1 = s.edgeHome j b1 := rfl
@[simp] theorem State.putPkt_serves {i : Nat} {p : Pkt} {j : SliceId} {b1 : BitVec 12} : (s.putPkt i p).serves j b1 = s.serves j b1 := rfl
@[simp] theorem State.putPkt_attBounces {i : Nat} {p : Pkt} {j : AttId} : (s.putPkt i p).attBounces j = s.attBounces j := rfl
@[simp] theorem State.putPkt_portBounces {i : Nat} {p : Pkt} {j : PortId} : (s.putPkt i p).portBounces j = s.portBounces j := rfl
@[simp] theorem State.putPkt_attShut {i : Nat} {p : Pkt} {j : AttId} : (s.putPkt i p).attShut j = s.attShut j := rfl
@[simp] theorem State.putPkt_mpShut {i : Nat} {p : Pkt} {j : PortId} : (s.putPkt i p).mpShut j = s.mpShut j := rfl
@[simp] theorem State.putPkt_coxUp {i : Nat} {p : Pkt} : (s.putPkt i p).coxUp = s.coxUp := rfl

/-! ## inject -/

@[simp] theorem State.inject_pending {a b : Place} {n : Nat} {c : BitVec 107} {l : List (BitVec 128)} : (s.inject a b n c l).pending = s.pending := rfl
@[simp] theorem State.inject_modes {a b : Place} {n : Nat} {c : BitVec 107} {l : List (BitVec 128)} : (s.inject a b n c l).modes = s.modes := rfl
@[simp] theorem State.inject_plinth {a b : Place} {n : Nat} {c : BitVec 107} {l : List (BitVec 128)} : (s.inject a b n c l).plinth = s.plinth := rfl
@[simp] theorem State.inject_pins {a b : Place} {n : Nat} {c : BitVec 107} {l : List (BitVec 128)} : (s.inject a b n c l).pins = s.pins := rfl
@[simp] theorem State.inject_boot {a b : Place} {n : Nat} {c : BitVec 107} {l : List (BitVec 128)} : (s.inject a b n c l).boot = s.boot := rfl
@[simp] theorem State.inject_regs {a b : Place} {n : Nat} {c : BitVec 107} {l : List (BitVec 128)} : (s.inject a b n c l).regs = s.regs := rfl
@[simp] theorem State.inject_hostRsp {a b : Place} {n : Nat} {c : BitVec 107} {l : List (BitVec 128)} : (s.inject a b n c l).hostRsp = s.hostRsp := rfl
@[simp] theorem State.inject_hostOut {a b : Place} {n : Nat} {c : BitVec 107} {l : List (BitVec 128)} : (s.inject a b n c l).hostOut = s.hostOut := rfl
@[simp] theorem State.inject_coxRsp {a b : Place} {n : Nat} {c : BitVec 107} {l : List (BitVec 128)} : (s.inject a b n c l).coxRsp = s.coxRsp := rfl
@[simp] theorem State.inject_agents {a b : Place} {n : Nat} {c : BitVec 107} {l : List (BitVec 128)} : (s.inject a b n c l).agents = s.agents := rfl
@[simp] theorem State.inject_hists {a b : Place} {n : Nat} {c : BitVec 107} {l : List (BitVec 128)} : (s.inject a b n c l).hists = s.hists := rfl
@[simp] theorem State.inject_atts {a b : Place} {n : Nat} {c : BitVec 107} {l : List (BitVec 128)} : (s.inject a b n c l).atts = s.atts := rfl
@[simp] theorem State.inject_slices {a b : Place} {n : Nat} {c : BitVec 107} {l : List (BitVec 128)} : (s.inject a b n c l).slices = s.slices := rfl
@[simp] theorem State.inject_ports {a b : Place} {n : Nat} {c : BitVec 107} {l : List (BitVec 128)} : (s.inject a b n c l).ports = s.ports := rfl
@[simp] theorem State.inject_hmap {a b : Place} {n : Nat} {c : BitVec 107} {l : List (BitVec 128)} : (s.inject a b n c l).hmap = s.hmap := rfl
@[simp] theorem State.inject_cast {a b : Place} {n : Nat} {c : BitVec 107} {l : List (BitVec 128)} : (s.inject a b n c l).cast = s.cast := rfl
@[simp] theorem State.inject_events {a b : Place} {n : Nat} {c : BitVec 107} {l : List (BitVec 128)} : (s.inject a b n c l).events = s.events := rfl
@[simp] theorem State.inject_counts {a b : Place} {n : Nat} {c : BitVec 107} {l : List (BitVec 128)} : (s.inject a b n c l).counts = s.counts := rfl
@[simp] theorem State.inject_cox {a b : Place} {n : Nat} {c : BitVec 107} {l : List (BitVec 128)} : (s.inject a b n c l).cox = s.cox := rfl
@[simp] theorem State.inject_calAt {a b : Place} {n : Nat} {c : BitVec 107} {l : List (BitVec 128)} : (s.inject a b n c l).calAt = s.calAt := rfl
@[simp] theorem State.inject_freeCtr {a b : Place} {n : Nat} {c : BitVec 107} {l : List (BitVec 128)} : (s.inject a b n c l).freeCtr = s.freeCtr := rfl
@[simp] theorem State.inject_castMem {a b : Place} {n : Nat} {c : BitVec 107} {l : List (BitVec 128)} : (s.inject a b n c l).castMem = s.castMem := rfl
@[simp] theorem State.inject_att {a b : Place} {n : Nat} {c : BitVec 107} {l : List (BitVec 128)} {j : AttId} : (s.inject a b n c l).att j = s.att j := rfl
@[simp] theorem State.inject_sl {a b : Place} {n : Nat} {c : BitVec 107} {l : List (BitVec 128)} {j : SliceId} : (s.inject a b n c l).sl j = s.sl j := rfl
@[simp] theorem State.inject_mp {a b : Place} {n : Nat} {c : BitVec 107} {l : List (BitVec 128)} {j : PortId} : (s.inject a b n c l).mp j = s.mp j := rfl
@[simp] theorem State.inject_agent {a b : Place} {n : Nat} {c : BitVec 107} {l : List (BitVec 128)} {j : AgentId} : (s.inject a b n c l).agent j = s.agent j := rfl
@[simp] theorem State.inject_hist {a b : Place} {n : Nat} {c : BitVec 107} {l : List (BitVec 128)} {j : AgentId} : (s.inject a b n c l).hist j = s.hist j := rfl
@[simp] theorem State.inject_router {a b : Place} {n : Nat} {c : BitVec 107} {l : List (BitVec 128)} {j : Nat} : (s.inject a b n c l).router j = s.router j := rfl
@[simp] theorem State.inject_ev {a b : Place} {n : Nat} {c : BitVec 107} {l : List (BitVec 128)} {j : Nat} : (s.inject a b n c l).ev j = s.ev j := rfl
@[simp] theorem State.inject_cnt {a b : Place} {n : Nat} {c : BitVec 107} {l : List (BitVec 128)} {j : Nat} : (s.inject a b n c l).cnt j = s.cnt j := rfl
@[simp] theorem State.inject_reg {a b : Place} {n : Nat} {c : BitVec 107} {l : List (BitVec 128)} {j : Nat} : (s.inject a b n c l).reg j = s.reg j := rfl
@[simp] theorem State.inject_fld {a b : Place} {n : Nat} {c : BitVec 107} {l : List (BitVec 128)} {j : Fld} : (s.inject a b n c l).fld j = s.fld j := rfl
@[simp] theorem State.inject_now {a b : Place} {n : Nat} {c : BitVec 107} {l : List (BitVec 128)} : (s.inject a b n c l).now = s.now := rfl
@[simp] theorem State.inject_mode {a b : Place} {n : Nat} {c : BitVec 107} {l : List (BitVec 128)} : (s.inject a b n c l).mode = s.mode := rfl
@[simp] theorem State.inject_held {a b : Place} {n : Nat} {c : BitVec 107} {l : List (BitVec 128)} : (s.inject a b n c l).held = s.held := rfl
@[simp] theorem State.inject_runs {a b : Place} {n : Nat} {c : BitVec 107} {l : List (BitVec 128)} : (s.inject a b n c l).runs = s.runs := rfl
@[simp] theorem State.inject_level {a b : Place} {n : Nat} {c : BitVec 107} {l : List (BitVec 128)} : (s.inject a b n c l).level = s.level := rfl
@[simp] theorem State.inject_portUp {a b : Place} {n : Nat} {c : BitVec 107} {l : List (BitVec 128)} : (s.inject a b n c l).portUp = s.portUp := rfl
@[simp] theorem State.inject_fwUp {a b : Place} {n : Nat} {c : BitVec 107} {l : List (BitVec 128)} : (s.inject a b n c l).fwUp = s.fwUp := rfl
@[simp] theorem State.inject_inWindow {a b : Place} {n : Nat} {c : BitVec 107} {l : List (BitVec 128)} {j : Line} : (s.inject a b n c l).inWindow j = s.inWindow j := rfl
@[simp] theorem State.inject_inCast {a b : Place} {n : Nat} {c : BitVec 107} {l : List (BitVec 128)} {j : Line} : (s.inject a b n c l).inCast j = s.inCast j := rfl
@[simp] theorem State.inject_homeOf {a b : Place} {n : Nat} {c : BitVec 107} {l : List (BitVec 128)} {j : BitVec 12} : (s.inject a b n c l).homeOf j = s.homeOf j := rfl
@[simp] theorem State.inject_edgeHome {a b : Place} {n : Nat} {c : BitVec 107} {l : List (BitVec 128)} {j : Nat} {b1 : BitVec 12} : (s.inject a b n c l).edgeHome j b1 = s.edgeHome j b1 := rfl
@[simp] theorem State.inject_serves {a b : Place} {n : Nat} {c : BitVec 107} {l : List (BitVec 128)} {j : SliceId} {b1 : BitVec 12} : (s.inject a b n c l).serves j b1 = s.serves j b1 := rfl
@[simp] theorem State.inject_attBounces {a b : Place} {n : Nat} {c : BitVec 107} {l : List (BitVec 128)} {j : AttId} : (s.inject a b n c l).attBounces j = s.attBounces j := rfl
@[simp] theorem State.inject_portBounces {a b : Place} {n : Nat} {c : BitVec 107} {l : List (BitVec 128)} {j : PortId} : (s.inject a b n c l).portBounces j = s.portBounces j := rfl
@[simp] theorem State.inject_attShut {a b : Place} {n : Nat} {c : BitVec 107} {l : List (BitVec 128)} {j : AttId} : (s.inject a b n c l).attShut j = s.attShut j := rfl
@[simp] theorem State.inject_mpShut {a b : Place} {n : Nat} {c : BitVec 107} {l : List (BitVec 128)} {j : PortId} : (s.inject a b n c l).mpShut j = s.mpShut j := rfl
@[simp] theorem State.inject_coxUp {a b : Place} {n : Nat} {c : BitVec 107} {l : List (BitVec 128)} : (s.inject a b n c l).coxUp = s.coxUp := rfl

/-! ## setEv -/

@[simp] theorem State.setEv_pending {i : Nat} {x : EvSrc} : (s.setEv i x).pending = s.pending := rfl
@[simp] theorem State.setEv_modes {i : Nat} {x : EvSrc} : (s.setEv i x).modes = s.modes := rfl
@[simp] theorem State.setEv_plinth {i : Nat} {x : EvSrc} : (s.setEv i x).plinth = s.plinth := rfl
@[simp] theorem State.setEv_pins {i : Nat} {x : EvSrc} : (s.setEv i x).pins = s.pins := rfl
@[simp] theorem State.setEv_boot {i : Nat} {x : EvSrc} : (s.setEv i x).boot = s.boot := rfl
@[simp] theorem State.setEv_regs {i : Nat} {x : EvSrc} : (s.setEv i x).regs = s.regs := rfl
@[simp] theorem State.setEv_hostRsp {i : Nat} {x : EvSrc} : (s.setEv i x).hostRsp = s.hostRsp := rfl
@[simp] theorem State.setEv_hostOut {i : Nat} {x : EvSrc} : (s.setEv i x).hostOut = s.hostOut := rfl
@[simp] theorem State.setEv_coxRsp {i : Nat} {x : EvSrc} : (s.setEv i x).coxRsp = s.coxRsp := rfl
@[simp] theorem State.setEv_agents {i : Nat} {x : EvSrc} : (s.setEv i x).agents = s.agents := rfl
@[simp] theorem State.setEv_hists {i : Nat} {x : EvSrc} : (s.setEv i x).hists = s.hists := rfl
@[simp] theorem State.setEv_atts {i : Nat} {x : EvSrc} : (s.setEv i x).atts = s.atts := rfl
@[simp] theorem State.setEv_slices {i : Nat} {x : EvSrc} : (s.setEv i x).slices = s.slices := rfl
@[simp] theorem State.setEv_ports {i : Nat} {x : EvSrc} : (s.setEv i x).ports = s.ports := rfl
@[simp] theorem State.setEv_mesh {i : Nat} {x : EvSrc} : (s.setEv i x).mesh = s.mesh := rfl
@[simp] theorem State.setEv_hmap {i : Nat} {x : EvSrc} : (s.setEv i x).hmap = s.hmap := rfl
@[simp] theorem State.setEv_cast {i : Nat} {x : EvSrc} : (s.setEv i x).cast = s.cast := rfl
@[simp] theorem State.setEv_counts {i : Nat} {x : EvSrc} : (s.setEv i x).counts = s.counts := rfl
@[simp] theorem State.setEv_cox {i : Nat} {x : EvSrc} : (s.setEv i x).cox = s.cox := rfl
@[simp] theorem State.setEv_calAt {i : Nat} {x : EvSrc} : (s.setEv i x).calAt = s.calAt := rfl
@[simp] theorem State.setEv_freeCtr {i : Nat} {x : EvSrc} : (s.setEv i x).freeCtr = s.freeCtr := rfl
@[simp] theorem State.setEv_castMem {i : Nat} {x : EvSrc} : (s.setEv i x).castMem = s.castMem := rfl
@[simp] theorem State.setEv_att {i : Nat} {x : EvSrc} {j : AttId} : (s.setEv i x).att j = s.att j := rfl
@[simp] theorem State.setEv_sl {i : Nat} {x : EvSrc} {j : SliceId} : (s.setEv i x).sl j = s.sl j := rfl
@[simp] theorem State.setEv_mp {i : Nat} {x : EvSrc} {j : PortId} : (s.setEv i x).mp j = s.mp j := rfl
@[simp] theorem State.setEv_agent {i : Nat} {x : EvSrc} {j : AgentId} : (s.setEv i x).agent j = s.agent j := rfl
@[simp] theorem State.setEv_hist {i : Nat} {x : EvSrc} {j : AgentId} : (s.setEv i x).hist j = s.hist j := rfl
@[simp] theorem State.setEv_router {i : Nat} {x : EvSrc} {j : Nat} : (s.setEv i x).router j = s.router j := rfl
@[simp] theorem State.setEv_cnt {i : Nat} {x : EvSrc} {j : Nat} : (s.setEv i x).cnt j = s.cnt j := rfl
@[simp] theorem State.setEv_reg {i : Nat} {x : EvSrc} {j : Nat} : (s.setEv i x).reg j = s.reg j := rfl
@[simp] theorem State.setEv_fld {i : Nat} {x : EvSrc} {j : Fld} : (s.setEv i x).fld j = s.fld j := rfl
@[simp] theorem State.setEv_now {i : Nat} {x : EvSrc} : (s.setEv i x).now = s.now := rfl
@[simp] theorem State.setEv_mode {i : Nat} {x : EvSrc} : (s.setEv i x).mode = s.mode := rfl
@[simp] theorem State.setEv_held {i : Nat} {x : EvSrc} : (s.setEv i x).held = s.held := rfl
@[simp] theorem State.setEv_runs {i : Nat} {x : EvSrc} : (s.setEv i x).runs = s.runs := rfl
@[simp] theorem State.setEv_level {i : Nat} {x : EvSrc} : (s.setEv i x).level = s.level := rfl
@[simp] theorem State.setEv_portUp {i : Nat} {x : EvSrc} : (s.setEv i x).portUp = s.portUp := rfl
@[simp] theorem State.setEv_fwUp {i : Nat} {x : EvSrc} : (s.setEv i x).fwUp = s.fwUp := rfl
@[simp] theorem State.setEv_inWindow {i : Nat} {x : EvSrc} {j : Line} : (s.setEv i x).inWindow j = s.inWindow j := rfl
@[simp] theorem State.setEv_inCast {i : Nat} {x : EvSrc} {j : Line} : (s.setEv i x).inCast j = s.inCast j := rfl
@[simp] theorem State.setEv_homeOf {i : Nat} {x : EvSrc} {j : BitVec 12} : (s.setEv i x).homeOf j = s.homeOf j := rfl
@[simp] theorem State.setEv_edgeHome {i : Nat} {x : EvSrc} {j : Nat} {b1 : BitVec 12} : (s.setEv i x).edgeHome j b1 = s.edgeHome j b1 := rfl
@[simp] theorem State.setEv_serves {i : Nat} {x : EvSrc} {j : SliceId} {b1 : BitVec 12} : (s.setEv i x).serves j b1 = s.serves j b1 := rfl
@[simp] theorem State.setEv_attBounces {i : Nat} {x : EvSrc} {j : AttId} : (s.setEv i x).attBounces j = s.attBounces j := rfl
@[simp] theorem State.setEv_portBounces {i : Nat} {x : EvSrc} {j : PortId} : (s.setEv i x).portBounces j = s.portBounces j := rfl
@[simp] theorem State.setEv_attShut {i : Nat} {x : EvSrc} {j : AttId} : (s.setEv i x).attShut j = s.attShut j := rfl
@[simp] theorem State.setEv_mpShut {i : Nat} {x : EvSrc} {j : PortId} : (s.setEv i x).mpShut j = s.mpShut j := rfl
@[simp] theorem State.setEv_coxUp {i : Nat} {x : EvSrc} : (s.setEv i x).coxUp = s.coxUp := rfl

/-! ## setCnt -/

@[simp] theorem State.setCnt_pending {i : Nat} {x : Counter} : (s.setCnt i x).pending = s.pending := rfl
@[simp] theorem State.setCnt_modes {i : Nat} {x : Counter} : (s.setCnt i x).modes = s.modes := rfl
@[simp] theorem State.setCnt_plinth {i : Nat} {x : Counter} : (s.setCnt i x).plinth = s.plinth := rfl
@[simp] theorem State.setCnt_pins {i : Nat} {x : Counter} : (s.setCnt i x).pins = s.pins := rfl
@[simp] theorem State.setCnt_boot {i : Nat} {x : Counter} : (s.setCnt i x).boot = s.boot := rfl
@[simp] theorem State.setCnt_regs {i : Nat} {x : Counter} : (s.setCnt i x).regs = s.regs := rfl
@[simp] theorem State.setCnt_hostRsp {i : Nat} {x : Counter} : (s.setCnt i x).hostRsp = s.hostRsp := rfl
@[simp] theorem State.setCnt_hostOut {i : Nat} {x : Counter} : (s.setCnt i x).hostOut = s.hostOut := rfl
@[simp] theorem State.setCnt_coxRsp {i : Nat} {x : Counter} : (s.setCnt i x).coxRsp = s.coxRsp := rfl
@[simp] theorem State.setCnt_agents {i : Nat} {x : Counter} : (s.setCnt i x).agents = s.agents := rfl
@[simp] theorem State.setCnt_hists {i : Nat} {x : Counter} : (s.setCnt i x).hists = s.hists := rfl
@[simp] theorem State.setCnt_atts {i : Nat} {x : Counter} : (s.setCnt i x).atts = s.atts := rfl
@[simp] theorem State.setCnt_slices {i : Nat} {x : Counter} : (s.setCnt i x).slices = s.slices := rfl
@[simp] theorem State.setCnt_ports {i : Nat} {x : Counter} : (s.setCnt i x).ports = s.ports := rfl
@[simp] theorem State.setCnt_mesh {i : Nat} {x : Counter} : (s.setCnt i x).mesh = s.mesh := rfl
@[simp] theorem State.setCnt_hmap {i : Nat} {x : Counter} : (s.setCnt i x).hmap = s.hmap := rfl
@[simp] theorem State.setCnt_cast {i : Nat} {x : Counter} : (s.setCnt i x).cast = s.cast := rfl
@[simp] theorem State.setCnt_events {i : Nat} {x : Counter} : (s.setCnt i x).events = s.events := rfl
@[simp] theorem State.setCnt_cox {i : Nat} {x : Counter} : (s.setCnt i x).cox = s.cox := rfl
@[simp] theorem State.setCnt_calAt {i : Nat} {x : Counter} : (s.setCnt i x).calAt = s.calAt := rfl
@[simp] theorem State.setCnt_freeCtr {i : Nat} {x : Counter} : (s.setCnt i x).freeCtr = s.freeCtr := rfl
@[simp] theorem State.setCnt_castMem {i : Nat} {x : Counter} : (s.setCnt i x).castMem = s.castMem := rfl
@[simp] theorem State.setCnt_att {i : Nat} {x : Counter} {j : AttId} : (s.setCnt i x).att j = s.att j := rfl
@[simp] theorem State.setCnt_sl {i : Nat} {x : Counter} {j : SliceId} : (s.setCnt i x).sl j = s.sl j := rfl
@[simp] theorem State.setCnt_mp {i : Nat} {x : Counter} {j : PortId} : (s.setCnt i x).mp j = s.mp j := rfl
@[simp] theorem State.setCnt_agent {i : Nat} {x : Counter} {j : AgentId} : (s.setCnt i x).agent j = s.agent j := rfl
@[simp] theorem State.setCnt_hist {i : Nat} {x : Counter} {j : AgentId} : (s.setCnt i x).hist j = s.hist j := rfl
@[simp] theorem State.setCnt_router {i : Nat} {x : Counter} {j : Nat} : (s.setCnt i x).router j = s.router j := rfl
@[simp] theorem State.setCnt_ev {i : Nat} {x : Counter} {j : Nat} : (s.setCnt i x).ev j = s.ev j := rfl
@[simp] theorem State.setCnt_reg {i : Nat} {x : Counter} {j : Nat} : (s.setCnt i x).reg j = s.reg j := rfl
@[simp] theorem State.setCnt_fld {i : Nat} {x : Counter} {j : Fld} : (s.setCnt i x).fld j = s.fld j := rfl
@[simp] theorem State.setCnt_now {i : Nat} {x : Counter} : (s.setCnt i x).now = s.now := rfl
@[simp] theorem State.setCnt_mode {i : Nat} {x : Counter} : (s.setCnt i x).mode = s.mode := rfl
@[simp] theorem State.setCnt_held {i : Nat} {x : Counter} : (s.setCnt i x).held = s.held := rfl
@[simp] theorem State.setCnt_runs {i : Nat} {x : Counter} : (s.setCnt i x).runs = s.runs := rfl
@[simp] theorem State.setCnt_level {i : Nat} {x : Counter} : (s.setCnt i x).level = s.level := rfl
@[simp] theorem State.setCnt_portUp {i : Nat} {x : Counter} : (s.setCnt i x).portUp = s.portUp := rfl
@[simp] theorem State.setCnt_fwUp {i : Nat} {x : Counter} : (s.setCnt i x).fwUp = s.fwUp := rfl
@[simp] theorem State.setCnt_inWindow {i : Nat} {x : Counter} {j : Line} : (s.setCnt i x).inWindow j = s.inWindow j := rfl
@[simp] theorem State.setCnt_inCast {i : Nat} {x : Counter} {j : Line} : (s.setCnt i x).inCast j = s.inCast j := rfl
@[simp] theorem State.setCnt_homeOf {i : Nat} {x : Counter} {j : BitVec 12} : (s.setCnt i x).homeOf j = s.homeOf j := rfl
@[simp] theorem State.setCnt_edgeHome {i : Nat} {x : Counter} {j : Nat} {b1 : BitVec 12} : (s.setCnt i x).edgeHome j b1 = s.edgeHome j b1 := rfl
@[simp] theorem State.setCnt_serves {i : Nat} {x : Counter} {j : SliceId} {b1 : BitVec 12} : (s.setCnt i x).serves j b1 = s.serves j b1 := rfl
@[simp] theorem State.setCnt_attBounces {i : Nat} {x : Counter} {j : AttId} : (s.setCnt i x).attBounces j = s.attBounces j := rfl
@[simp] theorem State.setCnt_portBounces {i : Nat} {x : Counter} {j : PortId} : (s.setCnt i x).portBounces j = s.portBounces j := rfl
@[simp] theorem State.setCnt_attShut {i : Nat} {x : Counter} {j : AttId} : (s.setCnt i x).attShut j = s.attShut j := rfl
@[simp] theorem State.setCnt_mpShut {i : Nat} {x : Counter} {j : PortId} : (s.setCnt i x).mpShut j = s.mpShut j := rfl
@[simp] theorem State.setCnt_coxUp {i : Nat} {x : Counter} : (s.setCnt i x).coxUp = s.coxUp := rfl

/-! ## setReg -/

@[simp] theorem State.setReg_pending {a : Nat} {w : Word32} : (s.setReg a w).pending = s.pending := rfl
@[simp] theorem State.setReg_modes {a : Nat} {w : Word32} : (s.setReg a w).modes = s.modes := rfl
@[simp] theorem State.setReg_plinth {a : Nat} {w : Word32} : (s.setReg a w).plinth = s.plinth := rfl
@[simp] theorem State.setReg_pins {a : Nat} {w : Word32} : (s.setReg a w).pins = s.pins := rfl
@[simp] theorem State.setReg_boot {a : Nat} {w : Word32} : (s.setReg a w).boot = s.boot := rfl
@[simp] theorem State.setReg_hostRsp {a : Nat} {w : Word32} : (s.setReg a w).hostRsp = s.hostRsp := rfl
@[simp] theorem State.setReg_hostOut {a : Nat} {w : Word32} : (s.setReg a w).hostOut = s.hostOut := rfl
@[simp] theorem State.setReg_coxRsp {a : Nat} {w : Word32} : (s.setReg a w).coxRsp = s.coxRsp := rfl
@[simp] theorem State.setReg_agents {a : Nat} {w : Word32} : (s.setReg a w).agents = s.agents := rfl
@[simp] theorem State.setReg_hists {a : Nat} {w : Word32} : (s.setReg a w).hists = s.hists := rfl
@[simp] theorem State.setReg_atts {a : Nat} {w : Word32} : (s.setReg a w).atts = s.atts := rfl
@[simp] theorem State.setReg_slices {a : Nat} {w : Word32} : (s.setReg a w).slices = s.slices := rfl
@[simp] theorem State.setReg_ports {a : Nat} {w : Word32} : (s.setReg a w).ports = s.ports := rfl
@[simp] theorem State.setReg_mesh {a : Nat} {w : Word32} : (s.setReg a w).mesh = s.mesh := rfl
@[simp] theorem State.setReg_hmap {a : Nat} {w : Word32} : (s.setReg a w).hmap = s.hmap := rfl
@[simp] theorem State.setReg_cast {a : Nat} {w : Word32} : (s.setReg a w).cast = s.cast := rfl
@[simp] theorem State.setReg_events {a : Nat} {w : Word32} : (s.setReg a w).events = s.events := rfl
@[simp] theorem State.setReg_counts {a : Nat} {w : Word32} : (s.setReg a w).counts = s.counts := rfl
@[simp] theorem State.setReg_cox {a : Nat} {w : Word32} : (s.setReg a w).cox = s.cox := rfl
@[simp] theorem State.setReg_calAt {a : Nat} {w : Word32} : (s.setReg a w).calAt = s.calAt := rfl
@[simp] theorem State.setReg_freeCtr {a : Nat} {w : Word32} : (s.setReg a w).freeCtr = s.freeCtr := rfl
@[simp] theorem State.setReg_castMem {a : Nat} {w : Word32} : (s.setReg a w).castMem = s.castMem := rfl
@[simp] theorem State.setReg_att {a : Nat} {w : Word32} {j : AttId} : (s.setReg a w).att j = s.att j := rfl
@[simp] theorem State.setReg_sl {a : Nat} {w : Word32} {j : SliceId} : (s.setReg a w).sl j = s.sl j := rfl
@[simp] theorem State.setReg_mp {a : Nat} {w : Word32} {j : PortId} : (s.setReg a w).mp j = s.mp j := rfl
@[simp] theorem State.setReg_agent {a : Nat} {w : Word32} {j : AgentId} : (s.setReg a w).agent j = s.agent j := rfl
@[simp] theorem State.setReg_hist {a : Nat} {w : Word32} {j : AgentId} : (s.setReg a w).hist j = s.hist j := rfl
@[simp] theorem State.setReg_router {a : Nat} {w : Word32} {j : Nat} : (s.setReg a w).router j = s.router j := rfl
@[simp] theorem State.setReg_ev {a : Nat} {w : Word32} {j : Nat} : (s.setReg a w).ev j = s.ev j := rfl
@[simp] theorem State.setReg_cnt {a : Nat} {w : Word32} {j : Nat} : (s.setReg a w).cnt j = s.cnt j := rfl
@[simp] theorem State.setReg_now {a : Nat} {w : Word32} : (s.setReg a w).now = s.now := rfl
@[simp] theorem State.setReg_mode {a : Nat} {w : Word32} : (s.setReg a w).mode = s.mode := rfl
@[simp] theorem State.setReg_held {a : Nat} {w : Word32} : (s.setReg a w).held = s.held := rfl
@[simp] theorem State.setReg_runs {a : Nat} {w : Word32} : (s.setReg a w).runs = s.runs := rfl
@[simp] theorem State.setReg_level {a : Nat} {w : Word32} : (s.setReg a w).level = s.level := rfl
@[simp] theorem State.setReg_portUp {a : Nat} {w : Word32} : (s.setReg a w).portUp = s.portUp := rfl
@[simp] theorem State.setReg_fwUp {a : Nat} {w : Word32} : (s.setReg a w).fwUp = s.fwUp := rfl
@[simp] theorem State.setReg_homeOf {a : Nat} {w : Word32} {j : BitVec 12} : (s.setReg a w).homeOf j = s.homeOf j := rfl
@[simp] theorem State.setReg_edgeHome {a : Nat} {w : Word32} {j : Nat} {b1 : BitVec 12} : (s.setReg a w).edgeHome j b1 = s.edgeHome j b1 := rfl
@[simp] theorem State.setReg_serves {a : Nat} {w : Word32} {j : SliceId} {b1 : BitVec 12} : (s.setReg a w).serves j b1 = s.serves j b1 := rfl
@[simp] theorem State.setReg_attBounces {a : Nat} {w : Word32} {j : AttId} : (s.setReg a w).attBounces j = s.attBounces j := rfl
@[simp] theorem State.setReg_portBounces {a : Nat} {w : Word32} {j : PortId} : (s.setReg a w).portBounces j = s.portBounces j := rfl
@[simp] theorem State.setReg_attShut {a : Nat} {w : Word32} {j : AttId} : (s.setReg a w).attShut j = s.attShut j := rfl
@[simp] theorem State.setReg_mpShut {a : Nat} {w : Word32} {j : PortId} : (s.setReg a w).mpShut j = s.mpShut j := rfl
@[simp] theorem State.setReg_coxUp {a : Nat} {w : Word32} : (s.setReg a w).coxUp = s.coxUp := rfl

/-! ## putF -/

@[simp] theorem State.putF_pending {f : Fld} {n : Nat} : (s.putF f n).pending = s.pending := rfl
@[simp] theorem State.putF_modes {f : Fld} {n : Nat} : (s.putF f n).modes = s.modes := rfl
@[simp] theorem State.putF_plinth {f : Fld} {n : Nat} : (s.putF f n).plinth = s.plinth := rfl
@[simp] theorem State.putF_pins {f : Fld} {n : Nat} : (s.putF f n).pins = s.pins := rfl
@[simp] theorem State.putF_boot {f : Fld} {n : Nat} : (s.putF f n).boot = s.boot := rfl
@[simp] theorem State.putF_hostRsp {f : Fld} {n : Nat} : (s.putF f n).hostRsp = s.hostRsp := rfl
@[simp] theorem State.putF_hostOut {f : Fld} {n : Nat} : (s.putF f n).hostOut = s.hostOut := rfl
@[simp] theorem State.putF_coxRsp {f : Fld} {n : Nat} : (s.putF f n).coxRsp = s.coxRsp := rfl
@[simp] theorem State.putF_agents {f : Fld} {n : Nat} : (s.putF f n).agents = s.agents := rfl
@[simp] theorem State.putF_hists {f : Fld} {n : Nat} : (s.putF f n).hists = s.hists := rfl
@[simp] theorem State.putF_atts {f : Fld} {n : Nat} : (s.putF f n).atts = s.atts := rfl
@[simp] theorem State.putF_slices {f : Fld} {n : Nat} : (s.putF f n).slices = s.slices := rfl
@[simp] theorem State.putF_ports {f : Fld} {n : Nat} : (s.putF f n).ports = s.ports := rfl
@[simp] theorem State.putF_mesh {f : Fld} {n : Nat} : (s.putF f n).mesh = s.mesh := rfl
@[simp] theorem State.putF_hmap {f : Fld} {n : Nat} : (s.putF f n).hmap = s.hmap := rfl
@[simp] theorem State.putF_cast {f : Fld} {n : Nat} : (s.putF f n).cast = s.cast := rfl
@[simp] theorem State.putF_events {f : Fld} {n : Nat} : (s.putF f n).events = s.events := rfl
@[simp] theorem State.putF_counts {f : Fld} {n : Nat} : (s.putF f n).counts = s.counts := rfl
@[simp] theorem State.putF_cox {f : Fld} {n : Nat} : (s.putF f n).cox = s.cox := rfl
@[simp] theorem State.putF_calAt {f : Fld} {n : Nat} : (s.putF f n).calAt = s.calAt := rfl
@[simp] theorem State.putF_freeCtr {f : Fld} {n : Nat} : (s.putF f n).freeCtr = s.freeCtr := rfl
@[simp] theorem State.putF_castMem {f : Fld} {n : Nat} : (s.putF f n).castMem = s.castMem := rfl
@[simp] theorem State.putF_att {f : Fld} {n : Nat} {j : AttId} : (s.putF f n).att j = s.att j := rfl
@[simp] theorem State.putF_sl {f : Fld} {n : Nat} {j : SliceId} : (s.putF f n).sl j = s.sl j := rfl
@[simp] theorem State.putF_mp {f : Fld} {n : Nat} {j : PortId} : (s.putF f n).mp j = s.mp j := rfl
@[simp] theorem State.putF_agent {f : Fld} {n : Nat} {j : AgentId} : (s.putF f n).agent j = s.agent j := rfl
@[simp] theorem State.putF_hist {f : Fld} {n : Nat} {j : AgentId} : (s.putF f n).hist j = s.hist j := rfl
@[simp] theorem State.putF_router {f : Fld} {n : Nat} {j : Nat} : (s.putF f n).router j = s.router j := rfl
@[simp] theorem State.putF_ev {f : Fld} {n : Nat} {j : Nat} : (s.putF f n).ev j = s.ev j := rfl
@[simp] theorem State.putF_cnt {f : Fld} {n : Nat} {j : Nat} : (s.putF f n).cnt j = s.cnt j := rfl
@[simp] theorem State.putF_now {f : Fld} {n : Nat} : (s.putF f n).now = s.now := rfl
@[simp] theorem State.putF_mode {f : Fld} {n : Nat} : (s.putF f n).mode = s.mode := rfl
@[simp] theorem State.putF_held {f : Fld} {n : Nat} : (s.putF f n).held = s.held := rfl
@[simp] theorem State.putF_runs {f : Fld} {n : Nat} : (s.putF f n).runs = s.runs := rfl
@[simp] theorem State.putF_level {f : Fld} {n : Nat} : (s.putF f n).level = s.level := rfl
@[simp] theorem State.putF_portUp {f : Fld} {n : Nat} : (s.putF f n).portUp = s.portUp := rfl
@[simp] theorem State.putF_fwUp {f : Fld} {n : Nat} : (s.putF f n).fwUp = s.fwUp := rfl
@[simp] theorem State.putF_homeOf {f : Fld} {n : Nat} {j : BitVec 12} : (s.putF f n).homeOf j = s.homeOf j := rfl
@[simp] theorem State.putF_edgeHome {f : Fld} {n : Nat} {j : Nat} {b1 : BitVec 12} : (s.putF f n).edgeHome j b1 = s.edgeHome j b1 := rfl
@[simp] theorem State.putF_serves {f : Fld} {n : Nat} {j : SliceId} {b1 : BitVec 12} : (s.putF f n).serves j b1 = s.serves j b1 := rfl
@[simp] theorem State.putF_attBounces {f : Fld} {n : Nat} {j : AttId} : (s.putF f n).attBounces j = s.attBounces j := rfl
@[simp] theorem State.putF_portBounces {f : Fld} {n : Nat} {j : PortId} : (s.putF f n).portBounces j = s.portBounces j := rfl
@[simp] theorem State.putF_attShut {f : Fld} {n : Nat} {j : AttId} : (s.putF f n).attShut j = s.attShut j := rfl
@[simp] theorem State.putF_mpShut {f : Fld} {n : Nat} {j : PortId} : (s.putF f n).mpShut j = s.mpShut j := rfl
@[simp] theorem State.putF_coxUp {f : Fld} {n : Nat} : (s.putF f n).coxUp = s.coxUp := rfl

/-! ## addF -/

@[simp] theorem State.addF_pending {f : Fld} {n : Nat} : (s.addF f n).pending = s.pending := rfl
@[simp] theorem State.addF_modes {f : Fld} {n : Nat} : (s.addF f n).modes = s.modes := rfl
@[simp] theorem State.addF_plinth {f : Fld} {n : Nat} : (s.addF f n).plinth = s.plinth := rfl
@[simp] theorem State.addF_pins {f : Fld} {n : Nat} : (s.addF f n).pins = s.pins := rfl
@[simp] theorem State.addF_boot {f : Fld} {n : Nat} : (s.addF f n).boot = s.boot := rfl
@[simp] theorem State.addF_hostRsp {f : Fld} {n : Nat} : (s.addF f n).hostRsp = s.hostRsp := rfl
@[simp] theorem State.addF_hostOut {f : Fld} {n : Nat} : (s.addF f n).hostOut = s.hostOut := rfl
@[simp] theorem State.addF_coxRsp {f : Fld} {n : Nat} : (s.addF f n).coxRsp = s.coxRsp := rfl
@[simp] theorem State.addF_agents {f : Fld} {n : Nat} : (s.addF f n).agents = s.agents := rfl
@[simp] theorem State.addF_hists {f : Fld} {n : Nat} : (s.addF f n).hists = s.hists := rfl
@[simp] theorem State.addF_atts {f : Fld} {n : Nat} : (s.addF f n).atts = s.atts := rfl
@[simp] theorem State.addF_slices {f : Fld} {n : Nat} : (s.addF f n).slices = s.slices := rfl
@[simp] theorem State.addF_ports {f : Fld} {n : Nat} : (s.addF f n).ports = s.ports := rfl
@[simp] theorem State.addF_mesh {f : Fld} {n : Nat} : (s.addF f n).mesh = s.mesh := rfl
@[simp] theorem State.addF_hmap {f : Fld} {n : Nat} : (s.addF f n).hmap = s.hmap := rfl
@[simp] theorem State.addF_cast {f : Fld} {n : Nat} : (s.addF f n).cast = s.cast := rfl
@[simp] theorem State.addF_events {f : Fld} {n : Nat} : (s.addF f n).events = s.events := rfl
@[simp] theorem State.addF_counts {f : Fld} {n : Nat} : (s.addF f n).counts = s.counts := rfl
@[simp] theorem State.addF_cox {f : Fld} {n : Nat} : (s.addF f n).cox = s.cox := rfl
@[simp] theorem State.addF_calAt {f : Fld} {n : Nat} : (s.addF f n).calAt = s.calAt := rfl
@[simp] theorem State.addF_freeCtr {f : Fld} {n : Nat} : (s.addF f n).freeCtr = s.freeCtr := rfl
@[simp] theorem State.addF_castMem {f : Fld} {n : Nat} : (s.addF f n).castMem = s.castMem := rfl
@[simp] theorem State.addF_att {f : Fld} {n : Nat} {j : AttId} : (s.addF f n).att j = s.att j := rfl
@[simp] theorem State.addF_sl {f : Fld} {n : Nat} {j : SliceId} : (s.addF f n).sl j = s.sl j := rfl
@[simp] theorem State.addF_mp {f : Fld} {n : Nat} {j : PortId} : (s.addF f n).mp j = s.mp j := rfl
@[simp] theorem State.addF_agent {f : Fld} {n : Nat} {j : AgentId} : (s.addF f n).agent j = s.agent j := rfl
@[simp] theorem State.addF_hist {f : Fld} {n : Nat} {j : AgentId} : (s.addF f n).hist j = s.hist j := rfl
@[simp] theorem State.addF_router {f : Fld} {n : Nat} {j : Nat} : (s.addF f n).router j = s.router j := rfl
@[simp] theorem State.addF_ev {f : Fld} {n : Nat} {j : Nat} : (s.addF f n).ev j = s.ev j := rfl
@[simp] theorem State.addF_cnt {f : Fld} {n : Nat} {j : Nat} : (s.addF f n).cnt j = s.cnt j := rfl
@[simp] theorem State.addF_now {f : Fld} {n : Nat} : (s.addF f n).now = s.now := rfl
@[simp] theorem State.addF_mode {f : Fld} {n : Nat} : (s.addF f n).mode = s.mode := rfl
@[simp] theorem State.addF_held {f : Fld} {n : Nat} : (s.addF f n).held = s.held := rfl
@[simp] theorem State.addF_runs {f : Fld} {n : Nat} : (s.addF f n).runs = s.runs := rfl
@[simp] theorem State.addF_level {f : Fld} {n : Nat} : (s.addF f n).level = s.level := rfl
@[simp] theorem State.addF_portUp {f : Fld} {n : Nat} : (s.addF f n).portUp = s.portUp := rfl
@[simp] theorem State.addF_fwUp {f : Fld} {n : Nat} : (s.addF f n).fwUp = s.fwUp := rfl
@[simp] theorem State.addF_homeOf {f : Fld} {n : Nat} {j : BitVec 12} : (s.addF f n).homeOf j = s.homeOf j := rfl
@[simp] theorem State.addF_edgeHome {f : Fld} {n : Nat} {j : Nat} {b1 : BitVec 12} : (s.addF f n).edgeHome j b1 = s.edgeHome j b1 := rfl
@[simp] theorem State.addF_serves {f : Fld} {n : Nat} {j : SliceId} {b1 : BitVec 12} : (s.addF f n).serves j b1 = s.serves j b1 := rfl
@[simp] theorem State.addF_attBounces {f : Fld} {n : Nat} {j : AttId} : (s.addF f n).attBounces j = s.attBounces j := rfl
@[simp] theorem State.addF_portBounces {f : Fld} {n : Nat} {j : PortId} : (s.addF f n).portBounces j = s.portBounces j := rfl
@[simp] theorem State.addF_attShut {f : Fld} {n : Nat} {j : AttId} : (s.addF f n).attShut j = s.attShut j := rfl
@[simp] theorem State.addF_mpShut {f : Fld} {n : Nat} {j : PortId} : (s.addF f n).mpShut j = s.mpShut j := rfl
@[simp] theorem State.addF_coxUp {f : Fld} {n : Nat} : (s.addF f n).coxUp = s.coxUp := rfl

/-! ## incF -/

@[simp] theorem State.incF_pending {f : Fld} : (s.incF f).pending = s.pending := rfl
@[simp] theorem State.incF_modes {f : Fld} : (s.incF f).modes = s.modes := rfl
@[simp] theorem State.incF_plinth {f : Fld} : (s.incF f).plinth = s.plinth := rfl
@[simp] theorem State.incF_pins {f : Fld} : (s.incF f).pins = s.pins := rfl
@[simp] theorem State.incF_boot {f : Fld} : (s.incF f).boot = s.boot := rfl
@[simp] theorem State.incF_hostRsp {f : Fld} : (s.incF f).hostRsp = s.hostRsp := rfl
@[simp] theorem State.incF_hostOut {f : Fld} : (s.incF f).hostOut = s.hostOut := rfl
@[simp] theorem State.incF_coxRsp {f : Fld} : (s.incF f).coxRsp = s.coxRsp := rfl
@[simp] theorem State.incF_agents {f : Fld} : (s.incF f).agents = s.agents := rfl
@[simp] theorem State.incF_hists {f : Fld} : (s.incF f).hists = s.hists := rfl
@[simp] theorem State.incF_atts {f : Fld} : (s.incF f).atts = s.atts := rfl
@[simp] theorem State.incF_slices {f : Fld} : (s.incF f).slices = s.slices := rfl
@[simp] theorem State.incF_ports {f : Fld} : (s.incF f).ports = s.ports := rfl
@[simp] theorem State.incF_mesh {f : Fld} : (s.incF f).mesh = s.mesh := rfl
@[simp] theorem State.incF_hmap {f : Fld} : (s.incF f).hmap = s.hmap := rfl
@[simp] theorem State.incF_cast {f : Fld} : (s.incF f).cast = s.cast := rfl
@[simp] theorem State.incF_events {f : Fld} : (s.incF f).events = s.events := rfl
@[simp] theorem State.incF_counts {f : Fld} : (s.incF f).counts = s.counts := rfl
@[simp] theorem State.incF_cox {f : Fld} : (s.incF f).cox = s.cox := rfl
@[simp] theorem State.incF_calAt {f : Fld} : (s.incF f).calAt = s.calAt := rfl
@[simp] theorem State.incF_freeCtr {f : Fld} : (s.incF f).freeCtr = s.freeCtr := rfl
@[simp] theorem State.incF_castMem {f : Fld} : (s.incF f).castMem = s.castMem := rfl
@[simp] theorem State.incF_att {f : Fld} {j : AttId} : (s.incF f).att j = s.att j := rfl
@[simp] theorem State.incF_sl {f : Fld} {j : SliceId} : (s.incF f).sl j = s.sl j := rfl
@[simp] theorem State.incF_mp {f : Fld} {j : PortId} : (s.incF f).mp j = s.mp j := rfl
@[simp] theorem State.incF_agent {f : Fld} {j : AgentId} : (s.incF f).agent j = s.agent j := rfl
@[simp] theorem State.incF_hist {f : Fld} {j : AgentId} : (s.incF f).hist j = s.hist j := rfl
@[simp] theorem State.incF_router {f : Fld} {j : Nat} : (s.incF f).router j = s.router j := rfl
@[simp] theorem State.incF_ev {f : Fld} {j : Nat} : (s.incF f).ev j = s.ev j := rfl
@[simp] theorem State.incF_cnt {f : Fld} {j : Nat} : (s.incF f).cnt j = s.cnt j := rfl
@[simp] theorem State.incF_now {f : Fld} : (s.incF f).now = s.now := rfl
@[simp] theorem State.incF_mode {f : Fld} : (s.incF f).mode = s.mode := rfl
@[simp] theorem State.incF_held {f : Fld} : (s.incF f).held = s.held := rfl
@[simp] theorem State.incF_runs {f : Fld} : (s.incF f).runs = s.runs := rfl
@[simp] theorem State.incF_level {f : Fld} : (s.incF f).level = s.level := rfl
@[simp] theorem State.incF_portUp {f : Fld} : (s.incF f).portUp = s.portUp := rfl
@[simp] theorem State.incF_fwUp {f : Fld} : (s.incF f).fwUp = s.fwUp := rfl
@[simp] theorem State.incF_homeOf {f : Fld} {j : BitVec 12} : (s.incF f).homeOf j = s.homeOf j := rfl
@[simp] theorem State.incF_edgeHome {f : Fld} {j : Nat} {b1 : BitVec 12} : (s.incF f).edgeHome j b1 = s.edgeHome j b1 := rfl
@[simp] theorem State.incF_serves {f : Fld} {j : SliceId} {b1 : BitVec 12} : (s.incF f).serves j b1 = s.serves j b1 := rfl
@[simp] theorem State.incF_attBounces {f : Fld} {j : AttId} : (s.incF f).attBounces j = s.attBounces j := rfl
@[simp] theorem State.incF_portBounces {f : Fld} {j : PortId} : (s.incF f).portBounces j = s.portBounces j := rfl
@[simp] theorem State.incF_attShut {f : Fld} {j : AttId} : (s.incF f).attShut j = s.attShut j := rfl
@[simp] theorem State.incF_mpShut {f : Fld} {j : PortId} : (s.incF f).mpShut j = s.mpShut j := rfl
@[simp] theorem State.incF_coxUp {f : Fld} : (s.incF f).coxUp = s.coxUp := rfl

/-! ## wrapF -/

@[simp] theorem State.wrapF_pending {f : Fld} : (s.wrapF f).pending = s.pending := rfl
@[simp] theorem State.wrapF_modes {f : Fld} : (s.wrapF f).modes = s.modes := rfl
@[simp] theorem State.wrapF_plinth {f : Fld} : (s.wrapF f).plinth = s.plinth := rfl
@[simp] theorem State.wrapF_pins {f : Fld} : (s.wrapF f).pins = s.pins := rfl
@[simp] theorem State.wrapF_boot {f : Fld} : (s.wrapF f).boot = s.boot := rfl
@[simp] theorem State.wrapF_hostRsp {f : Fld} : (s.wrapF f).hostRsp = s.hostRsp := rfl
@[simp] theorem State.wrapF_hostOut {f : Fld} : (s.wrapF f).hostOut = s.hostOut := rfl
@[simp] theorem State.wrapF_coxRsp {f : Fld} : (s.wrapF f).coxRsp = s.coxRsp := rfl
@[simp] theorem State.wrapF_agents {f : Fld} : (s.wrapF f).agents = s.agents := rfl
@[simp] theorem State.wrapF_hists {f : Fld} : (s.wrapF f).hists = s.hists := rfl
@[simp] theorem State.wrapF_atts {f : Fld} : (s.wrapF f).atts = s.atts := rfl
@[simp] theorem State.wrapF_slices {f : Fld} : (s.wrapF f).slices = s.slices := rfl
@[simp] theorem State.wrapF_ports {f : Fld} : (s.wrapF f).ports = s.ports := rfl
@[simp] theorem State.wrapF_mesh {f : Fld} : (s.wrapF f).mesh = s.mesh := rfl
@[simp] theorem State.wrapF_hmap {f : Fld} : (s.wrapF f).hmap = s.hmap := rfl
@[simp] theorem State.wrapF_cast {f : Fld} : (s.wrapF f).cast = s.cast := rfl
@[simp] theorem State.wrapF_events {f : Fld} : (s.wrapF f).events = s.events := rfl
@[simp] theorem State.wrapF_counts {f : Fld} : (s.wrapF f).counts = s.counts := rfl
@[simp] theorem State.wrapF_cox {f : Fld} : (s.wrapF f).cox = s.cox := rfl
@[simp] theorem State.wrapF_calAt {f : Fld} : (s.wrapF f).calAt = s.calAt := rfl
@[simp] theorem State.wrapF_freeCtr {f : Fld} : (s.wrapF f).freeCtr = s.freeCtr := rfl
@[simp] theorem State.wrapF_castMem {f : Fld} : (s.wrapF f).castMem = s.castMem := rfl
@[simp] theorem State.wrapF_att {f : Fld} {j : AttId} : (s.wrapF f).att j = s.att j := rfl
@[simp] theorem State.wrapF_sl {f : Fld} {j : SliceId} : (s.wrapF f).sl j = s.sl j := rfl
@[simp] theorem State.wrapF_mp {f : Fld} {j : PortId} : (s.wrapF f).mp j = s.mp j := rfl
@[simp] theorem State.wrapF_agent {f : Fld} {j : AgentId} : (s.wrapF f).agent j = s.agent j := rfl
@[simp] theorem State.wrapF_hist {f : Fld} {j : AgentId} : (s.wrapF f).hist j = s.hist j := rfl
@[simp] theorem State.wrapF_router {f : Fld} {j : Nat} : (s.wrapF f).router j = s.router j := rfl
@[simp] theorem State.wrapF_ev {f : Fld} {j : Nat} : (s.wrapF f).ev j = s.ev j := rfl
@[simp] theorem State.wrapF_cnt {f : Fld} {j : Nat} : (s.wrapF f).cnt j = s.cnt j := rfl
@[simp] theorem State.wrapF_now {f : Fld} : (s.wrapF f).now = s.now := rfl
@[simp] theorem State.wrapF_mode {f : Fld} : (s.wrapF f).mode = s.mode := rfl
@[simp] theorem State.wrapF_held {f : Fld} : (s.wrapF f).held = s.held := rfl
@[simp] theorem State.wrapF_runs {f : Fld} : (s.wrapF f).runs = s.runs := rfl
@[simp] theorem State.wrapF_level {f : Fld} : (s.wrapF f).level = s.level := rfl
@[simp] theorem State.wrapF_portUp {f : Fld} : (s.wrapF f).portUp = s.portUp := rfl
@[simp] theorem State.wrapF_fwUp {f : Fld} : (s.wrapF f).fwUp = s.fwUp := rfl
@[simp] theorem State.wrapF_homeOf {f : Fld} {j : BitVec 12} : (s.wrapF f).homeOf j = s.homeOf j := rfl
@[simp] theorem State.wrapF_edgeHome {f : Fld} {j : Nat} {b1 : BitVec 12} : (s.wrapF f).edgeHome j b1 = s.edgeHome j b1 := rfl
@[simp] theorem State.wrapF_serves {f : Fld} {j : SliceId} {b1 : BitVec 12} : (s.wrapF f).serves j b1 = s.serves j b1 := rfl
@[simp] theorem State.wrapF_attBounces {f : Fld} {j : AttId} : (s.wrapF f).attBounces j = s.attBounces j := rfl
@[simp] theorem State.wrapF_portBounces {f : Fld} {j : PortId} : (s.wrapF f).portBounces j = s.portBounces j := rfl
@[simp] theorem State.wrapF_attShut {f : Fld} {j : AttId} : (s.wrapF f).attShut j = s.attShut j := rfl
@[simp] theorem State.wrapF_mpShut {f : Fld} {j : PortId} : (s.wrapF f).mpShut j = s.mpShut j := rfl
@[simp] theorem State.wrapF_coxUp {f : Fld} : (s.wrapF f).coxUp = s.coxUp := rfl

/-! ## maxF -/

@[simp] theorem State.maxF_pending {f : Fld} {n : Nat} : (s.maxF f n).pending = s.pending := by
  unfold State.maxF; (repeat' split) <;> simp
@[simp] theorem State.maxF_modes {f : Fld} {n : Nat} : (s.maxF f n).modes = s.modes := by
  unfold State.maxF; (repeat' split) <;> simp
@[simp] theorem State.maxF_plinth {f : Fld} {n : Nat} : (s.maxF f n).plinth = s.plinth := by
  unfold State.maxF; (repeat' split) <;> simp
@[simp] theorem State.maxF_pins {f : Fld} {n : Nat} : (s.maxF f n).pins = s.pins := by
  unfold State.maxF; (repeat' split) <;> simp
@[simp] theorem State.maxF_boot {f : Fld} {n : Nat} : (s.maxF f n).boot = s.boot := by
  unfold State.maxF; (repeat' split) <;> simp
@[simp] theorem State.maxF_hostRsp {f : Fld} {n : Nat} : (s.maxF f n).hostRsp = s.hostRsp := by
  unfold State.maxF; (repeat' split) <;> simp
@[simp] theorem State.maxF_hostOut {f : Fld} {n : Nat} : (s.maxF f n).hostOut = s.hostOut := by
  unfold State.maxF; (repeat' split) <;> simp
@[simp] theorem State.maxF_coxRsp {f : Fld} {n : Nat} : (s.maxF f n).coxRsp = s.coxRsp := by
  unfold State.maxF; (repeat' split) <;> simp
@[simp] theorem State.maxF_agents {f : Fld} {n : Nat} : (s.maxF f n).agents = s.agents := by
  unfold State.maxF; (repeat' split) <;> simp
@[simp] theorem State.maxF_hists {f : Fld} {n : Nat} : (s.maxF f n).hists = s.hists := by
  unfold State.maxF; (repeat' split) <;> simp
@[simp] theorem State.maxF_atts {f : Fld} {n : Nat} : (s.maxF f n).atts = s.atts := by
  unfold State.maxF; (repeat' split) <;> simp
@[simp] theorem State.maxF_slices {f : Fld} {n : Nat} : (s.maxF f n).slices = s.slices := by
  unfold State.maxF; (repeat' split) <;> simp
@[simp] theorem State.maxF_ports {f : Fld} {n : Nat} : (s.maxF f n).ports = s.ports := by
  unfold State.maxF; (repeat' split) <;> simp
@[simp] theorem State.maxF_mesh {f : Fld} {n : Nat} : (s.maxF f n).mesh = s.mesh := by
  unfold State.maxF; (repeat' split) <;> simp
@[simp] theorem State.maxF_hmap {f : Fld} {n : Nat} : (s.maxF f n).hmap = s.hmap := by
  unfold State.maxF; (repeat' split) <;> simp
@[simp] theorem State.maxF_cast {f : Fld} {n : Nat} : (s.maxF f n).cast = s.cast := by
  unfold State.maxF; (repeat' split) <;> simp
@[simp] theorem State.maxF_events {f : Fld} {n : Nat} : (s.maxF f n).events = s.events := by
  unfold State.maxF; (repeat' split) <;> simp
@[simp] theorem State.maxF_counts {f : Fld} {n : Nat} : (s.maxF f n).counts = s.counts := by
  unfold State.maxF; (repeat' split) <;> simp
@[simp] theorem State.maxF_cox {f : Fld} {n : Nat} : (s.maxF f n).cox = s.cox := by
  unfold State.maxF; (repeat' split) <;> simp
@[simp] theorem State.maxF_calAt {f : Fld} {n : Nat} : (s.maxF f n).calAt = s.calAt := by
  unfold State.maxF; (repeat' split) <;> simp
@[simp] theorem State.maxF_freeCtr {f : Fld} {n : Nat} : (s.maxF f n).freeCtr = s.freeCtr := by
  unfold State.maxF; (repeat' split) <;> simp
@[simp] theorem State.maxF_castMem {f : Fld} {n : Nat} : (s.maxF f n).castMem = s.castMem := by
  unfold State.maxF; (repeat' split) <;> simp
@[simp] theorem State.maxF_att {f : Fld} {n : Nat} {j : AttId} : (s.maxF f n).att j = s.att j := by simp [State.att]
@[simp] theorem State.maxF_sl {f : Fld} {n : Nat} {j : SliceId} : (s.maxF f n).sl j = s.sl j := by simp [State.sl]
@[simp] theorem State.maxF_mp {f : Fld} {n : Nat} {j : PortId} : (s.maxF f n).mp j = s.mp j := by simp [State.mp]
@[simp] theorem State.maxF_agent {f : Fld} {n : Nat} {j : AgentId} : (s.maxF f n).agent j = s.agent j := by simp [State.agent]
@[simp] theorem State.maxF_hist {f : Fld} {n : Nat} {j : AgentId} : (s.maxF f n).hist j = s.hist j := by simp [State.hist]
@[simp] theorem State.maxF_router {f : Fld} {n : Nat} {j : Nat} : (s.maxF f n).router j = s.router j := by simp [State.router]
@[simp] theorem State.maxF_ev {f : Fld} {n : Nat} {j : Nat} : (s.maxF f n).ev j = s.ev j := by simp [State.ev]
@[simp] theorem State.maxF_cnt {f : Fld} {n : Nat} {j : Nat} : (s.maxF f n).cnt j = s.cnt j := by simp [State.cnt]
@[simp] theorem State.maxF_now {f : Fld} {n : Nat} : (s.maxF f n).now = s.now := by simp [State.now]
@[simp] theorem State.maxF_mode {f : Fld} {n : Nat} : (s.maxF f n).mode = s.mode := by simp [State.mode]
@[simp] theorem State.maxF_held {f : Fld} {n : Nat} : (s.maxF f n).held = s.held := by simp [State.held]
@[simp] theorem State.maxF_runs {f : Fld} {n : Nat} : (s.maxF f n).runs = s.runs := by simp [State.runs]
@[simp] theorem State.maxF_level {f : Fld} {n : Nat} : (s.maxF f n).level = s.level := by simp [State.level]
@[simp] theorem State.maxF_portUp {f : Fld} {n : Nat} : (s.maxF f n).portUp = s.portUp := by simp [State.portUp]
@[simp] theorem State.maxF_fwUp {f : Fld} {n : Nat} : (s.maxF f n).fwUp = s.fwUp := by simp [State.fwUp, State.portUp]
@[simp] theorem State.maxF_homeOf {f : Fld} {n : Nat} {j : BitVec 12} : (s.maxF f n).homeOf j = s.homeOf j := State.homeOf_of (by simp)
@[simp] theorem State.maxF_edgeHome {f : Fld} {n : Nat} {j : Nat} {b1 : BitVec 12} : (s.maxF f n).edgeHome j b1 = s.edgeHome j b1 := State.edgeHome_of (by simp)
@[simp] theorem State.maxF_serves {f : Fld} {n : Nat} {j : SliceId} {b1 : BitVec 12} : (s.maxF f n).serves j b1 = s.serves j b1 := State.serves_of (by simp)
@[simp] theorem State.maxF_attBounces {f : Fld} {n : Nat} {j : AttId} : (s.maxF f n).attBounces j = s.attBounces j := State.attBounces_of (by simp)
@[simp] theorem State.maxF_portBounces {f : Fld} {n : Nat} {j : PortId} : (s.maxF f n).portBounces j = s.portBounces j := State.portBounces_of (by simp)
@[simp] theorem State.maxF_attShut {f : Fld} {n : Nat} {j : AttId} : (s.maxF f n).attShut j = s.attShut j := State.attShut_of (by simp)
@[simp] theorem State.maxF_mpShut {f : Fld} {n : Nat} {j : PortId} : (s.maxF f n).mpShut j = s.mpShut j := State.mpShut_of (by simp)
@[simp] theorem State.maxF_coxUp {f : Fld} {n : Nat} : (s.maxF f n).coxUp = s.coxUp := State.coxUp_of (by simp) (by simp)

/-! ## evSend -/

@[simp] theorem State.evSend_pending {i : Nat} {v : Bool} : (s.evSend i v).pending = s.pending := by
  unfold State.evSend; (repeat' split) <;> simp
@[simp] theorem State.evSend_modes {i : Nat} {v : Bool} : (s.evSend i v).modes = s.modes := by
  unfold State.evSend; (repeat' split) <;> simp
@[simp] theorem State.evSend_plinth {i : Nat} {v : Bool} : (s.evSend i v).plinth = s.plinth := by
  unfold State.evSend; (repeat' split) <;> simp
@[simp] theorem State.evSend_pins {i : Nat} {v : Bool} : (s.evSend i v).pins = s.pins := by
  unfold State.evSend; (repeat' split) <;> simp
@[simp] theorem State.evSend_boot {i : Nat} {v : Bool} : (s.evSend i v).boot = s.boot := by
  unfold State.evSend; (repeat' split) <;> simp
@[simp] theorem State.evSend_regs {i : Nat} {v : Bool} : (s.evSend i v).regs = s.regs := by
  unfold State.evSend; (repeat' split) <;> simp
@[simp] theorem State.evSend_hostRsp {i : Nat} {v : Bool} : (s.evSend i v).hostRsp = s.hostRsp := by
  unfold State.evSend; (repeat' split) <;> simp
@[simp] theorem State.evSend_hostOut {i : Nat} {v : Bool} : (s.evSend i v).hostOut = s.hostOut := by
  unfold State.evSend; (repeat' split) <;> simp
@[simp] theorem State.evSend_coxRsp {i : Nat} {v : Bool} : (s.evSend i v).coxRsp = s.coxRsp := by
  unfold State.evSend; (repeat' split) <;> simp
@[simp] theorem State.evSend_agents {i : Nat} {v : Bool} : (s.evSend i v).agents = s.agents := by
  unfold State.evSend; (repeat' split) <;> simp
@[simp] theorem State.evSend_hists {i : Nat} {v : Bool} : (s.evSend i v).hists = s.hists := by
  unfold State.evSend; (repeat' split) <;> simp
@[simp] theorem State.evSend_atts {i : Nat} {v : Bool} : (s.evSend i v).atts = s.atts := by
  unfold State.evSend; (repeat' split) <;> simp
@[simp] theorem State.evSend_slices {i : Nat} {v : Bool} : (s.evSend i v).slices = s.slices := by
  unfold State.evSend; (repeat' split) <;> simp
@[simp] theorem State.evSend_ports {i : Nat} {v : Bool} : (s.evSend i v).ports = s.ports := by
  unfold State.evSend; (repeat' split) <;> simp
@[simp] theorem State.evSend_hmap {i : Nat} {v : Bool} : (s.evSend i v).hmap = s.hmap := by
  unfold State.evSend; (repeat' split) <;> simp
@[simp] theorem State.evSend_cast {i : Nat} {v : Bool} : (s.evSend i v).cast = s.cast := by
  unfold State.evSend; (repeat' split) <;> simp
@[simp] theorem State.evSend_counts {i : Nat} {v : Bool} : (s.evSend i v).counts = s.counts := by
  unfold State.evSend; (repeat' split) <;> simp
@[simp] theorem State.evSend_cox {i : Nat} {v : Bool} : (s.evSend i v).cox = s.cox := by
  unfold State.evSend; (repeat' split) <;> simp
@[simp] theorem State.evSend_calAt {i : Nat} {v : Bool} : (s.evSend i v).calAt = s.calAt := by
  unfold State.evSend; (repeat' split) <;> simp
@[simp] theorem State.evSend_freeCtr {i : Nat} {v : Bool} : (s.evSend i v).freeCtr = s.freeCtr := by
  unfold State.evSend; (repeat' split) <;> simp
@[simp] theorem State.evSend_castMem {i : Nat} {v : Bool} : (s.evSend i v).castMem = s.castMem := by
  unfold State.evSend; (repeat' split) <;> simp
@[simp] theorem State.evSend_att {i : Nat} {v : Bool} {j : AttId} : (s.evSend i v).att j = s.att j := by simp [State.att]
@[simp] theorem State.evSend_sl {i : Nat} {v : Bool} {j : SliceId} : (s.evSend i v).sl j = s.sl j := by simp [State.sl]
@[simp] theorem State.evSend_mp {i : Nat} {v : Bool} {j : PortId} : (s.evSend i v).mp j = s.mp j := by simp [State.mp]
@[simp] theorem State.evSend_agent {i : Nat} {v : Bool} {j : AgentId} : (s.evSend i v).agent j = s.agent j := by simp [State.agent]
@[simp] theorem State.evSend_hist {i : Nat} {v : Bool} {j : AgentId} : (s.evSend i v).hist j = s.hist j := by simp [State.hist]
@[simp] theorem State.evSend_router {i : Nat} {v : Bool} {j : Nat} : (s.evSend i v).router j = s.router j := by
  unfold State.evSend; (repeat' split) <;> rfl
@[simp] theorem State.evSend_ev {i : Nat} {v : Bool} {j : Nat} : (s.evSend i v).ev j = s.ev j := by
  unfold State.evSend; (repeat' split) <;> rfl
@[simp] theorem State.evSend_cnt {i : Nat} {v : Bool} {j : Nat} : (s.evSend i v).cnt j = s.cnt j := by simp [State.cnt]
@[simp] theorem State.evSend_reg {i : Nat} {v : Bool} {j : Nat} : (s.evSend i v).reg j = s.reg j := by simp [State.reg]
@[simp] theorem State.evSend_fld {i : Nat} {v : Bool} {j : Fld} : (s.evSend i v).fld j = s.fld j := by simp [State.fld, State.reg]
@[simp] theorem State.evSend_now {i : Nat} {v : Bool} : (s.evSend i v).now = s.now := by simp [State.now]
@[simp] theorem State.evSend_mode {i : Nat} {v : Bool} : (s.evSend i v).mode = s.mode := by simp [State.mode]
@[simp] theorem State.evSend_held {i : Nat} {v : Bool} : (s.evSend i v).held = s.held := by simp [State.held]
@[simp] theorem State.evSend_runs {i : Nat} {v : Bool} : (s.evSend i v).runs = s.runs := by simp [State.runs]
@[simp] theorem State.evSend_level {i : Nat} {v : Bool} : (s.evSend i v).level = s.level := by simp [State.level]
@[simp] theorem State.evSend_portUp {i : Nat} {v : Bool} : (s.evSend i v).portUp = s.portUp := by simp [State.portUp]
@[simp] theorem State.evSend_fwUp {i : Nat} {v : Bool} : (s.evSend i v).fwUp = s.fwUp := by simp [State.fwUp, State.portUp]
@[simp] theorem State.evSend_inWindow {i : Nat} {v : Bool} {j : Line} : (s.evSend i v).inWindow j = s.inWindow j := State.inWindow_of (by simp)
@[simp] theorem State.evSend_inCast {i : Nat} {v : Bool} {j : Line} : (s.evSend i v).inCast j = s.inCast j := State.inCast_of (by simp)
@[simp] theorem State.evSend_homeOf {i : Nat} {v : Bool} {j : BitVec 12} : (s.evSend i v).homeOf j = s.homeOf j := State.homeOf_of (by simp)
@[simp] theorem State.evSend_edgeHome {i : Nat} {v : Bool} {j : Nat} {b1 : BitVec 12} : (s.evSend i v).edgeHome j b1 = s.edgeHome j b1 := State.edgeHome_of (by simp)
@[simp] theorem State.evSend_serves {i : Nat} {v : Bool} {j : SliceId} {b1 : BitVec 12} : (s.evSend i v).serves j b1 = s.serves j b1 := State.serves_of (by simp)
@[simp] theorem State.evSend_attBounces {i : Nat} {v : Bool} {j : AttId} : (s.evSend i v).attBounces j = s.attBounces j := State.attBounces_of (by simp)
@[simp] theorem State.evSend_portBounces {i : Nat} {v : Bool} {j : PortId} : (s.evSend i v).portBounces j = s.portBounces j := State.portBounces_of (by simp)
@[simp] theorem State.evSend_attShut {i : Nat} {v : Bool} {j : AttId} : (s.evSend i v).attShut j = s.attShut j := State.attShut_of (by simp)
@[simp] theorem State.evSend_mpShut {i : Nat} {v : Bool} {j : PortId} : (s.evSend i v).mpShut j = s.mpShut j := State.mpShut_of (by simp)
@[simp] theorem State.evSend_coxUp {i : Nat} {v : Bool} : (s.evSend i v).coxUp = s.coxUp := State.coxUp_of (by simp) (by simp)

/-! ## fire -/

@[simp] theorem State.fire_pending {i : Nat} : (s.fire i).pending = s.pending := by simp [State.fire]
@[simp] theorem State.fire_modes {i : Nat} : (s.fire i).modes = s.modes := by simp [State.fire]
@[simp] theorem State.fire_plinth {i : Nat} : (s.fire i).plinth = s.plinth := by simp [State.fire]
@[simp] theorem State.fire_pins {i : Nat} : (s.fire i).pins = s.pins := by simp [State.fire]
@[simp] theorem State.fire_boot {i : Nat} : (s.fire i).boot = s.boot := by simp [State.fire]
@[simp] theorem State.fire_regs {i : Nat} : (s.fire i).regs = s.regs := by simp [State.fire]
@[simp] theorem State.fire_hostRsp {i : Nat} : (s.fire i).hostRsp = s.hostRsp := by simp [State.fire]
@[simp] theorem State.fire_hostOut {i : Nat} : (s.fire i).hostOut = s.hostOut := by simp [State.fire]
@[simp] theorem State.fire_coxRsp {i : Nat} : (s.fire i).coxRsp = s.coxRsp := by simp [State.fire]
@[simp] theorem State.fire_agents {i : Nat} : (s.fire i).agents = s.agents := by simp [State.fire]
@[simp] theorem State.fire_hists {i : Nat} : (s.fire i).hists = s.hists := by simp [State.fire]
@[simp] theorem State.fire_atts {i : Nat} : (s.fire i).atts = s.atts := by simp [State.fire]
@[simp] theorem State.fire_slices {i : Nat} : (s.fire i).slices = s.slices := by simp [State.fire]
@[simp] theorem State.fire_ports {i : Nat} : (s.fire i).ports = s.ports := by simp [State.fire]
@[simp] theorem State.fire_hmap {i : Nat} : (s.fire i).hmap = s.hmap := by simp [State.fire]
@[simp] theorem State.fire_cast {i : Nat} : (s.fire i).cast = s.cast := by simp [State.fire]
@[simp] theorem State.fire_counts {i : Nat} : (s.fire i).counts = s.counts := by simp [State.fire]
@[simp] theorem State.fire_cox {i : Nat} : (s.fire i).cox = s.cox := by simp [State.fire]
@[simp] theorem State.fire_calAt {i : Nat} : (s.fire i).calAt = s.calAt := by simp [State.fire]
@[simp] theorem State.fire_freeCtr {i : Nat} : (s.fire i).freeCtr = s.freeCtr := by simp [State.fire]
@[simp] theorem State.fire_castMem {i : Nat} : (s.fire i).castMem = s.castMem := by simp [State.fire]
@[simp] theorem State.fire_att {i : Nat} {j : AttId} : (s.fire i).att j = s.att j := by simp [State.att]
@[simp] theorem State.fire_sl {i : Nat} {j : SliceId} : (s.fire i).sl j = s.sl j := by simp [State.sl]
@[simp] theorem State.fire_mp {i : Nat} {j : PortId} : (s.fire i).mp j = s.mp j := by simp [State.mp]
@[simp] theorem State.fire_agent {i : Nat} {j : AgentId} : (s.fire i).agent j = s.agent j := by simp [State.agent]
@[simp] theorem State.fire_hist {i : Nat} {j : AgentId} : (s.fire i).hist j = s.hist j := by simp [State.hist]
@[simp] theorem State.fire_router {i : Nat} {j : Nat} : (s.fire i).router j = s.router j := by simp [State.fire]
@[simp] theorem State.fire_ev {i : Nat} {j : Nat} : (s.fire i).ev j = s.ev j := by simp [State.fire]
@[simp] theorem State.fire_cnt {i : Nat} {j : Nat} : (s.fire i).cnt j = s.cnt j := by simp [State.cnt]
@[simp] theorem State.fire_reg {i : Nat} {j : Nat} : (s.fire i).reg j = s.reg j := by simp [State.reg]
@[simp] theorem State.fire_fld {i : Nat} {j : Fld} : (s.fire i).fld j = s.fld j := by simp [State.fld, State.reg]
@[simp] theorem State.fire_now {i : Nat} : (s.fire i).now = s.now := by simp [State.now]
@[simp] theorem State.fire_mode {i : Nat} : (s.fire i).mode = s.mode := by simp [State.mode]
@[simp] theorem State.fire_held {i : Nat} : (s.fire i).held = s.held := by simp [State.held]
@[simp] theorem State.fire_runs {i : Nat} : (s.fire i).runs = s.runs := by simp [State.runs]
@[simp] theorem State.fire_level {i : Nat} : (s.fire i).level = s.level := by simp [State.level]
@[simp] theorem State.fire_portUp {i : Nat} : (s.fire i).portUp = s.portUp := by simp [State.portUp]
@[simp] theorem State.fire_fwUp {i : Nat} : (s.fire i).fwUp = s.fwUp := by simp [State.fwUp, State.portUp]
@[simp] theorem State.fire_inWindow {i : Nat} {j : Line} : (s.fire i).inWindow j = s.inWindow j := State.inWindow_of (by simp)
@[simp] theorem State.fire_inCast {i : Nat} {j : Line} : (s.fire i).inCast j = s.inCast j := State.inCast_of (by simp)
@[simp] theorem State.fire_homeOf {i : Nat} {j : BitVec 12} : (s.fire i).homeOf j = s.homeOf j := State.homeOf_of (by simp)
@[simp] theorem State.fire_edgeHome {i : Nat} {j : Nat} {b1 : BitVec 12} : (s.fire i).edgeHome j b1 = s.edgeHome j b1 := State.edgeHome_of (by simp)
@[simp] theorem State.fire_serves {i : Nat} {j : SliceId} {b1 : BitVec 12} : (s.fire i).serves j b1 = s.serves j b1 := State.serves_of (by simp)
@[simp] theorem State.fire_attBounces {i : Nat} {j : AttId} : (s.fire i).attBounces j = s.attBounces j := State.attBounces_of (by simp)
@[simp] theorem State.fire_portBounces {i : Nat} {j : PortId} : (s.fire i).portBounces j = s.portBounces j := State.portBounces_of (by simp)
@[simp] theorem State.fire_attShut {i : Nat} {j : AttId} : (s.fire i).attShut j = s.attShut j := State.attShut_of (by simp)
@[simp] theorem State.fire_mpShut {i : Nat} {j : PortId} : (s.fire i).mpShut j = s.mpShut j := State.mpShut_of (by simp)
@[simp] theorem State.fire_coxUp {i : Nat} : (s.fire i).coxUp = s.coxUp := State.coxUp_of (by simp) (by simp)

/-! ## evLevel -/

@[simp] theorem State.evLevel_pending {i : Nat} {v : Bool} : (s.evLevel i v).pending = s.pending := by
  unfold State.evLevel; (repeat' split) <;> simp
@[simp] theorem State.evLevel_modes {i : Nat} {v : Bool} : (s.evLevel i v).modes = s.modes := by
  unfold State.evLevel; (repeat' split) <;> simp
@[simp] theorem State.evLevel_plinth {i : Nat} {v : Bool} : (s.evLevel i v).plinth = s.plinth := by
  unfold State.evLevel; (repeat' split) <;> simp
@[simp] theorem State.evLevel_pins {i : Nat} {v : Bool} : (s.evLevel i v).pins = s.pins := by
  unfold State.evLevel; (repeat' split) <;> simp
@[simp] theorem State.evLevel_boot {i : Nat} {v : Bool} : (s.evLevel i v).boot = s.boot := by
  unfold State.evLevel; (repeat' split) <;> simp
@[simp] theorem State.evLevel_regs {i : Nat} {v : Bool} : (s.evLevel i v).regs = s.regs := by
  unfold State.evLevel; (repeat' split) <;> simp
@[simp] theorem State.evLevel_hostRsp {i : Nat} {v : Bool} : (s.evLevel i v).hostRsp = s.hostRsp := by
  unfold State.evLevel; (repeat' split) <;> simp
@[simp] theorem State.evLevel_hostOut {i : Nat} {v : Bool} : (s.evLevel i v).hostOut = s.hostOut := by
  unfold State.evLevel; (repeat' split) <;> simp
@[simp] theorem State.evLevel_coxRsp {i : Nat} {v : Bool} : (s.evLevel i v).coxRsp = s.coxRsp := by
  unfold State.evLevel; (repeat' split) <;> simp
@[simp] theorem State.evLevel_agents {i : Nat} {v : Bool} : (s.evLevel i v).agents = s.agents := by
  unfold State.evLevel; (repeat' split) <;> simp
@[simp] theorem State.evLevel_hists {i : Nat} {v : Bool} : (s.evLevel i v).hists = s.hists := by
  unfold State.evLevel; (repeat' split) <;> simp
@[simp] theorem State.evLevel_atts {i : Nat} {v : Bool} : (s.evLevel i v).atts = s.atts := by
  unfold State.evLevel; (repeat' split) <;> simp
@[simp] theorem State.evLevel_slices {i : Nat} {v : Bool} : (s.evLevel i v).slices = s.slices := by
  unfold State.evLevel; (repeat' split) <;> simp
@[simp] theorem State.evLevel_ports {i : Nat} {v : Bool} : (s.evLevel i v).ports = s.ports := by
  unfold State.evLevel; (repeat' split) <;> simp
@[simp] theorem State.evLevel_hmap {i : Nat} {v : Bool} : (s.evLevel i v).hmap = s.hmap := by
  unfold State.evLevel; (repeat' split) <;> simp
@[simp] theorem State.evLevel_cast {i : Nat} {v : Bool} : (s.evLevel i v).cast = s.cast := by
  unfold State.evLevel; (repeat' split) <;> simp
@[simp] theorem State.evLevel_counts {i : Nat} {v : Bool} : (s.evLevel i v).counts = s.counts := by
  unfold State.evLevel; (repeat' split) <;> simp
@[simp] theorem State.evLevel_cox {i : Nat} {v : Bool} : (s.evLevel i v).cox = s.cox := by
  unfold State.evLevel; (repeat' split) <;> simp
@[simp] theorem State.evLevel_calAt {i : Nat} {v : Bool} : (s.evLevel i v).calAt = s.calAt := by
  unfold State.evLevel; (repeat' split) <;> simp
@[simp] theorem State.evLevel_freeCtr {i : Nat} {v : Bool} : (s.evLevel i v).freeCtr = s.freeCtr := by
  unfold State.evLevel; (repeat' split) <;> simp
@[simp] theorem State.evLevel_castMem {i : Nat} {v : Bool} : (s.evLevel i v).castMem = s.castMem := by
  unfold State.evLevel; (repeat' split) <;> simp
@[simp] theorem State.evLevel_att {i : Nat} {v : Bool} {j : AttId} : (s.evLevel i v).att j = s.att j := by simp [State.att]
@[simp] theorem State.evLevel_sl {i : Nat} {v : Bool} {j : SliceId} : (s.evLevel i v).sl j = s.sl j := by simp [State.sl]
@[simp] theorem State.evLevel_mp {i : Nat} {v : Bool} {j : PortId} : (s.evLevel i v).mp j = s.mp j := by simp [State.mp]
@[simp] theorem State.evLevel_agent {i : Nat} {v : Bool} {j : AgentId} : (s.evLevel i v).agent j = s.agent j := by simp [State.agent]
@[simp] theorem State.evLevel_hist {i : Nat} {v : Bool} {j : AgentId} : (s.evLevel i v).hist j = s.hist j := by simp [State.hist]
@[simp] theorem State.evLevel_router {i : Nat} {v : Bool} {j : Nat} : (s.evLevel i v).router j = s.router j := by
  unfold State.evLevel; (repeat' split) <;> simp
@[simp] theorem State.evLevel_ev {i : Nat} {v : Bool} {j : Nat} : (s.evLevel i v).ev j = s.ev j := by
  unfold State.evLevel; (repeat' split) <;> simp
@[simp] theorem State.evLevel_cnt {i : Nat} {v : Bool} {j : Nat} : (s.evLevel i v).cnt j = s.cnt j := by simp [State.cnt]
@[simp] theorem State.evLevel_reg {i : Nat} {v : Bool} {j : Nat} : (s.evLevel i v).reg j = s.reg j := by simp [State.reg]
@[simp] theorem State.evLevel_fld {i : Nat} {v : Bool} {j : Fld} : (s.evLevel i v).fld j = s.fld j := by simp [State.fld, State.reg]
@[simp] theorem State.evLevel_now {i : Nat} {v : Bool} : (s.evLevel i v).now = s.now := by simp [State.now]
@[simp] theorem State.evLevel_mode {i : Nat} {v : Bool} : (s.evLevel i v).mode = s.mode := by simp [State.mode]
@[simp] theorem State.evLevel_held {i : Nat} {v : Bool} : (s.evLevel i v).held = s.held := by simp [State.held]
@[simp] theorem State.evLevel_runs {i : Nat} {v : Bool} : (s.evLevel i v).runs = s.runs := by simp [State.runs]
@[simp] theorem State.evLevel_level {i : Nat} {v : Bool} : (s.evLevel i v).level = s.level := by simp [State.level]
@[simp] theorem State.evLevel_portUp {i : Nat} {v : Bool} : (s.evLevel i v).portUp = s.portUp := by simp [State.portUp]
@[simp] theorem State.evLevel_fwUp {i : Nat} {v : Bool} : (s.evLevel i v).fwUp = s.fwUp := by simp [State.fwUp, State.portUp]
@[simp] theorem State.evLevel_inWindow {i : Nat} {v : Bool} {j : Line} : (s.evLevel i v).inWindow j = s.inWindow j := State.inWindow_of (by simp)
@[simp] theorem State.evLevel_inCast {i : Nat} {v : Bool} {j : Line} : (s.evLevel i v).inCast j = s.inCast j := State.inCast_of (by simp)
@[simp] theorem State.evLevel_homeOf {i : Nat} {v : Bool} {j : BitVec 12} : (s.evLevel i v).homeOf j = s.homeOf j := State.homeOf_of (by simp)
@[simp] theorem State.evLevel_edgeHome {i : Nat} {v : Bool} {j : Nat} {b1 : BitVec 12} : (s.evLevel i v).edgeHome j b1 = s.edgeHome j b1 := State.edgeHome_of (by simp)
@[simp] theorem State.evLevel_serves {i : Nat} {v : Bool} {j : SliceId} {b1 : BitVec 12} : (s.evLevel i v).serves j b1 = s.serves j b1 := State.serves_of (by simp)
@[simp] theorem State.evLevel_attBounces {i : Nat} {v : Bool} {j : AttId} : (s.evLevel i v).attBounces j = s.attBounces j := State.attBounces_of (by simp)
@[simp] theorem State.evLevel_portBounces {i : Nat} {v : Bool} {j : PortId} : (s.evLevel i v).portBounces j = s.portBounces j := State.portBounces_of (by simp)
@[simp] theorem State.evLevel_attShut {i : Nat} {v : Bool} {j : AttId} : (s.evLevel i v).attShut j = s.attShut j := State.attShut_of (by simp)
@[simp] theorem State.evLevel_mpShut {i : Nat} {v : Bool} {j : PortId} : (s.evLevel i v).mpShut j = s.mpShut j := State.mpShut_of (by simp)
@[simp] theorem State.evLevel_coxUp {i : Nat} {v : Bool} : (s.evLevel i v).coxUp = s.coxUp := State.coxUp_of (by simp) (by simp)

/-! ## evCount -/

@[simp] theorem State.evCount_pending {a i n : Nat} : (s.evCount a i n).pending = s.pending := rfl
@[simp] theorem State.evCount_modes {a i n : Nat} : (s.evCount a i n).modes = s.modes := rfl
@[simp] theorem State.evCount_plinth {a i n : Nat} : (s.evCount a i n).plinth = s.plinth := rfl
@[simp] theorem State.evCount_pins {a i n : Nat} : (s.evCount a i n).pins = s.pins := rfl
@[simp] theorem State.evCount_boot {a i n : Nat} : (s.evCount a i n).boot = s.boot := rfl
@[simp] theorem State.evCount_hostRsp {a i n : Nat} : (s.evCount a i n).hostRsp = s.hostRsp := rfl
@[simp] theorem State.evCount_hostOut {a i n : Nat} : (s.evCount a i n).hostOut = s.hostOut := rfl
@[simp] theorem State.evCount_coxRsp {a i n : Nat} : (s.evCount a i n).coxRsp = s.coxRsp := rfl
@[simp] theorem State.evCount_agents {a i n : Nat} : (s.evCount a i n).agents = s.agents := rfl
@[simp] theorem State.evCount_hists {a i n : Nat} : (s.evCount a i n).hists = s.hists := rfl
@[simp] theorem State.evCount_atts {a i n : Nat} : (s.evCount a i n).atts = s.atts := rfl
@[simp] theorem State.evCount_slices {a i n : Nat} : (s.evCount a i n).slices = s.slices := rfl
@[simp] theorem State.evCount_ports {a i n : Nat} : (s.evCount a i n).ports = s.ports := rfl
@[simp] theorem State.evCount_mesh {a i n : Nat} : (s.evCount a i n).mesh = s.mesh := rfl
@[simp] theorem State.evCount_hmap {a i n : Nat} : (s.evCount a i n).hmap = s.hmap := rfl
@[simp] theorem State.evCount_cast {a i n : Nat} : (s.evCount a i n).cast = s.cast := rfl
@[simp] theorem State.evCount_events {a i n : Nat} : (s.evCount a i n).events = s.events := rfl
@[simp] theorem State.evCount_counts {a i n : Nat} : (s.evCount a i n).counts = s.counts := rfl
@[simp] theorem State.evCount_cox {a i n : Nat} : (s.evCount a i n).cox = s.cox := rfl
@[simp] theorem State.evCount_calAt {a i n : Nat} : (s.evCount a i n).calAt = s.calAt := rfl
@[simp] theorem State.evCount_freeCtr {a i n : Nat} : (s.evCount a i n).freeCtr = s.freeCtr := rfl
@[simp] theorem State.evCount_castMem {a i n : Nat} : (s.evCount a i n).castMem = s.castMem := rfl
@[simp] theorem State.evCount_att {a i n : Nat} {j : AttId} : (s.evCount a i n).att j = s.att j := rfl
@[simp] theorem State.evCount_sl {a i n : Nat} {j : SliceId} : (s.evCount a i n).sl j = s.sl j := rfl
@[simp] theorem State.evCount_mp {a i n : Nat} {j : PortId} : (s.evCount a i n).mp j = s.mp j := rfl
@[simp] theorem State.evCount_agent {a i n : Nat} {j : AgentId} : (s.evCount a i n).agent j = s.agent j := rfl
@[simp] theorem State.evCount_hist {a i n : Nat} {j : AgentId} : (s.evCount a i n).hist j = s.hist j := rfl
@[simp] theorem State.evCount_router {a i n : Nat} {j : Nat} : (s.evCount a i n).router j = s.router j := rfl
@[simp] theorem State.evCount_ev {a i n : Nat} {j : Nat} : (s.evCount a i n).ev j = s.ev j := rfl
@[simp] theorem State.evCount_cnt {a i n : Nat} {j : Nat} : (s.evCount a i n).cnt j = s.cnt j := rfl
@[simp] theorem State.evCount_now {a i n : Nat} : (s.evCount a i n).now = s.now := rfl
@[simp] theorem State.evCount_mode {a i n : Nat} : (s.evCount a i n).mode = s.mode := rfl
@[simp] theorem State.evCount_held {a i n : Nat} : (s.evCount a i n).held = s.held := rfl
@[simp] theorem State.evCount_runs {a i n : Nat} : (s.evCount a i n).runs = s.runs := rfl
@[simp] theorem State.evCount_level {a i n : Nat} : (s.evCount a i n).level = s.level := rfl
@[simp] theorem State.evCount_portUp {a i n : Nat} : (s.evCount a i n).portUp = s.portUp := rfl
@[simp] theorem State.evCount_fwUp {a i n : Nat} : (s.evCount a i n).fwUp = s.fwUp := rfl
@[simp] theorem State.evCount_homeOf {a i n : Nat} {j : BitVec 12} : (s.evCount a i n).homeOf j = s.homeOf j := rfl
@[simp] theorem State.evCount_edgeHome {a i n : Nat} {j : Nat} {b1 : BitVec 12} : (s.evCount a i n).edgeHome j b1 = s.edgeHome j b1 := rfl
@[simp] theorem State.evCount_serves {a i n : Nat} {j : SliceId} {b1 : BitVec 12} : (s.evCount a i n).serves j b1 = s.serves j b1 := rfl
@[simp] theorem State.evCount_attBounces {a i n : Nat} {j : AttId} : (s.evCount a i n).attBounces j = s.attBounces j := rfl
@[simp] theorem State.evCount_portBounces {a i n : Nat} {j : PortId} : (s.evCount a i n).portBounces j = s.portBounces j := rfl
@[simp] theorem State.evCount_attShut {a i n : Nat} {j : AttId} : (s.evCount a i n).attShut j = s.attShut j := rfl
@[simp] theorem State.evCount_mpShut {a i n : Nat} {j : PortId} : (s.evCount a i n).mpShut j = s.mpShut j := rfl
@[simp] theorem State.evCount_coxUp {a i n : Nat} : (s.evCount a i n).coxUp = s.coxUp := rfl

/-! ## evInput -/

@[simp] theorem State.evInput_pending {i : Nat} {v : Bool} : (s.evInput i v).pending = s.pending := by
  unfold State.evInput; (repeat' split) <;> simp
@[simp] theorem State.evInput_modes {i : Nat} {v : Bool} : (s.evInput i v).modes = s.modes := by
  unfold State.evInput; (repeat' split) <;> simp
@[simp] theorem State.evInput_plinth {i : Nat} {v : Bool} : (s.evInput i v).plinth = s.plinth := by
  unfold State.evInput; (repeat' split) <;> simp
@[simp] theorem State.evInput_pins {i : Nat} {v : Bool} : (s.evInput i v).pins = s.pins := by
  unfold State.evInput; (repeat' split) <;> simp
@[simp] theorem State.evInput_boot {i : Nat} {v : Bool} : (s.evInput i v).boot = s.boot := by
  unfold State.evInput; (repeat' split) <;> simp
@[simp] theorem State.evInput_hostRsp {i : Nat} {v : Bool} : (s.evInput i v).hostRsp = s.hostRsp := by
  unfold State.evInput; (repeat' split) <;> simp
@[simp] theorem State.evInput_hostOut {i : Nat} {v : Bool} : (s.evInput i v).hostOut = s.hostOut := by
  unfold State.evInput; (repeat' split) <;> simp
@[simp] theorem State.evInput_coxRsp {i : Nat} {v : Bool} : (s.evInput i v).coxRsp = s.coxRsp := by
  unfold State.evInput; (repeat' split) <;> simp
@[simp] theorem State.evInput_agents {i : Nat} {v : Bool} : (s.evInput i v).agents = s.agents := by
  unfold State.evInput; (repeat' split) <;> simp
@[simp] theorem State.evInput_hists {i : Nat} {v : Bool} : (s.evInput i v).hists = s.hists := by
  unfold State.evInput; (repeat' split) <;> simp
@[simp] theorem State.evInput_atts {i : Nat} {v : Bool} : (s.evInput i v).atts = s.atts := by
  unfold State.evInput; (repeat' split) <;> simp
@[simp] theorem State.evInput_slices {i : Nat} {v : Bool} : (s.evInput i v).slices = s.slices := by
  unfold State.evInput; (repeat' split) <;> simp
@[simp] theorem State.evInput_ports {i : Nat} {v : Bool} : (s.evInput i v).ports = s.ports := by
  unfold State.evInput; (repeat' split) <;> simp
@[simp] theorem State.evInput_mesh {i : Nat} {v : Bool} : (s.evInput i v).mesh = s.mesh := by
  unfold State.evInput; (repeat' split) <;> simp
@[simp] theorem State.evInput_hmap {i : Nat} {v : Bool} : (s.evInput i v).hmap = s.hmap := by
  unfold State.evInput; (repeat' split) <;> simp
@[simp] theorem State.evInput_cast {i : Nat} {v : Bool} : (s.evInput i v).cast = s.cast := by
  unfold State.evInput; (repeat' split) <;> simp
@[simp] theorem State.evInput_counts {i : Nat} {v : Bool} : (s.evInput i v).counts = s.counts := by
  unfold State.evInput; (repeat' split) <;> simp
@[simp] theorem State.evInput_cox {i : Nat} {v : Bool} : (s.evInput i v).cox = s.cox := by
  unfold State.evInput; (repeat' split) <;> simp
@[simp] theorem State.evInput_calAt {i : Nat} {v : Bool} : (s.evInput i v).calAt = s.calAt := by
  unfold State.evInput; (repeat' split) <;> simp
@[simp] theorem State.evInput_freeCtr {i : Nat} {v : Bool} : (s.evInput i v).freeCtr = s.freeCtr := by
  unfold State.evInput; (repeat' split) <;> simp
@[simp] theorem State.evInput_castMem {i : Nat} {v : Bool} : (s.evInput i v).castMem = s.castMem := by
  unfold State.evInput; (repeat' split) <;> simp
@[simp] theorem State.evInput_att {i : Nat} {v : Bool} {j : AttId} : (s.evInput i v).att j = s.att j := by simp [State.att]
@[simp] theorem State.evInput_sl {i : Nat} {v : Bool} {j : SliceId} : (s.evInput i v).sl j = s.sl j := by simp [State.sl]
@[simp] theorem State.evInput_mp {i : Nat} {v : Bool} {j : PortId} : (s.evInput i v).mp j = s.mp j := by simp [State.mp]
@[simp] theorem State.evInput_agent {i : Nat} {v : Bool} {j : AgentId} : (s.evInput i v).agent j = s.agent j := by simp [State.agent]
@[simp] theorem State.evInput_hist {i : Nat} {v : Bool} {j : AgentId} : (s.evInput i v).hist j = s.hist j := by simp [State.hist]
@[simp] theorem State.evInput_router {i : Nat} {v : Bool} {j : Nat} : (s.evInput i v).router j = s.router j := by simp [State.router]
@[simp] theorem State.evInput_cnt {i : Nat} {v : Bool} {j : Nat} : (s.evInput i v).cnt j = s.cnt j := by simp [State.cnt]
@[simp] theorem State.evInput_now {i : Nat} {v : Bool} : (s.evInput i v).now = s.now := by simp [State.now]
@[simp] theorem State.evInput_mode {i : Nat} {v : Bool} : (s.evInput i v).mode = s.mode := by simp [State.mode]
@[simp] theorem State.evInput_held {i : Nat} {v : Bool} : (s.evInput i v).held = s.held := by simp [State.held]
@[simp] theorem State.evInput_runs {i : Nat} {v : Bool} : (s.evInput i v).runs = s.runs := by simp [State.runs]
@[simp] theorem State.evInput_level {i : Nat} {v : Bool} : (s.evInput i v).level = s.level := by simp [State.level]
@[simp] theorem State.evInput_portUp {i : Nat} {v : Bool} : (s.evInput i v).portUp = s.portUp := by simp [State.portUp]
@[simp] theorem State.evInput_fwUp {i : Nat} {v : Bool} : (s.evInput i v).fwUp = s.fwUp := by simp [State.fwUp, State.portUp]
@[simp] theorem State.evInput_homeOf {i : Nat} {v : Bool} {j : BitVec 12} : (s.evInput i v).homeOf j = s.homeOf j := State.homeOf_of (by simp)
@[simp] theorem State.evInput_edgeHome {i : Nat} {v : Bool} {j : Nat} {b1 : BitVec 12} : (s.evInput i v).edgeHome j b1 = s.edgeHome j b1 := State.edgeHome_of (by simp)
@[simp] theorem State.evInput_serves {i : Nat} {v : Bool} {j : SliceId} {b1 : BitVec 12} : (s.evInput i v).serves j b1 = s.serves j b1 := State.serves_of (by simp)
@[simp] theorem State.evInput_attBounces {i : Nat} {v : Bool} {j : AttId} : (s.evInput i v).attBounces j = s.attBounces j := State.attBounces_of (by simp)
@[simp] theorem State.evInput_portBounces {i : Nat} {v : Bool} {j : PortId} : (s.evInput i v).portBounces j = s.portBounces j := State.portBounces_of (by simp)
@[simp] theorem State.evInput_attShut {i : Nat} {v : Bool} {j : AttId} : (s.evInput i v).attShut j = s.attShut j := State.attShut_of (by simp)
@[simp] theorem State.evInput_mpShut {i : Nat} {v : Bool} {j : PortId} : (s.evInput i v).mpShut j = s.mpShut j := State.mpShut_of (by simp)
@[simp] theorem State.evInput_coxUp {i : Nat} {v : Bool} : (s.evInput i v).coxUp = s.coxUp := State.coxUp_of (by simp) (by simp)

/-! ## count -/

@[simp] theorem State.count_pending {i n : Nat} : (s.count i n).pending = s.pending := by
  unfold State.count; split
  · rfl
  · dsimp only; split
    · split <;> simp
    · simp
@[simp] theorem State.count_modes {i n : Nat} : (s.count i n).modes = s.modes := by
  unfold State.count; split
  · rfl
  · dsimp only; split
    · split <;> simp
    · simp
@[simp] theorem State.count_plinth {i n : Nat} : (s.count i n).plinth = s.plinth := by
  unfold State.count; split
  · rfl
  · dsimp only; split
    · split <;> simp
    · simp
@[simp] theorem State.count_pins {i n : Nat} : (s.count i n).pins = s.pins := by
  unfold State.count; split
  · rfl
  · dsimp only; split
    · split <;> simp
    · simp
@[simp] theorem State.count_boot {i n : Nat} : (s.count i n).boot = s.boot := by
  unfold State.count; split
  · rfl
  · dsimp only; split
    · split <;> simp
    · simp
@[simp] theorem State.count_regs {i n : Nat} : (s.count i n).regs = s.regs := by
  unfold State.count; split
  · rfl
  · dsimp only; split
    · split <;> simp
    · simp
@[simp] theorem State.count_hostRsp {i n : Nat} : (s.count i n).hostRsp = s.hostRsp := by
  unfold State.count; split
  · rfl
  · dsimp only; split
    · split <;> simp
    · simp
@[simp] theorem State.count_hostOut {i n : Nat} : (s.count i n).hostOut = s.hostOut := by
  unfold State.count; split
  · rfl
  · dsimp only; split
    · split <;> simp
    · simp
@[simp] theorem State.count_coxRsp {i n : Nat} : (s.count i n).coxRsp = s.coxRsp := by
  unfold State.count; split
  · rfl
  · dsimp only; split
    · split <;> simp
    · simp
@[simp] theorem State.count_agents {i n : Nat} : (s.count i n).agents = s.agents := by
  unfold State.count; split
  · rfl
  · dsimp only; split
    · split <;> simp
    · simp
@[simp] theorem State.count_hists {i n : Nat} : (s.count i n).hists = s.hists := by
  unfold State.count; split
  · rfl
  · dsimp only; split
    · split <;> simp
    · simp
@[simp] theorem State.count_atts {i n : Nat} : (s.count i n).atts = s.atts := by
  unfold State.count; split
  · rfl
  · dsimp only; split
    · split <;> simp
    · simp
@[simp] theorem State.count_ports {i n : Nat} : (s.count i n).ports = s.ports := by
  unfold State.count; split
  · rfl
  · dsimp only; split
    · split <;> simp
    · simp
@[simp] theorem State.count_hmap {i n : Nat} : (s.count i n).hmap = s.hmap := by
  unfold State.count; split
  · rfl
  · dsimp only; split
    · split <;> simp
    · simp
@[simp] theorem State.count_cast {i n : Nat} : (s.count i n).cast = s.cast := by
  unfold State.count; split
  · rfl
  · dsimp only; split
    · split <;> simp
    · simp
@[simp] theorem State.count_cox {i n : Nat} : (s.count i n).cox = s.cox := by
  unfold State.count; split
  · rfl
  · dsimp only; split
    · split <;> simp
    · simp
@[simp] theorem State.count_calAt {i n : Nat} : (s.count i n).calAt = s.calAt := by
  unfold State.count; split
  · rfl
  · dsimp only; split
    · split <;> simp
    · simp
@[simp] theorem State.count_freeCtr {i n : Nat} : (s.count i n).freeCtr = s.freeCtr := by
  unfold State.count; split
  · rfl
  · dsimp only; split
    · split <;> simp
    · simp
@[simp] theorem State.count_castMem {i n : Nat} : (s.count i n).castMem = s.castMem := by
  unfold State.count; split
  · rfl
  · dsimp only; split
    · split <;> simp
    · simp
@[simp] theorem State.count_att {i n : Nat} {j : AttId} : (s.count i n).att j = s.att j := by simp [State.att]
@[simp] theorem State.count_mp {i n : Nat} {j : PortId} : (s.count i n).mp j = s.mp j := by simp [State.mp]
@[simp] theorem State.count_agent {i n : Nat} {j : AgentId} : (s.count i n).agent j = s.agent j := by simp [State.agent]
@[simp] theorem State.count_hist {i n : Nat} {j : AgentId} : (s.count i n).hist j = s.hist j := by simp [State.hist]
@[simp] theorem State.count_router {i n : Nat} {j : Nat} : (s.count i n).router j = s.router j := by
  unfold State.count; split
  · rfl
  · dsimp only; split
    · split <;> simp
    · simp
@[simp] theorem State.count_ev {i n : Nat} {j : Nat} : (s.count i n).ev j = s.ev j := by
  unfold State.count; split
  · rfl
  · dsimp only; split
    · split <;> simp
    · simp
@[simp] theorem State.count_reg {i n : Nat} {j : Nat} : (s.count i n).reg j = s.reg j := by simp [State.reg]
@[simp] theorem State.count_fld {i n : Nat} {j : Fld} : (s.count i n).fld j = s.fld j := by simp [State.fld, State.reg]
@[simp] theorem State.count_now {i n : Nat} : (s.count i n).now = s.now := by simp [State.now]
@[simp] theorem State.count_mode {i n : Nat} : (s.count i n).mode = s.mode := by simp [State.mode]
@[simp] theorem State.count_held {i n : Nat} : (s.count i n).held = s.held := by simp [State.held]
@[simp] theorem State.count_runs {i n : Nat} : (s.count i n).runs = s.runs := by simp [State.runs]
@[simp] theorem State.count_level {i n : Nat} : (s.count i n).level = s.level := by simp [State.level]
@[simp] theorem State.count_portUp {i n : Nat} : (s.count i n).portUp = s.portUp := by simp [State.portUp]
@[simp] theorem State.count_fwUp {i n : Nat} : (s.count i n).fwUp = s.fwUp := by simp [State.fwUp, State.portUp]
@[simp] theorem State.count_inWindow {i n : Nat} {j : Line} : (s.count i n).inWindow j = s.inWindow j := State.inWindow_of (by simp)
@[simp] theorem State.count_inCast {i n : Nat} {j : Line} : (s.count i n).inCast j = s.inCast j := State.inCast_of (by simp)
@[simp] theorem State.count_homeOf {i n : Nat} {j : BitVec 12} : (s.count i n).homeOf j = s.homeOf j := State.homeOf_of (by simp)
@[simp] theorem State.count_edgeHome {i n : Nat} {j : Nat} {b1 : BitVec 12} : (s.count i n).edgeHome j b1 = s.edgeHome j b1 := State.edgeHome_of (by simp)
@[simp] theorem State.count_serves {i n : Nat} {j : SliceId} {b1 : BitVec 12} : (s.count i n).serves j b1 = s.serves j b1 := State.serves_of (by simp)
@[simp] theorem State.count_attBounces {i n : Nat} {j : AttId} : (s.count i n).attBounces j = s.attBounces j := State.attBounces_of (by simp)
@[simp] theorem State.count_portBounces {i n : Nat} {j : PortId} : (s.count i n).portBounces j = s.portBounces j := State.portBounces_of (by simp)
@[simp] theorem State.count_attShut {i n : Nat} {j : AttId} : (s.count i n).attShut j = s.attShut j := State.attShut_of (by simp)
@[simp] theorem State.count_mpShut {i n : Nat} {j : PortId} : (s.count i n).mpShut j = s.mpShut j := State.mpShut_of (by simp)
@[simp] theorem State.count_coxUp {i n : Nat} : (s.count i n).coxUp = s.coxUp := State.coxUp_of (by simp) (by simp)

/-! ## reach -/

@[simp] theorem State.reach_pending {t : Nat} : (s.reach t).pending = s.pending := by
  unfold State.reach; (repeat' split) <;> simp
@[simp] theorem State.reach_modes {t : Nat} : (s.reach t).modes = s.modes := by
  unfold State.reach; (repeat' split) <;> simp
@[simp] theorem State.reach_pins {t : Nat} : (s.reach t).pins = s.pins := by
  unfold State.reach; (repeat' split) <;> simp
@[simp] theorem State.reach_boot {t : Nat} : (s.reach t).boot = s.boot := by
  unfold State.reach; (repeat' split) <;> simp
@[simp] theorem State.reach_regs {t : Nat} : (s.reach t).regs = s.regs := by
  unfold State.reach; (repeat' split) <;> simp
@[simp] theorem State.reach_hostRsp {t : Nat} : (s.reach t).hostRsp = s.hostRsp := by
  unfold State.reach; (repeat' split) <;> simp
@[simp] theorem State.reach_hostOut {t : Nat} : (s.reach t).hostOut = s.hostOut := by
  unfold State.reach; (repeat' split) <;> simp
@[simp] theorem State.reach_coxRsp {t : Nat} : (s.reach t).coxRsp = s.coxRsp := by
  unfold State.reach; (repeat' split) <;> simp
@[simp] theorem State.reach_agents {t : Nat} : (s.reach t).agents = s.agents := by
  unfold State.reach; (repeat' split) <;> simp
@[simp] theorem State.reach_hists {t : Nat} : (s.reach t).hists = s.hists := by
  unfold State.reach; (repeat' split) <;> simp
@[simp] theorem State.reach_atts {t : Nat} : (s.reach t).atts = s.atts := by
  unfold State.reach; (repeat' split) <;> simp
@[simp] theorem State.reach_slices {t : Nat} : (s.reach t).slices = s.slices := by
  unfold State.reach; (repeat' split) <;> simp
@[simp] theorem State.reach_ports {t : Nat} : (s.reach t).ports = s.ports := by
  unfold State.reach; (repeat' split) <;> simp
@[simp] theorem State.reach_mesh {t : Nat} : (s.reach t).mesh = s.mesh := by
  unfold State.reach; (repeat' split) <;> simp
@[simp] theorem State.reach_hmap {t : Nat} : (s.reach t).hmap = s.hmap := by
  unfold State.reach; (repeat' split) <;> simp
@[simp] theorem State.reach_cast {t : Nat} : (s.reach t).cast = s.cast := by
  unfold State.reach; (repeat' split) <;> simp
@[simp] theorem State.reach_events {t : Nat} : (s.reach t).events = s.events := by
  unfold State.reach; (repeat' split) <;> simp
@[simp] theorem State.reach_counts {t : Nat} : (s.reach t).counts = s.counts := by
  unfold State.reach; (repeat' split) <;> simp
@[simp] theorem State.reach_cox {t : Nat} : (s.reach t).cox = s.cox := by
  unfold State.reach; (repeat' split) <;> simp
@[simp] theorem State.reach_calAt {t : Nat} : (s.reach t).calAt = s.calAt := by
  unfold State.reach; (repeat' split) <;> simp
@[simp] theorem State.reach_freeCtr {t : Nat} : (s.reach t).freeCtr = s.freeCtr := by
  unfold State.reach; (repeat' split) <;> simp
@[simp] theorem State.reach_castMem {t : Nat} : (s.reach t).castMem = s.castMem := by
  unfold State.reach; (repeat' split) <;> simp
@[simp] theorem State.reach_att {t : Nat} {j : AttId} : (s.reach t).att j = s.att j := by simp [State.att]
@[simp] theorem State.reach_sl {t : Nat} {j : SliceId} : (s.reach t).sl j = s.sl j := by simp [State.sl]
@[simp] theorem State.reach_mp {t : Nat} {j : PortId} : (s.reach t).mp j = s.mp j := by simp [State.mp]
@[simp] theorem State.reach_agent {t : Nat} {j : AgentId} : (s.reach t).agent j = s.agent j := by simp [State.agent]
@[simp] theorem State.reach_hist {t : Nat} {j : AgentId} : (s.reach t).hist j = s.hist j := by simp [State.hist]
@[simp] theorem State.reach_router {t : Nat} {j : Nat} : (s.reach t).router j = s.router j := by simp [State.router]
@[simp] theorem State.reach_ev {t : Nat} {j : Nat} : (s.reach t).ev j = s.ev j := by simp [State.ev]
@[simp] theorem State.reach_cnt {t : Nat} {j : Nat} : (s.reach t).cnt j = s.cnt j := by simp [State.cnt]
@[simp] theorem State.reach_reg {t : Nat} {j : Nat} : (s.reach t).reg j = s.reg j := by simp [State.reg]
@[simp] theorem State.reach_fld {t : Nat} {j : Fld} : (s.reach t).fld j = s.fld j := by simp [State.fld, State.reg]
@[simp] theorem State.reach_mode {t : Nat} : (s.reach t).mode = s.mode := by simp [State.mode]
@[simp] theorem State.reach_held {t : Nat} : (s.reach t).held = s.held := by simp [State.held]
@[simp] theorem State.reach_runs {t : Nat} : (s.reach t).runs = s.runs := by simp [State.runs]
@[simp] theorem State.reach_level {t : Nat} : (s.reach t).level = s.level := by simp [State.level]
@[simp] theorem State.reach_portUp {t : Nat} : (s.reach t).portUp = s.portUp := by simp [State.portUp]
@[simp] theorem State.reach_fwUp {t : Nat} : (s.reach t).fwUp = s.fwUp := by simp [State.fwUp, State.portUp]
@[simp] theorem State.reach_inWindow {t : Nat} {j : Line} : (s.reach t).inWindow j = s.inWindow j := State.inWindow_of (by simp)
@[simp] theorem State.reach_inCast {t : Nat} {j : Line} : (s.reach t).inCast j = s.inCast j := State.inCast_of (by simp)
@[simp] theorem State.reach_homeOf {t : Nat} {j : BitVec 12} : (s.reach t).homeOf j = s.homeOf j := State.homeOf_of (by simp)
@[simp] theorem State.reach_edgeHome {t : Nat} {j : Nat} {b1 : BitVec 12} : (s.reach t).edgeHome j b1 = s.edgeHome j b1 := State.edgeHome_of (by simp)
@[simp] theorem State.reach_serves {t : Nat} {j : SliceId} {b1 : BitVec 12} : (s.reach t).serves j b1 = s.serves j b1 := State.serves_of (by simp)
@[simp] theorem State.reach_attBounces {t : Nat} {j : AttId} : (s.reach t).attBounces j = s.attBounces j := State.attBounces_of (by simp)
@[simp] theorem State.reach_portBounces {t : Nat} {j : PortId} : (s.reach t).portBounces j = s.portBounces j := State.portBounces_of (by simp)
@[simp] theorem State.reach_attShut {t : Nat} {j : AttId} : (s.reach t).attShut j = s.attShut j := State.attShut_of (by simp)
@[simp] theorem State.reach_mpShut {t : Nat} {j : PortId} : (s.reach t).mpShut j = s.mpShut j := State.mpShut_of (by simp)
@[simp] theorem State.reach_coxUp {t : Nat} : (s.reach t).coxUp = s.coxUp := State.coxUp_of (by simp) (by simp)

/-! ## queueNote -/

@[simp] theorem State.queueNote_pending {u : QUnit} {q n : Nat} : (s.queueNote u q n).pending = s.pending := by
  unfold State.queueNote; (repeat' split) <;> simp
@[simp] theorem State.queueNote_modes {u : QUnit} {q n : Nat} : (s.queueNote u q n).modes = s.modes := by
  unfold State.queueNote; (repeat' split) <;> simp
@[simp] theorem State.queueNote_plinth {u : QUnit} {q n : Nat} : (s.queueNote u q n).plinth = s.plinth := by
  unfold State.queueNote; (repeat' split) <;> simp
@[simp] theorem State.queueNote_pins {u : QUnit} {q n : Nat} : (s.queueNote u q n).pins = s.pins := by
  unfold State.queueNote; (repeat' split) <;> simp
@[simp] theorem State.queueNote_boot {u : QUnit} {q n : Nat} : (s.queueNote u q n).boot = s.boot := by
  unfold State.queueNote; (repeat' split) <;> simp
@[simp] theorem State.queueNote_hostRsp {u : QUnit} {q n : Nat} : (s.queueNote u q n).hostRsp = s.hostRsp := by
  unfold State.queueNote; (repeat' split) <;> simp
@[simp] theorem State.queueNote_hostOut {u : QUnit} {q n : Nat} : (s.queueNote u q n).hostOut = s.hostOut := by
  unfold State.queueNote; (repeat' split) <;> simp
@[simp] theorem State.queueNote_coxRsp {u : QUnit} {q n : Nat} : (s.queueNote u q n).coxRsp = s.coxRsp := by
  unfold State.queueNote; (repeat' split) <;> simp
@[simp] theorem State.queueNote_agents {u : QUnit} {q n : Nat} : (s.queueNote u q n).agents = s.agents := by
  unfold State.queueNote; (repeat' split) <;> simp
@[simp] theorem State.queueNote_hists {u : QUnit} {q n : Nat} : (s.queueNote u q n).hists = s.hists := by
  unfold State.queueNote; (repeat' split) <;> simp
@[simp] theorem State.queueNote_atts {u : QUnit} {q n : Nat} : (s.queueNote u q n).atts = s.atts := by
  unfold State.queueNote; (repeat' split) <;> simp
@[simp] theorem State.queueNote_slices {u : QUnit} {q n : Nat} : (s.queueNote u q n).slices = s.slices := by
  unfold State.queueNote; (repeat' split) <;> simp
@[simp] theorem State.queueNote_ports {u : QUnit} {q n : Nat} : (s.queueNote u q n).ports = s.ports := by
  unfold State.queueNote; (repeat' split) <;> simp
@[simp] theorem State.queueNote_mesh {u : QUnit} {q n : Nat} : (s.queueNote u q n).mesh = s.mesh := by
  unfold State.queueNote; (repeat' split) <;> simp
@[simp] theorem State.queueNote_hmap {u : QUnit} {q n : Nat} : (s.queueNote u q n).hmap = s.hmap := by
  unfold State.queueNote; (repeat' split) <;> simp
@[simp] theorem State.queueNote_cast {u : QUnit} {q n : Nat} : (s.queueNote u q n).cast = s.cast := by
  unfold State.queueNote; (repeat' split) <;> simp
@[simp] theorem State.queueNote_events {u : QUnit} {q n : Nat} : (s.queueNote u q n).events = s.events := by
  unfold State.queueNote; (repeat' split) <;> simp
@[simp] theorem State.queueNote_counts {u : QUnit} {q n : Nat} : (s.queueNote u q n).counts = s.counts := by
  unfold State.queueNote; (repeat' split) <;> simp
@[simp] theorem State.queueNote_cox {u : QUnit} {q n : Nat} : (s.queueNote u q n).cox = s.cox := by
  unfold State.queueNote; (repeat' split) <;> simp
@[simp] theorem State.queueNote_calAt {u : QUnit} {q n : Nat} : (s.queueNote u q n).calAt = s.calAt := by
  unfold State.queueNote; (repeat' split) <;> simp
@[simp] theorem State.queueNote_freeCtr {u : QUnit} {q n : Nat} : (s.queueNote u q n).freeCtr = s.freeCtr := by
  unfold State.queueNote; (repeat' split) <;> simp
@[simp] theorem State.queueNote_castMem {u : QUnit} {q n : Nat} : (s.queueNote u q n).castMem = s.castMem := by
  unfold State.queueNote; (repeat' split) <;> simp
@[simp] theorem State.queueNote_att {u : QUnit} {q n : Nat} {j : AttId} : (s.queueNote u q n).att j = s.att j := by simp [State.att]
@[simp] theorem State.queueNote_sl {u : QUnit} {q n : Nat} {j : SliceId} : (s.queueNote u q n).sl j = s.sl j := by simp [State.sl]
@[simp] theorem State.queueNote_mp {u : QUnit} {q n : Nat} {j : PortId} : (s.queueNote u q n).mp j = s.mp j := by simp [State.mp]
@[simp] theorem State.queueNote_agent {u : QUnit} {q n : Nat} {j : AgentId} : (s.queueNote u q n).agent j = s.agent j := by simp [State.agent]
@[simp] theorem State.queueNote_hist {u : QUnit} {q n : Nat} {j : AgentId} : (s.queueNote u q n).hist j = s.hist j := by simp [State.hist]
@[simp] theorem State.queueNote_router {u : QUnit} {q n : Nat} {j : Nat} : (s.queueNote u q n).router j = s.router j := by simp [State.router]
@[simp] theorem State.queueNote_ev {u : QUnit} {q n : Nat} {j : Nat} : (s.queueNote u q n).ev j = s.ev j := by simp [State.ev]
@[simp] theorem State.queueNote_cnt {u : QUnit} {q n : Nat} {j : Nat} : (s.queueNote u q n).cnt j = s.cnt j := by simp [State.cnt]
@[simp] theorem State.queueNote_now {u : QUnit} {q n : Nat} : (s.queueNote u q n).now = s.now := by simp [State.now]
@[simp] theorem State.queueNote_mode {u : QUnit} {q n : Nat} : (s.queueNote u q n).mode = s.mode := by simp [State.mode]
@[simp] theorem State.queueNote_held {u : QUnit} {q n : Nat} : (s.queueNote u q n).held = s.held := by simp [State.held]
@[simp] theorem State.queueNote_runs {u : QUnit} {q n : Nat} : (s.queueNote u q n).runs = s.runs := by simp [State.runs]
@[simp] theorem State.queueNote_level {u : QUnit} {q n : Nat} : (s.queueNote u q n).level = s.level := by simp [State.level]
@[simp] theorem State.queueNote_portUp {u : QUnit} {q n : Nat} : (s.queueNote u q n).portUp = s.portUp := by simp [State.portUp]
@[simp] theorem State.queueNote_fwUp {u : QUnit} {q n : Nat} : (s.queueNote u q n).fwUp = s.fwUp := by simp [State.fwUp, State.portUp]
@[simp] theorem State.queueNote_homeOf {u : QUnit} {q n : Nat} {j : BitVec 12} : (s.queueNote u q n).homeOf j = s.homeOf j := State.homeOf_of (by simp)
@[simp] theorem State.queueNote_edgeHome {u : QUnit} {q n : Nat} {j : Nat} {b1 : BitVec 12} : (s.queueNote u q n).edgeHome j b1 = s.edgeHome j b1 := State.edgeHome_of (by simp)
@[simp] theorem State.queueNote_serves {u : QUnit} {q n : Nat} {j : SliceId} {b1 : BitVec 12} : (s.queueNote u q n).serves j b1 = s.serves j b1 := State.serves_of (by simp)
@[simp] theorem State.queueNote_attBounces {u : QUnit} {q n : Nat} {j : AttId} : (s.queueNote u q n).attBounces j = s.attBounces j := State.attBounces_of (by simp)
@[simp] theorem State.queueNote_portBounces {u : QUnit} {q n : Nat} {j : PortId} : (s.queueNote u q n).portBounces j = s.portBounces j := State.portBounces_of (by simp)
@[simp] theorem State.queueNote_attShut {u : QUnit} {q n : Nat} {j : AttId} : (s.queueNote u q n).attShut j = s.attShut j := State.attShut_of (by simp)
@[simp] theorem State.queueNote_mpShut {u : QUnit} {q n : Nat} {j : PortId} : (s.queueNote u q n).mpShut j = s.mpShut j := State.mpShut_of (by simp)
@[simp] theorem State.queueNote_coxUp {u : QUnit} {q n : Nat} : (s.queueNote u q n).coxUp = s.coxUp := State.coxUp_of (by simp) (by simp)

/-! ## classPsn -/

@[simp] theorem State.classPsn_pending : s.classPsn.pending = s.pending := rfl
@[simp] theorem State.classPsn_modes : s.classPsn.modes = s.modes := rfl
@[simp] theorem State.classPsn_plinth : s.classPsn.plinth = s.plinth := rfl
@[simp] theorem State.classPsn_pins : s.classPsn.pins = s.pins := rfl
@[simp] theorem State.classPsn_boot : s.classPsn.boot = s.boot := rfl
@[simp] theorem State.classPsn_hostRsp : s.classPsn.hostRsp = s.hostRsp := rfl
@[simp] theorem State.classPsn_hostOut : s.classPsn.hostOut = s.hostOut := rfl
@[simp] theorem State.classPsn_coxRsp : s.classPsn.coxRsp = s.coxRsp := rfl
@[simp] theorem State.classPsn_agents : s.classPsn.agents = s.agents := rfl
@[simp] theorem State.classPsn_hists : s.classPsn.hists = s.hists := rfl
@[simp] theorem State.classPsn_atts : s.classPsn.atts = s.atts := rfl
@[simp] theorem State.classPsn_slices : s.classPsn.slices = s.slices := rfl
@[simp] theorem State.classPsn_ports : s.classPsn.ports = s.ports := rfl
@[simp] theorem State.classPsn_mesh : s.classPsn.mesh = s.mesh := rfl
@[simp] theorem State.classPsn_hmap : s.classPsn.hmap = s.hmap := rfl
@[simp] theorem State.classPsn_cast : s.classPsn.cast = s.cast := rfl
@[simp] theorem State.classPsn_events : s.classPsn.events = s.events := rfl
@[simp] theorem State.classPsn_counts : s.classPsn.counts = s.counts := rfl
@[simp] theorem State.classPsn_cox : s.classPsn.cox = s.cox := rfl
@[simp] theorem State.classPsn_calAt : s.classPsn.calAt = s.calAt := rfl
@[simp] theorem State.classPsn_freeCtr : s.classPsn.freeCtr = s.freeCtr := rfl
@[simp] theorem State.classPsn_castMem : s.classPsn.castMem = s.castMem := rfl
@[simp] theorem State.classPsn_att {j : AttId} : s.classPsn.att j = s.att j := rfl
@[simp] theorem State.classPsn_sl {j : SliceId} : s.classPsn.sl j = s.sl j := rfl
@[simp] theorem State.classPsn_mp {j : PortId} : s.classPsn.mp j = s.mp j := rfl
@[simp] theorem State.classPsn_agent {j : AgentId} : s.classPsn.agent j = s.agent j := rfl
@[simp] theorem State.classPsn_hist {j : AgentId} : s.classPsn.hist j = s.hist j := rfl
@[simp] theorem State.classPsn_router {j : Nat} : s.classPsn.router j = s.router j := rfl
@[simp] theorem State.classPsn_ev {j : Nat} : s.classPsn.ev j = s.ev j := rfl
@[simp] theorem State.classPsn_cnt {j : Nat} : s.classPsn.cnt j = s.cnt j := rfl
@[simp] theorem State.classPsn_now : s.classPsn.now = s.now := rfl
@[simp] theorem State.classPsn_mode : s.classPsn.mode = s.mode := rfl
@[simp] theorem State.classPsn_held : s.classPsn.held = s.held := rfl
@[simp] theorem State.classPsn_runs : s.classPsn.runs = s.runs := rfl
@[simp] theorem State.classPsn_level : s.classPsn.level = s.level := rfl
@[simp] theorem State.classPsn_portUp : s.classPsn.portUp = s.portUp := rfl
@[simp] theorem State.classPsn_fwUp : s.classPsn.fwUp = s.fwUp := rfl
@[simp] theorem State.classPsn_homeOf {j : BitVec 12} : s.classPsn.homeOf j = s.homeOf j := rfl
@[simp] theorem State.classPsn_edgeHome {j : Nat} {b1 : BitVec 12} : s.classPsn.edgeHome j b1 = s.edgeHome j b1 := rfl
@[simp] theorem State.classPsn_serves {j : SliceId} {b1 : BitVec 12} : s.classPsn.serves j b1 = s.serves j b1 := rfl
@[simp] theorem State.classPsn_attBounces {j : AttId} : s.classPsn.attBounces j = s.attBounces j := rfl
@[simp] theorem State.classPsn_portBounces {j : PortId} : s.classPsn.portBounces j = s.portBounces j := rfl
@[simp] theorem State.classPsn_attShut {j : AttId} : s.classPsn.attShut j = s.attShut j := rfl
@[simp] theorem State.classPsn_mpShut {j : PortId} : s.classPsn.mpShut j = s.mpShut j := rfl
@[simp] theorem State.classPsn_coxUp : s.classPsn.coxUp = s.coxUp := rfl

/-! ## classRec -/

@[simp] theorem State.classRec_pending : s.classRec.pending = s.pending := rfl
@[simp] theorem State.classRec_modes : s.classRec.modes = s.modes := rfl
@[simp] theorem State.classRec_plinth : s.classRec.plinth = s.plinth := rfl
@[simp] theorem State.classRec_pins : s.classRec.pins = s.pins := rfl
@[simp] theorem State.classRec_boot : s.classRec.boot = s.boot := rfl
@[simp] theorem State.classRec_hostRsp : s.classRec.hostRsp = s.hostRsp := rfl
@[simp] theorem State.classRec_hostOut : s.classRec.hostOut = s.hostOut := rfl
@[simp] theorem State.classRec_coxRsp : s.classRec.coxRsp = s.coxRsp := rfl
@[simp] theorem State.classRec_agents : s.classRec.agents = s.agents := rfl
@[simp] theorem State.classRec_hists : s.classRec.hists = s.hists := rfl
@[simp] theorem State.classRec_atts : s.classRec.atts = s.atts := rfl
@[simp] theorem State.classRec_slices : s.classRec.slices = s.slices := rfl
@[simp] theorem State.classRec_ports : s.classRec.ports = s.ports := rfl
@[simp] theorem State.classRec_mesh : s.classRec.mesh = s.mesh := rfl
@[simp] theorem State.classRec_hmap : s.classRec.hmap = s.hmap := rfl
@[simp] theorem State.classRec_cast : s.classRec.cast = s.cast := rfl
@[simp] theorem State.classRec_events : s.classRec.events = s.events := rfl
@[simp] theorem State.classRec_counts : s.classRec.counts = s.counts := rfl
@[simp] theorem State.classRec_cox : s.classRec.cox = s.cox := rfl
@[simp] theorem State.classRec_calAt : s.classRec.calAt = s.calAt := rfl
@[simp] theorem State.classRec_freeCtr : s.classRec.freeCtr = s.freeCtr := rfl
@[simp] theorem State.classRec_castMem : s.classRec.castMem = s.castMem := rfl
@[simp] theorem State.classRec_att {j : AttId} : s.classRec.att j = s.att j := rfl
@[simp] theorem State.classRec_sl {j : SliceId} : s.classRec.sl j = s.sl j := rfl
@[simp] theorem State.classRec_mp {j : PortId} : s.classRec.mp j = s.mp j := rfl
@[simp] theorem State.classRec_agent {j : AgentId} : s.classRec.agent j = s.agent j := rfl
@[simp] theorem State.classRec_hist {j : AgentId} : s.classRec.hist j = s.hist j := rfl
@[simp] theorem State.classRec_router {j : Nat} : s.classRec.router j = s.router j := rfl
@[simp] theorem State.classRec_ev {j : Nat} : s.classRec.ev j = s.ev j := rfl
@[simp] theorem State.classRec_cnt {j : Nat} : s.classRec.cnt j = s.cnt j := rfl
@[simp] theorem State.classRec_now : s.classRec.now = s.now := rfl
@[simp] theorem State.classRec_mode : s.classRec.mode = s.mode := rfl
@[simp] theorem State.classRec_held : s.classRec.held = s.held := rfl
@[simp] theorem State.classRec_runs : s.classRec.runs = s.runs := rfl
@[simp] theorem State.classRec_level : s.classRec.level = s.level := rfl
@[simp] theorem State.classRec_portUp : s.classRec.portUp = s.portUp := rfl
@[simp] theorem State.classRec_fwUp : s.classRec.fwUp = s.fwUp := rfl
@[simp] theorem State.classRec_homeOf {j : BitVec 12} : s.classRec.homeOf j = s.homeOf j := rfl
@[simp] theorem State.classRec_edgeHome {j : Nat} {b1 : BitVec 12} : s.classRec.edgeHome j b1 = s.edgeHome j b1 := rfl
@[simp] theorem State.classRec_serves {j : SliceId} {b1 : BitVec 12} : s.classRec.serves j b1 = s.serves j b1 := rfl
@[simp] theorem State.classRec_attBounces {j : AttId} : s.classRec.attBounces j = s.attBounces j := rfl
@[simp] theorem State.classRec_portBounces {j : PortId} : s.classRec.portBounces j = s.portBounces j := rfl
@[simp] theorem State.classRec_attShut {j : AttId} : s.classRec.attShut j = s.attShut j := rfl
@[simp] theorem State.classRec_mpShut {j : PortId} : s.classRec.mpShut j = s.mpShut j := rfl
@[simp] theorem State.classRec_coxUp : s.classRec.coxUp = s.coxUp := rfl

/-! ## logPut -/

@[simp] theorem State.logPut_pending {r : LogRec} : (s.logPut r).pending = s.pending := by
  unfold State.logPut; dsimp only; split <;> rfl
@[simp] theorem State.logPut_modes {r : LogRec} : (s.logPut r).modes = s.modes := by
  unfold State.logPut; dsimp only; split <;> rfl
@[simp] theorem State.logPut_plinth {r : LogRec} : (s.logPut r).plinth = s.plinth := by
  unfold State.logPut; dsimp only; split <;> rfl
@[simp] theorem State.logPut_pins {r : LogRec} : (s.logPut r).pins = s.pins := by
  unfold State.logPut; dsimp only; split <;> rfl
@[simp] theorem State.logPut_boot {r : LogRec} : (s.logPut r).boot = s.boot := by
  unfold State.logPut; dsimp only; split <;> rfl
@[simp] theorem State.logPut_hostRsp {r : LogRec} : (s.logPut r).hostRsp = s.hostRsp := by
  unfold State.logPut; dsimp only; split <;> rfl
@[simp] theorem State.logPut_hostOut {r : LogRec} : (s.logPut r).hostOut = s.hostOut := by
  unfold State.logPut; dsimp only; split <;> rfl
@[simp] theorem State.logPut_coxRsp {r : LogRec} : (s.logPut r).coxRsp = s.coxRsp := by
  unfold State.logPut; dsimp only; split <;> rfl
@[simp] theorem State.logPut_agents {r : LogRec} : (s.logPut r).agents = s.agents := by
  unfold State.logPut; dsimp only; split <;> rfl
@[simp] theorem State.logPut_hists {r : LogRec} : (s.logPut r).hists = s.hists := by
  unfold State.logPut; dsimp only; split <;> rfl
@[simp] theorem State.logPut_atts {r : LogRec} : (s.logPut r).atts = s.atts := by
  unfold State.logPut; dsimp only; split <;> rfl
@[simp] theorem State.logPut_slices {r : LogRec} : (s.logPut r).slices = s.slices := by
  unfold State.logPut; dsimp only; split <;> rfl
@[simp] theorem State.logPut_ports {r : LogRec} : (s.logPut r).ports = s.ports := by
  unfold State.logPut; dsimp only; split <;> rfl
@[simp] theorem State.logPut_mesh {r : LogRec} : (s.logPut r).mesh = s.mesh := by
  unfold State.logPut; dsimp only; split <;> rfl
@[simp] theorem State.logPut_hmap {r : LogRec} : (s.logPut r).hmap = s.hmap := by
  unfold State.logPut; dsimp only; split <;> rfl
@[simp] theorem State.logPut_cast {r : LogRec} : (s.logPut r).cast = s.cast := by
  unfold State.logPut; dsimp only; split <;> rfl
@[simp] theorem State.logPut_events {r : LogRec} : (s.logPut r).events = s.events := by
  unfold State.logPut; dsimp only; split <;> rfl
@[simp] theorem State.logPut_counts {r : LogRec} : (s.logPut r).counts = s.counts := by
  unfold State.logPut; dsimp only; split <;> rfl
@[simp] theorem State.logPut_calAt {r : LogRec} : (s.logPut r).calAt = s.calAt := by
  unfold State.logPut; dsimp only; split <;> rfl
@[simp] theorem State.logPut_freeCtr {r : LogRec} : (s.logPut r).freeCtr = s.freeCtr := by
  unfold State.logPut; dsimp only; split <;> rfl
@[simp] theorem State.logPut_castMem {r : LogRec} : (s.logPut r).castMem = s.castMem := by
  unfold State.logPut; dsimp only; split <;> rfl
@[simp] theorem State.logPut_att {r : LogRec} {j : AttId} : (s.logPut r).att j = s.att j := by simp [State.att]
@[simp] theorem State.logPut_sl {r : LogRec} {j : SliceId} : (s.logPut r).sl j = s.sl j := by simp [State.sl]
@[simp] theorem State.logPut_mp {r : LogRec} {j : PortId} : (s.logPut r).mp j = s.mp j := by simp [State.mp]
@[simp] theorem State.logPut_agent {r : LogRec} {j : AgentId} : (s.logPut r).agent j = s.agent j := by simp [State.agent]
@[simp] theorem State.logPut_hist {r : LogRec} {j : AgentId} : (s.logPut r).hist j = s.hist j := by simp [State.hist]
@[simp] theorem State.logPut_router {r : LogRec} {j : Nat} : (s.logPut r).router j = s.router j := by simp [State.router]
@[simp] theorem State.logPut_ev {r : LogRec} {j : Nat} : (s.logPut r).ev j = s.ev j := by simp [State.ev]
@[simp] theorem State.logPut_cnt {r : LogRec} {j : Nat} : (s.logPut r).cnt j = s.cnt j := by simp [State.cnt]
@[simp] theorem State.logPut_now {r : LogRec} : (s.logPut r).now = s.now := by simp [State.now]
@[simp] theorem State.logPut_mode {r : LogRec} : (s.logPut r).mode = s.mode := by simp [State.mode]
@[simp] theorem State.logPut_held {r : LogRec} : (s.logPut r).held = s.held := by simp [State.held]
@[simp] theorem State.logPut_runs {r : LogRec} : (s.logPut r).runs = s.runs := by simp [State.runs]
@[simp] theorem State.logPut_level {r : LogRec} : (s.logPut r).level = s.level := by simp [State.level]
@[simp] theorem State.logPut_portUp {r : LogRec} : (s.logPut r).portUp = s.portUp := by simp [State.portUp]
@[simp] theorem State.logPut_fwUp {r : LogRec} : (s.logPut r).fwUp = s.fwUp := by simp [State.fwUp, State.portUp]
@[simp] theorem State.logPut_homeOf {r : LogRec} {j : BitVec 12} : (s.logPut r).homeOf j = s.homeOf j := State.homeOf_of (by simp)
@[simp] theorem State.logPut_edgeHome {r : LogRec} {j : Nat} {b1 : BitVec 12} : (s.logPut r).edgeHome j b1 = s.edgeHome j b1 := State.edgeHome_of (by simp)
@[simp] theorem State.logPut_serves {r : LogRec} {j : SliceId} {b1 : BitVec 12} : (s.logPut r).serves j b1 = s.serves j b1 := State.serves_of (by simp)
@[simp] theorem State.logPut_attBounces {r : LogRec} {j : AttId} : (s.logPut r).attBounces j = s.attBounces j := State.attBounces_of (by simp)
@[simp] theorem State.logPut_portBounces {r : LogRec} {j : PortId} : (s.logPut r).portBounces j = s.portBounces j := State.portBounces_of (by simp)
@[simp] theorem State.logPut_attShut {r : LogRec} {j : AttId} : (s.logPut r).attShut j = s.attShut j := State.attShut_of (by simp)
@[simp] theorem State.logPut_mpShut {r : LogRec} {j : PortId} : (s.logPut r).mpShut j = s.mpShut j := State.mpShut_of (by simp)

/-! ## logHw -/

@[simp] theorem State.logHw_pending {t u d : Nat} : (s.logHw t u d).pending = s.pending := by simp [State.logHw]
@[simp] theorem State.logHw_modes {t u d : Nat} : (s.logHw t u d).modes = s.modes := by simp [State.logHw]
@[simp] theorem State.logHw_plinth {t u d : Nat} : (s.logHw t u d).plinth = s.plinth := by simp [State.logHw]
@[simp] theorem State.logHw_pins {t u d : Nat} : (s.logHw t u d).pins = s.pins := by simp [State.logHw]
@[simp] theorem State.logHw_boot {t u d : Nat} : (s.logHw t u d).boot = s.boot := by simp [State.logHw]
@[simp] theorem State.logHw_hostRsp {t u d : Nat} : (s.logHw t u d).hostRsp = s.hostRsp := by simp [State.logHw]
@[simp] theorem State.logHw_hostOut {t u d : Nat} : (s.logHw t u d).hostOut = s.hostOut := by simp [State.logHw]
@[simp] theorem State.logHw_coxRsp {t u d : Nat} : (s.logHw t u d).coxRsp = s.coxRsp := by simp [State.logHw]
@[simp] theorem State.logHw_agents {t u d : Nat} : (s.logHw t u d).agents = s.agents := by simp [State.logHw]
@[simp] theorem State.logHw_hists {t u d : Nat} : (s.logHw t u d).hists = s.hists := by simp [State.logHw]
@[simp] theorem State.logHw_atts {t u d : Nat} : (s.logHw t u d).atts = s.atts := by simp [State.logHw]
@[simp] theorem State.logHw_slices {t u d : Nat} : (s.logHw t u d).slices = s.slices := by simp [State.logHw]
@[simp] theorem State.logHw_ports {t u d : Nat} : (s.logHw t u d).ports = s.ports := by simp [State.logHw]
@[simp] theorem State.logHw_mesh {t u d : Nat} : (s.logHw t u d).mesh = s.mesh := by simp [State.logHw]
@[simp] theorem State.logHw_hmap {t u d : Nat} : (s.logHw t u d).hmap = s.hmap := by simp [State.logHw]
@[simp] theorem State.logHw_cast {t u d : Nat} : (s.logHw t u d).cast = s.cast := by simp [State.logHw]
@[simp] theorem State.logHw_events {t u d : Nat} : (s.logHw t u d).events = s.events := by simp [State.logHw]
@[simp] theorem State.logHw_counts {t u d : Nat} : (s.logHw t u d).counts = s.counts := by simp [State.logHw]
@[simp] theorem State.logHw_calAt {t u d : Nat} : (s.logHw t u d).calAt = s.calAt := by simp [State.logHw]
@[simp] theorem State.logHw_freeCtr {t u d : Nat} : (s.logHw t u d).freeCtr = s.freeCtr := by simp [State.logHw]
@[simp] theorem State.logHw_castMem {t u d : Nat} : (s.logHw t u d).castMem = s.castMem := by simp [State.logHw]
@[simp] theorem State.logHw_att {t u d : Nat} {j : AttId} : (s.logHw t u d).att j = s.att j := by simp [State.att]
@[simp] theorem State.logHw_sl {t u d : Nat} {j : SliceId} : (s.logHw t u d).sl j = s.sl j := by simp [State.sl]
@[simp] theorem State.logHw_mp {t u d : Nat} {j : PortId} : (s.logHw t u d).mp j = s.mp j := by simp [State.mp]
@[simp] theorem State.logHw_agent {t u d : Nat} {j : AgentId} : (s.logHw t u d).agent j = s.agent j := by simp [State.agent]
@[simp] theorem State.logHw_hist {t u d : Nat} {j : AgentId} : (s.logHw t u d).hist j = s.hist j := by simp [State.hist]
@[simp] theorem State.logHw_router {t u d : Nat} {j : Nat} : (s.logHw t u d).router j = s.router j := by simp [State.router]
@[simp] theorem State.logHw_ev {t u d : Nat} {j : Nat} : (s.logHw t u d).ev j = s.ev j := by simp [State.ev]
@[simp] theorem State.logHw_cnt {t u d : Nat} {j : Nat} : (s.logHw t u d).cnt j = s.cnt j := by simp [State.cnt]
@[simp] theorem State.logHw_now {t u d : Nat} : (s.logHw t u d).now = s.now := by simp [State.now]
@[simp] theorem State.logHw_mode {t u d : Nat} : (s.logHw t u d).mode = s.mode := by simp [State.mode]
@[simp] theorem State.logHw_held {t u d : Nat} : (s.logHw t u d).held = s.held := by simp [State.held]
@[simp] theorem State.logHw_runs {t u d : Nat} : (s.logHw t u d).runs = s.runs := by simp [State.runs]
@[simp] theorem State.logHw_level {t u d : Nat} : (s.logHw t u d).level = s.level := by simp [State.level]
@[simp] theorem State.logHw_portUp {t u d : Nat} : (s.logHw t u d).portUp = s.portUp := by simp [State.portUp]
@[simp] theorem State.logHw_fwUp {t u d : Nat} : (s.logHw t u d).fwUp = s.fwUp := by simp [State.fwUp, State.portUp]
@[simp] theorem State.logHw_homeOf {t u d : Nat} {j : BitVec 12} : (s.logHw t u d).homeOf j = s.homeOf j := State.homeOf_of (by simp)
@[simp] theorem State.logHw_edgeHome {t u d : Nat} {j : Nat} {b1 : BitVec 12} : (s.logHw t u d).edgeHome j b1 = s.edgeHome j b1 := State.edgeHome_of (by simp)
@[simp] theorem State.logHw_serves {t u d : Nat} {j : SliceId} {b1 : BitVec 12} : (s.logHw t u d).serves j b1 = s.serves j b1 := State.serves_of (by simp)
@[simp] theorem State.logHw_attBounces {t u d : Nat} {j : AttId} : (s.logHw t u d).attBounces j = s.attBounces j := State.attBounces_of (by simp)
@[simp] theorem State.logHw_portBounces {t u d : Nat} {j : PortId} : (s.logHw t u d).portBounces j = s.portBounces j := State.portBounces_of (by simp)
@[simp] theorem State.logHw_attShut {t u d : Nat} {j : AttId} : (s.logHw t u d).attShut j = s.attShut j := State.attShut_of (by simp)
@[simp] theorem State.logHw_mpShut {t u d : Nat} {j : PortId} : (s.logHw t u d).mpShut j = s.mpShut j := State.mpShut_of (by simp)

/-! ## toMode -/

@[simp] theorem State.toMode_pending {m : Mode} : (s.toMode m).pending = s.pending := by
  unfold State.toMode; (repeat' split) <;> simp
@[simp] theorem State.toMode_plinth {m : Mode} : (s.toMode m).plinth = s.plinth := by
  unfold State.toMode; (repeat' split) <;> simp
@[simp] theorem State.toMode_pins {m : Mode} : (s.toMode m).pins = s.pins := by
  unfold State.toMode; (repeat' split) <;> simp
@[simp] theorem State.toMode_boot {m : Mode} : (s.toMode m).boot = s.boot := by
  unfold State.toMode; (repeat' split) <;> simp
@[simp] theorem State.toMode_hostRsp {m : Mode} : (s.toMode m).hostRsp = s.hostRsp := by
  unfold State.toMode; (repeat' split) <;> simp
@[simp] theorem State.toMode_hostOut {m : Mode} : (s.toMode m).hostOut = s.hostOut := by
  unfold State.toMode; (repeat' split) <;> simp
@[simp] theorem State.toMode_coxRsp {m : Mode} : (s.toMode m).coxRsp = s.coxRsp := by
  unfold State.toMode; (repeat' split) <;> simp
@[simp] theorem State.toMode_agents {m : Mode} : (s.toMode m).agents = s.agents := by
  unfold State.toMode; (repeat' split) <;> simp
@[simp] theorem State.toMode_hists {m : Mode} : (s.toMode m).hists = s.hists := by
  unfold State.toMode; (repeat' split) <;> simp
@[simp] theorem State.toMode_atts {m : Mode} : (s.toMode m).atts = s.atts := by
  unfold State.toMode; (repeat' split) <;> simp
@[simp] theorem State.toMode_slices {m : Mode} : (s.toMode m).slices = s.slices := by
  unfold State.toMode; (repeat' split) <;> simp
@[simp] theorem State.toMode_ports {m : Mode} : (s.toMode m).ports = s.ports := by
  unfold State.toMode; (repeat' split) <;> simp
@[simp] theorem State.toMode_hmap {m : Mode} : (s.toMode m).hmap = s.hmap := by
  unfold State.toMode; (repeat' split) <;> simp
@[simp] theorem State.toMode_cast {m : Mode} : (s.toMode m).cast = s.cast := by
  unfold State.toMode; (repeat' split) <;> simp
@[simp] theorem State.toMode_counts {m : Mode} : (s.toMode m).counts = s.counts := by
  unfold State.toMode; (repeat' split) <;> simp
@[simp] theorem State.toMode_calAt {m : Mode} : (s.toMode m).calAt = s.calAt := by
  unfold State.toMode; (repeat' split) <;> simp
@[simp] theorem State.toMode_freeCtr {m : Mode} : (s.toMode m).freeCtr = s.freeCtr := by
  unfold State.toMode; (repeat' split) <;> simp
@[simp] theorem State.toMode_castMem {m : Mode} : (s.toMode m).castMem = s.castMem := by
  unfold State.toMode; (repeat' split) <;> simp
@[simp] theorem State.toMode_att {m : Mode} {j : AttId} : (s.toMode m).att j = s.att j := by simp [State.att]
@[simp] theorem State.toMode_sl {m : Mode} {j : SliceId} : (s.toMode m).sl j = s.sl j := by simp [State.sl]
@[simp] theorem State.toMode_mp {m : Mode} {j : PortId} : (s.toMode m).mp j = s.mp j := by simp [State.mp]
@[simp] theorem State.toMode_agent {m : Mode} {j : AgentId} : (s.toMode m).agent j = s.agent j := by simp [State.agent]
@[simp] theorem State.toMode_hist {m : Mode} {j : AgentId} : (s.toMode m).hist j = s.hist j := by simp [State.hist]
@[simp] theorem State.toMode_router {m : Mode} {j : Nat} : (s.toMode m).router j = s.router j := by
  unfold State.toMode; split
  · rfl
  · rw [State.logHw_router, State.fire_router]; rfl
@[simp] theorem State.toMode_cnt {m : Mode} {j : Nat} : (s.toMode m).cnt j = s.cnt j := by simp [State.cnt]
@[simp] theorem State.toMode_now {m : Mode} : (s.toMode m).now = s.now := by simp [State.now]
@[simp] theorem State.toMode_homeOf {m : Mode} {j : BitVec 12} : (s.toMode m).homeOf j = s.homeOf j := State.homeOf_of (by simp)
@[simp] theorem State.toMode_edgeHome {m : Mode} {j : Nat} {b1 : BitVec 12} : (s.toMode m).edgeHome j b1 = s.edgeHome j b1 := State.edgeHome_of (by simp)
@[simp] theorem State.toMode_serves {m : Mode} {j : SliceId} {b1 : BitVec 12} : (s.toMode m).serves j b1 = s.serves j b1 := State.serves_of (by simp)
@[simp] theorem State.toMode_attBounces {m : Mode} {j : AttId} : (s.toMode m).attBounces j = s.attBounces j := State.attBounces_of (by simp)
@[simp] theorem State.toMode_portBounces {m : Mode} {j : PortId} : (s.toMode m).portBounces j = s.portBounces j := State.portBounces_of (by simp)
@[simp] theorem State.toMode_attShut {m : Mode} {j : AttId} : (s.toMode m).attShut j = s.attShut j := State.attShut_of (by simp)
@[simp] theorem State.toMode_mpShut {m : Mode} {j : PortId} : (s.toMode m).mpShut j = s.mpShut j := State.mpShut_of (by simp)

/-! ## egNdr -/

@[simp] theorem State.egNdr_pending {k : AttId} {n : Ndr} : (s.egNdr k n).pending = s.pending := rfl
@[simp] theorem State.egNdr_modes {k : AttId} {n : Ndr} : (s.egNdr k n).modes = s.modes := rfl
@[simp] theorem State.egNdr_plinth {k : AttId} {n : Ndr} : (s.egNdr k n).plinth = s.plinth := rfl
@[simp] theorem State.egNdr_pins {k : AttId} {n : Ndr} : (s.egNdr k n).pins = s.pins := rfl
@[simp] theorem State.egNdr_boot {k : AttId} {n : Ndr} : (s.egNdr k n).boot = s.boot := rfl
@[simp] theorem State.egNdr_regs {k : AttId} {n : Ndr} : (s.egNdr k n).regs = s.regs := rfl
@[simp] theorem State.egNdr_hostRsp {k : AttId} {n : Ndr} : (s.egNdr k n).hostRsp = s.hostRsp := rfl
@[simp] theorem State.egNdr_hostOut {k : AttId} {n : Ndr} : (s.egNdr k n).hostOut = s.hostOut := rfl
@[simp] theorem State.egNdr_coxRsp {k : AttId} {n : Ndr} : (s.egNdr k n).coxRsp = s.coxRsp := rfl
@[simp] theorem State.egNdr_agents {k : AttId} {n : Ndr} : (s.egNdr k n).agents = s.agents := rfl
@[simp] theorem State.egNdr_hists {k : AttId} {n : Ndr} : (s.egNdr k n).hists = s.hists := rfl
@[simp] theorem State.egNdr_slices {k : AttId} {n : Ndr} : (s.egNdr k n).slices = s.slices := rfl
@[simp] theorem State.egNdr_ports {k : AttId} {n : Ndr} : (s.egNdr k n).ports = s.ports := rfl
@[simp] theorem State.egNdr_mesh {k : AttId} {n : Ndr} : (s.egNdr k n).mesh = s.mesh := rfl
@[simp] theorem State.egNdr_hmap {k : AttId} {n : Ndr} : (s.egNdr k n).hmap = s.hmap := rfl
@[simp] theorem State.egNdr_cast {k : AttId} {n : Ndr} : (s.egNdr k n).cast = s.cast := rfl
@[simp] theorem State.egNdr_events {k : AttId} {n : Ndr} : (s.egNdr k n).events = s.events := rfl
@[simp] theorem State.egNdr_counts {k : AttId} {n : Ndr} : (s.egNdr k n).counts = s.counts := rfl
@[simp] theorem State.egNdr_cox {k : AttId} {n : Ndr} : (s.egNdr k n).cox = s.cox := rfl
@[simp] theorem State.egNdr_calAt {k : AttId} {n : Ndr} : (s.egNdr k n).calAt = s.calAt := rfl
@[simp] theorem State.egNdr_freeCtr {k : AttId} {n : Ndr} : (s.egNdr k n).freeCtr = s.freeCtr := rfl
@[simp] theorem State.egNdr_castMem {k : AttId} {n : Ndr} : (s.egNdr k n).castMem = s.castMem := rfl
@[simp] theorem State.egNdr_sl {k : AttId} {n : Ndr} {j : SliceId} : (s.egNdr k n).sl j = s.sl j := rfl
@[simp] theorem State.egNdr_mp {k : AttId} {n : Ndr} {j : PortId} : (s.egNdr k n).mp j = s.mp j := rfl
@[simp] theorem State.egNdr_agent {k : AttId} {n : Ndr} {j : AgentId} : (s.egNdr k n).agent j = s.agent j := rfl
@[simp] theorem State.egNdr_hist {k : AttId} {n : Ndr} {j : AgentId} : (s.egNdr k n).hist j = s.hist j := rfl
@[simp] theorem State.egNdr_router {k : AttId} {n : Ndr} {j : Nat} : (s.egNdr k n).router j = s.router j := rfl
@[simp] theorem State.egNdr_ev {k : AttId} {n : Ndr} {j : Nat} : (s.egNdr k n).ev j = s.ev j := rfl
@[simp] theorem State.egNdr_cnt {k : AttId} {n : Ndr} {j : Nat} : (s.egNdr k n).cnt j = s.cnt j := rfl
@[simp] theorem State.egNdr_reg {k : AttId} {n : Ndr} {j : Nat} : (s.egNdr k n).reg j = s.reg j := rfl
@[simp] theorem State.egNdr_fld {k : AttId} {n : Ndr} {j : Fld} : (s.egNdr k n).fld j = s.fld j := rfl
@[simp] theorem State.egNdr_now {k : AttId} {n : Ndr} : (s.egNdr k n).now = s.now := rfl
@[simp] theorem State.egNdr_mode {k : AttId} {n : Ndr} : (s.egNdr k n).mode = s.mode := rfl
@[simp] theorem State.egNdr_held {k : AttId} {n : Ndr} : (s.egNdr k n).held = s.held := rfl
@[simp] theorem State.egNdr_runs {k : AttId} {n : Ndr} : (s.egNdr k n).runs = s.runs := rfl
@[simp] theorem State.egNdr_level {k : AttId} {n : Ndr} : (s.egNdr k n).level = s.level := rfl
@[simp] theorem State.egNdr_portUp {k : AttId} {n : Ndr} : (s.egNdr k n).portUp = s.portUp := rfl
@[simp] theorem State.egNdr_fwUp {k : AttId} {n : Ndr} : (s.egNdr k n).fwUp = s.fwUp := rfl
@[simp] theorem State.egNdr_inWindow {k : AttId} {n : Ndr} {j : Line} : (s.egNdr k n).inWindow j = s.inWindow j := rfl
@[simp] theorem State.egNdr_inCast {k : AttId} {n : Ndr} {j : Line} : (s.egNdr k n).inCast j = s.inCast j := rfl
@[simp] theorem State.egNdr_homeOf {k : AttId} {n : Ndr} {j : BitVec 12} : (s.egNdr k n).homeOf j = s.homeOf j := rfl
@[simp] theorem State.egNdr_edgeHome {k : AttId} {n : Ndr} {j : Nat} {b1 : BitVec 12} : (s.egNdr k n).edgeHome j b1 = s.edgeHome j b1 := rfl
@[simp] theorem State.egNdr_serves {k : AttId} {n : Ndr} {j : SliceId} {b1 : BitVec 12} : (s.egNdr k n).serves j b1 = s.serves j b1 := rfl
@[simp] theorem State.egNdr_attBounces {k : AttId} {n : Ndr} {j : AttId} : (s.egNdr k n).attBounces j = s.attBounces j := rfl
@[simp] theorem State.egNdr_portBounces {k : AttId} {n : Ndr} {j : PortId} : (s.egNdr k n).portBounces j = s.portBounces j := rfl
@[simp] theorem State.egNdr_mpShut {k : AttId} {n : Ndr} {j : PortId} : (s.egNdr k n).mpShut j = s.mpShut j := rfl
@[simp] theorem State.egNdr_coxUp {k : AttId} {n : Ndr} : (s.egNdr k n).coxUp = s.coxUp := rfl

/-! ## egDrs -/

@[simp] theorem State.egDrs_pending {k : AttId} {d : Drs} : (s.egDrs k d).pending = s.pending := rfl
@[simp] theorem State.egDrs_modes {k : AttId} {d : Drs} : (s.egDrs k d).modes = s.modes := rfl
@[simp] theorem State.egDrs_plinth {k : AttId} {d : Drs} : (s.egDrs k d).plinth = s.plinth := rfl
@[simp] theorem State.egDrs_pins {k : AttId} {d : Drs} : (s.egDrs k d).pins = s.pins := rfl
@[simp] theorem State.egDrs_boot {k : AttId} {d : Drs} : (s.egDrs k d).boot = s.boot := rfl
@[simp] theorem State.egDrs_regs {k : AttId} {d : Drs} : (s.egDrs k d).regs = s.regs := rfl
@[simp] theorem State.egDrs_hostRsp {k : AttId} {d : Drs} : (s.egDrs k d).hostRsp = s.hostRsp := rfl
@[simp] theorem State.egDrs_hostOut {k : AttId} {d : Drs} : (s.egDrs k d).hostOut = s.hostOut := rfl
@[simp] theorem State.egDrs_coxRsp {k : AttId} {d : Drs} : (s.egDrs k d).coxRsp = s.coxRsp := rfl
@[simp] theorem State.egDrs_agents {k : AttId} {d : Drs} : (s.egDrs k d).agents = s.agents := rfl
@[simp] theorem State.egDrs_hists {k : AttId} {d : Drs} : (s.egDrs k d).hists = s.hists := rfl
@[simp] theorem State.egDrs_slices {k : AttId} {d : Drs} : (s.egDrs k d).slices = s.slices := rfl
@[simp] theorem State.egDrs_ports {k : AttId} {d : Drs} : (s.egDrs k d).ports = s.ports := rfl
@[simp] theorem State.egDrs_mesh {k : AttId} {d : Drs} : (s.egDrs k d).mesh = s.mesh := rfl
@[simp] theorem State.egDrs_hmap {k : AttId} {d : Drs} : (s.egDrs k d).hmap = s.hmap := rfl
@[simp] theorem State.egDrs_cast {k : AttId} {d : Drs} : (s.egDrs k d).cast = s.cast := rfl
@[simp] theorem State.egDrs_events {k : AttId} {d : Drs} : (s.egDrs k d).events = s.events := rfl
@[simp] theorem State.egDrs_counts {k : AttId} {d : Drs} : (s.egDrs k d).counts = s.counts := rfl
@[simp] theorem State.egDrs_cox {k : AttId} {d : Drs} : (s.egDrs k d).cox = s.cox := rfl
@[simp] theorem State.egDrs_calAt {k : AttId} {d : Drs} : (s.egDrs k d).calAt = s.calAt := rfl
@[simp] theorem State.egDrs_freeCtr {k : AttId} {d : Drs} : (s.egDrs k d).freeCtr = s.freeCtr := rfl
@[simp] theorem State.egDrs_castMem {k : AttId} {d : Drs} : (s.egDrs k d).castMem = s.castMem := rfl
@[simp] theorem State.egDrs_sl {k : AttId} {d : Drs} {j : SliceId} : (s.egDrs k d).sl j = s.sl j := rfl
@[simp] theorem State.egDrs_mp {k : AttId} {d : Drs} {j : PortId} : (s.egDrs k d).mp j = s.mp j := rfl
@[simp] theorem State.egDrs_agent {k : AttId} {d : Drs} {j : AgentId} : (s.egDrs k d).agent j = s.agent j := rfl
@[simp] theorem State.egDrs_hist {k : AttId} {d : Drs} {j : AgentId} : (s.egDrs k d).hist j = s.hist j := rfl
@[simp] theorem State.egDrs_router {k : AttId} {d : Drs} {j : Nat} : (s.egDrs k d).router j = s.router j := rfl
@[simp] theorem State.egDrs_ev {k : AttId} {d : Drs} {j : Nat} : (s.egDrs k d).ev j = s.ev j := rfl
@[simp] theorem State.egDrs_cnt {k : AttId} {d : Drs} {j : Nat} : (s.egDrs k d).cnt j = s.cnt j := rfl
@[simp] theorem State.egDrs_reg {k : AttId} {d : Drs} {j : Nat} : (s.egDrs k d).reg j = s.reg j := rfl
@[simp] theorem State.egDrs_fld {k : AttId} {d : Drs} {j : Fld} : (s.egDrs k d).fld j = s.fld j := rfl
@[simp] theorem State.egDrs_now {k : AttId} {d : Drs} : (s.egDrs k d).now = s.now := rfl
@[simp] theorem State.egDrs_mode {k : AttId} {d : Drs} : (s.egDrs k d).mode = s.mode := rfl
@[simp] theorem State.egDrs_held {k : AttId} {d : Drs} : (s.egDrs k d).held = s.held := rfl
@[simp] theorem State.egDrs_runs {k : AttId} {d : Drs} : (s.egDrs k d).runs = s.runs := rfl
@[simp] theorem State.egDrs_level {k : AttId} {d : Drs} : (s.egDrs k d).level = s.level := rfl
@[simp] theorem State.egDrs_portUp {k : AttId} {d : Drs} : (s.egDrs k d).portUp = s.portUp := rfl
@[simp] theorem State.egDrs_fwUp {k : AttId} {d : Drs} : (s.egDrs k d).fwUp = s.fwUp := rfl
@[simp] theorem State.egDrs_inWindow {k : AttId} {d : Drs} {j : Line} : (s.egDrs k d).inWindow j = s.inWindow j := rfl
@[simp] theorem State.egDrs_inCast {k : AttId} {d : Drs} {j : Line} : (s.egDrs k d).inCast j = s.inCast j := rfl
@[simp] theorem State.egDrs_homeOf {k : AttId} {d : Drs} {j : BitVec 12} : (s.egDrs k d).homeOf j = s.homeOf j := rfl
@[simp] theorem State.egDrs_edgeHome {k : AttId} {d : Drs} {j : Nat} {b1 : BitVec 12} : (s.egDrs k d).edgeHome j b1 = s.edgeHome j b1 := rfl
@[simp] theorem State.egDrs_serves {k : AttId} {d : Drs} {j : SliceId} {b1 : BitVec 12} : (s.egDrs k d).serves j b1 = s.serves j b1 := rfl
@[simp] theorem State.egDrs_attBounces {k : AttId} {d : Drs} {j : AttId} : (s.egDrs k d).attBounces j = s.attBounces j := rfl
@[simp] theorem State.egDrs_portBounces {k : AttId} {d : Drs} {j : PortId} : (s.egDrs k d).portBounces j = s.portBounces j := rfl
@[simp] theorem State.egDrs_mpShut {k : AttId} {d : Drs} {j : PortId} : (s.egDrs k d).mpShut j = s.mpShut j := rfl
@[simp] theorem State.egDrs_coxUp {k : AttId} {d : Drs} : (s.egDrs k d).coxUp = s.coxUp := rfl

/-! ## egBisnp -/

@[simp] theorem State.egBisnp_pending {k : AttId} {b : Bisnp} : (s.egBisnp k b).pending = s.pending := rfl
@[simp] theorem State.egBisnp_modes {k : AttId} {b : Bisnp} : (s.egBisnp k b).modes = s.modes := rfl
@[simp] theorem State.egBisnp_plinth {k : AttId} {b : Bisnp} : (s.egBisnp k b).plinth = s.plinth := rfl
@[simp] theorem State.egBisnp_pins {k : AttId} {b : Bisnp} : (s.egBisnp k b).pins = s.pins := rfl
@[simp] theorem State.egBisnp_boot {k : AttId} {b : Bisnp} : (s.egBisnp k b).boot = s.boot := rfl
@[simp] theorem State.egBisnp_regs {k : AttId} {b : Bisnp} : (s.egBisnp k b).regs = s.regs := rfl
@[simp] theorem State.egBisnp_hostRsp {k : AttId} {b : Bisnp} : (s.egBisnp k b).hostRsp = s.hostRsp := rfl
@[simp] theorem State.egBisnp_hostOut {k : AttId} {b : Bisnp} : (s.egBisnp k b).hostOut = s.hostOut := rfl
@[simp] theorem State.egBisnp_coxRsp {k : AttId} {b : Bisnp} : (s.egBisnp k b).coxRsp = s.coxRsp := rfl
@[simp] theorem State.egBisnp_agents {k : AttId} {b : Bisnp} : (s.egBisnp k b).agents = s.agents := rfl
@[simp] theorem State.egBisnp_hists {k : AttId} {b : Bisnp} : (s.egBisnp k b).hists = s.hists := rfl
@[simp] theorem State.egBisnp_slices {k : AttId} {b : Bisnp} : (s.egBisnp k b).slices = s.slices := rfl
@[simp] theorem State.egBisnp_ports {k : AttId} {b : Bisnp} : (s.egBisnp k b).ports = s.ports := rfl
@[simp] theorem State.egBisnp_mesh {k : AttId} {b : Bisnp} : (s.egBisnp k b).mesh = s.mesh := rfl
@[simp] theorem State.egBisnp_hmap {k : AttId} {b : Bisnp} : (s.egBisnp k b).hmap = s.hmap := rfl
@[simp] theorem State.egBisnp_cast {k : AttId} {b : Bisnp} : (s.egBisnp k b).cast = s.cast := rfl
@[simp] theorem State.egBisnp_events {k : AttId} {b : Bisnp} : (s.egBisnp k b).events = s.events := rfl
@[simp] theorem State.egBisnp_counts {k : AttId} {b : Bisnp} : (s.egBisnp k b).counts = s.counts := rfl
@[simp] theorem State.egBisnp_cox {k : AttId} {b : Bisnp} : (s.egBisnp k b).cox = s.cox := rfl
@[simp] theorem State.egBisnp_calAt {k : AttId} {b : Bisnp} : (s.egBisnp k b).calAt = s.calAt := rfl
@[simp] theorem State.egBisnp_freeCtr {k : AttId} {b : Bisnp} : (s.egBisnp k b).freeCtr = s.freeCtr := rfl
@[simp] theorem State.egBisnp_castMem {k : AttId} {b : Bisnp} : (s.egBisnp k b).castMem = s.castMem := rfl
@[simp] theorem State.egBisnp_sl {k : AttId} {b : Bisnp} {j : SliceId} : (s.egBisnp k b).sl j = s.sl j := rfl
@[simp] theorem State.egBisnp_mp {k : AttId} {b : Bisnp} {j : PortId} : (s.egBisnp k b).mp j = s.mp j := rfl
@[simp] theorem State.egBisnp_agent {k : AttId} {b : Bisnp} {j : AgentId} : (s.egBisnp k b).agent j = s.agent j := rfl
@[simp] theorem State.egBisnp_hist {k : AttId} {b : Bisnp} {j : AgentId} : (s.egBisnp k b).hist j = s.hist j := rfl
@[simp] theorem State.egBisnp_router {k : AttId} {b : Bisnp} {j : Nat} : (s.egBisnp k b).router j = s.router j := rfl
@[simp] theorem State.egBisnp_ev {k : AttId} {b : Bisnp} {j : Nat} : (s.egBisnp k b).ev j = s.ev j := rfl
@[simp] theorem State.egBisnp_cnt {k : AttId} {b : Bisnp} {j : Nat} : (s.egBisnp k b).cnt j = s.cnt j := rfl
@[simp] theorem State.egBisnp_reg {k : AttId} {b : Bisnp} {j : Nat} : (s.egBisnp k b).reg j = s.reg j := rfl
@[simp] theorem State.egBisnp_fld {k : AttId} {b : Bisnp} {j : Fld} : (s.egBisnp k b).fld j = s.fld j := rfl
@[simp] theorem State.egBisnp_now {k : AttId} {b : Bisnp} : (s.egBisnp k b).now = s.now := rfl
@[simp] theorem State.egBisnp_mode {k : AttId} {b : Bisnp} : (s.egBisnp k b).mode = s.mode := rfl
@[simp] theorem State.egBisnp_held {k : AttId} {b : Bisnp} : (s.egBisnp k b).held = s.held := rfl
@[simp] theorem State.egBisnp_runs {k : AttId} {b : Bisnp} : (s.egBisnp k b).runs = s.runs := rfl
@[simp] theorem State.egBisnp_level {k : AttId} {b : Bisnp} : (s.egBisnp k b).level = s.level := rfl
@[simp] theorem State.egBisnp_portUp {k : AttId} {b : Bisnp} : (s.egBisnp k b).portUp = s.portUp := rfl
@[simp] theorem State.egBisnp_fwUp {k : AttId} {b : Bisnp} : (s.egBisnp k b).fwUp = s.fwUp := rfl
@[simp] theorem State.egBisnp_inWindow {k : AttId} {b : Bisnp} {j : Line} : (s.egBisnp k b).inWindow j = s.inWindow j := rfl
@[simp] theorem State.egBisnp_inCast {k : AttId} {b : Bisnp} {j : Line} : (s.egBisnp k b).inCast j = s.inCast j := rfl
@[simp] theorem State.egBisnp_homeOf {k : AttId} {b : Bisnp} {j : BitVec 12} : (s.egBisnp k b).homeOf j = s.homeOf j := rfl
@[simp] theorem State.egBisnp_edgeHome {k : AttId} {b : Bisnp} {j : Nat} {b1 : BitVec 12} : (s.egBisnp k b).edgeHome j b1 = s.edgeHome j b1 := rfl
@[simp] theorem State.egBisnp_serves {k : AttId} {b : Bisnp} {j : SliceId} {b1 : BitVec 12} : (s.egBisnp k b).serves j b1 = s.serves j b1 := rfl
@[simp] theorem State.egBisnp_attBounces {k : AttId} {b : Bisnp} {j : AttId} : (s.egBisnp k b).attBounces j = s.attBounces j := rfl
@[simp] theorem State.egBisnp_portBounces {k : AttId} {b : Bisnp} {j : PortId} : (s.egBisnp k b).portBounces j = s.portBounces j := rfl
@[simp] theorem State.egBisnp_mpShut {k : AttId} {b : Bisnp} {j : PortId} : (s.egBisnp k b).mpShut j = s.mpShut j := rfl
@[simp] theorem State.egBisnp_coxUp {k : AttId} {b : Bisnp} : (s.egBisnp k b).coxUp = s.coxUp := rfl

/-! ## giveBack -/

@[simp] theorem State.giveBack_pending {k : AttId} {r w : Nat} : (s.giveBack k r w).pending = s.pending := rfl
@[simp] theorem State.giveBack_modes {k : AttId} {r w : Nat} : (s.giveBack k r w).modes = s.modes := rfl
@[simp] theorem State.giveBack_plinth {k : AttId} {r w : Nat} : (s.giveBack k r w).plinth = s.plinth := rfl
@[simp] theorem State.giveBack_pins {k : AttId} {r w : Nat} : (s.giveBack k r w).pins = s.pins := rfl
@[simp] theorem State.giveBack_boot {k : AttId} {r w : Nat} : (s.giveBack k r w).boot = s.boot := rfl
@[simp] theorem State.giveBack_regs {k : AttId} {r w : Nat} : (s.giveBack k r w).regs = s.regs := rfl
@[simp] theorem State.giveBack_hostRsp {k : AttId} {r w : Nat} : (s.giveBack k r w).hostRsp = s.hostRsp := rfl
@[simp] theorem State.giveBack_hostOut {k : AttId} {r w : Nat} : (s.giveBack k r w).hostOut = s.hostOut := rfl
@[simp] theorem State.giveBack_coxRsp {k : AttId} {r w : Nat} : (s.giveBack k r w).coxRsp = s.coxRsp := rfl
@[simp] theorem State.giveBack_agents {k : AttId} {r w : Nat} : (s.giveBack k r w).agents = s.agents := rfl
@[simp] theorem State.giveBack_hists {k : AttId} {r w : Nat} : (s.giveBack k r w).hists = s.hists := rfl
@[simp] theorem State.giveBack_slices {k : AttId} {r w : Nat} : (s.giveBack k r w).slices = s.slices := rfl
@[simp] theorem State.giveBack_ports {k : AttId} {r w : Nat} : (s.giveBack k r w).ports = s.ports := rfl
@[simp] theorem State.giveBack_mesh {k : AttId} {r w : Nat} : (s.giveBack k r w).mesh = s.mesh := rfl
@[simp] theorem State.giveBack_hmap {k : AttId} {r w : Nat} : (s.giveBack k r w).hmap = s.hmap := rfl
@[simp] theorem State.giveBack_cast {k : AttId} {r w : Nat} : (s.giveBack k r w).cast = s.cast := rfl
@[simp] theorem State.giveBack_events {k : AttId} {r w : Nat} : (s.giveBack k r w).events = s.events := rfl
@[simp] theorem State.giveBack_counts {k : AttId} {r w : Nat} : (s.giveBack k r w).counts = s.counts := rfl
@[simp] theorem State.giveBack_cox {k : AttId} {r w : Nat} : (s.giveBack k r w).cox = s.cox := rfl
@[simp] theorem State.giveBack_calAt {k : AttId} {r w : Nat} : (s.giveBack k r w).calAt = s.calAt := rfl
@[simp] theorem State.giveBack_freeCtr {k : AttId} {r w : Nat} : (s.giveBack k r w).freeCtr = s.freeCtr := rfl
@[simp] theorem State.giveBack_castMem {k : AttId} {r w : Nat} : (s.giveBack k r w).castMem = s.castMem := rfl
@[simp] theorem State.giveBack_sl {k : AttId} {r w : Nat} {j : SliceId} : (s.giveBack k r w).sl j = s.sl j := rfl
@[simp] theorem State.giveBack_mp {k : AttId} {r w : Nat} {j : PortId} : (s.giveBack k r w).mp j = s.mp j := rfl
@[simp] theorem State.giveBack_agent {k : AttId} {r w : Nat} {j : AgentId} : (s.giveBack k r w).agent j = s.agent j := rfl
@[simp] theorem State.giveBack_hist {k : AttId} {r w : Nat} {j : AgentId} : (s.giveBack k r w).hist j = s.hist j := rfl
@[simp] theorem State.giveBack_router {k : AttId} {r w : Nat} {j : Nat} : (s.giveBack k r w).router j = s.router j := rfl
@[simp] theorem State.giveBack_ev {k : AttId} {r w : Nat} {j : Nat} : (s.giveBack k r w).ev j = s.ev j := rfl
@[simp] theorem State.giveBack_cnt {k : AttId} {r w : Nat} {j : Nat} : (s.giveBack k r w).cnt j = s.cnt j := rfl
@[simp] theorem State.giveBack_reg {k : AttId} {r w : Nat} {j : Nat} : (s.giveBack k r w).reg j = s.reg j := rfl
@[simp] theorem State.giveBack_fld {k : AttId} {r w : Nat} {j : Fld} : (s.giveBack k r w).fld j = s.fld j := rfl
@[simp] theorem State.giveBack_now {k : AttId} {r w : Nat} : (s.giveBack k r w).now = s.now := rfl
@[simp] theorem State.giveBack_mode {k : AttId} {r w : Nat} : (s.giveBack k r w).mode = s.mode := rfl
@[simp] theorem State.giveBack_held {k : AttId} {r w : Nat} : (s.giveBack k r w).held = s.held := rfl
@[simp] theorem State.giveBack_runs {k : AttId} {r w : Nat} : (s.giveBack k r w).runs = s.runs := rfl
@[simp] theorem State.giveBack_level {k : AttId} {r w : Nat} : (s.giveBack k r w).level = s.level := rfl
@[simp] theorem State.giveBack_portUp {k : AttId} {r w : Nat} : (s.giveBack k r w).portUp = s.portUp := rfl
@[simp] theorem State.giveBack_fwUp {k : AttId} {r w : Nat} : (s.giveBack k r w).fwUp = s.fwUp := rfl
@[simp] theorem State.giveBack_inWindow {k : AttId} {r w : Nat} {j : Line} : (s.giveBack k r w).inWindow j = s.inWindow j := rfl
@[simp] theorem State.giveBack_inCast {k : AttId} {r w : Nat} {j : Line} : (s.giveBack k r w).inCast j = s.inCast j := rfl
@[simp] theorem State.giveBack_homeOf {k : AttId} {r w : Nat} {j : BitVec 12} : (s.giveBack k r w).homeOf j = s.homeOf j := rfl
@[simp] theorem State.giveBack_edgeHome {k : AttId} {r w : Nat} {j : Nat} {b1 : BitVec 12} : (s.giveBack k r w).edgeHome j b1 = s.edgeHome j b1 := rfl
@[simp] theorem State.giveBack_serves {k : AttId} {r w : Nat} {j : SliceId} {b1 : BitVec 12} : (s.giveBack k r w).serves j b1 = s.serves j b1 := rfl
@[simp] theorem State.giveBack_attBounces {k : AttId} {r w : Nat} {j : AttId} : (s.giveBack k r w).attBounces j = s.attBounces j := rfl
@[simp] theorem State.giveBack_portBounces {k : AttId} {r w : Nat} {j : PortId} : (s.giveBack k r w).portBounces j = s.portBounces j := rfl
@[simp] theorem State.giveBack_mpShut {k : AttId} {r w : Nat} {j : PortId} : (s.giveBack k r w).mpShut j = s.mpShut j := rfl
@[simp] theorem State.giveBack_coxUp {k : AttId} {r w : Nat} : (s.giveBack k r w).coxUp = s.coxUp := rfl

/-! ## refuse -/

@[simp] theorem State.refuse_pending {k : AttId} {f : AttId → Fld} : (s.refuse k f).pending = s.pending := by simp [State.refuse]
@[simp] theorem State.refuse_modes {k : AttId} {f : AttId → Fld} : (s.refuse k f).modes = s.modes := by simp [State.refuse]
@[simp] theorem State.refuse_plinth {k : AttId} {f : AttId → Fld} : (s.refuse k f).plinth = s.plinth := by simp [State.refuse]
@[simp] theorem State.refuse_pins {k : AttId} {f : AttId → Fld} : (s.refuse k f).pins = s.pins := by simp [State.refuse]
@[simp] theorem State.refuse_boot {k : AttId} {f : AttId → Fld} : (s.refuse k f).boot = s.boot := by simp [State.refuse]
@[simp] theorem State.refuse_hostRsp {k : AttId} {f : AttId → Fld} : (s.refuse k f).hostRsp = s.hostRsp := by simp [State.refuse]
@[simp] theorem State.refuse_hostOut {k : AttId} {f : AttId → Fld} : (s.refuse k f).hostOut = s.hostOut := by simp [State.refuse]
@[simp] theorem State.refuse_coxRsp {k : AttId} {f : AttId → Fld} : (s.refuse k f).coxRsp = s.coxRsp := by simp [State.refuse]
@[simp] theorem State.refuse_agents {k : AttId} {f : AttId → Fld} : (s.refuse k f).agents = s.agents := by simp [State.refuse]
@[simp] theorem State.refuse_hists {k : AttId} {f : AttId → Fld} : (s.refuse k f).hists = s.hists := by simp [State.refuse]
@[simp] theorem State.refuse_atts {k : AttId} {f : AttId → Fld} : (s.refuse k f).atts = s.atts := by simp [State.refuse]
@[simp] theorem State.refuse_ports {k : AttId} {f : AttId → Fld} : (s.refuse k f).ports = s.ports := by simp [State.refuse]
@[simp] theorem State.refuse_hmap {k : AttId} {f : AttId → Fld} : (s.refuse k f).hmap = s.hmap := by simp [State.refuse]
@[simp] theorem State.refuse_cast {k : AttId} {f : AttId → Fld} : (s.refuse k f).cast = s.cast := by simp [State.refuse]
@[simp] theorem State.refuse_cox {k : AttId} {f : AttId → Fld} : (s.refuse k f).cox = s.cox := by simp [State.refuse]
@[simp] theorem State.refuse_calAt {k : AttId} {f : AttId → Fld} : (s.refuse k f).calAt = s.calAt := by simp [State.refuse]
@[simp] theorem State.refuse_freeCtr {k : AttId} {f : AttId → Fld} : (s.refuse k f).freeCtr = s.freeCtr := by simp [State.refuse]
@[simp] theorem State.refuse_castMem {k : AttId} {f : AttId → Fld} : (s.refuse k f).castMem = s.castMem := by simp [State.refuse]
@[simp] theorem State.refuse_att {k : AttId} {f : AttId → Fld} {j : AttId} : (s.refuse k f).att j = s.att j := by simp [State.att]
@[simp] theorem State.refuse_mp {k : AttId} {f : AttId → Fld} {j : PortId} : (s.refuse k f).mp j = s.mp j := by simp [State.mp]
@[simp] theorem State.refuse_agent {k : AttId} {f : AttId → Fld} {j : AgentId} : (s.refuse k f).agent j = s.agent j := by simp [State.agent]
@[simp] theorem State.refuse_hist {k : AttId} {f : AttId → Fld} {j : AgentId} : (s.refuse k f).hist j = s.hist j := by simp [State.hist]
@[simp] theorem State.refuse_router {k : AttId} {f : AttId → Fld} {j : Nat} : (s.refuse k f).router j = s.router j := by simp [State.refuse]
@[simp] theorem State.refuse_ev {k : AttId} {f : AttId → Fld} {j : Nat} : (s.refuse k f).ev j = s.ev j := by simp [State.refuse]
@[simp] theorem State.refuse_now {k : AttId} {f : AttId → Fld} : (s.refuse k f).now = s.now := by simp [State.now]
@[simp] theorem State.refuse_mode {k : AttId} {f : AttId → Fld} : (s.refuse k f).mode = s.mode := by simp [State.mode]
@[simp] theorem State.refuse_held {k : AttId} {f : AttId → Fld} : (s.refuse k f).held = s.held := by simp [State.held]
@[simp] theorem State.refuse_runs {k : AttId} {f : AttId → Fld} : (s.refuse k f).runs = s.runs := by simp [State.runs]
@[simp] theorem State.refuse_level {k : AttId} {f : AttId → Fld} : (s.refuse k f).level = s.level := by simp [State.level]
@[simp] theorem State.refuse_portUp {k : AttId} {f : AttId → Fld} : (s.refuse k f).portUp = s.portUp := by simp [State.portUp]
@[simp] theorem State.refuse_fwUp {k : AttId} {f : AttId → Fld} : (s.refuse k f).fwUp = s.fwUp := by simp [State.fwUp, State.portUp]
@[simp] theorem State.refuse_homeOf {k : AttId} {f : AttId → Fld} {j : BitVec 12} : (s.refuse k f).homeOf j = s.homeOf j := State.homeOf_of (by simp)
@[simp] theorem State.refuse_edgeHome {k : AttId} {f : AttId → Fld} {j : Nat} {b1 : BitVec 12} : (s.refuse k f).edgeHome j b1 = s.edgeHome j b1 := State.edgeHome_of (by simp)
@[simp] theorem State.refuse_serves {k : AttId} {f : AttId → Fld} {j : SliceId} {b1 : BitVec 12} : (s.refuse k f).serves j b1 = s.serves j b1 := State.serves_of (by simp)
@[simp] theorem State.refuse_attBounces {k : AttId} {f : AttId → Fld} {j : AttId} : (s.refuse k f).attBounces j = s.attBounces j := State.attBounces_of (by simp)
@[simp] theorem State.refuse_portBounces {k : AttId} {f : AttId → Fld} {j : PortId} : (s.refuse k f).portBounces j = s.portBounces j := State.portBounces_of (by simp)
@[simp] theorem State.refuse_attShut {k : AttId} {f : AttId → Fld} {j : AttId} : (s.refuse k f).attShut j = s.attShut j := State.attShut_of (by simp)
@[simp] theorem State.refuse_mpShut {k : AttId} {f : AttId → Fld} {j : PortId} : (s.refuse k f).mpShut j = s.mpShut j := State.mpShut_of (by simp)
@[simp] theorem State.refuse_coxUp {k : AttId} {f : AttId → Fld} : (s.refuse k f).coxUp = s.coxUp := State.coxUp_of (by simp) (by simp)

/-! ## snapStart -/

@[simp] theorem State.snapStart_pending {t : Nat} : (s.snapStart t).pending = s.pending := by
  unfold State.snapStart; (repeat' split) <;> simp
@[simp] theorem State.snapStart_modes {t : Nat} : (s.snapStart t).modes = s.modes := by
  unfold State.snapStart; (repeat' split) <;> simp
@[simp] theorem State.snapStart_plinth {t : Nat} : (s.snapStart t).plinth = s.plinth := by
  unfold State.snapStart; (repeat' split) <;> simp
@[simp] theorem State.snapStart_pins {t : Nat} : (s.snapStart t).pins = s.pins := by
  unfold State.snapStart; (repeat' split) <;> simp
@[simp] theorem State.snapStart_boot {t : Nat} : (s.snapStart t).boot = s.boot := by
  unfold State.snapStart; (repeat' split) <;> simp
@[simp] theorem State.snapStart_hostRsp {t : Nat} : (s.snapStart t).hostRsp = s.hostRsp := by
  unfold State.snapStart; (repeat' split) <;> simp
@[simp] theorem State.snapStart_hostOut {t : Nat} : (s.snapStart t).hostOut = s.hostOut := by
  unfold State.snapStart; (repeat' split) <;> simp
@[simp] theorem State.snapStart_coxRsp {t : Nat} : (s.snapStart t).coxRsp = s.coxRsp := by
  unfold State.snapStart; (repeat' split) <;> simp
@[simp] theorem State.snapStart_agents {t : Nat} : (s.snapStart t).agents = s.agents := by
  unfold State.snapStart; (repeat' split) <;> simp
@[simp] theorem State.snapStart_hists {t : Nat} : (s.snapStart t).hists = s.hists := by
  unfold State.snapStart; (repeat' split) <;> simp
@[simp] theorem State.snapStart_atts {t : Nat} : (s.snapStart t).atts = s.atts := by
  unfold State.snapStart; (repeat' split) <;> simp
@[simp] theorem State.snapStart_slices {t : Nat} : (s.snapStart t).slices = s.slices := by
  unfold State.snapStart; (repeat' split) <;> simp
@[simp] theorem State.snapStart_ports {t : Nat} : (s.snapStart t).ports = s.ports := by
  unfold State.snapStart; (repeat' split) <;> simp
@[simp] theorem State.snapStart_mesh {t : Nat} : (s.snapStart t).mesh = s.mesh := by
  unfold State.snapStart; (repeat' split) <;> simp
@[simp] theorem State.snapStart_hmap {t : Nat} : (s.snapStart t).hmap = s.hmap := by
  unfold State.snapStart; (repeat' split) <;> simp
@[simp] theorem State.snapStart_cast {t : Nat} : (s.snapStart t).cast = s.cast := by
  unfold State.snapStart; (repeat' split) <;> simp
@[simp] theorem State.snapStart_events {t : Nat} : (s.snapStart t).events = s.events := by
  unfold State.snapStart; (repeat' split) <;> simp
@[simp] theorem State.snapStart_cox {t : Nat} : (s.snapStart t).cox = s.cox := by
  unfold State.snapStart; (repeat' split) <;> simp
@[simp] theorem State.snapStart_calAt {t : Nat} : (s.snapStart t).calAt = s.calAt := by
  unfold State.snapStart; (repeat' split) <;> simp
@[simp] theorem State.snapStart_freeCtr {t : Nat} : (s.snapStart t).freeCtr = s.freeCtr := by
  unfold State.snapStart; (repeat' split) <;> simp
@[simp] theorem State.snapStart_castMem {t : Nat} : (s.snapStart t).castMem = s.castMem := by
  unfold State.snapStart; (repeat' split) <;> simp
@[simp] theorem State.snapStart_att {t : Nat} {j : AttId} : (s.snapStart t).att j = s.att j := by simp [State.att]
@[simp] theorem State.snapStart_sl {t : Nat} {j : SliceId} : (s.snapStart t).sl j = s.sl j := by simp [State.sl]
@[simp] theorem State.snapStart_mp {t : Nat} {j : PortId} : (s.snapStart t).mp j = s.mp j := by simp [State.mp]
@[simp] theorem State.snapStart_agent {t : Nat} {j : AgentId} : (s.snapStart t).agent j = s.agent j := by simp [State.agent]
@[simp] theorem State.snapStart_hist {t : Nat} {j : AgentId} : (s.snapStart t).hist j = s.hist j := by simp [State.hist]
@[simp] theorem State.snapStart_router {t : Nat} {j : Nat} : (s.snapStart t).router j = s.router j := by simp [State.router]
@[simp] theorem State.snapStart_ev {t : Nat} {j : Nat} : (s.snapStart t).ev j = s.ev j := by simp [State.ev]
@[simp] theorem State.snapStart_now {t : Nat} : (s.snapStart t).now = s.now := by simp [State.now]
@[simp] theorem State.snapStart_mode {t : Nat} : (s.snapStart t).mode = s.mode := by simp [State.mode]
@[simp] theorem State.snapStart_held {t : Nat} : (s.snapStart t).held = s.held := by simp [State.held]
@[simp] theorem State.snapStart_runs {t : Nat} : (s.snapStart t).runs = s.runs := by simp [State.runs]
@[simp] theorem State.snapStart_level {t : Nat} : (s.snapStart t).level = s.level := by simp [State.level]
@[simp] theorem State.snapStart_portUp {t : Nat} : (s.snapStart t).portUp = s.portUp := by simp [State.portUp]
@[simp] theorem State.snapStart_fwUp {t : Nat} : (s.snapStart t).fwUp = s.fwUp := by simp [State.fwUp, State.portUp]
@[simp] theorem State.snapStart_homeOf {t : Nat} {j : BitVec 12} : (s.snapStart t).homeOf j = s.homeOf j := State.homeOf_of (by simp)
@[simp] theorem State.snapStart_edgeHome {t : Nat} {j : Nat} {b1 : BitVec 12} : (s.snapStart t).edgeHome j b1 = s.edgeHome j b1 := State.edgeHome_of (by simp)
@[simp] theorem State.snapStart_serves {t : Nat} {j : SliceId} {b1 : BitVec 12} : (s.snapStart t).serves j b1 = s.serves j b1 := State.serves_of (by simp)
@[simp] theorem State.snapStart_attBounces {t : Nat} {j : AttId} : (s.snapStart t).attBounces j = s.attBounces j := State.attBounces_of (by simp)
@[simp] theorem State.snapStart_portBounces {t : Nat} {j : PortId} : (s.snapStart t).portBounces j = s.portBounces j := State.portBounces_of (by simp)
@[simp] theorem State.snapStart_attShut {t : Nat} {j : AttId} : (s.snapStart t).attShut j = s.attShut j := State.attShut_of (by simp)
@[simp] theorem State.snapStart_mpShut {t : Nat} {j : PortId} : (s.snapStart t).mpShut j = s.mpShut j := State.mpShut_of (by simp)
@[simp] theorem State.snapStart_coxUp {t : Nat} : (s.snapStart t).coxUp = s.coxUp := State.coxUp_of (by simp) (by simp)

/-! ## loseRsv -/

@[simp] theorem State.loseRsv_pending {i : SliceId} {p : Rsv → Bool} : (s.loseRsv i p).pending = s.pending := rfl
@[simp] theorem State.loseRsv_modes {i : SliceId} {p : Rsv → Bool} : (s.loseRsv i p).modes = s.modes := rfl
@[simp] theorem State.loseRsv_plinth {i : SliceId} {p : Rsv → Bool} : (s.loseRsv i p).plinth = s.plinth := rfl
@[simp] theorem State.loseRsv_pins {i : SliceId} {p : Rsv → Bool} : (s.loseRsv i p).pins = s.pins := rfl
@[simp] theorem State.loseRsv_boot {i : SliceId} {p : Rsv → Bool} : (s.loseRsv i p).boot = s.boot := rfl
@[simp] theorem State.loseRsv_hostRsp {i : SliceId} {p : Rsv → Bool} : (s.loseRsv i p).hostRsp = s.hostRsp := rfl
@[simp] theorem State.loseRsv_hostOut {i : SliceId} {p : Rsv → Bool} : (s.loseRsv i p).hostOut = s.hostOut := rfl
@[simp] theorem State.loseRsv_coxRsp {i : SliceId} {p : Rsv → Bool} : (s.loseRsv i p).coxRsp = s.coxRsp := rfl
@[simp] theorem State.loseRsv_agents {i : SliceId} {p : Rsv → Bool} : (s.loseRsv i p).agents = s.agents := rfl
@[simp] theorem State.loseRsv_hists {i : SliceId} {p : Rsv → Bool} : (s.loseRsv i p).hists = s.hists := rfl
@[simp] theorem State.loseRsv_atts {i : SliceId} {p : Rsv → Bool} : (s.loseRsv i p).atts = s.atts := rfl
@[simp] theorem State.loseRsv_ports {i : SliceId} {p : Rsv → Bool} : (s.loseRsv i p).ports = s.ports := rfl
@[simp] theorem State.loseRsv_mesh {i : SliceId} {p : Rsv → Bool} : (s.loseRsv i p).mesh = s.mesh := rfl
@[simp] theorem State.loseRsv_hmap {i : SliceId} {p : Rsv → Bool} : (s.loseRsv i p).hmap = s.hmap := rfl
@[simp] theorem State.loseRsv_cast {i : SliceId} {p : Rsv → Bool} : (s.loseRsv i p).cast = s.cast := rfl
@[simp] theorem State.loseRsv_events {i : SliceId} {p : Rsv → Bool} : (s.loseRsv i p).events = s.events := rfl
@[simp] theorem State.loseRsv_counts {i : SliceId} {p : Rsv → Bool} : (s.loseRsv i p).counts = s.counts := rfl
@[simp] theorem State.loseRsv_cox {i : SliceId} {p : Rsv → Bool} : (s.loseRsv i p).cox = s.cox := rfl
@[simp] theorem State.loseRsv_calAt {i : SliceId} {p : Rsv → Bool} : (s.loseRsv i p).calAt = s.calAt := rfl
@[simp] theorem State.loseRsv_freeCtr {i : SliceId} {p : Rsv → Bool} : (s.loseRsv i p).freeCtr = s.freeCtr := rfl
@[simp] theorem State.loseRsv_castMem {i : SliceId} {p : Rsv → Bool} : (s.loseRsv i p).castMem = s.castMem := rfl
@[simp] theorem State.loseRsv_att {i : SliceId} {p : Rsv → Bool} {j : AttId} : (s.loseRsv i p).att j = s.att j := rfl
@[simp] theorem State.loseRsv_mp {i : SliceId} {p : Rsv → Bool} {j : PortId} : (s.loseRsv i p).mp j = s.mp j := rfl
@[simp] theorem State.loseRsv_agent {i : SliceId} {p : Rsv → Bool} {j : AgentId} : (s.loseRsv i p).agent j = s.agent j := rfl
@[simp] theorem State.loseRsv_hist {i : SliceId} {p : Rsv → Bool} {j : AgentId} : (s.loseRsv i p).hist j = s.hist j := rfl
@[simp] theorem State.loseRsv_router {i : SliceId} {p : Rsv → Bool} {j : Nat} : (s.loseRsv i p).router j = s.router j := rfl
@[simp] theorem State.loseRsv_ev {i : SliceId} {p : Rsv → Bool} {j : Nat} : (s.loseRsv i p).ev j = s.ev j := rfl
@[simp] theorem State.loseRsv_cnt {i : SliceId} {p : Rsv → Bool} {j : Nat} : (s.loseRsv i p).cnt j = s.cnt j := rfl
@[simp] theorem State.loseRsv_now {i : SliceId} {p : Rsv → Bool} : (s.loseRsv i p).now = s.now := rfl
@[simp] theorem State.loseRsv_mode {i : SliceId} {p : Rsv → Bool} : (s.loseRsv i p).mode = s.mode := rfl
@[simp] theorem State.loseRsv_held {i : SliceId} {p : Rsv → Bool} : (s.loseRsv i p).held = s.held := rfl
@[simp] theorem State.loseRsv_runs {i : SliceId} {p : Rsv → Bool} : (s.loseRsv i p).runs = s.runs := rfl
@[simp] theorem State.loseRsv_level {i : SliceId} {p : Rsv → Bool} : (s.loseRsv i p).level = s.level := rfl
@[simp] theorem State.loseRsv_portUp {i : SliceId} {p : Rsv → Bool} : (s.loseRsv i p).portUp = s.portUp := rfl
@[simp] theorem State.loseRsv_fwUp {i : SliceId} {p : Rsv → Bool} : (s.loseRsv i p).fwUp = s.fwUp := rfl
@[simp] theorem State.loseRsv_homeOf {i : SliceId} {p : Rsv → Bool} {j : BitVec 12} : (s.loseRsv i p).homeOf j = s.homeOf j := rfl
@[simp] theorem State.loseRsv_edgeHome {i : SliceId} {p : Rsv → Bool} {j : Nat} {b1 : BitVec 12} : (s.loseRsv i p).edgeHome j b1 = s.edgeHome j b1 := rfl
@[simp] theorem State.loseRsv_serves {i : SliceId} {p : Rsv → Bool} {j : SliceId} {b1 : BitVec 12} : (s.loseRsv i p).serves j b1 = s.serves j b1 := rfl
@[simp] theorem State.loseRsv_attBounces {i : SliceId} {p : Rsv → Bool} {j : AttId} : (s.loseRsv i p).attBounces j = s.attBounces j := rfl
@[simp] theorem State.loseRsv_portBounces {i : SliceId} {p : Rsv → Bool} {j : PortId} : (s.loseRsv i p).portBounces j = s.portBounces j := rfl
@[simp] theorem State.loseRsv_attShut {i : SliceId} {p : Rsv → Bool} {j : AttId} : (s.loseRsv i p).attShut j = s.attShut j := rfl
@[simp] theorem State.loseRsv_mpShut {i : SliceId} {p : Rsv → Bool} {j : PortId} : (s.loseRsv i p).mpShut j = s.mpShut j := rfl
@[simp] theorem State.loseRsv_coxUp {i : SliceId} {p : Rsv → Bool} : (s.loseRsv i p).coxUp = s.coxUp := rfl

/-! ## sliceErr -/

@[simp] theorem State.sliceErr_pending {i : SliceId} : (s.sliceErr i).pending = s.pending := rfl
@[simp] theorem State.sliceErr_modes {i : SliceId} : (s.sliceErr i).modes = s.modes := rfl
@[simp] theorem State.sliceErr_plinth {i : SliceId} : (s.sliceErr i).plinth = s.plinth := rfl
@[simp] theorem State.sliceErr_pins {i : SliceId} : (s.sliceErr i).pins = s.pins := rfl
@[simp] theorem State.sliceErr_boot {i : SliceId} : (s.sliceErr i).boot = s.boot := rfl
@[simp] theorem State.sliceErr_hostRsp {i : SliceId} : (s.sliceErr i).hostRsp = s.hostRsp := rfl
@[simp] theorem State.sliceErr_hostOut {i : SliceId} : (s.sliceErr i).hostOut = s.hostOut := rfl
@[simp] theorem State.sliceErr_coxRsp {i : SliceId} : (s.sliceErr i).coxRsp = s.coxRsp := rfl
@[simp] theorem State.sliceErr_agents {i : SliceId} : (s.sliceErr i).agents = s.agents := rfl
@[simp] theorem State.sliceErr_hists {i : SliceId} : (s.sliceErr i).hists = s.hists := rfl
@[simp] theorem State.sliceErr_atts {i : SliceId} : (s.sliceErr i).atts = s.atts := rfl
@[simp] theorem State.sliceErr_ports {i : SliceId} : (s.sliceErr i).ports = s.ports := rfl
@[simp] theorem State.sliceErr_mesh {i : SliceId} : (s.sliceErr i).mesh = s.mesh := rfl
@[simp] theorem State.sliceErr_hmap {i : SliceId} : (s.sliceErr i).hmap = s.hmap := rfl
@[simp] theorem State.sliceErr_cast {i : SliceId} : (s.sliceErr i).cast = s.cast := rfl
@[simp] theorem State.sliceErr_events {i : SliceId} : (s.sliceErr i).events = s.events := rfl
@[simp] theorem State.sliceErr_counts {i : SliceId} : (s.sliceErr i).counts = s.counts := rfl
@[simp] theorem State.sliceErr_cox {i : SliceId} : (s.sliceErr i).cox = s.cox := rfl
@[simp] theorem State.sliceErr_calAt {i : SliceId} : (s.sliceErr i).calAt = s.calAt := rfl
@[simp] theorem State.sliceErr_freeCtr {i : SliceId} : (s.sliceErr i).freeCtr = s.freeCtr := rfl
@[simp] theorem State.sliceErr_castMem {i : SliceId} : (s.sliceErr i).castMem = s.castMem := rfl
@[simp] theorem State.sliceErr_att {i : SliceId} {j : AttId} : (s.sliceErr i).att j = s.att j := rfl
@[simp] theorem State.sliceErr_mp {i : SliceId} {j : PortId} : (s.sliceErr i).mp j = s.mp j := rfl
@[simp] theorem State.sliceErr_agent {i : SliceId} {j : AgentId} : (s.sliceErr i).agent j = s.agent j := rfl
@[simp] theorem State.sliceErr_hist {i : SliceId} {j : AgentId} : (s.sliceErr i).hist j = s.hist j := rfl
@[simp] theorem State.sliceErr_router {i : SliceId} {j : Nat} : (s.sliceErr i).router j = s.router j := rfl
@[simp] theorem State.sliceErr_ev {i : SliceId} {j : Nat} : (s.sliceErr i).ev j = s.ev j := rfl
@[simp] theorem State.sliceErr_cnt {i : SliceId} {j : Nat} : (s.sliceErr i).cnt j = s.cnt j := rfl
@[simp] theorem State.sliceErr_now {i : SliceId} : (s.sliceErr i).now = s.now := rfl
@[simp] theorem State.sliceErr_mode {i : SliceId} : (s.sliceErr i).mode = s.mode := rfl
@[simp] theorem State.sliceErr_held {i : SliceId} : (s.sliceErr i).held = s.held := rfl
@[simp] theorem State.sliceErr_runs {i : SliceId} : (s.sliceErr i).runs = s.runs := rfl
@[simp] theorem State.sliceErr_level {i : SliceId} : (s.sliceErr i).level = s.level := rfl
@[simp] theorem State.sliceErr_portUp {i : SliceId} : (s.sliceErr i).portUp = s.portUp := rfl
@[simp] theorem State.sliceErr_fwUp {i : SliceId} : (s.sliceErr i).fwUp = s.fwUp := rfl
@[simp] theorem State.sliceErr_homeOf {i : SliceId} {j : BitVec 12} : (s.sliceErr i).homeOf j = s.homeOf j := rfl
@[simp] theorem State.sliceErr_edgeHome {i : SliceId} {j : Nat} {b1 : BitVec 12} : (s.sliceErr i).edgeHome j b1 = s.edgeHome j b1 := rfl
@[simp] theorem State.sliceErr_serves {i : SliceId} {j : SliceId} {b1 : BitVec 12} : (s.sliceErr i).serves j b1 = s.serves j b1 := rfl
@[simp] theorem State.sliceErr_attBounces {i : SliceId} {j : AttId} : (s.sliceErr i).attBounces j = s.attBounces j := rfl
@[simp] theorem State.sliceErr_portBounces {i : SliceId} {j : PortId} : (s.sliceErr i).portBounces j = s.portBounces j := rfl
@[simp] theorem State.sliceErr_attShut {i : SliceId} {j : AttId} : (s.sliceErr i).attShut j = s.attShut j := rfl
@[simp] theorem State.sliceErr_mpShut {i : SliceId} {j : PortId} : (s.sliceErr i).mpShut j = s.mpShut j := rfl
@[simp] theorem State.sliceErr_coxUp {i : SliceId} : (s.sliceErr i).coxUp = s.coxUp := rfl

/-! ## attBounced -/

@[simp] theorem State.attBounced_pending {k : AttId} : (s.attBounced k).pending = s.pending := rfl
@[simp] theorem State.attBounced_modes {k : AttId} : (s.attBounced k).modes = s.modes := rfl
@[simp] theorem State.attBounced_plinth {k : AttId} : (s.attBounced k).plinth = s.plinth := rfl
@[simp] theorem State.attBounced_pins {k : AttId} : (s.attBounced k).pins = s.pins := rfl
@[simp] theorem State.attBounced_boot {k : AttId} : (s.attBounced k).boot = s.boot := rfl
@[simp] theorem State.attBounced_hostRsp {k : AttId} : (s.attBounced k).hostRsp = s.hostRsp := rfl
@[simp] theorem State.attBounced_hostOut {k : AttId} : (s.attBounced k).hostOut = s.hostOut := rfl
@[simp] theorem State.attBounced_coxRsp {k : AttId} : (s.attBounced k).coxRsp = s.coxRsp := rfl
@[simp] theorem State.attBounced_agents {k : AttId} : (s.attBounced k).agents = s.agents := rfl
@[simp] theorem State.attBounced_hists {k : AttId} : (s.attBounced k).hists = s.hists := rfl
@[simp] theorem State.attBounced_atts {k : AttId} : (s.attBounced k).atts = s.atts := rfl
@[simp] theorem State.attBounced_slices {k : AttId} : (s.attBounced k).slices = s.slices := rfl
@[simp] theorem State.attBounced_ports {k : AttId} : (s.attBounced k).ports = s.ports := rfl
@[simp] theorem State.attBounced_mesh {k : AttId} : (s.attBounced k).mesh = s.mesh := rfl
@[simp] theorem State.attBounced_hmap {k : AttId} : (s.attBounced k).hmap = s.hmap := rfl
@[simp] theorem State.attBounced_cast {k : AttId} : (s.attBounced k).cast = s.cast := rfl
@[simp] theorem State.attBounced_events {k : AttId} : (s.attBounced k).events = s.events := rfl
@[simp] theorem State.attBounced_counts {k : AttId} : (s.attBounced k).counts = s.counts := rfl
@[simp] theorem State.attBounced_cox {k : AttId} : (s.attBounced k).cox = s.cox := rfl
@[simp] theorem State.attBounced_calAt {k : AttId} : (s.attBounced k).calAt = s.calAt := rfl
@[simp] theorem State.attBounced_freeCtr {k : AttId} : (s.attBounced k).freeCtr = s.freeCtr := rfl
@[simp] theorem State.attBounced_castMem {k : AttId} : (s.attBounced k).castMem = s.castMem := rfl
@[simp] theorem State.attBounced_att {k : AttId} {j : AttId} : (s.attBounced k).att j = s.att j := rfl
@[simp] theorem State.attBounced_sl {k : AttId} {j : SliceId} : (s.attBounced k).sl j = s.sl j := rfl
@[simp] theorem State.attBounced_mp {k : AttId} {j : PortId} : (s.attBounced k).mp j = s.mp j := rfl
@[simp] theorem State.attBounced_agent {k : AttId} {j : AgentId} : (s.attBounced k).agent j = s.agent j := rfl
@[simp] theorem State.attBounced_hist {k : AttId} {j : AgentId} : (s.attBounced k).hist j = s.hist j := rfl
@[simp] theorem State.attBounced_router {k : AttId} {j : Nat} : (s.attBounced k).router j = s.router j := rfl
@[simp] theorem State.attBounced_ev {k : AttId} {j : Nat} : (s.attBounced k).ev j = s.ev j := rfl
@[simp] theorem State.attBounced_cnt {k : AttId} {j : Nat} : (s.attBounced k).cnt j = s.cnt j := rfl
@[simp] theorem State.attBounced_now {k : AttId} : (s.attBounced k).now = s.now := rfl
@[simp] theorem State.attBounced_mode {k : AttId} : (s.attBounced k).mode = s.mode := rfl
@[simp] theorem State.attBounced_held {k : AttId} : (s.attBounced k).held = s.held := rfl
@[simp] theorem State.attBounced_runs {k : AttId} : (s.attBounced k).runs = s.runs := rfl
@[simp] theorem State.attBounced_level {k : AttId} : (s.attBounced k).level = s.level := rfl
@[simp] theorem State.attBounced_portUp {k : AttId} : (s.attBounced k).portUp = s.portUp := rfl
@[simp] theorem State.attBounced_fwUp {k : AttId} : (s.attBounced k).fwUp = s.fwUp := rfl
@[simp] theorem State.attBounced_homeOf {k : AttId} {j : BitVec 12} : (s.attBounced k).homeOf j = s.homeOf j := rfl
@[simp] theorem State.attBounced_edgeHome {k : AttId} {j : Nat} {b1 : BitVec 12} : (s.attBounced k).edgeHome j b1 = s.edgeHome j b1 := rfl
@[simp] theorem State.attBounced_serves {k : AttId} {j : SliceId} {b1 : BitVec 12} : (s.attBounced k).serves j b1 = s.serves j b1 := rfl
@[simp] theorem State.attBounced_attBounces {k : AttId} {j : AttId} : (s.attBounced k).attBounces j = s.attBounces j := rfl
@[simp] theorem State.attBounced_portBounces {k : AttId} {j : PortId} : (s.attBounced k).portBounces j = s.portBounces j := rfl
@[simp] theorem State.attBounced_attShut {k : AttId} {j : AttId} : (s.attBounced k).attShut j = s.attShut j := rfl
@[simp] theorem State.attBounced_mpShut {k : AttId} {j : PortId} : (s.attBounced k).mpShut j = s.mpShut j := rfl
@[simp] theorem State.attBounced_coxUp {k : AttId} : (s.attBounced k).coxUp = s.coxUp := rfl

/-! ## mpBounced -/

@[simp] theorem State.mpBounced_pending {m : PortId} : (s.mpBounced m).pending = s.pending := rfl
@[simp] theorem State.mpBounced_modes {m : PortId} : (s.mpBounced m).modes = s.modes := rfl
@[simp] theorem State.mpBounced_plinth {m : PortId} : (s.mpBounced m).plinth = s.plinth := rfl
@[simp] theorem State.mpBounced_pins {m : PortId} : (s.mpBounced m).pins = s.pins := rfl
@[simp] theorem State.mpBounced_boot {m : PortId} : (s.mpBounced m).boot = s.boot := rfl
@[simp] theorem State.mpBounced_hostRsp {m : PortId} : (s.mpBounced m).hostRsp = s.hostRsp := rfl
@[simp] theorem State.mpBounced_hostOut {m : PortId} : (s.mpBounced m).hostOut = s.hostOut := rfl
@[simp] theorem State.mpBounced_coxRsp {m : PortId} : (s.mpBounced m).coxRsp = s.coxRsp := rfl
@[simp] theorem State.mpBounced_agents {m : PortId} : (s.mpBounced m).agents = s.agents := rfl
@[simp] theorem State.mpBounced_hists {m : PortId} : (s.mpBounced m).hists = s.hists := rfl
@[simp] theorem State.mpBounced_atts {m : PortId} : (s.mpBounced m).atts = s.atts := rfl
@[simp] theorem State.mpBounced_slices {m : PortId} : (s.mpBounced m).slices = s.slices := rfl
@[simp] theorem State.mpBounced_ports {m : PortId} : (s.mpBounced m).ports = s.ports := rfl
@[simp] theorem State.mpBounced_mesh {m : PortId} : (s.mpBounced m).mesh = s.mesh := rfl
@[simp] theorem State.mpBounced_hmap {m : PortId} : (s.mpBounced m).hmap = s.hmap := rfl
@[simp] theorem State.mpBounced_cast {m : PortId} : (s.mpBounced m).cast = s.cast := rfl
@[simp] theorem State.mpBounced_events {m : PortId} : (s.mpBounced m).events = s.events := rfl
@[simp] theorem State.mpBounced_counts {m : PortId} : (s.mpBounced m).counts = s.counts := rfl
@[simp] theorem State.mpBounced_cox {m : PortId} : (s.mpBounced m).cox = s.cox := rfl
@[simp] theorem State.mpBounced_calAt {m : PortId} : (s.mpBounced m).calAt = s.calAt := rfl
@[simp] theorem State.mpBounced_freeCtr {m : PortId} : (s.mpBounced m).freeCtr = s.freeCtr := rfl
@[simp] theorem State.mpBounced_castMem {m : PortId} : (s.mpBounced m).castMem = s.castMem := rfl
@[simp] theorem State.mpBounced_att {m : PortId} {j : AttId} : (s.mpBounced m).att j = s.att j := rfl
@[simp] theorem State.mpBounced_sl {m : PortId} {j : SliceId} : (s.mpBounced m).sl j = s.sl j := rfl
@[simp] theorem State.mpBounced_mp {m : PortId} {j : PortId} : (s.mpBounced m).mp j = s.mp j := rfl
@[simp] theorem State.mpBounced_agent {m : PortId} {j : AgentId} : (s.mpBounced m).agent j = s.agent j := rfl
@[simp] theorem State.mpBounced_hist {m : PortId} {j : AgentId} : (s.mpBounced m).hist j = s.hist j := rfl
@[simp] theorem State.mpBounced_router {m : PortId} {j : Nat} : (s.mpBounced m).router j = s.router j := rfl
@[simp] theorem State.mpBounced_ev {m : PortId} {j : Nat} : (s.mpBounced m).ev j = s.ev j := rfl
@[simp] theorem State.mpBounced_cnt {m : PortId} {j : Nat} : (s.mpBounced m).cnt j = s.cnt j := rfl
@[simp] theorem State.mpBounced_now {m : PortId} : (s.mpBounced m).now = s.now := rfl
@[simp] theorem State.mpBounced_mode {m : PortId} : (s.mpBounced m).mode = s.mode := rfl
@[simp] theorem State.mpBounced_held {m : PortId} : (s.mpBounced m).held = s.held := rfl
@[simp] theorem State.mpBounced_runs {m : PortId} : (s.mpBounced m).runs = s.runs := rfl
@[simp] theorem State.mpBounced_level {m : PortId} : (s.mpBounced m).level = s.level := rfl
@[simp] theorem State.mpBounced_portUp {m : PortId} : (s.mpBounced m).portUp = s.portUp := rfl
@[simp] theorem State.mpBounced_fwUp {m : PortId} : (s.mpBounced m).fwUp = s.fwUp := rfl
@[simp] theorem State.mpBounced_homeOf {m : PortId} {j : BitVec 12} : (s.mpBounced m).homeOf j = s.homeOf j := rfl
@[simp] theorem State.mpBounced_edgeHome {m : PortId} {j : Nat} {b1 : BitVec 12} : (s.mpBounced m).edgeHome j b1 = s.edgeHome j b1 := rfl
@[simp] theorem State.mpBounced_serves {m : PortId} {j : SliceId} {b1 : BitVec 12} : (s.mpBounced m).serves j b1 = s.serves j b1 := rfl
@[simp] theorem State.mpBounced_attBounces {m : PortId} {j : AttId} : (s.mpBounced m).attBounces j = s.attBounces j := rfl
@[simp] theorem State.mpBounced_portBounces {m : PortId} {j : PortId} : (s.mpBounced m).portBounces j = s.portBounces j := rfl
@[simp] theorem State.mpBounced_attShut {m : PortId} {j : AttId} : (s.mpBounced m).attShut j = s.attShut j := rfl
@[simp] theorem State.mpBounced_mpShut {m : PortId} {j : PortId} : (s.mpBounced m).mpShut j = s.mpShut j := rfl
@[simp] theorem State.mpBounced_coxUp {m : PortId} : (s.mpBounced m).coxUp = s.coxUp := rfl

end Sys2Proof.Machine
end

