-- ==== Sys2Proof/Laws/Fields.lean ====
section
/-! SUPPORT. Bit fields of register words: a field read after it is set, fields beside it, and the register fields that the
field operations write. -/

namespace Sys2Proof.Machine

theorem bits_lt {w : Word32} {lo len : Nat} : bits w lo len < 2 ^ len := Nat.mod_lt _ (by positivity)

/-- A field with what stands below and above it. -/
theorem bits_split (w lo len : Nat) : w = w % 2 ^ lo + w / 2 ^ lo % 2 ^ len * 2 ^ lo + w / 2 ^ (lo + len) * 2 ^ (lo + len) := by
  have h1 := Nat.div_add_mod w (2 ^ lo)
  have h2 := Nat.div_add_mod (w / 2 ^ lo) (2 ^ len)
  rw [Nat.div_div_eq_div_mul, ← pow_add] at h2
  calc w = 2 ^ lo * (w / 2 ^ lo) + w % 2 ^ lo := h1.symm
    _ = 2 ^ lo * (2 ^ len * (w / 2 ^ (lo + len)) + w / 2 ^ lo % 2 ^ len) + w % 2 ^ lo := by rw [h2]
    _ = _ := by rw [pow_add]; ring

/-- The number of a word whose field is set. -/
theorem putBits_toNat {w : Word32} {lo len n : Nat} (h : lo + len ≤ 32) :
    (putBits w lo len n).toNat
      = w.toNat % 2 ^ lo + n % 2 ^ len * 2 ^ lo + w.toNat / 2 ^ (lo + len) * 2 ^ (lo + len) := by
  have hs := bits_split w.toNat lo len
  have hw : w.toNat < 2 ^ 32 := w.isLt
  have hb : w.toNat / 2 ^ lo % 2 ^ len * 2 ^ lo ≤ w.toNat := by omega
  have hpos : 0 < 2 ^ (lo + len) := by positivity
  have hlow : w.toNat % 2 ^ lo + n % 2 ^ len * 2 ^ lo < 2 ^ (lo + len) := by
    have h1 : w.toNat % 2 ^ lo < 2 ^ lo := Nat.mod_lt _ (by positivity)
    have h2 : n % 2 ^ len + 1 ≤ 2 ^ len := Nat.mod_lt _ (by positivity)
    have h3 : (n % 2 ^ len + 1) * 2 ^ lo ≤ 2 ^ len * 2 ^ lo := Nat.mul_le_mul_right _ h2
    rw [pow_add]; rw [Nat.add_mul] at h3; rw [Nat.mul_comm (2 ^ lo)]; omega
  have hhigh : w.toNat / 2 ^ (lo + len) * 2 ^ (lo + len) + 2 ^ (lo + len) ≤ 2 ^ 32 := by
    have h4 : 2 ^ 32 = 2 ^ (32 - (lo + len)) * 2 ^ (lo + len) := by rw [← pow_add]; congr 1; omega
    have h5 : w.toNat / 2 ^ (lo + len) + 1 ≤ 2 ^ (32 - (lo + len)) := by
      apply Nat.div_lt_of_lt_mul; rw [Nat.mul_comm, ← h4]; exact hw
    calc _ = (w.toNat / 2 ^ (lo + len) + 1) * 2 ^ (lo + len) := by ring
      _ ≤ _ := by rw [h4]; exact Nat.mul_le_mul_right _ h5
  unfold putBits bits
  rw [BitVec.toNat_ofNat, Nat.mod_eq_of_lt (by omega)]
  omega

/-- A field read after it is set. -/
theorem bits_putBits_self {w : Word32} {lo len n : Nat} (h : lo + len ≤ 32) : bits (putBits w lo len n) lo len = n % 2 ^ len := by
  unfold bits
  rw [putBits_toNat h]
  have h1 : w.toNat % 2 ^ lo < 2 ^ lo := Nat.mod_lt _ (by positivity)
  have h2 : w.toNat % 2 ^ lo + n % 2 ^ len * 2 ^ lo + w.toNat / 2 ^ (lo + len) * 2 ^ (lo + len)
      = w.toNat % 2 ^ lo + 2 ^ lo * (n % 2 ^ len + w.toNat / 2 ^ (lo + len) * 2 ^ len) := by rw [pow_add]; ring
  rw [h2, Nat.add_mul_div_left _ _ (by positivity), Nat.div_eq_of_lt h1]
  simp

/-- A field below the one that is set keeps its value. -/
theorem bits_putBits_below {w : Word32} {lo len n lo' len' : Nat} (h : lo + len ≤ 32) (hd : lo' + len' ≤ lo) :
    bits (putBits w lo len n) lo' len' = bits w lo' len' := by
  unfold bits
  rw [putBits_toNat h]
  have key : ∀ x : Nat, x / 2 ^ lo' % 2 ^ len' = x % 2 ^ lo / 2 ^ lo' % 2 ^ len' := by
    intro x
    have e : 2 ^ lo = 2 ^ lo' * 2 ^ (lo - lo') := by rw [← pow_add]; congr 1; omega
    have e2 : 2 ^ (lo - lo') = 2 ^ len' * 2 ^ (lo - lo' - len') := by rw [← pow_add]; congr 1; omega
    rw [e, Nat.mod_mul_right_div_self, e2, Nat.mod_mul_right_mod]
  rw [key, key w.toNat]
  congr 2
  have h2 : w.toNat % 2 ^ lo + n % 2 ^ len * 2 ^ lo + w.toNat / 2 ^ (lo + len) * 2 ^ (lo + len)
      = w.toNat % 2 ^ lo + 2 ^ lo * (n % 2 ^ len + w.toNat / 2 ^ (lo + len) * 2 ^ len) := by rw [pow_add]; ring
  rw [h2, Nat.add_mul_mod_self_left, Nat.mod_mod]

/-- A field above the one that is set keeps its value. -/
theorem bits_putBits_above {w : Word32} {lo len n lo' len' : Nat} (h : lo + len ≤ 32) (hd : lo + len ≤ lo') :
    bits (putBits w lo len n) lo' len' = bits w lo' len' := by
  unfold bits
  rw [putBits_toNat h]
  have hlow : w.toNat % 2 ^ lo + n % 2 ^ len * 2 ^ lo < 2 ^ (lo + len) := by
    have h1 : w.toNat % 2 ^ lo < 2 ^ lo := Nat.mod_lt _ (by positivity)
    have h2 : n % 2 ^ len + 1 ≤ 2 ^ len := Nat.mod_lt _ (by positivity)
    have h3 : (n % 2 ^ len + 1) * 2 ^ lo ≤ 2 ^ len * 2 ^ lo := Nat.mul_le_mul_right _ h2
    rw [pow_add]; rw [Nat.add_mul] at h3; rw [Nat.mul_comm (2 ^ lo)]; omega
  have e : 2 ^ lo' = 2 ^ (lo + len) * 2 ^ (lo' - (lo + len)) := by rw [← pow_add]; congr 1; omega
  rw [e, ← Nat.div_div_eq_div_mul, ← Nat.div_div_eq_div_mul, Nat.mul_comm (w.toNat / 2 ^ (lo + len)),
    Nat.add_mul_div_left _ _ (by positivity), Nat.div_eq_of_lt hlow, Nat.zero_add]

variable {s : State} {f g : Fld} {n a : Nat}

/-- A field read after it is set. -/
theorem State.fld_putF (h : f.lo + f.len ≤ 32) : (s.putF f n).fld f = n % 2 ^ f.len := by
  simp [State.fld, State.putF, bits_putBits_self h]

/-- A field apart from the one that is set keeps its value. -/
theorem State.fld_putF_apart (h : f.lo + f.len ≤ 32) (hd : f.apart g) : (s.putF f n).fld g = s.fld g := by
  by_cases ha : g.addr = f.addr
  · have hx : f.lo + f.len ≤ g.lo ∨ g.lo + g.len ≤ f.lo := by
      rcases hd with h1 | h1
      · exact absurd ha.symm h1
      · exact h1
    rcases hx with h1 | h1
    · simp [State.fld, State.putF, ha, bits_putBits_above h h1]
    · simp [State.fld, State.putF, ha, bits_putBits_below h h1]
  · simp [State.fld, State.putF, State.reg_setReg, ha]

/-- A word other than the field's keeps its value. -/
theorem State.reg_putF_ne (h : a ≠ f.addr) : (s.putF f n).reg a = s.reg a := by simp [State.putF, State.reg_setReg, h]

end Sys2Proof.Machine
end

