-- ==== Sys2Proof/Laws/Counting.lean ====
section
/-! SUPPORT. What the counting operations do: saturating fields, event counters, credits given back. -/

namespace Sys2Proof.Machine

variable {s t : State} {f g : Fld} {n i a : Nat}

/-! ## Saturating fields -/

/-- A count raised by n stops at the field's maximum. -/
theorem State.fld_addF (h : f.lo + f.len ≤ 32) : (s.addF f n).fld f = min (2 ^ f.len - 1) (s.fld f + n) := by
  have h1 : 0 < 2 ^ f.len := by positivity
  unfold State.addF
  rw [State.fld_putF h]
  split
  · rw [Nat.mod_eq_of_lt (by omega)]; omega
  · rw [Nat.mod_eq_of_lt (by omega)]; omega

/-- A count raised by 1 stops at the field's maximum. -/
theorem State.fld_incF (h : f.lo + f.len ≤ 32) : (s.incF f).fld f = min (2 ^ f.len - 1) (s.fld f + 1) := State.fld_addF h

theorem State.fld_addF_apart (h : f.lo + f.len ≤ 32) (hd : f.apart g) : (s.addF f n).fld g = s.fld g :=
  State.fld_putF_apart h hd

theorem State.fld_incF_apart (h : f.lo + f.len ≤ 32) (hd : f.apart g) : (s.incF f).fld g = s.fld g :=
  State.fld_putF_apart h hd

/-- A count raised by 1, wrapping. -/
theorem State.fld_wrapF (h : f.lo + f.len ≤ 32) : (s.wrapF f).fld f = (s.fld f + 1) % 2 ^ f.len := State.fld_putF h

/-! ## Event counters -/

/-- Counting in a unit other than a slice changes no slice. -/
@[simp] theorem State.count_slices_of_ge (h : 2048 ≤ i) : (s.count i n).slices = s.slices := by
  have h1 : ¬ i < 2048 := by omega
  unfold State.count
  split
  · rfl
  · dsimp only
    split
    · simp [h1]
    · simp

/-- Counting in a slice sets at most its SAMP_OVF flag. -/
theorem State.count_sl {j : SliceId} : (s.count i n).sl j = s.sl j ∨ (s.count i n).sl j = { s.sl j with sampOvf := true } := by
  unfold State.count
  split
  · exact .inl rfl
  · dsimp only
    split
    · split
      · rw [State.sl_modSl]
        split
        · rename_i h; subst h; right; simp
        · left; simp
      · left; simp
    · left; simp

@[simp] theorem State.count_sl_active {j : SliceId} : ((s.count i n).sl j).active = (s.sl j).active := by
  rcases @State.count_sl s n i j with h | h <;> rw [h]
@[simp] theorem State.count_sl_dir {j : SliceId} : ((s.count i n).sl j).dir = (s.sl j).dir := by
  rcases @State.count_sl s n i j with h | h <;> rw [h]
@[simp] theorem State.count_sl_transit {j : SliceId} : ((s.count i n).sl j).transit = (s.sl j).transit := by
  rcases @State.count_sl s n i j with h | h <;> rw [h]
@[simp] theorem State.count_sl_ageClock {j : SliceId} : ((s.count i n).sl j).ageClock = (s.sl j).ageClock := by
  rcases @State.count_sl s n i j with h | h <;> rw [h]
@[simp] theorem State.count_sl_lookups {j : SliceId} : ((s.count i n).sl j).lookups = (s.sl j).lookups := by
  rcases @State.count_sl s n i j with h | h <;> rw [h]
@[simp] theorem State.count_sl_sil {j : SliceId} : ((s.count i n).sl j).sil = (s.sl j).sil := by
  rcases @State.count_sl s n i j with h | h <;> rw [h]
@[simp] theorem State.count_sl_rebuild {j : SliceId} : ((s.count i n).sl j).rebuild = (s.sl j).rebuild := by
  rcases @State.count_sl s n i j with h | h <;> rw [h]
@[simp] theorem State.count_sl_recount {j : SliceId} : ((s.count i n).sl j).recount = (s.sl j).recount := by
  rcases @State.count_sl s n i j with h | h <;> rw [h]
@[simp] theorem State.count_sl_bypass {j : SliceId} : ((s.count i n).sl j).bypass = (s.sl j).bypass := by
  rcases @State.count_sl s n i j with h | h <;> rw [h]
@[simp] theorem State.count_sl_permByp {j : SliceId} : ((s.count i n).sl j).permByp = (s.sl j).permByp := by
  rcases @State.count_sl s n i j with h | h <;> rw [h]
@[simp] theorem State.count_sl_recN {j : SliceId} : ((s.count i n).sl j).recN = (s.sl j).recN := by
  rcases @State.count_sl s n i j with h | h <;> rw [h]
@[simp] theorem State.count_sl_inserting {j : SliceId} : ((s.count i n).sl j).inserting = (s.sl j).inserting := by
  rcases @State.count_sl s n i j with h | h <;> rw [h]
@[simp] theorem State.count_sl_recalls {j : SliceId} : ((s.count i n).sl j).recalls = (s.sl j).recalls := by
  rcases @State.count_sl s n i j with h | h <;> rw [h]
@[simp] theorem State.count_sl_wb {j : SliceId} : ((s.count i n).sl j).wb = (s.sl j).wb := by
  rcases @State.count_sl s n i j with h | h <;> rw [h]
@[simp] theorem State.count_sl_rsp {j : SliceId} : ((s.count i n).sl j).rsp = (s.sl j).rsp := by
  rcases @State.count_sl s n i j with h | h <;> rw [h]
@[simp] theorem State.count_sl_int {j : SliceId} : ((s.count i n).sl j).int = (s.sl j).int := by
  rcases @State.count_sl s n i j with h | h <;> rw [h]
@[simp] theorem State.count_sl_new {j : SliceId} : ((s.count i n).sl j).new = (s.sl j).new := by
  rcases @State.count_sl s n i j with h | h <;> rw [h]
@[simp] theorem State.count_sl_ptr {j : SliceId} : ((s.count i n).sl j).ptr = (s.sl j).ptr := by
  rcases @State.count_sl s n i j with h | h <;> rw [h]
@[simp] theorem State.count_sl_bgWait {j : SliceId} : ((s.count i n).sl j).bgWait = (s.sl j).bgWait := by
  rcases @State.count_sl s n i j with h | h <;> rw [h]
@[simp] theorem State.count_sl_slots {j : SliceId} : ((s.count i n).sl j).slots = (s.sl j).slots := by
  rcases @State.count_sl s n i j with h | h <;> rw [h]
@[simp] theorem State.count_sl_handing {j : SliceId} : ((s.count i n).sl j).handing = (s.sl j).handing := by
  rcases @State.count_sl s n i j with h | h <;> rw [h]
@[simp] theorem State.count_sl_chains {j : SliceId} : ((s.count i n).sl j).chains = (s.sl j).chains := by
  rcases @State.count_sl s n i j with h | h <;> rw [h]
@[simp] theorem State.count_sl_jobs {j : SliceId} : ((s.count i n).sl j).jobs = (s.sl j).jobs := by
  rcases @State.count_sl s n i j with h | h <;> rw [h]
@[simp] theorem State.count_sl_jobPark {j : SliceId} : ((s.count i n).sl j).jobPark = (s.sl j).jobPark := by
  rcases @State.count_sl s n i j with h | h <;> rw [h]
@[simp] theorem State.count_sl_escPark {j : SliceId} : ((s.count i n).sl j).escPark = (s.sl j).escPark := by
  rcases @State.count_sl s n i j with h | h <;> rw [h]
@[simp] theorem State.count_sl_recallQ {j : SliceId} : ((s.count i n).sl j).recallQ = (s.sl j).recallQ := by
  rcases @State.count_sl s n i j with h | h <;> rw [h]
@[simp] theorem State.count_sl_locks {j : SliceId} : ((s.count i n).sl j).locks = (s.sl j).locks := by
  rcases @State.count_sl s n i j with h | h <;> rw [h]
@[simp] theorem State.count_sl_castQ {j : SliceId} : ((s.count i n).sl j).castQ = (s.sl j).castQ := by
  rcases @State.count_sl s n i j with h | h <;> rw [h]
@[simp] theorem State.count_sl_snpQ {j : SliceId} : ((s.count i n).sl j).snpQ = (s.sl j).snpQ := by
  rcases @State.count_sl s n i j with h | h <;> rw [h]
@[simp] theorem State.count_sl_roster {j : SliceId} : ((s.count i n).sl j).roster = (s.sl j).roster := by
  rcases @State.count_sl s n i j with h | h <;> rw [h]
@[simp] theorem State.count_sl_escSlots {j : SliceId} : ((s.count i n).sl j).escSlots = (s.sl j).escSlots := by
  rcases @State.count_sl s n i j with h | h <;> rw [h]
@[simp] theorem State.count_sl_kept {j : SliceId} : ((s.count i n).sl j).kept = (s.sl j).kept := by
  rcases @State.count_sl s n i j with h | h <;> rw [h]
@[simp] theorem State.count_sl_stopped {j : SliceId} : ((s.count i n).sl j).stopped = (s.sl j).stopped := by
  rcases @State.count_sl s n i j with h | h <;> rw [h]
@[simp] theorem State.count_sl_rsvs {j : SliceId} : ((s.count i n).sl j).rsvs = (s.sl j).rsvs := by
  rcases @State.count_sl s n i j with h | h <;> rw [h]
@[simp] theorem State.count_sl_pred {j : SliceId} : ((s.count i n).sl j).pred = (s.sl j).pred := by
  rcases @State.count_sl s n i j with h | h <;> rw [h]
@[simp] theorem State.count_sl_decayAt {j : SliceId} : ((s.count i n).sl j).decayAt = (s.sl j).decayAt := by
  rcases @State.count_sl s n i j with h | h <;> rw [h]
@[simp] theorem State.count_sl_decayPer {j : SliceId} : ((s.count i n).sl j).decayPer = (s.sl j).decayPer := by
  rcases @State.count_sl s n i j with h | h <;> rw [h]
@[simp] theorem State.count_sl_decayPos {j : SliceId} : ((s.count i n).sl j).decayPos = (s.sl j).decayPos := by
  rcases @State.count_sl s n i j with h | h <;> rw [h]
@[simp] theorem State.count_sl_scanPos {j : SliceId} : ((s.count i n).sl j).scanPos = (s.sl j).scanPos := by
  rcases @State.count_sl s n i j with h | h <;> rw [h]
@[simp] theorem State.count_sl_scanRds {j : SliceId} : ((s.count i n).sl j).scanRds = (s.sl j).scanRds := by
  rcases @State.count_sl s n i j with h | h <;> rw [h]
@[simp] theorem State.count_sl_swept {j : SliceId} : ((s.count i n).sl j).swept = (s.sl j).swept := by
  rcases @State.count_sl s n i j with h | h <;> rw [h]
@[simp] theorem State.count_sl_sweepWait {j : SliceId} : ((s.count i n).sl j).sweepWait = (s.sl j).sweepWait := by
  rcases @State.count_sl s n i j with h | h <;> rw [h]
@[simp] theorem State.count_sl_scrubSet {j : SliceId} : ((s.count i n).sl j).scrubSet = (s.sl j).scrubSet := by
  rcases @State.count_sl s n i j with h | h <;> rw [h]
@[simp] theorem State.count_sl_vic {j : SliceId} : ((s.count i n).sl j).vic = (s.sl j).vic := by
  rcases @State.count_sl s n i j with h | h <;> rw [h]
@[simp] theorem State.count_sl_moveHold {j : SliceId} : ((s.count i n).sl j).moveHold = (s.sl j).moveHold := by
  rcases @State.count_sl s n i j with h | h <;> rw [h]
@[simp] theorem State.count_sl_sampCnt {j : SliceId} : ((s.count i n).sl j).sampCnt = (s.sl j).sampCnt := by
  rcases @State.count_sl s n i j with h | h <;> rw [h]
@[simp] theorem State.count_sl_sampSeq {j : SliceId} : ((s.count i n).sl j).sampSeq = (s.sl j).sampSeq := by
  rcases @State.count_sl s n i j with h | h <;> rw [h]
@[simp] theorem State.count_sl_sampFly {j : SliceId} : ((s.count i n).sl j).sampFly = (s.sl j).sampFly := by
  rcases @State.count_sl s n i j with h | h <;> rw [h]
@[simp] theorem State.count_sl_calQ {j : SliceId} : ((s.count i n).sl j).calQ = (s.sl j).calQ := by
  rcases @State.count_sl s n i j with h | h <;> rw [h]
@[simp] theorem State.count_sl_calLast {j : SliceId} : ((s.count i n).sl j).calLast = (s.sl j).calLast := by
  rcases @State.count_sl s n i j with h | h <;> rw [h]
@[simp] theorem State.count_sl_nextTag {j : SliceId} : ((s.count i n).sl j).nextTag = (s.sl j).nextTag := by
  rcases @State.count_sl s n i j with h | h <;> rw [h]

/-- A counter that is frozen or reserved does not count. -/
theorem State.count_still (h : s.counts.frozen = true ∨ cReserved i = true) : s.count i n = s := by
  unfold State.count
  rcases h with h | h <;> simp [h]

/-- A counter that does not wrap adds n. -/
theorem State.cnt_count (hf : s.counts.frozen = false) (hr : cReserved i = false) (hw : (s.cnt i).value.toNat + n < 2 ^ 48) :
    (s.count i n).cnt i = { s.cnt i with value := BitVec.ofNat 48 ((s.cnt i).value.toNat + n) } := by
  have h : (s.cnt i).add n = ({ s.cnt i with value := BitVec.ofNat 48 ((s.cnt i).value.toNat + n) }, false) := by
    unfold Counter.add; dsimp only; rw [if_pos hw]
  unfold State.count
  simp [hf, hr, h]

/-! ## Credits -/

/-- A returned REQ credit is held by the attachment or withheld for it (R289). -/
theorem Att.giveBack_req {x : Att} {shed : Bool} {r w : Nat} :
    (x.giveBack shed r w).reqCr + (x.giveBack shed r w).reqHold = x.reqCr + x.reqHold + r := by
  unfold Att.giveBack; cases shed <;> simp <;> omega

/-- A returned RWD credit is held by the attachment or withheld for it (R289). -/
theorem Att.giveBack_rwd {x : Att} {shed : Bool} {r w : Nat} :
    (x.giveBack shed r w).rwdCr + (x.giveBack shed r w).rwdHold = x.rwdCr + x.rwdHold + w := by
  unfold Att.giveBack; cases shed <;> simp <;> omega

@[simp] theorem Att.giveBack_birspCr {x : Att} {b : Bool} {r w : Nat} : (x.giveBack b r w).birspCr = x.birspCr := rfl
@[simp] theorem Att.giveBack_ndrC {x : Att} {b : Bool} {r w : Nat} : (x.giveBack b r w).ndrC = x.ndrC := rfl
@[simp] theorem Att.giveBack_drsC {x : Att} {b : Bool} {r w : Nat} : (x.giveBack b r w).drsC = x.drsC := rfl
@[simp] theorem Att.giveBack_bisnpC {x : Att} {b : Bool} {r w : Nat} : (x.giveBack b r w).bisnpC = x.bisnpC := rfl
@[simp] theorem Att.giveBack_waitIn {x : Att} {b : Bool} {r w : Nat} : (x.giveBack b r w).waitIn = x.waitIn := rfl
@[simp] theorem Att.giveBack_order {x : Att} {b : Bool} {r w : Nat} : (x.giveBack b r w).order = x.order := rfl
@[simp] theorem Att.giveBack_accN {x : Att} {b : Bool} {r w : Nat} : (x.giveBack b r w).accN = x.accN := rfl
@[simp] theorem Att.giveBack_barriers {x : Att} {b : Bool} {r w : Nat} : (x.giveBack b r w).barriers = x.barriers := rfl
@[simp] theorem Att.giveBack_fences {x : Att} {b : Bool} {r w : Nat} : (x.giveBack b r w).fences = x.fences := rfl
@[simp] theorem Att.giveBack_snooped {x : Att} {b : Bool} {r w : Nat} : (x.giveBack b r w).snooped = x.snooped := rfl
@[simp] theorem Att.giveBack_bufs {x : Att} {b : Bool} {r w : Nat} : (x.giveBack b r w).bufs = x.bufs := rfl
@[simp] theorem Att.giveBack_ndrQ {x : Att} {b : Bool} {r w : Nat} : (x.giveBack b r w).ndrQ = x.ndrQ := rfl
@[simp] theorem Att.giveBack_drsQ {x : Att} {b : Bool} {r w : Nat} : (x.giveBack b r w).drsQ = x.drsQ := rfl
@[simp] theorem Att.giveBack_bisnpQ {x : Att} {b : Bool} {r w : Nat} : (x.giveBack b r w).bisnpQ = x.bisnpQ := rfl
@[simp] theorem Att.giveBack_seq {x : Att} {b : Bool} {r w : Nat} : (x.giveBack b r w).seq = x.seq := rfl
@[simp] theorem Att.giveBack_pulls {x : Att} {b : Bool} {r w : Nat} : (x.giveBack b r w).pulls = x.pulls := rfl
@[simp] theorem Att.giveBack_reports {x : Att} {b : Bool} {r w : Nat} : (x.giveBack b r w).reports = x.reports := rfl
@[simp] theorem Att.giveBack_wsIn {x : Att} {b : Bool} {r w : Nat} : (x.giveBack b r w).wsIn = x.wsIn := rfl
@[simp] theorem Att.giveBack_winRd {x : Att} {b : Bool} {r w : Nat} : (x.giveBack b r w).winRd = x.winRd := rfl
@[simp] theorem Att.giveBack_gate {x : Att} {b : Bool} {r w : Nat} : (x.giveBack b r w).gate = x.gate := rfl
@[simp] theorem Att.giveBack_gateReq {x : Att} {b : Bool} {r w : Nat} : (x.giveBack b r w).gateReq = x.gateReq := rfl
@[simp] theorem Att.giveBack_gateAck {x : Att} {b : Bool} {r w : Nat} : (x.giveBack b r w).gateAck = x.gateAck := rfl
@[simp] theorem Att.giveBack_reopen {x : Att} {b : Bool} {r w : Nat} : (x.giveBack b r w).reopen = x.reopen := rfl
@[simp] theorem Att.giveBack_restGated {x : Att} {b : Bool} {r w : Nat} : (x.giveBack b r w).restGated = x.restGated := rfl
@[simp] theorem Att.giveBack_passing {x : Att} {b : Bool} {r w : Nat} : (x.giveBack b r w).passing = x.passing := rfl
@[simp] theorem Att.giveBack_ndrPin {x : Att} {b : Bool} {r w : Nat} : (x.giveBack b r w).ndrPin = x.ndrPin := rfl
@[simp] theorem Att.giveBack_drsPin {x : Att} {b : Bool} {r w : Nat} : (x.giveBack b r w).drsPin = x.drsPin := rfl
@[simp] theorem Att.giveBack_bisnpPin {x : Att} {b : Bool} {r w : Nat} : (x.giveBack b r w).bisnpPin = x.bisnpPin := rfl

theorem State.att_giveBack {j k : AttId} {r w : Nat} :
    (s.giveBack k r w).att j = if j = k then (s.att k).giveBack (decide (3 ≤ s.level)) r w else s.att j := by
  unfold State.giveBack; rw [State.att_modAtt]

@[simp] theorem State.att_giveBack_self {k : AttId} {r w : Nat} :
    (s.giveBack k r w).att k = (s.att k).giveBack (decide (3 ≤ s.level)) r w := by simp [State.att_giveBack]

end Sys2Proof.Machine
end

