-- ==== Sys2Proof/Laws/Kept.lean ====
section
/-! SUPPORT. What an operation can write, said once: a property of states that the writes of some parts keep is kept by
every operation that writes those parts alone. An invariant takes all parts; a frame leaves out the part it is about. -/

namespace Sys2Proof.Machine

/-- The parts of the state that operations write. -/
inductive Part where
  | modes | plinth | pins | boot | regs | rsp | agents | hists | atts | slices | ports | mesh | routers | hmap | cast
  | events | srcs | counts | cnts | cox | cal | free | mem | wipe
  deriving DecidableEq, Repr

/-- A property that the writes of the parts `c` keep. -/
structure Kept where
  P : State → Prop
  c : Part → Prop
  modes : c .modes → ∀ {s : State} x, P s → P { s with modes := x }
  plinth : c .plinth → ∀ {s : State} x, P s → P { s with plinth := x }
  pins : c .pins → ∀ {s : State} x, P s → P { s with pins := x }
  boot : c .boot → ∀ {s : State} x, P s → P { s with boot := x }
  hostRsp : c .rsp → ∀ {s : State} x, P s → P { s with hostRsp := x }
  hostOut : c .rsp → ∀ {s : State} x, P s → P { s with hostOut := x }
  coxRsp : c .rsp → ∀ {s : State} x, P s → P { s with coxRsp := x }
  hmap : c .hmap → ∀ {s : State} x, P s → P { s with hmap := x }
  cast : c .cast → ∀ {s : State} x, P s → P { s with cast := x }
  cox : c .cox → ∀ {s : State} x, P s → P { s with cox := x }
  calAt : c .cal → ∀ {s : State} x, P s → P { s with calAt := x }
  freeCtr : c .free → ∀ {s : State} x, P s → P { s with freeCtr := x }
  castMem : c .mem → ∀ {s : State} x, P s → P { s with castMem := x }
  mesh : c .mesh → ∀ {s : State} x, P s → x.routers = s.mesh.routers → P { s with mesh := x }
  events : c .events → ∀ {s : State} x, P s → x.srcs = s.events.srcs → P { s with events := x }
  counts : c .counts → ∀ {s : State} x, P s → x.cnts = s.counts.cnts → P { s with counts := x }
  reg : c .regs → ∀ {s : State} a w, P s → P (s.setReg a w)
  agent : c .agents → ∀ {s : State} a x, P s → P (s.setAgent a x)
  hist : c .hists → ∀ {s : State} a x, P s → P (s.setHist a x)
  att : c .atts → ∀ {s : State} k x, P s → P (s.setAtt k x)
  sl : c .slices → ∀ {s : State} k x, P s → P (s.setSl k x)
  mp : c .ports → ∀ {s : State} k x, P s → P (s.setMp k x)
  router : c .routers → ∀ {s : State} k x, P s → P (s.setRouter k x)
  ev : c .srcs → ∀ {s : State} k x, P s → P (s.setEv k x)
  cnt : c .cnts → ∀ {s : State} i (x : Counter), P s →
    (cReserved i = true → x.value = (s.cnt i).value ∨ x.value = 0) → P (s.setCnt i x)
  wipe : c .wipe → ∀ {s : State} m, P s → P (s.resetCore m)
  undo : c .wipe → ∀ {s : State}, P s → P s.undoSlot
  aon : c .wipe → ∀ {s : State}, P s → P { s with plinth := Plinth.reset, regs := [] }

/-- A fold keeps what each of its steps keeps. -/
theorem Kept.fold (K : Kept) {α : Type} {g : State → α → State} {l : List α} {s : State}
    (hg : ∀ s x, K.P s → K.P (g s x)) (h : K.P s) : K.P (l.foldl g s) := by
  induction l generalizing s with
  | nil => exact h
  | cons x l ih => exact ih (hg _ _ h)

/-- A fold over states paired with results keeps what each of its steps keeps. -/
theorem Kept.fold_fst (K : Kept) {α β : Type} {g : State × β → α → State × β} {l : List α} {p : State × β}
    (hg : ∀ p x, K.P p.1 → K.P (g p x).1) (h : K.P p.1) : K.P (l.foldl g p).1 := by
  induction l generalizing p with
  | nil => exact h
  | cons x l ih => exact ih (hg _ _ h)

/-- A property kept by the parts of a list is kept by the parts of a shorter one. -/
theorem Kept.sub (K : Kept) {T T' : List Part} (hc : ∀ p ∈ T, K.c p) (h : T'.all T.contains = true) : ∀ p ∈ T', K.c p :=
  fun p hp => hc p (by simpa using List.all_eq_true.mp h p hp)

/-- One record update of several parts at once. -/
theorem Kept.upd (K : Kept) {s : State}
    {modes plinth pins boot hostRsp hostOut coxRsp hmap cast cox calAt freeCtr castMem mesh events counts}
    (hm : K.c .modes ∨ modes = s.modes) (hp : K.c .plinth ∨ plinth = s.plinth) (hi : K.c .pins ∨ pins = s.pins)
    (hb : K.c .boot ∨ boot = s.boot) (hr : K.c .rsp ∨ hostRsp = s.hostRsp) (ht : K.c .rsp ∨ hostOut = s.hostOut)
    (hx : K.c .rsp ∨ coxRsp = s.coxRsp)
    (hh : K.c .hmap ∨ hmap = s.hmap) (hk : K.c .cast ∨ cast = s.cast) (ho : K.c .cox ∨ cox = s.cox)
    (ha : K.c .cal ∨ calAt = s.calAt) (hf : K.c .free ∨ freeCtr = s.freeCtr)
    (hv : K.c .mem ∨ castMem = s.castMem) (hs : K.c .mesh ∨ mesh = s.mesh)
    (he : K.c .events ∨ events = s.events) (hn : K.c .counts ∨ counts = s.counts)
    (hs' : mesh.routers = s.mesh.routers) (he' : events.srcs = s.events.srcs) (hn' : counts.cnts = s.counts.cnts)
    (h : K.P s) :
    K.P { s with
      modes, plinth, pins, boot, hostRsp, hostOut, coxRsp, hmap, cast, cox, calAt, freeCtr, castMem, mesh, events, counts } := by
  replace h : K.P { s with modes } := by
    rcases hm with c | rfl; exacts [K.modes c _ h, h]
  replace h : K.P { s with modes, plinth } := by
    rcases hp with c | rfl; exacts [K.plinth c _ h, h]
  replace h : K.P { s with modes, plinth, pins } := by
    rcases hi with c | rfl; exacts [K.pins c _ h, h]
  replace h : K.P { s with modes, plinth, pins, boot } := by
    rcases hb with c | rfl; exacts [K.boot c _ h, h]
  replace h : K.P { s with modes, plinth, pins, boot, hostRsp } := by
    rcases hr with c | rfl; exacts [K.hostRsp c _ h, h]
  replace h : K.P { s with modes, plinth, pins, boot, hostRsp, hostOut } := by
    rcases ht with c | rfl; exacts [K.hostOut c _ h, h]
  replace h : K.P { s with modes, plinth, pins, boot, hostRsp, hostOut, coxRsp } := by
    rcases hx with c | rfl; exacts [K.coxRsp c _ h, h]
  replace h : K.P { s with modes, plinth, pins, boot, hostRsp, hostOut, coxRsp, hmap } := by
    rcases hh with c | rfl; exacts [K.hmap c _ h, h]
  replace h : K.P { s with modes, plinth, pins, boot, hostRsp, hostOut, coxRsp, hmap, cast } := by
    rcases hk with c | rfl; exacts [K.cast c _ h, h]
  replace h : K.P { s with modes, plinth, pins, boot, hostRsp, hostOut, coxRsp, hmap, cast, cox } := by
    rcases ho with c | rfl; exacts [K.cox c _ h, h]
  replace h : K.P { s with modes, plinth, pins, boot, hostRsp, hostOut, coxRsp, hmap, cast, cox, calAt } := by
    rcases ha with c | rfl; exacts [K.calAt c _ h, h]
  replace h : K.P { s with modes, plinth, pins, boot, hostRsp, hostOut, coxRsp, hmap, cast, cox, calAt, freeCtr } := by
    rcases hf with c | rfl; exacts [K.freeCtr c _ h, h]
  replace h : K.P { s with 
      modes, plinth, pins, boot, hostRsp, hostOut, coxRsp, hmap, cast, cox, calAt, freeCtr, castMem } := by
    rcases hv with c | rfl; exacts [K.castMem c _ h, h]
  replace h : K.P { s with 
      modes, plinth, pins, boot, hostRsp, hostOut, coxRsp, hmap, cast, cox, calAt, freeCtr, castMem, mesh } := by
    rcases hs with c | rfl; exacts [K.mesh c _ h hs', h]
  replace h : K.P { s with 
      modes, plinth, pins, boot, hostRsp, hostOut, coxRsp, hmap, cast, cox, calAt, freeCtr, castMem, mesh, events } := by
    rcases he with c | rfl; exacts [K.events c _ h he', h]
  rcases hn with c | rfl
  exacts [K.counts c _ h hn', h]

/-- What an optional state keeps. -/
def Kept.opt (K : Kept) (o : Option State) : Prop := ∀ t, o = some t → K.P t
/-- What an optional pair keeps in its state. -/
def Kept.optP (K : Kept) {α : Type} (o : Option (State × α)) : Prop := ∀ p, o = some p → K.P p.1
/-- What an outcome keeps in its next state. -/
def Kept.out (K : Kept) (o : Host.Outcome State Fault Refusal) : Prop := ∀ t, o = .next t → K.P t

variable {K : Kept} {s t : State} {α : Type}

theorem Kept.opt_some (h : K.P s) : K.opt (some s) := fun _ e => by cases e; exact h
theorem Kept.opt_none : K.opt none := fun _ e => by cases e
theorem Kept.optP_some {a : α} (h : K.P s) : K.optP (some (s, a)) := fun _ e => by cases e; exact h
theorem Kept.optP_none : K.optP (none : Option (State × α)) := fun _ e => by cases e
theorem Kept.out_next (h : K.P s) : K.out (.next s) := fun _ e => by cases e; exact h
theorem Kept.out_fault {r : Fault} : K.out (.fault r) := fun _ e => by cases e
theorem Kept.out_refused {r : Refusal} : K.out (.refused r) := fun _ e => by cases e
theorem Kept.ite {c : Prop} [Decidable c] (h : K.P s) (h' : K.P t) : K.P (if c then s else t) := by split <;> assumption
theorem Kept.ite_fst {c : Prop} [Decidable c] {p q : State × α} (h : K.P p.1) (h' : K.P q.1) :
    K.P (if c then p else q).1 := by split <;> assumption
theorem Kept.out_ite {c : Prop} [Decidable c] {p q : Host.Outcome State Fault Refusal} (h : K.out p) (h' : K.out q) :
    K.out (if c then p else q) := by split <;> assumption
theorem Kept.opt_ite {c : Prop} [Decidable c] {p q : Option State} (h : K.opt p) (h' : K.opt q) :
    K.opt (if c then p else q) := by split <;> assumption
theorem Kept.optP_ite {c : Prop} [Decidable c] {p q : Option (State × α)} (h : K.optP p) (h' : K.optP q) :
    K.optP (if c then p else q) := by split <;> assumption
theorem Kept.getD {o : Option State} (h : K.opt o) (hs : K.P s) : K.P (o.getD s) := by
  cases o with
  | none => exact hs
  | some u => exact h u rfl
theorem Kept.optP_map {o : Option State} {a : α} (h : K.opt o) : K.optP (o.map (fun u => (u, a))) := by
  cases o with
  | none => exact optP_none
  | some u => exact optP_some (h u rfl)
theorem Kept.opt_map {o : Option (State × α)} {f : State × α → State} (h : K.optP o) (hf : ∀ p, K.P p.1 → K.P (f p)) :
    K.opt (o.map f) := by
  cases o with
  | none => exact opt_none
  | some u => exact opt_some (hf u (h u rfl))
theorem Kept.opt_bind {o : Option State} {f : State → Option State} (h : K.opt o) (hf : ∀ u, K.P u → K.opt (f u)) :
    K.opt (o.bind f) := by
  cases o with
  | none => exact opt_none
  | some u => exact hf u (h u rfl)
theorem Kept.optP_bind {β : Type} {o : Option (State × α)} {f : State × α → Option (State × β)} (h : K.optP o)
    (hf : ∀ p, K.P p.1 → K.optP (f p)) : K.optP (o.bind f) := by
  cases o with
  | none => exact optP_none
  | some u => exact hf u (h u rfl)
theorem Kept.opt_fst {o : Option (State × α)} (h : K.optP o) : K.opt (o.map (fun p => p.1)) := by
  cases o with
  | none => exact opt_none
  | some u => exact opt_some (h u rfl)
theorem Kept.opt_fold {l : List α} {g : Option State → α → Option State} {o : Option State}
    (hg : ∀ o x, K.opt o → K.opt (g o x)) (h : K.opt o) : K.opt (l.foldl g o) := by
  induction l generalizing o with
  | nil => exact h
  | cons x l ih => exact ih (hg _ _ h)
theorem Kept.of_some {o : Option State} (h : K.opt o) (e : o = some t) : K.P t := h _ e
theorem Kept.of_someP {o : Option (State × α)} {a : α} (h : K.optP o) (e : o = some (t, a)) : K.P t := h _ e
theorem Kept.of_pair {p : State × α} {a : α} (h : K.P p.1) (e : p = (t, a)) : K.P t := by cases e; exact h

end Sys2Proof.Machine
end

