-- ==== Sys2Proof/Laws/KeptMessages.lean ====
section
/-! SUPPORT. What the operations of Machine/Messages.lean can write (see Laws/Kept.lean): each lemma lists the parts. -/

namespace Sys2Proof.Machine

set_option linter.unusedTactic false
set_option linter.unreachableTactic false

variable {K : Kept} {s : State}

theorem State.putPkt_kept {i : Nat} {p : Pkt} (hC : ∀ p ∈ [.mesh], K.c p) (hK : K.P s) : K.P (s.putPkt i p) := by
  unfold State.putPkt; try dsimp only
  with_reducible (repeat' first | assumption | exact K.sub hC rfl | exact hC _ (by decide) | exact Or.inl (hC _ (by decide)) | exact Or.inr rfl | rfl | (simp; done) | dsimp only | apply Kept.upd)

theorem State.sendBack_kept {i : Nat} {plane : Bool} {lane : Nat} {h : BitVec 128} {bounce : Nat} (hC : ∀ p ∈ [.mesh], K.c p) (hK : K.P s) : K.P (s.sendBack i plane lane h bounce) := by
  unfold State.sendBack; try dsimp only
  with_reducible (repeat' first | assumption | exact K.sub hC rfl | apply State.putPkt_kept | exact hC _ (by decide))

theorem State.inject_kept {src : Place} {dst : Place} {mtype : Nat} {body : BitVec 107} {more : List (BitVec 128)} (hC : ∀ p ∈ [.mesh], K.c p) (hK : K.P s) : K.P (s.inject src dst mtype body more) := by
  unfold State.inject; try dsimp only
  with_reducible (repeat' first | assumption | exact K.sub hC rfl | apply State.putPkt_kept | exact hC _ (by decide))

end Sys2Proof.Machine
end

