-- ==== Sys2Proof/Laws/KeptOps.lean ====
section
/-! SUPPORT. What the operations of Machine/Ops.lean can write (see Laws/Kept.lean): each lemma lists the parts. -/

namespace Sys2Proof.Machine

set_option linter.unusedTactic false
set_option linter.unreachableTactic false

variable {K : Kept} {s : State}

theorem State.modAtt_kept {k : AttId} {f : Att → Att} (hC : ∀ p ∈ [.atts], K.c p) (hK : K.P s) : K.P (s.modAtt k f) := by
  unfold State.modAtt; try dsimp only
  with_reducible (repeat' first | assumption | exact K.sub hC rfl | apply Kept.att | exact hC _ (by decide))

theorem State.modSl_kept {i : SliceId} {f : Slice → Slice} (hC : ∀ p ∈ [.slices], K.c p) (hK : K.P s) : K.P (s.modSl i f) := by
  unfold State.modSl; try dsimp only
  with_reducible (repeat' first | assumption | exact K.sub hC rfl | apply Kept.sl | exact hC _ (by decide))

theorem State.modMp_kept {m : PortId} {f : Port → Port} (hC : ∀ p ∈ [.ports], K.c p) (hK : K.P s) : K.P (s.modMp m f) := by
  unfold State.modMp; try dsimp only
  with_reducible (repeat' first | assumption | exact K.sub hC rfl | apply Kept.mp | exact hC _ (by decide))

theorem State.modAgent_kept {a : AgentId} {f : Agent → Agent} (hC : ∀ p ∈ [.agents], K.c p) (hK : K.P s) : K.P (s.modAgent a f) := by
  unfold State.modAgent; try dsimp only
  with_reducible (repeat' first | assumption | exact K.sub hC rfl | apply Kept.agent | exact hC _ (by decide))

theorem State.setBounce_kept {i : Nat} {u : Nat} {v : Bool} (hC : ∀ p ∈ [.routers], K.c p) (hK : K.P s) : K.P (s.setBounce i u v) := by
  unfold State.setBounce; try dsimp only
  with_reducible (repeat' first | assumption | exact K.sub hC rfl | apply Kept.router | apply Kept.ite | exact hC _ (by decide))

theorem State.putF_kept {f : Fld} {n : Nat} (hC : ∀ p ∈ [.regs], K.c p) (hK : K.P s) : K.P (s.putF f n) := by
  unfold State.putF; try dsimp only
  with_reducible (repeat' first | assumption | exact K.sub hC rfl | apply Kept.reg | exact hC _ (by decide))

theorem State.addF_kept {f : Fld} {n : Nat} (hC : ∀ p ∈ [.regs], K.c p) (hK : K.P s) : K.P (s.addF f n) := by
  unfold State.addF; try dsimp only
  with_reducible (repeat' first | assumption | exact K.sub hC rfl | apply State.putF_kept | apply Kept.ite | exact hC _ (by decide))

theorem State.incF_kept {f : Fld} (hC : ∀ p ∈ [.regs], K.c p) (hK : K.P s) : K.P (s.incF f) := by
  unfold State.incF; try dsimp only
  with_reducible (repeat' first | assumption | exact K.sub hC rfl | apply State.addF_kept | exact hC _ (by decide))

theorem State.wrapF_kept {f : Fld} (hC : ∀ p ∈ [.regs], K.c p) (hK : K.P s) : K.P (s.wrapF f) := by
  unfold State.wrapF; try dsimp only
  with_reducible (repeat' first | assumption | exact K.sub hC rfl | apply State.putF_kept | exact hC _ (by decide))

theorem State.maxF_kept {f : Fld} {n : Nat} (hC : ∀ p ∈ [.regs], K.c p) (hK : K.P s) : K.P (s.maxF f n) := by
  unfold State.maxF; try dsimp only
  with_reducible (repeat' first | assumption | exact K.sub hC rfl | apply State.putF_kept | apply Kept.ite | exact hC _ (by decide))

theorem State.evSend_kept {i : Nat} {v : Bool} (hC : ∀ p ∈ [.mesh, .events], K.c p) (hK : K.P s) : K.P (s.evSend i v) := by
  unfold State.evSend; try dsimp only
  with_reducible (repeat' first | assumption | exact K.sub hC rfl | apply State.inject_kept | apply Kept.ite | exact hC _ (by decide) | exact Or.inl (hC _ (by decide)) | exact Or.inr rfl | rfl | (simp; done) | dsimp only | apply Kept.upd)

theorem State.fire_kept {i : Nat} (hC : ∀ p ∈ [.mesh, .events], K.c p) (hK : K.P s) : K.P (s.fire i) := by
  unfold State.fire; try dsimp only
  with_reducible (repeat' first | assumption | exact K.sub hC rfl | apply State.evSend_kept | exact hC _ (by decide))

theorem State.evLevel_kept {i : Nat} {v : Bool} (hC : ∀ p ∈ [.mesh, .events], K.c p) (hK : K.P s) : K.P (s.evLevel i v) := by
  unfold State.evLevel; try dsimp only
  with_reducible (repeat' first | assumption | exact K.sub hC rfl | apply State.evSend_kept | apply Kept.ite | exact hC _ (by decide))

theorem State.evCount_kept {a : Nat} {src : Nat} {tgt : Nat} (hC : ∀ p ∈ [.regs], K.c p) (hK : K.P s) : K.P (s.evCount a src tgt) := by
  unfold State.evCount; try dsimp only
  with_reducible (repeat' first | assumption | exact K.sub hC rfl | apply State.incF_kept | apply State.putF_kept | exact hC _ (by decide))

theorem State.evInput_kept {i : Nat} {v : Bool} (hC : ∀ p ∈ [.regs, .srcs], K.c p) (hK : K.P s) : K.P (s.evInput i v) := by
  unfold State.evInput; try dsimp only
  with_reducible (repeat' first | assumption | exact K.sub hC rfl | apply State.evCount_kept | apply Kept.ev | apply Kept.ite | exact hC _ (by decide) | split)

theorem State.count_kept {i : Nat} {n : Nat} (hC : ∀ p ∈ [.slices, .mesh, .events, .cnts], K.c p) (hK : K.P s) : K.P (s.count i n) := by
  unfold State.count; dsimp only
  split
  · exact hK
  · rename_i hr
    have hc' : cReserved i = true → ∀ x : Counter, x.value = (s.cnt i).value ∨ x.value = 0 := fun e => by simp [e] at hr
    have h1 := Kept.cnt K (hC _ (by decide)) i ((s.cnt i).add n).1 hK (fun e => hc' e _)
    with_reducible (repeat' first | exact h1 | apply State.fire_kept | apply State.modSl_kept | exact K.sub hC rfl | split)

theorem State.reach_kept {t : Nat} (hC : ∀ p ∈ [.plinth], K.c p) (hK : K.P s) : K.P (s.reach t) := by
  unfold State.reach; try dsimp only
  with_reducible (repeat' first | assumption | exact K.sub hC rfl | apply Kept.ite | exact hC _ (by decide) | exact .inr rfl | exact .inl (hC _ (by decide)) | rfl | (simp; done) | apply Kept.upd)

theorem State.queueNote_kept {u : QUnit} {q : Nat} {kind : Nat} (hC : ∀ p ∈ [.regs], K.c p) (hK : K.P s) : K.P (s.queueNote u q kind) := by
  unfold State.queueNote; try dsimp only
  with_reducible (repeat' first | assumption | exact K.sub hC rfl | apply State.incF_kept | apply State.putF_kept | apply Kept.ite | exact hC _ (by decide))

theorem State.classRec_kept (hC : ∀ p ∈ [.regs], K.c p) (hK : K.P s) : K.P s.classRec := by
  unfold State.classRec; try dsimp only
  with_reducible (repeat' first | assumption | exact K.sub hC rfl | apply State.incF_kept | exact hC _ (by decide))

theorem State.logPut_kept {r : LogRec} (hC : ∀ p ∈ [.regs, .cox], K.c p) (hK : K.P s) : K.P (s.logPut r) := by
  unfold State.logPut; try dsimp only
  with_reducible (repeat' first | assumption | exact K.sub hC rfl | apply State.classRec_kept | apply State.queueNote_kept | apply Kept.ite | exact hC _ (by decide) | exact Or.inl (hC _ (by decide)) | exact Or.inr rfl | rfl | (simp; done) | dsimp only | apply Kept.upd)

theorem State.logHw_kept {type : Nat} {unit : Nat} {data : Nat} (hC : ∀ p ∈ [.regs, .cox], K.c p) (hK : K.P s) : K.P (s.logHw type unit data) := by
  unfold State.logHw; try dsimp only
  with_reducible (repeat' first | assumption | exact K.sub hC rfl | apply State.logPut_kept | exact hC _ (by decide))

theorem State.toMode_kept {m : Mode} (hC : ∀ p ∈ [.modes, .regs, .mesh, .events, .cox], K.c p) (hK : K.P s) : K.P (s.toMode m) := by
  unfold State.toMode; try dsimp only
  with_reducible (repeat' first | assumption | exact K.sub hC rfl | apply State.fire_kept | apply State.logHw_kept | apply Kept.ite | exact hC _ (by decide) | exact .inr rfl | exact .inl (hC _ (by decide)) | rfl | (simp; done) | apply Kept.upd)

theorem State.attBounced_kept {k : AttId} (hC : ∀ p ∈ [.regs, .slices, .events, .cnts], K.c p) (hK : K.P s) : K.P (s.attBounced k) := by
  unfold State.attBounced; try dsimp only
  with_reducible (repeat' first | assumption | exact K.sub hC rfl | apply State.count_kept | apply State.incF_kept | exact hC _ (by decide))

theorem State.mpBounced_kept {m : PortId} (hC : ∀ p ∈ [.regs], K.c p) (hK : K.P s) : K.P (s.mpBounced m) := by
  unfold State.mpBounced; try dsimp only
  with_reducible (repeat' first | assumption | exact K.sub hC rfl | apply State.incF_kept | exact hC _ (by decide))

theorem State.regG_kept {f : State → State} (hf : ∀ x0, K.P x0 → K.P (f x0)) (hK : K.P s) : K.P (s.regG f) := by
  unfold State.regG; try dsimp only
  with_reducible (repeat' first | assumption | intro _ | apply Kept.ite | apply hf)

theorem State.regSl_kept {i : SliceId} {f : State → State} (hf : ∀ x0, K.P x0 → K.P (f x0)) (hK : K.P s) : K.P (s.regSl i f) := by
  unfold State.regSl; try dsimp only
  with_reducible (repeat' first | assumption | intro _ | apply Kept.ite | apply hf)

theorem State.regLa_kept {k : AttId} {f : State → State} (hC : ∀ p ∈ [.regs, .slices, .events, .cnts], K.c p) (hf : ∀ x0, K.P x0 → K.P (f x0)) (hK : K.P s) : K.P (s.regLa k f) := by
  unfold State.regLa; try dsimp only
  with_reducible (repeat' first | assumption | exact K.sub hC rfl | intro _ | apply State.attBounced_kept | apply Kept.ite | apply hf | exact hC _ (by decide))

theorem State.regMp_kept {m : PortId} {f : State → State} (hC : ∀ p ∈ [.regs], K.c p) (hf : ∀ x0, K.P x0 → K.P (f x0)) (hK : K.P s) : K.P (s.regMp m f) := by
  unfold State.regMp; try dsimp only
  with_reducible (repeat' first | assumption | exact K.sub hC rfl | intro _ | apply State.mpBounced_kept | apply Kept.ite | apply hf | exact hC _ (by decide))

theorem State.egNdr_kept {k : AttId} {n : Ndr} (hC : ∀ p ∈ [.atts], K.c p) (hK : K.P s) : K.P (s.egNdr k n) := by
  unfold State.egNdr; try dsimp only
  with_reducible (repeat' first | assumption | exact K.sub hC rfl | apply State.modAtt_kept | exact hC _ (by decide))

theorem State.egDrs_kept {k : AttId} {d : Drs} (hC : ∀ p ∈ [.atts], K.c p) (hK : K.P s) : K.P (s.egDrs k d) := by
  unfold State.egDrs; try dsimp only
  with_reducible (repeat' first | assumption | exact K.sub hC rfl | apply State.modAtt_kept | exact hC _ (by decide))

theorem State.egBisnp_kept {k : AttId} {b : Bisnp} (hC : ∀ p ∈ [.atts], K.c p) (hK : K.P s) : K.P (s.egBisnp k b) := by
  unfold State.egBisnp; try dsimp only
  with_reducible (repeat' first | assumption | exact K.sub hC rfl | apply State.modAtt_kept | exact hC _ (by decide))

theorem State.refuse_kept {k : AttId} {f : AttId → Fld} (hC : ∀ p ∈ [.regs, .slices, .mesh, .events, .cnts], K.c p) (hK : K.P s) : K.P (s.refuse k f) := by
  unfold State.refuse; try dsimp only
  with_reducible (repeat' first | assumption | exact K.sub hC rfl | apply State.count_kept | apply State.fire_kept | apply State.incF_kept | exact hC _ (by decide))

theorem State.snapStart_kept {t : Nat} (hC : ∀ p ∈ [.regs, .counts], K.c p) (hK : K.P s) : K.P (s.snapStart t) := by
  unfold State.snapStart; try dsimp only
  with_reducible (repeat' first | assumption | exact K.sub hC rfl | apply State.incF_kept | apply Kept.ite | exact hC _ (by decide) | exact .inr rfl | exact .inl (hC _ (by decide)) | rfl | (simp; done) | apply Kept.upd)

theorem State.giveBack_kept {k : AttId} {req : Nat} {rwd : Nat} (hC : ∀ p ∈ [.atts], K.c p) (hK : K.P s) : K.P (s.giveBack k req rwd) := by
  unfold State.giveBack; try dsimp only
  with_reducible (repeat' first | assumption | exact K.sub hC rfl | apply State.modAtt_kept | exact hC _ (by decide))

theorem State.holdAnswer_kept {k : AttId} (hC : ∀ p ∈ [.regs, .atts], K.c p) (hK : K.P s) : K.P (s.holdAnswer k) := by
  unfold State.holdAnswer; try dsimp only
  with_reducible (repeat' first | assumption | exact K.sub hC rfl | intro _ | apply State.addF_kept | apply State.egNdr_kept | apply State.giveBack_kept | apply State.modAtt_kept | apply Kept.fold | apply Kept.fold_fst | exact hC _ (by decide))

theorem State.fatal_kept {cause : Nat} {kind : Nat} {num : Nat} {detail : Nat} (hC : ∀ p ∈ [.modes, .pins, .regs, .atts, .mesh, .events, .counts, .cox], K.c p) (hK : K.P s) : K.P (s.fatal cause kind num detail) := by
  unfold State.fatal; try dsimp only
  with_reducible (repeat' first | assumption | exact K.sub hC rfl | intro _ | apply State.evLevel_kept | apply State.holdAnswer_kept | apply State.incF_kept | apply State.logHw_kept | apply State.putF_kept | apply State.snapStart_kept | apply State.toMode_kept | apply Kept.reg | apply Kept.ite | apply Kept.fold | apply Kept.fold_fst | exact hC _ (by decide) | exact .inr rfl | exact .inl (hC _ (by decide)) | rfl | (simp; done) | apply Kept.upd)

theorem State.classPsn_kept (hC : ∀ p ∈ [.regs], K.c p) (hK : K.P s) : K.P s.classPsn := by
  unfold State.classPsn; try dsimp only
  with_reducible (repeat' first | assumption | exact K.sub hC rfl | apply State.incF_kept | exact hC _ (by decide))

theorem State.loseRsv_kept {i : SliceId} {p : Rsv → Bool} (hC : ∀ p ∈ [.regs, .slices], K.c p) (hK : K.P s) : K.P (s.loseRsv i p) := by
  unfold State.loseRsv; try dsimp only
  with_reducible (repeat' first | assumption | exact K.sub hC rfl | apply State.addF_kept | apply State.modSl_kept | exact hC _ (by decide))

theorem State.loseRsvAll_kept {p : Rsv → Bool} (hC : ∀ p ∈ [.regs, .slices], K.c p) (hK : K.P s) : K.P (s.loseRsvAll p) := by
  unfold State.loseRsvAll; try dsimp only
  with_reducible (repeat' first | assumption | exact K.sub hC rfl | intro _ | apply State.loseRsv_kept | apply Kept.fold | apply Kept.fold_fst | exact hC _ (by decide))

theorem State.sliceErr_kept {i : SliceId} (hC : ∀ p ∈ [.regs, .slices], K.c p) (hK : K.P s) : K.P (s.sliceErr i) := by
  unfold State.sliceErr; try dsimp only
  with_reducible (repeat' first | assumption | exact K.sub hC rfl | apply State.loseRsv_kept | exact hC _ (by decide))

end Sys2Proof.Machine
end

