-- ==== Sys2Proof/Laws/KeptLanes.lean ====
section
/-! SUPPORT. What the operations of Machine/Lanes.lean can write (see Laws/Kept.lean): each lemma lists the parts. -/

namespace Sys2Proof.Machine

set_option linter.unusedTactic false
set_option linter.unreachableTactic false

variable {K : Kept} {s : State}

theorem State.giveCredit_kept {i : Nat} {inp : Nat} {lane : Nat} {n : Nat} (hC : ∀ p ∈ [.routers], K.c p) (hK : K.P s) : K.P (s.giveCredit i inp lane n) := by
  unfold State.giveCredit; try dsimp only
  with_reducible (repeat' first | assumption | exact K.sub hC rfl | apply Kept.router | apply Kept.ite | exact hC _ (by decide) | split)

theorem State.eject_kept {i : Nat} {plane : Bool} {lane : Nat} {p : List Flit} (hC : ∀ p ∈ [.modes, .pins, .regs, .atts, .mesh, .events, .counts, .cox], K.c p) (hK : K.P s) : K.P (s.eject i plane lane p) := by
  unfold State.eject; try dsimp only
  with_reducible (repeat' first | assumption | exact K.sub hC rfl | intro _ | apply State.fatal_kept | apply State.sendBack_kept | apply Kept.ite | apply Kept.fold | apply Kept.fold_fst | exact hC _ (by decide) | dsimp only)

theorem State.switchMove_kept {i : Nat} {out : LinkPort} {plane : Bool} {lane : Nat} {inp : Nat} (hC : ∀ p ∈ [.modes, .pins, .regs, .atts, .mesh, .routers, .events, .counts, .cox], K.c p) (hK : K.P s) : K.P (s.switchMove i out plane lane inp) := by
  unfold State.switchMove; try dsimp only
  with_reducible (repeat' first | assumption | exact K.sub hC rfl | intro _ | apply State.eject_kept | apply State.giveCredit_kept | apply Kept.router | apply Kept.ite | apply Kept.fold | apply Kept.fold_fst | exact hC _ (by decide) | split | dsimp only)

theorem State.pump_kept {n : Nat} {is : List Nat} (hC : ∀ p ∈ [.modes, .pins, .regs, .atts, .mesh, .routers, .events, .counts, .cox], K.c p) (hK : K.P s) :
    K.P (State.pump n is s) := by
  induction n generalizing is s with
  | zero => exact hK
  | succ n ih =>
    cases is with
    | nil => exact hK
    | cons i is =>
      unfold State.pump
      split
      · exact ih hK
      · exact ih (State.switchMove_kept (K.sub hC rfl) hK)

theorem State.runSwitch_kept {i : Nat} (hC : ∀ p ∈ [.modes, .pins, .regs, .atts, .mesh, .routers, .events, .counts, .cox], K.c p) (hK : K.P s) : K.P (s.runSwitch i) := by
  unfold State.runSwitch; try dsimp only
  with_reducible (repeat' first | assumption | exact K.sub hC rfl | apply State.pump_kept | exact hC _ (by decide))

theorem State.queueRec_kept {u : QUnit} (hC : ∀ p ∈ [.regs, .slices], K.c p) (hK : K.P s) : K.P (s.queueRec u) := by
  unfold State.queueRec; try dsimp only
  with_reducible (repeat' first | assumption | exact K.sub hC rfl | apply State.classRec_kept | apply State.sliceErr_kept | exact hC _ (by decide) | split)

theorem State.underrun_kept {u : QUnit} {q : Nat} (hC : ∀ p ∈ [.modes, .pins, .regs, .atts, .slices, .mesh, .events, .counts, .cox], K.c p) (hK : K.P s) : K.P (s.underrun u q) := by
  unfold State.underrun; try dsimp only
  with_reducible (repeat' first | assumption | exact K.sub hC rfl | apply State.fatal_kept | apply State.queueNote_kept | apply State.queueRec_kept | apply Kept.ite | exact hC _ (by decide))

theorem State.gapNote_kept {u : QUnit} {q : Nat} (hC : ∀ p ∈ [.regs, .slices], K.c p) (hK : K.P s) : K.P (s.gapNote u q) := by
  unfold State.gapNote; try dsimp only
  with_reducible (repeat' first | assumption | exact K.sub hC rfl | apply State.queueNote_kept | apply State.queueRec_kept | exact hC _ (by decide))

theorem State.setCross_kept {u : QUnit} {q : Nat} {c : Cross} (hC : ∀ p ∈ [.mesh], K.c p) (hK : K.P s) : K.P (s.setCross u q c) := by
  unfold State.setCross; try dsimp only
  with_reducible (repeat' first | assumption | exact K.sub hC rfl | exact hC _ (by decide) | exact Or.inl (hC _ (by decide)) | exact Or.inr rfl | rfl | (simp; done) | dsimp only | apply Kept.upd)

theorem State.crossIn_kept {u : QUnit} {q : Nat} (hC : ∀ p ∈ [.mesh], K.c p) (hK : K.P s) : K.P (s.crossIn u q) := by
  unfold State.crossIn; try dsimp only
  with_reducible (repeat' first | assumption | exact K.sub hC rfl | apply State.setCross_kept | exact hC _ (by decide))

theorem State.crossOut_kept {u : QUnit} {q : Nat} (hC : ∀ p ∈ [.mesh], K.c p) (hK : K.P s) : K.P (s.crossOut u q) := by
  unfold State.crossOut; try dsimp only
  with_reducible (repeat' first | assumption | exact K.sub hC rfl | apply State.setCross_kept | exact hC _ (by decide))

theorem State.crossing_kept {u : QUnit} {q : Nat} (hC : ∀ p ∈ [.mesh], K.c p) (hK : K.P s) : K.P (s.crossing u q) := by
  unfold State.crossing; try dsimp only
  with_reducible (repeat' first | assumption | exact K.sub hC rfl | apply State.crossIn_kept | apply State.crossOut_kept | exact hC _ (by decide))

theorem State.followTo_kept {d : Nat} {t : Nat} (hC : ∀ p ∈ [.mesh], K.c p) (hK : K.P s) : K.P (s.followTo d t) := by
  unfold State.followTo; try dsimp only
  with_reducible (repeat' first | assumption | exact K.sub hC rfl | apply Kept.ite | exact hC _ (by decide) | exact Or.inl (hC _ (by decide)) | exact Or.inr rfl | rfl | (simp; done) | dsimp only | apply Kept.upd)

theorem State.crossReset_kept {u : QUnit} {q : Nat} (hC : ∀ p ∈ [.mesh], K.c p) (hK : K.P s) : K.P (s.crossReset u q) := by
  unfold State.crossReset; try dsimp only
  with_reducible (repeat' first | assumption | exact K.sub hC rfl | apply State.setCross_kept | exact hC _ (by decide))

end Sys2Proof.Machine
end

