-- ==== Sys2Proof/Laws/KeptEdge.lean ====
section
/-! SUPPORT. What the operations of Machine/Edge.lean can write (see Laws/Kept.lean): each lemma lists the parts. -/

namespace Sys2Proof.Machine

set_option linter.unusedTactic false
set_option linter.unreachableTactic false

variable {K : Kept} {s : State}

theorem State.toNew_kept {r : Req} (hC : ∀ p ∈ [.slices, .mesh], K.c p) (hK : K.P s) : K.P (s.toNew r) := by
  unfold State.toNew; try dsimp only
  with_reducible (repeat' first | assumption | exact K.sub hC rfl | intro _ | apply State.inject_kept | apply State.modSl_kept | apply Kept.ite | exact hC _ (by decide) | dsimp only)

theorem State.toWb_kept {r : Req} (hC : ∀ p ∈ [.slices, .mesh], K.c p) (hK : K.P s) : K.P (s.toWb r) := by
  unfold State.toWb; try dsimp only
  with_reducible (repeat' first | assumption | exact K.sub hC rfl | intro _ | apply State.inject_kept | apply State.modSl_kept | exact hC _ (by decide) | dsimp only)

theorem State.toRsp_kept {i : SliceId} {m : RspMsg} (hC : ∀ p ∈ [.slices], K.c p) (hK : K.P s) : K.P (s.toRsp i m) := by
  unfold State.toRsp; try dsimp only
  with_reducible (repeat' first | assumption | exact K.sub hC rfl | apply State.modSl_kept | exact hC _ (by decide))

theorem State.toInt_kept {i : SliceId} {m : IntMsg} (hC : ∀ p ∈ [.slices], K.c p) (hK : K.P s) : K.P (s.toInt i m) := by
  unfold State.toInt; try dsimp only
  with_reducible (repeat' first | assumption | exact K.sub hC rfl | apply State.modSl_kept | exact hC _ (by decide))

theorem State.freeBuf_kept {k : AttId} {b : Option (BitVec 5)} (hC : ∀ p ∈ [.atts], K.c p) (hK : K.P s) : K.P (s.freeBuf k b) := by
  unfold State.freeBuf; try dsimp only
  with_reducible (repeat' first | assumption | exact K.sub hC rfl | apply State.giveBack_kept | apply State.modAtt_kept | exact hC _ (by decide) | split)

theorem State.retReq_kept {k : AttId} (hC : ∀ p ∈ [.atts], K.c p) (hK : K.P s) : K.P (s.retReq k) := by
  unfold State.retReq; try dsimp only
  with_reducible (repeat' first | assumption | exact K.sub hC rfl | apply State.giveBack_kept | exact hC _ (by decide))

theorem State.retRwd_kept {k : AttId} (hC : ∀ p ∈ [.atts], K.c p) (hK : K.P s) : K.P (s.retRwd k) := by
  unfold State.retRwd; try dsimp only
  with_reducible (repeat' first | assumption | exact K.sub hC rfl | apply State.giveBack_kept | exact hC _ (by decide))

theorem State.dropReq_kept {r : Req} (hC : ∀ p ∈ [.atts], K.c p) (hK : K.P s) : K.P (s.dropReq r) := by
  unfold State.dropReq; try dsimp only
  with_reducible (repeat' first | assumption | exact K.sub hC rfl | apply State.freeBuf_kept | apply State.retReq_kept | apply Kept.ite | exact hC _ (by decide))

theorem State.takeBuf_kept {k : AttId} {q : ReqHdr} {w : WrData} {snoop : Bool} (hC : ∀ p ∈ [.atts], K.c p) (hK : K.P s) : K.P (s.takeBuf k q w snoop).1 := by
  unfold State.takeBuf; try dsimp only
  with_reducible (repeat' first | assumption | exact K.sub hC rfl | apply State.modAtt_kept | exact hC _ (by decide) | split)

theorem State.edgeRetry_kept {r : Req} (hC : ∀ p ∈ [.regs, .atts, .slices, .mesh, .events, .cnts], K.c p) (hK : K.P s) : K.P (s.edgeRetry r) := by
  unfold State.edgeRetry; try dsimp only
  with_reducible (repeat' first | assumption | exact K.sub hC rfl | apply State.count_kept | apply State.dropReq_kept | apply State.egNdr_kept | apply State.incF_kept | exact hC _ (by decide))

theorem State.bounceAt_kept {k : AttId} {b : Bounced} (hC : ∀ p ∈ [.regs, .slices, .mesh, .events, .cnts], K.c p) (hK : K.P s) : K.P (s.bounceAt k b) := by
  unfold State.bounceAt; try dsimp only
  with_reducible (repeat' first | assumption | exact K.sub hC rfl | apply State.attBounced_kept | exact hC _ (by decide) | exact .inr rfl | exact .inl (hC _ (by decide)) | rfl | (simp; done) | apply Kept.upd)

theorem State.sendSweep_kept {m : PortId} {f : JoinedFence} (hC : ∀ p ∈ [.regs, .ports, .mesh], K.c p) (hK : K.P s) : K.P (s.sendSweep m f) := by
  unfold State.sendSweep; try dsimp only
  with_reducible (repeat' first | assumption | exact K.sub hC rfl | intro _ | apply State.inject_kept | apply State.modMp_kept | apply State.mpBounced_kept | apply Kept.ite | exact hC _ (by decide) | exact Or.inl (hC _ (by decide)) | exact Or.inr rfl | rfl | (simp; done) | dsimp only | apply Kept.upd)

theorem State.freeEntry0_kept {k : AttId} {a : AgentId} {t : BitVec 16} (hC : ∀ p ∈ [.atts], K.c p) (hK : K.P s) : K.P (s.freeEntry0 k a t) := by
  unfold State.freeEntry0; try dsimp only
  with_reducible (repeat' first | assumption | exact K.sub hC rfl | intro _ | apply State.modAtt_kept | exact hC _ (by decide) | split | dsimp only)

theorem State.edgeError_kept {r : Req} (hC : ∀ p ∈ [.atts], K.c p) (hK : K.P s) : K.P (s.edgeError r) := by
  unfold State.edgeError; try dsimp only
  with_reducible (repeat' first | assumption | exact K.sub hC rfl | apply State.dropReq_kept | apply State.egNdr_kept | apply State.freeEntry0_kept | exact hC _ (by decide))

theorem State.fenceTake_kept {k : AttId} {i : Nat} {r : Req} (hC : ∀ p ∈ [.regs, .atts, .slices, .ports, .mesh, .events, .cnts], K.c p) (hK : K.P s) : K.P (s.fenceTake k i r) := by
  unfold State.fenceTake; try dsimp only
  with_reducible (repeat' first | assumption | exact K.sub hC rfl | intro _ | apply State.count_kept | apply State.modAtt_kept | apply State.retReq_kept | apply State.sendSweep_kept | apply Kept.fold | apply Kept.fold_fst | exact hC _ (by decide) | dsimp only)

theorem State.passIn_kept {r : Req} (hC : ∀ p ∈ [.regs, .atts, .slices, .ports, .mesh, .events, .cnts], K.c p) (hK : K.P s) : K.P (s.passIn r) := by
  unfold State.passIn; try dsimp only
  with_reducible (repeat' first | assumption | exact K.sub hC rfl | intro _ | apply State.dropReq_kept | apply State.edgeError_kept | apply State.egNdr_kept | apply State.fenceTake_kept | apply State.inject_kept | apply State.modAtt_kept | apply State.refuse_kept | apply State.retReq_kept | apply State.toNew_kept | apply Kept.ite | exact hC _ (by decide) | split | dsimp only)

theorem State.enterOrder_kept {r : Req} (hC : ∀ p ∈ [.regs, .atts, .slices, .ports, .mesh, .events, .cnts], K.c p) (hK : K.P s) : K.P (s.enterOrder r) := by
  unfold State.enterOrder; try dsimp only
  with_reducible (repeat' first | assumption | exact K.sub hC rfl | apply State.count_kept | apply State.edgeRetry_kept | apply State.modAtt_kept | apply State.passIn_kept | apply Kept.ite | exact hC _ (by decide))

theorem State.pullLoop_kept {n : Nat} {k : AttId} (hC : ∀ p ∈ [.regs, .atts, .slices, .ports, .mesh, .events, .cnts], K.c p) (hK : K.P s) :
    K.P (State.pullLoop n k s) := by
  induction n generalizing s with
  | zero => exact hK
  | succ n ih =>
    unfold State.pullLoop; dsimp only
    split
    · exact hK
    · refine Kept.ite hK (ih (Kept.ite ?_ ?_))
      · exact State.edgeRetry_kept (K.sub hC rfl) (State.modAtt_kept (K.sub hC rfl) hK)
      · exact State.enterOrder_kept (K.sub hC rfl) (State.modAtt_kept (K.sub hC rfl) hK)

theorem State.pullWait_kept {k : AttId} (hC : ∀ p ∈ [.regs, .atts, .slices, .ports, .mesh, .events, .cnts], K.c p) (hK : K.P s) : K.P (s.pullWait k) := by
  unfold State.pullWait; try dsimp only
  with_reducible (repeat' first | assumption | exact K.sub hC rfl | apply State.pullLoop_kept | exact hC _ (by decide))

theorem State.freeEntry_kept {k : AttId} {a : AgentId} {t : BitVec 16} (hC : ∀ p ∈ [.regs, .atts, .slices, .ports, .mesh, .events, .cnts], K.c p) (hK : K.P s) : K.P (s.freeEntry k a t) := by
  unfold State.freeEntry; try dsimp only
  with_reducible (repeat' first | assumption | exact K.sub hC rfl | apply State.freeEntry0_kept | apply State.pullWait_kept | exact hC _ (by decide) | split)

theorem State.performPart_kept {k : AttId} {a : AgentId} {t : BitVec 16} {parts : BitVec 2} (hC : ∀ p ∈ [.regs, .atts, .slices, .ports, .mesh, .events, .cnts], K.c p) (hK : K.P s) : K.P (s.performPart k a t parts) := by
  unfold State.performPart; try dsimp only
  with_reducible (repeat' first | assumption | exact K.sub hC rfl | apply State.freeEntry_kept | apply State.modAtt_kept | apply Kept.ite | exact hC _ (by decide) | split)

theorem State.complete_kept {k : AttId} {n : Ndr} (hC : ∀ p ∈ [.regs, .atts, .slices, .ports, .mesh, .events, .cnts], K.c p) (hK : K.P s) : K.P (s.complete k n) := by
  unfold State.complete; try dsimp only
  with_reducible (repeat' first | assumption | exact K.sub hC rfl | apply State.egNdr_kept | apply State.performPart_kept | exact hC _ (by decide))

theorem State.sendNdrMsg_kept {i : SliceId} {k : AttId} {n : Ndr} (hC : ∀ p ∈ [.mesh], K.c p) (hK : K.P s) : K.P (s.sendNdrMsg i k n) := by
  unfold State.sendNdrMsg; try dsimp only
  with_reducible (repeat' first | assumption | exact K.sub hC rfl | apply State.inject_kept | exact hC _ (by decide))

theorem State.deliver_kept {i : SliceId} {k : AttId} {n : Ndr} (hC : ∀ p ∈ [.regs, .atts, .slices, .ports, .mesh, .events, .cnts], K.c p) (hK : K.P s) : K.P (s.deliver i k n) := by
  unfold State.deliver; try dsimp only
  with_reducible (repeat' first | assumption | exact K.sub hC rfl | apply State.bounceAt_kept | apply State.complete_kept | apply State.sendNdrMsg_kept | apply Kept.ite | exact hC _ (by decide))

theorem State.routeNdr_kept {i : SliceId} {k : AttId} {n : Ndr} (hC : ∀ p ∈ [.regs, .atts, .slices, .mesh, .events, .cnts], K.c p) (hK : K.P s) : K.P (s.routeNdr i k n) := by
  unfold State.routeNdr; try dsimp only
  with_reducible (repeat' first | assumption | exact K.sub hC rfl | apply State.bounceAt_kept | apply State.egNdr_kept | apply State.sendNdrMsg_kept | apply Kept.ite | exact hC _ (by decide))

theorem State.routeBisnp_kept {i : SliceId} {k : AttId} {b : Bisnp} (hC : ∀ p ∈ [.regs, .atts, .slices, .mesh, .events, .cnts], K.c p) (hK : K.P s) : K.P (s.routeBisnp i k b) := by
  unfold State.routeBisnp; try dsimp only
  with_reducible (repeat' first | assumption | exact K.sub hC rfl | apply State.bounceAt_kept | apply State.egBisnp_kept | apply State.inject_kept | apply Kept.ite | exact hC _ (by decide))

theorem State.routePull_kept {k : AttId} {p : Pull} (hC : ∀ p ∈ [.regs, .atts, .slices, .mesh, .events, .cnts], K.c p) (hK : K.P s) : K.P (s.routePull k p) := by
  unfold State.routePull; try dsimp only
  with_reducible (repeat' first | assumption | exact K.sub hC rfl | intro _ | apply State.bounceAt_kept | apply State.inject_kept | apply State.modAtt_kept | apply Kept.ite | apply Kept.getD | exact hC _ (by decide) | dsimp only)

theorem State.fenceCmp_kept {k : AttId} {f : FenceEntry} {err : Bool} (hC : ∀ p ∈ [.regs, .atts, .slices, .ports, .mesh, .events, .cnts], K.c p) (hK : K.P s) : K.P (s.fenceCmp k f err) := by
  unfold State.fenceCmp; try dsimp only
  with_reducible (repeat' first | assumption | exact K.sub hC rfl | apply State.complete_kept | apply State.count_kept | apply State.incF_kept | apply State.maxF_kept | apply Kept.ite | exact hC _ (by decide))

theorem State.acceptConflict_kept {r : Req} (hC : ∀ p ∈ [.atts, .slices, .mesh], K.c p) (hK : K.P s) : K.P (s.acceptConflict r) := by
  unfold State.acceptConflict; try dsimp only
  with_reducible (repeat' first | assumption | exact K.sub hC rfl | apply State.egNdr_kept | apply State.inject_kept | apply State.retReq_kept | apply State.toRsp_kept | exact hC _ (by decide) | split)

theorem State.acceptOrdered_kept {r : Req} (hC : ∀ p ∈ [.regs, .atts, .slices, .ports, .mesh, .events, .cnts], K.c p) (hK : K.P s) : K.P (s.acceptOrdered r) := by
  unfold State.acceptOrdered; try dsimp only
  with_reducible (repeat' first | assumption | exact K.sub hC rfl | apply State.enterOrder_kept | apply State.modAtt_kept | apply Kept.ite | exact hC _ (by decide))

theorem State.acceptChecked_kept {r : Req} {w : WrData} (hC : ∀ p ∈ [.regs, .atts, .slices, .ports, .mesh, .events, .cnts], K.c p) (hK : K.P s) : K.P (s.acceptChecked r w) := by
  unfold State.acceptChecked; try dsimp only
  with_reducible (repeat' first | assumption | exact K.sub hC rfl | apply State.acceptOrdered_kept | apply State.count_kept | apply State.edgeRetry_kept | apply State.egNdr_kept | apply State.incF_kept | apply State.retReq_kept | apply State.retRwd_kept | apply State.takeBuf_kept | apply State.toWb_kept | apply Kept.ite | exact hC _ (by decide) | split | refine Kept.of_pair ?_ ‹_›)

theorem State.arrivalError_kept {op : Op} {la : AttId} {q : ReqHdr} {f : AttId → Fld} (hC : ∀ p ∈ [.regs, .atts, .slices, .mesh, .events, .cnts], K.c p) (hK : K.P s) : K.P (s.arrivalError op la q f) := by
  unfold State.arrivalError; try dsimp only
  with_reducible (repeat' first | assumption | exact K.sub hC rfl | apply State.egNdr_kept | apply State.refuse_kept | apply State.retReq_kept | apply State.retRwd_kept | apply Kept.ite | exact hC _ (by decide))

theorem State.takeCredit_kept {rwd : Bool} {la : AttId} (hC : ∀ p ∈ [.atts, .mesh], K.c p) (hK : K.P s) : K.opt (s.takeCredit rwd la) := by
  unfold State.takeCredit; try dsimp only
  with_reducible (repeat' first | assumption | exact K.sub hC rfl | apply State.crossing_kept | apply State.giveBack_kept | apply Kept.att | apply Kept.ite | apply Kept.opt_ite | apply Kept.opt_some | apply Kept.opt_none | exact hC _ (by decide) | refine Kept.of_some ?_ ‹_›)

theorem State.accept_kept {op : Op} {la : AttId} {q : ReqHdr} {w : WrData} (hC : ∀ p ∈ [.modes, .pins, .regs, .atts, .slices, .ports, .mesh, .events, .counts, .cnts, .cox], K.c p) (hK : K.P s) : K.P (s.accept op la q w) := by
  unfold State.accept; try dsimp only
  with_reducible (repeat' first | assumption | exact K.sub hC rfl | apply State.acceptChecked_kept | apply State.acceptConflict_kept | apply State.arrivalError_kept | apply State.count_kept | apply State.fatal_kept | apply State.refuse_kept | apply State.retReq_kept | apply State.retRwd_kept | apply State.takeCredit_kept | apply Kept.ite | exact hC _ (by decide) | split | refine Kept.of_some ?_ ‹_›)

theorem request_kept {op : Op} {la : AttId} {q : ReqHdr} {w : WrData} (hC : ∀ p ∈ [.modes, .pins, .regs, .atts, .slices, .ports, .mesh, .events, .counts, .cnts, .cox], K.c p) (hK : K.P s) : K.out (request op la q w s) := by
  unfold request; try dsimp only
  with_reducible (repeat' first | assumption | exact K.sub hC rfl | apply State.accept_kept | apply Kept.ite | apply Kept.out_ite | apply Kept.out_next | apply Kept.out_fault | exact hC _ (by decide))

theorem State.calSample_kept {i : SliceId} {a : AgentId} {rtt : Nat} {arrived : Nat} (hC : ∀ p ∈ [.regs, .slices, .mesh], K.c p) (hK : K.P s) : K.P (s.calSample i a rtt arrived) := by
  unfold State.calSample; try dsimp only
  with_reducible (repeat' first | assumption | exact K.sub hC rfl | intro _ | apply State.gapNote_kept | apply State.incF_kept | apply State.inject_kept | apply State.modSl_kept | apply Kept.ite | exact hC _ (by decide) | dsimp only)

theorem State.joinFail_kept {a : AgentId} (hC : ∀ p ∈ [.agents], K.c p) (hK : K.P s) : K.P (s.joinFail a) := by
  unfold State.joinFail; try dsimp only
  with_reducible (repeat' first | assumption | exact K.sub hC rfl | apply State.modAgent_kept | exact hC _ (by decide))

theorem State.probeAnswer_kept {a : AgentId} {op : RspOp} {h : BitVec 16} {j : JoinProbe} (hC : ∀ p ∈ [.regs, .agents, .slices, .mesh], K.c p) (hK : K.P s) : K.P (s.probeAnswer a op h j) := by
  unfold State.probeAnswer; try dsimp only
  with_reducible (repeat' first | assumption | exact K.sub hC rfl | intro _ | apply State.calSample_kept | apply State.joinFail_kept | apply State.modAgent_kept | apply Kept.ite | exact hC _ (by decide) | split | dsimp only)

theorem State.birsp_kept {la : AttId} {op : RspOp} {a : AgentId} {h : BitVec 16} {l : Line} (hC : ∀ p ∈ [.modes, .pins, .regs, .agents, .atts, .slices, .mesh, .events, .counts, .cnts, .cox], K.c p) (hK : K.P s) : K.P (s.birsp la op a h l) := by
  unfold State.birsp; try dsimp only
  with_reducible (repeat' first | assumption | exact K.sub hC rfl | intro _ | apply State.count_kept | apply State.crossing_kept | apply State.fatal_kept | apply State.inject_kept | apply State.modAtt_kept | apply State.probeAnswer_kept | apply State.refuse_kept | apply State.toRsp_kept | apply Kept.ite | apply Kept.getD | exact hC _ (by decide) | split | dsimp only)

theorem State.eack_kept {la : AttId} {a : AgentId} {h : BitVec 16} (hC : ∀ p ∈ [.modes, .pins, .regs, .atts, .slices, .mesh, .events, .counts, .cnts, .cox], K.c p) (hK : K.P s) : K.P (s.eack la a h) := by
  unfold State.eack; try dsimp only
  with_reducible (repeat' first | assumption | exact K.sub hC rfl | apply State.count_kept | apply State.crossing_kept | apply State.fatal_kept | apply State.inject_kept | apply State.refuse_kept | apply State.toRsp_kept | apply Kept.ite | apply Kept.getD | exact hC _ (by decide))

theorem State.retryLeft_kept {k : AttId} {n : Ndr} (hC : ∀ p ∈ [.regs, .atts, .slices, .ports, .mesh, .events, .cnts], K.c p) (hK : K.P s) : K.P (s.retryLeft k n) := by
  unfold State.retryLeft; try dsimp only
  with_reducible (repeat' first | assumption | exact K.sub hC rfl | intro _ | apply State.edgeRetry_kept | apply State.modAtt_kept | apply State.pullWait_kept | apply Kept.ite | apply Kept.fold | apply Kept.fold_fst | exact hC _ (by decide) | split)

theorem State.snoopLeft_kept {k : AttId} {b : Bisnp} (hC : ∀ p ∈ [.regs, .atts, .slices, .ports, .mesh, .events, .cnts], K.c p) (hK : K.P s) : K.P (s.snoopLeft k b) := by
  unfold State.snoopLeft; try dsimp only
  with_reducible (repeat' first | assumption | exact K.sub hC rfl | intro _ | apply State.modAtt_kept | apply State.pullWait_kept | apply State.toWb_kept | apply Kept.ite | apply Kept.fold | apply Kept.fold_fst | exact hC _ (by decide) | split)

theorem State.partLeft_kept {h : BitVec 16} {a : AgentId} (hC : ∀ p ∈ [.slices], K.c p) (hK : K.P s) : K.P (s.partLeft h a) := by
  unfold State.partLeft; try dsimp only
  with_reducible (repeat' first | assumption | exact K.sub hC rfl | apply State.modSl_kept | apply Kept.ite | exact hC _ (by decide) | split)

theorem State.sendNdr_kept {k : AttId} (hC : ∀ p ∈ [.regs, .atts, .slices, .ports, .mesh, .events, .cnts], K.c p) (hK : K.P s) : K.P (s.sendNdr k) := by
  unfold State.sendNdr; try dsimp only
  with_reducible (repeat' first | assumption | exact K.sub hC rfl | apply State.count_kept | apply State.crossing_kept | apply State.partLeft_kept | apply State.retryLeft_kept | apply Kept.att | apply Kept.ite | exact hC _ (by decide) | split)

theorem State.sendDrs_kept {k : AttId} (hC : ∀ p ∈ [.atts, .slices, .mesh, .events, .cnts], K.c p) (hK : K.P s) : K.P (s.sendDrs k) := by
  unfold State.sendDrs; try dsimp only
  with_reducible (repeat' first | assumption | exact K.sub hC rfl | apply State.count_kept | apply State.crossing_kept | apply State.partLeft_kept | apply Kept.att | apply Kept.ite | exact hC _ (by decide) | split)

theorem State.sendBisnp_kept {k : AttId} (hC : ∀ p ∈ [.regs, .atts, .slices, .ports, .mesh, .events, .cnts], K.c p) (hK : K.P s) : K.P (s.sendBisnp k) := by
  unfold State.sendBisnp; try dsimp only
  with_reducible (repeat' first | assumption | exact K.sub hC rfl | intro _ | apply State.count_kept | apply State.crossing_kept | apply State.snoopLeft_kept | apply Kept.att | apply Kept.ite | exact hC _ (by decide) | split | dsimp only)

end Sys2Proof.Machine
end

