-- ==== Sys2Proof/Laws/KeptSlice.lean ====
section
/-! SUPPORT. What the operations of Machine/Slice.lean can write (see Laws/Kept.lean): each lemma lists the parts. -/

namespace Sys2Proof.Machine

set_option linter.unusedTactic false
set_option linter.unreachableTactic false

variable {K : Kept} {s : State}

theorem State.kickEsc_kept {i : SliceId} (hC : ∀ p ∈ [.slices], K.c p) (hK : K.P s) : K.P (s.kickEsc i) := by
  unfold State.kickEsc; try dsimp only
  with_reducible (repeat' first | assumption | exact K.sub hC rfl | apply State.modSl_kept | apply Kept.ite | exact hC _ (by decide))

theorem State.joinScan_kept {i : SliceId} (hC : ∀ p ∈ [.slices], K.c p) (hK : K.P s) : K.P (s.joinScan i) := by
  unfold State.joinScan; try dsimp only
  with_reducible (repeat' first | assumption | exact K.sub hC rfl | apply State.modSl_kept | apply Kept.ite | exact hC _ (by decide))

theorem State.sweepOff_kept {a : AgentId} (hC : ∀ p ∈ [.agents, .slices, .mesh, .events], K.c p) (hK : K.P s) : K.P (s.sweepOff a) := by
  unfold State.sweepOff; try dsimp only
  with_reducible (repeat' first | assumption | exact K.sub hC rfl | intro _ | apply State.fire_kept | apply State.joinScan_kept | apply State.modAgent_kept | apply State.modSl_kept | apply Kept.ite | apply Kept.fold | apply Kept.fold_fst | exact hC _ (by decide))

theorem State.sweepOn_kept {a : AgentId} (hC : ∀ p ∈ [.agents, .slices, .hmap], K.c p) (hK : K.P s) : K.P (s.sweepOn a) := by
  unfold State.sweepOn; try dsimp only
  with_reducible (repeat' first | assumption | exact K.sub hC rfl | intro _ | apply State.joinScan_kept | apply State.modAgent_kept | apply State.modSl_kept | apply Kept.ite | apply Kept.fold | apply Kept.fold_fst | exact hC _ (by decide) | exact Or.inl (hC _ (by decide)) | exact Or.inr rfl | rfl | (simp; done) | dsimp only | apply Kept.upd)

theorem State.depart_kept {a : AgentId} {fenced : Bool} (hC : ∀ p ∈ [.regs, .agents, .slices, .hmap], K.c p) (hK : K.P s) : K.P (s.depart a fenced) := by
  unfold State.depart; try dsimp only
  with_reducible (repeat' first | assumption | exact K.sub hC rfl | apply State.modAgent_kept | apply State.sweepOn_kept | apply State.wrapF_kept | apply Kept.ite | exact hC _ (by decide))

theorem State.heldUp_kept {a : AgentId} (hC : ∀ p ∈ [.agents], K.c p) (hK : K.P s) : K.P (s.heldUp a) := by
  unfold State.heldUp; try dsimp only
  with_reducible (repeat' first | assumption | exact K.sub hC rfl | apply State.modAgent_kept | exact hC _ (by decide))

theorem State.heldDown_kept {a : AgentId} (hC : ∀ p ∈ [.agents, .slices, .mesh, .events], K.c p) (hK : K.P s) : K.P (s.heldDown a) := by
  unfold State.heldDown; try dsimp only
  with_reducible (repeat' first | assumption | exact K.sub hC rfl | apply State.modAgent_kept | apply State.sweepOff_kept | apply Kept.ite | exact hC _ (by decide))

theorem State.heldDiff_kept {old : List AgentId} {new : List AgentId} (hC : ∀ p ∈ [.agents, .slices, .mesh, .events], K.c p) (hK : K.P s) : K.P (s.heldDiff old new) := by
  unfold State.heldDiff; try dsimp only
  with_reducible (repeat' first | assumption | exact K.sub hC rfl | intro _ | apply State.heldDown_kept | apply State.heldUp_kept | apply Kept.fold | apply Kept.fold_fst | exact hC _ (by decide))

theorem State.sendCmd_kept {c : MemCmd} (hC : ∀ p ∈ [.regs, .ports, .mesh], K.c p) (hK : K.P s) : K.P (s.sendCmd c) := by
  unfold State.sendCmd; try dsimp only
  with_reducible (repeat' first | assumption | exact K.sub hC rfl | intro _ | apply State.inject_kept | apply State.modMp_kept | apply State.mpBounced_kept | apply Kept.ite | apply Kept.getD | exact hC _ (by decide) | exact Or.inl (hC _ (by decide)) | exact Or.inr rfl | rfl | (simp; done) | dsimp only | apply Kept.upd)

theorem State.rptTo_kept {i : SliceId} {r : PortRpt} (hC : ∀ p ∈ [.slices, .mesh], K.c p) (hK : K.P s) : K.P (s.rptTo i r) := by
  unfold State.rptTo; try dsimp only
  with_reducible (repeat' first | assumption | exact K.sub hC rfl | apply State.inject_kept | apply State.toInt_kept | apply Kept.getD | exact hC _ (by decide))

theorem State.nextTag_kept {i : SliceId} (hC : ∀ p ∈ [.slices], K.c p) (hK : K.P s) : K.P (s.nextTag i).1 := by
  unfold State.nextTag; try dsimp only
  with_reducible (repeat' first | assumption | exact K.sub hC rfl | apply State.modSl_kept | exact hC _ (by decide))

theorem State.poison_kept {i : SliceId} {l : Line} {h : Option (BitVec 16)} (hC : ∀ p ∈ [.regs, .slices, .ports, .mesh], K.c p) (hK : K.P s) : K.P (s.poison i l h).1 := by
  unfold State.poison; try dsimp only
  with_reducible (repeat' first | assumption | exact K.sub hC rfl | apply State.classPsn_kept | apply State.loseRsv_kept | apply State.nextTag_kept | apply State.sendCmd_kept | exact hC _ (by decide) | split | refine Kept.of_pair ?_ ‹_›)

theorem State.sendCast_kept {c : CastCmd} (hC : ∀ p ∈ [.regs, .ports, .mesh], K.c p) (hK : K.P s) : K.P (s.sendCast c) := by
  unfold State.sendCast; try dsimp only
  with_reducible (repeat' first | assumption | exact K.sub hC rfl | intro _ | apply State.inject_kept | apply State.modMp_kept | apply State.mpBounced_kept | apply Kept.ite | apply Kept.getD | exact hC _ (by decide) | exact Or.inl (hC _ (by decide)) | exact Or.inr rfl | rfl | (simp; done) | dsimp only | apply Kept.upd)

theorem State.castGo_kept {i : SliceId} {c : CastCmd} (hC : ∀ p ∈ [.regs, .slices, .ports, .mesh], K.c p) (hK : K.P s) : K.P (s.castGo i c) := by
  unfold State.castGo; try dsimp only
  with_reducible (repeat' first | assumption | exact K.sub hC rfl | intro _ | apply State.modSl_kept | apply State.sendCast_kept | apply Kept.ite | exact hC _ (by decide) | dsimp only)

theorem State.castRead_kept {i : SliceId} {t : Nat} {a : Line} (hC : ∀ p ∈ [.regs, .slices, .ports, .mesh], K.c p) (hK : K.P s) : K.P (s.castRead i t a) := by
  unfold State.castRead; try dsimp only
  with_reducible (repeat' first | assumption | exact K.sub hC rfl | intro _ | apply State.castGo_kept | apply State.modSl_kept | apply Kept.ite | exact hC _ (by decide) | dsimp only)

theorem State.scanRead_kept {i : SliceId} {k : Nat} {a : Line} (hC : ∀ p ∈ [.regs, .slices, .ports, .mesh], K.c p) (hK : K.P s) : K.P (s.scanRead i k a) := by
  unfold State.scanRead; try dsimp only
  with_reducible (repeat' first | assumption | exact K.sub hC rfl | intro _ | apply State.castRead_kept | apply State.modSl_kept | exact hC _ (by decide) | dsimp only)

theorem State.castWrite_kept {i : SliceId} {t : Nat} {a : Line} {d : LineData} (hC : ∀ p ∈ [.regs, .slices, .ports, .mesh], K.c p) (hK : K.P s) : K.P (s.castWrite i t a d) := by
  unfold State.castWrite; try dsimp only
  with_reducible (repeat' first | assumption | exact K.sub hC rfl | intro _ | apply State.castGo_kept | apply State.modSl_kept | apply Kept.ite | apply Kept.getD | exact hC _ (by decide) | dsimp only)

theorem State.castOver_kept {i : SliceId} {t : Nat} {a : Line} {d : LineData} (hC : ∀ p ∈ [.regs, .slices, .ports, .mesh], K.c p) (hK : K.P s) : K.P (s.castOver i t a d) := by
  unfold State.castOver; try dsimp only
  with_reducible (repeat' first | assumption | exact K.sub hC rfl | intro _ | apply State.castGo_kept | apply State.modSl_kept | apply Kept.ite | exact hC _ (by decide) | dsimp only)

theorem State.castNext_kept {i : SliceId} {a : Line} (hC : ∀ p ∈ [.regs, .slices, .ports, .mesh], K.c p) (hK : K.P s) : K.P (s.castNext i a) := by
  unfold State.castNext; try dsimp only
  with_reducible (repeat' first | assumption | exact K.sub hC rfl | intro _ | apply State.castGo_kept | apply State.modSl_kept | apply Kept.ite | exact hC _ (by decide) | split | dsimp only)

theorem State.castFree_kept {i : SliceId} {t : Nat} {as : List Line} (hC : ∀ p ∈ [.regs, .slices, .ports, .mesh], K.c p) (hK : K.P s) : K.P (s.castFree i t as) := by
  unfold State.castFree; try dsimp only
  with_reducible (repeat' first | assumption | exact K.sub hC rfl | intro _ | apply State.castNext_kept | apply State.modSl_kept | apply Kept.fold | apply Kept.fold_fst | exact hC _ (by decide) | dsimp only)

theorem State.kickJobs_kept {i : SliceId} (hC : ∀ p ∈ [.slices], K.c p) (hK : K.P s) : K.P (s.kickJobs i) := by
  unfold State.kickJobs; try dsimp only
  with_reducible (repeat' first | assumption | exact K.sub hC rfl | apply State.modSl_kept | apply State.toInt_kept | exact hC _ (by decide) | split)

theorem State.kick_kept {i : SliceId} (hC : ∀ p ∈ [.slices], K.c p) (hK : K.P s) : K.P (s.kick i) := by
  unfold State.kick; try dsimp only
  with_reducible (repeat' first | assumption | exact K.sub hC rfl | apply State.kickEsc_kept | apply State.kickJobs_kept | apply Kept.sl | exact hC _ (by decide))

theorem State.probeAnnex_kept {i : SliceId} {t : Nat} {l : Line} (hC : ∀ p ∈ [.regs, .slices, .ports, .mesh], K.c p) (hK : K.P s) : K.P (s.probeAnnex i t l) := by
  unfold State.probeAnnex; try dsimp only
  with_reducible (repeat' first | assumption | exact K.sub hC rfl | intro _ | apply State.castRead_kept | apply Kept.fold | apply Kept.fold_fst | exact hC _ (by decide) | dsimp only)

theorem State.toBucket_kept {i : SliceId} {t : Nat} {b : Line} (hC : ∀ p ∈ [.regs, .slices, .ports, .mesh], K.c p) (hK : K.P s) : K.P (s.toBucket i t b) := by
  unfold State.toBucket; try dsimp only
  with_reducible (repeat' first | assumption | exact K.sub hC rfl | intro _ | apply State.castRead_kept | apply State.modSl_kept | exact hC _ (by decide) | dsimp only)

theorem State.startInsert_kept {i : SliceId} {t : Nat} (hC : ∀ p ∈ [.regs, .slices, .ports, .mesh], K.c p) (hK : K.P s) : K.P (s.startInsert i t) := by
  unfold State.startInsert; try dsimp only
  with_reducible (repeat' first | assumption | exact K.sub hC rfl | intro _ | apply State.modSl_kept | apply State.probeAnnex_kept | apply State.toBucket_kept | apply Kept.ite | exact hC _ (by decide) | split | dsimp only)

theorem State.nextInsert_kept {i : SliceId} (hC : ∀ p ∈ [.regs, .slices, .ports, .mesh], K.c p) (hK : K.P s) : K.P (s.nextInsert i) := by
  unfold State.nextInsert; try dsimp only
  with_reducible (repeat' first | assumption | exact K.sub hC rfl | apply State.startInsert_kept | apply Kept.ite | exact hC _ (by decide) | split)

theorem State.insertDone_kept {i : SliceId} (hC : ∀ p ∈ [.regs, .slices, .ports, .mesh], K.c p) (hK : K.P s) : K.P (s.insertDone i) := by
  unfold State.insertDone; try dsimp only
  with_reducible (repeat' first | assumption | exact K.sub hC rfl | apply State.modSl_kept | apply State.nextInsert_kept | exact hC _ (by decide))

theorem State.readPair_kept {i : SliceId} {t : Nat} {l : Line} (hC : ∀ p ∈ [.regs, .slices, .ports, .mesh], K.c p) (hK : K.P s) : K.P (s.readPair i t l) := by
  unfold State.readPair; try dsimp only
  with_reducible (repeat' first | assumption | exact K.sub hC rfl | apply State.castRead_kept | exact hC _ (by decide))

theorem State.recsAhead_kept {i : SliceId} {a : Line} {l : Line} {d : Int} (hC : ∀ p ∈ [.slices], K.c p) (hK : K.P s) : K.P (s.recsAhead i a l d) := by
  unfold State.recsAhead; try dsimp only
  with_reducible (repeat' first | assumption | exact K.sub hC rfl | intro _ | apply State.modSl_kept | apply Kept.ite | exact hC _ (by decide) | dsimp only)

theorem State.writeAnnex_kept {i : SliceId} {t : Nat} {e : Entry} {k : Nat} (hC : ∀ p ∈ [.regs, .slices, .ports, .mesh], K.c p) (hK : K.P s) : K.P (s.writeAnnex i t e k) := by
  unfold State.writeAnnex; try dsimp only
  with_reducible (repeat' first | assumption | exact K.sub hC rfl | intro _ | apply State.castWrite_kept | apply Kept.fold | apply Kept.fold_fst | exact hC _ (by decide))

theorem State.freeSlotK_kept {i : SliceId} {t : Nat} {l : Line} {k : Option Nat} (hC : ∀ p ∈ [.regs, .slices, .ports, .mesh], K.c p) (hK : K.P s) : K.P (s.freeSlotK i t l k) := by
  unfold State.freeSlotK; try dsimp only
  with_reducible (repeat' first | assumption | exact K.sub hC rfl | apply State.castWrite_kept | exact hC _ (by decide) | split)

theorem State.setHand_kept {i : SliceId} {t : Nat} {v : Transit} {e : Entry} {copied : Bool} (hC : ∀ p ∈ [.regs, .slices, .ports, .mesh], K.c p) (hK : K.P s) : K.P (s.setHand i t v e copied) := by
  unfold State.setHand; try dsimp only
  with_reducible (repeat' first | assumption | exact K.sub hC rfl | intro _ | apply State.freeSlotK_kept | apply State.modSl_kept | apply State.writeAnnex_kept | apply Kept.ite | exact hC _ (by decide) | split | dsimp only)

theorem State.stickyCheck_kept {i : SliceId} (hC : ∀ p ∈ [.slices, .mesh, .events], K.c p) (hK : K.P s) : K.P (s.stickyCheck i) := by
  unfold State.stickyCheck; try dsimp only
  with_reducible (repeat' first | assumption | exact K.sub hC rfl | apply State.evLevel_kept | apply State.modSl_kept | apply Kept.ite | exact hC _ (by decide))

theorem State.recordIn_kept {i : SliceId} {l : Line} (hC : ∀ p ∈ [.slices, .mesh, .events], K.c p) (hK : K.P s) : K.P (s.recordIn i l) := by
  unfold State.recordIn; try dsimp only
  with_reducible (repeat' first | assumption | exact K.sub hC rfl | intro _ | apply State.modSl_kept | apply State.stickyCheck_kept | exact hC _ (by decide) | dsimp only)

theorem State.recordOut_kept {i : SliceId} {l : Line} (hC : ∀ p ∈ [.slices, .mesh, .events], K.c p) (hK : K.P s) : K.P (s.recordOut i l) := by
  unfold State.recordOut; try dsimp only
  with_reducible (repeat' first | assumption | exact K.sub hC rfl | intro _ | apply State.modSl_kept | apply State.stickyCheck_kept | exact hC _ (by decide) | dsimp only)

theorem State.dropHand_kept {i : SliceId} {t : Nat} {v : Transit} (hC : ∀ p ∈ [.regs, .slices, .ports, .mesh, .events], K.c p) (hK : K.P s) : K.P (s.dropHand i t v) := by
  unfold State.dropHand; try dsimp only
  with_reducible (repeat' first | assumption | exact K.sub hC rfl | intro _ | apply State.freeSlotK_kept | apply State.insertDone_kept | apply State.kick_kept | apply State.modSl_kept | apply State.recordOut_kept | apply Kept.ite | exact hC _ (by decide) | dsimp only)

theorem State.updGone_kept {i : SliceId} {t : Nat} {v : Transit} (hC : ∀ p ∈ [.regs, .slices, .ports, .mesh], K.c p) (hK : K.P s) : K.P (s.updGone i t v) := by
  unfold State.updGone; try dsimp only
  with_reducible (repeat' first | assumption | exact K.sub hC rfl | intro _ | apply State.modSl_kept | apply State.readPair_kept | apply Kept.ite | exact hC _ (by decide) | dsimp only)

theorem State.deleteRec_kept {i : SliceId} {e : Entry} {res : Option Nat} (hC : ∀ p ∈ [.regs, .slices, .ports, .mesh, .events], K.c p) (hK : K.P s) : K.P (s.deleteRec i e res) := by
  unfold State.deleteRec; try dsimp only
  with_reducible (repeat' first | assumption | exact K.sub hC rfl | intro _ | apply State.dropHand_kept | apply State.modSl_kept | apply State.readPair_kept | apply State.updGone_kept | apply Kept.ite | exact hC _ (by decide) | split | dsimp only)

theorem State.updateRec_kept {i : SliceId} {t : Nat} {e : Entry} {copied : Bool} (hC : ∀ p ∈ [.regs, .slices, .ports, .mesh], K.c p) (hK : K.P s) : K.P (s.updateRec i t e copied) := by
  unfold State.updateRec; try dsimp only
  with_reducible (repeat' first | assumption | exact K.sub hC rfl | intro _ | apply State.modSl_kept | apply State.readPair_kept | apply State.setHand_kept | apply Kept.ite | exact hC _ (by decide) | split | dsimp only)

theorem State.spillTo_kept {i : SliceId} {t : Nat} {e : Entry} (hC : ∀ p ∈ [.regs, .agents, .slices, .ports, .mesh, .events, .cnts], K.c p) (hK : K.P s) : K.P (s.spillTo i t e) := by
  unfold State.spillTo; try dsimp only
  with_reducible (repeat' first | assumption | exact K.sub hC rfl | intro _ | apply State.count_kept | apply State.deleteRec_kept | apply State.heldDiff_kept | apply State.loseRsv_kept | apply State.modSl_kept | apply State.poison_kept | apply State.recordIn_kept | apply State.startInsert_kept | apply State.updateRec_kept | apply Kept.ite | apply Kept.ite_fst | exact hC _ (by decide) | split | refine Kept.of_pair ?_ ‹_› | dsimp only)

theorem State.corrected_kept {i : SliceId} (hC : ∀ p ∈ [.regs, .slices, .mesh, .events, .cnts], K.c p) (hK : K.P s) : K.P (s.corrected i) := by
  unfold State.corrected; try dsimp only
  with_reducible (repeat' first | assumption | exact K.sub hC rfl | apply State.count_kept | apply State.fire_kept | apply State.incF_kept | apply State.sliceErr_kept | exact hC _ (by decide))

theorem State.startRecover_kept {i : SliceId} {l : Line} {marker : Option (BitVec 32)} (hC : ∀ p ∈ [.regs, .slices, .mesh, .events], K.c p) (hK : K.P s) : K.P (s.startRecover i l marker) := by
  unfold State.startRecover; try dsimp only
  with_reducible (repeat' first | assumption | exact K.sub hC rfl | apply State.classRec_kept | apply State.fire_kept | apply State.modSl_kept | apply State.modSlot_kept | apply State.sliceErr_kept | apply Kept.ite | exact hC _ (by decide) | split)

theorem State.loseWay_kept {i : SliceId} {k : Nat} {e : Entry} (hC : ∀ p ∈ [.modes, .pins, .regs, .atts, .slices, .mesh, .events, .counts, .cox], K.c p) (hK : K.P s) : K.P (s.loseWay i k e) := by
  unfold State.loseWay; try dsimp only
  with_reducible (repeat' first | assumption | exact K.sub hC rfl | intro _ | apply State.fatal_kept | apply State.incF_kept | apply State.modSl_kept | apply State.sliceErr_kept | apply State.startRecover_kept | apply Kept.ite | exact hC _ (by decide) | dsimp only)

theorem State.evict_kept {i : SliceId} {k : Nat} {e : Entry} (hC : ∀ p ∈ [.modes, .pins, .regs, .agents, .atts, .slices, .ports, .mesh, .events, .counts, .cnts, .cox], K.c p) (hK : K.P s) : K.opt (s.evict i k e) := by
  unfold State.evict; try dsimp only
  with_reducible (repeat' first | assumption | exact K.sub hC rfl | intro _ | apply State.corrected_kept | apply State.loseWay_kept | apply State.modSl_kept | apply State.spillTo_kept | apply Kept.ite | apply Kept.opt_ite | apply Kept.opt_some | apply Kept.opt_none | exact hC _ (by decide) | split | refine Kept.of_some ?_ ‹_› | dsimp only)

theorem State.allocWay_kept {i : SliceId} {l : Line} (hC : ∀ p ∈ [.modes, .pins, .regs, .agents, .atts, .slices, .ports, .mesh, .events, .counts, .cnts, .cox], K.c p) (hK : K.P s) : K.optP (s.allocWay i l) := by
  unfold State.allocWay; try dsimp only
  with_reducible (repeat' first | assumption | exact K.sub hC rfl | apply State.evict_kept | apply Kept.optP_some | apply Kept.optP_none | apply Kept.optP_map | exact hC _ (by decide) | split | refine Kept.of_some ?_ ‹_›)

theorem State.evictPool_kept {i : SliceId} (hC : ∀ p ∈ [.modes, .pins, .regs, .agents, .atts, .slices, .ports, .mesh, .events, .counts, .cnts, .cox], K.c p) (hK : K.P s) : K.P (s.evictPool i) := by
  unfold State.evictPool; try dsimp only
  with_reducible (repeat' first | assumption | exact K.sub hC rfl | intro _ | apply State.evict_kept | apply Kept.ite | apply Kept.fold | apply Kept.fold_fst | apply Kept.getD | exact hC _ (by decide) | split | refine Kept.of_some ?_ ‹_›)

theorem State.writeHolders_kept {i : SliceId} {k : Nat} {e : Entry} {own : Bool} {h : List AgentId} {res : Option Nat} (hC : ∀ p ∈ [.regs, .agents, .slices, .ports, .mesh, .events], K.c p) (hK : K.P s) : K.P (s.writeHolders i k e own h res) := by
  unfold State.writeHolders; try dsimp only
  with_reducible (repeat' first | assumption | exact K.sub hC rfl | apply State.deleteRec_kept | apply State.heldDiff_kept | apply State.modSl_kept | apply Kept.ite | exact hC _ (by decide) | split)

theorem State.putHd_kept {i : SliceId} {l : Line} {v : Bool} (hC : ∀ p ∈ [.slices], K.c p) (hK : K.P s) : K.P (s.putHd i l v) := by
  unfold State.putHd; try dsimp only
  with_reducible (repeat' first | assumption | exact K.sub hC rfl | apply State.modSl_kept | apply Kept.ite | exact hC _ (by decide) | split)

theorem State.putPin_kept {i : SliceId} {l : Line} {v : Bool} (hC : ∀ p ∈ [.slices], K.c p) (hK : K.P s) : K.P (s.putPin i l v) := by
  unfold State.putPin; try dsimp only
  with_reducible (repeat' first | assumption | exact K.sub hC rfl | apply State.modSl_kept | apply Kept.ite | exact hC _ (by decide) | split)

end Sys2Proof.Machine
end

