-- ==== Sys2Proof/Laws/KeptHeader.lean ====
section
/-! SUPPORT. What the operations of Machine/Header.lean can write (see Laws/Kept.lean): each lemma lists the parts. -/

namespace Sys2Proof.Machine

set_option linter.unusedTactic false
set_option linter.unreachableTactic false

variable {K : Kept} {s : State}

theorem State.hdrWrite_kept {l : Line} {d : LineData} (hC : ∀ p ∈ [.ports, .cast], K.c p) (hK : K.P s) : K.P (s.hdrWrite l d) := by
  unfold State.hdrWrite; try dsimp only
  with_reducible (repeat' first | assumption | exact K.sub hC rfl | apply State.modMp_kept | exact hC _ (by decide) | exact .inr rfl | exact .inl (hC _ (by decide)) | rfl | (simp; done) | apply Kept.upd)

theorem State.hdrRead_kept {l : Line} (hC : ∀ p ∈ [.ports], K.c p) (hK : K.P s) : K.P (s.hdrRead l) := by
  unfold State.hdrRead; try dsimp only
  with_reducible (repeat' first | assumption | exact K.sub hC rfl | intro _ | apply State.modMp_kept | exact hC _ (by decide) | dsimp only)

theorem State.startReads_kept (hC : ∀ p ∈ [.ports], K.c p) (hK : K.P s) : K.P s.startReads := by
  unfold State.startReads; try dsimp only
  with_reducible (repeat' first | assumption | exact K.sub hC rfl | intro _ | apply State.hdrRead_kept | apply Kept.ite | apply Kept.fold | apply Kept.fold_fst | exact hC _ (by decide) | dsimp only)

theorem State.writeHeader_kept {clean : Bool} (hC : ∀ p ∈ [.ports, .cast], K.c p) (hK : K.P s) : K.P (s.writeHeader clean) := by
  unfold State.writeHeader; try dsimp only
  with_reducible (repeat' first | assumption | exact K.sub hC rfl | apply State.hdrWrite_kept | exact hC _ (by decide) | exact .inr rfl | exact .inl (hC _ (by decide)) | rfl | (simp; done) | apply Kept.upd)

theorem State.writeImage_kept (hC : ∀ p ∈ [.ports, .cast], K.c p) (hK : K.P s) : K.P s.writeImage := by
  unfold State.writeImage; try dsimp only
  with_reducible (repeat' first | assumption | exact K.sub hC rfl | intro _ | apply State.hdrWrite_kept | apply Kept.fold | apply Kept.fold_fst | exact hC _ (by decide))

theorem State.clearAt_kept {pos : Nat} (hC : ∀ p ∈ [.ports, .cast], K.c p) (hK : K.P s) : K.P (s.clearAt pos) := by
  unfold State.clearAt; try dsimp only
  with_reducible (repeat' first | assumption | exact K.sub hC rfl | apply State.hdrWrite_kept | exact hC _ (by decide) | exact .inr rfl | exact .inl (hC _ (by decide)) | rfl | (simp; done) | apply Kept.upd)

theorem State.clearStart_kept (hC : ∀ p ∈ [.ports, .cast], K.c p) (hK : K.P s) : K.P s.clearStart := by
  unfold State.clearStart; try dsimp only
  with_reducible (repeat' first | assumption | exact K.sub hC rfl | apply State.clearAt_kept | exact hC _ (by decide) | exact .inr rfl | exact .inl (hC _ (by decide)) | rfl | (simp; done) | apply Kept.upd)

theorem State.hdrDone_kept (hC : ∀ p ∈ [.ports, .cast], K.c p) (hK : K.P s) : K.P s.hdrDone := by
  unfold State.hdrDone; try dsimp only
  with_reducible (repeat' first | assumption | exact K.sub hC rfl | apply State.clearAt_kept | apply State.writeHeader_kept | exact hC _ (by decide) | exact .inr rfl | exact .inl (hC _ (by decide)) | split | rfl | (simp; done) | apply Kept.upd)

end Sys2Proof.Machine
end

