-- ==== Sys2Proof/Laws/KeptCast.lean ====
section
/-! SUPPORT. What the operations of Machine/Cast.lean can write (see Laws/Kept.lean): each lemma lists the parts. -/

namespace Sys2Proof.Machine

set_option linter.unusedTactic false
set_option linter.unreachableTactic false

variable {K : Kept} {s : State}

theorem State.markBucket_kept {i : SliceId} {t : Nat} {b : BitVec 12} {addr : Line} {d : LineData} {hs : List Nat} (hC : ∀ p ∈ [.regs, .slices, .ports, .mesh], K.c p) (hK : K.P s) : K.P (s.markBucket i t b addr d hs).1 := by
  unfold State.markBucket; try dsimp only
  with_reducible (repeat' first | assumption | exact K.sub hC rfl | intro _ | apply State.addF_kept | apply State.castOver_kept | apply State.classRec_kept | apply State.modSl_kept | apply State.sliceErr_kept | apply Kept.ite | apply Kept.ite_fst | apply Kept.fold | apply Kept.fold_fst | exact hC _ (by decide) | refine Kept.of_pair ?_ ‹_› | dsimp only)

theorem State.readBucket_kept {i : SliceId} {t : Nat} {b : BitVec 12} {addr : Line} {rd : BucketRead} (hC : ∀ p ∈ [.regs, .slices, .ports, .mesh], K.c p) (hK : K.P s) : K.P (s.readBucket i t b addr rd).1 := by
  unfold State.readBucket; try dsimp only
  with_reducible (repeat' first | assumption | exact K.sub hC rfl | apply State.markBucket_kept | apply Kept.ite | apply Kept.ite_fst | exact hC _ (by decide) | refine Kept.of_pair ?_ ‹_›)

theorem State.freeAnnex_kept {i : SliceId} {t : Nat} {l : Line} {r : Rec} (hC : ∀ p ∈ [.regs, .slices, .ports, .mesh], K.c p) (hK : K.P s) : K.P (s.freeAnnex i t l r) := by
  unfold State.freeAnnex; try dsimp only
  with_reducible (repeat' first | assumption | exact K.sub hC rfl | apply State.freeSlotK_kept | apply Kept.ite | exact hC _ (by decide))

theorem State.queueRecall_kept {i : SliceId} {t : Nat} (hC : ∀ p ∈ [.slices], K.c p) (hK : K.P s) : K.P (s.queueRecall i t) := by
  unfold State.queueRecall; try dsimp only
  with_reducible (repeat' first | assumption | exact K.sub hC rfl | apply State.putPin_kept | apply Kept.sl | apply Kept.ite | exact hC _ (by decide) | split)

theorem State.beginRecall_kept {i : SliceId} {t : Nat} (hC : ∀ p ∈ [.regs, .slices, .ports, .mesh, .events, .cnts], K.c p) (hK : K.P s) : K.P (s.beginRecall i t) := by
  unfold State.beginRecall; try dsimp only
  with_reducible (repeat' first | assumption | exact K.sub hC rfl | intro _ | apply State.count_kept | apply State.fire_kept | apply State.incF_kept | apply State.modSl_kept | apply State.nextInsert_kept | apply State.queueRecall_kept | apply Kept.ite | exact hC _ (by decide) | split | dsimp only)

theorem State.recall_kept {i : SliceId} {t : Nat} (hC : ∀ p ∈ [.regs, .slices, .ports, .mesh, .events, .cnts], K.c p) (hK : K.P s) : K.P (s.recall i t) := by
  unfold State.recall; try dsimp only
  with_reducible (repeat' first | assumption | exact K.sub hC rfl | intro _ | apply State.beginRecall_kept | apply State.modSl_kept | apply Kept.ite | exact hC _ (by decide) | dsimp only)

theorem State.trDone_kept {i : SliceId} {t : Nat} (hC : ∀ p ∈ [.slices], K.c p) (hK : K.P s) : K.P (s.trDone i t) := by
  unfold State.trDone; try dsimp only
  with_reducible (repeat' first | assumption | exact K.sub hC rfl | intro _ | apply State.kick_kept | apply State.modSl_kept | apply Kept.ite | exact hC _ (by decide) | split | dsimp only)

theorem State.putUpdate_kept {i : SliceId} {t : Nat} {e : Entry} {addr : Line} {d : LineData} {h : Nat} {k : Nat} (hC : ∀ p ∈ [.regs, .slices, .ports, .mesh], K.c p) (hK : K.P s) : K.P (s.putUpdate i t e addr d h k) := by
  unfold State.putUpdate; try dsimp only
  with_reducible (repeat' first | assumption | exact K.sub hC rfl | intro _ | apply State.castOver_kept | apply State.modSl_kept | exact hC _ (by decide) | dsimp only)

theorem State.applyRec_kept {i : SliceId} {t : Nat} (hC : ∀ p ∈ [.regs, .slices, .ports, .mesh, .events], K.c p) (hK : K.P s) : K.P (s.applyRec i t) := by
  unfold State.applyRec; try dsimp only
  with_reducible (repeat' first | assumption | exact K.sub hC rfl | intro _ | apply State.castOver_kept | apply State.freeAnnex_kept | apply State.modSl_kept | apply State.probeAnnex_kept | apply State.putUpdate_kept | apply State.recordOut_kept | apply State.recsAhead_kept | apply State.startInsert_kept | apply State.trDone_kept | apply State.writeAnnex_kept | apply Kept.ite | exact hC _ (by decide) | split | dsimp only)

theorem State.readAnnex_kept {i : SliceId} {t : Nat} {r : Rec} (hC : ∀ p ∈ [.regs, .slices, .ports, .mesh], K.c p) (hK : K.P s) : K.P (s.readAnnex i t r) := by
  unfold State.readAnnex; try dsimp only
  with_reducible (repeat' first | assumption | exact K.sub hC rfl | intro _ | apply State.castRead_kept | apply Kept.fold | apply Kept.fold_fst | exact hC _ (by decide))

theorem State.takeHand_kept {i : SliceId} {t : Nat} {v : Transit} (hC : ∀ p ∈ [.regs, .agents, .slices, .ports, .mesh, .events], K.c p) (hK : K.P s) : K.P (s.takeHand i t v) := by
  unfold State.takeHand; try dsimp only
  with_reducible (repeat' first | assumption | exact K.sub hC rfl | intro _ | apply State.dropHand_kept | apply State.heldDiff_kept | apply State.modSl_kept | apply State.poison_kept | apply State.setHand_kept | apply State.toBucket_kept | apply Kept.ite | apply Kept.ite_fst | exact hC _ (by decide) | split | refine Kept.of_pair ?_ ‹_› | dsimp only)

theorem State.displace_kept {i : SliceId} {t : Nat} {v : Transit} {addr : Line} {r : Rec} (hC : ∀ p ∈ [.regs, .agents, .slices, .ports, .mesh, .events], K.c p) (hK : K.P s) : K.P (s.displace i t v addr r) := by
  unfold State.displace; try dsimp only
  with_reducible (repeat' first | assumption | exact K.sub hC rfl | intro _ | apply State.freeSlotK_kept | apply State.insertDone_kept | apply State.kick_kept | apply State.modSl_kept | apply State.readAnnex_kept | apply State.recsAhead_kept | apply State.setHand_kept | apply State.stickyCheck_kept | apply State.takeHand_kept | apply State.toBucket_kept | apply Kept.ite | exact hC _ (by decide) | split | dsimp only)

theorem State.cuckooStep_kept {i : SliceId} {t : Nat} {v : Transit} {addr : Line} {rd : BucketRead} (hC : ∀ p ∈ [.regs, .agents, .slices, .ports, .mesh, .events, .cnts], K.c p) (hK : K.P s) : K.P (s.cuckooStep i t v addr rd) := by
  unfold State.cuckooStep; try dsimp only
  with_reducible (repeat' first | assumption | exact K.sub hC rfl | intro _ | apply State.castOver_kept | apply State.count_kept | apply State.displace_kept | apply State.insertDone_kept | apply State.modSl_kept | apply State.probeAnnex_kept | apply State.readBucket_kept | apply State.recall_kept | apply State.recsAhead_kept | apply Kept.ite | apply Kept.ite_fst | apply Kept.getD | exact hC _ (by decide) | split | refine Kept.of_pair ?_ ‹_› | dsimp only)

end Sys2Proof.Machine
end

