-- ==== Sys2Proof/Laws/KeptFlow.lean ====
section
/-! SUPPORT. What the operations of Machine/Flow.lean can write (see Laws/Kept.lean): each lemma lists the parts. -/

namespace Sys2Proof.Machine

set_option linter.unusedTactic false
set_option linter.unreachableTactic false

variable {K : Kept} {s : State}

theorem State.smpSelect_kept {i : SliceId} {r : Req} (hC : ∀ p ∈ [.regs, .slices, .free], K.c p) (hK : K.P s) : K.P (s.smpSelect i r).1 := by
  unfold State.smpSelect; try dsimp only
  with_reducible (repeat' first | assumption | exact K.sub hC rfl | apply State.incF_kept | apply State.modSl_kept | apply Kept.sl | apply Kept.ite | apply Kept.ite_fst | exact hC _ (by decide) | exact .inr rfl | exact .inl (hC _ (by decide)) | rfl | (simp; done) | apply Kept.upd)

theorem State.smpSend_kept {i : SliceId} {r : Req} {htag : Nat} {fl : Nat} (hC : ∀ p ∈ [.regs, .slices, .mesh, .counts], K.c p) (hK : K.P s) : K.P (s.smpSend i r htag fl) := by
  unfold State.smpSend; try dsimp only
  with_reducible (repeat' first | assumption | exact K.sub hC rfl | intro _ | apply State.gapNote_kept | apply State.inject_kept | apply State.modSl_kept | apply Kept.ite | exact hC _ (by decide) | exact Or.inl (hC _ (by decide)) | exact Or.inr rfl | rfl | (simp; done) | split | dsimp only | apply Kept.upd)

theorem State.pullNone_kept {i : SliceId} {r : Req} (hC : ∀ p ∈ [.regs, .atts, .slices, .mesh, .events, .cnts], K.c p) (hK : K.P s) : K.P (s.pullNone i r) := by
  unfold State.pullNone; try dsimp only
  with_reducible (repeat' first | assumption | exact K.sub hC rfl | apply State.routePull_kept | exact hC _ (by decide) | split)

theorem State.sliceError_kept {i : SliceId} {r : Req} {f : AttId → Fld} (hC : ∀ p ∈ [.regs, .atts, .slices, .ports, .mesh, .events, .counts, .cnts], K.c p) (hK : K.P s) : K.P (s.sliceError i r f) := by
  unfold State.sliceError; try dsimp only
  with_reducible (repeat' first | assumption | exact K.sub hC rfl | apply State.deliver_kept | apply State.pullNone_kept | apply State.refuse_kept | apply State.smpSend_kept | exact hC _ (by decide))

theorem State.sliceRetry_kept {i : SliceId} {r : Req} (hC : ∀ p ∈ [.regs, .atts, .slices, .mesh, .events, .counts, .cnts], K.c p) (hK : K.P s) : K.P (s.sliceRetry i r) := by
  unfold State.sliceRetry; try dsimp only
  with_reducible (repeat' first | assumption | exact K.sub hC rfl | intro _ | apply State.count_kept | apply State.modSl_kept | apply State.pullNone_kept | apply State.routeNdr_kept | apply State.smpSend_kept | exact hC _ (by decide) | dsimp only)

theorem State.rosterClock_kept {i : SliceId} (hC : ∀ p ∈ [.slices], K.c p) (hK : K.P s) : K.P (s.rosterClock i) := by
  unfold State.rosterClock; try dsimp only
  with_reducible (repeat' first | assumption | exact K.sub hC rfl | apply Kept.sl | apply Kept.ite | exact hC _ (by decide))

theorem State.endTicket_kept {i : SliceId} {a : AgentId} (hC : ∀ p ∈ [.slices], K.c p) (hK : K.P s) : K.P (s.endTicket i a) := by
  unfold State.endTicket; try dsimp only
  with_reducible (repeat' first | assumption | exact K.sub hC rfl | apply State.modSl_kept | apply State.rosterClock_kept | exact hC _ (by decide))

theorem State.endEsc_kept {i : SliceId} {r : Req} (hC : ∀ p ∈ [.slices], K.c p) (hK : K.P s) : K.P (s.endEsc i r) := by
  unfold State.endEsc; try dsimp only
  with_reducible (repeat' first | assumption | exact K.sub hC rfl | apply State.endTicket_kept | apply State.modSl_kept | apply Kept.ite | exact hC _ (by decide))

theorem State.chainStop_kept {i : SliceId} {v : Bool} (hC : ∀ p ∈ [.slices, .mesh, .events], K.c p) (hK : K.P s) : K.P (s.chainStop i v) := by
  unfold State.chainStop; try dsimp only
  with_reducible (repeat' first | assumption | exact K.sub hC rfl | apply State.evLevel_kept | apply State.modSl_kept | apply Kept.ite | exact hC _ (by decide))

theorem State.wouldRetry_kept {i : SliceId} {r : Req} {chain : Bool} (hC : ∀ p ∈ [.regs, .atts, .slices, .mesh, .events, .counts, .cnts], K.c p) (hK : K.P s) : K.P (s.wouldRetry i r chain) := by
  unfold State.wouldRetry; try dsimp only
  with_reducible (repeat' first | assumption | exact K.sub hC rfl | apply State.count_kept | apply State.fire_kept | apply State.incF_kept | apply State.kickEsc_kept | apply State.modSl_kept | apply State.rosterClock_kept | apply State.sliceRetry_kept | apply Kept.ite | exact hC _ (by decide))

theorem State.setRsv_kept {i : SliceId} {a : AgentId} {l : Line} (hC : ∀ p ∈ [.regs, .slices], K.c p) (hK : K.P s) : K.P (s.setRsv i a l) := by
  unfold State.setRsv; try dsimp only
  with_reducible (repeat' first | assumption | exact K.sub hC rfl | apply State.incF_kept | apply State.modSl_kept | apply Kept.ite | exact hC _ (by decide) | split)

theorem State.modSlot_kept {i : SliceId} {n : Nat} {f : Slot → Slot} (hC : ∀ p ∈ [.slices], K.c p) (hK : K.P s) : K.P (s.modSlot i n f) := by
  unfold State.modSlot; try dsimp only
  with_reducible (repeat' first | assumption | exact K.sub hC rfl | apply State.modSl_kept | exact hC _ (by decide))

theorem State.giveSlot_kept {i : SliceId} {n : Nat} (hC : ∀ p ∈ [.slices], K.c p) (hK : K.P s) : K.P (s.giveSlot i n) := by
  unfold State.giveSlot; try dsimp only
  with_reducible (repeat' first | assumption | exact K.sub hC rfl | intro _ | apply State.modSl_kept | apply Kept.ite | exact hC _ (by decide) | split | dsimp only)

theorem State.freeSlot_kept {i : SliceId} {n : Nat} (hC : ∀ p ∈ [.regs, .slices, .mesh, .counts], K.c p) (hK : K.P s) : K.P (s.freeSlot i n) := by
  unfold State.freeSlot; try dsimp only
  with_reducible (repeat' first | assumption | exact K.sub hC rfl | intro _ | apply State.giveSlot_kept | apply State.kick_kept | apply State.modSl_kept | apply State.smpSend_kept | apply Kept.ite | exact hC _ (by decide) | split | dsimp only)

theorem State.passLine_kept {i : SliceId} {l : Line} (hC : ∀ p ∈ [.slices], K.c p) (hK : K.P s) : K.P (s.passLine i l) := by
  unfold State.passLine; try dsimp only
  with_reducible (repeat' first | assumption | exact K.sub hC rfl | apply State.kickEsc_kept | apply State.putPin_kept | apply Kept.sl | exact hC _ (by decide) | split)

theorem State.release_kept {i : SliceId} {n : Nat} (hC : ∀ p ∈ [.regs, .slices, .mesh, .events, .counts, .cnts], K.c p) (hK : K.P s) : K.P (s.release i n) := by
  unfold State.release; try dsimp only
  with_reducible (repeat' first | assumption | exact K.sub hC rfl | apply State.count_kept | apply State.freeSlot_kept | apply State.kick_kept | apply State.modSl_kept | apply State.modSlot_kept | apply State.passLine_kept | apply Kept.ite | exact hC _ (by decide) | split)

theorem State.flowCmd_kept {i : SliceId} {n : Nat} {x : Slot} {r : Req} {m : MemK} (hC : ∀ p ∈ [.regs, .atts, .slices, .ports, .mesh, .events, .cnts], K.c p) (hK : K.P s) : K.P (s.flowCmd i n x r m) := by
  unfold State.flowCmd; try dsimp only
  with_reducible (repeat' first | assumption | exact K.sub hC rfl | apply State.modSlot_kept | apply State.nextTag_kept | apply State.routePull_kept | apply State.sendCmd_kept | apply Kept.ite | exact hC _ (by decide) | split | refine Kept.of_pair ?_ ‹_›)

theorem State.flowPoison_kept {i : SliceId} {n : Nat} (hC : ∀ p ∈ [.regs, .slices, .ports, .mesh], K.c p) (hK : K.P s) : K.P (s.flowPoison i n) := by
  unfold State.flowPoison; try dsimp only
  with_reducible (repeat' first | assumption | exact K.sub hC rfl | apply State.modSlot_kept | apply State.poison_kept | apply Kept.ite | exact hC _ (by decide) | split | refine Kept.of_pair ?_ ‹_›)

theorem State.flowNdr_kept {i : SliceId} {n : Nat} {r : Req} {op : NdrOp} {st : NStat} {parts : BitVec 2} (hC : ∀ p ∈ [.regs, .atts, .slices, .ports, .mesh, .events, .cnts], K.c p) (hK : K.P s) : K.P (s.flowNdr i n r op st parts) := by
  unfold State.flowNdr; try dsimp only
  with_reducible (repeat' first | assumption | exact K.sub hC rfl | apply State.deliver_kept | apply State.modSlot_kept | apply Kept.ite | exact hC _ (by decide))

theorem State.grant_kept {i : SliceId} {n : Nat} {x : Slot} {r : Req} (hC : ∀ p ∈ [.modes, .pins, .regs, .agents, .atts, .slices, .ports, .mesh, .events, .counts, .cnts, .cox], K.c p) (hK : K.P s) : K.opt (s.grant i n x r) := by
  unfold State.grant; try dsimp only
  with_reducible (repeat' first | assumption | exact K.sub hC rfl | intro _ | apply State.allocWay_kept | apply State.heldDiff_kept | apply State.modSl_kept | apply State.modSlot_kept | apply State.poison_kept | apply State.writeHolders_kept | apply Kept.ite | apply Kept.ite_fst | apply Kept.opt_ite | apply Kept.optP_ite | apply Kept.opt_some | apply Kept.opt_none | apply Kept.optP_some | apply Kept.optP_none | exact hC _ (by decide) | split | refine Kept.of_pair ?_ ‹_› | refine Kept.of_some ?_ ‹_› | refine Kept.of_someP ?_ ‹_› | dsimp only)

theorem State.parkFlow_kept {i : SliceId} {n : Nat} {l : Line} (hC : ∀ p ∈ [.slices], K.c p) (hK : K.P s) : K.P (s.parkFlow i n l) := by
  unfold State.parkFlow; try dsimp only
  with_reducible (repeat' first | assumption | exact K.sub hC rfl | intro _ | apply State.modSl_kept | apply Kept.ite | exact hC _ (by decide) | dsimp only)

theorem State.emptied_kept {i : SliceId} {n : Nat} {x : Slot} (hC : ∀ p ∈ [.regs, .agents, .slices, .ports, .mesh, .events], K.c p) (hK : K.P s) : K.P (s.emptied i n x).1 := by
  unfold State.emptied; try dsimp only
  with_reducible (repeat' first | assumption | exact K.sub hC rfl | intro _ | apply State.modSlot_kept | apply State.parkFlow_kept | apply State.writeHolders_kept | apply Kept.ite | apply Kept.ite_fst | exact hC _ (by decide) | split | refine Kept.of_pair ?_ ‹_› | dsimp only)

theorem State.advanceDead_kept {i : SliceId} {n : Nat} {x : Slot} {r : Req} (hC : ∀ p ∈ [.regs, .agents, .atts, .slices, .ports, .mesh, .events, .counts, .cnts], K.c p) (hK : K.P s) : K.P (s.advanceDead i n x r) := by
  unfold State.advanceDead; try dsimp only
  with_reducible (repeat' first | assumption | exact K.sub hC rfl | apply State.emptied_kept | apply State.flowNdr_kept | apply State.pullNone_kept | apply State.release_kept | apply Kept.ite | apply Kept.ite_fst | exact hC _ (by decide) | split | refine Kept.of_pair ?_ ‹_›)

theorem State.advanceDone_kept {i : SliceId} {n : Nat} {x : Slot} {r : Req} {p : Plan} (hC : ∀ p ∈ [.regs, .atts, .slices, .ports, .mesh, .events, .counts, .cnts], K.c p) (hK : K.P s) : K.P (s.advanceDone i n x r p) := by
  unfold State.advanceDone; try dsimp only
  with_reducible (repeat' first | assumption | exact K.sub hC rfl | apply State.count_kept | apply State.flowNdr_kept | apply State.incF_kept | apply State.pullNone_kept | apply State.release_kept | apply Kept.ite | exact hC _ (by decide) | split)

theorem State.advanceReq_kept {i : SliceId} {n : Nat} {x : Slot} {r : Req} (hC : ∀ p ∈ [.modes, .pins, .regs, .agents, .atts, .slices, .ports, .mesh, .events, .counts, .cnts, .cox], K.c p) (hK : K.P s) : K.P (s.advanceReq i n x r) := by
  unfold State.advanceReq; try dsimp only
  with_reducible (repeat' first | assumption | exact K.sub hC rfl | intro _ | apply State.advanceDead_kept | apply State.advanceDone_kept | apply State.flowCmd_kept | apply State.grant_kept | apply State.modSlot_kept | apply State.parkFlow_kept | apply State.release_kept | apply State.wouldRetry_kept | apply Kept.ite | apply Kept.opt_ite | apply Kept.opt_some | apply Kept.opt_none | exact hC _ (by decide) | split | refine Kept.of_some ?_ ‹_› | dsimp only)

theorem State.advanceRecall_kept {i : SliceId} {n : Nat} {x : Slot} (hC : ∀ p ∈ [.regs, .agents, .slices, .ports, .mesh, .events, .counts, .cnts], K.c p) (hK : K.P s) : K.P (s.advanceRecall i n x) := by
  unfold State.advanceRecall; try dsimp only
  with_reducible (repeat' first | assumption | exact K.sub hC rfl | intro _ | apply State.beginRecall_kept | apply State.freeSlotK_kept | apply State.heldDiff_kept | apply State.modSl_kept | apply State.readPair_kept | apply State.recordOut_kept | apply State.release_kept | apply Kept.ite | apply Kept.getD | exact hC _ (by decide) | split | dsimp only)

theorem State.advanceRecover_kept {i : SliceId} {n : Nat} {x : Slot} (hC : ∀ p ∈ [.regs, .agents, .slices, .ports, .mesh, .events, .counts, .cnts], K.c p) (hK : K.P s) : K.P (s.advanceRecover i n x) := by
  unfold State.advanceRecover; try dsimp only
  with_reducible (repeat' first | assumption | exact K.sub hC rfl | intro _ | apply State.deleteRec_kept | apply State.flowPoison_kept | apply State.heldDiff_kept | apply State.incF_kept | apply State.modSl_kept | apply State.modSlot_kept | apply State.release_kept | apply Kept.ite | exact hC _ (by decide) | split | dsimp only)

theorem State.advance_kept {i : SliceId} {n : Nat} (hC : ∀ p ∈ [.modes, .pins, .regs, .agents, .atts, .slices, .ports, .mesh, .events, .counts, .cnts, .cox], K.c p) (hK : K.P s) : K.P (s.advance i n) := by
  unfold State.advance; try dsimp only
  with_reducible (repeat' first | assumption | exact K.sub hC rfl | apply State.advanceRecall_kept | apply State.advanceRecover_kept | apply State.advanceReq_kept | apply State.flowPoison_kept | apply State.freeSlot_kept | apply Kept.ite | exact hC _ (by decide) | split)

end Sys2Proof.Machine
end

