-- ==== Sys2Proof/Laws/KeptLook.lean ====
section
/-! SUPPORT. What the operations of Machine/Look.lean can write (see Laws/Kept.lean): each lemma lists the parts. -/

namespace Sys2Proof.Machine

set_option linter.unusedTactic false
set_option linter.unreachableTactic false

variable {K : Kept} {s : State}

theorem State.shrink_kept {i : SliceId} {k : Nat} {e : Entry} {own : Bool} {h : List AgentId} (hC : ∀ p ∈ [.agents, .slices, .mesh, .events], K.c p) (hK : K.P s) : K.P (s.shrink i k e own h) := by
  unfold State.shrink; try dsimp only
  with_reducible (repeat' first | assumption | exact K.sub hC rfl | apply State.heldDiff_kept | apply State.modSl_kept | apply Kept.ite | exact hC _ (by decide))

theorem State.dropHolder_kept {i : SliceId} {l : Line} {a : AgentId} {keep : Bool} (hC : ∀ p ∈ [.agents, .slices, .mesh, .events], K.c p) (hK : K.P s) : K.P (s.dropHolder i l a keep) := by
  unfold State.dropHolder; try dsimp only
  with_reducible (repeat' first | assumption | exact K.sub hC rfl | apply State.heldDiff_kept | apply State.modSl_kept | apply State.shrink_kept | apply Kept.ite | exact hC _ (by decide) | split)

theorem State.joined_kept {i : SliceId} (hC : ∀ p ∈ [.slices, .mesh, .events, .cnts], K.c p) (hK : K.P s) : K.P (s.joined i) := by
  unfold State.joined; try dsimp only
  with_reducible (repeat' first | assumption | exact K.sub hC rfl | apply State.count_kept | exact hC _ (by decide))

theorem State.chainJoin_kept {i : SliceId} {r : Req} {front : Bool} (hC : ∀ p ∈ [.regs, .atts, .slices, .mesh, .events, .counts, .cnts], K.c p) (hK : K.P s) : K.P (s.chainJoin i r front) := by
  unfold State.chainJoin; try dsimp only
  with_reducible (repeat' first | assumption | exact K.sub hC rfl | apply State.joined_kept | apply State.modSl_kept | apply State.wouldRetry_kept | apply Kept.ite | exact hC _ (by decide) | split)

theorem State.escChain_kept {i : SliceId} {r : Req} (hC : ∀ p ∈ [.slices, .mesh, .events, .cnts], K.c p) (hK : K.P s) : K.P (s.escChain i r).1 := by
  unfold State.escChain; try dsimp only
  with_reducible (repeat' first | assumption | exact K.sub hC rfl | apply State.chainStop_kept | apply State.joined_kept | apply State.modSl_kept | apply Kept.ite | apply Kept.ite_fst | exact hC _ (by decide) | split)

theorem State.chainHead_kept {i : SliceId} {r : Req} {esc : Bool} (hC : ∀ p ∈ [.regs, .atts, .slices, .mesh, .events, .counts, .cnts], K.c p) (hK : K.P s) : K.P (s.chainHead i r esc) := by
  unfold State.chainHead; try dsimp only
  with_reducible (repeat' first | assumption | exact K.sub hC rfl | apply State.chainJoin_kept | apply State.escChain_kept | apply Kept.ite | exact hC _ (by decide) | refine Kept.of_pair ?_ ‹_›)

theorem State.dropSlot_kept {i : SliceId} {n : Nat} (hC : ∀ p ∈ [.slices], K.c p) (hK : K.P s) : K.P (s.dropSlot i n) := by
  unfold State.dropSlot; try dsimp only
  with_reducible (repeat' first | assumption | exact K.sub hC rfl | intro _ | apply State.giveSlot_kept | apply State.modSl_kept | apply Kept.ite | apply Kept.opt_bind | apply Kept.optP_bind | exact hC _ (by decide) | split | dsimp only)

theorem State.fail9_kept {i : SliceId} {n : Nat} (hC : ∀ p ∈ [.regs, .atts, .slices, .mesh, .events, .counts, .cnts], K.c p) (hK : K.P s) : K.P (s.fail9 i n) := by
  unfold State.fail9; try dsimp only
  with_reducible (repeat' first | assumption | exact K.sub hC rfl | apply State.dropSlot_kept | apply State.kickJobs_kept | apply State.modSl_kept | apply State.passLine_kept | apply State.wouldRetry_kept | apply Kept.ite | exact hC _ (by decide) | split)

theorem State.lostUnder_kept {i : SliceId} {n : Nat} {marker : Option (BitVec 32)} (hC : ∀ p ∈ [.regs, .atts, .slices, .mesh, .events, .counts, .cnts], K.c p) (hK : K.P s) : K.P (s.lostUnder i n marker) := by
  unfold State.lostUnder; try dsimp only
  with_reducible (repeat' first | assumption | exact K.sub hC rfl | apply State.chainHead_kept | apply State.dropSlot_kept | apply State.startRecover_kept | exact hC _ (by decide) | split)

theorem State.lookTick_kept {i : SliceId} {l : Option Line} (hC : ∀ p ∈ [.slices], K.c p) (hK : K.P s) : K.P (s.lookTick i l) := by
  unfold State.lookTick; try dsimp only
  with_reducible (repeat' first | assumption | exact K.sub hC rfl | intro _ | apply State.modSl_kept | apply Kept.opt_bind | apply Kept.optP_bind | exact hC _ (by decide) | split | dsimp only)

theorem State.wayCheck_kept {i : SliceId} {l : Line} {chk : PassCheck} (hC : ∀ p ∈ [.modes, .pins, .regs, .atts, .slices, .mesh, .events, .counts, .cnts, .cox], K.c p) (hK : K.P s) : K.P (s.wayCheck i l chk) := by
  unfold State.wayCheck; try dsimp only
  with_reducible (repeat' first | assumption | exact K.sub hC rfl | apply State.corrected_kept | apply State.loseWay_kept | apply Kept.ite | exact hC _ (by decide) | split)

theorem State.touch_kept {i : SliceId} {k : Nat} {e : Entry} (hC : ∀ p ∈ [.slices], K.c p) (hK : K.P s) : K.P (s.touch i k e) := by
  unfold State.touch; try dsimp only
  with_reducible (repeat' first | assumption | exact K.sub hC rfl | apply State.modSl_kept | exact hC _ (by decide))

theorem State.fillWay_kept {i : SliceId} {e : Entry} (hC : ∀ p ∈ [.modes, .pins, .regs, .agents, .atts, .slices, .ports, .mesh, .events, .counts, .cnts, .cox], K.c p) (hK : K.P s) : K.P (s.fillWay i e).1 := by
  unfold State.fillWay; try dsimp only
  with_reducible (repeat' first | assumption | exact K.sub hC rfl | apply State.allocWay_kept | apply State.evictPool_kept | apply State.modSl_kept | exact hC _ (by decide) | split | refine Kept.of_someP ?_ ‹_›)

theorem State.copyBack_kept {i : SliceId} {t : Nat} {v : Transit} (hC : ∀ p ∈ [.modes, .pins, .regs, .agents, .atts, .slices, .ports, .mesh, .events, .counts, .cnts, .cox], K.c p) (hK : K.P s) : K.P (s.copyBack i t v).1 := by
  unfold State.copyBack; try dsimp only
  with_reducible (repeat' first | assumption | exact K.sub hC rfl | intro _ | apply State.deleteRec_kept | apply State.fillWay_kept | apply State.heldDiff_kept | apply State.modSl_kept | apply State.poison_kept | apply Kept.ite | apply Kept.ite_fst | exact hC _ (by decide) | split | refine Kept.of_pair ?_ ‹_› | dsimp only)

theorem State.loseTr_kept {i : SliceId} {t : Nat} {v : Transit} (hC : ∀ p ∈ [.regs, .slices, .ports, .mesh, .events], K.c p) (hK : K.P s) : K.P (s.loseTr i t v) := by
  unfold State.loseTr; try dsimp only
  with_reducible (repeat' first | assumption | exact K.sub hC rfl | intro _ | apply State.dropHand_kept | apply State.modSl_kept | apply Kept.ite | exact hC _ (by decide) | dsimp only)

theorem State.waitFetch_kept {i : SliceId} {n : Nat} {t : Nat} (hC : ∀ p ∈ [.slices], K.c p) (hK : K.P s) : K.P (s.waitFetch i n t) := by
  unfold State.waitFetch; try dsimp only
  with_reducible (repeat' first | assumption | exact K.sub hC rfl | apply State.modSlot_kept | exact hC _ (by decide))

theorem State.lookup_kept {i : SliceId} {n : Nat} {l : Line} {chk : PassCheck} (hC : ∀ p ∈ [.modes, .pins, .regs, .agents, .atts, .slices, .ports, .mesh, .events, .counts, .cnts, .cox], K.c p) (hK : K.P s) : K.P (s.lookup i n l chk).1 := by
  unfold State.lookup; try dsimp only
  with_reducible (repeat' first | assumption | exact K.sub hC rfl | intro _ | apply State.copyBack_kept | apply State.corrected_kept | apply State.count_kept | apply State.incF_kept | apply State.lookTick_kept | apply State.loseTr_kept | apply State.modSl_kept | apply State.readPair_kept | apply State.touch_kept | apply State.waitFetch_kept | apply Kept.ite | apply Kept.ite_fst | exact hC _ (by decide) | split | refine Kept.of_pair ?_ ‹_› | dsimp only)

theorem State.queueSweep_kept {i : SliceId} {l : Line} (hC : ∀ p ∈ [.slices], K.c p) (hK : K.P s) : K.P (s.queueSweep i l) := by
  unfold State.queueSweep; try dsimp only
  with_reducible (repeat' first | assumption | exact K.sub hC rfl | apply State.modSl_kept | apply Kept.ite | exact hC _ (by decide))

theorem State.queueSnoop_kept {i : SliceId} {n : Nat} {a : AgentId} (hC : ∀ p ∈ [.slices], K.c p) (hK : K.P s) : K.P (s.queueSnoop i n a) := by
  unfold State.queueSnoop; try dsimp only
  with_reducible (repeat' first | assumption | exact K.sub hC rfl | apply State.modSl_kept | exact hC _ (by decide))

theorem State.snoopWrite_kept {i : SliceId} {n : Nat} {r : Req} (hC : ∀ p ∈ [.regs, .atts, .slices, .ports, .mesh, .events, .cnts], K.c p) (hK : K.P s) : K.P (s.snoopWrite i n r) := by
  unfold State.snoopWrite; try dsimp only
  with_reducible (repeat' first | assumption | exact K.sub hC rfl | apply State.loseRsv_kept | apply State.modSlot_kept | apply State.nextTag_kept | apply State.routePull_kept | apply State.sendCmd_kept | apply Kept.ite | exact hC _ (by decide) | split | refine Kept.of_pair ?_ ‹_›)

theorem State.claimWrites_kept {i : SliceId} {n : Nat} {as : List AgentId} (hC : ∀ p ∈ [.regs, .atts, .slices, .ports, .mesh, .events, .cnts], K.c p) (hK : K.P s) : K.P (s.claimWrites i n as) := by
  unfold State.claimWrites; try dsimp only
  with_reducible (repeat' first | assumption | exact K.sub hC rfl | intro _ | apply State.endEsc_kept | apply State.kickEsc_kept | apply State.snoopWrite_kept | apply Kept.sl | apply Kept.ite | apply Kept.fold | apply Kept.fold_fst | exact hC _ (by decide) | split | dsimp only)

theorem State.sendSnoops_kept {i : SliceId} {n : Nat} {op : SnpOp} {as : List AgentId} (hC : ∀ p ∈ [.regs, .atts, .slices, .ports, .mesh, .events, .cnts], K.c p) (hK : K.P s) : K.P (s.sendSnoops i n op as) := by
  unfold State.sendSnoops; try dsimp only
  with_reducible (repeat' first | assumption | exact K.sub hC rfl | intro _ | apply State.claimWrites_kept | apply State.modSlot_kept | apply State.queueSnoop_kept | apply Kept.fold | apply Kept.fold_fst | exact hC _ (by decide) | dsimp only)

theorem State.predDecide_kept {i : SliceId} {r : Req} {near : Bool} {others : Bool} (hC : ∀ p ∈ [.slices], K.c p) (hK : K.P s) : K.P (s.predDecide i r near others) := by
  unfold State.predDecide; try dsimp only
  with_reducible (repeat' first | assumption | exact K.sub hC rfl | apply State.modSl_kept | apply Kept.ite | exact hC _ (by decide))

theorem State.decideFlow_kept {i : SliceId} {n : Nat} (hC : ∀ p ∈ [.modes, .pins, .regs, .agents, .atts, .slices, .ports, .mesh, .events, .counts, .cnts, .cox], K.c p) (hK : K.P s) : K.P (s.decideFlow i n).1 := by
  unfold State.decideFlow
  split
  · exact hK
  split
  · exact hK
  rename_i x _ _ r _
  extract_lets l we near ok c found
  clear_value we
  split
  extract_lets own p fin s0 s1
  split
  · have h0 : K.P s0 := by
      with_reducible (unfold s0; repeat' first | assumption | exact K.sub hC rfl | apply State.evictPool_kept | apply Kept.ite | split)
    clear_value s0
    dsimp only
    with_reducible (repeat' first | assumption | exact K.sub hC rfl | apply State.queueSweep_kept | apply State.shrink_kept | apply State.poison_kept | apply Kept.ite | apply Kept.ite_fst | split)
  extract_lets s2 s3 s4 s5 s6 s7 s8 s9 s10 s11 s12 now s13 s14 s15 s16
  have h1 : K.P s1 := by
    with_reducible (unfold s1; repeat' first | assumption | exact K.sub hC rfl | apply State.shrink_kept | split)
  clear_value s1
  have h2 : K.P s2 := State.modSl_kept (K.sub hC rfl) h1
  clear_value s2
  have h3 : K.P s3 := State.endEsc_kept (K.sub hC rfl) h2
  clear_value s3
  have h4 : K.P s4 := Kept.ite (State.endTicket_kept (K.sub hC rfl) h3) h3
  clear_value s4
  have h5 : K.P s5 := State.count_kept (K.sub hC rfl) h4
  clear_value s5
  have h6 : K.P s6 := Kept.ite (State.incF_kept (K.sub hC rfl) (State.count_kept (K.sub hC rfl) h5)) h5
  clear_value s6
  have h7 : K.P s7 := Kept.ite (State.incF_kept (K.sub hC rfl) h6) h6
  clear_value s7
  have h8 : K.P s8 := State.predDecide_kept (K.sub hC rfl) h7
  clear_value s8
  have h9 : K.P s9 := Kept.ite (State.incF_kept (K.sub hC rfl) h8) h8
  clear_value s9
  have h10 : K.P s10 := Kept.ite (State.modSl_kept (K.sub hC rfl) h9) h9
  clear_value s10
  have h11 : K.P s11 := Kept.ite (State.loseRsv_kept (K.sub hC rfl) h10) h10
  clear_value s11
  have h12 : K.P s12 := Kept.ite (State.setRsv_kept (K.sub hC rfl) h11) h11
  clear_value s12
  have h13 : K.P s13 := State.modSlot_kept (K.sub hC rfl) h12
  clear_value s13
  have h14 : K.P s14 := State.sendSnoops_kept (K.sub hC rfl) h13
  clear_value s14
  have h15 : K.P s15 := State.flowPoison_kept (K.sub hC rfl) h14
  clear_value s15
  refine Kept.ite ?_ h15
  split
  · exact State.flowCmd_kept (K.sub hC rfl) h15
  · exact h15

theorem State.decideOr_kept {i : SliceId} {n : Nat} (hC : ∀ p ∈ [.modes, .pins, .regs, .agents, .atts, .slices, .ports, .mesh, .events, .counts, .cnts, .cox], K.c p) (hK : K.P s) : K.P (s.decideOr i n) := by
  unfold State.decideOr; try dsimp only
  with_reducible (repeat' first | assumption | exact K.sub hC rfl | apply State.advance_kept | apply State.decideFlow_kept | apply State.fail9_kept | apply State.modSlot_kept | apply Kept.ite | exact hC _ (by decide) | split | refine Kept.of_pair ?_ ‹_›)

theorem State.admitIn_kept {i : SliceId} {n : Nat} {r : Req} {esc : Bool} {chained : Bool} {chk : PassCheck} (hC : ∀ p ∈ [.modes, .pins, .regs, .agents, .atts, .slices, .ports, .mesh, .events, .counts, .cnts, .cox], K.c p) (hK : K.P s) : K.P (s.admitIn i n r esc chained chk) := by
  unfold State.admitIn; try dsimp only
  with_reducible (repeat' first | assumption | exact K.sub hC rfl | apply State.count_kept | apply State.decideOr_kept | apply State.fail9_kept | apply State.lookup_kept | apply State.lostUnder_kept | apply State.modSl_kept | exact hC _ (by decide) | split | refine Kept.of_pair ?_ ‹_›)

theorem State.bounceReq_kept {i : SliceId} {r : Req} (hC : ∀ p ∈ [.regs, .slices, .mesh], K.c p) (hK : K.P s) : K.P (s.bounceReq i r) := by
  unfold State.bounceReq; try dsimp only
  with_reducible (repeat' first | assumption | exact K.sub hC rfl | intro _ | apply State.endEsc_kept | apply State.endTicket_kept | apply State.incF_kept | apply State.sendBack_kept | apply Kept.ite | exact hC _ (by decide) | exact Or.inl (hC _ (by decide)) | exact Or.inr rfl | rfl | (simp; done) | dsimp only | apply Kept.upd)

theorem State.check6_kept {i : SliceId} {r : Req} {wb : Bool} (hC : ∀ p ∈ [.regs, .atts, .slices, .mesh, .events, .counts, .cnts], K.c p) (hK : K.P s) : K.opt (s.check6 i r wb) := by
  unfold State.check6; try dsimp only
  with_reducible (repeat' first | assumption | exact K.sub hC rfl | apply State.bounceReq_kept | apply State.modSl_kept | apply State.sliceRetry_kept | apply Kept.ite | apply Kept.opt_ite | apply Kept.opt_some | apply Kept.opt_none | exact hC _ (by decide) | split)

theorem State.newRequest_kept {i : SliceId} {r : Req} {wb : Bool} {chk : PassCheck} (hC : ∀ p ∈ [.modes, .pins, .regs, .agents, .atts, .slices, .ports, .mesh, .events, .counts, .cnts, .cox], K.c p) (hK : K.P s) : K.P (s.newRequest i r wb chk) := by
  unfold State.newRequest; try dsimp only
  with_reducible (repeat' first | assumption | exact K.sub hC rfl | intro _ | apply State.admitIn_kept | apply State.chainJoin_kept | apply State.check6_kept | apply State.modSl_kept | apply State.sliceError_kept | apply State.sliceRetry_kept | apply State.snoopWrite_kept | apply State.wayCheck_kept | apply State.wouldRetry_kept | apply Kept.ite | apply Kept.opt_ite | apply Kept.opt_some | apply Kept.opt_none | exact hC _ (by decide) | split | refine Kept.of_some ?_ ‹_› | dsimp only)

theorem State.mismatch_kept {i : SliceId} {p : Pass} {n : Nat} (hC : ∀ p ∈ [.modes, .pins, .regs, .atts, .slices, .mesh, .events, .counts, .cnts, .cox], K.c p) (hK : K.P s) : K.P (s.mismatch i p n) := by
  unfold State.mismatch; try dsimp only
  with_reducible (repeat' first | assumption | exact K.sub hC rfl | apply State.classRec_kept | apply State.count_kept | apply State.fatal_kept | apply State.fire_kept | apply State.incF_kept | apply State.maxF_kept | apply State.modSl_kept | apply State.sliceErr_kept | apply Kept.ite | exact hC _ (by decide))

theorem State.refuseWaiting_kept {i : SliceId} {r : Req} (hC : ∀ p ∈ [.regs, .atts, .slices, .ports, .mesh, .events, .counts, .cnts], K.c p) (hK : K.P s) : K.P (s.refuseWaiting i r) := by
  unfold State.refuseWaiting; try dsimp only
  with_reducible (repeat' first | assumption | exact K.sub hC rfl | apply State.sliceError_kept | exact hC _ (by decide))

theorem State.fenceSlice_kept {a : AgentId} {i : SliceId} (hC : ∀ p ∈ [.regs, .atts, .slices, .ports, .mesh, .events, .counts, .cnts], K.c p) (hK : K.P s) : K.P (s.fenceSlice a i) := by
  unfold State.fenceSlice; try dsimp only
  with_reducible (repeat' first | assumption | exact K.sub hC rfl | intro _ | apply State.passLine_kept | apply State.refuseWaiting_kept | apply State.rosterClock_kept | apply Kept.sl | apply Kept.ite | apply Kept.fold | apply Kept.fold_fst | exact hC _ (by decide) | split)

theorem State.fenceFlows_kept {a : AgentId} {i : SliceId} (hC : ∀ p ∈ [.modes, .pins, .regs, .agents, .atts, .slices, .ports, .mesh, .events, .counts, .cnts, .cox], K.c p) (hK : K.P s) : K.P (s.fenceFlows a i) := by
  unfold State.fenceFlows; try dsimp only
  with_reducible (repeat' first | assumption | exact K.sub hC rfl | intro _ | apply State.advance_kept | apply State.dropHolder_kept | apply State.modSl_kept | apply State.modSlot_kept | apply Kept.ite | apply Kept.fold | apply Kept.fold_fst | exact hC _ (by decide) | split)

theorem State.fenceEdge_kept {a : AgentId} {k : AttId} (hC : ∀ p ∈ [.regs, .atts, .slices, .ports, .mesh, .events, .cnts], K.c p) (hK : K.P s) : K.P (s.fenceEdge a k) := by
  unfold State.fenceEdge; try dsimp only
  with_reducible (repeat' first | assumption | exact K.sub hC rfl | intro _ | apply State.complete_kept | apply State.dropReq_kept | apply State.edgeError_kept | apply State.egNdr_kept | apply State.fenceCmp_kept | apply State.refuse_kept | apply Kept.att | apply Kept.ite | apply Kept.fold | apply Kept.fold_fst | exact hC _ (by decide))

theorem State.purgeTr_kept {i : SliceId} {t : Nat} (hC : ∀ p ∈ [.regs, .agents, .slices, .ports, .mesh, .events], K.c p) (hK : K.P s) : K.P (s.purgeTr i t) := by
  unfold State.purgeTr; try dsimp only
  with_reducible (repeat' first | assumption | exact K.sub hC rfl | intro _ | apply State.dropHand_kept | apply State.heldDiff_kept | apply State.modSl_kept | apply State.poison_kept | apply State.setHand_kept | apply State.updGone_kept | apply Kept.ite | apply Kept.ite_fst | exact hC _ (by decide) | split | refine Kept.of_pair ?_ ‹_› | dsimp only)

theorem State.purgeAll_kept (hC : ∀ p ∈ [.regs, .agents, .slices, .ports, .mesh, .events], K.c p) (hK : K.P s) : K.P s.purgeAll := by
  unfold State.purgeAll; try dsimp only
  with_reducible (repeat' first | assumption | exact K.sub hC rfl | intro _ | apply State.purgeTr_kept | apply Kept.fold | apply Kept.fold_fst | exact hC _ (by decide))

theorem State.fenceAgent_kept {a : AgentId} (hC : ∀ p ∈ [.modes, .pins, .regs, .agents, .atts, .slices, .ports, .mesh, .hmap, .events, .counts, .cnts, .cox], K.c p) (hK : K.P s) : K.P (s.fenceAgent a) := by
  unfold State.fenceAgent; try dsimp only
  with_reducible (repeat' first | assumption | exact K.sub hC rfl | intro _ | apply State.depart_kept | apply State.fenceEdge_kept | apply State.fenceFlows_kept | apply State.fenceSlice_kept | apply State.loseRsvAll_kept | apply State.modAgent_kept | apply State.purgeAll_kept | apply Kept.fold | apply Kept.fold_fst | exact hC _ (by decide))

end Sys2Proof.Machine
end

