-- ==== Sys2Proof/Laws/KeptPass.lean ====
section
/-! SUPPORT. What the operations of Machine/Pass.lean can write (see Laws/Kept.lean): each lemma lists the parts. -/

namespace Sys2Proof.Machine

set_option linter.unusedTactic false
set_option linter.unreachableTactic false

variable {K : Kept} {s : State}

theorem State.sweepEntry_kept {i : SliceId} {k : Nat} {e : Entry} (hC : ∀ p ∈ [.regs, .agents, .slices, .ports, .mesh, .events], K.c p) (hK : K.P s) : K.opt (s.sweepEntry i k e) := by
  unfold State.sweepEntry; try dsimp only
  with_reducible (repeat' first | assumption | exact K.sub hC rfl | apply State.poison_kept | apply State.writeHolders_kept | apply Kept.ite | apply Kept.opt_ite | apply Kept.opt_some | apply Kept.opt_none | exact hC _ (by decide) | split | refine Kept.of_pair ?_ ‹_›)

theorem State.sweepLine_kept {i : SliceId} {l : Line} (hC : ∀ p ∈ [.regs, .agents, .slices, .ports, .mesh, .events], K.c p) (hK : K.P s) : K.P (s.sweepLine i l) := by
  unfold State.sweepLine; try dsimp only
  with_reducible (repeat' first | assumption | exact K.sub hC rfl | intro _ | apply State.modSl_kept | apply State.passLine_kept | apply State.readPair_kept | apply State.sweepEntry_kept | apply Kept.ite | apply Kept.opt_ite | apply Kept.opt_some | apply Kept.opt_none | exact hC _ (by decide) | split | refine Kept.of_some ?_ ‹_› | dsimp only)

theorem State.handWaiter_kept {i : SliceId} {l : Line} {r : Req} {esc : Bool} {chk : PassCheck} (hC : ∀ p ∈ [.modes, .pins, .regs, .agents, .atts, .slices, .ports, .mesh, .events, .counts, .cnts, .cox], K.c p) (hK : K.P s) : K.P (s.handWaiter i l r esc chk) := by
  unfold State.handWaiter; try dsimp only
  with_reducible (repeat' first | assumption | exact K.sub hC rfl | intro _ | apply State.admitIn_kept | apply State.endEsc_kept | apply State.modSl_kept | apply State.passLine_kept | apply State.sliceError_kept | apply State.sliceRetry_kept | apply State.wouldRetry_kept | apply Kept.ite | exact hC _ (by decide) | split | dsimp only)

theorem State.handOver_kept {i : SliceId} {l : Line} {h : Heir} {chk : PassCheck} (hC : ∀ p ∈ [.modes, .pins, .regs, .agents, .atts, .slices, .ports, .mesh, .events, .counts, .cnts, .cox], K.c p) (hK : K.P s) : K.P (s.handOver i l h chk) := by
  unfold State.handOver; try dsimp only
  with_reducible (repeat' first | assumption | exact K.sub hC rfl | intro _ | apply State.advance_kept | apply State.handWaiter_kept | apply State.kickEsc_kept | apply State.modSl_kept | apply State.sweepLine_kept | exact hC _ (by decide) | split | dsimp only)

theorem State.badAnswer_kept {i : SliceId} {n : Nat} {a : AgentId} {v : Snoop} (hC : ∀ p ∈ [.modes, .pins, .regs, .agents, .atts, .slices, .ports, .mesh, .hmap, .events, .counts, .cnts, .cox], K.c p) (hK : K.P s) : K.P (s.badAnswer i n a v) := by
  unfold State.badAnswer; try dsimp only
  with_reducible (repeat' first | assumption | exact K.sub hC rfl | apply State.fenceAgent_kept | apply State.fire_kept | apply State.incF_kept | apply State.modSlot_kept | apply State.queueSnoop_kept | apply Kept.ite | exact hC _ (by decide))

theorem State.goodAnswer_kept {i : SliceId} {n : Nat} {x : Slot} {v : Snoop} {r : RspOp} {stamp : Nat} (hC : ∀ p ∈ [.modes, .pins, .regs, .agents, .atts, .slices, .ports, .mesh, .events, .counts, .cnts, .cox], K.c p) (hK : K.P s) : K.P (s.goodAnswer i n x v r stamp) := by
  unfold State.goodAnswer; try dsimp only
  with_reducible (repeat' first | assumption | exact K.sub hC rfl | apply State.advance_kept | apply State.calSample_kept | apply State.dropHolder_kept | apply State.modSlot_kept | exact hC _ (by decide) | split)

theorem State.answer_kept {i : SliceId} {r : RspOp} {a : AgentId} {h : BitVec 16} {stamp : Nat} (hC : ∀ p ∈ [.modes, .pins, .regs, .agents, .atts, .slices, .ports, .mesh, .hmap, .events, .counts, .cnts, .cox], K.c p) (hK : K.P s) : K.P (s.answer i r a h stamp) := by
  unfold State.answer; try dsimp only
  with_reducible (repeat' first | assumption | exact K.sub hC rfl | apply State.badAnswer_kept | apply State.freeSlot_kept | apply State.goodAnswer_kept | apply State.incF_kept | apply State.modSlot_kept | apply Kept.ite | exact hC _ (by decide) | split)

theorem State.ackSlot_kept {i : SliceId} {n : Nat} (hC : ∀ p ∈ [.modes, .pins, .regs, .agents, .atts, .slices, .ports, .mesh, .events, .counts, .cnts, .cox], K.c p) (hK : K.P s) : K.P (s.ackSlot i n) := by
  unfold State.ackSlot; try dsimp only
  with_reducible (repeat' first | assumption | exact K.sub hC rfl | apply State.advance_kept | apply State.freeSlot_kept | apply State.modSlot_kept | apply State.release_kept | apply Kept.ite | exact hC _ (by decide) | split)

theorem State.conflictAck_kept {i : SliceId} {k : AttId} {q : ReqHdr} (hC : ∀ p ∈ [.regs, .atts, .slices, .mesh, .events, .cnts], K.c p) (hK : K.P s) : K.P (s.conflictAck i k q) := by
  unfold State.conflictAck; try dsimp only
  with_reducible (repeat' first | assumption | exact K.sub hC rfl | apply State.count_kept | apply State.incF_kept | apply State.refuse_kept | apply State.routeNdr_kept | apply Kept.ite | exact hC _ (by decide) | split)

theorem State.rspPass_kept {i : SliceId} {m : RspMsg} (hC : ∀ p ∈ [.modes, .pins, .regs, .agents, .atts, .slices, .ports, .mesh, .hmap, .events, .counts, .cnts, .cox], K.c p) (hK : K.P s) : K.P (s.rspPass i m) := by
  unfold State.rspPass; try dsimp only
  with_reducible (repeat' first | assumption | exact K.sub hC rfl | apply State.ackSlot_kept | apply State.answer_kept | apply State.conflictAck_kept | exact hC _ (by decide) | split)

theorem State.srwDone_kept {i : SliceId} {n : Nat} {w : Srw} {st : MemStatus} (hC : ∀ p ∈ [.regs, .atts, .slices, .ports, .mesh, .events, .cnts], K.c p) (hK : K.P s) : K.P (s.srwDone i n w st) := by
  unfold State.srwDone; try dsimp only
  with_reducible (repeat' first | assumption | exact K.sub hC rfl | apply State.deliver_kept | apply State.modSlot_kept | apply Kept.ite | exact hC _ (by decide))

theorem State.report_kept {i : SliceId} {n : Nat} {p : PortRpt} (hC : ∀ p ∈ [.modes, .pins, .regs, .agents, .atts, .slices, .ports, .mesh, .events, .counts, .cnts, .cox], K.c p) (hK : K.P s) : K.P (s.report i n p) := by
  unfold State.report; try dsimp only
  with_reducible (repeat' first | assumption | exact K.sub hC rfl | apply State.advance_kept | apply State.modSlot_kept | apply State.putHd_kept | apply State.srwDone_kept | apply Kept.ite | exact hC _ (by decide) | split)

theorem State.purgeLine_kept {i : SliceId} {l : Line} (hC : ∀ p ∈ [.regs, .agents, .slices, .ports, .mesh, .events], K.c p) (hK : K.P s) : K.P (s.purgeLine i l) := by
  unfold State.purgeLine; try dsimp only
  with_reducible (repeat' first | assumption | exact K.sub hC rfl | intro _ | apply State.modSl_kept | apply State.queueSweep_kept | apply State.sweepEntry_kept | apply Kept.ite | apply Kept.opt_ite | apply Kept.getD | apply Kept.opt_some | apply Kept.opt_none | exact hC _ (by decide) | split | refine Kept.of_some ?_ ‹_› | dsimp only)

theorem State.rptPass_kept {i : SliceId} {p : PortRpt} (hC : ∀ p ∈ [.modes, .pins, .regs, .agents, .atts, .slices, .ports, .mesh, .events, .counts, .cnts, .cox], K.c p) (hK : K.P s) : K.P (s.rptPass i p) := by
  unfold State.rptPass; try dsimp only
  with_reducible (repeat' first | assumption | exact K.sub hC rfl | apply State.purgeLine_kept | apply State.putHd_kept | apply State.report_kept | apply Kept.ite | exact hC _ (by decide) | split)

theorem execSnoopIssue_kept {i : SliceId} {row : BitVec 3} (hC : ∀ p ∈ [.regs, .atts, .slices, .mesh, .events, .cnts], K.c p) (hK : K.P s) : K.out (execSnoopIssue i row s) := by
  unfold execSnoopIssue; try dsimp only
  with_reducible (repeat' first | assumption | exact K.sub hC rfl | intro _ | apply State.count_kept | apply State.modSl_kept | apply State.modSlot_kept | apply State.routeBisnp_kept | apply Kept.ite | apply Kept.out_ite | apply Kept.opt_bind | apply Kept.optP_bind | apply Kept.out_next | exact hC _ (by decide) | split)

theorem execSnoopTimeout_kept {i : SliceId} {slot : BitVec 10} {a : AgentId} (hC : ∀ p ∈ [.modes, .plinth, .pins, .regs, .agents, .atts, .slices, .ports, .mesh, .hmap, .events, .counts, .cnts, .cox], K.c p) (hK : K.P s) : K.out (execSnoopTimeout i slot a s) := by
  unfold execSnoopTimeout; try dsimp only
  with_reducible (repeat' first | assumption | exact K.sub hC rfl | intro _ | apply State.count_kept | apply State.fenceAgent_kept | apply State.fire_kept | apply State.incF_kept | apply State.modAgent_kept | apply State.modSlot_kept | apply State.queueSnoop_kept | apply State.reach_kept | apply Kept.ite | apply Kept.out_ite | apply Kept.opt_bind | apply Kept.optP_bind | apply Kept.out_next | exact hC _ (by decide) | split)

theorem execSnoopClose_kept {i : SliceId} {slot : BitVec 10} {a : AgentId} (hC : ∀ p ∈ [.plinth, .regs, .slices, .mesh, .counts], K.c p) (hK : K.P s) : K.out (execSnoopClose i slot a s) := by
  unfold execSnoopClose; try dsimp only
  with_reducible (repeat' first | assumption | exact K.sub hC rfl | intro _ | apply State.freeSlot_kept | apply State.modSlot_kept | apply State.reach_kept | apply Kept.ite | apply Kept.out_ite | apply Kept.opt_bind | apply Kept.optP_bind | apply Kept.out_next | exact hC _ (by decide) | split)

theorem execEgressAckLate_kept {i : SliceId} {slot : BitVec 10} (hC : ∀ p ∈ [.plinth, .regs, .slices, .mesh, .events, .cnts], K.c p) (hK : K.P s) : K.out (execEgressAckLate i slot s) := by
  unfold execEgressAckLate; try dsimp only
  with_reducible (repeat' first | assumption | exact K.sub hC rfl | apply State.count_kept | apply State.fire_kept | apply State.incF_kept | apply State.modSlot_kept | apply State.reach_kept | apply Kept.ite | apply Kept.out_ite | apply Kept.out_next | exact hC _ (by decide) | split)

theorem State.escTry_kept {i : SliceId} {r : Req} {chk : PassCheck} (hC : ∀ p ∈ [.modes, .pins, .regs, .agents, .atts, .slices, .ports, .mesh, .events, .counts, .cnts, .cox], K.c p) (hK : K.P s) : K.P (s.escTry i r chk) := by
  unfold State.escTry; try dsimp only
  with_reducible (repeat' first | assumption | exact K.sub hC rfl | intro _ | apply State.admitIn_kept | apply State.bounceReq_kept | apply State.endEsc_kept | apply State.escChain_kept | apply State.modSl_kept | apply State.sliceError_kept | apply Kept.ite | apply Kept.ite_fst | apply Kept.getD | exact hC _ (by decide) | split | refine Kept.of_pair ?_ ‹_› | dsimp only)

theorem State.escRetry_kept {i : SliceId} {chk : PassCheck} (hC : ∀ p ∈ [.modes, .pins, .regs, .agents, .atts, .slices, .ports, .mesh, .events, .counts, .cnts, .cox], K.c p) (hK : K.P s) : K.P (s.escRetry i chk) := by
  unfold State.escRetry; try dsimp only
  with_reducible (repeat' first | assumption | exact K.sub hC rfl | intro _ | apply State.chainStop_kept | apply State.escTry_kept | apply Kept.ite | apply Kept.fold | apply Kept.fold_fst | exact hC _ (by decide) | dsimp only)

theorem execTicketExpiry_kept {i : SliceId} {a : AgentId} (hC : ∀ p ∈ [.plinth, .regs, .slices, .mesh, .events], K.c p) (hK : K.P s) : K.out (execTicketExpiry i a s) := by
  unfold execTicketExpiry; try dsimp only
  with_reducible (repeat' first | assumption | exact K.sub hC rfl | apply State.endTicket_kept | apply State.fire_kept | apply State.incF_kept | apply State.reach_kept | apply Kept.ite | apply Kept.out_ite | apply Kept.out_next | exact hC _ (by decide) | split)

theorem State.trRead_kept {i : SliceId} {t : Nat} {addr : Line} {rd : BucketRead} (hC : ∀ p ∈ [.slices], K.c p) (hK : K.P s) : K.P (s.trRead i t addr rd) := by
  unfold State.trRead; try dsimp only
  with_reducible (repeat' first | assumption | exact K.sub hC rfl | apply State.modSl_kept | exact hC _ (by decide))

theorem State.cleanRds_kept {i : SliceId} {t : Nat} {b : BitVec 12} {rds : List (Line × BucketRead)} (hC : ∀ p ∈ [.regs, .slices, .ports, .mesh], K.c p) (hK : K.P s) : K.P (s.cleanRds i t b rds).1 := by
  unfold State.cleanRds; try dsimp only
  with_reducible (repeat' first | assumption | exact K.sub hC rfl | intro _ | apply State.readBucket_kept | apply Kept.fold | apply Kept.fold_fst | exact hC _ (by decide) | split | refine Kept.of_pair ?_ ‹_› | dsimp only)

theorem State.purgeRecord_kept {i : SliceId} {t : Nat} {v : Transit} {e : Entry} (hC : ∀ p ∈ [.regs, .agents, .slices, .ports, .mesh, .events], K.c p) (hK : K.P s) : K.P (s.purgeRecord i t v e) := by
  unfold State.purgeRecord; try dsimp only
  with_reducible (repeat' first | assumption | exact K.sub hC rfl | intro _ | apply State.applyRec_kept | apply State.heldDiff_kept | apply State.kick_kept | apply State.modSl_kept | apply State.poison_kept | apply Kept.ite | apply Kept.ite_fst | exact hC _ (by decide) | split | refine Kept.of_pair ?_ ‹_› | dsimp only)

theorem State.fillFrom_kept {i : SliceId} {n : Nat} {t : Nat} {v : Transit} {e : Entry} (hC : ∀ p ∈ [.modes, .pins, .regs, .agents, .atts, .slices, .ports, .mesh, .events, .counts, .cnts, .cox], K.c p) (hK : K.P s) : K.P (s.fillFrom i n t v e) := by
  unfold State.fillFrom; try dsimp only
  with_reducible (repeat' first | assumption | exact K.sub hC rfl | intro _ | apply State.decideOr_kept | apply State.fail9_kept | apply State.fillWay_kept | apply State.heldDiff_kept | apply State.modSl_kept | apply State.poison_kept | apply State.purgeRecord_kept | apply Kept.ite | apply Kept.ite_fst | exact hC _ (by decide) | split | refine Kept.of_pair ?_ ‹_› | dsimp only)

theorem State.fetched_kept {i : SliceId} {t : Nat} {v : Transit} {e : Entry} (hC : ∀ p ∈ [.modes, .pins, .regs, .agents, .atts, .slices, .ports, .mesh, .events, .counts, .cnts, .cox], K.c p) (hK : K.P s) : K.P (s.fetched i t v e) := by
  unfold State.fetched; try dsimp only
  with_reducible (repeat' first | assumption | exact K.sub hC rfl | apply State.decideOr_kept | apply State.fillFrom_kept | apply State.purgeRecord_kept | apply Kept.ite | exact hC _ (by decide) | split)

theorem State.recoverFetched_kept {i : SliceId} {n : Nat} {t : Nat} {l : Line} {hit : Bool} (hC : ∀ p ∈ [.modes, .pins, .regs, .agents, .atts, .slices, .ports, .mesh, .events, .counts, .cnts, .cox], K.c p) (hK : K.P s) : K.P (s.recoverFetched i n t l hit) := by
  unfold State.recoverFetched; try dsimp only
  with_reducible (repeat' first | assumption | exact K.sub hC rfl | intro _ | apply State.advance_kept | apply State.modSl_kept | apply State.modSlot_kept | apply Kept.ite | exact hC _ (by decide) | dsimp only)

theorem State.fetchMiss_kept {i : SliceId} {n : Nat} {l : Line} {marker : Option (BitVec 32)} (hC : ∀ p ∈ [.modes, .pins, .regs, .agents, .atts, .slices, .ports, .mesh, .events, .counts, .cnts, .cox], K.c p) (hK : K.P s) : K.P (s.fetchMiss i n l marker) := by
  unfold State.fetchMiss; try dsimp only
  with_reducible (repeat' first | assumption | exact K.sub hC rfl | apply State.copyBack_kept | apply State.count_kept | apply State.decideOr_kept | apply State.fail9_kept | apply State.lostUnder_kept | apply State.waitFetch_kept | apply Kept.ite | apply Kept.ite_fst | exact hC _ (by decide) | split | refine Kept.of_pair ?_ ‹_›)

theorem State.fetchDone_kept {i : SliceId} {t : Nat} {v : Transit} (hC : ∀ p ∈ [.modes, .pins, .regs, .agents, .atts, .slices, .ports, .mesh, .events, .counts, .cnts, .cox], K.c p) (hK : K.P s) : K.P (s.fetchDone i t v) := by
  unfold State.fetchDone; try dsimp only
  with_reducible (repeat' first | assumption | exact K.sub hC rfl | intro _ | apply State.cleanRds_kept | apply State.decideOr_kept | apply State.fetchMiss_kept | apply State.fetched_kept | apply State.kick_kept | apply State.modSl_kept | apply State.readAnnex_kept | apply State.recoverFetched_kept | apply Kept.ite | apply Kept.ite_fst | apply Kept.getD | exact hC _ (by decide) | split | refine Kept.of_pair ?_ ‹_› | dsimp only)

theorem State.lostFor_kept {i : SliceId} {l : Line} {w : Option (Nat × Slot)} (hC : ∀ p ∈ [.modes, .pins, .regs, .agents, .atts, .slices, .ports, .mesh, .events, .counts, .cnts, .cox], K.c p) (hK : K.P s) : K.P (s.lostFor i l w) := by
  unfold State.lostFor; try dsimp only
  with_reducible (repeat' first | assumption | exact K.sub hC rfl | apply State.decideOr_kept | apply State.lostUnder_kept | apply State.startRecover_kept | apply Kept.ite | exact hC _ (by decide) | split)

theorem State.annexDone_kept {i : SliceId} {t : Nat} {v : Transit} (hC : ∀ p ∈ [.modes, .pins, .regs, .agents, .atts, .slices, .ports, .mesh, .events, .counts, .cnts, .cox], K.c p) (hK : K.P s) : K.P (s.annexDone i t v) := by
  unfold State.annexDone; try dsimp only
  with_reducible (repeat' first | assumption | exact K.sub hC rfl | intro _ | apply State.applyRec_kept | apply State.fetched_kept | apply State.incF_kept | apply State.kick_kept | apply State.lostFor_kept | apply State.modSl_kept | apply State.modSlot_kept | exact hC _ (by decide) | split | dsimp only)

theorem State.readsDone_kept {i : SliceId} {t : Nat} {v : Transit} (hC : ∀ p ∈ [.modes, .pins, .regs, .agents, .atts, .slices, .ports, .mesh, .events, .counts, .cnts, .cox], K.c p) (hK : K.P s) : K.P (s.readsDone i t v) := by
  unfold State.readsDone; try dsimp only
  with_reducible (repeat' first | assumption | exact K.sub hC rfl | apply State.annexDone_kept | apply State.applyRec_kept | apply State.cleanRds_kept | apply State.fetchDone_kept | apply State.modSl_kept | apply State.recall_kept | apply State.trDone_kept | apply Kept.ite | exact hC _ (by decide) | split | refine Kept.of_pair ?_ ‹_›)

theorem State.castAfter_kept {i : SliceId} {t : Nat} {as : List Line} (hC : ∀ p ∈ [.regs, .slices, .ports, .mesh], K.c p) (hK : K.P s) : K.P (s.castAfter i t as) := by
  unfold State.castAfter; try dsimp only
  with_reducible (repeat' first | assumption | exact K.sub hC rfl | apply State.castFree_kept | apply Kept.ite | exact hC _ (by decide))

theorem State.loseRecall_kept {i : SliceId} {t : Nat} {v : Transit} (hC : ∀ p ∈ [.regs, .slices, .ports, .mesh, .events], K.c p) (hK : K.P s) : K.P (s.loseRecall i t v) := by
  unfold State.loseRecall; try dsimp only
  with_reducible (repeat' first | assumption | exact K.sub hC rfl | apply State.loseTr_kept | apply State.recordOut_kept | apply Kept.ite | exact hC _ (by decide))

theorem State.trLost_kept {i : SliceId} {t : Nat} {v : Transit} (hC : ∀ p ∈ [.modes, .pins, .regs, .agents, .atts, .slices, .ports, .mesh, .events, .counts, .cnts, .cox], K.c p) (hK : K.P s) : K.P (s.trLost i t v) := by
  unfold State.trLost; try dsimp only
  with_reducible (repeat' first | assumption | exact K.sub hC rfl | intro _ | apply State.advance_kept | apply State.incF_kept | apply State.loseRecall_kept | apply State.loseTr_kept | apply State.lostFor_kept | apply State.modSlot_kept | apply State.startRecover_kept | apply Kept.ite | exact hC _ (by decide) | split | dsimp only)

theorem State.trCheck_kept {i : SliceId} {t : Nat} {chk : PassCheck} (hC : ∀ p ∈ [.modes, .pins, .regs, .agents, .atts, .slices, .ports, .mesh, .events, .counts, .cnts, .cox], K.c p) (hK : K.P s) : K.P (s.trCheck i t chk).1 := by
  unfold State.trCheck; try dsimp only
  with_reducible (repeat' first | assumption | exact K.sub hC rfl | apply State.corrected_kept | apply State.trLost_kept | apply Kept.ite | apply Kept.ite_fst | exact hC _ (by decide) | split | refine Kept.of_pair ?_ ‹_›)

theorem State.annexChosen_kept {i : SliceId} {t : Nat} {v : Transit} (hC : ∀ p ∈ [.regs, .slices, .ports, .mesh, .events, .cnts], K.c p) (hK : K.P s) : K.P (s.annexChosen i t v) := by
  unfold State.annexChosen; try dsimp only
  with_reducible (repeat' first | assumption | exact K.sub hC rfl | intro _ | apply State.modSl_kept | apply State.recall_kept | apply State.toBucket_kept | apply State.writeAnnex_kept | apply Kept.ite | exact hC _ (by decide) | split | dsimp only)

theorem State.wakeHand_kept {i : SliceId} {l : Line} {w : Option (Nat × Slot)} (hC : ∀ p ∈ [.modes, .pins, .regs, .agents, .atts, .slices, .ports, .mesh, .events, .counts, .cnts, .cox], K.c p) (hK : K.P s) : K.P (s.wakeHand i l w) := by
  unfold State.wakeHand; try dsimp only
  with_reducible (repeat' first | assumption | exact K.sub hC rfl | apply State.decideOr_kept | apply State.fetchMiss_kept | apply Kept.ite | exact hC _ (by decide) | split)

theorem State.handAnnex_kept {i : SliceId} {t : Nat} {v : Transit} (hC : ∀ p ∈ [.modes, .pins, .regs, .agents, .atts, .slices, .ports, .mesh, .events, .counts, .cnts, .cox], K.c p) (hK : K.P s) : K.P (s.handAnnex i t v) := by
  unfold State.handAnnex; try dsimp only
  with_reducible (repeat' first | assumption | exact K.sub hC rfl | intro _ | apply State.dropHand_kept | apply State.incF_kept | apply State.lostFor_kept | apply State.setHand_kept | apply State.takeHand_kept | apply State.toBucket_kept | apply State.wakeHand_kept | apply Kept.ite | apply Kept.getD | exact hC _ (by decide) | split | dsimp only)

theorem State.handReads_kept {i : SliceId} {t : Nat} {v : Transit} {addr : Line} {rd : BucketRead} (hC : ∀ p ∈ [.modes, .pins, .regs, .agents, .atts, .slices, .ports, .mesh, .events, .counts, .cnts, .cox], K.c p) (hK : K.P s) : K.P (s.handReads i t v addr rd) := by
  unfold State.handReads; try dsimp only
  with_reducible (repeat' first | assumption | exact K.sub hC rfl | apply State.annexChosen_kept | apply State.cuckooStep_kept | apply State.handAnnex_kept | apply Kept.ite | exact hC _ (by decide))

theorem State.readPass_kept {i : SliceId} {t : Nat} {addr : Line} {rd : BucketRead} {chk : PassCheck} (hC : ∀ p ∈ [.modes, .pins, .regs, .agents, .atts, .slices, .ports, .mesh, .events, .counts, .cnts, .cox], K.c p) (hK : K.P s) : K.P (s.readPass i t addr rd chk) := by
  unfold State.readPass; try dsimp only
  with_reducible (repeat' first | assumption | exact K.sub hC rfl | intro _ | apply State.castAfter_kept | apply State.castFree_kept | apply State.handReads_kept | apply State.modSl_kept | apply State.readsDone_kept | apply State.trCheck_kept | apply State.trRead_kept | apply Kept.ite | apply Kept.ite_fst | exact hC _ (by decide) | split | refine Kept.of_pair ?_ ‹_› | dsimp only)

theorem State.writeDone_kept {i : SliceId} {t : Nat} (hC : ∀ p ∈ [.slices, .mesh, .events], K.c p) (hK : K.P s) : K.P (s.writeDone i t) := by
  unfold State.writeDone; try dsimp only
  with_reducible (repeat' first | assumption | exact K.sub hC rfl | intro _ | apply State.kick_kept | apply State.modSl_kept | apply State.recordOut_kept | apply Kept.ite | exact hC _ (by decide) | split | dsimp only)

theorem State.writePass_kept {i : SliceId} {c : CastCmd} {st : MemStatus} (hC : ∀ p ∈ [.modes, .pins, .regs, .atts, .slices, .ports, .mesh, .events, .counts, .cox], K.c p) (hK : K.P s) : K.P (s.writePass i c st) := by
  unfold State.writePass; try dsimp only
  with_reducible (repeat' first | assumption | exact K.sub hC rfl | apply State.castFree_kept | apply State.fatal_kept | apply State.sendCast_kept | apply State.sliceErr_kept | apply State.writeDone_kept | apply Kept.ite | exact hC _ (by decide))

theorem State.recallIn_kept {i : SliceId} {n : Nat} {t : Nat} {v : Transit} (hC : ∀ p ∈ [.modes, .pins, .regs, .agents, .atts, .slices, .ports, .mesh, .events, .counts, .cnts, .cox], K.c p) (hK : K.P s) : K.P (s.recallIn i n t v) := by
  unfold State.recallIn; try dsimp only
  with_reducible (repeat' first | assumption | exact K.sub hC rfl | apply State.advance_kept | apply State.heldDiff_kept | apply State.loseRsv_kept | apply State.modSl_kept | apply State.putPin_kept | apply State.sendSnoops_kept | apply State.shrink_kept | exact hC _ (by decide) | split)

theorem State.recallPass_kept {i : SliceId} {t : Nat} {chk : PassCheck} (hC : ∀ p ∈ [.modes, .pins, .regs, .agents, .atts, .slices, .ports, .mesh, .events, .counts, .cnts, .cox], K.c p) (hK : K.P s) : K.P (s.recallPass i t chk) := by
  unfold State.recallPass; try dsimp only
  with_reducible (repeat' first | assumption | exact K.sub hC rfl | intro _ | apply State.corrected_kept | apply State.incF_kept | apply State.loseRecall_kept | apply State.modSl_kept | apply State.passLine_kept | apply State.recallIn_kept | apply State.startRecover_kept | apply Kept.ite | exact hC _ (by decide) | split | dsimp only)

theorem State.recoverIn_kept {i : SliceId} {n : Nat} {t : Nat} {l : Line} {mkr : Option (BitVec 32)} (hC : ∀ p ∈ [.modes, .pins, .regs, .agents, .atts, .slices, .ports, .mesh, .events, .counts, .cnts, .cox], K.c p) (hK : K.P s) : K.P (s.recoverIn i n t l mkr) := by
  unfold State.recoverIn; try dsimp only
  with_reducible (repeat' first | assumption | exact K.sub hC rfl | intro _ | apply State.advance_kept | apply State.count_kept | apply State.modSl_kept | apply State.putPin_kept | apply State.readPair_kept | apply State.sendSnoops_kept | exact hC _ (by decide) | dsimp only)

theorem State.recoverPass_kept {i : SliceId} {l : Line} {mkr : Option (BitVec 32)} (hC : ∀ p ∈ [.modes, .pins, .regs, .agents, .atts, .slices, .ports, .mesh, .events, .counts, .cnts, .cox], K.c p) (hK : K.P s) : K.P (s.recoverPass i l mkr) := by
  unfold State.recoverPass; try dsimp only
  with_reducible (repeat' first | assumption | exact K.sub hC rfl | intro _ | apply State.modSl_kept | apply State.recoverIn_kept | apply Kept.ite | exact hC _ (by decide) | split | dsimp only)

end Sys2Proof.Machine
end

