-- ==== Sys2Proof/Laws/KeptBackground.lean ====
section
/-! SUPPORT. What the operations of Machine/Background.lean can write (see Laws/Kept.lean): each lemma lists the parts. -/

namespace Sys2Proof.Machine

set_option linter.unusedTactic false
set_option linter.unreachableTactic false

variable {K : Kept} {s : State}

theorem execBackgroundWaitLimit_kept {i : SliceId} (hC : ∀ p ∈ [.slices], K.c p) (hK : K.P s) : K.out (execBackgroundWaitLimit i s) := by
  unfold execBackgroundWaitLimit; try dsimp only
  with_reducible (repeat' first | assumption | exact K.sub hC rfl | apply State.modSl_kept | apply Kept.ite | apply Kept.out_ite | apply Kept.out_next | exact hC _ (by decide))

theorem State.foundWay_kept {i : SliceId} {set : BitVec 12} {w : BitVec 4} {f : Ecc} (hC : ∀ p ∈ [.modes, .pins, .regs, .atts, .slices, .mesh, .events, .counts, .cnts, .cox], K.c p) (hK : K.P s) : K.P (s.foundWay i set w f) := by
  unfold State.foundWay; try dsimp only
  with_reducible (repeat' first | assumption | exact K.sub hC rfl | apply State.corrected_kept | apply State.loseWay_kept | exact hC _ (by decide) | split)

theorem State.sweepSet_kept {i : SliceId} {set : BitVec 12} (hC : ∀ p ∈ [.regs, .agents, .slices, .ports, .mesh, .events], K.c p) (hK : K.P s) : K.opt (s.sweepSet i set) := by
  unfold State.sweepSet; try dsimp only
  with_reducible (repeat' first | assumption | exact K.sub hC rfl | intro _ | apply State.queueSweep_kept | apply State.sweepEntry_kept | apply Kept.ite | apply Kept.opt_ite | apply Kept.fold | apply Kept.fold_fst | apply Kept.opt_bind | apply Kept.optP_bind | apply Kept.opt_fold | apply Kept.opt_some | apply Kept.opt_none | exact hC _ (by decide) | split | refine Kept.of_some ?_ ‹_›)

theorem State.sweepRec_kept {i : SliceId} {addr : Line} {d : LineData} {h : Nat} (hC : ∀ p ∈ [.regs, .agents, .slices, .ports, .mesh, .events], K.c p) (hK : K.P s) : K.optP (s.sweepRec i addr d h) := by
  unfold State.sweepRec; try dsimp only
  with_reducible (repeat' first | assumption | exact K.sub hC rfl | intro _ | apply State.castOver_kept | apply State.freeAnnex_kept | apply State.heldDiff_kept | apply State.incF_kept | apply State.modSl_kept | apply State.poison_kept | apply State.queueSweep_kept | apply State.recsAhead_kept | apply State.startRecover_kept | apply State.writeAnnex_kept | apply Kept.ite | apply Kept.ite_fst | apply Kept.optP_ite | apply Kept.getD | apply Kept.optP_map | apply Kept.optP_some | apply Kept.optP_none | exact hC _ (by decide) | split | refine Kept.of_pair ?_ ‹_› | refine Kept.of_someP ?_ ‹_› | dsimp only)

theorem State.markerTr_kept {i : SliceId} {rd : BucketRead} {l : Line} (hC : ∀ p ∈ [.slices], K.c p) (hK : K.P s) : K.optP (s.markerTr i rd l) := by
  unfold State.markerTr; try dsimp only
  with_reducible (repeat' first | assumption | exact K.sub hC rfl | intro _ | apply State.modSl_kept | apply Kept.ite | apply Kept.optP_ite | apply Kept.optP_some | apply Kept.optP_none | exact hC _ (by decide) | split | refine Kept.of_someP ?_ ‹_› | dsimp only)

theorem State.sweepBucket_kept {i : SliceId} {b : BitVec 12} {addr : Line} {rd : BucketRead} (hC : ∀ p ∈ [.regs, .agents, .slices, .ports, .mesh, .events], K.c p) (hK : K.P s) : K.opt (s.sweepBucket i b addr rd) := by
  unfold State.sweepBucket; try dsimp only
  with_reducible (repeat' first | assumption | exact K.sub hC rfl | intro _ | apply State.markerTr_kept | apply State.readBucket_kept | apply State.sweepRec_kept | apply Kept.ite | apply Kept.ite_fst | apply Kept.opt_ite | apply Kept.optP_ite | apply Kept.optP_map | apply Kept.opt_map | intro _ | apply Kept.opt_bind | apply Kept.optP_bind | apply Kept.opt_some | apply Kept.opt_none | apply Kept.optP_some | apply Kept.optP_none | exact hC _ (by decide) | split | refine Kept.of_pair ?_ ‹_› | refine Kept.of_some ?_ ‹_› | refine Kept.of_someP ?_ ‹_› | dsimp only)

theorem State.scanOn_kept {i : SliceId} (hC : ∀ p ∈ [.agents, .slices, .events], K.c p) (hK : K.P s) : K.P (s.scanOn i) := by
  unfold State.scanOn; try dsimp only
  with_reducible (repeat' first | assumption | exact K.sub hC rfl | intro _ | apply State.fire_kept | apply State.joinScan_kept | apply State.sweepOff_kept | apply Kept.sl | apply Kept.ite | apply Kept.fold | apply Kept.fold_fst | exact hC _ (by decide))

theorem State.scanDone_kept {i : SliceId} (hC : ∀ p ∈ [.agents, .slices, .mesh, .events], K.c p) (hK : K.P s) : K.P (s.scanDone i) := by
  unfold State.scanDone; try dsimp only
  with_reducible (repeat' first | assumption | exact K.sub hC rfl | intro _ | apply State.fire_kept | apply State.joinScan_kept | apply State.sweepOff_kept | apply Kept.sl | apply Kept.ite | apply Kept.fold | apply Kept.fold_fst | exact hC _ (by decide) | dsimp only)

theorem State.scanFetch_kept {i : SliceId} {k : Nat} {as : List Line} (hC : ∀ p ∈ [.regs, .slices, .ports, .mesh], K.c p) (hK : K.P s) : K.P (s.scanFetch i k as) := by
  unfold State.scanFetch; try dsimp only
  with_reducible (repeat' first | assumption | exact K.sub hC rfl | intro _ | apply State.scanRead_kept | apply Kept.ite | apply Kept.fold | apply Kept.fold_fst | exact hC _ (by decide) | dsimp only)

theorem State.sweepPass_kept {i : SliceId} {finds : List (BitVec 4 × Ecc)} (hC : ∀ p ∈ [.modes, .pins, .regs, .agents, .atts, .slices, .ports, .mesh, .events, .counts, .cnts, .cox], K.c p) (hK : K.P s) : K.P (s.sweepPass i finds) := by
  unfold State.sweepPass; try dsimp only
  with_reducible (repeat' first | assumption | exact K.sub hC rfl | intro _ | apply State.foundWay_kept | apply State.scanFetch_kept | apply State.scanOn_kept | apply State.sweepBucket_kept | apply State.sweepSet_kept | apply Kept.ite | apply Kept.opt_ite | apply Kept.fold | apply Kept.fold_fst | apply Kept.opt_some | apply Kept.opt_none | exact hC _ (by decide) | split | refine Kept.of_some ?_ ‹_› | dsimp only)

theorem State.scrubPass_kept {i : SliceId} {finds : List (BitVec 4 × Ecc)} {bad : List (BitVec 20)} (hC : ∀ p ∈ [.modes, .pins, .regs, .atts, .slices, .mesh, .events, .counts, .cnts, .cox], K.c p) (hK : K.P s) : K.P (s.scrubPass i finds bad) := by
  unfold State.scrubPass; try dsimp only
  with_reducible (repeat' first | assumption | exact K.sub hC rfl | intro _ | apply State.foundWay_kept | apply State.modSl_kept | apply State.sliceErr_kept | apply State.stickyCheck_kept | apply State.wrapF_kept | apply Kept.ite | apply Kept.fold | apply Kept.fold_fst | exact hC _ (by decide) | dsimp only)

theorem State.countBucket_kept {i : SliceId} {b : BitVec 12} {addr : Line} {rd : BucketRead} {recount : Bool} (hC : ∀ p ∈ [.regs, .slices, .ports, .mesh], K.c p) (hK : K.P s) : K.opt (s.countBucket i b addr rd recount) := by
  unfold State.countBucket; try dsimp only
  with_reducible (repeat' first | assumption | exact K.sub hC rfl | intro _ | apply State.markerTr_kept | apply State.modSl_kept | apply State.readBucket_kept | apply Kept.ite | apply Kept.ite_fst | apply Kept.opt_ite | apply Kept.optP_ite | apply Kept.optP_map | apply Kept.opt_map | intro _ | apply Kept.fold | apply Kept.fold_fst | apply Kept.opt_some | apply Kept.opt_none | apply Kept.optP_some | apply Kept.optP_none | exact hC _ (by decide) | split | refine Kept.of_pair ?_ ‹_› | refine Kept.of_some ?_ ‹_› | refine Kept.of_someP ?_ ‹_› | dsimp only)

theorem State.rebuildEnd_kept {i : SliceId} (hC : ∀ p ∈ [.slices, .mesh, .events], K.c p) (hK : K.P s) : K.P (s.rebuildEnd i) := by
  unfold State.rebuildEnd; try dsimp only
  with_reducible (repeat' first | assumption | exact K.sub hC rfl | apply State.fire_kept | apply State.modSl_kept | apply State.stickyCheck_kept | exact hC _ (by decide))

theorem State.rebuildPass_kept {i : SliceId} (hC : ∀ p ∈ [.regs, .slices, .ports, .mesh, .events], K.c p) (hK : K.P s) : K.P (s.rebuildPass i) := by
  unfold State.rebuildPass; try dsimp only
  with_reducible (repeat' first | assumption | exact K.sub hC rfl | intro _ | apply State.countBucket_kept | apply State.modSl_kept | apply State.rebuildEnd_kept | apply State.scanFetch_kept | apply State.stickyCheck_kept | apply Kept.ite | apply Kept.opt_ite | apply Kept.opt_some | apply Kept.opt_none | exact hC _ (by decide) | split | refine Kept.of_some ?_ ‹_› | dsimp only)

theorem State.admitPass_kept {i : SliceId} {b : BitVec 12} (hC : ∀ p ∈ [.regs, .slices, .ports, .mesh, .events], K.c p) (hK : K.P s) : K.P (s.admitPass i b) := by
  unfold State.admitPass; try dsimp only
  with_reducible (repeat' first | assumption | exact K.sub hC rfl | intro _ | apply State.countBucket_kept | apply State.modSl_kept | apply State.scanFetch_kept | apply State.stickyCheck_kept | apply Kept.ite | apply Kept.opt_ite | apply Kept.opt_some | apply Kept.opt_none | exact hC _ (by decide) | split | refine Kept.of_some ?_ ‹_› | dsimp only)

theorem State.modMove_kept {b : BitVec 12} {f : Move → Move} (hC : ∀ p ∈ [.hmap], K.c p) (hK : K.P s) : K.P (s.modMove b f) := by
  unfold State.modMove; try dsimp only
  with_reducible (repeat' first | assumption | exact K.sub hC rfl | apply Kept.ite | exact hC _ (by decide) | exact Or.inl (hC _ (by decide)) | exact Or.inr rfl | rfl | (simp; done) | dsimp only | apply Kept.upd)

theorem State.writeBackPass_kept {i : SliceId} {b : BitVec 12} (hC : ∀ p ∈ [.modes, .pins, .regs, .agents, .atts, .slices, .ports, .mesh, .hmap, .events, .counts, .cnts, .cox], K.c p) (hK : K.P s) : K.P (s.writeBackPass i b) := by
  unfold State.writeBackPass; try dsimp only
  with_reducible (repeat' first | assumption | exact K.sub hC rfl | intro _ | apply State.evict_kept | apply State.inject_kept | apply State.modMove_kept | apply Kept.ite | apply Kept.opt_ite | apply Kept.getD | apply Kept.fold | apply Kept.fold_fst | apply Kept.opt_some | apply Kept.opt_none | exact hC _ (by decide) | exact Or.inl (hC _ (by decide)) | exact Or.inr rfl | rfl | (simp; done) | split | refine Kept.of_some ?_ ‹_› | dsimp only | apply Kept.upd)

theorem execAgeClockAdvance_kept {i : SliceId} (hC : ∀ p ∈ [.slices], K.c p) (hK : K.P s) : K.out (execAgeClockAdvance i s) := by
  unfold execAgeClockAdvance; try dsimp only
  with_reducible (repeat' first | assumption | exact K.sub hC rfl | apply State.modSl_kept | apply Kept.ite | apply Kept.out_ite | apply Kept.out_next | exact hC _ (by decide))

theorem execPredictorDecay_kept {i : SliceId} (hC : ∀ p ∈ [.plinth, .slices], K.c p) (hK : K.P s) : K.out (execPredictorDecay i s) := by
  unfold execPredictorDecay; try dsimp only
  with_reducible (repeat' first | assumption | exact K.sub hC rfl | intro _ | apply State.modSl_kept | apply State.reach_kept | apply Kept.ite | apply Kept.out_ite | apply Kept.out_next | exact hC _ (by decide) | split | dsimp only)

end Sys2Proof.Machine
end

