-- ==== Sys2Proof/Laws/KeptLockstep.lean ====
section
/-! SUPPORT. What the operations of Machine/Lockstep.lean can write (see Laws/Kept.lean): each lemma lists the parts. -/

namespace Sys2Proof.Machine

set_option linter.unusedTactic false
set_option linter.unreachableTactic false

variable {K : Kept} {s : State}

theorem State.runPass_kept {i : SliceId} {p : Pass} {chk : PassCheck} (hC : ∀ p ∈ [.modes, .pins, .regs, .agents, .atts, .slices, .ports, .mesh, .hmap, .events, .counts, .cnts, .cox, .free], K.c p) (hK : K.P s) : K.P (s.runPass i p chk) := by
  unfold State.runPass; try dsimp only
  with_reducible (repeat' first | assumption | exact K.sub hC rfl | apply State.admitPass_kept | apply State.escRetry_kept | apply State.handOver_kept | apply State.newRequest_kept | apply State.readPass_kept | apply State.rebuildPass_kept | apply State.recallPass_kept | apply State.recoverPass_kept | apply State.rptPass_kept | apply State.rspPass_kept | apply State.scrubPass_kept | apply State.smpSelect_kept | apply State.sweepPass_kept | apply State.writeBackPass_kept | apply State.writePass_kept | exact hC _ (by decide) | split | refine Kept.of_pair ?_ ‹_›)

theorem State.keepFreed_kept {i : SliceId} {x : Slice} (hC : ∀ p ∈ [.slices], K.c p) (hK : K.P s) : K.P (s.keepFreed i x) := by
  unfold State.keepFreed; try dsimp only
  with_reducible (repeat' first | assumption | exact K.sub hC rfl | intro _ | apply State.modSl_kept | apply Kept.ite | apply Kept.fold | apply Kept.fold_fst | exact hC _ (by decide) | dsimp only)

theorem State.pass_kept {i : SliceId} {p : Pass} {n : Nat} {chk : PassCheck} (hC : ∀ p ∈ [.modes, .pins, .regs, .agents, .atts, .slices, .ports, .mesh, .hmap, .events, .counts, .cnts, .cox, .free], K.c p) (hK : K.P s) : K.P (s.pass i p n chk) := by
  unfold State.pass; try dsimp only
  with_reducible (repeat' first | assumption | exact K.sub hC rfl | intro _ | apply State.count_kept | apply State.keepFreed_kept | apply State.lookTick_kept | apply State.mismatch_kept | apply State.modSl_kept | apply State.runPass_kept | apply State.scanDone_kept | apply State.wayCheck_kept | apply Kept.ite | exact hC _ (by decide) | split | dsimp only)

theorem State.bgPass_kept {i : SliceId} {p : Pass} {chk : PassCheck} (hC : ∀ p ∈ [.modes, .pins, .regs, .agents, .atts, .slices, .ports, .mesh, .hmap, .events, .counts, .cnts, .cox, .free], K.c p) (hK : K.P s) : K.P (s.bgPass i p chk) := by
  unfold State.bgPass; try dsimp only
  with_reducible (repeat' first | assumption | exact K.sub hC rfl | intro _ | apply State.modSl_kept | apply State.pass_kept | exact hC _ (by decide) | dsimp only)

theorem execNewRequestPass_kept {i : SliceId} {chk : PassCheck} (hC : ∀ p ∈ [.modes, .pins, .regs, .agents, .atts, .slices, .ports, .mesh, .hmap, .events, .counts, .cnts, .cox, .free], K.c p) (hK : K.P s) : K.out (execNewRequestPass i chk s) := by
  unfold execNewRequestPass; try dsimp only
  with_reducible (repeat' first | assumption | exact K.sub hC rfl | intro _ | apply State.modSl_kept | apply State.pass_kept | apply Kept.ite | apply Kept.out_ite | apply Kept.out_next | exact hC _ (by decide) | split | dsimp only)

theorem execSnoopResponsePass_kept {i : SliceId} {chk : PassCheck} (hC : ∀ p ∈ [.modes, .pins, .regs, .agents, .atts, .slices, .ports, .mesh, .hmap, .events, .counts, .cnts, .cox, .free], K.c p) (hK : K.P s) : K.out (execSnoopResponsePass i s chk) := by
  unfold execSnoopResponsePass; try dsimp only
  with_reducible (repeat' first | assumption | exact K.sub hC rfl | intro _ | apply State.modSl_kept | apply State.pass_kept | apply Kept.ite | apply Kept.out_ite | apply Kept.out_next | exact hC _ (by decide) | split | dsimp only)

theorem execEgressAckPass_kept {i : SliceId} {chk : PassCheck} (hC : ∀ p ∈ [.modes, .pins, .regs, .agents, .atts, .slices, .ports, .mesh, .hmap, .events, .counts, .cnts, .cox, .free], K.c p) (hK : K.P s) : K.out (execEgressAckPass i s chk) := by
  unfold execEgressAckPass; try dsimp only
  with_reducible (repeat' first | assumption | exact K.sub hC rfl | intro _ | apply State.modSl_kept | apply State.pass_kept | apply Kept.ite | apply Kept.out_ite | apply Kept.out_next | exact hC _ (by decide) | split | dsimp only)

theorem execSnoopResponseWrite_kept {i : SliceId} {chk : PassCheck} (hC : ∀ p ∈ [.modes, .pins, .regs, .agents, .atts, .slices, .ports, .mesh, .hmap, .events, .counts, .cnts, .cox, .free], K.c p) (hK : K.P s) : K.out (execSnoopResponseWrite i s chk) := by
  unfold execSnoopResponseWrite; try dsimp only
  with_reducible (repeat' first | assumption | exact K.sub hC rfl | intro _ | apply State.modSl_kept | apply State.pass_kept | apply Kept.ite | apply Kept.out_ite | apply Kept.out_next | exact hC _ (by decide) | split | dsimp only)

theorem State.intPass_kept {i : SliceId} {f : IntMsg → Option (Pass × Nat)} {chk : PassCheck} (hC : ∀ p ∈ [.modes, .pins, .regs, .agents, .atts, .slices, .ports, .mesh, .hmap, .events, .counts, .cnts, .cox, .free], K.c p) (hK : K.P s) : K.P (s.intPass i f chk) := by
  unfold State.intPass; try dsimp only
  with_reducible (repeat' first | assumption | exact K.sub hC rfl | intro _ | apply State.modSl_kept | apply State.pass_kept | apply Kept.ite | exact hC _ (by decide) | split | dsimp only)

theorem execHandOverPass_kept {i : SliceId} {chk : PassCheck} (hC : ∀ p ∈ [.modes, .pins, .regs, .agents, .atts, .slices, .ports, .mesh, .hmap, .events, .counts, .cnts, .cox, .free], K.c p) (hK : K.P s) : K.out (execHandOverPass i chk s) := by
  unfold execHandOverPass; try dsimp only
  with_reducible (repeat' first | assumption | exact K.sub hC rfl | intro _ | apply State.intPass_kept | apply Kept.out_next | exact hC _ (by decide) | split | dsimp only)

theorem execPortRpt_kept {i : SliceId} {chk : PassCheck} (hC : ∀ p ∈ [.modes, .pins, .regs, .agents, .atts, .slices, .ports, .mesh, .hmap, .events, .counts, .cnts, .cox, .free], K.c p) (hK : K.P s) : K.out (execPortRpt i s chk) := by
  unfold execPortRpt; try dsimp only
  with_reducible (repeat' first | assumption | exact K.sub hC rfl | intro _ | apply State.intPass_kept | apply Kept.out_next | exact hC _ (by decide) | split | dsimp only)

theorem execReplay_kept {i : SliceId} {chk : PassCheck} (hC : ∀ p ∈ [.modes, .pins, .regs, .agents, .atts, .slices, .ports, .mesh, .hmap, .events, .counts, .cnts, .cox, .free], K.c p) (hK : K.P s) : K.out (execReplay i chk s) := by
  unfold execReplay; try dsimp only
  with_reducible (repeat' first | assumption | exact K.sub hC rfl | intro _ | apply State.intPass_kept | apply Kept.out_next | exact hC _ (by decide) | split | dsimp only)

theorem execEscalationRetry_kept {i : SliceId} {chk : PassCheck} (hC : ∀ p ∈ [.modes, .pins, .regs, .agents, .atts, .slices, .ports, .mesh, .hmap, .events, .counts, .cnts, .cox, .free], K.c p) (hK : K.P s) : K.out (execEscalationRetry i s chk) := by
  unfold execEscalationRetry; try dsimp only
  with_reducible (repeat' first | assumption | exact K.sub hC rfl | intro _ | apply State.intPass_kept | apply Kept.out_next | exact hC _ (by decide) | split | dsimp only)

theorem execCastFetchReturn_kept {i : SliceId} {chk : PassCheck} (hC : ∀ p ∈ [.modes, .pins, .regs, .agents, .atts, .slices, .ports, .mesh, .hmap, .events, .counts, .cnts, .cox, .free], K.c p) (hK : K.P s) : K.out (execCastFetchReturn i s chk) := by
  unfold execCastFetchReturn; try dsimp only
  with_reducible (repeat' first | assumption | exact K.sub hC rfl | intro _ | apply State.intPass_kept | apply Kept.ite | apply Kept.out_ite | apply Kept.out_next | exact hC _ (by decide) | split | dsimp only)

theorem execCuckooBucketRead_kept {i : SliceId} {chk : PassCheck} (hC : ∀ p ∈ [.modes, .pins, .regs, .agents, .atts, .slices, .ports, .mesh, .hmap, .events, .counts, .cnts, .cox, .free], K.c p) (hK : K.P s) : K.out (execCuckooBucketRead i s chk) := by
  unfold execCuckooBucketRead; try dsimp only
  with_reducible (repeat' first | assumption | exact K.sub hC rfl | intro _ | apply State.intPass_kept | apply Kept.ite | apply Kept.out_ite | apply Kept.out_next | exact hC _ (by decide) | split | dsimp only)

theorem execCastWriteCompletion_kept {i : SliceId} {chk : PassCheck} (hC : ∀ p ∈ [.modes, .pins, .regs, .agents, .atts, .slices, .ports, .mesh, .hmap, .events, .counts, .cnts, .cox, .free], K.c p) (hK : K.P s) : K.out (execCastWriteCompletion i s chk) := by
  unfold execCastWriteCompletion; try dsimp only
  with_reducible (repeat' first | assumption | exact K.sub hC rfl | intro _ | apply State.intPass_kept | apply Kept.out_next | exact hC _ (by decide) | split | dsimp only)

theorem execCapacityRecallStart_kept {i : SliceId} {chk : PassCheck} (hC : ∀ p ∈ [.modes, .pins, .regs, .agents, .atts, .slices, .ports, .mesh, .hmap, .events, .counts, .cnts, .cox, .free], K.c p) (hK : K.P s) : K.out (execCapacityRecallStart i s chk) := by
  unfold execCapacityRecallStart; try dsimp only
  with_reducible (repeat' first | assumption | exact K.sub hC rfl | intro _ | apply State.intPass_kept | apply Kept.out_next | exact hC _ (by decide) | split | dsimp only)

theorem execBroadcastRecoveryStart_kept {i : SliceId} {chk : PassCheck} (hC : ∀ p ∈ [.modes, .pins, .regs, .agents, .atts, .slices, .ports, .mesh, .hmap, .events, .counts, .cnts, .cox, .free], K.c p) (hK : K.P s) : K.out (execBroadcastRecoveryStart i s chk) := by
  unfold execBroadcastRecoveryStart; try dsimp only
  with_reducible (repeat' first | assumption | exact K.sub hC rfl | intro _ | apply State.intPass_kept | apply Kept.out_next | exact hC _ (by decide) | split | dsimp only)

theorem execDepartureSweepStep_kept {i : SliceId} {chk : PassCheck} {finds : List (BitVec 4 × Ecc)} (hC : ∀ p ∈ [.modes, .pins, .regs, .agents, .atts, .slices, .ports, .mesh, .hmap, .events, .counts, .cnts, .cox, .free], K.c p) (hK : K.P s) : K.out (execDepartureSweepStep i chk finds s) := by
  unfold execDepartureSweepStep; try dsimp only
  with_reducible (repeat' first | assumption | exact K.sub hC rfl | apply State.bgPass_kept | apply Kept.ite | apply Kept.out_ite | apply Kept.out_next | exact hC _ (by decide))

theorem execPatrolScrubStep_kept {i : SliceId} {chk : PassCheck} {finds : List (BitVec 4 × Ecc)} {bad : List (BitVec 20)} (hC : ∀ p ∈ [.modes, .pins, .regs, .agents, .atts, .slices, .ports, .mesh, .hmap, .events, .counts, .cnts, .cox, .free], K.c p) (hK : K.P s) : K.out (execPatrolScrubStep i finds bad s chk) := by
  unfold execPatrolScrubStep; try dsimp only
  with_reducible (repeat' first | assumption | exact K.sub hC rfl | apply State.bgPass_kept | apply Kept.ite | apply Kept.out_ite | apply Kept.out_next | exact hC _ (by decide))

theorem execSilhouetteRebuildStep_kept {i : SliceId} {chk : PassCheck} (hC : ∀ p ∈ [.modes, .pins, .regs, .agents, .atts, .slices, .ports, .mesh, .hmap, .events, .counts, .cnts, .cox, .free], K.c p) (hK : K.P s) : K.out (execSilhouetteRebuildStep i chk s) := by
  unfold execSilhouetteRebuildStep; try dsimp only
  with_reducible (repeat' first | assumption | exact K.sub hC rfl | apply State.bgPass_kept | apply Kept.ite | apply Kept.out_ite | apply Kept.out_next | exact hC _ (by decide))

theorem execAdmissionScanStep_kept {i : SliceId} {b : BitVec 12} {chk : PassCheck} (hC : ∀ p ∈ [.modes, .pins, .regs, .agents, .atts, .slices, .ports, .mesh, .hmap, .events, .counts, .cnts, .cox, .free], K.c p) (hK : K.P s) : K.out (execAdmissionScanStep i b chk s) := by
  unfold execAdmissionScanStep; try dsimp only
  with_reducible (repeat' first | assumption | exact K.sub hC rfl | apply State.bgPass_kept | apply Kept.ite | apply Kept.out_ite | apply Kept.out_next | exact hC _ (by decide))

theorem execBucketWriteBack_kept {b : BitVec 12} {chk : PassCheck} (hC : ∀ p ∈ [.modes, .pins, .regs, .agents, .atts, .slices, .ports, .mesh, .hmap, .events, .counts, .cnts, .cox, .free], K.c p) (hK : K.P s) : K.out (execBucketWriteBack b s chk) := by
  unfold execBucketWriteBack; try dsimp only
  with_reducible (repeat' first | assumption | exact K.sub hC rfl | apply State.bgPass_kept | apply Kept.ite | apply Kept.out_ite | apply Kept.out_next | exact hC _ (by decide) | split)

end Sys2Proof.Machine
end

