-- ==== Sys2Proof/Laws/KeptLink.lean ====
section
/-! SUPPORT. What the operations of Machine/Link.lean can write (see Laws/Kept.lean): each lemma lists the parts. -/

namespace Sys2Proof.Machine

set_option linter.unusedTactic false
set_option linter.unreachableTactic false

variable {K : Kept} {s : State}

theorem execRdShared_kept {la : AttId} {q : ReqHdr} (hC : ∀ p ∈ [.modes, .pins, .regs, .atts, .slices, .ports, .mesh, .events, .counts, .cnts, .cox], K.c p) (hK : K.P s) : K.out (execRdShared la q s) := by
  unfold execRdShared; try dsimp only
  with_reducible (repeat' first | assumption | exact K.sub hC rfl | apply request_kept | apply Kept.out_next | exact hC _ (by decide))

theorem execRdOwn_kept {la : AttId} {q : ReqHdr} (hC : ∀ p ∈ [.modes, .pins, .regs, .atts, .slices, .ports, .mesh, .events, .counts, .cnts, .cox], K.c p) (hK : K.P s) : K.out (execRdOwn la q s) := by
  unfold execRdOwn; try dsimp only
  with_reducible (repeat' first | assumption | exact K.sub hC rfl | apply request_kept | apply Kept.out_next | exact hC _ (by decide))

theorem execRdCur_kept {la : AttId} {q : ReqHdr} (hC : ∀ p ∈ [.modes, .pins, .regs, .atts, .slices, .ports, .mesh, .events, .counts, .cnts, .cox], K.c p) (hK : K.P s) : K.out (execRdCur la q s) := by
  unfold execRdCur; try dsimp only
  with_reducible (repeat' first | assumption | exact K.sub hC rfl | apply request_kept | apply Kept.out_next | exact hC _ (by decide))

theorem execRdAtomic_kept {la : AttId} {q : ReqHdr} (hC : ∀ p ∈ [.modes, .pins, .regs, .atts, .slices, .ports, .mesh, .events, .counts, .cnts, .cox], K.c p) (hK : K.P s) : K.out (execRdAtomic la q s) := by
  unfold execRdAtomic; try dsimp only
  with_reducible (repeat' first | assumption | exact K.sub hC rfl | apply request_kept | apply Kept.out_next | exact hC _ (by decide))

theorem execInv_kept {la : AttId} {q : ReqHdr} (hC : ∀ p ∈ [.modes, .pins, .regs, .atts, .slices, .ports, .mesh, .events, .counts, .cnts, .cox], K.c p) (hK : K.P s) : K.out (execInv la q s) := by
  unfold execInv; try dsimp only
  with_reducible (repeat' first | assumption | exact K.sub hC rfl | apply request_kept | apply Kept.out_next | exact hC _ (by decide))

theorem execEvictClean_kept {la : AttId} {q : ReqHdr} (hC : ∀ p ∈ [.modes, .pins, .regs, .atts, .slices, .ports, .mesh, .events, .counts, .cnts, .cox], K.c p) (hK : K.P s) : K.out (execEvictClean la q s) := by
  unfold execEvictClean; try dsimp only
  with_reducible (repeat' first | assumption | exact K.sub hC rfl | apply request_kept | apply Kept.out_next | exact hC _ (by decide))

theorem execConflict_kept {la : AttId} {q : ReqHdr} (hC : ∀ p ∈ [.modes, .pins, .regs, .atts, .slices, .ports, .mesh, .events, .counts, .cnts, .cox], K.c p) (hK : K.P s) : K.out (execConflict la q s) := by
  unfold execConflict; try dsimp only
  with_reducible (repeat' first | assumption | exact K.sub hC rfl | apply request_kept | apply Kept.out_next | exact hC _ (by decide))

theorem execFence_kept {la : AttId} {q : ReqHdr} (hC : ∀ p ∈ [.modes, .pins, .regs, .atts, .slices, .ports, .mesh, .events, .counts, .cnts, .cox], K.c p) (hK : K.P s) : K.out (execFence la q s) := by
  unfold execFence; try dsimp only
  with_reducible (repeat' first | assumption | exact K.sub hC rfl | apply request_kept | apply Kept.out_next | exact hC _ (by decide))

theorem execRsvRd_kept {la : AttId} {q : ReqHdr} (hC : ∀ p ∈ [.modes, .pins, .regs, .atts, .slices, .ports, .mesh, .events, .counts, .cnts, .cox], K.c p) (hK : K.P s) : K.out (execRsvRd la q s) := by
  unfold execRsvRd; try dsimp only
  with_reducible (repeat' first | assumption | exact K.sub hC rfl | apply request_kept | apply Kept.out_next | exact hC _ (by decide))

theorem execWrFull_kept {la : AttId} {q : ReqHdr} {w : WrData} (hC : ∀ p ∈ [.modes, .pins, .regs, .atts, .slices, .ports, .mesh, .events, .counts, .cnts, .cox], K.c p) (hK : K.P s) : K.out (execWrFull la q w s) := by
  unfold execWrFull; try dsimp only
  with_reducible (repeat' first | assumption | exact K.sub hC rfl | apply request_kept | apply Kept.out_next | exact hC _ (by decide))

theorem execWrKeep_kept {la : AttId} {q : ReqHdr} {w : WrData} (hC : ∀ p ∈ [.modes, .pins, .regs, .atts, .slices, .ports, .mesh, .events, .counts, .cnts, .cox], K.c p) (hK : K.P s) : K.out (execWrKeep la q w s) := by
  unfold execWrKeep; try dsimp only
  with_reducible (repeat' first | assumption | exact K.sub hC rfl | apply request_kept | apply Kept.out_next | exact hC _ (by decide))

theorem execWrPartial_kept {la : AttId} {q : ReqHdr} {w : WrData} (hC : ∀ p ∈ [.modes, .pins, .regs, .atts, .slices, .ports, .mesh, .events, .counts, .cnts, .cox], K.c p) (hK : K.P s) : K.out (execWrPartial la q w s) := by
  unfold execWrPartial; try dsimp only
  with_reducible (repeat' first | assumption | exact K.sub hC rfl | apply request_kept | apply Kept.out_next | exact hC _ (by decide))

theorem execHatom_kept {la : AttId} {q : ReqHdr} {w : WrData} (hC : ∀ p ∈ [.modes, .pins, .regs, .atts, .slices, .ports, .mesh, .events, .counts, .cnts, .cox], K.c p) (hK : K.P s) : K.out (execHatom la q w s) := by
  unfold execHatom; try dsimp only
  with_reducible (repeat' first | assumption | exact K.sub hC rfl | apply request_kept | apply Kept.out_next | exact hC _ (by decide))

theorem execCondWr_kept {la : AttId} {q : ReqHdr} {w : WrData} (hC : ∀ p ∈ [.modes, .pins, .regs, .atts, .slices, .ports, .mesh, .events, .counts, .cnts, .cox], K.c p) (hK : K.P s) : K.out (execCondWr la q w s) := by
  unfold execCondWr; try dsimp only
  with_reducible (repeat' first | assumption | exact K.sub hC rfl | apply request_kept | apply Kept.out_next | exact hC _ (by decide))

theorem onBirsp_kept {la : AttId} {f : State → State} (hf : ∀ x0, K.P x0 → K.P (f x0)) (hK : K.P s) : K.out (onBirsp la f s) := by
  unfold onBirsp; try dsimp only
  with_reducible (repeat' first | assumption | intro _ | apply Kept.ite | apply Kept.out_ite | apply Kept.out_next | apply Kept.out_fault | apply hf)

theorem execBirspI_kept {la : AttId} {a : AgentId} {h : BitVec 16} {l : Line} (hC : ∀ p ∈ [.modes, .pins, .regs, .agents, .atts, .slices, .mesh, .events, .counts, .cnts, .cox], K.c p) (hK : K.P s) : K.out (execBirspI la a h l s) := by
  unfold execBirspI; try dsimp only
  with_reducible (repeat' first | assumption | exact K.sub hC rfl | intro _ | apply State.birsp_kept | apply onBirsp_kept | apply Kept.out_next | exact hC _ (by decide))

theorem execBirspS_kept {la : AttId} {a : AgentId} {h : BitVec 16} {l : Line} (hC : ∀ p ∈ [.modes, .pins, .regs, .agents, .atts, .slices, .mesh, .events, .counts, .cnts, .cox], K.c p) (hK : K.P s) : K.out (execBirspS la a h l s) := by
  unfold execBirspS; try dsimp only
  with_reducible (repeat' first | assumption | exact K.sub hC rfl | intro _ | apply State.birsp_kept | apply onBirsp_kept | apply Kept.out_next | exact hC _ (by decide))

theorem execBirspE_kept {la : AttId} {a : AgentId} {h : BitVec 16} {l : Line} (hC : ∀ p ∈ [.modes, .pins, .regs, .agents, .atts, .slices, .mesh, .events, .counts, .cnts, .cox], K.c p) (hK : K.P s) : K.out (execBirspE la a h l s) := by
  unfold execBirspE; try dsimp only
  with_reducible (repeat' first | assumption | exact K.sub hC rfl | intro _ | apply State.birsp_kept | apply onBirsp_kept | apply Kept.out_next | exact hC _ (by decide))

theorem execEgressAck_kept {la : AttId} {a : AgentId} {h : BitVec 16} (hC : ∀ p ∈ [.modes, .pins, .regs, .atts, .slices, .mesh, .events, .counts, .cnts, .cox], K.c p) (hK : K.P s) : K.out (execEgressAck la a h s) := by
  unfold execEgressAck; try dsimp only
  with_reducible (repeat' first | assumption | exact K.sub hC rfl | intro _ | apply State.eack_kept | apply onBirsp_kept | apply Kept.out_next | exact hC _ (by decide))

theorem execUnlistedRequest_kept {la : AttId} {ch : InCh} {opc : BitVec 5} {q : ReqHdr} (hC : ∀ p ∈ [.modes, .pins, .regs, .atts, .slices, .mesh, .events, .counts, .cnts, .cox], K.c p) (hK : K.P s) : K.out (execUnlistedRequest la ch opc q s) := by
  unfold execUnlistedRequest; try dsimp only
  with_reducible (repeat' first | assumption | exact K.sub hC rfl | apply State.arrivalError_kept | apply State.count_kept | apply State.fatal_kept | apply State.refuse_kept | apply State.retReq_kept | apply State.retRwd_kept | apply State.takeCredit_kept | apply Kept.ite | apply Kept.out_ite | apply Kept.out_next | apply Kept.out_fault | exact hC _ (by decide) | split | refine Kept.of_some ?_ ‹_›)

theorem execUnlistedBirsp_kept {la : AttId} {opc : BitVec 4} {a : AgentId} (hC : ∀ p ∈ [.modes, .pins, .regs, .atts, .slices, .mesh, .events, .counts, .cnts, .cox], K.c p) (hK : K.P s) : K.out (execUnlistedBirsp la opc a s) := by
  unfold execUnlistedBirsp; try dsimp only
  with_reducible (repeat' first | assumption | exact K.sub hC rfl | apply State.count_kept | apply State.crossing_kept | apply State.fatal_kept | apply State.refuse_kept | apply Kept.ite | apply Kept.out_ite | apply Kept.out_next | apply Kept.out_fault | exact hC _ (by decide))

theorem execCreditReturn_kept {ch : CreditCh} (hC : ∀ p ∈ [.atts, .ports], K.c p) (hK : K.P s) : K.out (execCreditReturn ch s) := by
  unfold execCreditReturn; try dsimp only
  with_reducible (repeat' first | assumption | exact K.sub hC rfl | apply State.modAtt_kept | apply State.modMp_kept | apply Kept.out_next | exact hC _ (by decide) | split)

theorem State.advEvent_kept {k : AttId} {clamped : Bool} (hC : ∀ p ∈ [.mesh, .events], K.c p) (hK : K.P s) : K.P (s.advEvent k clamped) := by
  unfold State.advEvent; try dsimp only
  with_reducible (repeat' first | assumption | exact K.sub hC rfl | apply State.fire_kept | apply Kept.ite | exact hC _ (by decide))

theorem execCreditAdvertisement_kept {ch : CreditCh} (hC : ∀ p ∈ [.atts, .ports, .mesh, .events], K.c p) (hK : K.P s) : K.out (execCreditAdvertisement ch s) := by
  unfold execCreditAdvertisement; try dsimp only
  with_reducible (repeat' first | assumption | exact K.sub hC rfl | apply State.advEvent_kept | apply State.modAtt_kept | apply State.modMp_kept | apply Kept.out_next | exact hC _ (by decide) | split)

theorem execLinkEgressSend_kept {la : AttId} {ch : OutCh} (hC : ∀ p ∈ [.regs, .atts, .slices, .ports, .mesh, .events, .cnts], K.c p) (hK : K.P s) : K.out (execLinkEgressSend la ch s) := by
  unfold execLinkEgressSend; try dsimp only
  with_reducible (repeat' first | assumption | exact K.sub hC rfl | apply State.sendBisnp_kept | apply State.sendDrs_kept | apply State.sendNdr_kept | apply Kept.out_next | exact hC _ (by decide) | split)

theorem execGateRelease_kept {la : AttId} {a : AgentId} {t : BitVec 16} (hC : ∀ p ∈ [.regs, .atts, .slices, .ports, .mesh, .events, .cnts], K.c p) (hK : K.P s) : K.out (execGateRelease la a t s) := by
  unfold execGateRelease; try dsimp only
  with_reducible (repeat' first | assumption | exact K.sub hC rfl | intro _ | apply State.modAtt_kept | apply State.passIn_kept | apply State.pullWait_kept | apply Kept.ite | apply Kept.out_ite | apply Kept.out_next | exact hC _ (by decide) | split | dsimp only)

theorem execBarrierExpiry_kept {la : AttId} {a : AgentId} {o : BitVec 4} (hC : ∀ p ∈ [.plinth, .regs, .atts, .mesh, .events], K.c p) (hK : K.P s) : K.out (execBarrierExpiry la a o s) := by
  unfold execBarrierExpiry; try dsimp only
  with_reducible (repeat' first | assumption | exact K.sub hC rfl | apply State.fire_kept | apply State.incF_kept | apply State.modAtt_kept | apply State.reach_kept | apply Kept.out_next | exact hC _ (by decide) | split)

theorem execDataPull_kept {la : AttId} (hC : ∀ p ∈ [.atts], K.c p) (hK : K.P s) : K.out (execDataPull la s) := by
  unfold execDataPull; try dsimp only
  with_reducible (repeat' first | assumption | exact K.sub hC rfl | apply State.freeBuf_kept | apply State.modAtt_kept | apply Kept.out_next | exact hC _ (by decide) | split)

theorem State.readBeat_kept {la : AttId} {b : RBeat} {bad : Bool} (hC : ∀ p ∈ [.regs, .atts, .slices, .ports, .mesh, .events, .cnts], K.c p) (hK : K.P s) : K.P (s.readBeat la b bad) := by
  unfold State.readBeat; try dsimp only
  with_reducible (repeat' first | assumption | exact K.sub hC rfl | apply State.classPsn_kept | apply State.count_kept | apply State.egDrs_kept | apply State.performPart_kept | apply State.rptTo_kept | apply Kept.ite | exact hC _ (by decide) | split)

theorem execDxbBeat_kept {out : DxbOut} {par : BeatParity} (hC : ∀ p ∈ [.modes, .pins, .regs, .atts, .slices, .ports, .mesh, .events, .counts, .cnts, .cox], K.c p) (hK : K.P s) : K.out (execDxbBeat out par s) := by
  unfold execDxbBeat; try dsimp only
  with_reducible (repeat' first | assumption | exact K.sub hC rfl | apply State.classPsn_kept | apply State.count_kept | apply State.fatal_kept | apply State.modAtt_kept | apply State.modMp_kept | apply State.readBeat_kept | apply Kept.ite | apply Kept.out_ite | apply Kept.out_next | exact hC _ (by decide) | exact Or.inl (hC _ (by decide)) | exact Or.inr rfl | split | rfl | (simp; done) | dsimp only | apply Kept.upd)

end Sys2Proof.Machine
end

