-- ==== Sys2Proof/Laws/KeptAgents.lean ====
section
/-! SUPPORT. What the operations of Machine/Agents.lean can write (see Laws/Kept.lean): each lemma lists the parts. -/

namespace Sys2Proof.Machine

set_option linter.unusedTactic false
set_option linter.unreachableTactic false

variable {K : Kept} {s : State}

theorem State.result_kept {a : AgentId} {r : BitVec 4} (hC : ∀ p ∈ [.agents], K.c p) (hK : K.P s) : K.P (s.result a r) := by
  unfold State.result; try dsimp only
  with_reducible (repeat' first | assumption | exact K.sub hC rfl | apply State.modAgent_kept | exact hC _ (by decide))

theorem State.sendProbes_kept {a : AgentId} {htags : List (BitVec 16)} (hC : ∀ p ∈ [.regs, .atts, .slices, .mesh, .events, .cnts], K.c p) (hK : K.P s) : K.P (s.sendProbes a htags) := by
  unfold State.sendProbes; try dsimp only
  with_reducible (repeat' first | assumption | exact K.sub hC rfl | intro _ | apply State.bounceAt_kept | apply State.routeBisnp_kept | apply Kept.ite | apply Kept.fold | apply Kept.fold_fst | exact hC _ (by decide) | dsimp only)

theorem State.join_kept {a : AgentId} (hC : ∀ p ∈ [.regs, .agents, .atts, .slices, .mesh, .events, .cnts, .free], K.c p) (hK : K.P s) : K.P (s.join a) := by
  unfold State.join; try dsimp only
  with_reducible (repeat' first | assumption | exact K.sub hC rfl | intro _ | apply State.modAgent_kept | apply State.result_kept | apply State.sendProbes_kept | exact hC _ (by decide) | exact Or.inl (hC _ (by decide)) | exact Or.inr rfl | rfl | (simp; done) | split | dsimp only | apply Kept.upd)

theorem execJoin_kept {a : AgentId} (hC : ∀ p ∈ [.regs, .agents, .atts, .slices, .mesh, .events, .cnts, .free], K.c p) (hK : K.P s) : K.out (execJoin a s) := by
  unfold execJoin; try dsimp only
  with_reducible (repeat' first | assumption | exact K.sub hC rfl | apply State.join_kept | apply Kept.ite | apply Kept.out_ite | apply Kept.out_next | exact hC _ (by decide))

theorem execJoinLimitExpiry_kept {a : AgentId} (hC : ∀ p ∈ [.plinth, .agents], K.c p) (hK : K.P s) : K.out (execJoinLimitExpiry a s) := by
  unfold execJoinLimitExpiry; try dsimp only
  with_reducible (repeat' first | assumption | exact K.sub hC rfl | apply State.joinFail_kept | apply State.reach_kept | apply Kept.ite | apply Kept.out_ite | apply Kept.out_next | exact hC _ (by decide) | split)

theorem State.dropTickets_kept {a : AgentId} (hC : ∀ p ∈ [.slices], K.c p) (hK : K.P s) : K.P (s.dropTickets a) := by
  unfold State.dropTickets; try dsimp only
  with_reducible (repeat' first | assumption | exact K.sub hC rfl | intro _ | apply State.endTicket_kept | apply Kept.fold | apply Kept.fold_fst | exact hC _ (by decide))

theorem State.quarantine_kept {a : AgentId} (hC : ∀ p ∈ [.regs, .agents, .slices, .ports, .mesh, .hmap, .events], K.c p) (hK : K.P s) : K.P (s.quarantine a) := by
  unfold State.quarantine; try dsimp only
  with_reducible (repeat' first | assumption | exact K.sub hC rfl | apply State.depart_kept | apply State.dropTickets_kept | apply State.purgeAll_kept | exact hC _ (by decide))

theorem State.leave_kept {a : AgentId} (hC : ∀ p ∈ [.regs, .agents, .slices, .ports, .mesh, .hmap, .events], K.c p) (hK : K.P s) : K.P (s.leave a) := by
  unfold State.leave; try dsimp only
  with_reducible (repeat' first | assumption | exact K.sub hC rfl | apply State.loseRsvAll_kept | apply State.modAgent_kept | apply State.quarantine_kept | apply State.result_kept | exact hC _ (by decide) | split)

theorem execLeave_kept {a : AgentId} (hC : ∀ p ∈ [.regs, .agents, .slices, .ports, .mesh, .hmap, .events], K.c p) (hK : K.P s) : K.out (execLeave a s) := by
  unfold execLeave; try dsimp only
  with_reducible (repeat' first | assumption | exact K.sub hC rfl | apply State.leave_kept | apply Kept.ite | apply Kept.out_ite | apply Kept.out_next | exact hC _ (by decide))

theorem execAgentLeavingDone_kept {a : AgentId} (hC : ∀ p ∈ [.regs, .agents, .slices, .ports, .mesh, .hmap, .events], K.c p) (hK : K.P s) : K.out (execAgentLeavingDone a s) := by
  unfold execAgentLeavingDone; try dsimp only
  with_reducible (repeat' first | assumption | exact K.sub hC rfl | apply State.quarantine_kept | apply Kept.ite | apply Kept.out_ite | apply Kept.out_next | exact hC _ (by decide))

theorem State.fenceCmd_kept {a : AgentId} (hC : ∀ p ∈ [.modes, .pins, .regs, .agents, .atts, .slices, .ports, .mesh, .hmap, .events, .counts, .cnts, .cox], K.c p) (hK : K.P s) : K.P (s.fenceCmd a) := by
  unfold State.fenceCmd; try dsimp only
  with_reducible (repeat' first | assumption | exact K.sub hC rfl | apply State.fenceAgent_kept | apply State.result_kept | exact hC _ (by decide) | split)

theorem execAgentFence_kept {a : AgentId} (hC : ∀ p ∈ [.modes, .pins, .regs, .agents, .atts, .slices, .ports, .mesh, .hmap, .events, .counts, .cnts, .cox], K.c p) (hK : K.P s) : K.out (execAgentFence a s) := by
  unfold execAgentFence; try dsimp only
  with_reducible (repeat' first | assumption | exact K.sub hC rfl | apply State.fenceCmd_kept | apply Kept.ite | apply Kept.out_ite | apply Kept.out_next | exact hC _ (by decide))

theorem State.freeOwed_kept {a : AgentId} (hC : ∀ p ∈ [.regs, .slices, .mesh, .counts], K.c p) (hK : K.P s) : K.P (s.freeOwed a) := by
  unfold State.freeOwed; try dsimp only
  with_reducible (repeat' first | assumption | exact K.sub hC rfl | intro _ | apply State.freeSlot_kept | apply State.modSlot_kept | apply Kept.fold | apply Kept.fold_fst | exact hC _ (by decide))

theorem State.releaseAgent_kept {a : AgentId} (hC : ∀ p ∈ [.regs, .agents, .slices, .mesh, .counts], K.c p) (hK : K.P s) : K.P (s.releaseAgent a) := by
  unfold State.releaseAgent; try dsimp only
  with_reducible (repeat' first | assumption | exact K.sub hC rfl | apply State.freeOwed_kept | apply State.modAgent_kept | apply State.result_kept | apply Kept.ite | exact hC _ (by decide))

theorem execRelease_kept {a : AgentId} (hC : ∀ p ∈ [.regs, .agents, .slices, .mesh, .counts], K.c p) (hK : K.P s) : K.out (execRelease a s) := by
  unfold execRelease; try dsimp only
  with_reducible (repeat' first | assumption | exact K.sub hC rfl | apply State.releaseAgent_kept | apply Kept.ite | apply Kept.out_ite | apply Kept.out_next | exact hC _ (by decide))

theorem State.agentCmd_kept {a : AgentId} {c : Nat} (hC : ∀ p ∈ [.modes, .pins, .regs, .agents, .atts, .slices, .ports, .mesh, .hmap, .events, .counts, .cnts, .cox, .free], K.c p) (hK : K.P s) : K.P (s.agentCmd a c) := by
  unfold State.agentCmd; try dsimp only
  with_reducible (repeat' first | assumption | exact K.sub hC rfl | apply State.fenceCmd_kept | apply State.join_kept | apply State.leave_kept | apply State.releaseAgent_kept | apply State.result_kept | apply Kept.ite | exact hC _ (by decide) | split)

theorem execUnknownAgentCommand_kept {a : AgentId} {cmd : BitVec 4} (hC : ∀ p ∈ [.agents], K.c p) (hK : K.P s) : K.out (execUnknownAgentCommand a cmd s) := by
  unfold execUnknownAgentCommand; try dsimp only
  with_reducible (repeat' first | assumption | exact K.sub hC rfl | apply State.result_kept | apply Kept.ite | apply Kept.out_ite | apply Kept.out_next | exact hC _ (by decide))

theorem State.permit_kept {a : AgentId} {p : Bool} {h : Bool} {r : Bool} (hC : ∀ p ∈ [.regs, .agents, .slices], K.c p) (hK : K.P s) : K.P (s.permit a p h r) := by
  unfold State.permit; try dsimp only
  with_reducible (repeat' first | assumption | exact K.sub hC rfl | apply State.loseRsvAll_kept | apply State.modAgent_kept | apply Kept.ite | exact hC _ (by decide))

theorem execAgentPermissionWrite_kept {a : AgentId} {p : Bool} {h : Bool} {r : Bool} (hC : ∀ p ∈ [.regs, .agents, .slices], K.c p) (hK : K.P s) : K.out (execAgentPermissionWrite a p h r s) := by
  unfold execAgentPermissionWrite; try dsimp only
  with_reducible (repeat' first | assumption | exact K.sub hC rfl | intro _ | apply State.permit_kept | apply State.regG_kept | apply Kept.out_next | exact hC _ (by decide))

theorem State.zero_kept {fs : List Fld} (hC : ∀ p ∈ [.regs], K.c p) (hK : K.P s) : K.P (s.zero fs) := by
  unfold State.zero; try dsimp only
  with_reducible (repeat' first | assumption | exact K.sub hC rfl | intro _ | apply State.putF_kept | apply Kept.fold | apply Kept.fold_fst | exact hC _ (by decide))

theorem State.clearRefuse_kept {k : AttId} (hC : ∀ p ∈ [.regs], K.c p) (hK : K.P s) : K.P (s.clearRefuse k) := by
  unfold State.clearRefuse; try dsimp only
  with_reducible (repeat' first | assumption | exact K.sub hC rfl | apply State.zero_kept | exact hC _ (by decide))

theorem State.clearFlowErr_kept {i : SliceId} (hC : ∀ p ∈ [.regs], K.c p) (hK : K.P s) : K.P (s.clearFlowErr i) := by
  unfold State.clearFlowErr; try dsimp only
  with_reducible (repeat' first | assumption | exact K.sub hC rfl | apply State.zero_kept | exact hC _ (by decide))

theorem State.clearSer_kept {i : SliceId} (hC : ∀ p ∈ [.regs], K.c p) (hK : K.P s) : K.P (s.clearSer i) := by
  unfold State.clearSer; try dsimp only
  with_reducible (repeat' first | assumption | exact K.sub hC rfl | apply State.zero_kept | exact hC _ (by decide))

theorem State.clearHlb_kept {m : PortId} (hC : ∀ p ∈ [.regs], K.c p) (hK : K.P s) : K.P (s.clearHlb m) := by
  unfold State.clearHlb; try dsimp only
  with_reducible (repeat' first | assumption | exact K.sub hC rfl | apply State.zero_kept | exact hC _ (by decide))

theorem State.clearAtm_kept {i : SliceId} (hC : ∀ p ∈ [.regs], K.c p) (hK : K.P s) : K.P (s.clearAtm i) := by
  unfold State.clearAtm; try dsimp only
  with_reducible (repeat' first | assumption | exact K.sub hC rfl | apply State.zero_kept | exact hC _ (by decide))

theorem State.clearMp_kept {m : PortId} (hC : ∀ p ∈ [.regs], K.c p) (hK : K.P s) : K.P (s.clearMp m) := by
  unfold State.clearMp; try dsimp only
  with_reducible (repeat' first | assumption | exact K.sub hC rfl | apply State.zero_kept | exact hC _ (by decide))

theorem State.clearRtrLink_kept {i : Nat} (hC : ∀ p ∈ [.regs], K.c p) (hK : K.P s) : K.P (s.clearRtrLink i) := by
  unfold State.clearRtrLink; try dsimp only
  with_reducible (repeat' first | assumption | exact K.sub hC rfl | apply State.zero_kept | exact hC _ (by decide))

theorem State.clearRtrProbe_kept {i : Nat} (hC : ∀ p ∈ [.routers], K.c p) (hK : K.P s) : K.P (s.clearRtrProbe i) := by
  unfold State.clearRtrProbe; try dsimp only
  with_reducible (repeat' first | assumption | exact K.sub hC rfl | apply Kept.router | exact hC _ (by decide))

theorem State.clearQueue_kept {u : QUnit} (hC : ∀ p ∈ [.regs], K.c p) (hK : K.P s) : K.P (s.clearQueue u) := by
  unfold State.clearQueue; try dsimp only
  with_reducible (repeat' first | assumption | exact K.sub hC rfl | apply State.zero_kept | exact hC _ (by decide))

theorem State.clearMode_kept (hC : ∀ p ∈ [.regs], K.c p) (hK : K.P s) : K.P s.clearMode := by
  unfold State.clearMode; try dsimp only
  with_reducible (repeat' first | assumption | exact K.sub hC rfl | apply State.zero_kept | exact hC _ (by decide))

theorem State.clearReg_kept (hC : ∀ p ∈ [.regs], K.c p) (hK : K.P s) : K.P s.clearReg := by
  unfold State.clearReg; try dsimp only
  with_reducible (repeat' first | assumption | exact K.sub hC rfl | apply State.zero_kept | exact hC _ (by decide))

theorem State.clearEv_kept (hC : ∀ p ∈ [.regs], K.c p) (hK : K.P s) : K.P s.clearEv := by
  unfold State.clearEv; try dsimp only
  with_reducible (repeat' first | assumption | exact K.sub hC rfl | apply State.zero_kept | exact hC _ (by decide))

theorem State.clearSamp_kept (hC : ∀ p ∈ [.regs], K.c p) (hK : K.P s) : K.P s.clearSamp := by
  unfold State.clearSamp; try dsimp only
  with_reducible (repeat' first | assumption | exact K.sub hC rfl | apply State.zero_kept | exact hC _ (by decide))

theorem State.clearLaOrd_kept {k : AttId} (hC : ∀ p ∈ [.regs], K.c p) (hK : K.P s) : K.P (s.clearLaOrd k) := by
  unfold State.clearLaOrd; try dsimp only
  with_reducible (repeat' first | assumption | exact K.sub hC rfl | apply State.zero_kept | exact hC _ (by decide))

theorem State.clearRas_kept {i : SliceId} (hC : ∀ p ∈ [.regs], K.c p) (hK : K.P s) : K.P (s.clearRas i) := by
  unfold State.clearRas; try dsimp only
  with_reducible (repeat' first | assumption | exact K.sub hC rfl | apply State.zero_kept | exact hC _ (by decide))

theorem State.clearRasGlobal_kept (hC : ∀ p ∈ [.regs], K.c p) (hK : K.P s) : K.P s.clearRasGlobal := by
  unfold State.clearRasGlobal; try dsimp only
  with_reducible (repeat' first | assumption | exact K.sub hC rfl | apply State.zero_kept | exact hC _ (by decide))

theorem execLaRefuseClear_kept {k : AttId} (hC : ∀ p ∈ [.regs, .slices, .events, .cnts], K.c p) (hK : K.P s) : K.out (execLaRefuseClear k s) := by
  unfold execLaRefuseClear; try dsimp only
  with_reducible (repeat' first | assumption | exact K.sub hC rfl | intro _ | apply State.clearRefuse_kept | apply State.regLa_kept | apply Kept.out_next | exact hC _ (by decide))

theorem execFlowErrClear_kept {i : SliceId} (hC : ∀ p ∈ [.regs], K.c p) (hK : K.P s) : K.out (execFlowErrClear i s) := by
  unfold execFlowErrClear; try dsimp only
  with_reducible (repeat' first | assumption | exact K.sub hC rfl | intro _ | apply State.clearFlowErr_kept | apply State.regSl_kept | apply Kept.out_next | exact hC _ (by decide))

theorem execSerClear_kept {i : SliceId} (hC : ∀ p ∈ [.regs], K.c p) (hK : K.P s) : K.out (execSerClear i s) := by
  unfold execSerClear; try dsimp only
  with_reducible (repeat' first | assumption | exact K.sub hC rfl | intro _ | apply State.clearSer_kept | apply State.regSl_kept | apply Kept.out_next | exact hC _ (by decide))

theorem execHlbClear_kept {m : PortId} (hC : ∀ p ∈ [.regs], K.c p) (hK : K.P s) : K.out (execHlbClear m s) := by
  unfold execHlbClear; try dsimp only
  with_reducible (repeat' first | assumption | exact K.sub hC rfl | intro _ | apply State.clearHlb_kept | apply State.regMp_kept | apply Kept.out_next | exact hC _ (by decide))

theorem execAtmClear_kept {i : SliceId} (hC : ∀ p ∈ [.regs], K.c p) (hK : K.P s) : K.out (execAtmClear i s) := by
  unfold execAtmClear; try dsimp only
  with_reducible (repeat' first | assumption | exact K.sub hC rfl | intro _ | apply State.clearAtm_kept | apply State.regSl_kept | apply Kept.out_next | exact hC _ (by decide))

theorem execMpClear_kept {m : PortId} (hC : ∀ p ∈ [.regs], K.c p) (hK : K.P s) : K.out (execMpClear m s) := by
  unfold execMpClear; try dsimp only
  with_reducible (repeat' first | assumption | exact K.sub hC rfl | intro _ | apply State.clearMp_kept | apply State.regMp_kept | apply Kept.out_next | exact hC _ (by decide))

theorem execRtrLinkClear_kept {i : Fin 80} (hC : ∀ p ∈ [.regs], K.c p) (hK : K.P s) : K.out (execRtrLinkClear i s) := by
  unfold execRtrLinkClear; try dsimp only
  with_reducible (repeat' first | assumption | exact K.sub hC rfl | intro _ | apply State.clearRtrLink_kept | apply State.regG_kept | apply Kept.out_next | exact hC _ (by decide))

theorem execRtrProbeClear_kept {i : Fin 80} (hC : ∀ p ∈ [.routers], K.c p) (hK : K.P s) : K.out (execRtrProbeClear i s) := by
  unfold execRtrProbeClear; try dsimp only
  with_reducible (repeat' first | assumption | exact K.sub hC rfl | intro _ | apply State.clearRtrProbe_kept | apply State.regG_kept | apply Kept.out_next | exact hC _ (by decide))

theorem execQClear_kept {u : QUnit} (hC : ∀ p ∈ [.regs, .slices, .events, .cnts], K.c p) (hK : K.P s) : K.out (execQClear u s) := by
  unfold execQClear; try dsimp only
  with_reducible (repeat' first | assumption | exact K.sub hC rfl | intro _ | apply State.clearQueue_kept | apply State.regG_kept | apply State.regLa_kept | apply State.regMp_kept | apply State.regSl_kept | apply Kept.out_next | exact hC _ (by decide) | split)

theorem execModeClear_kept (hC : ∀ p ∈ [.regs], K.c p) (hK : K.P s) : K.out (execModeClear s) := by
  unfold execModeClear; try dsimp only
  with_reducible (repeat' first | assumption | exact K.sub hC rfl | intro _ | apply State.clearMode_kept | apply State.regG_kept | apply Kept.out_next | exact hC _ (by decide))

theorem execRegClear_kept (hC : ∀ p ∈ [.regs], K.c p) (hK : K.P s) : K.out (execRegClear s) := by
  unfold execRegClear; try dsimp only
  with_reducible (repeat' first | assumption | exact K.sub hC rfl | intro _ | apply State.clearReg_kept | apply State.regG_kept | apply Kept.out_next | exact hC _ (by decide))

theorem execEvClear_kept (hC : ∀ p ∈ [.regs], K.c p) (hK : K.P s) : K.out (execEvClear s) := by
  unfold execEvClear; try dsimp only
  with_reducible (repeat' first | assumption | exact K.sub hC rfl | intro _ | apply State.clearEv_kept | apply State.regG_kept | apply Kept.out_next | exact hC _ (by decide))

theorem execSampClear_kept (hC : ∀ p ∈ [.regs], K.c p) (hK : K.P s) : K.out (execSampClear s) := by
  unfold execSampClear; try dsimp only
  with_reducible (repeat' first | assumption | exact K.sub hC rfl | intro _ | apply State.clearSamp_kept | apply State.regG_kept | apply Kept.out_next | exact hC _ (by decide))

theorem execLaOrdClear_kept {k : AttId} (hC : ∀ p ∈ [.regs, .slices, .events, .cnts], K.c p) (hK : K.P s) : K.out (execLaOrdClear k s) := by
  unfold execLaOrdClear; try dsimp only
  with_reducible (repeat' first | assumption | exact K.sub hC rfl | intro _ | apply State.clearLaOrd_kept | apply State.regLa_kept | apply Kept.out_next | exact hC _ (by decide))

theorem execRasClear_kept {i : SliceId} (hC : ∀ p ∈ [.regs], K.c p) (hK : K.P s) : K.out (execRasClear i s) := by
  unfold execRasClear; try dsimp only
  with_reducible (repeat' first | assumption | exact K.sub hC rfl | intro _ | apply State.clearRas_kept | apply State.regSl_kept | apply Kept.out_next | exact hC _ (by decide))

theorem execRasGlobalClear_kept (hC : ∀ p ∈ [.regs], K.c p) (hK : K.P s) : K.out (execRasGlobalClear s) := by
  unfold execRasGlobalClear; try dsimp only
  with_reducible (repeat' first | assumption | exact K.sub hC rfl | intro _ | apply State.clearRasGlobal_kept | apply State.regG_kept | apply Kept.out_next | exact hC _ (by decide))

end Sys2Proof.Machine
end

