-- ==== Sys2Proof/Laws/KeptPort.lean ====
section
/-! SUPPORT. What the operations of Machine/Port.lean can write (see Laws/Kept.lean): each lemma lists the parts. -/

namespace Sys2Proof.Machine

set_option linter.unusedTactic false
set_option linter.unreachableTactic false

variable {K : Kept} {s : State}

theorem State.sendRpt_kept {c : MemCmd} {st : MemStatus} {hd : Bool} (hC : ∀ p ∈ [.slices, .mesh], K.c p) (hK : K.P s) : K.P (s.sendRpt c st hd) := by
  unfold State.sendRpt; try dsimp only
  with_reducible (repeat' first | assumption | exact K.sub hC rfl | apply State.rptTo_kept | apply Kept.ite | exact hC _ (by decide))

theorem State.sendBeat_kept {m : PortId} {c : MemCmd} {d : LineData} {psn : Bool} {rpt : Option (SliceId × PortRpt)} (hC : ∀ p ∈ [.ports], K.c p) (hK : K.P s) : K.P (s.sendBeat m c d psn rpt) := by
  unfold State.sendBeat; try dsimp only
  with_reducible (repeat' first | assumption | exact K.sub hC rfl | apply State.modMp_kept | exact hC _ (by decide))

theorem State.memAnswer_kept {m : PortId} {c : MemCmd} {d : LineData} {psn : Bool} {st : MemStatus} {hd : Bool} (hC : ∀ p ∈ [.slices, .ports, .mesh], K.c p) (hK : K.P s) : K.P (s.memAnswer m c d psn st hd) := by
  unfold State.memAnswer; try dsimp only
  with_reducible (repeat' first | assumption | exact K.sub hC rfl | apply State.sendBeat_kept | apply State.sendRpt_kept | apply Kept.ite | exact hC _ (by decide))

theorem State.poisonWay_kept {m : PortId} {k : Nat} {w : Way} (hC : ∀ p ∈ [.regs, .slices, .ports, .mesh, .events, .cnts], K.c p) (hK : K.P s) : K.P (s.poisonWay m k w) := by
  unfold State.poisonWay; try dsimp only
  with_reducible (repeat' first | assumption | exact K.sub hC rfl | apply State.classPsn_kept | apply State.count_kept | apply State.fire_kept | apply State.incF_kept | apply State.modMp_kept | exact hC _ (by decide))

theorem State.mirrorFix_kept {m : PortId} (hC : ∀ p ∈ [.regs, .slices, .mesh, .events, .cnts], K.c p) (hK : K.P s) : K.P (s.mirrorFix m) := by
  unfold State.mirrorFix; try dsimp only
  with_reducible (repeat' first | assumption | exact K.sub hC rfl | apply State.classRec_kept | apply State.count_kept | apply State.fire_kept | apply State.incF_kept | exact hC _ (by decide))

theorem State.readWay_kept {m : PortId} {k : Nat} {w : Way} {par : Parity} (hC : ∀ p ∈ [.regs, .slices, .ports, .mesh, .events, .cnts], K.c p) (hK : K.P s) : K.P (s.readWay m k w par).1 := by
  unfold State.readWay; try dsimp only
  with_reducible (repeat' first | assumption | exact K.sub hC rfl | apply State.count_kept | apply State.fire_kept | apply State.incF_kept | apply State.mirrorFix_kept | apply State.modMp_kept | apply State.poisonWay_kept | apply Kept.ite | apply Kept.ite_fst | exact hC _ (by decide) | split)

theorem State.flushEv_kept {m : PortId} (hC : ∀ p ∈ [.mesh, .events], K.c p) (hK : K.P s) : K.P (s.flushEv m) := by
  unfold State.flushEv; try dsimp only
  with_reducible (repeat' first | assumption | exact K.sub hC rfl | apply State.evLevel_kept | exact hC _ (by decide))

theorem State.settle_kept {m : PortId} (hC : ∀ p ∈ [.ports, .mesh, .events], K.c p) (hK : K.P s) : K.P (s.settle m) := by
  unfold State.settle; try dsimp only
  with_reducible (repeat' first | assumption | exact K.sub hC rfl | apply State.fire_kept | apply State.flushEv_kept | apply State.modMp_kept | apply Kept.ite | exact hC _ (by decide))

theorem State.flush_kept {m : PortId} (hC : ∀ p ∈ [.ports, .mesh, .events], K.c p) (hK : K.P s) : K.P (s.flush m) := by
  unfold State.flush; try dsimp only
  with_reducible (repeat' first | assumption | exact K.sub hC rfl | intro _ | apply State.modMp_kept | apply State.settle_kept | apply Kept.ite | apply Kept.fold | apply Kept.fold_fst | exact hC _ (by decide))

theorem State.maintEnd_kept {m : PortId} (hC : ∀ p ∈ [.regs, .ports, .mesh, .events], K.c p) (hK : K.P s) : K.P (s.maintEnd m) := by
  unfold State.maintEnd; try dsimp only
  with_reducible (repeat' first | assumption | exact K.sub hC rfl | apply State.fire_kept | apply State.modMp_kept | apply State.putF_kept | apply Kept.ite | exact hC _ (by decide) | split)

theorem State.backRpt_kept {l : Line} (hC : ∀ p ∈ [.slices, .mesh], K.c p) (hK : K.P s) : K.P (s.backRpt l) := by
  unfold State.backRpt; try dsimp only
  with_reducible (repeat' first | assumption | exact K.sub hC rfl | apply State.rptTo_kept | apply Kept.ite | exact hC _ (by decide))

theorem State.backDone_kept {m : PortId} {l : Line} (hC : ∀ p ∈ [.regs, .slices, .ports, .mesh, .events], K.c p) (hK : K.P s) : K.P (s.backDone m l) := by
  unfold State.backDone; try dsimp only
  with_reducible (repeat' first | assumption | exact K.sub hC rfl | apply State.backRpt_kept | apply State.maintEnd_kept | apply State.modMp_kept | apply State.settle_kept | apply Kept.ite | exact hC _ (by decide) | split)

theorem State.useWay_kept {m : PortId} {k : Nat} {w : Way} (hC : ∀ p ∈ [.regs, .slices, .ports, .mesh, .events, .cnts], K.c p) (hK : K.P s) : K.P (s.useWay m k w) := by
  unfold State.useWay; try dsimp only
  with_reducible (repeat' first | assumption | exact K.sub hC rfl | apply State.count_kept | apply State.incF_kept | apply State.modMp_kept | apply Kept.ite | exact hC _ (by decide))

theorem State.absorb_kept {m : PortId} {l : Line} {d : LineData} {psn : Bool} {a : AgentId} {k : Nat} {km : Nat} (hC : ∀ p ∈ [.regs, .slices, .ports, .mesh, .events, .cnts], K.c p) (hK : K.P s) : K.P (s.absorb m l d psn a k km) := by
  unfold State.absorb; try dsimp only
  with_reducible (repeat' first | assumption | exact K.sub hC rfl | apply State.count_kept | apply State.modMp_kept | apply State.useWay_kept | apply Kept.ite | exact hC _ (by decide) | split)

theorem State.writeThrough_kept {m : PortId} {c : MemCmd} {d : LineData} {psn : Bool} {a : AgentId} {old : Option (LineData × Bool)} (hC : ∀ p ∈ [.regs, .slices, .ports, .mesh, .events, .cnts], K.c p) (hK : K.P s) : K.P (s.writeThrough m c d psn a old) := by
  unfold State.writeThrough; try dsimp only
  with_reducible (repeat' first | assumption | exact K.sub hC rfl | apply State.count_kept | apply State.modMp_kept | apply State.useWay_kept | apply Kept.ite | exact hC _ (by decide) | split)

theorem State.landWrite_kept {m : PortId} {c : MemCmd} {d : LineData} {psn : Bool} {old : Option (LineData × Bool)} {early : Bool} (hC : ∀ p ∈ [.regs, .slices, .ports, .mesh, .events, .cnts], K.c p) (hK : K.P s) : K.P (s.landWrite m c d psn old early) := by
  unfold State.landWrite; try dsimp only
  with_reducible (repeat' first | assumption | exact K.sub hC rfl | intro _ | apply State.absorb_kept | apply State.memAnswer_kept | apply State.modMp_kept | apply State.sendRpt_kept | apply State.writeThrough_kept | apply Kept.ite | exact hC _ (by decide) | split | dsimp only)

theorem State.finishMerge_kept {m : PortId} {c : MemCmd} {w : WBeat} {d : LineData} {psn : Bool} {early : Bool} (hC : ∀ p ∈ [.regs, .slices, .ports, .mesh, .events, .cnts], K.c p) (hK : K.P s) : K.P (s.finishMerge m c w d psn early) := by
  unfold State.finishMerge; try dsimp only
  with_reducible (repeat' first | assumption | exact K.sub hC rfl | apply State.count_kept | apply State.landWrite_kept | apply State.memAnswer_kept | apply Kept.ite | exact hC _ (by decide))

theorem State.mediaRead_kept {m : PortId} {why : Purpose} {l : Line} (hC : ∀ p ∈ [.slices, .ports, .mesh, .events, .cnts], K.c p) (hK : K.P s) : K.P (s.mediaRead m why l) := by
  unfold State.mediaRead; try dsimp only
  with_reducible (repeat' first | assumption | exact K.sub hC rfl | apply State.count_kept | apply State.modMp_kept | apply Kept.ite | exact hC _ (by decide))

theorem State.prefetchAlong_kept {m : PortId} {l : Line} {stride : Int} (hC : ∀ p ∈ [.regs, .slices, .ports, .mesh, .events, .cnts], K.c p) (hK : K.P s) : K.P (s.prefetchAlong m l stride) := by
  unfold State.prefetchAlong; try dsimp only
  with_reducible (repeat' first | assumption | exact K.sub hC rfl | intro _ | apply State.count_kept | apply State.incF_kept | apply State.mediaRead_kept | apply Kept.ite | apply Kept.fold | apply Kept.fold_fst | exact hC _ (by decide))

theorem State.openWindow_kept {m : PortId} {wlen : Nat} {owner : Bool} (hC : ∀ p ∈ [.regs, .slices, .ports, .mesh, .events, .cnts], K.c p) (hK : K.P s) : K.P (s.openWindow m wlen owner) := by
  unfold State.openWindow; try dsimp only
  with_reducible (repeat' first | assumption | exact K.sub hC rfl | apply State.count_kept | apply State.evLevel_kept | apply State.incF_kept | apply State.modMp_kept | apply Kept.ite | exact hC _ (by decide))

theorem State.drainEnd_kept {m : PortId} (hC : ∀ p ∈ [.regs, .slices, .ports, .mesh, .events, .cnts], K.c p) (hK : K.P s) : K.P (s.drainEnd m) := by
  unfold State.drainEnd; try dsimp only
  with_reducible (repeat' first | assumption | exact K.sub hC rfl | apply State.openWindow_kept | apply Kept.ite | exact hC _ (by decide) | split)

theorem State.windowEnd_kept {m : PortId} (hC : ∀ p ∈ [.ports], K.c p) (hK : K.P s) : K.P (s.windowEnd m) := by
  unfold State.windowEnd; try dsimp only
  with_reducible (repeat' first | assumption | exact K.sub hC rfl | apply State.modMp_kept | exact hC _ (by decide))

theorem State.mpFormat_kept {m : PortId} (hC : ∀ p ∈ [.regs, .mesh, .events], K.c p) (hK : K.P s) : K.P (s.mpFormat m) := by
  unfold State.mpFormat; try dsimp only
  with_reducible (repeat' first | assumption | exact K.sub hC rfl | apply State.fire_kept | apply State.incF_kept | exact hC _ (by decide))

end Sys2Proof.Machine
end

