-- ==== Sys2Proof/Laws/KeptHlb.lean ====
section
/-! SUPPORT. What the operations of Machine/Hlb.lean can write (see Laws/Kept.lean): each lemma lists the parts. -/

namespace Sys2Proof.Machine

set_option linter.unusedTactic false
set_option linter.unreachableTactic false

variable {K : Kept} {s : State}

theorem State.tagFix_kept {m : PortId} (hC : ∀ p ∈ [.regs], K.c p) (hK : K.P s) : K.P (s.tagFix m) := by
  unfold State.tagFix; try dsimp only
  with_reducible (repeat' first | assumption | exact K.sub hC rfl | apply State.incF_kept | exact hC _ (by decide))

theorem State.tagFind_kept {m : PortId} {k : Nat} {w : Way} {f : HlbFind} (hC : ∀ p ∈ [.modes, .pins, .regs, .atts, .ports, .mesh, .events, .counts, .cox], K.c p) (hK : K.P s) : K.P (s.tagFind m k w f) := by
  unfold State.tagFind; try dsimp only
  with_reducible (repeat' first | assumption | exact K.sub hC rfl | intro _ | apply State.classRec_kept | apply State.fatal_kept | apply State.modMp_kept | apply State.tagFix_kept | apply Kept.ite | exact hC _ (by decide) | split | dsimp only)

theorem State.lookTags_kept {m : PortId} {l : Line} {tags : List (BitVec 4 × HlbFind)} (hC : ∀ p ∈ [.modes, .pins, .regs, .atts, .ports, .mesh, .events, .counts, .cox], K.c p) (hK : K.P s) : K.P (s.lookTags m l tags) := by
  unfold State.lookTags; try dsimp only
  with_reducible (repeat' first | assumption | exact K.sub hC rfl | intro _ | apply State.tagFind_kept | apply Kept.ite | apply Kept.fold | apply Kept.fold_fst | exact hC _ (by decide) | split | dsimp only)

theorem State.afterRead_kept {m : PortId} {c : MemCmd} {hit : Bool} (hC : ∀ p ∈ [.regs, .slices, .ports, .mesh, .events, .cnts], K.c p) (hK : K.P s) : K.P (s.afterRead m c hit) := by
  unfold State.afterRead; try dsimp only
  with_reducible (repeat' first | assumption | exact K.sub hC rfl | apply State.prefetchAlong_kept | apply Kept.mp | apply Kept.ite | exact hC _ (by decide) | split)

theorem State.readMiss_kept {m : PortId} {c : MemCmd} (hC : ∀ p ∈ [.regs, .slices, .ports, .mesh, .events, .cnts], K.c p) (hK : K.P s) : K.P (s.readMiss m c) := by
  unfold State.readMiss; try dsimp only
  with_reducible (repeat' first | assumption | exact K.sub hC rfl | apply State.afterRead_kept | apply State.count_kept | apply State.mediaRead_kept | apply Kept.mp | exact hC _ (by decide) | split)

theorem State.demandRead_kept {m : PortId} {c : MemCmd} {par : Parity} (hC : ∀ p ∈ [.regs, .slices, .ports, .mesh, .events, .cnts], K.c p) (hK : K.P s) : K.P (s.demandRead m c par) := by
  unfold State.demandRead; try dsimp only
  with_reducible (repeat' first | assumption | exact K.sub hC rfl | apply State.afterRead_kept | apply State.count_kept | apply State.memAnswer_kept | apply State.readMiss_kept | apply State.readWay_kept | apply State.useWay_kept | apply Kept.ite | exact hC _ (by decide) | split | refine Kept.of_pair ?_ ‹_›)

theorem execRead_kept {m : PortId} {par : Parity} {tags : List (BitVec 4 × HlbFind)} (hC : ∀ p ∈ [.modes, .pins, .regs, .atts, .slices, .ports, .mesh, .events, .counts, .cnts, .cox], K.c p) (hK : K.P s) : K.out (execRead m par s tags) := by
  unfold execRead; try dsimp only
  with_reducible (repeat' first | assumption | exact K.sub hC rfl | intro _ | apply State.demandRead_kept | apply State.lookTags_kept | apply State.modMp_kept | apply Kept.ite | apply Kept.out_ite | apply Kept.out_next | exact hC _ (by decide) | split | dsimp only)

theorem State.takeCmd_kept {m : PortId} {c : MemCmd} {rest : List MemCmd} (hC : ∀ p ∈ [.ports], K.c p) (hK : K.P s) : K.P (s.takeCmd m c rest) := by
  unfold State.takeCmd; try dsimp only
  with_reducible (repeat' first | assumption | exact K.sub hC rfl | apply State.modMp_kept | exact hC _ (by decide))

theorem execWrite_kept {m : PortId} {tags : List (BitVec 4 × HlbFind)} (hC : ∀ p ∈ [.modes, .pins, .regs, .atts, .slices, .ports, .mesh, .events, .counts, .cnts, .cox], K.c p) (hK : K.P s) : K.out (execWrite m s tags) := by
  unfold execWrite; try dsimp only
  with_reducible (repeat' first | assumption | exact K.sub hC rfl | intro _ | apply State.landWrite_kept | apply State.lookTags_kept | apply State.takeCmd_kept | apply Kept.ite | apply Kept.out_ite | apply Kept.out_next | exact hC _ (by decide) | split | dsimp only)

theorem State.merge_kept {m : PortId} {c : MemCmd} {w : WBeat} {par : Parity} (hC : ∀ p ∈ [.regs, .slices, .ports, .mesh, .events, .cnts], K.c p) (hK : K.P s) : K.P (s.merge m c w par) := by
  unfold State.merge; try dsimp only
  with_reducible (repeat' first | assumption | exact K.sub hC rfl | apply State.finishMerge_kept | apply State.mediaRead_kept | apply State.readWay_kept | apply State.useWay_kept | apply Kept.ite | exact hC _ (by decide) | split | refine Kept.of_pair ?_ ‹_›)

theorem execWritePartial_kept {m : PortId} {par : Parity} {tags : List (BitVec 4 × HlbFind)} (hC : ∀ p ∈ [.modes, .pins, .regs, .atts, .slices, .ports, .mesh, .events, .counts, .cnts, .cox], K.c p) (hK : K.P s) : K.out (execWritePartial m par s tags) := by
  unfold execWritePartial; try dsimp only
  with_reducible (repeat' first | assumption | exact K.sub hC rfl | intro _ | apply State.landWrite_kept | apply State.lookTags_kept | apply State.merge_kept | apply State.sendRpt_kept | apply State.takeCmd_kept | apply Kept.ite | apply Kept.out_ite | apply Kept.out_next | exact hC _ (by decide) | split | dsimp only)

theorem execAtomic_kept {m : PortId} {par : Parity} {tags : List (BitVec 4 × HlbFind)} (hC : ∀ p ∈ [.modes, .pins, .regs, .atts, .slices, .ports, .mesh, .events, .counts, .cnts, .cox], K.c p) (hK : K.P s) : K.out (execAtomic m par s tags) := by
  unfold execAtomic; try dsimp only
  with_reducible (repeat' first | assumption | exact K.sub hC rfl | intro _ | apply State.lookTags_kept | apply State.merge_kept | apply State.takeCmd_kept | apply Kept.ite | apply Kept.out_ite | apply Kept.out_next | exact hC _ (by decide) | split | dsimp only)

theorem execCastStoreCommand_kept {m : PortId} (hC : ∀ p ∈ [.ports], K.c p) (hK : K.P s) : K.out (execCastStoreCommand m s) := by
  unfold execCastStoreCommand; try dsimp only
  with_reducible (repeat' first | assumption | exact K.sub hC rfl | apply State.modMp_kept | apply Kept.ite | apply Kept.out_ite | apply Kept.out_next | exact hC _ (by decide) | split)

theorem State.countSent_kept {m : PortId} {c : MCmd} (hC : ∀ p ∈ [.regs, .slices, .mesh, .events, .cnts], K.c p) (hK : K.P s) : K.P (s.countSent m c) := by
  unfold State.countSent; try dsimp only
  with_reducible (repeat' first | assumption | exact K.sub hC rfl | apply State.count_kept | apply State.incF_kept | apply Kept.ite | exact hC _ (by decide) | split)

theorem State.issueWrite_kept {m : PortId} {c : MCmd} (hC : ∀ p ∈ [.ports], K.c p) (hK : K.P s) : K.P (s.issueWrite m c).1 := by
  unfold State.issueWrite; try dsimp only
  with_reducible (repeat' first | assumption | exact K.sub hC rfl | intro _ | apply State.modMp_kept | apply Kept.ite | apply Kept.ite_fst | exact hC _ (by decide) | split | refine Kept.of_pair ?_ ‹_› | dsimp only)

theorem State.castPut_kept {l : Line} {d : Option LineData} (hC : ∀ p ∈ [.mem], K.c p) (hK : K.P s) : K.P (s.castPut l d) := by
  unfold State.castPut; try dsimp only
  with_reducible (repeat' first | assumption | exact K.sub hC rfl | exact hC _ (by decide) | exact Or.inl (hC _ (by decide)) | exact Or.inr rfl | rfl | (simp; done) | dsimp only | apply Kept.upd)

theorem State.readBack_kept {m : PortId} {c : MCmd} {par : Parity} (hC : ∀ p ∈ [.regs, .slices, .ports, .mesh, .events, .cnts], K.c p) (hK : K.P s) : K.P (s.readBack m c par).1 := by
  unfold State.readBack; try dsimp only
  with_reducible (repeat' first | assumption | exact K.sub hC rfl | apply State.readWay_kept | exact hC _ (by decide) | split | refine Kept.of_pair ?_ ‹_›)

theorem State.issue_kept {m : PortId} {c : MCmd} {ctag : Nat} (hC : ∀ p ∈ [.regs, .slices, .ports, .mesh, .events, .cnts, .mem], K.c p) (hK : K.P s) : K.P (s.issue m c ctag) := by
  unfold State.issue; try dsimp only
  with_reducible (repeat' first | assumption | exact K.sub hC rfl | intro _ | apply State.castPut_kept | apply State.countSent_kept | apply State.crossing_kept | apply State.issueWrite_kept | apply State.maxF_kept | apply State.modMp_kept | apply State.sendBeat_kept | apply Kept.ite | apply Kept.ite_fst | apply Kept.getD | exact hC _ (by decide) | split | refine Kept.of_pair ?_ ‹_› | dsimp only)

theorem State.issueChecked_kept {m : PortId} {c : MCmd} {t : Nat} {par : Parity} (hC : ∀ p ∈ [.regs, .slices, .ports, .mesh, .events, .cnts, .mem], K.c p) (hK : K.P s) : K.P (s.issueChecked m c t par) := by
  unfold State.issueChecked; try dsimp only
  with_reducible (repeat' first | assumption | exact K.sub hC rfl | intro _ | apply State.issue_kept | apply State.maintEnd_kept | apply State.modMp_kept | apply State.readBack_kept | apply Kept.ite | apply Kept.ite_fst | exact hC _ (by decide) | refine Kept.of_pair ?_ ‹_› | dsimp only)

theorem execMcmdIssue_kept {m : PortId} {par : Parity} (hC : ∀ p ∈ [.regs, .slices, .ports, .mesh, .events, .cnts, .mem], K.c p) (hK : K.P s) : K.out (execMcmdIssue m s par) := by
  unfold execMcmdIssue; try dsimp only
  with_reducible (repeat' first | assumption | exact K.sub hC rfl | intro _ | apply State.count_kept | apply State.drainEnd_kept | apply State.issueChecked_kept | apply State.modMp_kept | apply Kept.ite | apply Kept.out_ite | apply Kept.out_next | exact hC _ (by decide) | split | dsimp only)

theorem State.beatFor_kept {m : PortId} {c : MCmd} {st : MemStatus} {d : LineData} (hC : ∀ p ∈ [.regs, .slices, .ports, .mesh, .events, .cnts, .mem], K.c p) (hK : K.P s) : K.P (s.beatFor m c st d) := by
  unfold State.beatFor; try dsimp only
  with_reducible (repeat' first | assumption | exact K.sub hC rfl | intro _ | apply State.castPut_kept | apply State.finishMerge_kept | apply State.inject_kept | apply State.memAnswer_kept | apply State.modMp_kept | apply State.toInt_kept | apply Kept.ite | exact hC _ (by decide) | split | dsimp only)

theorem execMrdataBeat_kept {m : PortId} {ctag : BitVec 8} {st : MemStatus} {d : LineData} (hC : ∀ p ∈ [.regs, .slices, .ports, .mesh, .events, .cnts, .mem], K.c p) (hK : K.P s) : K.out (execMrdataBeat m ctag st d s) := by
  unfold execMrdataBeat; try dsimp only
  with_reducible (repeat' first | assumption | exact K.sub hC rfl | apply State.beatFor_kept | apply State.classPsn_kept | apply State.count_kept | apply State.crossing_kept | apply State.drainEnd_kept | apply State.fire_kept | apply State.incF_kept | apply State.mpFormat_kept | apply Kept.mp | apply Kept.ite | apply Kept.out_ite | apply Kept.out_next | exact hC _ (by decide) | split)

theorem State.wrErr_kept {m : PortId} (hC : ∀ p ∈ [.regs, .mesh, .events], K.c p) (hK : K.P s) : K.P (s.wrErr m) := by
  unfold State.wrErr; try dsimp only
  with_reducible (repeat' first | assumption | exact K.sub hC rfl | apply State.classRec_kept | apply State.fire_kept | apply State.incF_kept | exact hC _ (by decide))

theorem State.streamErr_kept {m : PortId} (hC : ∀ p ∈ [.regs, .mesh, .events], K.c p) (hK : K.P s) : K.P (s.streamErr m) := by
  unfold State.streamErr; try dsimp only
  with_reducible (repeat' first | assumption | exact K.sub hC rfl | apply State.fire_kept | apply State.incF_kept | exact hC _ (by decide))

theorem State.reissue_kept {m : PortId} {c : MCmd} {why : Purpose} (hC : ∀ p ∈ [.ports], K.c p) (hK : K.P s) : K.P (s.reissue m c why) := by
  unfold State.reissue; try dsimp only
  with_reducible (repeat' first | assumption | exact K.sub hC rfl | apply State.modMp_kept | exact hC _ (by decide))

theorem State.backFailed_kept {m : PortId} {l : Line} {redirty : Bool} (hC : ∀ p ∈ [.ports], K.c p) (hK : K.P s) : K.P (s.backFailed m l redirty) := by
  unfold State.backFailed; try dsimp only
  with_reducible (repeat' first | assumption | exact K.sub hC rfl | apply State.modMp_kept | apply Kept.ite | exact hC _ (by decide) | split)

theorem State.fenceRpt_kept {m : PortId} {la : AttId} {f : FenceRpt} (hC : ∀ p ∈ [.regs, .atts, .slices, .mesh, .events, .cnts], K.c p) (hK : K.P s) : K.P (s.fenceRpt m la f) := by
  unfold State.fenceRpt; try dsimp only
  with_reducible (repeat' first | assumption | exact K.sub hC rfl | intro _ | apply State.bounceAt_kept | apply State.inject_kept | apply State.modAtt_kept | apply Kept.ite | exact hC _ (by decide) | dsimp only)

theorem State.cmplFor_kept {m : PortId} {c : MCmd} {err : Bool} (hC : ∀ p ∈ [.modes, .pins, .regs, .atts, .slices, .ports, .mesh, .cast, .events, .counts, .cnts, .cox, .mem], K.c p) (hK : K.P s) : K.P (s.cmplFor m c err) := by
  unfold State.cmplFor; try dsimp only
  with_reducible (repeat' first | assumption | exact K.sub hC rfl | intro _ | apply State.backDone_kept | apply State.backFailed_kept | apply State.castPut_kept | apply State.fatal_kept | apply State.fenceRpt_kept | apply State.hdrDone_kept | apply State.incF_kept | apply State.inject_kept | apply State.modMp_kept | apply State.reissue_kept | apply State.sendRpt_kept | apply State.streamErr_kept | apply State.toInt_kept | apply State.windowEnd_kept | apply State.wrErr_kept | apply Kept.ite | exact hC _ (by decide) | split | dsimp only)

theorem State.holdSettle_kept (hC : ∀ p ∈ [.regs], K.c p) (hK : K.P s) : K.P s.holdSettle := by
  unfold State.holdSettle; try dsimp only
  with_reducible (repeat' first | assumption | exact K.sub hC rfl | apply State.putF_kept | apply Kept.ite | exact hC _ (by decide))

theorem State.cmplHeld_kept {m : PortId} {c : MCmd} {err : Bool} (hC : ∀ p ∈ [.modes, .pins, .regs, .atts, .slices, .ports, .mesh, .cast, .events, .counts, .cnts, .cox, .mem], K.c p) (hK : K.P s) : K.P (s.cmplHeld m c err) := by
  unfold State.cmplHeld; try dsimp only
  with_reducible (repeat' first | assumption | exact K.sub hC rfl | apply State.backDone_kept | apply State.backFailed_kept | apply State.castPut_kept | apply State.cmplFor_kept | apply State.holdSettle_kept | apply Kept.ite | exact hC _ (by decide) | split)

theorem execCmpl_kept {m : PortId} {ctag : BitVec 8} {st : MemStatus} (hC : ∀ p ∈ [.modes, .pins, .regs, .atts, .slices, .ports, .mesh, .cast, .events, .counts, .cnts, .cox, .mem], K.c p) (hK : K.P s) : K.out (execCmpl m ctag st s) := by
  unfold execCmpl; try dsimp only
  with_reducible (repeat' first | assumption | exact K.sub hC rfl | apply State.cmplFor_kept | apply State.cmplHeld_kept | apply State.crossing_kept | apply State.drainEnd_kept | apply State.mpFormat_kept | apply Kept.mp | apply Kept.ite | apply Kept.out_ite | apply Kept.out_next | exact hC _ (by decide) | split)

theorem execUnlistedMrespWord_kept {m : PortId} {opc : BitVec 4} (hC : ∀ p ∈ [.regs, .mesh, .events], K.c p) (hK : K.P s) : K.out (execUnlistedMrespWord m opc s) := by
  unfold execUnlistedMrespWord; try dsimp only
  with_reducible (repeat' first | assumption | exact K.sub hC rfl | apply State.crossing_kept | apply State.mpFormat_kept | apply Kept.ite | apply Kept.out_ite | apply Kept.out_next | exact hC _ (by decide))

theorem execWindowReq_kept {m : PortId} {_kind : WKind} {pair : Bool} {wlen : BitVec 11} (hC : ∀ p ∈ [.regs, .ports, .mesh, .events], K.c p) (hK : K.P s) : K.out (execWindowReq m _kind pair wlen s) := by
  unfold execWindowReq; try dsimp only
  with_reducible (repeat' first | assumption | exact K.sub hC rfl | intro _ | apply State.crossing_kept | apply State.modMp_kept | apply State.mpFormat_kept | apply Kept.ite | apply Kept.out_ite | apply Kept.out_next | exact hC _ (by decide) | split | dsimp only)

theorem State.drainStart_kept {m : PortId} {wlen : Nat} {pair : Bool} {owner : Bool} (hC : ∀ p ∈ [.slices, .ports, .mesh, .events, .cnts], K.c p) (hK : K.P s) : K.P (s.drainStart m wlen pair owner) := by
  unfold State.drainStart; try dsimp only
  with_reducible (repeat' first | assumption | exact K.sub hC rfl | apply State.count_kept | apply State.modMp_kept | apply Kept.ite | exact hC _ (by decide))

theorem execWindowArbiterGrant_kept (hC : ∀ p ∈ [.regs, .slices, .ports, .mesh, .events, .cnts], K.c p) (hK : K.P s) : K.out (execWindowArbiterGrant s) := by
  unfold execWindowArbiterGrant; try dsimp only
  with_reducible (repeat' first | assumption | exact K.sub hC rfl | apply State.drainEnd_kept | apply State.drainStart_kept | apply Kept.ite | apply Kept.out_ite | apply Kept.out_next | exact hC _ (by decide) | split)

theorem execWindowRequestStarving_kept {m : PortId} (hC : ∀ p ∈ [.plinth, .ports, .mesh, .events], K.c p) (hK : K.P s) : K.out (execWindowRequestStarving m s) := by
  unfold execWindowRequestStarving; try dsimp only
  with_reducible (repeat' first | assumption | exact K.sub hC rfl | apply State.evLevel_kept | apply State.modMp_kept | apply State.reach_kept | apply Kept.ite | apply Kept.out_ite | apply Kept.out_next | exact hC _ (by decide) | split)

theorem State.drainDrop_kept {m : PortId} (hC : ∀ p ∈ [.regs, .ports, .mesh, .events], K.c p) (hK : K.P s) : K.P (s.drainDrop m) := by
  unfold State.drainDrop; try dsimp only
  with_reducible (repeat' first | assumption | exact K.sub hC rfl | apply State.fire_kept | apply State.incF_kept | apply State.modMp_kept | exact hC _ (by decide))

theorem execDrainLimitExpiry_kept {m : PortId} (hC : ∀ p ∈ [.plinth, .regs, .slices, .ports, .mesh, .events, .cnts], K.c p) (hK : K.P s) : K.out (execDrainLimitExpiry m s) := by
  unfold execDrainLimitExpiry; try dsimp only
  with_reducible (repeat' first | assumption | exact K.sub hC rfl | apply State.drainDrop_kept | apply State.drainEnd_kept | apply State.reach_kept | apply Kept.ite | apply Kept.out_ite | apply Kept.out_next | exact hC _ (by decide) | split)

theorem execWindowLimitExpiry_kept {m : PortId} (hC : ∀ p ∈ [.plinth, .regs, .ports, .mesh, .events], K.c p) (hK : K.P s) : K.out (execWindowLimitExpiry m s) := by
  unfold execWindowLimitExpiry; try dsimp only
  with_reducible (repeat' first | assumption | exact K.sub hC rfl | apply State.fire_kept | apply State.incF_kept | apply State.reach_kept | apply State.windowEnd_kept | apply Kept.out_next | exact hC _ (by decide) | split)

theorem execSweepRequest_kept {m : PortId} (hC : ∀ p ∈ [.slices, .ports, .mesh, .events, .cnts], K.c p) (hK : K.P s) : K.out (execSweepRequest m s) := by
  unfold execSweepRequest; try dsimp only
  with_reducible (repeat' first | assumption | exact K.sub hC rfl | apply State.count_kept | apply Kept.mp | apply Kept.ite | apply Kept.out_ite | apply Kept.out_next | exact hC _ (by decide) | split)

theorem execSweepStep_kept {m : PortId} (hC : ∀ p ∈ [.ports], K.c p) (hK : K.P s) : K.out (execSweepStep m s) := by
  unfold execSweepStep; try dsimp only
  with_reducible (repeat' first | assumption | exact K.sub hC rfl | apply Kept.mp | apply Kept.ite | apply Kept.out_ite | apply Kept.out_next | exact hC _ (by decide))

theorem execFenceClose_kept {m : PortId} (hC : ∀ p ∈ [.ports], K.c p) (hK : K.P s) : K.out (execFenceClose m s) := by
  unfold execFenceClose; try dsimp only
  with_reducible (repeat' first | assumption | exact K.sub hC rfl | apply Kept.mp | apply Kept.ite | apply Kept.out_ite | apply Kept.out_next | exact hC _ (by decide) | split)

theorem execFenceReport_kept {la : AttId} (hC : ∀ p ∈ [.regs, .atts, .slices, .ports, .mesh, .events, .cnts], K.c p) (hK : K.P s) : K.out (execFenceReport la s) := by
  unfold execFenceReport; try dsimp only
  with_reducible (repeat' first | assumption | exact K.sub hC rfl | apply State.fenceCmp_kept | apply State.fire_kept | apply State.modAtt_kept | apply Kept.ite | apply Kept.out_ite | apply Kept.out_next | exact hC _ (by decide) | split)

theorem execEpochAdvance_kept {m : PortId} (hC : ∀ p ∈ [.plinth, .ports], K.c p) (hK : K.P s) : K.out (execEpochAdvance m s) := by
  unfold execEpochAdvance; try dsimp only
  with_reducible (repeat' first | assumption | exact K.sub hC rfl | apply State.reach_kept | apply Kept.mp | apply Kept.ite | apply Kept.out_ite | apply Kept.out_next | exact hC _ (by decide))

theorem execAgeEngineVisit_kept {m : PortId} (hC : ∀ p ∈ [.ports], K.c p) (hK : K.P s) : K.out (execAgeEngineVisit m s) := by
  unfold execAgeEngineVisit; try dsimp only
  with_reducible (repeat' first | assumption | exact K.sub hC rfl | intro _ | apply Kept.mp | apply Kept.ite | apply Kept.out_ite | apply Kept.fold | apply Kept.fold_fst | apply Kept.out_next | exact hC _ (by decide) | split)

theorem State.hlbScrubWay_kept {m : PortId} {k : Nat} {f : HlbFind} (hC : ∀ p ∈ [.modes, .pins, .regs, .atts, .slices, .ports, .mesh, .events, .counts, .cnts, .cox], K.c p) (hK : K.P s) : K.P (s.hlbScrubWay m k f) := by
  unfold State.hlbScrubWay; try dsimp only
  with_reducible (repeat' first | assumption | exact K.sub hC rfl | apply State.mirrorFix_kept | apply State.poisonWay_kept | apply State.tagFind_kept | apply Kept.ite | exact hC _ (by decide) | split)

theorem execHlbScrubStep_kept {m : PortId} {finds : List (BitVec 4 × HlbFind)} (hC : ∀ p ∈ [.modes, .pins, .regs, .atts, .slices, .ports, .mesh, .events, .counts, .cnts, .cox], K.c p) (hK : K.P s) : K.out (execHlbScrubStep m finds s) := by
  unfold execHlbScrubStep; try dsimp only
  with_reducible (repeat' first | assumption | exact K.sub hC rfl | intro _ | apply State.hlbScrubWay_kept | apply State.modMp_kept | apply Kept.ite | apply Kept.out_ite | apply Kept.fold | apply Kept.fold_fst | apply Kept.out_next | exact hC _ (by decide))

theorem State.maintStart_kept {m : PortId} (hC : ∀ p ∈ [.regs, .ports], K.c p) (hK : K.P s) : K.P (s.maintStart m) := by
  unfold State.maintStart; try dsimp only
  with_reducible (repeat' first | assumption | exact K.sub hC rfl | apply State.modMp_kept | apply State.putF_kept | apply Kept.ite | exact hC _ (by decide))

theorem execHlbMaintStart_kept {m : PortId} {op : BitVec 2} {setway : Bool} {all : Bool} (hC : ∀ p ∈ [.regs, .ports], K.c p) (hK : K.P s) : K.out (execHlbMaintStart m op setway all s) := by
  unfold execHlbMaintStart; try dsimp only
  with_reducible (repeat' first | assumption | exact K.sub hC rfl | intro _ | apply State.maintStart_kept | apply State.putF_kept | apply State.regMp_kept | apply Kept.ite | apply Kept.out_ite | apply Kept.out_next | exact hC _ (by decide))

theorem State.maintWay_kept {m : PortId} {t : Maint} {k : Nat} (hC : ∀ p ∈ [.regs, .ports], K.c p) (hK : K.P s) : K.P (s.maintWay m t k) := by
  unfold State.maintWay; try dsimp only
  with_reducible (repeat' first | assumption | exact K.sub hC rfl | apply State.incF_kept | apply State.modMp_kept | apply Kept.ite | exact hC _ (by decide) | split)

theorem execHlbMaintVisit_kept {m : PortId} (hC : ∀ p ∈ [.regs, .ports, .mesh, .events], K.c p) (hK : K.P s) : K.out (execHlbMaintVisit m s) := by
  unfold execHlbMaintVisit; try dsimp only
  with_reducible (repeat' first | assumption | exact K.sub hC rfl | intro _ | apply State.maintEnd_kept | apply State.maintWay_kept | apply State.modMp_kept | apply Kept.ite | apply Kept.out_ite | apply Kept.fold | apply Kept.fold_fst | apply Kept.out_next | exact hC _ (by decide) | split)

theorem State.hlbDisable_kept {m : PortId} (hC : ∀ p ∈ [.regs, .ports, .mesh, .events], K.c p) (hK : K.P s) : K.P (s.hlbDisable m) := by
  unfold State.hlbDisable; try dsimp only
  with_reducible (repeat' first | assumption | exact K.sub hC rfl | apply State.flush_kept | apply State.modMp_kept | apply State.putF_kept | apply Kept.ite | exact hC _ (by decide))

theorem State.hlbEnable_kept {m : PortId} (hC : ∀ p ∈ [.regs, .ports, .mesh, .events], K.c p) (hK : K.P s) : K.P (s.hlbEnable m) := by
  unfold State.hlbEnable; try dsimp only
  with_reducible (repeat' first | assumption | exact K.sub hC rfl | apply State.flushEv_kept | apply State.modMp_kept | apply State.putF_kept | apply Kept.ite | exact hC _ (by decide) | split)

theorem execHlbDisable_kept {m : PortId} (hC : ∀ p ∈ [.regs, .ports, .mesh, .events], K.c p) (hK : K.P s) : K.out (execHlbDisable m s) := by
  unfold execHlbDisable; try dsimp only
  with_reducible (repeat' first | assumption | exact K.sub hC rfl | intro _ | apply State.hlbDisable_kept | apply State.regMp_kept | apply Kept.out_next | exact hC _ (by decide))

theorem execHlbEnable_kept {m : PortId} (hC : ∀ p ∈ [.regs, .ports, .mesh, .events], K.c p) (hK : K.P s) : K.out (execHlbEnable m s) := by
  unfold execHlbEnable; try dsimp only
  with_reducible (repeat' first | assumption | exact K.sub hC rfl | intro _ | apply State.hlbEnable_kept | apply State.regMp_kept | apply Kept.out_next | exact hC _ (by decide))

end Sys2Proof.Machine
end

