-- ==== Sys2Proof/Laws/KeptCal.lean ====
section
/-! SUPPORT. What the operations of Machine/Cal.lean can write (see Laws/Kept.lean): each lemma lists the parts. -/

namespace Sys2Proof.Machine

set_option linter.unusedTactic false
set_option linter.unreachableTactic false

variable {K : Kept} {s : State}

theorem State.calVisit_kept {a : AgentId} {acc : Store Nat × Nat} (hC : ∀ p ∈ [.agents, .hists], K.c p) (hK : K.P s) : K.P (s.calVisit a acc).1 := by
  unfold State.calVisit; try dsimp only
  with_reducible (repeat' first | assumption | exact K.sub hC rfl | intro _ | apply Kept.agent | apply Kept.hist | apply Kept.ite | apply Kept.ite_fst | apply Kept.fold | apply Kept.fold_fst | exact hC _ (by decide))

theorem State.calAdd_kept {a : AgentId} {rtt : Nat} (hC : ∀ p ∈ [.hists], K.c p) (hK : K.P s) : K.P (s.calAdd a rtt) := by
  unfold State.calAdd; try dsimp only
  with_reducible (repeat' first | assumption | exact K.sub hC rfl | apply Kept.hist | exact hC _ (by decide))

theorem State.calTake_kept {o : Obs (AgentId × Nat × Nat)} (hC : ∀ p ∈ [.hists], K.c p) (hK : K.P s) : K.P (s.calTake o) := by
  unfold State.calTake; try dsimp only
  with_reducible (repeat' first | assumption | exact K.sub hC rfl | apply State.calAdd_kept | exact hC _ (by decide) | split)

theorem execCalibrationSample_kept {i : SliceId} (hC : ∀ p ∈ [.modes, .pins, .regs, .hists, .atts, .slices, .mesh, .events, .counts, .cox], K.c p) (hK : K.P s) : K.out (execCalibrationSample i s) := by
  unfold execCalibrationSample; try dsimp only
  with_reducible (repeat' first | assumption | exact K.sub hC rfl | intro _ | apply State.calTake_kept | apply State.modSl_kept | apply State.underrun_kept | apply Kept.ite | apply Kept.out_ite | apply Kept.fold | apply Kept.fold_fst | apply Kept.out_next | exact hC _ (by decide) | split | dsimp only)

theorem State.calDrain_kept {i : SliceId} (hC : ∀ p ∈ [.hists, .slices], K.c p) (hK : K.P s) : K.P (s.calDrain i) := by
  unfold State.calDrain; try dsimp only
  with_reducible (repeat' first | assumption | exact K.sub hC rfl | intro _ | apply State.calTake_kept | apply State.modSl_kept | apply Kept.fold | apply Kept.fold_fst | exact hC _ (by decide) | dsimp only)

theorem State.setDecay_kept {v : Nat} (hC : ∀ p ∈ [.regs], K.c p) (hK : K.P s) : K.P (s.setDecay v) := by
  unfold State.setDecay; try dsimp only
  with_reducible (repeat' first | assumption | exact K.sub hC rfl | intro _ | apply State.putF_kept | apply Kept.fold | apply Kept.fold_fst | exact hC _ (by decide))

theorem State.calBlock_kept {h : Store Nat} {n : Nat} (hC : ∀ p ∈ [.regs], K.c p) (hK : K.P s) : K.P (s.calBlock h n) := by
  unfold State.calBlock; try dsimp only
  with_reducible (repeat' first | assumption | exact K.sub hC rfl | apply State.putF_kept | apply State.setDecay_kept | apply Kept.ite | exact hC _ (by decide) | split)

theorem execCalibrationWindowEnd_kept (hC : ∀ p ∈ [.modes, .plinth, .regs, .agents, .hists, .slices, .mesh, .events, .cal], K.c p) (hK : K.P s) : K.out (execCalibrationWindowEnd s) := by
  unfold execCalibrationWindowEnd; try dsimp only
  with_reducible (repeat' first | assumption | exact K.sub hC rfl | intro _ | apply State.calBlock_kept | apply State.calDrain_kept | apply State.calVisit_kept | apply State.fire_kept | apply State.putF_kept | apply State.reach_kept | apply State.wrapF_kept | apply Kept.ite | apply Kept.out_ite | apply Kept.fold | apply Kept.fold_fst | apply Kept.out_next | exact hC _ (by decide) | exact Or.inl (hC _ (by decide)) | exact Or.inr rfl | split | refine Kept.of_pair ?_ ‹_› | rfl | (simp; done) | dsimp only | apply Kept.upd)

end Sys2Proof.Machine
end

