-- ==== Sys2Proof/Laws/KeptArmature.lean ====
section
/-! SUPPORT. What the operations of Machine/Armature.lean can write (see Laws/Kept.lean): each lemma lists the parts. -/

namespace Sys2Proof.Machine

set_option linter.unusedTactic false
set_option linter.unreachableTactic false

variable {K : Kept} {s : State}

theorem State.linkNak_kept {i : Nat} {l : LinkPort} {plane : Bool} {seq : BitVec 6} (hC : ∀ p ∈ [.modes, .pins, .regs, .atts, .mesh, .routers, .events, .counts, .cox], K.c p) (hK : K.P s) : K.P (s.linkNak i l plane seq) := by
  unfold State.linkNak; try dsimp only
  with_reducible (repeat' first | assumption | exact K.sub hC rfl | apply State.fatal_kept | apply State.fire_kept | apply Kept.router | apply Kept.ite | exact hC _ (by decide))

theorem State.idleFlit_kept {i : Nat} {l : LinkPort} {plane : Bool} (hC : ∀ p ∈ [.routers], K.c p) (hK : K.P s) : K.P (s.idleFlit i l plane) := by
  unfold State.idleFlit; try dsimp only
  with_reducible (repeat' first | assumption | exact K.sub hC rfl | apply Kept.router | apply Kept.ite | exact hC _ (by decide))

theorem State.setRing_kept {g : Nat} {x : List (BitVec 256)} (hC : ∀ p ∈ [.mesh], K.c p) (hK : K.P s) : K.P (s.setRing g x) := by
  unfold State.setRing; try dsimp only
  with_reducible (repeat' first | assumption | exact K.sub hC rfl | exact hC _ (by decide) | exact Or.inl (hC _ (by decide)) | exact Or.inr rfl | rfl | (simp; done) | dsimp only | apply Kept.upd)

theorem State.ringGap_kept {i : Nat} (hC : ∀ p ∈ [.regs, .mesh, .events], K.c p) (hK : K.P s) : K.P (s.ringGap i) := by
  unfold State.ringGap; try dsimp only
  with_reducible (repeat' first | assumption | exact K.sub hC rfl | apply State.classRec_kept | apply State.fire_kept | apply State.queueNote_kept | apply State.setRing_kept | apply Kept.ite | exact hC _ (by decide) | split)

theorem State.ringAdd_kept {i n : Nat} {es : List (BitVec 256)} (hC : ∀ p ∈ [.regs, .mesh, .events], K.c p) (hK : K.P s) :
    K.P (State.ringAdd i n es s) := by
  induction es generalizing n s with
  | nil => cases n <;> exact hK
  | cons e es ih =>
    cases n with
    | zero => exact ih (State.ringGap_kept (K.sub hC rfl) hK)
    | succ n => exact ih (Kept.ite (State.setRing_kept (K.sub hC rfl) hK) (State.ringGap_kept (K.sub hC rfl) hK))

theorem State.prbAdd_kept {i : Nat} {n : Nat} {m : Nat} (hC : ∀ p ∈ [.routers], K.c p) (hK : K.P s) : K.P (s.prbAdd i n m) := by
  unfold State.prbAdd; try dsimp only
  with_reducible (repeat' first | assumption | exact K.sub hC rfl | apply Kept.router | apply Kept.ite | exact hC _ (by decide))

theorem State.probe_kept {i : Nat} {l : LinkPort} {plane : Bool} {f : Flit} (hC : ∀ p ∈ [.regs, .mesh, .routers, .events], K.c p) (hK : K.P s) : K.P (s.probe i l plane f) := by
  unfold State.probe; try dsimp only
  with_reducible (repeat' first | assumption | exact K.sub hC rfl | apply State.prbAdd_kept | apply State.ringAdd_kept | apply Kept.ite | exact hC _ (by decide))

theorem State.injectNext_kept {i : Nat} {plane : Bool} (hC : ∀ p ∈ [.modes, .pins, .regs, .atts, .mesh, .routers, .events, .counts, .cox], K.c p) (hK : K.P s) : K.P (s.injectNext i plane) := by
  unfold State.injectNext; try dsimp only
  with_reducible (repeat' first | assumption | exact K.sub hC rfl | intro _ | apply State.probe_kept | apply State.runSwitch_kept | apply Kept.router | apply Kept.fold | apply Kept.fold_fst | exact hC _ (by decide) | exact Or.inl (hC _ (by decide)) | exact Or.inr rfl | rfl | (simp; done) | split | dsimp only | apply Kept.upd)

theorem State.linkAck_kept {i : Nat} {l : LinkPort} {plane : Bool} {f : Flit} (hC : ∀ p ∈ [.modes, .pins, .regs, .atts, .mesh, .routers, .events, .counts, .cox], K.c p) (hK : K.P s) : K.P (s.linkAck i l plane f) := by
  unfold State.linkAck; try dsimp only
  with_reducible (repeat' first | assumption | exact K.sub hC rfl | apply State.linkNak_kept | apply Kept.router | apply Kept.ite | exact hC _ (by decide))

theorem State.linkFlit_kept {i : Nat} {l : LinkPort} {plane : Bool} {f : Flit} (hC : ∀ p ∈ [.modes, .pins, .regs, .atts, .mesh, .routers, .events, .counts, .cox], K.c p) (hK : K.P s) : K.P (s.linkFlit i l plane f) := by
  unfold State.linkFlit; try dsimp only
  with_reducible (repeat' first | assumption | exact K.sub hC rfl | apply State.fire_kept | apply State.idleFlit_kept | apply State.incF_kept | apply State.linkAck_kept | apply State.probe_kept | apply State.runSwitch_kept | apply Kept.router | apply Kept.ite | exact hC _ (by decide))

theorem execFlitReceive_kept {i : Fin 80} {l : LinkPort} {plane : Bool} {err : Flit} {under : Option (BitVec 2)} (hC : ∀ p ∈ [.modes, .pins, .regs, .atts, .slices, .mesh, .routers, .events, .counts, .cox], K.c p) (hK : K.P s) : K.out (execFlitReceive i l plane err s under) := by
  unfold execFlitReceive; try dsimp only
  with_reducible (repeat' first | assumption | exact K.sub hC rfl | intro _ | apply State.injectNext_kept | apply State.linkFlit_kept | apply State.underrun_kept | apply Kept.router | apply Kept.ite | apply Kept.out_ite | apply Kept.out_next | exact hC _ (by decide) | split | dsimp only)

theorem execNak_kept {i : Fin 80} {l : LinkPort} {plane : Bool} {seq : BitVec 6} (hC : ∀ p ∈ [.modes, .pins, .regs, .atts, .mesh, .routers, .events, .counts, .cox], K.c p) (hK : K.P s) : K.out (execNak i l plane seq s) := by
  unfold execNak; try dsimp only
  with_reducible (repeat' first | assumption | exact K.sub hC rfl | apply State.linkNak_kept | apply Kept.ite | apply Kept.out_ite | apply Kept.out_next | exact hC _ (by decide))

theorem State.reconf_kept {i : Nat} {bounce : BitVec 4} {crcLim : BitVec 4} (hC : ∀ p ∈ [.routers], K.c p) (hK : K.P s) : K.P (s.reconf i bounce crcLim) := by
  unfold State.reconf; try dsimp only
  with_reducible (repeat' first | assumption | exact K.sub hC rfl | apply Kept.router | apply Kept.ite | exact hC _ (by decide))

theorem execRouterReconfigStart_kept {i : Fin 80} {bounce : BitVec 4} {crcLim : BitVec 4} (hC : ∀ p ∈ [.routers], K.c p) (hK : K.P s) : K.out (execRouterReconfigStart i bounce crcLim s) := by
  unfold execRouterReconfigStart; try dsimp only
  with_reducible (repeat' first | assumption | exact K.sub hC rfl | apply State.reconf_kept | apply Kept.out_next | exact hC _ (by decide))

theorem State.dropInj_kept {p : Place} {lane : Option Nat} (hC : ∀ p ∈ [.mesh], K.c p) (hK : K.P s) : K.P (s.dropInj p lane) := by
  unfold State.dropInj; try dsimp only
  with_reducible (repeat' first | assumption | exact K.sub hC rfl | intro _ | apply Kept.getD | exact hC _ (by decide) | exact Or.inl (hC _ (by decide)) | exact Or.inr rfl | rfl | (simp; done) | dsimp only | apply Kept.upd)

theorem State.dropService_kept {q : Nat} (hC : ∀ p ∈ [.pins, .boot, .rsp, .atts, .mesh, .events, .counts, .cox], K.c p) (hK : K.P s) : K.P (s.dropService q) := by
  unfold State.dropService; try dsimp only
  with_reducible (repeat' first | assumption | exact K.sub hC rfl | intro _ | apply State.modAtt_kept | apply State.setRing_kept | apply Kept.ite | apply Kept.fold | apply Kept.fold_fst | exact hC _ (by decide) | exact Or.inl (hC _ (by decide)) | exact Or.inr rfl | rfl | (simp; done) | dsimp only | apply Kept.upd)

theorem State.dropQueue_kept {u : QUnit} {q : Nat} (hC : ∀ p ∈ [.pins, .boot, .rsp, .atts, .slices, .ports, .mesh, .routers, .events, .counts, .cox], K.c p) (hK : K.P s) : K.P (s.dropQueue u q) := by
  unfold State.dropQueue; try dsimp only
  with_reducible (repeat' first | assumption | exact K.sub hC rfl | intro _ | apply State.dropInj_kept | apply State.dropService_kept | apply State.modAtt_kept | apply State.modMp_kept | apply State.modSl_kept | apply Kept.router | apply Kept.ite | apply Kept.fold | apply Kept.fold_fst | exact hC _ (by decide) | split | dsimp only)

theorem execQueuePointerMismatch_kept {u : QUnit} {q : BitVec 6} (hC : ∀ p ∈ [.modes, .pins, .boot, .regs, .rsp, .atts, .slices, .ports, .mesh, .routers, .events, .counts, .cox], K.c p) (hK : K.P s) : K.out (execQueuePointerMismatch u q s) := by
  unfold execQueuePointerMismatch; try dsimp only
  with_reducible (repeat' first | assumption | exact K.sub hC rfl | apply State.crossReset_kept | apply State.dropQueue_kept | apply State.fatal_kept | apply State.fire_kept | apply State.queueNote_kept | apply State.queueRec_kept | apply Kept.ite | apply Kept.out_ite | apply Kept.out_next | exact hC _ (by decide))

theorem State.reconfBounce_kept {i : Nat} {u : Nat} {v : Bool} (hC : ∀ p ∈ [.routers], K.c p) (hK : K.P s) : K.P (s.reconfBounce i u v) := by
  unfold State.reconfBounce; try dsimp only
  with_reducible (repeat' first | assumption | exact K.sub hC rfl | apply State.reconf_kept | apply Kept.ite | exact hC _ (by decide))

theorem State.gateStart_kept {k : AttId} (hC : ∀ p ∈ [.atts, .routers], K.c p) (hK : K.P s) : K.P (s.gateStart k) := by
  unfold State.gateStart; try dsimp only
  with_reducible (repeat' first | assumption | exact K.sub hC rfl | intro _ | apply State.modAtt_kept | apply State.reconfBounce_kept | exact hC _ (by decide) | dsimp only)

theorem State.gateClose_kept {k : AttId} (hC : ∀ p ∈ [.regs, .atts, .mesh, .routers, .events], K.c p) (hK : K.P s) : K.P (s.gateClose k) := by
  unfold State.gateClose; try dsimp only
  with_reducible (repeat' first | assumption | exact K.sub hC rfl | apply State.fire_kept | apply State.gateStart_kept | apply State.modAtt_kept | apply State.putF_kept | apply Kept.ite | exact hC _ (by decide) | split)

theorem execLaGateClose_kept {k : AttId} (hC : ∀ p ∈ [.regs, .atts, .mesh, .routers, .events], K.c p) (hK : K.P s) : K.out (execLaGateClose k s) := by
  unfold execLaGateClose; try dsimp only
  with_reducible (repeat' first | assumption | exact K.sub hC rfl | intro _ | apply State.gateClose_kept | apply State.regG_kept | apply Kept.out_next | exact hC _ (by decide))

theorem execGateAck_kept {k : AttId} (hC : ∀ p ∈ [.atts], K.c p) (hK : K.P s) : K.out (execGateAck k s) := by
  unfold execGateAck; try dsimp only
  with_reducible (repeat' first | assumption | exact K.sub hC rfl | apply State.modAtt_kept | apply Kept.ite | apply Kept.out_ite | apply Kept.out_next | exact hC _ (by decide))

theorem State.toGate_kept {k : AttId} {g : GateSt} (hC : ∀ p ∈ [.pins, .atts], K.c p) (hK : K.P s) : K.P (s.toGate k g) := by
  unfold State.toGate; try dsimp only
  with_reducible (repeat' first | assumption | exact K.sub hC rfl | apply State.modAtt_kept | exact hC _ (by decide) | exact Or.inl (hC _ (by decide)) | exact Or.inr rfl | rfl | (simp; done) | dsimp only | apply Kept.upd)

theorem execGateDrained_kept {k : AttId} (hC : ∀ p ∈ [.pins, .atts, .mesh, .events], K.c p) (hK : K.P s) : K.out (execGateDrained k s) := by
  unfold execGateDrained; try dsimp only
  with_reducible (repeat' first | assumption | exact K.sub hC rfl | apply State.fire_kept | apply State.modAtt_kept | apply State.toGate_kept | apply Kept.ite | apply Kept.out_ite | apply Kept.out_next | exact hC _ (by decide))

theorem State.gateOpen_kept {k : AttId} (hC : ∀ p ∈ [.pins, .regs, .atts], K.c p) (hK : K.P s) : K.P (s.gateOpen k) := by
  unfold State.gateOpen; try dsimp only
  with_reducible (repeat' first | assumption | exact K.sub hC rfl | apply State.modAtt_kept | apply State.putF_kept | apply State.toGate_kept | exact hC _ (by decide) | split)

theorem execLaGateOpen_kept {k : AttId} (hC : ∀ p ∈ [.pins, .regs, .atts], K.c p) (hK : K.P s) : K.out (execLaGateOpen k s) := by
  unfold execLaGateOpen; try dsimp only
  with_reducible (repeat' first | assumption | exact K.sub hC rfl | intro _ | apply State.gateOpen_kept | apply State.regG_kept | apply Kept.out_next | exact hC _ (by decide))

theorem State.gateUp_kept {k : AttId} (hC : ∀ p ∈ [.atts, .mesh, .routers], K.c p) (hK : K.P s) : K.P (s.gateUp k) := by
  unfold State.gateUp; try dsimp only
  with_reducible (repeat' first | assumption | exact K.sub hC rfl | intro _ | apply State.crossReset_kept | apply State.modAtt_kept | apply State.reconfBounce_kept | apply Kept.fold | apply Kept.fold_fst | exact hC _ (by decide) | dsimp only)

theorem execGateReopen_kept {k : AttId} (hC : ∀ p ∈ [.pins, .regs, .atts, .mesh, .routers], K.c p) (hK : K.P s) : K.out (execGateReopen k s) := by
  unfold execGateReopen; try dsimp only
  with_reducible (repeat' first | assumption | exact K.sub hC rfl | apply State.gateUp_kept | apply Kept.ite | apply Kept.out_ite | apply Kept.out_next | exact hC _ (by decide))

theorem State.park_kept {b : Bounced} (hC : ∀ p ∈ [.mesh], K.c p) (hK : K.P s) : K.P (s.park b) := by
  unfold State.park; try dsimp only
  with_reducible (repeat' first | assumption | exact K.sub hC rfl | exact hC _ (by decide) | exact Or.inl (hC _ (by decide)) | exact Or.inr rfl | rfl | (simp; done) | dsimp only | apply Kept.upd)

theorem State.handleBounced_kept {b : Bounced} (hC : ∀ p ∈ [.regs, .slices, .ports, .mesh, .events, .cnts], K.c p) (hK : K.P s) : K.P (s.handleBounced b) := by
  unfold State.handleBounced; try dsimp only
  with_reducible (repeat' first | assumption | exact K.sub hC rfl | apply State.count_kept | apply State.park_kept | apply State.sendCast_kept | apply State.sendCmd_kept | apply State.sendSweep_kept | apply State.toNew_kept | apply Kept.ite | exact hC _ (by decide) | split)

theorem execBouncedMessage_kept (hC : ∀ p ∈ [.regs, .slices, .ports, .mesh, .events, .cnts], K.c p) (hK : K.P s) : K.out (execBouncedMessage s) := by
  unfold execBouncedMessage; try dsimp only
  with_reducible (repeat' first | assumption | exact K.sub hC rfl | apply State.handleBounced_kept | apply Kept.out_next | exact hC _ (by decide) | exact Or.inl (hC _ (by decide)) | exact Or.inr rfl | split | rfl | (simp; done) | dsimp only | apply Kept.upd)

theorem State.unpark_kept (hC : ∀ p ∈ [.regs, .slices, .ports, .mesh, .events, .cnts], K.c p) (hK : K.P s) : K.P s.unpark := by
  unfold State.unpark; try dsimp only
  with_reducible (repeat' first | assumption | exact K.sub hC rfl | intro _ | apply State.handleBounced_kept | apply Kept.fold | apply Kept.fold_fst | exact hC _ (by decide) | exact Or.inl (hC _ (by decide)) | exact Or.inr rfl | rfl | (simp; done) | dsimp only | apply Kept.upd)

theorem State.traceIn_kept (hC : ∀ p ∈ [.mesh], K.c p) (hK : K.P s) : K.P s.traceIn := by
  unfold State.traceIn; try dsimp only
  with_reducible (repeat' first | assumption | exact K.sub hC rfl | intro _ | apply State.crossIn_kept | apply State.setRing_kept | apply Kept.ite | exact hC _ (by decide) | exact Or.inl (hC _ (by decide)) | exact Or.inr rfl | rfl | (simp; done) | split | dsimp only | apply Kept.upd)

theorem State.traceRead_kept (hC : ∀ p ∈ [.mesh], K.c p) (hK : K.P s) : K.P s.traceRead := by
  unfold State.traceRead; try dsimp only
  with_reducible (repeat' first | assumption | exact K.sub hC rfl | apply State.crossOut_kept | apply Kept.ite | exact hC _ (by decide) | exact Or.inl (hC _ (by decide)) | exact Or.inr rfl | rfl | (simp; done) | split | dsimp only | apply Kept.upd)

theorem execTraceOut_kept (hC : ∀ p ∈ [.mesh], K.c p) (hK : K.P s) : K.out (execTraceOut s) := by
  unfold execTraceOut; try dsimp only
  with_reducible (repeat' first | assumption | exact K.sub hC rfl | apply State.traceIn_kept | apply State.traceRead_kept | apply Kept.ite | apply Kept.out_ite | apply Kept.out_next | exact hC _ (by decide))

theorem State.resume_kept {i : Nat} (hC : ∀ p ∈ [.modes, .pins, .regs, .atts, .mesh, .routers, .events, .counts, .cox], K.c p) (hK : K.P s) : K.P (s.resume i) := by
  unfold State.resume; try dsimp only
  with_reducible (repeat' first | assumption | exact K.sub hC rfl | intro _ | apply State.giveCredit_kept | apply State.runSwitch_kept | apply Kept.router | apply Kept.getD | apply Kept.fold | apply Kept.fold_fst | exact hC _ (by decide) | dsimp only)

theorem State.gateOpened_kept {i : Nat} (hC : ∀ p ∈ [.pins, .regs, .atts], K.c p) (hK : K.P s) : K.P (s.gateOpened i) := by
  unfold State.gateOpened; try dsimp only
  with_reducible (repeat' first | assumption | exact K.sub hC rfl | intro _ | apply State.modAtt_kept | apply State.putF_kept | apply State.toGate_kept | apply Kept.ite | apply Kept.fold | apply Kept.fold_fst | exact hC _ (by decide) | dsimp only)

theorem State.gateOpenedMp_kept {i : Nat} (hC : ∀ p ∈ [.regs, .slices, .ports, .mesh, .events, .cnts], K.c p) (hK : K.P s) : K.P (s.gateOpenedMp i) := by
  unfold State.gateOpenedMp; try dsimp only
  with_reducible (repeat' first | assumption | exact K.sub hC rfl | intro _ | apply State.modMp_kept | apply State.putF_kept | apply State.unpark_kept | apply Kept.ite | apply Kept.fold | apply Kept.fold_fst | exact hC _ (by decide) | dsimp only)

theorem execRouterReconfigSwitch_kept {i : Fin 80} (hC : ∀ p ∈ [.modes, .pins, .regs, .atts, .slices, .ports, .mesh, .routers, .events, .counts, .cnts, .cox], K.c p) (hK : K.P s) : K.out (execRouterReconfigSwitch i s) := by
  unfold execRouterReconfigSwitch; try dsimp only
  with_reducible (repeat' first | assumption | exact K.sub hC rfl | apply State.gateOpened_kept | apply State.gateOpenedMp_kept | apply State.putF_kept | apply State.resume_kept | apply Kept.router | apply Kept.ite | apply Kept.out_ite | apply Kept.out_next | exact hC _ (by decide) | split)

end Sys2Proof.Machine
end

