-- ==== Sys2Proof/Laws/KeptModes.lean ====
section
/-! SUPPORT. What the operations of Machine/Modes.lean can write (see Laws/Kept.lean): each lemma lists the parts. -/

namespace Sys2Proof.Machine

set_option linter.unusedTactic false
set_option linter.unreachableTactic false

variable {K : Kept} {s : State}

theorem State.noRsvs_kept (hC : ∀ p ∈ [.regs, .slices], K.c p) (hK : K.P s) : K.P s.noRsvs := by
  unfold State.noRsvs; try dsimp only
  with_reducible (repeat' first | assumption | exact K.sub hC rfl | intro _ | apply State.loseRsvAll_kept | exact hC _ (by decide) | dsimp only)

theorem State.startDrain_kept (hC : ∀ p ∈ [.modes, .regs, .slices, .mesh, .events, .cox], K.c p) (hK : K.P s) : K.P s.startDrain := by
  unfold State.startDrain; try dsimp only
  with_reducible (repeat' first | assumption | exact K.sub hC rfl | apply State.noRsvs_kept | apply State.toMode_kept | exact hC _ (by decide) | exact Or.inl (hC _ (by decide)) | exact Or.inr rfl | rfl | (simp; done) | dsimp only | apply Kept.upd)

theorem State.enterQuiesce_kept (hC : ∀ p ∈ [.modes, .regs, .slices, .mesh, .events, .cox], K.c p) (hK : K.P s) : K.P s.enterQuiesce := by
  unfold State.enterQuiesce; try dsimp only
  with_reducible (repeat' first | assumption | exact K.sub hC rfl | apply State.startDrain_kept | exact hC _ (by decide) | split)

theorem State.openAdmission_kept (hC : ∀ p ∈ [.modes, .regs, .slices, .ports, .mesh, .cast, .events, .cox], K.c p) (hK : K.P s) : K.P s.openAdmission := by
  unfold State.openAdmission; try dsimp only
  with_reducible (repeat' first | assumption | exact K.sub hC rfl | apply State.enterQuiesce_kept | apply State.toMode_kept | apply State.writeHeader_kept | apply Kept.ite | exact hC _ (by decide) | exact Or.inl (hC _ (by decide)) | exact Or.inr rfl | rfl | (simp; done) | dsimp only | apply Kept.upd)

theorem State.leaveQuiesce_kept (hC : ∀ p ∈ [.modes, .regs, .ports, .mesh, .cast, .events, .cox], K.c p) (hK : K.P s) : K.P s.leaveQuiesce := by
  unfold State.leaveQuiesce; try dsimp only
  with_reducible (repeat' first | assumption | exact K.sub hC rfl | apply State.toMode_kept | apply State.writeHeader_kept | apply Kept.ite | exact hC _ (by decide) | exact Or.inl (hC _ (by decide)) | exact Or.inr rfl | rfl | (simp; done) | dsimp only | apply Kept.upd)

theorem State.quiesceSet_kept (hC : ∀ p ∈ [.modes, .regs, .slices, .mesh, .events, .cox], K.c p) (hK : K.P s) : K.P s.quiesceSet := by
  unfold State.quiesceSet; try dsimp only
  with_reducible (repeat' first | assumption | exact K.sub hC rfl | apply State.enterQuiesce_kept | apply State.putF_kept | exact hC _ (by decide))

theorem State.quiesceClear_kept (hC : ∀ p ∈ [.modes, .regs, .ports, .mesh, .cast, .events, .cox], K.c p) (hK : K.P s) : K.P s.quiesceClear := by
  unfold State.quiesceClear; try dsimp only
  with_reducible (repeat' first | assumption | exact K.sub hC rfl | apply State.leaveQuiesce_kept | apply State.putF_kept | exact hC _ (by decide))

theorem execQuiesceSet_kept (hC : ∀ p ∈ [.modes, .regs, .slices, .mesh, .events, .cox], K.c p) (hK : K.P s) : K.out (execQuiesceSet s) := by
  unfold execQuiesceSet; try dsimp only
  with_reducible (repeat' first | assumption | exact K.sub hC rfl | apply State.quiesceSet_kept | apply Kept.ite | apply Kept.out_ite | apply Kept.out_next | exact hC _ (by decide))

theorem execQuiesceClear_kept (hC : ∀ p ∈ [.modes, .regs, .ports, .mesh, .cast, .events, .cox], K.c p) (hK : K.P s) : K.out (execQuiesceClear s) := by
  unfold execQuiesceClear; try dsimp only
  with_reducible (repeat' first | assumption | exact K.sub hC rfl | apply State.quiesceClear_kept | apply Kept.ite | apply Kept.out_ite | apply Kept.out_next | exact hC _ (by decide))

theorem State.startClocks_kept (hC : ∀ p ∈ [.slices, .ports], K.c p) (hK : K.P s) : K.P s.startClocks := by
  unfold State.startClocks; try dsimp only
  with_reducible (repeat' first | assumption | exact K.sub hC rfl | intro _ | apply State.modMp_kept | apply State.modSl_kept | apply Kept.fold | apply Kept.fold_fst | exact hC _ (by decide) | dsimp only)

theorem State.bootBegin_kept (hC : ∀ p ∈ [.modes, .pins, .boot, .regs, .atts, .mesh, .events, .counts, .cox], K.c p) (hK : K.P s) : K.P s.bootBegin := by
  unfold State.bootBegin; try dsimp only
  with_reducible (repeat' first | assumption | exact K.sub hC rfl | apply State.fatal_kept | apply State.putF_kept | apply Kept.ite | exact hC _ (by decide) | exact Or.inl (hC _ (by decide)) | exact Or.inr rfl | rfl | (simp; done) | dsimp only | apply Kept.upd)

theorem State.warmEffect_kept {whole : Bool} (hC : ∀ p ∈ [.modes, .pins, .boot, .regs, .atts, .mesh, .events, .counts, .cox, .wipe], K.c p) (hK : K.P s) : K.P (s.warmEffect whole) := by
  unfold State.warmEffect; try dsimp only
  with_reducible (repeat' first | assumption | exact K.sub hC rfl | apply State.bootBegin_kept | apply Kept.wipe | apply Kept.ite | exact hC _ (by decide) | exact Or.inl (hC _ (by decide)) | exact Or.inr rfl | rfl | (simp; done) | dsimp only | apply Kept.upd)

theorem State.undoSaves_kept (hC : ∀ p ∈ [.ports], K.c p) (hK : K.P s) : K.P s.undoSaves := by
  unfold State.undoSaves; try dsimp only
  with_reducible (repeat' first | assumption | exact K.sub hC rfl | intro _ | apply State.modMp_kept | apply Kept.ite | apply Kept.fold | apply Kept.fold_fst | exact hC _ (by decide))

theorem State.stopEntry_kept (hC : ∀ p ∈ [.modes, .ports], K.c p) (hK : K.P s) : K.P s.stopEntry := by
  unfold State.stopEntry; try dsimp only
  with_reducible (repeat' first | assumption | exact K.sub hC rfl | apply State.undoSaves_kept | exact hC _ (by decide) | exact Or.inl (hC _ (by decide)) | exact Or.inr rfl | rfl | (simp; done) | dsimp only | apply Kept.upd)

theorem State.warmInRest_kept (hC : ∀ p ∈ [.modes, .pins, .boot, .regs, .atts, .mesh, .events, .counts, .cox, .wipe], K.c p) (hK : K.P s) : K.P s.warmInRest := by
  unfold State.warmInRest; try dsimp only
  with_reducible (repeat' first | assumption | exact K.sub hC rfl | apply State.warmEffect_kept | apply Kept.ite | exact hC _ (by decide))

theorem State.raiseWake_kept (hC : ∀ p ∈ [.pins], K.c p) (hK : K.P s) : K.P s.raiseWake := by
  unfold State.raiseWake; try dsimp only
  with_reducible (repeat' first | assumption | exact K.sub hC rfl | exact hC _ (by decide) | exact Or.inl (hC _ (by decide)) | exact Or.inr rfl | rfl | (simp; done) | dsimp only | apply Kept.upd)

theorem State.warmDrain_kept (hC : ∀ p ∈ [.modes], K.c p) (hK : K.P s) : K.P s.warmDrain := by
  unfold State.warmDrain; try dsimp only
  with_reducible (repeat' first | assumption | exact K.sub hC rfl | exact hC _ (by decide) | exact Or.inl (hC _ (by decide)) | exact Or.inr rfl | rfl | (simp; done) | dsimp only | apply Kept.upd)

theorem State.warmReset_kept (hC : ∀ p ∈ [.modes, .pins, .boot, .regs, .agents, .atts, .slices, .ports, .mesh, .events, .counts, .cox, .wipe], K.c p) (hK : K.P s) : K.P s.warmReset := by
  unfold State.warmReset; try dsimp only
  with_reducible (repeat' first | assumption | exact K.sub hC rfl | intro _ | apply State.joinFail_kept | apply State.raiseWake_kept | apply State.startDrain_kept | apply State.stopEntry_kept | apply State.warmDrain_kept | apply State.warmEffect_kept | apply State.warmInRest_kept | apply Kept.ite | apply Kept.fold | apply Kept.fold_fst | exact hC _ (by decide) | exact Or.inl (hC _ (by decide)) | exact Or.inr rfl | split | rfl | (simp; done) | dsimp only | apply Kept.upd)

theorem execWarmReset_kept (hC : ∀ p ∈ [.modes, .pins, .boot, .regs, .agents, .atts, .slices, .ports, .mesh, .events, .counts, .cox, .wipe], K.c p) (hK : K.P s) : K.out (execWarmReset s) := by
  unfold execWarmReset; try dsimp only
  with_reducible (repeat' first | assumption | exact K.sub hC rfl | apply State.warmReset_kept | apply Kept.out_next | exact hC _ (by decide))

theorem execWarmLimitExpiry_kept (hC : ∀ p ∈ [.modes, .plinth, .pins, .boot, .regs, .atts, .mesh, .events, .counts, .cox, .wipe], K.c p) (hK : K.P s) : K.out (execWarmLimitExpiry s) := by
  unfold execWarmLimitExpiry; try dsimp only
  with_reducible (repeat' first | assumption | exact K.sub hC rfl | apply State.reach_kept | apply State.warmEffect_kept | apply Kept.ite | apply Kept.out_ite | apply Kept.out_next | exact hC _ (by decide) | split)

theorem execWarmResetRelease_kept (hC : ∀ p ∈ [.modes, .pins, .boot, .regs, .atts, .mesh, .events, .counts, .cox], K.c p) (hK : K.P s) : K.out (execWarmResetRelease s) := by
  unfold execWarmResetRelease; try dsimp only
  with_reducible (repeat' first | assumption | exact K.sub hC rfl | apply State.bootBegin_kept | apply Kept.ite | apply Kept.out_ite | apply Kept.out_next | exact hC _ (by decide) | exact Or.inl (hC _ (by decide)) | exact Or.inr rfl | rfl | (simp; done) | dsimp only | apply Kept.upd)

theorem execColdReset_kept (hC : ∀ p ∈ [.modes, .wipe], K.c p) (hK : K.P s) : K.out (execColdReset s) := by
  unfold execColdReset; try dsimp only
  with_reducible (repeat' first | assumption | exact K.sub hC rfl | apply Kept.wipe | apply Kept.ite | apply Kept.out_ite | apply Kept.out_next | exact hC _ (by decide) | exact Or.inl (hC _ (by decide)) | exact Or.inr rfl | rfl | (simp; done) | dsimp only | apply Kept.upd)

theorem execColdResetRelease_kept {straps : BitVec 16} {keyHash : BitVec 384} {keyValid : Bool} {svnFloor : BitVec 16} (hC : ∀ p ∈ [.modes, .plinth, .pins, .boot, .regs, .atts, .mesh, .events, .counts, .cox], K.c p) (hK : K.P s) : K.out (execColdResetRelease straps keyHash keyValid svnFloor s) := by
  unfold execColdResetRelease; try dsimp only
  with_reducible (repeat' first | assumption | exact K.sub hC rfl | apply State.bootBegin_kept | apply Kept.ite | apply Kept.out_ite | apply Kept.out_next | exact hC _ (by decide) | exact Or.inl (hC _ (by decide)) | exact Or.inr rfl | rfl | (simp; done) | dsimp only | apply Kept.upd)

theorem execAonReset_kept (hC : ∀ p ∈ [.modes, .plinth, .cal, .wipe], K.c p) (hK : K.P s) : K.out (execAonReset s) := by
  unfold execAonReset; try dsimp only
  with_reducible (repeat' first | assumption | exact K.sub hC rfl | apply Kept.wipe | apply Kept.ite | apply Kept.out_ite | apply Kept.out_next | exact hC _ (by decide) | exact Or.inl (hC _ (by decide)) | exact Or.inr rfl | apply Kept.aon | rfl | (simp; done) | dsimp only | apply Kept.upd)

theorem execAonResetRelease_kept (hC : ∀ p ∈ [.modes], K.c p) (hK : K.P s) : K.out (execAonResetRelease s) := by
  unfold execAonResetRelease; try dsimp only
  with_reducible (repeat' first | assumption | exact K.sub hC rfl | apply Kept.out_next | exact hC _ (by decide) | exact Or.inl (hC _ (by decide)) | exact Or.inr rfl | rfl | (simp; done) | dsimp only | apply Kept.upd)

theorem execMbistStart_kept (hC : ∀ p ∈ [.modes, .pins], K.c p) (hK : K.P s) : K.out (execMbistStart s) := by
  unfold execMbistStart; try dsimp only
  with_reducible (repeat' first | assumption | exact K.sub hC rfl | apply Kept.ite | apply Kept.out_ite | apply Kept.out_next | exact hC _ (by decide) | exact Or.inl (hC _ (by decide)) | exact Or.inr rfl | rfl | (simp; done) | dsimp only | apply Kept.upd)

theorem execMbistDone_kept {fail : Bool} (hC : ∀ p ∈ [.modes, .pins], K.c p) (hK : K.P s) : K.out (execMbistDone fail s) := by
  unfold execMbistDone; try dsimp only
  with_reducible (repeat' first | assumption | exact K.sub hC rfl | apply Kept.ite | apply Kept.out_ite | apply Kept.out_next | exact hC _ (by decide) | exact Or.inl (hC _ (by decide)) | exact Or.inr rfl | rfl | (simp; done) | dsimp only | apply Kept.upd)

theorem State.raiseOff_kept (hC : ∀ p ∈ [.pins], K.c p) (hK : K.P s) : K.P s.raiseOff := by
  unfold State.raiseOff; try dsimp only
  with_reducible (repeat' first | assumption | exact K.sub hC rfl | exact hC _ (by decide) | exact Or.inl (hC _ (by decide)) | exact Or.inr rfl | rfl | (simp; done) | dsimp only | apply Kept.upd)

theorem execPowerFail_kept (hC : ∀ p ∈ [.modes, .pins, .regs, .slices, .mesh, .events, .cox], K.c p) (hK : K.P s) : K.out (execPowerFail s) := by
  unfold execPowerFail; try dsimp only
  with_reducible (repeat' first | assumption | exact K.sub hC rfl | apply State.raiseOff_kept | apply State.startDrain_kept | apply Kept.ite | apply Kept.out_ite | apply Kept.out_next | exact hC _ (by decide) | exact Or.inl (hC _ (by decide)) | exact Or.inr rfl | split | rfl | (simp; done) | dsimp only | apply Kept.upd)

theorem State.powerOff_kept {aon : Bool} (hC : ∀ p ∈ [.plinth, .wipe], K.c p) (hK : K.P s) : K.P (s.powerOff aon) := by
  unfold State.powerOff; try dsimp only
  with_reducible (repeat' first | assumption | exact K.sub hC rfl | apply Kept.wipe | apply Kept.ite | exact hC _ (by decide) | exact Or.inl (hC _ (by decide)) | exact Or.inr rfl | apply Kept.aon | rfl | (simp; done) | dsimp only | apply Kept.upd)

theorem execPowerLoss_kept {rail : Rail} (hC : ∀ p ∈ [.modes, .plinth, .cox, .wipe], K.c p) (hK : K.P s) : K.out (execPowerLoss rail s) := by
  unfold execPowerLoss; try dsimp only
  with_reducible (repeat' first | assumption | exact K.sub hC rfl | apply State.powerOff_kept | apply Kept.ite | apply Kept.out_ite | apply Kept.out_next | exact hC _ (by decide) | exact Or.inl (hC _ (by decide)) | exact Or.inr rfl | split | rfl | (simp; done) | dsimp only | apply Kept.upd)

theorem State.writeEntry_kept {i : SliceId} {p : Nat × Entry} (hC : ∀ p ∈ [.regs, .slices, .ports, .mesh], K.c p) (hK : K.P s) : K.P (s.writeEntry i p) := by
  unfold State.writeEntry; try dsimp only
  with_reducible (repeat' first | assumption | exact K.sub hC rfl | intro _ | apply State.modSl_kept | apply State.startInsert_kept | apply State.updateRec_kept | apply Kept.ite | exact hC _ (by decide) | split | dsimp only)

theorem State.writeEntries_kept {i : SliceId} (hC : ∀ p ∈ [.regs, .slices, .ports, .mesh], K.c p) (hK : K.P s) : K.P (s.writeEntries i) := by
  unfold State.writeEntries; try dsimp only
  with_reducible (repeat' first | assumption | exact K.sub hC rfl | intro _ | apply State.writeEntry_kept | apply Kept.fold | apply Kept.fold_fst | exact hC _ (by decide))

theorem State.setDrained_kept (hC : ∀ p ∈ [.modes, .pins], K.c p) (hK : K.P s) : K.P s.setDrained := by
  unfold State.setDrained; try dsimp only
  with_reducible (repeat' first | assumption | exact K.sub hC rfl | apply State.raiseOff_kept | apply Kept.ite | exact hC _ (by decide) | exact Or.inl (hC _ (by decide)) | exact Or.inr rfl | rfl | (simp; done) | dsimp only | apply Kept.upd)

theorem State.drainOn_kept (hC : ∀ p ∈ [.modes, .pins, .regs, .slices, .ports, .mesh, .cast, .events], K.c p) (hK : K.P s) : K.P s.drainOn := by
  unfold State.drainOn; try dsimp only
  with_reducible (repeat' first | assumption | exact K.sub hC rfl | intro _ | apply State.flush_kept | apply State.setDrained_kept | apply State.writeEntries_kept | apply State.writeHeader_kept | apply State.writeImage_kept | apply Kept.ite | apply Kept.fold | apply Kept.fold_fst | exact hC _ (by decide) | exact Or.inl (hC _ (by decide)) | exact Or.inr rfl | split | rfl | (simp; done) | dsimp only | apply Kept.upd)

theorem execQuiesceDrainAdvance_kept (hC : ∀ p ∈ [.modes, .pins, .boot, .regs, .atts, .slices, .ports, .mesh, .cast, .events, .counts, .cox, .wipe], K.c p) (hK : K.P s) : K.out (execQuiesceDrainAdvance s) := by
  unfold execQuiesceDrainAdvance; try dsimp only
  with_reducible (repeat' first | assumption | exact K.sub hC rfl | apply State.drainOn_kept | apply State.warmEffect_kept | apply Kept.ite | apply Kept.out_ite | apply Kept.out_next | exact hC _ (by decide))

theorem State.refuseRest_kept {f : List (Nat × Nat × Nat)} (hC : ∀ p ∈ [.modes, .regs, .ports, .mesh, .cast, .events, .cox], K.c p) (hK : K.P s) : K.P (s.refuseRest f) := by
  unfold State.refuseRest; try dsimp only
  with_reducible (repeat' first | assumption | exact K.sub hC rfl | intro _ | apply State.fire_kept | apply State.incF_kept | apply State.leaveQuiesce_kept | apply State.logHw_kept | apply State.putF_kept | apply State.stopEntry_kept | apply Kept.fold | apply Kept.fold_fst | exact hC _ (by decide) | split)

theorem State.phase_kept {n : BitVec 3} (hC : ∀ p ∈ [.modes], K.c p) (hK : K.P s) : K.P (s.phase n) := by
  unfold State.phase; try dsimp only
  with_reducible (repeat' first | assumption | exact K.sub hC rfl | exact hC _ (by decide) | exact Or.inl (hC _ (by decide)) | exact Or.inr rfl | rfl | (simp; done) | dsimp only | apply Kept.upd)

theorem State.restReq_kept (hC : ∀ p ∈ [.modes, .regs, .slices, .ports, .mesh, .cast, .events, .cox], K.c p) (hK : K.P s) : K.P s.restReq := by
  unfold State.restReq; try dsimp only
  with_reducible (repeat' first | assumption | exact K.sub hC rfl | apply State.enterQuiesce_kept | apply State.incF_kept | apply State.noRsvs_kept | apply State.phase_kept | apply State.refuseRest_kept | apply Kept.ite | exact hC _ (by decide) | exact Or.inl (hC _ (by decide)) | exact Or.inr rfl | rfl | (simp; done) | split | dsimp only | apply Kept.upd)

theorem execRestReq_kept (hC : ∀ p ∈ [.modes, .regs, .slices, .ports, .mesh, .cast, .events, .cox], K.c p) (hK : K.P s) : K.out (execRestReq s) := by
  unfold execRestReq; try dsimp only
  with_reducible (repeat' first | assumption | exact K.sub hC rfl | apply State.restReq_kept | apply Kept.ite | apply Kept.out_ite | apply Kept.out_next | exact hC _ (by decide))

theorem State.restCheck_kept (hC : ∀ p ∈ [.modes, .regs, .ports, .mesh, .cast, .events, .cox], K.c p) (hK : K.P s) : K.P s.restCheck := by
  unfold State.restCheck; try dsimp only
  with_reducible (repeat' first | assumption | exact K.sub hC rfl | intro _ | apply State.modMp_kept | apply State.phase_kept | apply State.refuseRest_kept | apply Kept.fold | apply Kept.fold_fst | exact hC _ (by decide) | split)

theorem State.gateAtts_kept (hC : ∀ p ∈ [.atts, .routers], K.c p) (hK : K.P s) : K.P s.gateAtts := by
  unfold State.gateAtts; try dsimp only
  with_reducible (repeat' first | assumption | exact K.sub hC rfl | intro _ | apply State.gateStart_kept | apply State.modAtt_kept | apply Kept.ite | apply Kept.fold | apply Kept.fold_fst | exact hC _ (by decide))

theorem State.gatePorts_kept (hC : ∀ p ∈ [.ports, .routers], K.c p) (hK : K.P s) : K.P s.gatePorts := by
  unfold State.gatePorts; try dsimp only
  with_reducible (repeat' first | assumption | exact K.sub hC rfl | intro _ | apply State.modMp_kept | apply State.reconf_kept | apply Kept.fold | apply Kept.fold_fst | exact hC _ (by decide))

theorem State.portsGated_kept (hC : ∀ p ∈ [.pins, .ports], K.c p) (hK : K.P s) : K.P s.portsGated := by
  unfold State.portsGated; try dsimp only
  with_reducible (repeat' first | assumption | exact K.sub hC rfl | intro _ | apply State.modMp_kept | apply Kept.fold | apply Kept.fold_fst | exact hC _ (by decide) | exact Or.inl (hC _ (by decide)) | exact Or.inr rfl | rfl | (simp; done) | dsimp only | apply Kept.upd)

theorem State.toRest_kept (hC : ∀ p ∈ [.modes, .plinth, .pins, .regs, .slices], K.c p) (hK : K.P s) : K.P s.toRest := by
  unfold State.toRest; try dsimp only
  with_reducible (repeat' first | assumption | exact K.sub hC rfl | apply State.incF_kept | apply State.noRsvs_kept | apply State.raiseOff_kept | exact hC _ (by decide) | exact Or.inl (hC _ (by decide)) | exact Or.inr rfl | rfl | (simp; done) | dsimp only | apply Kept.upd)

theorem State.wakeNow_kept {src : BitVec 2} (hC : ∀ p ∈ [.pins, .regs], K.c p) (hK : K.P s) : K.P (s.wakeNow src) := by
  unfold State.wakeNow; try dsimp only
  with_reducible (repeat' first | assumption | exact K.sub hC rfl | apply State.putF_kept | apply State.raiseWake_kept | exact hC _ (by decide))

theorem execRestEntryStep_kept {m : BitVec 24} (hC : ∀ p ∈ [.modes, .plinth, .pins, .regs, .atts, .slices, .ports, .mesh, .routers, .cast, .events, .cox], K.c p) (hK : K.P s) : K.out (execRestEntryStep m s) := by
  unfold execRestEntryStep; try dsimp only
  with_reducible (repeat' first | assumption | exact K.sub hC rfl | apply State.gateAtts_kept | apply State.gatePorts_kept | apply State.phase_kept | apply State.portsGated_kept | apply State.refuseRest_kept | apply State.restCheck_kept | apply State.toRest_kept | apply State.wakeNow_kept | apply Kept.reg | apply Kept.ite | apply Kept.out_ite | apply Kept.out_next | exact hC _ (by decide) | exact Or.inl (hC _ (by decide)) | exact Or.inr rfl | split | rfl | (simp; done) | dsimp only | apply Kept.upd)

theorem execRestDrainLimit_kept (hC : ∀ p ∈ [.modes, .plinth, .regs, .ports, .mesh, .cast, .events, .cox], K.c p) (hK : K.P s) : K.out (execRestDrainLimit s) := by
  unfold execRestDrainLimit; try dsimp only
  with_reducible (repeat' first | assumption | exact K.sub hC rfl | apply State.phase_kept | apply State.reach_kept | apply State.restCheck_kept | apply Kept.ite | apply Kept.out_ite | apply Kept.out_next | exact hC _ (by decide) | exact Or.inl (hC _ (by decide)) | exact Or.inr rfl | rfl | (simp; done) | dsimp only | apply Kept.upd)

theorem State.wake_kept {src : BitVec 2} (hC : ∀ p ∈ [.modes, .pins, .regs], K.c p) (hK : K.P s) : K.P (s.wake src) := by
  unfold State.wake; try dsimp only
  with_reducible (repeat' first | assumption | exact K.sub hC rfl | apply State.wakeNow_kept | apply Kept.ite | exact hC _ (by decide) | exact Or.inl (hC _ (by decide)) | exact Or.inr rfl | rfl | (simp; done) | dsimp only | apply Kept.upd)

theorem execSidebandAddressMatch_kept {addr : BitVec 7} (hC : ∀ p ∈ [.modes, .pins, .regs], K.c p) (hK : K.P s) : K.out (execSidebandAddressMatch addr s) := by
  unfold execSidebandAddressMatch; try dsimp only
  with_reducible (repeat' first | assumption | exact K.sub hC rfl | apply State.wake_kept | apply Kept.ite | apply Kept.out_ite | apply Kept.out_next | exact hC _ (by decide))

theorem execWakeIn_kept (hC : ∀ p ∈ [.modes, .pins, .regs], K.c p) (hK : K.P s) : K.out (execWakeIn s) := by
  unfold execWakeIn; try dsimp only
  with_reducible (repeat' first | assumption | exact K.sub hC rfl | apply State.wake_kept | apply Kept.ite | apply Kept.out_ite | apply Kept.out_next | exact hC _ (by decide))

theorem State.wakeTime_kept {ticks : Nat} (hC : ∀ p ∈ [.plinth, .regs, .cox], K.c p) (hK : K.P s) : K.P (s.wakeTime ticks) := by
  unfold State.wakeTime; try dsimp only
  with_reducible (repeat' first | assumption | exact K.sub hC rfl | apply State.putF_kept | apply State.reach_kept | apply Kept.reg | apply Kept.ite | exact hC _ (by decide) | exact Or.inl (hC _ (by decide)) | exact Or.inr rfl | rfl | (simp; done) | dsimp only | apply Kept.upd)

theorem State.ungate_kept (hC : ∀ p ∈ [.pins, .atts, .ports, .routers], K.c p) (hK : K.P s) : K.P s.ungate := by
  unfold State.ungate; try dsimp only
  with_reducible (repeat' first | assumption | exact K.sub hC rfl | intro _ | apply State.modAtt_kept | apply State.modMp_kept | apply State.reconf_kept | apply State.toGate_kept | apply Kept.ite | apply Kept.fold | apply Kept.fold_fst | exact hC _ (by decide) | exact Or.inl (hC _ (by decide)) | exact Or.inr rfl | rfl | (simp; done) | dsimp only | apply Kept.upd)

theorem execRestExitStep_kept {ticks : BitVec 48} (hC : ∀ p ∈ [.modes, .plinth, .pins, .regs, .atts, .slices, .ports, .mesh, .routers, .cast, .events, .cox], K.c p) (hK : K.P s) : K.out (execRestExitStep ticks s) := by
  unfold execRestExitStep; try dsimp only
  with_reducible (repeat' first | assumption | exact K.sub hC rfl | apply State.fire_kept | apply State.logHw_kept | apply State.openAdmission_kept | apply State.ungate_kept | apply State.wakeTime_kept | apply Kept.ite | apply Kept.out_ite | apply Kept.out_next | exact hC _ (by decide) | exact Or.inl (hC _ (by decide)) | exact Or.inr rfl | rfl | (simp; done) | dsimp only | apply Kept.upd)

theorem State.restartDwell_kept (hC : ∀ p ∈ [.modes], K.c p) (hK : K.P s) : K.P s.restartDwell := by
  unfold State.restartDwell; try dsimp only
  with_reducible (repeat' first | assumption | exact K.sub hC rfl | exact hC _ (by decide) | exact Or.inl (hC _ (by decide)) | exact Or.inr rfl | rfl | (simp; done) | dsimp only | apply Kept.upd)

theorem State.enterLevel_kept {n : Nat} (hC : ∀ p ∈ [.modes, .regs, .slices, .ports, .mesh, .events, .cox], K.c p) (hK : K.P s) : K.P (s.enterLevel n) := by
  unfold State.enterLevel; try dsimp only
  with_reducible (repeat' first | assumption | exact K.sub hC rfl | intro _ | apply State.enterQuiesce_kept | apply State.flush_kept | apply State.incF_kept | apply Kept.ite | apply Kept.fold | apply Kept.fold_fst | exact hC _ (by decide))

theorem State.setLevel_kept {n : Nat} (hC : ∀ p ∈ [.modes, .regs, .atts, .slices, .ports, .mesh, .cast, .events, .cox], K.c p) (hK : K.P s) : K.P (s.setLevel n) := by
  unfold State.setLevel; try dsimp only
  with_reducible (repeat' first | assumption | exact K.sub hC rfl | intro _ | apply State.enterLevel_kept | apply State.fire_kept | apply State.giveBack_kept | apply State.leaveQuiesce_kept | apply State.logHw_kept | apply State.maxF_kept | apply State.restartDwell_kept | apply State.toMode_kept | apply Kept.ite | apply Kept.fold | apply Kept.fold_fst | exact hC _ (by decide) | exact Or.inl (hC _ (by decide)) | exact Or.inr rfl | rfl | (simp; done) | dsimp only | apply Kept.upd)

theorem State.qualify_kept {n : Nat} (hC : ∀ p ∈ [.modes, .regs, .atts, .slices, .ports, .mesh, .cast, .events, .cox], K.c p) (hK : K.P s) : K.P (s.qualify n) := by
  unfold State.qualify; try dsimp only
  with_reducible (repeat' first | assumption | exact K.sub hC rfl | apply State.restartDwell_kept | apply State.setLevel_kept | apply Kept.ite | exact hC _ (by decide))

theorem State.seeDroop_kept {i : Nat} {d : BitVec 8} (hC : ∀ p ∈ [.modes], K.c p) (hK : K.P s) : K.P (s.seeDroop i d) := by
  unfold State.seeDroop; try dsimp only
  with_reducible (repeat' first | assumption | exact K.sub hC rfl | apply State.restartDwell_kept | apply Kept.ite | exact hC _ (by decide) | exact Or.inl (hC _ (by decide)) | exact Or.inr rfl | rfl | (simp; done) | dsimp only | apply Kept.upd)

theorem execShedQualify_kept {mon : BitVec 2} {droop : BitVec 8} (hC : ∀ p ∈ [.modes, .regs, .atts, .slices, .ports, .mesh, .cast, .events, .cox], K.c p) (hK : K.P s) : K.out (execShedQualify mon droop s) := by
  unfold execShedQualify; try dsimp only
  with_reducible (repeat' first | assumption | exact K.sub hC rfl | apply State.qualify_kept | apply State.seeDroop_kept | apply Kept.ite | apply Kept.out_ite | apply Kept.out_next | exact hC _ (by decide))

theorem execDroopAlert_kept {level : Bool} (hC : ∀ p ∈ [.modes, .regs, .atts, .slices, .ports, .mesh, .cast, .events, .cox], K.c p) (hK : K.P s) : K.out (execDroopAlert level s) := by
  unfold execDroopAlert; try dsimp only
  with_reducible (repeat' first | assumption | exact K.sub hC rfl | apply State.qualify_kept | apply State.restartDwell_kept | apply Kept.ite | apply Kept.out_ite | apply Kept.out_next | exact hC _ (by decide) | exact Or.inl (hC _ (by decide)) | exact Or.inr rfl | rfl | (simp; done) | dsimp only | apply Kept.upd)

theorem execShedStepDown_kept (hC : ∀ p ∈ [.modes, .plinth, .regs, .atts, .slices, .ports, .mesh, .cast, .events, .cox], K.c p) (hK : K.P s) : K.out (execShedStepDown s) := by
  unfold execShedStepDown; try dsimp only
  with_reducible (repeat' first | assumption | exact K.sub hC rfl | apply State.reach_kept | apply State.setLevel_kept | apply Kept.ite | apply Kept.out_ite | apply Kept.out_next | exact hC _ (by decide))

theorem State.shedForce_kept (hC : ∀ p ∈ [.modes, .regs, .atts, .slices, .ports, .mesh, .cast, .events, .cox], K.c p) (hK : K.P s) : K.P s.shedForce := by
  unfold State.shedForce; try dsimp only
  with_reducible (repeat' first | assumption | exact K.sub hC rfl | apply State.setLevel_kept | apply Kept.ite | exact hC _ (by decide))

theorem execShedForce_kept {level : BitVec 3} (hC : ∀ p ∈ [.modes, .regs, .atts, .slices, .ports, .mesh, .cast, .events, .cox], K.c p) (hK : K.P s) : K.out (execShedForce level s) := by
  unfold execShedForce; try dsimp only
  with_reducible (repeat' first | assumption | exact K.sub hC rfl | apply State.putF_kept | apply State.shedForce_kept | apply Kept.ite | apply Kept.out_ite | apply Kept.out_next | exact hC _ (by decide))

theorem State.advertiseAll_kept (hC : ∀ p ∈ [.atts], K.c p) (hK : K.P s) : K.P s.advertiseAll := by
  unfold State.advertiseAll; try dsimp only
  with_reducible (repeat' first | assumption | exact K.sub hC rfl | intro _ | apply State.modAtt_kept | apply Kept.fold | apply Kept.fold_fst | exact hC _ (by decide))

theorem State.initMap_kept (hC : ∀ p ∈ [.slices, .hmap], K.c p) (hK : K.P s) : K.P s.initMap := by
  unfold State.initMap; try dsimp only
  with_reducible (repeat' first | assumption | exact K.sub hC rfl | intro _ | apply State.modSl_kept | apply Kept.fold | apply Kept.fold_fst | exact hC _ (by decide) | exact Or.inl (hC _ (by decide)) | exact Or.inr rfl | rfl | (simp; done) | dsimp only | apply Kept.upd)

theorem State.toCalibrate_kept (hC : ∀ p ∈ [.modes, .regs, .atts, .slices, .ports, .mesh, .hmap, .events, .cox], K.c p) (hK : K.P s) : K.P s.toCalibrate := by
  unfold State.toCalibrate; try dsimp only
  with_reducible (repeat' first | assumption | exact K.sub hC rfl | apply State.advertiseAll_kept | apply State.initMap_kept | apply State.startReads_kept | apply State.toMode_kept | exact hC _ (by decide) | exact Or.inl (hC _ (by decide)) | exact Or.inr rfl | rfl | (simp; done) | dsimp only | apply Kept.upd)

theorem execCalibrateExit_kept (hC : ∀ p ∈ [.modes, .regs, .slices, .ports, .mesh, .cast, .events, .cox], K.c p) (hK : K.P s) : K.out (execCalibrateExit s) := by
  unfold execCalibrateExit; try dsimp only
  with_reducible (repeat' first | assumption | exact K.sub hC rfl | apply State.openAdmission_kept | apply Kept.ite | apply Kept.out_ite | apply Kept.out_next | exact hC _ (by decide))

theorem State.restoreAgent_kept {image : List LineData} {a : Nat} (hC : ∀ p ∈ [.regs, .agents, .slices, .ports, .mesh, .hmap, .events], K.c p) (hK : K.P s) : K.P (s.restoreAgent image a) := by
  unfold State.restoreAgent; try dsimp only
  with_reducible (repeat' first | assumption | exact K.sub hC rfl | apply State.modAgent_kept | apply State.quarantine_kept | apply State.sweepOn_kept | apply Kept.agent | apply Kept.ite | exact hC _ (by decide) | split)

theorem State.carry_kept {image : List LineData} (hC : ∀ p ∈ [.regs, .agents, .slices, .ports, .mesh, .hmap, .cast, .events], K.c p) (hK : K.P s) : K.P (s.carry image) := by
  unfold State.carry; try dsimp only
  with_reducible (repeat' first | assumption | exact K.sub hC rfl | intro _ | apply State.modSl_kept | apply State.restoreAgent_kept | apply Kept.ite | apply Kept.fold | apply Kept.fold_fst | exact hC _ (by decide) | exact Or.inl (hC _ (by decide)) | exact Or.inr rfl | rfl | (simp; done) | dsimp only | apply Kept.upd)

theorem State.takeHeader_kept {hdr : BucketRead} {image : List LineData} {imageOk : Bool} (hC : ∀ p ∈ [.regs, .agents, .slices, .ports, .mesh, .hmap, .cast, .events], K.c p) (hK : K.P s) : K.P (s.takeHeader hdr image imageOk) := by
  unfold State.takeHeader; try dsimp only
  with_reducible (repeat' first | assumption | exact K.sub hC rfl | apply State.carry_kept | apply State.clearStart_kept | apply Kept.ite | exact hC _ (by decide) | exact Or.inl (hC _ (by decide)) | exact Or.inr rfl | rfl | (simp; done) | dsimp only | apply Kept.upd)

theorem State.hdrTaken_kept (hC : ∀ p ∈ [.ports], K.c p) (hK : K.P s) : K.P s.hdrTaken := by
  unfold State.hdrTaken; try dsimp only
  with_reducible (repeat' first | assumption | exact K.sub hC rfl | intro _ | apply State.modMp_kept | apply Kept.fold | apply Kept.fold_fst | exact hC _ (by decide) | dsimp only)

theorem execCastHeaderReturn_kept {hdr : BucketRead} {image : List LineData} {imageOk : Bool} (hC : ∀ p ∈ [.regs, .agents, .slices, .ports, .mesh, .hmap, .cast, .events], K.c p) (hK : K.P s) : K.out (execCastHeaderReturn hdr image imageOk s) := by
  unfold execCastHeaderReturn; try dsimp only
  with_reducible (repeat' first | assumption | exact K.sub hC rfl | intro _ | apply State.hdrTaken_kept | apply State.takeHeader_kept | apply Kept.ite | apply Kept.out_ite | apply Kept.getD | apply Kept.out_next | exact hC _ (by decide) | dsimp only)

end Sys2Proof.Machine
end

