-- ==== Sys2Proof/Laws/KeptRehome.lean ====
section
/-! SUPPORT. What the operations of Machine/Rehome.lean can write (see Laws/Kept.lean): each lemma lists the parts. -/

namespace Sys2Proof.Machine

set_option linter.unusedTactic false
set_option linter.unreachableTactic false

variable {K : Kept} {s : State}

theorem State.hmapRefuse_kept (hC : ∀ p ∈ [.regs], K.c p) (hK : K.P s) : K.P s.hmapRefuse := by
  unfold State.hmapRefuse; try dsimp only
  with_reducible (repeat' first | assumption | exact K.sub hC rfl | apply State.putF_kept | exact hC _ (by decide))

theorem State.deactivate_kept {i : SliceId} (hC : ∀ p ∈ [.regs, .agents, .slices, .mesh, .events], K.c p) (hK : K.P s) : K.P (s.deactivate i) := by
  unfold State.deactivate; try dsimp only
  with_reducible (repeat' first | assumption | exact K.sub hC rfl | intro _ | apply State.bounceReq_kept | apply State.sweepOff_kept | apply Kept.sl | apply Kept.ite | apply Kept.fold | apply Kept.fold_fst | exact hC _ (by decide) | dsimp only)

theorem State.resizeEnd_kept (hC : ∀ p ∈ [.regs, .agents, .slices, .mesh, .hmap, .events], K.c p) (hK : K.P s) : K.P s.resizeEnd := by
  unfold State.resizeEnd; try dsimp only
  with_reducible (repeat' first | assumption | exact K.sub hC rfl | intro _ | apply State.deactivate_kept | apply State.fire_kept | apply Kept.ite | apply Kept.fold | apply Kept.fold_fst | exact hC _ (by decide) | exact Or.inl (hC _ (by decide)) | exact Or.inr rfl | split | rfl | (simp; done) | dsimp only | apply Kept.upd)

theorem State.activate_kept {i : SliceId} (hC : ∀ p ∈ [.slices], K.c p) (hK : K.P s) : K.P (s.activate i) := by
  unfold State.activate; try dsimp only
  with_reducible (repeat' first | assumption | exact K.sub hC rfl | intro _ | apply State.modSl_kept | apply Kept.ite | exact hC _ (by decide) | dsimp only)

theorem State.resizeGo_kept {n : BitVec 2} (hC : ∀ p ∈ [.regs, .agents, .slices, .mesh, .hmap, .events], K.c p) (hK : K.P s) : K.P (s.resizeGo n) := by
  unfold State.resizeGo; try dsimp only
  with_reducible (repeat' first | assumption | exact K.sub hC rfl | intro _ | apply State.activate_kept | apply State.hmapRefuse_kept | apply State.resizeEnd_kept | apply Kept.ite | apply Kept.fold | apply Kept.fold_fst | exact hC _ (by decide) | exact Or.inl (hC _ (by decide)) | exact Or.inr rfl | rfl | (simp; done) | dsimp only | apply Kept.upd)

theorem execResize_kept {target : BitVec 2} (hC : ∀ p ∈ [.regs, .agents, .slices, .mesh, .hmap, .events], K.c p) (hK : K.P s) : K.out (execResize target s) := by
  unfold execResize; try dsimp only
  with_reducible (repeat' first | assumption | exact K.sub hC rfl | apply State.putF_kept | apply State.resizeGo_kept | apply Kept.ite | apply Kept.out_ite | apply Kept.out_next | exact hC _ (by decide))

theorem State.moveGo_kept {b : BitVec 12} {dst : SliceId} (hC : ∀ p ∈ [.regs, .mesh, .hmap, .events], K.c p) (hK : K.P s) : K.P (s.moveGo b dst) := by
  unfold State.moveGo; try dsimp only
  with_reducible (repeat' first | assumption | exact K.sub hC rfl | apply State.fire_kept | apply State.hmapRefuse_kept | apply Kept.ite | exact hC _ (by decide) | exact Or.inl (hC _ (by decide)) | exact Or.inr rfl | rfl | (simp; done) | dsimp only | apply Kept.upd)

theorem execMove_kept {b : BitVec 12} {dst : SliceId} (hC : ∀ p ∈ [.regs, .mesh, .hmap, .events], K.c p) (hK : K.P s) : K.out (execMove b dst s) := by
  unfold execMove; try dsimp only
  with_reducible (repeat' first | assumption | exact K.sub hC rfl | apply State.moveGo_kept | apply State.putF_kept | apply Kept.ite | apply Kept.out_ite | apply Kept.out_next | exact hC _ (by decide))

theorem execBucketMarkMoving_kept {b : BitVec 12} (hC : ∀ p ∈ [.regs, .slices, .hmap], K.c p) (hK : K.P s) : K.out (execBucketMarkMoving b s) := by
  unfold execBucketMarkMoving; try dsimp only
  with_reducible (repeat' first | assumption | exact K.sub hC rfl | apply State.loseRsv_kept | apply State.modMove_kept | apply Kept.ite | apply Kept.out_ite | apply Kept.out_next | exact hC _ (by decide) | split)

theorem State.sweepGained_kept {i : SliceId} {b : BitVec 12} {a : AgentId} (hC : ∀ p ∈ [.slices], K.c p) (hK : K.P s) : K.P (s.sweepGained i b a) := by
  unfold State.sweepGained; try dsimp only
  with_reducible (repeat' first | assumption | exact K.sub hC rfl | apply State.modSl_kept | apply Kept.ite | exact hC _ (by decide))

theorem execHandover_kept {i : SliceId} (hC : ∀ p ∈ [.slices, .mesh, .hmap], K.c p) (hK : K.P s) : K.out (execHandover i s) := by
  unfold execHandover; try dsimp only
  with_reducible (repeat' first | assumption | exact K.sub hC rfl | intro _ | apply State.inject_kept | apply State.modMove_kept | apply State.modSl_kept | apply State.sweepGained_kept | apply Kept.fold | apply Kept.fold_fst | apply Kept.out_next | exact hC _ (by decide) | exact Or.inl (hC _ (by decide)) | exact Or.inr rfl | rfl | (simp; done) | split | dsimp only | apply Kept.upd)

theorem execMapSet_kept {row : BitVec 4} (hC : ∀ p ∈ [.mesh, .hmap], K.c p) (hK : K.P s) : K.out (execMapSet row s) := by
  unfold execMapSet; try dsimp only
  with_reducible (repeat' first | assumption | exact K.sub hC rfl | intro _ | apply State.inject_kept | apply Kept.out_next | exact hC _ (by decide) | exact Or.inl (hC _ (by decide)) | exact Or.inr rfl | rfl | (simp; done) | split | dsimp only | apply Kept.upd)

theorem State.mapTo_kept {b : BitVec 12} {i : SliceId} (hC : ∀ p ∈ [.hmap], K.c p) (hK : K.P s) : K.P (s.mapTo b i) := by
  unfold State.mapTo; try dsimp only
  with_reducible (repeat' first | assumption | exact K.sub hC rfl | intro _ | apply Kept.ite | apply Kept.fold | apply Kept.fold_fst | exact hC _ (by decide) | exact Or.inl (hC _ (by decide)) | exact Or.inr rfl | split | rfl | (simp; done) | dsimp only | apply Kept.upd)

theorem State.loseBucket_kept {i : SliceId} {b : BitVec 12} (hC : ∀ p ∈ [.regs, .slices, .mesh], K.c p) (hK : K.P s) : K.P (s.loseBucket i b) := by
  unfold State.loseBucket; try dsimp only
  with_reducible (repeat' first | assumption | exact K.sub hC rfl | intro _ | apply State.bounceReq_kept | apply State.kickEsc_kept | apply State.modSl_kept | apply Kept.ite | apply Kept.fold | apply Kept.fold_fst | exact hC _ (by decide))

theorem State.commitMove_kept {m : Move} (hC : ∀ p ∈ [.regs, .agents, .slices, .mesh, .hmap, .events], K.c p) (hK : K.P s) : K.P (s.commitMove m) := by
  unfold State.commitMove; try dsimp only
  with_reducible (repeat' first | assumption | exact K.sub hC rfl | apply State.fire_kept | apply State.loseBucket_kept | apply State.mapTo_kept | apply State.resizeEnd_kept | apply Kept.ite | exact hC _ (by decide))

theorem execMapAck_kept (hC : ∀ p ∈ [.regs, .agents, .slices, .mesh, .hmap, .events], K.c p) (hK : K.P s) : K.out (execMapAck s) := by
  unfold execMapAck; try dsimp only
  with_reducible (repeat' first | assumption | exact K.sub hC rfl | apply State.commitMove_kept | apply State.modMove_kept | apply Kept.ite | apply Kept.out_ite | apply Kept.out_next | exact hC _ (by decide) | exact Or.inl (hC _ (by decide)) | exact Or.inr rfl | split | rfl | (simp; done) | dsimp only | apply Kept.upd)

end Sys2Proof.Machine
end

