-- ==== Sys2Proof/Laws/KeptEvents.lean ====
section
/-! SUPPORT. What the operations of Machine/Events.lean can write (see Laws/Kept.lean): each lemma lists the parts. -/

namespace Sys2Proof.Machine

set_option linter.unusedTactic false
set_option linter.unreachableTactic false

variable {K : Kept} {s : State}

theorem State.reqTaken_kept (hC : ∀ p ∈ [.rsp], K.c p) (hK : K.P s) : K.P s.reqTaken := by
  unfold State.reqTaken; try dsimp only
  with_reducible (repeat' first | assumption | exact K.sub hC rfl | apply Kept.ite | exact hC _ (by decide) | exact Or.inl (hC _ (by decide)) | exact Or.inr rfl | rfl | (simp; done) | dsimp only | apply Kept.upd)

theorem State.respond_kept {src : RegSrc} {data : Word32} {st : RegSt} (hC : ∀ p ∈ [.rsp, .mesh], K.c p) (hK : K.P s) : K.P (s.respond src data st) := by
  unfold State.respond; try dsimp only
  with_reducible (repeat' first | assumption | exact K.sub hC rfl | apply State.crossing_kept | apply State.reqTaken_kept | exact hC _ (by decide) | exact Or.inl (hC _ (by decide)) | exact Or.inr rfl | rfl | (simp; done) | split | dsimp only | apply Kept.upd)

theorem State.readBy_kept {src : RegSrc} {f : State → State × Word32} (hC : ∀ p ∈ [.rsp, .mesh], K.c p) (hf : ∀ x0, K.P x0 → K.P (f x0).1) (hK : K.P s) : K.P (s.readBy src f) := by
  unfold State.readBy; try dsimp only
  with_reducible (repeat' first | assumption | exact K.sub hC rfl | intro _ | apply State.respond_kept | apply Kept.ite | apply hf | exact hC _ (by decide) | split)

theorem State.claimFor_kept {n : BitVec 3} (hC : ∀ p ∈ [.events, .srcs], K.c p) (hK : K.P s) : K.P (s.claimFor n).1 := by
  unfold State.claimFor; try dsimp only
  with_reducible (repeat' first | assumption | exact K.sub hC rfl | apply Kept.ev | exact hC _ (by decide) | exact Or.inl (hC _ (by decide)) | exact Or.inr rfl | split | rfl | (simp; done) | dsimp only | apply Kept.upd)

theorem State.completeFor_kept {n : BitVec 3} {id : BitVec 12} (hC : ∀ p ∈ [.regs, .srcs], K.c p) (hK : K.P s) : K.P (s.completeFor n id) := by
  unfold State.completeFor; try dsimp only
  with_reducible (repeat' first | assumption | exact K.sub hC rfl | apply State.evCount_kept | apply Kept.ev | apply Kept.ite | exact hC _ (by decide))

theorem State.dropClaims_kept (hC : ∀ p ∈ [.srcs], K.c p) (hK : K.P s) : K.P s.dropClaims := by
  unfold State.dropClaims; try dsimp only
  with_reducible (repeat' first | assumption | exact K.sub hC rfl | intro _ | apply Kept.ev | apply Kept.ite | apply Kept.fold | apply Kept.fold_fst | exact hC _ (by decide))

theorem State.evSrcPut_kept {i : Nat} {be : BitVec 4} {data : Word32} (hC : ∀ p ∈ [.srcs], K.c p) (hK : K.P s) : K.P (s.evSrcPut i be data) := by
  unfold State.evSrcPut; try dsimp only
  with_reducible (repeat' first | assumption | exact K.sub hC rfl | apply Kept.ev | apply Kept.ite | exact hC _ (by decide))

theorem State.tgtCtrlPut_kept {n : BitVec 3} {be : BitVec 4} {data : Word32} (hC : ∀ p ∈ [.regs], K.c p) (hK : K.P s) : K.P (s.tgtCtrlPut n be data) := by
  unfold State.tgtCtrlPut; try dsimp only
  with_reducible (repeat' first | assumption | exact K.sub hC rfl | apply Kept.reg | exact hC _ (by decide))

theorem execEventMessage_kept (hC : ∀ p ∈ [.regs, .events, .srcs], K.c p) (hK : K.P s) : K.out (execEventMessage s) := by
  unfold execEventMessage; try dsimp only
  with_reducible (repeat' first | assumption | exact K.sub hC rfl | apply State.evInput_kept | apply Kept.out_next | exact hC _ (by decide) | exact Or.inl (hC _ (by decide)) | exact Or.inr rfl | split | rfl | (simp; done) | dsimp only | apply Kept.upd)

theorem execGlobalSourceChange_kept (hC : ∀ p ∈ [.regs, .events, .srcs], K.c p) (hK : K.P s) : K.out (execGlobalSourceChange s) := by
  unfold execGlobalSourceChange; try dsimp only
  with_reducible (repeat' first | assumption | exact K.sub hC rfl | apply State.evInput_kept | apply Kept.out_next | exact hC _ (by decide) | exact Or.inl (hC _ (by decide)) | exact Or.inr rfl | split | rfl | (simp; done) | dsimp only | apply Kept.upd)

theorem execClaim_kept {n : BitVec 3} {src : RegSrc} (hC : ∀ p ∈ [.rsp, .mesh, .events, .srcs], K.c p) (hK : K.P s) : K.out (execClaim n src s) := by
  unfold execClaim; try dsimp only
  with_reducible (repeat' first | assumption | exact K.sub hC rfl | intro _ | apply State.claimFor_kept | apply State.readBy_kept | apply Kept.ite_fst | apply Kept.out_next | exact hC _ (by decide) | refine Kept.of_pair ?_ ‹_›)

theorem execComplete_kept {n : BitVec 3} {id : BitVec 12} (hC : ∀ p ∈ [.regs, .srcs], K.c p) (hK : K.P s) : K.out (execComplete n id s) := by
  unfold execComplete; try dsimp only
  with_reducible (repeat' first | assumption | exact K.sub hC rfl | apply State.completeFor_kept | apply Kept.ite | apply Kept.out_ite | apply Kept.out_next | exact hC _ (by decide))

theorem execEvSrcWrite_kept {i : BitVec 11} {be : BitVec 4} {data : Word32} (hC : ∀ p ∈ [.srcs], K.c p) (hK : K.P s) : K.out (execEvSrcWrite i be data s) := by
  unfold execEvSrcWrite; try dsimp only
  with_reducible (repeat' first | assumption | exact K.sub hC rfl | apply State.evSrcPut_kept | apply Kept.ite | apply Kept.out_ite | apply Kept.out_next | exact hC _ (by decide))

theorem execTgtCtrlWrite_kept {n : BitVec 3} {be : BitVec 4} {data : Word32} (hC : ∀ p ∈ [.regs], K.c p) (hK : K.P s) : K.out (execTgtCtrlWrite n be data s) := by
  unfold execTgtCtrlWrite; try dsimp only
  with_reducible (repeat' first | assumption | exact K.sub hC rfl | apply State.tgtCtrlPut_kept | apply Kept.ite | apply Kept.out_ite | apply Kept.out_next | exact hC _ (by decide))

end Sys2Proof.Machine
end

