-- ==== Sys2Proof/Laws/KeptCounts.lean ====
section
/-! SUPPORT. What the operations of Machine/Counts.lean can write (see Laws/Kept.lean): each lemma lists the parts. -/

namespace Sys2Proof.Machine

set_option linter.unusedTactic false
set_option linter.unreachableTactic false

variable {K : Kept} {s : State}

theorem State.cntBounce_kept {i : Nat} (hC : ∀ p ∈ [.regs, .slices, .events, .cnts], K.c p) (hK : K.P s) : K.P (s.cntBounce i) := by
  unfold State.cntBounce; try dsimp only
  with_reducible (repeat' first | assumption | exact K.sub hC rfl | apply State.attBounced_kept | apply State.mpBounced_kept | apply Kept.ite | exact hC _ (by decide))

theorem State.cntLo_kept {i : Nat} (hC : ∀ p ∈ [.regs, .slices, .events, .cnts], K.c p) (hK : K.P s) : K.P (s.cntLo i).1 := by
  unfold State.cntLo; try dsimp only
  with_reducible (repeat' first | assumption | exact K.sub hC rfl | apply State.cntBounce_kept | apply Kept.cnt | apply Kept.ite | apply Kept.ite_fst | exact hC _ (by decide) | exact fun _ => Or.inl rfl | exact fun _ => Or.inr rfl | exact Or.inr rfl | exact fun e => absurd e ‹_›)

theorem State.setDc_kept {d : Nat} {x : Dcyc} (hC : ∀ p ∈ [.counts], K.c p) (hK : K.P s) : K.P (s.setDc d x) := by
  unfold State.setDc; try dsimp only
  with_reducible (repeat' first | assumption | exact K.sub hC rfl | exact hC _ (by decide) | exact Or.inl (hC _ (by decide)) | exact Or.inr rfl | rfl | (simp; done) | dsimp only | apply Kept.upd)

theorem State.dcycLo_kept {d : Nat} (hC : ∀ p ∈ [.counts], K.c p) (hK : K.P s) : K.P (s.dcycLo d).1 := by
  unfold State.dcycLo; try dsimp only
  with_reducible (repeat' first | assumption | exact K.sub hC rfl | apply State.setDc_kept | exact hC _ (by decide))

theorem State.prbLo_kept {i : Nat} {n : Bool} (hC : ∀ p ∈ [.routers], K.c p) (hK : K.P s) : K.P (s.prbLo i n).1 := by
  unfold State.prbLo; try dsimp only
  with_reducible (repeat' first | assumption | exact K.sub hC rfl | apply Kept.router | apply Kept.ite | apply Kept.ite_fst | exact hC _ (by decide))

theorem State.tbLo_kept (hC : ∀ p ∈ [.plinth], K.c p) (hK : K.P s) : K.P (s.tbLo).1 := by
  unfold State.tbLo; try dsimp only
  with_reducible (repeat' first | assumption | exact K.sub hC rfl | exact hC _ (by decide) | exact Or.inl (hC _ (by decide)) | exact Or.inr rfl | rfl | (simp; done) | dsimp only | apply Kept.upd)

theorem execCntLoRead_kept {i : Fin 3584} (hC : ∀ p ∈ [.regs, .rsp, .slices, .mesh, .events, .cnts], K.c p) (hK : K.P s) : K.out (execCntLoRead i s) := by
  unfold execCntLoRead; try dsimp only
  with_reducible (repeat' first | assumption | exact K.sub hC rfl | intro _ | apply State.cntLo_kept | apply State.readBy_kept | apply Kept.ite_fst | apply Kept.out_next | exact hC _ (by decide) | refine Kept.of_pair ?_ ‹_›)

theorem execDcycLowRead_kept {d : Fin 40} (hC : ∀ p ∈ [.rsp, .mesh, .counts], K.c p) (hK : K.P s) : K.out (execDcycLowRead d s) := by
  unfold execDcycLowRead; try dsimp only
  with_reducible (repeat' first | assumption | exact K.sub hC rfl | intro _ | apply State.dcycLo_kept | apply State.readBy_kept | apply Kept.ite_fst | apply Kept.out_next | exact hC _ (by decide) | refine Kept.of_pair ?_ ‹_›)

theorem execPrbCntLowRead_kept {i : Fin 80} {n : Bool} (hC : ∀ p ∈ [.rsp, .mesh, .routers], K.c p) (hK : K.P s) : K.out (execPrbCntLowRead i n s) := by
  unfold execPrbCntLowRead; try dsimp only
  with_reducible (repeat' first | assumption | exact K.sub hC rfl | intro _ | apply State.prbLo_kept | apply State.readBy_kept | apply Kept.ite_fst | apply Kept.out_next | exact hC _ (by decide) | refine Kept.of_pair ?_ ‹_›)

theorem execTbNowLoRead_kept (hC : ∀ p ∈ [.plinth, .rsp, .mesh], K.c p) (hK : K.P s) : K.out (execTbNowLoRead s) := by
  unfold execTbNowLoRead; try dsimp only
  with_reducible (repeat' first | assumption | exact K.sub hC rfl | intro _ | apply State.readBy_kept | apply State.tbLo_kept | apply Kept.ite_fst | apply Kept.out_next | exact hC _ (by decide) | refine Kept.of_pair ?_ ‹_›)

theorem State.armCnt_kept {i : Nat} (hC : ∀ p ∈ [.cnts], K.c p) (hK : K.P s) : K.P (s.armCnt i) := by
  unfold State.armCnt; try dsimp only
  with_reducible (repeat' first | assumption | exact K.sub hC rfl | apply Kept.cnt | exact hC _ (by decide) | exact fun _ => Or.inl rfl | exact fun _ => Or.inr rfl | exact Or.inr rfl | exact fun e => absurd e ‹_› | split)

theorem State.disarmCnt_kept {i : Nat} (hC : ∀ p ∈ [.cnts], K.c p) (hK : K.P s) : K.P (s.disarmCnt i) := by
  unfold State.disarmCnt; try dsimp only
  with_reducible (repeat' first | assumption | exact K.sub hC rfl | apply Kept.cnt | exact hC _ (by decide) | exact fun _ => Or.inl rfl | exact fun _ => Or.inr rfl | exact Or.inr rfl | exact fun e => absurd e ‹_› | split)

theorem execArm_kept {i : Fin 3584} (hC : ∀ p ∈ [.regs, .slices, .events, .cnts], K.c p) (hK : K.P s) : K.out (execArm i s) := by
  unfold execArm; try dsimp only
  with_reducible (repeat' first | assumption | exact K.sub hC rfl | apply State.armCnt_kept | apply State.cntBounce_kept | apply Kept.ite | apply Kept.out_ite | apply Kept.out_next | exact hC _ (by decide))

theorem execDisarm_kept {i : Fin 3584} (hC : ∀ p ∈ [.regs, .slices, .events, .cnts], K.c p) (hK : K.P s) : K.out (execDisarm i s) := by
  unfold execDisarm; try dsimp only
  with_reducible (repeat' first | assumption | exact K.sub hC rfl | apply State.cntBounce_kept | apply State.disarmCnt_kept | apply Kept.ite | apply Kept.out_ite | apply Kept.out_next | exact hC _ (by decide))

theorem execCounterOverflow_kept {i : Fin 3584} {occ : BitVec 16} (hC : ∀ p ∈ [.slices, .mesh, .events, .cnts], K.c p) (hK : K.P s) : K.out (execCounterOverflow i occ s) := by
  unfold execCounterOverflow; try dsimp only
  with_reducible (repeat' first | assumption | exact K.sub hC rfl | apply State.count_kept | apply Kept.ite | apply Kept.out_ite | apply Kept.out_next | exact hC _ (by decide))

theorem State.freezeTo_kept {v : Bool} (hC : ∀ p ∈ [.regs, .counts], K.c p) (hK : K.P s) : K.P (s.freezeTo v) := by
  unfold State.freezeTo; try dsimp only
  with_reducible (repeat' first | assumption | exact K.sub hC rfl | apply State.putF_kept | exact hC _ (by decide) | exact Or.inl (hC _ (by decide)) | exact Or.inr rfl | rfl | (simp; done) | dsimp only | apply Kept.upd)

theorem State.clearCnts_kept (hC : ∀ p ∈ [.cnts], K.c p) (hK : K.P s) : K.P s.clearCnts := by
  unfold State.clearCnts; try dsimp only
  with_reducible (repeat' first | assumption | exact K.sub hC rfl | intro _ | apply Kept.cnt | apply Kept.fold | apply Kept.fold_fst | exact hC _ (by decide) | exact fun _ => Or.inl rfl | exact fun _ => Or.inr rfl | exact Or.inr rfl | exact fun e => absurd e ‹_› | split)

theorem execFreeze_kept (hC : ∀ p ∈ [.regs, .counts], K.c p) (hK : K.P s) : K.out (execFreeze s) := by
  unfold execFreeze; try dsimp only
  with_reducible (repeat' first | assumption | exact K.sub hC rfl | apply State.freezeTo_kept | apply Kept.ite | apply Kept.out_ite | apply Kept.out_next | exact hC _ (by decide))

theorem execFreezeRelease_kept (hC : ∀ p ∈ [.regs, .counts], K.c p) (hK : K.P s) : K.out (execFreezeRelease s) := by
  unfold execFreezeRelease; try dsimp only
  with_reducible (repeat' first | assumption | exact K.sub hC rfl | apply State.freezeTo_kept | apply Kept.ite | apply Kept.out_ite | apply Kept.out_next | exact hC _ (by decide))

theorem execCounterClear_kept (hC : ∀ p ∈ [.cnts], K.c p) (hK : K.P s) : K.out (execCounterClear s) := by
  unfold execCounterClear; try dsimp only
  with_reducible (repeat' first | assumption | exact K.sub hC rfl | apply State.clearCnts_kept | apply Kept.ite | apply Kept.out_ite | apply Kept.out_next | exact hC _ (by decide))

theorem State.snapGo_kept (hC : ∀ p ∈ [.regs, .counts], K.c p) (hK : K.P s) : K.P s.snapGo := by
  unfold State.snapGo; try dsimp only
  with_reducible (repeat' first | assumption | exact K.sub hC rfl | apply State.snapStart_kept | exact hC _ (by decide))

theorem State.snapNow_kept (hC : ∀ p ∈ [.regs, .counts], K.c p) (hK : K.P s) : K.P s.snapNow := by
  unfold State.snapNow; try dsimp only
  with_reducible (repeat' first | assumption | exact K.sub hC rfl | apply State.snapStart_kept | exact hC _ (by decide))

theorem execSnapGo_kept (hC : ∀ p ∈ [.regs, .counts], K.c p) (hK : K.P s) : K.out (execSnapGo s) := by
  unfold execSnapGo; try dsimp only
  with_reducible (repeat' first | assumption | exact K.sub hC rfl | apply State.snapGo_kept | apply Kept.ite | apply Kept.out_ite | apply Kept.out_next | exact hC _ (by decide))

theorem execSnapNow_kept (hC : ∀ p ∈ [.regs, .counts], K.c p) (hK : K.P s) : K.out (execSnapNow s) := by
  unfold execSnapNow; try dsimp only
  with_reducible (repeat' first | assumption | exact K.sub hC rfl | apply State.snapNow_kept | apply Kept.ite | apply Kept.out_ite | apply Kept.out_next | exact hC _ (by decide))

theorem State.snapDone_kept {d : Fin 40} {f : Snap → Snap} (hC : ∀ p ∈ [.regs, .mesh, .events, .counts], K.c p) (hK : K.P s) : K.P (s.snapDone d f) := by
  unfold State.snapDone; try dsimp only
  with_reducible (repeat' first | assumption | exact K.sub hC rfl | intro _ | apply State.crossing_kept | apply State.fire_kept | apply State.putF_kept | apply Kept.ite | exact hC _ (by decide) | exact Or.inl (hC _ (by decide)) | exact Or.inr rfl | rfl | (simp; done) | dsimp only | apply Kept.upd)

theorem execSnapCapture_kept {d : Fin 40} {stamp : BitVec 64} (hC : ∀ p ∈ [.plinth, .regs, .mesh, .events, .counts], K.c p) (hK : K.P s) : K.out (execSnapCapture d stamp s) := by
  unfold execSnapCapture; try dsimp only
  with_reducible (repeat' first | assumption | exact K.sub hC rfl | intro _ | apply State.followTo_kept | apply State.reach_kept | apply State.snapDone_kept | apply Kept.ite | apply Kept.out_ite | apply Kept.out_next | exact hC _ (by decide) | split | dsimp only)

theorem execSnapDomainTimeout_kept {d : Fin 40} (hC : ∀ p ∈ [.plinth, .regs, .mesh, .events, .counts], K.c p) (hK : K.P s) : K.out (execSnapDomainTimeout d s) := by
  unfold execSnapDomainTimeout; try dsimp only
  with_reducible (repeat' first | assumption | exact K.sub hC rfl | apply State.reach_kept | apply State.snapDone_kept | apply Kept.ite | apply Kept.out_ite | apply Kept.out_next | exact hC _ (by decide) | split)

theorem State.ringLevel_kept (hC : ∀ p ∈ [.mesh, .events], K.c p) (hK : K.P s) : K.P s.ringLevel := by
  unfold State.ringLevel; try dsimp only
  with_reducible (repeat' first | assumption | exact K.sub hC rfl | apply State.evLevel_kept | exact hC _ (by decide))

theorem State.ringPut_kept {r : BitVec 512} (hC : ∀ p ∈ [.regs, .mesh, .events, .counts], K.c p) (hK : K.P s) : K.P (s.ringPut r) := by
  unfold State.ringPut; try dsimp only
  with_reducible (repeat' first | assumption | exact K.sub hC rfl | apply State.incF_kept | apply State.putF_kept | apply State.ringLevel_kept | apply Kept.ite | exact hC _ (by decide) | exact Or.inl (hC _ (by decide)) | exact Or.inr rfl | rfl | (simp; done) | dsimp only | apply Kept.upd)

theorem State.recTake_kept {o : Obs (BitVec 512)} (hC : ∀ p ∈ [.regs, .mesh, .events, .counts], K.c p) (hK : K.P s) : K.P (s.recTake o) := by
  unfold State.recTake; try dsimp only
  with_reducible (repeat' first | assumption | exact K.sub hC rfl | apply State.addF_kept | apply State.ringPut_kept | exact hC _ (by decide) | split)

theorem execSampleRecord_kept (hC : ∀ p ∈ [.modes, .pins, .regs, .atts, .slices, .mesh, .events, .counts, .cox], K.c p) (hK : K.P s) : K.out (execSampleRecord s) := by
  unfold execSampleRecord; try dsimp only
  with_reducible (repeat' first | assumption | exact K.sub hC rfl | intro _ | apply State.recTake_kept | apply State.underrun_kept | apply Kept.fold | apply Kept.fold_fst | apply Kept.out_next | exact hC _ (by decide) | exact Or.inl (hC _ (by decide)) | exact Or.inr rfl | rfl | (simp; done) | split | dsimp only | apply Kept.upd)

theorem execCounterWindowRead_kept {la : AttId} (hC : ∀ p ∈ [.regs, .atts, .slices, .ports, .mesh, .events, .cnts], K.c p) (hK : K.P s) : K.out (execCounterWindowRead la s) := by
  unfold execCounterWindowRead; try dsimp only
  with_reducible (repeat' first | assumption | exact K.sub hC rfl | intro _ | apply State.count_kept | apply State.crossing_kept | apply State.egDrs_kept | apply State.inject_kept | apply State.modAtt_kept | apply State.performPart_kept | apply Kept.out_next | exact hC _ (by decide) | split | dsimp only)

end Sys2Proof.Machine
end

