-- ==== Sys2Proof/Laws/KeptCox.lean ====
section
/-! SUPPORT. What the operations of Machine/Cox.lean can write (see Laws/Kept.lean): each lemma lists the parts. -/

namespace Sys2Proof.Machine

set_option linter.unusedTactic false
set_option linter.unreachableTactic false

variable {K : Kept} {s : State}

theorem State.wdtKick_kept (hC : ∀ p ∈ [.cox], K.c p) (hK : K.P s) : K.P s.wdtKick := by
  unfold State.wdtKick; try dsimp only
  with_reducible (repeat' first | assumption | exact K.sub hC rfl | apply Kept.ite | exact hC _ (by decide) | exact Or.inl (hC _ (by decide)) | exact Or.inr rfl | rfl | (simp; done) | dsimp only | apply Kept.upd)

theorem State.wdtSet_kept {on : Bool} (hC : ∀ p ∈ [.regs, .cox], K.c p) (hK : K.P s) : K.P (s.wdtSet on) := by
  unfold State.wdtSet; try dsimp only
  with_reducible (repeat' first | assumption | exact K.sub hC rfl | apply State.putF_kept | apply Kept.ite | exact hC _ (by decide) | exact Or.inl (hC _ (by decide)) | exact Or.inr rfl | rfl | (simp; done) | dsimp only | apply Kept.upd)

theorem State.updEnd_kept (hC : ∀ p ∈ [.regs, .mesh, .events, .cox], K.c p) (hK : K.P s) : K.P s.updEnd := by
  unfold State.updEnd; try dsimp only
  with_reducible (repeat' first | assumption | exact K.sub hC rfl | apply State.fire_kept | apply State.putF_kept | apply Kept.ite | exact hC _ (by decide) | exact Or.inl (hC _ (by decide)) | exact Or.inr rfl | rfl | (simp; done) | dsimp only | apply Kept.upd)

theorem State.coxRestart_kept {cause : Nat} (hC : ∀ p ∈ [.regs, .mesh, .events, .srcs, .cox], K.c p) (hK : K.P s) : K.P (s.coxRestart cause) := by
  unfold State.coxRestart; try dsimp only
  with_reducible (repeat' first | assumption | exact K.sub hC rfl | apply State.dropClaims_kept | apply State.incF_kept | apply State.putF_kept | apply State.updEnd_kept | exact hC _ (by decide) | exact Or.inl (hC _ (by decide)) | exact Or.inr rfl | rfl | (simp; done) | dsimp only | apply Kept.upd)

theorem execCoxReset_kept (hC : ∀ p ∈ [.regs, .mesh, .events, .srcs, .cox], K.c p) (hK : K.P s) : K.out (execCoxReset s) := by
  unfold execCoxReset; try dsimp only
  with_reducible (repeat' first | assumption | exact K.sub hC rfl | apply State.coxRestart_kept | apply Kept.ite | apply Kept.out_ite | apply Kept.out_next | exact hC _ (by decide))

theorem execWatchdogExpiry_kept (hC : ∀ p ∈ [.plinth, .regs, .mesh, .events, .srcs, .cox], K.c p) (hK : K.P s) : K.out (execWatchdogExpiry s) := by
  unfold execWatchdogExpiry; try dsimp only
  with_reducible (repeat' first | assumption | exact K.sub hC rfl | apply State.coxRestart_kept | apply State.reach_kept | apply Kept.ite | apply Kept.out_ite | apply Kept.out_next | exact hC _ (by decide))

theorem execWatchdogKick_kept (hC : ∀ p ∈ [.cox], K.c p) (hK : K.P s) : K.out (execWatchdogKick s) := by
  unfold execWatchdogKick; try dsimp only
  with_reducible (repeat' first | assumption | exact K.sub hC rfl | apply State.wdtKick_kept | apply Kept.ite | apply Kept.out_ite | apply Kept.out_next | exact hC _ (by decide))

theorem execCoxFault_kept (hC : ∀ p ∈ [.regs, .mesh, .events, .srcs, .cox], K.c p) (hK : K.P s) : K.out (execCoxFault s) := by
  unfold execCoxFault; try dsimp only
  with_reducible (repeat' first | assumption | exact K.sub hC rfl | apply State.coxRestart_kept | apply Kept.ite | apply Kept.out_ite | apply Kept.out_next | exact hC _ (by decide))

theorem State.coxStart_kept {sram : List Byte} (hC : ∀ p ∈ [.cox], K.c p) (hK : K.P s) : K.P (s.coxStart sram) := by
  unfold State.coxStart; try dsimp only
  with_reducible (repeat' first | assumption | exact K.sub hC rfl | apply State.wdtKick_kept | exact hC _ (by decide) | exact Or.inl (hC _ (by decide)) | exact Or.inr rfl | rfl | (simp; done) | dsimp only | apply Kept.upd)

theorem State.logRestart_kept (hC : ∀ p ∈ [.regs, .cox], K.c p) (hK : K.P s) : K.P s.logRestart := by
  unfold State.logRestart; try dsimp only
  with_reducible (repeat' first | assumption | exact K.sub hC rfl | apply State.logHw_kept | exact hC _ (by decide))

theorem execCoxRestartDone_kept {sram : List Byte} {reload : List Byte} (hC : ∀ p ∈ [.regs, .cox], K.c p) (hK : K.P s) : K.out (execCoxRestartDone sram reload s) := by
  unfold execCoxRestartDone; try dsimp only
  with_reducible (repeat' first | assumption | exact K.sub hC rfl | apply State.coxStart_kept | apply State.logRestart_kept | apply State.putF_kept | apply Kept.ite | apply Kept.out_ite | apply Kept.out_next | apply Kept.out_refused | exact hC _ (by decide) | exact Or.inl (hC _ (by decide)) | exact Or.inr rfl | rfl | (simp; done) | dsimp only | apply Kept.upd)

theorem State.sensLevels_kept (hC : ∀ p ∈ [.regs, .mesh, .events], K.c p) (hK : K.P s) : K.P s.sensLevels := by
  unfold State.sensLevels; try dsimp only
  with_reducible (repeat' first | assumption | exact K.sub hC rfl | intro _ | apply State.evLevel_kept | apply State.putF_kept | apply Kept.fold | apply Kept.fold_fst | exact hC _ (by decide))

theorem State.thermal_kept {i : Nat} {t : BitVec 12} (hC : ∀ p ∈ [.pins, .regs, .mesh, .events], K.c p) (hK : K.P s) : K.P (s.thermal i t) := by
  unfold State.thermal; try dsimp only
  with_reducible (repeat' first | assumption | exact K.sub hC rfl | apply State.evLevel_kept | apply State.putF_kept | exact hC _ (by decide) | exact Or.inl (hC _ (by decide)) | exact Or.inr rfl | rfl | (simp; done) | dsimp only | apply Kept.upd)

theorem execSensorSample_kept {x : SensorSample} (hC : ∀ p ∈ [.modes, .pins, .regs, .mesh, .events], K.c p) (hK : K.P s) : K.out (execSensorSample x s) := by
  unfold execSensorSample; try dsimp only
  with_reducible (repeat' first | assumption | exact K.sub hC rfl | apply State.crossing_kept | apply State.putF_kept | apply State.seeDroop_kept | apply State.sensLevels_kept | apply State.thermal_kept | apply Kept.ite | apply Kept.out_ite | apply Kept.out_next | exact hC _ (by decide) | split)

theorem State.clkLevel_kept (hC : ∀ p ∈ [.mesh, .events], K.c p) (hK : K.P s) : K.P s.clkLevel := by
  unfold State.clkLevel; try dsimp only
  with_reducible (repeat' first | assumption | exact K.sub hC rfl | apply State.evLevel_kept | exact hC _ (by decide))

theorem execClockAbsent_kept {d : Fin 40} (hC : ∀ p ∈ [.modes, .pins, .regs, .atts, .mesh, .events, .counts, .cox], K.c p) (hK : K.P s) : K.out (execClockAbsent d s) := by
  unfold execClockAbsent; try dsimp only
  with_reducible (repeat' first | assumption | exact K.sub hC rfl | apply State.clkLevel_kept | apply State.fatal_kept | apply Kept.ite | apply Kept.out_ite | apply Kept.out_next | exact hC _ (by decide) | exact Or.inl (hC _ (by decide)) | exact Or.inr rfl | rfl | (simp; done) | dsimp only | apply Kept.upd)

theorem execClockPresent_kept {d : Fin 40} (hC : ∀ p ∈ [.modes, .pins, .boot, .regs, .atts, .mesh, .events, .counts, .cox, .wipe], K.c p) (hK : K.P s) : K.out (execClockPresent d s) := by
  unfold execClockPresent; try dsimp only
  with_reducible (repeat' first | assumption | exact K.sub hC rfl | apply State.clkLevel_kept | apply State.warmInRest_kept | apply Kept.ite | apply Kept.out_ite | apply Kept.out_next | exact hC _ (by decide) | exact Or.inl (hC _ (by decide)) | exact Or.inr rfl | rfl | (simp; done) | dsimp only | apply Kept.upd)

theorem State.logWrite_kept {r : LogRec} (hC : ∀ p ∈ [.regs, .cox], K.c p) (hK : K.P s) : K.P (s.logWrite r) := by
  unfold State.logWrite; try dsimp only
  with_reducible (repeat' first | assumption | exact K.sub hC rfl | apply State.putF_kept | apply State.wrapF_kept | apply Kept.ite | exact hC _ (by decide) | exact Or.inl (hC _ (by decide)) | exact Or.inr rfl | rfl | (simp; done) | dsimp only | apply Kept.upd)

theorem State.logCox_kept {r : LogRec} (hC : ∀ p ∈ [.regs, .cox], K.c p) (hK : K.P s) : K.P (s.logCox r) := by
  unfold State.logCox; try dsimp only
  with_reducible (repeat' first | assumption | exact K.sub hC rfl | apply State.logWrite_kept | apply Kept.ite | exact hC _ (by decide))

theorem State.logTake_kept {o : Obs LogRec} (hC : ∀ p ∈ [.regs, .cox], K.c p) (hK : K.P s) : K.P (s.logTake o) := by
  unfold State.logTake; try dsimp only
  with_reducible (repeat' first | assumption | exact K.sub hC rfl | apply State.logWrite_kept | exact hC _ (by decide) | split)

theorem execEventLogRecord_kept {cox : Option LogRec} (hC : ∀ p ∈ [.modes, .pins, .regs, .atts, .slices, .mesh, .events, .counts, .cox], K.c p) (hK : K.P s) : K.out (execEventLogRecord cox s) := by
  unfold execEventLogRecord; try dsimp only
  with_reducible (repeat' first | assumption | exact K.sub hC rfl | intro _ | apply State.logCox_kept | apply State.logTake_kept | apply State.underrun_kept | apply Kept.ite | apply Kept.out_ite | apply Kept.fold | apply Kept.fold_fst | apply Kept.out_next | exact hC _ (by decide) | exact Or.inl (hC _ (by decide)) | exact Or.inr rfl | rfl | (simp; done) | split | dsimp only | apply Kept.upd)

theorem State.spi_kept {cs : List (BitVec 8 × Nat × List Byte)} (hC : ∀ p ∈ [.pins, .regs, .mesh], K.c p) (hK : K.P s) : K.P (s.spi cs) := by
  unfold State.spi; try dsimp only
  with_reducible (repeat' first | assumption | exact K.sub hC rfl | intro _ | apply State.crossing_kept | apply State.putF_kept | apply Kept.ite | exact hC _ (by decide) | exact Or.inl (hC _ (by decide)) | exact Or.inr rfl | rfl | (simp; done) | dsimp only | apply Kept.upd)

theorem State.spiDo_kept {c : BitVec 8 × Nat × List Byte} {f : State → State} (hC : ∀ p ∈ [.pins, .regs, .mesh], K.c p)
    (hf : ∀ s, K.P s → K.P (f s)) (hK : K.P s) : K.P (s.spiDo c f) :=
  State.spi_kept hC (Kept.ite hK (hf s hK))

theorem execJournalProgram_kept {sector : BitVec 6} {record : BitVec 7} {bytes : List Byte} {readBack : List Byte} (hC : ∀ p ∈ [.pins, .regs, .mesh, .events], K.c p) (hK : K.P s) : K.out (execJournalProgram sector record bytes readBack s) := by
  unfold execJournalProgram; try dsimp only
  with_reducible (repeat' first | assumption | exact K.sub hC rfl | apply State.crossing_kept | apply State.fire_kept | apply State.incF_kept | apply State.putF_kept | apply State.spi_kept | apply Kept.ite | apply Kept.out_ite | apply Kept.out_next | apply Kept.out_refused | exact hC _ (by decide))

theorem State.holdEnter_kept (hC : ∀ p ∈ [.modes, .pins, .regs, .atts, .mesh, .events, .counts, .cox], K.c p) (hK : K.P s) : K.P s.holdEnter := by
  unfold State.holdEnter; try dsimp only
  with_reducible (repeat' first | assumption | exact K.sub hC rfl | apply State.fatal_kept | exact hC _ (by decide))

theorem State.holdFlush_kept (hC : ∀ p ∈ [.regs, .ports, .mesh, .events], K.c p) (hK : K.P s) : K.P s.holdFlush := by
  unfold State.holdFlush; try dsimp only
  with_reducible (repeat' first | assumption | exact K.sub hC rfl | intro _ | apply State.flush_kept | apply State.holdSettle_kept | apply State.putF_kept | apply Kept.ite | apply Kept.fold | apply Kept.fold_fst | exact hC _ (by decide))

theorem execHoldEnter_kept (hC : ∀ p ∈ [.modes, .pins, .regs, .atts, .mesh, .events, .counts, .cox], K.c p) (hK : K.P s) : K.out (execHoldEnter s) := by
  unfold execHoldEnter; try dsimp only
  with_reducible (repeat' first | assumption | exact K.sub hC rfl | apply State.holdEnter_kept | apply Kept.ite | apply Kept.out_ite | apply Kept.out_next | exact hC _ (by decide))

theorem execHoldFlush_kept (hC : ∀ p ∈ [.regs, .ports, .mesh, .events], K.c p) (hK : K.P s) : K.out (execHoldFlush s) := by
  unfold execHoldFlush; try dsimp only
  with_reducible (repeat' first | assumption | exact K.sub hC rfl | apply State.holdFlush_kept | apply Kept.ite | apply Kept.out_ite | apply Kept.out_next | exact hC _ (by decide))

end Sys2Proof.Machine
end

