-- ==== Sys2Proof/Laws/KeptImage.lean ====
section
/-! SUPPORT. What the operations of Machine/Image.lean can write (see Laws/Kept.lean): each lemma lists the parts. -/

namespace Sys2Proof.Machine

set_option linter.unusedTactic false
set_option linter.unreachableTactic false

variable {K : Kept} {s : State}

theorem State.setHdr_kept {slot : Bool} {h : List Byte} (hC : ∀ p ∈ [.boot], K.c p) (hK : K.P s) : K.P (s.setHdr slot h) := by
  unfold State.setHdr; try dsimp only
  with_reducible (repeat' first | assumption | exact K.sub hC rfl | apply Kept.ite | exact hC _ (by decide) | exact Or.inl (hC _ (by decide)) | exact Or.inr rfl | rfl | (simp; done) | dsimp only | apply Kept.upd)

end Sys2Proof.Machine
end

