-- ==== Sys2Proof/Laws/KeptMailbox.lean ====
section
/-! SUPPORT. What the operations of Machine/Mailbox.lean can write (see Laws/Kept.lean): each lemma lists the parts. -/

namespace Sys2Proof.Machine

set_option linter.unusedTactic false
set_option linter.unreachableTactic false

variable {K : Kept} {s : State}

theorem State.mbxPost_kept (hC : ∀ p ∈ [.regs, .mesh, .events, .cox], K.c p) (hK : K.P s) : K.P s.mbxPost := by
  unfold State.mbxPost; try dsimp only
  with_reducible (repeat' first | assumption | exact K.sub hC rfl | apply State.crossing_kept | apply State.fire_kept | apply State.incF_kept | apply Kept.ite | exact hC _ (by decide) | exact Or.inl (hC _ (by decide)) | exact Or.inr rfl | rfl | (simp; done) | dsimp only | apply Kept.upd)

theorem State.mbxTaken_kept (hC : ∀ p ∈ [.cox], K.c p) (hK : K.P s) : K.P s.mbxTaken := by
  unfold State.mbxTaken; try dsimp only
  with_reducible (repeat' first | assumption | exact K.sub hC rfl | exact hC _ (by decide) | exact Or.inl (hC _ (by decide)) | exact Or.inr rfl | rfl | (simp; done) | dsimp only | apply Kept.upd)

theorem execMailboxPost_kept (hC : ∀ p ∈ [.regs, .mesh, .events, .cox], K.c p) (hK : K.P s) : K.out (execMailboxPost s) := by
  unfold execMailboxPost; try dsimp only
  with_reducible (repeat' first | assumption | exact K.sub hC rfl | apply State.mbxPost_kept | apply Kept.ite | apply Kept.out_ite | apply Kept.out_next | exact hC _ (by decide))

theorem execMailboxTaken_kept (hC : ∀ p ∈ [.cox], K.c p) (hK : K.P s) : K.out (execMailboxTaken s) := by
  unfold execMailboxTaken; try dsimp only
  with_reducible (repeat' first | assumption | exact K.sub hC rfl | apply State.mbxTaken_kept | apply Kept.ite | apply Kept.out_ite | apply Kept.out_next | exact hC _ (by decide))

theorem execMailboxTake_kept {ch : MbxCh} (hC : ∀ p ∈ [.cox], K.c p) (hK : K.P s) : K.out (execMailboxTake ch s) := by
  unfold execMailboxTake; try dsimp only
  with_reducible (repeat' first | assumption | exact K.sub hC rfl | apply Kept.ite | apply Kept.out_ite | apply Kept.out_next | exact hC _ (by decide) | exact Or.inl (hC _ (by decide)) | exact Or.inr rfl | split | rfl | (simp; done) | dsimp only | apply Kept.upd)

theorem State.reply_kept {ch : MbxCh} {msg : List Byte} (hC : ∀ p ∈ [.mesh, .events, .cox], K.c p) (hK : K.P s) : K.P (s.reply ch msg) := by
  unfold State.reply; try dsimp only
  with_reducible (repeat' first | assumption | exact K.sub hC rfl | apply State.crossing_kept | apply State.fire_kept | exact hC _ (by decide) | exact Or.inl (hC _ (by decide)) | exact Or.inr rfl | rfl | (simp; done) | split | dsimp only | apply Kept.upd)

theorem execMailboxReply_kept {ch : MbxCh} {msg : List Byte} (hC : ∀ p ∈ [.mesh, .events, .cox], K.c p) (hK : K.P s) : K.out (execMailboxReply ch msg s) := by
  unfold execMailboxReply; try dsimp only
  with_reducible (repeat' first | assumption | exact K.sub hC rfl | apply State.reply_kept | apply Kept.ite | apply Kept.out_ite | apply Kept.out_next | apply Kept.out_refused | exact hC _ (by decide))

theorem execSbBlockWrite_kept {bytes : List Byte} {p : Option Byte} (hC : ∀ p ∈ [.regs, .mesh, .events, .cox], K.c p) (hK : K.P s) : K.out (execSbBlockWrite bytes p s) := by
  unfold execSbBlockWrite; try dsimp only
  with_reducible (repeat' first | assumption | exact K.sub hC rfl | apply State.crossing_kept | apply State.fire_kept | apply State.incF_kept | apply Kept.ite | apply Kept.out_ite | apply Kept.out_next | apply Kept.out_refused | exact hC _ (by decide) | exact Or.inl (hC _ (by decide)) | exact Or.inr rfl | rfl | (simp; done) | split | dsimp only | apply Kept.upd)

theorem execSbBlockRead_kept {extended : Bool} (hC : ∀ p ∈ [.mesh, .cox], K.c p) (hK : K.P s) : K.out (execSbBlockRead extended s) := by
  unfold execSbBlockRead; try dsimp only
  with_reducible (repeat' first | assumption | exact K.sub hC rfl | apply State.crossing_kept | apply Kept.ite | apply Kept.out_ite | apply Kept.out_next | exact hC _ (by decide) | exact Or.inl (hC _ (by decide)) | exact Or.inr rfl | rfl | (simp; done) | dsimp only | apply Kept.upd)

theorem execSbReadByte_kept {extended : Bool} (hC : ∀ p ∈ [.mesh, .cox], K.c p) (hK : K.P s) : K.out (execSbReadByte extended s) := by
  unfold execSbReadByte; try dsimp only
  with_reducible (repeat' first | assumption | exact K.sub hC rfl | apply State.crossing_kept | apply Kept.ite | apply Kept.out_ite | apply Kept.out_next | exact hC _ (by decide) | exact Or.inl (hC _ (by decide)) | exact Or.inr rfl | rfl | (simp; done) | dsimp only | apply Kept.upd)

theorem State.untake_kept {ch : MbxCh} (hC : ∀ p ∈ [.cox], K.c p) (hK : K.P s) : K.P (s.untake ch) := by
  unfold State.untake; try dsimp only
  with_reducible (repeat' first | assumption | exact K.sub hC rfl | exact hC _ (by decide) | exact Or.inl (hC _ (by decide)) | exact Or.inr rfl | split | rfl | (simp; done) | dsimp only | apply Kept.upd)

theorem State.serve_kept {ch : MbxCh} {opc : Nat} {len : Nat} {f : State → List Byte → State × Byte × List Byte} (hC : ∀ p ∈ [.mesh, .events, .cox], K.c p) (hf : ∀ x0 x1, K.P x0 → K.P (f x0 x1).1) (hK : K.P s) : K.P (s.serve ch opc len f) := by
  unfold State.serve; try dsimp only
  with_reducible (repeat' first | assumption | exact K.sub hC rfl | intro _ | apply State.reply_kept | apply State.untake_kept | apply Kept.ite | apply hf | exact hC _ (by decide) | split)

theorem execGetInfo_kept {ch : MbxCh} {fwVersion : Word32} (hC : ∀ p ∈ [.mesh, .events, .cox], K.c p) (hK : K.P s) : K.out (execGetInfo ch fwVersion s) := by
  unfold execGetInfo; try dsimp only
  with_reducible (repeat' first | assumption | exact K.sub hC rfl | intro _ | apply State.serve_kept | apply Kept.ite_fst | apply Kept.out_next | exact hC _ (by decide))

theorem execReadLog_kept {ch : MbxCh} (hC : ∀ p ∈ [.mesh, .events, .cox], K.c p) (hK : K.P s) : K.out (execReadLog ch s) := by
  unfold execReadLog; try dsimp only
  with_reducible (repeat' first | assumption | exact K.sub hC rfl | intro _ | apply State.serve_kept | apply Kept.ite | apply Kept.out_ite | apply Kept.ite_fst | apply Kept.out_next | exact hC _ (by decide))

theorem execReadJournal_kept {ch : MbxCh} {rec : List Byte} (hC : ∀ p ∈ [.mesh, .events, .cox], K.c p) (hK : K.P s) : K.out (execReadJournal ch rec s) := by
  unfold execReadJournal; try dsimp only
  with_reducible (repeat' first | assumption | exact K.sub hC rfl | intro _ | apply State.serve_kept | apply Kept.ite | apply Kept.out_ite | apply Kept.ite_fst | apply Kept.out_next | apply Kept.out_refused | exact hC _ (by decide))

theorem execReadSensors_kept {ch : MbxCh} (hC : ∀ p ∈ [.mesh, .events, .cox], K.c p) (hK : K.P s) : K.out (execReadSensors ch s) := by
  unfold execReadSensors; try dsimp only
  with_reducible (repeat' first | assumption | exact K.sub hC rfl | intro _ | apply State.serve_kept | apply Kept.ite_fst | apply Kept.out_next | exact hC _ (by decide))

theorem execGetLife_kept {ch : MbxCh} {activeBefore : Word32} {restBefore : Word32} (hC : ∀ p ∈ [.mesh, .events, .cox], K.c p) (hK : K.P s) : K.out (execGetLife ch activeBefore restBefore s) := by
  unfold execGetLife; try dsimp only
  with_reducible (repeat' first | assumption | exact K.sub hC rfl | intro _ | apply State.serve_kept | apply Kept.fold | apply Kept.fold_fst | apply Kept.ite_fst | apply Kept.out_next | exact hC _ (by decide))

theorem State.freeStatus_kept (hC : ∀ p ∈ [.free], K.c p) (hK : K.P s) : K.P (s.freeStatus).1 := by
  unfold State.freeStatus; try dsimp only
  with_reducible (repeat' first | assumption | exact K.sub hC rfl | exact hC _ (by decide) | exact Or.inl (hC _ (by decide)) | exact Or.inr rfl | rfl | (simp; done) | dsimp only | apply Kept.upd)

theorem State.inUpd_kept {ch : MbxCh} {f : Upd → State × Byte × List Byte} (hC : ∀ p ∈ [.free], K.c p) (hf : ∀ u, K.P (f u).1) (hK : K.P s) : K.P (s.inUpd ch f).1 := by
  unfold State.inUpd; try dsimp only
  with_reducible (repeat' first | assumption | exact K.sub hC rfl | intro _ | apply State.freeStatus_kept | apply Kept.ite | apply Kept.ite_fst | apply hf | exact hC _ (by decide) | split | refine Kept.of_pair ?_ ‹_›)

theorem State.updBegin_kept {ch : MbxCh} (hC : ∀ p ∈ [.pins, .boot, .regs, .mesh, .cox], K.c p) (hK : K.P s) : K.P (s.updBegin ch).1 := by
  unfold State.updBegin; try dsimp only
  with_reducible (repeat' first | assumption | exact K.sub hC rfl | apply State.putF_kept | apply State.setHdr_kept | apply State.spiDo_kept | intro _ | apply Kept.ite | apply Kept.ite_fst | exact hC _ (by decide) | exact Or.inl (hC _ (by decide)) | exact Or.inr rfl | rfl | (simp; done) | dsimp only | apply Kept.upd)

theorem State.updData_kept {u : Upd} {p : List Byte} (hC : ∀ p ∈ [.pins, .regs, .mesh, .cox, .free], K.c p) (hK : K.P s) : K.P (s.updData u p).1 := by
  unfold State.updData; try dsimp only
  with_reducible (repeat' first | assumption | exact K.sub hC rfl | apply State.freeStatus_kept | apply State.spi_kept | apply Kept.ite | apply Kept.ite_fst | exact hC _ (by decide) | exact Or.inl (hC _ (by decide)) | exact Or.inr rfl | rfl | (simp; done) | refine Kept.of_pair ?_ ‹_› | dsimp only | apply Kept.upd)

theorem State.updCommit_kept {u : Upd} {body : List Byte} (hC : ∀ p ∈ [.pins, .boot, .regs, .mesh, .events, .cox], K.c p) (hK : K.P s) : K.P (s.updCommit u body).1 := by
  unfold State.updCommit; try dsimp only
  with_reducible (repeat' first | assumption | exact K.sub hC rfl | apply State.setHdr_kept | apply State.spiDo_kept | intro _ | apply State.updEnd_kept | apply Kept.ite | apply Kept.ite_fst | exact hC _ (by decide))

theorem State.updConfirm_kept {zeros : Nat} (hC : ∀ p ∈ [.pins, .boot, .regs, .mesh], K.c p) (hK : K.P s) : K.P (s.updConfirm zeros).1 := by
  unfold State.updConfirm; try dsimp only
  with_reducible (repeat' first | assumption | exact K.sub hC rfl | apply State.spiDo_kept | intro _ | apply Kept.ite | apply Kept.ite_fst | exact hC _ (by decide) | exact Or.inl (hC _ (by decide)) | exact Or.inr rfl | rfl | (simp; done) | dsimp only | apply Kept.upd)

theorem execUpdBegin_kept {ch : MbxCh} (hC : ∀ p ∈ [.pins, .boot, .regs, .mesh, .events, .cox], K.c p) (hK : K.P s) : K.out (execUpdBegin ch s) := by
  unfold execUpdBegin; try dsimp only
  with_reducible (repeat' first | assumption | exact K.sub hC rfl | intro _ | apply State.serve_kept | apply State.updBegin_kept | apply Kept.ite_fst | apply Kept.out_next | exact hC _ (by decide) | refine Kept.of_pair ?_ ‹_›)

theorem execUpdData_kept {ch : MbxCh} (hC : ∀ p ∈ [.pins, .regs, .mesh, .events, .cox, .free], K.c p) (hK : K.P s) : K.out (execUpdData ch s) := by
  unfold execUpdData; try dsimp only
  with_reducible (repeat' first | assumption | exact K.sub hC rfl | intro _ | apply State.inUpd_kept | apply State.serve_kept | apply State.updData_kept | apply Kept.ite_fst | apply Kept.out_next | exact hC _ (by decide) | refine Kept.of_pair ?_ ‹_›)

theorem execUpdCommit_kept {ch : MbxCh} {readBack : List Byte} (hC : ∀ p ∈ [.pins, .boot, .regs, .mesh, .events, .cox, .free], K.c p) (hK : K.P s) : K.out (execUpdCommit ch readBack s) := by
  unfold execUpdCommit; try dsimp only
  with_reducible (repeat' first | assumption | exact K.sub hC rfl | intro _ | apply State.inUpd_kept | apply State.serve_kept | apply State.updCommit_kept | apply Kept.ite_fst | apply Kept.out_next | exact hC _ (by decide) | refine Kept.of_pair ?_ ‹_›)

theorem execUpdConfirm_kept {ch : MbxCh} {anchorZeros : BitVec 17} (hC : ∀ p ∈ [.pins, .boot, .regs, .mesh, .events, .cox], K.c p) (hK : K.P s) : K.out (execUpdConfirm ch anchorZeros s) := by
  unfold execUpdConfirm; try dsimp only
  with_reducible (repeat' first | assumption | exact K.sub hC rfl | intro _ | apply State.serve_kept | apply State.updConfirm_kept | apply Kept.ite_fst | apply Kept.out_next | exact hC _ (by decide) | refine Kept.of_pair ?_ ‹_›)

theorem execUpdAbort_kept {ch : MbxCh} (hC : ∀ p ∈ [.regs, .mesh, .events, .cox, .free], K.c p) (hK : K.P s) : K.out (execUpdAbort ch s) := by
  unfold execUpdAbort; try dsimp only
  with_reducible (repeat' first | assumption | exact K.sub hC rfl | intro _ | apply State.inUpd_kept | apply State.serve_kept | apply State.updEnd_kept | apply Kept.ite_fst | apply Kept.out_next | exact hC _ (by decide) | refine Kept.of_pair ?_ ‹_›)

theorem State.tbSet_kept (hC : ∀ p ∈ [.plinth, .regs, .cox], K.c p) (hK : K.P s) : K.P s.tbSet := by
  unfold State.tbSet; try dsimp only
  with_reducible (repeat' first | assumption | exact K.sub hC rfl | apply State.incF_kept | apply State.logHw_kept | apply State.reach_kept | apply Kept.ite | exact hC _ (by decide))

theorem execTbSet_kept (hC : ∀ p ∈ [.plinth, .regs, .cox], K.c p) (hK : K.P s) : K.out (execTbSet s) := by
  unfold execTbSet; try dsimp only
  with_reducible (repeat' first | assumption | exact K.sub hC rfl | apply State.tbSet_kept | apply Kept.ite | apply Kept.out_ite | apply Kept.out_next | exact hC _ (by decide))

theorem State.pulse_kept (hC : ∀ p ∈ [.plinth, .regs, .mesh, .events], K.c p) (hK : K.P s) : K.P s.pulse := by
  unfold State.pulse; try dsimp only
  with_reducible (repeat' first | assumption | exact K.sub hC rfl | apply State.fire_kept | apply State.putF_kept | apply State.wrapF_kept | apply Kept.reg | apply Kept.ite | exact hC _ (by decide) | exact Or.inl (hC _ (by decide)) | exact Or.inr rfl | rfl | (simp; done) | dsimp only | apply Kept.upd)

theorem execTimePulse_kept (hC : ∀ p ∈ [.plinth, .regs, .mesh, .events], K.c p) (hK : K.P s) : K.out (execTimePulse s) := by
  unfold execTimePulse; try dsimp only
  with_reducible (repeat' first | assumption | exact K.sub hC rfl | apply State.incF_kept | apply State.pulse_kept | apply Kept.ite | apply Kept.out_ite | apply Kept.out_next | exact hC _ (by decide) | split)

theorem State.tickAtt_kept {k : AttId} {core : Nat} {lnk : Nat} (hC : ∀ p ∈ [.slices, .mesh, .events, .cnts], K.c p) (hK : K.P s) : K.P (s.tickAtt k core lnk) := by
  unfold State.tickAtt; try dsimp only
  with_reducible (repeat' first | assumption | exact K.sub hC rfl | apply State.count_kept | apply Kept.ite | exact hC _ (by decide))

theorem State.tickMp_kept {m : PortId} {core : Nat} {mem : Nat} (hC : ∀ p ∈ [.slices, .mesh, .events, .cnts], K.c p) (hK : K.P s) : K.P (s.tickMp m core mem) := by
  unfold State.tickMp; try dsimp only
  with_reducible (repeat' first | assumption | exact K.sub hC rfl | apply State.count_kept | apply Kept.ite | exact hC _ (by decide))

theorem State.tickSl_kept {i : SliceId} {core : Nat} (hC : ∀ p ∈ [.slices, .mesh, .events, .cnts], K.c p) (hK : K.P s) : K.P (s.tickSl i core) := by
  unfold State.tickSl; try dsimp only
  with_reducible (repeat' first | assumption | exact K.sub hC rfl | apply State.count_kept | apply Kept.ite | exact hC _ (by decide))

theorem State.tickMesh_kept {e : Nat → Nat} (hC : ∀ p ∈ [.mesh], K.c p) (hK : K.P s) : K.P (s.tickMesh e) := by
  unfold State.tickMesh; try dsimp only
  with_reducible (repeat' first | assumption | exact K.sub hC rfl | intro _ | apply Kept.ite | apply Kept.fold | apply Kept.fold_fst | exact hC _ (by decide) | exact Or.inl (hC _ (by decide)) | exact Or.inr rfl | rfl | (simp; done) | dsimp only | apply Kept.upd)

theorem State.tick_kept {ns : Nat} (hC : ∀ p ∈ [.modes, .plinth, .slices, .mesh, .events, .counts, .cnts], K.c p) (hK : K.P s) : K.P (s.tick ns) := by
  unfold State.tick; try dsimp only
  with_reducible (repeat' first | assumption | exact K.sub hC rfl | intro _ | apply State.setDc_kept | apply State.tickAtt_kept | apply State.tickMesh_kept | apply State.tickMp_kept | apply State.tickSl_kept | apply Kept.ite | apply Kept.fold | apply Kept.fold_fst | exact hC _ (by decide) | exact Or.inl (hC _ (by decide)) | exact Or.inr rfl | rfl | (simp; done) | dsimp only | apply Kept.upd)

theorem execTimebaseSlewStep_kept (hC : ∀ p ∈ [.modes, .plinth, .slices, .mesh, .events, .counts, .cnts], K.c p) (hK : K.P s) : K.out (execTimebaseSlewStep s) := by
  unfold execTimebaseSlewStep; try dsimp only
  with_reducible (repeat' first | assumption | exact K.sub hC rfl | apply State.tick_kept | apply Kept.ite | apply Kept.out_ite | apply Kept.out_next | exact hC _ (by decide) | exact Or.inl (hC _ (by decide)) | exact Or.inr rfl | rfl | (simp; done) | dsimp only | apply Kept.upd)

theorem execOperatingMinute_kept (hC : ∀ p ∈ [.plinth], K.c p) (hK : K.P s) : K.out (execOperatingMinute s) := by
  unfold execOperatingMinute; try dsimp only
  with_reducible (repeat' first | assumption | exact K.sub hC rfl | apply Kept.ite | apply Kept.out_ite | apply Kept.out_next | exact hC _ (by decide) | exact Or.inl (hC _ (by decide)) | exact Or.inr rfl | rfl | (simp; done) | dsimp only | apply Kept.upd)

theorem execDebugUnlock_kept {level : Bool} (hC : ∀ p ∈ [.plinth], K.c p) (hK : K.P s) : K.out (execDebugUnlock level s) := by
  unfold execDebugUnlock; try dsimp only
  with_reducible (repeat' first | assumption | exact K.sub hC rfl | apply Kept.out_next | exact hC _ (by decide) | exact Or.inl (hC _ (by decide)) | exact Or.inr rfl | rfl | (simp; done) | dsimp only | apply Kept.upd)

end Sys2Proof.Machine
end

