-- ==== Sys2Proof/Laws/KeptRegs.lean ====
section
/-! SUPPORT. What the operations of Machine/Regs.lean can write (see Laws/Kept.lean): each lemma lists the parts. -/

namespace Sys2Proof.Machine

set_option linter.unusedTactic false
set_option linter.unreachableTactic false

variable {K : Kept} {s : State}

theorem State.shutAt_kept {a : Nat} (hC : ∀ p ∈ [.regs, .slices, .events, .cnts], K.c p) (hK : K.P s) : K.opt (s.shutAt a) := by
  unfold State.shutAt; try dsimp only
  with_reducible (repeat' first | assumption | exact K.sub hC rfl | apply State.attBounced_kept | apply State.mpBounced_kept | apply Kept.ite | apply Kept.opt_ite | apply Kept.opt_some | apply Kept.opt_none | exact hC _ (by decide) | split)

theorem State.woSl_kept {i : SliceId} {o : Nat} (hC : ∀ p ∈ [.regs, .slices], K.c p) (hK : K.P s) : K.P (s.woSl i o) := by
  unfold State.woSl; try dsimp only
  with_reducible (repeat' first | assumption | exact K.sub hC rfl | apply State.clearAtm_kept | apply State.clearFlowErr_kept | apply State.clearQueue_kept | apply State.clearRas_kept | apply State.clearSer_kept | apply State.modSl_kept | apply Kept.ite | exact hC _ (by decide))

theorem State.woMp_kept {m : PortId} {o : Nat} (hC : ∀ p ∈ [.regs, .ports], K.c p) (hK : K.P s) : K.P (s.woMp m o) := by
  unfold State.woMp; try dsimp only
  with_reducible (repeat' first | assumption | exact K.sub hC rfl | apply State.clearHlb_kept | apply State.clearMp_kept | apply State.clearQueue_kept | apply State.maintStart_kept | apply Kept.ite | exact hC _ (by decide))

theorem State.woLa_kept {k : AttId} {o : Nat} (hC : ∀ p ∈ [.regs], K.c p) (hK : K.P s) : K.P (s.woLa k o) := by
  unfold State.woLa; try dsimp only
  with_reducible (repeat' first | assumption | exact K.sub hC rfl | apply State.clearLaOrd_kept | apply State.clearQueue_kept | apply State.clearRefuse_kept | apply Kept.ite | exact hC _ (by decide))

theorem State.woRt_kept {i : Fin 80} {o : Nat} {v : Word32} (hC : ∀ p ∈ [.regs, .routers], K.c p) (hK : K.P s) : K.P (s.woRt i o v) := by
  unfold State.woRt; try dsimp only
  with_reducible (repeat' first | assumption | exact K.sub hC rfl | apply State.clearQueue_kept | apply State.clearRtrLink_kept | apply State.clearRtrProbe_kept | apply Kept.ite | exact hC _ (by decide))

theorem State.woGlobal_kept {a : Nat} {v : Word32} {cox : Bool} (hC : ∀ p ∈ [.modes, .plinth, .pins, .regs, .agents, .atts, .slices, .ports, .mesh, .hmap, .cast, .events, .srcs, .counts, .cnts, .cox], K.c p) (hK : K.P s) : K.P (s.woGlobal a v cox) := by
  unfold State.woGlobal; try dsimp only
  with_reducible (repeat' first | assumption | exact K.sub hC rfl | apply State.clearCnts_kept | apply State.clearEv_kept | apply State.clearMode_kept | apply State.clearRasGlobal_kept | apply State.clearReg_kept | apply State.clearSamp_kept | apply State.completeFor_kept | apply State.coxRestart_kept | apply State.holdEnter_kept | apply State.holdFlush_kept | apply State.mbxPost_kept | apply State.mbxTaken_kept | apply State.moveGo_kept | apply State.resizeGo_kept | apply State.restReq_kept | apply State.snapGo_kept | apply State.snapNow_kept | apply State.tbSet_kept | apply State.wdtKick_kept | apply Kept.ite | exact hC _ (by decide))

theorem State.woEffect_kept {a : Nat} {v : Word32} {cox : Bool} (hC : ∀ p ∈ [.modes, .plinth, .pins, .regs, .agents, .atts, .slices, .ports, .mesh, .routers, .hmap, .cast, .events, .srcs, .counts, .cnts, .cox, .free], K.c p) (hK : K.P s) : K.P (s.woEffect a v cox) := by
  unfold State.woEffect; try dsimp only
  with_reducible (repeat' first | assumption | exact K.sub hC rfl | apply State.agentCmd_kept | apply State.armCnt_kept | apply State.disarmCnt_kept | apply State.woGlobal_kept | apply State.woLa_kept | apply State.woMp_kept | apply State.woRt_kept | apply State.woSl_kept | apply Kept.ite | exact hC _ (by decide))

theorem State.follow_kept {a : Nat} {old : Word32} (hC : ∀ p ∈ [.modes, .regs, .atts, .slices, .ports, .mesh, .cast, .events, .counts, .cox], K.c p) (hK : K.P s) : K.P (s.follow a old) := by
  unfold State.follow; try dsimp only
  with_reducible (repeat' first | assumption | exact K.sub hC rfl | intro _ | apply State.freezeTo_kept | apply State.hlbDisable_kept | apply State.hlbEnable_kept | apply State.quiesceClear_kept | apply State.quiesceSet_kept | apply State.ringLevel_kept | apply State.sensLevels_kept | apply State.shedForce_kept | apply State.stickyCheck_kept | apply Kept.ite | apply Kept.fold | apply Kept.fold_fst | exact hC _ (by decide))

theorem State.storeWord_kept {a : Nat} {w : Word32} (hC : ∀ p ∈ [.modes, .pins, .regs, .atts, .slices, .ports, .mesh, .routers, .cast, .events, .counts, .cox], K.c p) (hK : K.P s) : K.P (s.storeWord a w) := by
  unfold State.storeWord; try dsimp only
  with_reducible (repeat' first | assumption | exact K.sub hC rfl | apply State.follow_kept | apply State.gateClose_kept | apply State.gateOpen_kept | apply State.wdtSet_kept | apply Kept.reg | apply Kept.ite | exact hC _ (by decide))

theorem State.writeAgent_kept {a : AgentId} {data : Word32} {be : BitVec 4} (hC : ∀ p ∈ [.regs, .agents, .slices], K.c p) (hK : K.P s) : K.P (s.writeAgent a data be) := by
  unfold State.writeAgent; try dsimp only
  with_reducible (repeat' first | assumption | exact K.sub hC rfl | apply State.modAgent_kept | apply State.permit_kept | apply Kept.ite | exact hC _ (by decide))

theorem State.writeCnt_kept {i : Nat} {n : Nat} {data : Word32} {be : BitVec 4} (hC : ∀ p ∈ [.cnts], K.c p) (hK : K.P s) : K.P (s.writeCnt i n data be) := by
  unfold State.writeCnt; try dsimp only
  with_reducible (repeat' first | assumption | exact K.sub hC rfl | apply Kept.cnt | exact hC _ (by decide) | exact fun _ => Or.inl rfl | exact fun _ => Or.inr rfl | exact Or.inr rfl | exact fun e => absurd e ‹_› | split)

theorem State.writeRtrCfg_kept {i : Nat} {data : Word32} {be : BitVec 4} (hC : ∀ p ∈ [.routers], K.c p) (hK : K.P s) : K.P (s.writeRtrCfg i data be) := by
  unfold State.writeRtrCfg; try dsimp only
  with_reducible (repeat' first | assumption | exact K.sub hC rfl | apply State.reconf_kept | apply Kept.ite | exact hC _ (by decide))

theorem State.writeFields_kept {a : Nat} {data : Word32} {be : BitVec 4} {lock : Bool} (hC : ∀ p ∈ [.modes, .pins, .regs, .agents, .atts, .slices, .ports, .mesh, .routers, .cast, .events, .srcs, .counts, .cnts, .cox], K.c p) (hK : K.P s) : K.P (s.writeFields a data be lock) := by
  unfold State.writeFields; try dsimp only
  with_reducible (repeat' first | assumption | exact K.sub hC rfl | apply State.evSrcPut_kept | apply State.storeWord_kept | apply State.writeAgent_kept | apply State.writeCnt_kept | apply State.writeRtrCfg_kept | apply Kept.ite | exact hC _ (by decide))

theorem State.regTravel_kept {a : Nat} (hC : ∀ p ∈ [.mesh], K.c p) (hK : K.P s) : K.P (s.regTravel a) := by
  unfold State.regTravel; try dsimp only
  with_reducible (repeat' first | assumption | exact K.sub hC rfl | apply State.inject_kept | exact hC _ (by decide) | split)

theorem State.writeOne_kept {a : Nat} {data : Word32} {be : BitVec 4} {cox : Bool} (hC : ∀ p ∈ [.modes, .plinth, .pins, .regs, .agents, .atts, .slices, .ports, .mesh, .routers, .hmap, .cast, .events, .srcs, .counts, .cnts, .cox, .free], K.c p) (hK : K.P s) : K.P (s.writeOne a data be cox) := by
  unfold State.writeOne; try dsimp only
  with_reducible (repeat' first | assumption | exact K.sub hC rfl | apply State.regTravel_kept | apply State.shutAt_kept | apply State.woEffect_kept | apply State.writeFields_kept | apply Kept.ite | apply Kept.opt_ite | apply Kept.opt_some | apply Kept.opt_none | exact hC _ (by decide) | split | refine Kept.of_some ?_ ‹_›)

theorem State.writeReg_kept {w : RegWrite} {cox : Bool} {skip : List Nat} (hC : ∀ p ∈ [.modes, .plinth, .pins, .regs, .agents, .atts, .slices, .ports, .mesh, .routers, .hmap, .cast, .events, .srcs, .counts, .cnts, .cox, .free], K.c p) (hK : K.P s) : K.P (s.writeReg w cox skip) := by
  unfold State.writeReg; try dsimp only
  with_reducible (repeat' first | assumption | exact K.sub hC rfl | intro _ | apply State.fire_kept | apply State.incF_kept | apply State.writeOne_kept | apply Kept.ite | apply Kept.fold | apply Kept.fold_fst | exact hC _ (by decide))

theorem State.writePair_kept {h : RegWrite} {c : RegWrite} {skip : List Nat} (hC : ∀ p ∈ [.modes, .plinth, .pins, .regs, .agents, .atts, .slices, .ports, .mesh, .routers, .hmap, .cast, .events, .srcs, .counts, .cnts, .cox, .free], K.c p) (hK : K.P s) : K.P (s.writePair h c skip) := by
  unfold State.writePair; try dsimp only
  with_reducible (repeat' first | assumption | exact K.sub hC rfl | apply State.writeReg_kept | apply Kept.ite | exact hC _ (by decide))

theorem State.writeBoth_kept {h : RegWrite} {c : RegWrite} (hC : ∀ p ∈ [.modes, .plinth, .pins, .regs, .rsp, .agents, .atts, .slices, .ports, .mesh, .routers, .hmap, .cast, .events, .srcs, .counts, .cnts, .cox, .free], K.c p) (hK : K.P s) : K.P (s.writeBoth h c) := by
  unfold State.writeBoth; try dsimp only
  with_reducible (repeat' first | assumption | exact K.sub hC rfl | intro _ | apply State.clearReg_kept | apply State.fire_kept | apply State.incF_kept | apply State.respond_kept | apply State.writePair_kept | apply Kept.reg | apply Kept.ite | apply Kept.fold | apply Kept.fold_fst | exact hC _ (by decide) | split | dsimp only)

theorem State.write_kept {src : RegSrc} {w : RegWrite} {other : Option RegWrite} (hC : ∀ p ∈ [.modes, .plinth, .pins, .regs, .rsp, .agents, .atts, .slices, .ports, .mesh, .routers, .hmap, .cast, .events, .srcs, .counts, .cnts, .cox, .free], K.c p) (hK : K.P s) : K.P (s.write src w other) := by
  unfold State.write; try dsimp only
  with_reducible (repeat' first | assumption | exact K.sub hC rfl | apply State.respond_kept | apply State.writeBoth_kept | apply State.writeReg_kept | apply Kept.ite | exact hC _ (by decide) | split)

theorem execRegisterWrite_kept {src : RegSrc} {w : RegWrite} {other : Option RegWrite} (hC : ∀ p ∈ [.modes, .plinth, .pins, .regs, .rsp, .agents, .atts, .slices, .ports, .mesh, .routers, .hmap, .cast, .events, .srcs, .counts, .cnts, .cox, .free], K.c p) (hK : K.P s) : K.out (execRegisterWrite src w other s) := by
  unfold execRegisterWrite; try dsimp only
  with_reducible (repeat' first | assumption | exact K.sub hC rfl | apply State.write_kept | apply Kept.out_next | exact hC _ (by decide))

theorem State.readOne_kept {a : Nat} (hC : ∀ p ∈ [.plinth, .regs, .slices, .mesh, .routers, .events, .srcs, .counts, .cnts], K.c p) (hK : K.P s) : K.P (s.readOne a).1 := by
  unfold State.readOne; try dsimp only
  with_reducible (repeat' first | assumption | exact K.sub hC rfl | apply State.claimFor_kept | apply State.cntLo_kept | apply State.dcycLo_kept | apply State.prbLo_kept | apply State.regTravel_kept | apply State.shutAt_kept | apply State.tbLo_kept | apply Kept.ite | apply Kept.ite_fst | apply Kept.opt_ite | apply Kept.opt_some | apply Kept.opt_none | exact hC _ (by decide) | split | refine Kept.of_pair ?_ ‹_› | refine Kept.of_some ?_ ‹_›)

theorem State.readAll_kept {ms : List (Nat × Nat)} (hC : ∀ p ∈ [.plinth, .regs, .slices, .mesh, .routers, .events, .srcs, .counts, .cnts], K.c p) (hK : K.P s) : K.P (s.readAll ms).1 := by
  induction ms generalizing s with
  | nil => exact hK
  | cons m ms ih => exact ih (State.readOne_kept hC hK)

theorem State.uniform_kept {src : RegSrc} {a : Nat} {ws : List (Nat × Word32)} (hC : ∀ p ∈ [.regs], K.c p) (hK : K.P s) : K.P (s.uniform src a ws) := by
  unfold State.uniform; try dsimp only
  with_reducible (repeat' first | assumption | exact K.sub hC rfl | apply Kept.reg | apply Kept.ite | exact hC _ (by decide) | split)

theorem State.readReg_kept {src : RegSrc} {addr : RegAddr} (hC : ∀ p ∈ [.plinth, .regs, .slices, .mesh, .routers, .events, .srcs, .counts, .cnts], K.c p) (hK : K.P s) : K.P (s.readReg src addr).1 := by
  unfold State.readReg; try dsimp only
  with_reducible (repeat' first | assumption | exact K.sub hC rfl | apply State.readAll_kept | apply State.readOne_kept | apply State.uniform_kept | exact hC _ (by decide) | split | refine Kept.of_pair ?_ ‹_›)

theorem State.read_kept {src : RegSrc} {addr : RegAddr} (hC : ∀ p ∈ [.plinth, .regs, .rsp, .slices, .mesh, .routers, .events, .srcs, .counts, .cnts], K.c p) (hK : K.P s) : K.P (s.read src addr) := by
  unfold State.read; try dsimp only
  with_reducible (repeat' first | assumption | exact K.sub hC rfl | apply State.readReg_kept | apply State.respond_kept | apply Kept.ite | exact hC _ (by decide) | split | refine Kept.of_pair ?_ ‹_›)

theorem execBroadcastRead_kept {src : RegSrc} {addr : RegAddr} (hC : ∀ p ∈ [.plinth, .regs, .rsp, .slices, .mesh, .routers, .events, .srcs, .counts, .cnts], K.c p) (hK : K.P s) : K.out (execBroadcastRead src addr s) := by
  unfold execBroadcastRead; try dsimp only
  with_reducible (repeat' first | assumption | exact K.sub hC rfl | apply State.read_kept | apply Kept.out_next | exact hC _ (by decide))

theorem execJtagRegacc_kept {wr : Bool} {addr : RegAddr} {data : Word32} (hC : ∀ p ∈ [.modes, .plinth, .pins, .regs, .rsp, .agents, .atts, .slices, .ports, .mesh, .routers, .hmap, .cast, .events, .srcs, .counts, .cnts, .cox, .free], K.c p) (hK : K.P s) : K.out (execJtagRegacc wr addr data s) := by
  unfold execJtagRegacc; try dsimp only
  with_reducible (repeat' first | assumption | exact K.sub hC rfl | apply State.crossing_kept | apply State.read_kept | apply State.write_kept | apply Kept.ite | apply Kept.out_ite | apply Kept.out_next | exact hC _ (by decide))

end Sys2Proof.Machine
end

