-- ==== Sys2Proof/Laws/KeptLoader.lean ====
section
/-! SUPPORT. What the operations of Machine/Loader.lean can write (see Laws/Kept.lean): each lemma lists the parts. -/

namespace Sys2Proof.Machine

set_option linter.unusedTactic false
set_option linter.unreachableTactic false

variable {K : Kept} {s : State}

theorem State.modBoot_kept {f : Boot → Boot} (hC : ∀ p ∈ [.boot], K.c p) (hK : K.P s) : K.P (s.modBoot f) := by
  unfold State.modBoot; try dsimp only
  with_reducible (repeat' first | assumption | exact K.sub hC rfl | exact hC _ (by decide) | exact Or.inl (hC _ (by decide)) | exact Or.inr rfl | rfl | (simp; done) | dsimp only | apply Kept.upd)

theorem State.bootFail_kept (hC : ∀ p ∈ [.modes, .pins, .boot, .regs, .atts, .mesh, .events, .counts, .cox], K.c p) (hK : K.P s) : K.P s.bootFail := by
  unfold State.bootFail; try dsimp only
  with_reducible (repeat' first | assumption | exact K.sub hC rfl | apply State.fatal_kept | apply State.modBoot_kept | apply State.putF_kept | exact hC _ (by decide))

theorem State.trySlot_kept {slot : Bool} (hC : ∀ p ∈ [.boot, .regs], K.c p) (hK : K.P s) : K.P (s.trySlot slot) := by
  unfold State.trySlot; try dsimp only
  with_reducible (repeat' first | assumption | exact K.sub hC rfl | apply State.modBoot_kept | apply State.putF_kept | exact hC _ (by decide))

theorem State.failSlot_kept {reason : Nat} (hC : ∀ p ∈ [.modes, .pins, .boot, .regs, .atts, .mesh, .events, .counts, .cox, .wipe], K.c p) (hK : K.P s) : K.P (s.failSlot reason) := by
  unfold State.failSlot; try dsimp only
  with_reducible (repeat' first | assumption | exact K.sub hC rfl | apply State.bootFail_kept | apply State.putF_kept | apply State.trySlot_kept | apply Kept.undo | apply Kept.ite | exact hC _ (by decide))

theorem State.failAt_kept {reason : Nat} {off : Nat} (hC : ∀ p ∈ [.modes, .pins, .boot, .regs, .atts, .mesh, .events, .counts, .cox, .wipe], K.c p) (hK : K.P s) : K.P (s.failAt reason off) := by
  unfold State.failAt; try dsimp only
  with_reducible (repeat' first | assumption | exact K.sub hC rfl | apply State.failSlot_kept | apply State.putF_kept | exact hC _ (by decide))

theorem execFlashDiscovery_kept {sfdp : Option Sfdp} (hC : ∀ p ∈ [.pins, .boot, .regs, .mesh], K.c p) (hK : K.P s) : K.out (execFlashDiscovery sfdp s) := by
  unfold execFlashDiscovery; try dsimp only
  with_reducible (repeat' first | assumption | exact K.sub hC rfl | intro _ | apply State.modBoot_kept | apply State.putF_kept | apply State.spi_kept | apply Kept.ite | apply Kept.out_ite | apply Kept.out_next | exact hC _ (by decide) | split | dsimp only)

theorem execSlotHeaderCheck_kept {anchorZeros : BitVec 17} {hdrA : List Byte} {hdrB : List Byte} (hC : ∀ p ∈ [.modes, .pins, .boot, .regs, .atts, .mesh, .events, .counts, .cox], K.c p) (hK : K.P s) : K.out (execSlotHeaderCheck anchorZeros hdrA hdrB s) := by
  unfold execSlotHeaderCheck; try dsimp only
  with_reducible (repeat' first | assumption | exact K.sub hC rfl | apply State.bootFail_kept | apply State.modBoot_kept | apply State.putF_kept | apply State.trySlot_kept | apply Kept.ite | apply Kept.out_ite | apply Kept.out_next | apply Kept.out_refused | exact hC _ (by decide))

theorem execSignatureCheck_kept (hC : ∀ p ∈ [.modes, .pins, .boot, .regs, .atts, .mesh, .events, .counts, .cox, .wipe], K.c p) (hK : K.P s) : K.out (execSignatureCheck s) := by
  unfold execSignatureCheck; try dsimp only
  with_reducible (repeat' first | assumption | exact K.sub hC rfl | apply State.failSlot_kept | apply State.modBoot_kept | apply Kept.ite | apply Kept.out_ite | apply Kept.out_next | exact hC _ (by decide))

theorem execBodyBlockRead_kept {words : List Word32} (hC : ∀ p ∈ [.modes, .pins, .boot, .regs, .atts, .mesh, .events, .counts, .cox, .wipe], K.c p) (hK : K.P s) : K.out (execBodyBlockRead words s) := by
  unfold execBodyBlockRead; try dsimp only
  with_reducible (repeat' first | assumption | exact K.sub hC rfl | intro _ | apply State.crossing_kept | apply State.failAt_kept | apply State.modBoot_kept | apply Kept.ite | apply Kept.out_ite | apply Kept.getD | apply Kept.out_next | apply Kept.out_refused | exact hC _ (by decide) | dsimp only)

theorem State.recordFail_kept (hC : ∀ p ∈ [.modes, .pins, .boot, .regs, .atts, .mesh, .events, .counts, .cox, .wipe], K.c p) (hK : K.P s) : K.P s.recordFail := by
  unfold State.recordFail; try dsimp only
  with_reducible (repeat' first | assumption | exact K.sub hC rfl | apply State.failAt_kept | exact hC _ (by decide))

theorem State.record_kept {kind : Nat} {f : Nat → List Word32 → State} (hC : ∀ p ∈ [.modes, .pins, .boot, .regs, .atts, .mesh, .events, .counts, .cox, .wipe], K.c p) (hf : ∀ x0 x1, K.P (f x0 x1)) (hK : K.P s) : K.P (s.record kind f) := by
  unfold State.record; try dsimp only
  with_reducible (repeat' first | assumption | exact K.sub hC rfl | intro _ | apply State.recordFail_kept | apply Kept.ite | apply hf | exact hC _ (by decide) | split)

theorem State.bootWrite_kept {a : Nat} {data : Word32} (hC : ∀ p ∈ [.modes, .pins, .boot, .regs, .agents, .atts, .slices, .ports, .mesh, .routers, .cast, .events, .srcs, .counts, .cnts, .cox], K.c p) (hK : K.P s) : K.P (s.bootWrite a data) := by
  unfold State.bootWrite; try dsimp only
  with_reducible (repeat' first | assumption | exact K.sub hC rfl | apply State.modBoot_kept | apply State.shutAt_kept | apply State.writeFields_kept | apply Kept.ite | exact hC _ (by decide) | split | refine Kept.of_some ?_ ‹_›)

theorem State.bootWriteAll_kept {addr : RegAddr} {f : State → Nat → Word32} (hC : ∀ p ∈ [.modes, .pins, .boot, .regs, .agents, .atts, .slices, .ports, .mesh, .routers, .cast, .events, .srcs, .counts, .cnts, .cox], K.c p) (hK : K.P s) : K.P (s.bootWriteAll addr f) := by
  unfold State.bootWriteAll; try dsimp only
  with_reducible (repeat' first | assumption | exact K.sub hC rfl | intro _ | apply State.bootWrite_kept | apply Kept.fold | apply Kept.fold_fst | exact hC _ (by decide))

theorem execPadRecord_kept (hC : ∀ p ∈ [.modes, .pins, .boot, .regs, .atts, .mesh, .events, .counts, .cox, .wipe], K.c p) (hK : K.P s) : K.out (execPadRecord s) := by
  unfold execPadRecord; try dsimp only
  with_reducible (repeat' first | assumption | exact K.sub hC rfl | intro _ | apply State.modBoot_kept | apply State.record_kept | apply State.recordFail_kept | apply Kept.ite | apply Kept.out_ite | apply Kept.out_next | exact hC _ (by decide))

theorem execWriteRecord_kept (hC : ∀ p ∈ [.modes, .pins, .boot, .regs, .agents, .atts, .slices, .ports, .mesh, .routers, .cast, .events, .srcs, .counts, .cnts, .cox, .wipe], K.c p) (hK : K.P s) : K.out (execWriteRecord s) := by
  unfold execWriteRecord; try dsimp only
  with_reducible (repeat' first | assumption | exact K.sub hC rfl | intro _ | apply State.bootWriteAll_kept | apply State.modBoot_kept | apply State.record_kept | apply State.recordFail_kept | apply Kept.ite | apply Kept.out_ite | apply Kept.fold | apply Kept.fold_fst | apply Kept.out_next | exact hC _ (by decide))

theorem execMaskRecord_kept (hC : ∀ p ∈ [.modes, .pins, .boot, .regs, .agents, .atts, .slices, .ports, .mesh, .routers, .cast, .events, .srcs, .counts, .cnts, .cox, .wipe], K.c p) (hK : K.P s) : K.out (execMaskRecord s) := by
  unfold execMaskRecord; try dsimp only
  with_reducible (repeat' first | assumption | exact K.sub hC rfl | intro _ | apply State.bootWriteAll_kept | apply State.modBoot_kept | apply State.record_kept | apply State.recordFail_kept | apply Kept.ite | apply Kept.out_ite | apply Kept.out_next | exact hC _ (by decide) | split)

theorem execPollRecord_kept (hC : ∀ p ∈ [.modes, .pins, .boot, .regs, .atts, .mesh, .events, .counts, .cox, .wipe], K.c p) (hK : K.P s) : K.out (execPollRecord s) := by
  unfold execPollRecord; try dsimp only
  with_reducible (repeat' first | assumption | exact K.sub hC rfl | intro _ | apply State.modBoot_kept | apply State.record_kept | apply State.recordFail_kept | apply Kept.ite | apply Kept.out_ite | apply Kept.out_next | exact hC _ (by decide) | split)

theorem State.pollOnce_kept {addr : RegAddr} {mask : Word32} {value : Word32} (hC : ∀ p ∈ [.plinth, .regs, .slices, .mesh, .routers, .events, .srcs, .counts, .cnts], K.c p) (hK : K.P s) : K.P (s.pollOnce addr mask value).1 := by
  unfold State.pollOnce; try dsimp only
  with_reducible (repeat' first | assumption | exact K.sub hC rfl | intro _ | apply State.readOne_kept | apply Kept.fold | apply Kept.fold_fst | exact hC _ (by decide) | split | refine Kept.of_pair ?_ ‹_›)

theorem execPollRead_kept (hC : ∀ p ∈ [.plinth, .boot, .regs, .slices, .mesh, .routers, .events, .srcs, .counts, .cnts], K.c p) (hK : K.P s) : K.out (execPollRead s) := by
  unfold execPollRead; try dsimp only
  with_reducible (repeat' first | assumption | exact K.sub hC rfl | apply State.modBoot_kept | apply State.pollOnce_kept | apply Kept.ite | apply Kept.out_ite | apply Kept.out_next | exact hC _ (by decide) | split | refine Kept.of_pair ?_ ‹_›)

theorem execPollLimitExpiry_kept (hC : ∀ p ∈ [.modes, .plinth, .pins, .boot, .regs, .atts, .slices, .mesh, .routers, .events, .srcs, .counts, .cnts, .cox, .wipe], K.c p) (hK : K.P s) : K.out (execPollLimitExpiry s) := by
  unfold execPollLimitExpiry; try dsimp only
  with_reducible (repeat' first | assumption | exact K.sub hC rfl | apply State.failAt_kept | apply State.modBoot_kept | apply State.pollOnce_kept | apply State.reach_kept | apply Kept.ite | apply Kept.out_ite | apply Kept.out_next | exact hC _ (by decide) | split | refine Kept.of_pair ?_ ‹_›)

theorem execWaitRecord_kept (hC : ∀ p ∈ [.modes, .pins, .boot, .regs, .atts, .mesh, .events, .counts, .cox, .wipe], K.c p) (hK : K.P s) : K.out (execWaitRecord s) := by
  unfold execWaitRecord; try dsimp only
  with_reducible (repeat' first | assumption | exact K.sub hC rfl | intro _ | apply State.modBoot_kept | apply State.record_kept | apply State.recordFail_kept | apply Kept.ite | apply Kept.out_ite | apply Kept.out_next | exact hC _ (by decide))

theorem execWaitExpiry_kept (hC : ∀ p ∈ [.plinth, .boot], K.c p) (hK : K.P s) : K.out (execWaitExpiry s) := by
  unfold execWaitExpiry; try dsimp only
  with_reducible (repeat' first | assumption | exact K.sub hC rfl | apply State.modBoot_kept | apply State.reach_kept | apply Kept.ite | apply Kept.out_ite | apply Kept.out_next | exact hC _ (by decide) | split)

theorem execEndRecord_kept (hC : ∀ p ∈ [.modes, .pins, .boot, .regs, .atts, .mesh, .events, .counts, .cox, .wipe], K.c p) (hK : K.P s) : K.out (execEndRecord s) := by
  unfold execEndRecord; try dsimp only
  with_reducible (repeat' first | assumption | exact K.sub hC rfl | intro _ | apply State.modBoot_kept | apply State.record_kept | apply State.recordFail_kept | apply Kept.ite | apply Kept.out_ite | apply Kept.out_next | exact hC _ (by decide))

theorem State.bootDone_kept {cox : List Byte} (hC : ∀ p ∈ [.modes, .plinth, .pins, .boot, .regs, .agents, .atts, .slices, .ports, .mesh, .routers, .hmap, .cast, .events, .srcs, .counts, .cnts, .cox, .free], K.c p) (hK : K.P s) : K.P (s.bootDone cox) := by
  unfold State.bootDone; try dsimp only
  with_reducible (repeat' first | assumption | exact K.sub hC rfl | intro _ | apply State.coxStart_kept | apply State.modBoot_kept | apply State.putF_kept | apply State.toCalibrate_kept | apply State.woEffect_kept | apply Kept.reg | apply Kept.fold | apply Kept.fold_fst | exact hC _ (by decide))

theorem State.coxStream_kept {cox : List Byte} (hC : ∀ p ∈ [.cox], K.c p) (hK : K.P s) : K.P (s.coxStream cox) := by
  unfold State.coxStream; try dsimp only
  with_reducible (repeat' first | assumption | exact K.sub hC rfl | exact hC _ (by decide) | exact Or.inl (hC _ (by decide)) | exact Or.inr rfl | rfl | (simp; done) | dsimp only | apply Kept.upd)

theorem execBodyHashCheck_kept {cox : List Byte} (hC : ∀ p ∈ [.modes, .plinth, .pins, .boot, .regs, .agents, .atts, .slices, .ports, .mesh, .routers, .hmap, .cast, .events, .srcs, .counts, .cnts, .cox, .free, .wipe], K.c p) (hK : K.P s) : K.out (execBodyHashCheck cox s) := by
  unfold execBodyHashCheck; try dsimp only
  with_reducible (repeat' first | assumption | exact K.sub hC rfl | apply State.bootDone_kept | apply State.coxStream_kept | apply State.failSlot_kept | apply State.recordFail_kept | apply Kept.ite | apply Kept.out_ite | apply Kept.out_next | apply Kept.out_refused | exact hC _ (by decide))

theorem execArrayClearDone_kept (hC : ∀ p ∈ [.modes, .slices, .ports], K.c p) (hK : K.P s) : K.out (execArrayClearDone s) := by
  unfold execArrayClearDone; try dsimp only
  with_reducible (repeat' first | assumption | exact K.sub hC rfl | intro _ | apply State.modMp_kept | apply State.modSl_kept | apply Kept.ite | apply Kept.out_ite | apply Kept.fold | apply Kept.fold_fst | apply Kept.out_next | exact hC _ (by decide) | exact Or.inl (hC _ (by decide)) | exact Or.inr rfl | rfl | (simp; done) | dsimp only | apply Kept.upd)

end Sys2Proof.Machine
end

