-- ==== Sys2Proof/Laws/KeptExec.lean ====
section
/-! SUPPORT. What a command can write: a property that the writes of every part keep is kept by every command. -/

namespace Sys2Proof.Machine

variable {K : Kept} {s : State}

theorem Kept.all (K : Kept) (hC : ∀ p, K.c p) {T : List Part} : ∀ p ∈ T, K.c p := fun p _ => hC p

/-- Every command keeps, in its next state, what the writes of every part keep. -/
theorem exec_kept (i : Instr) (hC : ∀ p, K.c p) (hK : K.P s) : K.out (exec i s) := by
  cases i with
  | rdShared _ _ => exact execRdShared_kept (K.all hC) hK
  | rdOwn _ _ => exact execRdOwn_kept (K.all hC) hK
  | rdCur _ _ => exact execRdCur_kept (K.all hC) hK
  | rdAtomic _ _ => exact execRdAtomic_kept (K.all hC) hK
  | inv _ _ => exact execInv_kept (K.all hC) hK
  | evictClean _ _ => exact execEvictClean_kept (K.all hC) hK
  | conflict _ _ => exact execConflict_kept (K.all hC) hK
  | fence _ _ => exact execFence_kept (K.all hC) hK
  | rsvRd _ _ => exact execRsvRd_kept (K.all hC) hK
  | wrFull _ _ _ => exact execWrFull_kept (K.all hC) hK
  | wrKeep _ _ _ => exact execWrKeep_kept (K.all hC) hK
  | wrPartial _ _ _ => exact execWrPartial_kept (K.all hC) hK
  | hatom _ _ _ => exact execHatom_kept (K.all hC) hK
  | condWr _ _ _ => exact execCondWr_kept (K.all hC) hK
  | birspI _ _ _ _ => exact execBirspI_kept (K.all hC) hK
  | birspS _ _ _ _ => exact execBirspS_kept (K.all hC) hK
  | birspE _ _ _ _ => exact execBirspE_kept (K.all hC) hK
  | egressAck _ _ _ => exact execEgressAck_kept (K.all hC) hK
  | creditReturn _ => exact execCreditReturn_kept (K.all hC) hK
  | creditAdvertisement _ => exact execCreditAdvertisement_kept (K.all hC) hK
  | linkEgressSend _ _ => exact execLinkEgressSend_kept (K.all hC) hK
  | gateRelease _ _ _ => exact execGateRelease_kept (K.all hC) hK
  | barrierExpiry _ _ _ => exact execBarrierExpiry_kept (K.all hC) hK
  | dataPull _ => exact execDataPull_kept (K.all hC) hK
  | dxbBeat _ _ => exact execDxbBeat_kept (K.all hC) hK
  | egressAckLate _ _ => exact execEgressAckLate_kept (K.all hC) hK
  | newRequestPass _ _ => exact execNewRequestPass_kept (K.all hC) hK
  | handOverPass _ _ => exact execHandOverPass_kept (K.all hC) hK
  | snoopResponsePass _ => exact execSnoopResponsePass_kept (K.all hC) hK
  | egressAckPass _ => exact execEgressAckPass_kept (K.all hC) hK
  | snoopResponseWrite _ => exact execSnoopResponseWrite_kept (K.all hC) hK
  | portRpt _ => exact execPortRpt_kept (K.all hC) hK
  | snoopIssue _ _ => exact execSnoopIssue_kept (K.all hC) hK
  | snoopTimeout _ _ _ => exact execSnoopTimeout_kept (K.all hC) hK
  | snoopClose _ _ _ => exact execSnoopClose_kept (K.all hC) hK
  | escalationRetry _ => exact execEscalationRetry_kept (K.all hC) hK
  | ticketExpiry _ _ => exact execTicketExpiry_kept (K.all hC) hK
  | replay _ _ => exact execReplay_kept (K.all hC) hK
  | backgroundWaitLimit _ => exact execBackgroundWaitLimit_kept (K.all hC) hK
  | castFetchReturn _ => exact execCastFetchReturn_kept (K.all hC) hK
  | castWriteCompletion _ => exact execCastWriteCompletion_kept (K.all hC) hK
  | cuckooBucketRead _ => exact execCuckooBucketRead_kept (K.all hC) hK
  | capacityRecallStart _ => exact execCapacityRecallStart_kept (K.all hC) hK
  | broadcastRecoveryStart _ => exact execBroadcastRecoveryStart_kept (K.all hC) hK
  | departureSweepStep _ _ _ => exact execDepartureSweepStep_kept (K.all hC) hK
  | patrolScrubStep _ _ _ => exact execPatrolScrubStep_kept (K.all hC) hK
  | silhouetteRebuildStep _ _ => exact execSilhouetteRebuildStep_kept (K.all hC) hK
  | admissionScanStep _ _ _ => exact execAdmissionScanStep_kept (K.all hC) hK
  | ageClockAdvance _ => exact execAgeClockAdvance_kept (K.all hC) hK
  | predictorDecay _ => exact execPredictorDecay_kept (K.all hC) hK
  | agentLeavingDone _ => exact execAgentLeavingDone_kept (K.all hC) hK
  | joinLimitExpiry _ => exact execJoinLimitExpiry_kept (K.all hC) hK
  | join _ => exact execJoin_kept (K.all hC) hK
  | leave _ => exact execLeave_kept (K.all hC) hK
  | agentFence _ => exact execAgentFence_kept (K.all hC) hK
  | release _ => exact execRelease_kept (K.all hC) hK
  | unknownAgentCommand _ _ => exact execUnknownAgentCommand_kept (K.all hC) hK
  | agentPermissionWrite _ _ _ _ => exact execAgentPermissionWrite_kept (K.all hC) hK
  | laRefuseClear _ => exact execLaRefuseClear_kept (K.all hC) hK
  | flowErrClear _ => exact execFlowErrClear_kept (K.all hC) hK
  | serClear _ => exact execSerClear_kept (K.all hC) hK
  | hlbClear _ => exact execHlbClear_kept (K.all hC) hK
  | atmClear _ => exact execAtmClear_kept (K.all hC) hK
  | mpClear _ => exact execMpClear_kept (K.all hC) hK
  | rtrLinkClear _ => exact execRtrLinkClear_kept (K.all hC) hK
  | rtrProbeClear _ => exact execRtrProbeClear_kept (K.all hC) hK
  | qClear _ => exact execQClear_kept (K.all hC) hK
  | modeClear => exact execModeClear_kept (K.all hC) hK
  | regClear => exact execRegClear_kept (K.all hC) hK
  | evClear => exact execEvClear_kept (K.all hC) hK
  | sampClear => exact execSampClear_kept (K.all hC) hK
  | laOrdClear _ => exact execLaOrdClear_kept (K.all hC) hK
  | rasClear _ => exact execRasClear_kept (K.all hC) hK
  | rasGlobalClear => exact execRasGlobalClear_kept (K.all hC) hK
  | read _ _ => exact execRead_kept (K.all hC) hK
  | write _ => exact execWrite_kept (K.all hC) hK
  | writePartial _ _ => exact execWritePartial_kept (K.all hC) hK
  | atomic _ _ => exact execAtomic_kept (K.all hC) hK
  | castStoreCommand _ => exact execCastStoreCommand_kept (K.all hC) hK
  | mcmdIssue _ => exact execMcmdIssue_kept (K.all hC) hK
  | mrdataBeat _ _ _ _ => exact execMrdataBeat_kept (K.all hC) hK
  | cmpl _ _ _ => exact execCmpl_kept (K.all hC) hK
  | windowReq m k p w => exact @execWindowReq_kept _ _ m k p w (K.all hC) hK
  | windowArbiterGrant => exact execWindowArbiterGrant_kept (K.all hC) hK
  | windowRequestStarving _ => exact execWindowRequestStarving_kept (K.all hC) hK
  | drainLimitExpiry _ => exact execDrainLimitExpiry_kept (K.all hC) hK
  | windowLimitExpiry _ => exact execWindowLimitExpiry_kept (K.all hC) hK
  | sweepRequest _ => exact execSweepRequest_kept (K.all hC) hK
  | sweepStep _ => exact execSweepStep_kept (K.all hC) hK
  | fenceClose _ => exact execFenceClose_kept (K.all hC) hK
  | fenceReport _ => exact execFenceReport_kept (K.all hC) hK
  | epochAdvance _ => exact execEpochAdvance_kept (K.all hC) hK
  | ageEngineVisit _ => exact execAgeEngineVisit_kept (K.all hC) hK
  | hlbScrubStep _ _ => exact execHlbScrubStep_kept (K.all hC) hK
  | hlbMaintStart _ _ _ _ => exact execHlbMaintStart_kept (K.all hC) hK
  | hlbMaintVisit _ => exact execHlbMaintVisit_kept (K.all hC) hK
  | hlbDisable _ => exact execHlbDisable_kept (K.all hC) hK
  | hlbEnable _ => exact execHlbEnable_kept (K.all hC) hK
  | calibrationSample _ => exact execCalibrationSample_kept (K.all hC) hK
  | calibrationWindowEnd => exact execCalibrationWindowEnd_kept (K.all hC) hK
  | flitReceive _ _ _ _ => exact execFlitReceive_kept (K.all hC) hK
  | nak _ _ _ _ => exact execNak_kept (K.all hC) hK
  | routerReconfigStart _ _ _ => exact execRouterReconfigStart_kept (K.all hC) hK
  | routerReconfigSwitch _ => exact execRouterReconfigSwitch_kept (K.all hC) hK
  | queuePointerMismatch _ _ => exact execQueuePointerMismatch_kept (K.all hC) hK
  | laGateClose _ => exact execLaGateClose_kept (K.all hC) hK
  | gateAck _ => exact execGateAck_kept (K.all hC) hK
  | gateDrained _ => exact execGateDrained_kept (K.all hC) hK
  | laGateOpen _ => exact execLaGateOpen_kept (K.all hC) hK
  | gateReopen _ => exact execGateReopen_kept (K.all hC) hK
  | bouncedMessage => exact execBouncedMessage_kept (K.all hC) hK
  | traceOut => exact execTraceOut_kept (K.all hC) hK
  | restReq => exact execRestReq_kept (K.all hC) hK
  | quiesceSet => exact execQuiesceSet_kept (K.all hC) hK
  | quiesceClear => exact execQuiesceClear_kept (K.all hC) hK
  | quiesceDrainAdvance => exact execQuiesceDrainAdvance_kept (K.all hC) hK
  | restEntryStep _ => exact execRestEntryStep_kept (K.all hC) hK
  | restDrainLimit => exact execRestDrainLimit_kept (K.all hC) hK
  | sidebandAddressMatch _ => exact execSidebandAddressMatch_kept (K.all hC) hK
  | wakeIn => exact execWakeIn_kept (K.all hC) hK
  | restExitStep _ => exact execRestExitStep_kept (K.all hC) hK
  | shedQualify _ _ => exact execShedQualify_kept (K.all hC) hK
  | droopAlert _ => exact execDroopAlert_kept (K.all hC) hK
  | shedStepDown => exact execShedStepDown_kept (K.all hC) hK
  | shedForce _ => exact execShedForce_kept (K.all hC) hK
  | calibrateExit => exact execCalibrateExit_kept (K.all hC) hK
  | warmReset => exact execWarmReset_kept (K.all hC) hK
  | warmLimitExpiry => exact execWarmLimitExpiry_kept (K.all hC) hK
  | warmResetRelease => exact execWarmResetRelease_kept (K.all hC) hK
  | coldReset => exact execColdReset_kept (K.all hC) hK
  | coldResetRelease _ _ _ _ => exact execColdResetRelease_kept (K.all hC) hK
  | aonReset => exact execAonReset_kept (K.all hC) hK
  | powerFail => exact execPowerFail_kept (K.all hC) hK
  | powerLoss _ => exact execPowerLoss_kept (K.all hC) hK
  | resize _ => exact execResize_kept (K.all hC) hK
  | move _ _ => exact execMove_kept (K.all hC) hK
  | bucketMarkMoving _ => exact execBucketMarkMoving_kept (K.all hC) hK
  | bucketWriteBack _ => exact execBucketWriteBack_kept (K.all hC) hK
  | handover _ => exact execHandover_kept (K.all hC) hK
  | mapSet _ => exact execMapSet_kept (K.all hC) hK
  | mapAck => exact execMapAck_kept (K.all hC) hK
  | flashDiscovery _ => exact execFlashDiscovery_kept (K.all hC) hK
  | slotHeaderCheck _ _ _ => exact execSlotHeaderCheck_kept (K.all hC) hK
  | signatureCheck => exact execSignatureCheck_kept (K.all hC) hK
  | bodyBlockRead _ => exact execBodyBlockRead_kept (K.all hC) hK
  | padRecord => exact execPadRecord_kept (K.all hC) hK
  | writeRecord => exact execWriteRecord_kept (K.all hC) hK
  | maskRecord => exact execMaskRecord_kept (K.all hC) hK
  | pollRecord => exact execPollRecord_kept (K.all hC) hK
  | pollRead => exact execPollRead_kept (K.all hC) hK
  | pollLimitExpiry => exact execPollLimitExpiry_kept (K.all hC) hK
  | waitRecord => exact execWaitRecord_kept (K.all hC) hK
  | waitExpiry => exact execWaitExpiry_kept (K.all hC) hK
  | endRecord => exact execEndRecord_kept (K.all hC) hK
  | bodyHashCheck _ => exact execBodyHashCheck_kept (K.all hC) hK
  | arrayClearDone => exact execArrayClearDone_kept (K.all hC) hK
  | registerWrite _ _ _ => exact execRegisterWrite_kept (K.all hC) hK
  | broadcastRead _ _ => exact execBroadcastRead_kept (K.all hC) hK
  | eventMessage => exact execEventMessage_kept (K.all hC) hK
  | globalSourceChange => exact execGlobalSourceChange_kept (K.all hC) hK
  | claim _ _ => exact execClaim_kept (K.all hC) hK
  | complete _ _ => exact execComplete_kept (K.all hC) hK
  | evSrcWrite _ _ _ => exact execEvSrcWrite_kept (K.all hC) hK
  | tgtCtrlWrite _ _ _ => exact execTgtCtrlWrite_kept (K.all hC) hK
  | cntLoRead _ => exact execCntLoRead_kept (K.all hC) hK
  | dcycLowRead _ => exact execDcycLowRead_kept (K.all hC) hK
  | prbCntLowRead _ _ => exact execPrbCntLowRead_kept (K.all hC) hK
  | tbNowLoRead => exact execTbNowLoRead_kept (K.all hC) hK
  | arm _ => exact execArm_kept (K.all hC) hK
  | disarm _ => exact execDisarm_kept (K.all hC) hK
  | counterOverflow _ _ => exact execCounterOverflow_kept (K.all hC) hK
  | freeze => exact execFreeze_kept (K.all hC) hK
  | freezeRelease => exact execFreezeRelease_kept (K.all hC) hK
  | counterClear => exact execCounterClear_kept (K.all hC) hK
  | snapGo => exact execSnapGo_kept (K.all hC) hK
  | snapNow => exact execSnapNow_kept (K.all hC) hK
  | snapCapture _ _ => exact execSnapCapture_kept (K.all hC) hK
  | snapDomainTimeout _ => exact execSnapDomainTimeout_kept (K.all hC) hK
  | sampleRecord => exact execSampleRecord_kept (K.all hC) hK
  | counterWindowRead _ => exact execCounterWindowRead_kept (K.all hC) hK
  | coxReset => exact execCoxReset_kept (K.all hC) hK
  | watchdogExpiry => exact execWatchdogExpiry_kept (K.all hC) hK
  | watchdogKick => exact execWatchdogKick_kept (K.all hC) hK
  | coxFault => exact execCoxFault_kept (K.all hC) hK
  | sensorSample _ => exact execSensorSample_kept (K.all hC) hK
  | clockAbsent _ => exact execClockAbsent_kept (K.all hC) hK
  | clockPresent _ => exact execClockPresent_kept (K.all hC) hK
  | eventLogRecord _ => exact execEventLogRecord_kept (K.all hC) hK
  | journalProgram _ _ _ _ => exact execJournalProgram_kept (K.all hC) hK
  | mailboxPost => exact execMailboxPost_kept (K.all hC) hK
  | mailboxTake _ => exact execMailboxTake_kept (K.all hC) hK
  | mailboxReply _ _ => exact execMailboxReply_kept (K.all hC) hK
  | mailboxTaken => exact execMailboxTaken_kept (K.all hC) hK
  | sbBlockWrite _ _ => exact execSbBlockWrite_kept (K.all hC) hK
  | sbBlockRead _ => exact execSbBlockRead_kept (K.all hC) hK
  | sbReadByte _ => exact execSbReadByte_kept (K.all hC) hK
  | getInfo _ _ => exact execGetInfo_kept (K.all hC) hK
  | readLog _ => exact execReadLog_kept (K.all hC) hK
  | readJournal _ _ => exact execReadJournal_kept (K.all hC) hK
  | readSensors _ => exact execReadSensors_kept (K.all hC) hK
  | getLife _ _ _ => exact execGetLife_kept (K.all hC) hK
  | updBegin _ => exact execUpdBegin_kept (K.all hC) hK
  | updData _ => exact execUpdData_kept (K.all hC) hK
  | updCommit _ _ => exact execUpdCommit_kept (K.all hC) hK
  | updConfirm _ _ => exact execUpdConfirm_kept (K.all hC) hK
  | updAbort _ => exact execUpdAbort_kept (K.all hC) hK
  | tbSet => exact execTbSet_kept (K.all hC) hK
  | timePulse => exact execTimePulse_kept (K.all hC) hK
  | timebaseSlewStep => exact execTimebaseSlewStep_kept (K.all hC) hK
  | operatingMinute => exact execOperatingMinute_kept (K.all hC) hK
  | holdEnter => exact execHoldEnter_kept (K.all hC) hK
  | holdFlush => exact execHoldFlush_kept (K.all hC) hK
  | debugUnlock _ => exact execDebugUnlock_kept (K.all hC) hK
  | jtagRegacc _ _ _ => exact execJtagRegacc_kept (K.all hC) hK
  | mbistStart => exact execMbistStart_kept (K.all hC) hK
  | aonResetRelease => exact execAonResetRelease_kept (K.all hC) hK
  | mbistDone _ => exact execMbistDone_kept (K.all hC) hK
  | coxRestartDone _ _ => exact execCoxRestartDone_kept (K.all hC) hK
  | castHeaderReturn _ _ _ => exact execCastHeaderReturn_kept (K.all hC) hK
  | unlistedRequest _ _ _ _ => exact execUnlistedRequest_kept (K.all hC) hK
  | unlistedBirsp _ _ _ => exact execUnlistedBirsp_kept (K.all hC) hK
  | unlistedMrespWord _ _ => exact execUnlistedMrespWord_kept (K.all hC) hK

end Sys2Proof.Machine
end

