-- ==== Sys2Proof/Laws/PerInstr.lean ====
section
/-! SUPPORT. What holds of each command as syntax: no word spells it, since no row of the table has bits. -/

namespace Sys2Proof.Laws.Unspelled

open Sys2Proof

/-- No word, of any length, is decoded to the command. -/
def Statement (i : Sys2Proof.Instr) : Prop := ∀ nbits w, Sys2Proof.decodeTableWord nbits w ≠ some i

theorem any (i : Sys2Proof.Instr) : Statement i := fun _ _ h => by cases h

theorem rdShared (la : AttId) (q : ReqHdr) : Statement (.rdShared la q) := any _
theorem rdOwn (la : AttId) (q : ReqHdr) : Statement (.rdOwn la q) := any _
theorem rdCur (la : AttId) (q : ReqHdr) : Statement (.rdCur la q) := any _
theorem rdAtomic (la : AttId) (q : ReqHdr) : Statement (.rdAtomic la q) := any _
theorem inv (la : AttId) (q : ReqHdr) : Statement (.inv la q) := any _
theorem evictClean (la : AttId) (q : ReqHdr) : Statement (.evictClean la q) := any _
theorem conflict (la : AttId) (q : ReqHdr) : Statement (.conflict la q) := any _
theorem fence (la : AttId) (q : ReqHdr) : Statement (.fence la q) := any _
theorem rsvRd (la : AttId) (q : ReqHdr) : Statement (.rsvRd la q) := any _
theorem wrFull (la : AttId) (q : ReqHdr) (w : WrData) : Statement (.wrFull la q w) := any _
theorem wrKeep (la : AttId) (q : ReqHdr) (w : WrData) : Statement (.wrKeep la q w) := any _
theorem wrPartial (la : AttId) (q : ReqHdr) (w : WrData) : Statement (.wrPartial la q w) := any _
theorem hatom (la : AttId) (q : ReqHdr) (w : WrData) : Statement (.hatom la q w) := any _
theorem condWr (la : AttId) (q : ReqHdr) (w : WrData) : Statement (.condWr la q w) := any _
theorem birspI (la : AttId) (agent : AgentId) (htag : BitVec 16) (laddr : Line) : Statement (.birspI la agent htag laddr) := any _
theorem birspS (la : AttId) (agent : AgentId) (htag : BitVec 16) (laddr : Line) : Statement (.birspS la agent htag laddr) := any _
theorem birspE (la : AttId) (agent : AgentId) (htag : BitVec 16) (laddr : Line) : Statement (.birspE la agent htag laddr) := any _
theorem egressAck (la : AttId) (agent : AgentId) (htag : BitVec 16) : Statement (.egressAck la agent htag) := any _
theorem creditReturn (ch : CreditCh) : Statement (.creditReturn ch) := any _
theorem creditAdvertisement (ch : CreditCh) : Statement (.creditAdvertisement ch) := any _
theorem linkEgressSend (la : AttId) (ch : OutCh) : Statement (.linkEgressSend la ch) := any _
theorem gateRelease (la : AttId) (agent : AgentId) (tag : BitVec 16) : Statement (.gateRelease la agent tag) := any _
theorem barrierExpiry (la : AttId) (agent : AgentId) (otag : BitVec 4) : Statement (.barrierExpiry la agent otag) := any _
theorem dataPull (la : AttId) : Statement (.dataPull la) := any _
theorem dxbBeat (out : DxbOut) (par : BeatParity) : Statement (.dxbBeat out par) := any _
theorem egressAckLate (s : SliceId) (slot : BitVec 10) : Statement (.egressAckLate s slot) := any _
theorem newRequestPass (s : SliceId) (chk : PassCheck) : Statement (.newRequestPass s chk) := any _
theorem handOverPass (s : SliceId) (chk : PassCheck) : Statement (.handOverPass s chk) := any _
theorem snoopResponsePass (s : SliceId) (chk : PassCheck) : Statement (.snoopResponsePass s chk) := any _
theorem egressAckPass (s : SliceId) (chk : PassCheck) : Statement (.egressAckPass s chk) := any _
theorem snoopResponseWrite (s : SliceId) (chk : PassCheck) : Statement (.snoopResponseWrite s chk) := any _
theorem portRpt (s : SliceId) (chk : PassCheck) : Statement (.portRpt s chk) := any _
theorem snoopIssue (s : SliceId) (row : BitVec 3) : Statement (.snoopIssue s row) := any _
theorem snoopTimeout (s : SliceId) (slot : BitVec 10) (agent : AgentId) : Statement (.snoopTimeout s slot agent) := any _
theorem snoopClose (s : SliceId) (slot : BitVec 10) (agent : AgentId) : Statement (.snoopClose s slot agent) := any _
theorem escalationRetry (s : SliceId) (chk : PassCheck) : Statement (.escalationRetry s chk) := any _
theorem ticketExpiry (s : SliceId) (agent : AgentId) : Statement (.ticketExpiry s agent) := any _
theorem replay (s : SliceId) (chk : PassCheck) : Statement (.replay s chk) := any _
theorem backgroundWaitLimit (s : SliceId) : Statement (.backgroundWaitLimit s) := any _
theorem castFetchReturn (s : SliceId) (chk : PassCheck) : Statement (.castFetchReturn s chk) := any _
theorem castWriteCompletion (s : SliceId) (chk : PassCheck) : Statement (.castWriteCompletion s chk) := any _
theorem cuckooBucketRead (s : SliceId) (chk : PassCheck) : Statement (.cuckooBucketRead s chk) := any _
theorem capacityRecallStart (s : SliceId) (chk : PassCheck) : Statement (.capacityRecallStart s chk) := any _
theorem broadcastRecoveryStart (s : SliceId) (chk : PassCheck) : Statement (.broadcastRecoveryStart s chk) := any _
theorem departureSweepStep (s : SliceId) (chk : PassCheck) (finds : List (BitVec 4 × Ecc)) : Statement (.departureSweepStep s chk finds) := any _
theorem patrolScrubStep (s : SliceId) (finds : List (BitVec 4 × Ecc)) (badCounters : List (BitVec 20)) (chk : PassCheck) : Statement (.patrolScrubStep s finds badCounters chk) := any _
theorem silhouetteRebuildStep (s : SliceId) (chk : PassCheck) : Statement (.silhouetteRebuildStep s chk) := any _
theorem admissionScanStep (s : SliceId) (bucket : BitVec 12) (chk : PassCheck) : Statement (.admissionScanStep s bucket chk) := any _
theorem ageClockAdvance (s : SliceId) : Statement (.ageClockAdvance s) := any _
theorem predictorDecay (s : SliceId) : Statement (.predictorDecay s) := any _
theorem agentLeavingDone (a : AgentId) : Statement (.agentLeavingDone a) := any _
theorem joinLimitExpiry (a : AgentId) : Statement (.joinLimitExpiry a) := any _
theorem join (a : AgentId) : Statement (.join a) := any _
theorem leave (a : AgentId) : Statement (.leave a) := any _
theorem agentFence (a : AgentId) : Statement (.agentFence a) := any _
theorem release (a : AgentId) : Statement (.release a) := any _
theorem unknownAgentCommand (a : AgentId) (cmd : BitVec 4) : Statement (.unknownAgentCommand a cmd) := any _
theorem agentPermissionWrite (a : AgentId) (perfRead hatom rsv : Bool) : Statement (.agentPermissionWrite a perfRead hatom rsv) := any _
theorem laRefuseClear (la : AttId) : Statement (.laRefuseClear la) := any _
theorem flowErrClear (s : SliceId) : Statement (.flowErrClear s) := any _
theorem serClear (s : SliceId) : Statement (.serClear s) := any _
theorem hlbClear (m : PortId) : Statement (.hlbClear m) := any _
theorem atmClear (s : SliceId) : Statement (.atmClear s) := any _
theorem mpClear (m : PortId) : Statement (.mpClear m) := any _
theorem rtrLinkClear (i : Fin 80) : Statement (.rtrLinkClear i) := any _
theorem rtrProbeClear (i : Fin 80) : Statement (.rtrProbeClear i) := any _
theorem qClear (u : QUnit) : Statement (.qClear u) := any _
theorem modeClear : Statement .modeClear := any _
theorem regClear : Statement .regClear := any _
theorem evClear : Statement .evClear := any _
theorem sampClear : Statement .sampClear := any _
theorem laOrdClear (la : AttId) : Statement (.laOrdClear la) := any _
theorem rasClear (s : SliceId) : Statement (.rasClear s) := any _
theorem rasGlobalClear : Statement .rasGlobalClear := any _
theorem read (m : PortId) (par : Parity) (tags : List (BitVec 4 × HlbFind)) : Statement (.read m par tags) := any _
theorem write (m : PortId) (tags : List (BitVec 4 × HlbFind)) : Statement (.write m tags) := any _
theorem writePartial (m : PortId) (par : Parity) (tags : List (BitVec 4 × HlbFind)) : Statement (.writePartial m par tags) := any _
theorem atomic (m : PortId) (par : Parity) (tags : List (BitVec 4 × HlbFind)) : Statement (.atomic m par tags) := any _
theorem castStoreCommand (m : PortId) : Statement (.castStoreCommand m) := any _
theorem mcmdIssue (m : PortId) (par : Parity) : Statement (.mcmdIssue m par) := any _
theorem mrdataBeat (m : PortId) (ctag : BitVec 8) (st : MemStatus) (data : LineData) : Statement (.mrdataBeat m ctag st data) := any _
theorem cmpl (m : PortId) (ctag : BitVec 8) (st : MemStatus) : Statement (.cmpl m ctag st) := any _
theorem windowReq (m : PortId) (kind : WKind) (pair : Bool) (wlen : BitVec 11) : Statement (.windowReq m kind pair wlen) := any _
theorem windowArbiterGrant : Statement .windowArbiterGrant := any _
theorem windowRequestStarving (m : PortId) : Statement (.windowRequestStarving m) := any _
theorem drainLimitExpiry (m : PortId) : Statement (.drainLimitExpiry m) := any _
theorem windowLimitExpiry (m : PortId) : Statement (.windowLimitExpiry m) := any _
theorem sweepRequest (m : PortId) : Statement (.sweepRequest m) := any _
theorem sweepStep (m : PortId) : Statement (.sweepStep m) := any _
theorem fenceClose (m : PortId) : Statement (.fenceClose m) := any _
theorem fenceReport (la : AttId) : Statement (.fenceReport la) := any _
theorem epochAdvance (m : PortId) : Statement (.epochAdvance m) := any _
theorem ageEngineVisit (m : PortId) : Statement (.ageEngineVisit m) := any _
theorem hlbScrubStep (m : PortId) (finds : List (BitVec 4 × HlbFind)) : Statement (.hlbScrubStep m finds) := any _
theorem hlbMaintStart (m : PortId) (op : BitVec 2) (setway all : Bool) : Statement (.hlbMaintStart m op setway all) := any _
theorem hlbMaintVisit (m : PortId) : Statement (.hlbMaintVisit m) := any _
theorem hlbDisable (m : PortId) : Statement (.hlbDisable m) := any _
theorem hlbEnable (m : PortId) : Statement (.hlbEnable m) := any _
theorem calibrationSample (s : SliceId) : Statement (.calibrationSample s) := any _
theorem calibrationWindowEnd : Statement .calibrationWindowEnd := any _
theorem flitReceive (i : Fin 80) (link : LinkPort) (plane : Bool) (err : Flit) (under : Option (BitVec 2)) : Statement (.flitReceive i link plane err under) := any _
theorem nak (i : Fin 80) (link : LinkPort) (plane : Bool) (seq : BitVec 6) : Statement (.nak i link plane seq) := any _
theorem routerReconfigStart (i : Fin 80) (bounce : BitVec 4) (crcLim : BitVec 4) : Statement (.routerReconfigStart i bounce crcLim) := any _
theorem routerReconfigSwitch (i : Fin 80) : Statement (.routerReconfigSwitch i) := any _
theorem queuePointerMismatch (u : QUnit) (q : BitVec 6) : Statement (.queuePointerMismatch u q) := any _
theorem laGateClose (la : AttId) : Statement (.laGateClose la) := any _
theorem gateAck (la : AttId) : Statement (.gateAck la) := any _
theorem gateDrained (la : AttId) : Statement (.gateDrained la) := any _
theorem laGateOpen (la : AttId) : Statement (.laGateOpen la) := any _
theorem gateReopen (la : AttId) : Statement (.gateReopen la) := any _
theorem bouncedMessage : Statement .bouncedMessage := any _
theorem traceOut : Statement .traceOut := any _
theorem restReq : Statement .restReq := any _
theorem quiesceSet : Statement .quiesceSet := any _
theorem quiesceClear : Statement .quiesceClear := any _
theorem quiesceDrainAdvance : Statement .quiesceDrainAdvance := any _
theorem restEntryStep (m : BitVec 24) : Statement (.restEntryStep m) := any _
theorem restDrainLimit : Statement .restDrainLimit := any _
theorem sidebandAddressMatch (addr : BitVec 7) : Statement (.sidebandAddressMatch addr) := any _
theorem wakeIn : Statement .wakeIn := any _
theorem restExitStep (ticks : BitVec 48) : Statement (.restExitStep ticks) := any _
theorem shedQualify (mon : BitVec 2) (droop : BitVec 8) : Statement (.shedQualify mon droop) := any _
theorem droopAlert (level : Bool) : Statement (.droopAlert level) := any _
theorem shedStepDown : Statement .shedStepDown := any _
theorem shedForce (level : BitVec 3) : Statement (.shedForce level) := any _
theorem calibrateExit : Statement .calibrateExit := any _
theorem warmReset : Statement .warmReset := any _
theorem warmLimitExpiry : Statement .warmLimitExpiry := any _
theorem warmResetRelease : Statement .warmResetRelease := any _
theorem coldReset : Statement .coldReset := any _
theorem coldResetRelease (straps : BitVec 16) (keyHash : BitVec 384) (keyValid : Bool) (svnFloor : BitVec 16) : Statement (.coldResetRelease straps keyHash keyValid svnFloor) := any _
theorem aonReset : Statement .aonReset := any _
theorem powerFail : Statement .powerFail := any _
theorem powerLoss (rail : Rail) : Statement (.powerLoss rail) := any _
theorem resize (target : BitVec 2) : Statement (.resize target) := any _
theorem move (bucket : BitVec 12) (dest : SliceId) : Statement (.move bucket dest) := any _
theorem bucketMarkMoving (bucket : BitVec 12) : Statement (.bucketMarkMoving bucket) := any _
theorem bucketWriteBack (bucket : BitVec 12) (chk : PassCheck) : Statement (.bucketWriteBack bucket chk) := any _
theorem handover (s : SliceId) : Statement (.handover s) := any _
theorem mapSet (row : BitVec 4) : Statement (.mapSet row) := any _
theorem mapAck : Statement .mapAck := any _
theorem flashDiscovery (sfdp : Option Sfdp) : Statement (.flashDiscovery sfdp) := any _
theorem slotHeaderCheck (anchorZeros : BitVec 17) (hdrA hdrB : List Byte) : Statement (.slotHeaderCheck anchorZeros hdrA hdrB) := any _
theorem signatureCheck : Statement .signatureCheck := any _
theorem bodyBlockRead (words : List Word32) : Statement (.bodyBlockRead words) := any _
theorem padRecord : Statement .padRecord := any _
theorem writeRecord : Statement .writeRecord := any _
theorem maskRecord : Statement .maskRecord := any _
theorem pollRecord : Statement .pollRecord := any _
theorem pollRead : Statement .pollRead := any _
theorem pollLimitExpiry : Statement .pollLimitExpiry := any _
theorem waitRecord : Statement .waitRecord := any _
theorem waitExpiry : Statement .waitExpiry := any _
theorem endRecord : Statement .endRecord := any _
theorem bodyHashCheck (cox : List Byte) : Statement (.bodyHashCheck cox) := any _
theorem arrayClearDone : Statement .arrayClearDone := any _
theorem registerWrite (src : RegSrc) (w : RegWrite) (other : Option RegWrite) : Statement (.registerWrite src w other) := any _
theorem broadcastRead (src : RegSrc) (addr : RegAddr) : Statement (.broadcastRead src addr) := any _
theorem eventMessage : Statement .eventMessage := any _
theorem globalSourceChange : Statement .globalSourceChange := any _
theorem claim (n : BitVec 3) (src : RegSrc) : Statement (.claim n src) := any _
theorem complete (n : BitVec 3) (id : BitVec 12) : Statement (.complete n id) := any _
theorem evSrcWrite (i : BitVec 11) (be : BitVec 4) (data : Word32) : Statement (.evSrcWrite i be data) := any _
theorem tgtCtrlWrite (n : BitVec 3) (be : BitVec 4) (data : Word32) : Statement (.tgtCtrlWrite n be data) := any _
theorem cntLoRead (i : Fin 3584) : Statement (.cntLoRead i) := any _
theorem dcycLowRead (d : Fin 40) : Statement (.dcycLowRead d) := any _
theorem prbCntLowRead (i : Fin 80) (n : Bool) : Statement (.prbCntLowRead i n) := any _
theorem tbNowLoRead : Statement .tbNowLoRead := any _
theorem arm (i : Fin 3584) : Statement (.arm i) := any _
theorem disarm (i : Fin 3584) : Statement (.disarm i) := any _
theorem counterOverflow (i : Fin 3584) (occ : BitVec 16) : Statement (.counterOverflow i occ) := any _
theorem freeze : Statement .freeze := any _
theorem freezeRelease : Statement .freezeRelease := any _
theorem counterClear : Statement .counterClear := any _
theorem snapGo : Statement .snapGo := any _
theorem snapNow : Statement .snapNow := any _
theorem snapCapture (d : Fin 40) (stamp : BitVec 64) : Statement (.snapCapture d stamp) := any _
theorem snapDomainTimeout (d : Fin 40) : Statement (.snapDomainTimeout d) := any _
theorem sampleRecord : Statement .sampleRecord := any _
theorem counterWindowRead (la : AttId) : Statement (.counterWindowRead la) := any _
theorem coxReset : Statement .coxReset := any _
theorem watchdogExpiry : Statement .watchdogExpiry := any _
theorem watchdogKick : Statement .watchdogKick := any _
theorem coxFault : Statement .coxFault := any _
theorem sensorSample (x : SensorSample) : Statement (.sensorSample x) := any _
theorem clockAbsent (d : Fin 40) : Statement (.clockAbsent d) := any _
theorem clockPresent (d : Fin 40) : Statement (.clockPresent d) := any _
theorem eventLogRecord (cox : Option LogRec) : Statement (.eventLogRecord cox) := any _
theorem journalProgram (sector : BitVec 6) (record : BitVec 7) (bytes : List Byte) (readBack : List Byte) : Statement (.journalProgram sector record bytes readBack) := any _
theorem mailboxPost : Statement .mailboxPost := any _
theorem mailboxTake (ch : MbxCh) : Statement (.mailboxTake ch) := any _
theorem mailboxReply (ch : MbxCh) (msg : List Byte) : Statement (.mailboxReply ch msg) := any _
theorem mailboxTaken : Statement .mailboxTaken := any _
theorem sbBlockWrite (bytes : List Byte) (pec : Option Byte) : Statement (.sbBlockWrite bytes pec) := any _
theorem sbBlockRead (extended : Bool) : Statement (.sbBlockRead extended) := any _
theorem sbReadByte (extended : Bool) : Statement (.sbReadByte extended) := any _
theorem getInfo (ch : MbxCh) (fwVersion : Word32) : Statement (.getInfo ch fwVersion) := any _
theorem readLog (ch : MbxCh) : Statement (.readLog ch) := any _
theorem readJournal (ch : MbxCh) (rec : List Byte) : Statement (.readJournal ch rec) := any _
theorem readSensors (ch : MbxCh) : Statement (.readSensors ch) := any _
theorem getLife (ch : MbxCh) (activeBefore restBefore : Word32) : Statement (.getLife ch activeBefore restBefore) := any _
theorem updBegin (ch : MbxCh) : Statement (.updBegin ch) := any _
theorem updData (ch : MbxCh) : Statement (.updData ch) := any _
theorem updCommit (ch : MbxCh) (readBack : List Byte) : Statement (.updCommit ch readBack) := any _
theorem updConfirm (ch : MbxCh) (anchorZeros : BitVec 17) : Statement (.updConfirm ch anchorZeros) := any _
theorem updAbort (ch : MbxCh) : Statement (.updAbort ch) := any _
theorem tbSet : Statement .tbSet := any _
theorem timePulse : Statement .timePulse := any _
theorem timebaseSlewStep : Statement .timebaseSlewStep := any _
theorem operatingMinute : Statement .operatingMinute := any _
theorem holdEnter : Statement .holdEnter := any _
theorem holdFlush : Statement .holdFlush := any _
theorem debugUnlock (level : Bool) : Statement (.debugUnlock level) := any _
theorem jtagRegacc (wr : Bool) (addr : RegAddr) (data : Word32) : Statement (.jtagRegacc wr addr data) := any _
theorem mbistStart : Statement .mbistStart := any _
theorem aonResetRelease : Statement .aonResetRelease := any _
theorem mbistDone (fail : Bool) : Statement (.mbistDone fail) := any _
theorem coxRestartDone (sram : List Byte) (reload : List Byte) : Statement (.coxRestartDone sram reload) := any _
theorem castHeaderReturn (hdr : BucketRead) (image : List LineData) (imageOk : Bool) : Statement (.castHeaderReturn hdr image imageOk) := any _
theorem unlistedRequest (la : AttId) (ch : InCh) (opc : BitVec 5) (q : ReqHdr) : Statement (.unlistedRequest la ch opc q) := any _
theorem unlistedBirsp (la : AttId) (opc : BitVec 4) (agent : AgentId) : Statement (.unlistedBirsp la opc agent) := any _
theorem unlistedMrespWord (m : PortId) (opc : BitVec 4) : Statement (.unlistedMrespWord m opc) := any _

end Sys2Proof.Laws.Unspelled
end

