-- ==== Sys2Proof/Tests/Slice0.lean ====
section
/-! SUPPORT. Tests of the model: terms that the well-formedness check refuses, and witness states that meet the hypotheses of the
statements. -/

namespace Sys2Proof.Tests

open Sys2Proof Sys2Proof.Machine

set_option maxRecDepth 20000
set_option Elab.async false

/-! ## Small states -/

/-- The state after reset, in a mode. -/
def inMode (m : Mode) : State := { State.reset with modes := { Modes.reset with mode := m } }
/-- The header of a request of agent 5. -/
def q0 : ReqHdr :=
  { agent := 5, tag := 7, laddr := 0x12345, otag := 3, snptype := 0, mv := 0, ncnt := 9, aop := 0, aw := 0, aoff := 0, psn := false }
/-- A beat of write data. -/
def w0 : WrData := { be := BitVec.allOnes 64, data := 0x1122 }
/-- Agent 5, at attachment 2, in a state. -/
def ag (st : AState) : Agent := { Agent.reset with st := st, la := 2, perfRead := true, hatom := true, rsv := true, snpTo := 0x100 }
/-- A mode, with agent 5 in a state. -/
def withAg (m : Mode) (st : AState) : State := (inMode m).setAgent 5 (ag st)
/-- An attachment that holds one credit on each channel. -/
def at0 : Att := { Att.reset with reqCr := 1, rwdCr := 1, birspCr := 1 }
/-- SERVE with agent 5 ACTIVE and credits at its attachment. -/
def srv : State := (withAg .serve .active).setAtt 2 at0
/-- A request of agent 5. -/
def r0 : Req := { op := .rdShared, la := 2, q := q0, buf := none }
/-- The check of a pass that finds nothing. -/
def okChk : PassCheck := .clean
/-- A sent snoop to agent 5. -/
def sn0 : Snoop := { Snoop.fresh .inv 5 with st := .sent, timer := 10, limit := 4 }
/-- A flow of agent 6 that snoops agent 5. -/
def slot0 : Slot :=
  { busy := .own, line := 0x12345, req := some { r0 with op := .rdOwn, q := { q0 with agent := 6 } }, decided := true, granted := false,
    other := none, snoops := [sn0], srws := [], cmdSent := false, rpts := [], poison := false, psnTag := none, memErr := false,
    rsvOk := false, ndrSent := false, parts := 0, eack := false, partsOut := 0, eackAt := none, late := false, released := false,
    dead := false, lostWay := false, marker := none, delT := none, fetchT := none, fetched := false, chained := false, esc := false }
/-- A slice with one slot in use. -/
def slWith (x : Slot) : Slice := { Slice.reset with slots := [(0, some x)] }
/-- A directory entry. -/
def e0 : Entry := { line := 0x12345, own := true, hd := false, pin := false, dirty := false, cast := true, age := 0, holders := [5], head := none }
/-- A memory command. -/
def c0 : MemCmd :=
  { op := .read, line := 0x12345, slice := 1, htag := some 0x400, tag := 3, la := 2, agent := 5, rtag := 7, parts := 1, poison := false,
    aop := 0, aw := 0, aoff := 0, kind := some .cmpS }
/-- A way of the home-line buffer. -/
def way0 : Way :=
  { line := 0x12345, st := .dirty, mway := 1, lwr := 5, epoch := 0, redirty := false, psn := false, pf := false, wb := 0, inv := false,
    rew := none, lost := false, stag := 0, data := 0x55 }
/-- The key of the first way of that line's set. -/
def k0 : Nat := (hsetOf 0x12345).toNat * 16
/-- Credits that have been advertised. -/
def cr0 : Credits := { n := 9, advOpen := false, run := 0 }
/-- A state with one memory port. -/
def onPort (m : PortId) (x : Port) : State := srv.setMp m x
/-- A cast-store command. -/
def cc0 : CastCmd := { slice := 1, transit := 0, addr := 0x40000001, data := some 0x77, again := false, rank := 2 }
/-- A transit entry of a kind. -/
def tr0 (k : TKind) : Transit := { Transit.mk0 k e0 with reads := 2 }
/-- Agent 5 in a state, with three messages outstanding. -/
def heldAg (st : AState) : State := (inMode .serve).setAgent 5 { ag st with held := 3 }
/-- A JOIN in progress. -/
def j0 : JoinProbe := { start := 40, stamps := [(1, 41)], longest := 0 }
/-- A slice with every ordinary slot in use. -/
def full : Slice := { Slice.reset with slots := (List.range 1020).map (fun k => (k, some slot0)) }
/-- A port with credits on its channels. -/
def p0 : Port := { Port.reset with mcmdC := cr0, mwdataC := cr0 }
/-- The beat of the memory command. -/
def b0 : WBeat := { port := 3, slice := 1, tag := 3, w := w0, psn := false }
/-- A READ that waits for MCMD. -/
def mc0 : MCmd := { why := .demandRead c0, line := 0x12345, data := none, stag := 0, held := none }
/-- A window request of 100 ns. -/
def win0 : WinReq := { wlen := 100, pair := false, since := 5, starv := false }
/-- A fence that has joined a sweep. -/
def jf0 : JoinedFence := { la := 2, entry := 1, agent := 5, left := 7, rews := [], closed := false }
/-- A fence of agent 5. -/
def fe0 : FenceEntry := { agent := 5, tag := 7, otag := 3, start := 0, ports := [], err := false, dead := false }
/-- SERVE's state in another mode. -/
def md (m : Mode) : State := { srv with modes := { srv.modes with mode := m } }
/-- A state with a change to the mode logic. -/
def mds (m : Modes) : State := { srv with modes := m }
/-- The mode logic in a mode. -/
def ms (m : Mode) : Modes := { Modes.reset with mode := m }
/-- Every memory port ready, in a mode. -/
def rdy (m : Mode) : State := allPorts.foldl (fun s k => s.setMp k p0) (md m)
/-- A flit of a sequence number whose one slot is taken, with its CRC. -/
def seqFlit (n : Nat) : Flit :=
  let f : Flit := { payload := 1, sideband := BitVec.ofNat 48 (n * 2 ^ 23 + 2 ^ 33) }
  { f with sideband := f.sideband ||| f.crc.setWidth 48 }
/-- The sending side with a flit in its replay buffer. -/
def tx0 : LinkTx := { LinkTx.reset with next := 6, replay := [seqFlit 5] }
/-- A header record of the cast store that matches. -/
def hdr0 : BucketRead :=
  let n := 0x43415354 + 2 ^ 32 + 2 ^ 40 * srv.castSize + 2 ^ 48 * srv.fld ⟨0x4C004, 4, 2⟩ + 2 ^ 64 * 9 + 2 ^ 96
  let d : LineData := BitVec.ofNat 512 n
  { status := .ok, data := BitVec.ofNat 512 (n + 2 ^ 480 * (crc32c ((bytesOfLine d).take 60)).toNat) }
/-- A bucket's move. -/
def mv0 (st : MoveSt) : Move := { bucket := 5, src := 5, dst := 1, st := st, mask := [] }
/-- SERVE with a move. -/
def mvS (st : MoveSt) : State := { srv with hmap := { srv.hmap with init := some 0, moves := [mv0 st] } }
/-- An image header of a sequence number, of two blocks. -/
def hdrOf (seq : Nat) : List Byte :=
  [0x4D, 0x41, 0x51, 0x54, 1, 0, 2, 0, 3, 0, 0, 0] ++ bytesOfNat 4 seq ++ bytesOfNat 4 8192 ++ bytesOfNat 4 0 ++ List.replicate 488 0
/-- A header that is no header. -/
def hdrBad : List Byte := List.replicate 512 0
/-- BOOT, with a change to the loader. -/
def bt (b : Boot) : State := { md .boot with boot := b }
/-- The loader at a record in a block. -/
def rec (h : Word32) (rest : List Word32) : State :=
  { bt { Boot.reset with st := .body, bufs := [[7, h] ++ rest], index := 1, blocks := 1 } with modes := { ms .boot with arraysClr := true } }
/-- SERVE with Cox running. -/
def cx : State := { srv with cox := { Cox.reset with running := true } }
/-- A message of an OPC and a LEN. -/
def msgOf (opc len : Byte) (p : List Byte) : List Byte := pad64 ([opc, len, 9, 0] ++ p)
/-- Cox, having taken a message from the host. -/
def took (m : List Byte) : State := { cx with cox := { cx.cox with h2cTaken := m } }
/-- The same with an update open on a channel. -/
def tookUpd (m : List Byte) (u : Upd) : State := { cx with cox := { cx.cox with h2cTaken := m, upd := some u } }
/-- An open update of the host. -/
def upd0 : Upd := { ch := .host, target := true, hdr := hdrOf 9 }
/-- A source with a priority, PENDING for every target. -/
def src0 (p : BitVec 8) : EvSrc := { EvSrc.reset 0 with prio := p, targets := 0xFF, pending := true }
/-- SERVE with event sources. -/
def evS (l : Store EvSrc) : State := { srv with events := { Events.reset with srcs := l } }
/-- SERVE with counters. -/
def cnS (c : Counts) : State := { srv with counts := c }
/-- What a run of keys that all hold `v` reads as. -/
theorem get_run {α : Type} (d v : α) (k : Nat) : ∀ n lo, lo ≤ k → k < lo + n →
    Store.get d ((List.range' lo n).map (fun k => (k, v))) k = v
  | 0, lo, h, h' => by omega
  | n + 1, lo, h, h' => by
    simp only [List.range'_succ, List.map_cons, Store.get]
    split
    · rfl
    · rw [if_neg (by omega)]; exact get_run d v k n (lo + 1) (by omega) (by omega)

/-- No slot is free in a full slice. -/
theorem full_freeSlot (x : List IntMsg) (y : Store (Option Transit)) :
    (((srv.setSl 1 { full with int := x, transit := y }).sl 1)).freeSlot = none := by
  rw [State.sl_setSl_self]
  simp only [Slice.freeSlot, Store.lowestFree, List.find?_eq_none, List.mem_range, decide_eq_true_eq]
  intro k hk
  rw [show full.slots = (List.range' 0 1020).map (fun k => (k, some slot0)) by simp [full, List.range_eq_range'],
    get_run _ _ k 1020 0 (by omega) (by omega)]
  simp
/-- A recall finds no slot in a full slice. -/
theorem full_slotFor (y : Store (Option Transit)) : ((srv.setSl 1 { full with transit := y }).sl 1).slotFor 0x12345 .recall = none := by
  have h : ((srv.setSl 1 { full with transit := y }).sl 1).findSlot 0x12345 = some (0, slot0) := by
    rw [State.sl_setSl_self]; show full.findSlot 0x12345 = _; decide +kernel
  unfold Slice.slotFor
  rw [h]
  exact full_freeSlot [] y
/-- The key of the entry's way. -/
def swK : Nat := 16 * (Machine.setOf 0x12345).toNat
/-- An entry that a fenced agent shares. -/
def swE : Entry := { e0 with own := false, holders := [5, 6] }
/-- A departure sweep that meets it. -/
def swS : State := (srv.setAgent 6 { Agent.reset with st := .fenced }).setSl 0 { Slice.reset with dir := [(swK, some swE)] }
/-- REST entry with every gate drained and every memory pair's edge router bouncing. -/
def restGate : State :=
  (List.range 80).foldl (fun s i => s.setRouter i { Router.reset with bounce := 0xF })
    (allPorts.foldl (fun s k => s.setMp k { p0 with gate := .closing })
      (allAtts.foldl (fun s k => s.setAtt k { at0 with gate := .drained }) (mds { ms .quiesce with restReqd := true, restPhase := 5 })))
/-- A block of `n` zeros and a word. -/
def blockOf (n : Nat) (x : Word32) : List Word32 := List.replicate n 0 ++ [x]
theorem blockOf_length (n : Nat) (x : Word32) : (blockOf n x).length = n + 1 := by simp [blockOf]
theorem blockOf_take (n : Nat) (x : Word32) : (blockOf n x).take n = List.replicate n 0 := by simp [blockOf]
theorem blockOf_last (n : Nat) (x : Word32) : (blockOf n x).getD n 0 = x := by simp [blockOf]
/-- The CRC of `n` zero words. -/
def zeroCrc (n : Nat) : Word32 := crc32c ((List.replicate n (0 : Word32)).flatMap (fun w => bytesOfNat 4 w.toNat))
/-- A word is not the next one. -/
theorem ne_next (x : Word32) : x ≠ x + 1 := by simp

/-! ## Terms that are no command: one for each check -/

theorem test_wf_header_short : (Instr.slotHeaderCheck 0 (List.replicate 511 0) (List.replicate 512 0)).wellFormed = false := by decide +kernel
theorem test_wf_header_second : (Instr.slotHeaderCheck 0 (List.replicate 512 0) []).wellFormed = false := by decide +kernel
theorem test_wf_block_short : (Instr.bodyBlockRead [1]).wellFormed = false := by decide
theorem test_wf_journal_short : (Instr.journalProgram 0 0 [1] (List.replicate 32 0)).wellFormed = false := by decide
theorem test_wf_journal_read : (Instr.journalProgram 0 0 (List.replicate 32 0) [1]).wellFormed = false := by decide
theorem test_wf_reply_long : (Instr.mailboxReply .host (List.replicate 65 0)).wellFormed = false := by decide +kernel
theorem test_wf_block_empty : (Instr.sbBlockWrite [] none).wellFormed = false := by decide
theorem test_wf_block_long : (Instr.sbBlockWrite (List.replicate 65 0) none).wellFormed = false := by decide
theorem test_wf_read_journal : (Instr.readJournal .host [1]).wellFormed = false := by decide
theorem test_wf_image_short : (Instr.castHeaderReturn hdr0 [0] true).wellFormed = false := by decide
theorem test_wf_request_listed : (Instr.unlistedRequest 2 .req 9 q0).wellFormed = false := by decide
theorem test_wf_rwd_listed : (Instr.unlistedRequest 2 .rwd 16 q0).wellFormed = false := by decide
theorem test_wf_rsp_listed : (Instr.unlistedBirsp 2 8 5).wellFormed = false := by decide
theorem test_wf_mresp_listed : (Instr.unlistedMrespWord 3 2).wellFormed = false := by decide
theorem test_wf_request : (Instr.rdShared 2 q0).wellFormed = true := by decide

/-- No word spells a command. -/
theorem test_no_word : decodeTableWord 0 0 = none := by decide

/-! ## The worked examples of the manual -/

/-- The line of DPA 0x0123_4567_8C40 (chapters 1, 3, 16). -/
def exLine : Line := 0x48D159E31
/-- What a command leaves. -/
def after (c : Instr) (s : State) : State := match exec c s with | .next t => t | _ => s
/-- What a register command answers the host. -/
def hostWord (s : State) : Option Word32 := s.hostRsp.map (fun r => r.data)

/-- Chapter 3: B(L) is 0xD2A and SET(L) 0xB9D; the default home is slice 42. -/
theorem test_bucket : bucketOf exLine = 0xD2A := by decide
theorem test_set : setOf exLine = 0xB9D := by decide
theorem test_home : targetHome 0 0xD2A = 42 := by decide +kernel
/-- Chapter 1: the line's port is 29; slice 42 sits at router 53, attachment 5 at (0, 2), port 29 at (9, 7). -/
theorem test_port : portOf exLine = 29 := by decide
theorem test_routers : sliceRouter 42 = 53 ∧ attRouter 5 = 20 ∧ portRouter 29 = 79 := by decide
/-- Chapter 10: with 48 slices bucket 0xD2B goes to slice 26. -/
theorem test_home48 : targetHome 1 0xD2B = 26 := by decide +kernel
/-- Chapter 10: a droop of 6.2% (24 units of 0.25%) reaches level 4, and not 5. -/
theorem test_level : srv.levelOf 24 = 4 := by decide +kernel
/-- Chapter 11: SHED_THR written with T1 = 0x3C holds 0x3C in every field. -/
theorem test_shed_thr : (List.range 5).map (fun k =>
    (after (.registerWrite .host { addr := 0x70030, be := 0xF, data := 0x3C } none) srv).fld ⟨0x70030, 6 * k, 6⟩) = List.replicate 5 0x3C := by
  decide +kernel
/-- Chapter 11: TO_MIN written with 0x1000 while TO_MAX holds 0x800 raises TO_MAX to 0x1000. -/
theorem test_cal_to : (after (.registerWrite .host { addr := 0x60004, be := 3, data := 0x1000 } none) (srv.setReg 0x60004 0x08000040)).reg 0x60004
    = 0x10001000 := by decide +kernel
/-- Chapter 16: slice 42 alone holds THRESH 1: a read of slice group 10 returns slice 40's word, and UNI_HOST says SAME 0, MEMBERS 4,
FIRST_DIFF 42. -/
def exUni : State := after (.broadcastRead .host 0x8B0288) (srv.putF (Fld.sl 42 0x288 0 3) 1)
theorem test_group_read : hostWord exUni = some 0x2804 := by decide +kernel
theorem test_group_uniform : exUni.fld ⟨0x1034, 0, 1⟩ = 0 ∧ exUni.fld ⟨0x1034, 2, 7⟩ = 4 ∧ exUni.fld ⟨0x1034, 9, 7⟩ = 42 := by decide +kernel
/-- Chapter 8: one window of agent 0x2A7 (here agent 5): SNP_TO becomes 0x1A4 and BACKOFF 0x1C. -/
def exCal : State :=
  ({ (srv.setAgent 5 { ag .active with snpTo := 0x1C0 }) with calAt := 1000000 }).setHist 5
    { bins := [(5, 40), (6, 1900), (7, 1600), (8, 380), (9, 60), (10, 14), (11, 4), (13, 2)], age := 0 }
theorem test_cal_window : ((after .calibrationWindowEnd exCal).agent 5).snpTo = 0x1A4
    ∧ ((after .calibrationWindowEnd exCal).agent 5).backoff = 0x1C := by decide +kernel
/-- Chapter 8: P50B is 384 ns in the example's block. Here the one agent's own median, 448 ns, gives a DECAY of 58 us. -/
theorem test_cal_decay : (after .calibrationWindowEnd exCal).fld (Fld.sl 42 0x288 8 16) = 58 := by decide +kernel
/-- Chapter 12: target 1 with 1,745 and 673 PENDING is given 673; then 1,745 does not beat its tier. -/
def exEv : State := evS [(673, { src0 0x12 with targets := 2 }), (1745, { src0 0x48 with targets := 3 })]
theorem test_claim : hostWord (after (.claim 1 .host) exEv) = some 673 := by decide +kernel
theorem test_irq : exEv.irq 1 = true ∧ (after (.claim 1 .host) exEv).irq 1 = false := by decide +kernel
/-- Chapter 12: after COMPLETE_1 = 673 source 1,745 is eligible again. -/
theorem test_complete : (after (.complete 1 673) (after (.claim 1 .host) exEv)).irq 1 = true := by decide +kernel
/-- Chapter 6: the check value of CRC-32C over the nine digits. -/
theorem test_crc32c : crc32c [0x31, 0x32, 0x33, 0x34, 0x35, 0x36, 0x37, 0x38, 0x39] = 0xE3069283 := by decide +kernel

/-! ## The hypotheses of the statements can be met

For each statement, states and operands that meet the hypotheses of its clauses. -/


theorem test_meets_StepRunsFrontCommand :
    ∃ (s : State) (c : Instr) (rest : List Instr),
    s.pending = c :: rest :=
  ⟨{srv with pending := [.tbSet]}, .tbSet, [], by decide +kernel⟩

theorem test_meets_EmptyQueueTicksAndCommandsLeaveTheQueue :
    (∃ (s : State),
    s.pending = [])
    ∧ (∃ (c : Instr) (s : State) (t : State),
    exec c s = Host.Outcome.next t) :=
  ⟨⟨srv, by decide +kernel⟩,
    ⟨.freeze, srv, srv.freezeTo true, rfl⟩⟩

theorem test_meets_StopsAreNamed :
    (∃ (c : Instr) (s : State),
    s.keepsPromise c ∧ c.wellFormed = true ∧ (∀ (cox : List Byte), c = Instr.bodyHashCheck cox → cox.length = coxLen (s.boot.hdr s.boot.slot)) ∧ ∀ (a b : List Byte), c = Instr.coxRestartDone a b → a.length = s.boot.coxLen ∧ b.length = s.boot.coxLen)
    ∧ (∃ (c : Instr) (la : AttId) (s : State),
    c.wellFormed = true ∧ msgFrom c = some la ∧ s.silent la = true) :=
  ⟨⟨.rdShared 2 q0, srv, ⟨fun la h => by cases h; decide +kernel, by decide +kernel, nofun, nofun⟩⟩,
    ⟨.rdShared 2 q0, 2, srv.setAtt 2 { at0 with gate := .closing, gateAck := true }, by decide +kernel⟩⟩

theorem test_meets_Entry0xFFFStaysAbsent :
    ∃ (s : State) (t : State),
    s.agent 4095 = Agent.reset ∧ step s = Host.Outcome.next t :=
  ⟨md .rest, md .rest, by decide +kernel, rfl⟩

theorem test_meets_ReservedCountersStayZero :
    ∃ (s : State) (t : State) (i : Nat),
    (∀ (i : Nat), cReserved i = true → (s.cnt i).value = 0) ∧ step s = Host.Outcome.next t ∧ cReserved i = true :=
  ⟨md .rest, md .rest, 2075, fun _ _ => rfl, rfl, by decide⟩

theorem test_meets_StepKeepsCanonicalForm :
    ∃ (s : State) (t : State),
    s.canonical ∧ step s = Host.Outcome.next t :=
  ⟨md .rest, md .rest, by simp [State.canonical]; decide +kernel, rfl⟩

theorem test_meets_ResetMeetsTheInvariants :
    ∃ (i : Nat),
    cReserved i = true :=
  ⟨2075, by decide⟩

theorem test_meets_RequestsEnterTheirHome :
    (∃ (op : Op) (la : AttId) (q : ReqHdr) (s : State),
    op.rwd = false ∧ op ≠ Op.fence ∧ op ≠ Op.conflict ∧ s.passesAtOnce op la q)
    ∧ (∃ (op : Op) (la : AttId) (q : ReqHdr) (_w : WrData) (b : Nat) (s : State),
    op.rwd = true ∧ s.passesAtOnce op la q ∧ Store.lowestFree none (s.att la).bufs 32 = some b) :=
  ⟨⟨.rdShared, 2, q0, srv, by unfold State.passesAtOnce; decide +kernel⟩,
    ⟨.wrFull, 2, q0, w0, 0, srv, by unfold State.passesAtOnce; decide +kernel⟩⟩

theorem test_meets_FencesAndConflictsAreTaken :
    (∃ (la : AttId) (q : ReqHdr) (i : Nat) (s : State),
    s.passesAtOnce Op.fence la q ∧ ((s.agent q.agent).st = AState.active ∨ (s.agent q.agent).st = AState.leaving) ∧ Store.lowestFree none (s.att la).fences 4 = some i)
    ∧ (∃ (la : AttId) (q : ReqHdr) (s : State),
    s.silent la = false ∧ (s.mode = Mode.serve ∨ s.mode = Mode.shed ∨ s.mode = Mode.quiesce) ∧ q.agent ≠ 4095 ∧ (s.agent q.agent).la = la ∧ 0 < (s.att la).reqCr)
    ∧ (∃ (_i : SliceId) (la : AttId) (q : ReqHdr) (s : State),
    ((s.agent q.agent).st = AState.active ∨ (s.agent q.agent).st = AState.leaving) ∧ s.inCast q.laddr = false ∧ s.attBounces la = false) :=
  ⟨⟨2, q0, 0, srv, by unfold State.passesAtOnce; decide +kernel⟩,
    ⟨2, q0, srv, by decide +kernel⟩,
    ⟨1, 2, q0, srv, by decide +kernel⟩⟩

theorem test_meets_ResponsesReachTheirSlot :
    (∃ (la : AttId) (a : AgentId) (h : BitVec 16) (l : Line) (s : State) (c : Instr) (op : RspOp),
    s.birspArrives la a ∧ s.openProbe a h = none ∧ (Option.map (fun x => x.openSnoop a) (s.slotOf h)).getD false = true ∧ (c = Instr.birspI la a h l ∧ op = RspOp.i ∨ c = Instr.birspS la a h l ∧ op = RspOp.s ∨ c = Instr.birspE la a h l ∧ op = RspOp.e))
    ∧ (∃ (la : AttId) (a : AgentId) (h : BitVec 16) (s : State),
    s.birspArrives la a ∧ (Option.map (fun x => x.awaitsAck a) (s.slotOf h)).getD false = true) :=
  ⟨⟨2, 5, 0x400, 0x12345, srv.setSl 1 (slWith slot0), .birspI 2 5 0x400 0x12345, .i, by unfold State.birspArrives; decide +kernel⟩,
    ⟨2, 5, 0x400, srv.setSl 1 (slWith {slot0 with req := some r0, eack := true}), by unfold State.birspArrives; decide +kernel⟩⟩

theorem test_meets_UnlistedMessagesAreCountedInFormat :
    (∃ (la : AttId) (ch : InCh) (opc : BitVec 5) (q : ReqHdr) (s : State),
    unlistedReq ch opc = true ∧ s.silent la = false ∧ q.agent ≠ 4095 ∧ if ch = InCh.rwd then 0 < (s.att la).rwdCr else 0 < (s.att la).reqCr)
    ∧ (∃ (la : AttId) (opc : BitVec 4) (a : AgentId) (s : State),
    unlistedRsp opc = true ∧ s.silent la = false ∧ a ≠ 4095 ∧ 0 < (s.att la).birspCr) :=
  ⟨⟨2, .req, 31, q0, srv, by decide +kernel⟩,
    ⟨2, 15, 5, srv, by decide +kernel⟩⟩

theorem test_meets_CreditsAreCounted :
    ∃ (ch : CreditCh) (s : State),
    (s.creditsOf ch).advOpen = true ∧ (s.creditsOf ch).run ≠ 0 :=
  ⟨.link 2 .ndr, srv.setAtt 2 {at0 with ndrC := { n := 0, advOpen := true, run := 3}}, by decide +kernel⟩

theorem test_meets_EgressSendsTheHead :
    (∃ (k : AttId) (n : Nat) (m : Ndr) (rest : List (Nat × Ndr)) (c : Credits) (s : State),
    (s.att k).ndrQ = (n, m) :: rest ∧ (s.att k).ndrC.spend = some c)
    ∧ (∃ (k : AttId) (n : Nat) (m : Drs) (rest : List (Nat × Drs)) (c : Credits) (s : State),
    (s.att k).drsQ = (n, m) :: rest ∧ (s.att k).drsC.spend = some c)
    ∧ (∃ (k : AttId) (n : Nat) (m : Bisnp) (rest : List (Nat × Bisnp)) (c : Credits) (s : State),
    (s.att k).bisnpQ = (n, m) :: rest ∧ (s.att k).bisnpC.spend = some c ∧ ∀ d ∈ (s.att k).drsQ, d.2.agent = m.agent → n ≤ d.1)
    ∧ (∃ (k : AttId) (n : Nat) (m : Bisnp) (rest : List (Nat × Bisnp)) (s : State),
    (s.att k).bisnpQ = (n, m) :: rest ∧ ∃ d ∈ (s.att k).drsQ, d.2.agent = m.agent ∧ d.1 < n) :=
  ⟨⟨2, 4, errNdr q0, [], {cr0 with n := 8}, srv.setAtt 2 {at0 with ndrC := cr0, ndrQ := [(4, errNdr q0)]}, by decide +kernel⟩,
    ⟨2, 4, Drs.mk 5 7 0 1 false 0 none, [], {cr0 with n := 8}, srv.setAtt 2 {at0 with drsC := cr0, drsQ := [(4, Drs.mk 5 7 0 1 false 0 none)]}, by decide +kernel⟩,
    ⟨2, 4, Bisnp.mk .inv 5 0 9, [], {cr0 with n := 8}, srv.setAtt 2 {at0 with bisnpC := cr0, bisnpQ := [(4, Bisnp.mk .inv 5 0 9)]}, by decide +kernel⟩,
    ⟨2, 4, Bisnp.mk .inv 5 0 9, [], srv.setAtt 2 {at0 with bisnpQ := [(4, Bisnp.mk .inv 5 0 9)], drsQ := [(3, Drs.mk 5 7 0 1 false 0 none)]}, by decide +kernel⟩⟩

theorem test_meets_GatesBarriersAndLateAcks :
    (∃ (la : AttId) (a : AgentId) (tag : BitVec 16) (e : OrdEntry) (s : State),
    findEntry (s.att la).order a tag = some e ∧ e.gated = true ∧ s.canPass (beforeEntry (s.att la).order a tag) e.req = true ∧ (s.mode = Mode.serve ∨ s.mode = Mode.shed) ∧ e.req.op ≠ Op.fence ∧ s.inWindow e.req.q.laddr = false ∧ (s.att la).waitIn = [])
    ∧ (∃ (la : AttId) (a : AgentId) (o : BitVec 4) (b : Barrier) (s : State),
    List.find? (fun b => decide (b.agent = a) && decide (b.otag = o)) (s.att la).barriers = some b)
    ∧ (∃ (i : SliceId) (slot : BitVec 10) (x : Slot) (r : Req) (t0 : Nat) (s : State),
    (s.sl i).slot slot.toNat = some x ∧ x.eackAt = some t0 ∧ x.req = some r ∧ x.eack = true ∧ x.late = false ∧ s.runs = true ∧ ∀ m ∈ (s.sl i).rsp, ∀ (a : AgentId), m ≠ RspMsg.eack a (htagOf i slot.toNat)) :=
  ⟨⟨2, 5, 7, OrdEntry.mk r0 true 2 0, srv.setAtt 2 {at0 with order := [OrdEntry.mk r0 true 2 0]}, by decide +kernel⟩,
    ⟨2, 5, 3, Barrier.mk 5 3 7 none 50, srv.setAtt 2 {at0 with barriers := [Barrier.mk 5 3 7 none 50]}, by decide +kernel⟩,
    ⟨1, 0, {slot0 with eackAt := some 9, req := some r0, eack := true}, r0, 9, srv.setSl 1 (slWith {slot0 with eackAt := some 9, req := some r0, eack := true}), by decide +kernel⟩⟩

theorem test_meets_DataMovesThroughTheDxb :
    (∃ (la : AttId) (p : Pull) (rest : List Pull) (m : PortId) (b : WBuf) (s : State),
    (s.att la).pulls = p :: rest ∧ p.port = some m ∧ Store.get none (s.att la).bufs p.buf.toNat = some b)
    ∧ (∃ (la : AttId) (m : Nat) (b : RBeat) (par : BeatParity) (s : State),
    (grantOf 32 (Store.get 0 s.mesh.rdPtr (BitVec.toNat la)) fun m => (Option.map (fun b => decide (b.la = la)) (s.mp (BitVec.ofNat 5 m)).rsIn.head?).getD false) = some m ∧ (s.mp (BitVec.ofNat 5 m)).rsIn.head? = some b ∧ par ≠ BeatParity.headerBad ∧ (s.agent b.drs.agent).st ≠ AState.fenced)
    ∧ (∃ (m : PortId) (k : Nat) (b : WBeat) (par : BeatParity) (s : State),
    (grantOf 16 (Store.get 0 s.mesh.wrPtr (BitVec.toNat m)) fun k => (Option.map (fun b => decide (b.port = m)) (s.att (BitVec.ofNat 4 k)).wsIn.head?).getD false) = some k ∧ (s.att (BitVec.ofNat 4 k)).wsIn.head? = some b ∧ par ≠ BeatParity.headerBad) :=
  ⟨⟨2, Pull.mk 0 (some 4) 1 3, [], 4, WBuf.mk w0 false false true, srv.setAtt 2 {at0 with pulls := [Pull.mk 0 (some 4) 1 3], bufs := [(0, some (WBuf.mk w0 false false true))]}, by decide +kernel⟩,
    ⟨2, 4, RBeat.mk 2 (Drs.mk 5 7 0 1 false 9 none) none, .dataBad, onPort 4 {Port.reset with rsIn := [RBeat.mk 2 (Drs.mk 5 7 0 1 false 9 none) none]}, by decide +kernel⟩,
    ⟨4, 2, WBeat.mk 4 1 3 w0 false, .dataBad, srv.setAtt 2 {at0 with wsIn := [WBeat.mk 4 1 3 w0 false]}, by decide +kernel⟩⟩

theorem test_meets_JoinsStartAndEnd :
    (∃ (a : AgentId) (s : State),
    s.takesCmd a = true ∧ (s.agent a).st = AState.absent)
    ∧ (∃ (a : AgentId) (s : State),
    s.takesCmd a = true ∧ (s.agent a).st ≠ AState.absent)
    ∧ (∃ (a : AgentId) (j : JoinProbe) (s : State),
    s.runs = true ∧ a ≠ 4095 ∧ (s.agent a).st = AState.joining ∧ (s.agent a).join = some j) :=
  ⟨⟨5, withAg .serve .absent, by decide +kernel⟩,
    ⟨5, withAg .serve .active, by decide +kernel⟩,
    ⟨5, j0, (inMode .serve).setAgent 5 { ag .joining with join := some j0 }, by decide +kernel⟩⟩

theorem test_meets_AgentsLeave :
    (∃ (a : AgentId) (s : State),
    s.takesCmd a = true ∧ (s.agent a).st = AState.active)
    ∧ (∃ (a : AgentId) (s : State),
    s.takesCmd a = true ∧ (s.agent a).st = AState.joining)
    ∧ (∃ (a : AgentId) (s : State),
    s.takesCmd a = true ∧ (s.agent a).st ≠ AState.active ∧ (s.agent a).st ≠ AState.joining)
    ∧ (∃ (a : AgentId) (s : State),
    s.runs = true ∧ (s.agent a).st = AState.leaving ∧ (∀ (k : AttId), (s.att k).owes a = false) ∧ (∀ (i : SliceId), (s.sl i).owes a = false) ∧ ∀ b ∈ s.mesh.bounced, Bounced.owes a b = false)
    ∧ (∃ (a : AgentId) (_fenced : Bool) (s : State),
    a ≠ 4095 ∧ (s.agent a).held = 0)
    ∧ (∃ (a : AgentId) (_fenced : Bool) (s : State) (i : SliceId),
    a ≠ 4095 ∧ (s.agent a).held ≠ 0 ∧ (s.sl i).active = true)
    ∧ (∃ (a : AgentId) (_fenced : Bool) (_s : State) (b : AgentId),
    a ≠ 4095 ∧ b ≠ a) :=
  ⟨⟨5, (heldAg .active).setSl 3 { Slice.reset with rsvs := [Rsv.mk 5 9 0, Rsv.mk 6 10 0] }, by decide +kernel⟩,
    ⟨5, heldAg .joining, by decide +kernel⟩,
    ⟨5, heldAg .fenced, by decide +kernel⟩,
    ⟨5, heldAg .leaving, by decide +kernel⟩,
    ⟨5, false, withAg .serve .leaving, by decide +kernel⟩,
    ⟨5, true, heldAg .active, (3 : SliceId), by decide +kernel⟩,
    ⟨5, false, heldAg .leaving, (6 : AgentId), by decide +kernel⟩⟩

theorem test_meets_AgentsAreFencedReleasedAndPermitted :
    (∃ (a : AgentId) (s : State),
    s.takesCmd a = true ∧ ((s.agent a).st = AState.joining ∨ (s.agent a).st = AState.active ∨ (s.agent a).st = AState.leaving))
    ∧ (∃ (a : AgentId) (s : State),
    s.takesCmd a = true ∧ (s.agent a).st ≠ AState.joining ∧ (s.agent a).st ≠ AState.active ∧ (s.agent a).st ≠ AState.leaving)
    ∧ (∃ (a : AgentId) (k : AttId) (s : State) (d : Nat × Drs),
    d ∈ ((s.fenceEdge a k).att k).drsQ)
    ∧ (∃ (a : AgentId) (k : AttId) (s : State) (p : AgentId × Line),
    p ∈ ((s.fenceEdge a k).att k).snooped)
    ∧ (∃ (a : AgentId) (k : AttId) (s : State) (r : Req),
    r ∈ ((s.fenceEdge a k).att k).waitIn)
    ∧ (∃ (a : AgentId) (s : State),
    s.takesCmd a = true ∧ (s.agent a).st = AState.fenced ∧ (s.agent a).sweep = false)
    ∧ (∃ (a : AgentId) (s : State),
    s.takesCmd a = true ∧ ((s.agent a).st ≠ AState.fenced ∨ (s.agent a).sweep = true))
    ∧ (∃ (a : AgentId) (cmd : BitVec 4) (s : State),
    s.takesCmd a = true ∧ 5 ≤ cmd.toNat)
    ∧ (∃ (a : AgentId) (_p : Bool) (_h : Bool) (_r : Bool) (s : State),
    s.fwUp = true ∧ a ≠ 4095) :=
  ⟨⟨5, heldAg .active, by decide +kernel⟩,
    ⟨5, heldAg .fenced, by decide +kernel⟩,
    ⟨5, 2, (heldAg .active).setAtt 2 {at0 with drsQ := [(4, Drs.mk 5 7 0 1 false 0 none), (6, Drs.mk 6 7 0 1 false 0 none)]}, ((6, Drs.mk 6 7 0 1 false 0 none) : Nat × Drs), by decide +kernel⟩,
    ⟨5, 2, (heldAg .active).setAtt 2 {at0 with snooped := [(5,9), (6, 9)]}, ((6, 9) : AgentId × Line), by decide +kernel⟩,
    ⟨5, 2, (heldAg .active).setAtt 2 {at0 with waitIn := [r0, {r0 with q := {q0 with agent := 6}}]}, ({r0 with q := {q0 with agent := 6}} : Req), by decide +kernel⟩,
    ⟨5, heldAg .fenced, by decide +kernel⟩,
    ⟨5, heldAg .active, by decide +kernel⟩,
    ⟨5, 9, heldAg .active, by decide +kernel⟩,
    ⟨5, true, false, false, (heldAg .active).setSl 3 { Slice.reset with rsvs := [Rsv.mk 5 9 0, Rsv.mk 6 10 0] }, by decide +kernel⟩⟩

theorem test_meets_ClearCommandsClearTheirFields :
    (∃ (c : Instr) (u : QUnit) (fs : List Fld) (s : State),
    clearedBy c = some (u, fs) ∧ s.unitUp u = true)
    ∧ (∃ (_i : Fin 80) (s : State),
    s.fwUp = true) :=
  ⟨⟨.laRefuseClear 2, .att 2, [Fld.notActive 2, Fld.perm 2, Fld.spoof 2, Fld.format 2], (srv.putF (Fld.perm 2) 7).putF (Fld.la 2 0x108 0 16) 9, ⟨rfl, by decide +kernel⟩⟩,
    ⟨5, srv.setRouter 5 { Router.reset with prb0 := 4, prb1 := 5 }, by decide +kernel⟩⟩

theorem test_meets_ARefusalAfterAClearReadsAsOne :
    ∃ (k : AttId) (s : State) (t : State) (f : AttId → Fld) (g : AttId → Fld),
    f ∈ [Fld.notActive, Fld.perm, Fld.spoof, Fld.format] ∧ s.fwUp = true ∧ (s.att k).gate = GateSt.opened ∧ exec (Instr.laRefuseClear k) s = Host.Outcome.next t ∧ g ∈ [Fld.notActive, Fld.perm, Fld.spoof, Fld.format] ∧ (f k).apart (g k) :=
  ⟨2, srv.putF (Fld.perm 2) 7, (srv.putF (Fld.perm 2) 7).clearRefuse 2, Fld.perm, Fld.spoof, ⟨by simp, by decide +kernel, by decide +kernel, rfl, by simp, by unfold Fld.apart; decide +kernel⟩⟩

theorem test_meets_PassesTakeTheHeadOfTheirQueue :
    (∃ (i : SliceId) (_chk : PassCheck) (r : Req) (rest : List Req) (s : State),
    s.passGo i = true ∧ s.cast.writes = 0 ∧ s.headNew i = some (r, rest))
    ∧ (∃ (i : SliceId) (_chk : PassCheck) (l : Line) (h : Heir) (rest : List IntMsg) (s : State),
    s.passGo i = true ∧ s.headInt i = some (IntMsg.handOver l h, rest))
    ∧ (∃ (i : SliceId) (_chk : PassCheck) (p : Pass) (n : Nat) (rest : List IntMsg) (s : State),
    s.passGo i = true ∧ s.headInt i = some (IntMsg.replay p n, rest))
    ∧ (∃ (_i : SliceId) (_p : Pass) (n : Nat) (chk : PassCheck) (s : State),
    chk.mismatch = true ∧ s.held = false ∧ n < 3)
    ∧ (∃ (_i : SliceId) (_p : Pass) (n : Nat) (chk : PassCheck) (s : State),
    chk.mismatch = true ∧ s.held = false ∧ 3 ≤ n) :=
  ⟨⟨1, okChk, r0, [], srv.setSl 1 {Slice.reset with new := [r0]}, by decide +kernel⟩,
    ⟨1, okChk, 0x12345, .waiter r0 false, [], srv.setSl 1 {Slice.reset with int := [.handOver 0x12345 (.waiter r0 false)], handing := [0x12345]}, by decide +kernel⟩,
    ⟨1, okChk, .newReq r0, 1, [], srv.setSl 1 {Slice.reset with int := [.replay (.newReq r0) 1]}, by decide +kernel⟩,
    ⟨1, .newReq r0, 2, {okChk with mismatch := true}, srv.setSl 1 {Slice.reset with rsvs := [Rsv.mk 5 9 0]}, by decide +kernel⟩,
    ⟨1, .newReq r0, 3, {okChk with mismatch := true}, srv, by decide +kernel⟩⟩

theorem test_meets_PassesRefuseAndHold :
    (∃ (_i : SliceId) (_chk : PassCheck) (r : Req) (s : State) (st : AState),
    s.attBounces r.la = false ∧ (s.agent r.q.agent).st = st ∧ (st = AState.absent ∨ st = AState.quarantine ∨ st = AState.fenced))
    ∧ (∃ (_i : SliceId) (_chk : PassCheck) (r : Req) (s : State),
    s.attBounces r.la = false ∧ (s.agent r.q.agent).st = AState.joining)
    ∧ (∃ (_i : SliceId) (_chk : PassCheck) (r : Req) (s : State),
    s.attBounces r.la = false ∧ (s.agent r.q.agent).st ≠ AState.active ∧ (s.agent r.q.agent).st ≠ AState.leaving ∧ (s.att r.la).waitIn = [])
    ∧ (∃ (i : SliceId) (chk : PassCheck) (r : Req) (s : State),
    (s.sl i).holds r.q.laddr = true ∧ r.op.plainWrite = false ∧ chk.way = Ecc.clean ∧ chk.pool = Ecc.clean) :=
  ⟨⟨1, okChk, r0, heldAg .fenced, .fenced, by decide +kernel⟩,
    ⟨1, okChk, r0, withAg .serve .joining, by decide +kernel⟩,
    ⟨1, okChk, {r0 with q := {q0 with agent := 6}}, srv, by decide +kernel⟩,
    ⟨1, okChk, r0, srv.setSl 1 (slWith slot0), by decide +kernel⟩⟩

theorem test_meets_SnoopsAreIssuedAndTimed :
    (∃ (i : SliceId) (row : BitVec 3) (n : BitVec 10) (a : AgentId) (rest : List (BitVec 10 × AgentId)) (x : Slot) (v : Snoop) (s : State),
    s.passGo i = true ∧ Store.get [] (s.sl i).snpQ row.toNat = (n, a) :: rest ∧ (s.sl i).slot n.toNat = some x ∧ List.find? (fun v => decide (v.agent = a) && decide (v.copies ≠ 0)) x.snoops = some v ∧ s.attBounces (s.agent a).la = false)
    ∧ (∃ (i : SliceId) (slot : BitVec 10) (a : AgentId) (x : Slot) (v : Snoop) (s : State),
    s.passGo i = true ∧ a ≠ 4095 ∧ (s.sl i).slot slot.toNat = some x ∧ x.snoopTo a = some v ∧ v.st = SnSt.sent ∧ (s.sl i).inSnpQ slot.toNat a = false ∧ (s.sl i).rspIn i slot.toNat a = true)
    ∧ (∃ (i : SliceId) (slot : BitVec 10) (a : AgentId) (x : Slot) (v : Snoop) (s : State),
    s.passGo i = true ∧ a ≠ 4095 ∧ (s.sl i).slot slot.toNat = some x ∧ x.snoopTo a = some v ∧ v.st = SnSt.sent ∧ (s.sl i).inSnpQ slot.toNat a = false ∧ (s.sl i).rspIn i slot.toNat a = false ∧ v.resent = false)
    ∧ (∃ (i : SliceId) (slot : BitVec 10) (a : AgentId) (x : Slot) (v : Snoop) (s : State),
    s.passGo i = true ∧ a ≠ 4095 ∧ (s.sl i).slot slot.toNat = some x ∧ x.snoopTo a = some v ∧ v.st = SnSt.sent ∧ (s.sl i).inSnpQ slot.toNat a = false ∧ (s.sl i).rspIn i slot.toNat a = false ∧ v.resent = true)
    ∧ (∃ (i : SliceId) (slot : BitVec 10) (a : AgentId) (x : Slot) (v : Snoop) (s : State),
    s.passGo i = true ∧ (s.sl i).slot slot.toNat = some x ∧ x.snoopTo a = some v ∧ v.st = SnSt.answered ∧ (s.sl i).rspIn i slot.toNat a = false) :=
  ⟨⟨1, 0, 0, 5, [], {slot0 with snoops := [Snoop.fresh .inv 5]}, Snoop.fresh .inv 5, srv.setSl 1 {slWith {slot0 with snoops := [Snoop.fresh .inv 5]} with snpQ := [(0, [(0, 5)])]}, by decide +kernel⟩,
    ⟨1, 0, 5, slot0, sn0, srv.setSl 1 {slWith slot0 with rsp := [.birsp .i 5 (htagOf 1 0) 0x12345 9]}, by decide +kernel⟩,
    ⟨1, 0, 5, slot0, sn0, srv.setSl 1 (slWith slot0), by decide +kernel⟩,
    ⟨1, 0, 5, {slot0 with snoops := [{sn0 with resent := true}]}, {sn0 with resent := true}, srv.setSl 1 (slWith {slot0 with snoops := [{sn0 with resent := true}]}), by decide +kernel⟩,
    ⟨1, 0, 5, {slot0 with snoops := [{sn0 with st := .answered, answered := 20}]}, {sn0 with st := .answered, answered := 20}, srv.setSl 1 (slWith {slot0 with snoops := [{sn0 with st := .answered, answered := 20}]}), by decide +kernel⟩⟩

theorem test_meets_SnoopResponsesTakeTheirPass :
    (∃ (i : SliceId) (_chk : PassCheck) (m : RspMsg) (rest : List RspMsg) (s : State),
    s.passGo i = true ∧ s.headRsp i = some (m, rest) ∧ ∀ (a : AgentId) (h : BitVec 16), m ≠ RspMsg.eack a h)
    ∧ (∃ (i : SliceId) (r : RspOp) (a : AgentId) (h : BitVec 16) (_t0 : Nat) (x : Slot) (v : Snoop) (s : State),
    (s.sl i).slot (htagSlot h).toNat = some x ∧ x.snoopTo a = some v ∧ v.st ≠ SnSt.answered ∧ validRsp v.op r = false ∧ 1 ≤ v.bad)
    ∧ (∃ (i : SliceId) (r : RspOp) (a : AgentId) (h : BitVec 16) (_t0 : Nat) (x : Slot) (v : Snoop) (s : State),
    (s.sl i).slot (htagSlot h).toNat = some x ∧ x.snoopTo a = some v ∧ v.st ≠ SnSt.answered ∧ validRsp v.op r = false ∧ v.bad = 0) :=
  ⟨⟨1, okChk, .birsp .i 5 0x400 0x12345 9, [], srv.setSl 1 {slWith slot0 with rsp := [.birsp .i 5 0x400 0x12345 9]}, by decide +kernel, by decide +kernel, nofun⟩,
    ⟨1, .s, 5, 0x400, 9, {slot0 with snoops := [{sn0 with bad := 1}]}, {sn0 with bad := 1}, srv.setSl 1 (slWith {slot0 with snoops := [{sn0 with bad := 1}]}), by decide +kernel⟩,
    ⟨1, .s, 5, 0x400, 9, slot0, sn0, srv.setSl 1 (slWith slot0), by decide +kernel⟩⟩

theorem test_meets_SlotsAreServedAndFreed :
    (∃ (i : SliceId) (_chk : PassCheck) (r : Req) (rest : List Req) (s : State),
    s.passGo i = true ∧ s.headWb i = some (r, rest))
    ∧ (∃ (i : SliceId) (n : Nat) (r : Req) (x : Slot) (s : State) (v : Rsv),
    (s.sl i).slot n = some x ∧ s.portBounces (portOf r.q.laddr) = false ∧ v ∈ ((s.snoopWrite i n r).sl i).rsvs ∧ v.line = r.q.laddr)
    ∧ (∃ (i : SliceId) (_chk : PassCheck) (a : AgentId) (h : BitVec 16) (rest : List RspMsg) (s : State),
    s.passGo i = true ∧ s.headRsp i = some (RspMsg.eack a h, rest))
    ∧ (∃ (i : SliceId) (n : Nat) (x : Slot) (s : State),
    (s.sl i).slot n = some x ∧ x.released = true ∧ x.rpts = [] ∧ x.openCopies = false ∧ (s.sl i).jobPark = [])
    ∧ (∃ (i : SliceId) (n : Nat) (x : Slot) (s : State),
    (s.sl i).slot n = some x ∧ x.released = true ∧ x.rpts = [] ∧ x.openCopies = true) :=
  ⟨⟨1, okChk, {r0 with op := .wrFull, buf := some 0}, [], srv.setSl 1 {slWith slot0 with wb := [{r0 with op := .wrFull, buf := some 0}]}, by decide +kernel⟩,
    ⟨1, 0, {r0 with op := .wrFull, buf := some 0}, slot0, (srv.setSl 1 {slWith slot0 with rsvs := [Rsv.mk 5 0x12345 0, Rsv.mk 6 0x12345 0]}).modAtt 2 (fun a => {a with bufs := [(0, some (WBuf.mk w0 false true true))]}), Rsv.mk 5 0x12345 0, by decide +kernel⟩,
    ⟨1, okChk, 5, 0x400, [], srv.setSl 1 {slWith slot0 with rsp := [.eack 5 0x400]}, by decide +kernel⟩,
    ⟨1, 0, {slot0 with released := true, snoops := [], eack := true}, srv.setSl 1 (slWith {slot0 with released := true, snoops := [], eack := true}), by decide +kernel⟩,
    ⟨1, 0, {slot0 with released := true, eack := true}, srv.setSl 1 (slWith {slot0 with released := true, eack := true}), by decide +kernel⟩⟩

theorem test_meets_ReportsRetriesAndTickets :
    (∃ (i : SliceId) (_chk : PassCheck) (p : PortRpt) (rest : List IntMsg) (s : State),
    s.passGo i = true ∧ s.headInt i = some (IntMsg.rpt p, rest))
    ∧ (∃ (_i : SliceId) (_chk : PassCheck) (p : PortRpt) (_s : State) (h : BitVec 16),
    p.htag = some h)
    ∧ (∃ (i : SliceId) (_chk : PassCheck) (p : PortRpt) (s : State) (k : Nat) (e : Entry),
    p.htag = none ∧ s.serves i (bucketOf p.line) = true ∧ (s.sl i).findWay p.line = some (k, e) ∧ (s.purged e).1 = e.holders)
    ∧ (∃ (i : SliceId) (_chk : PassCheck) (rest : List IntMsg) (s : State),
    s.passGo i = true ∧ s.headInt i = some (IntMsg.escRetry, rest))
    ∧ (∃ (i : SliceId) (t : Ticket) (t0 : Nat) (s : State),
    s.passGo i = true ∧ List.find? (fun u => decide (u.agent = t.agent)) (s.sl i).roster = some t ∧ t.since = some t0 ∧ t.shown = false) :=
  ⟨⟨1, okChk, PortRpt.mk (some 0x400) 3 0x12345 .ok true, [], srv.setSl 1 {slWith {slot0 with rpts := [3]} with int := [.rpt (PortRpt.mk (some 0x400) 3 0x12345 .ok true)]}, by decide +kernel⟩,
    ⟨1, okChk, PortRpt.mk (some 0x400) 3 0x12345 .ok true, srv.setSl 1 (slWith {slot0 with rpts := [3]}), 0x400, by decide +kernel⟩,
    ⟨0, okChk, PortRpt.mk none 3 0x12345 .ok true, srv.setSl 0 {Slice.reset with dir := [(16 * (Machine.setOf 0x12345).toNat, some e0)]}, 16 * (Machine.setOf 0x12345).toNat, e0, by decide +kernel⟩,
    ⟨1, okChk, [], srv.setSl 1 {Slice.reset with int := [.escRetry], escSlots := [r0], roster := [Ticket.mk 5 7 2 none false false]}, by decide +kernel⟩,
    ⟨1, Ticket.mk 5 7 2 (some 8) false false, 8, srv.setSl 1 {Slice.reset with roster := [Ticket.mk 5 7 2 (some 8) false false]}, by decide +kernel⟩⟩

theorem test_meets_FinalStatesKeepOneOwner :
    (∃ (op : Op) (q : ReqHdr) (near : Bool) (ok : Bool) (own : Bool) (h : List AgentId),
    own = true → h.length ≤ 1 ∧ (finalOf op q near ok own h).1 = true)
    ∧ (∃ (op : Op) (q : ReqHdr) (near : Bool) (ok : Bool) (own : Bool) (h : List AgentId) (b : AgentId),
    own = true → h.length ≤ 1 ∧ (op = Op.rdOwn ∨ op = Op.wrFull ∨ op = Op.wrKeep ∨ op = Op.wrPartial ∨ op = Op.hatom) ∧ b ∈ (finalOf op q near ok own h).2)
    ∧ (∃ (op : Op) (q : ReqHdr) (_near : Bool) (_ok : Bool) (own : Bool) (h : List AgentId) (b : AgentId),
    own = true → h.length ≤ 1 ∧ (op = Op.rdOwn ∨ op = Op.wrFull ∨ op = Op.wrKeep ∨ op = Op.wrPartial ∨ op = Op.hatom) ∧ b ∈ h ∧ b ≠ q.agent) :=
  ⟨⟨.rdOwn, q0, false, true, true, [9], by decide +kernel⟩,
    ⟨.rdOwn, q0, false, true, true, [9], (5 : AgentId), by decide +kernel⟩,
    ⟨.hatom, q0, true, true, false, [9,5,11], (11 : AgentId), by decide +kernel⟩⟩

theorem test_meets_CastStorePassesReachTheirEntry :
    (∃ (i : SliceId) (_chk : PassCheck) (t : Nat) (addr : Line) (rd : BucketRead) (rest : List IntMsg) (s : State),
    s.passGo i = true ∧ s.headInt i = some (IntMsg.castRd t addr rd, rest) ∧ (s.sl i).isHand t = false)
    ∧ (∃ (i : SliceId) (_chk : PassCheck) (t : Nat) (addr : Line) (rd : BucketRead) (rest : List IntMsg) (s : State),
    s.passGo i = true ∧ s.headInt i = some (IntMsg.castRd t addr rd, rest) ∧ (s.sl i).isHand t = true)
    ∧ (∃ (i : SliceId) (_chk : PassCheck) (c : CastCmd) (st : MemStatus) (rest : List IntMsg) (s : State),
    s.passGo i = true ∧ s.headInt i = some (IntMsg.castWr c st, rest))
    ∧ (∃ (_i : SliceId) (_chk : PassCheck) (t : Nat) (_addr : Line) (_rd : BucketRead) (_s : State),
    18 ≤ t)
    ∧ (∃ (i : SliceId) (chk : PassCheck) (t : Nat) (_addr : Line) (_rd : BucketRead) (v : Transit) (s : State),
    t < 16 ∧ (s.sl i).tr t = some v ∧ chk.transit = Ecc.clean ∧ v.reads - 1 ≠ 0)
    ∧ (∃ (i : SliceId) (chk : PassCheck) (t : Nat) (_addr : Line) (_rd : BucketRead) (v : Transit) (s : State),
    t < 16 ∧ (s.sl i).tr t = some v ∧ chk.transit = Ecc.clean ∧ v.reads - 1 = 0 ∧ v.kind ≠ TKind.spill)
    ∧ (∃ (i : SliceId) (chk : PassCheck) (t : Nat) (_addr : Line) (_rd : BucketRead) (v : Transit) (s : State),
    t < 16 ∧ (s.sl i).tr t = some v ∧ chk.transit = Ecc.clean ∧ v.reads - 1 = 0 ∧ v.kind = TKind.spill)
    ∧ (∃ (i : SliceId) (_t : Nat) (v : Transit) (addr : Line) (d : LineData) (s : State),
    (recAt d 0).st = 0 ∧ (recAt d 1).bad = false ∧ s.portBounces (portOf addr) = false ∧ (v.e.holders.length ≤ 16 ∨ v.annex ≠ none) ∧ (s.sl i).lockOf addr ≠ some 17)
    ∧ (∃ (_i : SliceId) (_chk : PassCheck) (_c : CastCmd) (st : MemStatus) (_s : State),
    st = MemStatus.ok)
    ∧ (∃ (_i : SliceId) (_chk : PassCheck) (c : CastCmd) (st : MemStatus) (s : State),
    st ≠ MemStatus.ok ∧ c.again = false ∧ s.portBounces (portOf c.addr) = false)
    ∧ (∃ (_i : SliceId) (_chk : PassCheck) (c : CastCmd) (st : MemStatus) (s : State),
    st ≠ MemStatus.ok ∧ c.again = true ∧ s.held = false) :=
  ⟨⟨1, okChk, 0, 9, {status := .ok, data := 0}, [], srv.setSl 1 {Slice.reset with int := [.castRd 0 9 {status := .ok, data := 0}], transit := [(0, some (tr0 .fetch))]}, by decide +kernel⟩,
    ⟨1, okChk, 0, 9, {status := .ok, data := 0}, [], srv.setSl 1 {Slice.reset with int := [.castRd 0 9 {status := .ok, data := 0}], transit := [(0, some (tr0 .spill))]}, by decide +kernel⟩,
    ⟨1, okChk, cc0, .ok, [], srv.setSl 1 {Slice.reset with int := [.castWr cc0 .ok], transit := [(0, some (tr0 .update))]}, by decide +kernel⟩,
    ⟨1, okChk, 18, 9, {status := .ok, data := 0}, srv, by decide +kernel⟩,
    ⟨1, okChk, 0, 9, {status := .ok, data := 0}, tr0 .fetch, srv.setSl 1 {Slice.reset with transit := [(0, some (tr0 .fetch))]}, by decide +kernel⟩,
    ⟨1, okChk, 0, 9, {status := .ok, data := 0}, {tr0 .fetch with reads := 1}, srv.setSl 1 {Slice.reset with transit := [(0, some ({tr0 .fetch with reads := 1}))]}, by decide +kernel⟩,
    ⟨1, okChk, 15, 9, {status := .ok, data := 0}, {tr0 .spill with reads := 1, phase := 1}, srv.setSl 1 {Slice.reset with transit := [(15, some {tr0 .spill with reads := 1, phase := 1})]}, by decide +kernel⟩,
    ⟨1, 0, {tr0 .spill with reads := 1, phase := 1}, 9, 0, srv.setSl 1 {Slice.reset with inserting := some 0, transit := [(0, some {tr0 .spill with reads := 1, phase := 1})]}, by decide +kernel⟩,
    ⟨1, okChk, cc0, .ok, srv.setSl 1 {Slice.reset with transit := [(0, some (tr0 .update))]}, by decide +kernel⟩,
    ⟨1, okChk, cc0, .error, srv.setSl 1 {Slice.reset with transit := [(0, some (tr0 .update))]}, by decide +kernel⟩,
    ⟨1, okChk, {cc0 with again := true}, .error, srv.setSl 1 {Slice.reset with transit := [(0, some (tr0 .update))]}, by decide +kernel⟩⟩

theorem test_meets_RecallsAndRecoveriesStart :
    (∃ (i : SliceId) (_chk : PassCheck) (t : Nat) (rest : List IntMsg) (s : State),
    s.passGo i = true ∧ s.headInt i = some (IntMsg.recallStart t, rest))
    ∧ (∃ (i : SliceId) (_chk : PassCheck) (l : Line) (mkr : Option (BitVec 32)) (rest : List IntMsg) (s : State),
    s.passGo i = true ∧ s.headInt i = some (IntMsg.recoverStart l mkr, rest))
    ∧ (∃ (i : SliceId) (chk : PassCheck) (t : Nat) (v : Transit) (s : State) (n : Nat),
    (s.sl i).tr t = some v ∧ chk.transit = Ecc.clean ∧ (s.sl i).slotFor v.e.line Busy.recall = some n)
    ∧ (∃ (i : SliceId) (chk : PassCheck) (t : Nat) (v : Transit) (s : State),
    (s.sl i).tr t = some v ∧ chk.transit = Ecc.clean ∧ (s.sl i).slotFor v.e.line Busy.recall = none)
    ∧ (∃ (i : SliceId) (_chk : PassCheck) (l : Line) (_mkr : Option (BitVec 32)) (s : State) (n : Nat) (t : Nat),
    (s.sl i).slotFor l Busy.recover = some n ∧ (s.sl i).freeTr = some t ∧ (s.sl i).recoveries < 2)
    ∧ (∃ (i : SliceId) (_chk : PassCheck) (l : Line) (_mkr : Option (BitVec 32)) (s : State),
    ((s.sl i).slotFor l Busy.recover = none ∨ (s.sl i).freeTr = none)) :=
  ⟨⟨1, okChk, 0, [], srv.setSl 1 {Slice.reset with int := [.recallStart 0], transit := [(0, some (tr0 .spill))]}, by decide +kernel⟩,
    ⟨1, okChk, 0x12345, none, [], srv.setSl 1 {Slice.reset with int := [.recoverStart 0x12345 none]}, by decide +kernel⟩,
    ⟨1, okChk, 0, tr0 .spill, srv.setSl 1 {Slice.reset with transit := [(0, some (tr0 .spill))]}, 0, by decide +kernel⟩,
    ⟨1, okChk, 0, tr0 .spill, srv.setSl 1 {full with transit := [(0, some (tr0 .spill))]}, by decide +kernel, by decide +kernel, full_slotFor _⟩,
    ⟨1, okChk, 0x12345, none, srv, 0, 0, by decide +kernel⟩,
    ⟨1, okChk, 0x12345, none, srv.setSl 1 {Slice.reset with transit := (List.range 16).map (fun k => (k, some (tr0 .fetch)))}, by decide +kernel⟩⟩

theorem test_meets_ScansAndScrubsStep :
    (∃ (i : SliceId) (_chk : PassCheck) (_finds : List (BitVec 4 × Ecc)) (s : State),
    s.bgGo i = true ∧ (s.sl i).swept ≠ [])
    ∧ (∃ (i : SliceId) (_chk : PassCheck) (_finds : List (BitVec 4 × Ecc)) (_bad : List (BitVec 20)) (s : State),
    s.bgGo i = true ∧ s.level < 2)
    ∧ (∃ (i : SliceId) (s : State),
    (s.sl i).swept ≠ [] ∧ (s.sl i).scanPos < 4096)
    ∧ (∃ (i : SliceId) (s : State),
    (s.sl i).swept ≠ [] ∧ 4096 ≤ (s.sl i).scanPos ∧ ((s.sl i).scanPos - 4096) % s.perPart < s.castN ∧ s.scans i (BitVec.ofNat 12 (((s.sl i).scanPos - 4096) / s.perPart)) = true ∧ (s.sl i).scanned 20 (s.castAddr (BitVec.ofNat 12 (((s.sl i).scanPos - 4096) / s.perPart)).toNat (1 + ((s.sl i).scanPos - 4096) % s.perPart)) = none ∧ ((s.sl i).scanOf 20).out = 0)
    ∧ (∃ (i : SliceId) (s : State),
    (s.sl i).swept ≠ [] ∧ 4096 ≤ (s.sl i).scanPos ∧ (s.castN ≤ ((s.sl i).scanPos - 4096) % s.perPart ∨ s.scans i (BitVec.ofNat 12 (((s.sl i).scanPos - 4096) / s.perPart)) = false))
    ∧ (∃ (i : SliceId) (k : Nat) (e : Entry) (s : State) (t : State),
    (s.purged e).1 ≠ [] ∧ (s.sl i).way k = some e ∧ ((s.sl i).runFor (some e) (s.purged e).1).isSome = true ∧ s.sweepEntry i k e = some t)
    ∧ (∃ (i : SliceId) (c : BitVec 20) (s : State),
    c.toNat / 256 = (s.sl i).scrubSet.toNat ∧ (s.sl i).rebuild.isSome = true)
    ∧ (∃ (i : SliceId) (set : BitVec 12) (w : BitVec 4) (e : Entry) (s : State),
    (s.sl i).way (set.toNat * 16 + w.toNat) = some e ∧ s.addrOk i e.line = true) :=
  ⟨⟨0, okChk, [], srv.setSl 0 {Slice.reset with swept := [Swept.mk 5 0 true []]}, by decide +kernel⟩,
    ⟨1, okChk, [], [], srv.setSl 1 {Slice.reset with scrubSet := 0xFFF}, by decide +kernel⟩,
    ⟨0, srv.setSl 0 {Slice.reset with swept := [Swept.mk 5 0 true []], scanPos := 4095}, by decide +kernel⟩,
    ⟨0, srv.setSl 0 {Slice.reset with swept := [Swept.mk 5 0 true []], scanPos := 4096}, by decide +kernel⟩,
    ⟨1, srv.setSl 1 {Slice.reset with swept := [Swept.mk 5 0 true []], scanPos := 4096}, by decide +kernel⟩,
    ⟨0, swK, swE, swS, (swS.sweepEntry 0 swK swE).get (by decide +kernel), by decide +kernel, by decide +kernel, by decide +kernel, (Option.some_get _).symm⟩,
    ⟨1, 5, srv.setSl 1 {Slice.reset with rebuild := some 0, rsvs := [Rsv.mk 5 9 0]}, by decide +kernel⟩,
    ⟨0, Machine.setOf 0x12345, 0, e0, srv.setSl 0 {Slice.reset with rsvs := [Rsv.mk 5 9 0], dir := [(16 * (Machine.setOf 0x12345).toNat, some e0)]}, by decide +kernel⟩⟩

theorem test_meets_RebuildsAdmissionsAndClocks :
    (∃ (i : SliceId) (_chk : PassCheck) (s : State),
    s.bgGo i = true ∧ s.level < 2 ∧ (s.sl i).rebuild.isSome = true)
    ∧ (∃ (i : SliceId) (b : BitVec 12) (_chk : PassCheck) (s : State),
    s.bgGo i = true ∧ s.level < 2 ∧ s.scans i b = true)
    ∧ (∃ (i : SliceId) (pos : Nat) (s : State),
    (s.sl i).rebuild = some pos ∧ s.rebuildAt i pos = none)
    ∧ (∃ (i : SliceId) (pos : Nat) (s : State) (p : Nat),
    (s.sl i).rebuild = some pos ∧ s.rebuildAt i pos = some p ∧ (s.sl i).scanned 18 (s.rebuildAddr p) = none ∧ ((s.sl i).scanOf 18).out = 0)
    ∧ (∃ (i : SliceId) (pos : Nat) (s : State) (p : Nat) (q : Nat) (rd : BucketRead),
    (s.sl i).rebuild = some pos ∧ s.rebuildAt i pos = some p ∧ s.rebuildAt i (p + 1) = some q ∧ (s.sl i).scanned 18 (s.rebuildAddr p) = some rd ∧ (s.sl i).bucketBusy (s.rebuildAddr p) = false ∧ readLoses rd s.gen = false)
    ∧ (∃ (i : SliceId) (b : BitVec 12) (p : Bypass) (rd : BucketRead) (s : State),
    List.find? (fun q => decide (q.bucket = b)) (s.sl i).bypass = some p ∧ (s.sl i).scanned (32 + b.toNat) (s.castAddr b.toNat (1 + p.next)) = some rd ∧ (s.sl i).bucketBusy (s.castAddr b.toNat (1 + p.next)) = false ∧ readLoses rd s.gen = false)
    ∧ (∃ (i : SliceId) (s : State),
    16384 ≤ (s.sl i).lookups)
    ∧ (∃ (i : SliceId) (s : State),
    s.passGo i = true ∧ (s.sl i).decayPos = none)
    ∧ (∃ (i : SliceId) (s : State) (k : Nat),
    s.passGo i = true ∧ (s.sl i).decayPos = some k)
    ∧ (∃ (i : SliceId) (s : State),
    s.passGo i = true ∧ s.bgPending i = true) :=
  ⟨⟨1, okChk, srv.setSl 1 {Slice.reset with rebuild := some 0}, by decide +kernel⟩,
    ⟨0, 3, okChk, srv.setSl 0 {Slice.reset with bypass := [Bypass.mk 3 0]}, by decide +kernel⟩,
    ⟨1, 0, srv.setSl 1 {Slice.reset with rebuild := some 0}, by decide +kernel⟩,
    ⟨0, 0, srv.setSl 0 {Slice.reset with rebuild := some 0}, 0, by decide +kernel⟩,
    ⟨0, 0, srv.setSl 0 {Slice.reset with rebuild := some 0, scanRds := [(18, ScanRd.mk 0 [(srv.rebuildAddr 0, {status := .ok, data := 0})])]}, 0, 1, {status := .ok, data := 0}, by decide +kernel⟩,
    ⟨0, 3, Bypass.mk 3 0, {status := .ok, data := 0}, srv.setSl 0 {Slice.reset with bypass := [Bypass.mk 3 0], scanRds := [(35, ScanRd.mk 0 [(srv.castAddr 3 1, {status := .ok, data := 0})])]}, by decide +kernel⟩,
    ⟨1, srv.setSl 1 {Slice.reset with lookups := 16385, ageClock := 15}, by decide +kernel⟩,
    ⟨1, srv.setSl 1 {Slice.reset with pred := [(5, 7), (9, 1)]}, by decide +kernel⟩,
    ⟨1, srv.setSl 1 {Slice.reset with pred := [(5, 7), (9, 1)], decayPos := some 5}, 5, by decide +kernel⟩,
    ⟨1, srv.setSl 1 {Slice.reset with new := [r0]}, by decide +kernel⟩⟩

theorem test_meets_ReadsAreServed :
    (∃ (m : PortId) (c : MemCmd) (rest : List MemCmd) (s : State) (k : Nat) (w : Way),
    s.runs = true ∧ (s.mp m).intake = c :: rest ∧ c.op = MemOp.read ∧ (s.mp m).pendingLine c.line = false ∧ (s.mp m).hmode ≠ HMode.disabled ∧ (s.mp m).findHway c.line = some (k, w))
    ∧ (∃ (m : PortId) (c : MemCmd) (rest : List MemCmd) (s : State) (_par : Parity),
    s.runs = true ∧ (s.mp m).intake = c :: rest ∧ c.op = MemOp.read ∧ (s.mp m).pendingLine c.line = false ∧ ((s.mp m).hmode = HMode.disabled ∨ (s.mp m).findHway c.line = none)) :=
  ⟨⟨3, c0, [], onPort 3 {p0 with intake := [c0], ways := [(k0, some way0)]}, k0, way0, by decide +kernel⟩,
    ⟨3, c0, [], onPort 3 {p0 with intake := [c0]}, (.good : Parity), by decide +kernel⟩⟩

theorem test_meets_WritesLand :
    (∃ (m : PortId) (c : MemCmd) (rest : List MemCmd) (s : State) (b : WBeat),
    s.runs = true ∧ (s.mp m).intake = c :: rest ∧ c.op = MemOp.write ∧ (s.mp m).pendingLine c.line = false ∧ s.canWrite m c = true ∧ c.poison = false ∧ (s.mp m).beatOf c = some b)
    ∧ (∃ (m : PortId) (c : MemCmd) (rest : List MemCmd) (s : State),
    s.runs = true ∧ (s.mp m).intake = c :: rest ∧ c.op = MemOp.write ∧ (s.mp m).pendingLine c.line = false ∧ s.canWrite m c = true ∧ c.poison = true)
    ∧ (∃ (m : PortId) (c : MemCmd) (rest : List MemCmd) (b : WBeat) (_par : Parity) (s : State),
    s.runs = true ∧ (s.mp m).intake = c :: rest ∧ c.op = MemOp.wpartial ∧ (s.mp m).pendingLine c.line = false ∧ (s.mp m).beatOf c = some b ∧ b.w.be = 0)
    ∧ (∃ (m : PortId) (c : MemCmd) (rest : List MemCmd) (b : WBeat) (_par : Parity) (s : State),
    s.runs = true ∧ (s.mp m).intake = c :: rest ∧ c.op = MemOp.wpartial ∧ (s.mp m).pendingLine c.line = false ∧ (s.mp m).beatOf c = some b ∧ b.w.be = BitVec.allOnes 64 ∧ s.canWrite m c = true)
    ∧ (∃ (m : PortId) (c : MemCmd) (rest : List MemCmd) (b : WBeat) (_par : Parity) (s : State),
    s.runs = true ∧ (s.mp m).intake = c :: rest ∧ c.op = MemOp.wpartial ∧ (s.mp m).pendingLine c.line = false ∧ (s.mp m).beatOf c = some b ∧ b.w.be ≠ 0 ∧ b.w.be ≠ BitVec.allOnes 64 ∧ s.canMerge m c = true)
    ∧ (∃ (m : PortId) (c : MemCmd) (rest : List MemCmd) (b : WBeat) (_par : Parity) (s : State),
    s.runs = true ∧ (s.mp m).intake = c :: rest ∧ c.op = MemOp.atomic ∧ (s.mp m).atomBusy = false ∧ (s.mp m).pendingLine c.line = false ∧ (s.mp m).beatOf c = some b ∧ s.canMerge m c = true)
    ∧ (∃ (m : PortId) (c : MemCmd) (_d : LineData) (_psn : Bool) (early : Bool) (s : State) (k : Nat) (km : Nat),
    s.held = false ∧ s.absorbs m early = true ∧ (s.mp m).absorbPlan c.line = some (k, km) ∧ km ≠ k ∧ km / 16 = k / 16)
    ∧ (∃ (m : PortId) (_c : MemCmd) (_d : LineData) (_psn : Bool) (early : Bool) (s : State),
    s.held = false ∧ s.absorbs m early = false)
    ∧ (∃ (_d : LineData) (_w : LineData) (_be : BitVec 64) (k : Nat),
    k < 64) :=
  ⟨⟨3, {c0 with op := .write}, [], onPort 3 {p0 with intake := [{c0 with op := .write}], beats := [b0]}, b0, by decide +kernel⟩,
    ⟨3, {c0 with op := .write, poison := true}, [], onPort 3 {p0 with intake := [{c0 with op := .write, poison := true}]}, by decide +kernel⟩,
    ⟨3, {c0 with op := .wpartial}, [], {b0 with w := {w0 with be := 0}}, .good, onPort 3 {p0 with intake := [{c0 with op := .wpartial}], beats := [{b0 with w := {w0 with be := 0}}]}, by decide +kernel⟩,
    ⟨3, {c0 with op := .wpartial}, [], b0, .good, onPort 3 {p0 with intake := [{c0 with op := .wpartial}], beats := [b0]}, by decide +kernel⟩,
    ⟨3, {c0 with op := .wpartial}, [], {b0 with w := {w0 with be := 1}}, .good, onPort 3 {p0 with intake := [{c0 with op := .wpartial}], beats := [{b0 with w := {w0 with be := 1}}]}, by decide +kernel⟩,
    ⟨3, {c0 with op := .atomic}, [], b0, .good, onPort 3 {p0 with intake := [{c0 with op := .atomic}], beats := [b0]}, by decide +kernel⟩,
    ⟨3, c0, 0x77, true, true, onPort 3 p0, k0, k0 + 1, by decide +kernel⟩,
    ⟨3, c0, 0x77, false, true, onPort 3 {p0 with hmode := .disabled}, by decide +kernel⟩,
    ⟨0x1122, 0x99AA, 2, 1, by decide +kernel⟩⟩

theorem test_meets_TheMemorySideIsAskedAndAnswers :
    (∃ (m : PortId) (c : CastCmd) (s : State),
    s.runs = true ∧ pickCast (s.mp m).castCmds (s.mp m).castIn = some c)
    ∧ (∃ (m : PortId) (c : MCmd) (n : Nat) (s : State),
    let u := s.modMp m (fun p => { p with
      tokens := min 4096 (p.tokens + s.fld ⟨0x4C004, 8, 8⟩), scanTokens := min 4096 (p.scanTokens + s.fld ⟨0x4C004, 8, 8⟩),
      sweepTokens := min 4096 (p.sweepTokens + s.fld ⟨0x4C004, 8, 8⟩) })
    let v := if s.prefetchOn m then u else u.modMp m Port.noPrefetch
    let ready := (v.mp m).waitq.filter (v.canIssue m)
    mostUrgent (!(v.mp m).wbLast && ready.any MCmd.urgentBack) ready = some c
      ∧ (List.range 256).find? (fun k => (Store.get none (s.mp m).outq k).isNone) = some n
      ∧ ∀ y again, c.why = .back y again → ((s.mp m).findHway c.line).isSome = true)
    ∧ (∃ (m : PortId) (ctag : BitVec 8) (_st : MemStatus) (_d : LineData) (c : MCmd) (s : State) (q : MemCmd),
    s.held = false ∧ (s.mp m).win = WinSt.none ∧ Store.get none (s.mp m).outq ctag.toNat = some c ∧ c.why = Purpose.demandRead q)
    ∧ (∃ (m : PortId) (ctag : BitVec 8) (_st : MemStatus) (_d : LineData) (c : MCmd) (s : State) (q : CastCmd),
    s.held = false ∧ (s.mp m).win = WinSt.none ∧ Store.get none (s.mp m).outq ctag.toNat = some c ∧ c.why = Purpose.castRd q)
    ∧ (∃ (m : PortId) (ctag : BitVec 8) (_st : MemStatus) (c : MCmd) (s : State) (q : MemCmd) (old : Option (LineData × Bool)),
    s.held = false ∧ (s.mp m).win = WinSt.none ∧ Store.get none (s.mp m).outq ctag.toNat = some c ∧ c.why = Purpose.through q false old)
    ∧ (∃ (m : PortId) (ctag : BitVec 8) (_st : MemStatus) (c : MCmd) (s : State) (q : CastCmd),
    s.held = false ∧ (s.mp m).win = WinSt.none ∧ Store.get none (s.mp m).outq ctag.toNat = some c ∧ c.why = Purpose.castWr q)
    ∧ (∃ (m : PortId) (ctag : BitVec 8) (_st : MemStatus) (c : MCmd) (s : State) (la : AttId) (e : BitVec 2),
    s.held = false ∧ (s.mp m).win = WinSt.none ∧ Store.get none (s.mp m).outq ctag.toNat = some c ∧ c.why = Purpose.fence la e ∧ s.attBounces la = false)
    ∧ (∃ (m : PortId) (ctag : BitVec 8) (st : MemStatus) (d : LineData) (opc : BitVec 4) (i : Instr) (s : State),
    i = Instr.mrdataBeat m ctag st d ∧ ((Option.map (fun x => x.isRead) (Store.get none (s.mp m).outq ctag.toNat)).getD false = false ∨ i = Instr.cmpl m ctag st) ∧ ((Option.map (fun x => x.isRead) (Store.get none (s.mp m).outq ctag.toNat)).getD true = true ∨ i = Instr.unlistedMrespWord m opc) ∧ opc ≠ 1 ∧ opc ≠ 2) :=
  ⟨⟨3, cc0, onPort 3 {p0 with castIn := [cc0]}, by decide +kernel⟩,
    ⟨3, mc0, 0, onPort 3 {p0 with waitq := [mc0]}, by decide +kernel, by decide +kernel, nofun⟩,
    ⟨3, 0, .ok, 0x66, mc0, onPort 3 {p0 with outq := [(0, some mc0)]}, c0, by decide +kernel⟩,
    ⟨3, 0, .ok, 0x66, {mc0 with why := .castRd {cc0 with data := none}, data := none}, onPort 3 {p0 with outq := [(0, some {mc0 with why := .castRd {cc0 with data := none}, data := none})]}, {cc0 with data := none}, by decide +kernel⟩,
    ⟨3, 0, .ok, {mc0 with why := .through {c0 with op := .write} false none, data := some (0x55, false)}, onPort 3 {p0 with outq := [(0, some {mc0 with why := .through {c0 with op := .write} false none, data := some (0x55, false)})]}, {c0 with op := .write}, none, by decide +kernel⟩,
    ⟨3, 0, .ok, {mc0 with why := .castWr cc0, data := some (0x77, false)}, onPort 3 {p0 with outq := [(0, some {mc0 with why := .castWr cc0, data := some (0x77, false)})]}, cc0, by decide +kernel⟩,
    ⟨3, 0, .ok, {mc0 with why := .fence 2 1, data := none}, onPort 3 {p0 with outq := [(0, some {mc0 with why := .fence 2 1, data := none})]}, 2, 1, by decide +kernel⟩,
    ⟨3, 7, .ok, 0x66, 0, .mrdataBeat 3 7 .ok 0x66, srv, by decide +kernel⟩⟩

theorem test_meets_Windows :
    (∃ (m : PortId) (_kind : WKind) (_pair : Bool) (_wlen : BitVec 11) (s : State),
    (s.mp m).win = WinSt.none)
    ∧ (∃ (m : PortId) (_kind : WKind) (_pair : Bool) (_wlen : BitVec 11) (s : State),
    (s.mp m).win ≠ WinSt.none)
    ∧ (∃ (m : PortId) (r : WinReq) (s : State),
    (s.mp m).winReq = some r ∧ r.starv = false)
    ∧ (∃ (m : PortId) (r : WinReq) (s : State),
    s.winPick = some (m, r) ∧ r.pair = false ∧ (s.mp m).drained = false)
    ∧ (∃ (m : PortId) (r : WinReq) (s : State),
    s.winPick = some (m, r) ∧ r.pair = false ∧ (s.mp m).drained = true)
    ∧ (∃ (m : PortId) (t0 : Nat) (wlen : Nat) (owner : Bool) (s : State),
    (s.mp m).win = WinSt.drain t0 wlen false owner ∧ (s.mp m).drained = false)
    ∧ (∃ (m : PortId) (t0 : Nat) (wlen : Nat) (owner : Bool) (s : State),
    (s.mp m).win = WinSt.drain t0 wlen false owner ∧ (s.mp m).drained = true)
    ∧ (∃ (m : PortId) (o : Nat) (wlen : Nat) (s : State),
    (s.mp m).win = WinSt.window o wlen) :=
  ⟨⟨3, .zq, false, 0, srv, by decide +kernel⟩,
    ⟨3, .zq, false, 100, onPort 3 {p0 with win := .window 5 100}, by decide +kernel⟩,
    ⟨3, win0, onPort 3 {p0 with winReq := some win0}, by decide +kernel⟩,
    ⟨3, win0, onPort 3 {p0 with winReq := some win0, outq := [(0, some mc0)]}, by decide +kernel⟩,
    ⟨3, win0, onPort 3 {p0 with winReq := some win0}, by decide +kernel⟩,
    ⟨3, 5, 100, true, onPort 3 {p0 with win := .drain 5 100 false true, winReq := some win0, outq := [(0, some mc0)]}, by decide +kernel⟩,
    ⟨3, 5, 100, false, onPort 3 {p0 with win := .drain 5 100 false false}, by decide +kernel⟩,
    ⟨3, 5, 100, onPort 3 {p0 with win := .window 5 100, outq := [(0, some {mc0 with why := .grant})]}, by decide +kernel⟩⟩

theorem test_meets_FencesSweepEveryPort :
    (∃ (m : PortId) (f : JoinedFence) (rest : List JoinedFence) (s : State),
    (s.mp m).sweepReqs = f :: rest ∧ (s.mp m).fences.length < 64)
    ∧ (∃ (m : PortId) (f : JoinedFence) (s : State),
    s.runs = true ∧ f ∈ (s.mp m).fences ∧ f.left ≠ 0 ∧ (s.mp m).sweepPlaces ≤ 10)
    ∧ (∃ (m : PortId) (f : JoinedFence) (s : State),
    s.runs = true ∧ (s.mp m).sweepPlaces < 16 ∧ List.find? (fun f => decide (f.left = 0) && !f.closed && decide (f.rews = [])) (s.mp m).fences = some f)
    ∧ (∃ (la : AttId) (r : FenceRpt) (rest : List FenceRpt) (f : FenceEntry) (s : State),
    (s.att la).reports = r :: rest ∧ Store.get none (s.att la).fences r.entry.toNat = some f ∧ r.port ∉ f.ports ∧ f.ports.length < 31)
    ∧ (∃ (la : AttId) (r : FenceRpt) (rest : List FenceRpt) (f : FenceEntry) (s : State),
    (s.att la).reports = r :: rest ∧ Store.get none (s.att la).fences r.entry.toNat = some f ∧ r.port ∉ f.ports ∧ f.ports.length = 31 ∧ f.dead = false ∧ (s.att la).waitIn = []) :=
  ⟨⟨3, jf0, [], onPort 3 {p0 with sweepReqs := [jf0]}, by decide +kernel⟩,
    ⟨3, jf0, onPort 3 {p0 with fences := [jf0], sweepPos := hsetOf 0x12345, ways := [(k0, some way0), (k0+1, some {way0 with st := .mirror, mway := 0})]}, by decide +kernel⟩,
    ⟨3, {jf0 with left := 0}, onPort 3 {p0 with fences := [{jf0 with left := 0}]}, by decide +kernel⟩,
    ⟨2, FenceRpt.mk 1 3 true, [], fe0, srv.setAtt 2 {at0 with fences := [(1, some fe0)], reports := [FenceRpt.mk 1 3 true]}, by decide +kernel⟩,
    ⟨2, FenceRpt.mk 1 31 true, [], {fe0 with ports := allPorts.take 31}, srv.setAtt 2 {at0 with fences := [(1, some {fe0 with ports := allPorts.take 31})], reports := [FenceRpt.mk 1 31 true]}, by decide +kernel⟩⟩

theorem test_meets_HomeLineBufferUpkeep :
    (∃ (m : PortId) (s : State),
    s.runs = true ∧ (s.mp m).agePos < 1024 ∧ ∀ (o w : Nat), (s.mp m).win ≠ WinSt.window o w)
    ∧ (∃ (m : PortId) (s : State),
    s.runs = true ∧ s.level < 2 ∧ (s.mp m).hmode ≠ HMode.disabled)
    ∧ (∃ (m : PortId) (_op : BitVec 2) (_setway : Bool) (_all : Bool) (s : State),
    s.fwUp = true ∧ (s.mp m).gate = GateSt.opened ∧ (s.mp m).maint = none)
    ∧ (∃ (m : PortId) (x : Maint) (s : State),
    s.runs = true ∧ (s.mp m).maint = some x ∧ (s.mp m).busySet (BitVec.ofNat 10 x.next) = false ∧ (x.setway = false ∨ x.all = true) ∧ x.next < 1024)
    ∧ (∃ (m : PortId) (s : State),
    s.fwUp = true ∧ (s.mp m).gate = GateSt.opened ∧ (s.mp m).hmode = HMode.enabled ∧ ∀ e ∈ (s.mp m).wayList, e.2.owes = false) :=
  ⟨⟨3, onPort 3 {p0 with epoch := 15, agePos := (hsetOf 0x12345).toNat, ways := [(k0, some way0), (k0+1, some {way0 with st := .mirror, mway := 0})]}, ⟨by decide +kernel, by decide +kernel, fun o w h => by cases (show WinSt.none = WinSt.window o w from h)⟩⟩,
    ⟨3, onPort 3 {p0 with scrubSet := 1023}, by decide +kernel⟩,
    ⟨3, 3, true, false, onPort 3 p0, by decide +kernel⟩,
    ⟨3, Maint.mk 0 false true 0 0 0 0 5 [], onPort 3 {p0 with maint := some (Maint.mk 0 false true 0 0 0 0 5 [])}, by decide +kernel⟩,
    ⟨3, onPort 3 p0, by decide +kernel⟩⟩

theorem test_meets_Calibration :
    (∃ (i : SliceId) (a : AgentId) (rtt : Nat) (t0 : Nat) (rest : List (Obs (AgentId × Nat × Nat))) (s : State),
    (s.sl i).calQ = Obs.item (a, rtt, t0) :: rest ∧ t0 < s.calAt ∧ s.mode ≠ Mode.hold)
    ∧ (∃ (s : State),
    s.mode ≠ Mode.hold ∧ s.mode ≠ Mode.off ∧ s.mode ≠ Mode.rest ∧ s.fld {addr := 393216, lo := 4, len := 10} ≠ 0) :=
  ⟨⟨1, 5, 777, 0, [], {srv.setSl 1 {Slice.reset with calQ := [.item (5, 777, 0)]} with calAt := 1000}, by decide +kernel⟩,
    ⟨srv.putF ⟨0x60000, 4, 10⟩ 100, by decide +kernel⟩⟩

theorem test_meets_FlitsAreCheckedAndReplayed :
    (∃ (i : Fin 80) (l : LinkPort) (p : Bool) (f : Flit) (err : Flit) (rest : List Flit) (s : State),
    linkPresent (i) l = true ∧ l ≠ LinkPort.loc ∧ ((s.router (LinkPort.neighbour (i) l)).txAt (linkKey l.opposite p)).wire = f :: rest ∧ (f.flip err).crc ≠ (f.flip err).crcField ∧ ((s.router i).rxAt (linkKey l p)).skip = false)
    ∧ (∃ (i : Fin 80) (l : LinkPort) (p : Bool) (f : Flit) (err : Flit) (rest : List Flit) (s : State),
    linkPresent (i) l = true ∧ l ≠ LinkPort.loc ∧ ((s.router (LinkPort.neighbour (i) l)).txAt (linkKey l.opposite p)).wire = f :: rest ∧ (f.flip err).crc = (f.flip err).crcField ∧ (f.flip err).nak = false ∧ (f.flip err).idle = false ∧ (f.flip err).seq = ((s.router i).rxAt (linkKey l p)).expect)
    ∧ (∃ (i : Fin 80) (l : LinkPort) (p : Bool) (q : BitVec 6) (s : State),
    linkPresent (i) l = true ∧ l ≠ LinkPort.loc ∧ ((((s.router i).txAt (linkKey l p)).acked q).replay.any fun f => decide (f.seq = q)) = true)
    ∧ (∃ (i : Fin 80) (l : LinkPort) (p : Bool) (_err : Flit) (n : BitVec 2) (s : State),
    linkPresent (i) l = true ∧ (s.router i).laneFlits (lane8 p n.toNat) = [] ∧ s.held = false) :=
  ⟨⟨11, .e, false, seqFlit 0, {payload := 2, sideband := 0}, [], srv.setRouter 12 {Router.reset with tx := [(linkKey .w false, {LinkTx.reset with wire := [seqFlit 0]})]}, by decide +kernel⟩,
    ⟨11, .e, false, seqFlit 0, {payload := 0, sideband := 0}, [], srv.setRouter 12 {Router.reset with tx := [(linkKey .w false, {LinkTx.reset with wire := [seqFlit 0]})]}, by decide +kernel⟩,
    ⟨11, .n, false, 5, srv.setRouter 11 {Router.reset with tx := [(linkKey .n false, tx0)]}, by decide +kernel⟩,
    ⟨11, .e, false, {payload := 0, sideband := 0}, 1, srv, by decide +kernel⟩⟩

theorem test_meets_RoutersReconfigureAndQueuesReset :
    (∃ (i : Fin 80) (b : BitVec 4) (c : BitVec 4) (s : State),
    (s.router i).reconf = some (b, c) ∧ (s.router i).bufs = [] ∧ (s.router i).owed = [] ∧ (∀ (k : AttId), attRouter k = i → (s.att k).gate ≠ GateSt.opening) ∧ ∀ (m : PortId), portRouter m = i → (s.mp m).gate ≠ GateSt.opening)
    ∧ (∃ (u : QUnit) (q : BitVec 6) (s : State),
    q.toNat < queuesOf u ∧ observes u q.toNat = false ∧ s.held = false)
    ∧ (∃ (u : QUnit) (q : BitVec 6) (_s : State),
    q.toNat < queuesOf u ∧ observes u q.toNat = true)
    ∧ (∃ (s : State),
    s.level < 2)
    ∧ (∃ (b : Bounced) (rest : List Bounced) (s : State) (m : PortId) (c : MemCmd),
    s.mesh.bounced = b :: rest ∧ b = Bounced.cmd m c ∧ s.portBounces m = true) :=
  ⟨⟨11, 3, 9, srv.setRouter 11 {Router.reset with reconf := some (3, 9), reconf2 := some (1, 2)}, by decide +kernel, by decide +kernel, by decide +kernel, by decide +kernel, by decide +kernel⟩,
    ⟨.slice 1, 46, srv, by decide +kernel⟩,
    ⟨.slice 1, 47, srv, by decide +kernel⟩,
    ⟨srv, by decide +kernel⟩,
    ⟨.cmd 3 c0, [], ({srv with mesh := {srv.mesh with bounced := [.cmd 3 c0]}}).setBounce (portRouter 3) 3 true, (3 : PortId), c0, by decide +kernel⟩⟩

theorem test_meets_GatesCloseAndReopen :
    (∃ (k : AttId) (s : State),
    s.fwUp = true ∧ (s.att k).gate = GateSt.opened ∧ s.allAway k = true)
    ∧ (∃ (k : AttId) (s : State),
    s.fwUp = true ∧ (s.att k).gate = GateSt.opened ∧ s.allAway k = false)
    ∧ (∃ (k : AttId) (s : State),
    (s.att k).gateReq = true)
    ∧ (∃ (k : AttId) (s : State),
    (s.att k).gate = GateSt.closing ∧ (s.att k).gateAck = true ∧ (s.att k).quiet = true ∧ s.attBounces k = true)
    ∧ (∃ (k : AttId) (s : State),
    s.fwUp = true ∧ (s.att k).gate = GateSt.drained)
    ∧ (∃ (k : AttId) (s : State),
    s.fwUp = true ∧ (s.att k).gate = GateSt.closing)
    ∧ (∃ (k : AttId) (s : State),
    (s.att k).gate = GateSt.opening ∧ (s.att k).passing = false)
    ∧ (∃ (k : AttId) (i : Fin 80) (b : BitVec 4) (c : BitVec 4) (s : State),
    i = attRouter k ∧ (s.router i).reconf = some (b, c) ∧ (s.router i).bufs = [] ∧ (s.att k).gate = GateSt.opening ∧ (s.att k).passing = true ∧ b.getLsbD (BitVec.toNat k % 2) = false) :=
  ⟨⟨2, (withAg .serve .absent).setAtt 2 at0, by decide +kernel⟩,
    ⟨2, srv, by decide +kernel⟩,
    ⟨2, srv.setAtt 2 {at0 with gate := .closing, gateReq := true}, by decide +kernel⟩,
    ⟨2, (srv.setAtt 2 {at0 with gate := .closing, gateReq := true, gateAck := true}).setBounce (attRouter 2) 0 true, by decide +kernel⟩,
    ⟨2, (srv.setAtt 2 {at0 with gate := .drained}).putF (Fld.la 2 0x150 0 1) 1, by decide +kernel⟩,
    ⟨2, (srv.setAtt 2 {at0 with gate := .closing}).putF (Fld.la 2 0x150 0 1) 1, by decide +kernel⟩,
    ⟨2, (srv.setAtt 2 {at0 with gate := .opening}).setBounce (attRouter 2) 0 true, by decide +kernel⟩,
    ⟨2, ⟨attRouter 2, by decide⟩, 2, 0, (srv.setAtt 2 {at0 with gate := .opening, passing := true}).setRouter (attRouter 2) {Router.reset with bounce := 3, reconf := some (2, 0)}, by decide +kernel⟩⟩

theorem test_meets_QuiesceDrains :
    (∃ (s : State),
    s.fwUp = true ∧ (s.mode = Mode.serve ∨ s.mode = Mode.shed))
    ∧ (∃ (s : State),
    s.fwUp = true ∧ s.mode = Mode.quiesce ∧ s.modes.restPhase = 0 ∧ s.level ≠ 5 ∧ s.modes.restReqd = false ∧ s.modes.warm = none ∧ s.modes.pwrFail = false)
    ∧ (∃ (s : State),
    s.mode = Mode.quiesce ∧ s.modes.restLimit = false ∧ s.modes.restPhase ≠ 7 ∧ s.modes.drainStep = 1 ∧ s.flowsOut = true)
    ∧ (∃ (s : State),
    s.mode = Mode.quiesce ∧ s.modes.restLimit = false ∧ s.modes.restPhase ≠ 7 ∧ s.modes.drainStep = 3 ∧ s.flushed = true)
    ∧ (∃ (s : State),
    s.mode = Mode.quiesce ∧ s.modes.restLimit = false ∧ s.modes.restPhase ≠ 7 ∧ s.modes.drainStep = 5 ∧ s.cast.writes = 0)
    ∧ (∃ (s : State),
    s.mode = Mode.quiesce ∧ s.modes.restLimit = false ∧ s.modes.restPhase ≠ 7 ∧ s.modes.drainStep = 6 ∧ s.cast.writes = 0)
    ∧ (∃ (s : State),
    s.held = true ∧ s.modes.warm.isSome = true) :=
  ⟨⟨srv.setSl 1 {Slice.reset with rsvs := [Rsv.mk 5 9 0]}, by decide +kernel⟩,
    ⟨mds {ms .quiesce with drained := true, drainStep := 7}, by decide +kernel⟩,
    ⟨mds {ms .quiesce with drainStep := 1}, by decide +kernel⟩,
    ⟨mds {ms .quiesce with drainStep := 3}, by decide +kernel⟩,
    ⟨mds {ms .quiesce with drainStep := 5}, by decide +kernel⟩,
    ⟨mds {ms .quiesce with drainStep := 6}, by decide +kernel⟩,
    ⟨mds {ms .hold with warm := some 5}, by decide +kernel⟩⟩

theorem test_meets_RestIsEntered :
    (∃ (s : State),
    s.portUp = true ∧ (s.mode = Mode.serve ∨ s.mode = Mode.shed) ∧ s.modes.restReqd = false ∧ s.modes.warm = none ∧ s.modes.restPhase ≠ 7 ∧ s.restFails1 = [])
    ∧ (∃ (s : State) (x : Nat × Nat × Nat) (rest : List (Nat × Nat × Nat)),
    s.portUp = true ∧ (s.mode = Mode.serve ∨ s.mode = Mode.shed) ∧ s.modes.restReqd = false ∧ s.modes.warm = none ∧ s.modes.restPhase ≠ 7 ∧ s.restFails1 = x :: rest)
    ∧ (∃ (s : State),
    s.portUp = true ∧ (s.mode = Mode.boot ∨ s.mode = Mode.calibrate ∨ s.mode = Mode.hold))
    ∧ (∃ (_m : BitVec 24) (s : State),
    s.modes.restReqd = true ∧ s.modes.restPhase = 2 ∧ s.modes.drained = true)
    ∧ (∃ (_m : BitVec 24) (s : State),
    s.modes.restReqd = true ∧ s.modes.restPhase = 3 ∧ s.restFails3 = [])
    ∧ (∃ (_m : BitVec 24) (s : State),
    s.modes.restReqd = true ∧ s.modes.restPhase = 4 ∧ ∀ (n : PortId), (s.mp n).saved = true ∧ (s.mp n).saveErr = false)
    ∧ (∃ (_m : BitVec 24) (s : State),
    s.modes.restReqd = true ∧ s.modes.restPhase = 5 ∧ (∀ (k : AttId), (s.att k).gate = GateSt.drained) ∧ ∀ (n : PortId), (s.mp n).gate = GateSt.closing ∧ (s.mp n).quiet = true ∧ s.portBounces n = true)
    ∧ (∃ (_m : BitVec 24) (s : State),
    s.modes.restReqd = true ∧ s.modes.restPhase = 6)
    ∧ (∃ (s : State),
    s.modes.restReqd = true ∧ s.modes.restPhase = 2 ∧ s.modes.drained = true)
    ∧ (∃ (s : State),
    s.modes.restReqd = true ∧ s.modes.restPhase = 2 ∧ s.modes.drained = false) :=
  ⟨⟨srv, by decide +kernel⟩,
    ⟨{srv with cox := {srv.cox with restart := true}}, (4,3,0), [], by decide +kernel⟩,
    ⟨md .boot, by decide +kernel⟩,
    ⟨77, mds {ms .quiesce with restReqd := true, restPhase := 2, drained := true}, by decide +kernel⟩,
    ⟨77, {rdy .quiesce with modes := {ms .quiesce with restReqd := true, restPhase := 3, drained := true}}, by decide +kernel⟩,
    ⟨9, (allPorts.foldl (fun s k => s.setMp k {p0 with saved := true}) (mds {ms .quiesce with restReqd := true, restPhase := 4})), by decide +kernel⟩,
    ⟨9, restGate, by decide +kernel⟩,
    ⟨77, mds {ms .quiesce with restReqd := true, restPhase := 6, drained := true}, by decide +kernel⟩,
    ⟨mds {ms .quiesce with restReqd := true, restPhase := 2, drained := true}, by decide +kernel⟩,
    ⟨mds {ms .quiesce with restReqd := true, restPhase := 2}, by decide +kernel⟩⟩

theorem test_meets_WakesLeaveRest :
    (∃ (a : BitVec 7) (s : State),
    s.mode = Mode.rest ∧ s.pins.wakeOut = false ∧ s.fld {addr := 458784, lo := 7, len := 1} = 1 ∧ a.toNat = s.fld {addr := 458784, lo := 0, len := 7})
    ∧ (∃ (s : State),
    s.mode = Mode.rest ∧ s.pins.wakeOut = false ∧ s.fld {addr := 458784, lo := 8, len := 1} = 1)
    ∧ (∃ (_n : BitVec 48) (s : State),
    s.mode = Mode.rest ∧ s.pins.wakeOut = true ∧ s.modes.warm = none ∧ s.clocksUp = true)
    ∧ (∃ (m : PortId) (i : Fin 80) (b : BitVec 4) (c : BitVec 4) (s : State),
    i = portRouter m ∧ (s.router i).reconf = some (b, c) ∧ (s.router i).bufs = [] ∧ (s.mp m).gate = GateSt.opening ∧ b.getLsbD (BitVec.toNat m % 4) = false)
    ∧ (∃ (_n : BitVec 48) (s : State),
    s.mode = Mode.quiesce ∧ s.modes.restPhase = 7 ∧ s.modes.pwrFail = false ∧ ∀ (m : PortId), (s.mp m).ready = true) :=
  ⟨⟨0x31, ((md .rest).putF ⟨0x70020, 7, 1⟩ 1).putF ⟨0x70020, 0, 7⟩ 0x31, by decide +kernel⟩,
    ⟨(md .rest).putF ⟨0x70020, 8, 1⟩ 1, by decide +kernel⟩,
    ⟨1000, {md .rest with pins := {Pins.reset with wakeOut := true}, cox := {Cox.reset with clkPres := BitVec.allOnes 40}, plinth := {Plinth.reset with retM := 2048, restEntry := 50}}, by decide +kernel⟩,
    ⟨0, ⟨portRouter 0, by decide⟩, 2, 0, (srv.setMp 0 {p0 with gate := .opening}).setRouter (portRouter 0) {Router.reset with bounce := 3, reconf := some (2, 0)}, by decide +kernel⟩,
    ⟨1000, {rdy .quiesce with modes := {ms .quiesce with restPhase := 7}, pins := {Pins.reset with wakeOut := true}}, by decide +kernel⟩⟩

theorem test_meets_LevelsAndStarts :
    (∃ (s : State),
    s.mode ≠ Mode.off ∧ s.mode ≠ Mode.rest ∧ s.level ≠ 0 ∧ s.deepest + 4 < s.shedT s.level ∧ (s.modes.alert = false ∨ s.fld {addr := 458804, lo := 0, len := 3} < s.level) ∧ s.fld {addr := 458804, lo := 3, len := 3} < s.level)
    ∧ (∃ (_v : BitVec 3) (s : State),
    s.fwUp = true)
    ∧ (∃ (s : State),
    s.mode = Mode.calibrate ∧ s.cast.done = true ∧ s.cast.init = false ∧ (∀ (m : PortId), (s.mp m).ready = true) ∧ s.joinsDone = true ∧ s.modes.calWindows ≠ 0)
    ∧ (∃ (h : BucketRead) (_im : List LineData) (_ok : Bool) (s : State),
    s.mode = Mode.calibrate ∧ s.cast.done = false ∧ s.hdrWaits = false ∧ s.headerOk (s.castSeen (s.castAddr 0 0) h) = false)
    ∧ (∃ (h : BucketRead) (_im : List LineData) (_ok : Bool) (s : State),
    s.mode = Mode.calibrate ∧ s.cast.done = false ∧ s.hdrWaits = false ∧ s.headerOk (s.castSeen (s.castAddr 0 0) h) = true) :=
  ⟨⟨mds {ms .shed with level := 5, levelSince := 30}, by decide +kernel⟩,
    ⟨7, srv, by decide +kernel⟩,
    ⟨{rdy .calibrate with modes := {ms .calibrate with calWindows := 1}, cast := {CastHdr.reset with done := true}}, by decide +kernel⟩,
    ⟨{hdr0 with status := .error}, [], true, md .calibrate, by decide +kernel⟩,
    ⟨hdr0, [], true, md .calibrate, by decide +kernel⟩⟩

theorem test_meets_ResetsAndPower :
    (∃ (s : State),
    (s.mode = Mode.serve ∨ s.mode = Mode.shed) ∧ s.modes.warm = none ∧ s.modes.warmDone = false ∧ s.fld {addr := 458752, lo := 2, len := 1} = 0)
    ∧ (∃ (s : State),
    (s.mode = Mode.boot ∨ s.mode = Mode.hold) ∧ s.modes.warm = none ∧ s.modes.warmDone = false)
    ∧ (∃ (t0 : Nat) (s : State),
    s.modes.warm = some t0 ∧ s.mode ≠ Mode.rest)
    ∧ (∃ (s : State),
    s.modes.warmDone = true ∧ s.plinth.keyValid = true)
    ∧ (∃ (_x : BitVec 16) (_kh : BitVec 384) (_kv : Bool) (_fl : BitVec 16) (s : State),
    s.modes.coldPin = true ∧ s.modes.aonPin = false)
    ∧ (∃ (s : State),
    s.modes.coldPin = true ∧ s.mode ≠ Mode.rest)
    ∧ (∃ (_f : Bool) (s : State),
    s.modes.bistBusy = true)
    ∧ (∃ (s : State),
    (s.mode = Mode.boot ∨ s.mode = Mode.calibrate ∨ s.mode = Mode.hold))
    ∧ (∃ (r : Rail) (s : State),
    ¬(r = Rail.vcore ∧ s.mode = Mode.rest ∧ s.pins.coreOffOk = true))
    ∧ (∃ (s : State),
    s.mode = Mode.rest ∧ s.pins.coreOffOk = true) :=
  ⟨⟨srv, by decide +kernel⟩,
    ⟨md .boot, by decide +kernel⟩,
    ⟨30, mds {ms .quiesce with warm := some 30, warmPin := true}, by decide +kernel⟩,
    ⟨mds {ms .boot with warmDone := true, warmPin := true}, by decide +kernel⟩,
    ⟨7, 8, true, 9, mds {ms .boot with coldPin := true}, by decide +kernel⟩,
    ⟨mds {ms .boot with coldPin := true}, by decide +kernel⟩,
    ⟨true, mds {ms .boot with coldPin := true, bistBusy := true}, by decide +kernel⟩,
    ⟨md .calibrate, by decide +kernel⟩,
    ⟨.vcore, srv, by decide +kernel⟩,
    ⟨{md .rest with pins := {Pins.reset with coreOffOk := true}}, by decide +kernel⟩⟩

theorem test_meets_BucketsMove :
    (∃ (_n : BitVec 2) (s : State),
    s.fwUp = true ∧ s.hmapTakes = false)
    ∧ (∃ (n : BitVec 2) (s : State),
    s.fwUp = true ∧ s.hmapTakes = true ∧ ∃ b, s.homeOf b ≠ targetHome n b)
    ∧ (∃ (n : BitVec 2) (s : State),
    s.fwUp = true ∧ s.hmapTakes = true ∧ ∀ (b : BitVec 12), s.homeOf b = targetHome n b)
    ∧ (∃ (_b : BitVec 12) (d : SliceId) (s : State),
    s.fwUp = true ∧ (s.hmapTakes = false ∨ (s.sl d).active = false))
    ∧ (∃ (b : BitVec 12) (d : SliceId) (s : State),
    s.fwUp = true ∧ s.hmapTakes = true ∧ (s.sl d).active = true ∧ s.homeOf b ≠ d)
    ∧ (∃ (b : BitVec 12) (d : SliceId) (s : State),
    s.fwUp = true ∧ s.hmapTakes = true ∧ (s.sl d).active = true ∧ s.homeOf b = d)
    ∧ (∃ (b : BitVec 12) (m : Move) (s : State),
    s.moveOf b = some m ∧ s.mayMark m = true)
    ∧ (∃ (b : BitVec 12) (m : Move) (_chk : PassCheck) (s : State),
    s.moveOf b = some m ∧ m.st = MoveSt.marked ∧ s.passGo m.src = true ∧ s.bgMay m.src = true)
    ∧ (∃ (b : BitVec 12) (m : Move) (s : State),
    s.moveOf b = some m ∧ m.st = MoveSt.marked ∧ (s.sl m.src).busyBucket b = false ∧ (s.sl m.src).waysOf b = [] ∧ s.transitOf m.src b = false ∧ s.uncounted m.src b = false)
    ∧ (∃ (b : BitVec 12) (m : Move) (s : State),
    s.moveOf b = some m ∧ m.st = MoveSt.marked ∧ (s.sl m.src).busyBucket b = false ∧ (s.sl m.src).waysOf b ≠ [])
    ∧ (∃ (i : SliceId) (h : SliceId × BitVec 12 × Nat × List AgentId) (s : State),
    List.find? (fun h => decide (h.1 = i)) s.hmap.hands = some h)
    ∧ (∃ (row : BitVec 4) (x : BitVec 4 × BitVec 12 × SliceId × BitVec 16) (s : State),
    List.find? (fun x => decide (x.1 = row)) s.hmap.sets = some x)
    ∧ (∃ (row : BitVec 4) (b : BitVec 12) (e : BitVec 16) (rest : List (BitVec 4 × BitVec 12 × BitVec 16)) (m : Move) (l : List (BitVec 4)) (s : State),
    s.hmap.acks = (row, b, e) :: rest ∧ s.moveOf b = some m ∧ m.st = MoveSt.updating l ∧ row ∉ l ∧ l.length ≠ 15)
    ∧ (∃ (row : BitVec 4) (b : BitVec 12) (e : BitVec 16) (rest : List (BitVec 4 × BitVec 12 × BitVec 16)) (m : Move) (l : List (BitVec 4)) (s : State),
    s.hmap.acks = (row, b, e) :: rest ∧ s.moveOf b = some m ∧ m.st = MoveSt.updating l ∧ row ∉ l ∧ l.length = 15) :=
  ⟨⟨3, md .quiesce, by decide +kernel⟩,
    ⟨3, {srv with hmap := {srv.hmap with init := some 0}}, by decide +kernel, by decide +kernel, 1, by decide +kernel⟩,
    ⟨0, {srv with hmap := {srv.hmap with init := some 0}}, by decide +kernel⟩,
    ⟨5, 1, md .quiesce, by decide +kernel⟩,
    ⟨5, 1, {srv with hmap := {srv.hmap with init := some 0}}, by decide +kernel⟩,
    ⟨5, 5, {srv with hmap := {srv.hmap with init := some 0}}, by decide +kernel⟩,
    ⟨5, mv0 .waiting, (mvS .waiting).setSl 5 {Slice.reset with rsvs := [Rsv.mk 5 9 0]}, by decide +kernel⟩,
    ⟨5, mv0 .marked, okChk, (mvS .marked).setSl 5 {Slice.reset with recN := [(5, 3)]}, by decide +kernel⟩,
    ⟨5, mv0 .marked, (mvS .marked).setSl 5 {Slice.reset with recN := [(5, 3)]}, by decide +kernel⟩,
    ⟨bucketOf 0x12345, {mv0 .marked with bucket := bucketOf 0x12345}, ({mvS .marked with hmap := {srv.hmap with init := some 0, moves := [{mv0 .marked with bucket := bucketOf 0x12345}]}}).setSl 5 {Slice.reset with dir := [(16 * (Machine.setOf 0x12345).toNat, some e0)]}, by decide +kernel⟩,
    ⟨1, (1, 5, 3, []), {mvS .handed with hmap := {(mvS .handed).hmap with hands := [(1, 5, 3, [])]}}, by decide +kernel⟩,
    ⟨15, (15, 5, 1, 7), {mvS (.updating []) with hmap := {(mvS (.updating [])).hmap with sets := [(15, 5, 1, 7)]}}, by decide +kernel⟩,
    ⟨15, 5, 7, [], mv0 (.updating [0]), [0], {mvS (.updating [0]) with hmap := {(mvS (.updating [0])).hmap with acks := [(15, 5, 7)]}}, by decide +kernel⟩,
    ⟨15, 5, 7, [], mv0 (.updating ((List.range 15).map (BitVec.ofNat 4))), (List.range 15).map (BitVec.ofNat 4), {mvS (.updating ((List.range 15).map (BitVec.ofNat 4))) with hmap := {(mvS (.updating ((List.range 15).map (BitVec.ofNat 4)))).hmap with acks := [(15, 5, 7)]}}, by decide +kernel⟩⟩

theorem test_meets_TheLoaderChoosesASlot :
    (∃ (_x : Option Sfdp) (s : State),
    s.booting BootSt.start = true)
    ∧ (∃ (_z : BitVec 17) (a : List Byte) (b : List Byte) (s : State),
    a.length = 512 ∧ b.length = 512 ∧ s.booting BootSt.discovered = true)
    ∧ (∃ (s : State),
    s.booting BootSt.checked = true)
    ∧ (∃ (ws : List Word32) (s : State),
    ws.length = 1024 ∧ s.booting BootSt.body = true ∧ s.boot.blocks < s.boot.total ∧ s.boot.bufs.length < 2 ∧ crc32c (List.flatMap (fun w => bytesOfNat 4 (BitVec.toNat w)) (List.take 1023 ws)) = ws.getD 1023 0)
    ∧ (∃ (ws : List Word32) (s : State),
    ws.length = 1024 ∧ s.booting BootSt.body = true ∧ s.boot.blocks < s.boot.total ∧ s.boot.bufs.length < 2 ∧ crc32c (List.flatMap (fun w => bytesOfNat 4 (BitVec.toNat w)) (List.take 1023 ws)) ≠ ws.getD 1023 0)
    ∧ (∃ (cox : List Byte) (s : State),
    s.booting BootSt.body = true ∧ s.boot.total ≤ s.boot.blocks ∧ s.boot.waiting = BootWait.none ∧ s.boot.ended = true ∧ cox.length = coxLen (s.boot.hdr s.boot.slot))
    ∧ (∃ (_cox : List Byte) (s : State),
    s.mode = Mode.boot ∧ s.boot.held = [])
    ∧ (∃ (_cox : List Byte) (s : State) (_k : AttId),
    s.mode = Mode.boot ∧ s.boot.held = [])
    ∧ (∃ (_cox : List Byte) (s : State) (_b : BitVec 12),
    s.mode = Mode.boot ∧ s.boot.held = [])
    ∧ (∃ (_n : Nat) (s : State),
    s.held = false ∧ (if s.boot.slot = true then s.boot.goodA else s.boot.goodB) = true ∧ (!s.boot.slot) ∉ s.boot.tried)
    ∧ (∃ (_n : Nat) (s : State),
    s.held = false ∧ ((if s.boot.slot = true then s.boot.goodA else s.boot.goodB) = false ∨ (!s.boot.slot) ∈ s.boot.tried))
    ∧ (∃ (s : State),
    s.mode = Mode.boot ∧ s.boot.st ≠ BootSt.held ∧ s.modes.arraysClr = false) :=
  ⟨⟨none, bt Boot.reset, by decide +kernel⟩,
    ⟨2, hdrOf 7, hdrOf 8, bt {Boot.reset with st := .discovered}, by decide +kernel⟩,
    ⟨bt {Boot.reset with st := .checked, hdrA := hdrOf 7, goodA := true}, by decide +kernel⟩,
    ⟨blockOf 1023 (zeroCrc 1023), bt {Boot.reset with st := .body, hdrA := hdrOf 7}, ⟨blockOf_length _ _, by decide +kernel, by decide +kernel, by decide +kernel, by rw [blockOf_take, blockOf_last, zeroCrc]⟩⟩,
    ⟨blockOf 1023 (zeroCrc 1023 + 1), bt {Boot.reset with st := .body, hdrA := hdrOf 7}, ⟨blockOf_length _ _, by decide +kernel, by decide +kernel, by decide +kernel, by rw [blockOf_take, blockOf_last]; exact ne_next (zeroCrc 1023)⟩⟩,
    ⟨[], bt {Boot.reset with st := .body, hdrA := hdrOf 7, blocks := 2, ended := true}, by decide +kernel⟩,
    ⟨[1,2,3,4], bt {Boot.reset with st := .body, hdrA := hdrOf 7, blocks := 2, ended := true}, by decide +kernel⟩,
    ⟨[], bt {Boot.reset with held := []}, 2, by decide +kernel⟩,
    ⟨[], bt {Boot.reset with held := []}, 9, by decide +kernel⟩,
    ⟨10, bt {Boot.reset with st := .body, slot := true, goodB := true, goodA := true, tried := [true]}, by decide +kernel⟩,
    ⟨7, bt {Boot.reset with st := .body, goodA := true, tried := [false]}, by decide +kernel⟩,
    ⟨(md .boot).setSl 1 {Slice.reset with dir := [(0, some e0)]}, by decide +kernel⟩⟩

theorem test_meets_RecordsTakeEffect :
    (∃ (h : Word32) (rest : List Word32) (s : State),
    s.recordAt h rest ∧ bits h 28 4 = 0)
    ∧ (∃ (h : Word32) (rest : List Word32) (s : State),
    s.recordAt h rest ∧ bits h 28 4 = 1 ∧ bits h 0 28 % 4 = 0 ∧ bits h 0 28 / 2 ^ 24 + 1 ≤ rest.length)
    ∧ (∃ (h : Word32) (rest : List Word32) (s : State) (mask : Word32) (data : Word32) (more : List Word32),
    s.recordAt h rest ∧ bits h 28 4 = 2 ∧ bits h 0 28 / 2 ^ 24 = 0 ∧ bits h 0 28 % 4 = 0 ∧ rest = mask :: data :: more)
    ∧ (∃ (h : Word32) (rest : List Word32) (s : State) (mask : Word32) (value : Word32) (limit : Word32) (more : List Word32),
    s.recordAt h rest ∧ bits h 28 4 = 3 ∧ bits h 0 28 / 2 ^ 24 = 0 ∧ bits h 0 28 % 4 = 0 ∧ rest = mask :: value :: limit :: more ∧ limit ≠ 0 ∧ BitVec.toNat limit ≤ 1000000)
    ∧ (∃ (h : Word32) (rest : List Word32) (s : State),
    s.recordAt h rest ∧ bits h 28 4 = 4 ∧ bits h 0 28 / 2 ^ 24 = 0 ∧ bits h 0 28 ≠ 0)
    ∧ (∃ (h : Word32) (rest : List Word32) (s : State),
    s.recordAt h rest ∧ bits h 28 4 = 15)
    ∧ (∃ (h : Word32) (rest : List Word32) (s : State),
    s.recordAt h rest ∧ bits h 28 4 = 1 ∧ (bits h 0 28 % 4 ≠ 0 ∨ rest.length ≤ bits h 0 28 / 2 ^ 24))
    ∧ (∃ (h : Word32) (rest : List Word32) (s : State),
    s.recordAt h rest ∧ bits h 28 4 = 2 ∧ (bits h 0 28 / 2 ^ 24 ≠ 0 ∨ bits h 0 28 % 4 ≠ 0 ∨ rest.length < 2))
    ∧ (∃ (h : Word32) (rest : List Word32) (s : State),
    s.recordAt h rest ∧ bits h 28 4 = 3 ∧ (bits h 0 28 / 2 ^ 24 ≠ 0 ∨ bits h 0 28 % 4 ≠ 0 ∨ rest.length < 3 ∨ rest.getD 2 0 = 0 ∨ 1000000 < BitVec.toNat (rest.getD 2 0)))
    ∧ (∃ (h : Word32) (rest : List Word32) (s : State),
    s.recordAt h rest ∧ bits h 28 4 = 4 ∧ (bits h 0 28 / 2 ^ 24 ≠ 0 ∨ bits h 0 28 = 0))
    ∧ (∃ (h : Word32) (rest : List Word32) (s : State) (c : Instr),
    s.recordAt h rest ∧ 5 ≤ bits h 28 4 ∧ bits h 28 4 ≠ 15 ∧ (c = Instr.padRecord ∨ c = Instr.writeRecord ∨ c = Instr.maskRecord ∨ c = Instr.pollRecord ∨ c = Instr.waitRecord ∨ c = Instr.endRecord))
    ∧ (∃ (h : Word32) (rest : List Word32) (s : State) (n : Nat),
    s.recordAt h rest ∧ s.boot.index + n < 1023)
    ∧ (∃ (h : Word32) (rest : List Word32) (s : State) (n : Nat),
    s.recordAt h rest ∧ 1023 ≤ s.boot.index + n)
    ∧ (∃ (a : RegAddr) (mask : Word32) (v : Word32) (t0 : Nat) (lim : Nat) (s : State),
    s.booting BootSt.body = true ∧ s.boot.waiting = BootWait.poll a mask v t0 lim)
    ∧ (∃ (a : Nat) (adr : RegAddr) (_mask : Word32) (_v : Word32) (s : State),
    s.targets adr = [a] ∧ s.readOne a = (s, s.readWord a))
    ∧ (∃ (till : Nat) (s : State),
    s.booting BootSt.body = true ∧ s.boot.waiting = BootWait.wait till) :=
  ⟨⟨0x00000000, [5], rec 0x00000000 [5], ⟨⟨by decide +kernel, by decide +kernel, by decide +kernel, by decide +kernel, _, _, rfl, rfl⟩, by decide +kernel⟩⟩,
    ⟨0x10000014, [5], rec 0x10000014 [5], ⟨⟨by decide +kernel, by decide +kernel, by decide +kernel, by decide +kernel, _, _, rfl, rfl⟩, by decide +kernel⟩⟩,
    ⟨0x20000014, [5,6], rec 0x20000014 [5,6], (5 : Word32), (6 : Word32), ([] : List Word32), ⟨⟨by decide +kernel, by decide +kernel, by decide +kernel, by decide +kernel, _, _, rfl, rfl⟩, by decide +kernel⟩⟩,
    ⟨0x30000014, [5,6,1000000], rec 0x30000014 [5,6,1000000], (5 : Word32), (6 : Word32), (1000000 : Word32), ([] : List Word32), ⟨⟨by decide +kernel, by decide +kernel, by decide +kernel, by decide +kernel, _, _, rfl, rfl⟩, by decide +kernel⟩⟩,
    ⟨0x40000001, [], rec 0x40000001 [], ⟨⟨by decide +kernel, by decide +kernel, by decide +kernel, by decide +kernel, _, _, rfl, rfl⟩, by decide +kernel⟩⟩,
    ⟨0xF0000000, [], rec 0xF0000000 [], ⟨⟨by decide +kernel, by decide +kernel, by decide +kernel, by decide +kernel, _, _, rfl, rfl⟩, by decide +kernel⟩⟩,
    ⟨0x11000014, [5], rec 0x11000014 [5], ⟨⟨by decide +kernel, by decide +kernel, by decide +kernel, by decide +kernel, _, _, rfl, rfl⟩, by decide +kernel⟩⟩,
    ⟨0x21000014, [5,6], rec 0x21000014 [5,6], ⟨⟨by decide +kernel, by decide +kernel, by decide +kernel, by decide +kernel, _, _, rfl, rfl⟩, by decide +kernel⟩⟩,
    ⟨0x30000014, [5,6,1000001], rec 0x30000014 [5,6,1000001], ⟨⟨by decide +kernel, by decide +kernel, by decide +kernel, by decide +kernel, _, _, rfl, rfl⟩, by decide +kernel⟩⟩,
    ⟨0x40000000, [], rec 0x40000000 [], ⟨⟨by decide +kernel, by decide +kernel, by decide +kernel, by decide +kernel, _, _, rfl, rfl⟩, by decide +kernel⟩⟩,
    ⟨0xE0000001, [], rec 0xE0000001 [], Instr.padRecord, ⟨⟨by decide +kernel, by decide +kernel, by decide +kernel, by decide +kernel, _, _, rfl, rfl⟩, by decide +kernel⟩⟩,
    ⟨0x00000000, [5], rec 0x00000000 [5], (1021 : Nat), ⟨⟨by decide +kernel, by decide +kernel, by decide +kernel, by decide +kernel, _, _, rfl, rfl⟩, by decide +kernel⟩⟩,
    ⟨0x00000000, [5], rec 0x00000000 [5], (1022 : Nat), ⟨⟨by decide +kernel, by decide +kernel, by decide +kernel, by decide +kernel, _, _, rfl, rfl⟩, by decide +kernel⟩⟩,
    ⟨0x14, 0xFF, 0, 5, 60, bt {Boot.reset with st := .body, waiting := .poll 0x14 0xFF 0 5 60}, by decide +kernel⟩,
    ⟨0x14, 0x14, 0xFF, 0, srv, by decide +kernel⟩,
    ⟨500, bt {Boot.reset with st := .body, waiting := .wait 500}, by decide +kernel⟩⟩

theorem test_meets_RegisterCommands :
    (∃ (src : RegSrc) (_w : RegWrite) (a : RegAddr) (s : State),
    s.srcUp src = true ∧ s.mode = Mode.boot ∧ 8192 ≤ BitVec.toNat a)
    ∧ (∃ (_w : RegWrite) (o : Option RegWrite) (s : State),
    s.mode ≠ Mode.boot ∧ (o = none ∨ s.srcUp RegSrc.cox = false) ∧ s.srcUp RegSrc.host = true)
    ∧ (∃ (h : RegWrite) (c : RegWrite) (s : State),
    s.mode ≠ Mode.boot ∧ s.srcUp RegSrc.host = true ∧ s.srcUp RegSrc.cox = true ∧ s.collisions h c = [] ∧ (s.commands h 4136 0 || s.commands c 4136 0) = false)
    ∧ (∃ (h : RegWrite) (c : RegWrite) (s : State),
    s.mode ≠ Mode.boot ∧ s.srcUp RegSrc.host = true ∧ s.srcUp RegSrc.cox = true ∧ s.collisions h c ≠ [])
    ∧ (∃ (src : RegSrc) (a : RegAddr) (s : State),
    s.srcUp src = true ∧ (s.mode ≠ Mode.boot ∨ BitVec.toNat a < 8192))
    ∧ (∃ (wr : Bool) (_a : RegAddr) (_d : Word32) (s : State),
    s.srcUp RegSrc.jtag = true ∧ wr = true)
    ∧ (∃ (wr : Bool) (_a : RegAddr) (_d : Word32) (s : State),
    s.srcUp RegSrc.jtag = true ∧ wr = false)
    ∧ (∃ (_wr : Bool) (_a : RegAddr) (_d : Word32) (s : State),
    s.srcUp RegSrc.jtag = false)
    ∧ (∃ (_src : RegSrc) (addr : RegAddr) (u : Nat) (a : Nat) (ms : List (Nat × Nat)) (s : State),
    s.members (BitVec.toNat addr / 4 * 4) = some ((u, a) :: ms) ∧ (∀ b ∈ (u, a) :: ms, s.shutAt b.2 = none) ∧ ∀ b ∈ ms, s.readWord b.2 = s.readWord a)
    ∧ (∃ (_src : RegSrc) (addr : RegAddr) (u : Nat) (a : Nat) (ms : List (Nat × Nat)) (s : State),
    s.members (BitVec.toNat addr / 4 * 4) = some ((u, a) :: ms) ∧ (∀ b ∈ (u, a) :: ms, s.shutAt b.2 = none) ∧ ∃ b ∈ ms, s.readWord b.2 ≠ s.readWord a)
    ∧ (∃ (src : RegSrc) (addr : RegAddr) (u : Nat) (a : Nat) (ms : List (Nat × Nat)) (s : State) (b : Nat),
    s.members (BitVec.toNat addr / 4 * 4) = some ((u, a) :: ms) ∧ (∀ b ∈ (u, a) :: ms, s.shutAt b.2 = none) ∧ (b ≠ if src = RegSrc.cox then 4152 else 4144) ∧ b ≠ (if src = RegSrc.cox then 4152 else 4144) + 4)
    ∧ (∃ (i : SliceId) (_o : Nat) (s : State),
    (s.sl i).active = false) :=
  ⟨⟨.host, RegWrite.mk 0x14 0xF 5, 0x20000, md .boot, by decide +kernel⟩,
    ⟨RegWrite.mk 0x14 0xF 5, none, srv, by decide +kernel⟩,
    ⟨RegWrite.mk 0x14 0xF 5, RegWrite.mk 0x18 0xF 6, cx, by decide +kernel⟩,
    ⟨RegWrite.mk 0x14 0xF 5, RegWrite.mk 0x14 0xF 6, cx, by decide +kernel⟩,
    ⟨.host, 0x14, srv, by decide +kernel⟩,
    ⟨true, 0x14, 5, ({srv with plinth := {srv.plinth with dbgPin := true}}).putF ⟨0x1014, 0, 1⟩ 1, by decide +kernel⟩,
    ⟨false, 0x14, 5, ({srv with plinth := {srv.plinth with dbgPin := true}}).putF ⟨0x1014, 0, 1⟩ 1, by decide +kernel⟩,
    ⟨true, 0x14, 5, srv, by decide +kernel⟩,
    ⟨.host, 0x800204, 0, 0x400204, (List.range 63).map (fun u => (u + 1, 0x410204 + 0x10000 * u)), srv, by decide +kernel⟩,
    ⟨.host, 0x800288, 0, 0x400288, (List.range 63).map (fun u => (u + 1, 0x410288 + 0x10000 * u)), srv.setReg 0x410288 7, by decide +kernel⟩,
    ⟨.host, 0x800288, 0, 0x400288, (List.range 63).map (fun u => (u + 1, 0x410288 + 0x10000 * u)), srv.setReg 0x410288 7, (7 : Nat), by decide +kernel⟩,
    ⟨1, 0x204, srv.setSl 1 {Slice.reset with active := false}, by decide +kernel⟩⟩

theorem test_meets_EventsAreTakenAndEnded :
    (∃ (i : BitVec 11) (v : Bool) (ms : List (BitVec 11 × Bool)) (s : State),
    s.events.msgs = (i, v) :: ms)
    ∧ (∃ (i : BitVec 11) (v : Bool) (ms : List (BitVec 11 × Bool)) (s : State),
    s.events.globs = (i, v) :: ms)
    ∧ (∃ (n : BitVec 3) (id : BitVec 12) (s : State),
    s.fwUp = true ∧ id.toNat < 2048 ∧ (s.ev id.toNat).heldBy n = true)
    ∧ (∃ (n : BitVec 3) (id : BitVec 12) (s : State),
    s.fwUp = true ∧ id.toNat < 2048 ∧ (s.ev id.toNat).heldBy n = false)
    ∧ (∃ (i : BitVec 11) (_d : Word32) (s : State),
    s.fwUp = true ∧ evReserved i.toNat = false) :=
  ⟨⟨5, true, [], {evS [(5, src0 3)] with events := {Events.reset with srcs := [(5, src0 3)], msgs := [(5, true)]}}, by decide +kernel⟩,
    ⟨5, true, [], {srv with events := {Events.reset with srcs := [(5, {src0 3 with trig := true, active := true, pending := false})], globs := [(5, true)]}}, by decide +kernel⟩,
    ⟨2, 5, evS [(5, {src0 3 with trig := true, active := true, pending := false, edge := true, claimant := 2})], by decide +kernel⟩,
    ⟨2, 5, evS [(5, {src0 3 with active := true, pending := false, claimant := 3})], by decide +kernel⟩,
    ⟨5, 0x1FF03, evS [(5, src0 3)], by decide +kernel⟩⟩

theorem test_meets_ClaimsTakeTheMostUrgent :
    (∃ (n : BitVec 3) (src : RegSrc) (s : State),
    s.srcUp src = true ∧ s.mode ≠ Mode.boot ∧ Store.wf EvSrc.reset s.events.srcs = true ∧ s.eligibles n = [])
    ∧ (∃ (n : BitVec 3) (src : RegSrc) (s : State) (i : Nat) (e : EvSrc),
    s.srcUp src = true ∧ s.mode ≠ Mode.boot ∧ Store.wf EvSrc.reset s.events.srcs = true ∧ (i, e) ∈ s.eligibles n ∧ ∀ (j : Nat) (f : EvSrc), (j, f) ∈ s.eligibles n → e.prio ≤ f.prio ∧ (f.prio = e.prio → i ≤ j)) :=
  ⟨⟨2, .host, srv, by decide +kernel⟩,
    ⟨2, .host, evS [(5, src0 3), (9, src0 3), (11, src0 4)], 5, src0 3, ⟨by decide +kernel, by decide +kernel, by decide +kernel, by decide +kernel, fun j f h => by
      have e : (evS [(5, src0 3), (9, src0 3), (11, src0 4)]).eligibles 2 = [(5, src0 3), (9, src0 3), (11, src0 4)] := by
        decide +kernel
      rw [e] at h
      simp only [List.mem_cons, Prod.mk.injEq, List.not_mem_nil, or_false] at h
      rcases h with ⟨rfl, rfl⟩ | ⟨rfl, rfl⟩ | ⟨rfl, rfl⟩ <;> decide +kernel⟩⟩⟩

theorem test_meets_CountersAreReadArmedAndFrozen :
    (∃ (s : State) (i : Fin 3584),
    s.portUp = true ∧ s.mode ≠ Mode.boot ∧ s.cntShut i = false ∧ cReserved i = false)
    ∧ (∃ (i : Fin 3584) (s : State),
    s.fwUp = true ∧ s.cntShut i = false ∧ cReserved i = false)
    ∧ (∃ (i : Fin 3584) (n : BitVec 16) (s : State),
    cReserved i = false ∧ s.counts.frozen = false ∧ (s.cnt i).armed = true ∧ 2 ^ 48 ≤ (s.cnt i).value.toNat + n.toNat)
    ∧ (∃ (s : State),
    s.fwUp = true ∧ s.counts.frozen = false)
    ∧ (∃ (s : State),
    s.fwUp = true ∧ s.counts.frozen = true ∧ Store.wf (fun _ => Counter.reset) s.counts.cnts = true) :=
  ⟨⟨(cnS {Counts.reset with cnts := [(3583, {Counter.reset with value := 0x123456789ABC}), (0, {Counter.reset with value := 0x123456789ABC})], dcyc := [(39, {value := 0x123456789ABC, latch := 0})]}).setRouter 79 {Router.reset with prb0 := 0x123456789ABC, prb1 := 0xABCDEF012345}, (0 : Fin 3584), by decide +kernel⟩,
    ⟨2074, cnS {Counts.reset with cnts := [(2074, {Counter.reset with value := 9, preset := 0})]}, by decide +kernel⟩,
    ⟨7, 3, cnS {Counts.reset with cnts := [(7, {Counter.reset with value := 0xFFFFFFFFFFFE, preset := 5, armed := true, reload := true})]}, by decide +kernel⟩,
    ⟨cnS {Counts.reset with cnts := [(7, {Counter.reset with value := 5})]}, by decide +kernel⟩,
    ⟨cnS {Counts.reset with frozen := true, cnts := [(7, {Counter.reset with value := 5, armed := true})]}, by decide +kernel⟩⟩

theorem test_meets_SnapshotsAndSamplesAreTaken :
    (∃ (s : State),
    s.fwUp = true ∧ s.counts.snap.busy = none)
    ∧ (∃ (s : State),
    s.fwUp = true ∧ s.counts.snap.busy ≠ none)
    ∧ (∃ (d : Fin 40) (stamp : BitVec 64) (t0 : Nat) (s : State),
    s.counts.snap.busy = some t0 ∧ d ∈ s.counts.snap.left ∧ t0 ≤ stamp.toNat ∧ (s.follower d).value ≤ stamp.toNat)
    ∧ (∃ (r : BitVec 512) (rest : List (Obs (BitVec 512))) (s : State),
    s.counts.recQ = Obs.item r :: rest ∧ s.ringOcc < 4096)
    ∧ (∃ (r : BitVec 512) (rest : List (Obs (BitVec 512))) (s : State),
    s.counts.recQ = Obs.item r :: rest ∧ 4096 ≤ s.ringOcc)
    ∧ (∃ (n : Nat) (rest : List (Obs (BitVec 512))) (s : State),
    s.counts.recQ = Obs.gap n :: rest)
    ∧ (∃ (la : AttId) (r : Req) (rest : List Req) (s : State),
    (s.att la).winRd = r :: rest ∧ (s.att la).waitIn = [])
    ∧ (∃ (n : Nat) (k : Nat) (_s : State),
    n < 448 ∧ k < 8) :=
  ⟨⟨srv, by decide +kernel⟩,
    ⟨cnS {Counts.reset with snap := {Snap.reset with busy := some 9}}, by decide +kernel⟩,
    ⟨36, 9, 9, cnS {Counts.reset with snap := {Snap.reset with busy := some 9, left := [0, 36], behind := true}}, by decide +kernel⟩,
    ⟨77, [], cnS {Counts.reset with recQ := [.item 77]}, by decide +kernel⟩,
    ⟨77, [], (cnS {Counts.reset with recQ := [.item 77]}).putF ⟨0x20060, 0, 13⟩ 8191, by decide +kernel⟩,
    ⟨3, [.item 77], cnS {Counts.reset with recQ := [.gap 3, .item 77]}, by decide +kernel⟩,
    ⟨2, r0, [], srv.setAtt 2 {at0 with winRd := [r0]}, by decide +kernel⟩,
    ⟨447, 7, cnS {Counts.reset with cnts := [(3583, {Counter.reset with value := 0x123456789ABC})]}, by decide +kernel⟩⟩

theorem test_meets_CoxRestarts :
    (∃ (s : State),
    s.fwUp = true)
    ∧ (∃ (s : State),
    s.cox.running = true ∧ s.wdtOn = true ∧ s.mode ≠ Mode.rest)
    ∧ (∃ (a : List Byte) (b : List Byte) (s : State),
    s.cox.restart = true ∧ a.length = s.boot.coxLen ∧ b.length = s.boot.coxLen) :=
  ⟨⟨cx, by decide +kernel⟩,
    ⟨cx.putF ⟨0x30000, 1, 1⟩ 1, by decide +kernel⟩,
    ⟨[1], [2], {srv with cox := {Cox.reset with restart := true}, boot := {srv.boot with coxLen := 1}}, by decide +kernel⟩⟩

theorem test_meets_SensorsAndClocks :
    (∃ (_i : Fin 12) (_v : BitVec 12) (s : State),
    s.portUp = true)
    ∧ (∃ (_i : Fin 6) (_d : BitVec 8) (s : State),
    s.portUp = true)
    ∧ (∃ (_i : Fin 4) (_n : BitVec 20) (s : State),
    s.portUp = true)
    ∧ (∃ (_d : Fin 40) (s : State),
    s.mode ≠ Mode.off)
    ∧ (∃ (_d : Fin 40) (s : State),
    (s.mode ≠ Mode.rest ∨ s.modes.warm = none))
    ∧ (∃ (d : Fin 40) (s : State),
    s.mode = Mode.rest ∧ s.modes.warm.isSome = true ∧ s.modes.warmPin = true ∧ ∀ j < 40, j ≠ d → s.cox.clkPres.getLsbD j = true) :=
  ⟨⟨11, 0x7FF, srv, by decide +kernel⟩,
    ⟨3, 255, srv, by decide +kernel⟩,
    ⟨3, 0xFFFFF, srv, by decide +kernel⟩,
    ⟨34, {srv with cox := {Cox.reset with clkPres := BitVec.allOnes 40}}, by decide +kernel⟩,
    ⟨39, srv, by decide +kernel⟩,
    ⟨33, {mds {ms .rest with warm := some 5, warmPin := true} with cox := {Cox.reset with clkPres := BitVec.allOnes 40 ^^^ (1 <<< 33)}}, by decide +kernel⟩⟩

theorem test_meets_LogsAndHold :
    (∃ (r : LogRec) (rest : List (Obs LogRec)) (s : State),
    s.portUp = true ∧ s.cox.logQ = Obs.item r :: rest)
    ∧ (∃ (_sec : BitVec 6) (_n : BitVec 7) (bs : List Byte) (rb : List Byte) (s : State),
    bs.length = 32 ∧ rb.length = 32 ∧ s.cox.running = true ∧ s.mode ≠ Mode.rest)
    ∧ (∃ (s : State),
    s.fwUp = true ∧ s.held = false)
    ∧ (∃ (s : State),
    s.fwUp = true ∧ s.held = true ∧ s.fld {addr := 459028, lo := 0, len := 1} = 0)
    ∧ (∃ (s : State),
    s.modes.railAon = true ∧ s.modes.aonPin = false) :=
  ⟨⟨LogRec.mk 3 4 5, [], {srv with cox := {Cox.reset with logQ := [.item (LogRec.mk 3 4 5)], logSeq := 8}}, by decide +kernel⟩,
    ⟨63, 127, List.replicate 32 9, setByte (List.replicate 32 9) 1 0xFF, cx, by decide +kernel⟩,
    ⟨srv, by decide +kernel⟩,
    ⟨md .hold, by decide +kernel⟩,
    ⟨srv, by decide +kernel⟩⟩

theorem test_meets_TheMailboxAnswers :
    (∃ (s : State),
    s.fwUp = true ∧ s.cox.h2cFull = false)
    ∧ (∃ (s : State),
    s.fwUp = true ∧ s.cox.h2cFull = true)
    ∧ (∃ (s : State),
    s.coxUp = true ∧ s.cox.h2cFull = true)
    ∧ (∃ (s : State),
    s.coxUp = true ∧ s.cox.s2cFull = true)
    ∧ (∃ (s : State) (msg : List Byte),
    s.coxUp = true ∧ msg.length ≤ 64)
    ∧ (∃ (bs : List Byte) (p : Option Byte) (s : State),
    bs ≠ [] ∧ bs.length ≤ 64 ∧ s.portUp = true ∧ s.cox.s2cFull = false ∧ (p = none ∨ p = some (pec ([s.sbAddr false, 16, BitVec.ofNat 8 bs.length] ++ bs))))
    ∧ (∃ (bs : List Byte) (p : Option Byte) (s : State) (c : Byte),
    bs ≠ [] ∧ bs.length ≤ 64 ∧ s.portUp = true ∧ s.cox.s2cFull = false ∧ p = some c ∧ c ≠ pec ([s.sbAddr false, 16, BitVec.ofNat 8 bs.length] ++ bs))
    ∧ (∃ (ch : MbxCh) (_v : Word32) (s : State),
    s.coxUp = true ∧ s.hasTaken ch 1 0)
    ∧ (∃ (ch : MbxCh) (s : State),
    s.coxUp = true ∧ s.hasTaken ch 2 2)
    ∧ (∃ (ch : MbxCh) (r : List Byte) (s : State),
    r.length = 32 ∧ s.coxUp = true ∧ s.hasTaken ch 3 2)
    ∧ (∃ (ch : MbxCh) (s : State),
    s.coxUp = true ∧ s.hasTaken ch 4 0)
    ∧ (∃ (ch : MbxCh) (_a : Word32) (_r : Word32) (s : State),
    s.coxUp = true ∧ s.hasTaken ch 5 0) :=
  ⟨⟨srv, by decide +kernel⟩,
    ⟨{srv with cox := {Cox.reset with h2cFull := true, c2hReady := true}}, by decide +kernel⟩,
    ⟨{cx with cox := {cx.cox with h2cFull := true, s2cFull := true, s2c := [4]}}, by decide +kernel⟩,
    ⟨{cx with cox := {cx.cox with h2cFull := true, s2cFull := true, s2c := [4]}}, by decide +kernel⟩,
    ⟨cx, ([1,2] : List Byte), by decide +kernel⟩,
    ⟨[1,2], none, srv, by decide +kernel⟩,
    ⟨List.replicate 64 1, some (pec ([srv.sbAddr false, 0x10, 2, 1, 2])), srv, pec ([srv.sbAddr false, 0x10, 2, 1, 2]), by decide +kernel⟩,
    ⟨.host, 0x22, took (msgOf 1 0 []), by unfold State.hasTaken; decide +kernel⟩,
    ⟨.host, took (msgOf 2 2 [255, 7]), by unfold State.hasTaken; decide +kernel⟩,
    ⟨.host, List.replicate 32 7, took (msgOf 3 2 [63, 127]), by unfold State.hasTaken; decide +kernel⟩,
    ⟨.host, took (msgOf 4 0 []), by unfold State.hasTaken; decide +kernel⟩,
    ⟨.host, 3, 4, took (msgOf 5 0 []), by unfold State.hasTaken; decide +kernel⟩⟩

theorem test_meets_UpdatesAreWritten :
    (∃ (ch : MbxCh) (s : State),
    s.coxUp = true ∧ s.hasTaken ch 16 0 ∧ ∀ (u : Upd), s.cox.upd = some u → u.ch = ch)
    ∧ (∃ (ch : MbxCh) (s : State) (u : Upd),
    s.coxUp = true ∧ s.hasTaken ch 16 0 ∧ s.cox.upd = some u ∧ u.ch ≠ ch)
    ∧ (∃ (ch : MbxCh) (u : Upd) (s : State),
    s.coxUp = true ∧ s.hasTaken ch 17 52 ∧ s.cox.upd = some u ∧ u.ch = ch ∧ 2097152 < natOfBytes (slice (slice (s.taken ch) 4 52) 0 4) + 48)
    ∧ (∃ (ch : MbxCh) (u : Upd) (s : State),
    s.coxUp = true ∧ s.hasTaken ch 17 52 ∧ s.cox.upd = some u ∧ u.ch = ch ∧ 512 ≤ natOfBytes (slice (slice (s.taken ch) 4 52) 0 4) ∧ natOfBytes (slice (slice (s.taken ch) 4 52) 0 4) + 48 ≤ 2097152)
    ∧ (∃ (ch : MbxCh) (u : Upd) (s : State),
    s.coxUp = true ∧ s.hasTaken ch 17 52 ∧ s.cox.upd = some u ∧ u.ch = ch ∧ natOfBytes (slice (slice (s.taken ch) 4 52) 0 4) + 48 ≤ 512)
    ∧ (∃ (ch : MbxCh) (u : Upd) (s : State),
    s.coxUp = true ∧ s.hasTaken ch 17 52 ∧ s.cox.upd = some u ∧ u.ch = ch ∧ natOfBytes (slice (slice (s.taken ch) 4 52) 0 4) < 512 ∧ 512 < natOfBytes (slice (slice (s.taken ch) 4 52) 0 4) + 48)
    ∧ (∃ (ch : MbxCh) (u : Upd) (_body : List Byte) (s : State),
    s.coxUp = true ∧ s.hasTaken ch 18 0 ∧ s.cox.upd = some u ∧ u.ch = ch)
    ∧ (∃ (ch : MbxCh) (_z : BitVec 17) (s : State),
    s.coxUp = true ∧ s.hasTaken ch 19 0 ∧ (s.fld {addr := 4096, lo := 14, len := 1} = 0 ∨ s.runsCommitted = false))
    ∧ (∃ (ch : MbxCh) (_z : BitVec 17) (s : State),
    s.coxUp = true ∧ s.hasTaken ch 19 0 ∧ s.fld {addr := 4096, lo := 14, len := 1} ≠ 0 ∧ s.runsCommitted = true)
    ∧ (∃ (ch : MbxCh) (u : Upd) (s : State),
    s.coxUp = true ∧ s.hasTaken ch 20 0 ∧ s.cox.upd = some u ∧ u.ch = ch)
    ∧ (∃ (ch : MbxCh) (body : List Byte) (c : Instr) (s : State),
    s.coxUp = true ∧ (∀ (u : Upd), s.cox.upd = some u → u.ch ≠ ch) ∧ (s.hasTaken ch 17 52 ∧ c = Instr.updData ch ∨ s.hasTaken ch 18 0 ∧ c = Instr.updCommit ch body ∨ s.hasTaken ch 20 0 ∧ c = Instr.updAbort ch)) :=
  ⟨⟨.host, took (msgOf 0x10 0 []), by unfold State.hasTaken; decide +kernel⟩,
    ⟨.host, tookUpd (msgOf 0x10 0 []) {upd0 with ch := .sideband}, {upd0 with ch := .sideband}, by unfold State.hasTaken; decide +kernel⟩,
    ⟨.host, upd0, tookUpd (msgOf 0x11 52 (bytesOfNat 4 0x1FFFD1 ++ List.replicate 48 5)) upd0, by unfold State.hasTaken; decide +kernel⟩,
    ⟨.host, upd0, tookUpd (msgOf 0x11 52 (bytesOfNat 4 0x1FFFD0 ++ List.replicate 48 5)) upd0, by unfold State.hasTaken; decide +kernel⟩,
    ⟨.host, upd0, tookUpd (msgOf 0x11 52 (bytesOfNat 4 464 ++ List.replicate 48 5)) upd0, by unfold State.hasTaken; decide +kernel⟩,
    ⟨.host, upd0, tookUpd (msgOf 0x11 52 (bytesOfNat 4 465 ++ List.replicate 48 5)) upd0, by unfold State.hasTaken; decide +kernel⟩,
    ⟨.host, upd0, List.replicate 8192 0, tookUpd (msgOf 0x12 0 []) upd0, by unfold State.hasTaken; decide +kernel⟩,
    ⟨.host, 2, took (msgOf 0x13 0 []), by unfold State.hasTaken; decide +kernel⟩,
    ⟨.host, 2, ((took (msgOf 0x13 0 [])).putF ⟨0x1000, 14, 1⟩ 1).putF ⟨0x1008, 0, 16⟩ 3, by unfold State.hasTaken; decide +kernel⟩,
    ⟨.host, upd0, tookUpd (msgOf 0x14 0 []) upd0, by unfold State.hasTaken; decide +kernel⟩,
    ⟨.host, [], .updData .host, took (msgOf 0x11 52 []), by unfold State.hasTaken; decide +kernel⟩⟩

theorem test_meets_TheTimebaseIsSetAndSlewed :
    (∃ (s : State),
    s.fwUp = true ∧ s.mode = Mode.calibrate ∧ s.joinsDone = true ∧ s.now < s.fld {addr := 199688, lo := 0, len := 32} + 2 ^ 32 * s.fld {addr := 199692, lo := 0, len := 32})
    ∧ (∃ (s : State),
    s.fwUp = true ∧ (s.mode ≠ Mode.calibrate ∨ s.joinsDone = false ∨ s.fld {addr := 199688, lo := 0, len := 32} + 2 ^ 32 * s.fld {addr := 199692, lo := 0, len := 32} ≤ s.now))
    ∧ (∃ (s : State) (p : Nat),
    s.portUp = true ∧ s.fld {addr := 199696, lo := 1, len := 2} ≠ 0 ∧ s.plinth.lastPulse = some p ∧ s.now < p + 500000 * s.fld {addr := 199696, lo := 3, len := 10})
    ∧ (∃ (s : State),
    s.portUp = true ∧ s.fld {addr := 199696, lo := 1, len := 2} ≠ 0 ∧ ∀ (p : Nat), s.plinth.lastPulse = some p → p + 500000 * s.fld {addr := 199696, lo := 3, len := 10} ≤ s.now)
    ∧ (∃ (s : State),
    s.refRuns = true ∧ s.plinth.slewNext ≤ s.now ∧ 0 < s.plinth.slew)
    ∧ (∃ (s : State),
    s.refRuns = true ∧ s.plinth.slewNext ≤ s.now ∧ s.plinth.slew < 0) :=
  ⟨⟨((md .calibrate).putF ⟨0x30C08, 0, 32⟩ 7).putF ⟨0x30C0C, 0, 32⟩ 1, by decide +kernel⟩,
    ⟨srv, by decide +kernel⟩,
    ⟨({srv with plinth := {srv.plinth with now := 6, lastPulse := some 5}}).putF ⟨0x30C10, 1, 2⟩ 2, 5, by decide +kernel⟩,
    ⟨({srv with plinth := {srv.plinth with now := 600000000, lastPulse := some 5}}).putF ⟨0x30C10, 1, 2⟩ 2, by decide +kernel⟩,
    ⟨{srv with plinth := {srv.plinth with slew := 5}}, by decide +kernel⟩,
    ⟨{srv with plinth := {srv.plinth with slew := -5}}, by decide +kernel⟩⟩

end Sys2Proof.Tests
end

/-! SUPPORT. Which commands answer a next state: all of them, but for a message of a silent attachment and a term with a list of the
wrong length. -/

namespace Sys2Proof.Machine

section GoesOn

variable {s : State} {la : AttId} {i : SliceId} {m : PortId} {a : AgentId}

/-! ## Outcomes that are a next state -/

theorem exists_next_of_goesOn {o : Host.Outcome State Fault Refusal} (h : goesOn o = true) : ∃ t, o = .next t := by
  cases o with
  | next t => exact ⟨t, rfl⟩
  | fault r => cases h
  | refused r => cases h

theorem goesOn_ite {c : Prop} [Decidable c] {o p : Host.Outcome State Fault Refusal} (ho : goesOn o = true)
    (hp : goesOn p = true) : goesOn (if c then o else p) = true := by split <;> assumption

/-- A stop behind a guard that does not hold. -/
theorem goesOn_else {c : Prop} [Decidable c] {o p : Host.Outcome State Fault Refusal} (hc : ¬c) (hp : goesOn p = true) :
    goesOn (if c then o else p) = true := by rwa [if_neg hc]

/-! ## Messages of an attachment (R34, R265) -/

theorem goesOn_of_not_silent {o p : Host.Outcome State Fault Refusal} (h : s.silent la = false) (hp : goesOn p = true) :
    goesOn (if s.silent la then o else p) = true := goesOn_else (by simp [h]) hp

theorem execUnlistedRequest_goesOn {ch : InCh} {opc : BitVec 5} {q : ReqHdr} (h : s.silent la = false) :
    goesOn (execUnlistedRequest la ch opc q s) = true := by
  refine goesOn_ite rfl (goesOn_of_not_silent h ?_)
  dsimp only
  split
  · rfl
  · exact goesOn_ite rfl rfl

theorem execUnlistedBirsp_goesOn {opc : BitVec 4} (h : s.silent la = false) : goesOn (execUnlistedBirsp la opc a s) = true :=
  goesOn_ite rfl (goesOn_of_not_silent h (goesOn_ite rfl rfl))

theorem unlistedReq_eq_not_listedReq {ch : InCh} {opc : BitVec 5} : unlistedReq ch opc = !listedReq ch opc := by
  cases ch <;> rfl

theorem unlistedRsp_iff {opc : BitVec 4} : unlistedRsp opc = true ↔ ¬(opc = 1 ∨ opc = 2 ∨ opc = 3 ∨ opc = 8) := by
  simp [unlistedRsp, and_assoc]

theorem execUnlistedRequest_of_silent {ch : InCh} {opc : BitVec 5} {q : ReqHdr} (hu : unlistedReq ch opc = true)
    (h : s.silent la = true) : execUnlistedRequest la ch opc q s = .fault .noPromise := by
  have hl : ¬listedReq ch opc = true := by simpa [unlistedReq_eq_not_listedReq] using hu
  rw [execUnlistedRequest, if_neg hl, if_pos h]

theorem execUnlistedBirsp_of_silent {opc : BitVec 4} (hu : unlistedRsp opc = true) (h : s.silent la = true) :
    execUnlistedBirsp la opc a s = .fault .noPromise := by
  rw [execUnlistedBirsp, if_neg (unlistedRsp_iff.mp hu), if_pos h]

/-- A message of an attachment that has acknowledged the closing of its gate stops the machine (R265). -/
theorem exec_of_silent {c : Instr} (hw : c.wellFormed = true) (hc : msgFrom c = some la) (h : s.silent la = true) :
    exec c s = .fault .noPromise := by
  cases c with
  | unlistedRequest k ch opc q => cases hc; exact execUnlistedRequest_of_silent hw h
  | unlistedBirsp k opc b => cases hc; exact execUnlistedBirsp_of_silent hw h
  | rdShared | rdOwn | rdCur | rdAtomic | inv | evictClean | conflict | fence | rsvRd | wrFull | wrKeep | wrPartial | hatom
  | condWr | birspI | birspS | birspE | egressAck => cases hc; exact if_pos h
  | _ => cases hc

/-! ## Commands that carry lists -/

theorem execJournalProgram_goesOn {sector : BitVec 6} {record : BitVec 7} {bytes readBack : List Byte}
    (hb : bytes.length = 32) (hr : readBack.length = 32) :
    goesOn (execJournalProgram sector record bytes readBack s) = true :=
  goesOn_else (by simp [hb, hr]) (goesOn_ite rfl rfl)

theorem execMailboxReply_goesOn {ch : MbxCh} {msg : List Byte} (h : msg.length ≤ 64) :
    goesOn (execMailboxReply ch msg s) = true :=
  goesOn_else (by omega) (goesOn_ite rfl rfl)

theorem execSbBlockWrite_goesOn {bytes : List Byte} {p : Option Byte} (h0 : 0 < bytes.length) (h : bytes.length ≤ 64) :
    goesOn (execSbBlockWrite bytes p s) = true :=
  goesOn_else (by omega) (goesOn_ite rfl (goesOn_ite rfl rfl))

theorem execReadJournal_goesOn {ch : MbxCh} {rec : List Byte} (h : rec.length = 32) :
    goesOn (execReadJournal ch rec s) = true :=
  goesOn_else (by simp [h]) rfl

theorem execSlotHeaderCheck_goesOn {z : BitVec 17} {hdrA hdrB : List Byte} (ha : hdrA.length = 512) (hb : hdrB.length = 512) :
    goesOn (execSlotHeaderCheck z hdrA hdrB s) = true :=
  goesOn_else (by simp [ha, hb]) (goesOn_ite rfl (goesOn_ite rfl rfl))

theorem execBodyBlockRead_goesOn {words : List Word32} (h : words.length = 1024) :
    goesOn (execBodyBlockRead words s) = true :=
  goesOn_else (by simp [h]) (goesOn_ite rfl (goesOn_ite rfl rfl))

theorem execBodyHashCheck_goesOn {cox : List Byte} (h : cox.length = coxLen (s.boot.hdr s.boot.slot)) :
    goesOn (execBodyHashCheck cox s) = true :=
  goesOn_ite rfl (goesOn_ite rfl (goesOn_else (not_not.mpr h) (goesOn_ite rfl rfl)))

theorem execCoxRestartDone_goesOn {sram reload : List Byte} (hs : sram.length = s.boot.coxLen)
    (hr : reload.length = s.boot.coxLen) : goesOn (execCoxRestartDone sram reload s) = true :=
  goesOn_ite rfl (goesOn_else (not_not.mpr hs) (goesOn_ite rfl (goesOn_else (not_not.mpr hr) (goesOn_ite rfl rfl))))

/-! ## Commands that look at more than one thing -/

theorem execDataPull_goesOn : goesOn (execDataPull la s) = true := by
  dsimp only [execDataPull]
  split
  · rfl
  · split <;> rfl

theorem execDxbBeat_goesOn {out : DxbOut} {par : BeatParity} : goesOn (execDxbBeat out par s) = true := by
  dsimp only [execDxbBeat]
  split
  · split
    · rfl
    · split
      · rfl
      · exact goesOn_ite rfl rfl
  · split
    · rfl
    · split
      · rfl
      · exact goesOn_ite rfl rfl

theorem execEgressAckLate_goesOn {slot : BitVec 10} : goesOn (execEgressAckLate i slot s) = true := by
  dsimp only [execEgressAckLate]
  split
  · rfl
  · split
    · exact goesOn_ite rfl rfl
    · rfl

theorem execSnoopIssue_goesOn {row : BitVec 3} : goesOn (execSnoopIssue i row s) = true := by
  dsimp only [execSnoopIssue]
  split
  · split
    · rfl
    · split <;> rfl
  · rfl

theorem execSnoopTimeout_goesOn {slot : BitVec 10} : goesOn (execSnoopTimeout i slot a s) = true := by
  dsimp only [execSnoopTimeout]
  split
  · split
    · rfl
    · exact goesOn_ite rfl (goesOn_ite rfl rfl)
  · rfl

theorem execSnoopClose_goesOn {slot : BitVec 10} : goesOn (execSnoopClose i slot a s) = true := by
  dsimp only [execSnoopClose]
  split
  · split
    · rfl
    · exact goesOn_ite rfl rfl
  · rfl

theorem execTicketExpiry_goesOn : goesOn (execTicketExpiry i a s) = true := by
  dsimp only [execTicketExpiry]
  split
  · rfl
  · split
    · rfl
    · exact goesOn_ite rfl rfl

theorem execRead_goesOn {par : Parity} {tags : List (BitVec 4 × HlbFind)} : goesOn (execRead m par s tags) = true := by
  dsimp only [execRead]
  split
  · rfl
  · exact goesOn_ite rfl (goesOn_ite rfl rfl)

theorem execWrite_goesOn {tags : List (BitVec 4 × HlbFind)} : goesOn (execWrite m s tags) = true := by
  dsimp only [execWrite]
  split
  · rfl
  · split
    · exact goesOn_ite rfl rfl
    · rfl

theorem execWritePartial_goesOn {par : Parity} {tags : List (BitVec 4 × HlbFind)} :
    goesOn (execWritePartial m par s tags) = true := by
  dsimp only [execWritePartial]
  split
  · rfl
  · split
    · split
      · rfl
      · exact goesOn_ite rfl (goesOn_ite rfl rfl)
    · rfl

theorem execAtomic_goesOn {par : Parity} {tags : List (BitVec 4 × HlbFind)} : goesOn (execAtomic m par s tags) = true := by
  dsimp only [execAtomic]
  split
  · rfl
  · split
    · exact goesOn_ite rfl rfl
    · rfl

theorem execDrainLimitExpiry_goesOn : goesOn (execDrainLimitExpiry m s) = true := by
  dsimp only [execDrainLimitExpiry]
  split
  · split
    · split
      · split <;> rfl
      · rfl
    · rfl
  · rfl

theorem execFenceReport_goesOn : goesOn (execFenceReport la s) = true := by
  dsimp only [execFenceReport]
  split
  · rfl
  · split
    · rfl
    · exact goesOn_ite rfl rfl

theorem execCalibrationSample_goesOn : goesOn (execCalibrationSample i s) = true := by
  dsimp only [execCalibrationSample]
  split
  · rfl
  · split
    · rfl
    · exact goesOn_ite rfl rfl

theorem execFlitReceive_goesOn {i : Fin 80} {l : LinkPort} {plane : Bool} {err : Flit} {under : Option (BitVec 2)} :
    goesOn (execFlitReceive i l plane err s under) = true := by
  dsimp only [execFlitReceive]
  split
  · rfl
  · split
    · rfl
    · split
      · rfl
      · split <;> rfl

theorem execRestEntryStep_goesOn {m : BitVec 24} : goesOn (execRestEntryStep m s) = true := by
  dsimp only [execRestEntryStep]
  split
  · rfl
  · split
    · rfl
    · rfl
    · split <;> rfl
    · exact goesOn_ite rfl (goesOn_ite rfl rfl)
    · rfl
    · rfl

theorem execPowerLoss_goesOn {rail : Rail} : goesOn (execPowerLoss rail s) = true := by
  dsimp only [execPowerLoss]
  split
  · exact goesOn_ite rfl rfl
  · rfl
  · rfl

theorem execMapAck_goesOn : goesOn (execMapAck s) = true := by
  dsimp only [execMapAck]
  split
  · rfl
  · split
    · rfl
    · split
      · exact goesOn_ite rfl rfl
      · rfl

theorem execMailboxTake_goesOn {ch : MbxCh} : goesOn (execMailboxTake ch s) = true := by
  dsimp only [execMailboxTake]
  split
  · rfl
  · split <;> exact goesOn_ite rfl rfl

theorem execTimePulse_goesOn : goesOn (execTimePulse s) = true := by
  dsimp only [execTimePulse]
  split
  · rfl
  · split
    · exact goesOn_ite rfl rfl
    · rfl

/-! ## Every command -/

/-- A command that keeps the promise of R265 and whose lists have the length of what they stand for answers a next state. -/
theorem exec_goesOn {c : Instr} (hp : s.keepsPromise c) (hw : c.wellFormed = true)
    (hcox : ∀ cox, c = .bodyHashCheck cox → cox.length = coxLen (s.boot.hdr s.boot.slot))
    (hsram : ∀ x y, c = .coxRestartDone x y → x.length = s.boot.coxLen ∧ y.length = s.boot.coxLen) :
    goesOn (exec c s) = true := by
  cases c with
  | rdShared | rdOwn | rdCur | rdAtomic | inv | evictClean | conflict | fence | rsvRd | wrFull | wrKeep | wrPartial | hatom
  | condWr | birspI | birspS | birspE | egressAck => exact goesOn_of_not_silent (hp _ rfl) rfl
  | unlistedRequest => exact execUnlistedRequest_goesOn (hp _ rfl)
  | unlistedBirsp => exact execUnlistedBirsp_goesOn (hp _ rfl)
  | slotHeaderCheck _ hdrA hdrB =>
    obtain ⟨ha, hb⟩ : hdrA.length = 512 ∧ hdrB.length = 512 := by simpa [Instr.wellFormed] using hw
    exact execSlotHeaderCheck_goesOn ha hb
  | journalProgram _ _ bytes readBack =>
    obtain ⟨hb, hr⟩ : bytes.length = 32 ∧ readBack.length = 32 := by simpa [Instr.wellFormed] using hw
    exact execJournalProgram_goesOn hb hr
  | sbBlockWrite bytes _ =>
    obtain ⟨h0, h64⟩ : 0 < bytes.length ∧ bytes.length ≤ 64 := by simpa [Instr.wellFormed] using hw
    exact execSbBlockWrite_goesOn h0 h64
  | bodyBlockRead => exact execBodyBlockRead_goesOn (of_decide_eq_true hw)
  | mailboxReply => exact execMailboxReply_goesOn (of_decide_eq_true hw)
  | readJournal => exact execReadJournal_goesOn (of_decide_eq_true hw)
  | bodyHashCheck cox => exact execBodyHashCheck_goesOn (hcox cox rfl)
  | coxRestartDone x y =>
    obtain ⟨hx, hy⟩ := hsram x y rfl
    exact execCoxRestartDone_goesOn hx hy
  | dataPull => exact execDataPull_goesOn
  | dxbBeat => exact execDxbBeat_goesOn
  | egressAckLate => exact execEgressAckLate_goesOn
  | snoopIssue => exact execSnoopIssue_goesOn
  | snoopTimeout => exact execSnoopTimeout_goesOn
  | snoopClose => exact execSnoopClose_goesOn
  | ticketExpiry => exact execTicketExpiry_goesOn
  | read => exact execRead_goesOn
  | write => exact execWrite_goesOn
  | writePartial => exact execWritePartial_goesOn
  | atomic => exact execAtomic_goesOn
  | drainLimitExpiry => exact execDrainLimitExpiry_goesOn
  | fenceReport => exact execFenceReport_goesOn
  | calibrationSample => exact execCalibrationSample_goesOn
  | flitReceive => exact execFlitReceive_goesOn
  | restEntryStep => exact execRestEntryStep_goesOn
  | powerLoss => exact execPowerLoss_goesOn
  | mapAck => exact execMapAck_goesOn
  | mailboxTake => exact execMailboxTake_goesOn
  | timePulse => exact execTimePulse_goesOn
  -- a next state without a condition
  | handOverPass | portRpt | escalationRetry | replay | castFetchReturn | castWriteCompletion | cuckooBucketRead |
  capacityRecallStart | broadcastRecoveryStart | agentPermissionWrite | laRefuseClear | flowErrClear | serClear | hlbClear |
  atmClear | mpClear | rtrLinkClear | rtrProbeClear | qClear | modeClear | regClear | evClear | sampClear | laOrdClear |
  rasClear | rasGlobalClear | hlbMaintStart | hlbDisable | hlbEnable | routerReconfigStart | laGateClose | laGateOpen |
  warmReset | coldReset | aonReset | padRecord | writeRecord | maskRecord | pollRecord | waitRecord | endRecord | registerWrite
  | broadcastRead | claim | cntLoRead | dcycLowRead | prbCntLowRead | tbNowLoRead | getInfo | readLog | readSensors | getLife |
  updBegin | updData | updCommit | updConfirm | updAbort | debugUnlock | aonResetRelease => rfl
  -- guards alone decide between next states
  | backgroundWaitLimit | departureSweepStep | patrolScrubStep | silhouetteRebuildStep | admissionScanStep | ageClockAdvance |
  predictorDecay | agentLeavingDone | join | leave | agentFence | release | unknownAgentCommand | windowReq | sweepStep |
  epochAdvance | ageEngineVisit | hlbScrubStep | calibrationWindowEnd | nak | gateAck | gateDrained | gateReopen | traceOut |
  restReq | quiesceSet | quiesceClear | restDrainLimit | sidebandAddressMatch | wakeIn | shedQualify | shedForce | calibrateExit
  | warmResetRelease | resize | move | arrayClearDone | complete | evSrcWrite | tgtCtrlWrite | arm | disarm | counterOverflow |
  freeze | freezeRelease | counterClear | snapGo | snapNow | coxReset | watchdogExpiry | watchdogKick | coxFault | clockAbsent |
  clockPresent | eventLogRecord | mailboxPost | mailboxTaken | sbBlockRead | sbReadByte | tbSet | timebaseSlewStep | holdEnter |
  holdFlush | jtagRegacc | mbistStart | mbistDone | castHeaderReturn | unlistedMrespWord =>
    exact goesOn_ite rfl rfl
  | queuePointerMismatch | quiesceDrainAdvance | restExitStep | droopAlert | shedStepDown | coldResetRelease | signatureCheck |
  operatingMinute =>
    exact goesOn_ite rfl (goesOn_ite rfl rfl)
  -- a guard, then the head of a queue or an operand
  | newRequestPass | snoopResponsePass | egressAckPass | snoopResponseWrite =>
    exact goesOn_ite (by split <;> rfl) rfl
  | powerFail | sensorSample | flashDiscovery =>
    exact goesOn_ite rfl (by dsimp only; split <;> rfl)
  -- one thing that the state holds or the command names is looked at, then at most one guard
  | creditReturn | creditAdvertisement | linkEgressSend | barrierExpiry | mcmdIssue | windowArbiterGrant | windowLimitExpiry |
  bouncedMessage | handover | mapSet | eventMessage | globalSourceChange | sampleRecord | counterWindowRead =>
    dsimp only [exec, execCreditReturn, execCreditAdvertisement, execLinkEgressSend, execBarrierExpiry, execMcmdIssue,
      execWindowArbiterGrant, execWindowLimitExpiry, execBouncedMessage, execHandover, execMapSet, execEventMessage,
      execGlobalSourceChange, execSampleRecord, execCounterWindowRead]
    split <;> rfl
  | gateRelease | castStoreCommand | mrdataBeat | cmpl | windowRequestStarving | sweepRequest | fenceClose | hlbMaintVisit |
  routerReconfigSwitch | bucketWriteBack | snapCapture | snapDomainTimeout =>
    dsimp only [exec, execGateRelease, execCastStoreCommand, execMrdataBeat, execCmpl, execWindowRequestStarving,
      execSweepRequest, execFenceClose, execHlbMaintVisit, execRouterReconfigSwitch, execBucketWriteBack, execSnapCapture,
      execSnapDomainTimeout]
    split
    · rfl
    · exact goesOn_ite rfl rfl
  | joinLimitExpiry | warmLimitExpiry | bucketMarkMoving | pollRead | pollLimitExpiry | waitExpiry =>
    dsimp only [exec, execJoinLimitExpiry, execWarmLimitExpiry, execBucketMarkMoving, execPollRead, execPollLimitExpiry,
      execWaitExpiry]
    split
    · exact goesOn_ite rfl rfl
    · rfl

end GoesOn

/-- Settles O3: by cases on the command. Only the guard on a silent attachment and the guards on the lengths of lists lead to a
stop; every other branch answers a next state. -/
theorem stopsAreNamed : Obligations.StopsAreNamed := by
  unfold Obligations.StopsAreNamed
  constructor
  · intro c s hp hw hcox hsram
    exact exists_next_of_goesOn (exec_goesOn hp hw hcox hsram)
  · intro c la s hw hc hs
    exact exec_of_silent hw hc hs

end Sys2Proof.Machine

/-! SUPPORT. The read switch and the write switch: what returning an order-table entry leaves of what the read switch works on,
and the effects of DATA_PULL and DXB_BEAT. -/

namespace Sys2Proof.Machine

section Dxb

variable {s : State} {la k : AttId} {m : PortId} {r : Req}

/-! ## Counting sends packets alone on the Armature -/

theorem State.evSend_mesh {i : Nat} {v : Bool} : (s.evSend i v).mesh = { s.mesh with inj := (s.evSend i v).mesh.inj } := by
  unfold State.evSend
  split
  · rfl
  · split <;> rfl

theorem State.fire_mesh {i : Nat} : (s.fire i).mesh = { s.mesh with inj := (s.fire i).mesh.inj } := by
  rw [State.fire, State.evSend_mesh, State.evSend_mesh (s := s)]

theorem State.count_mesh {i n : Nat} : (s.count i n).mesh = { s.mesh with inj := (s.count i n).mesh.inj } := by
  unfold State.count
  split
  · rfl
  · dsimp only
    split
    · split
      · rw [State.modSl_mesh, State.fire_mesh]; rfl
      · rw [State.fire_mesh]; rfl
    · rfl

/-! ## What the read switch works on -/

/-- What the read switch works on: the attachments' DRS egress queues, the ports' beats for it, and its arbiters' pointers. -/
def State.readSwitch (s : State) : (AttId → List (Nat × Drs)) × (PortId → List RBeat) × Store Nat :=
  (fun k => (s.att k).drsQ, fun m => (s.mp m).rsIn, s.mesh.rdPtr)

theorem State.readSwitch_ext {t : State} (ha : ∀ k, (t.att k).drsQ = (s.att k).drsQ) (hm : ∀ m, (t.mp m).rsIn = (s.mp m).rsIn)
    (hp : t.mesh.rdPtr = s.mesh.rdPtr) : t.readSwitch = s.readSwitch := by
  simp [State.readSwitch, ha, hm, hp]

/-- Equal read switches have equal queues, beats and pointers. -/
theorem State.readSwitch_inj {t : State} : t.readSwitch = s.readSwitch ↔
    (∀ k, (t.att k).drsQ = (s.att k).drsQ) ∧ (∀ m, (t.mp m).rsIn = (s.mp m).rsIn) ∧ t.mesh.rdPtr = s.mesh.rdPtr := by
  simp [State.readSwitch, funext_iff]

/-- A change of an attachment that leaves its DRS queue alone. -/
theorem State.readSwitch_modAtt {f : Att → Att} (h : ∀ a, (f a).drsQ = a.drsQ) : (s.modAtt k f).readSwitch = s.readSwitch :=
  readSwitch_ext (fun j => by rw [State.att_modAtt]; split <;> simp_all) (fun _ => by simp) (by simp)

/-- A change of a port that leaves its beats for the read switch alone. -/
theorem State.readSwitch_modMp {f : Port → Port} (h : ∀ p, (f p).rsIn = p.rsIn) : (s.modMp m f).readSwitch = s.readSwitch :=
  readSwitch_ext (fun _ => by simp) (fun j => by rw [State.mp_modMp]; split <;> simp_all) (by simp)

@[simp] theorem State.inject_readSwitch {a b : Place} {n : Nat} {c : BitVec 107} {l : List (BitVec 128)} :
    (s.inject a b n c l).readSwitch = s.readSwitch := rfl
@[simp] theorem State.incF_readSwitch {f : Fld} : (s.incF f).readSwitch = s.readSwitch :=
  readSwitch_ext (by simp) (by simp) (by simp)
@[simp] theorem State.modSl_readSwitch {i : SliceId} {f : Slice → Slice} : (s.modSl i f).readSwitch = s.readSwitch :=
  readSwitch_ext (by simp) (by simp) (by simp)
@[simp] theorem State.mpBounced_readSwitch : (s.mpBounced m).readSwitch = s.readSwitch :=
  readSwitch_ext (by simp) (by simp) (by simp)

@[simp] theorem State.count_readSwitch {i n : Nat} : (s.count i n).readSwitch = s.readSwitch :=
  readSwitch_ext (by simp) (by simp) (by rw [State.count_mesh])
@[simp] theorem State.fire_readSwitch {i : Nat} : (s.fire i).readSwitch = s.readSwitch :=
  readSwitch_ext (by simp) (by simp) (by rw [State.fire_mesh])

@[simp] theorem State.refuse_readSwitch {f : AttId → Fld} : (s.refuse k f).readSwitch = s.readSwitch := by simp [State.refuse]
@[simp] theorem State.egNdr_readSwitch {n : Ndr} : (s.egNdr k n).readSwitch = s.readSwitch := readSwitch_modAtt fun _ => rfl
@[simp] theorem State.giveBack_readSwitch {a b : Nat} : (s.giveBack k a b).readSwitch = s.readSwitch :=
  readSwitch_modAtt fun _ => rfl
@[simp] theorem State.retReq_readSwitch : (s.retReq k).readSwitch = s.readSwitch := giveBack_readSwitch

@[simp] theorem State.freeBuf_readSwitch {b : Option (BitVec 5)} : (s.freeBuf k b).readSwitch = s.readSwitch := by
  cases b with
  | none => rfl
  | some i => exact giveBack_readSwitch.trans (readSwitch_modAtt fun _ => rfl)

@[simp] theorem State.dropReq_readSwitch : (s.dropReq r).readSwitch = s.readSwitch := by
  unfold State.dropReq; split <;> simp

/-! ## A freed order-table entry lets requests in, and the read switch stays -/

@[simp] theorem State.edgeRetry_readSwitch : (s.edgeRetry r).readSwitch = s.readSwitch := by simp [State.edgeRetry]

@[simp] theorem State.freeEntry0_readSwitch {a : AgentId} {t : BitVec 16} : (s.freeEntry0 k a t).readSwitch = s.readSwitch := by
  unfold State.freeEntry0
  split
  · rfl
  · exact readSwitch_modAtt fun _ => rfl

@[simp] theorem State.edgeError_readSwitch : (s.edgeError r).readSwitch = s.readSwitch := by simp [State.edgeError]

theorem State.bouncedMesh_readSwitch {b : List Bounced} :
    ({ s with mesh := { s.mesh with bounced := b } } : State).readSwitch = s.readSwitch := rfl

@[simp] theorem State.sendSweep_readSwitch {f : JoinedFence} : (s.sendSweep m f).readSwitch = s.readSwitch := by
  unfold State.sendSweep
  dsimp only
  split
  · rw [State.readSwitch_modMp (by simp), State.inject_readSwitch]
  · rw [State.bouncedMesh_readSwitch, State.mpBounced_readSwitch, State.inject_readSwitch]

@[simp] theorem State.sendSweeps_readSwitch {f : JoinedFence} {ms : List PortId} :
    (ms.foldl (fun s m => s.sendSweep m f) s).readSwitch = s.readSwitch := by
  induction ms generalizing s with
  | nil => rfl
  | cons m ms ih => simp [ih]

@[simp] theorem State.fenceTake_readSwitch {i : Nat} : (s.fenceTake k i r).readSwitch = s.readSwitch := by
  unfold State.fenceTake
  simp only [State.count_readSwitch, State.retReq_readSwitch, State.sendSweeps_readSwitch]
  exact readSwitch_modAtt fun _ => rfl

@[simp] theorem State.toNew_readSwitch : (s.toNew r).readSwitch = s.readSwitch := by simp [State.toNew]

theorem State.addWinRd_readSwitch :
    (s.modAtt k (fun a => { a with winRd := a.winRd ++ [r] })).readSwitch = s.readSwitch := readSwitch_modAtt fun _ => rfl

@[simp] theorem State.passIn_readSwitch : (s.passIn r).readSwitch = s.readSwitch := by
  unfold State.passIn
  dsimp only
  split
  · simp
  · (repeat' split) <;> simp [State.addWinRd_readSwitch]
  · (repeat' split) <;> simp [State.addWinRd_readSwitch]
  · simp

@[simp] theorem State.enterOrder_readSwitch : (s.enterOrder r).readSwitch = s.readSwitch := by
  unfold State.enterOrder
  dsimp only
  split
  · rw [State.passIn_readSwitch]; exact readSwitch_modAtt fun _ => rfl
  · split
    · rw [State.count_readSwitch]; exact readSwitch_modAtt fun _ => rfl
    · exact State.edgeRetry_readSwitch

theorem State.pullLoop_readSwitch {n : Nat} : (State.pullLoop n k s).readSwitch = s.readSwitch := by
  induction n generalizing s with
  | zero => rfl
  | succ n ih =>
    unfold State.pullLoop
    dsimp only
    split
    · rfl
    · split
      · rfl
      · rw [ih]
        split <;> simp only [State.edgeRetry_readSwitch, State.enterOrder_readSwitch] <;> exact readSwitch_modAtt fun _ => rfl

@[simp] theorem State.pullWait_readSwitch : (s.pullWait k).readSwitch = s.readSwitch := pullLoop_readSwitch

@[simp] theorem State.freeEntry_readSwitch {a : AgentId} {t : BitVec 16} : (s.freeEntry k a t).readSwitch = s.readSwitch := by
  unfold State.freeEntry
  split <;> simp

@[simp] theorem State.performPart_readSwitch {a : AgentId} {t : BitVec 16} {parts : BitVec 2} :
    (s.performPart k a t parts).readSwitch = s.readSwitch := by
  unfold State.performPart
  split
  · rfl
  · split
    · exact readSwitch_modAtt fun _ => rfl
    · simp

@[simp] theorem State.rptTo_readSwitch {i : SliceId} {p : PortRpt} : (s.rptTo i p).readSwitch = s.readSwitch := by
  simp [State.rptTo, State.toInt]

@[simp] theorem State.classPsn_readSwitch : s.classPsn.readSwitch = s.readSwitch := by simp [State.classPsn]

/-! ## DXB_BEAT (R22, R389) -/

/-- A DRS message enters the queue in a state with the same attachments and the same read switch. -/
theorem State.egDrs_readSwitch_congr {t : State} {d : Drs} (ha : ∀ j, t.att j = s.att j) (h : t.readSwitch = s.readSwitch) :
    (t.egDrs k d).readSwitch = (s.egDrs k d).readSwitch := by
  obtain ⟨-, hm, hp⟩ := State.readSwitch_inj.mp h
  exact State.readSwitch_ext (fun j => by simp [State.egDrs, State.att_modAtt, ha]) (by simpa using hm) (by simpa using hp)

/-- A beat for an agent that is not fenced enters the DRS queue; a bad one as poison (R389). -/
theorem State.readBeat_readSwitch {b : RBeat} {bad : Bool} (h : (s.agent b.drs.agent).st ≠ .fenced) :
    (s.readBeat la b bad).readSwitch = (s.egDrs la { b.drs with psn := b.drs.psn || bad }).readSwitch := by
  have hin : ∀ d : Drs, ((if bad then (s.count (cLa la 21) 1).classPsn else s.count (cLa la 21) 1).egDrs la d).readSwitch
      = (s.egDrs la d).readSwitch := fun d =>
    State.egDrs_readSwitch_congr (fun j => by split <;> simp [State.classPsn]) (by split <;> simp)
  have hf : ((if bad then (s.count (cLa la 21) 1).classPsn else s.count (cLa la 21) 1).agent b.drs.agent).st ≠ .fenced := by
    split <;> simpa [State.classPsn] using h
  unfold State.readBeat
  dsimp only
  split <;> simp [hf, hin]

/-- The DRS queue after a message has entered it. -/
theorem State.drsQ_egDrs_self {d : Drs} : ((s.egDrs k d).att k).drsQ = (s.att k).drsQ ++ [((s.att k).seq, d)] := by
  simp [State.egDrs]

/-- The read switch's arbiter has granted input n to attachment la: its pointer moves behind the input, whose beat leaves
(R22). -/
def State.grantRead (s : State) (la : AttId) (n : Nat) : State :=
  { s with mesh := { s.mesh with rdPtr := Store.set 0 s.mesh.rdPtr la.toNat ((n + 1) % 32) } }.modMp (BitVec.ofNat 5 n)
    (fun p => { p with rsIn := p.rsIn.drop 1 })

theorem State.grantRead_rsIn {n : Nat} :
    ((s.grantRead la n).mp (BitVec.ofNat 5 n)).rsIn = (s.mp (BitVec.ofNat 5 n)).rsIn.drop 1 := by
  rw [State.grantRead, State.mp_modMp_self]; rfl
theorem State.grantRead_rdPtr {n : Nat} : Store.get 0 (s.grantRead la n).mesh.rdPtr la.toNat = (n + 1) % 32 :=
  Store.get_set_self

/-- DXB_BEAT of the read switch, for a header of good parity. -/
theorem execDxbBeat_read {n : Nat} {b : RBeat} {par : BeatParity}
    (hg : grantOf 32 (Store.get 0 s.mesh.rdPtr la.toNat)
      (fun m => (((s.mp (BitVec.ofNat 5 m)).rsIn.head?).map (fun b => decide (b.la = la))).getD false) = some n)
    (hb : (s.mp (BitVec.ofNat 5 n)).rsIn.head? = some b) (hp : par ≠ .headerBad) :
    execDxbBeat (.read la) par s = .next ((s.grantRead la n).readBeat la b (decide (par = .dataBad))) := by
  simp only [execDxbBeat, hg, hb, if_neg hp, State.grantRead]

/-- The write switch's arbiter has granted input n to memory port m: its pointer moves behind the input, whose beat leaves and is
counted (R22). -/
def State.grantWrite (s : State) (m : PortId) (n : Nat) : State :=
  ({ s with mesh := { s.mesh with wrPtr := Store.set 0 s.mesh.wrPtr m.toNat ((n + 1) % 16) } }.modAtt (BitVec.ofNat 4 n)
    (fun a => { a with wsIn := a.wsIn.drop 1 })).count (cLa (BitVec.ofNat 4 n) 22) 1

@[simp] theorem State.grantWrite_mp {n : Nat} {j : PortId} : (s.grantWrite m n).mp j = s.mp j := by
  simp [State.grantWrite, State.mp]
theorem State.grantWrite_wsIn {n : Nat} :
    ((s.grantWrite m n).att (BitVec.ofNat 4 n)).wsIn = (s.att (BitVec.ofNat 4 n)).wsIn.drop 1 := by
  rw [State.grantWrite, State.count_att, State.att_modAtt_self]; rfl
theorem State.grantWrite_wrPtr {n : Nat} : Store.get 0 (s.grantWrite m n).mesh.wrPtr m.toNat = (n + 1) % 16 := by
  rw [State.grantWrite, State.count_mesh]; exact Store.get_set_self

/-- A beat of the write switch reaches memory port m; a bad one as poison (R22, R389). -/
def State.writeBeat (s : State) (m : PortId) (b : WBeat) (bad : Bool) : State :=
  (if bad then s.classPsn else s).modMp m (fun p => { p with beats := p.beats ++ [{ b with psn := b.psn || bad }] })

theorem State.writeBeat_beats {b : WBeat} {bad : Bool} :
    ((s.writeBeat m b bad).mp m).beats = (s.mp m).beats ++ [{ b with psn := b.psn || bad }] := by
  rw [State.writeBeat, State.mp_modMp_self]; split <;> simp [State.classPsn]
@[simp] theorem State.writeBeat_att {b : WBeat} {bad : Bool} : (s.writeBeat m b bad).att k = s.att k := by
  rw [State.writeBeat, State.modMp_att]; split <;> simp [State.classPsn]
@[simp] theorem State.writeBeat_mesh {b : WBeat} {bad : Bool} : (s.writeBeat m b bad).mesh = s.mesh := by
  rw [State.writeBeat, State.modMp_mesh]; split <;> simp [State.classPsn]

/-- DXB_BEAT of the write switch, for a header of good parity. -/
theorem execDxbBeat_write {n : Nat} {b : WBeat} {par : BeatParity}
    (hg : grantOf 16 (Store.get 0 s.mesh.wrPtr m.toNat)
      (fun k => (((s.att (BitVec.ofNat 4 k)).wsIn.head?).map (fun b => decide (b.port = m))).getD false) = some n)
    (hb : (s.att (BitVec.ofNat 4 n)).wsIn.head? = some b) (hp : par ≠ .headerBad) :
    execDxbBeat (.write m) par s = .next ((s.grantWrite m n).writeBeat m b (decide (par = .dataBad))) := by
  simp only [execDxbBeat, hg, hb, if_neg hp, State.grantWrite, State.writeBeat]

/-! ## DATA_PULL (R108) -/

/-- DATA_PULL of data for a memory port. -/
theorem execDataPull_port {p : Pull} {rest : List Pull} {b : WBuf} (hp : (s.att la).pulls = p :: rest) (hm : p.port = some m)
    (hb : Store.get none (s.att la).bufs p.buf.toNat = some b) :
    execDataPull la s = .next (((s.modAtt la (fun a => { a with pulls := rest })).modAtt la (fun a => { a with
      wsIn := a.wsIn ++ [{ port := m, slice := p.slice, tag := p.tag, w := b.w, psn := b.psn }] })).freeBuf la (some p.buf)) := by
  simp [execDataPull, hp, hm, hb]

/-- An attachment after a buffer of it is freed (R107, R108). -/
theorem State.att_freeBuf_self {i : BitVec 5} : (s.freeBuf la (some i)).att la
    = ({ s.att la with bufs := Store.set none (s.att la).bufs i.toNat none }).giveBack (decide (3 ≤ s.level)) 0 1 := by
  rw [State.freeBuf, State.att_giveBack_self, State.att_modAtt_self, State.modAtt_level]

theorem State.att_freeBuf_ne {b : Option (BitVec 5)} (h : k ≠ la) : (s.freeBuf la b).att k = s.att k := by
  cases b with
  | none => rfl
  | some i => simp [State.freeBuf, State.att_giveBack, State.att_modAtt, h]

@[simp] theorem State.freeBuf_slices {b : Option (BitVec 5)} : (s.freeBuf la b).slices = s.slices := by
  cases b <;> simp [State.freeBuf]
@[simp] theorem State.freeBuf_ports {b : Option (BitVec 5)} : (s.freeBuf la b).ports = s.ports := by
  cases b <;> simp [State.freeBuf]

end Dxb

/-- Settles O15. What enters the DRS queue enters last; returning the order-table entry afterwards can let requests in, but
leaves what the read switch works on. -/
theorem dataMovesThroughTheDxb : Obligations.DataMovesThroughTheDxb := by
  unfold Obligations.DataMovesThroughTheDxb
  refine ⟨?_, ?_, ?_⟩
  · intro la p rest m b s hp hm hb
    refine ⟨_, execDataPull_port hp hm hb, ?_, ?_, ?_, ?_, fun k hk => ?_, by simp, by simp⟩
    · simp [State.att_freeBuf_self]
    · simp [State.att_freeBuf_self]
    · simp [State.att_freeBuf_self]
    · simp [State.att_freeBuf_self, Att.giveBack_rwd]
    · simp [State.att_freeBuf_ne hk, State.att_modAtt, hk]
  · intro la n b par s hg hb hp hf
    obtain ⟨hd, hr, hq⟩ := State.readSwitch_inj.mp
      (State.readBeat_readSwitch (s := s.grantRead la n) (la := la) (b := b) (bad := decide (par = .dataBad)) hf)
    refine ⟨_, execDxbBeat_read hg hb hp, ?_, ?_, ?_⟩
    · rw [hd, State.drsQ_egDrs_self]; rfl
    · rw [hr, State.egDrs_mp, State.grantRead_rsIn]
    · rw [hq, State.egDrs_mesh, State.grantRead_rdPtr]
  · intro m n b par s hg hb hp
    refine ⟨_, execDxbBeat_write hg hb hp, ?_, ?_, ?_⟩
    · rw [State.writeBeat_beats, State.grantWrite_mp]
    · rw [State.writeBeat_att, State.grantWrite_wsIn]
    · rw [State.writeBeat_mesh, State.grantWrite_wrPtr]

end Sys2Proof.Machine

/-! SUPPORT. READ at a memory port: the head of the intake has its turn, a hit is answered, a miss becomes a command to the memory
side, and what prefetching adds leaves the answer alone. -/

namespace Sys2Proof.Machine

section Reads

variable {s t u : State} {m : PortId} {c : MemCmd} {rest : List MemCmd} {k : Nat} {w : Way} {par : Parity}

theorem count_cMp_slices {j n : Nat} : (s.count (cMp m j) n).slices = s.slices :=
  State.count_slices_of_ge (by unfold cMp; omega)

/-! ## What joins the commands that wait -/

/-- A state differs at most in commands that have joined those waiting at port m, in its trackers, and in counts. -/
structure State.QueuedAt (m : PortId) (s t : State) : Prop where
  atts : t.atts = s.atts
  agents : t.agents = s.agents
  slices : t.slices = s.slices
  ways : (t.mp m).ways = (s.mp m).ways
  rsIn : (t.mp m).rsIn = (s.mp m).rsIn
  intake : (t.mp m).intake = (s.mp m).intake
  cmds : ∀ x ∈ (s.mp m).cmds, x ∈ (t.mp m).cmds

theorem State.QueuedAt.refl : State.QueuedAt m s s := ⟨rfl, rfl, rfl, rfl, rfl, rfl, fun _ h => h⟩

theorem State.QueuedAt.trans (h : State.QueuedAt m s t) (h' : State.QueuedAt m t u) : State.QueuedAt m s u :=
  ⟨h'.atts.trans h.atts, h'.agents.trans h.agents, h'.slices.trans h.slices, h'.ways.trans h.ways, h'.rsIn.trans h.rsIn,
    h'.intake.trans h.intake, fun x hx => h'.cmds x (h.cmds x hx)⟩

theorem State.queuedAt_count {j n : Nat} : State.QueuedAt m s (s.count (cMp m j) n) :=
  ⟨by simp, by simp, count_cMp_slices, by simp, by simp, by simp, by simp⟩

/-- A port whose commands have grown and whose bank, beats and intake are as they were. -/
theorem State.queuedAt_setMp {p : Port} (hw : p.ways = (s.mp m).ways) (hr : p.rsIn = (s.mp m).rsIn)
    (hi : p.intake = (s.mp m).intake) (hc : ∀ x ∈ (s.mp m).cmds, x ∈ p.cmds) : State.QueuedAt m s (s.setMp m p) :=
  ⟨rfl, rfl, rfl, by simp [hw], by simp [hr], by simp [hi], by simpa using hc⟩

theorem State.QueuedAt.ite {p : Prop} [Decidable p] (ht : State.QueuedAt m s t) (hu : State.QueuedAt m s u) :
    State.QueuedAt m s (if p then t else u) := by split <;> assumption

theorem State.QueuedAt.foldl {α : Type} {g : State → α → State} {l : List α} (hg : ∀ s x, State.QueuedAt m s (g s x)) :
    State.QueuedAt m s (l.foldl g s) := by
  induction l generalizing s with
  | nil => exact .refl
  | cons x l ih => exact (hg s x).trans ih

theorem State.queuedAt_addWaiting {x : MCmd} :
    State.QueuedAt m s (s.modMp m (fun p => { p with waitq := p.waitq ++ [x] })) :=
  State.queuedAt_setMp rfl rfl rfl fun y hy => by
    rcases List.mem_append.mp hy with h | h <;> simp [Port.cmds, h]

/-- A read of the media joins the commands waiting for MCMD. -/
theorem State.queuedAt_mediaRead {why : Purpose} {l : Line} : State.QueuedAt m s (s.mediaRead m why l) :=
  .ite (State.queuedAt_addWaiting.trans State.queuedAt_count) State.queuedAt_addWaiting

theorem State.mem_cmds_mediaRead {why : Purpose} {l : Line} :
    ∃ x ∈ ((s.mediaRead m why l).mp m).cmds, x.why = why ∧ x.line = l := by
  refine ⟨{ why := why, line := l, data := none, stag := 0, held := if (s.mp m).win = .none then none else some s.now },
    ?_, rfl, rfl⟩
  unfold State.mediaRead
  dsimp only
  split <;> simp [Port.cmds]

theorem State.queuedAt_prefetchAlong {l : Line} {stride : Int} : State.QueuedAt m s (s.prefetchAlong m l stride) :=
  .ite .refl (.foldl fun _ _ => .ite State.queuedAt_mediaRead .refl)

theorem State.queuedAt_track {a : AgentId} {l : Line} {hit : Bool} :
    State.QueuedAt m s (s.setMp m ((s.mp m).track a l hit).1) := by
  unfold Port.track
  dsimp only
  split
  · exact State.queuedAt_setMp rfl rfl rfl fun _ h => h
  · split
    · exact State.queuedAt_setMp rfl rfl rfl fun _ h => h
    · exact State.queuedAt_setMp rfl rfl rfl fun _ h => h

/-- What follows a demand READ adds prefetch reads at most. -/
theorem State.queuedAt_afterRead {hit : Bool} : State.QueuedAt m s (s.afterRead m c hit) := by
  unfold State.afterRead
  dsimp only
  split
  · split
    · exact State.queuedAt_track.trans State.queuedAt_prefetchAlong
    · exact State.queuedAt_track
  · exact State.queuedAt_track

/-! ## The command whose turn has come -/

theorem State.lookTags_nil {l : Line} : s.lookTags m l [] = s := by
  unfold State.lookTags; split <;> rfl

theorem State.not_held_of_runs (h : s.runs = true) : s.held = false := by
  simp only [State.held, decide_eq_false_iff_not]
  intro hm
  simp [State.runs, hm] at h

/-- READ of the head of the intake. -/
theorem execRead_head (hr : s.runs = true) (hi : (s.mp m).intake = c :: rest) (hc : c.op = .read)
    (hp : (s.mp m).pendingLine c.line = false) :
    execRead m par s [] = .next ((s.modMp m (fun p => { p with intake := rest })).demandRead m c par) := by
  have hpick : pickCmd (fun pre c => decide (c.op = MemOp.read) && (s.mp m).inTurn pre c) [] (s.mp m).intake = some (c, rest) := by
    simp [hi, pickCmd, hc, Port.inTurn, hp]
  simp [execRead, hpick, hr, State.lookTags_nil, State.not_held_of_runs hr]

/-! ## A miss (R165) -/

/-- A READ that joins a prefetch read makes it its own. -/
theorem Port.mem_cmds_joinPrefetch {p q : Port} (h : p.joinPrefetch c = some q) :
    ∃ x ∈ q.cmds, x.why = .demandRead c ∧ x.line = c.line := by
  unfold Port.joinPrefetch at h
  split at h
  case isTrue hany =>
    obtain ⟨x, hx, hxl⟩ := List.any_eq_true.mp hany
    have hline : x.line = c.line := by
      simp only [MCmd.prefetchOf, Bool.and_eq_true, decide_eq_true_eq] at hxl
      exact hxl.1
    cases h
    refine ⟨{ x with why := .demandRead c }, ?_, rfl, hline⟩
    rcases List.mem_append.mp hx with hw | ho
    · exact List.mem_append_left _ (List.mem_map.mpr ⟨x, hw, by simp [hxl]⟩)
    · obtain ⟨e, he, hex⟩ := List.mem_filterMap.mp ho
      refine List.mem_append_right _ (List.mem_filterMap.mpr ⟨_, List.mem_map_of_mem he, ?_⟩)
      simp [hex, hxl]
  case isFalse => cases h

theorem Port.joinPrefetch_same {p q : Port} (h : p.joinPrefetch c = some q) :
    q.ways = p.ways ∧ q.rsIn = p.rsIn ∧ q.intake = p.intake := by
  unfold Port.joinPrefetch at h
  split at h
  · cases h; exact ⟨rfl, rfl, rfl⟩
  · cases h

/-- A READ that misses is a READ to the memory side, of its own or the prefetch read it has joined. -/
theorem State.readMiss_spec : ∃ x ∈ ((s.readMiss m c).mp m).cmds, x.why = .demandRead c ∧ x.line = c.line := by
  unfold State.readMiss
  dsimp only
  split
  case h_1 p hj =>
    obtain ⟨x, hx, hxc⟩ := Port.mem_cmds_joinPrefetch hj
    exact ⟨x, State.queuedAt_afterRead.cmds x (by simpa using hx), hxc⟩
  case h_2 =>
    obtain ⟨x, hx, hxc⟩ := State.mem_cmds_mediaRead (s := s.count (cMp m 9) 1) (m := m) (why := .demandRead c) (l := c.line)
    exact ⟨x, State.queuedAt_afterRead.cmds x hx, hxc⟩

/-- A READ that misses leaves the bank, the answers, and every other unit. -/
theorem State.readMiss_frame : ((s.readMiss m c).mp m).ways = (s.mp m).ways ∧ ((s.readMiss m c).mp m).rsIn = (s.mp m).rsIn
    ∧ ((s.readMiss m c).mp m).intake = (s.mp m).intake ∧ (s.readMiss m c).slices = s.slices ∧ (s.readMiss m c).atts = s.atts := by
  have hc : State.QueuedAt m s (s.count (cMp m 9) 1) := State.queuedAt_count
  unfold State.readMiss
  dsimp only
  split
  case h_1 p hj =>
    obtain ⟨hw, hr, hi⟩ := Port.joinPrefetch_same hj
    have ha := State.queuedAt_afterRead (s := (s.count (cMp m 9) 1).setMp m p) (m := m) (c := c) (hit := false)
    refine ⟨ha.ways.trans ?_, ha.rsIn.trans ?_, ha.intake.trans ?_, ha.slices.trans hc.slices, ha.atts.trans hc.atts⟩
    · simp [hw]
    · simp [hr]
    · simp [hi]
  case h_2 =>
    have ha := (hc.trans (State.queuedAt_mediaRead (why := .demandRead c) (l := c.line))).trans
      (State.queuedAt_afterRead (c := c) (hit := false))
    exact ⟨ha.ways, ha.rsIn, ha.intake, ha.slices, ha.atts⟩

/-! ## A hit (R109, R163, R174) -/

/-- The way that a lookup finds stands at its key. -/
theorem Port.hway_of_findHway {p : Port} {l : Line} (h : p.findHway l = some (k, w)) : p.hway k = some w := by
  obtain ⟨j, -, hj⟩ := List.exists_of_findSome?_eq_some h
  split at hj
  case h_1 v hv =>
    split at hj
    · cases hj; exact hv
    · cases hj
  case h_2 => cases hj

@[simp] theorem State.useWay_atts : (s.useWay m k w).atts = s.atts := by unfold State.useWay; dsimp only; split <;> simp
@[simp] theorem State.useWay_agents : (s.useWay m k w).agents = s.agents := by unfold State.useWay; dsimp only; split <;> simp
@[simp] theorem State.useWay_held : (s.useWay m k w).held = s.held := by unfold State.useWay; dsimp only; split <;> simp
@[simp] theorem State.useWay_slices : (s.useWay m k w).slices = s.slices := by
  unfold State.useWay; dsimp only; split <;> simp [count_cMp_slices]
@[simp] theorem State.useWay_rsIn : ((s.useWay m k w).mp m).rsIn = (s.mp m).rsIn := by
  unfold State.useWay; dsimp only; split <;> simp [Port.putHway, Port.use]
@[simp] theorem State.useWay_intake : ((s.useWay m k w).mp m).intake = (s.mp m).intake := by
  unfold State.useWay; dsimp only; split <;> simp [Port.putHway, Port.use]

section Answer

variable {d : LineData} {psn hd : Bool} {st : MemStatus}

@[simp] theorem State.rptTo_mp {i : SliceId} {r : PortRpt} {j : PortId} : (s.rptTo i r).mp j = s.mp j := rfl
@[simp] theorem State.rptTo_atts {i : SliceId} {r : PortRpt} : (s.rptTo i r).atts = s.atts := rfl
@[simp] theorem State.rptTo_agents {i : SliceId} {r : PortRpt} : (s.rptTo i r).agents = s.agents := rfl
theorem State.rptTo_int {i : SliceId} {r : PortRpt} : ((s.rptTo i r).sl i).int = (s.sl i).int ++ [.rpt r] := by
  simp [State.rptTo, State.toInt]

@[simp] theorem State.sendRpt_mp {j : PortId} : (s.sendRpt c st hd).mp j = s.mp j := by unfold State.sendRpt; split <;> simp
@[simp] theorem State.sendRpt_atts : (s.sendRpt c st hd).atts = s.atts := by unfold State.sendRpt; split <;> simp
@[simp] theorem State.sendRpt_agents : (s.sendRpt c st hd).agents = s.agents := by unfold State.sendRpt; split <;> simp

/-- A READ's answer is a beat on the read switch, with the report behind it where PARTS is 0 (R109, R136). -/
theorem State.memAnswer_rsIn : ((s.memAnswer m c d psn st hd).mp m).rsIn = (s.mp m).rsIn ++ [{
      la := c.la, rpt := if c.parts = 0 then some (c.slice, ⟨c.htag, c.tag, c.line, st, hd⟩) else none,
      drs := Drs.mk c.agent c.rtag (c.htag.getD 0) c.parts psn d c.kind }] := by
  unfold State.memAnswer
  dsimp only
  split <;> simp [State.sendBeat]

/-- With PARTS other than 0 the report goes to the slice by itself (R108). -/
theorem State.memAnswer_int (h : s.held = false) : ((s.memAnswer m c d psn st hd).sl c.slice).int
    = (s.sl c.slice).int ++ (if c.parts = 0 then [] else [.rpt ⟨c.htag, c.tag, c.line, st, hd⟩]) := by
  unfold State.memAnswer
  dsimp only
  split
  · simp [State.sendBeat]
  · rw [State.sendRpt, if_neg (by simpa [State.sendBeat] using h), State.rptTo_int]
    simp [State.sendBeat]

@[simp] theorem State.memAnswer_intake : ((s.memAnswer m c d psn st hd).mp m).intake = (s.mp m).intake := by
  unfold State.memAnswer; dsimp only; split <;> simp [State.sendBeat]
@[simp] theorem State.memAnswer_atts : (s.memAnswer m c d psn st hd).atts = s.atts := by
  unfold State.memAnswer; dsimp only; split <;> simp [State.sendBeat]
@[simp] theorem State.memAnswer_agents : (s.memAnswer m c d psn st hd).agents = s.agents := by
  unfold State.memAnswer; dsimp only; split <;> simp [State.sendBeat]

end Answer

/-- The answer to a READ that hits way w at key k: the way is used, and its line, as poison where its PSN is 1, is the data. -/
def State.answerHit (s : State) (m : PortId) (c : MemCmd) (k : Nat) (w : Way) : State :=
  ((s.useWay m k w).count (cMp m 8) 1).memAnswer m c w.data w.psn (if w.psn then .poison else .ok) (decide (w.st = .dirty))

/-- A READ that hits a way whose words are good. -/
theorem State.demandRead_hit (hm : (s.mp m).hmode ≠ .disabled) (hf : (s.mp m).findHway c.line = some (k, w)) :
    s.demandRead m c .good = (s.answerHit m c k w).afterRead m c true := by
  simp [State.demandRead, State.readWay, State.answerHit, hm, hf, Port.hway_of_findHway hf]

theorem State.answerHit_rsIn : ((s.answerHit m c k w).mp m).rsIn = (s.mp m).rsIn ++ [{
      la := c.la,
      rpt := if c.parts = 0 then
        some (c.slice, ⟨c.htag, c.tag, c.line, if w.psn then .poison else .ok, decide (w.st = .dirty)⟩) else none,
      drs := Drs.mk c.agent c.rtag (c.htag.getD 0) c.parts w.psn w.data c.kind }] := by
  simp [State.answerHit, State.memAnswer_rsIn]

theorem State.answerHit_int (h : s.held = false) : ((s.answerHit m c k w).sl c.slice).int = (s.sl c.slice).int
    ++ (if c.parts = 0 then []
      else [.rpt ⟨c.htag, c.tag, c.line, if w.psn then .poison else .ok, decide (w.st = .dirty)⟩]) := by
  rw [State.answerHit, State.memAnswer_int (by simpa using h), State.sl, count_cMp_slices, State.useWay_slices, ← State.sl]

theorem State.demandRead_miss (h : (s.mp m).hmode = .disabled ∨ (s.mp m).findHway c.line = none) :
    s.demandRead m c par = s.readMiss m c := by
  unfold State.demandRead
  rcases h with h | h
  · simp [h]
  · simp [h]

end Reads

/-- Settles O32. A hit answers from the way found; a miss leaves its READ among the port's commands; the prefetch reads that may
follow either add commands alone. -/
theorem readsAreServed : Obligations.ReadsAreServed := by
  unfold Obligations.ReadsAreServed
  intro m c rest s hr hi hc hp
  refine ⟨fun k w hm hf => ?_, fun hmiss par => ?_⟩
  · have hheld := State.not_held_of_runs hr
    have ha := State.queuedAt_afterRead (m := m) (c := c) (hit := true)
      (s := (s.modMp m fun p => { p with intake := rest }).answerHit m c k w)
    refine ⟨_, execRead_head hr hi hc hp, ?_⟩
    rw [State.demandRead_hit (by simpa using hm) (by rw [State.mp_modMp_self]; exact hf)]
    refine ⟨ha.rsIn.trans ?_, ?_, ha.intake.trans ?_, ha.atts.trans ?_, ha.agents.trans ?_⟩
    · simp [State.answerHit_rsIn]
    · rw [State.sl, ha.slices, ← State.sl, State.answerHit_int (by simpa using hheld), State.modMp_sl]
    · simp [State.answerHit]
    · simp [State.answerHit]
    · simp [State.answerHit]
  · refine ⟨_, execRead_head hr hi hc hp, ?_⟩
    rw [State.demandRead_miss (by rw [State.mp_modMp_self]; exact hmiss)]
    obtain ⟨hw, hb, hin, hsl, hat⟩ := State.readMiss_frame (s := s.modMp m fun p => { p with intake := rest }) (m := m) (c := c)
    exact ⟨State.readMiss_spec, by simpa using hw, by simpa using hb, by simpa using hin, by simpa using hsl, by simpa using hat⟩

end Sys2Proof.Machine

/-! SUPPORT. Register commands: answers, the scratch word, the Cox write and the host's of one cycle, and reads of windows. -/

namespace Sys2Proof.Machine

section Registers

variable {s : State} {src : RegSrc} {w h c : RegWrite} {a b : Nat} {d : Word32} {be : BitVec 4} {x : Store (List Pkt)}

/-! ## Responses (R318, R319) -/

@[simp] theorem State.crossing_srcUp {u : QUnit} {q : Nat} : (s.crossing u q).srcUp src = s.srcUp src := rfl
@[simp] theorem State.crossing_mode {u : QUnit} {q : Nat} : (s.crossing u q).mode = s.mode := rfl

theorem State.crossing_eq {u : QUnit} {q : Nat} : s.crossing u q = { s with mesh := (s.crossing u q).mesh } := rfl

theorem State.reqTaken_eq :
    s.reqTaken = { s with hostOut := if s.hostOut.length < 8 then s.hostOut else s.hostOut.drop 1 } := by
  unfold State.reqTaken State.reqReady
  by_cases hl : s.hostOut.length < 8 <;> simp [hl]

/-- A response to the host port: the registers stay, and it joins those outstanding, of which there are 8 at most (R319). -/
theorem State.respond_host {st : RegSt} : s.respond .host d st = { s with
    hostRsp := some (RegRsp.mk d st), mesh := ((s.crossing .service 0).crossing .service 1).mesh,
    hostOut := (if s.hostOut.length < 8 then s.hostOut else s.hostOut.drop 1) ++ [RegRsp.mk d st] } := by
  simp only [State.respond, State.reqTaken_eq]
  rw [State.crossing_eq (s := s.crossing .service 0), State.crossing_eq (s := s)]

theorem State.respond_cox {st : RegSt} : s.respond .cox d st = { s with
    coxRsp := some (RegRsp.mk d st), mesh := ((s.crossing .service 2).crossing .service 3).mesh } := by
  simp only [State.respond]
  rw [State.crossing_eq (s := s.crossing .service 2), State.crossing_eq (s := s)]

/-! ## Travel on the Armature -/

/-- The state with other packets waiting at the routers' local ports. -/
def State.withInj (s : State) (x : Store (List Pkt)) : State := { s with mesh := { s.mesh with inj := x } }

@[simp] theorem State.withInj_withInj {y : Store (List Pkt)} : (s.withInj x).withInj y = s.withInj y := rfl
theorem State.shutAt_eq_none_iff : s.shutAt a = none ↔
    (∀ k, attOf a = some k → s.attShut k = false) ∧ (∀ m, attOf a = none → portAt a = some m → s.mpShut m = false) := by
  unfold State.shutAt
  split
  case h_1 k hk => simp [hk]
  case h_2 hk =>
    split
    case h_1 m hm => simp [hk, hm]
    case h_2 hm => simp [hk, hm]

@[simp] theorem State.shutAt_withInj : (s.withInj x).shutAt a = none ↔ s.shutAt a = none := by
  simp only [State.shutAt_eq_none_iff]; rfl

/-- A command's travel adds packets alone. -/
theorem State.regTravel_eq : ∃ x, s.regTravel a = s.withInj x := by
  unfold State.regTravel
  split
  · simp only [State.inject, State.putPkt]; exact ⟨_, rfl⟩
  · exact ⟨s.mesh.inj, rfl⟩

/-! ## Words of the slices, memory ports and attachments (R401) -/

/-- The address of a word in the window of a slice, a memory port or an attachment. -/
def unitWord (a : Nat) : Prop :=
  (0x400000 ≤ a ∧ a < 0x800000) ∨ (0xA00000 ≤ a ∧ a < 0xC00000) ∨ (0xD00000 ≤ a ∧ a < 0xE00000)

theorem State.readWord_slice (h1 : 0x400000 ≤ a) (h2 : a < 0x800000) :
    s.readWord a = s.readSl (BitVec.ofNat 6 (a / 0x10000)) (a % 0x10000) (s.reg a) := by
  unfold State.readWord
  simp (disch := omega) only [if_neg, if_pos]

theorem State.readWord_port (h1 : 0xA00000 ≤ a) (h2 : a < 0xC00000) :
    s.readWord a = s.readMp (BitVec.ofNat 5 (a / 0x10000)) (a % 0x10000) (s.reg a) := by
  unfold State.readWord
  simp (disch := omega) only [if_neg, if_pos]

theorem State.readWord_att (h1 : 0xD00000 ≤ a) (h2 : a < 0xE00000) :
    s.readWord a = s.readLa (BitVec.ofNat 4 (a / 0x10000)) (a % 0x10000) (s.reg a) := by
  unfold State.readWord
  simp (disch := omega) only [if_neg, if_pos]

theorem State.readWord_withInj (ha : unitWord a) : (s.withInj x).readWord a = s.readWord a := by
  rcases ha with ⟨h1, h2⟩ | ⟨h1, h2⟩ | ⟨h1, h2⟩
  · rw [State.readWord_slice h1 h2, State.readWord_slice h1 h2]; rfl
  · rw [State.readWord_port h1 h2, State.readWord_port h1 h2]; rfl
  · rw [State.readWord_att h1 h2, State.readWord_att h1 h2]; rfl

/-- A read of such a word whose gate is open has no effect of its own (R402). -/
theorem State.readOne_unitWord (ha : unitWord a) (hs : s.shutAt a = none) :
    ∃ x, s.readOne a = (s.withInj x, s.readWord a) := by
  obtain ⟨x, hx⟩ := State.regTravel_eq (s := s) (a := a)
  refine ⟨x, ?_⟩
  have ha' := ha
  unfold unitWord at ha'
  simp (disch := omega) only [State.readOne, hx, State.shutAt_withInj.mpr hs, if_neg, State.readWord_withInj ha]

theorem lt_of_mem_maskUnits {m n i : Nat} (hi : i ∈ maskUnits m n) : i < n :=
  List.mem_range.mp (List.mem_filter.mp hi).1

theorem unitWord_of_mem_map {us : List Nat} {n base o : Nat} (hn : ∀ u ∈ us, u < n)
    (hb : ∀ u < n, unitWord (base + 0x10000 * u + o)) {p : Nat × Nat} (hp : p ∈ us.map (fun u => (u, base + 0x10000 * u + o))) : unitWord p.2 := by
  obtain ⟨u, hu, rfl⟩ := List.mem_map.mp hp
  exact hb u (hn u hu)

/-- The members of a window are words of the units (R313). -/
theorem State.unitWord_of_mem_members {ms : List (Nat × Nat)} (hm : s.members a = some ms) {p : Nat × Nat} (hp : p ∈ ms) :
    unitWord p.2 := by
  have hsl : ∀ u < 64, unitWord (0x400000 + 0x10000 * u + a % 0x10000) := fun u hu => .inl (by omega)
  have hmp : ∀ u < 32, unitWord (0xA00000 + 0x10000 * u + a % 0x10000) := fun u hu => .inr (.inl (by omega))
  have hla : ∀ u < 16, unitWord (0xD00000 + 0x10000 * u + a % 0x10000) := fun u hu => .inr (.inr (by omega))
  have hrange : ∀ n, ∀ u ∈ List.range n, u < n := fun n u hu => List.mem_range.mp hu
  unfold State.members at hm
  dsimp only at hm
  split_ifs at hm <;> cases hm
  · exact unitWord_of_mem_map (hrange _) hsl hp
  · exact unitWord_of_mem_map (fun _ => lt_of_mem_maskUnits) hsl hp
  · exact unitWord_of_mem_map (hrange _) hmp hp
  · exact unitWord_of_mem_map (fun _ => lt_of_mem_maskUnits) hmp hp
  · exact unitWord_of_mem_map (hrange _) hla hp
  · exact unitWord_of_mem_map (fun _ => lt_of_mem_maskUnits) hla hp

/-- A read of a window reads every member, and adds packets alone. -/
theorem State.readAll_eq {ms : List (Nat × Nat)} (hu : ∀ p ∈ ms, unitWord p.2) (hs : ∀ p ∈ ms, s.shutAt p.2 = none) :
    ∃ x, s.readAll ms = (s.withInj x, ms.map (fun p => (p.1, s.readWord p.2))) := by
  induction ms generalizing s with
  | nil => exact ⟨s.mesh.inj, rfl⟩
  | cons p ms ih =>
    obtain ⟨u, a⟩ := p
    obtain ⟨x, hx⟩ := State.readOne_unitWord (hu _ List.mem_cons_self) (hs _ List.mem_cons_self)
    obtain ⟨y, hy⟩ := ih (s := s.withInj x) (fun p hp => hu p (List.mem_cons_of_mem _ hp))
      (fun p hp => State.shutAt_withInj.mpr (hs p (List.mem_cons_of_mem _ hp)))
    refine ⟨y, ?_⟩
    simp only [State.readAll, hx, hy, State.withInj_withInj, List.map_cons, Prod.mk.injEq, true_and, List.cons.injEq]
    exact List.map_congr_left fun p hp => by rw [State.readWord_withInj (hu p (List.mem_cons_of_mem _ hp))]

/-! ## The UNIFORM pair (R321, R322) -/

/-- The address of a source's UNIFORM pair. -/
def uniformAt (src : RegSrc) : Nat := if src = .cox then 0x1038 else 0x1030

/-- The UNIFORM pair is all that it writes. -/
theorem State.uniform_eq {ws : List (Nat × Word32)} : ∃ v, s.uniform src a ws
    = (s.setReg (uniformAt src) (BitVec.ofNat 32 a)).setReg (uniformAt src + 4) v := ⟨_, rfl⟩

theorem State.uniform_address {ws : List (Nat × Word32)} : (s.uniform src a ws).reg (uniformAt src) = BitVec.ofNat 32 a := by
  obtain ⟨v, hv⟩ := State.uniform_eq (s := s) (src := src) (a := a) (ws := ws)
  rw [hv, State.reg_setReg, if_neg (by omega), State.reg_setReg_self]

theorem State.uniform_other {ws : List (Nat × Word32)} (hb : b ≠ uniformAt src) (hb' : b ≠ uniformAt src + 4) :
    (s.uniform src a ws).reg b = s.reg b := by
  obtain ⟨v, hv⟩ := State.uniform_eq (s := s) (src := src) (a := a) (ws := ws)
  rw [hv, State.reg_setReg, if_neg hb', State.reg_setReg, if_neg hb]

/-- Every member has read the same. -/
theorem State.uniform_same {u : Nat} {v : Word32} {ws : List (Nat × Word32)} (hv : ∀ e ∈ ws, e.2 = v) :
    (s.uniform src a ((u, v) :: ws)).reg (uniformAt src + 4) = fields [(0, 1), (2, ws.length + 1), (9, 0x7F)] := by
  have hf : ((u, v) :: ws).find? (fun e => decide (e.2 ≠ v)) = none := by
    simpa [List.find?_cons] using fun _ _ he => hv _ he
  unfold State.uniform
  simp only [hf, List.length_cons]
  exact State.reg_setReg_self

theorem fields_even {n m : Nat} : (fields [(2, n), (9, m)]).getLsbD 0 = false := by
  have h2 : (n * 2 ^ 2 + m * 2 ^ 9) % 2 = 0 := by omega
  simp only [fields, List.foldl_cons, List.foldl_nil, Nat.zero_add, BitVec.getLsbD_ofNat, Nat.testBit_zero, h2]
  rfl

/-- Some member has read otherwise than the lowest. -/
theorem State.uniform_differ {u : Nat} {v : Word32} {ws : List (Nat × Word32)} (hv : ∃ e ∈ ws, e.2 ≠ v) :
    ((s.uniform src a ((u, v) :: ws)).reg (uniformAt src + 4)).getLsbD 0 = false := by
  obtain ⟨e, he, hne⟩ := hv
  have hf : ((u, v) :: ws).find? (fun e => decide (e.2 ≠ v)) ≠ none := by
    simpa [List.find?_cons] using ⟨e.1, e.2, he, hne⟩
  obtain ⟨f, hf⟩ := Option.ne_none_iff_exists'.mp hf
  unfold State.uniform
  simp only [hf]
  rw [← uniformAt, State.reg_setReg_self]
  exact fields_even

/-- A read of a window (R321): the lowest member's value, after every member's read. -/
theorem State.readReg_window {adr : RegAddr} {u : Nat} {ms : List (Nat × Nat)}
    (hm : s.members (adr.toNat / 4 * 4) = some ((u, a) :: ms)) (hs : ∀ p ∈ (u, a) :: ms, s.shutAt p.2 = none) :
    ∃ x, s.readReg src adr = ((s.withInj x).uniform src (adr.toNat / 4 * 4)
      ((u, s.readWord a) :: ms.map (fun p => (p.1, s.readWord p.2))), s.readWord a) := by
  obtain ⟨x, hx⟩ := State.readAll_eq (fun _ hp => State.unitWord_of_mem_members hm hp) hs
  exact ⟨x, by simp [State.readReg, hm, hx]⟩

/-! ## Writes (R317, R319, R320) -/

theorem State.write_boot {o : Option RegWrite} (hu : s.srcUp src = true) (hm : s.mode = .boot) :
    s.write src w o = s.respond src 0 .notReady := by
  unfold State.write; simp [hu, hm]

theorem State.write_host {o : Option RegWrite} (hu : s.srcUp .host = true) (hm : s.mode ≠ .boot)
    (ho : o = none ∨ s.srcUp .cox = false) : s.write .host w o = (s.writeReg w false []).respond .host 0 .ok := by
  have hf : o.filter (fun _ => s.srcUp .cox) = none := by
    rcases ho with rfl | ho
    · rfl
    · simp [ho]
  unfold State.write; simp [hu, hm, hf]

theorem State.write_cox (hu : s.srcUp .cox = true) (hm : s.mode ≠ .boot) :
    s.write .cox w none = (s.writeReg w true []).respond .cox 0 .ok := by
  unfold State.write; simp [hu, hm]

theorem State.write_jtag (hu : s.srcUp .jtag = true) (hm : s.mode ≠ .boot) :
    s.write .jtag w none = (s.writeReg w false []).respond .host 0 .ok := by
  unfold State.write; simp [hu, hm]

/-- The writes of one cycle are the same pair, whichever of the two commands stands for them. -/
theorem State.write_pair (hm : s.mode ≠ .boot) (hh : s.srcUp .host = true) (hc : s.srcUp .cox = true) :
    s.write .host h (some c) = s.writeBoth h c ∧ s.write .cox c (some h) = s.writeBoth h c := by
  have hfc : (some c).filter (fun _ => s.srcUp .cox) = some c := by simp [hc]
  have hfh : (some h).filter (fun _ => s.srcUp .host) = some h := by simp [hh]
  constructor
  · unfold State.write; simp [hm, hh, hfc]
  · unfold State.write; simp [hm, hc, hfh]

theorem State.writeBoth_apart (hx : s.collisions h c = []) (hk : (s.commands h 0x1028 0 || s.commands c 0x1028 0) = false) :
    s.writeBoth h c = ((if writeRank c.addr.toNat < writeRank h.addr.toNat then (s.writeReg c true []).writeReg h false []
      else (s.writeReg h false []).writeReg c true []).respond .host 0 .ok).respond .cox 0 .ok := by
  simp [State.writeBoth, State.writePair, hx, hk]

/-- The members of windows rest on the group masks alone. -/
theorem State.members_congr {t : State} (hr : ∀ b, 0x1100 ≤ b → t.reg b = s.reg b) : t.members a = s.members a := by
  unfold State.members
  simp (disch := omega) only [hr]

theorem State.collisions_clearReg : s.clearReg.collisions h c = s.collisions h c := by
  have hm : ∀ a, s.clearReg.members a = s.members a := fun a =>
    State.members_congr fun b hb => State.reg_putF_ne (f := ⟨0x1020, 0, 32⟩) (by dsimp only; omega)
  simp only [State.collisions, State.targets, hm]

theorem State.writeBoth_collided (hx : s.collisions h c ≠ []) :
    (s.writeBoth h c).hostRsp = some (RegRsp.mk 0 .collided) ∧ (s.writeBoth h c).coxRsp = some (RegRsp.mk 0 .ok) := by
  have hx' : (if s.commands h 0x1028 0 || s.commands c 0x1028 0 then s.clearReg else s).collisions h c ≠ [] := by
    split
    · rwa [State.collisions_clearReg]
    · exact hx
  unfold State.writeBoth
  dsimp only
  split
  case h_1 he => exact absurd he hx'
  case h_2 => simp only [State.respond_cox, State.respond_host, and_self]

/-! ## The scratch word (R407) -/

theorem and_ones {v : Word32} : v &&& 0xFFFFFFFF#32 = v := BitVec.and_allOnes

theorem mergeBe_zero {v : Word32} : mergeBe v d 0#4 = v := by
  simp [mergeBe, beMask, and_ones]

theorem regDef_scratch : regDef 0x14 = { rw := 0xFFFFFFFF } := rfl

/-- The scratch word takes the enabled bytes as written. -/
theorem stored_scratch {v : Word32} : stored 0x14 v d be 0xFFFFFFFF#32 = mergeBe v d be := by
  have hc : ∀ y, clampWord 0x14 y = y := fun y => by simp [clampWord, clampGlobal]
  simp [stored, regDef_scratch, hc, and_ones]

theorem State.writeOne_scratch : s.writeOne 0x14 d be false
    = if mergeBe (s.reg 0x14) d be = s.reg 0x14 then s else s.setReg 0x14 (mergeBe (s.reg 0x14) d be) := by
  have ht : s.regTravel 0x14 = s := by simp [State.regTravel, regPlace]
  have hs : s.shutAt 0x14 = none := by simp [State.shutAt, attOf, portAt]
  have hw : s.writeFields 0x14 d be false
      = if mergeBe (s.reg 0x14) d be = s.reg 0x14 then s else s.setReg 0x14 (mergeBe (s.reg 0x14) d be) := by
    simp [State.writeFields, regDef_scratch, stored_scratch, State.storeWord, State.follow]
  by_cases hb : be = 0#4
  · simp [State.writeOne, ht, hb, mergeBe_zero]
  · simp [State.writeOne, ht, hs, hb, hw, regDef_scratch, woMask, isCommand]

theorem State.locksAt_scratch : s.locksAt 0x14 d be = false := by
  simp [State.locksAt, regDef_scratch]

theorem State.writeReg_scratch : s.writeReg { addr := 0x14, be := be, data := d } false []
    = if mergeBe (s.reg 0x14) d be = s.reg 0x14 then s else s.setReg 0x14 (mergeBe (s.reg 0x14) d be) := by
  have ht : s.targets 0x14#24 = [0x14] := by simp [State.targets, State.members]
  simp [State.writeReg, ht, State.locksAt_scratch, State.writeOne_scratch]

/-! ## Access commands -/

theorem State.read_boot {adr : RegAddr} (hu : s.srcUp src = true) (hm : s.mode = .boot) (ha : 0x2000 ≤ adr.toNat) :
    s.read src adr = s.respond src 0 .notReady := by
  simp [State.read, hu, hm, ha]

theorem State.read_served {adr : RegAddr} (hu : s.srcUp src = true) (hm : s.mode ≠ .boot ∨ adr.toNat < 0x2000) :
    s.read src adr = (s.readReg src adr).1.respond src (s.readReg src adr).2 .ok := by
  have hb : ¬(s.mode = .boot ∧ 0x2000 ≤ adr.toNat) := fun ⟨h1, h2⟩ => hm.elim (fun h => h h1) (by omega)
  simp [State.read, hu, hb]

/-- The TAP is unlocked outside BOOT alone, with the register port up (R423). -/
theorem State.up_of_tapOpen (ho : s.tapOpen = true) : s.portUp = true ∧ s.mode ≠ .boot := by
  simp only [State.tapOpen, State.fwUp, Bool.and_eq_true, decide_eq_true_eq] at ho
  exact ho.2

theorem State.srcUp_jtag : s.srcUp .jtag = s.tapOpen := by
  cases ho : s.tapOpen with
  | false => simp [State.srcUp, ho]
  | true => simp [State.srcUp, ho, (State.up_of_tapOpen ho).1]

/-- Without the unlock an access of the TAP is nothing (R423). -/
theorem execJtagRegacc_locked {wr : Bool} {adr : RegAddr} (hu : s.srcUp .jtag = false) : execJtagRegacc wr adr d s = .next s := by
  have ho : s.tapOpen = false := by rwa [← State.srcUp_jtag]
  unfold execJtagRegacc
  cases wr with
  | false => simp [ho, State.read, hu]
  | true => unfold State.write; simp [ho, hu]

/-- An access of the TAP has passed its two crossing queues. -/
def State.throughTap (s : State) : State := (s.crossing .service 33).crossing .service 34

/-- A write of an unlocked TAP is a host-port command (R423). -/
theorem execJtagRegacc_write {adr : RegAddr} (hu : s.srcUp .jtag = true) : execJtagRegacc true adr d s
    = .next ((s.throughTap.writeReg { addr := adr, be := 0xF, data := d } false []).respond .host 0 .ok) := by
  have ho : s.tapOpen = true := by rwa [← State.srcUp_jtag]
  have hm := (State.up_of_tapOpen ho).2
  simp only [execJtagRegacc, ho, if_true]
  rw [State.write_jtag (by simpa using hu) (by simpa using hm), State.throughTap]

/-- A read of an unlocked TAP is a host-port command (R423). -/
theorem execJtagRegacc_read {adr : RegAddr} (hu : s.srcUp .jtag = true) : execJtagRegacc false adr d s
    = .next ((s.throughTap.readReg .jtag adr).1.respond .host (s.throughTap.readReg .jtag adr).2 .ok) := by
  have ho : s.tapOpen = true := by rwa [← State.srcUp_jtag]
  have hm := (State.up_of_tapOpen ho).2
  simp only [execJtagRegacc, ho, if_true]
  rw [State.read_served (by simpa using hu) (.inl (by simpa using hm)), State.throughTap]
  rfl

theorem exec_registerWrite {o : Option RegWrite} : exec (.registerWrite src w o) s = .next (s.write src w o) := rfl
theorem exec_broadcastRead {adr : RegAddr} : exec (.broadcastRead src adr) s = .next (s.read src adr) := rfl
theorem exec_jtagRegacc {wr : Bool} {adr : RegAddr} : exec (.jtagRegacc wr adr d) s = execJtagRegacc wr adr d s := rfl

end Registers

/-- Settles O50. A register command is one of the answers of `State.write` and `State.read`; a window is read member by member, and
the reads change nothing but the packets that wait at the routers. -/
theorem registerCommands : Obligations.RegisterCommands := by
  unfold Obligations.RegisterCommands
  refine ⟨⟨?_, ?_, ?_, ?_, ?_, ?_, ?_⟩, ?_, ?_, ?_⟩
  · intro src w a s hu hm
    simp only [exec_registerWrite, exec_broadcastRead]
    exact ⟨by rw [State.write_boot hu hm], fun ha => by rw [State.read_boot hu hm ha]⟩
  · intro w o s hm ho hu
    rw [exec_registerWrite, State.write_host hu hm ho]
  · intro w s hm hu
    rw [exec_registerWrite, State.write_cox hu hm]
  · intro h c s hm hh hc
    obtain ⟨hhost, hcox⟩ := State.write_pair (h := h) (c := c) hm hh hc
    simp only [exec_registerWrite, hhost, hcox]
    refine ⟨fun hx hk => by rw [State.writeBoth_apart hx hk], fun hx => ?_⟩
    obtain ⟨hr, hr'⟩ := State.writeBoth_collided hx
    exact ⟨_, rfl, hr, hr', rfl⟩
  · intro be d s hu hm
    rw [exec_registerWrite, State.write_host hu hm (.inl rfl), State.writeReg_scratch, State.respond_host]
    refine ⟨_, rfl, ?_⟩
    split
    case isTrue he => exact ⟨he.symm, fun a ha => rfl, rfl, rfl⟩
    case isFalse => exact ⟨State.reg_setReg_self, fun a ha => State.reg_setReg.trans (if_neg ha), rfl, rfl⟩
  · intro src a s hu hm
    rw [exec_broadcastRead, State.read_served hu hm]
  · intro wr a d s
    simp only [exec_jtagRegacc]
    refine ⟨fun hu => ⟨?_, ?_⟩, fun hu => execJtagRegacc_locked hu⟩
    · rintro rfl; exact execJtagRegacc_write hu
    · rintro rfl; exact execJtagRegacc_read hu
  · intro src addr u a ms s hm hs
    obtain ⟨x, hx⟩ := State.readReg_window (src := src) hm hs
    rw [hx]
    refine ⟨rfl, State.uniform_address, fun hv => ?_, fun hv => ?_, fun b hb hb' => State.uniform_other hb hb'⟩
    · exact (State.uniform_same (List.forall_mem_map.mpr hv)).trans (by rw [List.length_map])
    · refine State.uniform_differ ?_
      obtain ⟨p, hp, hne⟩ := hv
      exact ⟨_, List.mem_map_of_mem hp, hne⟩
  · intro a d cox s
    simp [State.writeOne]
  · intro i o s hi
    simp [State.woSl, hi]

end Sys2Proof.Machine

/-! SUPPORT. A part that an operation does not write is as it was: the frame of every `_kept` lemma of Laws/Kept*.lean at once. -/

namespace Sys2Proof.Machine

section Frame

variable {s t u : State} {T : List Part} {p q : Part}

/-- Two states agree on a part. The part `mesh` is the Armature without its routers, `events` the controller without its sources,
`counts` the counter logic without its counters; `wipe` is no part of the state. -/
def State.agree (s t : State) : Part → Prop
  | .modes => t.modes = s.modes
  | .plinth => t.plinth = s.plinth
  | .pins => t.pins = s.pins
  | .boot => t.boot = s.boot
  | .regs => t.regs = s.regs
  | .rsp => t.hostRsp = s.hostRsp ∧ t.hostOut = s.hostOut ∧ t.coxRsp = s.coxRsp
  | .agents => t.agents = s.agents
  | .hists => t.hists = s.hists
  | .atts => t.atts = s.atts
  | .slices => t.slices = s.slices
  | .ports => t.ports = s.ports
  | .mesh => { t.mesh with routers := [] } = { s.mesh with routers := [] }
  | .routers => t.mesh.routers = s.mesh.routers
  | .hmap => t.hmap = s.hmap
  | .cast => t.cast = s.cast
  | .events => { t.events with srcs := [] } = { s.events with srcs := [] }
  | .srcs => t.events.srcs = s.events.srcs
  | .counts => { t.counts with cnts := [] } = { s.counts with cnts := [] }
  | .cnts => t.counts.cnts = s.counts.cnts
  | .cox => t.cox = s.cox
  | .cal => t.calAt = s.calAt
  | .free => t.freeCtr = s.freeCtr
  | .mem => t.castMem = s.castMem
  | .wipe => True

theorem State.agree_refl : s.agree s p := by cases p <;> trivial

theorem State.agree_trans (h : s.agree t p) (h' : t.agree u p) : s.agree u p := by
  cases p with
  | rsp => exact ⟨h'.1.trans h.1, h'.2.1.trans h.2.1, h'.2.2.trans h.2.2⟩
  | wipe => trivial
  | _ => exact Eq.trans h' h

/-- `t` agrees with `s` on every part outside `T`. -/
def State.agreeOff (s : State) (T : List Part) (t : State) : Prop := ∀ p, p ∉ T → s.agree t p

/-- A write of one part of the list. -/
theorem State.agreeOff_write (hq : q ∈ T ∧ q ≠ .wipe) (h : s.agreeOff T t) (hw : ∀ p, p ≠ q → t.agree u p) : s.agreeOff T u :=
  fun p hp => State.agree_trans (h p hp) (hw p fun e => hp (e ▸ hq.1))

/-- Agreement outside a list of parts is kept by the writes of the parts in the list. -/
def Kept.off (s : State) (T : List Part) : Kept where
  P t := s.agreeOff T t
  c p := p ∈ T ∧ p ≠ .wipe
  modes c _ _ h := State.agreeOff_write c h fun p hp => by cases p <;> trivial
  plinth c _ _ h := State.agreeOff_write c h fun p hp => by cases p <;> trivial
  pins c _ _ h := State.agreeOff_write c h fun p hp => by cases p <;> trivial
  boot c _ _ h := State.agreeOff_write c h fun p hp => by cases p <;> trivial
  hostRsp c _ _ h := State.agreeOff_write c h fun p hp => by cases p <;> trivial
  hostOut c _ _ h := State.agreeOff_write c h fun p hp => by cases p <;> trivial
  coxRsp c _ _ h := State.agreeOff_write c h fun p hp => by cases p <;> trivial
  hmap c _ _ h := State.agreeOff_write c h fun p hp => by cases p <;> trivial
  cast c _ _ h := State.agreeOff_write c h fun p hp => by cases p <;> trivial
  cox c _ _ h := State.agreeOff_write c h fun p hp => by cases p <;> trivial
  calAt c _ _ h := State.agreeOff_write c h fun p hp => by cases p <;> trivial
  freeCtr c _ _ h := State.agreeOff_write c h fun p hp => by cases p <;> trivial
  castMem c _ _ h := State.agreeOff_write c h fun p hp => by cases p <;> trivial
  mesh c _ _ h hr := State.agreeOff_write c h fun p hp => by cases p <;> trivial
  events c _ _ h hr := State.agreeOff_write c h fun p hp => by cases p <;> trivial
  counts c _ _ h hr := State.agreeOff_write c h fun p hp => by cases p <;> trivial
  reg c _ _ _ h := State.agreeOff_write c h fun p hp => by cases p <;> trivial
  agent c _ a _ h := State.agreeOff_write c h fun p hp => by
    unfold State.setAgent
    split
    · exact State.agree_refl
    · cases p <;> trivial
  hist c _ _ _ h := State.agreeOff_write c h fun p hp => by cases p <;> trivial
  att c _ _ _ h := State.agreeOff_write c h fun p hp => by cases p <;> trivial
  sl c _ _ _ h := State.agreeOff_write c h fun p hp => by cases p <;> trivial
  mp c _ _ _ h := State.agreeOff_write c h fun p hp => by cases p <;> trivial
  router c _ _ _ h := State.agreeOff_write c h fun p hp => by cases p <;> trivial
  ev c _ _ _ h := State.agreeOff_write c h fun p hp => by cases p <;> trivial
  cnt c _ _ _ h _ := State.agreeOff_write c h fun p hp => by cases p <;> trivial
  wipe c _ _ _ := absurd rfl c.2
  undo c _ _ := absurd rfl c.2
  aon c _ _ := absurd rfl c.2

theorem State.agreeOff_refl : s.agreeOff T s := fun _ _ => State.agree_refl

/-- What keeps every property that the writes of the parts of a list keep agrees with the state before it on every other part. -/
theorem State.agreeOff_of_kept (hw : .wipe ∉ T) (h : (∀ p ∈ T, (Kept.off s T).c p) → (Kept.off s T).P s → (Kept.off s T).P t) :
    s.agreeOff T t :=
  h (fun _ hp => ⟨hp, fun e => hw (e ▸ hp)⟩) State.agreeOff_refl

end Frame

/-! ## Invariants of the step -/

section Invariants

variable {s : State}

/-- A step keeps what the writes of every part keep, where it does not speak of the queue. -/
theorem step_kept {K : Kept} (hC : ∀ p, K.c p) (hq : ∀ {s : State} l, K.P s → K.P { s with pending := l }) (hK : K.P s) :
    K.out (step s) := by
  unfold step
  split
  · exact Kept.out_next (State.tick_kept (K.all hC) hK)
  · exact exec_kept _ hC (hq _ hK)

/-! ## Entry 0xFFF (R52) -/

theorem State.startClocks_agreeOff : s.agreeOff [.slices, .ports] s.startClocks :=
  State.agreeOff_of_kept (by decide) State.startClocks_kept

theorem State.startClocks_agents : s.startClocks.agents = s.agents := State.startClocks_agreeOff .agents (by decide)

theorem State.agent_of_agents_nil {a : AgentId} (h : s.agents = []) : s.agent a = Agent.reset := by simp [State.agent, h]

/-- Entry 0xFFF is as after reset: every part's writes keep it, those of the agents since they skip it, a reset since it empties the
table. -/
def keptEntry0xFFF : Kept where
  P s := s.agent 0xFFF = Agent.reset
  c _ := True
  modes _ _ _ h := h
  plinth _ _ _ h := h
  pins _ _ _ h := h
  boot _ _ _ h := h
  hostRsp _ _ _ h := h
  hostOut _ _ _ h := h
  coxRsp _ _ _ h := h
  hmap _ _ _ h := h
  cast _ _ _ h := h
  cox _ _ _ h := h
  calAt _ _ _ h := h
  freeCtr _ _ _ h := h
  castMem _ _ _ h := h
  mesh _ _ _ h _ := h
  events _ _ _ h _ := h
  counts _ _ _ h _ := h
  reg _ _ _ _ h := h
  agent _ _ a _ h := by rw [State.agent_setAgent, if_neg fun ⟨e, hne⟩ => hne e.symm, h]
  hist _ _ _ _ h := h
  att _ _ _ _ h := h
  sl _ _ _ _ h := h
  mp _ _ _ _ h := h
  router _ _ _ _ h := h
  ev _ _ _ _ h := h
  cnt _ _ _ _ h _ := h
  wipe _ _ _ _ := State.agent_of_agents_nil State.startClocks_agents
  undo _ _ _ := State.agent_of_agents_nil State.startClocks_agents
  aon _ _ h := h

/-! ## The canonical form -/

/-- A store without some of its entries: the first key left is no lower. -/
theorem Store.head_filter {α : Type} {m : Store α} {g : Nat × α → Bool} {k : Nat} (h : ∀ p ∈ m, k < p.1) :
    ∀ p ∈ (m.filter g).head?, k < p.1 :=
  fun p hp => h p (List.mem_of_mem_filter (List.mem_of_mem_head? hp))

theorem Store.keys_gt {α : Type} [DecidableEq α] {f : Nat → α} {m : Store α} {k : Nat} {v : α}
    (h : Store.wf f ((k, v) :: m) = true) : ∀ p ∈ m, k < p.1 := by
  induction m generalizing k v with
  | nil => simp
  | cons x m ih =>
    obtain ⟨-, hlt, ht⟩ := Store.wf_cons.mp h
    have hx : k < x.1 := hlt x (by simp)
    intro p hp
    rcases List.mem_cons.mp hp with rfl | hp
    · exact hx
    · exact hx.trans (ih ht p hp)

/-- Leaving out entries keeps the canonical form. -/
theorem Store.wf_filter {α : Type} [DecidableEq α] {f : Nat → α} {m : Store α} {g : Nat × α → Bool}
    (h : Store.wf f m = true) : Store.wf f (m.filter g) = true := by
  induction m with
  | nil => rfl
  | cons x m ih =>
    have ht := ih (Store.wf_tail h)
    rw [List.filter_cons]
    split
    · exact Store.wf_cons.mpr ⟨(Store.wf_cons.mp h).1, Store.head_filter (Store.keys_gt h), ht⟩
    · exact ht

theorem State.wf_undoneRegs : Store.wf resetWord s.undoneRegs = true := by
  refine List.foldlRecOn (motive := fun m => Store.wf resetWord m = true) _ _ rfl fun m hm e _ => ?_
  dsimp only
  split
  · exact Store.wf_set hm
  · split
    · exact Store.wf_set hm
    · exact hm

theorem State.setAtt_canonical {k : AttId} {x : Att} (h : s.canonical) : (s.setAtt k x).canonical := by
  obtain ⟨hr, ha, hh, hk, hrest⟩ := h
  exact ⟨hr, ha, hh, Store.wf_set hk, hrest⟩

theorem State.setSl_canonical {i : SliceId} {x : Slice} (h : s.canonical) : (s.setSl i x).canonical := by
  obtain ⟨hr, ha, hh, hk, hi, hrest⟩ := h
  exact ⟨hr, ha, hh, hk, Store.wf_set hi, hrest⟩

theorem State.setMp_canonical {m : PortId} {x : Port} (h : s.canonical) : (s.setMp m x).canonical := by
  obtain ⟨hr, ha, hh, hk, hi, hm, hrest⟩ := h
  exact ⟨hr, ha, hh, hk, hi, Store.wf_set hm, hrest⟩

theorem State.setAgent_canonical {a : AgentId} {x : Agent} (h : s.canonical) : (s.setAgent a x).canonical := by
  obtain ⟨hr, ha, hrest⟩ := h
  unfold State.setAgent
  split
  · exact ⟨hr, ha, hrest⟩
  · exact ⟨hr, Store.wf_set ha, hrest⟩

theorem State.startClocks_canonical (h : s.canonical) : s.startClocks.canonical := by
  refine List.foldlRecOn (motive := State.canonical) _ _ ?_ fun t ht i _ => State.setSl_canonical ht
  exact List.foldlRecOn (motive := State.canonical) _ _ h fun t ht m _ => State.setMp_canonical ht

/-- A state whose stores other than the registers are empty is canonical where its registers are. -/
theorem State.canonical_of_regs (hr : Store.wf resetWord s.regs = true) (ha : s.agents = []) (hh : s.hists = []) (hk : s.atts = [])
    (hi : s.slices = []) (hm : s.ports = []) (ho : s.mesh.routers = []) (he : s.events.srcs = []) (hc : s.counts.cnts = []) :
    s.canonical := by
  simp [State.canonical, *]

/-- The canonical form: a write of an array sets one key; a reset empties the arrays and leaves registers out. -/
def keptCanonical : Kept where
  P s := s.canonical
  c _ := True
  modes _ _ _ h := h
  plinth _ _ _ h := h
  pins _ _ _ h := h
  boot _ _ _ h := h
  hostRsp _ _ _ h := h
  hostOut _ _ _ h := h
  coxRsp _ _ _ h := h
  hmap _ _ _ h := h
  cast _ _ _ h := h
  cox _ _ _ h := h
  calAt _ _ _ h := h
  freeCtr _ _ _ h := h
  castMem _ _ _ h := h
  mesh _ _ _ h hr := by simpa only [State.canonical, hr] using h
  events _ _ _ h he := by simpa only [State.canonical, he] using h
  counts _ _ _ h hc := by simpa only [State.canonical, hc] using h
  reg _ _ _ _ := fun ⟨hr, hrest⟩ => ⟨Store.wf_set hr, hrest⟩
  agent _ _ _ _ h := State.setAgent_canonical h
  hist _ _ _ _ := fun ⟨hr, ha, hh, hrest⟩ => ⟨hr, ha, Store.wf_set hh, hrest⟩
  att _ _ _ _ h := State.setAtt_canonical h
  sl _ _ _ _ h := State.setSl_canonical h
  mp _ _ _ _ h := State.setMp_canonical h
  router _ _ _ _ := fun ⟨hr, ha, hh, hk, hi, hm, ho, hrest⟩ => ⟨hr, ha, hh, hk, hi, hm, Store.wf_set ho, hrest⟩
  ev _ _ _ _ := fun ⟨hr, ha, hh, hk, hi, hm, ho, he, hc⟩ => ⟨hr, ha, hh, hk, hi, hm, ho, Store.wf_set he, hc⟩
  cnt _ _ _ _ := fun ⟨hr, ha, hh, hk, hi, hm, ho, he, hc⟩ _ => ⟨hr, ha, hh, hk, hi, hm, ho, he, Store.wf_set hc⟩
  wipe _ _ _ := fun ⟨hr, _⟩ =>
    State.startClocks_canonical (State.canonical_of_regs (Store.wf_filter hr) rfl rfl rfl rfl rfl rfl rfl rfl)
  undo _ _ _ := State.startClocks_canonical (State.canonical_of_regs State.wf_undoneRegs rfl rfl rfl rfl rfl rfl rfl rfl)
  aon _ _ := fun ⟨_, hrest⟩ => ⟨rfl, hrest⟩

end Invariants

/-- Settles O4, as an invariant of every write: the table's entry 0xFFF ignores writes, and a reset empties the table. -/
theorem entry0xFFFStaysAbsent : Obligations.Entry0xFFFStaysAbsent := by
  unfold Obligations.Entry0xFFFStaysAbsent
  intro s t h ht
  exact step_kept (K := keptEntry0xFFF) (fun _ => trivial) (fun _ h => h) h t ht

/-- Settles O6, as an invariant of every write: each array is written key by key. -/
theorem stepKeepsCanonicalForm : Obligations.StepKeepsCanonicalForm := by
  unfold Obligations.StepKeepsCanonicalForm
  intro s t h ht
  exact step_kept (K := keptCanonical) (fun _ => trivial) (fun _ h => h) h t ht

/-- Settles O7: the reset state has empty stores, so that every read is of the value an unlisted key reads as. -/
theorem resetMeetsTheInvariants : Obligations.ResetMeetsTheInvariants := by
  unfold Obligations.ResetMeetsTheInvariants
  have hagent : ∀ a, State.reset.agent a = Agent.reset := fun a => rfl
  refine ⟨⟨State.canonical_of_regs rfl rfl rfl rfl rfl rfl rfl rfl rfl, hagent _, fun i _ => rfl⟩, rfl, rfl, fun b => rfl, rfl,
    fun a => ?_, fun a => rfl⟩
  simp [hagent, Agent.reset]

end Sys2Proof.Machine

/-! SUPPORT. Arrivals at an attachment: what a message pays and takes, and where it goes. -/

namespace Sys2Proof.Machine

section Arrivals

variable {s t : State} {la k : AttId} {i : SliceId} {r : Req} {f : AttId → Fld} {q : ReqHdr} {w : WrData} {b : Bool} {n : Nat}

/-! ## Crossings and counts of an attachment -/

@[simp] theorem State.crossing_att {u : QUnit} {c : Nat} : (s.crossing u c).att k = s.att k := rfl
@[simp] theorem State.crossing_atts {u : QUnit} {c : Nat} : (s.crossing u c).atts = s.atts := rfl
@[simp] theorem State.crossing_sl {u : QUnit} {c : Nat} : (s.crossing u c).sl i = s.sl i := rfl
@[simp] theorem State.crossing_slices {u : QUnit} {c : Nat} : (s.crossing u c).slices = s.slices := rfl
@[simp] theorem State.crossing_ports {u : QUnit} {c : Nat} : (s.crossing u c).ports = s.ports := rfl
@[simp] theorem State.crossing_agents {u : QUnit} {c : Nat} : (s.crossing u c).agents = s.agents := rfl
@[simp] theorem State.crossing_agent {u : QUnit} {c : Nat} {a : AgentId} : (s.crossing u c).agent a = s.agent a := rfl
@[simp] theorem State.crossing_regs {u : QUnit} {c : Nat} : (s.crossing u c).regs = s.regs := rfl
@[simp] theorem State.crossing_fld {u : QUnit} {c : Nat} {g : Fld} : (s.crossing u c).fld g = s.fld g := rfl
@[simp] theorem State.crossing_now {u : QUnit} {c : Nat} : (s.crossing u c).now = s.now := rfl
@[simp] theorem State.crossing_level {u : QUnit} {c : Nat} : (s.crossing u c).level = s.level := rfl
@[simp] theorem State.crossing_held {u : QUnit} {c : Nat} : (s.crossing u c).held = s.held := rfl
@[simp] theorem State.crossing_inWindow {u : QUnit} {c : Nat} {l : Line} : (s.crossing u c).inWindow l = s.inWindow l := rfl
@[simp] theorem State.crossing_edgeHome {u : QUnit} {c j : Nat} {l : BitVec 12} : (s.crossing u c).edgeHome j l = s.edgeHome j l := rfl

theorem cLa_ge {j : Nat} : 2048 ≤ cLa k j := by unfold cLa; omega

@[simp] theorem State.count_cLa_slices {j : Nat} : (s.count (cLa k j) n).slices = s.slices := State.count_slices_of_ge cLa_ge
@[simp] theorem State.count_cLa_sl {j : Nat} : (s.count (cLa k j) n).sl i = s.sl i := by simp [State.sl]
@[simp] theorem State.refuse_slices : (s.refuse k f).slices = s.slices := by simp [State.refuse]
@[simp] theorem State.refuse_sl : (s.refuse k f).sl i = s.sl i := by simp [State.sl]

/-! ## Refusals (R65) -/

theorem State.fld_refuse {g : Fld} : (s.refuse k f).fld g = (s.incF (f k)).fld g := by simp [State.refuse]

/-- A refusal adds 1 to its count of LA_REFUSE, up to 255. -/
theorem State.fld_refuse_self (h : (f k).lo + (f k).len ≤ 32) :
    (s.refuse k f).fld (f k) = min (2 ^ (f k).len - 1) (s.fld (f k) + 1) := by rw [State.fld_refuse, State.fld_incF h]

theorem State.fld_refuse_apart {g : Fld} (h : (f k).lo + (f k).len ≤ 32) (hg : (f k).apart g) : (s.refuse k f).fld g = s.fld g := by
  rw [State.fld_refuse, State.fld_incF_apart h hg]

/-! ## Credits (R34, R35) -/

/-- An attachment after a message has spent a credit on REQ or RWD. -/
def Att.pay (a : Att) (rwd : Bool) : Att := if rwd then { a with rwdCr := a.rwdCr - 1 } else { a with reqCr := a.reqCr - 1 }

@[simp] theorem Att.pay_waitIn {a : Att} : (a.pay b).waitIn = a.waitIn := by cases b <;> rfl
@[simp] theorem Att.pay_order {a : Att} : (a.pay b).order = a.order := by cases b <;> rfl
@[simp] theorem Att.pay_accN {a : Att} : (a.pay b).accN = a.accN := by cases b <;> rfl
@[simp] theorem Att.pay_barriers {a : Att} : (a.pay b).barriers = a.barriers := by cases b <;> rfl
@[simp] theorem Att.pay_snooped {a : Att} : (a.pay b).snooped = a.snooped := by cases b <;> rfl
@[simp] theorem Att.pay_bufs {a : Att} : (a.pay b).bufs = a.bufs := by cases b <;> rfl
@[simp] theorem Att.pay_ndrQ {a : Att} : (a.pay b).ndrQ = a.ndrQ := by cases b <;> rfl
@[simp] theorem Att.pay_seq {a : Att} : (a.pay b).seq = a.seq := by cases b <;> rfl

/-- An attachment holds a credit on REQ or RWD. -/
def Att.hasCredit (a : Att) (rwd : Bool) : Prop := if rwd then 0 < a.rwdCr else 0 < a.reqCr

/-- A message with a credit has come in on REQ or RWD: its credit is spent, and it is counted. -/
def State.paid (s : State) (rwd : Bool) (la : AttId) : State :=
  (((s.crossing (.att la) (if rwd then 1 else 0)).modAtt la (fun a => a.pay rwd)).giveBack la 0 0).count
    (cLa la (if rwd then 1 else 0)) 1

theorem State.takeCredit_of_hasCredit (h : (s.att la).hasCredit b) :
    (s.takeCredit b la).map (fun s => s.count (cLa la (if b then 1 else 0)) 1) = some (s.paid b la) := by
  cases b with
  | true =>
    have hc : (s.att la).rwdCr ≠ 0 := Nat.ne_of_gt (by simpa [Att.hasCredit] using h)
    simp [State.takeCredit, State.paid, hc, Att.pay, State.modAtt]
  | false =>
    have hc : (s.att la).reqCr ≠ 0 := Nat.ne_of_gt (by simpa [Att.hasCredit] using h)
    simp [State.takeCredit, State.paid, hc, Att.pay, State.modAtt]

@[simp] theorem State.paid_slices : (s.paid b la).slices = s.slices := by simp [State.paid]
@[simp] theorem State.paid_sl : (s.paid b la).sl i = s.sl i := by simp [State.sl]
@[simp] theorem State.paid_ports : (s.paid b la).ports = s.ports := by simp [State.paid]
@[simp] theorem State.paid_agents : (s.paid b la).agents = s.agents := by simp [State.paid]
@[simp] theorem State.paid_agent {a : AgentId} : (s.paid b la).agent a = s.agent a := by simp [State.agent]
@[simp] theorem State.paid_regs : (s.paid b la).regs = s.regs := by simp [State.paid]
@[simp] theorem State.paid_fld {g : Fld} : (s.paid b la).fld g = s.fld g := by simp [State.fld, State.reg]
@[simp] theorem State.paid_mode : (s.paid b la).mode = s.mode := by simp [State.paid]
@[simp] theorem State.paid_inWindow {l : Line} : (s.paid b la).inWindow l = s.inWindow l := by simp [State.paid]
@[simp] theorem State.paid_edgeHome {j : Nat} {c : BitVec 12} : (s.paid b la).edgeHome j c = s.edgeHome j c := by simp [State.paid]

theorem State.att_paid : (s.paid b la).att k
    = if k = la then ((s.att la).pay b).giveBack (decide (3 ≤ s.level)) 0 0 else s.att k := by
  by_cases h : k = la
  · subst h
    rw [if_pos rfl, State.paid, State.count_att, State.att_giveBack_self, State.att_modAtt_self]
    rfl
  · simp [State.paid, State.att_giveBack, State.att_modAtt, h]

@[simp] theorem State.att_paid_self : (s.paid b la).att la = ((s.att la).pay b).giveBack (decide (3 ≤ s.level)) 0 0 := by
  simp [State.att_paid]

/-! ## Requests that pass the edge (R98, R194) -/

@[simp] theorem State.toNew_atts : (s.toNew r).atts = s.atts := by simp [State.toNew]
@[simp] theorem State.toNew_att : (s.toNew r).att k = s.att k := by simp [State.att]
@[simp] theorem State.toNew_ports : (s.toNew r).ports = s.ports := by simp [State.toNew]
@[simp] theorem State.toNew_agents : (s.toNew r).agents = s.agents := by simp [State.toNew]
@[simp] theorem State.toNew_regs : (s.toNew r).regs = s.regs := by simp [State.toNew]

/-- A request enters the NEW queue of its home slice last. -/
theorem State.toNew_new (h : s.homeAt r.la (bucketOf r.q.laddr) = i) : ((s.toNew r).sl i).new = (s.sl i).new ++ [r] := by
  subst h
  rw [State.toNew, State.sl_modSl_self, State.inject_sl]
  dsimp only
  split <;> rfl

theorem State.toNew_sl_ne {j : SliceId} (h : s.homeAt r.la (bucketOf r.q.laddr) = i) (hj : j ≠ i) : (s.toNew r).sl j = s.sl j := by
  subst h
  simp [State.toNew, State.sl_modSl, hj]

/-- In SERVE and SHED a request other than a FENCE, for a line outside the counter window, enters its home slice. -/
theorem State.passIn_toNew (hm : s.mode = .serve ∨ s.mode = .shed) (hf : r.op ≠ .fence) (hw : s.inWindow r.q.laddr = false) :
    s.passIn r = (if r.op.rwd then s else s.retReq r.la).toNew r := by
  rcases hm with hm | hm <;> simp [State.passIn, hm, hf, hw]

theorem State.canPass_of_turn {o : List OrdEntry} (hf : r.op ≠ .fence) (ht : turnOf o r = true) : s.canPass o r = true := by
  simp [State.canPass, hf, ht]

@[simp] theorem Att.enter_reqCr {a : Att} : (a.enter r b).reqCr = a.reqCr := rfl
@[simp] theorem Att.enter_reqHold {a : Att} : (a.enter r b).reqHold = a.reqHold := rfl
@[simp] theorem Att.enter_rwdCr {a : Att} : (a.enter r b).rwdCr = a.rwdCr := rfl
@[simp] theorem Att.enter_rwdHold {a : Att} : (a.enter r b).rwdHold = a.rwdHold := rfl
@[simp] theorem Att.enter_bufs {a : Att} : (a.enter r b).bufs = a.bufs := rfl
@[simp] theorem Att.enter_order {a : Att} : (a.enter r b).order = a.order ++ [OrdEntry.mk r b 2 a.accN] := rfl

/-- A request whose turn has come takes an order-table entry and passes into the block. -/
theorem State.acceptOrdered_passes (hl : (s.att r.la).order.length < 512)
    (hq : (s.att r.la).waitIn.any (fun x => decide (x.op.rwd = r.op.rwd)) = false) (hf : r.op ≠ .fence)
    (ht : turnOf (s.att r.la).order r = true) (hm : s.mode = .serve ∨ s.mode = .shed) (hw : s.inWindow r.q.laddr = false) :
    s.acceptOrdered r
      = (if r.op.rwd then s.modAtt r.la (fun a => a.enter r false) else (s.modAtt r.la (fun a => a.enter r false)).retReq r.la).toNew r := by
  have hn : ¬512 ≤ (s.att r.la).order.length := by omega
  have he : s.enterOrder r = (s.modAtt r.la (fun a => a.enter r false)).passIn r := by
    simp [State.enterOrder, State.canPass_of_turn hf ht]
  rw [State.acceptOrdered, hq, if_neg (by simp [hn]), he, State.passIn_toNew (by simpa using hm) hf (by simpa using hw)]

/-- The lowest free write-data buffer takes a write's data. -/
theorem State.takeBuf_of_free {sn : Bool} (h : Store.lowestFree none (s.att k).bufs 32 = some n) :
    s.takeBuf k q w sn = (s.modAtt k (fun a => { a with
      bufs := Store.set none a.bufs n (some { w := w, psn := q.psn, snoop := sn, high := decide (8 ≤ q.ncnt.toNat) }) }),
      some (BitVec.ofNat 5 n)) := by
  simp [State.takeBuf, h]

/-! ## Acceptance: an admitted request comes as far as the order table -/

/-- An attachment's room for a write rests on its write-data buffers. -/
theorem Att.writeRoom_congr {a c : Att} (h : c.bufs = a.bufs) : c.writeRoom q = a.writeRoom q := by
  have ho : ∀ p, c.ordBufs p = a.ordBufs p := fun p => by unfold Att.ordBufs; rw [h]
  rw [Att.writeRoom, ho, ho, Att.writeRoom]

theorem Att.barrier_congr {a c : Att} (h : c.barriers = a.barriers) : c.barrier q = a.barrier q := by simp only [Att.barrier, h]

theorem Att.barred_of_none {a : Att} (h : a.barrier q = none) : a.barred q = false := by simp [Att.barred, h]

/-- The request as the edge forms it, its buffer still to be taken. -/
def edgeReq (op : Op) (la : AttId) (q : ReqHdr) : Req := { op := op, la := la, q := q, buf := none }

/-- What of `State.passesAtOnce` speaks of the message itself: it has a credit, an agent of this attachment, a known operation and no
snoop record, and its pair has no barrier. -/
theorem State.request_admitted {op : Op} (hs : s.silent la = false) (ha : q.agent ≠ 0xFFF) (hl : (s.agent q.agent).la = la)
    (hc : (s.att la).hasCredit op.rwd) (ho : op = .hatom → atomOk q = true) (hn : op ≠ .conflict) :
    request op la q w s = .next ((s.paid op.rwd la).acceptChecked (edgeReq op la q) w) := by
  obtain ⟨t, ht, hp⟩ := Option.map_eq_some_iff.mp (State.takeCredit_of_hasCredit hc)
  have hx : ¬(op = .hatom ∧ (!atomOk q) = true) := fun ⟨h1, h2⟩ => by simp [ho h1] at h2
  simp only [request, State.accept, ht, hp, State.paid_agent, hs, hl, if_neg ha, if_neg hx, if_neg hn, edgeReq, ne_eq,
    not_true_eq_false, Bool.false_eq_true, if_false]

/-- Outside HOLD a request without data, and without a barrier on its pair, goes on to the order table (R98, R193). -/
theorem State.acceptChecked_read (hm : s.mode = .serve ∨ s.mode = .shed) (hr : r.op.rwd = false) (hb : (s.att r.la).barrier r.q = none) :
    s.acceptChecked r w = s.acceptOrdered r := by
  have hh : s.mode ≠ .hold := by rcases hm with h | h <;> simp [h]
  have hp : r.op.plainWrite = false := by cases h : r.op <;> simp [h, Op.rwd] at hr <;> rfl
  simp only [State.acceptChecked, if_neg hh, hp, Att.barred_of_none hb, hr, Bool.false_eq_true, false_and, if_false]

/-- Outside HOLD a request with data that no snoop record and no barrier concerns, and that finds room, takes a buffer and goes on to
the order table (R98, R107, R193). -/
theorem State.acceptChecked_write (hm : s.mode = .serve ∨ s.mode = .shed) (hr : r.op.rwd = true)
    (hs : r.op.plainWrite = true → (r.q.agent, r.q.laddr) ∉ (s.att r.la).snooped) (hb : (s.att r.la).barrier r.q = none)
    (hw : (s.att r.la).writeRoom r.q = true) :
    s.acceptChecked r w = (s.takeBuf r.la r.q w false).1.acceptOrdered { r with buf := (s.takeBuf r.la r.q w false).2 } := by
  have hh : s.mode ≠ .hold := by rcases hm with h | h <;> simp [h]
  have hp : ¬(r.op.plainWrite = true ∧ (r.q.agent, r.q.laddr) ∈ (s.att r.la).snooped) := fun ⟨h1, h2⟩ => hs h1 h2
  simp only [State.acceptChecked, if_neg hh, if_neg hp, Att.barred_of_none hb, hr, hw, Bool.false_eq_true, if_false, if_true]

/-! ## A request that passes the edge at once -/

variable {op : Op}

theorem exec_command_read (h : op.rwd = false) : exec (op.command la q w) s = request op la q noData s := by
  cases op with
  | rdShared | rdOwn | rdCur | rdAtomic | inv | evictClean | conflict | fence | rsvRd => rfl
  | wrFull | wrKeep | wrPartial | hatom | condWr => cases h

theorem exec_command_write (h : op.rwd = true) : exec (op.command la q w) s = request op la q w s := by
  cases op with
  | rdShared | rdOwn | rdCur | rdAtomic | inv | evictClean | conflict | fence | rsvRd => cases h
  | wrFull | wrKeep | wrPartial | hatom | condWr => rfl

theorem State.passesAtOnce_hasCredit (h : s.passesAtOnce op la q) : (s.att la).hasCredit op.rwd := by
  obtain ⟨-, -, -, -, hc, -⟩ := h
  unfold Att.hasCredit
  split at hc
  case isTrue hr => rw [if_pos hr]; exact hc.1
  case isFalse hr => rw [if_neg hr]; exact hc

theorem State.request_passesAtOnce_read (hp : s.passesAtOnce op la q) (hr : op.rwd = false) (hf : op ≠ .fence) (hc : op ≠ .conflict) :
    request op la q w s = .next ((((s.paid false la).modAtt la (fun a => a.enter (edgeReq op la q) false)).retReq la).toNew
      (edgeReq op la q)) := by
  have hcr := State.passesAtOnce_hasCredit hp
  obtain ⟨hs, hm, ha, hl, -, -, ho, hb, hn, hq, ht, hw⟩ := hp
  have hb' : ((s.paid false la).att la).barrier q = none := (Att.barrier_congr (by simp)).trans hb
  have hq' : ((s.paid false la).att la).waitIn.any (fun x => decide (x.op.rwd = op.rwd)) = false := by simpa using hq
  rw [State.request_admitted hs ha hl hcr ho hc, hr,
    State.acceptChecked_read (by simpa using hm) hr hb',
    State.acceptOrdered_passes (by simpa [edgeReq] using hn) hq' hf (by simpa [edgeReq] using ht)
      (by simpa using hm) (by simpa [edgeReq] using hw)]
  simp [edgeReq, hr]

/-- A write that passes the edge at once has taken its buffer and its order-table entry. -/
def State.writeTaken (s : State) (la : AttId) (q : ReqHdr) (w : WrData) (n : Nat) (r : Req) : State :=
  ((s.paid true la).modAtt la (fun a => { a with
    bufs := Store.set none a.bufs n (some { w := w, psn := q.psn, snoop := false, high := decide (8 ≤ q.ncnt.toNat) }) })).modAtt la
      (fun a => a.enter r false)

theorem State.request_passesAtOnce_write (hp : s.passesAtOnce op la q) (hr : op.rwd = true)
    (hn : Store.lowestFree none (s.att la).bufs 32 = some n) :
    request op la q w s = .next ((s.writeTaken la q w n { op := op, la := la, q := q, buf := some (BitVec.ofNat 5 n) }).toNew
      { op := op, la := la, q := q, buf := some (BitVec.ofNat 5 n) }) := by
  have hcr := State.passesAtOnce_hasCredit hp
  obtain ⟨hs, hm, ha, hl, hroom, hsn, ho, hb, hlen, hq, ht, hw⟩ := hp
  replace hroom : (s.att la).writeRoom q = true := by rw [if_pos hr] at hroom; exact hroom.2
  have hc : op ≠ .conflict := fun h => by simp [h, Op.rwd] at hr
  have hf : op ≠ .fence := fun h => by simp [h, Op.rwd] at hr
  have hb' : ((s.paid true la).att la).barrier q = none := (Att.barrier_congr (by simp)).trans hb
  have hroom' : ((s.paid true la).att la).writeRoom q = true := (Att.writeRoom_congr (by simp)).trans hroom
  have hn' : Store.lowestFree none ((s.paid true la).att la).bufs 32 = some n := by simpa using hn
  rw [State.request_admitted hs ha hl hcr ho hc, hr,
    State.acceptChecked_write (by simpa using hm) hr (by simpa [edgeReq] using hsn) hb' hroom']
  simp only [edgeReq]
  rw [State.takeBuf_of_free hn', State.acceptOrdered_passes (by simpa using hlen) (by simpa using hq) hf
    (by simpa [turnOf, mustWait] using ht) (by simpa using hm) (by simpa using hw), if_pos hr]
  rfl

end Arrivals

/-- Settles O8. A request that passes the edge at once is paid for, enters the order table and then its home slice's NEW queue; each of
these steps changes its own attachment or slice alone. -/
theorem requestsEnterTheirHome : Obligations.RequestsEnterTheirHome := by
  unfold Obligations.RequestsEnterTheirHome
  constructor
  · intro op la q s hr hf hc hp
    refine ⟨_, (exec_command_read hr).trans (State.request_passesAtOnce_read hp hr hf hc), ?_, ?_, ?_, fun k hk => ?_,
      fun i hi => ?_, ?_, ?_, ?_⟩
    · rw [State.toNew_new (i := s.homeAt la (bucketOf q.laddr)) (by simp [State.homeAt, State.retReq, edgeReq])]
      simp [State.retReq, edgeReq]
    · simp [State.retReq, edgeReq]
    · have hcr : 0 < (s.att la).reqCr := by simpa [Att.hasCredit, hr] using State.passesAtOnce_hasCredit hp
      simp [State.retReq, Att.giveBack_req, Att.pay]
      omega
    · simp [State.retReq, State.att_giveBack, State.att_modAtt, State.att_paid, hk]
    · rw [State.toNew_sl_ne (i := s.homeAt la (bucketOf q.laddr)) (by simp [State.homeAt, State.retReq, edgeReq]) hi]
      simp [State.retReq]
    · simp [State.retReq]
    · simp [State.retReq]
    · simp [State.retReq]
  · intro op la q w b s hr hp hn
    refine ⟨_, (exec_command_write hr).trans (State.request_passesAtOnce_write hp hr hn), ?_, ?_, ?_, ?_, fun k hk => ?_,
      fun i hi => ?_, ?_, ?_, ?_⟩
    · rw [State.toNew_new (i := s.homeAt la (bucketOf q.laddr)) (by simp [State.homeAt, State.writeTaken])]
      simp [State.writeTaken]
    · simp [State.writeTaken]
    · simp [State.writeTaken]
    · have hcr : 0 < (s.att la).rwdCr := by simpa [Att.hasCredit, hr] using State.passesAtOnce_hasCredit hp
      simp [State.writeTaken, Att.giveBack_rwd, Att.pay]
      omega
    · simp [State.writeTaken, State.att_modAtt, State.att_paid, hk]
    · rw [State.toNew_sl_ne (i := s.homeAt la (bucketOf q.laddr)) (by simp [State.homeAt, State.writeTaken]) hi]
      simp [State.writeTaken]
    · simp [State.writeTaken]
    · simp [State.writeTaken]
    · simp [State.writeTaken]

end Sys2Proof.Machine

/-! SUPPORT. Responses, unlisted messages and credits of an attachment. -/

namespace Sys2Proof.Machine

section Responses

variable {s : State} {la k : AttId} {i : SliceId} {a : AgentId} {h : BitVec 16} {l : Line} {op : RspOp} {m : RspMsg}

/-! ## The RSP queue of a slice (R129) -/

@[simp] theorem State.toRsp_rsp : ((s.toRsp i m).sl i).rsp = (s.sl i).rsp ++ [m] := by simp [State.toRsp]
theorem State.toRsp_sl_ne {j : SliceId} (hj : j ≠ i) : (s.toRsp i m).sl j = s.sl j := by simp [State.toRsp, State.sl_modSl, hj]
@[simp] theorem State.toRsp_atts : (s.toRsp i m).atts = s.atts := by simp [State.toRsp]
@[simp] theorem State.toRsp_att : (s.toRsp i m).att k = s.att k := by simp [State.att]
@[simp] theorem State.toRsp_regs : (s.toRsp i m).regs = s.regs := by simp [State.toRsp]

/-! ## BIRSP messages with a credit (R40, R103) -/

/-- A BIRSP message has come in and is counted. -/
def State.birspIn (s : State) (la : AttId) : State := (s.crossing (.att la) 2).count (cLa la 2) 1

theorem State.birspIn_eq : (s.crossing (.att la) 2).count (cLa la 2) 1 = s.birspIn la := rfl
@[simp] theorem State.birspIn_sl : (s.birspIn la).sl i = s.sl i := by simp [State.birspIn]
@[simp] theorem State.birspIn_atts : (s.birspIn la).atts = s.atts := by simp [State.birspIn]
@[simp] theorem State.birspIn_att : (s.birspIn la).att k = s.att k := by simp [State.att]
@[simp] theorem State.birspIn_agent : (s.birspIn la).agent a = s.agent a := by simp [State.birspIn]
@[simp] theorem State.birspIn_regs : (s.birspIn la).regs = s.regs := by simp [State.birspIn]
@[simp] theorem State.birspIn_fld {g : Fld} : (s.birspIn la).fld g = s.fld g := by simp [State.birspIn]
@[simp] theorem State.birspIn_held : (s.birspIn la).held = s.held := by simp [State.birspIn]
@[simp] theorem State.birspIn_now : (s.birspIn la).now = s.now := by simp [State.birspIn]
@[simp] theorem State.birspIn_slotOf : (s.birspIn la).slotOf h = s.slotOf h := by simp [State.slotOf]
@[simp] theorem State.birspIn_openProbe : (s.birspIn la).openProbe a h = s.openProbe a h := by simp [State.openProbe]

/-- A snoop response to an open snoop clears the line's snoop record and goes to the slice of its slot. -/
theorem State.birsp_of_openSnoop (hs : s.birspArrives la a) (hp : s.openProbe a h = none)
    (ho : ((s.slotOf h).map (·.openSnoop a)).getD false = true) :
    s.birsp la op a h l = (((s.birspIn la).modAtt la (fun x => { x with snooped := x.snooped.erase (a, l) })).inject (.att la)
      (.slice (htagSlice h)) 5 (headerBody (birspHeader op.code a h l)) []).toRsp (htagSlice h) (.birsp op a h l s.now) := by
  obtain ⟨-, hc, ha, hl, hh⟩ := hs
  have hp' : (s.birspIn la).openProbe a h = none := by simpa using hp
  have ho' : (((s.birspIn la).slotOf h).map (·.openSnoop a)).getD false = true := by simpa using ho
  have hl' : ¬((s.birspIn la).agent a).la ≠ la := by simpa using hl
  have hh' : ¬(s.birspIn la).held = true := by simpa using hh
  have hc' : (s.att la).birspCr ≠ 0 := by omega
  simp only [State.birsp, if_neg hc', State.birspIn_eq, if_neg ha, if_neg hl', if_neg hh', hp', ho', if_true, State.birspIn_now]

/-- An EGRESS_ACK that a slot awaits goes to the slice of its slot. -/
theorem State.eack_of_awaitsAck (hs : s.birspArrives la a) (ho : ((s.slotOf h).map (·.awaitsAck a)).getD false = true) :
    s.eack la a h = (((s.birspIn la).count (cLa la 10) 1).inject (.att la) (.slice (htagSlice h)) 5
      (headerBody (birspHeader 8 a h 0)) []).toRsp (htagSlice h) (.eack a h) := by
  obtain ⟨-, hc, ha, hl, hh⟩ := hs
  have ho' : ((((s.birspIn la).count (cLa la 10) 1).slotOf h).map (·.awaitsAck a)).getD false = true := by
    simpa [State.slotOf] using ho
  have hl' : ¬(((s.birspIn la).count (cLa la 10) 1).agent a).la ≠ la := by simpa using hl
  have hh' : ¬((s.birspIn la).count (cLa la 10) 1).held = true := by simpa using hh
  have hc' : (s.att la).birspCr ≠ 0 := by omega
  simp only [State.eack, if_neg hc', State.birspIn_eq, if_neg ha, if_neg hl', if_neg hh', ho', if_true]

theorem onBirsp_of_arrives {f : State → State} (hs : s.birspArrives la a) : onBirsp la f s = .next (f s) := by
  simp [onBirsp, hs.1]

end Responses

section Unlisted

variable {s t : State} {la k : AttId} {a : AgentId} {q : ReqHdr} {opc : BitVec 5} {ch : InCh} {b : Bool} {op : Op}

/-! ## Messages with an unlisted opcode (R38, R40) -/

theorem Fld.format_fits : (Fld.format k).lo + (Fld.format k).len ≤ 32 := Nat.le_refl 32

/-- An ERROR on arrival: the credit returns. -/
def State.creditBack (s : State) (rwd : Bool) (la : AttId) : State := if rwd then s.retRwd la else s.retReq la

theorem State.creditBack_eq : s.creditBack b la = s.giveBack la (if b then 0 else 1) (if b then 1 else 0) := by cases b <;> rfl

theorem State.arrivalError_eq {f : AttId → Fld} :
    s.arrivalError op la q f = ((s.creditBack op.rwd la).refuse la f).egNdr la (errNdr q) := rfl

theorem execUnlistedRequest_error (hu : unlistedReq ch opc = true) (hs : s.silent la = false) (ha : q.agent ≠ 0xFFF)
    (hc : (s.att la).hasCredit (decide (ch = .rwd))) :
    execUnlistedRequest la ch opc q s = .next ((((s.paid (decide (ch = .rwd)) la).creditBack (decide (ch = .rwd)) la).refuse la
      Fld.format).egNdr la (errNdr q)) := by
  obtain ⟨t, ht, hp⟩ := Option.map_eq_some_iff.mp (State.takeCredit_of_hasCredit hc)
  have hl : ¬listedReq ch opc = true := by simpa [unlistedReq_eq_not_listedReq] using hu
  have ho : (if decide (ch = .rwd) = true then Op.wrFull else Op.rdCur).rwd = decide (ch = .rwd) := by split <;> simp_all [Op.rwd]
  simp only [execUnlistedRequest, if_neg hl, hs, ht, hp, if_neg ha, State.arrivalError_eq, ho, Bool.false_eq_true, if_false]

/-- A request that pays its credit and has it back: as many credits are held or withheld as before. -/
theorem State.credits_error (hc : (s.att la).hasCredit b) {f : AttId → Fld} {n : Ndr} :
    let x := ((((s.paid b la).creditBack b la).refuse la f).egNdr la n).att la
    x.reqCr + x.reqHold = (s.att la).reqCr + (s.att la).reqHold ∧ x.rwdCr + x.rwdHold = (s.att la).rwdCr + (s.att la).rwdHold := by
  cases b with
  | true =>
    have h : 0 < (s.att la).rwdCr := hc
    simp [State.creditBack_eq, State.egNdr, Att.giveBack_req, Att.giveBack_rwd, Att.pay]
    omega
  | false =>
    have h : 0 < (s.att la).reqCr := hc
    simp [State.creditBack_eq, State.egNdr, Att.giveBack_req, Att.giveBack_rwd, Att.pay]
    omega

theorem execUnlistedBirsp_refused {o : BitVec 4} (hu : unlistedRsp o = true) (hs : s.silent la = false) (ha : a ≠ 0xFFF)
    (hc : 0 < (s.att la).birspCr) : execUnlistedBirsp la o a s = .next ((s.birspIn la).refuse la Fld.format) := by
  have hc' : (s.att la).birspCr ≠ 0 := by omega
  simp only [execUnlistedBirsp, if_neg (unlistedRsp_iff.mp hu), hs, if_neg hc', if_neg ha, State.birspIn_eq, Bool.false_eq_true,
    if_false]

/-! ## Credits the block holds (R430) -/

/-- The credits an attachment holds for the block on an outbound channel. -/
def Att.outC (x : Att) : OutCh → Credits
  | .ndr => x.ndrC
  | .drs => x.drsC
  | .bisnp => x.bisnpC

/-- Those credits replaced. -/
def Att.setOutC (x : Att) (c : Credits) : OutCh → Att
  | .ndr => { x with ndrC := c }
  | .drs => { x with drsC := c }
  | .bisnp => { x with bisnpC := c }

theorem Att.outC_setOutC {x : Att} {c : Credits} {o o' : OutCh} : (x.setOutC c o).outC o' = if o' = o then c else x.outC o' := by
  cases o <;> cases o' <;> rfl

theorem State.creditsOf_link {o : OutCh} : s.creditsOf (.link k o) = (s.att k).outC o := by cases o <;> rfl

/-- The credits of a channel replaced. -/
def State.setCredits (s : State) (ch : CreditCh) (c : Credits) : State :=
  match ch with
  | .link k o => s.modAtt k (fun x => x.setOutC c o)
  | .mcmd m => s.modMp m (fun p => { p with mcmdC := c })
  | .mwdata m => s.modMp m (fun p => { p with mwdataC := c })

theorem State.creditsOf_setCredits_self {c : CreditCh} {x : Credits} : (s.setCredits c x).creditsOf c = x := by
  cases c with
  | link k o => simp [State.creditsOf_link, State.setCredits, Att.outC_setOutC]
  | mcmd | mwdata => simp [State.setCredits, State.creditsOf]

theorem State.creditsOf_setCredits_ne {c c' : CreditCh} {x : Credits} (h : c' ≠ c) :
    (s.setCredits c x).creditsOf c' = s.creditsOf c' := by
  cases c with
  | link k o =>
    cases c' with
    | link k' o' =>
      simp only [State.creditsOf_link, State.setCredits, State.att_modAtt]
      split
      case isTrue hk => subst hk; rw [Att.outC_setOutC, if_neg fun e => h (by rw [e])]
      case isFalse => rfl
    | mcmd | mwdata => rfl
  | mcmd m | mwdata m =>
    cases c' with
    | link k o => simp [State.creditsOf_link, State.setCredits]
    | mcmd m' | mwdata m' =>
      simp only [State.creditsOf, State.setCredits, State.mp_modMp]
      split <;> simp_all

@[simp] theorem State.setCredits_slices {c : CreditCh} {x : Credits} : (s.setCredits c x).slices = s.slices := by cases c <;> rfl
@[simp] theorem State.setCredits_regs {c : CreditCh} {x : Credits} : (s.setCredits c x).regs = s.regs := by cases c <;> rfl

/-- CREDIT_RETURN is one more credit-return cycle on its channel. -/
theorem execCreditReturn_eq {c : CreditCh} : execCreditReturn c s = .next (s.setCredits c (s.creditsOf c).ret) := by
  cases c with
  | link k o => cases o <;> rfl
  | mcmd | mwdata => rfl

@[simp] theorem State.advEvent_slices : (s.advEvent k b).slices = s.slices := by unfold State.advEvent; split <;> simp
@[simp] theorem State.advEvent_regs : (s.advEvent k b).regs = s.regs := by unfold State.advEvent; split <;> simp
@[simp] theorem State.advEvent_att {j : AttId} : (s.advEvent k b).att j = s.att j := by unfold State.advEvent; split <;> simp
@[simp] theorem State.advEvent_mp {m : PortId} : (s.advEvent k b).mp m = s.mp m := by unfold State.advEvent; split <;> simp
@[simp] theorem State.advEvent_creditsOf {c : CreditCh} : (s.advEvent k b).creditsOf c = s.creditsOf c := by
  cases c with
  | link j o => rw [State.creditsOf_link, State.advEvent_att, State.creditsOf_link]
  | mcmd m | mwdata m => simp only [State.creditsOf, State.advEvent_mp]

/-- CREDIT_ADVERTISEMENT ends the advertisement of its channel, and reports one of an attachment that it clamped. -/
theorem execCreditAdvertisement_eq {c : CreditCh} : ∃ t, execCreditAdvertisement c s = .next t
    ∧ (∀ c', t.creditsOf c' = (s.setCredits c (s.creditsOf c).adv.1).creditsOf c') ∧ t.slices = s.slices ∧ t.regs = s.regs := by
  cases c with
  | link k o =>
    refine ⟨(s.setCredits (.link k o) (s.creditsOf (.link k o)).adv.1).advEvent k (s.creditsOf (.link k o)).adv.2, ?_, ?_, ?_, ?_⟩
    · cases o <;> rfl
    · simp
    · simp
    · simp
  | mcmd m | mwdata m => exact ⟨_, rfl, fun _ => rfl, rfl, rfl⟩

theorem Credits.adv_of_open {c : Credits} (ho : c.advOpen = true) (hr : c.run ≠ 0) :
    c.adv.1 = { n := max 8 (min 255 c.run), advOpen := false, run := 0 } := by
  have hn : (if c.run < 8 then 8 else if 255 < c.run then 255 else c.run) = max 8 (min 255 c.run) := by
    split
    · omega
    · split <;> omega
  simp only [Credits.adv, if_pos (And.intro ho hr), hn]

end Unlisted

/-- Settles O10. Both messages take the same way: past the checks of arrival into the RSP queue of the slice that the HTAG names. -/
theorem responsesReachTheirSlot : Obligations.ResponsesReachTheirSlot := by
  unfold Obligations.ResponsesReachTheirSlot
  constructor
  · intro la a h l s hs hp ho c op hc
    have hx : exec c s = .next (s.birsp la op a h l) := by
      rcases hc with ⟨rfl, rfl⟩ | ⟨rfl, rfl⟩ | ⟨rfl, rfl⟩
      · exact onBirsp_of_arrives (f := fun s => s.birsp la .i a h l) hs
      · exact onBirsp_of_arrives (f := fun s => s.birsp la .s a h l) hs
      · exact onBirsp_of_arrives (f := fun s => s.birsp la .e a h l) hs
    refine ⟨_, hx.trans (by rw [State.birsp_of_openSnoop hs hp ho]), ?_, ?_, fun i hi => ?_, fun k hk => ?_, ?_⟩
    · simp
    · simp
    · simp [State.toRsp_sl_ne hi]
    · simp [State.att_modAtt, hk]
    · simp
  · intro la a h s hs ho
    have hx : exec (.egressAck la a h) s = .next (s.eack la a h) := onBirsp_of_arrives (f := fun s => s.eack la a h) hs
    refine ⟨_, hx.trans (by rw [State.eack_of_awaitsAck hs ho]), ?_, fun i hi => ?_, ?_, ?_⟩
    · simp
    · simp [State.toRsp_sl_ne hi]
    · simp
    · simp

/-- Settles O11. The credit that an unlisted message spends comes back to it; the refusal is counted in FORMAT. -/
theorem unlistedMessagesAreCountedInFormat : Obligations.UnlistedMessagesAreCountedInFormat := by
  unfold Obligations.UnlistedMessagesAreCountedInFormat
  constructor
  · intro la ch opc q s hu hs ha hc
    have hc' : (s.att la).hasCredit (decide (ch = .rwd)) := by simpa [Att.hasCredit] using hc
    obtain ⟨hreq, hrwd⟩ := State.credits_error hc' (f := Fld.format) (n := errNdr q)
    refine ⟨_, execUnlistedRequest_error hu hs ha hc', ?_, ?_, hreq, hrwd, fun g hg => ?_⟩
    · rw [State.egNdr_fld, State.fld_refuse_self Fld.format_fits]
      simp [State.creditBack_eq, Fld.format, Fld.la]
    · simp [State.creditBack_eq, State.egNdr]
    · rw [State.egNdr_fld, State.fld_refuse_apart Fld.format_fits hg]
      simp [State.creditBack_eq]
  · intro la opc a s hu hs ha hc
    refine ⟨_, execUnlistedBirsp_refused hu hs ha hc, ?_, ?_, fun g hg => ?_⟩
    · rw [State.fld_refuse_self Fld.format_fits]
      simp [Fld.format, Fld.la]
    · simp
    · rw [State.fld_refuse_apart Fld.format_fits hg]
      simp

/-- Settles O12. Both commands replace the credits of their channel alone, by the next cycle's value or by the length of the run. -/
theorem creditsAreCounted : Obligations.CreditsAreCounted := by
  unfold Obligations.CreditsAreCounted
  constructor
  · intro ch s
    refine ⟨_, execCreditReturn_eq, ?_, fun ch' h => ?_, by simp, by simp⟩
    · rw [State.creditsOf_setCredits_self]; rfl
    · rw [State.creditsOf_setCredits_ne h]
  · intro ch s ho hr
    obtain ⟨t, ht, hc, hsl, hrg⟩ := execCreditAdvertisement_eq (s := s) (c := ch)
    refine ⟨t, ht, ?_, fun ch' h => ?_, hsl, hrg⟩
    · rw [hc, State.creditsOf_setCredits_self, Credits.adv_of_open ho hr]
    · rw [hc, State.creditsOf_setCredits_ne h]

end Sys2Proof.Machine

/-! SUPPORT. Egress of an attachment: what acceptance leaves alone of it, and what leaves with the head of a queue. -/

namespace Sys2Proof.Machine

section Egress

variable {s t : State} {k j : AttId} {r : Req} {e : OrdEntry} {b : Bool} {n : Nat}

/-! ## Egress and acceptance are apart -/

/-- What of an attachment its order table, gate and write-data buffers leave alone: the credits it holds, the channels, the DRS and
BISNP queues and the snoop records. -/
def Att.egress (x : Att) : (Credits × Option Ndr) × (Credits × Option Drs × List (Nat × Drs))
    × (Credits × Option Bisnp × List (Nat × Bisnp) × List (AgentId × Line)) :=
  ((x.ndrC, x.ndrPin), (x.drsC, x.drsPin, x.drsQ), (x.bisnpC, x.bisnpPin, x.bisnpQ, x.snooped))

/-- The egress sides of all attachments. -/
def State.egress (s : State) : AttId → (Credits × Option Ndr) × (Credits × Option Drs × List (Nat × Drs))
    × (Credits × Option Bisnp × List (Nat × Bisnp) × List (AgentId × Line)) := fun k => (s.att k).egress

theorem State.egress_modAtt {f : Att → Att} (h : ∀ x, (f x).egress = x.egress) : (s.modAtt k f).egress = s.egress :=
  funext fun j => by
    rw [State.egress, State.att_modAtt]
    split
    case isTrue hj => rw [h, hj, State.egress]
    case isFalse => rfl

/-- What of a slice the acceptance of a request leaves alone: its directory and its slots. -/
def Slice.flows (x : Slice) : Store (Option Entry) × Store (Option Slot) := (x.dir, x.slots)

/-- An attachment's egress side is as it was, no request has joined those that wait for an entry, and no NDR has left. -/
def Att.leads (x y : Att) : Prop := y.egress = x.egress ∧ y.waitIn ⊆ x.waitIn ∧ x.ndrQ ⊆ y.ndrQ

theorem Att.leads_of {x y : Att} (he : y.egress = x.egress) (hw : y.waitIn = x.waitIn) (hn : y.ndrQ = x.ndrQ) : x.leads y :=
  ⟨he, by rw [hw]; exact List.Subset.refl _, by rw [hn]; exact List.Subset.refl _⟩

theorem Att.leads_trans {x y z : Att} (h : x.leads y) (h' : y.leads z) : x.leads z :=
  ⟨h'.1.trans h.1, List.Subset.trans h'.2.1 h.2.1, List.Subset.trans h.2.2 h'.2.2⟩

/-- The edges have accepted, refused and completed requests from one state to the other, and done nothing else to the attachments' egress
sides or to the slices' flows. -/
def State.edgeTo (s t : State) : Prop := (∀ j, (s.att j).leads (t.att j)) ∧ ∀ i, (t.sl i).flows = (s.sl i).flows

theorem State.edgeTo_of_att (ha : ∀ j, t.att j = s.att j) (hf : ∀ i, (t.sl i).flows = (s.sl i).flows) : s.edgeTo t :=
  ⟨fun j => Att.leads_of (by rw [ha]) (by rw [ha]) (by rw [ha]), hf⟩

theorem State.edgeTo_refl : s.edgeTo s := State.edgeTo_of_att (fun _ => rfl) fun _ => rfl

theorem State.edgeTo_trans {u : State} (h : s.edgeTo t) (h' : t.edgeTo u) : s.edgeTo u :=
  ⟨fun j => Att.leads_trans (h.1 j) (h'.1 j), fun i => (h'.2 i).trans (h.2 i)⟩

theorem State.edgeTo_egress (h : s.edgeTo t) : t.egress = s.egress := funext fun j => (h.1 j).1

theorem State.edgeTo_modAtt {f : Att → Att} (h : (s.att k).leads (f (s.att k))) : s.edgeTo (s.modAtt k f) := by
  refine ⟨fun j => ?_, fun i => by rw [State.modAtt_sl]⟩
  rw [State.att_modAtt]
  split
  case isTrue hj => rw [hj]; exact h
  case isFalse => exact Att.leads_of rfl rfl rfl

theorem State.edgeTo_foldl {α : Type} {f : State → α → State} {l : List α} (hf : ∀ (s : State) x, s.edgeTo (f s x)) :
    s.edgeTo (l.foldl f s) :=
  List.foldlRecOn (motive := fun t => s.edgeTo t) l f State.edgeTo_refl fun t ht x _ => State.edgeTo_trans ht (hf t x)

theorem State.edgeTo_ite {c : Prop} [Decidable c] {u : State} (h : s.edgeTo t) (h' : s.edgeTo u) : s.edgeTo (if c then t else u) := by
  split
  · exact h
  · exact h'

theorem State.edgeTo_giveBack {x y : Nat} : s.edgeTo (s.giveBack k x y) := State.edgeTo_modAtt (Att.leads_of rfl rfl rfl)
theorem State.edgeTo_retReq : s.edgeTo (s.retReq k) := State.edgeTo_giveBack
theorem State.edgeTo_egNdr {m : Ndr} : s.edgeTo (s.egNdr k m) :=
  State.edgeTo_modAtt ⟨rfl, List.Subset.refl _, List.subset_append_left _ _⟩
theorem State.edgeTo_incF {f : Fld} : s.edgeTo (s.incF f) := State.edgeTo_of_att (fun _ => by simp) fun _ => by simp
theorem State.flows_count {i m : Nat} {j : SliceId} : ((s.count i m).sl j).flows = (s.sl j).flows := by simp [Slice.flows]
theorem State.edgeTo_count {i m : Nat} : s.edgeTo (s.count i m) := State.edgeTo_of_att (fun _ => by simp) fun _ => State.flows_count
theorem State.edgeTo_refuse {f : AttId → Fld} : s.edgeTo (s.refuse k f) :=
  State.edgeTo_of_att (fun _ => by simp) fun _ => by simp
theorem State.edgeTo_inject {p p' : Place} {m : Nat} {c : BitVec 107} {l : List (BitVec 128)} : s.edgeTo (s.inject p p' m c l) :=
  State.edgeTo_of_att (fun _ => by simp) fun _ => by simp

theorem State.edgeTo_modSl {i : SliceId} {f : Slice → Slice} (h : ∀ x, (f x).flows = x.flows) : s.edgeTo (s.modSl i f) := by
  refine State.edgeTo_of_att (fun _ => by simp) fun j => ?_
  rw [State.sl_modSl]
  split
  case isTrue hj => rw [h, hj]
  case isFalse => rfl

theorem State.edgeTo_toNew : s.edgeTo (s.toNew r) := by
  refine State.edgeTo_trans State.edgeTo_inject (State.edgeTo_modSl fun x => ?_)
  dsimp only
  split
  · rfl
  · rfl

theorem State.edgeTo_toWb : s.edgeTo (s.toWb r) :=
  State.edgeTo_trans State.edgeTo_inject (State.edgeTo_modSl fun _ => rfl)

theorem State.edgeTo_freeBuf {i : Option (BitVec 5)} : s.edgeTo (s.freeBuf k i) := by
  cases i with
  | none => exact State.edgeTo_refl
  | some i => exact State.edgeTo_trans (State.edgeTo_modAtt (Att.leads_of rfl rfl rfl)) State.edgeTo_giveBack

theorem State.edgeTo_dropReq : s.edgeTo (s.dropReq r) := State.edgeTo_ite State.edgeTo_freeBuf State.edgeTo_retReq

/-- A request is answered in the edge and leaves it. -/
theorem State.edgeTo_answered {m : Ndr} : s.edgeTo ((s.egNdr k m).dropReq r) := State.edgeTo_trans State.edgeTo_egNdr State.edgeTo_dropReq

theorem State.edgeTo_edgeRetry : s.edgeTo (s.edgeRetry r) :=
  State.edgeTo_trans (State.edgeTo_trans State.edgeTo_answered State.edgeTo_incF) State.edgeTo_count

theorem State.edgeTo_freeEntry0 {a : AgentId} {g : BitVec 16} : s.edgeTo (s.freeEntry0 k a g) := by
  unfold State.freeEntry0
  split
  · exact State.edgeTo_refl
  · exact State.edgeTo_modAtt (Att.leads_of rfl rfl rfl)

theorem State.edgeTo_edgeError : s.edgeTo (s.edgeError r) :=
  State.edgeTo_trans (State.edgeTo_trans State.edgeTo_egNdr State.edgeTo_freeEntry0) State.edgeTo_dropReq

theorem State.edgeTo_refused {f : AttId → Fld} : s.edgeTo ((s.refuse k f).edgeError r) :=
  State.edgeTo_trans State.edgeTo_refuse State.edgeTo_edgeError

theorem State.edgeTo_sendSweep {m : PortId} {f : JoinedFence} : s.edgeTo (s.sendSweep m f) := by
  have h : s.agreeOff [.regs, .ports, .mesh] (s.sendSweep m f) := State.agreeOff_of_kept (by decide) State.sendSweep_kept
  exact State.edgeTo_of_att (fun j => by rw [State.att, h .atts (by decide), State.att])
    fun i => by rw [State.sl, h .slices (by decide), State.sl]

theorem State.edgeTo_fenceTake : s.edgeTo (s.fenceTake k n r) :=
  State.edgeTo_trans (State.edgeTo_trans (State.edgeTo_trans (State.edgeTo_modAtt (Att.leads_of rfl rfl rfl))
    (State.edgeTo_foldl fun _ _ => State.edgeTo_sendSweep)) State.edgeTo_retReq) State.edgeTo_count

/-- A window read is sent to the counter hub and waits for its data. -/
theorem State.edgeTo_winRd {p p' : Place} {m : Nat} {c : BitVec 107} {l : List (BitVec 128)} :
    s.edgeTo (((s.inject p p' m c l).modAtt k (fun a => { a with winRd := a.winRd ++ [r] })).retReq k) :=
  State.edgeTo_trans (State.edgeTo_trans State.edgeTo_inject (State.edgeTo_modAtt (Att.leads_of rfl rfl rfl))) State.edgeTo_retReq

/-- A request enters its home slice, without data once its credit has returned. -/
theorem State.edgeTo_enters {c : Prop} [Decidable c] : s.edgeTo ((if c then s else s.retReq k).toNew r) :=
  State.edgeTo_trans (State.edgeTo_ite State.edgeTo_refl State.edgeTo_retReq) State.edgeTo_toNew

theorem State.edgeTo_passIn : s.edgeTo (s.passIn r) := by
  unfold State.passIn
  dsimp only
  split
  case h_1 => exact State.edgeTo_edgeError
  case h_4 => exact State.edgeTo_answered
  all_goals
    refine State.edgeTo_ite (State.edgeTo_ite State.edgeTo_answered (State.edgeTo_ite ?_ State.edgeTo_refused))
      (State.edgeTo_ite (State.edgeTo_ite State.edgeTo_answered (State.edgeTo_ite (State.edgeTo_ite State.edgeTo_winRd
        State.edgeTo_refused) (State.edgeTo_ite State.edgeTo_refused State.edgeTo_refused))) State.edgeTo_enters)
    split
    · exact State.edgeTo_fenceTake
    · exact State.edgeTo_refl

theorem State.edgeTo_enter : s.edgeTo (s.modAtt k (fun a => a.enter r b)) := State.edgeTo_modAtt (Att.leads_of rfl rfl rfl)

theorem State.edgeTo_enterOrder : s.edgeTo (s.enterOrder r) :=
  State.edgeTo_ite (State.edgeTo_trans State.edgeTo_enter State.edgeTo_passIn)
    (State.edgeTo_ite (State.edgeTo_trans State.edgeTo_enter State.edgeTo_count) State.edgeTo_edgeRetry)

theorem State.edgeTo_pullLoop : s.edgeTo (State.pullLoop n k s) := by
  induction n generalizing s with
  | zero => exact State.edgeTo_refl
  | succ n ih =>
    unfold State.pullLoop
    dsimp only
    split
    case h_1 => exact State.edgeTo_refl
    case h_2 q rest hq =>
      have hrest : s.edgeTo (s.modAtt k (fun a => { a with waitIn := rest })) :=
        State.edgeTo_modAtt ⟨rfl, by rw [hq]; exact List.subset_cons_self _ _, List.Subset.refl _⟩
      exact State.edgeTo_ite State.edgeTo_refl (State.edgeTo_trans (State.edgeTo_trans hrest
        (State.edgeTo_ite State.edgeTo_edgeRetry State.edgeTo_enterOrder)) ih)

theorem State.edgeTo_pullWait : s.edgeTo (s.pullWait k) := State.edgeTo_pullLoop

theorem State.egress_pullWait : (s.pullWait k).egress = s.egress := State.edgeTo_egress State.edgeTo_pullWait

/-! ## What a RETRY of a held request does at the edge -/

/-- An attachment's order table and the requests that wait for it, its barriers, and its NDR queue. -/
def Att.table (x : Att) : List OrdEntry × List Req × List Barrier × List (Nat × Ndr) := (x.order, x.waitIn, x.barriers, x.ndrQ)

theorem Att.table_inj {x y : Att} : y.table = x.table ↔
    y.order = x.order ∧ y.waitIn = x.waitIn ∧ y.barriers = x.barriers ∧ y.ndrQ = x.ndrQ := by simp [Att.table]

theorem State.table_giveBack {i : AttId} {m : Nat} : ((s.giveBack i m n).att k).table = (s.att k).table := by
  rw [State.att_giveBack]
  split
  case isTrue h => rw [h]; rfl
  case isFalse => rfl

theorem State.table_dropReq : ((s.dropReq r).att k).table = (s.att k).table := by
  unfold State.dropReq
  split
  case isFalse => exact State.table_giveBack
  case isTrue =>
    cases r.buf with
    | none => rfl
    | some i =>
      refine State.table_giveBack.trans ?_
      rw [State.att_modAtt]
      split
      case isTrue h => rw [h]; rfl
      case isFalse => rfl

theorem State.edgeRetry_agents : (s.edgeRetry r).agents = s.agents := by
  have h : s.agreeOff _ (s.edgeRetry r) := State.agreeOff_of_kept (by decide) State.edgeRetry_kept
  exact h .agents (by decide)

theorem State.backoff_congr {a : AgentId} (h : t.agents = s.agents) : t.backoff a = s.backoff a := by
  have ha : t.agent a = s.agent a := by rw [State.agent, h, State.agent]
  rw [State.backoff, ha, State.backoff]

/-- The table after a request receives RETRY: a RETRY joins the NDR queue. -/
theorem State.table_edgeRetry : ((s.edgeRetry r).att r.la).table = ((s.att r.la).order, (s.att r.la).waitIn, (s.att r.la).barriers,
    (s.att r.la).ndrQ ++ [((s.att r.la).seq, retryNdr r.q (s.backoff r.q.agent))]) := by
  simp only [State.edgeRetry, State.count_att, State.incF_att, State.table_dropReq]
  simp [State.egNdr, Att.table]

/-- Requests of an attachment that receive RETRY one after another: a RETRY of each joins the NDR queue, and nothing else of the table
changes. -/
theorem State.retryAll {l : List OrdEntry} (h : ∀ e ∈ l, e.req.la = k) :
    let x := (l.foldl (fun s e => s.edgeRetry e.req) s).att k
    x.order = (s.att k).order ∧ x.waitIn = (s.att k).waitIn ∧ x.barriers = (s.att k).barriers
    ∧ x.ndrQ.map (·.2) = (s.att k).ndrQ.map (·.2) ++ l.map (fun e => retryNdr e.req.q (s.backoff e.req.q.agent)) := by
  induction l generalizing s with
  | nil => simp
  | cons e l ih =>
    obtain ⟨ho, hw, hb, hn⟩ := ih (s := s.edgeRetry e.req) fun e he => h e (List.mem_cons_of_mem _ he)
    have he : e.req.la = k := h e List.mem_cons_self
    have ht := State.table_edgeRetry (s := s) (r := e.req)
    rw [he] at ht
    obtain ⟨ho', hw', hb', hn'⟩ : _ ∧ _ ∧ _ ∧ _ := by simpa [Att.table] using ht
    refine ⟨ho.trans ho', hw.trans hw', hb.trans hb', hn.trans ?_⟩
    rw [hn']
    simp [State.backoff_congr State.edgeRetry_agents]

theorem State.pullWait_of_none (h : (s.att k).waitIn = []) : s.pullWait k = s := by rw [State.pullWait, h]; rfl

/-! ## RETRY leaves (R193) -/

theorem State.egress_retryLeft {m : Ndr} : (s.retryLeft k m).egress = s.egress := by
  have hs : ∀ (l : List OrdEntry) (s : State), (l.foldl (fun s e => s.edgeRetry e.req) s).egress = s.egress := fun l s =>
    List.foldlRecOn (motive := fun u : State => u.egress = s.egress) l _ rfl fun u hu e _ => (State.edgeTo_egress State.edgeTo_edgeRetry).trans hu
  rw [State.retryLeft]
  dsimp only
  rw [State.egress_pullWait, hs]
  exact State.egress_modAtt fun _ => rfl

/-- After a RETRY has left, where none waits for an entry: a barrier stands on the pair, the RETRYed request and those of its pair that
the gate held are out of the table, and each of the latter receives RETRY. -/
theorem State.retryLeft_table {m : Ndr} (hw : (s.att k).waitIn = []) (hk : ∀ e ∈ (s.att k).order, e.req.la = k) :
    let x := (s.retryLeft k m).att k
    (∃ b ∈ x.barriers, b.agent = m.agent ∧ b.otag = m.otag)
    ∧ x.order = (s.att k).order.filter (fun e => !(decide (e.req.q.agent = m.agent) && decide (e.req.q.otag = m.otag) && (e.gated || decide (e.req.q.tag = m.tag))))
    ∧ x.ndrQ.map (·.2) = (s.att k).ndrQ.map (·.2) ++ ((s.att k).order.filter (fun e =>
        decide (e.req.q.agent = m.agent) && decide (e.req.q.otag = m.otag) && e.gated)).map
        (fun e => retryNdr e.req.q (s.backoff e.req.q.agent)) := by
  unfold State.retryLeft
  dsimp only
  generalize hu : State.modAtt s k _ = u
  obtain ⟨ho, hwi, hb, hn⟩ := State.retryAll (s := u) (k := k) (l := (s.att k).order.filter (fun e =>
        decide (e.req.q.agent = m.agent) && decide (e.req.q.otag = m.otag) && e.gated))
    fun e he => hk e (List.mem_of_mem_filter he)
  have hbk : ∀ a, u.backoff a = s.backoff a := fun a => State.backoff_congr (by rw [← hu, State.modAtt_agents])
  have hwu : (u.att k).waitIn = [] := by rw [← hu, State.att_modAtt_self]; exact hw
  rw [State.pullWait_of_none (hwi.trans hwu)]
  refine ⟨?_, ho.trans (by rw [← hu, State.att_modAtt_self]), hn.trans (by simp only [hbk]; rw [← hu, State.att_modAtt_self])⟩
  rw [show _ = _ from hb, ← hu, State.att_modAtt_self]
  dsimp only
  split
  case isTrue h =>
    obtain ⟨b, hb, hp⟩ := List.any_eq_true.mp h
    refine ⟨_, List.mem_map_of_mem hb, ?_⟩
    split <;> simpa using hp
  case isFalse => exact ⟨_, List.mem_append_right _ (List.mem_singleton.mpr rfl), rfl, rfl⟩

/-! ## The heads of the egress queues (R34, R36, R107, R136) -/

theorem State.partLeft_atts {h : BitVec 16} {a : AgentId} : (s.partLeft h a).atts = s.atts := by
  have h : s.agreeOff _ (s.partLeft h a) := State.agreeOff_of_kept (by decide) State.partLeft_kept
  exact h .atts (by decide)

theorem State.partLeft_agents {h : BitVec 16} {a : AgentId} : (s.partLeft h a).agents = s.agents := by
  have h : s.agreeOff _ (s.partLeft h a) := State.agreeOff_of_kept (by decide) State.partLeft_kept
  exact h .agents (by decide)

/-- The head of the NDR queue stands on the channel, a credit is spent, and what follows from its leaving has been counted. -/
def State.ndrLeft (s : State) (k : AttId) (m : Ndr) (rest : List (Nat × Ndr)) (c : Credits) : State :=
  let s := ((s.setAtt k { s.att k with ndrQ := rest, ndrC := c, ndrPin := some m }).crossing (.att k) 3).count (cLa k 3) 1
  let s := if m.op = .retry then s.count (cLa k 8) 1 else s
  let s := if m.status = .error then s.count (cLa k 9) 1 else s
  if m.parts ≠ 0 then s.partLeft m.htag m.agent else s

theorem State.ndrLeft_att {m : Ndr} {rest : List (Nat × Ndr)} {c : Credits} :
    (s.ndrLeft k m rest c).att k = { s.att k with ndrQ := rest, ndrC := c, ndrPin := some m } := by
  have hp : ∀ (u : State) h a, (u.partLeft h a).att k = u.att k := fun u h a => by rw [State.att, State.partLeft_atts, State.att]
  simp only [State.ndrLeft, apply_ite (fun u : State => u.att k), hp, State.count_att, State.crossing_att, State.att_setAtt_self,
    ite_self]

theorem State.ndrLeft_agents {m : Ndr} {rest : List (Nat × Ndr)} {c : Credits} : (s.ndrLeft k m rest c).agents = s.agents := by
  simp only [State.ndrLeft, apply_ite State.agents, State.partLeft_agents, State.count_agents, State.crossing_agents,
    State.setAtt_agents, ite_self]

theorem State.sendNdr_of_head {m : Ndr} {rest : List (Nat × Ndr)} {c : Credits} (hq : (s.att k).ndrQ = (n, m) :: rest)
    (hc : (s.att k).ndrC.spend = some c) :
    s.sendNdr k = if m.op = .retry then (s.ndrLeft k m rest c).retryLeft k m else s.ndrLeft k m rest c := by
  simp only [State.sendNdr, hq, hc, State.ndrLeft]

/-- The head of the DRS queue stands on the channel. -/
def State.drsLeft (s : State) (k : AttId) (m : Drs) (rest : List (Nat × Drs)) (c : Credits) : State :=
  let s := ((s.setAtt k { s.att k with drsQ := rest, drsC := c, drsPin := some m }).crossing (.att k) 4).count (cLa k 4) 1
  if m.parts ≠ 0 then s.partLeft m.htag m.agent else s

theorem State.drsLeft_att {m : Drs} {rest : List (Nat × Drs)} {c : Credits} :
    (s.drsLeft k m rest c).att k = { s.att k with drsQ := rest, drsC := c, drsPin := some m } := by
  have hp : ∀ (u : State) h a, (u.partLeft h a).att k = u.att k := fun u h a => by rw [State.att, State.partLeft_atts, State.att]
  simp only [State.drsLeft, apply_ite (fun u : State => u.att k), hp, State.count_att, State.crossing_att, State.att_setAtt_self,
    ite_self]

theorem State.sendDrs_of_head {m : Drs} {rest : List (Nat × Drs)} {c : Credits} (hq : (s.att k).drsQ = (n, m) :: rest)
    (hc : (s.att k).drsC.spend = some c) : s.sendDrs k = s.drsLeft k m rest c := by
  simp only [State.sendDrs, hq, hc, State.drsLeft]

/-- The egress side after a BISNP has left: its record is set, and a write that it releases leaves the egress side alone. -/
theorem State.egress_snoopLeft {m : Bisnp} : (s.snoopLeft k m).egress k = ({ s.att k with
    snooped := if (m.agent, m.laddr) ∈ (s.att k).snooped then (s.att k).snooped else (s.att k).snooped ++ [(m.agent, m.laddr)]
    } : Att).egress := by
  have hs : ∀ (g : Req → Att → Store (Option WBuf)) (l : List Req) (s : State),
      (l.foldl (fun s r => (s.modAtt k (fun x => { x with bufs := g r x })).toWb r) s).egress = s.egress := fun g l s =>
    List.foldlRecOn (motive := fun u : State => u.egress = s.egress) l _ rfl fun u hu r _ =>
      (State.edgeTo_egress (State.edgeTo_trans (State.edgeTo_modAtt (Att.leads_of rfl rfl rfl)) State.edgeTo_toWb)).trans hu
  unfold State.snoopLeft
  dsimp only
  simp only [apply_ite State.egress, State.egress_pullWait, ite_self]
  refine (congrFun (hs _ _ _) k).trans ?_
  rw [State.egress, State.att_modAtt_self]
  rfl

/-- The head of the BISNP queue stands on the channel. -/
def State.bisnpLeft (s : State) (k : AttId) (m : Bisnp) (rest : List (Nat × Bisnp)) (c : Credits) : State :=
  ((s.setAtt k { s.att k with bisnpQ := rest, bisnpC := c, bisnpPin := some m }).crossing (.att k) 5).count (cLa k 5) 1

theorem State.bisnpLeft_att {m : Bisnp} {rest : List (Nat × Bisnp)} {c : Credits} :
    (s.bisnpLeft k m rest c).att k = { s.att k with bisnpQ := rest, bisnpC := c, bisnpPin := some m } := by
  simp [State.bisnpLeft]

theorem State.sendBisnp_of_head {m : Bisnp} {rest : List (Nat × Bisnp)} {c : Credits} (hq : (s.att k).bisnpQ = (n, m) :: rest)
    (hd : ∀ d ∈ (s.att k).drsQ, d.2.agent = m.agent → n ≤ d.1) (hc : (s.att k).bisnpC.spend = some c) :
    s.sendBisnp k = (s.bisnpLeft k m rest c).snoopLeft k m := by
  have hn : ¬(s.att k).drsQ.any (fun d => decide (d.2.agent = m.agent) && decide (d.1 < n)) = true := by
    simpa using hd
  simp only [State.sendBisnp, hq, if_neg hn, hc, State.bisnpLeft]

/-- A snoop waits while data for its agent that entered before it waits (R136). -/
theorem State.sendBisnp_of_drs {m : Bisnp} {rest : List (Nat × Bisnp)} (hq : (s.att k).bisnpQ = (n, m) :: rest)
    (hd : ∃ d ∈ (s.att k).drsQ, d.2.agent = m.agent ∧ d.1 < n) : s.sendBisnp k = s := by
  have hn : (s.att k).drsQ.any (fun d => decide (d.2.agent = m.agent) && decide (d.1 < n)) = true := by simpa using hd
  simp only [State.sendBisnp, hq, if_pos hn]

end Egress

/-- Settles O13. The head of a queue stands on the channel with its credit spent; what follows from a RETRY's or a BISNP's leaving
touches the order table, and the egress side stays. -/
theorem egressSendsTheHead : Obligations.EgressSendsTheHead := by
  unfold Obligations.EgressSendsTheHead
  refine ⟨?_, ?_, ?_, ?_⟩
  · intro k n m rest c s hq hc
    have he : (s.sendNdr k).egress k = (s.ndrLeft k m rest c).egress k := by
      rw [State.sendNdr_of_head hq hc]
      split
      · rw [State.egress_retryLeft]
      · rfl
    obtain ⟨⟨hC, hP⟩, -⟩ : (_ ∧ _) ∧ _ := by simpa [State.egress, State.ndrLeft_att, Att.egress] using he
    refine ⟨s.sendNdr k, rfl, hP, hC, fun hr => ?_, fun hr hw hk => ?_⟩
    · rw [State.sendNdr_of_head hq hc, if_neg hr, State.ndrLeft_att]
    · have ht := State.retryLeft_table (s := s.ndrLeft k m rest c) (k := k) (m := m)
      simp only [State.ndrLeft_att] at ht
      obtain ⟨hb, ho, hn⟩ := ht hw hk
      rw [State.sendNdr_of_head hq hc, if_pos hr]
      refine ⟨hb, ho, hn.trans ?_⟩
      simp only [State.backoff_congr State.ndrLeft_agents]
  · intro k n m rest c s hq hc
    refine ⟨s.sendDrs k, rfl, ?_⟩
    simp [State.sendDrs_of_head hq hc, State.drsLeft_att]
  · intro k n m rest c s hq hc hd
    have he := State.egress_snoopLeft (s := s.bisnpLeft k m rest c) (k := k) (m := m)
    rw [← State.sendBisnp_of_head hq hd hc, State.bisnpLeft_att] at he
    obtain ⟨-, -, hC, hP, hQ, hS⟩ : _ ∧ _ ∧ _ ∧ _ ∧ _ ∧ _ := by simpa [State.egress, Att.egress] using he
    refine ⟨s.sendBisnp k, rfl, hP, hC, hQ, ?_⟩
    rw [hS]
    split
    case isTrue h => exact h
    case isFalse => simp
  · intro k n m rest s hq hd
    exact congrArg Host.Outcome.next (State.sendBisnp_of_drs hq hd)

end Sys2Proof.Machine

/-! SUPPORT. The gate, the barriers and the limit of an EGRESS_ACK. -/

namespace Sys2Proof.Machine

section Gate

variable {s : State} {la k : AttId} {i : SliceId} {a : AgentId} {g : BitVec 16} {o : List OrdEntry} {e : OrdEntry} {n t0 : Nat}
  {x : Slot} {r : Req}

/-- The changed entry of an agent's tag is found in place of the one before, where the change keeps its request. -/
theorem findEntry_modEntry {f : OrdEntry → OrdEntry} (hf : ∀ e, (f e).req = e.req) :
    findEntry (modEntry f o a g) a g = (findEntry o a g).map f := by
  induction o with
  | nil => rfl
  | cons e o ih =>
    by_cases h : e.req.q.agent = a ∧ e.req.q.tag = g
    · simp [modEntry, findEntry, hf, h]
    · have hd : (decide (e.req.q.agent = a) && decide (e.req.q.tag = g)) = false := by simpa using h
      rw [modEntry, if_neg h, findEntry, List.find?_cons, hd, findEntry, List.find?_cons, hd]
      exact ih

/-- The gate lets a held request go: its entry is no longer gated. -/
def State.letGo (s : State) (la : AttId) (a : AgentId) (g : BitVec 16) : State :=
  s.modAtt la (fun x => { x with order := modEntry (fun e => { e with gated := false }) x.order a g })

theorem State.letGo_waitIn : ((s.letGo la a g).att la).waitIn = (s.att la).waitIn := by rw [State.letGo, State.att_modAtt_self]

theorem State.letGo_findEntry : findEntry ((s.letGo la a g).att la).order a g
    = (findEntry (s.att la).order a g).map (fun e => { e with gated := false }) := by
  rw [State.letGo, State.att_modAtt_self]
  exact findEntry_modEntry (f := fun e => { e with gated := false }) fun _ => rfl

/-- A request that passes into the block leaves the order tables as they are. -/
theorem State.table_passIn (hm : s.mode = .serve ∨ s.mode = .shed) (hf : r.op ≠ .fence) (hw : s.inWindow r.q.laddr = false) :
    ((s.passIn r).att k).table = (s.att k).table := by
  rw [State.passIn_toNew hm hf hw, State.toNew_att]
  split
  · rfl
  · exact State.table_giveBack

theorem execGateRelease_passes (he : findEntry (s.att la).order a g = some e) (hg : e.gated = true)
    (hp : s.canPass (beforeEntry (s.att la).order a g) e.req = true) :
    execGateRelease la a g s = .next (((s.letGo la a g).passIn e.req).pullWait la) := by
  simp only [execGateRelease, he, if_pos (And.intro hg hp), State.letGo]

/-- The limit of an EGRESS_ACK has come for a slot: it is marked late (R49). -/
def State.markLate (s : State) (i : SliceId) (n t0 : Nat) : State :=
  (s.reach (t0 + 64000)).modSlot i n (fun y => { y with late := true })

theorem execEgressAckLate_late {slot : BitVec 10} (hx : (s.sl i).slot slot.toNat = some x) (ht : x.eackAt = some t0)
    (hr : x.req = some r) (he : x.eack = true) (hl : x.late = false) (hm : s.runs = true)
    (hq : ∀ m ∈ (s.sl i).rsp, ∀ a, m ≠ .eack a (htagOf i slot.toNat)) :
    execEgressAckLate i slot s
      = .next ((((s.markLate i slot.toNat t0).incF (Fld.la r.la 0x108 0 16)).fire (evLa r.la 0)).count (cLa r.la 11) 1) := by
  simp only [execEgressAckLate, hx, ht, hr]
  refine if_pos ⟨he, hl, hm, ?_⟩
  rw [Bool.not_eq_true', List.any_eq_false]
  intro m hm'
  cases m with
  | eack a h => simpa using fun e => hq _ hm' a (by rw [e])
  | conflict | birsp => simp

theorem State.plinth_now_reach : (s.reach n).plinth.now = max s.plinth.now n := by
  unfold State.reach
  split
  · exact (Nat.max_eq_right (by omega : s.plinth.now ≤ n)).symm
  · exact (Nat.max_eq_left (by omega : n ≤ s.plinth.now)).symm

theorem Fld.la_fits {m lo len : Nat} (h : lo + len ≤ 32 := by decide) : (Fld.la k m lo len).lo + (Fld.la k m lo len).len ≤ 32 := h

theorem State.slot_modSlot {f : Slot → Slot} : ((s.modSlot i n f).sl i).slot n = ((s.sl i).slot n).map f := by
  simp [State.modSlot, Slice.putSlot, Slice.slot]

end Gate

/-- Settles O14. The head of the gate goes on as a request that passes at once does; the two timers move the timebase to their end. -/
theorem gatesBarriersAndLateAcks : Obligations.GatesBarriersAndLateAcks := by
  unfold Obligations.GatesBarriersAndLateAcks
  refine ⟨?_, ?_, ?_⟩
  · intro la a g e s he hg hp hm hf hw hq
    have hpass : (s.letGo la a g).passIn e.req
        = (if e.req.op.rwd then s.letGo la a g else (s.letGo la a g).retReq e.req.la).toNew e.req :=
      State.passIn_toNew (by simpa [State.letGo] using hm) hf (by simpa [State.letGo] using hw)
    obtain ⟨hord, hwait, -⟩ := Att.table_inj.mp (State.table_passIn (k := la) (by simpa [State.letGo] using hm) hf
      (by simpa [State.letGo] using hw) : (((s.letGo la a g).passIn e.req).att la).table = ((s.letGo la a g).att la).table)
    refine ⟨_, execGateRelease_passes he hg hp, ?_, ?_⟩
    · rw [State.pullWait_of_none (hwait.trans (State.letGo_waitIn.trans hq)), hpass,
        State.toNew_new (i := s.homeAt e.req.la (bucketOf e.req.q.laddr))]
      · split <;> simp [State.letGo, State.retReq]
      · split <;> simp [State.homeAt, State.letGo, State.retReq]
    · rw [State.pullWait_of_none (hwait.trans (State.letGo_waitIn.trans hq)), hord, State.letGo_findEntry, he]
      rfl
  · intro la a o b s hb
    have hx : exec (.barrierExpiry la a o) s = .next ((((s.reach (b.setAt + 100000)).modAtt la (fun x => { x with
        barriers := x.barriers.filter (fun b => !(decide (b.agent = a) && decide (b.otag = o))) })).incF
          (Fld.la la 0x124 16 16)).fire (evLa la 2)) := by
      change execBarrierExpiry la a o s = _
      simp only [execBarrierExpiry, hb]
    refine ⟨_, hx, fun b' hb' => ?_, ?_, ?_, fun k hk => ?_, by simp, by simp⟩
    · simp only [State.fire_att, State.incF_att, State.att_modAtt_self, List.mem_filter] at hb'
      exact fun ⟨h1, h2⟩ => by simp [h1, h2] at hb'
    · simp [State.plinth_now_reach]
    · rw [State.fire_fld, State.fld_incF Fld.la_fits]
      simp [Fld.la]
    · simp [State.att_modAtt, hk]
  · intro i slot x r t0 s hx ht hr he hl hm hq
    refine ⟨_, execEgressAckLate_late hx ht hr he hl hm hq, ?_, ?_, ?_, ?_, ?_⟩
    · simp [State.markLate, State.slot_modSlot, hx]
    · rw [State.count_fld, State.fire_fld, State.fld_incF Fld.la_fits]
      simp [State.markLate, State.modSlot, Fld.la]
    · simp [State.markLate, State.modSlot, State.plinth_now_reach]
    · simp [State.markLate, State.modSlot]
    · simp [State.markLate, State.modSlot]

end Sys2Proof.Machine

/-! SUPPORT. The clear commands: fields set to 0, and nothing else. -/

namespace Sys2Proof.Machine

section Clears

variable {s : State} {f g : Fld} {fs : List Fld} {k : AttId} {a n : Nat}

/-- A list of fields that fit in their words and have no bit in common. -/
def fieldsApart (fs : List Fld) : Prop := (∀ f ∈ fs, f.lo + f.len ≤ 32) ∧ fs.Pairwise Fld.apart

/-- Fields of one list differ in their words, or by their bits. -/
theorem fieldsApart_cons : fieldsApart (f :: fs) ↔ f.lo + f.len ≤ 32 ∧ (∀ g ∈ fs, f.apart g) ∧ fieldsApart fs := by
  simp only [fieldsApart, List.forall_mem_cons, List.pairwise_cons]
  tauto

theorem State.zero_cons : s.zero (f :: fs) = (s.putF f 0).zero fs := rfl

/-- A field apart from all that are cleared keeps its value. -/
theorem State.fld_zero_apart (hf : fieldsApart fs) (hg : ∀ f ∈ fs, f.apart g) : (s.zero fs).fld g = s.fld g := by
  induction fs generalizing s with
  | nil => rfl
  | cons f fs ih =>
    obtain ⟨hfit, -, hrest⟩ := fieldsApart_cons.mp hf
    rw [State.zero_cons, ih hrest fun f h => hg f (List.mem_cons_of_mem _ h), State.fld_putF_apart hfit (hg f (by simp))]

theorem Fld.apart_comm : f.apart g ↔ g.apart f := by
  unfold Fld.apart
  rw [ne_comm, Or.comm (a := f.lo + f.len ≤ g.lo)]

/-- Each cleared field reads 0. -/
theorem State.fld_zero (hf : fieldsApart fs) (hm : g ∈ fs) : (s.zero fs).fld g = 0 := by
  induction fs generalizing s with
  | nil => cases hm
  | cons f fs ih =>
    obtain ⟨hfit, hap, hrest⟩ := fieldsApart_cons.mp hf
    rcases List.mem_cons.mp hm with rfl | hm
    · rw [State.zero_cons, State.fld_zero_apart hrest fun f h => Fld.apart_comm.mp (hap f h), State.fld_putF hfit]
      exact Nat.zero_mod _
    · rw [State.zero_cons, ih hrest hm]

/-- Clearing fields touches the registers alone. -/
theorem State.zero_eq : s.zero fs = { s with regs := (s.zero fs).regs } := by
  induction fs generalizing s with
  | nil => rfl
  | cons f fs ih => exact ih

/-- What a clear command does to its fields. -/
def State.clears (s : State) (fs : List Fld) (t : State) : Prop :=
  t = { s with regs := t.regs } ∧ (∀ f ∈ fs, t.fld f = 0) ∧ ∀ g, (∀ f ∈ fs, f.apart g) → t.fld g = s.fld g

theorem State.clears_zero (hf : fieldsApart fs) : s.clears fs (s.zero fs) :=
  ⟨State.zero_eq, fun _ h => State.fld_zero hf h, fun _ h => State.fld_zero_apart hf h⟩

/-! ## LA_REFUSE_CLR: one word, four counts -/

/-- A word set to 0 reads 0 in each of its fields. -/
theorem State.fld_putF_word (h : g.addr = a) : (s.putF ⟨a, 0, 32⟩ 0).fld g = 0 := by
  have hw : putBits (s.reg a) 0 32 0 = 0 := BitVec.eq_of_toNat_eq (by 
    rw [putBits_toNat (by decide)]
    simp [Nat.div_eq_of_lt (s.reg a).isLt, Nat.mod_one])
  simp [State.fld, State.putF, h, hw, bits]

theorem bits_of_ge {w : Word32} {lo len : Nat} (h : 32 ≤ lo ∨ len = 0) : bits w lo len = 0 := by
  rcases h with h | h
  · have hw : w.toNat < 2 ^ lo := w.isLt.trans_le (Nat.pow_le_pow_right (by decide) h)
    simp [bits, Nat.div_eq_of_lt hw]
  · simp [bits, h, Nat.mod_one]

/-- A field of the refusal word apart from its four counts holds no bit. -/
theorem refusal_bits_covered (hg : ∀ f ∈ [Fld.notActive k, Fld.perm k, Fld.spoof k, Fld.format k], f.apart g)
    (ha : g.addr = (Fld.notActive k).addr) : 32 ≤ g.lo ∨ g.len = 0 := by
  simp only [List.forall_mem_cons] at hg
  obtain ⟨h1, h2, h3, h4, -⟩ := hg
  have hb : ∀ lo, Fld.apart (Fld.la k 0x100 lo 8) g → lo + 8 ≤ g.lo ∨ g.lo + g.len ≤ lo := fun lo h =>
    h.resolve_left fun e => e ha.symm
  have h1 := hb 0 h1
  have h2 := hb 8 h2
  have h3 := hb 16 h3
  have h4 := hb 24 h4
  omega

theorem State.clears_refuse :
    s.clears [Fld.notActive k, Fld.perm k, Fld.spoof k, Fld.format k] (s.clearRefuse k) := by
  have hw : s.clearRefuse k = s.putF ⟨(Fld.notActive k).addr, 0, 32⟩ 0 := rfl
  refine ⟨rfl, fun f hf => ?_, fun g hg => ?_⟩
  · rw [hw]
    simp only [List.mem_cons, List.not_mem_nil, or_false] at hf
    rcases hf with rfl | rfl | rfl | rfl
    · exact State.fld_putF_word rfl
    · exact State.fld_putF_word rfl
    · exact State.fld_putF_word rfl
    · exact State.fld_putF_word rfl
  · rw [hw]
    by_cases ha : g.addr = (Fld.notActive k).addr
    · rw [State.fld_putF_word ha, State.fld, bits_of_ge (refusal_bits_covered hg ha)]
    · rw [State.fld, State.reg_putF_ne (f := ⟨(Fld.notActive k).addr, 0, 32⟩) ha, State.fld]

/-! ## The commands where their unit takes them -/

theorem State.regG_up {h : State → State} (hu : s.unitUp .service = true) : s.regG h = h s := by
  rw [State.regG, if_pos (by simpa [State.unitUp] using hu)]

theorem State.regSl_up {i : SliceId} {h : State → State} (hu : s.unitUp (.slice i) = true) : s.regSl i h = h s := by
  rw [State.regSl, if_pos (by simpa [State.unitUp] using hu)]

theorem State.regLa_up {h : State → State} (hu : s.unitUp (.att k) = true) : s.regLa k h = h s := by
  obtain ⟨hf, hg⟩ : s.fwUp = true ∧ s.attShut k = false := by simpa [State.unitUp] using hu
  simp [State.regLa, hf, hg]

theorem State.regMp_up {m : PortId} {h : State → State} (hu : s.unitUp (.port m) = true) : s.regMp m h = h s := by
  obtain ⟨hf, hg⟩ : s.fwUp = true ∧ s.mpShut m = false := by simpa [State.unitUp] using hu
  simp [State.regMp, hf, hg]

/-- Q_CLR of a queue of any unit. -/
theorem execQClear_up {u : QUnit} (hu : s.unitUp u = true) : execQClear u s = .next (s.clearQueue u) := by
  cases u with
  | slice i => exact congrArg Host.Outcome.next (State.regSl_up hu)
  | att k => exact congrArg Host.Outcome.next (State.regLa_up hu)
  | port m => exact congrArg Host.Outcome.next (State.regMp_up hu)
  | _ => exact congrArg Host.Outcome.next (State.regG_up (by simpa [State.unitUp] using hu))

/-- Each clear command clears its fields, where their unit takes it. -/
theorem exec_clearedBy {c : Instr} {u : QUnit} (hc : clearedBy c = some (u, fs)) (hu : s.unitUp u = true) :
    ∃ t, exec c s = .next t ∧ s.clears fs t := by
  unfold clearedBy at hc
  split at hc
  case h_16 => cases hc
  all_goals
    obtain ⟨rfl, rfl⟩ := Prod.mk.inj (Option.some.inj hc)
  case h_1 k => exact ⟨_, congrArg Host.Outcome.next (State.regLa_up hu), State.clears_refuse⟩
  case h_2 k => exact ⟨_, congrArg Host.Outcome.next (State.regLa_up hu), State.clears_zero (by simp [fieldsApart, Fld.apart, Fld.la])⟩
  case h_3 i => exact ⟨_, congrArg Host.Outcome.next (State.regSl_up hu), State.clears_zero (by simp [fieldsApart, Fld.sl])⟩
  case h_4 i => exact ⟨_, congrArg Host.Outcome.next (State.regSl_up hu), State.clears_zero (by simp [fieldsApart, Fld.apart, Fld.sl])⟩
  case h_5 i => exact ⟨_, congrArg Host.Outcome.next (State.regSl_up hu), State.clears_zero (by simp [fieldsApart, Fld.apart, Fld.sl])⟩
  case h_6 i => exact ⟨_, congrArg Host.Outcome.next (State.regSl_up hu), State.clears_zero (by simp [fieldsApart, Fld.apart, Fld.sl])⟩
  case h_7 m => exact ⟨_, congrArg Host.Outcome.next (State.regMp_up hu), State.clears_zero (by simp [fieldsApart, Fld.apart, Fld.mp])⟩
  case h_8 m => exact ⟨_, congrArg Host.Outcome.next (State.regMp_up hu), State.clears_zero (by simp [fieldsApart, Fld.apart, Fld.mp])⟩
  case h_9 => exact ⟨_, congrArg Host.Outcome.next (State.regG_up hu), State.clears_zero (by simp [fieldsApart, Fld.rt])⟩
  case h_10 => exact ⟨_, execQClear_up hu, State.clears_zero (by simp [fieldsApart, Fld.apart])⟩
  case h_11 => exact ⟨_, congrArg Host.Outcome.next (State.regG_up hu), State.clears_zero (by simp [fieldsApart, Fld.apart])⟩
  case h_12 => exact ⟨_, congrArg Host.Outcome.next (State.regG_up hu), State.clears_zero (by simp [fieldsApart])⟩
  case h_13 => exact ⟨_, congrArg Host.Outcome.next (State.regG_up hu), State.clears_zero (by simp [fieldsApart, Fld.apart])⟩
  case h_14 => exact ⟨_, congrArg Host.Outcome.next (State.regG_up hu), State.clears_zero (by simp [fieldsApart, Fld.apart])⟩
  case h_15 => exact ⟨_, congrArg Host.Outcome.next (State.regG_up hu), State.clears_zero (by simp [fieldsApart, Fld.apart])⟩

/-- A gate that is open takes firmware's commands once the block has left BOOT. -/
theorem State.unitUp_att (hf : s.fwUp = true) (hg : (s.att k).gate = .opened) : s.unitUp (.att k) = true := by
  simp [State.unitUp, hf, State.attShut, hg]

/-- The refusal counts fit in their word. -/
theorem refusal_fits {h : AttId → Fld} (hm : h ∈ [Fld.notActive, Fld.perm, Fld.spoof, Fld.format]) :
    h k ∈ [Fld.notActive k, Fld.perm k, Fld.spoof k, Fld.format k] ∧ (h k).len = 8 ∧ (h k).lo + (h k).len ≤ 32 := by
  simp only [List.mem_cons, List.not_mem_nil, or_false] at hm
  rcases hm with rfl | rfl | rfl | rfl
  · exact ⟨by simp, rfl, by decide +revert⟩
  · exact ⟨by simp, rfl, by decide +revert⟩
  · exact ⟨by simp, rfl, by decide +revert⟩
  · exact ⟨by simp, rfl, by decide +revert⟩

end Clears

/-- Settles O19. Every clear command sets a list of fields to 0; that of the refusals sets their one word. -/
theorem clearCommandsClearTheirFields : Obligations.ClearCommandsClearTheirFields := by
  unfold Obligations.ClearCommandsClearTheirFields
  refine ⟨fun c u fs s hc hu => exec_clearedBy hc hu, fun i s hf => ?_⟩
  have hx : exec (.rtrProbeClear i) s = .next (s.clearRtrProbe i.val) := congrArg Host.Outcome.next (if_pos hf)
  refine ⟨_, hx, State.router_setRouter_self, fun j hj => ?_, rfl⟩
  rw [State.clearRtrProbe, State.router_setRouter, if_neg hj]

/-- Settles O20. The count is raised from the 0 that the clear left; a field apart from it stays at that 0. -/
theorem aRefusalAfterAClearReadsAsOne : Obligations.ARefusalAfterAClearReadsAsOne := by
  unfold Obligations.ARefusalAfterAClearReadsAsOne
  intro k s t f hf hup hgate ht
  have hc : (exec (.laRefuseClear k) s) = .next (s.clearRefuse k) :=
    congrArg Host.Outcome.next (State.regLa_up (State.unitUp_att hup hgate))
  obtain rfl : s.clearRefuse k = t := Host.Outcome.next.inj (hc.symm.trans ht)
  obtain ⟨-, hzero, -⟩ := State.clears_refuse (s := s) (k := k)
  obtain ⟨hmem, hlen, hfit⟩ := refusal_fits (k := k) hf
  refine ⟨?_, fun g hg hap => ?_⟩
  · rw [State.fld_refuse_self hfit, hzero _ hmem, hlen]
    rfl
  · rw [State.fld_refuse_apart hfit hap, hzero _ (refusal_fits hg).1]

end Sys2Proof.Machine

/-! SUPPORT. The agent table: JOIN's probes, LEAVE, departure, RELEASE and the permission bits. -/

namespace Sys2Proof.Machine

section Agents

variable {s : State} {a b : AgentId} {k : AttId} {i : SliceId} {h : BitVec 16} {m : Nat}

theorem State.agent_modAgent_self {g : Agent → Agent} (ha : a ≠ 0xFFF) : (s.modAgent a g).agent a = g (s.agent a) := by
  rw [State.agent_modAgent, if_pos ⟨rfl, ha⟩]

theorem State.agent_modAgent_ne {g : Agent → Agent} (hb : b ≠ a) : (s.modAgent a g).agent b = s.agent b := by
  rw [State.agent_modAgent, if_neg fun e => hb e.1]

theorem State.takesCmd_ne (ht : s.takesCmd a = true) : a ≠ 0xFFF := by
  obtain ⟨-, ha⟩ := Bool.and_eq_true_iff.mp ht
  simpa using ha

/-! ## The join probes (R55, R268) -/

/-- A join probe of an agent under a home tag. -/
def State.joinProbe (s : State) (a : AgentId) (h : BitVec 16) : Bisnp :=
  { op := .cur, agent := a, htag := h, laddr := BitVec.ofNat 40 s.castLine0 }

/-- One join probe is sent. -/
def State.sendProbe (s : State) (a : AgentId) (h : BitVec 16) : State := s.sendProbes a [h]

theorem State.sendProbe_eq : s.sendProbe a h
    = if s.attShut (s.agent a).la then s.bounceAt (s.agent a).la (.snoop (s.agent a).la (s.joinProbe a h))
      else s.routeBisnp (s.home (BitVec.ofNat 40 s.castLine0)) (s.agent a).la (s.joinProbe a h) := rfl

theorem State.sendProbes_succ {g : Nat → BitVec 16} :
    s.sendProbes a ((List.range (m + 1)).map g) = (s.sendProbes a ((List.range m).map g)).sendProbe a (g m) := by
  rw [List.range_succ, List.map_append, State.sendProbes, List.foldl_append]
  rfl

/-- What no join probe touches: the agents, the slices and the ports. -/
theorem State.sendProbes_frame {l : List (BitVec 16)} :
    (s.sendProbes a l).agents = s.agents ∧ (s.sendProbes a l).slices = s.slices ∧ (s.sendProbes a l).ports = s.ports := by
  refine List.foldlRecOn (motive := fun t : State => t.agents = s.agents ∧ t.slices = s.slices ∧ t.ports = s.ports) l _
    ⟨rfl, rfl, rfl⟩ fun t ht h _ => ?_
  obtain ⟨h1, h2, h3⟩ := ht
  dsimp only [State.routeBisnp]
  split
  · exact ⟨h1, h2, h3⟩
  · split
    · exact ⟨h1, h2, h3⟩
    · exact ⟨h1, h2, h3⟩

/-- What the next join probe reads: its attachment, the first line of the region, and whether the gate takes it. -/
def State.probeView (s : State) (a : AgentId) : AttId × Nat × Bool × Bool :=
  ((s.agent a).la, s.castLine0, s.attShut (s.agent a).la, s.attBounces (s.agent a).la)

/-- A probe through an open gate takes its place in the egress queue. -/
theorem State.sendProbe_opened (hs : s.attShut (s.agent a).la = false) (hb : s.attBounces (s.agent a).la = false) :
    s.sendProbe a h = (s.inject (.slice (s.home (BitVec.ofNat 40 s.castLine0))) (.att (s.agent a).la) 0x10
      (headerBody (s.joinProbe a h).header) []).egBisnp (s.agent a).la (s.joinProbe a h) := by
  rw [State.sendProbe_eq, hs, if_neg Bool.false_ne_true, State.routeBisnp, State.inject_attBounces, hb]
  rfl

theorem State.probeView_sendProbe_opened (hs : s.attShut (s.agent a).la = false) (hb : s.attBounces (s.agent a).la = false) :
    (s.sendProbe a h).probeView a = s.probeView a := by
  rw [State.sendProbe_opened hs hb, State.probeView, State.probeView]
  simp [State.castLine0, State.castBase, State.castSize, State.attShut, State.egBisnp]

theorem State.probeView_inj {t : State} (hv : t.probeView a = s.probeView a) : (t.agent a).la = (s.agent a).la
    ∧ t.castLine0 = s.castLine0 ∧ t.attShut (t.agent a).la = s.attShut (s.agent a).la
    ∧ t.attBounces (t.agent a).la = s.attBounces (s.agent a).la := by
  simpa [State.probeView] using hv

/-- The probes sent through an open gate stand in the egress queue in their order (R55). -/
theorem State.sendProbes_opened {g : Nat → BitVec 16} (hs : s.attShut (s.agent a).la = false)
    (hb : s.attBounces (s.agent a).la = false) :
    let t := s.sendProbes a ((List.range m).map g)
    t.probeView a = s.probeView a ∧ (t.att (s.agent a).la).seq = (s.att (s.agent a).la).seq + m
    ∧ (t.att (s.agent a).la).bisnpQ = (s.att (s.agent a).la).bisnpQ ++ (List.range m).map (fun n =>
        ((s.att (s.agent a).la).seq + n, s.joinProbe a (g n))) := by
  induction m with
  | zero => exact ⟨rfl, rfl, (List.append_nil _).symm⟩
  | succ m ih =>
    obtain ⟨hv, hseq, hq⟩ := ih
    obtain ⟨hla, hline, hshut, hbounce⟩ := State.probeView_inj hv
    refine ⟨?_, ?_, ?_⟩
    · rw [State.sendProbes_succ, State.probeView_sendProbe_opened (hshut.trans hs) (hbounce.trans hb), hv]
    · rw [State.sendProbes_succ, State.sendProbe_opened (hshut.trans hs) (hbounce.trans hb), hla]
      simp [State.egBisnp, hseq, Nat.add_assoc]
    · rw [State.sendProbes_succ, State.sendProbe_opened (hshut.trans hs) (hbounce.trans hb), hla]
      simp [State.egBisnp, hseq, hq, List.range_succ, State.joinProbe, hline]

theorem Fld.la_apart {m lo len : Nat} {g : Fld} (hg : g.addr < 0xD00000 := by decide) : (Fld.la k m lo len).apart g :=
  Or.inl (by simp only [Fld.la]; omega)

theorem State.bounceAt_castLine0 {b : Bounced} : (s.bounceAt k b).castLine0 = s.castLine0 := by
  have hf : ∀ g : Fld, g.addr < 0xD00000 → (s.bounceAt k b).fld g = s.fld g := fun g hg =>
    State.fld_incF_apart Fld.la_fits (Fld.la_apart hg)
  rw [State.castLine0, State.castBase, State.castSize, hf _ (by decide), hf _ (by decide), State.castLine0, State.castBase,
    State.castSize]

/-- Probes at a gate that is not OPEN come back, in their order (R268). -/
theorem State.sendProbes_shut {g : Nat → BitVec 16} (hs : s.attShut (s.agent a).la = true) :
    let t := s.sendProbes a ((List.range m).map g)
    t.agents = s.agents ∧ t.atts = s.atts ∧ t.castLine0 = s.castLine0
    ∧ t.mesh.bounced = s.mesh.bounced ++ (List.range m).map (fun n => .snoop (s.agent a).la (s.joinProbe a (g n))) := by
  induction m with
  | zero => exact ⟨rfl, rfl, rfl, (List.append_nil _).symm⟩
  | succ m ih =>
    obtain ⟨hag, hat, hline, hq⟩ := ih
    have hla : (s.sendProbes a ((List.range m).map g)).agent a = s.agent a := by rw [State.agent, hag, State.agent]
    rw [State.sendProbes_succ, State.sendProbe_eq, hla, State.attShut_of hat, hs, if_pos rfl]
    refine ⟨hag, hat, State.bounceAt_castLine0.trans hline, ?_⟩
    rw [List.range_succ, List.map_append, ← List.append_assoc, ← hq]
    simp [State.bounceAt, State.joinProbe, hline]

/-! ## JOIN (R55, R56) -/

/-- An agent's entry as a JOIN begins. -/
def State.joinEntry (s : State) (a : AgentId) (x : Agent) : Agent :=
  { x with
    st := .joining, result := 0, tocnt := 0, held := 0, snpTo := 0,
    join := some { start := s.now, longest := 0, stamps := (List.range 8).map (fun n => (Config.probeHtag a (s.freeCtr + n), s.now)) } }

/-- The state in which JOIN sends its probes. -/
def State.joining (s : State) (a : AgentId) : State :=
  { s.modAgent a (s.joinEntry a) with freeCtr := s.freeCtr + 8 }

theorem State.join_of_absent (hst : (s.agent a).st = .absent) :
    s.join a = (s.joining a).sendProbes a ((List.range 8).map (fun n => Config.probeHtag a (s.freeCtr + n))) := by
  have hf : ∀ g : Agent → Agent, (s.modAgent a g).freeCtr = s.freeCtr := fun g => by unfold State.modAgent State.setAgent; split <;> rfl
  simp only [State.join, hst, List.map_map, hf, Function.comp_def]
  rfl

theorem State.joining_agent : (s.joining a).agent b = (s.modAgent a (s.joinEntry a)).agent b := rfl

theorem State.joining_la : ((s.joining a).agent a).la = (s.agent a).la := by
  rw [State.joining_agent, State.agent_modAgent]
  split <;> rfl

theorem State.joining_atts : (s.joining a).atts = s.atts := State.modAgent_atts
theorem State.joining_slices : (s.joining a).slices = s.slices := State.modAgent_slices
theorem State.joining_ports : (s.joining a).ports = s.ports := State.modAgent_ports
theorem State.joining_mesh : (s.joining a).mesh = s.mesh := State.modAgent_mesh

theorem State.joining_router {j : Nat} : (s.joining a).router j = s.router j := State.modAgent_router

theorem State.joining_probe : (s.joining a).joinProbe a h = s.joinProbe a h := by
  have hf : ∀ g, (s.joining a).fld g = s.fld g := fun g => State.modAgent_fld
  simp only [State.joinProbe, State.castLine0, State.castBase, State.castSize, hf]

theorem State.join_of_not_absent (hst : (s.agent a).st ≠ .absent) :
    s.join a = s.result a (if (s.agent a).st = .quarantine then 2 else 3) := by
  unfold State.join
  split
  case h_1 h => exact absurd h hst
  case h_2 h => rw [if_pos h]
  case h_3 h1 h2 => rw [if_neg h2]

end Agents

/-- Settles O16. JOIN marks its agent, then sends eight probes one after the other; each takes the next place of the egress queue,
or of the messages that come back. -/
theorem joinsStartAndEnd : Obligations.JoinsStartAndEnd := by
  unfold Obligations.JoinsStartAndEnd
  refine ⟨?_, ?_, ?_⟩
  · intro a s ht hst
    obtain ⟨hag, hsl, hmp⟩ := State.sendProbes_frame (s := s.joining a) (a := a)
      (l := (List.range 8).map (fun n => Config.probeHtag a (s.freeCtr + n)))
    have hat : (s.joining a).att (s.agent a).la = s.att (s.agent a).la := by rw [State.att, State.joining_atts, State.att]
    refine ⟨s.join a, if_pos ht, ?_, fun hg hb => ?_, fun hg => ?_, fun b hb => ?_, ?_, ?_⟩
    · rw [State.join_of_absent hst, State.agent, hag, ← State.agent, State.joining_agent,
        State.agent_modAgent_self (State.takesCmd_ne ht)]
      rfl
    · obtain ⟨-, -, hq⟩ := State.sendProbes_opened (s := s.joining a) (a := a) (m := 8)
        (g := fun n => Config.probeHtag a (s.freeCtr + n))
        (by rw [State.joining_la, State.attShut_of State.joining_atts]; simp [State.attShut, hg])
        (by rw [State.joining_la, State.attBounces_of fun i => State.joining_router, hb])
      simp only [State.joining_la, State.joining_probe, hat] at hq
      rw [State.join_of_absent hst, hq]
      rfl
    · obtain ⟨-, hats, -, hq⟩ := State.sendProbes_shut (s := s.joining a) (a := a) (m := 8)
        (g := fun n => Config.probeHtag a (s.freeCtr + n))
        (by rw [State.joining_la, State.attShut_of State.joining_atts]; simp [State.attShut, hg])
      simp only [State.joining_la, State.joining_probe, State.joining_mesh] at hq
      rw [State.join_of_absent hst]
      exact ⟨hats.trans State.joining_atts, hq⟩
    · rw [State.join_of_absent hst, State.agent, hag, ← State.agent, State.joining_agent, State.agent_modAgent_ne hb]
    · rw [State.join_of_absent hst, hsl, State.joining_slices]
    · rw [State.join_of_absent hst, hmp, State.joining_ports]
  · intro a s ht hst
    exact (if_pos ht).trans (congrArg Host.Outcome.next (State.join_of_not_absent hst))
  · intro a j s hr ha hst hj
    have hx : exec (.joinLimitExpiry a) s = .next ((s.reach (j.start + 100000)).joinFail a) := by
      change execJoinLimitExpiry a s = _
      simp only [execJoinLimitExpiry, hst, hj, hr, if_true]
    refine ⟨_, hx, ?_, ?_, fun b hb => ?_, ?_, ?_, ?_⟩
    · rw [State.joinFail, State.agent_modAgent_self ha, State.reach_agent]
    · simp [State.joinFail, State.now, State.plinth_now_reach]
    · rw [State.joinFail, State.agent_modAgent_ne hb, State.reach_agent]
    · simp [State.joinFail]
    · simp [State.joinFail]
    · simp [State.joinFail]

end Sys2Proof.Machine

/-! SUPPORT. LEAVE and departure, FENCE at the edge, RELEASE and the permission bits. -/

namespace Sys2Proof.Machine

section Departures

variable {s t u : State} {a b : AgentId} {k j : AttId} {i : SliceId} {p : Rsv → Bool}

/-! ## Every slice in turn -/

theorem mem_allSlices : i ∈ allSlices := List.mem_map.mpr ⟨i.toNat, List.mem_range.mpr i.isLt, BitVec.ofNat_toNat 6 i ▸ by simp⟩

theorem nodup_allSlices : allSlices.Nodup := by decide

/-- What is said of one slice, and kept by the steps of the others, is changed by a pass over every slice in that slice's step alone. -/
theorem State.foldl_allSlices {γ : Type} {view : State → γ} {R : γ → γ → Prop} {f : State → SliceId → State} (i : SliceId)
    (hi : ∀ s, R (view s) (view (f s i))) (hne : ∀ s j, j ≠ i → view (f s j) = view s) :
    R (view s) (view (allSlices.foldl f s)) := by
  obtain ⟨l, r, hl⟩ := List.append_of_mem (mem_allSlices (i := i))
  have hkeep : ∀ (l : List SliceId) (s : State), i ∉ l → view (l.foldl f s) = view s := fun l s hm =>
    List.foldlRecOn (motive := fun t => view t = view s) l f rfl fun t ht j hj => (hne t j fun e => hm (e ▸ hj)).trans ht
  obtain ⟨-, hr, hlr⟩ := List.nodup_append.mp (hl ▸ nodup_allSlices)
  have hil : i ∉ l := fun h => hlr i h i List.mem_cons_self rfl
  rw [hl, List.foldl_append, List.foldl_cons, hkeep r _ (List.nodup_cons.mp hr).1, ← hkeep l s hil]
  exact hi _

/-! ## Reservations lost in every slice (R209) -/

/-- A slice's reservations, and how many were lost. -/
def State.rsvView (s : State) (i : SliceId) : List Rsv × Nat := ((s.sl i).rsvs, s.fld (Fld.sl i 0x280 16 16))

theorem State.rsvView_loseRsv : (s.loseRsv i p).rsvView i
    = ((s.sl i).rsvs.filter (fun r => !p r), min 65535 (s.fld (Fld.sl i 0x280 16 16) + ((s.sl i).rsvs.filter p).length)) := by
  have hf : (Fld.sl i 0x280 16 16).lo + (Fld.sl i 0x280 16 16).len ≤ 32 := by simp [Fld.sl]
  rw [State.rsvView, State.loseRsv, State.fld_addF hf]
  simp [Fld.sl]

theorem State.rsvView_loseRsv_ne {j : SliceId} (h : j ≠ i) : (s.loseRsv j p).rsvView i = s.rsvView i := by
  have hf : (Fld.sl j 0x280 16 16).lo + (Fld.sl j 0x280 16 16).len ≤ 32 := by simp [Fld.sl]
  have ha : (Fld.sl j 0x280 16 16).apart (Fld.sl i 0x280 16 16) := Or.inl fun e => h (BitVec.eq_of_toNat_eq (by
    simp only [Fld.sl] at e; omega))
  rw [State.rsvView, State.loseRsv, State.fld_addF_apart hf ha, State.addF_sl, State.sl_modSl, if_neg h.symm]
  simp [State.rsvView]

theorem State.rsvView_loseRsvAll : (s.loseRsvAll p).rsvView i
    = ((s.sl i).rsvs.filter (fun r => !p r), min 65535 (s.fld (Fld.sl i 0x280 16 16) + ((s.sl i).rsvs.filter p).length)) := by
  rw [State.loseRsvAll]
  exact State.foldl_allSlices (f := fun s i => s.loseRsv i p) (view := fun s => s.rsvView i)
    (R := fun x y => y = (x.1.filter (fun r => !p r), min 65535 (x.2 + (x.1.filter p).length))) i
    (fun _ => State.rsvView_loseRsv) fun _ _ h => State.rsvView_loseRsv_ne h

theorem State.rsvs_loseRsvAll : ((s.loseRsvAll p).sl i).rsvs = (s.sl i).rsvs.filter (fun r => !p r) :=
  (Prod.mk.inj State.rsvView_loseRsvAll).1

theorem State.loseRsvAll_agreeOff : s.agreeOff [.regs, .slices] (s.loseRsvAll p) :=
  State.agreeOff_of_kept (by decide) State.loseRsvAll_kept

theorem State.loseRsvAll_agents : (s.loseRsvAll p).agents = s.agents := State.loseRsvAll_agreeOff .agents (by decide)
theorem State.loseRsvAll_agent : (s.loseRsvAll p).agent a = s.agent a := by rw [State.agent, State.loseRsvAll_agents, State.agent]
theorem State.loseRsvAll_atts : (s.loseRsvAll p).atts = s.atts := State.loseRsvAll_agreeOff .atts (by decide)
theorem State.loseRsvAll_ports : (s.loseRsvAll p).ports = s.ports := State.loseRsvAll_agreeOff .ports (by decide)
theorem State.loseRsvAll_modes : (s.loseRsvAll p).modes = s.modes := State.loseRsvAll_agreeOff .modes (by decide)

/-! ## Departure (R58) -/

/-- An agent's sweep runs in a slice, or waits for a place. -/
def Slice.sweeps (x : Slice) (a : AgentId) : Prop := (∃ w ∈ x.swept, w.agent = a) ∨ a ∈ x.sweepWait

/-- An agent that waits goes on waiting or joins the scan. -/
theorem State.sweeps_joinScan (h : a ∈ (s.sl i).sweepWait) : ((s.joinScan i).sl i).sweeps a := by
  unfold State.joinScan
  dsimp only
  split
  · exact Or.inr h
  · rw [State.sl_modSl_self]
    rw [← List.take_append_drop (16 - (s.sl i).swept.length) (s.sl i).sweepWait] at h
    rcases List.mem_append.mp h with h | h
    · exact Or.inl ⟨_, List.mem_append_right _ (List.mem_map_of_mem h), rfl⟩
    · exact Or.inr h

theorem State.joinScan_sl_ne {j : SliceId} (h : j ≠ i) : (s.joinScan i).sl j = s.sl j := by
  unfold State.joinScan
  dsimp only
  split
  · rfl
  · rw [State.sl_modSl, if_neg h]

/-- One slice takes the agent, where it is active. -/
def State.sweepIn (s : State) (a : AgentId) (i : SliceId) : State :=
  if (s.sl i).active then (s.modSl i (fun x => { x with sweepWait := x.sweepWait ++ [a] })).joinScan i else s

theorem State.sweepIn_sweeps (h : (s.sl i).active = true) : ((s.sweepIn a i).sl i).sweeps a := by
  rw [State.sweepIn, if_pos h]
  exact State.sweeps_joinScan (by rw [State.sl_modSl_self]; exact List.mem_append_right _ List.mem_cons_self)

theorem State.sweepIn_sl_ne {j : SliceId} (h : j ≠ i) : (s.sweepIn a j).sl i = s.sl i := by
  unfold State.sweepIn
  split
  · rw [State.joinScan_sl_ne h.symm, State.sl_modSl, if_neg h.symm]
  · rfl

/-- The state in which the slices take an agent whose sweep begins. -/
def State.sweepMarked (s : State) (a : AgentId) : State :=
  { s.modAgent a (fun x => { x with sweep := true }) with
    hmap := { s.hmap with hands := s.hmap.hands.map (fun h => (h.1, h.2.1, h.2.2.1, h.2.2.2.erase a)) } }

theorem State.sweepOn_eq : s.sweepOn a = allSlices.foldl (fun s i => s.sweepIn a i) (s.sweepMarked a) := by
  rw [State.sweepOn, State.sweepMarked, State.modAgent_hmap]
  rfl

/-- Every active slice takes an agent whose sweep begins. -/
theorem State.sweepOn_sweeps (h : (s.sl i).active = true) : ((s.sweepOn a).sl i).sweeps a := by
  rw [State.sweepOn_eq]
  refine State.foldl_allSlices (f := fun s i => s.sweepIn a i) (view := fun s => s.sl i)
    (R := fun x y => x.active = true → y.sweeps a) i (fun _ => State.sweepIn_sweeps) (fun _ _ hj => State.sweepIn_sl_ne hj) ?_
  exact (congrArg Slice.active State.modAgent_sl).trans h

theorem State.sweepOn_regs : (s.sweepOn a).regs = s.regs := by
  have h : s.agreeOff [.agents, .slices, .hmap] (s.sweepOn a) := State.agreeOff_of_kept (by decide) State.sweepOn_kept
  exact h .regs (by decide)

/-- A sweep that begins changes SWEEP of its agent alone. -/
theorem State.sweepOn_agent : (s.sweepOn a).agent b = (s.modAgent a (fun x => { x with sweep := true })).agent b := by
  have hj : ∀ (u : State) i, (u.sweepIn a i).agents = u.agents := fun u i => by
    unfold State.sweepIn State.joinScan
    dsimp only
    split
    · split
      · rfl
      · rfl
    · rfl
  have h : (s.sweepOn a).agents = (s.sweepMarked a).agents := by
    rw [State.sweepOn_eq]
    exact List.foldlRecOn (motive := fun u : State => u.agents = (s.sweepMarked a).agents) allSlices
      (fun s i => s.sweepIn a i) rfl fun u hu i _ => (hj u i).trans hu
  rw [State.agent, h]
  rfl

/-- An agent's departure as it is counted and marked, before its sweep. -/
def State.departing (s : State) (a : AgentId) (fenced : Bool) : State :=
  (s.wrapF ⟨0x70118, 0, 32⟩).modAgent a (fun x => { x with st := if fenced then .fenced else .quarantine, join := none })

theorem State.departing_agent {fenced : Bool} (ha : a ≠ 0xFFF) : (s.departing a fenced).agent a
    = { s.agent a with st := if fenced then .fenced else .quarantine, join := none } := by
  rw [State.departing, State.agent_modAgent_self ha, State.wrapF_agent]

theorem State.departing_agent_ne {fenced : Bool} (hb : b ≠ a) : (s.departing a fenced).agent b = s.agent b := by
  rw [State.departing, State.agent_modAgent_ne hb, State.wrapF_agent]

theorem State.depart_eq {fenced : Bool} : s.depart a fenced = if ((s.departing a fenced).agent a).held = 0
    then (if fenced then s.departing a fenced else (s.departing a fenced).modAgent a (fun x => { x with st := .absent }))
    else (s.departing a fenced).sweepOn a := rfl

/-- With HELD 0 no sweep runs, and from QUARANTINE the agent is ABSENT at once. -/
theorem State.depart_of_held_zero {fenced : Bool} (ha : a ≠ 0xFFF) (h : (s.agent a).held = 0) : s.depart a fenced
    = if fenced then s.departing a fenced else (s.departing a fenced).modAgent a (fun x => { x with st := .absent }) := by
  have hh : ((s.departing a fenced).agent a).held = 0 := by rw [State.departing_agent ha]; exact h
  rw [State.depart_eq, if_pos hh]

theorem State.depart_of_held {fenced : Bool} (ha : a ≠ 0xFFF) (h : (s.agent a).held ≠ 0) :
    s.depart a fenced = (s.departing a fenced).sweepOn a := by
  have hh : ((s.departing a fenced).agent a).held ≠ 0 := by rw [State.departing_agent ha]; exact h
  rw [State.depart_eq, if_neg hh]

theorem State.departing_regs {fenced : Bool} : (s.departing a fenced).regs = (s.wrapF ⟨0x70118, 0, 32⟩).regs := State.modAgent_regs

theorem State.depart_regs {fenced : Bool} : (s.depart a fenced).regs = (s.wrapF ⟨0x70118, 0, 32⟩).regs := by
  rw [State.depart_eq, apply_ite State.regs, apply_ite State.regs, State.sweepOn_regs, State.modAgent_regs, ite_self, ite_self,
    State.departing_regs]

theorem State.depart_agent_ne {fenced : Bool} (hb : b ≠ a) : (s.depart a fenced).agent b = s.agent b := by
  have hd : (s.departing a fenced).agent b = s.agent b := State.departing_agent_ne hb
  rw [State.depart_eq]
  split
  · split
    · exact hd
    · exact (State.agent_modAgent_ne hb).trans hd
  · exact State.sweepOn_agent.trans ((State.agent_modAgent_ne hb).trans hd)

/-! ## LEAVE (R57) -/

theorem State.leave_of_other (h1 : (s.agent a).st ≠ .active) (h2 : (s.agent a).st ≠ .joining) : s.leave a = s.result a 3 := by
  unfold State.leave
  split
  case h_1 h => exact absurd h h2
  case h_2 h => exact absurd h h1
  case h_3 => rfl

/-- Nothing outstanding at the attachments, in the slices or on its way back is nothing outstanding at all. -/
theorem State.owes_of_none (h1 : ∀ k, (s.att k).owes a = false) (h2 : ∀ i, (s.sl i).owes a = false)
    (h3 : ∀ b ∈ s.mesh.bounced, Bounced.owes a b = false) : s.owes a = false := by
  simp only [State.owes, Bool.or_eq_false_iff, List.any_eq_false, Bool.not_eq_true]
  exact ⟨⟨fun k _ => h1 k, fun i _ => h2 i⟩, h3⟩

/-! ## FENCE at the edge (R61) -/

theorem State.edgeTo_performPart {g : BitVec 16} {n : BitVec 2} : s.edgeTo (s.performPart k a g n) := by
  unfold State.performPart State.freeEntry
  split
  · exact State.edgeTo_refl
  · refine State.edgeTo_ite (State.edgeTo_modAtt (Att.leads_of rfl rfl rfl)) ?_
    split
    · exact State.edgeTo_refl
    · exact State.edgeTo_trans State.edgeTo_freeEntry0 State.edgeTo_pullWait

theorem State.edgeTo_complete {n : Ndr} : s.edgeTo (s.complete k n) :=
  State.edgeTo_trans State.edgeTo_egNdr State.edgeTo_performPart

theorem State.edgeTo_maxF {f : Fld} {n : Nat} : s.edgeTo (s.maxF f n) :=
  State.edgeTo_of_att (fun _ => State.maxF_att) fun _ => by rw [State.maxF_sl]

theorem State.edgeTo_fenceCmp {f : FenceEntry} {e : Bool} : s.edgeTo (s.fenceCmp k f e) :=
  State.edgeTo_trans (State.edgeTo_trans (State.edgeTo_trans State.edgeTo_complete State.edgeTo_incF) State.edgeTo_maxF)
    State.edgeTo_count

theorem Att.queues_of_egress {x y : Att} (h : y.egress = x.egress) : y.drsQ = x.drsQ ∧ y.snooped = x.snooped := by
  simp only [Att.egress, Prod.mk.injEq] at h
  tauto

/-- An attachment without what it holds of an agent that is fenced. -/
def Att.fenced (x : Att) (a : AgentId) : Att :=
  { x with
    waitIn := x.waitIn.filter (fun r => !decide (r.q.agent = a)), winRd := x.winRd.filter (fun r => !decide (r.q.agent = a)),
    drsQ := x.drsQ.filter (fun d => !decide (d.2.agent = a)),
    snooped := x.snooped.filter (fun p => !decide (p.1 = a)),
    fences := x.fences.map (fun f => (f.1, f.2.map (fun f => if f.agent = a then { f with dead := true } else f))) }

/-- What the edge answers for a fenced agent adds nothing to what it holds of it. -/
theorem State.edgeTo_fenceEdge : (s.setAtt k ((s.att k).fenced a)).edgeTo (s.fenceEdge a k) :=
  State.edgeTo_trans (State.edgeTo_trans (State.edgeTo_trans
    (State.edgeTo_foldl fun _ _ => State.edgeTo_trans State.edgeTo_refuse State.edgeTo_answered)
    (State.edgeTo_foldl fun _ _ => State.edgeTo_refused)) (State.edgeTo_foldl fun _ _ => State.edgeTo_fenceCmp))
    (State.edgeTo_foldl fun _ _ => State.edgeTo_trans State.edgeTo_refuse State.edgeTo_complete)

/-! ## RELEASE and the other commands (R52, R53, R62) -/

theorem State.freeOwed_agreeOff : s.agreeOff [.regs, .slices, .mesh, .counts] (s.freeOwed a) :=
  State.agreeOff_of_kept (by decide) State.freeOwed_kept

/-- A FENCED agent has been released, and the slots that it still owes are to be freed. -/
def State.released (s : State) (a : AgentId) : State := (s.modAgent a (fun x => { x with st := .absent })).result a 1

theorem State.released_agent (ha : a ≠ 0xFFF) : (s.released a).agent a = { s.agent a with st := .absent, result := 1 } := by
  rw [State.released, State.result, State.agent_modAgent_self ha, State.agent_modAgent_self ha]

theorem State.releaseAgent_fenced (h1 : (s.agent a).st = .fenced) (h2 : (s.agent a).sweep = false) :
    s.releaseAgent a = (s.released a).freeOwed a := if_pos ⟨h1, h2⟩

theorem State.releaseAgent_refused (h : (s.agent a).st ≠ .fenced ∨ (s.agent a).sweep = true) : s.releaseAgent a = s.result a 3 := by
  rw [State.releaseAgent]
  refine if_neg fun ⟨h1, h2⟩ => ?_
  rcases h with h | h
  · exact h h1
  · rw [h2] at h; cases h

theorem State.fenceCmd_refused (h1 : (s.agent a).st ≠ .joining) (h2 : (s.agent a).st ≠ .active) (h3 : (s.agent a).st ≠ .leaving) :
    s.fenceCmd a = s.result a 3 := by
  unfold State.fenceCmd
  split
  case h_1 h => exact absurd h h1
  case h_2 h => exact absurd h h2
  case h_3 h => exact absurd h h3
  case h_4 => rfl

/-- The permission bits of an agent are written. -/
def State.permitted (s : State) (a : AgentId) (p h r : Bool) : State :=
  s.modAgent a (fun x => { x with perfRead := p, hatom := h, rsv := r })

theorem execAgentPermissionWrite_up {p h r : Bool} (hf : s.fwUp = true) (ha : a ≠ 0xFFF) : execAgentPermissionWrite a p h r s
    = .next (if r then s.permitted a p h r else (s.permitted a p h r).loseRsvAll (fun v => decide (v.agent = a))) :=
  congrArg Host.Outcome.next ((if_pos hf).trans (if_neg ha))

/-- A write of the agent table touches it alone. -/
theorem State.modAgent_eq {g : Agent → Agent} : s.modAgent a g = { s with agents := (s.modAgent a g).agents } := by
  unfold State.modAgent State.setAgent
  split
  · rfl
  · rfl

end Departures

/-- Settles O17. LEAVE and the end of LEAVING mark the agent and hand it to its departure; a departure that runs passes every slice. -/
theorem agentsLeave : Obligations.AgentsLeave := by
  unfold Obligations.AgentsLeave
  refine ⟨⟨?_, ?_, ?_, ?_⟩, ?_⟩
  · intro a s ht hst
    have ha := State.takesCmd_ne ht
    have hx : exec (.leave a) s = .next ((((s.modAgent a (fun x => { x with st := .leaving })).loseRsvAll
        (fun r => decide (r.agent = a)))).result a 1) := by
      refine (if_pos ht).trans (congrArg Host.Outcome.next ?_)
      rw [State.leave, hst]
    refine ⟨_, hx, ?_, fun i => ?_, fun b hb => ?_, ?_, ?_⟩
    · rw [State.result, State.agent_modAgent_self ha, State.loseRsvAll_agent, State.agent_modAgent_self ha]
    · rw [State.result, State.modAgent_sl, State.rsvs_loseRsvAll, State.modAgent_sl]
    · rw [State.result, State.agent_modAgent_ne hb, State.loseRsvAll_agent, State.agent_modAgent_ne hb]
    · rw [State.result, State.modAgent_atts, State.loseRsvAll_atts, State.modAgent_atts]
    · rw [State.result, State.modAgent_ports, State.loseRsvAll_ports, State.modAgent_ports]
  · intro a s ht hst
    refine (if_pos ht).trans (congrArg Host.Outcome.next ?_)
    rw [State.leave, hst, State.result]
  · intro a s ht h1 h2
    exact (if_pos ht).trans (congrArg Host.Outcome.next (State.leave_of_other h1 h2))
  · intro a s hr hst h1 h2 h3
    exact if_pos ⟨hr, hst, by rw [State.owes_of_none h1 h2 h3]; rfl⟩
  · intro a fenced s ha
    refine ⟨?_, fun h => ⟨?_, ?_⟩, fun h => ⟨?_, fun i hi => ?_⟩, fun b hb => State.depart_agent_ne hb⟩
    · rw [State.fld, State.reg, State.depart_regs, ← State.reg, ← State.fld]
      exact State.fld_wrapF (by decide)
    · rw [State.depart_of_held_zero ha h]
      cases fenced with
      | true => rw [if_pos rfl, State.departing_agent ha]; rfl
      | false => rw [if_neg Bool.false_ne_true, State.agent_modAgent_self ha, State.departing_agent ha]; rfl
    · rw [State.depart_of_held_zero ha h, apply_ite State.slices, State.modAgent_slices, ite_self, State.departing,
        State.modAgent_slices, State.wrapF_slices]
    · rw [State.depart_of_held ha h, State.sweepOn_agent, State.agent_modAgent_self ha, State.departing_agent ha]
    · rw [State.depart_of_held ha h]
      exact State.sweepOn_sweeps (by rw [State.departing, State.modAgent_sl, State.wrapF_sl, hi])

/-- Settles O18. FENCE hands its agent to the block; at the edge what is held of it is filtered first, and what follows adds nothing to
it. RELEASE and the permission bits are writes of the table, with the slots freed or the reservations lost after them. -/
theorem agentsAreFencedReleasedAndPermitted : Obligations.AgentsAreFencedReleasedAndPermitted := by
  unfold Obligations.AgentsAreFencedReleasedAndPermitted
  refine ⟨⟨?_, ?_, ?_⟩, ⟨?_, ?_⟩, ?_, ?_⟩
  · intro a s ht hst
    refine (if_pos ht).trans (congrArg Host.Outcome.next ?_)
    rcases hst with h | h | h
    · rw [State.fenceCmd, h, State.result]
    · rw [State.fenceCmd, h, State.result]
    · rw [State.fenceCmd, h, State.result]
  · intro a s ht h1 h2 h3
    exact (if_pos ht).trans (congrArg Host.Outcome.next (State.fenceCmd_refused h1 h2 h3))
  · intro a k s
    obtain ⟨hatt, -⟩ := State.edgeTo_fenceEdge (s := s) (k := k) (a := a)
    obtain ⟨he, hwk, -⟩ := hatt k
    have hk : (s.setAtt k ((s.att k).fenced a)).att k = (s.att k).fenced a := State.att_setAtt_self
    obtain ⟨hdrs, hsnp⟩ := Att.queues_of_egress he
    rw [hk] at hdrs hsnp hwk
    refine ⟨fun d hd => ?_, fun p hp => ?_, fun r hr => ?_⟩
    · rw [hdrs] at hd
      simpa using (List.mem_filter.mp hd).2
    · rw [hsnp] at hp
      simpa using (List.mem_filter.mp hp).2
    · simpa using (List.mem_filter.mp (hwk hr)).2
  · intro a s ht hst hsw
    have ha := State.takesCmd_ne ht
    have hoff := State.freeOwed_agreeOff (s := s.released a) (a := a)
    have hag : ∀ b, ((s.released a).freeOwed a).agent b = (s.released a).agent b := fun b => by
      rw [State.agent, hoff .agents (by decide), State.agent]
    refine ⟨_, (if_pos ht).trans (congrArg Host.Outcome.next (State.releaseAgent_fenced hst hsw)), ?_, fun b hb => ?_,
      (hoff .ports (by decide)).trans ?_, (hoff .modes (by decide)).trans ?_⟩
    · rw [hag, State.released_agent ha]
    · rw [hag, State.released, State.result, State.agent_modAgent_ne hb, State.agent_modAgent_ne hb]
    · rw [State.released, State.result, State.modAgent_ports, State.modAgent_ports]
    · rw [State.released, State.result, State.modAgent_modes, State.modAgent_modes]
  · intro a s ht h
    exact (if_pos ht).trans (congrArg Host.Outcome.next (State.releaseAgent_refused h))
  · intro a cmd s ht hc
    refine ⟨s.result a 5, if_pos ⟨ht, hc⟩, ?_, fun b hb => ?_, State.modAgent_eq⟩
    · rw [State.result, State.agent_modAgent_self (State.takesCmd_ne ht)]
    · rw [State.result, State.agent_modAgent_ne hb]
  · intro a p h r s hf ha
    have hag : ∀ b, ((s.permitted a p h r).loseRsvAll (fun v => decide (v.agent = a))).agent b = (s.permitted a p h r).agent b :=
      fun b => State.loseRsvAll_agent
    refine ⟨_, execAgentPermissionWrite_up hf ha, ?_, fun b hb => ?_, fun hr => ?_, fun hr i => ?_, ?_, ?_, ?_⟩
    · rw [apply_ite (fun u : State => u.agent a), hag, ite_self, State.permitted, State.agent_modAgent_self ha]
    · rw [apply_ite (fun u : State => u.agent b), hag, ite_self, State.permitted, State.agent_modAgent_ne hb]
    · rw [if_pos hr, State.permitted, State.modAgent_slices, State.modAgent_regs]
      exact ⟨rfl, rfl⟩
    · obtain ⟨hrsvs, hlost⟩ := Prod.mk.inj (State.rsvView_loseRsvAll (i := i) (p := fun v => decide (v.agent = a))
        (s := s.permitted a p h r))
      rw [State.permitted, State.modAgent_sl] at hrsvs hlost
      rw [if_neg (by simp [hr]), State.permitted, hrsvs, hlost, State.modAgent_fld]
      exact ⟨rfl, rfl⟩
    · rw [apply_ite State.atts, State.loseRsvAll_atts, ite_self, State.permitted, State.modAgent_atts]
    · rw [apply_ite State.ports, State.loseRsvAll_ports, ite_self, State.permitted, State.modAgent_ports]
    · rw [apply_ite State.modes, State.loseRsvAll_modes, ite_self, State.permitted, State.modAgent_modes]

end Sys2Proof.Machine

/-! SUPPORT. Requests that a slice refuses or keeps waiting: its directory and its slots stay. -/

namespace Sys2Proof.Machine

section Refusals

variable {s t : State} {k : AttId} {i : SliceId} {r : Req} {n : Ndr} {f : AttId → Fld} {a : AgentId} {b : Bool}

theorem State.edgeTo_ndr (h : s.edgeTo t) : (s.att k).ndrQ ⊆ (t.att k).ndrQ := (h.1 k).2.2

theorem State.edgeTo_flows (h : s.edgeTo t) : (t.sl i).dir = (s.sl i).dir ∧ (t.sl i).slots = (s.sl i).slots := by
  have hf := h.2 i
  exact ⟨congrArg Prod.fst hf, congrArg Prod.snd hf⟩

theorem State.edgeTo_of_parts (ha : t.atts = s.atts) (hs : t.slices = s.slices) : s.edgeTo t :=
  State.edgeTo_of_att (fun j => by rw [State.att, ha, State.att]) fun i => by rw [State.sl, hs, State.sl]

theorem State.edgeTo_setSl {x : Slice} (h : x.flows = (s.sl i).flows) : s.edgeTo (s.setSl i x) := by
  refine State.edgeTo_of_att (fun _ => by simp) fun j => ?_
  rw [State.sl_setSl]
  split
  case isTrue hj => rw [h, hj]
  case isFalse => rfl

/-! ## Answers of a slice (R54, R98) -/

theorem State.edgeTo_bounceAt {x : Bounced} : s.edgeTo (s.bounceAt k x) := State.edgeTo_of_parts rfl rfl

theorem State.edgeTo_deliver : s.edgeTo (s.deliver i k n) :=
  State.edgeTo_trans State.edgeTo_inject (State.edgeTo_ite State.edgeTo_complete State.edgeTo_bounceAt)

theorem State.edgeTo_routeNdr : s.edgeTo (s.routeNdr i k n) :=
  State.edgeTo_trans State.edgeTo_inject (State.edgeTo_ite State.edgeTo_egNdr State.edgeTo_bounceAt)

theorem State.edgeTo_pullNone : s.edgeTo (s.pullNone i r) := by
  unfold State.pullNone
  split
  · exact State.edgeTo_refl
  · exact State.edgeTo_trans State.edgeTo_inject (State.edgeTo_ite (State.edgeTo_modAtt (Att.leads_of rfl rfl rfl))
      State.edgeTo_bounceAt)

theorem State.edgeTo_gapNote {q : Nat} : s.edgeTo (s.gapNote .service q) :=
  State.edgeTo_of_parts rfl rfl

theorem State.edgeTo_counts {c : Counts} : s.edgeTo { s with counts := c } := State.edgeTo_of_parts rfl rfl

theorem State.edgeTo_smpSend {h fl : Nat} : s.edgeTo (s.smpSend i r h fl) := by
  unfold State.smpSend
  split
  · exact State.edgeTo_refl
  · dsimp only
    generalize hu : s.modSl i _ = u
    exact State.edgeTo_trans (hu ▸ State.edgeTo_modSl fun _ => rfl : s.edgeTo u) (State.edgeTo_ite
      (State.edgeTo_trans (State.edgeTo_trans State.edgeTo_counts State.edgeTo_inject) State.edgeTo_gapNote)
      (State.edgeTo_trans State.edgeTo_counts State.edgeTo_inject))

theorem State.edgeTo_sliceError : s.edgeTo (s.sliceError i r f) := by
  unfold State.sliceError
  exact State.edgeTo_trans (State.edgeTo_trans (State.edgeTo_trans State.edgeTo_refuse State.edgeTo_deliver) State.edgeTo_pullNone)
    State.edgeTo_smpSend

theorem State.edgeTo_sliceRetry : s.edgeTo (s.sliceRetry i r) := by
  have hout : s.edgeTo (s.modSl i (fun x => x.outside r)) := State.edgeTo_modSl fun _ => rfl
  unfold State.sliceRetry
  exact State.edgeTo_trans (State.edgeTo_trans (State.edgeTo_trans (State.edgeTo_trans hout State.edgeTo_routeNdr)
    State.edgeTo_count) State.edgeTo_pullNone) State.edgeTo_smpSend

/-- An NDR that has entered an egress queue is still there after the edges have gone on. -/
theorem State.ndr_of_egNdr (h : (s.egNdr k n).edgeTo t) : ∃ m ∈ (t.att k).ndrQ, m.2 = n := by
  refine ⟨((s.att k).seq, n), State.edgeTo_ndr h ?_, rfl⟩
  rw [State.egNdr, State.att_modAtt_self]
  exact List.mem_append_right _ List.mem_cons_self

/-- The request receives ERROR from its slice. -/
theorem State.sliceError_ndr (hb : s.attBounces r.la = false) : ∃ m ∈ ((s.sliceError i r f).att r.la).ndrQ, m.2 = errNdr r.q := by
  have hb' : ((s.refuse r.la f).sendNdrMsg i r.la (errNdr r.q)).attBounces r.la = false := by
    rw [State.sendNdrMsg, State.inject_attBounces, State.refuse_attBounces, hb]
  have hd : (s.refuse r.la f).deliver i r.la (errNdr r.q)
      = ((s.refuse r.la f).sendNdrMsg i r.la (errNdr r.q)).complete r.la (errNdr r.q) := if_pos (by rw [hb']; rfl)
  rw [State.sliceError, hd]
  exact State.ndr_of_egNdr (State.edgeTo_trans (State.edgeTo_trans State.edgeTo_performPart State.edgeTo_pullNone)
    State.edgeTo_smpSend)

/-- The request receives RETRY from its slice. -/
theorem State.sliceRetry_ndr (hb : s.attBounces r.la = false) :
    ∃ m ∈ ((s.sliceRetry i r).att r.la).ndrQ, m.2 = retryNdr r.q (s.backoff r.q.agent) := by
  have hn : (s.modSl i (fun x => x.outside r)).backoff r.q.agent = s.backoff r.q.agent := State.backoff_congr State.modSl_agents
  have hr : ∀ m, (s.modSl i (fun x => x.outside r)).routeNdr i r.la m
      = ((s.modSl i (fun x => x.outside r)).sendNdrMsg i r.la m).egNdr r.la m := fun m => if_pos (by
    rw [State.sendNdrMsg, State.inject_attBounces, State.modSl_attBounces, hb]; rfl)
  rw [State.sliceRetry, hn, hr]
  exact State.ndr_of_egNdr (State.edgeTo_trans (State.edgeTo_trans State.edgeTo_count State.edgeTo_pullNone) State.edgeTo_smpSend)

/-! ## What a refusal does not write -/

theorem State.sliceError_agents : (s.sliceError i r f).agents = s.agents := by
  have h : s.agreeOff _ (s.sliceError i r f) := State.agreeOff_of_kept (by decide) State.sliceError_kept
  exact h .agents (by decide)

theorem State.sliceRetry_agreeOff : s.agreeOff [.regs, .atts, .slices, .mesh, .events, .counts, .cnts] (s.sliceRetry i r) :=
  State.agreeOff_of_kept (by decide) State.sliceRetry_kept

/-- Where no request waits for an order-table entry, a freed entry changes nothing but the table. -/
theorem State.freeEntry_ports {g : BitVec 16} (hw : (s.att k).waitIn = []) : (s.freeEntry k a g).ports = s.ports := by
  unfold State.freeEntry
  split
  case h_1 => rfl
  case h_2 e he =>
    have h0 : s.freeEntry0 k a g = s.modAtt k (fun x => { x with order := dropEntry x.order a g }) := by
      unfold State.freeEntry0
      rw [he]
    rw [h0, State.pullWait_of_none (by rw [State.att_modAtt_self]; exact hw), State.modAtt_ports]

theorem State.complete_ports (hw : (s.att k).waitIn = []) : (s.complete k n).ports = s.ports := by
  have hn : ((s.egNdr k n).att k).waitIn = [] := by rw [State.egNdr, State.att_modAtt_self]; exact hw
  rw [State.complete, State.performPart]
  split
  · rfl
  · rw [apply_ite State.ports, State.modAtt_ports, State.freeEntry_ports hn, ite_self]
    rfl

/-- A refused request's ERROR changes no port, where none waits for an order-table entry. -/
theorem State.sliceError_ports (hw : (s.att r.la).waitIn = []) : (s.sliceError i r f).ports = s.ports := by
  have hd : ((s.refuse r.la f).deliver i r.la (errNdr r.q)).ports = s.ports := by
    rw [State.deliver, apply_ite State.ports, State.complete_ports (by simpa [State.sendNdrMsg] using hw)]
    simp [State.sendNdrMsg, State.bounceAt]
  have hp : ∀ u : State, (u.pullNone i r).ports = u.ports := fun u => by
    have h : u.agreeOff _ (u.pullNone i r) := State.agreeOff_of_kept (by decide) State.pullNone_kept
    exact h .ports (by decide)
  have hs : ∀ u : State, (u.smpSend i r 0 0x10).ports = u.ports := fun u => by
    have h : u.agreeOff _ (u.smpSend i r 0 0x10) := State.agreeOff_of_kept (by decide) State.smpSend_kept
    exact h .ports (by decide)
  rw [State.sliceError, hs, hp, hd]

/-! ## Check 4 (R54, R98) -/

theorem State.check4_joining (h : (s.agent r.q.agent).st = .joining) : s.check4 r = .retry := by simp only [State.check4, h]

theorem State.check4_gone (h : (s.agent r.q.agent).st = .absent ∨ (s.agent r.q.agent).st = .quarantine
    ∨ (s.agent r.q.agent).st = .fenced) : s.check4 r = .error false := by
  rcases h with h | h | h
  · simp only [State.check4, h]
  · simp only [State.check4, h]
  · simp only [State.check4, h]

/-- An agent that is neither ACTIVE nor LEAVING is JOINING, or has no requests. -/
theorem AState.not_live {x : AState} (h1 : x ≠ .active) (h2 : x ≠ .leaving) :
    x = .joining ∨ x = .absent ∨ x = .quarantine ∨ x = .fenced := by
  cases x with
  | active => exact absurd rfl h1
  | leaving => exact absurd rfl h2
  | joining => exact Or.inl rfl
  | absent => exact Or.inr (Or.inl rfl)
  | quarantine => exact Or.inr (Or.inr (Or.inl rfl))
  | fenced => exact Or.inr (Or.inr (Or.inr rfl))

variable {wb : Bool} {chk : PassCheck}

theorem State.newRequest_of_error (h : s.check4 r = .error b) : s.newRequest i r wb chk = s.sliceError i r (refusalFld b) := by
  simp only [State.newRequest, h]

theorem State.newRequest_of_retry (h : s.check4 r = .retry) : s.newRequest i r wb chk = s.sliceRetry i r := by
  simp only [State.newRequest, h]

/-! ## Requests that are held, bounced or refused at check 6 or 7 (R133, R137, R139, R296, R297) -/

theorem State.edgeTo_rosterClock : s.edgeTo (s.rosterClock i) := State.edgeTo_setSl rfl

theorem State.edgeTo_endTicket : s.edgeTo (s.endTicket i a) :=
  State.edgeTo_trans (State.edgeTo_modSl fun _ => by rfl) State.edgeTo_rosterClock

theorem State.edgeTo_endEsc : s.edgeTo (s.endEsc i r) :=
  State.edgeTo_ite (State.edgeTo_trans (State.edgeTo_modSl fun _ => by rfl) State.edgeTo_endTicket) State.edgeTo_refl

theorem State.edgeTo_bounceReq : s.edgeTo (s.bounceReq i r) := by
  unfold State.bounceReq
  exact State.edgeTo_trans (State.edgeTo_trans (State.edgeTo_trans State.edgeTo_incF State.edgeTo_endEsc)
    (State.edgeTo_ite State.edgeTo_endTicket State.edgeTo_refl)) (State.edgeTo_of_parts (by rfl) (by rfl))

/-- Check 6 holds a request, sends it back or refuses it: it changes no entry and no slot. -/
theorem State.edgeTo_check6 (h : s.check6 i r b = some t) : s.edgeTo t := by
  unfold State.check6 at h
  dsimp only at h
  split at h
  · exact Option.some.inj h ▸ State.edgeTo_bounceReq
  · split at h
    · cases h
    · split at h
      · cases h
      · split at h
        · exact Option.some.inj h ▸ State.edgeTo_modSl fun _ => rfl
        · exact Option.some.inj h ▸ State.edgeTo_sliceRetry

theorem State.edgeTo_kickEsc : s.edgeTo (s.kickEsc i) :=
  State.edgeTo_ite State.edgeTo_refl (State.edgeTo_modSl fun _ => by rfl)

/-- A request that would receive RETRY receives it, takes a ticket or an escalation slot. -/
theorem State.edgeTo_wouldRetry {c : Bool} : s.edgeTo (s.wouldRetry i r c) := by
  have hretry : ∀ (u : State) (g : Fld), u.edgeTo (((u.incF g).sliceRetry i r).rosterClock i) := fun u g =>
    State.edgeTo_trans (State.edgeTo_trans State.edgeTo_incF State.edgeTo_sliceRetry) State.edgeTo_rosterClock
  have hfire : ∀ (u : State) (m : Nat), u.edgeTo (u.fire m) := fun u m => State.edgeTo_of_parts State.fire_atts State.fire_slices
  unfold State.wouldRetry
  exact State.edgeTo_ite (hretry _ _) (State.edgeTo_trans (State.edgeTo_ite State.edgeTo_refl (State.edgeTo_modSl fun _ => by rfl))
    (State.edgeTo_ite (State.edgeTo_ite (State.edgeTo_trans (State.edgeTo_trans (State.edgeTo_trans (State.edgeTo_trans
      (State.edgeTo_trans (State.edgeTo_modSl fun _ => by rfl) State.edgeTo_rosterClock) State.edgeTo_incF) (hfire _ _))
      State.edgeTo_count) State.edgeTo_kickEsc) (hretry _ _)) (hretry _ _)))

theorem State.edgeTo_chainJoin {front : Bool} : s.edgeTo (s.chainJoin i r front) := by
  unfold State.chainJoin
  refine State.edgeTo_ite State.edgeTo_wouldRetry ?_
  split
  · exact State.edgeTo_ite (State.edgeTo_trans (State.edgeTo_modSl fun _ => by rfl) State.edgeTo_count) State.edgeTo_wouldRetry
  · split
    · exact State.edgeTo_ite (State.edgeTo_trans (State.edgeTo_modSl fun _ => by rfl) State.edgeTo_count) State.edgeTo_wouldRetry
    · exact State.edgeTo_wouldRetry

/-- A way whose stored bits, with its pool blocks, check clean is left as it is. -/
theorem State.wayCheck_of_clean {l : Line} (hw : chk.way = .clean) (hp : chk.pool = .clean) : s.wayCheck i l chk = s := by
  unfold State.wayCheck
  split
  · rfl
  · simp [hw, hp]

/-- A request other than a write, on a held line whose stored bits check clean, changes no entry and takes no slot. -/
theorem State.edgeTo_newRequest_of_holds (hh : (s.sl i).holds r.q.laddr = true) (hr : r.op.plainWrite = false)
    (hw : chk.way = .clean) (hp : chk.pool = .clean) : s.edgeTo (s.newRequest i r wb chk) := by
  unfold State.newRequest
  split
  · exact State.edgeTo_sliceError
  · exact State.edgeTo_sliceRetry
  · refine State.edgeTo_ite State.edgeTo_sliceError ?_
    rw [if_neg (by simp [hr])]
    dsimp only
    split
    case h_1 t ht => exact State.edgeTo_check6 ht
    case h_2 =>
      rw [if_pos (Or.inl hh), State.wayCheck_of_clean hw hp]
      exact State.edgeTo_trans (State.edgeTo_ite (State.edgeTo_modSl fun _ => by rfl) State.edgeTo_refl) State.edgeTo_chainJoin

end Refusals

/-- Settles O22. A refusal and a wait are the edges' and the queues' business: neither writes the directory or a slot. -/
theorem passesRefuseAndHold : Obligations.PassesRefuseAndHold := by
  unfold Obligations.PassesRefuseAndHold
  refine ⟨fun i chk r s hb => ⟨?_, fun hj => ?_, fun ha hl => ?_⟩, fun i chk r s hh hr hw hp => ?_⟩
  · intro st hst hgone
    rw [State.newRequest_of_error (State.check4_gone (hst ▸ hgone))]
    exact State.sliceError_ndr hb
  · rw [State.newRequest_of_retry (State.check4_joining hj)]
    exact State.sliceRetry_ndr hb
  · rcases AState.not_live ha hl with hj | hgone
    · rw [State.newRequest_of_retry (State.check4_joining hj)]
      obtain ⟨hdir, hslots⟩ := State.edgeTo_flows (i := i) (State.edgeTo_sliceRetry (s := s) (i := i) (r := r))
      exact ⟨hdir, hslots, fun _ => State.sliceRetry_agreeOff .ports (by decide), State.sliceRetry_agreeOff .agents (by decide)⟩
    · rw [State.newRequest_of_error (State.check4_gone hgone)]
      obtain ⟨hdir, hslots⟩ := State.edgeTo_flows (i := i) (State.edgeTo_sliceError (s := s) (i := i) (r := r) (f := refusalFld false))
      exact ⟨hdir, hslots, State.sliceError_ports, State.sliceError_agents⟩
  · obtain ⟨hdir, hslots⟩ := State.edgeTo_flows (i := i) (State.edgeTo_newRequest_of_holds (wb := false) hh hr hw hp)
    exact ⟨hslots, hdir⟩

end Sys2Proof.Machine

/-! SUPPORT. Snoops: their issue, their limits, and the responses a slot takes. -/

namespace Sys2Proof.Machine

section Snoops

variable {s t : State} {i : SliceId} {n m : Nat} {a : AgentId} {x : Slot} {v : Snoop} {f : Slot → Slot} {k : AttId}

/-! ## A slot changed -/

theorem State.modSlot_atts : (s.modSlot i n f).atts = s.atts := rfl
theorem State.modSlot_ports : (s.modSlot i n f).ports = s.ports := rfl
theorem State.modSlot_agents : (s.modSlot i n f).agents = s.agents := rfl
theorem State.modSlot_regs : (s.modSlot i n f).regs = s.regs := rfl
theorem State.modSlot_fld {g : Fld} : (s.modSlot i n f).fld g = s.fld g := rfl
theorem State.modSlot_rowOf : (s.modSlot i n f).rowOf a = s.rowOf a := rfl
theorem State.modSlot_snpQ : ((s.modSlot i n f).sl i).snpQ = (s.sl i).snpQ := by rw [State.modSlot, State.sl_modSl_self]; rfl

/-! ## A snoop in its row's queue (R104) -/

/-- A snoop joins its row's queue last. -/
theorem State.queueSnoop_snpQ : Store.get [] ((s.queueSnoop i n a).sl i).snpQ (s.rowOf a)
    = Store.get [] (s.sl i).snpQ (s.rowOf a) ++ [(BitVec.ofNat 10 n, a)] := by
  rw [State.queueSnoop, State.sl_modSl_self]
  exact Store.get_set_self

theorem State.queueSnoop_fld {g : Fld} : (s.queueSnoop i n a).fld g = s.fld g := rfl

theorem State.rowOf_of (h : (t.agent a).la = (s.agent a).la) : t.rowOf a = s.rowOf a := by rw [State.rowOf, h, State.rowOf]

/-! ## Snoop issue (R104, R153) -/

/-- The head of a row's queue has left it. -/
def State.snpOut (s : State) (i : SliceId) (row : Nat) (rest : List (BitVec 10 × AgentId)) : State :=
  s.modSl i (fun x => { x with snpQ := Store.set [] x.snpQ row rest })

theorem State.snpOut_slot {row : Nat} {rest : List (BitVec 10 × AgentId)} :
    ((s.snpOut i row rest).sl i).slot n = (s.sl i).slot n := by rw [State.snpOut, State.sl_modSl_self]; rfl

theorem State.snpOut_snpQ {row : Nat} {rest : List (BitVec 10 × AgentId)} :
    Store.get [] ((s.snpOut i row rest).sl i).snpQ row = rest := by
  rw [State.snpOut, State.sl_modSl_self]
  exact Store.get_set_self

/-- A snoop that leaves is sent, and its timer starts. -/
def Snoop.issue (v : Snoop) (now lim : Nat) : Snoop :=
  { v with st := if v.st = .queued then .sent else v.st, issued := if v.st = .queued then now else v.issued,
           timer := now, limit := lim }

theorem Snoop.issue_eq {now lim : Nat} : v.issue now lim
    = { (if v.st = .queued then { v with st := .sent, issued := now } else v) with timer := now, limit := lim } := by
  unfold Snoop.issue
  split
  · rfl
  · rfl

/-- The snoop has left for its agent's attachment, and its slot knows it. -/
def State.snpSent (s : State) (i : SliceId) (n : Nat) (a : AgentId) (v : Snoop) (x : Slot) : State :=
  (((s.inject (.slice i) (.att (s.agent a).la) 0x10 (headerBody (Bisnp.mk v.op a (htagOf i n) x.line).header) []).egBisnp
      (s.agent a).la (Bisnp.mk v.op a (htagOf i n) x.line)).count (cSl i (snpCnt v.op)) 1).modSlot i n (fun y =>
    (y.smp (fun m => { m with snpSent := some (m.snpSent.getD s.now) })).modSnoop a (fun v => v.issue s.now (s.agent a).snpTo.toNat))

theorem execSnoopIssue_head {row : BitVec 3} {n : BitVec 10} {rest : List (BitVec 10 × AgentId)} (hg : s.passGo i = true)
    (hq : Store.get [] (s.sl i).snpQ row.toNat = (n, a) :: rest) (hx : (s.sl i).slot n.toNat = some x)
    (hv : x.snoops.find? (fun v => decide (v.agent = a) && decide (v.copies ≠ 0)) = some v)
    (hb : s.attBounces (s.agent a).la = false) :
    execSnoopIssue i row s = .next ((s.snpOut i row.toNat rest).snpSent i n.toNat a v x) := by
  have hb' : ∀ p p' m c l, ((s.snpOut i row.toNat rest).inject p p' m c l).attBounces ((s.snpOut i row.toNat rest).agent a).la
      = false := fun p p' m c l => by
    rw [State.inject_attBounces, State.snpOut, State.modSl_attBounces, State.modSl_agent, hb]
  simp only [execSnoopIssue, hg, if_true, hq]
  rw [← State.snpOut, State.snpOut_slot, hx]
  simp only [Option.bind_some, hv, Option.map_some, State.routeBisnp, hb', Bool.not_false, if_true, State.snpSent]
  rfl

theorem State.snpSent_snpQ : ((s.snpSent i n a v x).sl i).snpQ = (s.sl i).snpQ := by
  rw [State.snpSent, State.modSlot_snpQ]
  simp

theorem State.snpSent_slot : ((s.snpSent i n a v x).sl i).slot n = ((s.sl i).slot n).map (fun y =>
    (y.smp (fun m => { m with snpSent := some (m.snpSent.getD s.now) })).modSnoop a (fun v => v.issue s.now (s.agent a).snpTo.toNat)) := by
  rw [State.snpSent, State.slot_modSlot]
  simp [Slice.slot]

theorem State.snpSent_bisnpQ : ((s.snpSent i n a v x).att (s.agent a).la).bisnpQ = (s.att (s.agent a).la).bisnpQ
    ++ [((s.att (s.agent a).la).seq, Bisnp.mk v.op a (htagOf i n) x.line)] := by
  rw [State.snpSent, State.att, State.modSlot_atts, ← State.att, State.count_att, State.egBisnp, State.att_modAtt_self]
  rfl

theorem State.snpSent_frame : (s.snpSent i n a v x).ports = s.ports ∧ (s.snpSent i n a v x).agents = s.agents
    ∧ (s.snpSent i n a v x).regs = s.regs := by
  refine ⟨?_, ?_, ?_⟩
  · rw [State.snpSent, State.modSlot_ports, State.count_ports]; rfl
  · rw [State.snpSent, State.modSlot_agents, State.count_agents]; rfl
  · rw [State.snpSent, State.modSlot_regs, State.count_regs]; rfl

/-! ## The limit of a snoop (R61, R153, R156) -/

/-- A snoop's limit has come, and its agent counts it. -/
def State.snpLimit (s : State) (a : AgentId) (v : Snoop) : State :=
  (s.reach (v.timer + 8 * v.limit)).modAgent a (fun x => { x with tocnt := if x.tocnt = 15 then 15 else x.tocnt + 1 })

/-- A snoop is sent once more. -/
def State.snpAgain (s : State) (i : SliceId) (n : Nat) (a : AgentId) : State :=
  ((((s.modSlot i n (fun y => (y.smp (fun m => { m with flags := m.flags ||| 4 })).modSnoop a (fun v => { v with
    resent := true, copies := v.copies + 1 }))).queueSnoop i n a).incF (Fld.sl i 0x250 0 16)).fire (evSl i 6)).count (cSl i 19) 1

theorem execSnoopTimeout_arrived {slot : BitVec 10} (hr : (s.sl i).rspIn i slot.toNat a = true) :
    execSnoopTimeout i slot a s = .next s := by
  unfold execSnoopTimeout
  dsimp only
  split
  · split
    · rfl
    · rw [if_pos (Or.inr (Or.inr hr))]
  · rfl

theorem execSnoopTimeout_due {slot : BitVec 10} (hg : s.passGo i = true) (hx : (s.sl i).slot slot.toNat = some x)
    (hv : x.snoopTo a = some v) (hst : v.st = .sent) (hq : (s.sl i).inSnpQ slot.toNat a = false)
    (hr : (s.sl i).rspIn i slot.toNat a = false) :
    execSnoopTimeout i slot a s = if v.resent then .next (((s.snpLimit a v).fenceAgent a).fire (evSl i 7))
      else .next ((s.snpLimit a v).snpAgain i slot.toNat a) := by
  have hn : ¬(v.st ≠ .sent ∨ (s.sl i).inSnpQ slot.toNat a = true ∨ (s.sl i).rspIn i slot.toNat a = true) := by simp [hst, hq, hr]
  simp only [execSnoopTimeout, hg, if_true, hx, Option.bind_some, hv, if_neg hn, State.snpLimit, State.snpAgain]

theorem State.snpLimit_sl : (s.snpLimit a v).sl i = s.sl i := by simp [State.snpLimit, State.sl]

theorem State.snpLimit_agent (ha : a ≠ 0xFFF) : (s.snpLimit a v).agent a
    = { s.agent a with tocnt := if (s.agent a).tocnt = 15 then 15 else (s.agent a).tocnt + 1 } := by
  rw [State.snpLimit, State.agent_modAgent_self ha, State.reach_agent]

theorem State.snpAgain_snpQ : Store.get [] ((s.snpAgain i n a).sl i).snpQ (s.rowOf a)
    = Store.get [] (s.sl i).snpQ (s.rowOf a) ++ [(BitVec.ofNat 10 n, a)] := by
  simp only [State.snpAgain, State.count_sl_snpQ, State.fire_sl, State.incF_sl]
  rw [← State.modSlot_snpQ (s := s) (n := n)]
  exact State.queueSnoop_snpQ

theorem State.snpAgain_fld : (s.snpAgain i n a).fld (Fld.sl i 0x250 0 16) = min 65535 (s.fld (Fld.sl i 0x250 0 16) + 1) := by
  rw [State.snpAgain, State.count_fld, State.fire_fld, State.fld_incF (by simp [Fld.sl])]
  rfl

/-- What of the state a resend leaves as it is. -/
theorem State.snpAgain_frame : (s.snpAgain i n a).atts = s.atts ∧ (s.snpAgain i n a).ports = s.ports
    ∧ (s.snpAgain i n a).agents = s.agents ∧ (s.snpAgain i n a).now = s.now := by
  refine ⟨?_, ?_, ?_, ?_⟩
  · rw [State.snpAgain, State.count_atts, State.fire_atts]; rfl
  · rw [State.snpAgain, State.count_ports, State.fire_ports]; rfl
  · rw [State.snpAgain, State.count_agents, State.fire_agents]; rfl
  · rw [State.snpAgain, State.count_now, State.fire_now]; rfl

/-! ## The close of a resent snoop (R154) -/

/-- The snoop of a slot is closed, its time having come. -/
def State.snpClosed (s : State) (i : SliceId) (n : Nat) (a : AgentId) (v : Snoop) : State :=
  (s.reach (v.answered + 16 * v.limit)).modSlot i n (fun y => y.modSnoop a (fun v => { v with copies := 0 }))

theorem execSnoopClose_due {slot : BitVec 10} (hg : s.passGo i = true) (hx : (s.sl i).slot slot.toNat = some x)
    (hv : x.snoopTo a = some v) (hst : v.st = .answered) (hr : (s.sl i).rspIn i slot.toNat a = false) :
    execSnoopClose i slot a s = .next ((s.snpClosed i slot.toNat a v).freeSlot i slot.toNat) := by
  have hn : ¬(v.st ≠ .answered ∨ (s.sl i).rspIn i slot.toNat a = true) := by simp [hst, hr]
  simp only [execSnoopClose, hg, if_true, hx, Option.bind_some, hv, if_neg hn, State.snpClosed]

theorem State.freeSlot_agreeOff : s.agreeOff [.regs, .slices, .mesh, .counts] (s.freeSlot i n) :=
  State.agreeOff_of_kept (by decide) State.freeSlot_kept

/-- A slot whose line is not released is not freed. -/
theorem State.freeSlot_of_not_released (hx : (s.sl i).slot n = some x) (hr : x.released = false) : s.freeSlot i n = s := by
  simp only [State.freeSlot, hx, hr, Bool.false_eq_true, false_and, if_false]

end Snoops

/-- Settles O23. A snoop that is issued leaves its row's queue; its limit sends it once more or fences its agent; a resent one closes
at the time its answer gives. -/
theorem snoopsAreIssuedAndTimed : Obligations.SnoopsAreIssuedAndTimed := by
  unfold Obligations.SnoopsAreIssuedAndTimed
  refine ⟨?_, ?_, ?_⟩
  · intro i row n a rest x v s hg hq hx hv hb
    obtain ⟨hports, hagents, hregs⟩ := State.snpSent_frame (s := s.snpOut i row.toNat rest) (i := i) (n := n.toNat) (a := a) (v := v) (x := x)
    refine ⟨_, execSnoopIssue_head hg hq hx hv hb, State.snpSent_bisnpQ, ?_, ?_, hports, hagents, hregs⟩
    · rw [State.snpSent_snpQ, State.snpOut_snpQ]
    · rw [State.snpSent_slot, State.snpOut_slot, hx]
      simp only [← Snoop.issue_eq]
      rfl
  · intro i slot a x v s hg ha hx hv hst hq
    refine ⟨fun hr => execSnoopTimeout_arrived hr, fun hr hv0 => ?_, fun hr hv1 => ?_⟩
    · obtain ⟨hatts, hports, hagents, hnow⟩ := State.snpAgain_frame (s := s.snpLimit a v) (i := i) (n := slot.toNat) (a := a)
      have hag : ((s.snpLimit a v).snpAgain i slot.toNat a).agent a = (s.snpLimit a v).agent a := by
        rw [State.agent, hagents, State.agent]
      have hrow : (s.snpLimit a v).rowOf a = s.rowOf a := State.rowOf_of (by rw [State.snpLimit_agent ha])
      refine ⟨_, (execSnoopTimeout_due hg hx hv hst hq hr).trans (if_neg (by simp [hv0])), ?_, ?_, ?_, ?_, ?_, ?_, ?_⟩
      · rw [hnow, State.snpLimit]
        simp [State.now, State.plinth_now_reach]
      · rw [hag, State.snpLimit_agent ha]
      · rw [hag, State.snpLimit_agent ha]
      · rw [State.snpAgain_fld]
        simp [State.snpLimit]
      · rw [← hrow, State.snpAgain_snpQ, State.snpLimit_sl]
      · rw [hatts, State.snpLimit]
        simp
      · rw [hports, State.snpLimit]
        simp
    · exact (execSnoopTimeout_due hg hx hv hst hq hr).trans (if_pos hv1)
  · intro i slot a x v s hg hx hv hst hr
    have hoff := State.freeSlot_agreeOff (s := s.snpClosed i slot.toNat a v) (i := i) (n := slot.toNat)
    have hslot : ((s.snpClosed i slot.toNat a v).sl i).slot slot.toNat = some (x.modSnoop a (fun v => { v with copies := 0 })) := by
      rw [State.snpClosed, State.slot_modSlot, State.sl, State.reach_slices, ← State.sl, hx]
      rfl
    refine ⟨_, execSnoopClose_due hg hx hv hst hr, ?_, fun hrel => ?_, ?_, ?_, ?_⟩
    · have hp : ((s.snpClosed i slot.toNat a v).freeSlot i slot.toNat).plinth = (s.snpClosed i slot.toNat a v).plinth :=
        hoff .plinth (by decide)
      rw [State.now, hp, State.snpClosed]
      exact State.plinth_now_reach
    · rw [State.freeSlot_of_not_released hslot hrel, hslot]
    · rw [hoff .atts (by decide), State.snpClosed, State.modSlot_atts, State.reach_atts]
    · rw [hoff .ports (by decide), State.snpClosed, State.modSlot_ports, State.reach_ports]
    · rw [hoff .agents (by decide), State.snpClosed, State.modSlot_agents, State.reach_agents]

end Sys2Proof.Machine

/-! SUPPORT. The pass of a snoop response, and what an answer that is not valid does. -/

namespace Sys2Proof.Machine

section Answers

variable {s : State} {i : SliceId} {n : Nat} {a : AgentId} {x : Slot} {v : Snoop} {r : RspOp} {h : BitVec 16} {t0 : Nat} {m : RspMsg}
  {rest : List RspMsg} {chk : PassCheck}

theorem execSnoopResponsePass_head (hg : s.passGo i = true) (hh : s.headRsp i = some (m, rest)) (hm : ∀ a h, m ≠ .eack a h) :
    execSnoopResponsePass i s chk = .next ((s.modSl i (fun x => { x with rsp := rest })).pass i (.rsp m) 0 chk) := by
  cases m with
  | eack a h => exact absurd rfl (hm a h)
  | birsp | conflict => simp only [execSnoopResponsePass, hg, if_true, hh]

/-! ## Which answers a snoop takes (R103) -/

theorem validRsp_inv_iff : validRsp .inv r = true ↔ r = .i := by cases r <;> simp [validRsp]
theorem validRsp_data_iff : validRsp .data r = true ↔ r = .i ∨ r = .s := by cases r <;> simp [validRsp]
theorem validRsp_cur : validRsp .cur r = true := rfl

/-- An answer that the snoop does not take is a bad one. -/
theorem State.answer_of_invalid (hx : (s.sl i).slot (htagSlot h).toNat = some x) (hv : x.snoopTo a = some v) (hst : v.st ≠ .answered)
    (hr : validRsp v.op r = false) : s.answer i r a h t0 = s.badAnswer i (htagSlot h).toNat a v := by
  simp only [State.answer, hx, hv, if_neg hst, hr, Bool.false_eq_true, if_false]

/-- A bad answer has been counted. -/
def State.badCounted (s : State) (i : SliceId) : State := (s.incF (Fld.sl i 0x220 0 16)).fire (evSl i 8)

theorem State.badCounted_fld : (s.badCounted i).fld (Fld.sl i 0x220 0 16) = min 65535 (s.fld (Fld.sl i 0x220 0 16) + 1) := by
  rw [State.badCounted, State.fire_fld, State.fld_incF (by simp [Fld.sl])]
  rfl

theorem State.badCounted_sl : (s.badCounted i).sl i = s.sl i := by simp [State.badCounted]

theorem State.badCounted_rowOf : (s.badCounted i).rowOf a = s.rowOf a := State.rowOf_of (by simp [State.badCounted])

theorem State.badAnswer_second (hb : 1 ≤ v.bad) : s.badAnswer i n a v = ((s.badCounted i).fenceAgent a).fire (evSl i 7) := if_pos hb

/-- The first bad answer has the snoop sent once more. -/
theorem State.badAnswer_first (hb : v.bad = 0) : s.badAnswer i n a v = ((s.badCounted i).modSlot i n (fun y =>
    (y.smp (fun m => { m with flags := m.flags ||| 4 })).modSnoop a (fun v => { v with bad := v.bad + 1 }))).queueSnoop i n a :=
  if_neg (by omega)

end Answers

/-- Settles O24. The response's pass is that of the head of RSP; which answers are valid is a table, and an invalid one is counted and
the snoop sent once more, or its agent fenced. -/
theorem snoopResponsesTakeTheirPass : Obligations.SnoopResponsesTakeTheirPass := by
  unfold Obligations.SnoopResponsesTakeTheirPass
  refine ⟨⟨fun i chk m rest s hg hh hm => execSnoopResponsePass_head hg hh hm, fun i chk s => ⟨fun r a h l t0 => rfl, fun k q => rfl⟩,
    ?_⟩, fun r => validRsp_inv_iff, fun r => validRsp_data_iff, fun r => validRsp_cur⟩
  intro i r a h t0 x v s hx hv hst hr
  rw [State.answer_of_invalid hx hv hst hr]
  refine ⟨fun hb => State.badAnswer_second hb, fun hb => ?_⟩
  rw [State.badAnswer_first hb]
  refine ⟨?_, ?_⟩
  · rw [State.queueSnoop_fld, State.modSlot_fld, State.badCounted_fld]
  · rw [← State.badCounted_rowOf (i := i), ← State.modSlot_rowOf (s := s.badCounted i) (i := i), State.queueSnoop_snpQ, State.modSlot_snpQ,
      State.badCounted_sl]

end Sys2Proof.Machine

/-! SUPPORT. The departure scan's steps and the patrol scrub's. -/

namespace Sys2Proof.Machine

section Background

variable {s t : State} {i j : SliceId} {k : Nat} {e : Entry} {a : AgentId} {l : Line} {h : List AgentId}

/-! ## A step of the departure scan (R59) -/

theorem State.sweepPass_set (hs : (s.sl i).swept ≠ []) (hp : (s.sl i).scanPos < 4096) :
    s.sweepPass i [] = ((s.sweepSet i (BitVec.ofNat 12 (s.sl i).scanPos)).map (fun w => w.scanOn i)).getD s := by
  unfold State.sweepPass
  dsimp only [List.foldl_nil]
  rw [if_neg hs, if_pos hp]
  split
  case h_1 u hu => rw [hu]; rfl
  case h_2 hu => rw [hu]; rfl

/-- The record bucket at which a scan stands. -/
def State.scanBucket (s : State) (i : SliceId) : Line :=
  s.castAddr (BitVec.ofNat 12 (((s.sl i).scanPos - 4096) / s.perPart)).toNat (1 + ((s.sl i).scanPos - 4096) % s.perPart)

/-- A scan that stands at a record bucket which it has not read, and has no read out, reads it. -/
theorem State.sweepPass_read (hs : (s.sl i).swept ≠ []) (hp : 4096 ≤ (s.sl i).scanPos)
    (hk : ((s.sl i).scanPos - 4096) % s.perPart < s.castN)
    (hv : s.scans i (BitVec.ofNat 12 (((s.sl i).scanPos - 4096) / s.perPart)) = true)
    (hr : (s.sl i).scanned 20 (s.scanBucket i) = none) (ho : ((s.sl i).scanOf 20).out = 0) :
    s.sweepPass i [] = s.scanRead i 20 (s.scanBucket i) := by
  unfold State.sweepPass
  dsimp only [List.foldl_nil]
  rw [if_neg hs, if_neg (Nat.not_lt.mpr hp), if_pos (And.intro hk hv), ← State.scanBucket, hr]
  exact if_pos ho

theorem State.sweepPass_over (hs : (s.sl i).swept ≠ []) (hp : 4096 ≤ (s.sl i).scanPos)
    (hk : s.castN ≤ ((s.sl i).scanPos - 4096) % s.perPart
      ∨ s.scans i (BitVec.ofNat 12 (((s.sl i).scanPos - 4096) / s.perPart)) = false) : s.sweepPass i [] = s.scanOn i := by
  have hn : ¬(((s.sl i).scanPos - 4096) % s.perPart < s.castN
      ∧ s.scans i (BitVec.ofNat 12 (((s.sl i).scanPos - 4096) / s.perPart)) = true) := by
    rintro ⟨h1, h2⟩
    rcases hk with hk | hk
    · omega
    · rw [hk] at h2; cases h2
  simp only [State.sweepPass, if_neg hs, if_neg (Nat.not_lt.mpr hp), if_neg hn]

theorem State.scanOn_scanPos : ((s.scanOn i).sl i).scanPos = s.scanNext i (s.sl i).scanPos := by
  rw [State.scanOn, State.sl_setSl_self]

/-! ## What changes the directory (R58, R113) -/

/-- The directory and the runs kept, on which a run for an entry's holders rests. -/
def Slice.bank (x : Slice) : Store (Option Entry) × List (Res × AgentId × BitVec 16) := (x.dir, x.kept)

theorem Slice.runFor_of_bank {x y : Slice} {o : Option Entry} (hb : y.bank = x.bank) : y.runFor o h = x.runFor o h := by
  obtain ⟨hd, hk⟩ := Prod.mk.inj hb
  have hu : y.poolUsed ++ y.keptBlocks = x.poolUsed ++ x.keptBlocks := by
    rw [Slice.poolUsed, Slice.keptBlocks, hd, hk, Slice.poolUsed, Slice.keptBlocks]
  have hf : ∀ n, y.findRun n = x.findRun n := fun n => by rw [Slice.findRun, hu, Slice.findRun]
  simp only [Slice.runFor, hf]

theorem State.bank_modSl {f : Slice → Slice} (hf : ∀ x, (f x).bank = x.bank) : ((s.modSl i f).sl j).bank = (s.sl j).bank := by
  rw [State.sl_modSl]
  split
  case isTrue hj => rw [hf, hj]
  case isFalse => rfl

theorem State.sendCmd_sl {c : MemCmd} : (s.sendCmd c).sl j = s.sl j := by
  unfold State.sendCmd
  dsimp only
  split
  · rfl
  · rfl

/-- Poisoning a line changes no entry. -/
theorem State.bank_poison {g : Option (BitVec 16)} : ((s.poison i l g).1.sl j).bank = (s.sl j).bank := by
  rw [State.poison]
  dsimp only [State.nextTag]
  rw [State.sendCmd_sl, State.classPsn, State.incF_sl, State.loseRsv, State.addF_sl]
  exact (State.bank_modSl fun _ => by rfl).trans (State.bank_modSl fun _ => by rfl)

theorem State.bank_joinScan : ((s.joinScan i).sl j).bank = (s.sl j).bank := by
  unfold State.joinScan
  dsimp only
  split
  · rfl
  · exact State.bank_modSl fun _ => rfl

/-- The end of a sweep changes no entry. -/
theorem State.bank_sweepOff : ((s.sweepOff a).sl j).bank = (s.sl j).bank := by
  rw [State.sweepOff, State.modAgent_sl]
  refine List.foldlRecOn (motive := fun u : State => (u.sl j).bank = (s.sl j).bank) allSlices _ rfl fun u hu i _ => ?_
  dsimp only
  split
  · rw [State.bank_joinScan, State.fire_sl]
    exact (State.bank_modSl fun _ => by rfl).trans hu
  · exact hu

theorem State.bank_heldDown : ((s.heldDown a).sl j).bank = (s.sl j).bank := by
  unfold State.heldDown
  dsimp only
  split
  · rw [State.bank_sweepOff, State.modAgent_sl]
  · rw [State.modAgent_sl]

/-- HELD follows a change of holders, and no entry changes with it. -/
theorem State.bank_heldDiff {old : List AgentId} : ((s.heldDiff old h).sl j).bank = (s.sl j).bank := by
  unfold State.heldDiff
  refine List.foldlRecOn (motive := fun u : State => (u.sl j).bank = (s.sl j).bank) _ _ ?_ fun u hu a _ => State.bank_heldDown.trans hu
  exact List.foldlRecOn (motive := fun u : State => (u.sl j).bank = (s.sl j).bank) _ _ rfl fun u hu a _ => by
    rw [State.heldUp, State.modAgent_sl, hu]

theorem Slice.way_of_bank {x y : Slice} (hb : y.bank = x.bank) : y.way k = x.way k := by
  rw [Slice.way, (Prod.mk.inj hb).1, Slice.way]

theorem Slice.way_putWay {x : Slice} {o : Option Entry} : (x.putWay k o).way k = o := Store.get_set_self

/-- Holders that stay, and find a run, are written to the entry's way. -/
theorem State.writeHolders_way {own : Bool} {res : Option Nat} (hh : h ≠ []) (hr : ((s.sl i).runFor (some e) h).isSome = true)
    (hne : h ≠ e.holders) : ∃ f, ((s.writeHolders i k e own h res).sl i).way k = some f ∧ f.line = e.line ∧ f.holders = h := by
  obtain ⟨hd, hrun⟩ := Option.isSome_iff_exists.mp hr
  refine ⟨{ e with own := own, holders := h, head := hd, dirty := true }, ?_, rfl, rfl⟩
  simp only [State.writeHolders, if_neg hh, hrun, if_neg (fun hc : own = e.own ∧ h = e.holders => hne hc.2)]
  rw [Slice.way_of_bank State.bank_heldDiff, State.sl_modSl_self, Slice.way_putWay]

/-- Departing agents leave an entry whose other holders find a run. -/
theorem State.sweepEntry_way (hh : (s.purged e).1 ≠ []) (hw : (s.sl i).way k = some e)
    (hr : ((s.sl i).runFor (some e) (s.purged e).1).isSome = true) (ht : s.sweepEntry i k e = some t) :
    ∃ f, (t.sl i).way k = some f ∧ f.line = e.line ∧ f.holders = (s.purged e).1 := by
  unfold State.sweepEntry at ht
  dsimp only at ht
  split at ht
  case isTrue heq =>
    obtain rfl := Option.some.inj ht
    exact ⟨e, hw, rfl, heq.1.symm⟩
  case isFalse hne =>
    rw [if_neg fun hc => hh hc.1] at ht
    obtain rfl := Option.some.inj ht
    refine State.writeHolders_way hh ?_ fun hc => hne ⟨hc, hh⟩
    split
    · rw [Slice.runFor_of_bank State.bank_poison, hr]
    · exact hr

/-! ## The patrol scrub (R73, R91, R378, R379) -/

/-- The scrub moves to the next set, and counts a turn after the last. -/
def State.scrubOn (s : State) (i : SliceId) (set : BitVec 12) : State :=
  if set = 0xFFF then (s.modSl i (fun x => { x with scrubSet := x.scrubSet + 1 })).wrapF (Fld.sl i 0x300 16 16)
  else s.modSl i (fun x => { x with scrubSet := x.scrubSet + 1 })

theorem State.scrubOn_sl {set : BitVec 12} : (s.scrubOn i set).sl i = { s.sl i with scrubSet := (s.sl i).scrubSet + 1 } := by
  unfold State.scrubOn
  split
  · rw [State.wrapF_sl, State.sl_modSl_self]
  · rw [State.sl_modSl_self]

theorem State.scrubOn_fld {set : BitVec 12} : (s.scrubOn i set).fld (Fld.sl i 0x300 16 16)
    = if set = 0xFFF then (s.fld (Fld.sl i 0x300 16 16) + 1) % 65536 else s.fld (Fld.sl i 0x300 16 16) := by
  unfold State.scrubOn
  split
  · rw [State.fld_wrapF (by simp [Fld.sl])]
    rfl
  · rfl

theorem State.scrubPass_clean : s.scrubPass i [] [] = s.scrubOn i (s.sl i).scrubSet := rfl

/-- A silhouette counter with bad parity becomes 15, which is an error of the slice. -/
def State.silBad (s : State) (i : SliceId) (c : BitVec 20) : State :=
  (s.modSl i (fun x => { x with sil := Store.set 0 x.sil c.toNat 15 })).sliceErr i

theorem State.scrubPass_bad {c : BitVec 20} (hc : c.toNat / 256 = (s.sl i).scrubSet.toNat) :
    s.scrubPass i [] [c] = ((s.silBad i c).stickyCheck i).scrubOn i (s.sl i).scrubSet := by
  have hf : [c].filter (fun c => decide (c.toNat / 256 = (s.sl i).scrubSet.toNat)) = [c] := by simp [hc]
  unfold State.scrubPass
  dsimp only [List.foldl_nil]
  rw [hf, if_neg (List.cons_ne_nil _ _)]
  rfl

theorem State.sliceErr_sl : (s.sliceErr i).sl i = { s.sl i with rsvs := [] } := by
  rw [State.sliceErr, State.loseRsv, State.addF_sl, State.sl_modSl_self]
  simp

/-- While a rebuild runs, counters at 15 start none. -/
theorem State.stickyCheck_sl (hr : (s.sl i).rebuild.isSome = true) : (s.stickyCheck i).sl i = s.sl i := by
  have hn : ∀ c d : Prop, ¬(c ∧ (s.sl i).rebuild.isNone = true ∧ d) := fun c d ⟨_, h, _⟩ => by
    rw [Option.isNone_iff_eq_none] at h
    rw [h] at hr
    cases hr
  unfold State.stickyCheck
  dsimp only
  rw [if_neg (hn _ _), State.evLevel_sl]

theorem State.silBad_sl {c : BitVec 20} :
    (s.silBad i c).sl i = { s.sl i with sil := Store.set 0 (s.sl i).sil c.toNat 15, rsvs := [] } := by
  rw [State.silBad, State.sliceErr_sl, State.sl_modSl_self]

/-- A recovery of a line that begins ends the slice's reservations, and changes no entry. -/
theorem State.startRecover_dir {g : Option (BitVec 32)} : ((s.startRecover i l g).sl i).dir = (s.sl i).dir
    ∧ ((s.startRecover i l g).sl i).rsvs = [] := by
  have hu : ∀ u : State, u = ((s.fire (evSl i 1)).classRec).sliceErr i → (u.sl i).dir = (s.sl i).dir ∧ (u.sl i).rsvs = [] :=
    fun u hu => by
      subst hu
      rw [State.sliceErr_sl]
      simp
  obtain ⟨hd, hr⟩ := hu _ rfl
  unfold State.startRecover
  dsimp only
  split
  · rw [State.sl_modSl_self]
    exact ⟨hd, hr⟩
  · split
    · rw [State.sl_modSl_self]
      exact ⟨hd, hr⟩
    · rw [State.sl_modSl_self]
      exact ⟨hd, hr⟩

/-- An uncorrectable way is freed, where the home map names its slice. -/
theorem State.loseWay_way (ha : s.addrOk i e.line = true) :
    ((s.loseWay i k e).sl i).way k = none ∧ ((s.loseWay i k e).sl i).rsvs = [] := by
  rw [State.loseWay, if_pos ha]
  obtain ⟨hd, hr⟩ := State.startRecover_dir (s := (s.modSl i (fun x => x.putWay k none)).incF (Fld.sl i 0x304 16 16)) (i := i)
    (l := e.line) (g := none)
  refine ⟨?_, hr⟩
  rw [Slice.way, hd, State.incF_sl, State.sl_modSl_self]
  exact Slice.way_putWay

end Background

/-- Settles O30. A step of a scan looks at the place where it stands; what it changes of the directory is a way of its own set. -/
theorem scansAndScrubsStep : Obligations.ScansAndScrubsStep := by
  unfold Obligations.ScansAndScrubsStep
  refine ⟨⟨fun i chk finds s hb hs => if_pos ⟨hb, hs⟩, fun i chk finds bad s hb hl => if_pos ⟨hb, hl⟩⟩,
    fun i s hs => ⟨fun hp => State.sweepPass_set hs hp, fun hp hk hv hr ho => State.sweepPass_read hs hp hk hv hr ho,
      fun hp hk => State.sweepPass_over hs hp hk, State.scanOn_scanPos⟩,
    fun i k e s t hh hw hr ht => State.sweepEntry_way hh hw hr ht, fun i s => ?_, fun i c s hc hr => ?_, fun i set w e s hw ha => ?_⟩
  · rw [State.scrubPass_clean, State.scrubOn_sl]
    exact ⟨rfl, rfl, rfl, State.scrubOn_fld⟩
  · have hreb : ((s.silBad i c).sl i).rebuild.isSome = true := by rw [State.silBad_sl]; exact hr
    rw [State.scrubPass_bad hc, State.scrubOn_sl, State.stickyCheck_sl hreb, State.silBad_sl]
    exact ⟨Store.get_set_self, rfl, rfl⟩
  · have hf : s.foundWay i set w .uncorr = s.loseWay i (set.toNat * 16 + w.toNat) e := by simp only [State.foundWay, hw]
    rw [hf]
    obtain ⟨hway, hrsvs⟩ := State.loseWay_way (k := set.toNat * 16 + w.toNat) ha
    exact ⟨hway, hrsvs, rfl⟩

end Sys2Proof.Machine

/-! SUPPORT. A pass of the INT class, and the ways and transit entries that a pass writes. -/

namespace Sys2Proof.Machine

section IntPasses

variable {s : State} {i : SliceId} {chk : PassCheck} {m : IntMsg} {rest : List IntMsg} {x : Slice} {k : Nat} {e : Entry} {l : Line}

/-! ## The head of INT (R129, R130) -/

/-- The head of INT leaves the queue, and its pass runs. -/
theorem State.intPass_head {f : IntMsg → Option (Pass × Nat)} {p : Pass} {n : Nat} (hg : s.passGo i = true)
    (hh : s.headInt i = some (m, rest)) (hf : f m = some (p, n)) :
    s.intPass i f chk = (s.modSl i (fun x => { x with int := rest })).pass i p n chk := by
  simp only [State.intPass, hg, if_true, hh, hf]

/-! ## What a change of a slice leaves as it is -/

theorem State.view_modSl {γ : Type} {view : Slice → γ} {f : Slice → Slice} {j : SliceId} (hf : ∀ x, view (f x) = view x) :
    view ((s.modSl j f).sl i) = view (s.sl i) := by
  rw [State.sl_modSl]
  split
  case isTrue h => rw [hf, h]
  case isFalse => rfl

/-! ## The way of a line (R71) -/

theorem Slice.way_putWay_ne {o : Option Entry} {j : Nat} (h : j ≠ k) : (x.putWay k o).way j = x.way j := Store.get_set_ne h

/-- The line's way is the way of its set that holds it. -/
def Slice.holdsAt (x : Slice) (l : Line) (k : Nat) : Option (Nat × Entry) :=
  match x.way k with
  | some e => if e.line = l then some (k, e) else none
  | none => none

theorem Slice.findWay_eq : x.findWay l = (wayKeys (setOf l)).findSome? (x.holdsAt l) := rfl

theorem Slice.holdsAt_eq_some {j : Nat} : x.holdsAt l j = some (k, e) ↔ j = k ∧ x.way j = some e ∧ e.line = l := by
  unfold Slice.holdsAt
  split
  case h_1 f hf =>
    split
    case isTrue hl =>
      rw [hf, Option.some.injEq, Option.some.injEq, Prod.mk.injEq]
      constructor
      · rintro ⟨rfl, rfl⟩; exact ⟨rfl, rfl, hl⟩
      · rintro ⟨rfl, rfl, -⟩; exact ⟨rfl, rfl⟩
    case isFalse hl =>
      rw [hf, Option.some.injEq]
      constructor
      · intro h; cases h
      · rintro ⟨-, rfl, h⟩; exact absurd h hl
  case h_2 hf => simp [hf]

/-- The way that a line is found in holds it. -/
theorem Slice.way_of_findWay (h : x.findWay l = some (k, e)) : x.way k = some e ∧ e.line = l := by
  rw [Slice.findWay_eq] at h
  obtain ⟨j, -, hj⟩ := List.exists_of_findSome?_eq_some h
  obtain ⟨rfl, hw, hl⟩ := Slice.holdsAt_eq_some.mp hj
  exact ⟨hw, hl⟩

/-- A line whose entry is written in its way is found there. -/
theorem Slice.findWay_putWay {f : Entry} (h : x.findWay l = some (k, e)) (hf : f.line = l) :
    (x.putWay k (some f)).findWay l = some (k, f) := by
  rw [Slice.findWay_eq] at h ⊢
  generalize wayKeys (setOf l) = ks at h ⊢
  induction ks with
  | nil => cases h
  | cons j ks ih =>
    rw [List.findSome?_cons] at h ⊢
    by_cases hj : j = k
    · have hp : (x.putWay k (some f)).holdsAt l j = some (k, f) := Slice.holdsAt_eq_some.mpr ⟨hj, by rw [hj, Slice.way_putWay], hf⟩
      rw [hp]
    · have hp : (x.putWay k (some f)).holdsAt l j = x.holdsAt l j := by rw [Slice.holdsAt, Slice.way_putWay_ne hj, Slice.holdsAt]
      rw [hp]
      split at h
      case h_1 r hr =>
        obtain ⟨hjk, -⟩ := Slice.holdsAt_eq_some.mp (hr.trans h)
        exact absurd hjk hj
      case h_2 hr => exact ih h

end IntPasses

end Sys2Proof.Machine

/-! SUPPORT. Port reports and tickets. -/

namespace Sys2Proof.Machine

section Reports

variable {s : State} {i j : SliceId} {k : Nat} {e : Entry} {l : Line} {a : AgentId} {t : Ticket} {t0 : Nat} {v : Bool} {p : PortRpt}
  {chk : PassCheck}

/-! ## HD follows a report (R68) -/

/-- An entry with HD as a report gives it. -/
def Entry.withHd (e : Entry) (v : Bool) : Entry := if e.hd = v then e else { e with hd := v, dirty := true }

theorem Entry.withHd_holders : (e.withHd v).holders = e.holders := by unfold Entry.withHd; split <;> rfl
theorem State.purged_withHd : s.purged (e.withHd v) = s.purged e := by unfold Entry.withHd; split <;> rfl

theorem State.findWay_putHd (h : (s.sl i).findWay l = some (k, e)) : ((s.putHd i l v).sl i).findWay l = some (k, e.withHd v) := by
  simp only [State.putHd, h, Entry.withHd]
  split
  · exact h
  · rw [State.sl_modSl_self]
    exact Slice.findWay_putWay h (Slice.way_of_findWay h).2

theorem State.putHd_frame : (s.putHd i l v).atts = s.atts ∧ (s.putHd i l v).ports = s.ports ∧ (s.putHd i l v).agents = s.agents
    ∧ (s.putHd i l v).regs = s.regs := by
  have hoff : s.agreeOff [.slices] (s.putHd i l v) := State.agreeOff_of_kept (by decide) State.putHd_kept
  exact ⟨hoff .atts (by decide), hoff .ports (by decide), hoff .agents (by decide), hoff .regs (by decide)⟩

/-- A line none of whose holders departs is left as it is (R433). -/
theorem State.purgeLine_of_stay (h : (s.sl i).findWay l = some (k, e)) (hp : (s.purged e).1 = e.holders) : s.purgeLine i l = s := by
  simp only [State.purgeLine, h, hp, if_true]

theorem State.purged_congr {u : State} (h : u.agents = s.agents) : u.purged e = s.purged e := by
  have ha : ∀ a, u.agent a = s.agent a := fun a => by rw [State.agent, h, State.agent]
  simp only [State.purged, ha]

theorem State.rptPass_stay (hh : p.htag = none) (hs : s.serves i (bucketOf p.line) = true)
    (hw : (s.sl i).findWay p.line = some (k, e)) (hp : (s.purged e).1 = e.holders) :
    s.rptPass i p = s.putHd i p.line p.hdirty := by
  simp only [State.rptPass, hh, hs, if_true]
  refine State.purgeLine_of_stay (State.findWay_putHd hw) ?_
  rw [State.purged_congr State.putHd_frame.2.2.1, State.purged_withHd, Entry.withHd_holders, hp]

/-! ## Tickets (R142) -/

theorem State.mem_rosterClock {w : Ticket} (h : w ∈ ((s.rosterClock i).sl i).roster) : ∃ v ∈ (s.sl i).roster, w.agent = v.agent := by
  rw [State.rosterClock, State.sl_setSl_self] at h
  obtain ⟨v, hv, rfl⟩ := List.mem_map.mp h
  exact ⟨v, hv, (apply_ite Ticket.agent _ _ _).trans (ite_self _)⟩

/-- An agent whose ticket has ended has none. -/
theorem State.not_mem_endTicket {w : Ticket} (h : w ∈ ((s.endTicket i a).sl i).roster) : w.agent ≠ a := by
  obtain ⟨v, hv, hw⟩ := State.mem_rosterClock h
  rw [State.sl_modSl_self] at hv
  simpa [hw] using (List.mem_filter.mp hv).2

theorem State.endTicket_frame : s.agreeOff [.slices] (s.endTicket i a) := State.agreeOff_of_kept (by decide) State.endTicket_kept

theorem State.endTicket_sl_ne (h : j ≠ i) : (s.endTicket i a).sl j = s.sl j := by
  rw [State.endTicket, State.rosterClock, State.sl_setSl, if_neg h, State.sl_modSl, if_neg h]

/-- A ticket has expired, and is counted. -/
def State.ticketOut (s : State) (i : SliceId) (a : AgentId) (t0 : Nat) : State :=
  (((s.reach (t0 + 50000)).endTicket i a).incF (Fld.sl i 0x244 16 16)).fire (evSl i 10)

theorem execTicketExpiry_due (hg : s.passGo i = true) (ht : (s.sl i).roster.find? (fun u => decide (u.agent = a)) = some t)
    (h0 : t.since = some t0) (hn : t.shown = false) : execTicketExpiry i a s = .next (s.ticketOut i a t0) := by
  simp [execTicketExpiry, ht, h0, hg, hn, State.ticketOut]

theorem State.ticketOut_sl : (s.ticketOut i a t0).sl j = ((s.reach (t0 + 50000)).endTicket i a).sl j := by simp [State.ticketOut]

theorem State.ticketOut_now : (s.ticketOut i a t0).now = max s.now (t0 + 50000) := by
  have hp : ((s.reach (t0 + 50000)).endTicket i a).plinth = (s.reach (t0 + 50000)).plinth := State.endTicket_frame .plinth (by decide)
  simp only [State.ticketOut, State.fire_now, State.incF_now]
  rw [State.now, hp, State.plinth_now_reach, State.now]

theorem State.ticketOut_fld : (s.ticketOut i a t0).fld (Fld.sl i 0x244 16 16) = min 65535 (s.fld (Fld.sl i 0x244 16 16) + 1) := by
  have hr : ((s.reach (t0 + 50000)).endTicket i a).regs = s.regs :=
    (State.endTicket_frame .regs (by decide)).trans State.reach_regs
  rw [State.ticketOut, State.fire_fld, State.fld_incF (by simp [Fld.sl]), State.fld, State.reg, hr]
  rfl

theorem State.ticketOut_frame : (s.ticketOut i a t0).atts = s.atts ∧ (s.ticketOut i a t0).ports = s.ports
    ∧ (s.ticketOut i a t0).agents = s.agents := by
  have hoff := State.endTicket_frame (s := s.reach (t0 + 50000)) (i := i) (a := a)
  refine ⟨?_, ?_, ?_⟩
  · rw [State.ticketOut, State.fire_atts, State.incF_atts, hoff .atts (by decide), State.reach_atts]
  · rw [State.ticketOut, State.fire_ports, State.incF_ports, hoff .ports (by decide), State.reach_ports]
  · rw [State.ticketOut, State.fire_agents, State.incF_agents, hoff .agents (by decide), State.reach_agents]

end Reports

/-- Settles O26. The passes are those of the head of INT; a report changes HD alone where every holder stays, and a ticket that
expires leaves the roster. -/
theorem reportsRetriesAndTickets : Obligations.ReportsRetriesAndTickets := by
  unfold Obligations.ReportsRetriesAndTickets
  refine ⟨⟨fun i chk p rest s hg hh => congrArg _ (State.intPass_head hg hh rfl), fun i chk p s => ⟨fun h hh => ?_, ?_⟩⟩,
    fun i chk rest s hg hh => congrArg _ (State.intPass_head hg hh rfl), ?_⟩
  · simp only [State.runPass, State.rptPass, hh]
  · intro k e hh hs hw hp
    obtain ⟨hatts, hports, hagents, hregs⟩ := State.putHd_frame (s := s) (i := i) (l := p.line) (v := p.hdirty)
    rw [State.runPass, State.rptPass_stay hh hs hw hp]
    exact ⟨State.findWay_putHd hw, hatts, hports, hagents, hregs⟩
  · intro i t t0 s hg ht h0 hn
    obtain ⟨hatts, hports, hagents⟩ := State.ticketOut_frame (s := s) (i := i) (a := t.agent) (t0 := t0)
    refine ⟨_, execTicketExpiry_due hg ht h0 hn, fun v hv => ?_, State.ticketOut_now, State.ticketOut_fld, fun j hj => ?_, hatts,
      hports, hagents⟩
    · rw [State.ticketOut_sl] at hv
      exact State.not_mem_endTicket hv
    · rw [State.ticketOut_sl, State.endTicket_sl_ne hj, State.reach_sl]

end Sys2Proof.Machine

/-! SUPPORT. The final states of R114: whom they name. -/

namespace Sys2Proof.Machine

section FinalStates

variable {op : Op} {q : ReqHdr} {near ok own : Bool} {h : List AgentId} {a b : AgentId}

theorem mem_addAgent (hb : b ∈ addAgent a h) : b = a ∨ b ∈ h := by
  induction h with
  | nil => exact Or.inl (List.mem_singleton.mp hb)
  | cons c cs ih =>
    rw [addAgent] at hb
    split at hb
    · exact List.mem_cons.mp hb
    · split at hb
      · exact Or.inr hb
      · rcases List.mem_cons.mp hb with rfl | hb
        · exact Or.inr List.mem_cons_self
        · exact (ih hb).imp id (List.mem_cons_of_mem c)

/-- What a final state can be: the requester alone, no holder, the state found, the holders found in S, with the requester or
without it. -/
theorem finalOf_cases : (∃ e, finalOf op q near ok own h = (e, [q.agent])) ∨ finalOf op q near ok own h = (false, [])
    ∨ finalOf op q near ok own h = (own, h) ∨ finalOf op q near ok own h = (false, h)
    ∨ finalOf op q near ok own h = (false, addAgent q.agent h)
    ∨ ∃ c, finalOf op q near ok own h = (own && c, h.filter (fun b => decide (b ≠ q.agent))) := by
  cases op with
  | rdOwn => exact Or.inl ⟨true, rfl⟩
  | hatom | wrFull => exact Or.inr (Or.inl rfl)
  | rdCur | rsvRd | conflict | fence => exact Or.inr (Or.inr (Or.inl rfl))
  | rdShared => exact Or.inr (Or.inr (Or.inr (Or.inr (Or.inl rfl))))
  | evictClean => exact Or.inr (Or.inr (Or.inr (Or.inr (Or.inr ⟨_, rfl⟩))))
  | rdAtomic => cases near <;> simp [finalOf]
  | condWr => cases ok <;> simp [finalOf]
  | wrKeep => cases hE : keepsE q <;> simp [finalOf, hE]
  | wrPartial => cases hE : keepsE q <;> cases hS : keepsS q <;> simp [finalOf, hE, hS]
  | inv =>
    cases hE : keepsE q <;> cases hS : keepsS q <;> simp only [finalOf, hE, hS, if_true, if_false, Bool.false_eq_true]
    · simp
    · split <;> simp
    · simp
    · simp

/-- A final state E has one holder: the requester, or the holder there was. -/
theorem finalOf_own_length (ho : own = true → h.length ≤ 1) (hf : (finalOf op q near ok own h).1 = true) :
    (finalOf op q near ok own h).2.length ≤ 1 := by
  rcases finalOf_cases (op := op) (q := q) (near := near) (ok := ok) (own := own) (h := h)
    with ⟨e, he⟩ | he | he | he | he | ⟨c, he⟩ <;> rw [he] at hf ⊢
  · exact Nat.le_refl 1
  · cases hf
  · exact ho hf
  · cases hf
  · cases hf
  · exact (List.length_filter_le _ h).trans (ho (Bool.and_eq_true_iff.mp hf).1)

/-- A final state names the requester and holders there were. -/
theorem mem_finalOf (hb : b ∈ (finalOf op q near ok own h).2) : b = q.agent ∨ b ∈ h := by
  rcases finalOf_cases (op := op) (q := q) (near := near) (ok := ok) (own := own) (h := h)
    with ⟨e, he⟩ | he | he | he | he | ⟨c, he⟩ <;> rw [he] at hb
  · exact Or.inl (List.mem_singleton.mp hb)
  · cases hb
  · exact Or.inr hb
  · exact Or.inr hb
  · exact mem_addAgent hb
  · exact Or.inr (List.mem_filter.mp hb).1

/-- Flows that take a line for their requester alone, or write it. -/
def Op.snoopsOut (op : Op) : Prop := op = .rdOwn ∨ op = .wrFull ∨ op = .wrKeep ∨ op = .wrPartial ∨ op = .hatom

/-- A flow that snoops its line's holders out leaves none of them. -/
theorem mem_finalOf_of_snoopsOut (ho : op.snoopsOut) (hb : b ∈ (finalOf op q near ok own h).2) : b = q.agent := by
  rcases ho with rfl | rfl | rfl | rfl | rfl
  · exact List.mem_singleton.mp hb
  · cases hb
  · dsimp only [finalOf] at hb
    split at hb <;> exact List.mem_singleton.mp hb
  · dsimp only [finalOf] at hb
    split at hb
    · exact List.mem_singleton.mp hb
    · split at hb
      · exact List.mem_singleton.mp hb
      · cases hb
  · cases hb

/-- It snoops each of them. -/
theorem mem_targets_of_snoopsOut (ho : op.snoopsOut) (hb : b ∈ h) (hq : b ≠ q.agent) :
    b ∈ (planOf op q near ok own h).targets := by
  have hf : b ∈ h.filter (fun c => decide (c ≠ q.agent)) := List.mem_filter.mpr ⟨hb, decide_eq_true hq⟩
  rcases ho with rfl | rfl | rfl | rfl | rfl
  · exact hf
  · exact hf
  · exact hf
  · exact hf
  · exact hb

end FinalStates

/-- Settles O27, by the rows of R114. -/
theorem finalStatesKeepOneOwner : Obligations.FinalStatesKeepOneOwner := by
  unfold Obligations.FinalStatesKeepOneOwner
  intro op q near ok own h ho
  exact ⟨fun hf => finalOf_own_length ho hf, fun b hb => mem_finalOf hb, fun hs =>
    ⟨fun b hb => mem_finalOf_of_snoopsOut hs hb, fun b hb hq => mem_targets_of_snoopsOut hs hb hq⟩⟩

end Sys2Proof.Machine

/-! SUPPORT. A scan's bucket read whose pass lets a waiting write of the same bucket go. -/

namespace Sys2Proof.Machine

section ScanBehindWrite

/-- A write of bucket 0 that transit entry 3 has asked for. -/
def waitingWrite : CastCmd := { slice := 0, transit := 3, addr := 0, data := some 1, again := false, rank := 2 }

/-- Bucket 0 as it was read, before that write. -/
def readBefore : BucketRead := { status := .ok, data := 0 }

/-- Slice 0 has a read of bucket 0 out for its rebuild scan, and the write waits for the bucket behind it (R88). -/
def scanBeforeWrite : State :=
  State.reset.setSl 0 { Slice.reset with active := true, locks := [(0, 18)], castQ := [waitingWrite], scanRds := [(18, { out := 1, rds := [] })] }

/-- The read gives its bucket to the write, after which what was read of the bucket no longer counts. -/
theorem scanOf_readPass_scanBeforeWrite :
    ((scanBeforeWrite.runPass 0 (.castRd 18 0 readBefore) .clean).sl 0).scanOf 18 = { out := 0, rds := [] } := by
  decide +kernel

theorem scanOf_scanBeforeWrite : (scanBeforeWrite.sl 0).scanOf 18 = { out := 1, rds := [] } := by decide +kernel

end ScanBehindWrite

/-- Refutes O28: the clause of a scan's read has no premise that no write of its bucket waits. Where one waits, the pass of the read
lets it go, and a bucket that is being written is no longer kept for the scan (R88, R92). -/
theorem not_castStorePassesReachTheirEntry : ¬ Obligations.CastStorePassesReachTheirEntry := by
  unfold Obligations.CastStorePassesReachTheirEntry
  rintro ⟨-, ⟨hscan, -⟩, -⟩
  have h := hscan 0 .clean 18 0 readBefore scanBeforeWrite (Nat.le_refl 18)
  rw [scanOf_readPass_scanBeforeWrite, scanOf_scanBeforeWrite] at h
  cases h

end Sys2Proof.Machine

/-! SUPPORT. The start of a capacity recall and of a broadcast recovery. -/

namespace Sys2Proof.Machine

section Recoveries

variable {s : State} {i j : SliceId} {n t : Nat} {l a : Line} {x : Slice} {y : Slot} {chk : PassCheck} {mkr : Option (BitVec 32)}
  {r : Req} {as : List AgentId} {op : SnpOp} {v : Transit}

/-! ## What of a slice a flow and its transit entry rest on -/

/-- The slots and the transit buffer. -/
def Slice.work (x : Slice) : Store (Option Slot) × Store (Option Transit) := (x.slots, x.transit)

theorem Slice.work_inj {x y : Slice} : x.work = y.work ↔ x.slots = y.slots ∧ x.transit = y.transit := Prod.mk_inj

theorem State.work_modSl {f : Slice → Slice} (hf : ∀ x, (f x).work = x.work) : ((s.modSl j f).sl i).work = (s.sl i).work :=
  State.view_modSl hf

theorem State.work_loseRsv {p : Rsv → Bool} : ((s.loseRsv j p).sl i).work = (s.sl i).work := by
  rw [State.loseRsv, State.addF_sl]
  exact State.work_modSl fun _ => rfl

theorem State.work_rosterClock : ((s.rosterClock j).sl i).work = (s.sl i).work := by
  rw [State.rosterClock, State.sl_setSl]
  split
  case isTrue h => rw [h]; rfl
  case isFalse => rfl

theorem State.work_endEsc : ((s.endEsc j r).sl i).work = (s.sl i).work := by
  unfold State.endEsc
  dsimp only
  split
  · rw [State.endTicket, State.work_rosterClock]
    exact (State.work_modSl fun _ => by rfl).trans (State.work_modSl fun _ => by rfl)
  · rfl

theorem State.work_kickEsc : ((s.kickEsc j).sl i).work = (s.sl i).work := by
  unfold State.kickEsc
  dsimp only
  split
  · rfl
  · exact State.work_modSl fun _ => rfl

theorem State.routePull_slices {k : AttId} {p : Pull} : (s.routePull k p).slices = s.slices := by
  unfold State.routePull
  dsimp only
  split <;> rfl

theorem Slice.work_tidyChain : (x.tidyChain l).work = x.work := by
  unfold Slice.tidyChain
  split
  · split <;> rfl
  · rfl

/-! ## Accesses to the cast store (R88) -/

theorem State.sendCast_slices {c : CastCmd} : (s.sendCast c).slices = s.slices := by
  unfold State.sendCast
  dsimp only
  split <;> rfl

/-- An access that goes changes what the slice has of its bucket, and what a scan has read of it. -/
theorem State.view_castGo {γ : Type} {view : Slice → γ} {c : CastCmd}
    (hv : ∀ (x : Slice) r k, view { x with scanRds := r, locks := k } = view x) : view ((s.castGo j c).sl i) = view (s.sl i) := by
  rw [State.castGo, State.sl, State.sendCast_slices, ← State.sl]
  refine State.view_modSl fun x => ?_
  dsimp only
  split
  · exact hv x _ _
  · exact hv x x.scanRds _

theorem State.work_castGo {c : CastCmd} : ((s.castGo j c).sl i).work = (s.sl i).work := State.view_castGo fun _ _ _ => rfl

/-- A read is counted in its transit entry. -/
theorem State.work_castRead : ((s.castRead i t a).sl i).work
    = ((s.sl i).putTr t (((s.sl i).tr t).map (fun v => { v with reads := v.reads + 1 }))).work := by
  unfold State.castRead
  dsimp only
  split
  · rw [State.work_modSl fun _ => by rfl, State.sl_modSl_self]
  · rw [State.work_castGo, State.sl_modSl_self]

theorem State.castRead_slots : ((s.castRead i t a).sl i).slots = (s.sl i).slots := (Slice.work_inj.mp State.work_castRead).1

theorem Slice.tr_of_work {x y : Slice} (h : x.work = y.work) : x.tr t = y.tr t := by
  rw [Slice.tr, (Slice.work_inj.mp h).2, Slice.tr]

theorem Slice.slot_of_work {x y : Slice} (h : x.work = y.work) : x.slot n = y.slot n := by
  rw [Slice.slot, (Slice.work_inj.mp h).1, Slice.slot]

theorem Slice.tr_putTr {o : Option Transit} : (x.putTr t o).tr t = o := Store.get_set_self

theorem State.castRead_tr : ((s.castRead i t a).sl i).tr t = ((s.sl i).tr t).map (fun v => { v with reads := v.reads + 1 }) := by
  rw [Slice.tr_of_work State.work_castRead, Slice.tr_putTr]

theorem State.readPair_slots : ((s.readPair i t l).sl i).slots = (s.sl i).slots := by
  rw [State.readPair, State.castRead_slots, State.castRead_slots]

/-- A fetch, an update or a delete waits for two reads. -/
theorem State.readPair_tr : ((s.readPair i t l).sl i).tr t = ((s.sl i).tr t).map (fun v => { v with reads := v.reads + 2 }) := by
  rw [State.readPair, State.castRead_tr, State.castRead_tr, Option.map_map]
  rfl

/-! ## Snoops of a flow (R104, R147) -/

theorem State.work_putPin {b : Bool} : ((s.putPin j l b).sl i).work = (s.sl i).work := by
  unfold State.putPin
  split
  · split
    · rfl
    · exact State.work_modSl fun _ => rfl
  · rfl

theorem State.work_queueSnoop {b : AgentId} : ((s.queueSnoop i n b).sl i).work = (s.sl i).work := State.work_modSl fun _ => rfl

theorem State.work_queueSnoops : ((as.foldl (fun s a => s.queueSnoop i n a) s).sl i).work = (s.sl i).work :=
  List.foldlRecOn (motive := fun u : State => (u.sl i).work = (s.sl i).work) as _ rfl fun _ hu _ _ => State.work_queueSnoop.trans hu

/-- A slot but for the writes that are served inside its flow. -/
def Slot.flow (y : Slot) : Slot := { y with srws := [], rpts := [] }

/-- Slot n but for those writes, and the transit buffer. -/
def State.flowOf (s : State) (i : SliceId) (n : Nat) : Option Slot × Store (Option Transit) :=
  (((s.sl i).slot n).map Slot.flow, (s.sl i).transit)

theorem State.flowOf_of_work {u : State} (h : (u.sl i).work = (s.sl i).work) : u.flowOf i n = s.flowOf i n := by
  rw [State.flowOf, Slice.slot_of_work h, (Slice.work_inj.mp h).2, State.flowOf]

theorem State.flowOf_modSlot {f : Slot → Slot} (hf : ∀ y, (f y).flow = y.flow) : (s.modSlot i n f).flowOf i n = s.flowOf i n := by
  have hc : Slot.flow ∘ f = Slot.flow := funext hf
  rw [State.flowOf, State.slot_modSlot, Option.map_map, hc, State.modSlot, State.sl_modSl_self]
  rfl

/-- A write that is served inside a flow leaves the rest of the flow as it is. -/
theorem State.flowOf_snoopWrite : (s.snoopWrite i n r).flowOf i n = s.flowOf i n := by
  unfold State.snoopWrite
  dsimp only [State.nextTag]
  rw [State.flowOf_modSlot fun _ => by rfl]
  refine State.flowOf_of_work ?_
  have hcmd : ∀ c : MemCmd, ((((s.nextTag i).1.loseRsv i (fun v => decide (v.line = r.q.laddr) && decide (v.agent ≠ r.q.agent))).sendCmd
      c).sl i).work = (s.sl i).work := fun c => by
    rw [State.sendCmd_sl, State.work_loseRsv]
    exact State.work_modSl fun _ => rfl
  split
  · rw [State.sl, State.routePull_slices, ← State.sl]
    exact hcmd _
  · exact hcmd _

theorem State.flowOf_claimWrites : (s.claimWrites i n as).flowOf i n = s.flowOf i n := by
  unfold State.claimWrites
  split
  · rfl
  · refine iteInduction (motive := fun u : State => u.flowOf i n = s.flowOf i n) (fun _ => rfl) fun _ => ?_
    rw [State.flowOf_of_work State.work_kickEsc]
    refine List.foldlRecOn (motive := fun u : State => u.flowOf i n = s.flowOf i n) _ _ ?_ fun u hu c _ => ?_
    · refine State.flowOf_of_work ?_
      rw [State.sl_setSl_self, Slice.work_tidyChain]
      rfl
    · rw [State.flowOf_snoopWrite, State.flowOf_of_work State.work_endEsc, hu]

/-- A flow's snoops are queued, and known to its slot. -/
theorem State.flowOf_sendSnoops : (s.sendSnoops i n op as).flowOf i n = (s.modSlot i n (fun y =>
    { (y.smp (fun m => { m with snoops := as.length })) with snoops := y.snoops ++ as.map (Snoop.fresh op) })).flowOf i n := by
  rw [State.sendSnoops, State.flowOf_claimWrites, State.flowOf_of_work State.work_queueSnoops]

/-! ## The start of a recovery (R383) -/

/-- The slot of a recovery as it begins. -/
def Slot.recovery (l : Line) (mkr : Option (BitVec 32)) (t : Nat) : Slot :=
  { Slot.fresh .recover l none with decided := true, marker := mkr, fetchT := some t }

/-- A recovery has taken its slot and its transit entry. -/
def State.recoverTaken (s : State) (i : SliceId) (n t : Nat) (l : Line) (mkr : Option (BitVec 32)) : State :=
  s.modSl i (fun y => { ((y.putSlot n (some (Slot.recovery l mkr t))).putTr t (some (Transit.mk0 .fetch (Entry.blank l)))) with
    handing := y.handing.erase l })

/-- A recovery reads its record and snoops. -/
def State.recoverBegun (s : State) (i : SliceId) (n t : Nat) (l : Line) (mkr : Option (BitVec 32)) : State :=
  let u := (((s.recoverTaken i n t l mkr).count (cSl i 11) 1).readPair i t l).putPin i l true
  u.sendSnoops i n .inv u.liveAgents

theorem State.recoverIn_eq : s.recoverIn i n t l mkr = (s.recoverBegun i n t l mkr).advance i n := rfl

theorem State.recoverTaken_slot : ((s.recoverTaken i n t l mkr).sl i).slot n = some (Slot.recovery l mkr t) := by
  rw [State.recoverTaken, State.sl_modSl_self]
  exact Store.get_set_self

theorem State.recoverTaken_tr : ((s.recoverTaken i n t l mkr).sl i).tr t = some (Transit.mk0 .fetch (Entry.blank l)) := by
  rw [State.recoverTaken, State.sl_modSl_self]
  exact Store.get_set_self

theorem State.recoverRead_agents :
    ((((s.recoverTaken i n t l mkr).count (cSl i 11) 1).readPair i t l).putPin i l true).agents = s.agents := by
  have hpair : ∀ u : State, (u.readPair i t l).agents = u.agents := fun u =>
    State.agreeOff_of_kept (T := [.regs, .slices, .ports, .mesh]) (by decide) State.readPair_kept .agents (by decide)
  have hpin : ∀ u : State, (u.putPin i l true).agents = u.agents := fun u =>
    State.agreeOff_of_kept (T := [.slices]) (by decide) State.putPin_kept .agents (by decide)
  rw [hpin, hpair, State.count_agents]
  rfl

theorem State.liveAgents_congr {u : State} (h : u.agents = s.agents) : u.liveAgents = s.liveAgents := by
  rw [State.liveAgents, h, State.liveAgents]

theorem State.recoverBegun_agents : (s.recoverBegun i n t l mkr).agents = s.agents := by
  have hsend : ∀ (u : State) (as : List AgentId), (u.sendSnoops i n .inv as).agents = u.agents := fun u as =>
    State.agreeOff_of_kept (T := [.regs, .atts, .slices, .ports, .mesh, .events, .cnts]) (by decide) State.sendSnoops_kept .agents
      (by decide)
  rw [State.recoverBegun, hsend, State.recoverRead_agents]

/-- The reads of a recovery's record are out, and its line is pinned. -/
theorem State.recoverRead_work :
    (((((s.recoverTaken i n t l mkr).count (cSl i 11) 1).readPair i t l).putPin i l true).sl i).slot n = some (Slot.recovery l mkr t)
    ∧ (((((s.recoverTaken i n t l mkr).count (cSl i 11) 1).readPair i t l).putPin i l true).sl i).tr t
      = some { Transit.mk0 .fetch (Entry.blank l) with reads := 2 } := by
  constructor
  · rw [Slice.slot_of_work State.work_putPin, Slice.slot, State.readPair_slots, State.count_sl_slots, ← Slice.slot,
      State.recoverTaken_slot]
  · rw [Slice.tr_of_work State.work_putPin, State.readPair_tr, Slice.tr, State.count_sl_transit, ← Slice.tr, State.recoverTaken_tr]
    rfl

theorem State.flowOf_inj {u : State} (h : u.flowOf i n = s.flowOf i n) : ((u.sl i).slot n).map Slot.flow = ((s.sl i).slot n).map Slot.flow
    ∧ (u.sl i).tr t = (s.sl i).tr t := by
  obtain ⟨h1, h2⟩ := Prod.mk_inj.mp h
  exact ⟨h1, by rw [Slice.tr, h2, Slice.tr]⟩

theorem State.modSlot_tr {f : Slot → Slot} : ((s.modSlot i n f).sl i).tr t = (s.sl i).tr t := by
  rw [State.modSlot, State.sl_modSl_self]
  rfl

/-- The slot and the transit entry of a recovery that has begun. -/
theorem State.recoverBegun_work : (∃ y, ((s.recoverBegun i n t l mkr).sl i).slot n = some y
      ∧ y.flow = { Slot.recovery l mkr t with snoops := s.liveAgents.map (Snoop.fresh .inv) })
    ∧ ((s.recoverBegun i n t l mkr).sl i).tr t = some { Transit.mk0 .fetch (Entry.blank l) with reads := 2 } := by
  obtain ⟨hslot, htr⟩ := State.recoverRead_work (s := s) (i := i) (n := n) (t := t) (l := l) (mkr := mkr)
  obtain ⟨h1, h2⟩ := State.flowOf_inj (t := t) (State.flowOf_sendSnoops (i := i) (n := n) (op := .inv) (as := s.liveAgents)
    (s := (((s.recoverTaken i n t l mkr).count (cSl i 11) 1).readPair i t l).putPin i l true))
  rw [State.slot_modSlot, hslot] at h1
  rw [State.modSlot_tr, htr] at h2
  rw [State.recoverBegun, State.liveAgents_congr State.recoverRead_agents]
  obtain ⟨y, hy, hf⟩ := Option.map_eq_some_iff.mp h1
  exact ⟨⟨y, hy, hf⟩, h2⟩

/-- A recovery whose record has not come waits. -/
theorem State.advance_of_fetching (hy : (s.sl i).slot n = some y) (hf : y.flow = { Slot.recovery l mkr t with snoops := y.snoops }) :
    s.advance i n = s := by
  have hb : y.busy = .recover := congrArg Slot.busy hf
  have hp : y.poison = false := congrArg Slot.poison hf
  have hr : y.released = false := congrArg Slot.released hf
  have hd : y.decided = true := congrArg Slot.decided hf
  have hx : y.fetched = false := congrArg Slot.fetched hf
  have hpsn : s.flowPoison i n = s := by simp [State.flowPoison, hy, hp]
  simp [State.advance, hpsn, hy, hr, hd, hb, State.advanceRecover, hx]

theorem State.recoverIn_begins : s.recoverIn i n t l mkr = s.recoverBegun i n t l mkr := by
  obtain ⟨⟨y, hy, hf⟩, -⟩ := State.recoverBegun_work (s := s) (i := i) (n := n) (t := t) (l := l) (mkr := mkr)
  have hs : y.snoops = s.liveAgents.map (Snoop.fresh .inv) := congrArg Slot.snoops hf
  rw [State.recoverIn_eq, State.advance_of_fetching hy (hf.trans (by rw [hs]))]

theorem State.recoverPass_begins (hn : (s.sl i).slotFor l .recover = some n) (ht : (s.sl i).freeTr = some t)
    (hr : (s.sl i).recoveries < 2) : s.recoverPass i l mkr = s.recoverBegun i n t l mkr := by
  rw [← State.recoverIn_begins]
  simp only [State.recoverPass, hn, ht, hr, or_true, if_true]

/-- Without a slot or a transit entry a recovery waits, holding its line. -/
theorem State.recoverPass_waits (h : (s.sl i).slotFor l .recover = none ∨ (s.sl i).freeTr = none) :
    s.recoverPass i l mkr = s.modSl i (fun x => { x with jobPark := x.jobPark ++ [(l, .recover mkr)] }) := by
  unfold State.recoverPass
  dsimp only
  split
  case h_1 n t hn ht =>
    rcases h with h | h
    · rw [hn] at h; cases h
    · rw [ht] at h; cases h
  case h_2 => rfl

/-! ## The start of a capacity recall (R94, R124) -/

theorem State.recallPass_slot (hv : (s.sl i).tr t = some v) (hc : chk.transit = .clean)
    (hn : (s.sl i).slotFor v.e.line .recall = some n) : s.recallPass i t chk = s.recallIn i n t v := by
  simp [State.recallPass, hv, hc, hn]

theorem State.recallPass_waits (hv : (s.sl i).tr t = some v) (hc : chk.transit = .clean)
    (hn : (s.sl i).slotFor v.e.line .recall = none) :
    s.recallPass i t chk = s.modSl i (fun x => { x with jobPark := x.jobPark ++ [(v.e.line, .recall t)] }) := by
  simp [State.recallPass, hv, hc, hn]

end Recoveries

/-- Settles O29. A recall or a recovery that has what it needs begins in its slot, and one that has not waits; the slot of a recovery
and its transit entry stay as they begin, as its snoops are queued and its record is asked for. -/
theorem recallsAndRecoveriesStart : Obligations.RecallsAndRecoveriesStart := by
  unfold Obligations.RecallsAndRecoveriesStart
  refine ⟨⟨fun i chk t rest s hg hh => congrArg _ (State.intPass_head hg hh rfl),
    fun i chk l mkr rest s hg hh => congrArg _ (State.intPass_head hg hh rfl)⟩,
    fun i chk t v s hv hc => ⟨fun n hn => State.recallPass_slot hv hc hn, fun hn => State.recallPass_waits hv hc hn⟩,
    fun i chk l mkr s => ⟨fun n t hn ht hr => ?_, State.recoverPass_waits⟩⟩
  have hbegun : s.runPass i (.recoverStart l mkr) chk = s.recoverBegun i n t l mkr := State.recoverPass_begins hn ht hr
  obtain ⟨⟨y, hy, hf⟩, htr⟩ := State.recoverBegun_work (s := s) (i := i) (n := n) (t := t) (l := l) (mkr := mkr)
  rw [hbegun, htr]
  exact ⟨y, hy, congrArg Slot.busy hf, congrArg Slot.line hf, congrArg Slot.snoops hf, congrArg Slot.marker hf,
    congrArg Slot.fetchT hf, rfl, rfl, State.recoverBegun_agents⟩

end Sys2Proof.Machine

/-! SUPPORT. Steps of a silhouette rebuild and of an admission scan, and the clocks of a slice. -/

namespace Sys2Proof.Machine

section Scans

variable {s t : State} {i j : SliceId} {k n p q pos h : Nat} {b : BitVec 12} {l a : Line} {x y : Slice} {d : LineData}
  {rd : BucketRead} {rc : Bool} {g : Nat}

/-! ## The silhouette filter (R90, R92) -/

/-- A silhouette counter rises. -/
def silRaise (m : Store (BitVec 4)) (k : Nat) : Store (BitVec 4) :=
  Store.set 0 m k (if (Store.get 0 m k).toNat = 15 then 15 else BitVec.ofNat 4 ((Store.get 0 m k).toNat + 1))

/-- A line's counters rise, and nothing else of the slice changes. -/
theorem Slice.silUp_eq : x.silUp l = { x with sil := (silIdx l).foldl silRaise x.sil } := by
  unfold Slice.silUp
  generalize silIdx l = ks
  induction ks generalizing x with
  | nil => rfl
  | cons c ks ih => exact ih

theorem Slice.startRebuild_bypass : x.startRebuild.bypass = x.bypass := by
  unfold Slice.startRebuild
  refine List.foldlRecOn (motive := fun y : Slice => y.bypass = x.bypass) _ _ rfl fun y hy c _ => ?_
  rw [Slice.silUp_eq]
  exact hy

theorem State.stickyCheck_bypass : ((s.stickyCheck i).sl i).bypass = (s.sl i).bypass := by
  unfold State.stickyCheck
  dsimp only
  split
  · rw [State.sl_modSl_self, Slice.startRebuild_bypass, State.evLevel_sl]
  · rw [State.evLevel_sl]

/-! ## The records of a bucket are counted (R92, R93) -/

/-- One record of a bucket is counted. -/
def State.countHalf (s : State) (i : SliceId) (b : BitVec 12) (d : LineData) (rc : Bool) (h : Nat) : State :=
  let r := recAt d h
  if r.marker s.gen then s.modSl i (fun x => x.byp b)
  else if r.empty s.gen then s
  else s.modSl i (fun x => let y := x.silUp r.line; if rc then y.recs r.line 1 else y)

/-- The counters after a record of a bucket has been counted. -/
def Slice.countRec (g : Nat) (d : LineData) (x : Slice) (h : Nat) : Slice :=
  if (recAt d h).marker g = true ∨ (recAt d h).empty g = true then x else x.silUp (recAt d h).line

/-- The directory, the rebuild and the bypasses, which a count of records leaves alone. -/
def Slice.scans (x : Slice) : Store (Option Entry) × Option Nat × List Bypass := (x.dir, x.rebuild, x.bypass)

theorem Slice.scans_inj : x.scans = y.scans ↔ x.dir = y.dir ∧ x.rebuild = y.rebuild ∧ x.bypass = y.bypass := by
  simp only [Slice.scans, Prod.mk.injEq]

/-- A count of records changes the slice alone, and none of its entries and scans. -/
structure State.CountedIn (i : SliceId) (s t : State) : Prop where
  regs : t.regs = s.regs
  hmap : t.hmap = s.hmap
  cast : t.cast = s.cast
  scans : (t.sl i).scans = (s.sl i).scans

theorem State.countedIn_modSl {f : Slice → Slice} (hf : ∀ x, (f x).scans = x.scans) : State.CountedIn i s (s.modSl i f) :=
  ⟨rfl, rfl, rfl, by rw [State.sl_modSl_self, hf]⟩

theorem Slice.scans_byp : (x.byp b).scans = x.scans := by unfold Slice.byp; split <;> rfl

theorem State.countedIn_countHalf : State.CountedIn i s (s.countHalf i b d rc h) := by
  unfold State.countHalf
  dsimp only
  split
  · exact State.countedIn_modSl fun _ => Slice.scans_byp
  · split
    · exact ⟨rfl, rfl, rfl, rfl⟩
    · refine State.countedIn_modSl fun x => ?_
      rw [Slice.silUp_eq]
      split <;> rfl

theorem Slice.countRec_sil_congr (hx : x.sil = y.sil) : (Slice.countRec g d x h).sil = (Slice.countRec g d y h).sil := by
  unfold Slice.countRec
  split
  · exact hx
  · rw [Slice.silUp_eq, hx, Slice.silUp_eq (x := y)]

theorem State.countHalf_sil : ((s.countHalf i b d rc h).sl i).sil = (Slice.countRec s.gen d (s.sl i) h).sil := by
  unfold State.countHalf Slice.countRec
  dsimp only
  split
  case isTrue hm =>
    rw [if_pos (Or.inl hm), State.sl_modSl_self]
    unfold Slice.byp
    split <;> rfl
  case isFalse hm =>
    split
    case isTrue he => rw [if_pos (Or.inr he)]
    case isFalse he =>
      rw [if_neg (not_or.mpr ⟨hm, he⟩), State.sl_modSl_self]
      split <;> rfl

/-- Both records of a bucket are counted. -/
def State.counted (s : State) (i : SliceId) (b : BitVec 12) (d : LineData) (rc : Bool) : State :=
  (List.range 2).foldl (fun s h => s.countHalf i b d rc h) s

theorem State.countedIn_counted : State.CountedIn i s (s.counted i b d rc) := by
  refine List.foldlRecOn (motive := State.CountedIn i s) _ _ ⟨rfl, rfl, rfl, rfl⟩ fun u hu h _ => ?_
  have hc : State.CountedIn i u (u.countHalf i b d rc h) := State.countedIn_countHalf
  exact ⟨hc.regs.trans hu.regs, hc.hmap.trans hu.hmap, hc.cast.trans hu.cast, hc.scans.trans hu.scans⟩

theorem State.counted_sil : ((s.counted i b d rc).sl i).sil = ((List.range 2).foldl (Slice.countRec s.gen d) (s.sl i)).sil := by
  have hg : (s.countHalf i b d rc 0).gen = s.gen := by rw [State.gen, State.countedIn_countHalf.cast, State.gen]
  change (((s.countHalf i b d rc 0).countHalf i b d rc 1).sl i).sil = (Slice.countRec s.gen d (Slice.countRec s.gen d (s.sl i) 0) 1).sil
  rw [State.countHalf_sil, hg]
  exact Slice.countRec_sil_congr State.countHalf_sil

theorem readLoses_eq_false : readLoses rd g = false ↔ rd.status = .ok ∧ badHalves rd.data g = [] := by simp [readLoses]

/-- A bucket with no lost record needs no marker, and its records are counted. -/
theorem State.countBucket_of_good (hl : readLoses rd s.gen = false) : s.countBucket i b a rd rc = some (s.counted i b rd.data rc) := by
  obtain ⟨hok, hbad⟩ := readLoses_eq_false.mp hl
  simp only [State.countBucket, State.markerTr, hl, Bool.false_eq_true, if_false, Option.map_some, State.readBucket, hok, ne_eq,
    not_true_eq_false, hbad, State.markBucket, if_true]
  rfl

/-! ## Where a rebuild stands (R92) -/

theorem State.castN_congr (hr : t.regs = s.regs) : t.castN = s.castN := by
  have hf : ∀ f, t.fld f = s.fld f := fun f => by rw [State.fld, State.reg, hr, State.fld, State.reg]
  simp only [State.castN, State.castP, State.castA, State.castSize, hf]

theorem State.scans_congr (hm : t.hmap = s.hmap) : t.scans i b = s.scans i b := by
  rw [State.scans, State.moveOf, State.homeOf_of hm, hm]
  rfl

theorem State.rebuildAt_congr (hr : t.regs = s.regs) (hm : t.hmap = s.hmap) : t.rebuildAt i pos = s.rebuildAt i pos := by
  have hs : ∀ c, t.scans i c = s.scans i c := fun c => State.scans_congr hm
  simp only [State.rebuildAt, State.nextHomed, State.castN_congr hr, hs]

/-! ## Reads of a scan (R88) -/

/-- A view of a slice in which accesses to the cast store do not show. -/
def castBlind {γ : Type} (view : Slice → γ) : Prop :=
  ∀ (x : Slice) tr q k r, view { x with transit := tr, castQ := q, locks := k, scanRds := r } = view x

theorem State.view_castRead {γ : Type} {view : Slice → γ} (hv : castBlind view) :
    view ((s.castRead i k a).sl i) = view (s.sl i) := by
  have htr : view ((s.modSl i (fun x => x.putTr k ((x.tr k).map (fun v => { v with reads := v.reads + 1 })))).sl i) = view (s.sl i) :=
    State.view_modSl fun x => hv x _ x.castQ x.locks x.scanRds
  unfold State.castRead
  dsimp only
  split
  · exact (State.view_modSl fun x => hv x x.transit _ x.locks x.scanRds).trans htr
  · exact (State.view_castGo fun x r k => hv x x.transit x.castQ k r).trans htr

theorem State.view_scanFetch {γ : Type} {view : Slice → γ} (hv : castBlind view) :
    view ((s.scanFetch i k [a]).sl i) = view (s.sl i) := by
  unfold State.scanFetch
  split
  · exact (State.view_castRead hv).trans (State.view_modSl fun x => hv x x.transit x.castQ x.locks _)
  · rfl

theorem State.scanFetch_of_none_out (ho : ((s.sl i).scanOf k).out = 0) : s.scanFetch i k [a] = s.scanRead i k a := if_pos ho

/-! ## A step of a rebuild (R92) -/

theorem State.rebuildPass_end (hr : (s.sl i).rebuild = some pos) (ha : s.rebuildAt i pos = none) : s.rebuildPass i = s.rebuildEnd i := by
  simp only [State.rebuildPass, hr, ha]

theorem State.rebuildPass_read (hr : (s.sl i).rebuild = some pos) (ha : s.rebuildAt i pos = some p)
    (hs : (s.sl i).scanned 18 (s.rebuildAddr p) = none) (ho : ((s.sl i).scanOf 18).out = 0) :
    s.rebuildPass i = s.scanRead i 18 (s.rebuildAddr p) := by
  simp only [State.rebuildPass, hr, ha, hs, State.scanFetch_of_none_out ho]

/-- A rebuild stands at its next bucket. -/
def State.rebuildOn (s : State) (i : SliceId) (q : Nat) : State :=
  (s.modSl i (fun x => { (x.putScan 18 { x.scanOf 18 with rds := [] }) with rebuild := some q })).stickyCheck i

theorem State.rebuildOn_sl : (s.rebuildOn i q).sl i
    = { ((s.sl i).putScan 18 { (s.sl i).scanOf 18 with rds := [] }) with rebuild := some q } := by
  rw [State.rebuildOn, State.stickyCheck_sl (by rw [State.sl_modSl_self]; rfl), State.sl_modSl_self]

/-- A bucket that has come is counted, and the next one is read. -/
theorem State.rebuildPass_count (hr : (s.sl i).rebuild = some pos) (ha : s.rebuildAt i pos = some p) (hq : s.rebuildAt i (p + 1) = some q)
    (hs : (s.sl i).scanned 18 (s.rebuildAddr p) = some rd) (hb : (s.sl i).bucketBusy (s.rebuildAddr p) = false)
    (hl : readLoses rd s.gen = false) : ∃ u, s.rebuildPass i
      = (((s.counted i (BitVec.ofNat 12 (p / s.castN)) rd.data (s.sl i).recount)).rebuildOn i q).scanFetch i 18 [u] := by
  have hc : State.CountedIn i s (s.counted i (BitVec.ofNat 12 (p / s.castN)) rd.data (s.sl i).recount) := State.countedIn_counted
  have hq' := (State.rebuildAt_congr (i := i) (pos := p + 1) hc.regs hc.hmap).trans hq
  refine ⟨(s.counted i (BitVec.ofNat 12 (p / s.castN)) rd.data (s.sl i).recount).rebuildAddr q, ?_⟩
  simp only [State.rebuildPass, hr, ha, hs, hb, Bool.false_eq_true, if_false, State.countBucket_of_good hl, hq']
  rfl

theorem State.rebuildPass_counted (hr : (s.sl i).rebuild = some pos) (ha : s.rebuildAt i pos = some p)
    (hq : s.rebuildAt i (p + 1) = some q) (hs : (s.sl i).scanned 18 (s.rebuildAddr p) = some rd)
    (hb : (s.sl i).bucketBusy (s.rebuildAddr p) = false) (hl : readLoses rd s.gen = false) :
    ((s.rebuildPass i).sl i).rebuild = some q ∧ ((s.rebuildPass i).sl i).dir = (s.sl i).dir
      ∧ ((s.rebuildPass i).sl i).sil = ((List.range 2).foldl (Slice.countRec s.gen rd.data) (s.sl i)).sil := by
  obtain ⟨u, hu⟩ := State.rebuildPass_count hr ha hq hs hb hl
  have hc : State.CountedIn i s (s.counted i (BitVec.ofNat 12 (p / s.castN)) rd.data (s.sl i).recount) := State.countedIn_counted
  rw [hu]
  refine ⟨?_, ?_, ?_⟩
  · rw [State.view_scanFetch (view := Slice.rebuild) fun _ _ _ _ _ => rfl, State.rebuildOn_sl]
  · rw [State.view_scanFetch (view := Slice.dir) fun _ _ _ _ _ => rfl, State.rebuildOn_sl]
    exact (Slice.scans_inj.mp hc.scans).1
  · rw [State.view_scanFetch (view := Slice.sil) fun _ _ _ _ _ => rfl, State.rebuildOn_sl]
    exact State.counted_sil

/-! ## The end of a rebuild (R92, R325) -/

theorem State.evSend_msgs {v : Bool} (hr : evReserved n = false) (hn : n < 1952) :
    (s.evSend n v).events.msgs = s.events.msgs ++ [(BitVec.ofNat 11 n, v)] := by
  simp [State.evSend, hr, hn]

theorem State.evSend_msgs_subset {v : Bool} : s.events.msgs ⊆ (s.evSend n v).events.msgs := by
  unfold State.evSend
  split
  · exact fun _ hm => hm
  · split
    · exact List.subset_append_left _ _
    · exact fun _ hm => hm

/-- A one-shot happening of a slice is reported. -/
theorem State.mem_fire_msgs (hr : evReserved n = false) (hn : n < 1952) : (BitVec.ofNat 11 n, true) ∈ (s.fire n).events.msgs :=
  State.evSend_msgs_subset (by rw [State.evSend_msgs hr hn]; simp)

theorem State.stickyCheck_msgs_subset : s.events.msgs ⊆ (s.stickyCheck i).events.msgs := by
  have hl : ∀ v, s.events.msgs ⊆ (s.evLevel (evSl i 4) v).events.msgs := fun v => by
    unfold State.evLevel
    split
    · exact fun _ hm => hm
    · exact State.evSend_msgs_subset
  unfold State.stickyCheck
  dsimp only
  split
  · exact hl _
  · exact hl _

theorem evSl_lt (hj : n < 16) : evSl i n < 1024 := by unfold evSl; omega

theorem State.rebuildEnd_reported : (BitVec.ofNat 11 (evSl i 5), true) ∈ (s.rebuildEnd i).events.msgs := by
  have hlt : evSl i 5 < 1024 := evSl_lt (by decide)
  exact State.stickyCheck_msgs_subset (State.mem_fire_msgs (if_pos hlt) (by omega))

/-! ## A step of an admission scan (R93) -/

/-- An admission scan moves on. -/
def Bypass.on (b : BitVec 12) (q : Bypass) : Bypass := if q.bucket = b then { q with next := q.next + 1 } else q

/-- The bypasses after a step of a bucket's scan. -/
def bypassOn (b : BitVec 12) (last : Bool) (l : List Bypass) : List Bypass :=
  if last then l.filter (fun q => !decide (q.bucket = b)) else l.map (Bypass.on b)

/-- An admission scan has dealt with its bucket. -/
def State.admitOn (s : State) (i : SliceId) (b : BitVec 12) (last : Bool) : State :=
  (s.modSl i (fun x => { (x.putScan (32 + b.toNat) { x.scanOf (32 + b.toNat) with rds := [] }) with
    bypass := bypassOn b last x.bypass })).stickyCheck i

theorem State.admitOn_bypass {last : Bool} : ((s.admitOn i b last).sl i).bypass = bypassOn b last (s.sl i).bypass := by
  rw [State.admitOn, State.stickyCheck_bypass, State.sl_modSl_self]

theorem State.admitPass_bypass {c : Bypass} (hp : (s.sl i).bypass.find? (fun q => decide (q.bucket = b)) = some c)
    (hs : (s.sl i).scanned (32 + b.toNat) (s.castAddr b.toNat (1 + c.next)) = some rd)
    (hb : (s.sl i).bucketBusy (s.castAddr b.toNat (1 + c.next)) = false) (hl : readLoses rd s.gen = false) :
    ((s.admitPass i b).sl i).bypass = bypassOn b (decide (s.castN ≤ c.next + 1)) (s.sl i).bypass := by
  have hc : State.CountedIn i s (s.counted i b rd.data false) := State.countedIn_counted
  have hpass : s.admitPass i b = (if decide (s.castN ≤ c.next + 1) then (s.counted i b rd.data false).admitOn i b (decide (s.castN ≤ c.next + 1))
      else ((s.counted i b rd.data false).admitOn i b (decide (s.castN ≤ c.next + 1))).scanFetch i (32 + b.toNat)
        [((s.counted i b rd.data false).admitOn i b (decide (s.castN ≤ c.next + 1))).castAddr b.toNat (2 + c.next)]) := by
    simp only [State.admitPass, hp, hs, hb, Bool.false_eq_true, if_false, State.countBucket_of_good hl, State.castN_congr hc.regs]
    rfl
  have hon : (((s.counted i b rd.data false).admitOn i b (decide (s.castN ≤ c.next + 1))).sl i).bypass
      = bypassOn b (decide (s.castN ≤ c.next + 1)) (s.sl i).bypass := by
    rw [State.admitOn_bypass, (Slice.scans_inj.mp hc.scans).2.2]
  rw [hpass]
  split
  · exact hon
  · exact (State.view_scanFetch (view := Slice.bypass) fun _ _ _ _ _ => rfl).trans hon

/-! ## Clocks of the slice (R74, R130, R213) -/

/-- A change of one slice is a change of the slices alone, and of no other slice. -/
theorem State.modSl_alone {f : Slice → Slice} : (∀ j, j ≠ i → (s.modSl i f).sl j = s.sl j)
    ∧ s.modSl i f = { s with slices := (s.modSl i f).slices } :=
  ⟨fun j hj => by rw [State.sl_modSl, if_neg hj], rfl⟩

/-- One contention counter is halved. -/
def Slice.halve (x : Slice) (k : Nat) : Slice :=
  { x with pred := Store.set 0 x.pred k (Store.get 0 x.pred k >>> 1), decayPos := if k = 1023 then none else some (k + 1) }

theorem execPredictorDecay_halving (hg : s.passGo i = true) (hk : (s.sl i).decayPos = some k) :
    execPredictorDecay i s = .next (s.modSl i (fun x => x.halve k)) := by
  simp only [execPredictorDecay, hg, if_true, hk, Slice.halve]

theorem execPredictorDecay_begins (hg : s.passGo i = true) (hk : (s.sl i).decayPos = none) :
    execPredictorDecay i s = .next (((s.reach ((s.sl i).decayAt + 1000 * (s.sl i).decayPer)).modSl i (fun x => { x with
      decayAt := (s.sl i).decayAt + 1000 * (s.sl i).decayPer, decayPer := s.fld (Fld.sl i 0x288 8 16) })).modSl i (fun x => x.halve 0)) := by
  simp only [execPredictorDecay, hg, if_true, hk, Slice.halve]

theorem execAgeClockAdvance_due (h : 16384 ≤ (s.sl i).lookups) : execAgeClockAdvance i s
    = .next (s.modSl i (fun x => { x with ageClock := x.ageClock + 1, lookups := x.lookups - 16384 })) := if_neg (by omega)

/-- Background work that has waited takes the next pass. -/
theorem State.bgFirst_of_waited (hb : s.bgPending i = true) : (s.modSl i (fun x => { x with bgWait := 63 })).bgFirst i = true := by
  have hp : (s.modSl i (fun x => { x with bgWait := 63 })).bgPending i = s.bgPending i := by
    simp only [State.bgPending, State.sl_modSl_self]
    rfl
  rw [State.bgFirst, hp, hb, State.sl_modSl_self]
  rfl

end Scans

/-- Settles O31. A step of a scan counts the records of its bucket and moves on; the clocks of a slice change that slice alone. -/
theorem rebuildsAdmissionsAndClocks : Obligations.RebuildsAdmissionsAndClocks := by
  unfold Obligations.RebuildsAdmissionsAndClocks
  refine ⟨⟨fun i chk s hb hl hr => if_pos ⟨hb, hl, hr⟩, fun i b chk s hb hl hs => if_pos ⟨hb, hl, hs⟩⟩,
    fun i pos s hr => ⟨fun ha => ⟨State.rebuildPass_end hr ha, State.rebuildEnd_reported⟩,
      fun p ha hs ho => State.rebuildPass_read hr ha hs ho,
      fun p q rd ha hq hs hb hl => State.rebuildPass_counted hr ha hq hs hb hl⟩,
    fun i b p rd s hp hs hb hl => ?_, fun i s h => ?_, fun i s hg => ⟨fun hk => ?_, fun k hk => ?_⟩, fun i s hg hb => ?_⟩
  · rw [State.admitPass_bypass hp hs hb hl, bypassOn]
    simp only [decide_eq_true_eq]
    rfl
  · obtain ⟨hne, heq⟩ := State.modSl_alone (s := s) (i := i) (f := fun x => { x with ageClock := x.ageClock + 1, lookups := x.lookups - 16384 })
    exact ⟨_, execAgeClockAdvance_due h, State.sl_modSl_self, hne, heq⟩
  · refine ⟨_, execPredictorDecay_begins hg hk, ?_, ?_, fun j hj => ?_⟩
    · rw [State.modSl_now, State.modSl_now, State.now, State.plinth_now_reach, State.now]
    · rw [State.sl_modSl_self, State.sl_modSl_self, State.reach_sl]
      rfl
    · rw [State.modSl_alone.1 j hj, State.modSl_alone.1 j hj, State.reach_sl]
  · obtain ⟨hne, heq⟩ := State.modSl_alone (s := s) (i := i) (f := fun x => x.halve k)
    exact ⟨_, execPredictorDecay_halving hg hk, State.sl_modSl_self, hne, heq⟩
  · obtain ⟨hne, heq⟩ := State.modSl_alone (s := s) (i := i) (f := fun x => { x with bgWait := 63 })
    have hf := State.bgFirst_of_waited hb
    exact ⟨_, if_pos ⟨hg, hb⟩, State.sl_modSl_self, by rw [State.bgMay, hf, Bool.true_or], if_pos (Or.inl hf), hne, heq⟩

end Sys2Proof.Machine

/-! SUPPORT. The commands to the memory side: how one waits, how one is issued. -/

namespace Sys2Proof.Machine

section MemorySide

variable {s t u : State} {m j : PortId} {c x : MCmd} {n i : Nat} {b : Bool} {p : Port} {l : List MCmd}

/-! ## What only counts -/

/-- What counts and reports change: neither an attachment nor a slice, neither an agent nor a port, and no mode. -/
structure State.Aside (s t : State) : Prop where
  atts : t.atts = s.atts
  slices : t.slices = s.slices
  agents : t.agents = s.agents
  ports : t.ports = s.ports
  modes : t.modes = s.modes

theorem State.Aside.refl : State.Aside s s := ⟨rfl, rfl, rfl, rfl, rfl⟩

theorem State.Aside.trans (h : State.Aside s t) (h' : State.Aside t u) : State.Aside s u :=
  ⟨h'.atts.trans h.atts, h'.slices.trans h.slices, h'.agents.trans h.agents, h'.ports.trans h.ports, h'.modes.trans h.modes⟩

theorem State.Aside.ite {q : Prop} [Decidable q] (h : State.Aside s t) (h' : State.Aside s u) : State.Aside s (if q then t else u) := by
  split
  · exact h
  · exact h'

theorem State.Aside.mp (h : State.Aside s t) : t.mp j = s.mp j := by rw [State.mp, h.ports, State.mp]
theorem State.Aside.sl (h : State.Aside s t) {k : SliceId} : t.sl k = s.sl k := by rw [State.sl, h.slices, State.sl]
theorem State.Aside.held (h : State.Aside s t) : t.held = s.held := by rw [State.held, h.modes, State.held]

theorem State.Aside.count : State.Aside s (s.count (cMp m i) n) :=
  ⟨State.count_atts, count_cMp_slices, State.count_agents, State.count_ports, State.count_modes⟩

theorem State.Aside.incF {f : Fld} : State.Aside s (s.incF f) := ⟨rfl, rfl, rfl, rfl, rfl⟩

theorem State.Aside.fire : State.Aside s (s.fire n) := ⟨State.fire_atts, State.fire_slices, State.fire_agents, State.fire_ports, State.fire_modes⟩

theorem State.Aside.crossing {v : QUnit} : State.Aside s (s.crossing v n) := ⟨rfl, rfl, rfl, rfl, rfl⟩

theorem State.Aside.maxF {f : Fld} : State.Aside s (s.maxF f n) :=
  ⟨State.maxF_atts, State.maxF_slices, State.maxF_agents, State.maxF_ports, State.maxF_modes⟩

theorem State.Aside.castPut {a : Line} {d : Option LineData} : State.Aside s (s.castPut a d) := ⟨rfl, rfl, rfl, rfl, rfl⟩

/-! ## A cast-store command waits (R89) -/

/-- A cast-store command as it waits for MCMD. -/
def State.castWaits (s : State) (c : CastCmd) : MCmd :=
  { why := if c.data.isSome then .castWr c else .castRd c, line := c.addr, data := c.data.map (fun d => (d, false)), stag := s.castTag,
    held := none }

theorem State.castWaits_kind {c : CastCmd} : (s.castWaits c).isCast = true ∧ (s.castWaits c).isWrite = c.data.isSome := by
  cases hd : c.data <;> simp [State.castWaits, MCmd.isCast, MCmd.isWrite, hd]

theorem execCastStoreCommand_waits {c : CastCmd} (hr : s.runs = true) (hp : pickCast (s.mp m).castCmds (s.mp m).castIn = some c) :
    execCastStoreCommand m s = .next (s.modMp m (fun p => { p with
      castIn := p.castIn.erase c, waitq := p.waitq ++ [s.castWaits c] })) := by
  simp only [execCastStoreCommand, hp, hr, if_true, State.castWaits]

/-! ## The choice of a command (R89, R170) -/

theorem mem_of_mostUrgent (h : mostUrgent b l = some c) : c ∈ l := by
  induction l generalizing c with
  | nil => cases h
  | cons d ds ih =>
    rw [mostUrgent] at h
    split at h
    · exact Option.some.inj h ▸ List.mem_cons_self
    · next e he =>
      split at h
      · exact Option.some.inj h ▸ List.mem_cons_of_mem d (ih he)
      · exact Option.some.inj h ▸ List.mem_cons_self

/-- A command that may be issued has its credits, and its tokens. -/
theorem State.canIssue_pays (h : s.canIssue m c = true) : (s.mp m).mcmdC.spend.isSome = true
    ∧ (c.isWrite = true → (s.mp m).mwdataC.spend.isSome = true) ∧ (c.isCast = true → 256 ≤ (s.mp m).tokens) := by
  simp only [State.canIssue, Bool.and_eq_true, Bool.or_eq_true, Bool.not_eq_true', decide_eq_true_eq] at h
  obtain ⟨⟨⟨⟨⟨⟨⟨⟨hc, hw⟩, ht⟩, -⟩, -⟩, -⟩, -⟩, -⟩, -⟩ := h
  exact ⟨hc, fun hcw => hw.resolve_left (by simp [hcw]), fun hcc => ht.resolve_left (by simp [hcc])⟩

theorem State.canIssue_count : (s.count (cMp m i) n).canIssue m = s.canIssue m := by
  funext c
  simp only [State.canIssue, State.count_mp, State.count_runs, State.count_held, State.count_fld]

theorem gain_eq {cap : Nat} : gain cap n = min 4096 (n + cap) := by
  unfold gain
  split <;> omega

/-! ## A command leaves (R167, R222) -/

/-- What the issue of a write and the fill by a read may change: the ways and the joined fences of the port. -/
structure State.WaysOnly (s t : State) (m : PortId) : Prop where
  atts : t.atts = s.atts
  slices : t.slices = s.slices
  agents : t.agents = s.agents
  port : t.mp m = { s.mp m with ways := (t.mp m).ways, plru := (t.mp m).plru, fences := (t.mp m).fences }

theorem State.WaysOnly.refl : State.WaysOnly s s m := ⟨rfl, rfl, rfl, rfl⟩

theorem State.waysOnly_countBack {k : Nat} {w : Way} : State.WaysOnly s (s.modMp m (fun p => p.countBack k w)) m :=
  ⟨State.modMp_atts, State.modMp_slices, State.modMp_agents, by
    rw [State.mp_modMp_self, Port.countBack, Port.reissued, Port.putHway]⟩

theorem State.WaysOnly.aside (h : State.WaysOnly s t m) (h' : State.Aside t u) : State.WaysOnly s u m :=
  ⟨h'.atts.trans h.atts, h'.slices.trans h.slices, h'.agents.trans h.agents, by rw [h'.mp]; exact h.port⟩

/-- The command that leaves is the one chosen, of the same line and kind. -/
structure MCmd.Alike (c x : MCmd) : Prop where
  line : x.line = c.line
  isRead : x.isRead = c.isRead
  isWrite : x.isWrite = c.isWrite
  isCast : x.isCast = c.isCast

theorem MCmd.Alike.refl : MCmd.Alike c c := ⟨rfl, rfl, rfl, rfl⟩

theorem State.issueWrite_alike : State.WaysOnly s (s.issueWrite m c).1 m ∧ MCmd.Alike c (s.issueWrite m c).2 := by
  unfold State.issueWrite
  split
  · exact ⟨State.waysOnly_countBack, rfl, rfl, rfl, rfl⟩
  · next hw _ =>
    split
    · exact ⟨State.waysOnly_countBack, rfl, by simp [MCmd.isRead, hw], by simp [MCmd.isWrite, hw], by simp [MCmd.isCast, hw]⟩
    · exact ⟨.refl, .refl⟩
  · next hw _ =>
    split
    · exact ⟨State.waysOnly_countBack, rfl, by simp [MCmd.isRead, hw], by simp [MCmd.isWrite, hw], by simp [MCmd.isCast, hw]⟩
    · exact ⟨.refl, .refl⟩
  · exact ⟨.refl, .refl⟩

theorem State.Aside.countSent : State.Aside s (s.countSent m c) := by
  unfold State.countSent
  dsimp only
  have hkind : State.Aside s (if c.isRead then s.count (cMp m 0) 1 else if c.isWrite then s.count (cMp m 1) 1 else s) :=
    .ite .count (.ite .count .refl)
  generalize (if c.isRead then s.count (cMp m 0) 1 else if c.isWrite then s.count (cMp m 1) 1 else s) = t at hkind ⊢
  have hcast : State.Aside s (if c.isCast then t.count (cMp m 2) 1 else t) := .ite (hkind.trans .count) hkind
  generalize (if c.isCast then t.count (cMp m 2) 1 else t) = u at hcast ⊢
  refine hcast.trans ?_
  split
  · exact State.Aside.count
  · exact State.Aside.incF.trans State.Aside.count
  · exact State.Aside.count.trans State.Aside.incF
  · exact State.Aside.count.trans State.Aside.incF
  · exact State.Aside.count
  · exact State.Aside.count
  · exact State.Aside.count
  · exact .refl

theorem Port.spendQuarter_eq : p.spendQuarter c
    = { p with scanTokens := (p.spendQuarter c).scanTokens, sweepTokens := (p.spendQuarter c).sweepTokens } := by
  unfold Port.spendQuarter
  split
  · split
    · rfl
    · split <;> rfl
  · split
    · rfl
    · split <;> rfl
  · rfl

/-- Command c has left under CTAG n as x, with its credits and tokens (R89, R222). -/
structure State.Sent (s t : State) (m : PortId) (c x : MCmd) (n : Nat) : Prop where
  alike : MCmd.Alike c x
  atts : t.atts = s.atts
  slices : t.slices = s.slices
  agents : t.agents = s.agents
  outq : Store.get none (t.mp m).outq n = some x
  mcmdPin : (t.mp m).mcmdPin = some (x.header n)
  waitq : (t.mp m).waitq = (s.mp m).waitq.erase c
  mcmdC : (t.mp m).mcmdC = (s.mp m).mcmdC.spend.getD (s.mp m).mcmdC
  mwdataC : (t.mp m).mwdataC = if c.isWrite then (s.mp m).mwdataC.spend.getD (s.mp m).mwdataC else (s.mp m).mwdataC
  tokens : (t.mp m).tokens = if c.isCast then (s.mp m).tokens - 256 else (s.mp m).tokens
  beat : ∀ d, x.data = some d → (t.mp m).mwdataPin = some (BitVec.ofNat 8 n, d.1, d.2)

theorem State.Sent.aside (h : State.Sent s t m c x n) (h' : State.Aside t u) : State.Sent s u m c x n where
  alike := h.alike
  atts := h'.atts.trans h.atts
  slices := h'.slices.trans h.slices
  agents := h'.agents.trans h.agents
  outq := h'.mp ▸ h.outq
  mcmdPin := h'.mp ▸ h.mcmdPin
  waitq := h'.mp ▸ h.waitq
  mcmdC := h'.mp ▸ h.mcmdC
  mwdataC := h'.mp ▸ h.mwdataC
  tokens := h'.mp ▸ h.tokens
  beat := h'.mp ▸ h.beat

theorem State.Sent.after (h : State.Sent t u m c x n) (h' : State.Aside s t) : State.Sent s u m c x n := by
  obtain ⟨halike, hatts, hslices, hagents, houtq, hpin, hwaitq, hmcmd, hmwdata, htokens, hbeat⟩ := h
  rw [h'.mp] at hwaitq hmcmd hmwdata htokens
  exact ⟨halike, hatts.trans h'.atts, hslices.trans h'.slices, hagents.trans h'.agents, houtq, hpin, hwaitq, hmcmd, hmwdata,
    htokens, hbeat⟩

theorem State.Sent.sendBeat {q : MemCmd} {d : LineData} {rpt : Option (SliceId × PortRpt)} (h : State.Sent s t m c x n) :
    State.Sent s (t.sendBeat m q d b rpt) m c x n := by
  have hp : (t.sendBeat m q d b rpt).mp m = { t.mp m with rsIn := ((t.sendBeat m q d b rpt).mp m).rsIn } := by
    simp [State.sendBeat]
  refine ⟨h.alike, State.modMp_atts.trans h.atts, State.modMp_slices.trans h.slices, State.modMp_agents.trans h.agents,
    ?_, ?_, ?_, ?_, ?_, ?_, ?_⟩
  all_goals rw [hp]
  exacts [h.outq, h.mcmdPin, h.waitq, h.mcmdC, h.mwdataC, h.tokens, h.beat]

theorem State.Sent.modMp {f : Port → Port} (h : State.WaysOnly s u m) (halike : MCmd.Alike c x)
    (hf : ∀ p, f p = { p with
      outq := Store.set none p.outq n (some x), mcmdPin := some (x.header n), waitq := p.waitq.erase c
      mcmdC := p.mcmdC.spend.getD p.mcmdC, mwdataC := if c.isWrite then p.mwdataC.spend.getD p.mwdataC else p.mwdataC
      tokens := if c.isCast then p.tokens - 256 else p.tokens
      scanTokens := (f p).scanTokens, sweepTokens := (f p).sweepTokens, wbLast := (f p).wbLast, saving := (f p).saving
      restoring := (f p).restoring, mwdataPin := (f p).mwdataPin })
    (hpin : ∀ p d, x.data = some d → (f p).mwdataPin = some (BitVec.ofNat 8 n, d.1, d.2)) : State.Sent s (u.modMp m f) m c x n := by
  have hp : (u.modMp m f).mp m = f { s.mp m with ways := (u.mp m).ways, plru := (u.mp m).plru, fences := (u.mp m).fences } := by
    rw [State.mp_modMp_self, ← h.port]
  refine ⟨halike, State.modMp_atts.trans h.atts, State.modMp_slices.trans h.slices, State.modMp_agents.trans h.agents,
    ?_, ?_, ?_, ?_, ?_, ?_, fun d hd => by rw [hp, hpin _ d hd]⟩
  all_goals rw [hp, hf]
  exact Store.get_set_self

theorem State.issue_sent : ∃ x, State.Sent s (s.issue m c n) m c x n := by
  obtain ⟨hways, halike⟩ := State.issueWrite_alike (s := s) (m := m) (c := c)
  refine ⟨(s.issueWrite m c).2, ?_⟩
  unfold State.issue
  dsimp only
  generalize (s.issueWrite m c).1 = r at hways
  generalize (s.issueWrite m c).2 = x at halike
  have hput : State.Aside r (if x.isWrite ∧ !x.isCast then r.castPut x.line none else r) := .ite .castPut .refl
  generalize (if x.isWrite ∧ !x.isCast then r.castPut x.line none else r) = t at hput ⊢
  have hcross : State.Aside r (if c.isWrite then (t.crossing (.port m) 0).crossing (.port m) 1 else t.crossing (.port m) 0) :=
    hput.trans (.ite (State.Aside.crossing.trans .crossing) .crossing)
  generalize (if c.isWrite then (t.crossing (.port m) 0).crossing (.port m) 1 else t.crossing (.port m) 0) = u at hcross ⊢
  have hu : State.WaysOnly s u m := hways.aside hcross
  split
  · refine State.Sent.sendBeat ?_
    split
    · refine State.Sent.aside ?_ (State.Aside.countSent.trans .maxF)
      exact .modMp hu halike (fun p => by rw [Port.spendQuarter_eq]) fun p d hd => by simp only [hd]
    · refine State.Sent.aside ?_ State.Aside.countSent
      exact .modMp hu halike (fun p => by rw [Port.spendQuarter_eq]) fun p d hd => by simp only [hd]
  · split
    · refine State.Sent.aside ?_ (State.Aside.countSent.trans .maxF)
      exact .modMp hu halike (fun p => by rw [Port.spendQuarter_eq]) fun p d hd => by simp only [hd]
    · refine State.Sent.aside ?_ State.Aside.countSent
      exact .modMp hu halike (fun p => by rw [Port.spendQuarter_eq]) fun p d hd => by simp only [hd]

theorem State.issueChecked_good (hb : ∀ y again, c.why = .back y again → ((s.mp m).findHway c.line).isSome = true) :
    s.issueChecked m c n .good = s.issue m c n := by
  have hr : s.readBack m c .good = (s, false) := by
    unfold State.readBack
    split
    · next y again hy =>
      obtain ⟨⟨k, w⟩, hf⟩ := Option.isSome_iff_exists.mp (hb y again hy)
      rw [hf]
      rfl
    · rfl
  rw [State.issueChecked, hr]
  rfl

/-! ## A memory cycle (R89, R170) -/

/-- The tokens a memory cycle brings. -/
def Port.gains (p : Port) (cap : Nat) : Port :=
  { p with tokens := min 4096 (p.tokens + cap), scanTokens := min 4096 (p.scanTokens + cap),
           sweepTokens := min 4096 (p.sweepTokens + cap) }

/-- A port as a memory cycle finds it: with its tokens, and without prefetch reads where they are off (R178). -/
def State.cycled (s : State) (m : PortId) : State :=
  let u := s.modMp m (fun p => p.gains (s.fld ⟨0x4C004, 8, 8⟩))
  if s.prefetchOn m then u else u.modMp m Port.noPrefetch

theorem State.cycled_port : (s.cycled m).mp m = { s.mp m with
    waitq := ((s.cycled m).mp m).waitq, tokens := ((s.cycled m).mp m).tokens, scanTokens := ((s.cycled m).mp m).scanTokens
    sweepTokens := ((s.cycled m).mp m).sweepTokens } := by
  unfold State.cycled
  dsimp only
  split
  · rw [State.mp_modMp_self, Port.gains]
  · rw [State.mp_modMp_self, State.mp_modMp_self, Port.gains, Port.noPrefetch]

theorem State.cycled_rest : (s.cycled m).atts = s.atts ∧ (s.cycled m).slices = s.slices ∧ (s.cycled m).agents = s.agents := by
  unfold State.cycled
  dsimp only
  split <;> exact ⟨rfl, rfl, rfl⟩

theorem State.prefetchOn_gains {cap : Nat} : (s.modMp m (fun p => p.gains cap)).prefetchOn m = s.prefetchOn m := by
  rw [State.prefetchOn, State.mp_modMp_self]
  rfl

theorem execMcmdIssue_sends
    (hc : mostUrgent (!((s.cycled m).mp m).wbLast && (((s.cycled m).mp m).waitq.filter ((s.cycled m).canIssue m)).any MCmd.urgentBack)
      (((s.cycled m).mp m).waitq.filter ((s.cycled m).canIssue m)) = some c)
    (hn : (List.range 256).find? (fun k => (Store.get none (s.mp m).outq k).isNone) = some n) :
    ∃ v, State.Aside (s.cycled m) v ∧ execMcmdIssue m s .good = .next (v.issueChecked m c n .good) := by
  have hg : ∀ cap, (fun p : Port => { p with
      tokens := gain cap p.tokens, scanTokens := gain cap p.scanTokens, sweepTokens := gain cap p.sweepTokens })
      = fun p => p.gains cap := fun cap => funext fun p => by simp only [gain_eq, Port.gains]
  have hv : (if s.prefetchOn m then s.modMp m (fun p => p.gains (s.fld ⟨0x4C004, 8, 8⟩))
      else (s.modMp m (fun p => p.gains (s.fld ⟨0x4C004, 8, 8⟩))).modMp m Port.noPrefetch) = s.cycled m := rfl
  have hq : ((s.cycled m).mp m).outq = (s.mp m).outq := by rw [State.cycled_port]
  simp only [execMcmdIssue, hg, State.prefetchOn_gains, hv]
  generalize s.cycled m = v at hc hq ⊢
  have ha : State.Aside v (if (v.mp m).waitq ≠ [] ∧ (v.mp m).mcmdC.spend.isNone then v.count (cMp m 5) 1 else v)
      ∧ (if (v.mp m).waitq ≠ [] ∧ (v.mp m).mcmdC.spend.isNone then v.count (cMp m 5) 1 else v).canIssue m = v.canIssue m := by
    split
    · exact ⟨.count, State.canIssue_count⟩
    · exact ⟨.refl, rfl⟩
  generalize (if (v.mp m).waitq ≠ [] ∧ (v.mp m).mcmdC.spend.isNone then v.count (cMp m 5) 1 else v) = a at ha ⊢
  have hw : State.Aside a (if (v.mp m).waitq.any (fun c => c.isCast) ∧ (v.mp m).tokens < 256 then a.count (cMp m 6) 1 else a)
      ∧ (if (v.mp m).waitq.any (fun c => c.isCast) ∧ (v.mp m).tokens < 256 then a.count (cMp m 6) 1 else a).canIssue m
        = a.canIssue m := by
    split
    · exact ⟨.count, State.canIssue_count⟩
    · exact ⟨.refl, rfl⟩
  generalize (if (v.mp m).waitq.any (fun c => c.isCast) ∧ (v.mp m).tokens < 256 then a.count (cMp m 6) 1 else a) = w at hw ⊢
  refine ⟨w, ha.1.trans hw.1, ?_⟩
  simp only [hw.2, ha.2, hc, hq, hn]

/-- The command chosen leaves, with its credits and its tokens (R89, R222). -/
theorem execMcmdIssue_sent
    (hc : mostUrgent (!((s.cycled m).mp m).wbLast && (((s.cycled m).mp m).waitq.filter ((s.cycled m).canIssue m)).any MCmd.urgentBack)
      (((s.cycled m).mp m).waitq.filter ((s.cycled m).canIssue m)) = some c)
    (hn : (List.range 256).find? (fun k => (Store.get none (s.mp m).outq k).isNone) = some n)
    (hb : ∀ y again, c.why = .back y again → ((s.mp m).findHway c.line).isSome = true) :
    ∃ t x, execMcmdIssue m s .good = .next t ∧ State.Sent (s.cycled m) t m c x n := by
  obtain ⟨v, hv, he⟩ := execMcmdIssue_sends hc hn
  have hf : (v.mp m).findHway c.line = (s.mp m).findHway c.line := by
    rw [hv.mp, State.cycled_port]
    rfl
  rw [State.issueChecked_good (by rw [hf]; exact hb)] at he
  obtain ⟨x, hx⟩ := State.issue_sent (s := v) (m := m) (c := c) (n := n)
  exact ⟨_, x, he, hx.after hv⟩

/-! ## Answers of the memory side (R221) -/

/-- What counts and reports of an answer change: the memory of the cast store is as it was. -/
structure State.Answered (s t : State) : Prop where
  aside : State.Aside s t
  castMem : t.castMem = s.castMem

theorem State.Answered.refl : State.Answered s s := ⟨.refl, rfl⟩
theorem State.Answered.trans (h : State.Answered s t) (h' : State.Answered t u) : State.Answered s u :=
  ⟨h.aside.trans h'.aside, h'.castMem.trans h.castMem⟩
theorem State.Answered.ite {q : Prop} [Decidable q] (h : State.Answered s t) (h' : State.Answered s u) :
    State.Answered s (if q then t else u) := by
  split
  · exact h
  · exact h'
theorem State.Answered.count : State.Answered s (s.count (cMp m i) n) := ⟨.count, State.count_castMem⟩
theorem State.Answered.classPsn : State.Answered s s.classPsn := ⟨.incF, rfl⟩
theorem State.Answered.incF {f : Fld} : State.Answered s (s.incF f) := ⟨.incF, rfl⟩
theorem State.Answered.fire : State.Answered s (s.fire n) := ⟨.fire, State.fire_castMem⟩

theorem State.drainEnd_of_win (h : (s.mp m).win = .none) : s.drainEnd m = s := by rw [State.drainEnd, h]

theorem Port.answered_eq {ctag : BitVec 8} {rd : Bool} (h : Store.get none p.outq ctag.toNat = some c) (hr : c.isRead = rd) :
    p.answered ctag rd = some (c, { p with outq := Store.set none p.outq ctag.toNat none }) := by
  rw [Port.answered, h]
  exact if_pos hr

theorem Port.answered_none {ctag : BitVec 8} {rd : Bool}
    (h : ((Store.get none p.outq ctag.toNat).map (·.isRead)).getD (!rd) = !rd) : p.answered ctag rd = none := by
  rw [Port.answered]
  cases hc : Store.get none p.outq ctag.toNat with
  | none => rfl
  | some c =>
    rw [hc] at h
    exact if_neg (by cases rd <;> simp_all)

/-- The port without the command that CTAG names. -/
def Port.without (p : Port) (ctag : BitVec 8) : Port := { p with outq := Store.set none p.outq ctag.toNat none }

theorem execMrdataBeat_answers {ctag : BitVec 8} {st : MemStatus} {d : LineData} (hh : s.held = false)
    (hc : Store.get none (s.mp m).outq ctag.toNat = some c) (hr : c.isRead = true) :
    ∃ u, State.Aside (s.setMp m ((s.mp m).without ctag)) u ∧ u.castMem = s.castMem
      ∧ execMrdataBeat m ctag st d s = .next ((u.beatFor m c st d).drainEnd m) := by
  have ha : ((s.crossing (.port m) 2).mp m).answered ctag true = some (c, (s.mp m).without ctag) := Port.answered_eq hc hr
  simp only [execMrdataBeat, ha]
  have h0 : State.Answered (s.setMp m ((s.mp m).without ctag)) ((s.crossing (.port m) 2).setMp m ((s.mp m).without ctag)) :=
    ⟨⟨rfl, rfl, rfl, rfl, rfl⟩, rfl⟩
  generalize (s.crossing (.port m) 2).setMp m ((s.mp m).without ctag) = a at h0 ⊢
  have h1 := h0.trans (State.Answered.ite (q := st ≠ .ok) (State.Answered.count (m := m) (i := 4) (n := 1)) .refl)
  generalize (if st ≠ .ok then a.count (cMp m 4) 1 else a) = b at h1 ⊢
  have h2 := h1.trans (State.Answered.ite (q := st ≠ .ok ∧ !c.isCast) (s := b) .classPsn .refl)
  generalize (if st ≠ .ok ∧ !c.isCast then b.classPsn else b) = e at h2 ⊢
  have h3 := h2.trans (State.Answered.ite (q := st = .error) 
    ((State.Answered.incF (f := Fld.mp m 0x110 0 8)).trans (.fire (n := evMp m 2))) .refl)
  have hu := h3.aside.held
  rw [State.setMp_held, hh] at hu
  exact ⟨_, h3.aside, h3.castMem.trans State.setMp_castMem, if_neg (by simp [hu])⟩

theorem execCmpl_answers {ctag : BitVec 8} {st : MemStatus} (hh : s.held = false)
    (hc : Store.get none (s.mp m).outq ctag.toNat = some c) (hr : c.isRead = false) :
    execCmpl m ctag st s
      = .next ((((s.crossing (.port m) 3).setMp m ((s.mp m).without ctag)).cmplFor m c (decide (st ≠ .ok))).drainEnd m) := by
  have ha : ((s.crossing (.port m) 3).mp m).answered ctag false = some (c, (s.mp m).without ctag) := Port.answered_eq hc hr
  simp only [execCmpl, ha]
  exact if_neg (by simp [hh])

/-! ## What a beat completes (R112, R163, R432) -/

variable {d : LineData} {psn pf : Bool} {st : MemStatus} {a : Line}

theorem Port.fillClean_eq : p.fillClean a d psn pf = { p with ways := (p.fillClean a d psn pf).ways, plru := (p.fillClean a d psn pf).plru } := by
  unfold Port.fillClean
  split
  · rfl
  · split <;> rfl

theorem State.memAnswer_view {γ : Type} {view : Port → γ} {q : MemCmd} {hd : Bool} (hv : ∀ p l, view { p with rsIn := l } = view p) :
    view ((s.memAnswer m q d psn st hd).mp m) = view (s.mp m) := by
  unfold State.memAnswer
  dsimp only
  split <;> simp [State.sendBeat, hv]

/-- A demand read fills the bank or does not, and is answered. -/
theorem State.beatFor_demandRead {q : MemCmd} (hq : c.why = .demandRead q) : ∃ u,
    State.WaysOnly s u m ∧ u.held = s.held ∧ s.beatFor m c st d = u.memAnswer m q d (decide (st ≠ .ok)) st false := by
  simp only [State.beatFor, hq]
  refine ⟨_, ?_, ?_, rfl⟩
  · split
    · refine ⟨State.modMp_atts, State.modMp_slices, State.modMp_agents, ?_⟩
      rw [State.mp_modMp_self, Port.fillClean_eq]
    · exact .refl
  · split <;> rfl

theorem State.beatFor_castRd {q : CastCmd} (hq : c.why = .castRd q) : (s.beatFor m c st d).atts = s.atts
    ∧ (s.beatFor m c st d).agents = s.agents ∧ (s.beatFor m c st d).ports = s.ports
    ∧ ((s.beatFor m c st d).sl q.slice).int
      = (s.sl q.slice).int ++ [.castRd q.transit q.addr (s.castSeen q.addr { status := st, data := d })] := by
  simp only [State.beatFor, hq]
  exact ⟨rfl, rfl, rfl, by simp [State.toInt]⟩

/-! ## What a CMPL completes (R167, R201, R432) -/

theorem State.cmplFor_through {q : MemCmd} {old : Option (LineData × Bool)} (hq : c.why = .through q false old) (hh : s.held = false) :
    (s.cmplFor m c b).atts = s.atts ∧ (s.cmplFor m c b).agents = s.agents ∧ (s.cmplFor m c b).mp m = s.mp m
    ∧ ((s.cmplFor m c b).sl q.slice).int = (s.sl q.slice).int
      ++ [.rpt ⟨q.htag, q.tag, q.line, if b then .error else .ok, (s.mp m).hdirty q.line⟩] := by
  have he : s.cmplFor m c b = s.sendRpt q (if b then .error else .ok) ((s.mp m).hdirty q.line) := by
    simp only [State.cmplFor, hq]
    rfl
  rw [he]
  refine ⟨State.sendRpt_atts, State.sendRpt_agents, State.sendRpt_mp, ?_⟩
  rw [State.sendRpt, if_neg (by simp [hh]), State.rptTo_int]

theorem State.cmplFor_castWr {q : CastCmd} (hq : c.why = .castWr q) :
    (s.cmplFor m c b).atts = s.atts ∧ (s.cmplFor m c b).agents = s.agents ∧ (s.cmplFor m c b).mp m = s.mp m
    ∧ ((s.cmplFor m c b).sl q.slice).int = (s.sl q.slice).int ++ [.castWr q (if b then .error else .ok)] := by
  simp only [State.cmplFor, hq]
  have ha : State.Aside s (if b = true ∧ q.again = true then s.incF (Fld.mp m 0x110 8 8) else s) := .ite .incF .refl
  generalize (if b = true ∧ q.again = true then s.incF (Fld.mp m 0x110 8 8) else s) = t at ha ⊢
  refine ⟨ha.atts, ha.agents, ha.mp, ?_⟩
  rw [State.toInt, State.sl_modSl_self, State.inject_sl, ← ha.sl]
  rfl

theorem State.cmplFor_fence {k : AttId} {e : BitVec 2} (hq : c.why = .fence k e) (hg : s.attBounces k = false) :
    (s.cmplFor m c b).slices = s.slices ∧ (s.cmplFor m c b).agents = s.agents ∧ ((s.cmplFor m c b).mp m).win = (s.mp m).win
    ∧ ((s.cmplFor m c b).att k).reports = (s.att k).reports ++ [⟨e, m, b⟩] := by
  simp only [State.cmplFor, hq, State.fenceRpt]
  rw [if_neg (by simpa using hg)]
  exact ⟨rfl, rfl, by simp, by simp⟩

/-! ## What names no command (R221) -/

theorem State.mpFormat_counts : (s.mpFormat m).fld (Fld.mp m 0x110 24 8) = min 255 (s.fld (Fld.mp m 0x110 24 8) + 1)
    ∧ (∀ g, (Fld.mp m 0x110 24 8).apart g → (s.mpFormat m).fld g = s.fld g)
    ∧ (s.mpFormat m).ports = s.ports ∧ (s.mpFormat m).slices = s.slices ∧ (s.mpFormat m).atts = s.atts := by
  have ha : State.Aside s (s.mpFormat m) := State.Aside.incF.trans .fire
  refine ⟨?_, fun g hg => ?_, ha.ports, ha.slices, ha.atts⟩
  · rw [State.mpFormat, State.fire_fld, State.fld_incF (by simp [Fld.mp])]
    rfl
  · rw [State.mpFormat, State.fire_fld, State.fld_incF_apart (by simp [Fld.mp]) hg]

theorem exec_discards {ctag : BitVec 8} {opc : BitVec 4} {o : Instr}
    (h : o = .mrdataBeat m ctag st d ∧ ((Store.get none (s.mp m).outq ctag.toNat).map (·.isRead)).getD false = false
      ∨ o = .cmpl m ctag st ∧ ((Store.get none (s.mp m).outq ctag.toNat).map (·.isRead)).getD true = true
      ∨ o = .unlistedMrespWord m opc ∧ opc ≠ 1 ∧ opc ≠ 2) :
    ∃ q, exec o s = .next ((s.crossing (.port m) q).mpFormat m) := by
  obtain ⟨rfl, hc⟩ | ⟨rfl, hc⟩ | ⟨rfl, h1, h2⟩ := h
  · have ha : ((s.crossing (.port m) 2).mp m).answered ctag true = none := Port.answered_none hc
    exact ⟨2, by simp only [exec, execMrdataBeat, ha]⟩
  · have ha : ((s.crossing (.port m) 3).mp m).answered ctag false = none := Port.answered_none hc
    exact ⟨3, by simp only [exec, execCmpl, ha]⟩
  · exact ⟨3, if_neg (not_or.mpr ⟨h1, h2⟩)⟩

/-! ## The clauses of O34 -/

theorem statusOf_err : (if decide (st ≠ .ok) then MemStatus.error else .ok) = if st = .ok then .ok else .error := by
  by_cases h : st = .ok <;> simp [h]

section Cycle
variable (hc : mostUrgent (!((s.cycled m).mp m).wbLast && (((s.cycled m).mp m).waitq.filter ((s.cycled m).canIssue m)).any MCmd.urgentBack)
    (((s.cycled m).mp m).waitq.filter ((s.cycled m).canIssue m)) = some c)
include hc

theorem State.Sent.mcmd_spent (h : State.Sent (s.cycled m) t m c x n) : some (t.mp m).mcmdC = (s.mp m).mcmdC.spend := by
  obtain ⟨hcred, -, -⟩ := State.canIssue_pays (List.mem_filter.mp (mem_of_mostUrgent hc)).2
  rw [h.mcmdC, Option.getD_of_ne_none (Option.isSome_iff_ne_none.mp hcred), State.cycled_port]

theorem State.Sent.mwdata_spent (h : State.Sent (s.cycled m) t m c x n) (hw : c.isWrite = true) :
    some (t.mp m).mwdataC = (s.mp m).mwdataC.spend := by
  obtain ⟨-, hcred, -⟩ := State.canIssue_pays (List.mem_filter.mp (mem_of_mostUrgent hc)).2
  rw [h.mwdataC, if_pos hw, Option.getD_of_ne_none (Option.isSome_iff_ne_none.mp (hcred hw)), State.cycled_port]

theorem State.Sent.tokens_spent (h : State.Sent (s.cycled m) t m c x n) (hk : c.isCast = true) :
    (t.mp m).tokens + 256 = ((s.cycled m).mp m).tokens := by
  obtain ⟨-, -, htok⟩ := State.canIssue_pays (List.mem_filter.mp (mem_of_mostUrgent hc)).2
  rw [h.tokens, if_pos hk]
  exact Nat.sub_add_cancel (htok hk)

end Cycle

section Answers
variable {ctag : BitVec 8} (hh : s.held = false) (hw : (s.mp m).win = .none) (hc : Store.get none (s.mp m).outq ctag.toNat = some c)
include hh hw hc

theorem execMrdataBeat_demandRead {q : MemCmd} (hq : c.why = .demandRead q) : ∃ t, execMrdataBeat m ctag st d s = .next t
    ∧ Store.get none (t.mp m).outq ctag.toNat = none
    ∧ (t.mp m).rsIn = (s.mp m).rsIn ++ [{
        la := q.la, rpt := if q.parts = 0 then some (q.slice, ⟨q.htag, q.tag, q.line, st, false⟩) else none,
        drs := Drs.mk q.agent q.rtag (q.htag.getD 0) q.parts (decide (st ≠ .ok)) d q.kind }]
    ∧ (t.sl q.slice).int = (s.sl q.slice).int ++ (if q.parts = 0 then [] else [.rpt ⟨q.htag, q.tag, q.line, st, false⟩])
    ∧ t.atts = s.atts ∧ t.agents = s.agents := by
  obtain ⟨u, hu, -, he⟩ := execMrdataBeat_answers (st := st) (d := d) hh hc (by rw [MCmd.isRead, hq])
  obtain ⟨w, hways, hwh, hb⟩ := State.beatFor_demandRead (s := u) (m := m) (d := d) (st := st) hq
  have hport : w.mp m = { (s.mp m).without ctag with ways := (w.mp m).ways, plru := (w.mp m).plru, fences := (w.mp m).fences } := by
    rw [hways.port, hu.mp, State.mp_setMp_self]
  have hwin : ((w.memAnswer m q d (decide (st ≠ .ok)) st false).mp m).win = .none := by
    rw [State.memAnswer_view (view := Port.win) fun _ _ => rfl, hport]
    exact hw
  rw [hb, State.drainEnd_of_win hwin] at he
  refine ⟨_, he, ?_, ?_, ?_, ?_, ?_⟩
  · rw [State.memAnswer_view (view := Port.outq) fun _ _ => rfl, hport]
    exact Store.get_set_self
  · rw [State.memAnswer_rsIn, hport]
    rfl
  · rw [State.memAnswer_int (by rw [hwh, hu.held, State.setMp_held, hh]), State.sl, hways.slices, hu.slices]
    rfl
  · rw [State.memAnswer_atts, hways.atts, hu.atts, State.setMp_atts]
  · rw [State.memAnswer_agents, hways.agents, hu.agents, State.setMp_agents]

theorem execMrdataBeat_castRd {q : CastCmd} (hq : c.why = .castRd q) : ∃ t, execMrdataBeat m ctag st d s = .next t
    ∧ Store.get none (t.mp m).outq ctag.toNat = none
    ∧ (t.sl q.slice).int = (s.sl q.slice).int ++ [.castRd q.transit q.addr (s.castSeen q.addr { status := st, data := d })]
    ∧ t.atts = s.atts ∧ t.agents = s.agents := by
  obtain ⟨u, hu, hmem, he⟩ := execMrdataBeat_answers (st := st) (d := d) hh hc (by rw [MCmd.isRead, hq])
  obtain ⟨hatts, hagents, hports, hint⟩ := State.beatFor_castRd (s := u) (m := m) (d := d) (st := st) hq
  have hport : (u.beatFor m c st d).mp m = (s.mp m).without ctag := by
    rw [State.mp, hports, ← State.mp, hu.mp, State.mp_setMp_self]
  rw [State.drainEnd_of_win (by rw [hport]; exact hw)] at he
  refine ⟨_, he, ?_, ?_, ?_, ?_⟩
  · rw [hport]
    exact Store.get_set_self
  · rw [hint, hu.sl, State.setMp_sl, State.castSeen, hmem, ← State.castSeen]
  · rw [hatts, hu.atts, State.setMp_atts]
  · rw [hagents, hu.agents, State.setMp_agents]

/-- A completion that leaves the window state alone is all that a CMPL does. -/
theorem execCmpl_completes (hr : c.isRead = false)
    (hwin : ((((s.crossing (.port m) 3).setMp m ((s.mp m).without ctag)).cmplFor m c (decide (st ≠ .ok))).mp m).win = (s.mp m).win) :
    execCmpl m ctag st s
      = .next (((s.crossing (.port m) 3).setMp m ((s.mp m).without ctag)).cmplFor m c (decide (st ≠ .ok))) := by
  rw [execCmpl_answers hh hc hr, State.drainEnd_of_win (hwin.trans hw)]

theorem execCmpl_through {q : MemCmd} {old : Option (LineData × Bool)} (hq : c.why = .through q false old) :
    ∃ t, execCmpl m ctag st s = .next t ∧ t.agents = s.agents ∧ t.atts = s.atts ∧ (t.sl q.slice).int = (s.sl q.slice).int
      ++ [.rpt ⟨q.htag, q.tag, q.line, if st = .ok then .ok else .error, (s.mp m).hdirty q.line⟩] := by
  obtain ⟨hatts, hagents, hport, hint⟩ := State.cmplFor_through (m := m) (b := decide (st ≠ .ok))
    (s := (s.crossing (.port m) 3).setMp m ((s.mp m).without ctag)) hq hh
  rw [State.mp_setMp_self] at hport hint
  rw [statusOf_err] at hint
  exact ⟨_, execCmpl_completes hh hw hc (by rw [MCmd.isRead, hq]) (by rw [hport]; rfl), hagents, hatts, hint⟩

theorem execCmpl_castWr {q : CastCmd} (hq : c.why = .castWr q) :
    ∃ t, execCmpl m ctag st s = .next t ∧ t.agents = s.agents ∧ t.atts = s.atts
      ∧ (t.sl q.slice).int = (s.sl q.slice).int ++ [.castWr q (if st = .ok then .ok else .error)] := by
  obtain ⟨hatts, hagents, hport, hint⟩ := State.cmplFor_castWr (m := m) (b := decide (st ≠ .ok))
    (s := (s.crossing (.port m) 3).setMp m ((s.mp m).without ctag)) hq
  rw [statusOf_err] at hint
  exact ⟨_, execCmpl_completes hh hw hc (by rw [MCmd.isRead, hq]) (by rw [hport, State.mp_setMp_self]; rfl), hagents, hatts, hint⟩

theorem execCmpl_fence {k : AttId} {e : BitVec 2} (hq : c.why = .fence k e) (hg : s.attBounces k = false) :
    ∃ t, execCmpl m ctag st s = .next t ∧ t.agents = s.agents ∧ t.slices = s.slices
      ∧ (t.att k).reports = (s.att k).reports ++ [⟨e, m, decide (st ≠ .ok)⟩] := by
  obtain ⟨hslices, hagents, hwin, hrep⟩ := State.cmplFor_fence (m := m) (b := decide (st ≠ .ok))
    (s := (s.crossing (.port m) 3).setMp m ((s.mp m).without ctag)) hq hg
  exact ⟨_, execCmpl_completes hh hw hc (by rw [MCmd.isRead, hq]) (by rw [hwin, State.mp_setMp_self]; rfl), hagents, hslices, hrep⟩

end Answers
end MemorySide

/-- Settles O34: a cycle by what its chosen command spends, an answer by the command its CTAG names. -/
theorem theMemorySideIsAskedAndAnswers : Obligations.TheMemorySideIsAskedAndAnswers := by
  unfold Obligations.TheMemorySideIsAskedAndAnswers
  refine ⟨⟨fun m c s hr hp => ?_, ?_⟩,
    fun m ctag st d c s hh hw hc => ⟨fun q => execMrdataBeat_demandRead hh hw hc, fun q => execMrdataBeat_castRd hh hw hc⟩,
    fun m ctag st c s hh hw hc => ⟨fun q old => execCmpl_through hh hw hc, fun q => execCmpl_castWr hh hw hc,
      fun k e => execCmpl_fence hh hw hc⟩, fun m ctag st d opc o s ho => ?_⟩
  · exact ⟨_, _, execCastStoreCommand_waits hr hp, by rw [State.mp_modMp_self], rfl, rfl, State.castWaits_kind.1,
      State.castWaits_kind.2, by rw [State.mp_modMp_self], fun n hn => by rw [State.mp_modMp, if_neg hn], rfl⟩
  · intro m c n s u v ready hc hn hb
    obtain ⟨t, x, ht, hs⟩ := execMcmdIssue_sent hc hn hb
    obtain ⟨hatts, hslices, hagents⟩ := State.cycled_rest (s := s) (m := m)
    exact ⟨t, x, ht, hs.outq, hs.alike.line, hs.alike.isRead, hs.alike.isWrite, hs.alike.isCast, hs.mcmdPin, hs.waitq,
      hs.mcmd_spent hc, hs.mwdata_spent hc, hs.tokens_spent hc, hs.beat, hs.atts.trans hatts, hs.slices.trans hslices,
      hs.agents.trans hagents⟩
  · obtain ⟨q, he⟩ := exec_discards ho
    exact ⟨_, he, State.mpFormat_counts⟩

end Sys2Proof.Machine

/-! SUPPORT. The shed level: what stands while its actions run. The start of the block. -/

namespace Sys2Proof.Machine

section ShedLevel

variable {s t u : State} {n a : Nat} {m : Mode} {i : SliceId} {f : Fld}

/-! ## What the actions of a level leave as it is (R287 to R290) -/

/-- The level, what it follows, and the words below SHED_CNT stand. -/
structure State.Stands (s t : State) : Prop where
  level : t.level = s.level
  droops : t.modes.droops = s.modes.droops
  alert : t.modes.alert = s.modes.alert
  now : t.now = s.now
  words : ∀ a, a < 0x7003C → t.reg a = s.reg a

theorem State.Stands.refl : State.Stands s s := ⟨rfl, rfl, rfl, rfl, fun _ _ => rfl⟩

theorem State.Stands.trans (h : State.Stands s t) (h' : State.Stands t u) : State.Stands s u :=
  ⟨h'.level.trans h.level, h'.droops.trans h.droops, h'.alert.trans h.alert, h'.now.trans h.now,
    fun a ha => (h'.words a ha).trans (h.words a ha)⟩

theorem State.Stands.ite {q : Prop} [Decidable q] (h : State.Stands s t) (h' : State.Stands s u) : State.Stands s (if q then t else u) := by
  split
  · exact h
  · exact h'

theorem State.Stands.fold {α : Type} {g : State → α → State} {l : List α} (hg : ∀ t x, State.Stands t (g t x)) :
    State.Stands s (l.foldl g s) :=
  l.foldlRecOn g .refl fun t ht x _ => ht.trans (hg t x)

theorem State.Stands.fld (h : State.Stands s t) (hf : f.addr < 0x7003C) : t.fld f = s.fld f := by
  rw [State.fld, h.words _ hf, State.fld]

/-- What leaves the mode logic, the Plinth and the registers alone. -/
theorem State.Stands.of_parts (hm : t.modes = s.modes) (hp : t.plinth = s.plinth) (hr : t.regs = s.regs) : State.Stands s t :=
  ⟨by rw [State.level, hm, State.level], by rw [hm], by rw [hm], by rw [State.now, hp, State.now],
    fun a _ => by rw [State.reg, hr, State.reg]⟩

/-- A field above the words that stand. -/
theorem State.Stands.putF (h : State.Stands s t) (hf : 0x7003C ≤ f.addr) : State.Stands s (t.putF f n) :=
  h.trans ⟨rfl, rfl, rfl, rfl, fun _ ha => State.reg_putF_ne (Nat.ne_of_lt (Nat.lt_of_lt_of_le ha hf))⟩

theorem State.Stands.fire (h : State.Stands s t) : State.Stands s (t.fire n) :=
  h.trans (.of_parts State.fire_modes State.fire_plinth State.fire_regs)

theorem State.Stands.queueNote {q k : Nat} (h : State.Stands s t) : State.Stands s (t.queueNote .service q k) := by
  have hb (x : Nat) : 0x7003C ≤ queueBase .service + x := Nat.le_trans (by decide) (Nat.le_add_right _ x)
  exact State.Stands.putF (State.Stands.putF
    (.ite (h.putF (hb _)) (.ite (h.putF (hb _)) (h.putF (hb _)))) (hb _)) (hb _)

theorem State.Stands.logHw {x y z : Nat} (h : State.Stands s t) : State.Stands s (t.logHw x y z) := by
  have hput (q : List (Obs LogRec)) : State.Stands s { t with cox := { t.cox with logQ := q } } := h.trans (.of_parts rfl rfl rfl)
  unfold State.logHw State.logPut
  exact .ite (State.Stands.putF (hput _).queueNote (by decide)) (hput _)

/-- A change of the mode logic that leaves the level and what it follows alone. -/
theorem State.Stands.modes {x : Modes} (h : State.Stands s t) (hl : x.level = t.modes.level) (hd : x.droops = t.modes.droops)
    (ha : x.alert = t.modes.alert) : State.Stands s { t with modes := x } :=
  h.trans ⟨congrArg BitVec.toNat hl, hd, ha, rfl, fun _ _ => rfl⟩

theorem State.Stands.toMode (h : State.Stands s t) : State.Stands s (t.toMode m) := by
  unfold State.toMode
  split
  · exact h
  · exact State.Stands.logHw (State.Stands.fire (h.modes rfl rfl rfl))

theorem State.Stands.noRsvs (h : State.Stands s t) : State.Stands s t.noRsvs := by
  refine h.trans (.fold fun u i => ?_)
  refine State.Stands.putF (.of_parts rfl rfl rfl) ?_
  simp only [Fld.sl]
  omega

theorem State.Stands.enterQuiesce (h : State.Stands s t) : State.Stands s t.enterQuiesce := by
  have hd : State.Stands s t.startDrain := State.Stands.noRsvs (State.Stands.modes h.toMode rfl rfl rfl)
  unfold State.enterQuiesce
  split
  · exact hd
  · exact hd
  · exact h

theorem State.Stands.writeHeader {clean : Bool} (h : State.Stands s t) : State.Stands s (t.writeHeader clean) :=
  h.trans (.of_parts rfl rfl rfl)

theorem State.Stands.leaveQuiesce (h : State.Stands s t) : State.Stands s t.leaveQuiesce := by
  unfold State.leaveQuiesce
  split
  · exact h
  · exact State.Stands.toMode (State.Stands.modes (.ite h.writeHeader h) rfl rfl rfl)

theorem State.Stands.flush {k : PortId} (h : State.Stands s t) : State.Stands s (t.flush k) := by
  have ha : t.agreeOff [.ports, .mesh, .events] (t.flush k) := State.agreeOff_of_kept (by decide) State.flush_kept
  exact h.trans (.of_parts (ha .modes (by decide)) (ha .plinth (by decide)) (ha .regs (by decide)))

theorem State.Stands.enterLevel (h : State.Stands s t) : State.Stands s (t.enterLevel n) := by
  have hc : State.Stands s (t.incF ⟨0x7003C, 6 * (n - 1), 6⟩) := h.putF (Nat.le_refl _)
  exact .ite (hc.trans (.fold fun _ _ => .flush .refl)) (.ite hc.enterQuiesce hc)

theorem State.Stands.restartDwell (h : State.Stands s t) : State.Stands s t.restartDwell := h.modes rfl rfl rfl

theorem State.Stands.giveBack {k : AttId} {x y : Nat} (h : State.Stands s t) : State.Stands s (t.giveBack k x y) :=
  h.trans (.of_parts rfl rfl rfl)

/-! ## The level changes (R287, R290) -/

/-- The level as SHED_STAT says it, before its actions. -/
def State.announced (s : State) (n : Nat) : State :=
  (({ s with modes := { s.modes with level := BitVec.ofNat 3 n } }).restartDwell).maxF ⟨0x70038, 0, 3⟩ n

theorem State.setLevel_stands (h : n ≠ s.level) : State.Stands (s.announced n) (s.setLevel n) := by
  unfold State.setLevel
  dsimp only
  rw [if_neg h]
  have hs : State.Stands (s.announced n)
      (((s.announced n).fire (evG 24)).logHw 1 0 (s.level + 2 ^ 8 * n + 2 ^ 16 * ((s.announced n).fire (evG 24)).deepest)) :=
    (State.Stands.refl.fire).logHw
  split
  · exact (State.Stands.ite hs.toMode hs).trans (.fold fun _ _ => .enterLevel .refl)
  · have hg : State.Stands (s.announced n) _ := .ite (q := n < 3 ∧ 3 ≤ s.level) (hs.trans (.fold (l := allAtts) fun t k => .giveBack (k := k) (x := 0) (y := 0) .refl)) hs
    exact State.Stands.leaveQuiesce (.ite hg.toMode hg)

theorem State.announced_modes : (s.announced n).modes = { s.modes with level := BitVec.ofNat 3 n, levelSince := s.now } := by
  rw [State.announced, State.maxF_modes]
  rfl

theorem State.announced_level (h : n < 8) : (s.announced n).level = n := by
  rw [State.level, State.announced_modes]
  exact Nat.mod_eq_of_lt h

theorem State.setLevel_same : s.setLevel s.level = s := if_pos rfl

theorem State.setLevel_level (h : n < 8) : (s.setLevel n).level = n := by
  by_cases he : n = s.level
  · subst he
    rw [State.setLevel_same]
  · rw [(State.setLevel_stands he).level, State.announced_level h]

/-- Where the level comes from stands as the level changes, and the time with it. -/
theorem State.setLevel_keeps : (s.setLevel n).modes.droops = s.modes.droops ∧ (s.setLevel n).modes.alert = s.modes.alert
    ∧ (s.setLevel n).now = s.now ∧ (s.setLevel n).fld ⟨0x70034, 3, 3⟩ = s.fld ⟨0x70034, 3, 3⟩ := by
  by_cases he : n = s.level
  · subst he
    rw [State.setLevel_same]
    exact ⟨rfl, rfl, rfl, rfl⟩
  · have hs := State.setLevel_stands he
    refine ⟨hs.droops.trans (by rw [State.announced_modes]), hs.alert.trans (by rw [State.announced_modes]),
      hs.now.trans State.maxF_now, (hs.fld (by decide)).trans ?_⟩
    unfold State.announced State.maxF
    split
    · exact State.fld_putF_apart (by decide) (.inl (by decide))
    · rfl

theorem State.fld_maxF (hf : f.lo + f.len ≤ 32) (h : n < 2 ^ f.len) : (s.maxF f n).fld f = max (s.fld f) n := by
  unfold State.maxF
  split
  case isTrue hlt => rw [State.fld_putF hf, Nat.mod_eq_of_lt h, max_eq_right (Nat.le_of_lt hlt)]
  case isFalse hge => exact (max_eq_left (Nat.le_of_not_lt hge)).symm

theorem State.setLevel_deepest (h : n < 8) (he : n ≠ s.level) :
    (s.setLevel n).fld ⟨0x70038, 0, 3⟩ = max (s.fld ⟨0x70038, 0, 3⟩) n :=
  ((State.setLevel_stands he).fld (by decide)).trans (State.fld_maxF (by decide) h)

/-- A level that qualifies is reached at once (R287). -/
theorem State.qualify_level (h : n < 8) : (s.qualify n).level = max s.level n := by
  unfold State.qualify
  split
  case isTrue hlt => rw [State.setLevel_level h, max_eq_right (Nat.le_of_lt hlt)]
  case isFalse hge =>
    rw [max_eq_left (Nat.le_of_not_lt hge)]
    exact (State.Stands.ite (State.Stands.refl.restartDwell) .refl).level

theorem State.qualify_keeps : (s.qualify n).modes.droops = s.modes.droops ∧ (s.qualify n).modes.alert = s.modes.alert := by
  unfold State.qualify
  split
  · obtain ⟨hd, ha, -⟩ := State.setLevel_keeps (s := s) (n := n)
    exact ⟨hd, ha⟩
  · have hs : State.Stands s (if s.level = n ∧ n ≠ 0 then s.restartDwell else s) := .ite (State.Stands.refl.restartDwell) .refl
    exact ⟨hs.droops, hs.alert⟩

theorem State.levelOf_lt {d : Nat} : s.levelOf d < 8 := by
  have h5 : s.levelOf d ≤ 5 := by
    unfold State.levelOf
    refine List.foldlRecOn (motive := fun m => m ≤ 5) _ max (Nat.zero_le 5) fun m hm x hx => max_le hm ?_
    exact Nat.le_of_lt_succ (List.mem_range.mp (List.mem_filter.mp hx).1)
  omega

/-! ## The clauses of O45 -/

theorem State.seeDroop_level {i : Nat} {d : BitVec 8} : (s.seeDroop i d).level = s.level := by
  unfold State.seeDroop
  dsimp only
  split <;> rfl

theorem State.seeDroop_droops {i : Nat} {d : BitVec 8} : Store.get 0 (s.seeDroop i d).modes.droops i = d := by
  unfold State.seeDroop
  dsimp only
  split <;> exact Store.get_set_self

theorem State.seeDroop_fld {i : Nat} {d : BitVec 8} : (s.seeDroop i d).fld f = s.fld f := by
  unfold State.seeDroop
  dsimp only
  split <;> rfl

theorem execShedQualify_levels {mon : BitVec 2} {d : BitVec 8} (h0 : s.mode ≠ .off) (hr : s.mode ≠ .rest) :
    ∃ t, execShedQualify mon d s = .next t ∧ t.level = max s.level (s.levelOf d.toNat) ∧ Store.get 0 t.modes.droops mon.toNat = d
    ∧ (s.level < s.levelOf d.toNat → t.fld ⟨0x70038, 0, 3⟩ = max (s.fld ⟨0x70038, 0, 3⟩) (s.levelOf d.toNat)) := by
  refine ⟨(s.seeDroop mon.toNat d).qualify (s.levelOf d.toNat), if_neg (not_or.mpr ⟨h0, hr⟩), ?_, ?_, fun hlt => ?_⟩
  · rw [State.qualify_level State.levelOf_lt, State.seeDroop_level]
  · rw [State.qualify_keeps.1, State.seeDroop_droops]
  · rw [← State.seeDroop_level (i := mon.toNat) (d := d)] at hlt
    rw [State.qualify, if_pos hlt, State.setLevel_deepest State.levelOf_lt (Nat.ne_of_gt hlt), State.seeDroop_fld]

theorem execDroopAlert_levels {v : Bool} (h0 : s.mode ≠ .off) (hr : s.mode ≠ .rest) :
    ∃ t, execDroopAlert v s = .next t ∧ t.modes.alert = v
      ∧ t.level = (if v = true then max s.level (s.fld ⟨0x70034, 0, 3⟩) else s.level) := by
  have hx : s.fld ⟨0x70034, 0, 3⟩ < 8 := bits_lt
  have hmode : ¬ (({ s with modes := { s.modes with alert := v } }).mode = .off ∨ ({ s with modes := { s.modes with alert := v } }).mode = .rest) :=
    not_or.mpr ⟨h0, hr⟩
  unfold execDroopAlert
  dsimp only
  rw [if_neg hmode]
  cases v with
  | true =>
    refine ⟨_, rfl, State.qualify_keeps.2, ?_⟩
    rw [State.qualify_level hx]
    rfl
  | false =>
    have hs : State.Stands { s with modes := { s.modes with alert := false } }
        (if ({ s with modes := { s.modes with alert := false } } : State).level ≠ 0
            ∧ ({ s with modes := { s.modes with alert := false } } : State).level ≤ s.fld ⟨0x70034, 0, 3⟩
          then ({ s with modes := { s.modes with alert := false } } : State).restartDwell
          else { s with modes := { s.modes with alert := false } }) := .ite (State.Stands.refl.restartDwell) .refl
    exact ⟨_, rfl, hs.alert, hs.level⟩

theorem execShedStepDown_falls (h0 : s.mode ≠ .off) (hr : s.mode ≠ .rest) (hl : s.level ≠ 0) (hd : s.deepest + 4 < s.shedT s.level)
    (ha : s.modes.alert = false ∨ s.fld ⟨0x70034, 0, 3⟩ < s.level) (hf : s.fld ⟨0x70034, 3, 3⟩ < s.level) :
    ∃ t, execShedStepDown s = .next t ∧ t.level = s.level - 1 ∧ t.now = max s.now (s.modes.levelSince + 100000) := by
  have halert : (!(s.modes.alert && decide (s.level ≤ s.fld ⟨0x70034, 0, 3⟩))) = true := by
    rcases ha with ha | ha
    · rw [ha]; rfl
    · rw [decide_eq_false (Nat.not_le.mpr ha), Bool.and_false]; rfl
  have hlt : s.level - 1 < 8 := Nat.lt_of_le_of_lt (Nat.sub_le _ _) s.modes.level.isLt
  refine ⟨(s.reach (s.modes.levelSince + 100000)).setLevel (s.level - 1), ?_, State.setLevel_level hlt, ?_⟩
  · unfold execShedStepDown
    rw [if_neg (by simp [hl, h0, hr]), if_pos ⟨hd, halert, hf⟩]
  · obtain ⟨-, -, hnow, -⟩ := State.setLevel_keeps (s := s.reach (s.modes.levelSince + 100000)) (n := s.level - 1)
    rw [hnow]
    exact State.plinth_now_reach

theorem execShedForce_levels {v : BitVec 3} (hfw : s.fwUp = true) : ∃ t, execShedForce v s = .next t
    ∧ t.fld ⟨0x70034, 3, 3⟩ = min 4 v.toNat ∧ t.level = max s.level (min 4 v.toNat) := by
  have hv : (if 4 < v.toNat then 4 else v.toNat) = min 4 v.toNat := by split <;> omega
  have hf : (s.putF ⟨0x70034, 3, 3⟩ (min 4 v.toNat)).fld ⟨0x70034, 3, 3⟩ = min 4 v.toNat :=
    (State.fld_putF (by decide)).trans (Nat.mod_eq_of_lt (Nat.lt_of_le_of_lt (Nat.min_le_left _ _) (by decide)))
  refine ⟨(s.putF ⟨0x70034, 3, 3⟩ (min 4 v.toNat)).shedForce, by rw [execShedForce, if_pos hfw, hv], ?_⟩
  rw [State.shedForce, hf]
  split
  case isTrue hlt =>
    obtain ⟨-, -, -, hforce⟩ := State.setLevel_keeps (s := s.putF ⟨0x70034, 3, 3⟩ (min 4 v.toNat)) (n := min 4 v.toNat)
    refine ⟨hforce.trans hf, ?_⟩
    rw [State.setLevel_level (by omega)]
    exact (max_eq_right (Nat.le_of_lt hlt)).symm
  case isFalse hge => exact ⟨hf, (max_eq_left (Nat.le_of_not_lt hge)).symm⟩

end ShedLevel

section Starts

variable {s t : State} {m : Mode} {n : Nat} {hdr : BucketRead} {im : List LineData} {ok : Bool}

/-! ## CALIBRATE ends (R278, R279) -/

theorem State.toMode_modes : (s.toMode m).modes = { s.modes with mode := m } := by
  unfold State.toMode
  split
  case isTrue h => rw [← h]
  case isFalse => rw [State.logHw_modes, State.fire_modes]

theorem State.toMode_quiesceHeld : (s.toMode m).quiesceHeld = s.quiesceHeld := by
  have hs : State.Stands s (s.toMode m) := State.Stands.refl.toMode
  unfold State.quiesceHeld
  rw [hs.level, hs.fld (by decide), State.toMode_modes]

/-- From SERVE and SHED a trigger enters QUIESCE. -/
theorem State.enterQuiesce_mode (h : s.mode = .serve ∨ s.mode = .shed) : s.enterQuiesce.mode = .quiesce := by
  have hd : s.startDrain.mode = .quiesce := by
    rw [State.startDrain, State.noRsvs, State.mode, State.loseRsvAll_modes, State.toMode_modes]
  unfold State.enterQuiesce
  rcases h with h | h <;> rw [h] <;> exact hd

theorem State.admitMode_cases : s.admitMode = .serve ∨ s.admitMode = .shed := by
  unfold State.admitMode
  split
  · exact .inl rfl
  · exact .inr rfl

theorem State.enterQuiesce_agreeOff : s.agreeOff [.modes, .regs, .slices, .mesh, .events, .cox] s.enterQuiesce :=
  State.agreeOff_of_kept (by decide) State.enterQuiesce_kept

theorem State.openAdmission_opens : s.openAdmission.mode = (if s.quiesceHeld = true then .quiesce else s.admitMode)
    ∧ s.openAdmission.cast.clean = false ∧ s.openAdmission.agents = s.agents := by
  unfold State.openAdmission
  dsimp only
  generalize hu : ({ s.writeHeader false with modes := { (s.writeHeader false).modes with
    drained := false, drainStep := 0, restPhase := 0, cleanWr := false } } : State) = u
  have hheld : u.quiesceHeld = s.quiesceHeld := by rw [← hu]; rfl
  have hadmit : u.admitMode = s.admitMode := by rw [← hu]; rfl
  have hclean : u.cast.clean = false := by rw [← hu]; rfl
  have hagents : u.agents = s.agents := by rw [← hu]; rfl
  have hmode : (u.toMode u.admitMode).mode = u.admitMode := by rw [State.mode, State.toMode_modes]
  rw [State.toMode_quiesceHeld, hheld]
  split
  · have hq := State.enterQuiesce_agreeOff (s := u.toMode u.admitMode)
    refine ⟨State.enterQuiesce_mode (by rw [hmode]; exact State.admitMode_cases), ?_, ?_⟩
    · rw [hq .cast (by decide), State.toMode_cast, hclean]
    · rw [hq .agents (by decide), State.toMode_agents, hagents]
  · exact ⟨hmode.trans hadmit, by rw [State.toMode_cast, hclean], by rw [State.toMode_agents, hagents]⟩

theorem execCalibrateExit_opens (hm : s.mode = .calibrate) (hd : s.cast.done = true) (hi : s.cast.init = false)
    (hp : ∀ k, (s.mp k).ready = true) (hj : s.joinsDone = true) (hw : s.modes.calWindows ≠ 0) :
    execCalibrateExit s = .next s.openAdmission :=
  if_pos ⟨hm, hd, hi, List.all_eq_true.mpr fun k _ => hp k, hj, hw⟩

/-! ## The header decides the start (R82) -/

theorem State.hdrTaken_agreeOff : s.agreeOff [.ports] s.hdrTaken := State.agreeOff_of_kept (by decide) State.hdrTaken_kept

theorem State.headerOk_of_regs (h : t.regs = s.regs) : t.headerOk hdr = s.headerOk hdr := by
  have hf (f : Fld) : t.fld f = s.fld f := by rw [State.fld, State.reg, h, State.fld, State.reg]
  rw [State.headerOk, State.castSize, hf, hf, State.headerOk, State.castSize]

/-- The agents and slices that are carried over leave the cast logic as it is. -/
theorem State.carry_cast : (s.carry im).cast = { s.cast with carried := true } := by
  have hr (t : State) (a : Nat) : (t.restoreAgent im a).cast = t.cast :=
    State.agreeOff_of_kept (T := [.regs, .agents, .slices, .ports, .mesh, .hmap, .events]) (by decide) State.restoreAgent_kept .cast (by decide)
  unfold State.carry
  refine List.foldlRecOn (motive := fun u : State => u.cast = { s.cast with carried := true }) _ _
    (List.foldlRecOn (motive := fun u : State => u.cast = { s.cast with carried := true }) _ _ rfl fun u hu a _ => (hr u a).trans hu)
    fun u hu i _ => ?_
  split
  · exact hu
  · exact hu

theorem State.takeHeader_bad (h : s.headerOk hdr = false) : (s.takeHeader hdr im ok).cast = { s.cast with
    done := true, dsc := 0, hdrNew := true, gen := 1, init := true, writes := s.cast.writes + 1, clear := some 1 } := by
  have hh : ({ s with cast := { s.cast with done := true } } : State).headerOk hdr = false := (State.headerOk_of_regs rfl).trans h
  unfold State.takeHeader
  dsimp only
  rw [if_pos (by rw [hh]; rfl)]
  rfl

theorem State.takeHeader_good (h : s.headerOk hdr = true) : (s.takeHeader hdr im ok).cast.done = true
    ∧ (s.takeHeader hdr im ok).cast.dsc
      = BitVec.ofNat 32 (bytesNat hdr.data 8 4 + (if bytesNat hdr.data 12 1 = 1 then 0 else 1)) := by
  have hh : ({ s with cast := { s.cast with done := true } } : State).headerOk hdr = true := (State.headerOk_of_regs rfl).trans h
  have hstop : b2n (!decide (bytesNat hdr.data 12 1 = 1)) = if bytesNat hdr.data 12 1 = 1 then 0 else 1 := by
    by_cases h1 : bytesNat hdr.data 12 1 = 1 <;> simp [b2n, h1]
  unfold State.takeHeader
  dsimp only
  rw [if_neg (by rw [hh]; decide), hstop]
  split
  · rw [State.carry_cast]
    exact ⟨rfl, rfl⟩
  · split <;> exact ⟨rfl, rfl⟩

theorem execCastHeaderReturn_takes (hm : s.mode = .calibrate) (hd : s.cast.done = false) (hw : s.hdrWaits = false) :
    ∃ im', execCastHeaderReturn hdr im ok s = .next (s.hdrTaken.takeHeader (s.castSeen (s.castAddr 0 0) hdr) im' ok) :=
  ⟨_, if_pos ⟨.inl hm, hd, hw⟩⟩

end Starts

/-- Settles O45: the level by `setLevel_stands`, the start by what the header logic is left with. -/
theorem levelsAndStarts : Obligations.LevelsAndStarts := by
  unfold Obligations.LevelsAndStarts
  refine ⟨fun mon d s => execShedQualify_levels, fun v s => execDroopAlert_levels, fun s => execShedStepDown_falls,
    fun v s => execShedForce_levels, fun s hm hd hi hp hj hw => ⟨_, execCalibrateExit_opens hm hd hi hp hj hw, State.openAdmission_opens⟩,
    fun h im ok s hm hd hw => ?_⟩
  obtain ⟨im', he⟩ := execCastHeaderReturn_takes (hdr := h) (im := im) (ok := ok) hm hd hw
  have hregs : s.hdrTaken.regs = s.regs := State.hdrTaken_agreeOff .regs (by decide)
  refine ⟨fun hbad => ?_, fun hgood => ⟨_, he, State.takeHeader_good ((State.headerOk_of_regs hregs).trans hgood)⟩⟩
  have hc := State.takeHeader_bad (im := im') (ok := ok) ((State.headerOk_of_regs hregs).trans hbad)
  exact ⟨_, he, by rw [hc], by rw [hc], by rw [hc], by rw [hc], by rw [hc], by rw [hc]⟩

end Sys2Proof.Machine

/-! SUPPORT. A pass that the pipelines disagree on: it is replayed, or it is FATAL. -/

namespace Sys2Proof.Machine

section Mismatch

variable {s t u : State} {i : SliceId} {p : Pass} {n a : Nat} {chk : PassCheck} {r : Req} {rs : List Req} {m : Mode} {f : Fld} {k : AttId}

/-! ## The pass goes back (R375, R376) -/

theorem execNewRequestPass_head (hg : s.passGo i = true) (hc : s.cast.writes = 0) (hh : s.headNew i = some (r, rs)) :
    execNewRequestPass i chk s = .next ((s.modSl i (fun x => x.popNew rs)).pass i (.newReq r) 0 chk) := by
  simp only [execNewRequestPass, hg, hc, true_or, and_self, if_true, hh]

theorem State.pass_mismatch (h : chk.mismatch = true) : s.pass i p n chk = (s.count (cSl i 0) 1).mismatch i p n := if_pos h

/-- A slice that ends its reservations for an error counts them, and writes no other field. -/
theorem State.sliceErr_fld_apart (h : (Fld.sl i 0x280 16 16).apart f) : (s.sliceErr i).fld f = s.fld f :=
  State.fld_addF_apart (by simp [Fld.sl]) h

/-- A pass goes back to the head of INT with its count raised. -/
def State.putBack (s : State) (i : SliceId) (p : Pass) (n : Nat) : State :=
  s.modSl i (fun x => { x with int := .replay p (n + 1) :: x.int })

/-- RAS_REPLAY counts the mismatch, and keeps the highest replay count. -/
def State.mismatchNoted (s : State) (i : SliceId) (n : Nat) : State := (s.incF (Fld.sl i 0x308 0 16)).maxF (Fld.sl i 0x308 16 2) (n + 1)

/-- A mismatched pass that is replayed, before the slice's reservations end. -/
def State.replayed (s : State) (i : SliceId) (p : Pass) (n : Nat) : State :=
  ((((s.putBack i p n).mismatchNoted i n).fire (evSl i 0)).count (cSl i 28) 1).classRec

theorem State.mismatch_again (h : n < 3) : s.mismatch i p n = (s.replayed i p n).sliceErr i := if_neg (Nat.not_le.mpr h)

theorem State.mismatch_last (h : 3 ≤ n) : s.mismatch i p n = (s.sliceErr i).fatal 1 0 i.toNat 0 := if_pos h

theorem State.putBack_sl : (s.putBack i p n).sl i = { s.sl i with int := .replay p (n + 1) :: (s.sl i).int } := State.sl_modSl_self

theorem State.replayed_int : ((s.replayed i p n).sl i).int = .replay p (n + 1) :: (s.sl i).int := by
  simp [State.replayed, State.classRec, State.mismatchNoted, State.putBack_sl]

theorem State.replayed_dir : ((s.replayed i p n).sl i).dir = (s.sl i).dir := by
  simp [State.replayed, State.classRec, State.mismatchNoted, State.putBack_sl]

theorem State.replayed_modes : (s.replayed i p n).modes = s.modes := by
  simp [State.replayed, State.classRec, State.mismatchNoted, State.putBack]

theorem State.mismatchNoted_count : (s.mismatchNoted i n).fld (Fld.sl i 0x308 0 16) = min 65535 (s.fld (Fld.sl i 0x308 0 16) + 1) := by
  have hm : (s.mismatchNoted i n).fld (Fld.sl i 0x308 0 16) = (s.incF (Fld.sl i 0x308 0 16)).fld (Fld.sl i 0x308 0 16) := by
    unfold State.mismatchNoted State.maxF
    split
    · exact State.fld_putF_apart (by simp [Fld.sl]) (.inr (.inr (by simp [Fld.sl])))
    · rfl
  exact hm.trans (State.fld_incF (by simp [Fld.sl]))

theorem State.mismatchNoted_highest (h : n < 3) : n + 1 ≤ (s.mismatchNoted i n).fld (Fld.sl i 0x308 16 2) := by
  have hn : n + 1 < 2 ^ (Fld.sl i 0x308 16 2).len := Nat.succ_lt_succ h
  rw [State.mismatchNoted, State.fld_maxF (by simp [Fld.sl]) hn]
  exact Nat.le_max_right _ _

/-- What follows the note writes no other field of the slice. -/
theorem State.replayed_sliceErr_fld {lo len : Nat} : ((s.replayed i p n).sliceErr i).fld (Fld.sl i 0x308 lo len)
    = ((s.putBack i p n).mismatchNoted i n).fld (Fld.sl i 0x308 lo len) := by
  rw [State.sliceErr_fld_apart (.inl (by simp [Fld.sl])), State.replayed, State.classRec,
    State.fld_incF_apart (by decide) (.inl (by simp only [Fld.sl]; omega)), State.count_fld, State.fire_fld]

/-! ## The record of a FATAL cause stands while the block enters HOLD (R390 to R392) -/

/-- The words of the first cause and of its unit stand. -/
structure State.CauseStands (s t : State) : Prop where
  cause : t.reg 0x70100 = s.reg 0x70100
  unit : t.reg 0x70104 = s.reg 0x70104

theorem State.CauseStands.trans (h : State.CauseStands s t) (h' : State.CauseStands t u) : State.CauseStands s u :=
  ⟨h'.cause.trans h.cause, h'.unit.trans h.unit⟩

theorem State.CauseStands.fld_cause (h : State.CauseStands s t) (hf : f.addr = 0x70100) : t.fld f = s.fld f := by
  rw [State.fld, hf, h.cause, State.fld, hf]

theorem State.CauseStands.fld_unit (h : State.CauseStands s t) (hf : f.addr = 0x70104) : t.fld f = s.fld f := by
  rw [State.fld, hf, h.unit, State.fld, hf]

theorem State.CauseStands.of_regs (hr : t.regs = s.regs) : State.CauseStands s t :=
  ⟨by rw [State.reg, hr, State.reg], by rw [State.reg, hr, State.reg]⟩

theorem State.CauseStands.ite {q : Prop} [Decidable q] (h : State.CauseStands s t) (h' : State.CauseStands s u) :
    State.CauseStands s (if q then t else u) := by
  split
  · exact h
  · exact h'

/-- A write of another word. -/
theorem State.CauseStands.setReg {w : Word32} (h : State.CauseStands s t) (h0 : a ≠ 0x70100) (h1 : a ≠ 0x70104) :
    State.CauseStands s (t.setReg a w) :=
  h.trans ⟨by rw [State.reg_setReg, if_neg h0.symm], by rw [State.reg_setReg, if_neg h1.symm]⟩

/-- A field above the words that stand. -/
theorem State.CauseStands.putF (h : State.CauseStands s t) (hf : 0x70104 < f.addr) : State.CauseStands s (t.putF f n) :=
  h.setReg (Nat.ne_of_gt (Nat.lt_trans (by decide) hf)) (Nat.ne_of_gt hf)

theorem State.CauseStands.queueNote {q x : Nat} (h : State.CauseStands s t) : State.CauseStands s (t.queueNote .service q x) := by
  have hb (y : Nat) : 0x70104 < queueBase .service + y := Nat.lt_of_lt_of_le (by decide) (Nat.le_add_right _ y)
  exact State.CauseStands.putF (State.CauseStands.putF (.ite (h.putF (hb _)) (.ite (h.putF (hb _)) (h.putF (hb _)))) (hb _)) (hb _)

theorem State.CauseStands.logHw {x y z : Nat} (h : State.CauseStands s t) : State.CauseStands s (t.logHw x y z) := by
  have hput (q : List (Obs LogRec)) : State.CauseStands s { t with cox := { t.cox with logQ := q } } := h.trans (.of_regs rfl)
  unfold State.logHw State.logPut
  exact .ite (State.CauseStands.putF (hput _).queueNote (by decide)) (hput _)

theorem State.CauseStands.toMode (h : State.CauseStands s t) : State.CauseStands s (t.toMode m) := by
  unfold State.toMode
  exact .ite h (State.CauseStands.logHw (h.trans (.of_regs State.fire_regs)))

theorem State.CauseStands.evLevel {v : Bool} (h : State.CauseStands s t) : State.CauseStands s (t.evLevel a v) :=
  h.trans (.of_regs State.evLevel_regs)

theorem State.CauseStands.snapStart (h : State.CauseStands s t) : State.CauseStands s (t.snapStart n) :=
  .ite (State.CauseStands.setReg h (by decide) (by decide)) (h.trans (.of_regs rfl))

/-- A snapshot starts where none runs (R391). -/
theorem State.CauseStands.snapIdle (h : State.CauseStands s t) :
    State.CauseStands s (if t.counts.snap.busy.isSome then t else t.snapStart n) := .ite h h.snapStart

theorem State.CauseStands.holdAnswer (h : State.CauseStands s t) : State.CauseStands s (t.holdAnswer k) := by
  unfold State.holdAnswer
  dsimp only
  generalize (t.att k).order.map (·.req) ++ (t.att k).waitIn = rs
  have ha : State.CauseStands s (t.addF ⟨0x70114, 16, 16⟩ rs.length) := h.putF (by decide)
  have hf : State.CauseStands s (rs.foldl (fun s r => s.egNdr k (errNdr r.q)) (t.addF ⟨0x70114, 16, 16⟩ rs.length)) :=
    rs.foldlRecOn (motive := State.CauseStands s) _ ha fun u hu r _ => hu.trans (.of_regs rfl)
  exact hf.trans (.of_regs rfl)

/-- Every edge answers what it has accepted (R392). -/
theorem State.CauseStands.holdAnswers {ks : List Nat} (h : State.CauseStands s t) :
    State.CauseStands s (ks.foldl (fun s k => s.holdAnswer (BitVec.ofNat 4 k)) t) :=
  ks.foldlRecOn (motive := State.CauseStands s) _ h fun _ hu _ _ => hu.holdAnswer

theorem State.holdAnswers_modes {ks : List Nat} : (ks.foldl (fun s k => s.holdAnswer (BitVec.ofNat 4 k)) t).modes = t.modes := by
  refine ks.foldlRecOn (motive := fun u : State => u.modes = t.modes) _ rfl fun u hu k _ => ?_
  have hoff : u.agreeOff [.regs, .atts] (u.holdAnswer (BitVec.ofNat 4 k)) := State.agreeOff_of_kept (by decide) State.holdAnswer_kept
  exact (hoff .modes (by decide)).trans hu

/-- The first FATAL cause, with its unit, in the registers (R390). -/
def State.causeNoted (s : State) (cause kind num detail : Nat) : State :=
  (((s.putF ⟨0x70100, 0, 8⟩ cause).putF ⟨0x70104, 0, 3⟩ kind).putF ⟨0x70104, 3, 7⟩ num).putF ⟨0x70104, 10, 6⟩ detail

section Fatal

variable {cause kind num detail : Nat}

theorem State.fatal_stands (h : s.held = false) :
    State.CauseStands (s.causeNoted cause kind num detail) (s.fatal cause kind num detail) := by
  unfold State.fatal
  rw [if_neg (by rw [h]; decide)]
  have hn : State.CauseStands (s.causeNoted cause kind num detail) (((((s.causeNoted cause kind num detail).setReg 0x70108
      (BitVec.ofNat 32 s.now)).setReg 0x7010C (BitVec.ofNat 32 (s.now / 2 ^ 32))).toMode .hold)) :=
    .toMode (.setReg (.setReg (.of_regs rfl) (by decide) (by decide)) (by decide) (by decide))
  exact State.CauseStands.holdAnswers (State.CauseStands.snapIdle (State.CauseStands.logHw (.evLevel (hn.trans (.of_regs rfl)))))

theorem State.fatal_mode (h : s.held = false) : (s.fatal cause kind num detail).mode = .hold := by
  unfold State.fatal
  rw [if_neg (by rw [h]; decide), State.mode, State.holdAnswers_modes, apply_ite State.modes, State.snapStart_modes, ite_self,
    State.logHw_modes, State.evLevel_modes, State.toMode_modes]

theorem State.causeNoted_cause (h : cause < 256) : (s.causeNoted cause kind num detail).fld ⟨0x70100, 0, 8⟩ = cause := by
  rw [State.causeNoted, State.fld_putF_apart (by decide) (.inl (by decide)), State.fld_putF_apart (by decide) (.inl (by decide)),
    State.fld_putF_apart (by decide) (.inl (by decide)), State.fld_putF (by decide)]
  exact Nat.mod_eq_of_lt h

theorem State.causeNoted_num (h : num < 128) : (s.causeNoted cause kind num detail).fld ⟨0x70104, 3, 7⟩ = num := by
  rw [State.causeNoted, State.fld_putF_apart (by decide) (.inr (.inr (by decide))), State.fld_putF (by decide)]
  exact Nat.mod_eq_of_lt h

/-- The first FATAL cause sends the block to HOLD, and stands with the number of its unit (R390, R391). -/
theorem State.fatal_records (h : s.held = false) (hc : cause < 256) (hn : num < 128) :
    (s.fatal cause kind num detail).mode = .hold ∧ (s.fatal cause kind num detail).fld ⟨0x70100, 0, 8⟩ = cause
      ∧ (s.fatal cause kind num detail).fld ⟨0x70104, 3, 7⟩ = num := by
  have hs := State.fatal_stands (cause := cause) (kind := kind) (num := num) (detail := detail) h
  refine ⟨State.fatal_mode h, ?_, ?_⟩
  · exact (hs.fld_cause rfl).trans (State.causeNoted_cause hc)
  · exact (hs.fld_unit rfl).trans (State.causeNoted_num hn)

theorem State.fatal_slices : (s.fatal cause kind num detail).slices = s.slices := by
  have hoff : s.agreeOff [.modes, .pins, .regs, .atts, .mesh, .events, .counts, .cox] (s.fatal cause kind num detail) :=
    State.agreeOff_of_kept (by decide) State.fatal_kept
  exact hoff .slices (by decide)

end Fatal

end Mismatch

/-- Settles O21. The passes are those of the heads of their queues; a mismatched one goes back to the head of INT, or is the FATAL
cause that HOLD keeps on record. -/
theorem passesTakeTheHeadOfTheirQueue : Obligations.PassesTakeTheHeadOfTheirQueue := by
  unfold Obligations.PassesTakeTheHeadOfTheirQueue
  refine ⟨fun i chk r rest s hg hc hh => execNewRequestPass_head hg hc hh,
    fun i chk l h rest s hg hh => congrArg _ (State.intPass_head hg hh rfl),
    fun i chk p n rest s hg hh => congrArg _ (State.intPass_head hg hh rfl), ?_⟩
  intro i p n chk s hm hheld
  rw [State.pass_mismatch hm]
  refine ⟨fun hn => ?_, fun hn => ?_⟩
  · rw [State.mismatch_again hn, State.sliceErr_sl, State.replayed_sliceErr_fld, State.replayed_sliceErr_fld]
    refine ⟨?_, rfl, ?_, ?_, State.mismatchNoted_highest hn, ?_⟩
    · exact State.replayed_int.trans (by rw [State.count_sl_int])
    · exact State.replayed_dir.trans State.count_sl_dir
    · rw [State.mismatchNoted_count, State.putBack, State.modSl_fld, State.count_fld]
    · rw [State.sliceErr_mode, State.mode, State.replayed_modes, State.count_modes, State.mode]
  · obtain ⟨hmode, hcause, hnum⟩ := State.fatal_records (s := (s.count (cSl i 0) 1).sliceErr i) (cause := 1) (kind := 0)
      (num := i.toNat) (detail := 0) (by rw [State.sliceErr_held, State.count_held, hheld]) (by decide) (Nat.lt_trans i.isLt (by decide))
    rw [State.mismatch_last hn, State.sl, State.fatal_slices, ← State.sl, State.sliceErr_sl]
    exact ⟨hmode, hcause, hnum, State.count_sl_dir, rfl⟩

end Sys2Proof.Machine

/-! SUPPORT. Writes at a memory port: the turn of the head of the intake, the merge of bytes, the bank and the commands for MCMD. -/

namespace Sys2Proof.Machine

section Writes

variable {s : State} {m : PortId} {c : MemCmd} {rest : List MemCmd} {b : WBeat} {par : Parity} {d w : LineData} {psn early : Bool}
  {k km : Nat} {v : Way} {l : Line} {a : AgentId} {p : Port}

/-! ## Bytes of a line (R119) -/

/-- The bits of the line that the first n bytes build. -/
theorem getLsbD_foldl_bytes {f : Nat → Byte} {j : Nat} (hj : j < 512) (n : Nat) :
    ((List.range n).foldl (fun (d : LineData) k => d ||| ((f k).setWidth 512 <<< (8 * k))) 0).getLsbD j
      = (decide (j / 8 < n) && (f (j / 8)).getLsbD (j % 8)) := by
  induction n with
  | zero => simp
  | succ n ih =>
    rw [List.range_succ, List.foldl_append, List.foldl_cons, List.foldl_nil, BitVec.getLsbD_or, ih, BitVec.getLsbD_shiftLeft,
      BitVec.getLsbD_setWidth]
    rcases Nat.lt_trichotomy (j / 8) n with h | h | h
    · have hlow : j < 8 * n := by omega
      simp [h, hlow, Nat.lt_succ_of_lt h]
    · have hoff : j - 8 * n = j % 8 := by omega
      have hnot : ¬ j < 8 * n := by omega
      have hin : j % 8 < 512 := by omega
      simp [h, hoff, hnot, hj, hin]
    · have hfar : 8 ≤ j - 8 * n := by omega
      have hnot : ¬ j / 8 < n + 1 := by omega
      simp [Nat.not_lt.mpr (Nat.le_of_lt h), hnot, BitVec.getLsbD_of_ge _ _ hfar]

theorem byteOf_lineOfBytes {f : Nat → Byte} (h : k < 64) : byteOf (lineOfBytes f) k = f k := by
  refine BitVec.eq_of_getLsbD_eq fun j hj => ?_
  have hb : 8 * k + j < 512 := by omega
  have hk : (8 * k + j) / 8 = k := by omega
  have hm : (8 * k + j) % 8 = j := by omega
  rw [byteOf, BitVec.getLsbD_extractLsb', lineOfBytes, getLsbD_foldl_bytes hb, hk, hm]
  rw [decide_eq_true hj, decide_eq_true h, Bool.true_and, Bool.true_and]

theorem byteOf_mergeLine {be : BitVec 64} (h : k < 64) :
    byteOf (mergeLine d w be) k = if be.getLsbD k then byteOf w k else byteOf d k := byteOf_lineOfBytes h

/-! ## The head of the intake has its turn (R163, R165, R215) -/

theorem pickCmd_head {ok : List MemCmd → MemCmd → Bool} (h : ok [] c = true) : pickCmd ok [] (c :: rest) = some (c, rest) := if_pos h

theorem Port.inTurn_head (h : p.pendingLine c.line = false) : p.inTurn [] c = true := by simp [Port.inTurn, h]

section Head

variable (hr : s.runs = true) (hi : (s.mp m).intake = c :: rest) (hp : (s.mp m).pendingLine c.line = false)
include hr hi hp

theorem execWrite_beat (ho : c.op = .write) (hc : s.canWrite m c = true) (hn : c.poison = false) (hb : (s.mp m).beatOf c = some b) :
    execWrite m s [] = .next ((s.takeCmd m c rest).landWrite m c b.w.data b.psn none (s.earlyAck c.line)) := by
  unfold execWrite
  dsimp only
  rw [hi, pickCmd_head (c := c) (by simp [ho, Port.inTurn_head hp, hc, hb])]
  simp [hr, State.lookTags_nil, State.not_held_of_runs hr, hn, hb]

theorem execWrite_poison (ho : c.op = .write) (hc : s.canWrite m c = true) (hn : c.poison = true) :
    execWrite m s [] = .next ((s.takeCmd m c rest).landWrite m c 0 true none (s.earlyAck c.line)) := by
  unfold execWrite
  dsimp only
  rw [hi, pickCmd_head (c := c) (by simp [ho, Port.inTurn_head hp, hc, hn])]
  simp [hr, State.lookTags_nil, State.not_held_of_runs hr, hn]

theorem execAtomic_head (ho : c.op = .atomic) (hu : (s.mp m).atomBusy = false) (hb : (s.mp m).beatOf c = some b)
    (hc : s.canMerge m c = true) : execAtomic m par s [] = .next ((s.takeCmd m c rest).merge m c b par) := by
  unfold execAtomic
  dsimp only
  rw [hi, pickCmd_head (c := c) (by simp [ho, hu, Port.inTurn_head hp, hb, hc])]
  simp [hr, hb, State.lookTags_nil, State.not_held_of_runs hr]

/-- A WRITE_PARTIAL's turn has come when what its byte enable asks for can be done (R119, R183). -/
theorem execWritePartial_head (ho : c.op = .wpartial) (hb : (s.mp m).beatOf c = some b)
    (hc : (if b.w.be = 0 then true else if b.w.be = BitVec.allOnes 64 then s.canWrite m c else s.canMerge m c) = true) :
    execWritePartial m par s [] = .next (if b.w.be = 0 then (s.takeCmd m c rest).sendRpt c .ok (((s.takeCmd m c rest).mp m).hdirty c.line)
      else if b.w.be = BitVec.allOnes 64 then (s.takeCmd m c rest).landWrite m c b.w.data b.psn none (s.earlyAck c.line)
      else (s.takeCmd m c rest).merge m c b par) := by
  unfold execWritePartial
  dsimp only
  rw [hi, pickCmd_head (c := c) (by simp only [ho, Port.inTurn_head hp, hb, hc, decide_true, Bool.and_self])]
  simp only [hr, hb, State.lookTags_nil, State.not_held_of_runs hr, Bool.false_eq_true, if_false, apply_ite Host.Outcome.next]
  rfl

end Head

theorem State.takeCmd_hdirty : ((s.takeCmd m c rest).mp m).hdirty l = (s.mp m).hdirty l := by
  rw [State.takeCmd, State.mp_modMp_self]
  rfl

/-! ## The bank after an absorbed write (R162, R163) -/

theorem Port.hway_putDirty (h : mateKey k v ≠ k) :
    (p.putDirty k v).hway k = some v ∧ (p.putDirty k v).hway (mateKey k v) = some (v.mirrorOf k) :=
  ⟨(Store.get_set_ne h.symm).trans Store.get_set_self, Store.get_set_self⟩

/-- The mirror's way is the one of the set that the DIRTY way names. -/
theorem mateKey_of_mway (hm : v.mway = BitVec.ofNat 4 km) (hk : km / 16 = k / 16) : mateKey k v = km := by
  rw [mateKey, hm, BitVec.toNat_ofNat, ← hk]
  exact Nat.div_add_mod' km 16

/-- An absorbed write leaves the bank with a DIRTY way and its mirror written. -/
theorem State.absorb_mp : ∃ (q : Port) (v : Way), (s.absorb m l d psn a k km).mp m = q.putDirty k v
    ∧ v.line = l ∧ v.st = .dirty ∧ v.data = d ∧ v.psn = psn ∧ v.mway = BitVec.ofNat 4 km := by
  unfold State.absorb
  dsimp only
  rw [State.count_mp, apply_ite (fun u : State => u.mp m), State.count_mp, ite_self, State.mp_modMp_self]
  exact ⟨_, _, rfl, rfl, rfl, rfl, rfl, rfl⟩

theorem State.absorb_frame : (s.absorb m l d psn a k km).slices = s.slices ∧ (s.absorb m l d psn a k km).held = s.held := by
  unfold State.absorb
  dsimp only
  refine ⟨?_, ?_⟩
  · rw [count_cMp_slices, apply_ite State.slices, count_cMp_slices, ite_self, State.modMp_slices]
    split
    · exact State.useWay_slices
    · rfl
  · rw [State.count_held, apply_ite State.held, State.count_held, ite_self, State.modMp_held]
    split
    · exact State.useWay_held
    · rfl

theorem State.sendRpt_int {st : MemStatus} {hd : Bool} (h : s.held = false) :
    ((s.sendRpt c st hd).sl c.slice).int = (s.sl c.slice).int ++ [.rpt ⟨c.htag, c.tag, c.line, st, hd⟩] := by
  rw [State.sendRpt, if_neg (by rw [h]; decide), State.rptTo_int]

theorem State.landWrite_absorbed (ha : s.absorbs m early = true) (hp : (s.mp m).absorbPlan c.line = some (k, km)) :
    s.landWrite m c d psn none early
      = (s.absorb m c.line d psn (if c.poison then 0xFFF else c.agent) k km).sendRpt c .ok true := by
  simp only [State.landWrite, ha, if_true, hp]

/-! ## A write that waits for MCMD (R111, R163) -/

theorem State.landWrite_through {old : Option (LineData × Bool)} (ha : s.absorbs m early = false) :
    s.landWrite m c d psn old early = s.writeThrough m c d psn (if c.poison then 0xFFF else c.agent) old := by
  simp only [State.landWrite, ha, Bool.false_eq_true, if_false]

theorem State.writeThrough_waits {old : Option (LineData × Bool)} :
    ∃ x, ((s.writeThrough m c d psn a old).mp m).waitq.getLast? = some x ∧ x.line = c.line ∧ x.data = some (d, psn)
      ∧ x.isWrite = true := by
  unfold State.writeThrough
  dsimp only
  rw [State.count_mp, State.mp_modMp_self]
  refine ⟨_, List.getLast?_concat, rfl, rfl, ?_⟩
  by_cases hc : c.poison = true
  · rw [if_pos hc]; rfl
  · rw [if_neg hc]; rfl

theorem State.writeThrough_slices {old : Option (LineData × Bool)} : (s.writeThrough m c d psn a old).slices = s.slices := by
  unfold State.writeThrough
  dsimp only
  rw [count_cMp_slices, State.modMp_slices]
  split
  · rw [State.modMp_slices, State.useWay_slices]
  · rfl

theorem State.finishMerge_partial (h : c.op = .wpartial) : s.finishMerge m c b d psn early
    = (s.count (cMp m 21) 1).landWrite m c (mergeLine d b.w.data b.w.be) (psn || b.psn) none early := if_neg (by rw [h]; decide)

end Writes

/-- Settles O33. The head of the intake has its turn; an absorbed write stands in both ways of its plan, another one among the
commands for MCMD; a merge is byte by byte. -/
theorem writesLand : Obligations.WritesLand := by
  unfold Obligations.WritesLand
  refine ⟨⟨?_, ?_, ?_⟩, ?_, fun m c b d psn early s ho => State.finishMerge_partial ho, fun d w be k hk => byteOf_mergeLine hk⟩
  · intro m c rest s hr hi ho hp hc
    exact ⟨fun b hn hb => execWrite_beat hr hi hp ho hc hn hb, fun hn => execWrite_poison hr hi hp ho hc hn⟩
  · intro m c rest b par s hr hi ho hp hb
    refine ⟨fun h0 => ?_, fun h1 hc => ?_, fun h0 h1 hc => ?_⟩
    · refine (execWritePartial_head hr hi hp ho hb (if_pos h0)).trans ?_
      rw [if_pos h0, State.takeCmd_hdirty]
    · have h0 : b.w.be ≠ 0 := by rw [h1]; decide
      refine (execWritePartial_head hr hi hp ho hb (by rw [if_neg h0, if_pos h1, hc])).trans ?_
      rw [if_neg h0, if_pos h1]
    · refine (execWritePartial_head hr hi hp ho hb (by rw [if_neg h0, if_neg h1, hc])).trans ?_
      rw [if_neg h0, if_neg h1]
  · intro m c rest b par s hr hi ho hu hp hb hc
    exact execAtomic_head hr hi hp ho hu hb hc
  · intro m c d psn early s hh
    refine ⟨fun k km ha hp hne hset => ?_, fun ha => ?_⟩
    · obtain ⟨hsl, hheld⟩ := State.absorb_frame (s := s) (m := m) (l := c.line) (d := d) (psn := psn)
        (a := if c.poison then 0xFFF else c.agent) (k := k) (km := km)
      obtain ⟨q, v, hq, hline, hst, hdata, hpsn, hmway⟩ := State.absorb_mp (s := s) (m := m) (l := c.line) (d := d) (psn := psn)
        (a := if c.poison then 0xFFF else c.agent) (k := k) (km := km)
      have hmate : mateKey k v = km := mateKey_of_mway hmway hset
      obtain ⟨hdirty, hmirror⟩ := Port.hway_putDirty (p := q) (v := v) (k := k) (by rw [hmate]; exact hne)
      rw [State.landWrite_absorbed ha hp, State.sendRpt_mp, hq, State.sendRpt_int (hheld.trans hh), State.sl, hsl, ← State.sl]
      exact ⟨⟨v, v.mirrorOf k, hdirty, hline, hst, hdata, hpsn, hmate ▸ hmirror, hline, rfl, hdata, hpsn⟩, rfl⟩
    · rw [State.landWrite_through ha]
      exact ⟨State.writeThrough_waits, State.writeThrough_slices⟩

end Sys2Proof.Machine

/-! SUPPORT. Snoop-response writes served in a flow, and the slots that an EGRESS_ACK frees. -/

namespace Sys2Proof.Machine

section Served

variable {s : State} {i : SliceId} {n : Nat} {r : Req} {c : MemCmd} {x : Slot} {chk : PassCheck} {a : AgentId} {h : BitVec 16}
  {rest : List RspMsg} {rs : List Req}

/-! ## Heads of WB and of RSP (R106, R129) -/

theorem execSnoopResponseWrite_head (hg : s.passGo i = true) (hh : s.headWb i = some (r, rs)) :
    execSnoopResponseWrite i s chk = .next ((s.modSl i (fun x => { x with wb := rs })).pass i (.write r) 0 chk) := by
  simp only [execSnoopResponseWrite, hg, if_true, hh]

theorem execEgressAckPass_head (hg : s.passGo i = true) (hh : s.headRsp i = some (.eack a h, rest)) :
    execEgressAckPass i s chk = .next ((s.modSl i (fun x => { x with rsp := rest })).pass i (.rsp (.eack a h)) 0 chk) := by
  simp only [execEgressAckPass, hg, if_true, hh]

/-! ## A command goes to its port (R108) -/

theorem State.sendCmd_intake (hb : s.portBounces (portOf c.line) = false) :
    ((s.sendCmd c).mp (portOf c.line)).intake = (s.mp (portOf c.line)).intake ++ [c] := by
  unfold State.sendCmd
  dsimp only
  rw [State.inject_portBounces, hb, Bool.not_false, if_pos rfl, State.mp_modMp_self]
  rfl

theorem State.routePull_mp {m : PortId} {la : AttId} {p : Pull} : (s.routePull la p).mp m = s.mp m := by
  unfold State.routePull
  dsimp only
  split <;> rfl

/-! ## A write of a snooped agent (R106, R147, R209) -/

/-- The command of a write that the flow in slot n serves. -/
def srwCmd (i : SliceId) (n : Nat) (r : Req) (t : BitVec 16) : MemCmd :=
  { op := if r.op = .wrPartial then .wpartial else .write, line := r.q.laddr, slice := i, htag := some (htagOf i n), tag := t, la := r.la,
    agent := r.q.agent, rtag := r.q.tag, parts := 0, poison := false, aop := 0, aw := 0, aoff := 0, kind := none }

/-- A tag of the flow's is taken, and the other agents' reservations of the line are lost. -/
def State.srwTagged (s : State) (i : SliceId) (r : Req) : State :=
  (s.nextTag i).1.loseRsv i (fun v => decide (v.line = r.q.laddr) && decide (v.agent ≠ r.q.agent))

/-- The command has left, and the write's data is asked for. -/
def State.srwSent (s : State) (i : SliceId) (n : Nat) (r : Req) : State :=
  match r.buf with
  | some b => ((s.srwTagged i r).sendCmd (srwCmd i n r (s.sl i).nextTag)).routePull r.la
      { buf := b, port := some (portOf r.q.laddr), slice := i, tag := (s.sl i).nextTag }
  | none => (s.srwTagged i r).sendCmd (srwCmd i n r (s.sl i).nextTag)

/-- The slot of the flow knows the write and awaits its report. -/
def Slot.serves (x : Slot) (r : Req) (t : BitVec 16) : Slot :=
  { x with srws := x.srws ++ [{ agent := r.q.agent, la := r.la, rtag := r.q.tag, tag := t }], rpts := x.rpts ++ [t] }

theorem State.snoopWrite_eq : s.snoopWrite i n r = (s.srwSent i n r).modSlot i n (fun y => y.serves r (s.sl i).nextTag) := rfl

theorem State.srwTagged_slot : ((s.srwTagged i r).sl i).slot n = (s.sl i).slot n := by
  rw [State.srwTagged, Slice.slot_of_work State.work_loseRsv, State.nextTag, State.sl_modSl_self]
  rfl

theorem State.srwTagged_rsvs : ((s.srwTagged i r).sl i).rsvs
    = (s.sl i).rsvs.filter (fun v => !(decide (v.line = r.q.laddr) && decide (v.agent ≠ r.q.agent))) := by
  rw [State.srwTagged, State.loseRsv, State.addF_sl, State.sl_modSl_self, State.nextTag, State.sl_modSl_self]

theorem State.srwSent_sl : (s.srwSent i n r).sl i = (s.srwTagged i r).sl i := by
  unfold State.srwSent
  split
  · rw [State.sl, State.routePull_slices, ← State.sl, State.sendCmd_sl]
  · rw [State.sendCmd_sl]

theorem State.srwSent_intake (hb : s.portBounces (portOf r.q.laddr) = false) : ((s.srwSent i n r).mp (portOf r.q.laddr)).intake
    = (s.mp (portOf r.q.laddr)).intake ++ [srwCmd i n r (s.sl i).nextTag] := by
  have hc : (((s.srwTagged i r).sendCmd (srwCmd i n r (s.sl i).nextTag)).mp (portOf r.q.laddr)).intake
      = (s.mp (portOf r.q.laddr)).intake ++ [srwCmd i n r (s.sl i).nextTag] :=
    State.sendCmd_intake (s := s.srwTagged i r) (c := srwCmd i n r (s.sl i).nextTag) hb
  unfold State.srwSent
  split
  · rw [State.routePull_mp, hc]
  · exact hc

theorem State.snoopWrite_slot (hx : (s.sl i).slot n = some x) :
    ((s.snoopWrite i n r).sl i).slot n = some (x.serves r (s.sl i).nextTag) := by
  rw [State.snoopWrite_eq, State.slot_modSlot, State.srwSent_sl, State.srwTagged_slot, hx]
  rfl

theorem State.snoopWrite_rsvs : ((s.snoopWrite i n r).sl i).rsvs = ((s.srwTagged i r).sl i).rsvs := by
  rw [State.snoopWrite_eq, State.modSlot, State.sl_modSl_self, ← State.srwSent_sl]
  rfl

/-- No other agent's reservation of the line is left. -/
theorem State.agent_of_mem_snoopWrite_rsvs {v : Rsv} (hv : v ∈ ((s.snoopWrite i n r).sl i).rsvs) (hl : v.line = r.q.laddr) :
    v.agent = r.q.agent := by
  rw [State.snoopWrite_rsvs, State.srwTagged_rsvs] at hv
  simpa [hl] using (List.mem_filter.mp hv).2

/-! ## A slot is freed (R99, R101) -/

/-- A sample's record changes the sampling's own fields of the slice. -/
theorem State.view_smpSend {γ : Type} {view : Slice → γ} {t fl : Nat}
    (hv : ∀ (x : Slice) u v, view { x with sampSeq := u, sampFly := v } = view x) :
    view ((s.smpSend i r t fl).sl i) = view (s.sl i) := by
  unfold State.smpSend
  split
  · rfl
  · dsimp only
    generalize hu : s.modSl i _ = u
    generalize obsPut u.counts.recQ _ _ = q
    have hm : view (u.sl i) = view (s.sl i) := hu ▸ State.view_modSl fun x => hv x _ _
    split
    · exact hm
    · exact hm

theorem State.work_kickJobs : ((s.kickJobs i).sl i).work = (s.sl i).work := by
  unfold State.kickJobs
  split
  · rfl
  · exact State.work_modSl fun _ => rfl

theorem State.work_kick : ((s.kick i).sl i).work = (s.sl i).work := by
  rw [State.kick, State.work_kickJobs, State.sl_setSl_self]
  exact State.work_kickEsc

/-- A slot that frees stays free where no job waits for one. -/
theorem State.giveSlot_of_no_job (h : (s.sl i).jobPark = []) : s.giveSlot i n = s := by
  have hj : (s.sl i).slotJob = none := by rw [Slice.slotJob, h]; rfl
  simp only [State.giveSlot, hj, ite_self]

theorem State.slot_freeSlot (hx : (s.sl i).slot n = some x) (hr : x.released = true) (hp : x.rpts = []) (he : x.eack = false)
    (ho : x.openCopies = false) (hj : (s.sl i).jobPark = []) : ((s.freeSlot i n).sl i).slot n = none := by
  simp only [State.freeSlot, hx, hr, hp, he, ho, and_self, if_true]
  rw [Slice.slot_of_work State.work_kick, State.giveSlot_of_no_job, State.sl_modSl_self]
  · exact Store.get_set_self
  · rw [State.sl_modSl_self]
    split
    · exact (State.view_smpSend (view := Slice.jobPark) fun _ _ _ => rfl).trans hj
    · exact hj

theorem State.freeSlot_of_open (hx : (s.sl i).slot n = some x) (ho : x.openCopies = true) : s.freeSlot i n = s := by
  simp only [State.freeSlot, hx, ho, Bool.true_eq_false, and_false, if_false]

/-- A slot whose acknowledgement has come. -/
def Slot.acked (x : Slot) (now : Nat) : Slot := { (x.smp (fun m => { m with egress := some now })) with eack := false }

theorem State.ackSlot_released (hx : (s.sl i).slot n = some x) (hr : x.released = true) :
    s.ackSlot i n = (s.modSlot i n (fun y => y.acked s.now)).freeSlot i n := by
  simp only [State.ackSlot, hx, hr, if_true]
  rfl

end Served

/-- Settles O25. The flow sends the write's command under its next tag; an acknowledged slot that awaits nothing more is freed, and
no job takes it. -/
theorem slotsAreServedAndFreed : Obligations.SlotsAreServedAndFreed := by
  unfold Obligations.SlotsAreServedAndFreed
  refine ⟨⟨fun i chk r rest s hg hh => execSnoopResponseWrite_head hg hh, fun i n r x s hx hb => ?_⟩,
    fun i chk a h rest s hg hh => execEgressAckPass_head hg hh, fun i n x s hx hr hp => ?_⟩
  · exact ⟨State.snoopWrite_slot hx, State.srwSent_intake hb, fun v hv hl => State.agent_of_mem_snoopWrite_rsvs hv hl⟩
  · have hslot : ((s.modSlot i n (fun y => y.acked s.now)).sl i).slot n = some (x.acked s.now) := by
      rw [State.slot_modSlot, hx]
      rfl
    rw [State.ackSlot_released hx hr]
    refine ⟨fun ho hj => ?_, fun ho => ⟨x.acked s.now, ?_, rfl⟩⟩
    · refine State.slot_freeSlot hslot hr hp rfl ho ?_
      rw [State.modSlot, State.sl_modSl_self]
      exact hj
    · rw [State.freeSlot_of_open hslot ho, hslot]

end Sys2Proof.Machine

/-! SUPPORT. FENCE and CONFLICT at an attachment's edge, and the answer to a CONFLICT. -/

namespace Sys2Proof.Machine

section FencesAndConflicts

variable {s : State} {la k : AttId} {q : ReqHdr} {r : Req} {i : SliceId} {n : Nat} {m p : PortId} {f : JoinedFence} {b : Bool}

/-! ## Sweep requests (R202, R264) -/

/-- A sweep request changes the registers, the ports and the messages that travel. -/
theorem State.sendSweep_agreeOff : s.agreeOff [.regs, .ports, .mesh] (s.sendSweep m f) :=
  State.agreeOff_of_kept (by decide) State.sendSweep_kept

theorem State.sendSweep_portBounces : (s.sendSweep m f).portBounces p = s.portBounces p :=
  State.portBounces_of fun j => by
    have hr : (s.sendSweep m f).mesh.routers = s.mesh.routers := State.sendSweep_agreeOff .routers (by decide)
    rw [State.router, hr, State.router]

theorem State.sweepReqs_sendSweep (hb : s.portBounces p = false) :
    ((s.sendSweep m f).mp p).sweepReqs = (s.mp p).sweepReqs ++ List.replicate ([m].count p) f := by
  by_cases hm : m = p
  · subst hm
    unfold State.sendSweep
    dsimp only
    rw [State.inject_portBounces, hb, Bool.not_false, if_pos rfl, State.mp_modMp_self, List.count_singleton_self]
    rfl
  · have hp : (s.sendSweep m f).mp p = s.mp p := by
      unfold State.sendSweep
      dsimp only
      rw [apply_ite (fun u : State => u.mp p), State.mp_modMp, if_neg (Ne.symm hm)]
      exact ite_self _
    rw [hp, List.count_eq_zero_of_not_mem (by simpa using Ne.symm hm), List.replicate_zero, List.append_nil]

/-- The sweep requests of a FENCE to a list of ports. -/
def State.sendSweeps (s : State) (ms : List PortId) (f : JoinedFence) : State := ms.foldl (fun s m => s.sendSweep m f) s

/-- A port that is not in bounce mode receives a request for each time it is asked. -/
theorem State.sweepReqs_sendSweeps {ms : List PortId} (hb : s.portBounces p = false) :
    ((s.sendSweeps ms f).mp p).sweepReqs = (s.mp p).sweepReqs ++ List.replicate (ms.count p) f := by
  induction ms generalizing s with
  | nil => simp [State.sendSweeps]
  | cons m ms ih =>
    have hcount : (m :: ms).count p = [m].count p + ms.count p := List.count_append (l₁ := [m])
    have hstep := ih (s := s.sendSweep m f) (State.sendSweep_portBounces.trans hb)
    rw [State.sweepReqs_sendSweep hb, List.append_assoc, List.replicate_append_replicate, ← hcount] at hstep
    exact hstep

theorem State.sendSweeps_atts {ms : List PortId} : (s.sendSweeps ms f).atts = s.atts :=
  ms.foldlRecOn (motive := fun u : State => u.atts = s.atts) _ rfl fun _ hu _ _ => (State.sendSweep_agreeOff .atts (by decide)).trans hu

theorem count_allPorts : allPorts.count p = 1 := by
  revert p
  decide

/-! ## A FENCE passes the gate (R98, R202) -/

theorem State.paid_now : (s.paid b la).now = s.now := by simp [State.paid]
theorem State.paid_level : (s.paid b la).level = s.level := by simp [State.paid]
theorem State.paid_portBounces : (s.paid b la).portBounces p = s.portBounces p := by
  rw [State.paid, State.count_portBounces]
  rfl

/-- The fence entry of a FENCE that is taken at time t. -/
def fenceEntryOf (q : ReqHdr) (t : Nat) : FenceEntry :=
  { agent := q.agent, tag := q.tag, otag := q.otag, start := t, ports := [], err := false, dead := false }

/-- What a FENCE asks of every port. -/
def sweepOf (la : AttId) (n : Nat) (q : ReqHdr) : JoinedFence :=
  { la := la, entry := BitVec.ofNat 2 n, agent := q.agent, left := 1024, rews := [], closed := false }

theorem State.fenceTake_eq : s.fenceTake k n r = ((((s.modAtt k (fun a => { a with
    fences := Store.set none a.fences n (some (fenceEntryOf r.q s.now)) })).sendSweeps allPorts (sweepOf k n r.q)).retReq k).count
      (cLa k 14) 1) := rfl

theorem State.fenceTake_fence : Store.get none ((s.fenceTake k n r).att k).fences n = some (fenceEntryOf r.q s.now) := by
  rw [State.fenceTake_eq, State.count_att, State.retReq, State.att_giveBack_self, Att.giveBack_fences, State.att, State.sendSweeps_atts,
    ← State.att, State.att_modAtt_self]
  exact Store.get_set_self

theorem State.fenceTake_sweepReqs (hb : s.portBounces p = false) :
    ((s.fenceTake k n r).mp p).sweepReqs = (s.mp p).sweepReqs ++ [sweepOf k n r.q] := by
  rw [State.fenceTake_eq, State.count_mp, State.retReq, State.giveBack_mp]
  refine (State.sweepReqs_sendSweeps (by rw [State.modAtt_portBounces, hb])).trans ?_
  rw [count_allPorts]
  rfl

/-- In SERVE and SHED a FENCE of an ACTIVE or LEAVING agent takes the lowest free fence entry as it passes the gate. -/
theorem State.passIn_fence (hm : s.mode = .serve ∨ s.mode = .shed) (hf : r.op = .fence)
    (ha : (s.agent r.q.agent).st = .active ∨ (s.agent r.q.agent).st = .leaving)
    (hn : Store.lowestFree none (s.att r.la).fences 4 = some n) : s.passIn r = s.fenceTake r.la n r := by
  have hj : (s.agent r.q.agent).st ≠ .joining := by rcases ha with h | h <;> simp [h]
  rcases hm with hm | hm
  · simp only [State.passIn, hm, hf, if_true, if_neg hj, if_pos ha, hn]
  · simp only [State.passIn, hm, hf, if_true, if_neg hj, if_pos ha, hn]

/-- A FENCE whose turn has come takes its order-table entry and passes the gate. -/
theorem State.acceptOrdered_fence (hl : (s.att r.la).order.length < 512)
    (hq : (s.att r.la).waitIn.any (fun x => decide (x.op.rwd = r.op.rwd)) = false) (hf : r.op = .fence)
    (ht : turnOf (s.att r.la).order r = true) (hm : s.mode = .serve ∨ s.mode = .shed)
    (ha : (s.agent r.q.agent).st = .active ∨ (s.agent r.q.agent).st = .leaving)
    (hn : Store.lowestFree none (s.att r.la).fences 4 = some n) :
    s.acceptOrdered r = (s.modAtt r.la (fun a => a.enter r false)).fenceTake r.la n r := by
  have hroom : ¬(512 ≤ (s.att r.la).order.length ∨ false = true) := by simp [hl]
  have hc : s.canPass (s.att r.la).order r = true := by simp [State.canPass, ht, hn]
  rw [State.acceptOrdered, hq, if_neg hroom, State.enterOrder, if_pos hc]
  exact State.passIn_fence hm hf ha (by rw [State.att_modAtt_self]; exact hn)

/-- A FENCE that has been paid for and has entered the order table. -/
def State.fenceIn (s : State) (la : AttId) (q : ReqHdr) : State :=
  (s.paid false la).modAtt la (fun a => a.enter (edgeReq .fence la q) false)

theorem execFence_taken (hp : s.passesAtOnce .fence la q) (ha : (s.agent q.agent).st = .active ∨ (s.agent q.agent).st = .leaving)
    (hn : Store.lowestFree none (s.att la).fences 4 = some n) :
    execFence la q s = .next ((s.fenceIn la q).fenceTake la n (edgeReq .fence la q)) := by
  have hcr := State.passesAtOnce_hasCredit hp
  obtain ⟨hs, hm, h0, hl, -, -, ho, hb, hlen, hq, ht, -⟩ := hp
  have hb' : ((s.paid false la).att la).barrier q = none := (Att.barrier_congr (by simp)).trans hb
  have hq' : ((s.paid false la).att la).waitIn.any (fun x => decide (x.op.rwd = Op.fence.rwd)) = false := by simpa using hq
  have hn' : Store.lowestFree none ((s.paid false la).att la).fences 4 = some n := by
    rw [State.att_paid_self, Att.giveBack_fences]
    exact hn
  have hrwd : Op.fence.rwd = false := rfl
  rw [execFence, State.request_admitted hs h0 hl hcr ho (by decide), hrwd,
    State.acceptChecked_read (by simpa using hm) rfl hb',
    State.acceptOrdered_fence (by simpa [edgeReq] using hlen) hq' rfl (by simpa [edgeReq] using ht) (by simpa using hm)
      (by simpa [edgeReq] using ha) hn']
  rfl

/-! ## A CONFLICT goes to its line's slice (R148) -/

/-- A CONFLICT that has been paid for has its credit back, and is on its way. -/
def State.conflictSent (s : State) (la : AttId) (q : ReqHdr) : State :=
  ((s.paid false la).retReq la).inject (.att la) (.slice (s.homeAt la (bucketOf q.laddr))) 4 (headerBody (reqHeader .conflict q)) []

theorem State.acceptConflict_served (hm : s.mode = .serve ∨ s.mode = .shed ∨ s.mode = .quiesce) :
    (s.paid false la).acceptConflict { op := .conflict, la := la, q := q, buf := none }
      = (s.conflictSent la q).toRsp (s.homeAt la (bucketOf q.laddr)) (.conflict la q) := by
  have hhome : ((s.paid false la).retReq la).homeAt la (bucketOf q.laddr) = s.homeAt la (bucketOf q.laddr) := by
    simp [State.homeAt, State.retReq]
  have hmode : ((s.paid false la).retReq la).mode = s.mode := by simp [State.retReq]
  rcases hm with hm | hm | hm <;> simp only [State.acceptConflict, hmode, hm, hhome, State.conflictSent]

theorem execConflict_sent (hs : s.silent la = false) (hm : s.mode = .serve ∨ s.mode = .shed ∨ s.mode = .quiesce)
    (h0 : q.agent ≠ 0xFFF) (hl : (s.agent q.agent).la = la) (hc : 0 < (s.att la).reqCr) :
    execConflict la q s = .next ((s.conflictSent la q).toRsp (s.homeAt la (bucketOf q.laddr)) (.conflict la q)) := by
  obtain ⟨t, ht, hp⟩ := Option.map_eq_some_iff.mp (State.takeCredit_of_hasCredit (s := s) (la := la) (b := false) hc)
  have hpaid : t.count (cLa la 0) 1 = s.paid false la := hp
  have hrwd : Op.conflict.rwd = false := rfl
  simp only [execConflict, request, hs, State.accept, hrwd, ht, Bool.false_eq_true, if_false, hpaid, if_neg h0, State.paid_agent, hl, ne_eq,
    not_true_eq_false, reduceCtorEq, false_and, if_true]
  exact congrArg Host.Outcome.next (State.acceptConflict_served hm)

theorem State.conflictSent_sl : (s.conflictSent la q).sl i = s.sl i := by simp [State.conflictSent, State.retReq]

theorem State.conflictSent_att : (s.conflictSent la q).att k = if k = la then
    (((s.att la).pay false).giveBack (decide (3 ≤ s.level)) 0 0).giveBack (decide (3 ≤ s.level)) 1 0 else s.att k := by
  rw [State.conflictSent, State.inject_att, State.retReq, State.att_giveBack, State.paid_level, State.att_paid, State.att_paid, if_pos rfl]
  split
  · rfl
  · rfl

theorem State.conflictSent_frame : (s.conflictSent la q).ports = s.ports ∧ (s.conflictSent la q).agents = s.agents
    ∧ (s.conflictSent la q).regs = s.regs := by
  simp [State.conflictSent, State.retReq]

/-! ## The answer to a CONFLICT (R148) -/

theorem State.check4_conflict (ha : (s.agent q.agent).st = .active ∨ (s.agent q.agent).st = .leaving) :
    s.check4 { op := .conflict, la := la, q := q, buf := none } = .ok := by
  rcases ha with h | h
  · simp only [State.check4, h]
  · simp only [State.check4, h]
    rfl

theorem State.conflictAck_ndrQ (ha : (s.agent q.agent).st = .active ∨ (s.agent q.agent).st = .leaving) (hc : s.inCast q.laddr = false)
    (hb : s.attBounces la = false) : ((s.conflictAck i la q).att la).ndrQ
      = (s.att la).ndrQ ++ [((s.att la).seq, Ndr.mk .conflictAck q.agent q.tag 0 .ok 0 0 q.otag)] := by
  simp only [State.conflictAck, State.check4_conflict ha, hc, Bool.false_eq_true, if_false, State.count_att, State.incF_att]
  rw [State.routeNdr, State.sendNdrMsg, State.inject_attBounces, hb, Bool.not_false, if_pos rfl, State.egNdr, State.att_modAtt_self]
  rfl

end FencesAndConflicts

/-- Settles O9. A FENCE that passes takes its entry and asks each port once; a CONFLICT has its credit back and waits in RSP, where a
pass acknowledges it. -/
theorem fencesAndConflictsAreTaken : Obligations.FencesAndConflictsAreTaken := by
  unfold Obligations.FencesAndConflictsAreTaken
  refine ⟨fun la q n s hp ha hn => ?_, fun la q s hs hm h0 hl hc => ?_, fun i la q s ha hc hb => State.conflictAck_ndrQ ha hc hb⟩
  · refine ⟨_, execFence_taken hp ha hn, ?_, fun m hb => ?_⟩
    · rw [edgeReq, State.fenceTake_fence, State.fenceIn, State.modAtt_now, State.paid_now]
      rfl
    · rw [edgeReq, State.fenceTake_sweepReqs (by rw [State.fenceIn, State.modAtt_portBounces, State.paid_portBounces, hb]), State.fenceIn,
        State.modAtt_mp, State.mp, State.paid_ports, ← State.mp]
      rfl
  · obtain ⟨hports, hagents, hregs⟩ := State.conflictSent_frame (s := s) (la := la) (q := q)
    refine ⟨_, execConflict_sent hs hm h0 hl hc, ?_, fun i hi => ?_, ?_, ?_, ?_, fun k hk => ?_, ?_, ?_, ?_⟩
    · rw [State.toRsp_rsp, State.conflictSent_sl]
    · rw [State.toRsp_sl_ne hi, State.conflictSent_sl]
    · simp [State.conflictSent_att]
    · simp [State.conflictSent_att]
    · simp [State.conflictSent_att, Att.giveBack_req, Att.pay]
      omega
    · rw [State.toRsp_att, State.conflictSent_att, if_neg hk]
    · rw [State.toRsp, State.modSl_ports, hports]
    · rw [State.toRsp, State.modSl_agents, hagents]
    · rw [State.toRsp_regs, hregs]

end Sys2Proof.Machine

/-! SUPPORT. Easy-oar windows: a request waits, a grant puts its port in drain, the window opens once every answer is in, and ends. -/

namespace Sys2Proof.Machine

section EasyOar

variable {s : State} {m n : PortId} {r : WinReq} {g : Fld} {t o wlen : Nat} {owner : Bool}

theorem State.mp_modMp_ne {f : Port → Port} (h : n ≠ m) : (s.modMp m f).mp n = s.mp n := by rw [State.mp_modMp, if_neg h]

/-! ## A request (R237, R238) -/

theorem execWindowReq_pending {kind : WKind} {pair : Bool} {len : BitVec 11} (h : (s.mp m).win = .none) :
    ∃ t r, execWindowReq m kind pair len s = .next t ∧ (t.mp m).winReq = some r ∧ r.pair = pair
      ∧ r.wlen = (if len = 0 ∨ 2000 < len.toNat then 2000 else len.toNat)
      ∧ ((s.mp m).winReq = none → r.since = s.now ∧ r.starv = false) ∧ (∀ n, n ≠ m → t.mp n = s.mp n) ∧ t.regs = s.regs := by
  have hwin : ¬ ((s.crossing (.port m) 3).mp m).win ≠ .none := not_not.mpr h
  refine ⟨_, _, if_neg hwin, by rw [State.mp_modMp_self], ?_, ?_, ?_, fun n hn => State.mp_modMp_ne hn, rfl⟩
  · split <;> rfl
  · split <;> rfl
  · intro hnone
    have hreq : ((s.crossing (.port m) 3).mp m).winReq = none := hnone
    rw [hreq]
    exact ⟨rfl, rfl⟩

theorem execWindowReq_discarded {kind : WKind} {pair : Bool} {len : BitVec 11} (h : (s.mp m).win ≠ .none) :
    execWindowReq m kind pair len s = .next ((s.crossing (.port m) 3).mpFormat m) := if_pos h

theorem execWindowRequestStarving_marks (h : (s.mp m).winReq = some r) (hr : r.starv = false) :
    execWindowRequestStarving m s = .next (((s.reach (r.since + 1000 * s.fld ⟨0x60024, 0, 16⟩)).modMp m
      (fun p => { p with winReq := some { r with starv := true } })).evLevel (evMp m 5) true) := by
  simp only [execWindowRequestStarving, h, hr, Bool.false_eq_true, if_false]

/-! ## Drain (R239) -/

theorem State.drainStart_mp_self {pair : Bool} : (s.drainStart m wlen pair owner).mp m
    = { s.mp m with win := .drain s.now wlen pair owner, waitq := ((s.drainStart m wlen pair owner).mp m).waitq } := by
  rw [State.drainStart, State.count_mp, State.mp_modMp_self]

theorem State.drainStart_mp_ne {pair : Bool} (h : n ≠ m) : (s.drainStart m wlen pair owner).mp n = s.mp n := by
  rw [State.drainStart, State.count_mp, State.mp_modMp_ne h]

theorem State.drainStart_drained {pair : Bool} : ((s.drainStart m wlen pair owner).mp m).drained = (s.mp m).drained := by
  rw [State.drainStart_mp_self]
  rfl

theorem State.drainStart_regs {pair : Bool} : (s.drainStart m wlen pair owner).regs = s.regs := State.count_regs

theorem State.drainStart_fld {pair : Bool} : (s.drainStart m wlen pair owner).fld g = s.fld g := State.count_fld

theorem State.drainStart_now {pair : Bool} : (s.drainStart m wlen pair owner).now = s.now := State.count_now

theorem State.drainEnd_waits (h : (s.mp m).drained = false) : s.drainEnd m = s := by
  unfold State.drainEnd
  split
  · exact if_pos (by rw [h]; rfl)
  · rfl

theorem State.drainEnd_opens (hw : (s.mp m).win = .drain t wlen false owner) (hd : (s.mp m).drained = true) :
    s.drainEnd m = s.openWindow m wlen owner := by
  simp only [State.drainEnd, hw, hd, Bool.not_true, Bool.not_false, Bool.false_eq_true, if_false, if_true]

theorem Port.drained_credit {p : Port} (h : p.drained = true) : some (p.mcmdC.spend.getD p.mcmdC) = p.mcmdC.spend := by
  obtain ⟨-, hc⟩ := Bool.and_eq_true_iff.mp h
  exact Option.getD_of_ne_none (Option.isSome_iff_ne_none.mp hc) _

theorem execWindowArbiterGrant_single (h : s.winPick = some (m, r)) (hp : r.pair = false) :
    execWindowArbiterGrant s = .next ((s.drainStart m r.wlen false true).drainEnd m) := by
  simp only [execWindowArbiterGrant, h, hp, Bool.false_eq_true, if_false]

/-! ## A window opens and ends (R239, R240) -/

/-- A port as its window opens: WINDOW_GRANT is out, with its credit. -/
def Port.granted (p : Port) (t wlen : Nat) (owner : Bool) : Port :=
  { p with
    win := .window t wlen, winReq := if owner then none else p.winReq, mcmdC := p.mcmdC.spend.getD p.mcmdC,
    outq := Store.set none p.outq 0 (some { why := .grant, line := 0, data := none, stag := 0, held := none }),
    mcmdPin := some (mcmdHeader 8 0 (wlen * 2 ^ 29) 0 0) }

/-- WINDOW_GRANT is out; the request of the port that asked for it is answered and starves no more. -/
def State.grantOut (s : State) (m : PortId) (wlen : Nat) (owner : Bool) : State :=
  let u := s.modMp m (fun p => p.granted s.now wlen owner)
  if owner then u.evLevel (evMp m 5) false else u

theorem State.grantOut_mp : (s.grantOut m wlen owner).mp n = (s.modMp m (fun p => p.granted s.now wlen owner)).mp n := by
  cases owner with
  | true => exact State.evLevel_mp
  | false => rfl

theorem State.grantOut_now : (s.grantOut m wlen owner).now = s.now := by
  cases owner with
  | true => exact State.evLevel_now
  | false => rfl

theorem State.grantOut_fld : (s.grantOut m wlen owner).fld g = s.fld g := by
  cases owner with
  | true => exact State.evLevel_fld
  | false => rfl

/-- A window that opens is counted in MP_WIN.GRANTED. -/
theorem State.openWindow_eq :
    s.openWindow m wlen owner = ((s.grantOut m wlen owner).incF (Fld.mp m 0x108 0 16)).count (cMp m 27) 1 := rfl

theorem State.openWindow_mp_self : (s.openWindow m wlen owner).mp m = (s.mp m).granted s.now wlen owner := by
  rw [State.openWindow_eq, State.count_mp, State.incF_mp, State.grantOut_mp, State.mp_modMp_self]

theorem State.openWindow_mp_ne (h : n ≠ m) : (s.openWindow m wlen owner).mp n = s.mp n := by
  rw [State.openWindow_eq, State.count_mp, State.incF_mp, State.grantOut_mp, State.mp_modMp_ne h]

theorem State.openWindow_now : (s.openWindow m wlen owner).now = s.now := by
  rw [State.openWindow_eq, State.count_now, State.incF_now, State.grantOut_now]

theorem State.openWindow_opened : (s.openWindow m wlen owner).fld (Fld.mp m 0x108 0 16)
    = min 65535 (s.fld (Fld.mp m 0x108 0 16) + 1) := by
  rw [State.openWindow_eq, State.count_fld, State.fld_incF (Nat.le_of_ble_eq_true rfl), State.grantOut_fld]
  rfl

theorem State.openWindow_abandoned : (s.openWindow m wlen owner).fld (Fld.mp m 0x108 16 6) = s.fld (Fld.mp m 0x108 16 6) := by
  have hapart : (Fld.mp m 0x108 0 16).apart (Fld.mp m 0x108 16 6) := .inr (.inl (Nat.le_refl 16))
  rw [State.openWindow_eq, State.count_fld, State.fld_incF_apart (Nat.le_of_ble_eq_true rfl) hapart, State.grantOut_fld]

/-- A grant of one port with an answer out puts it in drain (R239). -/
theorem execWindowArbiterGrant_drains (h : s.winPick = some (m, r)) (hp : r.pair = false) (hd : (s.mp m).drained = false) :
    execWindowArbiterGrant s = .next (s.drainStart m r.wlen false true) := by
  rw [execWindowArbiterGrant_single h hp, State.drainEnd_waits (State.drainStart_drained.trans hd)]

/-- One with every answer in opens its window at once. -/
theorem execWindowArbiterGrant_opens (h : s.winPick = some (m, r)) (hp : r.pair = false) (hd : (s.mp m).drained = true) :
    execWindowArbiterGrant s = .next ((s.drainStart m r.wlen false true).openWindow m r.wlen true) := by
  rw [execWindowArbiterGrant_single h hp,
    State.drainEnd_opens (by rw [State.drainStart_mp_self]) (State.drainStart_drained.trans hd)]

section Limits

/-- The moment a drain reaches its limit (R239). -/
def State.drainLimit (s : State) (t : Nat) : State := s.reach (t + 8 * s.fld ⟨0x60020, 14, 8⟩)

variable (hw : (s.mp m).win = .drain t wlen false owner)
include hw

theorem execDrainLimitExpiry_drops (hd : (s.mp m).drained = false) :
    execDrainLimitExpiry m s = .next ((s.drainLimit t).drainDrop m) := by
  have hp : (s.drainLimit t).mp m = s.mp m := State.reach_mp
  have he : (s.drainLimit t).drainEnd m = s.drainLimit t := State.drainEnd_waits (by rw [hp, hd])
  simp only [execDrainLimitExpiry, hw]
  rw [← State.drainLimit, he, hp, hw]
  rfl

theorem execDrainLimitExpiry_opens (hd : (s.mp m).drained = true) :
    execDrainLimitExpiry m s = .next ((s.drainLimit t).openWindow m wlen owner) := by
  have hp : (s.drainLimit t).mp m = s.mp m := State.reach_mp
  have he : (s.drainLimit t).drainEnd m = (s.drainLimit t).openWindow m wlen owner :=
    State.drainEnd_opens (by rw [hp, hw]) (by rw [hp, hd])
  simp only [execDrainLimitExpiry, hw]
  rw [← State.drainLimit, he, State.openWindow_mp_self]
  rfl

end Limits

theorem State.drainDrop_mp : (s.drainDrop m).mp n = (s.modMp m (fun p => { p with win := .none })).mp n := by
  rw [State.drainDrop, State.fire_mp, State.incF_mp]

theorem State.drainDrop_abandoned : (s.drainDrop m).fld (Fld.mp m 0x108 16 6) = min 63 (s.fld (Fld.mp m 0x108 16 6) + 1) := by
  rw [State.drainDrop, State.fire_fld, State.fld_incF (Nat.le_of_ble_eq_true rfl)]
  rfl

theorem State.drainDrop_now : (s.drainDrop m).now = s.now := State.fire_now

/-- A window ends at its limit, and MP_WIN.OVERRUN counts it (R240). -/
def State.windowOver (s : State) (m : PortId) (t : Nat) : State :=
  (((s.reach t).windowEnd m).incF (Fld.mp m 0x108 22 6)).fire (evMp m 3)

theorem execWindowLimitExpiry_ends (h : (s.mp m).win = .window o wlen) :
    execWindowLimitExpiry m s = .next (s.windowOver m (o + wlen)) := by
  simp only [execWindowLimitExpiry, h]
  rfl

theorem State.windowOver_mp : (s.windowOver m t).mp n
    = ((s.reach t).modMp m (fun p => { p with win := .none, winEnd := some (s.reach t).now })).mp n := by
  rw [State.windowOver, State.fire_mp, State.incF_mp]
  rfl

theorem State.windowOver_now : (s.windowOver m t).now = (s.reach t).now := State.fire_now

theorem State.windowOver_counted : (s.windowOver m t).fld (Fld.mp m 0x108 22 6) = min 63 (s.fld (Fld.mp m 0x108 22 6) + 1) := by
  rw [State.windowOver, State.fire_fld, State.fld_incF (Nat.le_of_ble_eq_true rfl), State.windowEnd, State.modMp_fld, State.reach_fld]
  rfl

end EasyOar

/-- Settles O35: what each of the five commands answers with, and how the window opens where the last answer is in. -/
theorem windows : Obligations.Windows := by
  unfold Obligations.Windows
  refine ⟨fun m kind pair wlen s => ⟨execWindowReq_pending (kind := kind), fun hw => ?_⟩, fun m r s hr hs => ?_,
    fun m r s hp hr => ⟨fun hd => ?_, fun hd => ?_⟩, fun m t0 wlen owner s hw => ⟨fun hd => ?_, fun hd => ?_⟩, fun m o wlen s hw => ?_⟩
  · obtain ⟨hcount, -, hports, -, -⟩ := State.mpFormat_counts (s := s.crossing (.port m) 3) (m := m)
    exact ⟨_, execWindowReq_discarded (kind := kind) hw, hports, hcount⟩
  · refine ⟨_, execWindowRequestStarving_marks hr hs, ?_, ?_, fun n hn => ?_, ?_⟩
    · rw [State.evLevel_mp, State.mp_modMp_self]
    · rw [State.evLevel_now, State.modMp_now, State.now, State.plinth_now_reach, State.now]
    · rw [State.evLevel_mp, State.mp_modMp_ne hn, State.reach_mp]
    · rw [State.evLevel_regs, State.modMp_regs, State.reach_regs]
  · refine ⟨_, execWindowArbiterGrant_drains hp hr hd, ?_, ?_, fun n hn => State.drainStart_mp_ne hn, State.drainStart_regs⟩
    · rw [State.drainStart_mp_self]
    · rw [State.drainStart_mp_self]
  · refine ⟨_, execWindowArbiterGrant_opens hp hr hd, ?_⟩
    rw [State.openWindow_mp_self, State.openWindow_opened, State.drainStart_now, State.drainStart_mp_self]
    refine ⟨rfl, rfl, rfl, Port.drained_credit hd, fun n hn => ?_, ?_⟩
    · rw [State.openWindow_mp_ne hn, State.drainStart_mp_ne hn]
    · rw [State.drainStart_fld]
  · refine ⟨_, execDrainLimitExpiry_drops hw hd, ?_⟩
    rw [State.drainDrop_mp, State.mp_modMp_self, State.drainDrop_now, State.drainDrop_abandoned, State.drainLimit, State.reach_mp,
      State.reach_fld, State.now, State.plinth_now_reach]
    exact ⟨rfl, rfl, rfl, rfl, fun n hn => by rw [State.drainDrop_mp, State.mp_modMp_ne hn, State.reach_mp]⟩
  · refine ⟨_, execDrainLimitExpiry_opens hw hd, ?_⟩
    rw [State.openWindow_mp_self, State.openWindow_now, State.openWindow_abandoned, State.drainLimit, State.reach_fld]
    exact ⟨rfl, rfl, fun n hn => by rw [State.openWindow_mp_ne hn, State.reach_mp]⟩
  · refine ⟨_, execWindowLimitExpiry_ends hw, ?_⟩
    rw [State.windowOver_mp, State.mp_modMp_self, State.windowOver_now, State.windowOver_counted]
    exact ⟨rfl, rfl, State.plinth_now_reach, rfl, fun n hn => by rw [State.windowOver_mp, State.mp_modMp_ne hn, State.reach_mp]⟩

end Sys2Proof.Machine

/-! SUPPORT. The write-backs that queue in a bank, and the sweep of a fence: it joins, visits the sets, closes, and its reports
complete the FENCE. -/

namespace Sys2Proof.Machine

section WriteBacks

variable {p q u : Port} {k : Nat} {w v : Way} {l a : Line} {y : WbWhy} {set : BitVec 10} {α β : Type}

/-! ## Write-backs that wait (R161, R170) -/

theorem Port.queuedBack_isSome_iff :
    (p.queuedBack l).isSome = true ↔ ∃ c ∈ p.waitq, c.line = l ∧ ∃ y again, c.why = .back y again := by
  simp only [Port.queuedBack, List.find?_isSome, Bool.and_eq_true, decide_eq_true_eq]
  refine exists_congr fun c => and_congr_right fun _ => and_congr_right fun _ => ?_
  cases c.why <;> simp

/-- A bank after some write-backs of it have been queued or noted: each that waited before waits still. -/
structure Port.Backs (p q : Port) : Prop where
  rest : q = { p with waitq := q.waitq, ways := q.ways }
  queued : ∀ l, (p.queuedBack l).isSome = true → (q.queuedBack l).isSome = true

theorem Port.Backs.refl : Port.Backs p p := ⟨rfl, fun _ h => h⟩

theorem Port.Backs.trans (h : Port.Backs p q) (h' : Port.Backs q u) : Port.Backs p u :=
  ⟨by rw [h'.rest, h.rest], fun l hl => h'.queued l (h.queued l hl)⟩

theorem Port.Backs.ageOf (h : Port.Backs p q) : q.ageOf w = p.ageOf w := by rw [Port.ageOf, h.rest, Port.ageOf]

theorem Port.Backs.ite {c : Prop} [Decidable c] (h : Port.Backs p q) (h' : Port.Backs p u) : Port.Backs p (if c then q else u) := by
  split
  · exact h
  · exact h'

theorem Port.queueBack_eq : p.queueBack y l = { p with waitq := (p.queueBack y l).waitq } := by
  unfold Port.queueBack
  split
  · rfl
  · split
    · split <;> rfl
    · rfl

theorem Port.queuedBack_queueBack_self : ((p.queueBack y l).queuedBack l).isSome = true := by
  unfold Port.queueBack
  split
  · exact Port.queuedBack_isSome_iff.mpr ⟨_, List.mem_append_right _ List.mem_cons_self, rfl, _, _, rfl⟩
  · next c hc =>
    split
    · split
      · exact Port.queuedBack_isSome_iff.mpr ⟨_, List.mem_append_right _ List.mem_cons_self, rfl, _, _, rfl⟩
      · rw [hc]; rfl
    · rw [hc]; rfl

theorem Port.backs_queueBack : Port.Backs p (p.queueBack y l) := by
  refine ⟨by rw [Port.queueBack_eq], fun a ha => ?_⟩
  by_cases hal : a = l
  · rw [hal]
    exact Port.queuedBack_queueBack_self
  obtain ⟨x, hx, hxa, hxb⟩ := Port.queuedBack_isSome_iff.mp ha
  refine Port.queuedBack_isSome_iff.mpr ⟨x, ?_, hxa, hxb⟩
  unfold Port.queueBack
  split
  · exact List.mem_append_left _ hx
  · next c hc =>
    have hcl : c.line = l := by
      rw [Port.queuedBack] at hc
      have hm := List.find?_some hc
      exact of_decide_eq_true (Bool.and_eq_true_iff.mp hm).1
    have hne : x ≠ c := fun h => hal (by rw [← hxa, h, hcl])
    split
    · split
      · exact List.mem_append_left _ ((List.mem_erase_of_ne hne).mpr hx)
      · exact hx
    · exact hx

theorem Port.startBack_of_wb (h : w.wb = 0) : p.startBack y k w = p.queueBack y w.line := if_pos h

theorem Port.backs_startBack : Port.Backs p (p.startBack y k w) := by
  unfold Port.startBack
  exact .ite Port.backs_queueBack (.ite ⟨rfl, fun _ h => h⟩ .refl)

/-! ## The DIRTY ways of a set (R162) -/

theorem Port.mem_dirtyIn : (k, w) ∈ p.dirtyIn set ↔ k ∈ hKeys set ∧ p.hway k = some w ∧ w.st = .dirty := by
  simp only [Port.dirtyIn, List.mem_filterMap]
  refine ⟨fun ⟨j, hj, h⟩ => ?_, fun ⟨hk, hw, hd⟩ => ⟨k, hk, by simp only [hw, if_pos hd]⟩⟩
  split at h
  · next v hv =>
    split at h
    · next hd =>
      obtain ⟨rfl, rfl⟩ := Prod.mk.inj (Option.some.inj h)
      exact ⟨hj, hv, hd⟩
    · cases h
  · cases h

/-! ## A visit goes through ways (R169, R172) -/

section Visit

variable {port : β → Port} {g : β → α → β} {b : β} {es : List α} {e : α} (hg : ∀ b e, Port.Backs (port b) (port (g b e)))
include hg

theorem Port.backs_foldl : Port.Backs (port b) (port (es.foldl g b)) :=
  es.foldlRecOn (motive := fun c => Port.Backs (port b) (port c)) g .refl fun _ h _ _ => h.trans (hg _ _)

/-- A line whose write-back the step of one entry queues, whatever the steps before it have done, has it queued at the end. -/
theorem Port.queuedBack_foldl (he : e ∈ es) (hq : ∀ c, Port.Backs (port b) (port c) → ((port (g c e)).queuedBack l).isSome = true) :
    ((port (es.foldl g b)).queuedBack l).isSome = true := by
  obtain ⟨es₁, es₂, rfl⟩ := List.append_of_mem he
  rw [List.foldl_append, List.foldl_cons]
  exact (Port.backs_foldl hg).queued l (hq _ (Port.backs_foldl hg))

end Visit
end WriteBacks

section FenceSweep

variable {s : State} {m n : PortId} {p : Port} {f : JoinedFence} {fs : List JoinedFence} {k : Nat} {w : Way} {set : BitVec 10}

theorem State.setMp_alone {q : Port} :
    (∀ n, n ≠ m → (s.setMp m q).mp n = s.mp n) ∧ s.setMp m q = { s with ports := (s.setMp m q).ports } :=
  ⟨fun n hn => by rw [State.mp_setMp, if_neg hn], rfl⟩

/-! ## A fence joins (R171) -/

theorem execSweepRequest_joins (h : (s.mp m).sweepReqs = f :: fs) (hl : (s.mp m).fences.length < 64) :
    execSweepRequest m s = .next ((s.setMp m { s.mp m with sweepReqs := fs, fences := (s.mp m).fences ++ [f] }).count (cMp m 25) 1) := by
  simp only [execSweepRequest, h]
  exact if_neg (Nat.not_le.mpr hl)

/-! ## A step of the sweep (R172) -/

/-- What a step does about one DIRTY way: it is written back where a joined fence with sets left, or the way's writers being several,
asks for it; its line is owed once more where a write has landed since its write-backs in flight left (R171, R172). -/
def Port.sweepWay (p : Port) (r : Port × List Line) (e : Nat × Way) : Port × List Line :=
  if e.2.lwr = 0xFFF ∨ (p.fences.filter (fun f => decide (f.left ≠ 0))).any (fun f => decide (f.agent = e.2.lwr)) then
    (if e.2.wb ≠ 0 ∧ e.2.redirty then (r.1.startBack .sweep e.1 e.2, r.2 ++ [e.2.line]) else (r.1.startBack .sweep e.1 e.2, r.2))
  else r

theorem Port.sweepSet_eq : p.sweepSet set = (p.dirtyIn set).foldl p.sweepWay (p, []) := rfl

theorem Port.sweepWay_of_asked {r : Port × List Line} (hf : f ∈ p.fences) (hl : f.left ≠ 0) (hw : w.lwr = 0xFFF ∨ w.lwr = f.agent) :
    (p.sweepWay r (k, w)).1 = r.1.startBack .sweep k w := by
  have hc : w.lwr = 0xFFF ∨ (p.fences.filter (fun f => decide (f.left ≠ 0))).any (fun f => decide (f.agent = w.lwr)) := by
    refine hw.imp_right fun h => List.any_eq_true.mpr ⟨f, ?_, decide_eq_true h.symm⟩
    exact List.mem_filter.mpr ⟨hf, decide_eq_true hl⟩
  rw [Port.sweepWay, if_pos hc]
  split <;> rfl

theorem Port.sweepWay_cases (r : Port × List Line) (e : Nat × Way) :
    (p.sweepWay r e).1 = r.1 ∨ (p.sweepWay r e).1 = r.1.startBack .sweep e.1 e.2 := by
  unfold Port.sweepWay
  split
  · split <;> exact .inr rfl
  · exact .inl rfl

theorem Port.backs_sweepWay (r : Port × List Line) (e : Nat × Way) : Port.Backs r.1 (p.sweepWay r e).1 := by
  rcases p.sweepWay_cases r e with h | h
  · rw [h]
    exact .refl
  · rw [h]
    exact Port.backs_startBack

theorem Port.backs_sweepSet : Port.Backs p (p.sweepSet set).1 := Port.backs_foldl (port := Prod.fst) (b := (p, [])) p.backs_sweepWay

theorem Port.queuedBack_sweepSet (hf : f ∈ p.fences) (hl : f.left ≠ 0) (hk : k ∈ hKeys set) (hh : p.hway k = some w) (hd : w.st = .dirty)
    (hw : w.lwr = 0xFFF ∨ w.lwr = f.agent) (hb : w.wb = 0) : ((p.sweepSet set).1.queuedBack w.line).isSome = true := by
  rw [Port.sweepSet_eq]
  refine Port.queuedBack_foldl (port := Prod.fst) p.backs_sweepWay (Port.mem_dirtyIn.mpr ⟨hk, hh, hd⟩) fun r _ => ?_
  rw [Port.sweepWay_of_asked hf hl hw, Port.startBack_of_wb hb]
  exact Port.queuedBack_queueBack_self

theorem Port.hway_startBack {y : WbWhy} {j : Nat} {v : Way} (h : k = j → v.wb = 0) : (p.startBack y j v).hway k = p.hway k := by
  unfold Port.startBack
  split
  · rw [Port.queueBack_eq]
    rfl
  · next hv =>
    split
    · exact Store.get_set_ne fun hj => hv (h hj)
    · rfl

/-- A way with no write-back in flight is as it was. -/
theorem Port.hway_sweepSet (hh : p.hway k = some w) (hb : w.wb = 0) : (p.sweepSet set).1.hway k = some w := by
  rw [Port.sweepSet_eq]
  refine List.foldlRecOn (motive := fun r : Port × List Line => r.1.hway k = some w) _ _ hh fun r hr e he => ?_
  rcases p.sweepWay_cases r e with h | h
  · rw [h, hr]
  · rw [h, Port.hway_startBack, hr]
    rintro rfl
    obtain ⟨-, hv, -⟩ := Port.mem_dirtyIn.mp he
    rwa [← Option.some.inj (hh.symm.trans hv)]

/-- A port after a step of its sweep: the next set stands at the head, and each fence with sets left has one less. -/
def Port.sweepVisit (p : Port) : Port :=
  let r := p.sweepSet p.sweepPos
  { r.1 with
    sweepPos := p.sweepPos + 1
    fences := r.1.fences.map (fun f => if f.left = 0 then f else { f with left := f.left - 1, rews := f.rews ++ r.2 }) }

theorem execSweepStep_visits (hr : s.runs = true) (hf : f ∈ (s.mp m).fences) (hl : f.left ≠ 0) (hp : (s.mp m).sweepPlaces ≤ 10) :
    execSweepStep m s = .next (s.setMp m (s.mp m).sweepVisit) := by
  have hall : ¬ (s.mp m).fences.all (fun f => decide (f.left = 0)) = true := fun h =>
    hl (of_decide_eq_true (List.all_eq_true.mp h f hf))
  have hroom : ¬ 16 < (s.mp m).sweepPlaces + 6 := by omega
  exact if_neg (by simp only [hall, hroom, hr, Bool.not_true, Bool.false_eq_true, or_self, not_false_eq_true])

theorem Port.sweepVisit_fence (hf : f ∈ p.fences) (hl : f.left ≠ 0) :
    ∃ g ∈ p.sweepVisit.fences, g.la = f.la ∧ g.entry = f.entry ∧ g.agent = f.agent ∧ g.left = f.left - 1 := by
  have hfs : (p.sweepSet p.sweepPos).1.fences = p.fences := by rw [Port.backs_sweepSet.rest]
  refine ⟨_, List.mem_map_of_mem (hfs.symm ▸ hf), ?_⟩
  rw [if_neg hl]
  exact ⟨rfl, rfl, rfl, rfl⟩

/-! ## A fence closes (R172) -/

/-- The PERSIST_FENCE of a fence, as it waits. -/
def JoinedFence.persist (f : JoinedFence) : MCmd := { why := .fence f.la f.entry, line := 0, data := none, stag := 0, held := none }

theorem execFenceClose_queues (hr : s.runs = true) (hp : (s.mp m).sweepPlaces < 16)
    (hf : (s.mp m).fences.find? (fun f => decide (f.left = 0) && !f.closed && decide (f.rews = [])) = some f) :
    execFenceClose m s = .next (s.setMp m { s.mp m with
      waitq := (s.mp m).waitq ++ [f.persist]
      fences := (s.mp m).fences.map (fun g => if g = f then { g with closed := true } else g) }) := by
  have hc : ¬ (16 ≤ (s.mp m).sweepPlaces ∨ (!s.runs) = true) := not_or.mpr ⟨Nat.not_le.mpr hp, by simp [hr]⟩
  simp only [execFenceClose, hf]
  exact if_neg hc

/-! ## A port reports (R202, R204) -/

variable {la : AttId} {r : FenceRpt} {rs : List FenceRpt} {x : FenceEntry}

/-- A report is taken; one with ERROR is told to firmware. -/
def State.reportTaken (s : State) (la : AttId) (r : FenceRpt) (rs : List FenceRpt) : State :=
  let s := s.modAtt la (fun a => { a with reports := rs })
  if r.err then s.fire (evLa la 6) else s

theorem State.reportTaken_att : (s.reportTaken la r rs).att la = { s.att la with reports := rs } := by
  unfold State.reportTaken
  dsimp only
  split
  · rw [State.fire_att, State.att_modAtt_self]
  · rw [State.att_modAtt_self]

/-- A fence entry with one more port's report. -/
def FenceEntry.heard (x : FenceEntry) (r : FenceRpt) : FenceEntry := { x with ports := x.ports ++ [r.port], err := x.err || r.err }

/-- An attachment's fence entry replaced. -/
def Att.putFence (a : Att) (n : Nat) (x : Option FenceEntry) : Att := { a with fences := Store.set none a.fences n x }

section Report

variable (hq : (s.att la).reports = r :: rs) (hx : Store.get none (s.att la).fences r.entry.toNat = some x) (hp : r.port ∉ x.ports)
include hq hx hp

theorem execFenceReport_waits (hn : x.ports.length < 31) : execFenceReport la s
    = .next ((s.reportTaken la r rs).modAtt la (fun a => a.putFence r.entry.toNat (some (x.heard r)))) := by
  have hx' : Store.get none ((s.reportTaken la r rs).att la).fences r.entry.toNat = some x := by rw [State.reportTaken_att, hx]
  have hn' : ¬ 32 ≤ (x.heard r).ports.length := by simp [FenceEntry.heard]; omega
  simp only [execFenceReport, hq]
  rw [← State.reportTaken, hx']
  simp only [hp, if_false]
  exact if_neg hn'

theorem execFenceReport_completes (hn : x.ports.length = 31) (hd : x.dead = false) : execFenceReport la s
    = .next (((s.reportTaken la r rs).modAtt la (fun a => a.putFence r.entry.toNat none)).fenceCmp la (x.heard r) (x.err || r.err)) := by
  have hx' : Store.get none ((s.reportTaken la r rs).att la).fences r.entry.toNat = some x := by rw [State.reportTaken_att, hx]
  have hn' : 32 ≤ (x.heard r).ports.length := by simp [FenceEntry.heard]; omega
  simp only [execFenceReport, hq]
  rw [← State.reportTaken, hx']
  simp only [hp, hd, if_false, Bool.false_eq_true]
  exact if_pos hn'

end Report

theorem State.freeEntry_att {a : AgentId} {t : BitVec 16} (hw : (s.att la).waitIn = []) :
    (s.freeEntry la a t).att la = { s.att la with order := ((s.freeEntry la a t).att la).order } := by
  unfold State.freeEntry State.freeEntry0
  split
  · rfl
  · rw [State.pullWait_of_none]
    all_goals rw [State.att_modAtt_self]
    exact hw

/-- Where no request waits for an order-table entry, a completion writes its queue and the table alone. -/
theorem State.complete_att {n : Ndr} (hw : (s.att la).waitIn = []) : (s.complete la n).att la = { s.att la with
    ndrQ := (s.att la).ndrQ ++ [((s.att la).seq, n)], seq := (s.att la).seq + 1, order := ((s.complete la n).att la).order } := by
  have he : (s.egNdr la n).att la = { s.att la with ndrQ := (s.att la).ndrQ ++ [((s.att la).seq, n)], seq := (s.att la).seq + 1 } :=
    State.att_modAtt_self
  unfold State.complete State.performPart
  split
  · rw [he]
  · split
    · rw [State.att_modAtt_self, he]
    · rw [State.freeEntry_att (by rw [he]; exact hw), he]

theorem State.fenceCmp_att {b : Bool} : (s.fenceCmp la x b).att la
    = (s.complete la (Ndr.mk .cmp x.agent x.tag 0 (if b then .error else .ok) 0 0 x.otag)).att la := by
  rw [State.fenceCmp, State.count_att, State.maxF_att, State.incF_att]

end FenceSweep

/-- Settles O36: a step's fold queues the write-back of each way that the fence asks for, and none of its later steps takes one back;
a completion with no request waiting leaves the freed entry free. -/
theorem fencesSweepEveryPort : Obligations.FencesSweepEveryPort := by
  unfold Obligations.FencesSweepEveryPort
  refine ⟨fun m f rest s hq hl => ?_, fun m f s hr hf hl hp => ?_, fun m f s hr hp hf => ?_,
    fun la r rest f s hq hx => ⟨fun hp hn => ?_, fun hp hn hd hw => ?_⟩⟩
  · obtain ⟨hne, -⟩ := State.setMp_alone (s := s) (m := m) (q := { s.mp m with sweepReqs := rest, fences := (s.mp m).fences ++ [f] })
    refine ⟨_, execSweepRequest_joins hq hl, ?_⟩
    rw [State.count_mp, State.mp_setMp_self]
    exact ⟨rfl, rfl, fun n hn => by rw [State.count_mp, hne n hn], count_cMp_slices, State.count_regs⟩
  · obtain ⟨hne, heq⟩ := State.setMp_alone (s := s) (m := m) (q := (s.mp m).sweepVisit)
    refine ⟨_, execSweepStep_visits hr hf hl hp, ?_⟩
    rw [State.mp_setMp_self]
    exact ⟨rfl, Port.sweepVisit_fence hf hl, fun k w hh hb => Port.hway_sweepSet hh hb,
      fun k w hk hh hd hw hb => Port.queuedBack_sweepSet hf hl hk hh hd hw hb, hne, heq⟩
  · refine ⟨_, f.persist, execFenceClose_queues hr hp hf, ?_⟩
    rw [State.mp_setMp_self]
    refine ⟨rfl, rfl, ?_, State.setMp_alone⟩
    exact List.mem_map.mpr ⟨f, List.mem_of_find?_eq_some hf, if_pos rfl⟩
  · refine ⟨_, execFenceReport_waits hq hx hp hn, ?_⟩
    rw [State.att_modAtt_self, State.reportTaken_att]
    exact ⟨Store.get_set_self, rfl, rfl⟩
  · refine ⟨_, execFenceReport_completes hq hx hp hn hd, ?_⟩
    rw [State.fenceCmp_att, State.complete_att (by rw [State.att_modAtt_self, State.reportTaken_att]; exact hw), State.att_modAtt_self]
    exact ⟨Store.get_set_self, _, List.mem_append_right _ List.mem_cons_self⟩

end Sys2Proof.Machine

/-! SUPPORT. The upkeep of a bank: the age engine, the scrub, maintenance, disable and enable. -/

namespace Sys2Proof.Machine

section BankUpkeep

variable {s : State} {m n : PortId} {p : Port} {k : Nat} {w : Way} {g : Fld} {x : Maint}

/-! ## Firmware's commands at a port (R405) -/

theorem State.unitUp_port (hf : s.fwUp = true) (hg : (s.mp m).gate = .opened) : s.unitUp (.port m) = true := by
  simp [State.unitUp, State.mpShut, hf, hg]

/-! ## Fields of one word of a port -/

section Words

variable {o lo len lo' len' v : Nat} (h : lo + len ≤ 32)
include h

theorem State.fld_putF_mp : (s.putF (Fld.mp m o lo len) v).fld (Fld.mp m o lo len) = v % 2 ^ len := State.fld_putF h

theorem State.fld_putF_mp_apart (hd : lo + len ≤ lo' ∨ lo' + len' ≤ lo) :
    (s.putF (Fld.mp m o lo len) v).fld (Fld.mp m o lo' len') = s.fld (Fld.mp m o lo' len') := State.fld_putF_apart h (.inr hd)

end Words

/-! ## Age (R169) -/

theorem execEpochAdvance_next (hr : s.runs = true) : execEpochAdvance m s
    = .next ((s.reach ((s.mp m).epochAt + 1000 * (s.mp m).period)).setMp m { s.mp m with
        epoch := (s.mp m).epoch + 1, period := s.fld (Fld.mp m 0x404 0 10)
        epochAt := (s.mp m).epochAt + 1000 * (s.mp m).period, agePos := 0 }) := by
  rw [execEpochAdvance, if_pos hr]
  dsimp only
  rw [State.reach_fld]

/-- What the age engine does about one DIRTY way. -/
def Port.ageWay (lim : Nat) (p : Port) (e : Nat × Way) : Port :=
  if p.wbf e.2 = false ∧ lim ≤ p.ageOf e.2 then p.queueBack .age e.2.line else p

theorem Port.backs_ageWay (lim : Nat) (p : Port) (e : Nat × Way) : Port.Backs p (p.ageWay lim e) := .ite Port.backs_queueBack .refl

/-- A port after a visit of the age engine to the set at its position. -/
def Port.aged (p : Port) (lim : Nat) : Port :=
  { (p.dirtyIn (BitVec.ofNat 10 p.agePos)).foldl (Port.ageWay lim) p with agePos := p.agePos + 1 }

theorem execAgeEngineVisit_ages (hr : s.runs = true) (hp : (s.mp m).agePos < 1024) (hw : ∀ o w, (s.mp m).win ≠ .window o w) :
    execAgeEngineVisit m s = .next (s.setMp m ((s.mp m).aged (s.fld (Fld.mp m 0x404 10 4)))) := by
  have hpos : ¬ 1024 ≤ (s.mp m).agePos := Nat.not_le.mpr hp
  unfold execAgeEngineVisit
  cases hs : (s.mp m).win with
  | window o w => exact absurd hs (hw o w)
  | none => exact if_neg (by simp [hpos, hr])
  | drain a b c d => exact if_neg (by simp [hpos, hr])

theorem Port.aged_ways {lim : Nat} : (p.aged lim).ways = p.ways := by
  refine List.foldlRecOn (motive := fun q : Port => q.ways = p.ways) _ _ rfl fun q hq e _ => ?_
  rw [Port.ageWay, apply_ite Port.ways, Port.queueBack_eq, hq, ite_self]

theorem Port.queuedBack_aged {lim : Nat} (hk : k ∈ hKeys (BitVec.ofNat 10 p.agePos)) (hh : p.hway k = some w) (hd : w.st = .dirty)
    (hb : w.wb = 0) (hl : lim ≤ p.ageOf w) : ((p.aged lim).queuedBack w.line).isSome = true := by
  refine Port.queuedBack_foldl (port := id) (Port.backs_ageWay lim) (Port.mem_dirtyIn.mpr ⟨hk, hh, hd⟩) fun q hq => ?_
  have hage : lim ≤ q.ageOf w := hq.ageOf.symm ▸ hl
  by_cases hwait : (q.queuedBack w.line).isSome = true
  · exact (Port.backs_ageWay lim q (k, w)).queued _ hwait
  · have hwbf : q.wbf w = false := by simp [Port.wbf, hb, hwait]
    rw [Port.ageWay, if_pos ⟨hwbf, hage⟩]
    exact Port.queuedBack_queueBack_self

/-! ## Maintenance (R179) -/

/-- HLB_MAINT as a start writes it: OP, MODE and ALL. -/
def State.maintSet (s : State) (m : PortId) (op : BitVec 2) (setway all : Bool) : State :=
  ((s.putF (Fld.mp m 0x410 0 2) (if op = 3 then 0 else op.toNat)).putF (Fld.mp m 0x410 2 1) (if setway then 1 else 0)).putF
    (Fld.mp m 0x410 3 1) (if all then 1 else 0)

theorem State.maintSet_op {op : BitVec 2} {setway all : Bool} :
    BitVec.ofNat 2 ((s.maintSet m op setway all).fld (Fld.mp m 0x410 0 2)) = if op = 3 then 0 else op := by
  have hstored : ∀ op : BitVec 2, BitVec.ofNat 2 ((if op = 3 then 0 else op.toNat) % 2 ^ 2) = if op = 3 then 0 else op := by decide
  rw [State.maintSet, State.fld_putF_mp_apart (by decide) (by decide), State.fld_putF_mp_apart (by decide) (by decide),
    State.fld_putF_mp (by decide), hstored]

theorem State.maintSet_setway {op : BitVec 2} {setway all : Bool} :
    (s.maintSet m op setway all).fld (Fld.mp m 0x410 2 1) = if setway then 1 else 0 := by
  rw [State.maintSet, State.fld_putF_mp_apart (by decide) (by decide), State.fld_putF_mp (by decide)]
  cases setway <;> rfl

theorem State.maintSet_all {op : BitVec 2} {setway all : Bool} :
    (s.maintSet m op setway all).fld (Fld.mp m 0x410 3 1) = if all then 1 else 0 := by
  rw [State.maintSet, State.fld_putF_mp (by decide)]
  cases all <;> rfl

/-- A maintenance operation has begun: BUSY reads 1, and SKIPPED 0. -/
def State.maintBegun (s : State) (m : PortId) (x : Maint) : State :=
  ((s.modMp m (fun p => { p with maint := some x })).putF (Fld.mp m 0x410 5 1) 1).putF (Fld.mp m 0x410 16 16) 0

theorem State.maintStart_begins (h : (s.mp m).maint = none) : ∃ x, s.maintStart m = s.maintBegun m x
    ∧ x.op = BitVec.ofNat 2 (s.fld (Fld.mp m 0x410 0 2)) ∧ x.setway = decide (s.fld (Fld.mp m 0x410 2 1) = 1)
    ∧ x.all = decide (s.fld (Fld.mp m 0x410 3 1) = 1) ∧ x.next = 0 ∧ x.waits = [] :=
  ⟨_, if_neg (by rw [h]; exact Bool.false_ne_true), rfl, rfl, rfl, rfl, rfl⟩

theorem State.maintBegun_busy : (s.maintBegun m x).fld (Fld.mp m 0x410 5 1) = 1 := by
  rw [State.maintBegun, State.fld_putF_mp_apart (by decide) (by decide), State.fld_putF_mp (by decide)]
  rfl

theorem State.maintBegun_skipped : (s.maintBegun m x).fld (Fld.mp m 0x410 16 16) = 0 := by
  rw [State.maintBegun, State.fld_putF_mp (by decide), Nat.zero_mod]

theorem State.maintBegun_mp_self : (s.maintBegun m x).mp m = { s.mp m with maint := some x } := by
  rw [State.maintBegun, State.putF_mp, State.putF_mp, State.mp_modMp_self]

theorem State.maintBegun_mp_ne (h : n ≠ m) : (s.maintBegun m x).mp n = s.mp n := by
  rw [State.maintBegun, State.putF_mp, State.putF_mp, State.mp_modMp_ne h]

theorem execHlbMaintStart_begins {op : BitVec 2} {setway all : Bool} (hf : s.fwUp = true) (hg : (s.mp m).gate = .opened)
    (hm : (s.mp m).maint = none) : ∃ x, execHlbMaintStart m op setway all s = .next ((s.maintSet m op setway all).maintBegun m x)
      ∧ x.op = (if op = 3 then 0 else op) ∧ x.setway = setway ∧ x.all = all ∧ x.next = 0 ∧ x.waits = [] := by
  obtain ⟨x, hx, hop, hsw, hall, hnext, hwaits⟩ := State.maintStart_begins (s := s.maintSet m op setway all) (m := m) hm
  rw [State.maintSet_op] at hop
  rw [State.maintSet_setway] at hsw
  rw [State.maintSet_all] at hall
  refine ⟨x, ?_, hop, ?_, ?_, hnext, hwaits⟩
  · rw [execHlbMaintStart, State.regMp_up (State.unitUp_port hf hg)]
    exact congrArg _ hx
  · rw [hsw]
    cases setway <;> rfl
  · rw [hall]
    cases all <;> rfl

/-- A visit of an operation that goes through the sets (R179): that of the set whose turn it is. -/
theorem execHlbMaintVisit_visits (hr : s.runs = true) (hm : (s.mp m).maint = some x)
    (hb : (s.mp m).busySet (BitVec.ofNat 10 x.next) = false) (ha : x.setway = false ∨ x.all = true) (hn : x.next < 1024) :
    execHlbMaintVisit m s = .next ((((hKeys (BitVec.ofNat 10 x.next)).foldl (fun s k => s.maintWay m x k) s).modMp m (fun p =>
      { p with maint := p.maint.map (fun t => { t with next := t.next + 1 }) })).maintEnd m) := by
  have hsingle : (x.setway && !x.all) = false := by
    rcases ha with h | h
    · rw [h, Bool.false_and]
    · rw [h, Bool.not_true, Bool.and_false]
  simp only [execHlbMaintVisit, hm, hsingle, Bool.false_eq_true, if_false]
  exact if_neg (by simp [hb, hr, hn])

/-! ## Disable and enable (R180) -/

/-- The ways of a port, the other ports and the registers are as they were. -/
structure State.SameBank (s t : State) (m : PortId) : Prop where
  ways : (t.mp m).ways = (s.mp m).ways
  others : ∀ n, n ≠ m → t.mp n = s.mp n
  regs : t.regs = s.regs

theorem State.SameBank.refl : State.SameBank s s m := ⟨rfl, fun _ _ => rfl, rfl⟩

theorem State.SameBank.trans {t u : State} (h : State.SameBank s t m) (h' : State.SameBank t u m) : State.SameBank s u m :=
  ⟨h'.ways.trans h.ways, fun n hn => (h'.others n hn).trans (h.others n hn), h'.regs.trans h.regs⟩

theorem State.SameBank.modMp {f : Port → Port} (h : (f (s.mp m)).ways = (s.mp m).ways) : State.SameBank s (s.modMp m f) m :=
  ⟨by rw [State.mp_modMp_self, h], fun _ hn => State.mp_modMp_ne hn, rfl⟩

theorem State.SameBank.fire {i : Nat} : State.SameBank s (s.fire i) m := ⟨by rw [State.fire_mp], fun _ _ => State.fire_mp, State.fire_regs⟩

theorem State.SameBank.flushEv : State.SameBank s (s.flushEv m) m :=
  ⟨by rw [State.flushEv, State.evLevel_mp], fun _ _ => State.evLevel_mp, State.evLevel_regs⟩

theorem State.SameBank.settle : State.SameBank s (s.settle m) m := by
  unfold State.settle
  have hflush := (State.SameBank.modMp (s := s) (m := m) (f := fun p => { p with
    flushing := p.flushing && p.wayList.any (fun e => decide (e.2.st = .dirty) && !e.2.lost) }) rfl).trans .flushEv
  dsimp only
  split
  · exact hflush.trans (State.SameBank.trans (.modMp rfl) .fire)
  · exact hflush

theorem State.settle_disabled (hd : (s.mp m).hmode = .disabling) (ho : ∀ e ∈ (s.mp m).wayList, e.2.owes = false) :
    ((s.settle m).mp m).hmode = .disabled := by
  unfold State.settle
  dsimp only
  rw [if_pos, State.fire_mp, State.mp_modMp_self]
  rw [State.flushEv, State.evLevel_mp, State.mp_modMp_self]
  exact ⟨hd, List.all_eq_true.mpr fun e he => by rw [ho e he]; rfl⟩

/-- A bank that owes nothing has nothing to write back. -/
theorem Port.flushAll_of_none_owing (ho : ∀ e ∈ p.wayList, e.2.owes = false) :
    p.wayList.foldl (fun p e => if e.2.owes then p.startBack .flush e.1 e.2 else p) p = p :=
  List.foldlRecOn (motive := fun q => q = p) _ _ rfl fun q hq e he => by rw [ho e he, hq]; rfl

theorem State.flush_of_none_owing (ho : ∀ e ∈ (s.mp m).wayList, e.2.owes = false) :
    ∃ u, s.flush m = u.settle m ∧ State.SameBank s u m ∧ u.mp m = { s.mp m with flushing := true } := by
  refine ⟨_, rfl, .modMp ?_, ?_⟩
  · rw [Port.flushAll_of_none_owing ho]
  · rw [State.mp_modMp_self, Port.flushAll_of_none_owing ho]

theorem State.hlbDisable_ends (hm : (s.mp m).hmode = .enabled) (ho : ∀ e ∈ (s.mp m).wayList, e.2.owes = false) :
    State.SameBank (s.putF (Fld.mp m 0x400 0 1) 0) (s.hlbDisable m) m ∧ ((s.hlbDisable m).mp m).hmode = .disabled := by
  have hp : ((s.putF (Fld.mp m 0x400 0 1) 0).modMp m (fun p => { p with hmode := .disabling })).mp m
      = { s.mp m with hmode := .disabling } := State.mp_modMp_self
  obtain ⟨u, hu, hbank, hport⟩ := State.flush_of_none_owing (m := m)
    (s := (s.putF (Fld.mp m 0x400 0 1) 0).modMp m (fun p => { p with hmode := .disabling })) (by rw [hp]; exact ho)
  have he : s.hlbDisable m = u.settle m := (if_pos hm).trans hu
  rw [he]
  rw [hp] at hport
  exact ⟨(State.SameBank.modMp rfl).trans (hbank.trans .settle), State.settle_disabled (by rw [hport]) (by rw [hport]; exact ho)⟩

theorem execHlbDisable_open (hf : s.fwUp = true) (hg : (s.mp m).gate = .opened) : execHlbDisable m s = .next (s.hlbDisable m) := by
  rw [execHlbDisable, State.regMp_up (State.unitUp_port hf hg)]

theorem execHlbEnable_open (hf : s.fwUp = true) (hg : (s.mp m).gate = .opened) : execHlbEnable m s = .next (s.hlbEnable m) := by
  rw [execHlbEnable, State.regMp_up (State.unitUp_port hf hg)]

theorem State.hlbEnable_ends :
    State.SameBank (s.putF (Fld.mp m 0x400 0 1) 1) (s.hlbEnable m) m ∧ ((s.hlbEnable m).mp m).hmode = .enabled := by
  have hp : (s.putF (Fld.mp m 0x400 0 1) 1).mp m = s.mp m := rfl
  unfold State.hlbEnable
  dsimp only
  rw [hp]
  cases hm : (s.mp m).hmode with
  | enabled => exact ⟨.refl, hp ▸ hm⟩
  | disabling => exact ⟨State.SameBank.trans (.modMp rfl) .flushEv, by rw [State.flushEv, State.evLevel_mp, State.mp_modMp_self]⟩
  | disabled => exact ⟨.modMp rfl, by rw [State.mp_modMp_self]⟩

theorem State.SameBank.fld {t : State} (h : State.SameBank s t m) : t.fld g = s.fld g := by
  rw [State.fld, State.reg, h.regs, ← State.reg, ← State.fld]

end BankUpkeep

/-- Settles O37: a visit of the age engine as a fold over the DIRTY ways of its set, a start by the fields it writes, a disable by the
settling of a flush that has nothing to write back. -/
theorem homeLineBufferUpkeep : Obligations.HomeLineBufferUpkeep := by
  unfold Obligations.HomeLineBufferUpkeep
  refine ⟨fun m s hr => ?_, fun m s hr hp hw => ?_, fun m s hr hl hm => if_pos ⟨hr, hl, hm⟩, fun m op setway all s hf hg hm => ?_,
    fun m x s hr hm hb ha hn => execHlbMaintVisit_visits hr hm hb ha hn, fun m s hf hg hm ho => ?_, fun m s hf hg => ?_⟩
  · refine ⟨_, execEpochAdvance_next hr, ?_⟩
    rw [State.mp_setMp_self, State.setMp_now, State.now, State.plinth_now_reach]
    refine ⟨rfl, rfl, rfl, rfl, rfl, rfl, fun n hn => ?_, State.reach_regs⟩
    rw [State.mp_setMp, if_neg hn, State.reach_mp]
  · refine ⟨_, execAgeEngineVisit_ages hr hp hw, ?_⟩
    rw [State.mp_setMp_self]
    exact ⟨rfl, Port.aged_ways, fun k w hk hh hd hb hage => Port.queuedBack_aged hk hh hd hb hage, State.setMp_alone⟩
  · obtain ⟨x, hx, hop, hsw, hall, hnext, hwaits⟩ := execHlbMaintStart_begins (op := op) (setway := setway) (all := all) hf hg hm
    refine ⟨_, x, hx, ?_⟩
    rw [State.maintBegun_mp_self]
    exact ⟨rfl, hop, hsw, hall, hnext, hwaits, State.maintBegun_busy, State.maintBegun_skipped, rfl, fun n hn => State.maintBegun_mp_ne hn⟩
  · obtain ⟨hbank, hmode⟩ := State.hlbDisable_ends hm ho
    refine ⟨_, execHlbDisable_open hf hg, hmode, ?_, hbank.ways, hbank.others⟩
    rw [hbank.fld, State.fld_putF_mp (by decide), Nat.zero_mod]
  · obtain ⟨hbank, hmode⟩ := State.hlbEnable_ends (s := s) (m := m)
    refine ⟨_, execHlbEnable_open hf hg, hmode, ?_, hbank.ways, hbank.others⟩
    rw [hbank.fld, State.fld_putF_mp (by decide)]
    rfl

end Sys2Proof.Machine

/-! SUPPORT. QUIESCE: how it begins and ends, and the steps of its drain. -/

namespace Sys2Proof.Machine

section Quiesce

variable {s : State} {i : SliceId}

/-! ## QUIESCE begins (R209, R278, R281) -/

theorem State.startDrain_modes : s.startDrain.modes = { s.modes with mode := .quiesce, drainStep := 1, drained := false } := by
  rw [State.startDrain, State.noRsvs, State.loseRsvAll_modes, State.toMode_modes]

theorem State.startDrain_rsvs : (s.startDrain.sl i).rsvs = [] := by
  rw [State.startDrain, State.noRsvs, State.rsvs_loseRsvAll]
  exact List.filter_eq_nil_iff.mpr fun r _ => Bool.false_ne_true

theorem State.enterQuiesce_of_admits (h : s.mode = .serve ∨ s.mode = .shed) : s.enterQuiesce = s.startDrain := by
  unfold State.enterQuiesce
  rcases h with h | h <;> rw [h]

theorem State.quiesceSet_of_admits (h : s.mode = .serve ∨ s.mode = .shed) : s.quiesceSet = (s.putF ⟨0x70000, 1, 1⟩ 1).startDrain :=
  State.enterQuiesce_of_admits h

theorem State.quiesceSet_agreeOff : s.agreeOff [.modes, .regs, .slices, .mesh, .events, .cox] s.quiesceSet :=
  State.agreeOff_of_kept (by decide) State.quiesceSet_kept

theorem State.quiesceSet_fld : s.quiesceSet.fld ⟨0x70000, 1, 1⟩ = 1 :=
  ((State.Stands.refl (s := s.putF ⟨0x70000, 1, 1⟩ 1)).enterQuiesce.fld (by decide)).trans (State.fld_putF (by decide))

/-! ## QUIESCE ends (R278) -/

theorem State.quiesceHeld_eq_false_iff : s.quiesceHeld = false ↔ s.level ≠ 5 ∧ s.fld ⟨0x70000, 1, 1⟩ ≠ 1
    ∧ s.modes.restReqd = false ∧ s.modes.warm = none ∧ s.modes.pwrFail = false := by
  simp [State.quiesceHeld, and_assoc]

theorem State.leaveQuiesce_modes (hm : s.mode = .quiesce) (hh : s.quiesceHeld = false) (hp : s.modes.restPhase = 0) :
    s.leaveQuiesce.modes = { s.modes with mode := s.admitMode, drained := false, drainStep := 0, cleanWr := false } := by
  unfold State.leaveQuiesce
  rw [if_neg (by simp [hm, hh, hp])]
  dsimp only
  rw [State.toMode_modes]
  split <;> rfl

theorem State.quiesceClear_agreeOff : s.agreeOff [.modes, .regs, .ports, .mesh, .cast, .events, .cox] s.quiesceClear :=
  State.agreeOff_of_kept (by decide) State.quiesceClear_kept

theorem State.quiesceClear_fld : s.quiesceClear.fld ⟨0x70000, 1, 1⟩ = 0 :=
  ((State.Stands.refl (s := s.putF ⟨0x70000, 1, 1⟩ 0)).leaveQuiesce.fld (by decide)).trans (State.fld_putF (by decide))

theorem State.quiesceClear_modes (hm : s.mode = .quiesce) (hp : s.modes.restPhase = 0) (hl : s.level ≠ 5)
    (hr : s.modes.restReqd = false) (hw : s.modes.warm = none) (hf : s.modes.pwrFail = false) :
    s.quiesceClear.modes = { s.modes with mode := s.admitMode, drained := false, drainStep := 0, cleanWr := false } := by
  have hbit : (s.putF ⟨0x70000, 1, 1⟩ 0).fld ⟨0x70000, 1, 1⟩ = 0 := State.fld_putF (by decide)
  exact State.leaveQuiesce_modes (s := s.putF ⟨0x70000, 1, 1⟩ 0) hm
    (State.quiesceHeld_eq_false_iff.mpr ⟨hl, by rw [hbit]; decide, hr, hw, hf⟩) hp

/-! ## The drain advances (R281, R291) -/

theorem execQuiesceDrainAdvance_drains (hm : s.mode = .quiesce) (hl : s.modes.restLimit = false) (hp : s.modes.restPhase ≠ 7) :
    execQuiesceDrainAdvance s = .next (if s.drainOn.modes.drained = true ∧ s.drainOn.modes.warm.isSome = true
      then s.drainOn.warmEffect true else s.drainOn) := by
  have hheld : s.held = false := decide_eq_false (by rw [← State.mode, hm]; decide)
  rw [execQuiesceDrainAdvance, if_neg (by rw [hheld]; simp), if_pos ⟨hm, hl, hp⟩]

theorem State.drainOn_flows (h : s.modes.drainStep = 1) (hf : s.flowsOut = true) :
    s.drainOn = { s with modes := { s.modes with drainStep := 2 } } := by
  unfold State.drainOn
  rw [h]
  exact if_pos hf

theorem State.drainOn_flush (h : s.modes.drainStep = 3) (hf : s.flushed = true) :
    s.drainOn = { s with modes := { s.modes with drainStep := 4 } } := by
  unfold State.drainOn
  rw [h]
  exact if_pos hf

theorem State.drainOn_header (h : s.modes.drainStep = 5) (hw : s.cast.writes = 0) :
    s.drainOn.modes.drainStep = 6 ∧ s.drainOn.cast.clean = true := by
  unfold State.drainOn
  rw [h]
  dsimp only
  rw [if_neg (not_not.mpr hw)]
  exact ⟨rfl, rfl⟩

theorem State.setDrained_modes : s.setDrained.modes = { s.modes with drained := true, drainStep := 7 } := by
  unfold State.setDrained
  dsimp only
  split <;> rfl

theorem State.drainOn_last (h : s.modes.drainStep = 6) (hw : s.cast.writes = 0) : s.drainOn = s.setDrained := by
  unfold State.drainOn
  rw [h]
  exact if_neg (not_not.mpr hw)

end Quiesce

/-- Settles O42: the entry and the end by what they leave of the mode logic, the drain step by step. -/
theorem quiesceDrains : Obligations.QuiesceDrains := by
  unfold Obligations.QuiesceDrains
  refine ⟨fun s hf ha => ?_, fun s hf hm hp hl hr hw hpf => ?_, fun s hm hl hp => ?_, fun s hh hw => if_pos ⟨hh, hw⟩⟩
  · have hmodes : s.quiesceSet.modes = { s.modes with mode := .quiesce, drainStep := 1, drained := false } := by
      rw [State.quiesceSet_of_admits ha, State.startDrain_modes, State.putF_modes]
    have hoff := State.quiesceSet_agreeOff (s := s)
    exact ⟨_, if_pos hf, congrArg Modes.mode hmodes, congrArg Modes.drainStep hmodes, congrArg Modes.drained hmodes,
      State.quiesceSet_fld, fun i => by rw [State.quiesceSet_of_admits ha, State.startDrain_rsvs],
      hoff .agents (by decide), hoff .atts (by decide), hoff .ports (by decide)⟩
  · have hmodes := State.quiesceClear_modes hm hp hl hr hw hpf
    have hoff := State.quiesceClear_agreeOff (s := s)
    exact ⟨_, if_pos hf, congrArg Modes.mode hmodes, congrArg Modes.drained hmodes, congrArg Modes.cleanWr hmodes,
      State.quiesceClear_fld, hoff .agents (by decide), hoff .atts (by decide), hoff .slices (by decide)⟩
  · refine ⟨execQuiesceDrainAdvance_drains hm hl hp, State.drainOn_flows, State.drainOn_flush, State.drainOn_header,
      fun h hw => ?_⟩
    rw [State.drainOn_last h hw, State.setDrained_modes]
    exact ⟨rfl, rfl⟩

end Sys2Proof.Machine

/-! SUPPORT. Re-homing: the moves that a command queues, and the four steps of a move. -/

namespace Sys2Proof.Machine

section Rehoming

variable {s t : State} {b c : BitVec 12} {i j d : SliceId} {m : Move} {n : BitVec 2} {f : Move → Move}
  {h : SliceId × BitVec 12 × Nat × List AgentId}

/-! ## The home map and its moves -/

theorem State.homeOf_of_map (hm : t.hmap.moved = s.hmap.moved) (hi : t.hmap.init = s.hmap.init) : t.homeOf b = s.homeOf b := by
  rw [State.homeOf, hm, hi, State.homeOf]

theorem State.moveOf_of (h : t.hmap.moves = s.hmap.moves) : t.moveOf b = s.moveOf b := by rw [State.moveOf, h, State.moveOf]

theorem State.fld_of_regs {g : Fld} (h : t.regs = s.regs) : t.fld g = s.fld g := by rw [State.fld, State.reg, h, State.fld, State.reg]

theorem State.bucket_of_moveOf (h : s.moveOf b = some m) : m.bucket = b :=
  of_decide_eq_true (List.find?_some (p := fun m : Move => decide (m.bucket = b)) h)

theorem State.moveOf_modMove (hm : s.moveOf b = some m) (hf : ∀ m, (f m).bucket = m.bucket := by intro _; rfl) :
    (s.modMove b f).moveOf b = some (f m) := by
  have hbucket : (fun m : Move => decide (m.bucket = b)) ∘ (fun m => if m.bucket = b then f m else m)
      = fun m => decide (m.bucket = b) := by
    funext m
    rw [Function.comp_apply]
    split
    · rw [hf]
    · rfl
  rw [State.moveOf, State.modMove, List.find?_map, hbucket, ← State.moveOf, hm]
  exact congrArg some (if_pos (State.bucket_of_moveOf hm))

theorem find?_eq_some_of_unique {α : Type} {l : List α} {p : α → Bool} {x : α} (hx : x ∈ l) (hp : p x = true)
    (hu : ∀ y ∈ l, p y = true → y = x) : l.find? p = some x := by
  cases h : l.find? p with
  | none => exact absurd hp (List.find?_eq_none.mp h x hx)
  | some y => rw [hu y (List.mem_of_find?_eq_some h) (List.find?_some h)]

/-! ## RESIZE (R295) -/

/-- The moves of a resize: the buckets whose home differs, in ascending order. -/
def State.resizeMoves (s : State) (n : BitVec 2) : List Move :=
  (List.range 4096).filterMap (fun k =>
    let b := BitVec.ofNat 12 k
    if s.homeOf b = targetHome n b then none else some (Move.new b (s.homeOf b) (targetHome n b)))

theorem State.mem_resizeMoves : m ∈ s.resizeMoves n ↔
    ∃ b, s.homeOf b ≠ targetHome n b ∧ m = Move.new b (s.homeOf b) (targetHome n b) := by
  rw [State.resizeMoves, List.mem_filterMap]
  constructor
  · rintro ⟨k, -, hk⟩
    dsimp only at hk
    split at hk
    · cases hk
    · next hne => exact ⟨_, hne, (Option.some.inj hk).symm⟩
  · rintro ⟨b, hne, rfl⟩
    refine ⟨b.toNat, List.mem_range.mpr b.isLt, ?_⟩
    simp only [BitVec.ofNat_toNat, BitVec.setWidth_eq]
    exact if_neg hne

theorem State.find?_resizeMoves_of_ne (h : s.homeOf b ≠ targetHome n b) : (s.resizeMoves n).find? (fun m => decide (m.bucket = b))
    = some (Move.new b (s.homeOf b) (targetHome n b)) := by
  refine find?_eq_some_of_unique (State.mem_resizeMoves.mpr ⟨b, h, rfl⟩) (decide_eq_true rfl) fun m hm hb => ?_
  obtain ⟨c, -, rfl⟩ := State.mem_resizeMoves.mp hm
  obtain rfl : c = b := of_decide_eq_true hb
  rfl

theorem State.find?_resizeMoves_of_eq (h : s.homeOf b = targetHome n b) :
    (s.resizeMoves n).find? (fun m => decide (m.bucket = b)) = none := by
  refine List.find?_eq_none.mpr fun m hm hb => ?_
  obtain ⟨c, hne, rfl⟩ := State.mem_resizeMoves.mp hm
  obtain rfl : c = b := of_decide_eq_true hb
  exact hne h

/-- The slices of a resize's target become active. -/
def State.activated (s : State) (n : BitVec 2) : State :=
  allSlices.foldl (fun s i => if inActive n i.toNat then s.activate i else s) s

theorem State.activated_agreeOff : s.agreeOff [.slices] (s.activated n) :=
  State.agreeOff_of_kept (by decide) fun hC hK => Kept.fold _ (fun _ _ h => Kept.ite (State.activate_kept hC h) h) hK

theorem State.activate_active : ((s.activate i).sl i).active = true := by
  unfold State.activate
  split
  · assumption
  · rw [State.sl_modSl_self]

theorem State.activate_sl_ne (h : j ≠ i) : (s.activate j).sl i = s.sl i := by
  unfold State.activate
  split
  · rfl
  · rw [State.sl_modSl, if_neg h.symm]

theorem State.activated_active (h : inActive n i.toNat = true) : ((s.activated n).sl i).active = true := by
  refine State.foldl_allSlices (view := fun s => (s.sl i).active) (R := fun _ y => y = true) i (fun s => ?_) fun s j hj => ?_
  · rw [if_pos h, State.activate_active]
  · split
    · rw [State.activate_sl_ne hj]
    · rfl

/-- The map and HMAP_RESIZE as an accepted resize leaves them. -/
def State.resizeQueued (s : State) (n : BitVec 2) : State :=
  { s.putF ⟨0x48004, 0, 2⟩ n.toNat with hmap := { s.hmap with resize := some n, moves := s.resizeMoves n } }

/-- A resize that has been accepted, before it is seen whether anything is to move. -/
def State.resizeBegun (s : State) (n : BitVec 2) : State := (s.resizeQueued n).activated n

theorem State.resizeBegun_agreeOff : (s.resizeQueued n).agreeOff [.slices] (s.resizeBegun n) := State.activated_agreeOff

theorem State.resizeBegun_hmap : (s.resizeBegun n).hmap = { s.hmap with resize := some n, moves := s.resizeMoves n } :=
  State.resizeBegun_agreeOff .hmap (by decide)

theorem State.resizeBegun_atts : (s.resizeBegun n).atts = s.atts := State.resizeBegun_agreeOff .atts (by decide)
theorem State.resizeBegun_ports : (s.resizeBegun n).ports = s.ports := State.resizeBegun_agreeOff .ports (by decide)

theorem State.resizeBegun_moves : (s.resizeBegun n).hmap.moves = s.resizeMoves n := by
  rw [State.resizeBegun_hmap]

theorem State.moveOf_resizeBegun_of_ne (h : s.homeOf b ≠ targetHome n b) :
    (s.resizeBegun n).moveOf b = some (Move.new b (s.homeOf b) (targetHome n b)) := by
  rw [State.moveOf, State.resizeBegun_moves]
  exact State.find?_resizeMoves_of_ne h

theorem State.moveOf_resizeBegun_of_eq (h : s.homeOf b = targetHome n b) : (s.resizeBegun n).moveOf b = none := by
  rw [State.moveOf, State.resizeBegun_moves]
  exact State.find?_resizeMoves_of_eq h

theorem State.resizeBegun_fld : (s.resizeBegun n).fld ⟨0x48004, 0, 2⟩ = n.toNat := by
  have hregs : (s.resizeBegun n).regs = (s.putF ⟨0x48004, 0, 2⟩ n.toNat).regs := State.resizeBegun_agreeOff .regs (by decide)
  rw [State.fld_of_regs hregs, State.fld_putF (by decide)]
  exact Nat.mod_eq_of_lt n.isLt

theorem execResize_accepted (hf : s.fwUp = true) (ht : s.hmapTakes = true) :
    execResize n s = .next (s.resizeBegun n).resizeEnd := by
  have htakes : ¬ (!(s.putF ⟨0x48004, 0, 2⟩ n.toNat).hmapTakes) = true := by
    rw [show (s.putF ⟨0x48004, 0, 2⟩ n.toNat).hmapTakes = true from ht]
    exact Bool.false_ne_true
  rw [execResize, if_pos hf, State.resizeGo, if_neg htakes]
  rfl

theorem execResize_refused (hf : s.fwUp = true) (ht : s.hmapTakes = false) :
    execResize n s = .next (s.putF ⟨0x48004, 0, 2⟩ n.toNat).hmapRefuse := by
  have htakes : (!(s.putF ⟨0x48004, 0, 2⟩ n.toNat).hmapTakes) = true := by
    rw [show (s.putF ⟨0x48004, 0, 2⟩ n.toNat).hmapTakes = false from ht]
    rfl
  rw [execResize, if_pos hf, State.resizeGo, if_pos htakes]

theorem State.hmapRefuse_fld : s.hmapRefuse.fld ⟨0x4800C, 19, 1⟩ = 1 := State.fld_putF (by decide)

theorem State.resizeEnd_of_none (h : s.hmap.resize = none) : s.resizeEnd = s := by rw [State.resizeEnd, h]

theorem State.resizeEnd_of_moves (h : s.hmap.moves ≠ []) : s.resizeEnd = s := by
  unfold State.resizeEnd
  cases s.hmap.resize with
  | none => rfl
  | some n => exact if_pos h

theorem State.resizeEnd_hmap (hr : s.hmap.resize = some n) (hm : s.hmap.moves = []) :
    s.resizeEnd.hmap = { s.hmap with resize := none, count := n } := by
  have hfold (u : State) : u.agreeOff [.regs, .agents, .slices, .mesh, .events]
      (allSlices.foldl (fun s i => if (s.sl i).active ∧ s.nextHomed i 0 = none then s.deactivate i else s) u) :=
    State.agreeOff_of_kept (by decide) fun hC hK => Kept.fold _ (fun _ _ h => Kept.ite (State.deactivate_kept hC h) h) hK
  unfold State.resizeEnd
  rw [hr]
  dsimp only
  rw [if_neg (not_not.mpr hm), State.fire_hmap]
  exact hfold _ .hmap (by decide)

/-- The end of a resize writes nothing of the map but what a resize has of its own. -/
theorem State.resizeEnd_map : ∃ r k, s.resizeEnd.hmap = { s.hmap with resize := r, count := k } := by
  by_cases hm : s.hmap.moves = []
  · cases hr : s.hmap.resize with
    | none => exact ⟨s.hmap.resize, s.hmap.count, by rw [State.resizeEnd_of_none hr]⟩
    | some n => exact ⟨none, n, State.resizeEnd_hmap hr hm⟩
  · exact ⟨s.hmap.resize, s.hmap.count, by rw [State.resizeEnd_of_moves hm]⟩

/-- A resize that has something to move goes on. -/
theorem State.resizeBegun_goesOn (h : ∃ b, s.homeOf b ≠ targetHome n b) : (s.resizeBegun n).resizeEnd = s.resizeBegun n := by
  obtain ⟨b, hb⟩ := h
  refine State.resizeEnd_of_moves ?_
  rw [State.resizeBegun_moves]
  exact List.ne_nil_of_mem (State.mem_resizeMoves.mpr ⟨b, hb, rfl⟩)

theorem State.resizeMoves_eq_nil (h : ∀ b, s.homeOf b = targetHome n b) : s.resizeMoves n = [] :=
  List.eq_nil_iff_forall_not_mem.mpr fun m hm => by
    obtain ⟨b, hne, -⟩ := State.mem_resizeMoves.mp hm
    exact hne (h b)

/-- A resize with nothing to move ends at once. -/
theorem State.resizeBegun_ends (h : ∀ b, s.homeOf b = targetHome n b) :
    (s.resizeBegun n).resizeEnd.hmap = { s.hmap with resize := none, moves := [], count := n } := by
  rw [State.resizeEnd_hmap (n := n) (by rw [State.resizeBegun_hmap]) (by rw [State.resizeBegun_moves, State.resizeMoves_eq_nil h]),
    State.resizeBegun_hmap, State.resizeMoves_eq_nil h]

/-! ## MOVE (R295) -/

/-- HMAP_MOVE as the command leaves it. -/
def State.moveSet (s : State) (b : BitVec 12) (d : SliceId) : State :=
  (s.putF ⟨0x48008, 0, 12⟩ b.toNat).putF ⟨0x48008, 12, 6⟩ d.toNat

theorem State.moveSet_bucket : (s.moveSet b d).fld ⟨0x48008, 0, 12⟩ = b.toNat :=
  (State.fld_putF_apart (by decide) (.inr (.inr (by decide)))).trans
    ((State.fld_putF (by decide)).trans (Nat.mod_eq_of_lt b.isLt))

theorem State.moveSet_slice : (s.moveSet b d).fld ⟨0x48008, 12, 6⟩ = d.toNat :=
  (State.fld_putF (by decide)).trans (Nat.mod_eq_of_lt d.isLt)

/-- A move of one bucket that has been accepted. -/
def State.moveQueued (s : State) (b : BitVec 12) (d : SliceId) : State :=
  { s.moveSet b d with hmap := { s.hmap with moves := [Move.new b (s.homeOf b) d] } }

theorem State.moveQueued_regs : (s.moveQueued b d).regs = (s.moveSet b d).regs := by rw [State.moveQueued]

theorem execMove_up (hf : s.fwUp = true) : execMove b d s = .next ((s.moveSet b d).moveGo b d) := if_pos hf

theorem State.moveGo_refused (h : s.hmapTakes = false ∨ (s.sl d).active = false) : s.moveGo b d = s.hmapRefuse :=
  if_pos (h.imp (fun h => by rw [h]; rfl) fun h => by rw [h]; rfl)

theorem State.moveGo_accepted (ht : s.hmapTakes = true) (ha : (s.sl d).active = true) : (s.moveSet b d).moveGo b d =
    if s.homeOf b = d then (s.moveSet b d).fire (evG 27) else s.moveQueued b d := by
  have htakes : (s.moveSet b d).hmapTakes = true := ht
  have hactive : ((s.moveSet b d).sl d).active = true := ha
  exact if_neg (by rw [htakes, hactive]; simp)

/-! ## Step 1: mark moving (R296) -/

theorem State.loseRsv_rsvs {p : Rsv → Bool} : ((s.loseRsv i p).sl i).rsvs = (s.sl i).rsvs.filter (fun r => !p r) :=
  (Prod.mk.inj State.rsvView_loseRsv).1

theorem State.loseRsv_sl_ne {p : Rsv → Bool} (h : j ≠ i) : (s.loseRsv i p).sl j = s.sl j := by
  rw [State.loseRsv, State.addF_sl, State.sl_modSl, if_neg h]

theorem execBucketMarkMoving_marks (hm : s.moveOf b = some m) (hk : s.mayMark m = true) : execBucketMarkMoving b s
    = .next ((s.modMove b (fun m => { m with st := .marked })).loseRsv m.src (fun r => decide (bucketOf r.line = b))) := by
  rw [execBucketMarkMoving, hm]
  exact if_pos hk

/-! ## Step 2: the write-back (R296) -/

theorem execBucketWriteBack_passes {chk : PassCheck} (hm : s.moveOf b = some m) (hst : m.st = .marked) (hg : s.passGo m.src = true)
    (hb : s.bgMay m.src = true) : execBucketWriteBack b s chk = .next (s.bgPass m.src (.writeBack b) chk) := by
  rw [execBucketWriteBack, hm]
  exact if_pos ⟨hst, hg, hb⟩

/-- A step of the write-back that nothing of the bucket holds up. -/
theorem State.writeBackPass_evicts (hm : s.moveOf b = some m) (hst : m.st = .marked) (hb : (s.sl m.src).busyBucket b = false)
    (hw : (s.sl m.src).waysOf b ≠ []) :
    s.writeBackPass m.src b = ((s.sl m.src).waysOf b).foldl (fun s p => (s.evict m.src p.1 p.2).getD s) s := by
  rw [State.writeBackPass, hm]
  dsimp only
  rw [if_neg (by simp [hst, hb]), if_pos hw]

theorem State.writeBackPass_hands (hm : s.moveOf b = some m) (hst : m.st = .marked) (hb : (s.sl m.src).busyBucket b = false)
    (hw : (s.sl m.src).waysOf b = []) (ht : s.transitOf m.src b = false) (hu : s.uncounted m.src b = false) :
    (s.writeBackPass m.src b).hmap.moves
        = (s.modMove b (fun x => { x with st := .handed, mask := s.sweptPast m.src b })).hmap.moves
    ∧ (s.writeBackPass m.src b).hmap.hands = s.hmap.hands ++ [(m.dst, b, (s.sl m.src).recOfBucket b, s.sweptPast m.src b)]
    ∧ (s.writeBackPass m.src b).slices = s.slices := by
  rw [State.writeBackPass, hm]
  dsimp only
  rw [if_neg (by simp [hst, hb]), if_neg (not_not.mpr hw), if_neg (by simp [ht, hu])]
  exact ⟨rfl, rfl, rfl⟩

/-! ## Step 3: the new slice takes the bucket, and the edges are told (R93, R296) -/

/-- The count and the bypass mark of a bucket are not what a sweep it gains is about. -/
theorem State.sweepGained_sl {a : AgentId} : ((s.sweepGained i b a).sl i).recN = (s.sl i).recN
    ∧ ((s.sweepGained i b a).sl i).bypass = (s.sl i).bypass := by
  rw [State.sweepGained, State.sl_modSl_self]
  split
  · exact ⟨rfl, rfl⟩
  · split
    · exact ⟨rfl, rfl⟩
    · split <;> exact ⟨rfl, rfl⟩

/-- The sweeps that a slice gains with a bucket. -/
def State.sweepsGained (s : State) (i : SliceId) (b : BitVec 12) (as : List AgentId) : State :=
  as.foldl (fun s a => s.sweepGained i b a) s

theorem State.sweepsGained_agreeOff {as : List AgentId} : s.agreeOff [.slices] (s.sweepsGained i b as) :=
  State.agreeOff_of_kept (by decide) fun hC hK => Kept.fold _ (fun _ _ h => State.sweepGained_kept hC h) hK

theorem State.sweepsGained_sl {as : List AgentId} : ((s.sweepsGained i b as).sl i).recN = (s.sl i).recN
    ∧ ((s.sweepsGained i b as).sl i).bypass = (s.sl i).bypass :=
  List.foldlRecOn (motive := fun u : State => (u.sl i).recN = (s.sl i).recN ∧ (u.sl i).bypass = (s.sl i).bypass) as _ ⟨rfl, rfl⟩
    fun _ hu _ _ => ⟨State.sweepGained_sl.1.trans hu.1, State.sweepGained_sl.2.trans hu.2⟩

theorem State.sweepsGained_sl_ne {as : List AgentId} (h : j ≠ i) : (s.sweepsGained i b as).sl j = s.sl j :=
  List.foldlRecOn (motive := fun u : State => u.sl j = s.sl j) as _ rfl fun u hu a _ => by
    rw [State.sweepGained, State.sl_modSl, if_neg h, hu]

/-- The agents whose sweep the new slice owes a bucket: those the mask does not name. -/
def State.sweepOwed (s : State) (mask : List AgentId) : List AgentId :=
  ((s.agents.filter (fun e => e.2.sweep)).map (fun e => BitVec.ofNat 12 e.1)).filter (fun a => !mask.contains a)

/-- The new slice has the count of what was handed to it, with the bucket in bypass. -/
def State.handTaken (s : State) (i : SliceId) (h : SliceId × BitVec 12 × Nat × List AgentId) : State :=
  State.modSl { s with hmap := { s.hmap with hands := s.hmap.hands.erase h } } i (fun x =>
    { x.putRecN h.2.1 h.2.2.1 with bypass := x.bypass ++ [{ bucket := h.2.1, next := 0 }] })

/-- The new slice has taken the bucket and the sweeps with it. -/
def State.bucketTaken (s : State) (i : SliceId) (h : SliceId × BitVec 12 × Nat × List AgentId) : State :=
  (s.handTaken i h).sweepsGained i h.2.1 ((s.handTaken i h).sweepOwed h.2.2.2)

theorem State.handTaken_sl : (s.handTaken i h).sl i = { (s.sl i).putRecN h.2.1 h.2.2.1 with
    bypass := (s.sl i).bypass ++ [{ bucket := h.2.1, next := 0 }] } := State.sl_modSl_self

theorem State.bucketTaken_recOfBucket : ((s.bucketTaken i h).sl i).recOfBucket h.2.1 = h.2.2.1 := by
  rw [Slice.recOfBucket, State.bucketTaken, State.sweepsGained_sl.1, State.handTaken_sl]
  exact Store.get_set_self

theorem State.bucketTaken_bypass : ((s.bucketTaken i h).sl i).bypass = (s.sl i).bypass ++ [{ bucket := h.2.1, next := 0 }] := by
  rw [State.bucketTaken, State.sweepsGained_sl.2, State.handTaken_sl]

theorem State.bucketTaken_sl_ne (hj : j ≠ i) : (s.bucketTaken i h).sl j = s.sl j := by
  rw [State.bucketTaken, State.sweepsGained_sl_ne hj]
  exact State.sl_modSl.trans (if_neg hj)

theorem State.bucketTaken_hmap : (s.bucketTaken i h).hmap = { s.hmap with hands := s.hmap.hands.erase h } :=
  State.sweepsGained_agreeOff .hmap (by decide)

/-- Packets with the new home of a bucket leave for the 16 edge routers. -/
def State.edgesAsked (s : State) (i : SliceId) (b : BitVec 12) : State :=
  (List.range 16).foldl (fun s r => s.inject (.slice i) (edgePlace r) 0x25 (mapBody 0 b i (nextEpoch s.hmap.epoch)) []) s

theorem State.edgesAsked_agreeOff : s.agreeOff [.mesh] (s.edgesAsked i b) :=
  State.agreeOff_of_kept (by decide) fun hC hK => Kept.fold _ (fun _ _ h => State.inject_kept hC h) hK

/-- The 16 edge routers are to take the new home of a bucket. -/
def State.edgesTold (s : State) (i : SliceId) (b : BitVec 12) : State :=
  let s := s.edgesAsked i b
  { s with hmap := { s.hmap with
    sets := s.hmap.sets ++ (List.range 16).map (fun r => (BitVec.ofNat 4 r, b, i, nextEpoch s.hmap.epoch)) } }

theorem State.edgesTold_sl : (s.edgesTold i b).sl j = s.sl j := by
  have hasked : (s.edgesAsked i b).slices = s.slices := State.edgesAsked_agreeOff .slices (by decide)
  have htold : (s.edgesTold i b).slices = (s.edgesAsked i b).slices := by rw [State.edgesTold]
  rw [State.sl, htold, hasked, State.sl]

theorem State.edgesTold_hmap : (s.edgesTold i b).hmap = { s.hmap with
    sets := s.hmap.sets ++ (List.range 16).map (fun r => (BitVec.ofNat 4 r, b, i, nextEpoch s.hmap.epoch)) } := by
  have hmap : (s.edgesAsked i b).hmap = s.hmap := State.edgesAsked_agreeOff .hmap (by decide)
  rw [State.edgesTold, hmap]

/-- The state after a hand-over: the new slice has taken the bucket, and the edges are to be told. -/
def State.handedOver (s : State) (i : SliceId) (h : SliceId × BitVec 12 × Nat × List AgentId) : State :=
  ((s.bucketTaken i h).modMove h.2.1 (fun m => { m with st := .updating [] })).edgesTold i h.2.1

theorem State.handedOver_sl : (s.handedOver i h).sl j = (s.bucketTaken i h).sl j := State.edgesTold_sl

theorem State.handedOver_hmap : (s.handedOver i h).hmap = { s.hmap with
    hands := s.hmap.hands.erase h
    moves := s.hmap.moves.map (fun m => if m.bucket = h.2.1 then { m with st := .updating [] } else m)
    sets := s.hmap.sets ++ (List.range 16).map (fun r => (BitVec.ofNat 4 r, h.2.1, i, nextEpoch s.hmap.epoch)) } := by
  rw [State.handedOver, State.edgesTold_hmap, State.modMove, State.bucketTaken_hmap]

theorem execHandover_takes (hf : s.hmap.hands.find? (fun h => decide (h.1 = i)) = some h) :
    execHandover i s = .next (s.handedOver i h) := by
  rw [execHandover, hf]
  rfl

theorem execHandover_agreeOff (he : execHandover i s = .next t) : s.agreeOff [.slices, .mesh, .hmap] t :=
  State.agreeOff_of_kept (by decide) fun hC hK => execHandover_kept hC hK t he

/-- The map of an edge router that takes a new home (R296). -/
theorem execMapSet_takes {row : BitVec 4} {x : BitVec 4 × BitVec 12 × SliceId × BitVec 16}
    (hf : s.hmap.sets.find? (fun x => decide (x.1 = row)) = some x) :
    execMapSet row s = .next { s.inject (edgePlace row.toNat) (.slice x.2.2.1) 0x25 (mapBody 1 x.2.1 0 x.2.2.2) [] with
      hmap := { s.hmap with
        sets := s.hmap.sets.erase x
        edges := Store.set none s.hmap.edges (row.toNat * 4096 + x.2.1.toNat) (some x.2.2.1)
        acks := s.hmap.acks ++ [(row, x.2.1, x.2.2.2)] } } := by
  rw [execMapSet, hf]
  rfl

theorem State.edgeHome_of_edges {row : Nat}
    (h : Store.get none s.hmap.edges (row * 4096 + b.toNat) = some i) : s.edgeHome row b = i := by
  rw [State.edgeHome, h]

/-! ## Step 4: the commit (R296, R297) -/

theorem State.homeOf_mapTo_self : (s.mapTo b i).homeOf b = i := by
  unfold State.homeOf State.mapTo
  dsimp only
  rw [Store.get_set_self]
  cases hi : s.hmap.init with
  | none => rfl
  | some n =>
    by_cases ht : targetHome n b = i
    · simp [ht]
    · simp [ht]

theorem State.homeOf_mapTo_ne (h : c ≠ b) : (s.mapTo b i).homeOf c = s.homeOf c := by
  have hk : c.toNat ≠ b.toNat := fun e => h (BitVec.eq_of_toNat_eq e)
  unfold State.homeOf State.mapTo
  dsimp only
  rw [Store.get_set_ne hk]

theorem State.moveOf_mapTo : (s.mapTo b i).moveOf b = none := by
  refine List.find?_eq_none.mpr fun m hm hb => ?_
  have hne : (!decide (m.bucket = b)) = true := (List.mem_filter.mp hm).2
  rw [hb] at hne
  cases hne

/-- A commit leaves the map as the new home is in it, but for what a resize has of its own. -/
theorem State.commitMove_map : ∃ r k, (s.commitMove m).hmap = { (s.mapTo m.bucket m.dst).hmap with resize := r, count := k } := by
  have hlost : ((s.mapTo m.bucket m.dst).loseBucket m.src m.bucket).hmap = (s.mapTo m.bucket m.dst).hmap :=
    State.agreeOff_of_kept (T := [.regs, .slices, .mesh]) (by decide) State.loseBucket_kept .hmap (by decide)
  have hfired : ((((s.mapTo m.bucket m.dst).loseBucket m.src m.bucket).fire (evSl m.src 13)).fire (evSl m.dst 13)).hmap
      = (s.mapTo m.bucket m.dst).hmap := by rw [State.fire_hmap, State.fire_hmap, hlost]
  unfold State.commitMove
  dsimp only
  split
  · rw [← hfired]
    exact State.resizeEnd_map
  · exact ⟨_, _, by rw [State.fire_hmap, hfired]⟩

theorem State.homeOf_commitMove : (s.commitMove m).homeOf c = (s.mapTo m.bucket m.dst).homeOf c := by
  obtain ⟨r, k, hmap⟩ := State.commitMove_map (s := s) (m := m)
  exact State.homeOf_of_map (by rw [hmap]) (by rw [hmap])

theorem State.moveOf_commitMove : (s.commitMove m).moveOf m.bucket = none := by
  obtain ⟨r, k, hmap⟩ := State.commitMove_map (s := s) (m := m)
  rw [State.moveOf_of (s := s.mapTo m.bucket m.dst) (by rw [hmap]), State.moveOf_mapTo]

theorem State.commitMove_epoch : (s.commitMove m).hmap.epoch = nextEpoch s.hmap.epoch := by
  obtain ⟨r, k, hmap⟩ := State.commitMove_map (s := s) (m := m)
  rw [hmap]
  rfl

theorem State.commitMove_agreeOff : s.agreeOff [.regs, .agents, .slices, .mesh, .hmap, .events] (s.commitMove m) :=
  State.agreeOff_of_kept (by decide) State.commitMove_kept

/-- The acknowledgement at the head is taken. -/
def State.ackTaken (s : State) (rest : List (BitVec 4 × BitVec 12 × BitVec 16)) : State :=
  { s with hmap := { s.hmap with acks := rest } }

theorem execMapAck_new {row : BitVec 4} {e : BitVec 16} {rest : List (BitVec 4 × BitVec 12 × BitVec 16)} {l : List (BitVec 4)}
    (ha : s.hmap.acks = (row, b, e) :: rest) (hm : s.moveOf b = some m) (hst : m.st = .updating l) (hl : row ∉ l) :
    execMapAck s = .next (if l.length = 15 then (s.ackTaken rest).commitMove m
      else (s.ackTaken rest).modMove b (fun m => { m with st := .updating (l ++ [row]) })) := by
  have hmove : (s.ackTaken rest).moveOf b = some m := hm
  have hnew : (if l.contains row = true then l else l ++ [row]) = l ++ [row] := if_neg (by simpa using hl)
  rw [execMapAck, ha]
  dsimp only
  rw [← State.ackTaken, hmove]
  dsimp only
  rw [hst]
  dsimp only
  rw [hnew, List.length_append, apply_ite Host.Outcome.next]
  exact if_congr Nat.succ_inj rfl rfl

end Rehoming

/-- Settles O47: a command by the moves it queues, a step of a move by the slice, the map or the move that it changes. -/
theorem bucketsMove : Obligations.BucketsMove := by
  unfold Obligations.BucketsMove
  refine ⟨fun n s hf => ⟨fun ht => ?_, fun ht hne => ?_, fun ht heq => ?_⟩,
    fun b d s hf => ⟨fun h => ?_, fun ht ha hne => ?_, fun ht ha heq => ?_⟩, fun b m s hm hk => ?_,
    fun b m chk s => execBucketWriteBack_passes,
    fun b m s hm hst hb => ⟨fun hw ht hu => ?_, State.writeBackPass_evicts hm hst hb⟩, fun i h s hf => ?_, fun row x s hf => ?_,
    fun row b e rest m l s ha hm hst hl => ⟨fun hn => ?_, fun hn => ?_⟩⟩
  · exact ⟨_, execResize_refused hf ht, State.hmapRefuse_fld, rfl⟩
  · exact ⟨_, (execResize_accepted hf ht).trans (congrArg _ (State.resizeBegun_goesOn hne)), by rw [State.resizeBegun_hmap],
      fun b => State.moveOf_resizeBegun_of_ne, fun b => State.moveOf_resizeBegun_of_eq, fun i => State.activated_active,
      State.resizeBegun_fld, State.resizeBegun_atts, State.resizeBegun_ports⟩
  · have hend := State.resizeBegun_ends heq
    exact ⟨_, execResize_accepted hf ht, by rw [hend], by rw [hend], by rw [hend],
      fun b => State.homeOf_of_map (by rw [hend]) (by rw [hend])⟩
  · have hgo := State.moveGo_refused (s := s.moveSet b d) (b := b) h
    exact ⟨_, execMove_up hf, by rw [hgo, State.hmapRefuse_fld], by rw [hgo]; rfl⟩
  · have hgo := (State.moveGo_accepted (b := b) ht ha).trans (if_neg hne)
    exact ⟨_, (execMove_up hf).trans (congrArg _ hgo), rfl, rfl,
      (State.fld_of_regs State.moveQueued_regs).trans State.moveSet_bucket,
      (State.fld_of_regs State.moveQueued_regs).trans State.moveSet_slice⟩
  · have hgo := (State.moveGo_accepted (b := b) ht ha).trans (if_pos heq)
    exact ⟨_, (execMove_up hf).trans (congrArg _ hgo), State.fire_hmap, State.fire_slices⟩
  · refine ⟨_, execBucketMarkMoving_marks hm hk, ?_, State.loseRsv_rsvs, fun i hi => State.loseRsv_sl_ne hi, rfl, rfl⟩
    rw [State.moveOf_of (congrArg HMap.moves State.loseRsv_hmap)]
    exact State.moveOf_modMove hm
  · obtain ⟨hmoves, hhands, hslices⟩ := State.writeBackPass_hands hm hst hb hw ht hu
    exact ⟨(State.moveOf_of hmoves).trans (State.moveOf_modMove hm), hhands, hslices⟩
  · have he := execHandover_takes hf
    have hoff := execHandover_agreeOff he
    exact ⟨_, he, by rw [State.handedOver_sl, State.bucketTaken_recOfBucket], by rw [State.handedOver_sl, State.bucketTaken_bypass],
      by rw [State.handedOver_hmap], by rw [State.handedOver_hmap],
      fun j hj => by rw [State.handedOver_sl, State.bucketTaken_sl_ne hj], hoff .atts (by decide), hoff .ports (by decide)⟩
  · exact ⟨_, execMapSet_takes hf, State.edgeHome_of_edges Store.get_set_self, rfl, fun b => rfl, rfl⟩
  · exact ⟨_, (execMapAck_new ha hm hst hl).trans (congrArg _ (if_neg hn)), State.moveOf_modMove (s := s.ackTaken rest) hm,
      fun c => rfl, rfl⟩
  · obtain rfl := State.bucket_of_moveOf hm
    exact ⟨_, (execMapAck_new ha hm hst hl).trans (congrArg _ (if_pos hn)),
      State.homeOf_commitMove.trans State.homeOf_mapTo_self, State.moveOf_commitMove,
      fun c hc => State.homeOf_commitMove.trans (State.homeOf_mapTo_ne hc), State.commitMove_epoch,
      State.commitMove_agreeOff .atts (by decide), State.commitMove_agreeOff .ports (by decide)⟩

end Sys2Proof.Machine

/-! SUPPORT. Pacing calibration: a sample that reaches its histogram, and the end of a window. -/

namespace Sys2Proof.Machine

section Calibration

variable {s : State} {i : SliceId} {a b : AgentId} {rtt t0 v n w t : Nat} {g : Fld} {h : Store Nat} {K : Kept}
  {rest : List (Obs (AgentId × Nat × Nat))}

/-! ## A sample reaches its histogram (R231, R233) -/

/-- The sample at the head of a slice's queue is taken into its agent's histogram. -/
def State.sampleTaken (s : State) (i : SliceId) (a : AgentId) (rtt t0 : Nat) (rest : List (Obs (AgentId × Nat × Nat))) : State :=
  (s.modSl i (fun x => { x with calQ := rest, calLast := some (.item (a, rtt, t0)) })).calAdd a rtt

theorem execCalibrationSample_due (hq : (s.sl i).calQ = .item (a, rtt, t0) :: rest) (ht : t0 < s.calAt) (hm : s.mode ≠ .hold) :
    execCalibrationSample i s = .next (s.sampleTaken i a rtt t0 rest) := by
  rw [execCalibrationSample, if_neg hm, hq]
  exact if_pos (decide_eq_true ht)

theorem State.calAdd_hist : (s.calAdd a rtt).hist b
    = if b = a then { s.hist a with bins := addSample (s.hist a).bins rtt } else s.hist b := State.hist_setHist

theorem State.sampleTaken_hist_self : (s.sampleTaken i a rtt t0 rest).hist a
    = { s.hist a with bins := addSample (s.hist a).bins rtt } := State.calAdd_hist.trans (if_pos rfl)

theorem State.sampleTaken_hist_ne (hb : b ≠ a) : (s.sampleTaken i a rtt t0 rest).hist b = s.hist b :=
  State.calAdd_hist.trans (if_neg hb)

theorem State.sampleTaken_calQ : ((s.sampleTaken i a rtt t0 rest).sl i).calQ = rest := by
  rw [State.sampleTaken, State.calAdd, State.setHist_sl, State.sl_modSl_self]

theorem State.sampleTaken_sl_ne {j : SliceId} (hj : j ≠ i) : (s.sampleTaken i a rtt t0 rest).sl j = s.sl j := by
  rw [State.sampleTaken, State.calAdd, State.setHist_sl, State.sl_modSl, if_neg hj]

/-! ## What a window's end writes before the next window begins (R232, R234, R235) -/

/-- The window's last samples are in the histograms and every agent has been visited; the block's histogram and the number of
updated agents go along. -/
def State.calVisited (s : State) : State × (Store Nat × Nat) :=
  let s := allSlices.foldl State.calDrain (s.reach s.calAt)
  s.calAgents.foldl (fun r a => r.1.calVisit a r.2) (s, ([], 0))

/-- The window has been evaluated, and its status words are written. -/
def State.calEnded (s : State) : State :=
  (((s.calVisited.1.calBlock s.calVisited.2.1 s.calVisited.2.2).wrapF ⟨0x60014, 0, 16⟩).putF ⟨0x60014, 16, 12⟩
    s.calVisited.2.2).putF ⟨0x60018, 16, 16⟩ 0

/-- The window is counted, and the next one, of `w` ns, is in progress. -/
def State.calNext (s : State) (w : Nat) : State :=
  ({ s with calAt := (s.now / w + 1) * w, modes := { s.modes with calWindows := s.modes.calWindows + 1 } }).fire (evG 28)

theorem execCalibrationWindowEnd_ends (hh : s.mode ≠ .hold) (ho : s.mode ≠ .off) (hr : s.mode ≠ .rest) :
    execCalibrationWindowEnd s = .next (s.calEnded.calNext (1000 * s.calEnded.fld ⟨0x60000, 4, 10⟩)) := by
  rw [execCalibrationWindowEnd, if_neg (by simp [hh, ho, hr])]
  dsimp only [State.calNext, State.calEnded, State.calVisited]

theorem State.calVisits_kept {as : List AgentId} {acc : Store Nat × Nat} (hC : ∀ p ∈ [.agents, .hists], K.c p) (hK : K.P s) :
    K.P (as.foldl (fun r a => r.1.calVisit a r.2) (s, acc)).1 :=
  K.fold_fst (fun _ _ h => State.calVisit_kept hC h) hK

/-- The drain of the queues and the visits write histograms, queues and agents alone. -/
theorem State.calVisited_kept (hC : ∀ p ∈ [.agents, .hists, .slices], K.c p) (hK : K.P (s.reach s.calAt)) :
    K.P s.calVisited.1 := by
  unfold State.calVisited
  exact State.calVisits_kept (K.sub hC rfl) (K.fold (fun _ _ h => State.calDrain_kept (K.sub hC rfl) h) hK)

theorem State.calEnded_kept (hC : ∀ p ∈ [.regs, .agents, .hists, .slices], K.c p) (hK : K.P (s.reach s.calAt)) : K.P s.calEnded := by
  unfold State.calEnded
  exact State.putF_kept (K.sub hC rfl) (State.putF_kept (K.sub hC rfl) (State.wrapF_kept (K.sub hC rfl)
    (State.calBlock_kept (K.sub hC rfl) (State.calVisited_kept (K.sub hC rfl) hK))))

theorem State.calVisited_agreeOff : (s.reach s.calAt).agreeOff [.agents, .hists, .slices] s.calVisited.1 :=
  State.agreeOff_of_kept (by decide) State.calVisited_kept

theorem State.calEnded_agreeOff : (s.reach s.calAt).agreeOff [.regs, .agents, .hists, .slices] s.calEnded :=
  State.agreeOff_of_kept (by decide) State.calEnded_kept

theorem State.calEnded_modes : s.calEnded.modes = s.modes := (State.calEnded_agreeOff .modes (by decide)).trans State.reach_modes
theorem State.calEnded_atts : s.calEnded.atts = s.atts := (State.calEnded_agreeOff .atts (by decide)).trans State.reach_atts
theorem State.calEnded_ports : s.calEnded.ports = s.ports := (State.calEnded_agreeOff .ports (by decide)).trans State.reach_ports

theorem State.calEnded_now : s.calEnded.now = max s.now s.calAt :=
  (congrArg Plinth.now (State.calEnded_agreeOff .plinth (by decide))).trans State.plinth_now_reach

/-! ## The fields of CAL_CTRL and of the status words -/

theorem State.calVisited_fld : s.calVisited.1.fld g = s.fld g :=
  State.fld_of_regs ((State.calVisited_agreeOff .regs (by decide)).trans State.reach_regs)

/-- DECAY stands in the slices' words alone. -/
theorem State.setDecay_fld (hg : g.addr < 0x400000) : (s.setDecay v).fld g = s.fld g :=
  List.foldlRecOn (motive := fun (t : State) => t.fld g = s.fld g) _ _ rfl fun t ht i _ =>
    (State.fld_putF_apart (by simp [Fld.sl]) (.inl (by simp only [Fld.sl]; omega))).trans ht

/-- The block-wide median stands in a word of its own, above the words of the window's status. -/
theorem State.calBlock_fld (hg : g.addr < 0x60018) : (s.calBlock h n).fld g = s.fld g := by
  unfold State.calBlock
  split
  · rfl
  · exact (State.setDecay_fld (by omega)).trans (State.fld_putF_apart (by simp) (.inl (Nat.ne_of_gt hg)))

theorem State.calEnded_fld_below (hg : g.addr < 0x60014) : s.calEnded.fld g = s.fld g := by
  have hne : (0x60014 : Nat) ≠ g.addr := Nat.ne_of_gt hg
  rw [State.calEnded, State.fld_putF_apart (by decide) (.inl (by dsimp only; omega)), State.fld_putF_apart (by decide) (.inl hne),
    State.wrapF, State.fld_putF_apart (by decide) (.inl hne), State.calBlock_fld (by omega), State.calVisited_fld]

theorem State.calEnded_windows : s.calEnded.fld ⟨0x60014, 0, 16⟩ = (s.fld ⟨0x60014, 0, 16⟩ + 1) % 65536 := by
  rw [State.calEnded, State.fld_putF_apart (by decide) (.inl (by decide)),
    State.fld_putF_apart (by decide) (.inr (.inr (by decide))), State.fld_wrapF (by decide), State.calBlock_fld (by decide),
    State.calVisited_fld]
  rfl

theorem State.calEnded_dropped : s.calEnded.fld ⟨0x60018, 16, 16⟩ = 0 := State.fld_putF (by decide)

/-! ## The next window (R232) -/

theorem State.calNext_calAt : (s.calNext w).calAt = (s.now / w + 1) * w := State.fire_calAt
theorem State.calNext_now : (s.calNext w).now = s.now := State.fire_now
theorem State.calNext_fld : (s.calNext w).fld g = s.fld g := State.fire_fld
theorem State.calNext_atts : (s.calNext w).atts = s.atts := State.fire_atts
theorem State.calNext_ports : (s.calNext w).ports = s.ports := State.fire_ports
theorem State.calNext_calWindows : (s.calNext w).modes.calWindows = s.modes.calWindows + 1 := congrArg Modes.calWindows State.fire_modes

/-- The multiple of a length that follows a moment is after it, by that length at most. -/
theorem next_multiple_bounds (hw : 0 < w) : t < (t / w + 1) * w ∧ (t / w + 1) * w ≤ t + w := by
  refine ⟨Nat.mul_comm w _ ▸ Nat.lt_mul_div_succ t hw, ?_⟩
  rw [Nat.succ_mul]
  exact Nat.add_le_add_right (Nat.div_mul_le_self t w) w

end Calibration

/-- Settles O38: a sample by the one histogram and the one queue that it changes; a window's end by the status words that follow its
visits, which write no register, and by the multiple of the length at which the next one ends. -/
theorem calibration : Obligations.Calibration := by
  unfold Obligations.Calibration
  refine ⟨fun i a rtt t0 rest s hq ht hm => ?_, fun s hh ho hr hwin => ?_⟩
  · refine ⟨_, execCalibrationSample_due hq ht hm, ?_⟩
    rw [State.sampleTaken_hist_self]
    exact ⟨State.sampleTaken_calQ, rfl, rfl, fun b hb => State.sampleTaken_hist_ne hb, fun j hj => State.sampleTaken_sl_ne hj, rfl, rfl⟩
  · refine ⟨_, execCalibrationWindowEnd_ends hh ho hr, ?_⟩
    rw [State.calNext_now, State.calNext_calAt, State.calNext_fld, State.calNext_fld, State.calNext_calWindows, State.calNext_atts,
      State.calNext_ports, State.calEnded_fld_below (g := ⟨0x60000, 4, 10⟩) (by decide)]
    obtain ⟨hafter, hlength⟩ := next_multiple_bounds (t := s.calEnded.now) (w := 1000 * s.fld ⟨0x60000, 4, 10⟩) (by omega)
    exact ⟨State.calEnded_now, hafter, Nat.mul_mod_left _ _, hlength, State.calEnded_windows, State.calEnded_dropped,
      congrArg (·.calWindows + 1) State.calEnded_modes, State.calEnded_atts, State.calEnded_ports⟩

end Sys2Proof.Machine

/-! SUPPORT. The links of the Armature: what the switch leaves of a link, flits that arrive, NAKs, and the record of a FATAL cause. -/

namespace Sys2Proof.Machine

section Links

variable {s t u : State} {r : Router} {x : LinkRx} {y : LinkTx} {f : Flit} {rest : List Flit} {l out : LinkPort} {p : Bool}
  {i j k n lane inp : Nat} {q : BitVec 6} {cause kind num detail : Nat}

/-! ## The sides of a link (R253, R254) -/

theorem Router.rxAt_putRx : (r.putRx k x).rxAt j = if j = k then x else r.rxAt j := Store.get_set

@[simp] theorem Router.rxAt_putRx_self : (r.putRx k x).rxAt k = x := Store.get_set_self
@[simp] theorem Router.txAt_putTx_self : (r.putTx k y).txAt k = y := Store.get_set_self
@[simp] theorem Router.txAt_putRx : (r.putRx k x).txAt j = r.txAt j := rfl

/-- A router's configuration with the one that it changes to, and which flit each of its links expects. -/
def Router.settled (r : Router) :
    BitVec 4 × Option (BitVec 4 × BitVec 4) × Option (BitVec 4 × BitVec 4) × (Nat → BitVec 6 × Bool) :=
  (r.bounce, r.reconf, r.reconf2, fun k => ((r.rxAt k).expect, (r.rxAt k).skip))

/-- A link's receiving side changes, and expects the same flit. -/
theorem Router.settled_putRx (he : x.expect = (r.rxAt k).expect) (hs : x.skip = (r.rxAt k).skip) :
    (r.putRx k x).settled = r.settled := by
  have hrx : (fun j => (((r.putRx k x).rxAt j).expect, ((r.putRx k x).rxAt j).skip))
      = fun j => ((r.rxAt j).expect, (r.rxAt j).skip) := by
    funext j
    rw [Router.rxAt_putRx]
    split
    · next h => rw [he, hs, h]
    · rfl
  exact congrArg (fun g => (r.bounce, r.reconf, r.reconf2, g)) hrx

theorem Router.settled_send : (r.send out p lane f).settled = r.settled :=
  Router.settled_putRx (r := r.putTx _ _) rfl rfl

/-! ## What a FATAL cause leaves of the gates -/

/-- Which state each attachment's gate is in, and whether it is reopening. -/
def State.gates (s : State) (k : AttId) : GateSt × Bool := ((s.att k).gate, (s.att k).passing)

theorem State.gates_of_atts (h : t.atts = s.atts) : t.gates = s.gates := by
  funext k
  rw [State.gates, State.att, h, State.gates, State.att]

theorem State.gates_modAtt {k : AttId} {g : Att → Att} (h : ∀ a, ((g a).gate, (g a).passing) = (a.gate, a.passing)) :
    (s.modAtt k g).gates = s.gates := by
  funext j
  rw [State.gates, State.att_modAtt]
  split
  · next hj => rw [h, hj, State.gates]
  · rfl

theorem State.gates_holdAnswer {k : AttId} : (s.holdAnswer k).gates = s.gates := by
  unfold State.holdAnswer State.giveBack
  dsimp only
  refine (State.gates_modAtt fun a => by rfl).trans ((State.gates_modAtt fun a => by rfl).trans ?_)
  exact List.foldlRecOn (motive := fun t : State => t.gates = s.gates) _ _ rfl fun t ht x _ => (State.gates_modAtt fun a => by rfl).trans ht

/-- The edges' answers on the entry to HOLD leave the gates as they are (R392). -/
theorem State.gates_fatal : (s.fatal cause kind num detail).gates = s.gates := by
  unfold State.fatal
  split
  · rfl
  · refine List.foldlRecOn (motive := fun t : State => t.gates = s.gates) _ _ (State.gates_of_atts ?_)
      fun t ht x _ => State.gates_holdAnswer.trans ht
    rw [apply_ite State.atts, State.snapStart_atts, ite_self, State.logHw_atts, State.evLevel_atts, State.toMode_atts]
    rfl

theorem State.fatal_agreeOff :
    s.agreeOff [.modes, .pins, .regs, .atts, .mesh, .events, .counts, .cox] (s.fatal cause kind num detail) :=
  State.agreeOff_of_kept (by decide) State.fatal_kept

theorem State.router_of (h : t.mesh.routers = s.mesh.routers) : t.router i = s.router i := by rw [State.router, h, State.router]

theorem State.fatal_router : (s.fatal cause kind num detail).router i = s.router i :=
  State.router_of (State.fatal_agreeOff .routers (by decide))

theorem State.fatal_ports : (s.fatal cause kind num detail).ports = s.ports := State.fatal_agreeOff .ports (by decide)

/-- The FATAL cause's words once the block is in HOLD (R390): the cause, and the unit that gave it with its kind and detail. -/
theorem State.fatal_record (h : s.held = false) (hc : cause < 256) (hk : kind < 8) (hn : num < 128) (hd : detail < 64) :
    (s.fatal cause kind num detail).fld ⟨0x70100, 0, 8⟩ = cause ∧ (s.fatal cause kind num detail).fld ⟨0x70104, 0, 3⟩ = kind
      ∧ (s.fatal cause kind num detail).fld ⟨0x70104, 3, 7⟩ = num
      ∧ (s.fatal cause kind num detail).fld ⟨0x70104, 10, 6⟩ = detail := by
  have hs := State.fatal_stands (cause := cause) (kind := kind) (num := num) (detail := detail) h
  refine ⟨(hs.fld_cause rfl).trans (State.causeNoted_cause hc), (hs.fld_unit rfl).trans ?_,
    (hs.fld_unit rfl).trans (State.causeNoted_num hn), (hs.fld_unit rfl).trans ?_⟩
  · rw [State.causeNoted, State.fld_putF_apart (by decide) (.inr (.inr (by decide))),
      State.fld_putF_apart (by decide) (.inr (.inr (by decide))), State.fld_putF (by decide)]
    exact Nat.mod_eq_of_lt hk
  · rw [State.causeNoted, State.fld_putF (by decide)]
    exact Nat.mod_eq_of_lt hd

/-! ## What the switch leaves of the routers and the gates (R245, R247, R252) -/

/-- Every router's configuration, the flits that its links expect, and the attachments' gates stand. -/
structure State.SwitchLeaves (s t : State) : Prop where
  routers : ∀ j, (t.router j).settled = (s.router j).settled
  gates : t.gates = s.gates

theorem State.SwitchLeaves.refl : s.SwitchLeaves s := ⟨fun _ => rfl, rfl⟩

theorem State.SwitchLeaves.trans (h : s.SwitchLeaves t) (h' : t.SwitchLeaves u) : s.SwitchLeaves u :=
  ⟨fun j => (h'.routers j).trans (h.routers j), h'.gates.trans h.gates⟩

theorem State.SwitchLeaves.of_eq (hr : t.mesh.routers = s.mesh.routers) (ha : t.atts = s.atts) : s.SwitchLeaves t :=
  ⟨fun _ => by rw [State.router_of hr], State.gates_of_atts ha⟩

theorem State.SwitchLeaves.setRouter (h : r.settled = (s.router i).settled) : s.SwitchLeaves (s.setRouter i r) := by
  refine ⟨fun j => ?_, rfl⟩
  rw [State.router_setRouter]
  split
  · next hj => rw [h, hj]
  · rfl

theorem State.SwitchLeaves.ite {c : Prop} [Decidable c] (h : s.SwitchLeaves t) (h' : s.SwitchLeaves u) :
    s.SwitchLeaves (if c then t else u) := by
  split
  · exact h
  · exact h'

theorem State.SwitchLeaves.foldl {α : Type} {g : State → α → State} {xs : List α} (hg : ∀ s x, State.SwitchLeaves s (g s x)) :
    s.SwitchLeaves (xs.foldl g s) :=
  List.foldlRecOn (motive := fun t => s.SwitchLeaves t) _ _ .refl fun _ ht _ _ => ht.trans (hg _ _)

theorem State.SwitchLeaves.fatal : s.SwitchLeaves (s.fatal cause kind num detail) :=
  ⟨fun _ => by rw [State.fatal_router], State.gates_fatal⟩

theorem State.SwitchLeaves.giveCredit : s.SwitchLeaves (s.giveCredit i inp lane n) := by
  unfold State.giveCredit
  dsimp only
  refine .ite (.setRouter rfl) ?_
  split
  · exact .refl
  · exact .setRouter rfl
  · exact .refl

theorem State.SwitchLeaves.eject {fs : List Flit} : s.SwitchLeaves (s.eject i p lane fs) := by
  unfold State.eject
  exact .foldl fun s h => .ite (.ite .fatal .refl) (.ite (.of_eq rfl rfl) .refl)

theorem Router.settled_sends {fs : List Flit} : (fs.foldl (fun r f => r.send out p lane f) r).settled = r.settled :=
  List.foldlRecOn (motive := fun x : Router => x.settled = r.settled) _ _ rfl fun _ hx _ _ => Router.settled_send.trans hx

theorem State.SwitchLeaves.switchMove : s.SwitchLeaves (s.switchMove i out p lane inp) := by
  unfold State.switchMove
  dsimp only
  split
  · exact .refl
  · refine State.SwitchLeaves.trans (.ite ?_ ?_) .giveCredit
    · exact State.SwitchLeaves.trans (.setRouter (r := (s.router i).take out p lane inp _ _) rfl) .eject
    · exact .setRouter Router.settled_sends

theorem State.SwitchLeaves.pump {is : List Nat} : s.SwitchLeaves (State.pump n is s) := by
  induction n generalizing is s with
  | zero => exact .refl
  | succ n ih =>
    cases is with
    | nil => exact .refl
    | cons i is =>
      unfold State.pump
      split
      · exact ih
      · exact State.SwitchLeaves.trans .switchMove ih

theorem State.SwitchLeaves.runSwitch : s.SwitchLeaves (s.runSwitch i) := .pump

theorem State.SwitchLeaves.prbAdd : s.SwitchLeaves (s.prbAdd i j n) :=
  .ite .refl (.setRouter (by split <;> rfl))

theorem State.SwitchLeaves.probe : s.SwitchLeaves (s.probe i l p f) := by
  have hring (es : List (BitVec 256)) (u : State) : u.agreeOff [.regs, .mesh, .events] (State.ringAdd i 2 es u) :=
    State.agreeOff_of_kept (by decide) State.ringAdd_kept
  exact (State.SwitchLeaves.prbAdd.trans .prbAdd).trans (.of_eq (hring _ _ .routers (by decide)) (hring _ _ .atts (by decide)))

theorem State.SwitchLeaves.idleFlit : s.SwitchLeaves (s.idleFlit i l p) :=
  .ite (.setRouter (Router.settled_putRx (r := (s.router i).putTx _ _) rfl rfl)) .refl

theorem State.SwitchLeaves.expects (h : s.SwitchLeaves t) :
    ((t.router i).rxAt k).expect = ((s.router i).rxAt k).expect ∧ ((t.router i).rxAt k).skip = ((s.router i).rxAt k).skip := by
  obtain ⟨-, h⟩ := Prod.mk.inj (h.routers i)
  obtain ⟨-, h⟩ := Prod.mk.inj h
  obtain ⟨-, h⟩ := Prod.mk.inj h
  exact Prod.mk.inj (congrFun h k)

/-! ## A flit arrives over a link (R252 to R254) -/

/-- A present link leads to another router. -/
theorem LinkPort.neighbour_ne (hp : linkPresent i l = true) (hl : l ≠ .loc) : l.neighbour i ≠ i := by
  cases l with
  | loc => exact absurd rfl hl
  | _ =>
    simp only [linkPresent, decide_eq_true_eq] at hp
    simp only [LinkPort.neighbour]
    omega

/-- The flit at the front of a link's wire is off the wire. -/
def State.offWire (s : State) (i : Nat) (l : LinkPort) (p : Bool) (rest : List Flit) : State :=
  s.setRouter (l.neighbour i) ((s.router (l.neighbour i)).putTx (linkKey l.opposite p)
    { (s.router (l.neighbour i)).txAt (linkKey l.opposite p) with wire := rest })

theorem execFlitReceive_link {i : Fin 80} {err : Flit} (hp : linkPresent i.val l = true) (hl : l ≠ .loc)
    (hw : ((s.router (l.neighbour i.val)).txAt (linkKey l.opposite p)).wire = f :: rest) :
    execFlitReceive i l p err s none = .next ((s.offWire i.val l p rest).linkFlit i.val l p (f.flip err)) := by
  simp only [execFlitReceive, hp, hl, hw, Option.filter_none, Bool.not_true, Bool.false_eq_true, if_false]
  rfl

theorem State.offWire_router (hp : linkPresent i l = true) (hl : l ≠ .loc) : (s.offWire i l p rest).router i = s.router i := by
  rw [State.offWire, State.router_setRouter, if_neg (LinkPort.neighbour_ne hp hl).symm]

/-- An idle flit goes back over the link with what its receiving side owes. -/
def State.answered (s : State) (i : Nat) (l : LinkPort) (p : Bool) : State :=
  s.setRouter i (((s.router i).putTx (linkKey l p) { (s.router i).txAt (linkKey l p) with
    wire := ((s.router i).txAt (linkKey l p)).wire ++ [Flit.zero.stamp 0 ((s.router i).rxAt (linkKey l p))] }).putRx (linkKey l p)
      { (s.router i).rxAt (linkKey l p) with nakDue := false })

theorem State.answered_rx : ((s.answered i l p).router i).rxAt (linkKey l p)
    = { (s.router i).rxAt (linkKey l p) with nakDue := false } := by
  rw [State.answered, State.router_setRouter_self, Router.rxAt_putRx_self]

theorem State.answered_wire : (((s.answered i l p).router i).txAt (linkKey l p)).wire
    = ((s.router i).txAt (linkKey l p)).wire ++ [Flit.zero.stamp 0 ((s.router i).rxAt (linkKey l p))] := by
  rw [State.answered, State.router_setRouter_self, Router.txAt_putRx, Router.txAt_putTx_self]

theorem State.answered_router_ne (h : j ≠ i) : (s.answered i l p).router j = s.router j := by
  rw [State.answered, State.router_setRouter, if_neg h]

theorem State.idleFlit_due (h : ((s.router i).rxAt (linkKey l p)).nakDue = true) : s.idleFlit i l p = s.answered i l p :=
  if_pos (.inl h)

/-- A flit has a bad CRC: the link skips what follows, its NAK is due, and LCRC counts. -/
def State.crcFailed (s : State) (i : Nat) (l : LinkPort) (p : Bool) : State :=
  ((s.setRouter i ((s.router i).putRx (linkKey l p) { (s.router i).rxAt (linkKey l p) with skip := true, nakDue := true })).incF
    (Fld.rt i 4 (8 * (l.num - 1)) 8)).fire (evRt i 0)

theorem State.crcFailed_router_self : (s.crcFailed i l p).router i
    = (s.router i).putRx (linkKey l p) { (s.router i).rxAt (linkKey l p) with skip := true, nakDue := true } := by
  rw [State.crcFailed, State.fire_router, State.incF_router, State.router_setRouter_self]

theorem State.crcFailed_atts : (s.crcFailed i l p).atts = s.atts := State.fire_atts
theorem State.crcFailed_slices : (s.crcFailed i l p).slices = s.slices := State.fire_slices
theorem State.crcFailed_ports : (s.crcFailed i l p).ports = s.ports := State.fire_ports

theorem State.crcFailed_router_ne (h : j ≠ i) : (s.crcFailed i l p).router j = s.router j := by
  rw [State.crcFailed, State.fire_router, State.incF_router, State.router_setRouter, if_neg h]

theorem State.crcFailed_rx : ((s.crcFailed i l p).router i).rxAt (linkKey l p)
    = { (s.router i).rxAt (linkKey l p) with skip := true, nakDue := true } := by
  rw [State.crcFailed_router_self, Router.rxAt_putRx_self]

theorem State.crcFailed_tx : ((s.crcFailed i l p).router i).txAt k = (s.router i).txAt k := by
  rw [State.crcFailed_router_self, Router.txAt_putRx]

theorem State.linkFlit_bad (hc : f.crc ≠ f.crcField) (hs : ((s.router i).rxAt (linkKey l p)).skip = false) :
    s.linkFlit i l p f = (s.crcFailed i l p).answered i l p := by
  rw [← State.idleFlit_due (s := s.crcFailed i l p) (by rw [State.crcFailed_rx])]
  simp only [State.linkFlit, if_pos hc, hs, Bool.false_eq_true, false_and, if_false]
  rfl

theorem LinkPort.lcrc_fits : (Fld.rt i 4 (8 * (l.num - 1)) 8).lo + (Fld.rt i 4 (8 * (l.num - 1)) 8).len ≤ 32 := by
  have hl : l.num ≤ 4 := by cases l <;> decide
  simp only [Fld.rt]
  omega

theorem State.crcFailed_fld : (s.crcFailed i l p).fld (Fld.rt i 4 (8 * (l.num - 1)) 8)
    = min 255 (s.fld (Fld.rt i 4 (8 * (l.num - 1)) 8) + 1) := by
  rw [State.crcFailed, State.fire_fld, State.fld_incF LinkPort.lcrc_fits]
  rfl

theorem State.crcFailed_fld_apart {g : Fld} (h : (Fld.rt i 4 (8 * (l.num - 1)) 8).apart g) : (s.crcFailed i l p).fld g = s.fld g := by
  rw [State.crcFailed, State.fire_fld, State.fld_incF_apart LinkPort.lcrc_fits h]
  rfl

/-- The expected flit has brought its acknowledgement, and the link expects the next. -/
def State.expectsNext (s : State) (i : Nat) (l : LinkPort) (p : Bool) (f : Flit) : State :=
  (s.linkAck i l p f).setRouter i (((s.linkAck i l p f).router i).putRx (linkKey l p)
    { ((s.linkAck i l p f).router i).rxAt (linkKey l p) with expect := ((s.router i).rxAt (linkKey l p)).expect + 1, skip := false })

/-- A flit that the probes have seen stands in its input's lane buffer. -/
def State.buffered (s : State) (i : Nat) (l : LinkPort) (p : Bool) (f : Flit) : State :=
  (s.probe i l p f).setRouter i (((s.probe i l p f).router i).putBuf l.num (lane8 p f.lane)
    (((s.probe i l p f).router i).buf l.num (lane8 p f.lane) ++ [f]))

theorem State.SwitchLeaves.buffered : s.SwitchLeaves (s.buffered i l p f) := State.SwitchLeaves.probe.trans (.setRouter rfl)

theorem State.expectsNext_rx : ((s.expectsNext i l p f).router i).rxAt (linkKey l p)
    = { ((s.linkAck i l p f).router i).rxAt (linkKey l p) with
        expect := ((s.router i).rxAt (linkKey l p)).expect + 1, skip := false } := by
  rw [State.expectsNext, State.router_setRouter_self, Router.rxAt_putRx_self]

theorem State.linkFlit_expected (hc : f.crc = f.crcField) (hi : f.idle = false)
    (hq : f.seq = ((s.router i).rxAt (linkKey l p)).expect) :
    s.linkFlit i l p f = (((s.expectsNext i l p f).buffered i l p f).runSwitch i).idleFlit i l p := by
  have hnot : ¬ (f.idle = true ∨ f.seq ≠ ((s.router i).rxAt (linkKey l p)).expect) := by simp [hi, hq]
  simp only [State.linkFlit, if_neg (not_not.mpr hc), hnot, and_false, if_false]
  rfl

/-- What follows the acceptance of a flit leaves what the link expects. -/
theorem State.linkFlit_expected_rx (hc : f.crc = f.crcField) (hi : f.idle = false)
    (hq : f.seq = ((s.router i).rxAt (linkKey l p)).expect) :
    (((s.linkFlit i l p f).router i).rxAt (linkKey l p)).expect = f.seq + 1
      ∧ (((s.linkFlit i l p f).router i).rxAt (linkKey l p)).skip = false := by
  have hafter : (s.expectsNext i l p f).SwitchLeaves (s.linkFlit i l p f) :=
    State.linkFlit_expected hc hi hq ▸ State.SwitchLeaves.buffered.trans (State.SwitchLeaves.runSwitch.trans .idleFlit)
  obtain ⟨he, hs⟩ := hafter.expects (i := i) (k := linkKey l p)
  rw [he, hs, State.expectsNext_rx, hq]
  exact ⟨rfl, rfl⟩

theorem State.linkFlit_agreeOff :
    s.agreeOff [.modes, .pins, .regs, .atts, .mesh, .routers, .events, .counts, .cox] (s.linkFlit i l p f) :=
  State.agreeOff_of_kept (by decide) State.linkFlit_kept

/-! ## A NAK (R254) -/

/-- The sending side once a NAK has acknowledged the flits before the one it names. -/
def State.nakAcked (s : State) (i : Nat) (l : LinkPort) (p : Bool) (q : BitVec 6) : LinkTx :=
  ((s.router i).txAt (linkKey l p)).acked q

/-- How often in a row the flit has failed, with this NAK. -/
def LinkTx.failures (y : LinkTx) (q : BitVec 6) : Nat := if y.nakSeq = q then y.naks + 1 else 1

/-- The flits that go out again, with what the reverse link now owes. -/
def LinkTx.again (y : LinkTx) (x : LinkRx) : List Flit := y.replay.map (fun f => f.stamp f.seq x)

/-- The sending side after its flits went out again. -/
def LinkTx.resent (y : LinkTx) (x : LinkRx) (q : BitVec 6) : LinkTx :=
  { y with replay := y.again x, wire := y.wire ++ y.again x, nakSeq := q, naks := y.failures q }

/-- The flit that a NAK names and every later one go out again. -/
def State.resent (s : State) (i : Nat) (l : LinkPort) (p : Bool) (q : BitVec 6) : State :=
  s.setRouter i (((s.router i).putTx (linkKey l p) ((s.nakAcked i l p q).resent ((s.router i).rxAt (linkKey l p)) q)).putRx
    (linkKey l p) { (s.router i).rxAt (linkKey l p) with nakDue := false })

/-- The link has failed. -/
def State.linkFailed (s : State) (i : Nat) (l : LinkPort) : State := (s.fire (evRt i 0)).fatal 5 3 i l.num

theorem State.resent_tx : ((s.resent i l p q).router i).txAt (linkKey l p)
    = (s.nakAcked i l p q).resent ((s.router i).rxAt (linkKey l p)) q := by
  rw [State.resent, State.router_setRouter_self, Router.txAt_putRx, Router.txAt_putTx_self]

theorem State.resent_router_ne (h : j ≠ i) : (s.resent i l p q).router j = s.router j := by
  rw [State.resent, State.router_setRouter, if_neg h]

theorem execNak_link {i : Fin 80} (hp : linkPresent i.val l = true) (hl : l ≠ .loc) :
    execNak i l p q s = .next (s.linkNak i.val l p q) := if_pos ⟨hp, hl⟩

theorem State.linkNak_named (ha : (s.nakAcked i l p q).replay.any (fun f => decide (f.seq = q)) = true) :
    s.linkNak i l p q = if s.crcLim i ≤ (s.nakAcked i l p q).failures q then (s.resent i l p q).linkFailed i l
      else s.resent i l p q := if_pos ha

theorem State.linkFailed_router : (s.linkFailed i l).router j = s.router j := by
  rw [State.linkFailed, State.fatal_router, State.fire_router]

theorem State.linkFailed_slices : (s.linkFailed i l).slices = s.slices := State.fatal_slices.trans State.fire_slices
theorem State.linkFailed_ports : (s.linkFailed i l).ports = s.ports := State.fatal_ports.trans State.fire_ports

theorem State.linkFailed_record (h : s.held = false) (hi : i < 80) : (s.linkFailed i l).mode = .hold
    ∧ (s.linkFailed i l).fld ⟨0x70100, 0, 8⟩ = 5 ∧ (s.linkFailed i l).fld ⟨0x70104, 3, 7⟩ = i :=
  State.fatal_records (State.fire_held.trans h) (by decide) (Nat.lt_trans hi (by decide))

/-! ## An underrun (R261, R263) -/

theorem lane8_lt {n : BitVec 2} : lane8 p n.toNat < 8 := by
  have hn : n.toNat < 4 := n.isLt
  unfold lane8
  split <;> omega

theorem execFlitReceive_underrun {i : Fin 80} {err : Flit} {n : BitVec 2} (hp : linkPresent i.val l = true)
    (hb : (s.router i.val).laneFlits (lane8 p n.toNat) = []) :
    execFlitReceive i l p err s (some n) = .next ((s.queueNote (.router i) (lane8 p n.toNat) 3).fatal 3 3 i.val (lane8 p n.toNat)) := by
  simp only [execFlitReceive, hp, hb, Option.filter_some, decide_true, if_true, Bool.not_true, Bool.false_eq_true, if_false]
  rfl

end Links

/-- Settles O39: a discarded flit by the answer it causes, an accepted one since the switch leaves what the links expect, a NAK by
the flits sent again; the two FATAL causes by the record of a cause. -/
theorem flitsAreCheckedAndReplayed : Obligations.FlitsAreCheckedAndReplayed := by
  unfold Obligations.FlitsAreCheckedAndReplayed
  refine ⟨fun i l p f err rest s hp hl hw => ?_, ?_, fun i l p err n s hp hb hh => ?_⟩
  · have hr := State.offWire_router (s := s) (p := p) (rest := rest) hp hl
    refine ⟨fun hc hs => ?_, fun hc hn hi hq => ?_⟩
    · refine ⟨_, (execFlitReceive_link hp hl hw).trans (congrArg _ (State.linkFlit_bad hc (by rw [hr]; exact hs))), ?_⟩
      have hne := LinkPort.neighbour_ne hp hl
      rw [State.answered_rx, State.answered_wire, State.crcFailed_rx, State.crcFailed_tx, hr]
      refine ⟨rfl, rfl, ?_, State.crcFailed_fld, fun g hg => State.crcFailed_fld_apart hg, fun j hj hj' => ?_, State.crcFailed_atts,
        State.crcFailed_slices, State.crcFailed_ports⟩
      · rw [State.answered_router_ne hne, State.crcFailed_router_ne hne, State.offWire, State.router_setRouter_self,
          Router.txAt_putTx_self]
      · rw [State.answered_router_ne hj, State.crcFailed_router_ne hj, State.offWire, State.router_setRouter, if_neg hj']
    · obtain ⟨he, hs⟩ := State.linkFlit_expected_rx (s := s.offWire i.val l p rest) hc hi (by rw [hr]; exact hq)
      have hoff := State.linkFlit_agreeOff (s := s.offWire i.val l p rest) (i := i.val) (l := l) (p := p) (f := f.flip err)
      exact ⟨_, execFlitReceive_link hp hl hw, he, hs, hoff .slices (by decide), hoff .ports (by decide), hoff .agents (by decide)⟩
  · intro i l p q s hp hl k x n again ha
    refine ⟨_, (execNak_link hp hl).trans (congrArg _ (State.linkNak_named ha)), ?_⟩
    by_cases hlim : s.crcLim i.val ≤ (s.nakAcked i.val l p q).failures q
    · rw [if_pos hlim, State.linkFailed_router, State.resent_tx]
      refine ⟨rfl, fun h => absurd hlim (Nat.not_le.mpr h), fun _ hh => ?_, fun j hj => ?_, ?_⟩
      · exact State.linkFailed_record hh i.isLt
      · rw [State.linkFailed_router, State.resent_router_ne hj]
      · exact ⟨State.linkFailed_slices, State.linkFailed_ports⟩
    · rw [if_neg hlim, State.resent_tx]
      exact ⟨rfl, fun _ => ⟨rfl, rfl⟩, fun h => absurd h hlim, fun j hj => State.resent_router_ne hj, rfl, rfl⟩
  · refine ⟨_, execFlitReceive_underrun hp hb, ?_⟩
    have hu : (s.queueNote (.router i) (lane8 p n.toNat) 3).held = false := by rw [State.queueNote_held, hh]
    obtain ⟨hcause, -, hnum, hdetail⟩ := State.fatal_record (cause := 3) (kind := 3) (num := i.val) (detail := lane8 p n.toNat) hu
      (by decide) (by decide) (Nat.lt_trans i.isLt (by decide)) (Nat.lt_trans lane8_lt (by decide))
    exact ⟨State.fatal_mode hu, hcause, hnum, hdetail, State.fatal_slices.trans State.queueNote_slices,
      State.fatal_ports.trans State.queueNote_ports⟩

end Sys2Proof.Machine

/-! SUPPORT. Routers that change their configuration, queues that are reset, trace out and bounced messages. -/

namespace Sys2Proof.Machine

section Reconfiguration

variable {s t : State} {i j k q : Nat} {b c : BitVec 4} {u : QUnit} {g : Fld} {cause kind num detail : Nat}

/-! ## Fields of one word -/

theorem Fld.fits {a lo len : Nat} (h : lo + len ≤ 32 := by decide) : (Fld.mk a lo len).lo + (Fld.mk a lo len).len ≤ 32 := h

/-- A field beside the one that is set in its word keeps its value. -/
theorem State.fld_putF_beside {a lo len lo' len' v : Nat} (h : lo + len ≤ 32 := by decide)
    (hd : lo + len ≤ lo' ∨ lo' + len' ≤ lo := by decide) :
    (s.putF ⟨a, lo, len⟩ v).fld ⟨a, lo', len'⟩ = s.fld ⟨a, lo', len'⟩ := State.fld_putF_apart h (.inr hd)

/-! ## The switch of a reconfiguration (R255, R267) -/

/-- The withheld credits flow again, and the switches run: what they leave stands. -/
theorem State.SwitchLeaves.resume : s.SwitchLeaves (s.resume i) :=
  State.SwitchLeaves.trans (.setRouter (r := { s.router i with owed := [] }) rfl)
    (.foldl fun _ _ => State.SwitchLeaves.giveCredit.trans .runSwitch)

theorem State.resume_of_none_owed (h : (s.router i).owed = []) : s.resume i = s.setRouter i (s.router i) := by
  have hr : { s.router i with owed := [] } = s.router i := by rw [← h]
  unfold State.resume
  dsimp only
  rw [h, List.foldl_nil, hr]

/-- The new configuration stands, and no further one is under way. -/
def State.switchedTo (s : State) (i : Nat) (b c : BitVec 4) : State :=
  (s.setRouter i { s.router i with bounce := b, reconf := none, reconf2 := none }).putF (Fld.rt i 0 4 4) c.toNat

/-- The new configuration stands, the withheld credits flow, and the change that waited runs. -/
def State.reconfigured (s : State) (i : Nat) (b c : BitVec 4) : State :=
  ((s.switchedTo i b c).resume i).setRouter i { ((s.switchedTo i b c).resume i).router i with reconf := (s.router i).reconf2 }

theorem execRouterReconfigSwitch_drained {i : Fin 80} (hr : (s.router i.val).reconf = some (b, c)) (hb : (s.router i.val).bufs = []) :
    execRouterReconfigSwitch i s = .next (((s.reconfigured i.val b c).gateOpened i.val).gateOpenedMp i.val) := by
  simp only [execRouterReconfigSwitch, hr]
  exact if_neg (not_not.mpr hb)

theorem State.switchedTo_router : (s.switchedTo i b c).router i
    = { s.router i with bounce := b, reconf := none, reconf2 := none } := State.router_setRouter_self

theorem State.reconfigured_router : ((s.reconfigured i b c).router i).bounce = b
    ∧ ((s.reconfigured i b c).router i).reconf = (s.router i).reconf2 ∧ ((s.reconfigured i b c).router i).reconf2 = none := by
  have h := (State.SwitchLeaves.resume (s := s.switchedTo i b c) (i := i)).routers i
  rw [State.switchedTo_router] at h
  obtain ⟨hbounce, h⟩ := Prod.mk.inj h
  obtain ⟨-, h⟩ := Prod.mk.inj h
  rw [State.reconfigured, State.router_setRouter_self]
  exact ⟨hbounce, rfl, (Prod.mk.inj h).1⟩

theorem State.reconfigured_gates : (s.reconfigured i b c).gates = s.gates :=
  (State.SwitchLeaves.resume (s := s.switchedTo i b c) (i := i)).gates

theorem State.gateOpened_agreeOff : s.agreeOff [.pins, .regs, .atts] (s.gateOpened i) :=
  State.agreeOff_of_kept (by decide) State.gateOpened_kept

theorem State.gateOpenedMp_agreeOff : s.agreeOff [.regs, .slices, .ports, .mesh, .events, .cnts] (s.gateOpenedMp i) :=
  State.agreeOff_of_kept (by decide) State.gateOpenedMp_kept

theorem State.gatesOpened_router : ((s.gateOpened i).gateOpenedMp i).router j = s.router j := by
  rw [State.router_of (State.gateOpenedMp_agreeOff .routers (by decide)), State.router_of (State.gateOpened_agreeOff .routers (by decide))]

/-- Where the router's units have no gate that reopens, none opens. -/
theorem State.gateOpened_of_none (h : ∀ k, attRouter k = i → (s.att k).gate ≠ .opening) : s.gateOpened i = s :=
  List.foldlRecOn (motive := fun t => t = s) _ _ rfl fun t ht k _ => by
    rw [ht]
    exact if_neg fun hk => h k hk.1 hk.2.1

theorem State.gateOpenedMp_of_none (h : ∀ m, portRouter m = i → (s.mp m).gate ≠ .opening) : s.gateOpenedMp i = s :=
  List.foldlRecOn (motive := fun t => t = s) _ _ rfl fun t ht m _ => by
    rw [ht]
    exact if_neg fun hm => h m hm.1 hm.2.1

/-- Where no credit was withheld the switch writes the router and CRC_LIM alone. -/
theorem State.reconfigured_of_none_owed (h : (s.router i).owed = []) : s.reconfigured i b c
    = ((s.switchedTo i b c).setRouter i ((s.switchedTo i b c).router i)).setRouter i
        { s.router i with bounce := b, reconf := (s.router i).reconf2, reconf2 := none } := by
  have ho : ((s.switchedTo i b c).router i).owed = [] := by rw [State.switchedTo_router, h]
  rw [State.reconfigured, State.resume_of_none_owed ho, State.router_setRouter_self, State.switchedTo_router]

theorem State.switchedTo_crcLim : (s.switchedTo i b c).fld (Fld.rt i 0 4 4) = c.toNat := by
  rw [State.switchedTo, State.fld_putF (f := Fld.rt i 0 4 4) Fld.fits]
  exact Nat.mod_eq_of_lt c.isLt

theorem State.switchedTo_fld_apart (h : (Fld.rt i 0 4 4).apart g) : (s.switchedTo i b c).fld g = s.fld g := by
  rw [State.switchedTo, State.fld_putF_apart (f := Fld.rt i 0 4 4) Fld.fits h]
  rfl

/-! ## The pointers of crossing queues (R258, R260) -/

theorem State.crossOf_of (h : t.mesh.cross = s.mesh.cross) : t.crossOf u q = s.crossOf u q := by rw [State.crossOf, h, State.crossOf]

theorem State.crossOf_crossReset : (s.crossReset u q).crossOf u q = Cross.reset := Store.get_set_self

theorem State.cross_of_agree (h : s.agree t .mesh) : t.mesh.cross = s.mesh.cross := by
  have hcross := congrArg Mesh.cross h
  exact hcross

theorem State.cross_fire : (s.fire i).mesh.cross = s.mesh.cross := by rw [State.fire_mesh]

theorem State.cross_evLevel {v : Bool} : (s.evLevel i v).mesh.cross = s.mesh.cross := by
  unfold State.evLevel
  split
  · rfl
  · rw [State.evSend_mesh]

theorem State.cross_toMode {m : Mode} : (s.toMode m).mesh.cross = s.mesh.cross := by
  unfold State.toMode
  split
  · rfl
  · rw [State.logHw_mesh, State.cross_fire]

/-- The entry to HOLD moves no pointer. -/
theorem State.cross_fatal : (s.fatal cause kind num detail).mesh.cross = s.mesh.cross := by
  unfold State.fatal
  split
  · rfl
  · refine List.foldlRecOn (motive := fun t : State => t.mesh.cross = s.mesh.cross) _ _ ?_ fun t ht x _ => ?_
    · rw [apply_ite State.mesh, State.snapStart_mesh, ite_self, State.logHw_mesh, State.cross_evLevel, State.cross_toMode]
      rfl
    · have hoff : t.agreeOff [.regs, .atts] (t.holdAnswer (BitVec.ofNat 4 x)) := State.agreeOff_of_kept (by decide) State.holdAnswer_kept
      exact (State.cross_of_agree (hoff .mesh (by decide))).trans ht

/-! ## A queue whose pointers differ (R260, R263) -/

theorem queueBase_ge : 0x400000 ≤ queueBase u := by
  cases u <;> simp only [queueBase, Fld.sl, Fld.la, Fld.mp, Fld.rt] <;> omega

/-- A queue has lost its contents, its pointers are 0, and its unit has recorded the reset. -/
def State.queueReset (s : State) (u : QUnit) (q : Nat) : State :=
  (((s.dropQueue u q).crossReset u q).queueNote u q 2).fire (queueEv u)

theorem execQueuePointerMismatch_observed {q : BitVec 6} (hq : q.toNat < queuesOf u) (ho : observes u q.toNat = true) :
    execQueuePointerMismatch u q s = .next ((s.queueReset u q.toNat).queueRec u) := by
  simp only [execQueuePointerMismatch, if_neg (Nat.not_le.mpr hq), ho, if_true]
  rfl

theorem execQueuePointerMismatch_coherent {q : BitVec 6} (hq : q.toNat < queuesOf u) (ho : observes u q.toNat = false) :
    execQueuePointerMismatch u q s = .next ((s.queueReset u q.toNat).fatal 4 (unitCode u).1 (unitCode u).2 q.toNat) := by
  simp only [execQueuePointerMismatch, if_neg (Nat.not_le.mpr hq), ho, Bool.false_eq_true, if_false]
  rfl

theorem State.dropQueue_agreeOff :
    s.agreeOff [.pins, .boot, .rsp, .atts, .slices, .ports, .mesh, .routers, .events, .counts, .cox] (s.dropQueue u q) :=
  State.agreeOff_of_kept (by decide) State.dropQueue_kept

theorem State.dropService_atts (h : q ≠ 62) : (s.dropService q).atts = s.atts := by
  simp only [State.dropService, h, if_false, apply_ite State.atts, State.setRing, ite_self]

/-- The contents of an observation queue are no attachment's. -/
theorem State.dropQueue_atts (h : observes u q = true) : (s.dropQueue u q).atts = s.atts := by
  cases u with
  | slice i =>
    unfold State.dropQueue
    dsimp only
    split <;> rfl
  | service =>
    refine State.dropService_atts ?_
    simp only [observes, Bool.or_eq_true, decide_eq_true_eq] at h
    omega
  | _ => simp [observes] at h

theorem State.queueReset_modes : (s.queueReset u q).modes = s.modes := by
  rw [State.queueReset, State.fire_modes, State.queueNote_modes]
  exact State.dropQueue_agreeOff .modes (by decide)

theorem State.queueReset_agents : (s.queueReset u q).agents = s.agents := by
  rw [State.queueReset, State.fire_agents, State.queueNote_agents]
  exact State.dropQueue_agreeOff .agents (by decide)

theorem State.queueReset_atts (h : observes u q = true) : (s.queueReset u q).atts = s.atts := by
  rw [State.queueReset, State.fire_atts, State.queueNote_atts]
  exact State.dropQueue_atts h

theorem State.queueReset_crossOf : (s.queueReset u q).crossOf u q = Cross.reset := by
  rw [State.queueReset, State.crossOf_of State.cross_fire, State.crossOf_of (congrArg Mesh.cross State.queueNote_mesh),
    State.crossOf_crossReset]

theorem State.queueReset_held : (s.queueReset u q).held = s.held :=
  congrArg (fun m : Modes => decide (m.mode = .hold)) State.queueReset_modes

/-- The words of a pointer reset: its count raised, the queue and the kind of its error (R274). -/
theorem State.queueReset_noted (hq : q < 64) :
    (s.queueReset u q).fld ⟨queueBase u + 8, 8, 8⟩ = min 255 (s.fld ⟨queueBase u + 8, 8, 8⟩ + 1)
      ∧ (s.queueReset u q).fld ⟨queueBase u + 8, 16, 6⟩ = q ∧ (s.queueReset u q).fld ⟨queueBase u + 8, 22, 2⟩ = 2 := by
  have hr : ((s.dropQueue u q).crossReset u q).fld ⟨queueBase u + 8, 8, 8⟩ = s.fld ⟨queueBase u + 8, 8, 8⟩ :=
    State.fld_of_regs (State.dropQueue_agreeOff .regs (by decide))
  rw [State.queueReset, State.fire_fld, State.fire_fld, State.fire_fld]
  refine ⟨?_, ?_, ?_⟩
  · rw [State.queueNote, State.fld_putF_beside,
      State.fld_putF_beside]
    exact (State.fld_incF Fld.fits).trans (by rw [hr]; rfl)
  · rw [State.queueNote, State.fld_putF_beside,
      State.fld_putF Fld.fits]
    exact Nat.mod_eq_of_lt hq
  · exact State.fld_putF Fld.fits

/-- A reset writes the queue-error word of its unit alone. -/
theorem State.queueReset_fld_ne (h : queueBase u + 8 ≠ g.addr) : (s.queueReset u q).fld g = s.fld g := by
  rw [State.queueReset, State.fire_fld, State.queueNote, State.fld_putF_apart Fld.fits (.inl h),
    State.fld_putF_apart Fld.fits (.inl h)]
  exact (State.fld_incF_apart Fld.fits (.inl h)).trans (State.fld_of_regs (State.dropQueue_agreeOff .regs (by decide)))

theorem State.queueRec_agreeOff : s.agreeOff [.regs, .slices] (s.queueRec u) := State.agreeOff_of_kept (by decide) State.queueRec_kept

theorem State.cross_queueRec : (s.queueRec u).mesh.cross = s.mesh.cross := State.cross_of_agree (State.queueRec_agreeOff .mesh (by decide))

/-- Beside the count of RECOVERED errors the record writes the slice's count of lost reservations alone. -/
theorem State.queueRec_fld (h : ∀ i, u = .slice i → g.addr ≠ (Fld.sl i 0x280 16 16).addr) :
    (s.queueRec u).fld g = s.classRec.fld g := by
  cases u with
  | slice i => exact State.sliceErr_fld_apart (.inl (h i rfl).symm)
  | _ => rfl

theorem State.queueRec_noted {lo len : Nat} :
    (s.queueRec u).fld ⟨queueBase u + 8, lo, len⟩ = s.fld ⟨queueBase u + 8, lo, len⟩ := by
  have hb := queueBase_ge (u := u)
  rw [State.queueRec_fld, State.classRec, State.fld_incF_apart (by decide) (.inl (by dsimp only; omega))]
  rintro i rfl
  simp only [queueBase, Fld.sl]
  omega

theorem State.queueRec_count : (s.queueRec u).fld ⟨0x70120, 0, 32⟩ = min 0xFFFFFFFF (s.fld ⟨0x70120, 0, 32⟩ + 1) := by
  rw [State.queueRec_fld, State.classRec, State.fld_incF (by decide)]
  · rfl
  · rintro i -
    simp only [Fld.sl]
    omega

theorem unitCode_fits : (unitCode u).1 < 8 ∧ (unitCode u).2 < 128 := by
  cases u <;> simp only [unitCode] <;> omega

/-! ## Trace out (R258, R271) -/

theorem State.traceRead_alone : s.traceRead = { s with mesh := s.traceRead.mesh } := by
  unfold State.traceRead
  split
  · rfl
  · split <;> rfl

theorem State.traceIn_alone : s.traceIn = { s with mesh := s.traceIn.mesh } := by
  unfold State.traceIn
  split
  · rfl
  · split
    · rfl
    · split <;> rfl

/-- Trace out's two steps change the Armature alone. -/
theorem State.traceOut_alone : s.traceRead.traceIn = { s with mesh := s.traceRead.traceIn.mesh } :=
  State.traceIn_alone.trans (congrArg (fun t : State => { t with mesh := s.traceRead.traceIn.mesh }) State.traceRead_alone)

theorem State.traceRead_rings : s.traceRead.mesh.rings = s.mesh.rings ∧ s.traceRead.mesh.ringTurn = s.mesh.ringTurn := by
  unfold State.traceRead
  split
  · exact ⟨rfl, rfl⟩
  · split <;> exact ⟨rfl, rfl⟩

theorem State.traceRead_ring : s.traceRead.ring k = s.ring k := by rw [State.ring, State.traceRead_rings.1, State.ring]

theorem State.traceRead_head {e : BitVec 256} {rest : List (BitVec 256)} (hq : s.mesh.traceQ = e :: rest)
    (he : (s.crossOf .service 28).seenEmpty = false) : s.traceRead.mesh.tracePin = some e ∧ s.traceRead.mesh.traceQ = rest := by
  simp only [State.traceRead, he, Bool.false_eq_true, if_false, hq, and_self]

/-- What enters the crossing queue stands behind what is in it, and what left it stays out. -/
theorem State.traceIn_queue : s.traceIn.mesh.tracePin = s.mesh.tracePin
    ∧ (s.traceIn.mesh.traceQ = s.mesh.traceQ ∨ ∃ x, s.traceIn.mesh.traceQ = s.mesh.traceQ ++ [x]) := by
  unfold State.traceIn
  split
  · exact ⟨rfl, .inl rfl⟩
  · split
    · exact ⟨rfl, .inl rfl⟩
    · split
      · exact ⟨rfl, .inl rfl⟩
      · exact ⟨rfl, .inr ⟨_, rfl⟩⟩

/-- The granted ring's first entry enters the crossing queue. -/
theorem State.traceIn_granted {e : BitVec 256} {rest : List (BitVec 256)}
    (hg : grantOf 16 s.mesh.ringTurn (fun n => decide (s.ring n ≠ [])) = some k) (hk : s.ring k = e :: rest)
    (hf : (s.crossOf .service 28).seenFull (Config.queueRoom 28 + 2) = false) :
    s.traceIn.mesh.rings = Store.set [] s.mesh.rings k rest ∧ s.traceIn.mesh.ringTurn = (k + 1) % 16
      ∧ s.traceIn.mesh.traceQ = s.mesh.traceQ ++ [e] := by
  unfold State.traceIn
  rw [hf, if_neg Bool.false_ne_true, hg]
  simp only [hk]
  exact ⟨rfl, trivial, rfl⟩

/-! ## Bounced messages (R266) -/

theorem execBouncedMessage_head {b : Bounced} {rest : List Bounced} (h : s.mesh.bounced = b :: rest) :
    execBouncedMessage s = .next ({ s with mesh := { s.mesh with bounced := rest } }.handleBounced b) := by
  simp only [execBouncedMessage, h]

end Reconfiguration

/-- Settles O40. The switch of a reconfiguration leaves the configuration that the switch of packets does not touch; a reset is recorded in
the words of its unit; trace out reads its queue before it fills it. -/
theorem routersReconfigureAndQueuesReset : Obligations.RoutersReconfigureAndQueuesReset := by
  unfold Obligations.RoutersReconfigureAndQueuesReset
  refine ⟨fun i b c s => ?_, fun i b c s hr hb => ⟨?_, fun ho ha hm => ?_⟩, fun u q s hq => ⟨fun ho hh => ?_, fun ho => ?_⟩,
    fun s hl => ?_, fun b rest s hb => ⟨execBouncedMessage_head hb, fun m c he hp => ?_⟩⟩
  · refine ⟨_, rfl, State.router_setRouter_self, fun j hj => ?_, rfl⟩
    rw [State.reconf, State.router_setRouter, if_neg hj]
  · refine ⟨_, execRouterReconfigSwitch_drained hr hb, ?_⟩
    rw [State.gatesOpened_router]
    exact State.reconfigured_router
  · refine ⟨_, execRouterReconfigSwitch_drained hr hb, ?_⟩
    rw [State.gateOpened_of_none (by rw [State.reconfigured_of_none_owed ho]; exact ha),
      State.gateOpenedMp_of_none (by rw [State.reconfigured_of_none_owed ho]; exact hm), State.reconfigured_of_none_owed ho]
    refine ⟨State.router_setRouter_self, State.switchedTo_crcLim, fun g hg => State.switchedTo_fld_apart hg, fun j hj => ?_,
      rfl, rfl, rfl⟩
    rw [State.router_setRouter, if_neg hj, State.router_setRouter, if_neg hj, State.switchedTo, State.putF_router,
      State.router_setRouter, if_neg hj]
  · have hheld : (s.queueReset u q.toNat).held = false := State.queueReset_held.trans hh
    obtain ⟨hcause, hkind, hnum, hdetail⟩ := State.fatal_record (cause := 4) (detail := q.toNat) hheld (by decide) unitCode_fits.1
      unitCode_fits.2 q.isLt
    exact ⟨_, execQueuePointerMismatch_coherent hq ho, State.fatal_mode hheld, hcause, hkind, hnum, hdetail,
      (State.crossOf_of State.cross_fatal).trans State.queueReset_crossOf⟩
  · refine ⟨_, execQueuePointerMismatch_observed hq ho, ?_⟩
    obtain ⟨hcount, hlast, hkind⟩ := State.queueReset_noted (s := s) (u := u) q.isLt
    rw [State.queueRec_noted, State.queueRec_noted, State.queueRec_noted, State.queueRec_count,
      State.queueReset_fld_ne (g := ⟨0x70120, 0, 32⟩)]
    · have hoff := State.queueRec_agreeOff (s := s.queueReset u q.toNat) (u := u)
      exact ⟨congrArg Modes.mode ((hoff .modes (by decide)).trans State.queueReset_modes),
        (State.crossOf_of State.cross_queueRec).trans State.queueReset_crossOf, hcount, hlast, hkind, rfl,
        (hoff .agents (by decide)).trans State.queueReset_agents, (hoff .atts (by decide)).trans (State.queueReset_atts ho)⟩
    · have hb := queueBase_ge (u := u)
      dsimp only
      omega
  · refine ⟨_, if_neg (Nat.not_le.mpr hl), State.traceOut_alone, fun e rest hq he => ?_, fun g e rest hg hk hf => ?_⟩
    · obtain ⟨hpin, hrest⟩ := State.traceRead_head hq he
      rw [← hpin, ← hrest]
      exact State.traceIn_queue
    · obtain ⟨hrings, hturn, hlast⟩ := State.traceIn_granted (s := s.traceRead) (k := g) (e := e) (rest := rest)
        (by simpa only [State.traceRead_ring, State.traceRead_rings.2] using hg) (State.traceRead_ring.trans hk) hf
      rw [State.ring, hrings, hturn, hlast]
      refine ⟨Store.get_set_self, rfl, List.getLast?_concat, fun h hh => ?_⟩
      rw [State.ring, hrings, Store.get_set_ne hh]
      exact State.traceRead_ring
  · subst he
    exact (execBouncedMessage_head hb).trans (congrArg _ (if_pos hp))

end Sys2Proof.Machine

/-! SUPPORT. The gate of an attachment: how it closes and drains, and how it opens again. -/

namespace Sys2Proof.Machine

section Gates

variable {s t : State} {k j : AttId} {i u : Nat} {v : Bool} {b c : BitVec 4} {g : GateSt}

/-! ## The bounce bit that a router is to have (R255, R264) -/

/-- A bit of a vector as it was set. -/
theorem getLsbD_putBit {w : Nat} {x : BitVec w} (h : u < w) :
    (if v then x ||| (1#w <<< u) else x &&& ~~~ (1#w <<< u)).getLsbD u = v := by
  have hone : (1#w <<< u).getLsbD u = true := by simp [h]
  cases v with
  | true => rw [if_pos rfl, BitVec.getLsbD_or, hone, Bool.or_true]
  | false => rw [if_neg Bool.false_ne_true, BitVec.getLsbD_and, BitVec.getLsbD_not, hone, Bool.not_true, Bool.and_false, Bool.and_false]

/-- A change of RTR_CFG that no other one follows is what the router comes to. -/
theorem State.cfgAhead_reconf (h : (s.router i).reconf2 = none) : ((s.reconf i b c).cfgAhead i).1 = b := by
  rw [State.cfgAhead, State.reconf, State.router_setRouter_self]
  split
  · rfl
  · dsimp only
    rw [h]
    rfl

theorem State.cfgAhead_reconfBounce (h : (s.router i).reconf2 = none) (hu : u < 4) :
    ((s.reconfBounce i u v).cfgAhead i).1.getLsbD u = v := by
  rw [State.reconfBounce, State.cfgAhead_reconf h]
  exact getLsbD_putBit hu

theorem attUnit_lt : k.toNat % 2 < 4 := Nat.lt_trans (Nat.mod_lt _ (by decide)) (by decide)

/-! ## The gate closes (R264, R265) -/

theorem execLaGateClose_away (hf : s.fwUp = true) (hg : (s.att k).gate = .opened) (ha : s.allAway k = true) :
    execLaGateClose k s = .next ((s.putF (Fld.la k 0x150 0 1) 1).gateStart k) := by
  rw [execLaGateClose, State.regG, if_pos hf, State.gateClose, hg]
  exact congrArg _ (if_pos ha)

theorem execLaGateClose_refused (hf : s.fwUp = true) (hg : (s.att k).gate = .opened) (ha : s.allAway k = false) :
    execLaGateClose k s = .next ((s.putF (Fld.la k 0x150 3 1) 1).fire (evLa k 4)) := by
  rw [execLaGateClose, State.regG, if_pos hf, State.gateClose, hg]
  exact congrArg _ (if_neg (by simp [ha]))

theorem State.reconfBounce_att : (s.reconfBounce i u v).att j = s.att j := rfl
theorem State.reconfBounce_slices : (s.reconfBounce i u v).slices = s.slices := rfl

theorem State.gateStart_fld {f : Fld} : (s.gateStart k).fld f = s.fld f := rfl

theorem State.gateStart_att : (s.gateStart k).att j
    = if j = k then { s.att k with gate := .closing, gateReq := true, gateAck := false, reopen := false } else s.att j := by
  rw [State.gateStart, State.reconfBounce_att, State.att_modAtt]

/-! ## The gate is DRAINED (R264, R267) -/

theorem State.toGate_att : (s.toGate k g).att j = if j = k then { s.att k with gate := g } else s.att j :=
  State.att_modAtt (g := fun a => { a with gate := g })

theorem State.toGate_regs : (s.toGate k g).regs = s.regs := rfl

theorem State.toGate_pin : (s.toGate k g).pins.lnkOffOk.getLsbD k.toNat = decide (g = .drained) := getLsbD_putBit k.isLt

/-- The gate is DRAINED, and the event says so. -/
def State.gateDown (s : State) (k : AttId) : State := (s.toGate k .drained).fire (evLa k 3)

theorem State.gateDown_att : (s.gateDown k).att j = if j = k then { s.att k with gate := .drained } else s.att j := by
  rw [State.gateDown, State.fire_att, State.toGate_att]

theorem State.gateDown_regs : (s.gateDown k).regs = s.regs := by rw [State.gateDown, State.fire_regs, State.toGate_regs]

theorem State.gateDown_pin : (s.gateDown k).pins.lnkOffOk.getLsbD k.toNat = true := by
  rw [State.gateDown, State.fire_pins, State.toGate_pin]
  rfl

/-- A reopening that was asked for meanwhile goes on at once. -/
def State.gateTurned (s : State) (k : AttId) : State :=
  ((s.gateDown k).toGate k .opening).modAtt k (fun a => { a with reopen := false })

theorem State.gateTurned_att : (s.gateTurned k).att j = if j = k then { s.att k with gate := .opening, reopen := false } else s.att j := by
  rw [State.gateTurned, State.att_modAtt]
  split
  · rw [State.toGate_att, if_pos rfl, State.gateDown_att, if_pos rfl]
  · next hj => rw [State.toGate_att, if_neg hj, State.gateDown_att, if_neg hj]

theorem State.gateTurned_regs : (s.gateTurned k).regs = s.regs := by
  rw [State.gateTurned, State.modAtt_regs, State.toGate_regs, State.gateDown_regs]

theorem State.gateTurned_pin : (s.gateTurned k).pins.lnkOffOk.getLsbD k.toNat = false := by
  rw [State.gateTurned, State.modAtt_pins, State.toGate_pin]
  rfl

theorem execGateDrained_drains (hg : (s.att k).gate = .closing) (ha : (s.att k).gateAck = true) (hq : (s.att k).quiet = true)
    (hb : s.attBounces k = true) : execGateDrained k s = .next (if (s.att k).reopen = true
      then s.gateTurned k else s.gateDown k) :=
  if_pos ⟨hg, ha, hq, hb⟩

/-! ## The gate reopens (R267) -/

theorem execLaGateOpen_drained (hf : s.fwUp = true) (hg : (s.att k).gate = .drained) :
    execLaGateOpen k s = .next ((s.putF (Fld.la k 0x150 0 1) 0).toGate k .opening) := by
  rw [execLaGateOpen, State.regG, if_pos hf, State.gateOpen, State.putF_att, hg]

theorem execLaGateOpen_closing (hf : s.fwUp = true) (hg : (s.att k).gate = .closing) :
    execLaGateOpen k s = .next ((s.putF (Fld.la k 0x150 0 1) 0).modAtt k (fun a => { a with reopen := true })) := by
  rw [execLaGateOpen, State.regG, if_pos hf, State.gateOpen, State.putF_att, hg]

theorem execGateReopen_starts (hg : (s.att k).gate = .opening) (hp : (s.att k).passing = false) :
    execGateReopen k s = .next (s.gateUp k) := if_pos ⟨hg, by rw [hp]; rfl⟩

/-- The pointers of an attachment's crossing queues are 0 again. -/
def State.pointersReset (s : State) (k : AttId) : State := (List.range 6).foldl (fun s q => s.crossReset (.att k) q) s

/-- The reset of the pointers writes no more than the crossing queues. -/
theorem State.pointersReset_frame : s.agreeOff [.mesh] (s.pointersReset k) :=
  State.agreeOff_of_kept (by decide) fun hC hK => Kept.fold _ (fun _ _ h => State.crossReset_kept hC h) hK

theorem State.pointersReset_att : (s.pointersReset k).att j = s.att j := by
  rw [State.att, State.pointersReset_frame .atts (by decide), State.att]

theorem State.pointersReset_router : (s.pointersReset k).router i = s.router i :=
  State.router_of (State.pointersReset_frame .routers (by decide))

theorem State.pointersReset_slices : (s.pointersReset k).slices = s.slices := State.pointersReset_frame .slices (by decide)

/-- An edge whose gate reopens: its queues empty, its credits advertised again, its router about to pass its messages. -/
def Att.reopened (a : Att) : Att :=
  { a.advertise with
    ndrQ := [], drsQ := [], bisnpQ := [], gateReq := false, gateAck := false, reopen := false, passing := true }

theorem State.gateUp_eq :
    s.gateUp k = ((s.pointersReset k).modAtt k Att.reopened).reconfBounce (attRouter k) (k.toNat % 2) false := rfl

theorem State.gateUp_att : (s.gateUp k).att j = if j = k then (s.att k).reopened else s.att j := by
  rw [State.gateUp_eq, State.reconfBounce_att, State.att_modAtt, State.pointersReset_att, State.pointersReset_att]

theorem State.gateUp_slices : (s.gateUp k).slices = s.slices := by
  rw [State.gateUp_eq, State.reconfBounce_slices, State.modAtt_slices, State.pointersReset_slices]

theorem State.gateUp_cfgAhead (h : (s.router (attRouter k)).reconf2 = none) :
    ((s.gateUp k).cfgAhead (attRouter k)).1.getLsbD (k.toNat % 2) = false := by
  rw [State.gateUp_eq]
  exact State.cfgAhead_reconfBounce (by rw [State.modAtt_router, State.pointersReset_router, h]) attUnit_lt

/-! ## The gate is OPEN once its router passes messages (R267) -/

/-- What is said of one entry, and kept by the steps of the others, is changed by a pass over a list in that entry's step alone. -/
theorem State.foldl_of_nodup {α γ : Type} {view : State → γ} {R : γ → γ → Prop} {f : State → α → State} {xs : List α} {x : α}
    (hx : x ∈ xs) (hd : xs.Nodup) (hstep : ∀ s, R (view s) (view (f s x))) (hne : ∀ s y, y ≠ x → view (f s y) = view s) :
    R (view s) (view (xs.foldl f s)) := by
  obtain ⟨l, r, rfl⟩ := List.append_of_mem hx
  have hkeep : ∀ (l : List α) (s : State), x ∉ l → view (l.foldl f s) = view s := fun l s hm =>
    List.foldlRecOn (motive := fun t => view t = view s) l f rfl fun t ht y hy => (hne t y fun e => hm (e ▸ hy)).trans ht
  obtain ⟨-, hr, hlr⟩ := List.nodup_append.mp hd
  rw [List.foldl_append, List.foldl_cons, hkeep r _ (List.nodup_cons.mp hr).1, ← hkeep l s fun h => hlr x h x List.mem_cons_self rfl]
  exact hstep _

theorem mem_allAtts : k ∈ allAtts := List.mem_map.mpr ⟨k.toNat, List.mem_range.mpr k.isLt, by simp⟩

theorem nodup_allAtts : allAtts.Nodup := by decide

/-- A gate with the bounce bit of its attachment. -/
def State.gateView (s : State) (k : AttId) : (GateSt × Bool) × Bool := (s.gates k, s.attBounces k)

/-- One attachment's gate is OPEN if its router passes messages again. -/
def State.gateStep (s : State) (i : Nat) (k : AttId) : State :=
  if attRouter k = i ∧ (s.att k).gate = .opening ∧ (s.att k).passing ∧ !s.attBounces k then
    ((s.toGate k .opened).modAtt k (fun a => { a with passing := false })).putF (Fld.la k 0x150 16 16) 0
  else s

theorem State.gateOpened_eq : s.gateOpened i = allAtts.foldl (fun s k => s.gateStep i k) s := rfl

theorem State.gateView_gateStep_ne (h : k ≠ j) : (s.gateStep i j).gateView k = s.gateView k := by
  unfold State.gateStep
  split
  · have ha : (((s.toGate j .opened).modAtt j (fun a => { a with passing := false })).putF (Fld.la j 0x150 16 16) 0).att k = s.att k := by
      rw [State.putF_att, State.att_modAtt, if_neg h, State.toGate_att, if_neg h]
    exact congrArg (fun a : Att => ((a.gate, a.passing), s.attBounces k)) ha
  · rfl

theorem State.gates_gateStep (hi : attRouter k = i) (h : s.gateView k = ((.opening, true), false)) :
    ((s.gateStep i k).gateView k).1 = (.opened, false) := by
  obtain ⟨hgate, hb⟩ := Prod.mk.inj h
  obtain ⟨hg, hp⟩ := Prod.mk.inj hgate
  rw [State.gateStep, if_pos ⟨hi, hg, hp, by rw [hb]; rfl⟩, State.gateView, State.gates, State.putF_att, State.att_modAtt_self,
    State.toGate_att, if_pos rfl]

/-- The gate of an attachment that its router no longer bounces opens. -/
theorem State.gates_gateOpened (hi : attRouter k = i) (h : s.gateView k = ((.opening, true), false)) :
    (s.gateOpened i).gates k = (.opened, false) := by
  rw [State.gateOpened_eq]
  exact State.foldl_of_nodup (view := fun s : State => s.gateView k) (f := fun s k => s.gateStep i k)
    (R := fun x y => x = ((.opening, true), false) → y.1 = (.opened, false)) mem_allAtts nodup_allAtts
    (fun _ hx => State.gates_gateStep hi hx) (fun _ _ hj => State.gateView_gateStep_ne hj.symm) h

/-- The ports' gates are not the attachments'. -/
theorem State.gates_gateOpenedMp : (s.gateOpenedMp i).gates = s.gates :=
  State.gates_of_atts (State.gateOpenedMp_agreeOff .atts (by decide))

theorem State.gateView_reconfigured (hi : i = attRouter k) (hg : (s.att k).gate = .opening) (hp : (s.att k).passing = true)
    (hb : b.getLsbD (k.toNat % 2) = false) : (s.reconfigured i b c).gateView k = ((.opening, true), false) := by
  rw [State.gateView, State.reconfigured_gates, State.gates, hg, hp, State.attBounces, State.bounces, ← hi,
    State.reconfigured_router.1, hb]

end Gates

/-- Settles O41: each command by the gate and the bounce bit that it asks of its router; the end of the reopening as the step of one
attachment among those of its router. -/
theorem gatesCloseAndReopen : Obligations.GatesCloseAndReopen := by
  unfold Obligations.GatesCloseAndReopen
  refine ⟨fun k s hf hg => ⟨fun ha => ?_, fun ha => ?_⟩, fun k s hr => ?_, fun k s hg ha hq hb => ?_,
    fun k s hf => ⟨fun hg => ?_, fun hg => ?_⟩, fun k s hg hp => ?_, fun k i b c s hi hr hb hg hp hbit => ?_⟩
  · refine ⟨_, execLaGateClose_away hf hg ha, ?_⟩
    rw [State.gateStart_att, if_pos rfl]
    refine ⟨rfl, rfl, rfl, ?_, fun j hj => ?_, rfl, fun h => ?_⟩
    · rw [State.gateStart_fld, State.fld_putF Fld.la_fits]
      rfl
    · rw [State.gateStart_att, if_neg hj, State.putF_att]
    · exact State.cfgAhead_reconfBounce h attUnit_lt
  · refine ⟨_, execLaGateClose_refused hf hg ha, State.fire_atts, ?_, fun g hd => ?_⟩
    · rw [State.fire_fld, State.fld_putF Fld.la_fits]
      rfl
    · rw [State.fire_fld, State.fld_putF_apart Fld.la_fits hd]
  · refine ⟨_, if_pos hr, State.att_modAtt_self, fun j hj => ?_, rfl⟩
    rw [State.att_modAtt, if_neg hj]
  · refine ⟨_, execGateDrained_drains hg ha hq hb, ?_⟩
    cases hr : (s.att k).reopen with
    | true =>
      rw [if_pos rfl, State.gateTurned_att, if_pos rfl]
      exact ⟨rfl, State.gateTurned_pin, fun j hj => by rw [State.gateTurned_att, if_neg hj], State.gateTurned_regs⟩
    | false =>
      rw [if_neg Bool.false_ne_true, State.gateDown_att, if_pos rfl]
      exact ⟨by rw [if_neg Bool.false_ne_true, ← hr], State.gateDown_pin, fun j hj => by rw [State.gateDown_att, if_neg hj],
        State.gateDown_regs⟩
  · refine ⟨_, execLaGateOpen_drained hf hg, State.toGate_att.trans (if_pos rfl), State.toGate_pin, ?_, fun j hj => ?_⟩
    · exact (State.fld_putF (s := s) (f := Fld.la k 0x150 0 1) (n := 0) Fld.la_fits).trans (Nat.zero_mod _)
    · rw [State.toGate_att, if_neg hj, State.putF_att]
  · refine ⟨_, execLaGateOpen_closing hf hg, State.att_modAtt_self, rfl, ?_, fun j hj => ?_⟩
    · exact (State.fld_putF (s := s) (f := Fld.la k 0x150 0 1) (n := 0) Fld.la_fits).trans (Nat.zero_mod _)
    · rw [State.att_modAtt, if_neg hj, State.putF_att]
  · refine ⟨_, execGateReopen_starts hg hp, ?_⟩
    rw [State.gateUp_att, if_pos rfl]
    refine ⟨rfl, rfl, rfl, rfl, rfl, rfl, rfl, rfl, State.gateUp_cfgAhead, fun j hj => ?_, State.gateUp_slices⟩
    rw [State.gateUp_att, if_neg hj]
  · have hopens := State.gates_gateOpened hi.symm (State.gateView_reconfigured (c := c) hi hg hp hbit)
    obtain ⟨hopen, hpass⟩ := Prod.mk.inj ((congrFun State.gates_gateOpenedMp k).trans hopens)
    exact ⟨_, execRouterReconfigSwitch_drained hr hb, hopen, hpass⟩

end Sys2Proof.Machine

/-! SUPPORT. REST: how a request is accepted or refused, and the steps of the entry. -/

namespace Sys2Proof.Machine

section RestEntry

variable {s : State} {m : PortId} {k : AttId} {x : Nat × Nat × Nat} {f g : Fld} {n : Nat} {r : BitVec 24}

/-! ## One change at every port -/

theorem mem_allPorts : m ∈ allPorts := List.mem_map.mpr ⟨m.toNat, List.mem_range.mpr m.isLt, BitVec.ofNat_toNat 5 m ▸ by simp⟩

theorem nodup_allPorts : allPorts.Nodup := by decide

theorem allPorts_all {p : PortId → Bool} (h : ∀ m, p m = true) : allPorts.all p = true := List.all_eq_true.mpr fun m _ => h m

/-- Every port changed alike. -/
def State.onPorts (s : State) (g : Port → Port) : State := allPorts.foldl (fun s m => s.modMp m g) s

theorem State.onPorts_mp {g : Port → Port} : (s.onPorts g).mp m = g (s.mp m) :=
  State.foldl_of_nodup (view := fun s : State => s.mp m) (R := fun x y => y = g x) (f := fun s m => s.modMp m g) mem_allPorts nodup_allPorts
    (fun _ => State.mp_modMp_self) fun _ _ hj => by rw [State.mp_modMp, if_neg hj.symm]

theorem State.onPorts_agreeOff {g : Port → Port} : s.agreeOff [.ports] (s.onPorts g) :=
  State.agreeOff_of_kept (by decide) fun hC hK => Kept.fold _ (fun _ _ h => State.modMp_kept hC h) hK

/-! ## A request (R279, R282, R283) -/

/-- The request is taken, and its reasons are about to be looked at. -/
def State.restAsked (s : State) : State :=
  ({ s with modes := { s.modes with restReqd := true, restStart := s.now, restLimit := false, wakeLatch := 0 } }).phase 1

/-- REST_REQ has an effect: the block serves, and neither an entry, an exit nor a warm reset is under way. -/
def State.restMay (s : State) : Prop :=
  (s.mode = .serve ∨ s.mode = .shed) ∧ s.modes.restReqd = false ∧ s.modes.warm = none ∧ s.modes.restPhase ≠ 7

/-- What the request's reasons lead to. -/
def State.restDecided (s : State) : List (Nat × Nat × Nat) → State
  | [] => (s.phase 2).enterQuiesce.noRsvs
  | x :: rest => s.refuseRest (x :: rest)

theorem State.restReq_decided (h : s.restMay) : s.restReq = s.restAsked.restDecided s.restFails1 := by
  obtain ⟨hm, hr, hw, hp⟩ := h
  have hgo : ¬ (s.modes.restReqd || s.modes.warm.isSome || decide (s.modes.restPhase = 7)) = true := by
    rw [hr, hw, decide_eq_false hp]
    decide
  have hdecided : s.restReq = if s.modes.restReqd || s.modes.warm.isSome || decide (s.modes.restPhase = 7) then s
      else match s.restFails1 with
        | [] => (s.restAsked.phase 2).enterQuiesce.noRsvs
        | f => s.restAsked.refuseRest f := by
    unfold State.restReq
    rcases hm with hm | hm <;> rw [hm] <;> rfl
  rw [hdecided, if_neg hgo]
  cases s.restFails1 <;> rfl

/-- The modes while an entry waits for its drain. -/
theorem State.restDecided_enters (hm : s.mode = .serve ∨ s.mode = .shed) : (s.restAsked.restDecided []).modes
    = { s.restAsked.modes with mode := .quiesce, drainStep := 1, drained := false, restPhase := 2 } := by
  have he : (s.restAsked.phase 2).enterQuiesce = (s.restAsked.phase 2).startDrain := State.enterQuiesce_of_admits hm
  rw [State.restDecided, he, State.noRsvs, State.loseRsvAll_modes, State.startDrain_modes]
  rfl

theorem State.restDecided_agreeOff : s.agreeOff [.modes, .regs, .slices, .mesh, .events, .cox] (s.restAsked.restDecided []) :=
  State.agreeOff_of_kept (by decide) fun hC hK =>
    State.noRsvs_kept (Kept.sub _ hC rfl) (State.enterQuiesce_kept hC (@Kept.modes _ (hC _ (by decide)) s (s.restAsked.phase 2).modes hK))

/-! ## A refusal (R283) -/

theorem State.fld_putF_elsewhere (h : f.addr ≠ g.addr) : (s.putF f n).fld g = s.fld g := by
  rw [State.fld, State.reg_putF_ne h.symm, State.fld]

/-- The reasons that are looked at on the request. -/
theorem State.restFails1_reason (h : x ∈ s.restFails1) : x.1 < 8 := by
  unfold State.restFails1 at h
  rw [List.mem_append, List.mem_append] at h
  rcases h with (h | h) | h
  · split at h
    · rw [List.mem_singleton.mp h]; decide
    · exact absurd h List.not_mem_nil
  · split at h
    · rw [List.mem_singleton.mp h]; exact (by decide : 5 < 8)
    · exact absurd h List.not_mem_nil
  · split at h
    · rw [List.mem_singleton.mp h]; decide
    · exact absurd h List.not_mem_nil

/-- The entry stops, and the refusal is recorded with its first reason and the set of all. -/
def State.refusalNoted (s : State) (x : Nat × Nat × Nat) (l : List (Nat × Nat × Nat)) : State :=
  l.foldl (fun s x => s.putF ⟨0x70018, x.1, 1⟩ 1) ((((s.stopEntry.incF ⟨0x70010, 0, 16⟩).putF ⟨0x70010, 16, 3⟩ x.1).putF
    ⟨0x70014, 0, 3⟩ x.2.1).putF ⟨0x70014, 3, 11⟩ x.2.2)

theorem State.refuseRest_noted {rest : List (Nat × Nat × Nat)} : s.refuseRest (x :: rest)
    = (((s.refusalNoted x (x :: rest)).fire (evG 26)).logHw 4 x.2.2 x.1).leaveQuiesce := rfl

theorem State.undoSaves_agreeOff : s.agreeOff [.ports] s.undoSaves := State.agreeOff_of_kept (by decide) State.undoSaves_kept

theorem State.stopEntry_modes :
    s.stopEntry.modes = { s.modes with restReqd := false, restPhase := 0, restLimit := false, wakeLatch := 0 } :=
  State.undoSaves_agreeOff .modes (by decide)

theorem State.stopEntry_fld : s.stopEntry.fld f = s.fld f := State.fld_of_regs (State.undoSaves_agreeOff .regs (by decide))

/-- The record of a refusal is in the registers alone. -/
theorem State.refusalNoted_agreeOff {l : List (Nat × Nat × Nat)} : s.stopEntry.agreeOff [.regs] (s.refusalNoted x l) :=
  State.agreeOff_of_kept (by decide) fun hC hK => Kept.fold _ (fun _ _ h => State.putF_kept hC h)
    (State.putF_kept hC (State.putF_kept hC (State.putF_kept hC (State.incF_kept hC hK))))

/-- The reasons' words stand above that of the count. -/
theorem State.refusalNoted_fld {l : List (Nat × Nat × Nat)} (hf : f.addr = 0x70010) : (s.refusalNoted x l).fld f
    = ((s.stopEntry.incF ⟨0x70010, 0, 16⟩).putF ⟨0x70010, 16, 3⟩ x.1).fld f := by
  refine l.foldlRecOn (motive := fun t : State => t.fld f = _) _ ?_ fun t ht y _ => ?_
  · rw [State.fld_putF_elsewhere (by rw [hf]; decide), State.fld_putF_elsewhere (by rw [hf]; decide)]
  · rw [State.fld_putF_elsewhere (by rw [hf]; dsimp only; decide), ht]

/-- Outside QUIESCE the end of the trigger changes nothing. -/
theorem State.leaveQuiesce_of_ne (h : s.mode ≠ .quiesce) : s.leaveQuiesce = s := if_pos (.inl h)

theorem State.refuseRest_modes {rest : List (Nat × Nat × Nat)} (h : s.mode ≠ .quiesce) :
    (s.refuseRest (x :: rest)).modes = s.stopEntry.modes := by
  have hn : (((s.refusalNoted x (x :: rest)).fire (evG 26)).logHw 4 x.2.2 x.1).modes = s.stopEntry.modes := by
    rw [State.logHw_modes, State.fire_modes, State.refusalNoted_agreeOff .modes (by decide)]
  rw [State.refuseRest_noted, State.leaveQuiesce_of_ne, hn]
  rw [State.mode, hn, State.stopEntry_modes]
  exact h

theorem State.refuseRest_fld {rest : List (Nat × Nat × Nat)} (hf : f.addr = 0x70010) : (s.refuseRest (x :: rest)).fld f
    = ((s.stopEntry.incF ⟨0x70010, 0, 16⟩).putF ⟨0x70010, 16, 3⟩ x.1).fld f :=
  ((State.Stands.refl.fire).logHw.leaveQuiesce.fld (by rw [hf]; decide)).trans (State.refusalNoted_fld hf)

theorem State.refuseRest_count {rest : List (Nat × Nat × Nat)} :
    (s.refuseRest (x :: rest)).fld ⟨0x70010, 0, 16⟩ = min 65535 (s.fld ⟨0x70010, 0, 16⟩ + 1) := by
  rw [State.refuseRest_fld rfl, State.fld_putF_beside, State.fld_incF (by decide), State.stopEntry_fld]
  rfl

theorem State.refuseRest_reason {rest : List (Nat × Nat × Nat)} (hx : x.1 < 8) :
    (s.refuseRest (x :: rest)).fld ⟨0x70010, 16, 3⟩ = x.1 := by
  rw [State.refuseRest_fld rfl, State.fld_putF (by decide)]
  exact Nat.mod_eq_of_lt hx

/-! ## The steps of the entry (R282) -/

theorem State.phase_restPhase {b : BitVec 3} : (s.phase b).modes.restPhase = b := rfl
theorem State.phase_pins {b : BitVec 3} : (s.phase b).pins = s.pins := rfl
theorem State.phase_mp {b : BitVec 3} : (s.phase b).mp m = s.mp m := rfl
theorem State.phase_slices {b : BitVec 3} : (s.phase b).slices = s.slices := rfl
theorem State.phase_atts {b : BitVec 3} : (s.phase b).atts = s.atts := rfl

/-- A save waits at the end of a port's commands. -/
def Port.withSave (p : Port) : Port :=
  { p with waitq := p.waitq ++ [{ why := .save, line := 0, data := none, stag := 0, held := none }] }

theorem State.restCheck_saves (h : s.restFails3 = []) : s.restCheck = (s.phase 4).onPorts Port.withSave := by
  rw [State.restCheck, h]
  rfl

theorem firstOf_eq_nil {c kind : Nat} {p : Nat → Bool} (h : ∀ k, p k = false) : firstOf c kind n p = [] := by
  rw [firstOf, List.find?_eq_none.mpr fun k _ => by rw [h]; exact Bool.false_ne_true]

theorem execRestEntryStep_drained (hr : s.modes.restReqd = true) (hp : s.modes.restPhase = 2) (hd : s.modes.drained = true) :
    execRestEntryStep r s = .next (s.phase 3) := by
  rw [execRestEntryStep, if_neg (by rw [hr]; decide), hp]
  exact congrArg _ (if_pos hd)

theorem execRestEntryStep_saves (hr : s.modes.restReqd = true) (hp : s.modes.restPhase = 3) (hf : s.restFails3 = []) :
    execRestEntryStep r s = .next ((s.phase 4).onPorts Port.withSave) := by
  rw [execRestEntryStep, if_neg (by rw [hr]; decide), hp, State.restCheck_saves hf]
  rfl

theorem execRestEntryStep_saved (hr : s.modes.restReqd = true) (hp : s.modes.restPhase = 4)
    (hs : ∀ m, (s.mp m).saved = true ∧ (s.mp m).saveErr = false) : execRestEntryStep r s = .next (s.phase 5).gateAtts := by
  have hnone : firstOf 7 2 32 (fun m => (s.mp (BitVec.ofNat 5 m)).saveErr) = [] := firstOf_eq_nil fun k => (hs _).2
  have hphase : s.modes.restPhase.toNat = 4 := congrArg BitVec.toNat hp
  rw [execRestEntryStep, if_neg (by rw [hr]; decide), hphase]
  dsimp only
  rw [hnone]
  dsimp only
  rw [if_pos (allPorts_all fun m => (hs m).1)]
  rfl

theorem State.portsGated_ports : s.portsGated.ports = (s.onPorts (fun p => { p with gate := .drained })).ports := by
  rw [State.portsGated, State.onPorts]

theorem State.portsGated_gate : (s.portsGated.mp m).gate = .drained := by
  rw [State.mp, State.portsGated_ports, ← State.mp, State.onPorts_mp]

theorem State.portsGated_pins : s.portsGated.pins.memOffOk = 0xFFFF := by rw [State.portsGated]

theorem State.portsGated_agreeOff : s.agreeOff [.pins, .ports] s.portsGated := State.agreeOff_of_kept (by decide) State.portsGated_kept

theorem execRestEntryStep_gated (hr : s.modes.restReqd = true) (hp : s.modes.restPhase = 5) (ha : ∀ k, (s.att k).gate = .drained)
    (hm : ∀ m, (s.mp m).gate = .closing ∧ (s.mp m).quiet = true ∧ s.portBounces m = true) :
    execRestEntryStep r s = .next (s.portsGated.phase 6) := by
  have hatts : allAtts.all (fun k => decide ((s.att k).gate = .drained)) = true := List.all_eq_true.mpr fun k _ => decide_eq_true (ha k)
  have hports : allPorts.all (fun m => decide ((s.mp m).gate = .closing)) = true := allPorts_all fun m => decide_eq_true (hm m).1
  have hquiet : allPorts.all (fun m => (s.mp m).quiet && s.portBounces m) = true :=
    allPorts_all fun m => Bool.and_eq_true_iff.mpr (hm m).2
  have hphase : s.modes.restPhase.toNat = 5 := congrArg BitVec.toNat hp
  rw [execRestEntryStep, if_neg (by rw [hr]; decide), hphase]
  dsimp only
  rw [hatts, hports, hquiet]
  rfl

/-- The gate of an attachment that is OPEN begins to close, for REST. -/
def State.restGate (s : State) (k : AttId) : State :=
  if (s.att k).gate = .opened then (s.modAtt k (fun a => { a with restGated := true })).gateStart k else s

theorem State.gateAtts_eq : s.gateAtts = allAtts.foldl State.restGate s := rfl

theorem State.gateAtts_agreeOff : s.agreeOff [.atts, .routers] s.gateAtts := State.agreeOff_of_kept (by decide) State.gateAtts_kept

theorem State.restGate_att_ne {j : AttId} (h : k ≠ j) : (s.restGate j).att k = s.att k := by
  unfold State.restGate
  split
  · rw [State.gateStart_att, if_neg h, State.att_modAtt, if_neg h]
  · rfl

theorem State.restGate_closes (h : (s.att k).gate = .opened) :
    ((s.restGate k).att k).gate = .closing ∧ ((s.restGate k).att k).restGated = true := by
  rw [State.restGate, if_pos h, State.gateStart_att, if_pos rfl, State.att_modAtt_self]
  exact ⟨rfl, rfl⟩

theorem State.gateAtts_closes (h : (s.att k).gate = .opened) :
    (s.gateAtts.att k).gate = .closing ∧ (s.gateAtts.att k).restGated = true := by
  rw [State.gateAtts_eq]
  exact State.foldl_of_nodup (view := fun s : State => s.att k) (f := State.restGate)
    (R := fun x y => x.gate = .opened → y.gate = .closing ∧ y.restGated = true) mem_allAtts nodup_allAtts
    (fun _ hx => State.restGate_closes hx) (fun _ _ hj => State.restGate_att_ne hj.symm) h

/-- REST, with the M that the last step measured. -/
def State.rested (s : State) (r : BitVec 24) : State :=
  ((({ s with plinth := { s.plinth with retM := r } }).setReg 0x30C24 (r.setWidth 32))).toRest

/-- REST before the reservations end. -/
def State.resting (s : State) (r : BitVec 24) : State :=
  { (s.setReg 0x30C24 (r.setWidth 32)).incF ⟨0x7001C, 0, 16⟩ with
    modes := { s.modes with mode := .rest, restReqd := false, restPhase := 0, wakeLatch := 0 },
    plinth := { s.plinth with retM := r, restEntry := s.now }, pins := { s.pins with coreOffOk := true } }

theorem State.rested_eq : s.rested r = (s.resting r).noRsvs := rfl

theorem State.noRsvs_agreeOff : s.agreeOff [.regs, .slices] s.noRsvs := State.agreeOff_of_kept (by decide) State.noRsvs_kept

theorem execRestEntryStep_rests (hr : s.modes.restReqd = true) (hp : s.modes.restPhase = 6) : execRestEntryStep r s
    = .next (if s.modes.wakeLatch = 0 then s.rested r else (s.rested r).wakeNow s.modes.wakeLatch) := by
  rw [execRestEntryStep, if_neg (by rw [hr]; decide), hp]
  rfl

theorem State.rested_modes : (s.rested r).modes = (s.resting r).modes := by
  rw [State.rested_eq, State.noRsvs_agreeOff .modes (by decide)]

theorem State.rested_plinth : (s.rested r).plinth = (s.resting r).plinth := by
  rw [State.rested_eq, State.noRsvs_agreeOff .plinth (by decide)]

theorem State.rested_pins : (s.rested r).pins = (s.resting r).pins := by
  rw [State.rested_eq, State.noRsvs_agreeOff .pins (by decide)]

/-- The ending of the reservations writes the slices' words alone. -/
theorem State.rested_reg {a : Nat} (ha : a < 0x7003C) :
    (s.rested r).reg a = ((s.setReg 0x30C24 (r.setWidth 32)).incF ⟨0x7001C, 0, 16⟩).reg a := by
  rw [State.rested_eq, (State.Stands.refl.noRsvs).words a ha]
  rfl

theorem State.rested_retM : (s.rested r).reg 0x30C24 = r.setWidth 32 := by
  rw [State.rested_reg (by decide), State.incF, State.addF, State.reg_putF_ne (by decide), State.reg_setReg_self]

theorem State.rested_count : (s.rested r).fld ⟨0x7001C, 0, 16⟩ = min 65535 (s.fld ⟨0x7001C, 0, 16⟩ + 1) := by
  rw [State.fld, State.rested_reg (by decide), ← State.fld, State.fld_incF (by decide)]
  rw [State.fld, State.reg_setReg, if_neg (by decide)]
  rfl

/-! ## A wake begins the exit (R285, R286) -/

theorem State.wakeNow_fld {l : BitVec 2} : (s.wakeNow l).fld ⟨0x70020, 9, 2⟩ = l.toNat :=
  (State.fld_putF (s := s) (f := ⟨0x70020, 9, 2⟩) (by decide)).trans (Nat.mod_eq_of_lt l.isLt)

theorem State.wakeNow_mode {l : BitVec 2} : (s.wakeNow l).mode = s.mode := rfl
theorem State.wakeNow_modes {l : BitVec 2} : (s.wakeNow l).modes = s.modes := rfl
theorem State.wakeNow_plinth {l : BitVec 2} : (s.wakeNow l).plinth = s.plinth := rfl
theorem State.wakeNow_pins {l : BitVec 2} : (s.wakeNow l).pins = { s.pins with wakeOut := true, coreOffOk := false } := rfl

theorem State.wakeNow_reg {l : BitVec 2} {a : Nat} (h : a ≠ 0x70020) : (s.wakeNow l).reg a = s.reg a := State.reg_putF_ne h

theorem State.wakeNow_fld_apart {l : BitVec 2} (h : f.addr ≠ 0x70020) : (s.wakeNow l).fld f = s.fld f := by
  rw [State.fld, State.wakeNow_reg h, State.fld]

/-! ## The clauses of O43 -/

theorem execRestReq_decided (hu : s.portUp = true) (h : s.restMay) :
    execRestReq s = .next (s.restAsked.restDecided s.restFails1) :=
  (if_pos hu).trans (congrArg _ (State.restReq_decided h))

theorem State.restDecided_drains (hm : s.mode = .serve ∨ s.mode = .shed) :
    (s.restAsked.restDecided []).mode = .quiesce ∧ (s.restAsked.restDecided []).modes.restReqd = true
      ∧ (s.restAsked.restDecided []).modes.restPhase = 2 ∧ (s.restAsked.restDecided []).modes.drainStep = 1
      ∧ (s.restAsked.restDecided []).atts = s.atts ∧ (s.restAsked.restDecided []).ports = s.ports := by
  rw [State.mode, State.restDecided_enters hm]
  exact ⟨rfl, rfl, rfl, rfl, State.restDecided_agreeOff .atts (by decide), State.restDecided_agreeOff .ports (by decide)⟩

theorem State.refuseRest_records {rest : List (Nat × Nat × Nat)} (h : s.mode ≠ .quiesce) (hx : x.1 < 8) :
    (s.refuseRest (x :: rest)).mode = s.mode ∧ (s.refuseRest (x :: rest)).modes.restReqd = false
      ∧ (s.refuseRest (x :: rest)).fld ⟨0x70010, 0, 16⟩ = min 65535 (s.fld ⟨0x70010, 0, 16⟩ + 1)
      ∧ (s.refuseRest (x :: rest)).fld ⟨0x70010, 16, 3⟩ = x.1 ∧ (s.refuseRest (x :: rest)).slices = s.slices := by
  have hoff : s.agreeOff [.modes, .regs, .ports, .mesh, .cast, .events, .cox] (s.refuseRest (x :: rest)) :=
    State.agreeOff_of_kept (by decide) State.refuseRest_kept
  rw [State.mode, State.refuseRest_modes h, State.stopEntry_modes]
  exact ⟨rfl, rfl, State.refuseRest_count, State.refuseRest_reason hx, hoff .slices (by decide)⟩

theorem execRestReq_counts (hu : s.portUp = true) (hm : s.mode = .boot ∨ s.mode = .calibrate ∨ s.mode = .hold) :
    execRestReq s = .next (s.incF ⟨0x70010, 19, 8⟩) := by
  refine (if_pos hu).trans (congrArg _ ?_)
  unfold State.restReq
  rcases hm with hm | hm | hm <;> rw [hm]

theorem State.savesAsked_leaves : ((s.phase 4).onPorts Port.withSave).modes.restPhase = 4
    ∧ (∀ m, (((s.phase 4).onPorts Port.withSave).mp m).waitq = ((s.mp m).withSave).waitq)
    ∧ ((s.phase 4).onPorts Port.withSave).slices = s.slices ∧ ((s.phase 4).onPorts Port.withSave).atts = s.atts := by
  have hoff := State.onPorts_agreeOff (s := s.phase 4) (g := Port.withSave)
  exact ⟨congrArg Modes.restPhase (hoff .modes (by decide)),
    fun m => congrArg Port.waitq (State.onPorts_mp (s := s.phase 4) (g := Port.withSave)), hoff .slices (by decide),
    hoff .atts (by decide)⟩

theorem State.attsGated_leaves : (s.phase 5).gateAtts.modes.restPhase = 5
    ∧ (∀ k, (s.att k).gate = .opened → ((s.phase 5).gateAtts.att k).gate = .closing ∧ ((s.phase 5).gateAtts.att k).restGated = true)
    ∧ (s.phase 5).gateAtts.slices = s.slices ∧ (s.phase 5).gateAtts.ports = s.ports := by
  have hoff := State.gateAtts_agreeOff (s := s.phase 5)
  exact ⟨congrArg Modes.restPhase (hoff .modes (by decide)), fun k => State.gateAtts_closes (s := s.phase 5), hoff .slices (by decide),
    hoff .ports (by decide)⟩

theorem State.portsGated_leaves : (s.portsGated.phase 6).modes.restPhase = 6 ∧ (s.portsGated.phase 6).pins.memOffOk = 0xFFFF
    ∧ (∀ m, ((s.portsGated.phase 6).mp m).gate = .drained) ∧ (s.portsGated.phase 6).slices = s.slices
    ∧ (s.portsGated.phase 6).atts = s.atts := by
  have hoff := State.portsGated_agreeOff (s := s)
  rw [State.phase_restPhase, State.phase_pins, State.portsGated_pins, State.phase_slices, hoff .slices (by decide), State.phase_atts,
    hoff .atts (by decide)]
  exact ⟨rfl, rfl, fun m => by rw [State.phase_mp, State.portsGated_gate], rfl, rfl⟩

theorem execRestEntryStep_enters (hr : s.modes.restReqd = true) (hp : s.modes.restPhase = 6) :
    ∃ t, execRestEntryStep r s = .next t ∧ t.mode = .rest ∧ t.modes.restReqd = false
      ∧ t.plinth.retM = r ∧ t.plinth.restEntry = s.now ∧ t.reg 0x30C24 = r.setWidth 32
      ∧ t.fld ⟨0x7001C, 0, 16⟩ = min 65535 (s.fld ⟨0x7001C, 0, 16⟩ + 1)
      ∧ (s.modes.wakeLatch = 0 → t.pins.coreOffOk = true ∧ t.pins.wakeOut = s.pins.wakeOut)
      ∧ (s.modes.wakeLatch ≠ 0 → t.pins.coreOffOk = false ∧ t.pins.wakeOut = true
        ∧ t.fld ⟨0x70020, 9, 2⟩ = s.modes.wakeLatch.toNat) := by
  refine ⟨_, execRestEntryStep_rests hr hp, ?_⟩
  by_cases hl : s.modes.wakeLatch = 0
  · rw [if_pos hl, State.mode, State.rested_modes, State.rested_plinth, State.rested_pins, State.rested_retM, State.rested_count]
    exact ⟨rfl, rfl, rfl, rfl, rfl, rfl, fun _ => ⟨rfl, rfl⟩, fun h => absurd hl h⟩
  · rw [if_neg hl, State.wakeNow_fld_apart (by decide), State.wakeNow_fld, State.wakeNow_reg (by decide), State.wakeNow_mode,
      State.wakeNow_modes, State.wakeNow_plinth, State.wakeNow_pins, State.mode, State.rested_modes, State.rested_plinth,
      State.rested_retM, State.rested_count]
    exact ⟨rfl, rfl, rfl, rfl, rfl, rfl, fun h => absurd h hl, fun _ => ⟨rfl, rfl, rfl⟩⟩

/-- The drain's limit leads to the checks, whether or not the drain is complete. -/
theorem execRestDrainLimit_checks (hr : s.modes.restReqd = true) (hp : s.modes.restPhase = 2) :
    let u := s.reach (s.modes.restStart + 1000 * s.fld ⟨0x70008, 20, 12⟩)
    execRestDrainLimit s = .next
      (((if s.modes.drained = true then u else { u with modes := { u.modes with restLimit := true } }).phase 3).restCheck) := by
  have hd : (s.reach (s.modes.restStart + 1000 * s.fld ⟨0x70008, 20, 12⟩)).modes.drained = s.modes.drained := by rw [State.reach_modes]
  rw [← hd]
  exact if_pos ⟨hr, hp⟩

end RestEntry

/-- Settles O43: a request by what its reasons lead to, a step of the entry by the one part that it changes, REST by the Plinth, the
pins and the words that stand while the reservations end. -/
theorem restIsEntered : Obligations.RestIsEntered := by
  unfold Obligations.RestIsEntered
  refine ⟨fun s hu hm hr hw hp => ?_,
    fun s hu hm => ⟨_, execRestReq_counts hu hm, State.fld_incF (by decide), rfl⟩,
    fun r s hr => ⟨execRestEntryStep_drained hr, fun hp hf => ⟨_, execRestEntryStep_saves hr hp hf, State.savesAsked_leaves⟩,
      fun hp hs => ⟨_, execRestEntryStep_saved hr hp hs, State.attsGated_leaves⟩,
      fun hp ha hm => ⟨_, execRestEntryStep_gated hr hp ha hm, State.portsGated_leaves⟩, execRestEntryStep_enters hr⟩,
    fun s hr hp => ⟨fun hd => ?_, fun hd => ?_⟩⟩
  · have he := execRestReq_decided hu ⟨hm, hr, hw, hp⟩
    refine ⟨fun hf => ⟨_, hf ▸ he, State.restDecided_drains hm⟩, fun x rest hf => ⟨_, hf ▸ he, ?_⟩⟩
    have hne : s.restAsked.mode ≠ .quiesce := by rcases hm with hm | hm <;> exact hm.symm ▸ (by decide)
    exact State.refuseRest_records hne (State.restFails1_reason (hf ▸ List.mem_cons_self))
  · exact (execRestDrainLimit_checks hr hp).trans (by rw [if_pos hd])
  · exact (execRestDrainLimit_checks hr hp).trans (by rw [if_neg (by rw [hd]; decide)])

end Sys2Proof.Machine

/-! SUPPORT. Wakes: how the exit from REST begins, how the gates reopen, and how admission opens. -/

namespace Sys2Proof.Machine

section RestExit

variable {s t u : State} {m : PortId} {k j : AttId} {i n : Nat} {b c : BitVec 4} {l : BitVec 2} {ticks : BitVec 48}

/-! ## A wake in REST (R285) -/

theorem State.wake_in_rest (hm : s.mode = .rest) (hw : s.pins.wakeOut = false) : s.wake l = s.wakeNow l := by
  rw [State.wake, if_pos hm, hw]
  rfl

theorem execSidebandAddressMatch_wakes {a : BitVec 7} (hm : s.mode = .rest) (hw : s.pins.wakeOut = false)
    (he : s.fld ⟨0x70020, 7, 1⟩ = 1) (ha : a.toNat = s.fld ⟨0x70020, 0, 7⟩) :
    execSidebandAddressMatch a s = .next (s.wakeNow 1) :=
  (if_pos ⟨he, ha⟩).trans (congrArg _ (State.wake_in_rest hm hw))

theorem execWakeIn_wakes (hm : s.mode = .rest) (hw : s.pins.wakeOut = false) (he : s.fld ⟨0x70020, 8, 1⟩ = 1) :
    execWakeIn s = .next (s.wakeNow 2) :=
  (if_pos he).trans (congrArg _ (State.wake_in_rest hm hw))

theorem State.wakeNow_begins (hm : s.mode = .rest) : (s.wakeNow l).pins.wakeOut = true ∧ (s.wakeNow l).pins.coreOffOk = false
    ∧ (s.wakeNow l).fld ⟨0x70020, 9, 2⟩ = l.toNat ∧ (s.wakeNow l).mode = .rest ∧ (s.wakeNow l).plinth = s.plinth :=
  ⟨rfl, rfl, State.wakeNow_fld, hm, rfl⟩

/-! ## The clocks are back (R286, R370) -/

/-- QUIESCE on the way out of REST, with the timebase at the moment of the exit. -/
def State.awake (s : State) (n : Nat) : State := { s with modes := { s.modes with mode := .quiesce, restPhase := 7 } }.wakeTime n

/-- The exit is reported. -/
def State.exitNoted (s : State) : State :=
  (s.fire (evG 41)).logHw 6 0 (s.fld ⟨0x70020, 9, 2⟩ + 2 ^ 8 * s.fld ⟨0x30C28, 0, 32⟩)

theorem execRestExitStep_clocks (hm : s.mode = .rest) (hw : s.pins.wakeOut = true) (hn : s.modes.warm = none) (hc : s.clocksUp = true) :
    execRestExitStep ticks s = .next ((s.awake ticks.toNat).exitNoted).ungate :=
  if_pos ⟨hm, hw, hn, hc⟩

theorem State.wakeTime_now : (s.wakeTime n).plinth.now
    = max s.plinth.now (s.plinth.restEntry + n * s.plinth.retM.toNat * 10 / 1024) := by
  rw [← State.plinth_now_reach]
  unfold State.wakeTime
  dsimp only
  split <;> rfl

theorem State.wakeTime_agreeOff : s.agreeOff [.plinth, .regs, .cox] (s.wakeTime n) :=
  State.agreeOff_of_kept (by decide) State.wakeTime_kept

theorem State.exitNoted_agreeOff : s.agreeOff [.regs, .mesh, .events, .cox] s.exitNoted :=
  State.agreeOff_of_kept (by decide) fun hC hK => State.logHw_kept (Kept.sub _ hC rfl) (State.fire_kept (Kept.sub _ hC rfl) hK)

/-! ## The gates reopen (R184, R267, R286) -/

/-- Every memory port reopens, and its router with it. -/
def State.portsReopened (s : State) : State :=
  (List.range 8).foldl (fun s r => s.reconf (10 * r + 9) 0 (s.cfgAhead (10 * r + 9)).2) (s.onPorts Port.reopen)

/-- The gate of an attachment that was OPEN before the entry begins to reopen. -/
def State.restUngate (s : State) (k : AttId) : State :=
  if (s.att k).restGated then (s.toGate k .opening).modAtt k (fun a => { a with restGated := false }) else s

theorem State.ungate_eq : s.ungate = allAtts.foldl State.restUngate
    { s.portsReopened with pins := { s.portsReopened.pins with memOffOk := 0 } } := rfl

theorem State.portsReopened_ports : s.portsReopened.ports = (s.onPorts Port.reopen).ports :=
  State.agreeOff_of_kept (s := s.onPorts Port.reopen) (T := [.routers]) (by decide)
    (fun hC hK => Kept.fold _ (fun _ _ h => State.reconf_kept hC h) hK) .ports (by decide)

theorem State.restUngate_agreeOff : s.agreeOff [.pins, .atts] (s.restUngate k) :=
  State.agreeOff_of_kept (by decide) fun hC hK =>
    Kept.ite (State.modAtt_kept (Kept.sub _ hC rfl) (State.toGate_kept (Kept.sub _ hC rfl) hK)) hK

theorem State.restUngate_pin : (s.restUngate k).pins.memOffOk = s.pins.memOffOk := by
  unfold State.restUngate
  split <;> rfl

theorem State.restUngate_att_ne (h : k ≠ j) : (s.restUngate j).att k = s.att k := by
  unfold State.restUngate
  split
  · rw [State.att_modAtt, if_neg h, State.toGate_att, if_neg h]
  · rfl

theorem State.restUngate_opens (h : (s.att k).restGated = true) :
    ((s.restUngate k).att k).gate = .opening ∧ ((s.restUngate k).att k).restGated = false := by
  rw [State.restUngate, if_pos h, State.att_modAtt_self, State.toGate_att, if_pos rfl]
  exact ⟨rfl, rfl⟩

/-- Each of the edges that were OPEN begins to reopen; nothing but the edges and their pins changes. -/
def State.attsReopened (s : State) : State := allAtts.foldl State.restUngate s

theorem State.attsReopened_agreeOff : s.agreeOff [.pins, .atts] s.attsReopened := by
  rw [State.attsReopened]
  exact allAtts.foldlRecOn (motive := fun t => s.agreeOff [.pins, .atts] t) _ State.agreeOff_refl
    fun _ ht _ _ p hp => State.agree_trans (ht p hp) (State.restUngate_agreeOff p hp)

theorem State.attsReopened_pin : s.attsReopened.pins.memOffOk = s.pins.memOffOk := by
  rw [State.attsReopened]
  exact allAtts.foldlRecOn (motive := fun t : State => t.pins.memOffOk = s.pins.memOffOk) _ rfl
    fun _ ht _ _ => State.restUngate_pin.trans ht

theorem State.attsReopened_opens (h : (s.att k).restGated = true) :
    (s.attsReopened.att k).gate = .opening ∧ (s.attsReopened.att k).restGated = false :=
  State.foldl_of_nodup (view := fun s : State => s.att k) (f := State.restUngate)
    (R := fun x y => x.restGated = true → y.gate = .opening ∧ y.restGated = false) mem_allAtts nodup_allAtts
    (fun _ hx => State.restUngate_opens hx) (fun _ _ hj => State.restUngate_att_ne hj.symm) h

theorem State.portsReopened_agreeOff : s.agreeOff [.ports, .routers] s.portsReopened :=
  State.agreeOff_of_kept (by decide) fun hC hK => Kept.fold _ (fun _ _ h => State.reconf_kept (Kept.sub _ hC rfl) h)
    (Kept.fold _ (fun _ _ h => State.modMp_kept (Kept.sub _ hC rfl) h) hK)

theorem State.ungate_mp : s.ungate.mp m = (s.mp m).reopen := by
  rw [State.ungate_eq, ← State.attsReopened, State.mp, State.attsReopened_agreeOff .ports (by decide), State.portsReopened_ports,
    ← State.mp, State.onPorts_mp]

theorem State.ungate_pin : s.ungate.pins.memOffOk = 0 := by rw [State.ungate_eq, ← State.attsReopened, State.attsReopened_pin]

theorem State.ungate_opens (h : (s.att k).restGated = true) :
    (s.ungate.att k).gate = .opening ∧ (s.ungate.att k).restGated = false := by
  rw [State.ungate_eq, ← State.attsReopened]
  refine State.attsReopened_opens ?_
  rw [State.att, State.portsReopened_agreeOff .atts (by decide), ← State.att, h]

theorem State.ungate_agreeOff : s.agreeOff [.pins, .atts, .ports, .routers] s.ungate := State.agreeOff_of_kept (by decide) State.ungate_kept

/-- What the exit leaves once the clocks are back. -/
theorem execRestExitStep_reopens (hm : s.mode = .rest) (hw : s.pins.wakeOut = true) (hn : s.modes.warm = none) (hc : s.clocksUp = true) :
    ∃ t, execRestExitStep ticks s = .next t ∧ t.mode = .quiesce ∧ t.modes.restPhase = 7
      ∧ t.now = max s.now (s.plinth.restEntry + ticks.toNat * s.plinth.retM.toNat * 10 / 1024) ∧ t.pins.memOffOk = 0
      ∧ (∀ m, (t.mp m).gate = .opening ∧ (t.mp m).mcmdC = Credits.reset ∧ (t.mp m).mwdataC = Credits.reset)
      ∧ ∀ k, (s.att k).restGated = true → (t.att k).gate = .opening ∧ (t.att k).restGated = false := by
  refine ⟨_, execRestExitStep_clocks hm hw hn hc, ?_⟩
  have hnoted : (s.awake ticks.toNat).agreeOff [.regs, .mesh, .events, .cox] (s.awake ticks.toNat).exitNoted := State.exitNoted_agreeOff
  have htime := State.wakeTime_agreeOff (s := { s with modes := { s.modes with mode := .quiesce, restPhase := 7 } }) (n := ticks.toNat)
  have hmodes : ((s.awake ticks.toNat).exitNoted).ungate.modes = { s.modes with mode := .quiesce, restPhase := 7 } := by
    rw [State.ungate_agreeOff .modes (by decide), hnoted .modes (by decide)]
    exact htime .modes (by decide)
  have hatts : ((s.awake ticks.toNat).exitNoted).atts = s.atts := by
    rw [hnoted .atts (by decide)]
    exact htime .atts (by decide)
  rw [State.mode, hmodes, State.ungate_pin, State.now, State.ungate_agreeOff .plinth (by decide), hnoted .plinth (by decide)]
  refine ⟨rfl, rfl, State.wakeTime_now, rfl, fun m => ?_, fun k hk => State.ungate_opens ?_⟩
  · rw [State.ungate_mp]
    exact ⟨rfl, rfl, rfl⟩
  · rw [State.att, hatts, ← State.att, hk]

/-! ## A port's gate is OPEN once its router passes messages (R286) -/

/-- Which state each port's gate is in. -/
def State.portGates (s : State) (m : PortId) : GateSt := (s.mp m).gate

theorem State.portGates_of_ports (h : t.ports = s.ports) : t.portGates = s.portGates := by
  funext m
  rw [State.portGates, State.mp, h, State.portGates, State.mp]

theorem State.portGates_modMp {g : Port → Port} (h : ∀ p, (g p).gate = p.gate) : (s.modMp m g).portGates = s.portGates := by
  funext j
  rw [State.portGates, State.mp_modMp]
  split
  · next hj => rw [h, hj, State.portGates]
  · rfl

theorem State.portGates_ite {q : Prop} [Decidable q] (ht : t.portGates = s.portGates) (hu : u.portGates = s.portGates) :
    (if q then t else u).portGates = s.portGates := by
  split
  · exact ht
  · exact hu

/-- A command goes into a port's queue or comes back: the gates stay. -/
theorem State.portGates_delivered {q : Prop} [Decidable q] {g : Port → Port} (hg : ∀ p, (g p).gate = p.gate)
    (ht : t.ports = s.ports) (hu : u.ports = s.ports) : (if q then t.modMp m g else u).portGates = s.portGates :=
  State.portGates_ite ((State.portGates_modMp hg).trans (State.portGates_of_ports ht)) (State.portGates_of_ports hu)

theorem State.portGates_sendCmd {d : MemCmd} : (s.sendCmd d).portGates = s.portGates :=
  State.portGates_delivered (fun _ => by rfl) rfl rfl

theorem State.portGates_sendCast {d : CastCmd} : (s.sendCast d).portGates = s.portGates :=
  State.portGates_delivered (fun _ => by rfl) rfl rfl

theorem State.portGates_sendSweep {f : JoinedFence} : (s.sendSweep m f).portGates = s.portGates :=
  State.portGates_delivered (fun _ => by rfl) rfl rfl

theorem State.portGates_handleBounced {d : Bounced} : (s.handleBounced d).portGates = s.portGates := by
  cases d with
  | snoop | ndr | pull | rpt => rfl
  | cmd => exact State.portGates_ite (State.portGates_of_ports rfl) State.portGates_sendCmd
  | cast => exact State.portGates_ite (State.portGates_of_ports rfl) State.portGates_sendCast
  | sweep => exact State.portGates_ite (State.portGates_of_ports rfl) State.portGates_sendSweep
  | rehome => exact State.portGates_of_ports (State.toNew_ports.trans State.count_ports)

/-- The commands kept for a port that reopens go where they were sent, and no gate changes. -/
theorem State.portGates_unpark : s.unpark.portGates = s.portGates :=
  List.foldlRecOn (motive := fun t : State => t.portGates = s.portGates) _ _ (State.portGates_of_ports rfl)
    fun _ ht _ _ => State.portGates_handleBounced.trans ht

theorem State.unpark_router : s.unpark.router i = s.router i :=
  State.router_of (State.agreeOff_of_kept (T := [.regs, .slices, .ports, .mesh, .events, .cnts]) (by decide) State.unpark_kept .routers
    (by decide))

/-- A port's gate with its bounce bit. -/
def State.portView (s : State) (m : PortId) : GateSt × Bool := (s.portGates m, s.portBounces m)

/-- One port's gate is OPEN if its router passes messages again. -/
def State.portGateStep (s : State) (i : Nat) (m : PortId) : State :=
  if portRouter m = i ∧ (s.mp m).gate = .opening ∧ !s.portBounces m then
    ((s.modMp m (fun p => { p with gate := .opened })).putF (Fld.mp m 0x118 16 16) 0).unpark
  else s

theorem State.gateOpenedMp_eq : s.gateOpenedMp i = allPorts.foldl (fun s m => s.portGateStep i m) s := rfl

theorem State.portGates_opened {g : Port → Port} {f : Fld} : (((s.modMp m g).putF f n).unpark).portGates = (s.modMp m g).portGates :=
  State.portGates_unpark.trans (State.portGates_of_ports rfl)

theorem State.portView_portGateStep_ne {p : PortId} (h : m ≠ p) : (s.portGateStep i p).portView m = s.portView m := by
  unfold State.portGateStep
  split
  · have hb := State.portBounces_of (j := m) (s := s) fun j => State.unpark_router (i := j)
      (s := (s.modMp p (fun p => { p with gate := .opened })).putF (Fld.mp p 0x118 16 16) 0)
    rw [State.portView, State.portGates_opened, hb, State.portGates, State.mp_modMp, if_neg h]
    rfl
  · rfl

theorem State.portGates_portGateStep (hi : portRouter m = i) (h : s.portView m = (.opening, false)) :
    ((s.portGateStep i m).portView m).1 = .opened := by
  obtain ⟨hg, hb⟩ := Prod.mk.inj h
  rw [State.portGateStep, if_pos ⟨hi, hg, by rw [hb]; rfl⟩, State.portView, State.portGates_opened, State.portGates,
    State.mp_modMp_self]

theorem State.portGates_gateOpenedMp (hi : portRouter m = i) (h : s.portView m = (.opening, false)) :
    (s.gateOpenedMp i).portGates m = .opened := by
  rw [State.gateOpenedMp_eq]
  exact State.foldl_of_nodup (view := fun s : State => s.portView m) (f := fun s m => s.portGateStep i m)
    (R := fun x y => x = (.opening, false) → y.1 = .opened) mem_allPorts nodup_allPorts
    (fun _ hx => State.portGates_portGateStep hi hx) (fun _ _ hj => State.portView_portGateStep_ne hj.symm) h

theorem State.resume_agreeOff : s.agreeOff [.modes, .pins, .regs, .atts, .mesh, .routers, .events, .counts, .cox] (s.resume i) :=
  State.agreeOff_of_kept (by decide) State.resume_kept

theorem State.reconfigured_ports : (s.reconfigured i b c).ports = s.ports :=
  State.resume_agreeOff (s := s.switchedTo i b c) (i := i) .ports (by decide)

theorem State.gateOpened_reconfigured_view (hi : i = portRouter m) (hg : (s.mp m).gate = .opening)
    (hb : b.getLsbD (m.toNat % 4) = false) : ((s.reconfigured i b c).gateOpened i).portView m = (.opening, false) := by
  have hports : ((s.reconfigured i b c).gateOpened i).ports = s.ports :=
    (State.gateOpened_agreeOff .ports (by decide)).trans State.reconfigured_ports
  have hrouter (j : Nat) : ((s.reconfigured i b c).gateOpened i).router j = (s.reconfigured i b c).router j :=
    State.router_of (State.gateOpened_agreeOff .routers (by decide))
  rw [State.portView, State.portGates_of_ports hports, State.portGates, hg, State.portBounces_of hrouter, State.portBounces,
    State.bounces, ← hi, State.reconfigured_router.1, hb]

/-! ## Admission opens (R279, R286) -/

theorem execRestExitStep_admits (hm : s.mode = .quiesce) (hp : s.modes.restPhase = 7) (hf : s.modes.pwrFail = false)
    (hr : ∀ m, (s.mp m).ready = true) :
    execRestExitStep ticks s = .next ({ s with pins := { s.pins with wakeOut := false } }).openAdmission :=
  (if_neg fun h => by rw [hm] at h; exact absurd h.1 (by decide)).trans (if_pos ⟨hm, hp, hf, allPorts_all hr⟩)

theorem State.openAdmission_agreeOff : s.agreeOff [.modes, .regs, .slices, .ports, .mesh, .cast, .events, .cox] s.openAdmission :=
  State.agreeOff_of_kept (by decide) State.openAdmission_kept

theorem State.openAdmission_restPhase : s.openAdmission.modes.restPhase = 0 := by
  unfold State.openAdmission
  dsimp only
  split
  · rw [State.enterQuiesce_of_admits, State.startDrain_modes, State.toMode_modes]
    rw [State.mode, State.toMode_modes]
    exact State.admitMode_cases
  · rw [State.toMode_modes]

end RestExit

/-- Settles O44: a wake by the pins and the word that it writes, the exit by what every port and every edge does alike, the end of a port's
reopening as the step of one port among those of its router. -/
theorem wakesLeaveRest : Obligations.WakesLeaveRest := by
  unfold Obligations.WakesLeaveRest
  refine ⟨fun a s hm hw he ha => ⟨_, execSidebandAddressMatch_wakes hm hw he ha, State.wakeNow_begins hm⟩,
    fun s hm hw he => ⟨_, execWakeIn_wakes hm hw he, State.wakeNow_begins hm⟩, fun n s => execRestExitStep_reopens,
    fun m i b c s hi hr hb hg hbit => ⟨_, execRouterReconfigSwitch_drained hr hb,
      State.portGates_gateOpenedMp hi.symm (State.gateOpened_reconfigured_view hi hg hbit)⟩, fun n s hm hp hf hr => ?_⟩
  obtain ⟨hmode, -, hagents⟩ := State.openAdmission_opens (s := { s with pins := { s.pins with wakeOut := false } })
  have hoff := State.openAdmission_agreeOff (s := { s with pins := { s.pins with wakeOut := false } })
  exact ⟨_, execRestExitStep_admits hm hp hf hr, congrArg Pins.wakeOut (hoff .pins (by decide)), State.openAdmission_restPhase, hmode,
    hagents, hoff .atts (by decide)⟩

end Sys2Proof.Machine

/-! SUPPORT. Resets, BIST and power: what a reset leaves outside the Plinth, how BOOT begins, and the loss of a rail. -/

namespace Sys2Proof.Machine

section Resets

variable {s t : State} {m : PortId} {i : SliceId} {md : Mode} {x : BitVec 16} {kh : BitVec 384} {kv : Bool} {fl : BitVec 16}

/-! ## What a reset leaves (R414; log 60) -/

/-- Every port's epoch begins now. -/
def State.portClocks (s : State) : State := allPorts.foldl (fun s m => s.modMp m (fun p => { p with epochAt := s.now })) s

/-- Every slice's decay period begins now. -/
def State.sliceClocks (s : State) : State := allSlices.foldl (fun s i => s.modSl i (fun x => { x with decayAt := s.now })) s

theorem State.startClocks_eq : s.startClocks = s.portClocks.sliceClocks := rfl

theorem State.portClocks_agreeOff : s.agreeOff [.ports] s.portClocks :=
  State.agreeOff_of_kept (by decide) fun hC hK => Kept.fold _ (fun _ _ h => State.modMp_kept hC h) hK

theorem State.sliceClocks_agreeOff : s.agreeOff [.slices] s.sliceClocks :=
  State.agreeOff_of_kept (by decide) fun hC hK => Kept.fold _ (fun _ _ h => State.modSl_kept hC h) hK

theorem State.portClocks_mp : s.portClocks.mp m = { s.mp m with epochAt := s.now } := by
  have h := State.foldl_of_nodup (s := s) (view := fun s : State => (s.mp m, s.now)) (R := fun x y => y.1 = { x.1 with epochAt := x.2 })
    (f := fun s m => s.modMp m (fun p => { p with epochAt := s.now })) mem_allPorts nodup_allPorts (fun _ => State.mp_modMp_self)
    fun _ _ hj => Prod.ext (by rw [State.mp_modMp, if_neg hj.symm]) rfl
  dsimp only at h
  exact h

theorem State.sliceClocks_sl : s.sliceClocks.sl i = { s.sl i with decayAt := s.now } := by
  have h := State.foldl_of_nodup (s := s) (view := fun s : State => (s.sl i, s.now)) (R := fun x y => y.1 = { x.1 with decayAt := x.2 })
    (f := fun s i => s.modSl i (fun x => { x with decayAt := s.now })) mem_allSlices nodup_allSlices (fun _ => State.sl_modSl_self)
    fun _ _ hj => Prod.ext (by rw [State.sl_modSl, if_neg hj.symm]) rfl
  dsimp only at h
  exact h

theorem State.startClocks_sl : s.startClocks.sl i = { s.sl i with decayAt := s.now } := by
  have hoff := State.portClocks_agreeOff (s := s)
  rw [State.startClocks_eq, State.sliceClocks_sl, State.now, hoff .plinth (by decide), State.sl, hoff .slices (by decide), ← State.sl,
    ← State.now]

theorem State.startClocks_mp : s.startClocks.mp m = { s.mp m with epochAt := s.now } := by
  rw [State.startClocks_eq, State.mp, State.sliceClocks_agreeOff .ports (by decide), ← State.mp, State.portClocks_mp]

/-- A reset before the clocks of the slices and the ports begin. -/
def State.wiped (s : State) (md : Mode) : State :=
  { State.reset with
    pending := s.pending, plinth := s.plinth, regs := s.plinthRegs, freeCtr := s.freeCtr,
    calAt := (s.now / 1000000 + 1) * 1000000, castMem := s.castKept,
    boot := { Boot.reset with st := .held },
    modes := { Modes.reset with
      mode := md, coldPin := s.modes.coldPin, warmPin := s.modes.warmPin, aonPin := s.modes.aonPin, alert := s.modes.alert,
      bistBusy := s.modes.bistBusy, bistUndef := s.modes.bistUndef, railCore := s.modes.railCore,
      railSram := s.modes.railSram, railAon := s.modes.railAon } }

theorem State.resetCore_eq : s.resetCore md = (s.wiped md).startClocks := rfl

/-- What a reset to a mode leaves of the state before it (R414): the Plinth with its words, the lines of the cast store that are known, and
a block that is otherwise blank. -/
structure State.ResetTo (s : State) (md : Mode) (t : State) : Prop where
  modes : t.modes = (s.wiped md).modes
  boot : t.boot.st = .held
  plinth : t.plinth = s.plinth
  regs : t.regs = s.plinthRegs
  mem : t.castMem = s.castKept
  blank : t.blank

theorem State.resetCore_resets : s.ResetTo md (s.resetCore md) := by
  have hoff : (s.wiped md).agreeOff [.slices, .ports] (s.resetCore md) := State.startClocks_agreeOff
  have hplinth : (s.resetCore md).plinth = s.plinth := hoff .plinth (by decide)
  have hnow : (s.resetCore md).now = s.now := congrArg Plinth.now hplinth
  refine ⟨hoff .modes (by decide), congrArg Boot.st (hoff .boot (by decide)), hplinth, hoff .regs (by decide), hoff .mem (by decide),
    hoff .agents (by decide), hoff .atts (by decide), fun i => ?_, fun m => ?_⟩
  · rw [hnow, State.resetCore_eq, State.startClocks_sl]
    rfl
  · rw [hnow, State.resetCore_eq, State.startClocks_mp]
    rfl

/-- Blankness rests on the agents, the units and the time. -/
theorem State.blank_of (h : s.blank) (ha : t.agents = s.agents) (hk : t.atts = s.atts) (hs : t.slices = s.slices) (hp : t.ports = s.ports)
    (hn : t.plinth = s.plinth) : t.blank := by
  have hnow : t.now = s.now := congrArg Plinth.now hn
  obtain ⟨hagents, hatts, hsl, hmp⟩ := h
  refine ⟨ha.trans hagents, hk.trans hatts, fun i => ?_, fun m => ?_⟩
  · rw [State.sl, hs, hnow, ← State.sl, hsl]
  · rw [State.mp, hp, hnow, ← State.mp, hmp]

/-! ## Warm reset (R291, R395, R415) -/

/-- The assertion is seen. -/
def State.warmSeen (s : State) : State := { s with modes := { s.modes with warmPin := true } }

theorem State.warmReset_drains (hm : s.mode = .serve ∨ s.mode = .shed) (hw : s.modes.warm = none) (hd : s.modes.warmDone = false)
    (hf : s.fld ⟨0x70000, 2, 1⟩ = 0) : s.warmReset = s.warmSeen.warmDrain.startDrain := by
  have hidle : ¬ (s.modes.warm.isSome = true ∨ s.modes.warmDone = true) := by rw [hw, hd]; decide
  have hfull : ¬ (s.fld ⟨0x70000, 2, 1⟩ = 1 ∧ s.mode ≠ .off) := fun h => by rw [hf] at h; exact absurd h.1 (by decide)
  have hseen : ({ s with modes := { s.modes with warmPin := true } } : State).mode = s.mode := rfl
  refine (if_neg hidle).trans ((if_neg hfull).trans ?_)
  dsimp only
  rw [hseen]
  rcases hm with hm | hm <;> rw [hm] <;> rfl

/-- From BOOT and HOLD a warm reset takes effect at once, whatever MODE_CTRL says. -/
theorem State.warmReset_at_once (hm : s.mode = .boot ∨ s.mode = .hold) (hw : s.modes.warm = none) (hd : s.modes.warmDone = false) :
    s.warmReset = s.warmSeen.warmEffect false := by
  have hidle : ¬ (s.modes.warm.isSome = true ∨ s.modes.warmDone = true) := by rw [hw, hd]; decide
  refine (if_neg hidle).trans ?_
  split
  · rfl
  · have hseen : ({ s with modes := { s.modes with warmPin := true } } : State).mode = s.mode := rfl
    rw [hseen]
    rcases hm with hm | hm <;> rw [hm] <;> rfl

/-- The internal reset while the input is asserted. -/
theorem State.warmEffect_held {whole : Bool} (h : s.modes.warmPin = true) : s.warmEffect whole = { s.resetCore .boot with
    modes := { (s.resetCore .boot).modes with warmDone := true, afterWarm := whole },
    pins := { (s.resetCore .boot).pins with fatalOut := s.pins.fatalOut } } := by
  unfold State.warmEffect
  dsimp only
  rw [if_pos h]

theorem State.warmSeen_effect : (s.warmSeen.warmEffect false).mode = .boot ∧ (s.warmSeen.warmEffect false).boot.st = .held
    ∧ (s.warmSeen.warmEffect false).modes.warmDone = true ∧ (s.warmSeen.warmEffect false).modes.afterWarm = false
    ∧ (s.warmSeen.warmEffect false).blank ∧ (s.warmSeen.warmEffect false).plinth = s.plinth
    ∧ (s.warmSeen.warmEffect false).regs = s.plinthRegs ∧ (s.warmSeen.warmEffect false).castMem = s.castKept
    ∧ (s.warmSeen.warmEffect false).pins.fatalOut = s.pins.fatalOut := by
  have h := State.resetCore_resets (s := s.warmSeen) (md := .boot)
  rw [State.warmEffect_held rfl]
  generalize s.warmSeen.resetCore .boot = u at *
  exact ⟨congrArg Modes.mode h.modes, h.boot, rfl, rfl, State.blank_of h.blank rfl rfl rfl rfl rfl, h.plinth, h.regs, h.mem, rfl⟩

theorem execWarmLimitExpiry_expires {t0 : Nat} (hw : s.modes.warm = some t0) (hm : s.mode ≠ .rest) :
    execWarmLimitExpiry s = .next ((s.reach (t0 + 1000000 * s.fld ⟨0x70008, 12, 8⟩)).warmEffect false) := by
  rw [execWarmLimitExpiry, hw]
  exact if_neg hm

/-! ## BOOT begins (R301, R390, R416) -/

theorem State.bootBegin_valid (h : s.plinth.keyValid = true) :
    s.bootBegin = { s with boot := { Boot.reset with start := s.now }, modes := { s.modes with mode := .boot } } := if_pos h

theorem execWarmResetRelease_boots (hd : s.modes.warmDone = true) (hk : s.plinth.keyValid = true) :
    ∃ t, execWarmResetRelease s = .next t ∧ t.mode = .boot ∧ t.boot.st = .start ∧ t.boot.start = s.now ∧ t.modes.warmPin = false
      ∧ t.modes.warmDone = false ∧ t.pins.fatalOut = false ∧ t.regs = s.regs :=
  ⟨_, (if_pos hd).trans (congrArg _ (State.bootBegin_valid hk)), rfl, rfl, rfl, rfl, rfl, rfl, rfl⟩

/-! ## A FATAL cause leaves the lower words (R390 to R392) -/

section Fatal

variable {a n cause kind num detail : Nat} {w : Word32} {k : AttId}

theorem State.Stands.setReg (h : State.Stands s t) (ha : 0x7003C ≤ a) : State.Stands s (t.setReg a w) :=
  h.trans ⟨rfl, rfl, rfl, rfl, fun _ hb => by rw [State.reg_setReg, if_neg (Nat.ne_of_lt (Nat.lt_of_lt_of_le hb ha))]⟩

theorem State.Stands.modesPins {y : Modes} {z : Pins} (h : State.Stands s t) (hl : y.level = t.modes.level)
    (hd : y.droops = t.modes.droops) (ha : y.alert = t.modes.alert) : State.Stands s { t with modes := y, pins := z } :=
  h.trans ⟨congrArg BitVec.toNat hl, hd, ha, rfl, fun _ _ => rfl⟩

theorem State.Stands.evLevel {v : Bool} (h : State.Stands s t) : State.Stands s (t.evLevel a v) :=
  h.trans (.of_parts State.evLevel_modes State.evLevel_plinth State.evLevel_regs)

theorem State.Stands.holdAnswer (h : State.Stands s t) : State.Stands s (t.holdAnswer k) := by
  unfold State.holdAnswer
  dsimp only
  generalize (t.att k).order.map (·.req) ++ (t.att k).waitIn = rs
  have hf : State.Stands s (rs.foldl (fun s r => s.egNdr k (errNdr r.q)) (t.addF ⟨0x70114, 16, 16⟩ rs.length)) :=
    rs.foldlRecOn (motive := State.Stands s) _ (h.putF (by decide)) fun u hu r _ => hu.trans (.of_parts rfl rfl rfl)
  exact hf.trans (.of_parts rfl rfl rfl)

theorem State.snapStart_reg (ha : a < 0x20010) : (s.snapStart n).reg a = s.reg a := by
  unfold State.snapStart
  split
  · exact State.reg_putF_ne (Nat.ne_of_lt ha)
  · rfl

/-- The record, the snapshot and the edges' answers stand in words above. -/
theorem State.fatal_reg_below (ha : a < 0x20010) : (s.fatal cause kind num detail).reg a = s.reg a := by
  have hbelow : a < 0x7003C := Nat.lt_trans ha (by decide)
  unfold State.fatal
  split
  · exact State.reg_putF_ne (Nat.ne_of_lt (Nat.lt_trans hbelow (by decide)))
  · refine ((State.Stands.fold fun _ _ => .holdAnswer .refl).words a hbelow).trans ?_
    rw [apply_ite (fun u : State => u.reg a), State.snapStart_reg ha, ite_self]
    have hnoted : State.Stands s (s.causeNoted cause kind num detail) :=
      .putF (.putF (.putF (.putF .refl (by decide)) (by decide)) (by decide)) (by decide)
    have hmode : State.Stands s ((((s.causeNoted cause kind num detail).setReg 0x70108 (BitVec.ofNat 32 s.now)).setReg 0x7010C
        (BitVec.ofNat 32 (s.now / 2 ^ 32))).toMode .hold) := .toMode (.setReg (.setReg hnoted (by decide)) (by decide))
    refine State.Stands.words (State.Stands.logHw (State.Stands.evLevel (State.Stands.modesPins hmode ?_ ?_ ?_))) a hbelow <;> rfl

theorem State.fatal_modes (h : s.held = false) : (s.fatal cause kind num detail).modes
    = { s.modes with mode := .hold, restReqd := false, restPhase := 0, drainStep := 0 } := by
  unfold State.fatal
  rw [if_neg (by rw [h]; decide)]
  dsimp only
  rw [State.holdAnswers_modes, apply_ite State.modes, State.snapStart_modes, ite_self, State.logHw_modes, State.evLevel_modes]
  dsimp only
  rw [State.toMode_modes]
  rfl

end Fatal

/-- BOOT without a valid root key, before its FATAL cause. -/
def State.bootFailed (s : State) : State :=
  { ((s.putF ⟨0x1000, 0, 2⟩ 3).putF ⟨0x1000, 2, 4⟩ 0xB).putF ⟨0x1000, 6, 4⟩ 0xB with
    boot := { Boot.reset with start := s.now, st := .failed }, modes := { s.modes with mode := .boot } }

theorem State.bootBegin_invalid (h : s.plinth.keyValid = false) : s.bootBegin = s.bootFailed.fatal 0xA 5 0 0 :=
  if_neg (by rw [h]; decide)

theorem State.bootBegin_fails (h : s.plinth.keyValid = false) : s.bootBegin.mode = .hold ∧ s.bootBegin.boot.st = .failed
    ∧ s.bootBegin.fld ⟨0x70100, 0, 8⟩ = 0xA ∧ s.bootBegin.fld ⟨0x1000, 2, 4⟩ = 0xB := by
  have hheld : s.bootFailed.held = false := rfl
  obtain ⟨hcause, -⟩ := State.fatal_record (cause := 0xA) (kind := 5) (num := 0) (detail := 0) hheld (by decide) (by decide) (by decide)
    (by decide)
  have hboot : (s.bootFailed.fatal 0xA 5 0 0).boot = s.bootFailed.boot := State.fatal_agreeOff .boot (by decide)
  have hslot : s.bootFailed.fld ⟨0x1000, 2, 4⟩ = 0xB :=
    (State.fld_putF_beside (s := (s.putF ⟨0x1000, 0, 2⟩ 3).putF ⟨0x1000, 2, 4⟩ 0xB)).trans (State.fld_putF (by decide))
  rw [State.bootBegin_invalid h, hboot, State.fatal_mode hheld, hcause, State.fld, State.fatal_reg_below (by decide), ← State.fld, hslot]
  exact ⟨rfl, rfl, rfl, rfl⟩

theorem State.bootBegin_plinth : s.bootBegin.plinth = s.plinth :=
  State.agreeOff_of_kept (T := [.modes, .pins, .boot, .regs, .atts, .mesh, .events, .counts, .cox]) (by decide) State.bootBegin_kept .plinth
    (by decide)

theorem State.bootBegin_coldPin : s.bootBegin.modes.coldPin = s.modes.coldPin := by
  cases h : s.plinth.keyValid with
  | true => rw [State.bootBegin_valid h]
  | false =>
    rw [State.bootBegin_invalid h, State.fatal_modes rfl]
    rfl

/-! ## Cold and aon reset (R414, R422) -/

/-- The inputs as sampled at the release. -/
def State.sampled (s : State) (x : BitVec 16) (kh : BitVec 384) (kv : Bool) (fl : BitVec 16) : State :=
  { s with
    plinth := { s.plinth with straps := x, keyHash := kh, keyValid := kv, svnFloor := fl },
    modes := { s.modes with coldPin := false, bistUndef := false } }

theorem execColdResetRelease_samples (hc : s.modes.coldPin = true) (ha : s.modes.aonPin = false) :
    execColdResetRelease x kh kv fl s = .next (if (s.modes.railCore && s.modes.railSram && s.modes.railAon) = true
      then (s.sampled x kh kv fl).bootBegin else s.sampled x kh kv fl) := by
  have hrails : (s.modes.aonPin || !s.modes.railCore || !s.modes.railSram || !s.modes.railAon)
      = !(s.modes.railCore && s.modes.railSram && s.modes.railAon) := by
    rw [ha, Bool.false_or, Bool.not_and, Bool.not_and]
  unfold execColdResetRelease
  rw [if_neg (by rw [hc]; decide)]
  dsimp only
  rw [hrails]
  cases s.modes.railCore && s.modes.railSram && s.modes.railAon <;> rfl

theorem execColdReset_resets : ∃ t, execColdReset s = .next t ∧ t.mode = (if s.mode = .off then .off else .boot)
    ∧ t.modes.coldPin = true ∧ t.boot.st = .held ∧ t.blank ∧ t.plinth = s.plinth ∧ t.regs = s.plinthRegs := by
  have h := State.resetCore_resets (s := s) (md := if s.mode = .off then .off else .boot)
  unfold execColdReset
  dsimp only
  generalize s.resetCore _ = u at *
  exact ⟨_, rfl, congrArg Modes.mode h.modes, rfl, h.boot, State.blank_of h.blank rfl rfl rfl rfl rfl, h.plinth, h.regs⟩

theorem execAonReset_resets : ∃ t, execAonReset s = .next t ∧ t.modes.aonPin = true ∧ t.plinth = Plinth.reset ∧ t.regs = []
    ∧ t.boot.st = .held ∧ t.blank := by
  have h := State.resetCore_resets (s := { s with plinth := Plinth.reset, regs := [] }) (md := if s.mode = .off then .off else .boot)
  unfold execAonReset
  dsimp only
  generalize State.resetCore _ _ = u at *
  exact ⟨_, rfl, rfl, h.plinth, h.regs, h.boot, State.blank_of h.blank rfl rfl rfl rfl rfl⟩

theorem execColdResetRelease_boots (hc : s.modes.coldPin = true) (ha : s.modes.aonPin = false) :
    ∃ t, execColdResetRelease x kh kv fl s = .next t ∧ t.modes.coldPin = false ∧ t.plinth.straps = x ∧ t.plinth.keyHash = kh
      ∧ t.plinth.svnFloor = fl
      ∧ ((s.modes.railCore && s.modes.railSram && s.modes.railAon) = false → t.mode = s.mode ∧ t.boot = s.boot)
      ∧ ((s.modes.railCore && s.modes.railSram && s.modes.railAon) = true → kv = true →
        t.mode = .boot ∧ t.boot.st = .start ∧ t.regs = s.regs)
      ∧ ((s.modes.railCore && s.modes.railSram && s.modes.railAon) = true → kv = false →
        t.mode = .hold ∧ t.boot.st = .failed ∧ t.fld ⟨0x70100, 0, 8⟩ = 0xA ∧ t.fld ⟨0x1000, 2, 4⟩ = 0xB) := by
  refine ⟨_, execColdResetRelease_samples hc ha, ?_⟩
  cases s.modes.railCore && s.modes.railSram && s.modes.railAon with
  | false => exact ⟨rfl, rfl, rfl, rfl, fun _ => ⟨rfl, rfl⟩, fun h => absurd h (by decide), fun h => absurd h (by decide)⟩
  | true =>
    rw [if_pos rfl, State.bootBegin_coldPin, State.bootBegin_plinth]
    refine ⟨rfl, rfl, rfl, rfl, fun h => absurd h (by decide), fun _ hk => ?_, fun _ hk => State.bootBegin_fails hk⟩
    rw [State.bootBegin_valid hk]
    exact ⟨rfl, rfl, rfl⟩

/-! ## Power (R419, R420) -/

theorem State.startDrain_agreeOff : s.agreeOff [.modes, .regs, .slices, .mesh, .events, .cox] s.startDrain :=
  State.agreeOff_of_kept (by decide) State.startDrain_kept

/-- The notice is taken. -/
def State.powerWarned (s : State) : State := { s with modes := { s.modes with pwrFail := true } }

theorem execPowerFail_drains (hm : s.mode = .serve ∨ s.mode = .shed) : execPowerFail s = .next s.powerWarned.startDrain := by
  have hseen : ({ s with modes := { s.modes with pwrFail := true } } : State).mode = s.mode := rfl
  have hon : s.mode ≠ .off := fun h => by simp [h] at hm
  refine (if_neg hon).trans ?_
  dsimp only
  rw [hseen]
  rcases hm with hm | hm <;> rw [hm] <;> rfl

theorem execPowerFail_raisesOff (hm : s.mode = .boot ∨ s.mode = .calibrate ∨ s.mode = .hold) :
    execPowerFail s = .next s.powerWarned.raiseOff := by
  have hseen : ({ s with modes := { s.modes with pwrFail := true } } : State).mode = s.mode := rfl
  have hon : s.mode ≠ .off := fun h => by simp [h] at hm
  refine (if_neg hon).trans ?_
  dsimp only
  rw [hseen]
  rcases hm with hm | hm | hm <;> rw [hm] <;> rfl

/-- A rail is lost. -/
def State.railLost (s : State) (r : Rail) : State :=
  match r with
  | .vcore => { s with modes := { s.modes with railCore := false } }
  | .vsram => { s with modes := { s.modes with railSram := false } }
  | .vaon => { s with modes := { s.modes with railAon := false } }

theorem execPowerLoss_off {r : Rail} (h : ¬ (r = .vcore ∧ s.mode = .rest ∧ s.pins.coreOffOk = true)) :
    execPowerLoss r s = .next ((s.railLost r).powerOff (decide (r = .vaon))) := by
  cases r with
  | vcore => exact if_neg fun hm => h ⟨rfl, hm⟩
  | vsram | vaon => rfl

theorem State.powerOff_resets {aon : Bool} : (s.powerOff aon).mode = .off ∧ (s.powerOff aon).blank
    ∧ (aon = false → (s.powerOff aon).plinth = s.plinth ∧ (s.powerOff aon).regs = s.plinthRegs)
    ∧ (aon = true → (s.powerOff aon).plinth = Plinth.reset ∧ (s.powerOff aon).regs = []) := by
  unfold State.powerOff
  have h := State.resetCore_resets (s := if aon = true then { s with plinth := Plinth.reset, regs := [] } else s) (md := .off)
  generalize State.resetCore _ _ = u at *
  refine ⟨congrArg Modes.mode h.modes, h.blank, fun ha => ?_, fun ha => ?_⟩ <;> subst ha <;> exact ⟨h.plinth, h.regs⟩

end Resets

/-- Settles O46: a reset by what it leaves beside the Plinth, BOOT by whether the root key is valid, a power event by the drain or the
pin that it leads to. -/
theorem resetsAndPower : Obligations.ResetsAndPower := by
  unfold Obligations.ResetsAndPower
  refine ⟨⟨fun s hm hw hd hf => ?_, fun s hm hw hd => ?_, fun t0 s => execWarmLimitExpiry_expires, fun s => execWarmResetRelease_boots,
    fun s => execColdReset_resets, fun x kh kv fl s => execColdResetRelease_boots, fun s => execAonReset_resets, fun s => rfl⟩,
    fun s hc hm => ⟨_, if_pos ⟨hc, hm⟩, rfl, rfl, rfl, rfl, rfl⟩, fun f s hb => ⟨_, if_pos hb, rfl, rfl, rfl, rfl⟩, fun s hm => ?_,
    fun s hm => ⟨_, execPowerFail_raisesOff hm, rfl, rfl, rfl, rfl⟩, fun r s h => ?_,
    fun s hm hc => ⟨_, if_pos ⟨hm, hc⟩, hm, rfl, rfl, rfl, rfl, rfl⟩⟩
  · have hoff := State.startDrain_agreeOff (s := s.warmSeen.warmDrain)
    refine ⟨_, congrArg Host.Outcome.next (State.warmReset_drains hm hw hd hf), ?_⟩
    rw [State.mode, State.startDrain_modes, hoff .agents (by decide), hoff .ports (by decide)]
    exact ⟨rfl, rfl, rfl, rfl, rfl, rfl⟩
  · exact ⟨_, congrArg Host.Outcome.next (State.warmReset_at_once hm hw hd), State.warmSeen_effect⟩
  · refine ⟨_, execPowerFail_drains hm, ?_⟩
    rw [State.mode, State.startDrain_modes, State.startDrain_agreeOff .pins (by decide)]
    exact ⟨rfl, rfl, rfl, rfl⟩
  · obtain ⟨hmode, hblank, hplinth, haon⟩ := State.powerOff_resets (s := s.railLost r) (aon := decide (r = .vaon))
    refine ⟨_, execPowerLoss_off h, hmode, hblank, fun hr => ?_, fun hr => haon (decide_eq_true hr)⟩
    obtain ⟨hp, hregs⟩ := hplinth (decide_eq_false hr)
    cases r <;> exact ⟨hp, hregs⟩

end Sys2Proof.Machine

/-! SUPPORT. The records of an image: which command processes the record at hand, what each kind leaves, and the waits of the loader. -/

namespace Sys2Proof.Machine

section Records

variable {s : State} {h : Word32} {rest : List Word32} {kind : Nat} {f : Nat → List Word32 → State}

/-! ## The record at hand (R308, R310) -/

/-- At a record, its kind decides: an unlisted one fails, another kind than the command's waits, the command's own is processed. -/
theorem State.record_at (hr : s.recordAt h rest) : s.record kind f = if 5 ≤ bits h 28 4 ∧ bits h 28 4 ≠ 15 then s.recordFail
    else if bits h 28 4 ≠ kind then s else f (bits h 0 28) rest := by
  obtain ⟨hbody, hended, hwait, hclr, buf, more, hbufs, hdrop⟩ := hr
  have hgo : ¬ ((!s.booting .body) = true ∨ s.boot.ended = true ∨ s.boot.waiting ≠ .none ∨ (!s.modes.arraysClr) = true) := by
    simp [hbody, hended, hwait, hclr]
  unfold State.record
  dsimp only
  rw [if_neg hgo, hbufs]
  dsimp only
  rw [hdrop]

theorem State.record_listed (hr : s.recordAt h rest) (hk : bits h 28 4 = kind) (hl : kind < 5 ∨ kind = 15 := by decide) :
    s.record kind f = f (bits h 0 28) rest := by
  rw [State.record_at hr, if_neg (by omega), if_neg (by omega)]

theorem State.record_unlisted (hr : s.recordAt h rest) (h5 : 5 ≤ bits h 28 4) (h15 : bits h 28 4 ≠ 15) : s.record kind f = s.recordFail := by
  rw [State.record_at hr, if_pos ⟨h5, h15⟩]

theorem Boot.advance_within {b : Boot} {n : Nat} (hn : b.index + n < 1023) :
    (b.advance n).index = b.index + n ∧ (b.advance n).bufs = b.bufs := by
  rw [Boot.advance, if_neg (Nat.not_le.mpr hn)]
  exact ⟨rfl, rfl⟩

theorem Boot.advance_beyond {b : Boot} {n : Nat} (hn : 1023 ≤ b.index + n) :
    (b.advance n).index = 0 ∧ (b.advance n).bufs = b.bufs.drop 1 ∧ (b.advance n).base = b.base + 1 := by
  rw [Boot.advance, if_pos hn]
  exact ⟨rfl, rfl, rfl⟩

/-! ## The records by kind (R311, R312) -/

/-- What the words of a WRITE record leave: each at its address, in turn. -/
def State.recordWritten (s : State) (x : Nat) (rest : List Word32) : State :=
  ((rest.take (x / 2 ^ 24 + 1)).zipIdx).foldl (fun s e => s.bootWriteAll (BitVec.ofNat 24 x + BitVec.ofNat 24 (4 * e.2)) (fun _ _ => e.1)) s

theorem execWriteRecord_written (hr : s.recordAt h rest) (hk : bits h 28 4 = 1) (h4 : bits h 0 28 % 4 = 0)
    (hn : bits h 0 28 / 2 ^ 24 + 1 ≤ rest.length) :
    execWriteRecord s = .next ((s.recordWritten (bits h 0 28) rest).modBoot (fun b => b.advance (2 + bits h 0 28 / 2 ^ 24))) := by
  have hwords : 2 + bits h 0 28 / 2 ^ 24 = 1 + (bits h 0 28 / 2 ^ 24 + 1) := by omega
  rw [hwords]
  exact congrArg _ ((State.record_listed hr hk).trans (if_neg (by omega)))

theorem execWriteRecord_fails (hr : s.recordAt h rest) (hk : bits h 28 4 = 1)
    (hx : bits h 0 28 % 4 ≠ 0 ∨ rest.length ≤ bits h 0 28 / 2 ^ 24) : execWriteRecord s = .next s.recordFail :=
  congrArg _ ((State.record_listed hr hk).trans (if_pos (by omega)))

theorem execMaskRecord_fails (hr : s.recordAt h rest) (hk : bits h 28 4 = 2)
    (hx : bits h 0 28 / 2 ^ 24 ≠ 0 ∨ bits h 0 28 % 4 ≠ 0 ∨ rest.length < 2) : execMaskRecord s = .next s.recordFail := by
  refine congrArg _ ((State.record_listed hr hk).trans ?_)
  match rest with
  | [] | [_] => rfl
  | _ :: _ :: more => exact if_pos (by simpa using hx)

theorem execPollRecord_fails (hr : s.recordAt h rest) (hk : bits h 28 4 = 3)
    (hx : bits h 0 28 / 2 ^ 24 ≠ 0 ∨ bits h 0 28 % 4 ≠ 0 ∨ rest.length < 3 ∨ rest.getD 2 0 = 0 ∨ 1000000 < (rest.getD 2 0).toNat) :
    execPollRecord s = .next s.recordFail := by
  refine congrArg _ ((State.record_listed hr hk).trans ?_)
  match rest with
  | [] | [_] | [_, _] => rfl
  | _ :: _ :: _ :: more =>
    have hlen : ¬ more.length + 1 + 1 + 1 < 3 := by omega
    exact if_pos (by simpa [hlen] using hx)

theorem exec_recordFail {c : Instr} (hr : s.recordAt h rest) (h5 : 5 ≤ bits h 28 4) (h15 : bits h 28 4 ≠ 15)
    (hc : c = .padRecord ∨ c = .writeRecord ∨ c = .maskRecord ∨ c = .pollRecord ∨ c = .waitRecord ∨ c = .endRecord) :
    exec c s = .next s.recordFail := by
  rcases hc with rfl | rfl | rfl | rfl | rfl | rfl <;> exact congrArg _ (State.record_unlisted hr h5 h15)

/-! ## Waits of the loader (R311) -/

theorem execPollRead_polls {a : RegAddr} {mask v : Word32} {t0 lim : Nat} (hb : s.booting .body = true)
    (hw : s.boot.waiting = .poll a mask v t0 lim) :
    execPollRead s = .next (if (s.pollOnce a mask v).2 = true then (s.pollOnce a mask v).1.modBoot (fun b => b.advance 4)
      else (s.pollOnce a mask v).1) := by
  rw [execPollRead, hw]
  exact if_neg (by rw [hb]; decide)

theorem execPollLimitExpiry_polls {a : RegAddr} {mask v : Word32} {t0 lim : Nat} (hb : s.booting .body = true)
    (hw : s.boot.waiting = .poll a mask v t0 lim) :
    let u := s.reach (t0 + 1000 * lim)
    execPollLimitExpiry s = .next (if (u.pollOnce a mask v).2 = true then (u.pollOnce a mask v).1.modBoot (fun b => b.advance 4)
      else (u.pollOnce a mask v).1.failAt 9 (u.pollOnce a mask v).1.boot.offset) := by
  rw [execPollLimitExpiry, hw]
  exact if_neg (by rw [hb]; decide)

theorem State.pollOnce_single {adr : RegAddr} {a : Nat} {mask v : Word32} (ht : s.targets adr = [a])
    (hread : s.readOne a = (s, s.readWord a)) : s.pollOnce adr mask v = (s, decide (s.readWord a &&& mask = v)) := by
  rw [State.pollOnce, ht, List.foldl_cons, List.foldl_nil, hread]
  rfl

theorem execWaitExpiry_advances {till : Nat} (hb : s.booting .body = true) (hw : s.boot.waiting = .wait till) :
    ∃ t, execWaitExpiry s = .next t ∧ t.boot = s.boot.advance 1 ∧ t.now = max s.now till ∧ t.regs = s.regs ∧ t.slices = s.slices := by
  have hgo : execWaitExpiry s = .next ((s.reach till).modBoot (fun b => b.advance 1)) := by
    rw [execWaitExpiry, hw]
    exact if_neg (by rw [hb]; decide)
  exact ⟨_, hgo, congrArg (fun b => Boot.advance b 1) State.reach_boot, State.plinth_now_reach, State.reach_regs, State.reach_slices⟩

end Records

/-- Settles O49: at a record its kind decides which command processes it, and its words whether it takes effect or fails the slot; a
wait ends by the match, the limit or the time that it names. -/
theorem recordsTakeEffect : Obligations.RecordsTakeEffect := by
  unfold Obligations.RecordsTakeEffect
  refine ⟨fun h rest s hr => ⟨fun hk => ?_, execWriteRecord_written hr, fun hk h0 h4 mask data more e => ?_,
    fun hk h0 h4 mask value limit more e hl hlim => ?_, fun hk h0 hx => ?_, fun hk => ?_, execWriteRecord_fails hr, execMaskRecord_fails hr,
    execPollRecord_fails hr, fun hk hx => ?_, fun h5 h15 c => exec_recordFail hr h5 h15,
    fun n => ⟨Boot.advance_within, Boot.advance_beyond⟩⟩,
    fun a mask v t0 lim s hb hw => ⟨execPollRead_polls hb hw, execPollLimitExpiry_polls hb hw⟩,
    fun a adr mask v s => State.pollOnce_single, fun till s => execWaitExpiry_advances⟩
  · exact congrArg _ (State.record_listed hr hk)
  · subst e
    exact congrArg _ ((State.record_listed hr hk).trans (if_neg (by omega)))
  · subst e
    have hgood : ¬ (bits h 0 28 / 2 ^ 24 ≠ 0 ∨ bits h 0 28 % 4 ≠ 0 ∨ limit = 0 ∨ 1000000 < limit.toNat) := by
      simp only [not_or]
      exact ⟨not_not.mpr h0, not_not.mpr h4, hl, Nat.not_lt.mpr hlim⟩
    exact congrArg _ ((State.record_listed hr hk).trans (if_neg hgood))
  · exact congrArg _ ((State.record_listed hr hk).trans (if_neg (by omega)))
  · exact congrArg _ (State.record_listed hr hk)
  · exact congrArg _ ((State.record_listed hr hk).trans (if_pos hx))

end Sys2Proof.Machine

/-! SUPPORT. Updates: the answer to a message, commands to the flash and the guards that refuse them, and the steps of an update. -/

namespace Sys2Proof.Machine

section Updates

variable {s t u : State} {ch : MbxCh} {opc len : Nat} {st : Byte} {payload msg p : List Byte} {x : Upd} {slot : Bool} {h : List Byte}
  {f : State → List Byte → State × Byte × List Byte} {c : BitVec 8 × Nat × List Byte} {g : State → State}

/-! ## Messages and their answers (R362, R364) -/

/-- The state once the message of a channel has been taken up. -/
def State.served (s : State) (ch : MbxCh) : State := { s with cox := (s.untake ch).cox }

theorem State.untake_eq : s.untake ch = s.served ch := by cases ch <;> rfl

@[simp] theorem State.served_upd : (s.served ch).cox.upd = s.cox.upd := by cases ch <;> rfl

theorem State.reply_agreeOff : s.agreeOff [.mesh, .events, .cox] (s.reply ch msg) := State.agreeOff_of_kept (by decide) State.reply_kept

@[simp] theorem State.reply_regs : (s.reply ch msg).regs = s.regs := State.reply_agreeOff .regs (by decide)
@[simp] theorem State.reply_boot : (s.reply ch msg).boot = s.boot := State.reply_agreeOff .boot (by decide)
@[simp] theorem State.reply_pins : (s.reply ch msg).pins = s.pins := State.reply_agreeOff .pins (by decide)
@[simp] theorem State.reply_freeCtr : (s.reply ch msg).freeCtr = s.freeCtr := State.reply_agreeOff .free (by decide)
@[simp] theorem State.reply_fld {a : Fld} : (s.reply ch msg).fld a = s.fld a := State.fld_of_regs State.reply_regs

@[simp] theorem State.reply_upd : (s.reply ch msg).cox.upd = s.cox.upd := by
  unfold State.reply
  cases ch <;> rw [State.fire_cox] <;> rfl

@[simp] theorem State.reply_posted : (s.reply ch msg).posted ch = pad64 msg := by
  unfold State.reply State.posted
  cases ch <;> dsimp only <;> rw [State.fire_cox] <;> rfl

/-- A message of the command's own OPC and LEN is answered with what serving it gives. -/
theorem State.serve_taken (hup : s.coxUp = true) (ht : s.hasTaken ch opc len)
    (hf : f (s.served ch) (slice (s.taken ch) 4 len) = (u, st, payload)) :
    s.serve ch opc len f = u.reply ch (replyTo (s.taken ch) st payload) := by
  obtain ⟨hlen, hopc, hn⟩ := ht
  have hgo : ¬ ((!s.coxUp) = true ∨ (s.taken ch).length < 4 ∨ hdrNat (s.taken ch) 0 1 ≠ opc) := by simp [hup, hlen, hopc]
  unfold State.serve
  dsimp only
  rw [if_neg hgo, if_neg (not_not.mpr hn), State.untake_eq, hf]

/-! ## Commands to the flash (R365) -/

/-- The guards look at the word of the running slot and at the anchor. -/
theorem State.guarded_of (hr : t.reg 0x1000 = s.reg 0x1000) (ha : t.boot.anchor = s.boot.anchor) : t.guarded c = s.guarded c := by
  unfold State.guarded State.fld
  rw [hr, ha]

theorem State.spi_single : s.spi [c] = if s.guarded c = true then s.putF ⟨0x30A00, 1, 1⟩ 1
    else { s.crossing .service 29 with pins := { s.pins with spi := [c] } } := by
  unfold State.spi
  cases hg : s.guarded c <;> simp [List.filter, hg]

theorem State.spi_programs : s.programs (s.spi [c]) c := by
  rw [State.spi_single]
  cases hg : s.guarded c with
  | false => exact ⟨fun _ => rfl, fun h => absurd (hg.symm.trans h) (by decide)⟩
  | true => exact ⟨fun h => absurd (hg.symm.trans h) (by decide), fun _ => ⟨rfl, State.fld_putF (by decide)⟩⟩

theorem State.spi_agreeOff {cs : List (BitVec 8 × Nat × List Byte)} : s.agreeOff [.pins, .regs, .mesh] (s.spi cs) :=
  State.agreeOff_of_kept (by decide) State.spi_kept

@[simp] theorem State.spi_boot {cs : List (BitVec 8 × Nat × List Byte)} : (s.spi cs).boot = s.boot := State.spi_agreeOff .boot (by decide)
@[simp] theorem State.spi_cox {cs : List (BitVec 8 × Nat × List Byte)} : (s.spi cs).cox = s.cox := State.spi_agreeOff .cox (by decide)

/-- A program reads the same from a state with the same guards and pins, to one with the same pins and GUARD. -/
theorem State.programs_of {s' t' : State} (hg : s'.guarded c = s.guarded c) (hs : s'.pins = s.pins) (ht : t'.pins = t.pins)
    (hf : t'.fld ⟨0x30A00, 1, 1⟩ = t.fld ⟨0x30A00, 1, 1⟩) (hp : s.programs t c) : s'.programs t' c := by
  unfold State.programs
  rw [hg, hs, ht, hf]
  exact hp

theorem State.programs_reply (hp : s.programs t c) : s.programs (t.reply ch msg) c :=
  State.programs_of rfl rfl State.reply_pins State.reply_fld hp

/-- A command's effect on what the flash holds leaves the guards to that command as they were. -/
theorem State.spiDo_programs (hg : s.guarded c = false → (g s).guarded c = false) (hp : (g s).pins = s.pins) :
    s.programs (s.spiDo c g) c := by
  unfold State.spiDo
  cases hc : s.guarded c with
  | true => exact State.spi_programs
  | false => exact State.programs_of (hc.trans (hg hc).symm) hp.symm rfl rfl State.spi_programs

theorem State.spiDo_boot : (s.spiDo c g).boot = if s.guarded c = true then s.boot else (g s).boot := by
  rw [State.spiDo, State.spi_boot, apply_ite State.boot]

theorem State.spiDo_sent (hc : s.guarded c = false) (hg : (g s).guarded c = false) : (s.spiDo c g).pins.spi = [c]
    ∧ (s.spiDo c g).cox = (g s).cox ∧ (s.spiDo c g).boot = (g s).boot ∧ (s.spiDo c g).regs = (g s).regs := by
  rw [State.spiDo, hc, if_neg (by decide), State.spi_single, hg, if_neg (by decide)]
  exact ⟨rfl, rfl, rfl, rfl⟩

theorem State.spiDo_cox (hg : (g s).cox = s.cox) : (s.spiDo c g).cox = s.cox := by
  rw [State.spiDo, State.spi_cox, apply_ite State.cox, hg, ite_self]

theorem State.setHdr_guarded : (s.setHdr slot h).guarded c = s.guarded c := by cases slot <;> rfl
theorem State.setHdr_pins : (s.setHdr slot h).pins = s.pins := by cases slot <;> rfl
theorem State.setHdr_cox : (s.setHdr slot h).cox = s.cox := by cases slot <;> rfl
theorem State.setHdr_regs : (s.setHdr slot h).regs = s.regs := by cases slot <;> rfl
theorem State.hdr_setHdr : (s.setHdr slot h).boot.hdr slot = h := by cases slot <;> rfl

/-- The slot that is not running is erased past every guard. -/
theorem State.target_unguarded : s.guarded (2, slotBase s.target, []) = false := by
  unfold State.guarded State.target slotBase spiSpan
  by_cases h0 : s.fld ⟨0x1000, 0, 2⟩ = 0 <;> simp [h0]

/-! ## The steps of an update (R366, R367) -/

/-- An update is open on a channel into the slot that is not running, its header erased. -/
def State.updOpened (s : State) (ch : MbxCh) : State :=
  ((({ s with cox := { s.cox with upd := some { ch := ch, target := s.target, hdr := erasedHdr } } } : State).putF ⟨0x30A00, 0, 1⟩ 1).putF
    ⟨0x30A00, 2, 1⟩ s.target.toNat)

theorem State.updOpened_guarded : (s.updOpened ch).guarded c = s.guarded c :=
  State.guarded_of ((State.reg_putF_ne (by decide)).trans (State.reg_putF_ne (by decide))) rfl

/-- What BEGIN leaves where it opens an update. -/
def State.updErased (s : State) (ch : MbxCh) : State :=
  (s.updOpened ch).spiDo (2, slotBase s.target, []) (fun t => t.setHdr s.target erasedHdr)

theorem State.updBegin_opens (hu : ∀ x, s.cox.upd = some x → x.ch = ch) : s.updBegin ch = (s.updErased ch, 0, []) :=
  if_neg (by
    rw [Bool.not_eq_true, Option.any_eq_false]
    intro x hx
    exact decide_eq_false (not_not.mpr (hu x hx)))

theorem State.updBegin_busy (hu : s.cox.upd = some x) (hx : x.ch ≠ ch) : s.updBegin ch = (s, 3, []) := if_pos (by simpa [hu] using hx)

theorem State.updErased_effect : (s.updErased ch).cox.upd = some (Upd.mk ch s.target erasedHdr)
    ∧ (s.updErased ch).boot.hdr s.target = erasedHdr ∧ (s.updErased ch).pins.spi = [(2, slotBase s.target, [])]
    ∧ (s.updErased ch).fld ⟨0x30A00, 0, 1⟩ = 1 ∧ (s.updErased ch).fld ⟨0x30A00, 2, 1⟩ = s.target.toNat := by
  have hopen : (s.updOpened ch).guarded (2, slotBase s.target, []) = false := State.updOpened_guarded.trans State.target_unguarded
  have herased : ((s.updOpened ch).setHdr s.target erasedHdr).guarded (2, slotBase s.target, []) = false :=
    State.setHdr_guarded.trans hopen
  have hfree : (s.updOpened ch).fld ⟨0x30A00, 0, 1⟩ = 1 := by
    rw [State.updOpened, State.fld_putF_beside]
    exact State.fld_putF (by decide)
  have hslot : (s.updOpened ch).fld ⟨0x30A00, 2, 1⟩ = s.target.toNat :=
    (State.fld_putF (by decide)).trans (by cases s.target <;> rfl)
  obtain ⟨hspi, hcox, hboot, hregs⟩ := State.spiDo_sent (g := fun t => t.setHdr s.target erasedHdr) hopen herased
  have hfld (f : Fld) : (s.updErased ch).fld f = (s.updOpened ch).fld f := State.fld_of_regs (hregs.trans State.setHdr_regs)
  refine ⟨?_, ?_, hspi, (hfld _).trans hfree, (hfld _).trans hslot⟩
  · exact congrArg Cox.upd (hcox.trans State.setHdr_cox)
  · exact (congrArg (fun b : Boot => b.hdr s.target) hboot).trans State.hdr_setHdr

/-- A step of an update that is open on its channel. -/
theorem State.inUpd_open {k : Upd → State × Byte × List Byte} (hu : s.cox.upd = some x) (hx : x.ch = ch) : s.inUpd ch k = k x := by
  rw [State.inUpd, hu]
  exact if_pos hx

theorem State.inUpd_closed {k : Upd → State × Byte × List Byte} (hu : ∀ x, s.cox.upd = some x → x.ch ≠ ch) :
    s.inUpd ch k = s.freeStatus := by
  unfold State.inUpd
  split
  next y hy => exact if_neg (hu y hy)
  next => rfl

theorem State.updEnd_open (hu : s.cox.upd = some x) :
    s.updEnd = (({ s with cox := { s.cox with upd := none } }).putF ⟨0x30A00, 0, 1⟩ 0).fire (evG 39) := if_pos (by rw [hu]; rfl)

theorem State.updEnd_ends (hu : s.cox.upd = some x) : s.updEnd.cox.upd = none ∧ s.updEnd.fld ⟨0x30A00, 0, 1⟩ = 0
    ∧ s.updEnd.fld ⟨0x30A00, 1, 1⟩ = s.fld ⟨0x30A00, 1, 1⟩ ∧ s.updEnd.boot = s.boot ∧ s.updEnd.pins = s.pins := by
  rw [State.updEnd_open hu, State.fire_cox, State.fire_fld, State.fire_fld, State.fire_boot, State.fire_pins]
  exact ⟨rfl, State.fld_putF (by decide), State.fld_putF_beside, rfl, rfl⟩

/-! ## DATA (R366) -/

/-- OFFSET of a DATA message. -/
def updOff (p : List Byte) : Nat := natOfBytes (slice p 0 4)

/-- The bytes of a DATA message. -/
def updBytes (p : List Byte) : List Byte := slice p 4 48

theorem State.updData_beyond (hb : 0x200000 < updOff p + 48) : s.updData x p =
    if s.guarded (1, slotBase x.target + updOff p, updBytes p) = true
    then (s.spi [(1, slotBase x.target + updOff p, updBytes p)]).freeStatus else (s, 2, []) := if_pos hb

/-- The header of an update that is open, with new bytes. -/
def State.hdrHeld (s : State) (x : Upd) (off : Nat) (bs : List Byte) : State :=
  { s with cox := { s.cox with upd := some { x with hdr := putList x.hdr off bs } } }

/-- The bytes of a DATA message that belong to the header are held. -/
def State.dataHeld (s : State) (x : Upd) (p : List Byte) : State :=
  if (updBytes p).take (512 - updOff p) = [] then s else s.hdrHeld x (updOff p) ((updBytes p).take (512 - updOff p))

theorem State.updData_within (hin : updOff p + 48 ≤ 0x200000) : s.updData x p =
    (if (updBytes p).drop (512 - updOff p) = [] then s.dataHeld x p
      else (s.dataHeld x p).spi [(1, slotBase x.target + max (updOff p) 512, (updBytes p).drop (512 - updOff p))], 0, []) :=
  if_neg (Nat.not_lt.mpr hin)

theorem State.updData_body (hl : (updBytes p).length = 48) (h512 : 512 ≤ updOff p) (hin : updOff p + 48 ≤ 0x200000) :
    s.updData x p = (s.spi [(1, slotBase x.target + updOff p, updBytes p)], 0, []) := by
  have hne : updBytes p ≠ [] := List.ne_nil_of_length_pos (by omega)
  rw [State.updData_within hin, State.dataHeld, Nat.sub_eq_zero_of_le h512, List.take_zero, List.drop_zero, if_pos rfl, if_neg hne,
    Nat.max_eq_left h512]

theorem State.updData_header (hl : (updBytes p).length = 48) (hoff : updOff p + 48 ≤ 512) :
    s.updData x p = (s.hdrHeld x (updOff p) (updBytes p), 0, []) := by
  have hne : updBytes p ≠ [] := List.ne_nil_of_length_pos (by omega)
  rw [State.updData_within (by omega), State.dataHeld, List.take_of_length_le (by omega), List.drop_eq_nil_of_le (by omega), if_neg hne,
    if_pos rfl]

theorem State.updData_both (hl : (updBytes p).length = 48) (hoff : updOff p < 512) (hend : 512 < updOff p + 48) :
    s.updData x p = ((s.hdrHeld x (updOff p) ((updBytes p).take (512 - updOff p))).spi
      [(1, slotBase x.target + 512, (updBytes p).drop (512 - updOff p))], 0, []) := by
  have hlow : (updBytes p).take (512 - updOff p) ≠ [] := List.ne_nil_of_length_pos (by rw [List.length_take]; omega)
  have hhigh : (updBytes p).drop (512 - updOff p) ≠ [] := List.ne_nil_of_length_pos (by rw [List.length_drop]; omega)
  rw [State.updData_within (by omega), State.dataHeld, if_neg hlow, if_neg hhigh, Nat.max_eq_right (Nat.le_of_lt hoff)]

theorem State.updBytes_length (ht : s.hasTaken ch opc 52) : (updBytes (slice (s.taken ch) 4 52)).length = 48 := by
  simp [updBytes, slice, ht.1]

/-! ## COMMIT (R305, R306, R366) -/

/-- The held header and the body as read back pass the checks of COMMIT. -/
def State.commits (s : State) (x : Upd) (body : List Byte) : Prop :=
  hdrReason x.hdr s.plinth.keyHash s.svnFloor = 0 ∧ hdrSigned x.hdr = true ∧ s.fld ⟨0x100C, 0, 32⟩ < hdrSeq x.hdr
    ∧ body.length = recLen x.hdr + coxLen x.hdr ∧ Config.sha384 body = bodyHash x.hdr

theorem State.updCommit_fails {body : List Byte} (h : ¬ s.commits x body) : s.updCommit x body = (s, 4, []) := if_neg h

/-- The header of an update is written into its slot. -/
def State.hdrWritten (s : State) (x : Upd) : State := s.spiDo (1, slotBase x.target, x.hdr) (fun t => t.setHdr x.target x.hdr)

theorem State.updCommit_writes {body : List Byte} (h : s.commits x body) :
    s.updCommit x body = ((s.hdrWritten x).updEnd, 0, []) := if_pos h

theorem State.hdrWritten_cox : (s.hdrWritten x).cox = s.cox := State.spiDo_cox State.setHdr_cox

theorem State.hdrWritten_programs : s.programs (s.hdrWritten x) (1, slotBase x.target, x.hdr) :=
  State.spiDo_programs (State.setHdr_guarded.trans) State.setHdr_pins

theorem State.hdrWritten_hdr : (s.hdrWritten x).boot.hdr x.target
    = if s.guarded (1, slotBase x.target, x.hdr) = true then s.boot.hdr x.target else x.hdr := by
  rw [State.hdrWritten, State.spiDo_boot, apply_ite (fun b : Boot => b.hdr x.target), State.hdr_setHdr]

/-! ## CONFIRM (R307, R367) -/

/-- The bits of the anchor below an SVN are 0 in the bytes that bring it to that SVN. -/
theorem getLsbD_anchorBytes {svn i k : Nat} {b : Byte} (hb : (anchorBytes svn)[i]? = some b) (hk : k < 8) (hlow : 8 * i + k < svn) :
    b.getLsbD k = false := by
  have hlast : ∀ r < 8, ∀ k < r, (BitVec.ofNat 8 (0x100 - 2 ^ r)).getLsbD k = false := by decide
  unfold anchorBytes at hb
  by_cases hi : i < svn / 8
  · rw [List.getElem?_append_left (by simpa using hi), List.getElem?_replicate_of_lt hi] at hb
    cases hb
    exact BitVec.getLsbD_zero
  · have hr : svn % 8 ≠ 0 ∧ i = svn / 8 ∧ k < svn % 8 := by omega
    obtain ⟨hr, rfl, hkr⟩ := hr
    rw [List.getElem?_append_right (by simp), List.length_replicate, Nat.sub_self, if_neg hr] at hb
    cases hb
    exact hlast _ (Nat.mod_lt _ (by decide)) _ hkr

/-- No program that brings the anchor to an SVN sets one of the bits below it. -/
theorem setsOne_anchorBytes {svn : Nat} : setsOne svn 0x400000 (anchorBytes svn) = false := by
  refine List.any_eq_false.mpr fun ⟨b, i⟩ hm => ?_
  have hb := List.mk_mem_zipIdx_iff_getElem?.mp hm
  have hset : (List.range 8).any (fun k => decide (8 * (0x400000 + i - 0x400000) + k < svn) && b.getLsbD k) = false :=
    List.any_eq_false.mpr fun k hk => by
      rw [Nat.add_sub_cancel_left, Bool.and_eq_true, decide_eq_true_eq]
      exact fun h => absurd (getLsbD_anchorBytes hb (List.mem_range.mp hk) h.1) (by rw [h.2]; decide)
  rw [hset, Bool.and_false]
  decide

theorem State.updConfirm_refused {z : Nat} (h : s.fld ⟨0x1000, 14, 1⟩ = 0 ∨ s.runsCommitted = false) : s.updConfirm z = (s, 3, []) :=
  if_pos (by simpa using h)

theorem State.updConfirm_raised {z : Nat} (hb : s.fld ⟨0x1000, 14, 1⟩ ≠ 0) (hr : s.runsCommitted = true)
    (hz : s.fld ⟨0x1008, 0, 16⟩ ≤ z) : s.updConfirm z = (s, 0, []) :=
  (if_neg (by simp [hb, hr])).trans (if_pos hz)

/-- The anchor is at an SVN. -/
def State.anchored (s : State) (svn : Nat) : State := { s with boot := { s.boot with anchor := BitVec.ofNat 17 svn } }

theorem State.updConfirm_raises {z : Nat} (hb : s.fld ⟨0x1000, 14, 1⟩ ≠ 0) (hr : s.runsCommitted = true)
    (hz : z < s.fld ⟨0x1008, 0, 16⟩) : s.updConfirm z = (s.spiDo (1, 0x400000, anchorBytes (s.fld ⟨0x1008, 0, 16⟩))
      (fun t => t.anchored (s.fld ⟨0x1008, 0, 16⟩)), 0, []) :=
  (if_neg (by simp [hb, hr])).trans (if_neg (Nat.not_le.mpr hz))

/-- Once the anchor is at the SVN, programming the SVN's bytes again is what the guards let through if they did so before. -/
theorem State.anchored_guarded {svn : Nat} (hsvn : svn < 2 ^ 17) (hg : s.guarded (1, 0x400000, anchorBytes svn) = false) :
    (s.anchored svn).guarded (1, 0x400000, anchorBytes svn) = false := by
  have hset : setsOne (BitVec.ofNat 17 svn).toNat 0x400000 (anchorBytes svn) = false := by
    rw [BitVec.toNat_ofNat, Nat.mod_eq_of_lt hsvn]
    exact setsOne_anchorBytes
  simp only [State.guarded, Bool.and_eq_false_iff, Bool.or_eq_false_iff] at hg ⊢
  exact hg.imp_right fun h => ⟨h.1, .inr hset⟩

/-- What CONFIRM leaves where it raises the anchor. -/
theorem State.anchorRaised : let svn := s.fld ⟨0x1008, 0, 16⟩
    let v := s.spiDo (1, 0x400000, anchorBytes svn) (fun t => t.anchored svn)
    s.programs v (1, 0x400000, anchorBytes svn)
      ∧ v.boot.anchor.toNat = if s.guarded (1, 0x400000, anchorBytes svn) = true then s.boot.anchor.toNat else svn := by
  have hsvn : s.fld ⟨0x1008, 0, 16⟩ < 2 ^ 17 := Nat.lt_trans bits_lt (by decide)
  refine ⟨State.spiDo_programs (State.anchored_guarded hsvn) rfl, ?_⟩
  rw [State.spiDo_boot, apply_ite (fun b : Boot => b.anchor.toNat)]
  refine if_congr Iff.rfl rfl ?_
  exact (BitVec.toNat_ofNat ..).trans (Nat.mod_eq_of_lt hsvn)

/-! ## What the commands answer -/

section Answers

variable (hup : s.coxUp = true)

include hup

theorem execUpdBegin_answers (ht : s.hasTaken ch 0x10 0) (hf : (s.served ch).updBegin ch = (u, st, [])) :
    execUpdBegin ch s = .next (u.reply ch (replyTo (s.taken ch) st [])) := congrArg _ (State.serve_taken hup ht hf)

theorem execUpdData_answers (ht : s.hasTaken ch 0x11 52)
    (hf : (s.served ch).inUpd ch (fun x => (s.served ch).updData x (slice (s.taken ch) 4 52)) = (u, st, [])) :
    execUpdData ch s = .next (u.reply ch (replyTo (s.taken ch) st [])) := congrArg _ (State.serve_taken hup ht hf)

theorem execUpdCommit_answers {body : List Byte} (ht : s.hasTaken ch 0x12 0)
    (hf : (s.served ch).inUpd ch (fun x => (s.served ch).updCommit x body) = (u, st, [])) :
    execUpdCommit ch body s = .next (u.reply ch (replyTo (s.taken ch) st [])) := congrArg _ (State.serve_taken hup ht hf)

theorem execUpdConfirm_answers {z : BitVec 17} (ht : s.hasTaken ch 0x13 0) (hf : (s.served ch).updConfirm z.toNat = (u, st, [])) :
    execUpdConfirm ch z s = .next (u.reply ch (replyTo (s.taken ch) st [])) := congrArg _ (State.serve_taken hup ht hf)

theorem execUpdAbort_answers (ht : s.hasTaken ch 0x14 0)
    (hf : (s.served ch).inUpd ch (fun _ => ((s.served ch).updEnd, 0, [])) = (u, st, [])) :
    execUpdAbort ch s = .next (u.reply ch (replyTo (s.taken ch) st [])) := congrArg _ (State.serve_taken hup ht hf)

theorem execUpdBegin_opens (ht : s.hasTaken ch 0x10 0) (hu : ∀ x, s.cox.upd = some x → x.ch = ch) :
    ∃ t, execUpdBegin ch s = .next t ∧ t.posted ch = pad64 (replyTo (s.taken ch) 0 [])
      ∧ t.cox.upd = some (Upd.mk ch s.target erasedHdr) ∧ t.boot.hdr s.target = erasedHdr
      ∧ t.pins.spi = [(2, slotBase s.target, [])] ∧ t.fld ⟨0x30A00, 0, 1⟩ = 1 ∧ t.fld ⟨0x30A00, 2, 1⟩ = s.target.toNat := by
  have hnext := execUpdBegin_answers hup ht (State.updBegin_opens fun x hx => hu x (State.served_upd ▸ hx))
  obtain ⟨hupd, hhdr, hspi, hopen, hslot⟩ := State.updErased_effect (s := s.served ch) (ch := ch)
  refine ⟨_, hnext, State.reply_posted, State.reply_upd.trans hupd, ?_, ?_, State.reply_fld.trans hopen, State.reply_fld.trans hslot⟩
  · rw [State.reply_boot]
    exact hhdr
  · rw [State.reply_pins]
    exact hspi

theorem execUpdBegin_busy (ht : s.hasTaken ch 0x10 0) (hu : s.cox.upd = some x) (hx : x.ch ≠ ch) :
    ∃ t, execUpdBegin ch s = .next t ∧ t.posted ch = pad64 (replyTo (s.taken ch) 3 []) ∧ t.cox.upd = s.cox.upd ∧ t.regs = s.regs
      ∧ t.pins = s.pins :=
  ⟨_, execUpdBegin_answers hup ht (State.updBegin_busy (State.served_upd.trans hu) hx), State.reply_posted,
    State.reply_upd.trans State.served_upd, State.reply_regs, State.reply_pins⟩

section Data

variable (ht : s.hasTaken ch 0x11 52) (hu : s.cox.upd = some x) (hx : x.ch = ch) (hp : p = slice (s.taken ch) 4 52)

include ht hu hx hp

theorem execUpdData_open (hf : (s.served ch).updData x p = (u, st, [])) :
    execUpdData ch s = .next (u.reply ch (replyTo (s.taken ch) st [])) := by
  subst hp
  exact execUpdData_answers hup ht ((State.inUpd_open (State.served_upd.trans hu) hx).trans hf)

theorem execUpdData_beyond (hb : 0x200000 < updOff p + 48) :
    ∃ t, execUpdData ch s = .next t ∧ t.cox.upd = s.cox.upd ∧ t.pins = s.pins
      ∧ (s.guarded (1, slotBase x.target + updOff p, updBytes p) = false → t.posted ch = pad64 (replyTo (s.taken ch) 2 []) ∧ t.regs = s.regs)
      ∧ (s.guarded (1, slotBase x.target + updOff p, updBytes p) = true → t.fld ⟨0x30A00, 1, 1⟩ = 1
        ∧ ∃ b, t.posted ch = pad64 (replyTo (s.taken ch) b [])) := by
  have hdata := State.updData_beyond (s := s.served ch) (x := x) hb
  cases hg : s.guarded (1, slotBase x.target + updOff p, updBytes p) with
  | false =>
    have hnext := execUpdData_open hup ht hu hx hp (hdata.trans (if_neg (ne_true_of_eq_false hg)))
    exact ⟨_, hnext, State.reply_upd.trans State.served_upd, State.reply_pins, fun _ => ⟨State.reply_posted, State.reply_regs⟩,
      fun h => absurd h (by decide)⟩
  | true =>
    have hnext := execUpdData_open hup ht hu hx hp (hdata.trans (if_pos hg))
    obtain ⟨-, hkept⟩ := State.spi_programs (s := s.served ch) (c := (1, slotBase x.target + updOff p, updBytes p))
    obtain ⟨hpins, hguard⟩ := hkept hg
    refine ⟨_, hnext, State.reply_upd.trans ?_, State.reply_pins.trans hpins, fun h => absurd h (by decide),
      fun _ => ⟨State.reply_fld.trans hguard, _, State.reply_posted⟩⟩
    exact (congrArg Cox.upd State.spi_cox).trans State.served_upd

theorem execUpdData_body (h512 : 512 ≤ updOff p) (hin : updOff p + 48 ≤ 0x200000) :
    ∃ t, execUpdData ch s = .next t ∧ t.posted ch = pad64 (replyTo (s.taken ch) 0 []) ∧ t.cox.upd = s.cox.upd
      ∧ s.programs t (1, slotBase x.target + updOff p, updBytes p) := by
  have hnext := execUpdData_open hup ht hu hx hp (State.updData_body (hp ▸ State.updBytes_length ht) h512 hin)
  exact ⟨_, hnext, State.reply_posted, State.reply_upd.trans ((congrArg Cox.upd State.spi_cox).trans State.served_upd),
    State.programs_reply (State.spi_programs (s := s.served ch))⟩

theorem execUpdData_header (hoff : updOff p + 48 ≤ 512) :
    ∃ t, execUpdData ch s = .next t ∧ t.posted ch = pad64 (replyTo (s.taken ch) 0 [])
      ∧ t.cox.upd = some { x with hdr := putList x.hdr (updOff p) (updBytes p) } ∧ t.pins = s.pins := by
  have hnext := execUpdData_open hup ht hu hx hp (State.updData_header (hp ▸ State.updBytes_length ht) hoff)
  exact ⟨_, hnext, State.reply_posted, State.reply_upd, State.reply_pins⟩

theorem execUpdData_both (hoff : updOff p < 512) (hend : 512 < updOff p + 48) :
    ∃ t, execUpdData ch s = .next t ∧ t.posted ch = pad64 (replyTo (s.taken ch) 0 [])
      ∧ t.cox.upd = some { x with hdr := putList x.hdr (updOff p) ((updBytes p).take (512 - updOff p)) }
      ∧ s.programs t (1, slotBase x.target + 512, (updBytes p).drop (512 - updOff p)) := by
  have hnext := execUpdData_open hup ht hu hx hp (State.updData_both (hp ▸ State.updBytes_length ht) hoff hend)
  exact ⟨_, hnext, State.reply_posted, State.reply_upd.trans (congrArg Cox.upd State.spi_cox),
    State.programs_reply (State.spi_programs (s := (s.served ch).hdrHeld x (updOff p) ((updBytes p).take (512 - updOff p))))⟩

end Data

theorem execUpdCommit_writes {body : List Byte} (ht : s.hasTaken ch 0x12 0) (hu : s.cox.upd = some x) (hx : x.ch = ch)
    (hgood : s.commits x body) :
    ∃ t, execUpdCommit ch body s = .next t ∧ t.posted ch = pad64 (replyTo (s.taken ch) 0 []) ∧ t.cox.upd = none
      ∧ s.programs t (1, slotBase x.target, x.hdr)
      ∧ t.boot.hdr x.target = if s.guarded (1, slotBase x.target, x.hdr) = true then s.boot.hdr x.target else x.hdr := by
  have hopen : (s.served ch).cox.upd = some x := State.served_upd.trans hu
  have hnext := execUpdCommit_answers hup ht ((State.inUpd_open hopen hx).trans (State.updCommit_writes (s := s.served ch) hgood))
  obtain ⟨hupd, -, hguard, hboot, hpins⟩ := State.updEnd_ends ((congrArg Cox.upd State.hdrWritten_cox).trans hopen)
  refine ⟨_, hnext, State.reply_posted, State.reply_upd.trans hupd, ?_, ?_⟩
  · exact State.programs_reply (State.programs_of rfl rfl hpins hguard (State.hdrWritten_programs (s := s.served ch)))
  · rw [State.reply_boot, hboot]
    exact State.hdrWritten_hdr

theorem execUpdCommit_fails {body : List Byte} (ht : s.hasTaken ch 0x12 0) (hu : s.cox.upd = some x) (hx : x.ch = ch)
    (hbad : ¬ s.commits x body) :
    ∃ t, execUpdCommit ch body s = .next t ∧ t.posted ch = pad64 (replyTo (s.taken ch) 4 []) ∧ t.cox.upd = s.cox.upd ∧ t.boot = s.boot
      ∧ t.pins = s.pins := by
  have hopen : (s.served ch).cox.upd = some x := State.served_upd.trans hu
  have hnext := execUpdCommit_answers hup ht ((State.inUpd_open hopen hx).trans (State.updCommit_fails (s := s.served ch) hbad))
  exact ⟨_, hnext, State.reply_posted, State.reply_upd.trans State.served_upd, State.reply_boot, State.reply_pins⟩

theorem execUpdConfirm_refused {z : BitVec 17} (ht : s.hasTaken ch 0x13 0)
    (h : s.fld ⟨0x1000, 14, 1⟩ = 0 ∨ s.runsCommitted = false) : ∃ t, execUpdConfirm ch z s = .next t
      ∧ t.posted ch = pad64 (replyTo (s.taken ch) 3 []) ∧ t.boot = s.boot ∧ t.pins = s.pins :=
  ⟨_, execUpdConfirm_answers hup ht (State.updConfirm_refused (s := s.served ch) h), State.reply_posted, State.reply_boot, State.reply_pins⟩

theorem execUpdConfirm_raises {z : BitVec 17} (ht : s.hasTaken ch 0x13 0) (hb : s.fld ⟨0x1000, 14, 1⟩ ≠ 0) (hr : s.runsCommitted = true) :
    ∃ t, execUpdConfirm ch z s = .next t ∧ t.posted ch = pad64 (replyTo (s.taken ch) 0 [])
      ∧ (s.fld ⟨0x1008, 0, 16⟩ ≤ z.toNat → t.boot = s.boot ∧ t.pins = s.pins)
      ∧ (z.toNat < s.fld ⟨0x1008, 0, 16⟩ → s.programs t (1, 0x400000, anchorBytes (s.fld ⟨0x1008, 0, 16⟩))
        ∧ t.boot.anchor.toNat = if s.guarded (1, 0x400000, anchorBytes (s.fld ⟨0x1008, 0, 16⟩)) = true then s.boot.anchor.toNat
          else s.fld ⟨0x1008, 0, 16⟩) := by
  rcases Nat.lt_or_ge z.toNat (s.fld ⟨0x1008, 0, 16⟩) with hz | hz
  · have hnext := execUpdConfirm_answers hup ht (State.updConfirm_raises (s := s.served ch) hb hr hz)
    obtain ⟨hprog, hanchor⟩ := State.anchorRaised (s := s.served ch)
    refine ⟨_, hnext, State.reply_posted, fun h => absurd hz (Nat.not_lt.mpr h), fun _ => ⟨State.programs_reply hprog, ?_⟩⟩
    rw [State.reply_boot]
    exact hanchor
  · have hnext := execUpdConfirm_answers hup ht (State.updConfirm_raised (s := s.served ch) hb hr hz)
    exact ⟨_, hnext, State.reply_posted, fun _ => ⟨State.reply_boot, State.reply_pins⟩, fun h => absurd h (Nat.not_lt.mpr hz)⟩

theorem execUpdAbort_ends (ht : s.hasTaken ch 0x14 0) (hu : s.cox.upd = some x) (hx : x.ch = ch) :
    ∃ t, execUpdAbort ch s = .next t ∧ t.posted ch = pad64 (replyTo (s.taken ch) 0 []) ∧ t.cox.upd = none
      ∧ t.fld ⟨0x30A00, 0, 1⟩ = 0 ∧ t.boot = s.boot ∧ t.pins = s.pins := by
  have hopen : (s.served ch).cox.upd = some x := State.served_upd.trans hu
  have hnext := execUpdAbort_answers hup ht (State.inUpd_open hopen hx)
  obtain ⟨hupd, hactive, -, hboot, hpins⟩ := State.updEnd_ends hopen
  exact ⟨_, hnext, State.reply_posted, State.reply_upd.trans hupd, State.reply_fld.trans hactive, State.reply_boot.trans hboot,
    State.reply_pins.trans hpins⟩

/-- A step of an update that is not open on its channel (log 5). -/
theorem exec_freeStatus {body : List Byte} {c : Instr} (hu : ∀ x, s.cox.upd = some x → x.ch ≠ ch)
    (hc : s.hasTaken ch 0x11 52 ∧ c = .updData ch ∨ s.hasTaken ch 0x12 0 ∧ c = .updCommit ch body
      ∨ s.hasTaken ch 0x14 0 ∧ c = .updAbort ch) :
    ∃ t b, exec c s = .next t ∧ t.posted ch = pad64 (replyTo (s.taken ch) b []) ∧ t.cox.upd = s.cox.upd ∧ t.freeCtr = s.freeCtr + 1
      ∧ t.boot = s.boot ∧ t.pins = s.pins := by
  have hfree (k) : (s.served ch).inUpd ch k = (s.served ch).freeStatus := State.inUpd_closed fun x hx => hu x (State.served_upd ▸ hx)
  have hnext : exec c s = .next (((s.served ch).freeStatus.1).reply ch (replyTo (s.taken ch) (s.served ch).freeStatus.2.1 [])) := by
    rcases hc with ⟨ht, rfl⟩ | ⟨ht, rfl⟩ | ⟨ht, rfl⟩
    · exact execUpdData_answers hup ht (hfree _)
    · exact execUpdCommit_answers hup ht (hfree _)
    · exact execUpdAbort_answers hup ht (hfree _)
  exact ⟨_, _, hnext, State.reply_posted, State.reply_upd.trans State.served_upd, State.reply_freeCtr, State.reply_boot, State.reply_pins⟩

end Answers

end Updates

/-- Settles O59: each command answers with what its step of the update gives; a step's effect on the flash is past the guards or leaves it
as it is, and the raised anchor lets its own program through. -/
theorem updatesAreWritten : Obligations.UpdatesAreWritten := by
  unfold Obligations.UpdatesAreWritten
  refine ⟨fun ch s hup ht => ⟨execUpdBegin_opens hup ht, fun x => execUpdBegin_busy hup ht⟩,
    fun ch x s hup ht hu hx => ⟨execUpdData_beyond hup ht hu hx rfl, execUpdData_body hup ht hu hx rfl,
      execUpdData_header hup ht hu hx rfl, execUpdData_both hup ht hu hx rfl⟩,
    fun ch x body s hup ht hu hx => ?_, fun ch z s hup ht => ⟨execUpdConfirm_refused hup ht, execUpdConfirm_raises hup ht⟩,
    fun ch x s => execUpdAbort_ends, fun ch body c s hup hu hc => exec_freeStatus hup hu hc⟩
  by_cases hgood : s.commits x body
  · obtain ⟨t, hnext, h⟩ := execUpdCommit_writes hup ht hu hx hgood
    exact ⟨t, hnext, fun _ => h, fun hbad => absurd hgood hbad⟩
  · obtain ⟨t, hnext, h⟩ := execUpdCommit_fails hup ht hu hx hgood
    exact ⟨t, hnext, fun h' => absurd h' hgood, fun _ => h⟩

end Sys2Proof.Machine

/-! SUPPORT. The loader: discovery, the choice of a slot and what a failed one leaves, the body, and the end of BOOT. -/

namespace Sys2Proof.Machine

section Loader

variable {s : State} {f : Fld} {n : Nat} {b : Bool} {y : Sfdp} {z : BitVec 17} {ha hb hdr cox : List Byte} {ws : List Word32}
  {k : AttId} {i : SliceId} {m : PortId} {bk : BitVec 12}

@[simp] theorem State.modBoot_fld {j : Boot → Boot} : (s.modBoot j).fld f = s.fld f := rfl
@[simp] theorem State.modBoot_pins {j : Boot → Boot} : (s.modBoot j).pins = s.pins := rfl

theorem State.booting_iff {x : BootSt} : s.booting x = true ↔ s.mode = .boot ∧ s.boot.st = x := by simp [State.booting]

theorem State.booting_held {x : BootSt} (h : s.booting x = true) : s.held = false := by
  rw [State.held, ← State.mode, (State.booting_iff.mp h).1]
  rfl

/-! ## Discovery (R302) -/

/-- A write of a status register meets no guarded address. -/
theorem State.status_unguarded : s.guarded (3, n, []) = false := by simp [State.guarded, spiSpan]

/-- The QE bit is written where the read mode of the table is a quad mode. -/
def State.quadSet (s : State) (y : Sfdp) : State := if rdMode y = 1 then s else s.spi [(3, y.qer.toNat, [])]

theorem State.quadSet_boot : (s.quadSet y).boot = s.boot := by rw [State.quadSet, apply_ite State.boot, State.spi_boot, ite_self]

theorem State.quadSet_quad (h : rdMode y ≠ 1) : (s.quadSet y).pins.spi = [(3, y.qer.toNat, [])] := by
  rw [State.quadSet, if_neg h]
  exact State.spi_programs.1 State.status_unguarded

theorem State.quadSet_single (h : rdMode y = 1) : (s.quadSet y).pins = s.pins := congrArg State.pins (if_pos h)

theorem rdMode_lt : rdMode y < 2 ^ 2 := by
  unfold rdMode
  split_ifs <;> decide

/-- The read mode of a table is taken (R302). -/
def State.sfdpTaken (s : State) (y : Sfdp) : State :=
  ((((s.quadSet y).modBoot (fun b => { b with dummy := (rdTiming y).1, modeBits := (rdTiming y).2 })).putF ⟨0x1000, 10, 2⟩ (rdMode y)).putF
    ⟨0x1000, 12, 1⟩ y.addr4Only.toNat).putF ⟨0x1000, 13, 1⟩ 1

theorem State.sfdpTaken_boot : (s.sfdpTaken y).boot = { s.boot with dummy := (rdTiming y).1, modeBits := (rdTiming y).2 } :=
  congrArg (fun b : Boot => { b with dummy := (rdTiming y).1, modeBits := (rdTiming y).2 }) State.quadSet_boot

theorem State.sfdpTaken_pins : (s.sfdpTaken y).pins = (s.quadSet y).pins := by
  rw [State.sfdpTaken, State.putF_pins, State.putF_pins, State.putF_pins, State.modBoot_pins]

theorem State.sfdpTaken_mode : (s.sfdpTaken y).fld ⟨0x1000, 10, 2⟩ = rdMode y := by
  rw [State.sfdpTaken, State.fld_putF_beside, State.fld_putF_beside, State.fld_putF (by decide)]
  exact Nat.mod_eq_of_lt rdMode_lt

theorem State.sfdpTaken_addr4 : (s.sfdpTaken y).fld ⟨0x1000, 12, 1⟩ = y.addr4Only.toNat := by
  rw [State.sfdpTaken, State.fld_putF_beside, State.fld_putF (by decide)]
  cases y.addr4Only <;> rfl

theorem State.sfdpTaken_found : (s.sfdpTaken y).fld ⟨0x1000, 13, 1⟩ = 1 := State.fld_putF (by decide)

/-- The loader goes on to the headers. -/
def State.discovered (s : State) : State := s.modBoot (fun b => { b with st := .discovered })

theorem execFlashDiscovery_none (h : s.booting .start = true) : execFlashDiscovery none s = .next s.discovered :=
  if_neg (by rw [h]; decide)

theorem execFlashDiscovery_some (h : s.booting .start = true) :
    execFlashDiscovery (some y) s = .next (s.discovered.sfdpTaken y) := if_neg (by rw [h]; decide)

theorem execFlashDiscovery_discovers {x : Option Sfdp} (h : s.booting .start = true) : ∃ t, execFlashDiscovery x s = .next t
    ∧ t.boot.st = .discovered ∧ (x = none → t.regs = s.regs)
    ∧ ∀ y, x = some y → t.fld ⟨0x1000, 10, 2⟩ = rdMode y ∧ t.fld ⟨0x1000, 12, 1⟩ = y.addr4Only.toNat ∧ t.fld ⟨0x1000, 13, 1⟩ = 1
      ∧ t.boot.dummy = (rdTiming y).1 ∧ t.boot.modeBits = (rdTiming y).2
      ∧ (rdMode y ≠ 1 → t.pins.spi = [(3, y.qer.toNat, [])]) ∧ (rdMode y = 1 → t.pins = s.pins) := by
  cases x with
  | none => exact ⟨_, execFlashDiscovery_none h, rfl, fun _ => rfl, nofun⟩
  | some x =>
    refine ⟨_, execFlashDiscovery_some h, by rw [State.sfdpTaken_boot]; rfl, nofun, fun y hy => ?_⟩
    cases hy
    rw [State.sfdpTaken_boot, State.sfdpTaken_pins]
    exact ⟨State.sfdpTaken_mode, State.sfdpTaken_addr4, State.sfdpTaken_found, rfl, rfl, State.quadSet_quad, State.quadSet_single⟩

/-! ## A slot is tried, or none loads (R307, R309) -/

/-- The loader has failed, before its FATAL cause. -/
def State.noSlot (s : State) : State := (s.putF ⟨0x1000, 0, 2⟩ 3).modBoot (fun b => { b with st := .failed })

theorem State.bootFail_eq : s.bootFail = s.noSlot.fatal 0xA 5 0 0 := rfl

theorem State.bootFail_fails (h : s.held = false) : s.bootFail.mode = .hold ∧ s.bootFail.fld ⟨0x1000, 0, 2⟩ = 3
    ∧ s.bootFail.fld ⟨0x70100, 0, 8⟩ = 0xA ∧ s.bootFail.boot.st = .failed := by
  have hheld : s.noSlot.held = false := h
  obtain ⟨hcause, -⟩ := State.fatal_record (cause := 0xA) (kind := 5) (num := 0) (detail := 0) hheld (by decide) (by decide) (by decide)
    (by decide)
  have hboot : (s.noSlot.fatal 0xA 5 0 0).boot = s.noSlot.boot := State.fatal_agreeOff .boot (by decide)
  rw [State.bootFail_eq, hboot, State.fatal_mode hheld, hcause, State.fld, State.fatal_reg_below (by decide), ← State.fld]
  exact ⟨rfl, State.fld_putF (by decide), rfl, rfl⟩

theorem State.bootFail_fld (ha : f.addr < 0x20010) (hf : (⟨0x1000, 0, 2⟩ : Fld).apart f) : s.bootFail.fld f = s.fld f := by
  rw [State.bootFail_eq, State.fld, State.fatal_reg_below ha, ← State.fld]
  exact State.fld_putF_apart (by decide) hf

theorem State.trySlot_tries : (s.trySlot b).boot.st = .checked ∧ (s.trySlot b).boot.slot = b
    ∧ (s.trySlot b).fld ⟨0x1000, 0, 2⟩ = b.toNat :=
  ⟨rfl, rfl, (State.fld_putF (by decide)).trans (by cases b <;> rfl)⟩

theorem State.trySlot_fld (hf : (⟨0x1000, 0, 2⟩ : Fld).apart f) : (s.trySlot b).fld f = s.fld f := State.fld_putF_apart (by decide) hf

theorem State.trySlot_mode : (s.trySlot b).mode = s.mode := rfl

/-- A slot undone, before the clocks of the slices and the ports begin. -/
def State.undone (s : State) : State :=
  { State.reset with
    pending := s.pending, modes := s.modes, plinth := s.plinth, pins := s.pins, boot := s.boot, regs := s.undoneRegs,
    hostRsp := s.hostRsp, hostOut := s.hostOut, coxRsp := s.coxRsp, cox := s.cox, calAt := s.calAt, freeCtr := s.freeCtr,
    castMem := s.castMem }

theorem State.undoSlot_eq : s.undoSlot = s.undone.startClocks := rfl

theorem State.undoSlot_agreeOff : s.undone.agreeOff [.slices, .ports] s.undoSlot := State.startClocks_agreeOff

theorem State.undoSlot_modes : s.undoSlot.modes = s.modes := State.undoSlot_agreeOff .modes (by decide)

/-- The other slot can be tried. -/
def Boot.fallsBack (b : Boot) : Prop := (if b.slot = true then b.goodA else b.goodB) = true ∧ (!b.slot) ∉ b.tried

/-- A slot's reason is noted and what its records did is undone. -/
def State.slotLost (s : State) (n : Nat) : State := (s.putF ⟨0x1000, if s.boot.slot then 6 else 2, 4⟩ n).undoSlot

theorem State.slotLost_modes : (s.slotLost n).modes = s.modes := by rw [State.slotLost, State.undoSlot_modes, State.putF_modes]

theorem State.failSlot_tries (h : s.boot.fallsBack) : s.failSlot n = (s.slotLost n).trySlot (!s.boot.slot) :=
  if_pos ⟨h.1, by simpa using h.2⟩

theorem State.failSlot_fails (h : ¬ s.boot.fallsBack) : s.failSlot n = (s.slotLost n).bootFail :=
  if_neg fun hc => h ⟨hc.1, by simpa using hc.2⟩

theorem State.putF_mesh_update {x : Mesh} : ({ s with mesh := x } : State).putF f n = { s.putF f n with mesh := x } := rfl

theorem State.undone_mesh_update {x : Mesh} : ({ s with mesh := x } : State).undone = s.undone := rfl

/-- What a failed slot leaves has nothing of the Armature. -/
theorem State.slotLost_crossing {u : QUnit} {q : Nat} : (s.crossing u q).slotLost n = s.slotLost n := by
  rw [State.crossing_eq, State.slotLost, State.slotLost, State.undoSlot_eq, State.undoSlot_eq, State.putF_mesh_update,
    State.undone_mesh_update]

theorem State.failSlot_crossing {u : QUnit} {q : Nat} : (s.crossing u q).failSlot n = s.failSlot n := by
  by_cases h : s.boot.fallsBack
  · rw [State.failSlot_tries h, State.failSlot_tries (s := s.crossing u q) h, State.slotLost_crossing]
    rfl
  · rw [State.failSlot_fails h, State.failSlot_fails (s := s.crossing u q) h, State.slotLost_crossing]

theorem State.failAt_crossing {u : QUnit} {q off : Nat} : (s.crossing u q).failAt n off = s.failAt n off :=
  State.failSlot_crossing (s := s.putF ⟨0x1004, 0, 21⟩ off)

/-! ## Headers (R306, R307) -/

theorem hdrReason_lt {kh : BitVec 384} {fl : Nat} : hdrReason hdr kh fl < 2 ^ 4 := by
  unfold hdrReason
  split_ifs <;> decide

/-- The headers of both slots are read and checked against a floor. -/
def State.hdrsTaken (s : State) (z : BitVec 17) (ha hb : List Byte) (ra rb floor : Nat) : State :=
  ((((s.modBoot (fun b => { b with anchor := z, hdrA := ha, hdrB := hb })).putF ⟨0x1008, 16, 16⟩ (min floor 0xFFFF)).putF
    ⟨0x1000, 2, 4⟩ ra).putF ⟨0x1000, 6, 4⟩ rb).modBoot (fun b => { b with goodA := decide (ra = 0), goodB := decide (rb = 0) })

section Taken

variable {ra rb floor : Nat}

theorem State.hdrsTaken_reasonA (h : ra < 2 ^ 4) : (s.hdrsTaken z ha hb ra rb floor).fld ⟨0x1000, 2, 4⟩ = ra := by
  rw [State.hdrsTaken, State.modBoot_fld, State.fld_putF_beside, State.fld_putF (by decide)]
  exact Nat.mod_eq_of_lt h

theorem State.hdrsTaken_reasonB (h : rb < 2 ^ 4) : (s.hdrsTaken z ha hb ra rb floor).fld ⟨0x1000, 6, 4⟩ = rb := by
  rw [State.hdrsTaken, State.modBoot_fld, State.fld_putF (by decide)]
  exact Nat.mod_eq_of_lt h

theorem State.hdrsTaken_floor : (s.hdrsTaken z ha hb ra rb floor).fld ⟨0x1008, 16, 16⟩ = min floor 0xFFFF := by
  rw [State.hdrsTaken, State.modBoot_fld, State.fld_putF_elsewhere (by decide), State.fld_putF_elsewhere (by decide),
    State.fld_putF (by decide)]
  exact Nat.mod_eq_of_lt (Nat.lt_of_le_of_lt (Nat.min_le_right ..) (by decide))

end Taken

/-- The headers as they are checked. -/
def State.hdrsChecked (s : State) (z : BitVec 17) (ha hb : List Byte) : State :=
  let floor := max z.toNat s.plinth.svnFloor.toNat
  s.hdrsTaken z ha hb (hdrReason ha s.plinth.keyHash floor) (hdrReason hb s.plinth.keyHash floor) floor

section Choice

variable {ra rb qa qb : Nat}

/-- The slot that the reasons and the SEQs of the two headers choose, or none. -/
def State.slotChosen (s : State) (ra rb qa qb : Nat) : State :=
  if ra ≠ 0 ∧ rb ≠ 0 then s.bootFail else s.trySlot (decide (ra ≠ 0) || (decide (rb = 0) && decide (qa < qb)))

theorem State.slotChosen_fld (ha : f.addr < 0x20010) (hf : (⟨0x1000, 0, 2⟩ : Fld).apart f) : (s.slotChosen ra rb qa qb).fld f = s.fld f := by
  unfold State.slotChosen
  split
  · exact State.bootFail_fld ha hf
  · exact State.trySlot_fld hf

theorem State.slotChosen_none (ha : ra ≠ 0) (hb : rb ≠ 0) : s.slotChosen ra rb qa qb = s.bootFail := if_pos ⟨ha, hb⟩

theorem State.slotChosen_a (ha : ra = 0) (h : rb ≠ 0 ∨ qb ≤ qa) : s.slotChosen ra rb qa qb = s.trySlot false := by
  have hb : (decide (ra ≠ 0) || (decide (rb = 0) && decide (qa < qb))) = false := by simpa [ha, imp_iff_not_or] using h
  rw [State.slotChosen, if_neg fun hn => hn.1 ha, hb]

theorem State.slotChosen_b (hb : rb = 0) (h : ra ≠ 0 ∨ qa < qb) : s.slotChosen ra rb qa qb = s.trySlot true := by
  have ha : (decide (ra ≠ 0) || (decide (rb = 0) && decide (qa < qb))) = true := by simpa [hb] using h
  rw [State.slotChosen, if_neg fun hn => hn.2 hb, ha]

end Choice

theorem execSlotHeaderCheck_chooses (hla : ha.length = 512) (hlb : hb.length = 512) (hs : s.booting .discovered = true) :
    let floor := max z.toNat s.plinth.svnFloor.toNat
    let ra := hdrReason ha s.plinth.keyHash floor
    let rb := hdrReason hb s.plinth.keyHash floor
    ∃ t, execSlotHeaderCheck z ha hb s = .next t ∧ t.fld ⟨0x1000, 2, 4⟩ = ra ∧ t.fld ⟨0x1000, 6, 4⟩ = rb
      ∧ t.fld ⟨0x1008, 16, 16⟩ = min floor 0xFFFF
      ∧ (ra ≠ 0 → rb ≠ 0 → t.mode = .hold ∧ t.fld ⟨0x1000, 0, 2⟩ = 3 ∧ t.fld ⟨0x70100, 0, 8⟩ = 0xA ∧ t.boot.st = .failed)
      ∧ (ra = 0 → (rb ≠ 0 ∨ hdrSeq hb ≤ hdrSeq ha) → t.boot.st = .checked ∧ t.boot.slot = false ∧ t.fld ⟨0x1000, 0, 2⟩ = 0)
      ∧ (rb = 0 → (ra ≠ 0 ∨ hdrSeq ha < hdrSeq hb) → t.boot.st = .checked ∧ t.boot.slot = true ∧ t.fld ⟨0x1000, 0, 2⟩ = 1) := by
  intro floor ra rb
  have hnext : execSlotHeaderCheck z ha hb s = .next ((s.hdrsChecked z ha hb).slotChosen ra rb (hdrSeq ha) (hdrSeq hb)) :=
    (if_neg (by simp [hla, hlb])).trans ((if_neg (by rw [hs]; decide)).trans (apply_ite Host.Outcome.next _ _ _).symm)
  have hheld : (s.hdrsChecked z ha hb).held = false := State.booting_held hs
  refine ⟨_, hnext, ?_, ?_, ?_, fun h1 h2 => ?_, fun h1 h2 => ?_, fun h1 h2 => ?_⟩
  · exact (State.slotChosen_fld (by decide) (.inr (.inl (by decide)))).trans (State.hdrsTaken_reasonA hdrReason_lt)
  · exact (State.slotChosen_fld (by decide) (.inr (.inl (by decide)))).trans (State.hdrsTaken_reasonB hdrReason_lt)
  · exact (State.slotChosen_fld (by decide) (.inl (by decide))).trans State.hdrsTaken_floor
  · rw [State.slotChosen_none h1 h2]
    exact State.bootFail_fails hheld
  · rw [State.slotChosen_a h1 h2]
    exact State.trySlot_tries
  · rw [State.slotChosen_b h1 h2]
    exact State.trySlot_tries

/-! ## Signature and body (R306, R308, R434) -/

theorem execSignatureCheck_verifies (h : s.booting .checked = true) : execSignatureCheck s = .next
    (if hdrSigned (s.boot.hdr s.boot.slot) = true then { s with boot := { s.boot with st := .body } } else s.failSlot 6) :=
  (if_neg (by rw [h]; decide)).trans (apply_ite Host.Outcome.next _ _ _).symm

/-- A block of the body is read. -/
def State.blockRead (s : State) (ws : List Word32) : State :=
  if crc32c ((ws.take 1023).flatMap (fun w => bytesOfNat 4 w.toNat)) = ws.getD 1023 0 then
    (s.crossing .service 61).modBoot (fun b => { b with
      bufs := if b.ended then b.bufs else b.bufs ++ [ws.take 1023], blocks := b.blocks + 1,
      body := b.body ++ ws.flatMap (fun w => bytesOfNat 4 w.toNat) })
  else s.failAt 7 (512 + 4096 * s.boot.blocks)

section Block

variable (hl : ws.length = 1024) (hs : s.booting .body = true) (ht : s.boot.blocks < s.boot.total) (hq : s.boot.bufs.length < 2)

include hl hs ht hq

theorem execBodyBlockRead_eq : execBodyBlockRead ws s = .next (s.blockRead ws) := by
  have hgo : ¬ ((!s.booting .body) = true ∨ s.boot.total ≤ s.boot.blocks ∨ 2 ≤ s.boot.bufs.length) := by
    simp [hs, ht, hq]
  rw [State.blockRead, ← State.failAt_crossing (u := .service) (q := 61), apply_ite Host.Outcome.next]
  exact (if_neg (not_not.mpr hl)).trans (if_neg hgo)

theorem execBodyBlockRead_buffers (hc : crc32c ((ws.take 1023).flatMap (fun w => bytesOfNat 4 w.toNat)) = ws.getD 1023 0) :
    ∃ t, execBodyBlockRead ws s = .next t ∧ t.boot.blocks = s.boot.blocks + 1
      ∧ (s.boot.ended = false → t.boot.bufs = s.boot.bufs ++ [ws.take 1023]) ∧ t = { s with boot := t.boot, mesh := t.mesh } := by
  refine ⟨_, (execBodyBlockRead_eq hl hs ht hq).trans (congrArg _ (if_pos hc)), rfl, fun he => ?_, rfl⟩
  exact if_neg (ne_true_of_eq_false he)

theorem execBodyBlockRead_fails (hc : crc32c ((ws.take 1023).flatMap (fun w => bytesOfNat 4 w.toNat)) ≠ ws.getD 1023 0) :
    execBodyBlockRead ws s = .next (s.failAt 7 (512 + 4096 * s.boot.blocks)) :=
  (execBodyBlockRead_eq hl hs ht hq).trans (congrArg _ (if_neg hc))

end Block

theorem execBodyHashCheck_completes (hs : s.booting .body = true) (ht : s.boot.total ≤ s.boot.blocks) (hw : s.boot.waiting = .none)
    (he : s.boot.ended = true) (hl : cox.length = coxLen (s.boot.hdr s.boot.slot)) : execBodyHashCheck cox s = .next
      (if Config.sha384 (s.boot.body ++ cox) = bodyHash (s.boot.hdr s.boot.slot) then s.bootDone cox
        else (s.coxStream cox).failSlot 0xA) := by
  have hgo : ¬ ((!s.booting .body) = true ∨ s.boot.blocks < s.boot.total ∨ s.boot.waiting ≠ .none) := by
    simp [hs, hw, ht]
  refine (if_neg hgo).trans ((if_neg (by rw [he]; decide)).trans ((if_neg (not_not.mpr hl)).trans ?_))
  exact (apply_ite Host.Outcome.next _ _ _).symm

/-! ## The end of BOOT (R278, R294, R301) -/

/-- The home map is T_n for INIT_ACTIVE. -/
theorem State.initMap_hmap : s.initMap.hmap = { s.hmap with
    init := some (BitVec.ofNat 2 (s.fld ⟨0x48000, 0, 2⟩)), epoch := 1, count := BitVec.ofNat 2 (s.fld ⟨0x48000, 0, 2⟩), moved := [],
    edges := [] } := by
  unfold State.initMap
  dsimp only
  generalize BitVec.ofNat 2 (s.fld ⟨0x48000, 0, 2⟩) = n
  have hoff (v : State) :
      v.agreeOff [.slices] (allSlices.foldl (fun s i => s.modSl i (fun x => { x with active := inActive n i.toNat })) v) :=
    State.agreeOff_of_kept (by decide) fun hC hK => Kept.fold _ (fun _ _ h => State.modSl_kept hC h) hK
  exact hoff _ .hmap (by decide)

theorem State.advertiseAll_att : (s.advertiseAll.att k).reqCr = 64 ∧ (s.advertiseAll.att k).rwdCr = 32 :=
  State.foldl_of_nodup (s := s) (view := fun s : State => s.att k) (R := fun _ y => y.reqCr = 64 ∧ y.rwdCr = 32)
    (f := fun s k => s.modAtt k Att.advertise) mem_allAtts nodup_allAtts (fun _ => by rw [State.att_modAtt_self]; exact ⟨rfl, rfl⟩)
    fun _ _ hj => by rw [State.att_modAtt, if_neg hj.symm]

theorem State.initMap_agreeOff : s.agreeOff [.slices, .hmap] s.initMap := State.agreeOff_of_kept (by decide) State.initMap_kept
theorem State.advertiseAll_agreeOff : s.agreeOff [.atts] s.advertiseAll := State.agreeOff_of_kept (by decide) State.advertiseAll_kept

/-- CALIBRATE before its mode is entered. -/
def State.calBegun (s : State) : State :=
  { s.initMap.advertiseAll.startReads with modes := { s.initMap.advertiseAll.startReads.modes with calWindows := 0 } }

theorem State.toCalibrate_eq : s.toCalibrate = s.calBegun.toMode .calibrate := rfl

theorem State.calBegun_agreeOff : s.initMap.advertiseAll.agreeOff [.modes, .ports] s.calBegun :=
  State.agreeOff_of_kept (by decide) fun hC hK => Kept.modes _ (hC _ (by decide)) _ (State.startReads_kept (Kept.sub _ hC rfl) hK)

theorem State.calBegun_regs : s.calBegun.regs = s.regs := by
  rw [State.calBegun_agreeOff .regs (by decide), State.advertiseAll_agreeOff .regs (by decide), State.initMap_agreeOff .regs (by decide)]

theorem State.calBegun_cox : s.calBegun.cox = s.cox := by
  rw [State.calBegun_agreeOff .cox (by decide), State.advertiseAll_agreeOff .cox (by decide), State.initMap_agreeOff .cox (by decide)]

theorem State.toCalibrate_hmap : s.toCalibrate.hmap = s.initMap.hmap := by
  rw [State.toCalibrate_eq, State.toMode_hmap, State.calBegun_agreeOff .hmap (by decide), State.advertiseAll_agreeOff .hmap (by decide)]

theorem State.toCalibrate_mode : s.toCalibrate.mode = .calibrate := by
  rw [State.toCalibrate_eq, State.mode, State.toMode_modes]

theorem State.toCalibrate_fld (ha : f.addr < 0x7003C) : s.toCalibrate.fld f = s.fld f :=
  ((State.Stands.toMode .refl).fld ha).trans (State.fld_of_regs State.calBegun_regs)

theorem State.logPut_running {r : LogRec} : (s.logPut r).cox.running = s.cox.running := by
  unfold State.logPut
  dsimp only
  split
  · rw [State.classRec_cox, State.queueNote_cox]
  · rfl

theorem State.toMode_running {md : Mode} : (s.toMode md).cox.running = s.cox.running := by
  unfold State.toMode
  split
  · rfl
  · rw [State.logHw, State.logPut_running, State.fire_cox]

theorem State.toCalibrate_running : s.toCalibrate.cox.running = s.cox.running := by
  rw [State.toCalibrate_eq, State.toMode_running, State.calBegun_cox]

theorem State.toCalibrate_att : (s.toCalibrate.att k).reqCr = 64 ∧ (s.toCalibrate.att k).rwdCr = 32 := by
  rw [State.toCalibrate_eq, State.toMode_att, State.att, State.calBegun_agreeOff .atts (by decide), ← State.att]
  exact State.advertiseAll_att

theorem State.toCalibrate_homeOf : s.toCalibrate.homeOf bk = targetHome (BitVec.ofNat 2 (s.fld ⟨0x48000, 0, 2⟩)) bk := by
  rw [State.homeOf, State.toCalibrate_hmap, State.initMap_hmap]
  rfl

/-- The words that the end of BOOT writes. -/
def State.bootWords (s : State) : State :=
  (((s.putF ⟨0x1000, 14, 1⟩ 1).putF ⟨0x1008, 0, 16⟩ (hdrSvn (s.boot.hdr s.boot.slot))).setReg 0x100C
    (BitVec.ofNat 32 (hdrSeq (s.boot.hdr s.boot.slot)))).setReg 0x1010 (BitVec.ofNat 32 ((s.now - s.boot.start) / 1000))

/-- BOOT has ended, and Cox is released. -/
def State.bootEnded (s : State) (cox : List Byte) : State :=
  (s.bootWords.modBoot (fun b => { b with
    st := .done, bufs := [], body := [], held := [], coxLen := cox.length, coxHash := Config.sha384 cox })).coxStart cox

theorem State.bootDone_eq (h : s.boot.held = []) : s.bootDone cox = (s.bootEnded cox).toCalibrate := by
  unfold State.bootDone
  dsimp only
  rw [h, List.foldl_nil, State.bootEnded, State.bootWords, State.modBoot]
  rfl

theorem State.bootEnded_fld (hf : f.addr ≠ 0x1008 ∧ f.addr ≠ 0x100C ∧ f.addr ≠ 0x1010) :
    (s.bootEnded cox).fld f = (s.putF ⟨0x1000, 14, 1⟩ 1).fld f := by
  obtain ⟨h8, hC, h10⟩ := hf
  have hregs : (s.bootEnded cox).regs = s.bootWords.regs := rfl
  rw [State.fld_of_regs hregs, State.fld, State.bootWords, State.reg_setReg, if_neg h10, State.reg_setReg, if_neg hC,
    State.reg_putF_ne h8, ← State.fld]

theorem State.bootDone_calibrates (h : s.boot.held = []) : (s.bootDone cox).mode = .calibrate ∧ (s.bootDone cox).cox.running = true
    ∧ (s.bootDone cox).fld ⟨0x1000, 14, 1⟩ = 1 ∧ (s.bootDone cox).hmap.epoch = 1
    ∧ (∀ k, ((s.bootDone cox).att k).reqCr = 64 ∧ ((s.bootDone cox).att k).rwdCr = 32)
    ∧ ∀ b, (s.bootDone cox).homeOf b = targetHome (BitVec.ofNat 2 (s.fld ⟨0x48000, 0, 2⟩)) b := by
  rw [State.bootDone_eq h]
  refine ⟨State.toCalibrate_mode, State.toCalibrate_running, ?_, ?_, fun k => State.toCalibrate_att, fun b => ?_⟩
  · rw [State.toCalibrate_fld (by decide), State.bootEnded_fld (by decide)]
    exact State.fld_putF (by decide)
  · rw [State.toCalibrate_hmap, State.initMap_hmap]
  · rw [State.toCalibrate_homeOf, State.bootEnded_fld (by decide), State.fld_putF_elsewhere (by decide)]

/-! ## A failed slot (R309) -/

theorem State.failSlot_falls_back (h : s.boot.fallsBack) : (s.failSlot n).boot.st = .checked
    ∧ (s.failSlot n).boot.slot = (!s.boot.slot) ∧ (s.failSlot n).mode = s.mode := by
  rw [State.failSlot_tries h]
  obtain ⟨hst, hslot, -⟩ := State.trySlot_tries (s := s.slotLost n) (b := !s.boot.slot)
  refine ⟨hst, hslot, ?_⟩
  rw [State.trySlot_mode, State.mode, State.slotLost_modes, ← State.mode]

theorem State.failSlot_holds (hh : s.held = false) (h : ¬ s.boot.fallsBack) :
    (s.failSlot n).mode = .hold ∧ (s.failSlot n).fld ⟨0x1000, 0, 2⟩ = 3 := by
  have hlost : (s.slotLost n).held = false := by rw [State.held, State.slotLost_modes, ← State.held, hh]
  obtain ⟨hmode, hslot, -⟩ := State.bootFail_fails hlost
  rw [State.failSlot_fails h]
  exact ⟨hmode, hslot⟩

/-! ## The arrays are clear (R416) -/

/-- Every directory is empty. -/
def State.dirsClear (s : State) : State := allSlices.foldl (fun s i => s.modSl i (fun x => { x with dir := [] })) s

/-- Every HLB is empty. -/
def State.waysClear (s : State) : State := allPorts.foldl (fun s m => s.modMp m (fun p => { p with ways := [] })) s

theorem State.dirsClear_agreeOff : s.agreeOff [.slices] s.dirsClear :=
  State.agreeOff_of_kept (by decide) fun hC hK => Kept.fold _ (fun _ _ h => State.modSl_kept hC h) hK

theorem State.waysClear_agreeOff : s.agreeOff [.ports] s.waysClear :=
  State.agreeOff_of_kept (by decide) fun hC hK => Kept.fold _ (fun _ _ h => State.modMp_kept hC h) hK

theorem State.dirsClear_sl : (s.dirsClear.sl i).dir = [] :=
  State.foldl_allSlices (s := s) (view := fun s : State => s.sl i) (R := fun _ y => y.dir = []) i
    (fun _ => by rw [State.sl_modSl_self]) fun _ _ hj => by rw [State.sl_modSl, if_neg hj.symm]

theorem State.waysClear_mp : (s.waysClear.mp m).ways = [] :=
  State.foldl_of_nodup (s := s) (view := fun s : State => s.mp m) (R := fun _ y => y.ways = [])
    (f := fun s m => s.modMp m (fun p => { p with ways := [] })) mem_allPorts nodup_allPorts (fun _ => by rw [State.mp_modMp_self])
    fun _ _ hj => by rw [State.mp_modMp, if_neg hj.symm]

/-- The arrays count as clear. -/
def State.arraysCleared (s : State) : State := { s with modes := { s.modes with arraysClr := true, bistUndef := false } }

theorem execArrayClearDone_clears (hm : s.mode = .boot) (hb : s.boot.st ≠ .held) (hc : s.modes.arraysClr = false) :
    ∃ t, execArrayClearDone s = .next t ∧ t.modes.arraysClr = true ∧ (∀ i, (t.sl i).dir = []) ∧ (∀ m, (t.mp m).ways = [])
      ∧ t.regs = s.regs := by
  have hnext : execArrayClearDone s = .next s.arraysCleared.dirsClear.waysClear := if_pos ⟨hm, hb, hc⟩
  have hways := State.waysClear_agreeOff (s := s.arraysCleared.dirsClear)
  have hdirs := State.dirsClear_agreeOff (s := s.arraysCleared)
  refine ⟨_, hnext, ?_, fun i => ?_, fun m => State.waysClear_mp, (hways .regs (by decide)).trans (hdirs .regs (by decide))⟩
  · rw [hways .modes (by decide), hdirs .modes (by decide)]
    rfl
  · rw [State.sl, hways .slices (by decide), ← State.sl]
    exact State.dirsClear_sl

end Loader

/-- Settles O48: discovery by the fields and the command that it leaves, the choice by the reasons of the two headers, a slot that fails
by the other one or HOLD, and the end of BOOT by the start of CALIBRATE. -/
theorem theLoaderChoosesASlot : Obligations.TheLoaderChoosesASlot := by
  unfold Obligations.TheLoaderChoosesASlot
  exact ⟨fun x s => execFlashDiscovery_discovers, fun z a b s => execSlotHeaderCheck_chooses, fun s => execSignatureCheck_verifies,
    fun ws s hl hs ht hq => ⟨execBodyBlockRead_buffers hl hs ht hq, execBodyBlockRead_fails hl hs ht hq⟩,
    fun cox s => execBodyHashCheck_completes, fun cox s _ => State.bootDone_calibrates,
    fun n s hh => ⟨fun hg hn => State.failSlot_falls_back ⟨hg, hn⟩, fun hbad => State.failSlot_holds hh fun hf => hbad.elim
      (fun hg => ne_true_of_eq_false hg hf.1) hf.2⟩,
    fun s => execArrayClearDone_clears⟩

end Sys2Proof.Machine

/-! SUPPORT. What a command keeps of the queue and of the reserved counters, and what a cycle of clk_ref changes. -/

namespace Sys2Proof.Machine

section ReservedCounters

variable {s t : State} {i : Nat}

/-! ## Reserved counters (R336) -/

/-- Every reserved counter is 0. -/
def State.reservedZero (s : State) : Prop := ∀ i, cReserved i = true → (s.cnt i).value = 0

theorem State.reservedZero_of_cnts (h : t.counts.cnts = s.counts.cnts) (hs : s.reservedZero) : t.reservedZero :=
  fun i hi => by rw [State.cnt, h, ← State.cnt, hs i hi]

/-- A write of a reserved counter leaves its value or makes it 0. -/
theorem State.reservedZero_setCnt {x : Counter} (hs : s.reservedZero)
    (hx : cReserved i = true → x.value = (s.cnt i).value ∨ x.value = 0) : (s.setCnt i x).reservedZero := by
  intro j hj
  rw [State.cnt_setCnt]
  split
  case isTrue e =>
    subst e
    exact (hx hj).elim (fun hv => hv.trans (hs j hj)) id
  case isFalse => exact hs j hj

/-- Where a reset empties the counters, every one of them is 0. -/
theorem State.reservedZero_startClocks (h : s.counts.cnts = []) : s.startClocks.reservedZero := by
  have hcnts : s.startClocks.counts.cnts = s.counts.cnts := State.startClocks_agreeOff .cnts (by decide)
  intro j _
  rw [State.cnt, hcnts, h]
  rfl

/-- Reserved counters are 0: every part's writes keep it, those of the counters since a reserved one does not count, a reset since
it empties them. -/
def keptReservedZero : Kept where
  P s := s.reservedZero
  c _ := True
  modes _ _ _ h := h
  plinth _ _ _ h := h
  pins _ _ _ h := h
  boot _ _ _ h := h
  hostRsp _ _ _ h := h
  hostOut _ _ _ h := h
  coxRsp _ _ _ h := h
  hmap _ _ _ h := h
  cast _ _ _ h := h
  cox _ _ _ h := h
  calAt _ _ _ h := h
  freeCtr _ _ _ h := h
  castMem _ _ _ h := h
  mesh _ _ _ h _ := h
  events _ _ _ h _ := h
  counts _ _ _ h hc := State.reservedZero_of_cnts hc h
  reg _ _ _ _ h := h
  agent _ _ _ _ h := State.reservedZero_of_cnts (by rw [State.setAgent_counts]) h
  hist _ _ _ _ h := h
  att _ _ _ _ h := h
  sl _ _ _ _ h := h
  mp _ _ _ _ h := h
  router _ _ _ _ h := h
  ev _ _ _ _ h := h
  cnt _ _ _ _ h hx := State.reservedZero_setCnt h hx
  wipe _ _ _ _ := State.reservedZero_startClocks rfl
  undo _ _ _ := State.reservedZero_startClocks rfl
  aon _ _ h := h

end ReservedCounters

/-- Settles O5, as an invariant of every write: a reserved counter is written with its own value or with 0. -/
theorem reservedCountersStayZero : Obligations.ReservedCountersStayZero := by
  unfold Obligations.ReservedCountersStayZero
  intro s t h ht
  exact step_kept (K := keptReservedZero) (fun _ => trivial) (fun _ h => h) h t ht

/-! ## The queue -/

theorem State.startClocks_pending {s : State} : s.startClocks.pending = s.pending := by
  unfold State.startClocks
  refine List.foldlRecOn (motive := fun t : State => t.pending = s.pending) _ _ ?_ fun t ht i _ => ht
  exact List.foldlRecOn (motive := fun t : State => t.pending = s.pending) _ _ rfl fun t ht m _ => ht

/-- The queue is `q`: no write of any part reaches it. -/
def keptPending (q : List Instr) : Kept where
  P s := s.pending = q
  c _ := True
  modes _ _ _ h := h
  plinth _ _ _ h := h
  pins _ _ _ h := h
  boot _ _ _ h := h
  hostRsp _ _ _ h := h
  hostOut _ _ _ h := h
  coxRsp _ _ _ h := h
  hmap _ _ _ h := h
  cast _ _ _ h := h
  cox _ _ _ h := h
  calAt _ _ _ h := h
  freeCtr _ _ _ h := h
  castMem _ _ _ h := h
  mesh _ _ _ h _ := h
  events _ _ _ h _ := h
  counts _ _ _ h _ := h
  reg _ _ _ _ h := h
  agent _ _ _ _ h := State.setAgent_pending.trans h
  hist _ _ _ _ h := h
  att _ _ _ _ h := h
  sl _ _ _ _ h := h
  mp _ _ _ _ h := h
  router _ _ _ _ h := h
  ev _ _ _ _ h := h
  cnt _ _ _ _ h _ := h
  wipe _ _ _ h := State.startClocks_pending.trans h
  undo _ _ h := State.startClocks_pending.trans h
  aon _ _ h := h

/-- A command leaves the queue as it is. -/
theorem exec_pending {c : Instr} {s t : State} (h : exec c s = .next t) : t.pending = s.pending :=
  exec_kept (K := keptPending s.pending) c (fun _ => trivial) rfl t h

/-! ## A cycle of clk_ref (R257, R258, R336, R337, R368) -/

section Cycle

variable {s t u : State} {i n : Nat}

/-- What counting in a cycle of clk_ref changes: the counters, event messages, slices' marks for sampling, and the Armature's packets,
synchronisers and followers. -/
def State.countsTo (s t : State) : Prop :=
  (∃ slices inj cross follow msgs counts, t = { s with
    slices, mesh := { s.mesh with inj, cross, follow }, events := { s.events with msgs }, counts })
  ∧ ∀ i, ∃ b, t.sl i = { s.sl i with sampOvf := b }

theorem State.countsTo.refl : s.countsTo s :=
  ⟨⟨s.slices, s.mesh.inj, s.mesh.cross, s.mesh.follow, s.events.msgs, s.counts, rfl⟩, fun i => ⟨(s.sl i).sampOvf, rfl⟩⟩

theorem State.countsTo.trans (h : s.countsTo t) (h' : t.countsTo u) : s.countsTo u := by
  obtain ⟨⟨_, _, _, _, _, _, ht⟩, hsl⟩ := h
  obtain ⟨⟨sl, inj, cross, follow, msgs, counts, hu⟩, hsl'⟩ := h'
  refine ⟨⟨sl, inj, cross, follow, msgs, counts, by rw [hu, ht]⟩, fun i => ?_⟩
  obtain ⟨_, hi⟩ := hsl i
  obtain ⟨b, hi'⟩ := hsl' i
  exact ⟨b, by rw [hi', hi]⟩

theorem State.countsTo.foldl {α : Type} {g : State → α → State} {l : List α} (hg : ∀ (t : State), ∀ x ∈ l, t.countsTo (g t x)) :
    s.countsTo (l.foldl g s) :=
  l.foldlRecOn g .refl fun t ht x hx => ht.trans (hg t x hx)

theorem State.countsTo.ite {c : Prop} [Decidable c] (h : s.countsTo t) (h' : s.countsTo u) : s.countsTo (if c then t else u) := by
  split
  · exact h
  · exact h'

/-- What writes neither a slice nor anything outside the Armature's packets, synchronisers and followers, event messages and the
counters. -/
theorem State.countsTo.of_eq {inj : Store (List Pkt)} {cross : Store Cross} {follow : Store Follower}
    {msgs : List (BitVec 11 × Bool)} {counts : Counts} (h : t = { s with
      mesh := { s.mesh with inj, cross, follow }, events := { s.events with msgs }, counts }) : s.countsTo t := by
  subst h
  exact ⟨⟨s.slices, inj, cross, follow, msgs, counts, rfl⟩, fun i => ⟨(s.sl i).sampOvf, rfl⟩⟩

theorem State.countsTo.evSend {v : Bool} (hi : i < 1952) : s.countsTo (s.evSend i v) := by
  rw [State.evSend, if_pos hi]
  exact .ite .refl (.of_eq rfl)

theorem State.countsTo.fire (hi : i < 1952) : s.countsTo (s.fire i) := (State.countsTo.evSend hi).trans (.evSend hi)

theorem State.countsTo.setCnt {x : Counter} : s.countsTo (s.setCnt i x) := .of_eq rfl

theorem State.countsTo.setDc {x : Dcyc} : s.countsTo (s.setDc i x) := .of_eq rfl

theorem State.countsTo.sampled {k : SliceId} : s.countsTo (s.modSl k (fun x => { x with sampOvf := true })) := by
  refine ⟨⟨(s.modSl k (fun x => { x with sampOvf := true })).slices, s.mesh.inj, s.mesh.cross, s.mesh.follow, s.events.msgs, s.counts,
    rfl⟩, fun i => ?_⟩
  rw [State.sl_modSl]
  split
  case isTrue h => exact ⟨true, by rw [h]⟩
  case isFalse => exact ⟨(s.sl i).sampOvf, rfl⟩

theorem ovfSource_lt (hi : i < 3584) : ovfSource i < 1952 := by
  unfold ovfSource
  split
  · omega
  · split <;> omega

theorem State.countsTo.count (hi : i < 3584) : s.countsTo (s.count i n) := by
  have hfire (x : Counter) : s.countsTo ((s.setCnt i x).fire (ovfSource i)) :=
    State.countsTo.setCnt.trans (.fire (ovfSource_lt hi))
  unfold State.count
  split
  · exact .refl
  · dsimp only
    split
    · split
      · exact (hfire _).trans .sampled
      · exact hfire _
    · exact .setCnt

theorem State.countsTo.countLa {k : AttId} {j : Nat} (hj : j < 32) : s.countsTo (s.count (cLa k j) n) :=
  .count (by unfold cLa; omega)

theorem State.countsTo.countMp {m : PortId} {j : Nat} (hj : j < 32) : s.countsTo (s.count (cMp m j) n) :=
  .count (by unfold cMp; omega)

theorem State.countsTo.countSl {k : SliceId} {j : Nat} (hj : j < 32) : s.countsTo (s.count (cSl k j) n) :=
  .count (by unfold cSl; omega)

theorem State.countsTo.tickAtt {k : AttId} {core lnk : Nat} : s.countsTo (s.tickAtt k core lnk) := by
  unfold State.tickAtt
  dsimp only
  set u := if (s.att k).gate = .opened then s.count (cLa k 7) lnk else s with hu
  have hopen : s.countsTo u := hu ▸ .ite (.countLa (by decide)) .refl
  exact State.countsTo.trans (State.countsTo.trans (State.countsTo.trans (hopen.trans (.ite (.countLa (by decide)) .refl))
    (.countLa (by decide))) (.countLa (by decide))) (.countLa (by decide))

theorem State.countsTo.tickMp {m : PortId} {core mem : Nat} : s.countsTo (s.tickMp m core mem) :=
  State.countsTo.trans (.ite .refl (.countMp (by decide))) (.countMp (by decide))

theorem State.countsTo.tickSl {k : SliceId} {core : Nat} : s.countsTo (s.tickSl k core) :=
  .ite (State.countsTo.trans (.countSl (by decide)) (.countSl (by decide))) .refl

theorem State.countsTo.tickMesh {e : Nat → Nat} : s.countsTo (s.tickMesh e) := .of_eq rfl

/-- The timebase adds `ns`, and the gate of L3 has a place. -/
def State.refCycle (s : State) (ns gatePos : Nat) : State :=
  { s with plinth := { s.plinth with now := s.plinth.now + ns }, modes := { s.modes with gatePos := gatePos } }

theorem State.tick_halted {ns : Nat} (h : s.refRuns = false) : s.tick ns = s := if_pos (by rw [h]; rfl)

/-- A cycle of clk_ref moves the timebase and the gate of L3, and counts. -/
theorem State.tick_running {ns : Nat} (h : s.refRuns = true) : ∃ g, (s.refCycle ns g).countsTo (s.tick ns) := by
  unfold State.tick
  rw [if_neg (by rw [h]; decide)]
  dsimp only
  split
  · exact ⟨s.modes.gatePos, .refl⟩
  · exact ⟨_, State.countsTo.trans (State.countsTo.trans (State.countsTo.trans (State.countsTo.trans (.foldl fun _ _ _ => .setDc)
      .tickMesh) (.foldl fun _ _ _ => .tickSl)) (.foldl fun _ _ _ => .tickAtt)) (.foldl fun _ _ _ => .tickMp)⟩

theorem State.tick_refCycle {ns : Nat} : ∃ g, (s.refCycle (if s.refRuns = true then ns else 0) g).countsTo (s.tick ns) := by
  cases h : s.refRuns with
  | true => exact State.tick_running h
  | false =>
    rw [State.tick_halted h]
    exact ⟨s.modes.gatePos, .refl⟩

end Cycle

/-- Settles O1: a step looks at the queue alone. -/
theorem stepRunsFrontCommand : Obligations.StepRunsFrontCommand := by
  unfold Obligations.StepRunsFrontCommand
  intro s c rest h
  rw [step, h]

/-- Settles O2: a cycle of clk_ref moves the timebase and the gate and counts, and no part that a command writes is the queue. -/
theorem emptyQueueTicksAndCommandsLeaveTheQueue : Obligations.EmptyQueueTicksAndCommandsLeaveTheQueue := by
  unfold Obligations.EmptyQueueTicksAndCommandsLeaveTheQueue
  refine ⟨fun s h => ?_, fun c s t => exec_pending⟩
  have hstep : step s = .next (s.tick 10) := by rw [step, h]
  obtain ⟨g, ⟨slices, inj, cross, follow, msgs, counts, ht⟩, hsl⟩ := State.tick_refCycle (s := s) (ns := 10)
  refine ⟨_, hstep, by rw [ht]; rfl, fun i => ?_, by rw [ht]; rfl, by rw [ht]; rfl⟩
  obtain ⟨b, hb⟩ := hsl i
  rw [hb]
  rfl

end Sys2Proof.Machine

/-! SUPPORT. The event controller: what a source takes, how a claim ends, the words of EV_SRC and TGT_CTRL, and which source a claim
takes. -/

namespace Sys2Proof.Machine

section EventController

variable {s t : State} {e : EvSrc} {i j a : Nat} {v : Bool} {n : BitVec 3} {w d : Word32}

/-! ## A field written and read back -/

/-- A field keeps a value that it has room for. -/
theorem State.fld_putF_fits {lo len c : Nat} (hc : c < 2 ^ len) (h : lo + len ≤ 32) :
    (s.putF ⟨a, lo, len⟩ c).fld ⟨a, lo, len⟩ = c := (State.fld_putF h).trans (Nat.mod_eq_of_lt hc)

theorem State.fld_incF_here {lo len : Nat} (h : lo + len ≤ 32) :
    (s.incF ⟨a, lo, len⟩).fld ⟨a, lo, len⟩ = min (2 ^ len - 1) (s.fld ⟨a, lo, len⟩ + 1) := State.fld_incF h

/-! ## A source takes a value (R325, R326) -/

/-- A source after its input takes a value. -/
def EvSrc.taken (e : EvSrc) (v : Bool) : EvSrc :=
  { e with
    input := v, pending := if e.active = true then e.pending else if e.trig = true then e.pending || v else v,
    edge := if e.trig = true ∧ e.active = true ∧ v = true then true else e.edge }

theorem EvSrc.take_fst : (e.take v).1 = e.taken v := by
  unfold EvSrc.take EvSrc.taken
  cases ht : e.trig with
  | true =>
    cases v with
    | true => cases ha : e.active <;> simp
    | false => simp
  | false => cases ha : e.active <;> simp

theorem State.evInput_eq : s.evInput i v = s.setEv i ((s.ev i).taken v)
    ∨ s.evInput i v = (s.setEv i ((s.ev i).taken v)).evCount 0x12308 i 0 := by
  rw [← EvSrc.take_fst]
  unfold State.evInput
  dsimp only
  split
  · exact .inr rfl
  · exact .inl rfl

theorem State.ev_evInput_self : (s.evInput i v).ev i = (s.ev i).taken v := by
  rcases State.evInput_eq (s := s) (i := i) (v := v) with h | h
  · rw [h, State.ev_setEv_self]
  · rw [h, State.evCount_ev, State.ev_setEv_self]

theorem State.ev_evInput_ne (h : j ≠ i) : (s.evInput i v).ev j = s.ev j := by
  rcases State.evInput_eq (s := s) (i := i) (v := v) with e | e
  · rw [e, State.ev_setEv, if_neg h]
  · rw [e, State.evCount_ev, State.ev_setEv, if_neg h]

theorem State.evInput_queues : (s.evInput i v).events.msgs = s.events.msgs ∧ (s.evInput i v).events.globs = s.events.globs := by
  rcases State.evInput_eq (s := s) (i := i) (v := v) with h | h <;> rw [h] <;> exact ⟨rfl, rfl⟩

theorem execEventMessage_head {k : BitVec 11} {ms : List (BitVec 11 × Bool)} (h : s.events.msgs = (k, v) :: ms) :
    execEventMessage s = .next ({ s with events := { s.events with msgs := ms } }.evInput k.toNat v) := by
  rw [execEventMessage, h]

theorem execGlobalSourceChange_head {k : BitVec 11} {ms : List (BitVec 11 × Bool)} (h : s.events.globs = (k, v) :: ms) :
    execGlobalSourceChange s = .next ({ s with events := { s.events with globs := ms } }.evInput k.toNat v) := by
  rw [execGlobalSourceChange, h]

/-! ## Completions (R330, R331) -/

theorem State.completeFor_held {id : BitVec 12} (hid : id.toNat < 2048) (h : (s.ev id.toNat).heldBy n = true) :
    s.completeFor n id = s.setEv id.toNat (s.ev id.toNat).finish
      ∨ s.completeFor n id = (s.setEv id.toNat (s.ev id.toNat).finish).evCount 0x12304 id.toNat n.toNat := by
  have hne : id ≠ 0xFFF := fun e => absurd hid (by rw [e]; decide)
  unfold State.completeFor
  dsimp only
  rw [if_neg hne, if_pos ⟨hid, h⟩]
  split
  · exact .inl rfl
  · exact .inr rfl

theorem State.completeFor_not_held {id : BitVec 12} (hid : id.toNat < 2048) (h : (s.ev id.toNat).heldBy n = false) :
    s.completeFor n id = s.evCount 0x12300 id.toNat n.toNat := by
  have hne : id ≠ 0xFFF := fun e => absurd hid (by rw [e]; decide)
  unfold State.completeFor
  dsimp only
  rw [if_neg hne, if_neg (by rw [h]; simp)]

/-- A count of the event controller, with the source and the target it was for. -/
theorem State.evCount_fields {c k : Nat} (hc : c < 2048) (hk : k < 8) : (s.evCount a c k).fld ⟨a, 0, 16⟩ = min 65535 (s.fld ⟨a, 0, 16⟩ + 1)
    ∧ (s.evCount a c k).fld ⟨a, 16, 11⟩ = c ∧ (s.evCount a c k).fld ⟨a, 27, 3⟩ = k := by
  unfold State.evCount
  refine ⟨?_, ?_, ?_⟩
  · rw [State.fld_putF_beside (by decide) (by decide), State.fld_putF_beside (by decide) (by decide), State.fld_incF_here (by decide)]
    rfl
  · rw [State.fld_putF_beside (by decide) (by decide), State.fld_putF_fits hc (by decide)]
  · rw [State.fld_putF_fits hk (by decide)]

theorem State.evCount_reg_ne {b c k : Nat} (h : b ≠ a) : (s.evCount a c k).reg b = s.reg b := by
  rw [State.evCount, State.reg_putF_ne h, State.reg_putF_ne h]
  exact State.reg_putF_ne h

theorem execComplete_up {id : BitVec 12} (h : s.fwUp = true) : execComplete n id s = .next (s.completeFor n id) := if_pos h

/-! ## Writes of EV_SRC and TGT_CTRL (R317, R327, R333) -/

theorem mergeBe_all : mergeBe w d 0xF = d := by
  have hall : beMask 0xF = BitVec.allOnes 32 := by decide
  rw [mergeBe, hall, BitVec.not_allOnes, BitVec.and_zero, BitVec.zero_or, BitVec.and_allOnes]

theorem execEvSrcWrite_up {k : BitVec 11} (h : s.fwUp = true) (hr : evReserved k.toNat = false) :
    ∃ p, execEvSrcWrite k 0xF d s = .next (s.setEv k.toNat { s.ev k.toNat with
      prio := d.extractLsb' 0 8, targets := d.extractLsb' 8 8, trig := d.getLsbD 16, pending := p }) := by
  have hput : execEvSrcWrite k 0xF d s = .next (s.evSrcPut k.toNat 0xF d) := if_pos h
  rw [hput, State.evSrcPut]
  dsimp only
  rw [if_neg (by rw [hr]; decide), mergeBe_all]
  exact ⟨_, rfl⟩

/-- The low bits of a word. -/
theorem bits_and_low {lo len : Nat} (h : lo + len ≤ 24) : bits (w &&& 0xFFFFFF) lo len = w.toNat / 2 ^ lo % 2 ^ len := by
  have hmask : (w &&& 0xFFFFFF).toNat = w.toNat % 2 ^ 24 := by
    rw [BitVec.toNat_and]
    exact Nat.and_two_pow_sub_one_eq_mod w.toNat 24
  have hsplit : 2 ^ 24 = 2 ^ lo * (2 ^ len * 2 ^ (24 - (lo + len))) := by
    rw [← pow_add, ← pow_add]
    congr 1
    omega
  rw [bits, hmask, hsplit, Nat.mod_mul_right_div_self, Nat.mod_mul_right_mod]

/-- An edge is raised to the one below it. -/
theorem bits_atLeast_self {lo mn : Nat} (h : lo + 8 ≤ 32) (hmn : mn ≤ 255) : bits (atLeast w lo 8 mn 255) lo 8 = max mn (bits w lo 8) := by
  have hlt : bits w lo 8 < 2 ^ 8 := bits_lt
  rw [atLeast, clampF, bits_putBits_self h]
  split_ifs <;> omega

theorem bits_atLeast_below {lo mn lo' len : Nat} (h : lo + 8 ≤ 32) (hd : lo' + len ≤ lo) :
    bits (atLeast w lo 8 mn 255) lo' len = bits w lo' len := bits_putBits_below h hd

theorem bits_atLeast_above {lo mn lo' len : Nat} (h : lo + 8 ≤ 32) (hd : lo + 8 ≤ lo') :
    bits (atLeast w lo 8 mn 255) lo' len = bits w lo' len := bits_putBits_above h hd

/-- The three edges of TGT_CTRL in ascending order. -/
def ascendingEdges (w : Word32) : Word32 :=
  let w := atLeast w 8 8 (bits w 0 8) 255
  atLeast w 16 8 (bits w 8 8) 255

theorem clampWord_tgtCtrl : clampWord (0x12008 + 16 * n.toNat) w = ascendingEdges w := by
  have hn : n.toNat < 8 := n.isLt
  rw [clampWord, if_pos (by omega), clampGlobal, if_pos (by omega), ascendingEdges]

theorem ascendingEdges_bits : bits (ascendingEdges w) 0 8 = bits w 0 8 ∧ bits (ascendingEdges w) 8 8 = max (bits w 0 8) (bits w 8 8)
    ∧ bits (ascendingEdges w) 16 8 = max (max (bits w 0 8) (bits w 8 8)) (bits w 16 8) := by
  have hmid : bits (atLeast w 8 8 (bits w 0 8) 255) 8 8 = max (bits w 0 8) (bits w 8 8) :=
    bits_atLeast_self (by decide) (Nat.le_of_lt_succ bits_lt)
  unfold ascendingEdges
  refine ⟨?_, ?_, ?_⟩
  · rw [bits_atLeast_below (by decide) (by decide), bits_atLeast_below (by decide) (by decide)]
  · rw [bits_atLeast_below (by decide) (by decide), hmid]
  · rw [bits_atLeast_self (by decide) (Nat.le_of_lt_succ bits_lt), hmid, bits_atLeast_above (by decide) (by decide)]

theorem execTgtCtrlWrite_up (h : s.fwUp = true) : execTgtCtrlWrite n 0xF d s
    = .next (s.setReg (0x12008 + 16 * n.toNat) (ascendingEdges (d &&& 0xFFFFFF))) := by
  have hput : execTgtCtrlWrite n 0xF d s = .next (s.tgtCtrlPut n 0xF d) := if_pos h
  rw [hput, State.tgtCtrlPut, mergeBe_all, clampWord_tgtCtrl]

/-! ## Claims (R328, R329) -/

theorem mem_of_urgentOf {l : List (Nat × EvSrc)} {p : Nat × EvSrc} (h : urgentOf l = some p) : p ∈ l := by
  induction l generalizing p with
  | nil => cases h
  | cons x l ih =>
    unfold urgentOf at h
    cases hu : urgentOf l with
    | none =>
      rw [hu] at h
      cases h
      exact List.mem_cons_self
    | some b =>
      rw [hu] at h
      dsimp only at h
      split at h
      · cases h
        exact List.mem_cons_of_mem _ (ih hu)
      · cases h
        exact List.mem_cons_self

theorem urgentOf_eq_none {l : List (Nat × EvSrc)} (h : urgentOf l = none) : l = [] := by
  cases l with
  | nil => rfl
  | cons x l =>
    unfold urgentOf at h
    split at h
    · cases h
    · split at h <;> cases h

/-- Of a list in the order of its keys, `urgentOf` gives the member that no other precedes by priority, or by key among equals. -/
theorem urgentOf_eq_some {l : List (Nat × EvSrc)} (hs : l.Pairwise (fun p q => p.1 < q.1)) {p : Nat × EvSrc} (hp : p ∈ l)
    (hmin : ∀ q ∈ l, p.2.prio ≤ q.2.prio ∧ (q.2.prio = p.2.prio → p.1 ≤ q.1)) : urgentOf l = some p := by
  induction l with
  | nil => exact absurd hp List.not_mem_nil
  | cons x l ih =>
    obtain ⟨hx, hl⟩ := List.pairwise_cons.mp hs
    unfold urgentOf
    rcases List.mem_cons.mp hp with rfl | hpl
    · cases hu : urgentOf l with
      | none => rfl
      | some b =>
        obtain ⟨hle, -⟩ := hmin b (List.mem_cons_of_mem _ (mem_of_urgentOf hu))
        exact if_neg (BitVec.not_lt.mpr hle)
    · rw [ih hl hpl fun q hq => hmin q (List.mem_cons_of_mem _ hq)]
      obtain ⟨hle, hkey⟩ := hmin x List.mem_cons_self
      have hne : p.2.prio ≠ x.2.prio := fun he => absurd (hkey he.symm) (Nat.not_le.mpr (hx p hpl))
      exact if_pos (BitVec.lt_of_le_ne hle hne)

/-- The keys of a store in its canonical form rise. -/
theorem Store.pairwise_keys {α : Type} [DecidableEq α] {f : Nat → α} {m : Store α} (h : Store.wf f m = true) :
    m.Pairwise (fun p q => p.1 < q.1) := by
  induction m with
  | nil => exact .nil
  | cons x m ih => exact List.pairwise_cons.mpr ⟨Store.keys_gt h, ih (Store.wf_tail h)⟩

theorem State.pairwise_eligibles (h : Store.wf EvSrc.reset s.events.srcs = true) :
    (s.eligibles n).Pairwise (fun p q => p.1 < q.1) := (Store.pairwise_keys h).filter _

/-- What CLAIM_n reads when a read of it gives `x`. -/
def State.claimRead (s : State) (x : BitVec 12) : State := { s with events := { s.events with claim := x } }

theorem State.claimFor_none (h : s.eligibles n = []) : s.claimFor n = (s.claimRead 0xFFF, 0xFFF) := by
  rw [State.claimFor, h]
  rfl

theorem State.claimFor_some (h : urgentOf (s.eligibles n) = some (i, e)) : s.claimFor n
    = ((s.setEv i { e with pending := false, active := true, claimant := n }).claimRead (BitVec.ofNat 12 i), BitVec.ofNat 32 i) := by
  rw [State.claimFor, h]
  rfl

/-- A read by a command of its own, served. -/
theorem State.readBy_up {src : RegSrc} {f : State → State × Word32} (hu : s.srcUp src = true) (hm : s.mode ≠ .boot) :
    s.readBy src f = (f s).1.respond src (f s).2 .ok := by
  rw [State.readBy, if_neg (by rw [hu]; decide), if_neg hm]

theorem State.respond_agreeOff {src : RegSrc} {st : RegSt} : s.agreeOff [.rsp, .mesh] (s.respond src d st) :=
  State.agreeOff_of_kept (by decide) State.respond_kept

theorem State.respond_ev {src : RegSrc} {st : RegSt} : (s.respond src d st).ev j = s.ev j := by
  rw [State.ev, State.respond_agreeOff .srcs (by decide), State.ev]

theorem State.respond_answer {src : RegSrc} {st : RegSt} :
    (if src = .cox then (s.respond src d st).coxRsp else (s.respond src d st).hostRsp) = some (RegRsp.mk d st) := by
  cases src <;> rfl

theorem State.respond_claimRead {src : RegSrc} {st : RegSt} {x : BitVec 12} :
    (s.claimRead x).respond src d st = { s.respond src d st with events := { s.events with claim := x } } := by
  cases src <;> simp only [State.respond, State.reqTaken_eq] <;> rfl

end EventController

/-- Settles O51: the two queues give their heads to one function of a source, a completion ends by what that source holds, and the
words are written under their masks and clamps. -/
theorem eventsAreTakenAndEnded : Obligations.EventsAreTakenAndEnded := by
  unfold Obligations.EventsAreTakenAndEnded
  refine ⟨fun i v ms s => ⟨fun h => ?_, fun h => ?_⟩, fun n id s hu hid => ⟨fun h => ?_, fun h => ?_⟩, fun i d s hu hr => ?_,
    fun n d s hu => ?_⟩
  · obtain ⟨hmsgs, hglobs⟩ := State.evInput_queues (s := { s with events := { s.events with msgs := ms } }) (i := i.toNat) (v := v)
    exact ⟨_, execEventMessage_head h, hmsgs, State.ev_evInput_self, fun j hj => State.ev_evInput_ne hj, hglobs, State.evInput_slices,
      State.evInput_atts⟩
  · obtain ⟨hmsgs, hglobs⟩ := State.evInput_queues (s := { s with events := { s.events with globs := ms } }) (i := i.toNat) (v := v)
    exact ⟨_, execGlobalSourceChange_head h, hglobs, State.ev_evInput_self, fun j hj => State.ev_evInput_ne hj, hmsgs,
      State.evInput_slices, State.evInput_atts⟩
  · refine ⟨_, execComplete_up hu, ?_⟩
    rcases State.completeFor_held hid h with e | e
    · rw [e]
      exact ⟨State.ev_setEv_self, fun j hj => by rw [State.ev_setEv, if_neg hj], rfl, rfl⟩
    · rw [e]
      exact ⟨State.ev_setEv_self, fun j hj => by rw [State.evCount_ev, State.ev_setEv, if_neg hj], rfl, rfl⟩
  · obtain ⟨hcount, hlast, htgt⟩ := State.evCount_fields (s := s) (a := 0x12300) hid n.isLt
    refine ⟨_, execComplete_up hu, ?_⟩
    rw [State.completeFor_not_held hid h]
    exact ⟨rfl, hcount, hlast, htgt, fun a ha => State.evCount_reg_ne ha⟩
  · obtain ⟨p, hp⟩ := execEvSrcWrite_up (d := d) hu hr
    exact ⟨_, hp, by rw [State.ev_setEv_self], by rw [State.ev_setEv_self], by rw [State.ev_setEv_self], by rw [State.ev_setEv_self],
      by rw [State.ev_setEv_self], fun j hj => by rw [State.ev_setEv, if_neg hj], rfl⟩
  · obtain ⟨hlow, hmid, hhigh⟩ := ascendingEdges_bits (w := d &&& 0xFFFFFF)
    rw [bits_and_low (by decide)] at hlow
    rw [bits_and_low (by decide), bits_and_low (by decide)] at hmid
    rw [bits_and_low (by decide), bits_and_low (by decide), bits_and_low (by decide)] at hhigh
    refine ⟨_, execTgtCtrlWrite_up hu, ?_, ?_, ?_, fun a ha => by rw [State.reg_setReg, if_neg ha], rfl⟩
    · simpa [State.fld] using hlow
    · simpa [State.fld] using hmid
    · simpa [State.fld] using hhigh

/-- Settles O52: the eligible sources stand in the order of their numbers, so that the first of the least priority is the one that no
other precedes. -/
theorem claimsTakeTheMostUrgent : Obligations.ClaimsTakeTheMostUrgent := by
  unfold Obligations.ClaimsTakeTheMostUrgent
  intro n src s hu hm hw
  refine ⟨fun h => ?_, fun i e hi hmin => ?_⟩
  · have hexec : exec (.claim n src) s = .next ((s.claimRead 0xFFF).respond src 0xFFF .ok) := by
      rw [exec, execClaim, State.readBy_up hu hm, State.claimFor_none h]
    exact ⟨_, hexec, State.respond_agreeOff .srcs (by decide), State.respond_claimRead⟩
  · have hurgent : urgentOf (s.eligibles n) = some (i, e) :=
      urgentOf_eq_some (State.pairwise_eligibles hw) hi fun q hq => hmin q.1 q.2 hq
    have hexec : exec (.claim n src) s = .next (((s.setEv i { e with pending := false, active := true, claimant := n }).claimRead
        (BitVec.ofNat 12 i)).respond src (BitVec.ofNat 32 i) .ok) := by
      rw [exec, execClaim, State.readBy_up hu hm, State.claimFor_some hurgent]
    refine ⟨_, hexec, ?_, fun j hj => ?_, State.respond_answer, State.respond_agreeOff .regs (by decide),
      State.respond_agreeOff .slices (by decide)⟩
    · rw [State.respond_ev]
      exact State.ev_setEv_self
    · rw [State.respond_ev]
      exact State.ev_setEv.trans (if_neg hj)

end Sys2Proof.Machine

/-! SUPPORT. Counters: reads that latch, arming, the wrap of an armed counter, and what FREEZE and CLEAR do. -/

namespace Sys2Proof.Machine

section CounterReads

variable {s t : State} {i j n p m : Nat} {b : Bool} {d : Word32} {c : Counter}

/-! ## Reads of the host port that latch (R273, R338, R349, R368) -/

theorem State.srcUp_host (h : s.portUp = true) : s.srcUp .host = true := by rw [State.srcUp, h]; rfl

/-- A read by a command of the host port, served. -/
theorem State.readBy_host {f : State → State × Word32} (hu : s.portUp = true) (hm : s.mode ≠ .boot) :
    s.readBy .host f = (f s).1.respond .host (f s).2 .ok := by
  rw [State.readBy, if_neg (by rw [State.srcUp_host hu]; decide), if_neg hm]

theorem State.respond_host_hostRsp {st : RegSt} : (s.respond .host d st).hostRsp = some (RegRsp.mk d st) := rfl
theorem State.respond_host_counts {st : RegSt} : (s.respond .host d st).counts = s.counts := by rw [State.respond_host]
theorem State.respond_host_plinth {st : RegSt} : (s.respond .host d st).plinth = s.plinth := by rw [State.respond_host]
theorem State.respond_host_regs {st : RegSt} : (s.respond .host d st).regs = s.regs := by rw [State.respond_host]
theorem State.respond_host_cnt {st : RegSt} : (s.respond .host d st).cnt j = s.cnt j := by
  rw [State.cnt, State.respond_host_counts, State.cnt]
theorem State.respond_host_dc {st : RegSt} : (s.respond .host d st).dc j = s.dc j := by
  rw [State.dc, State.respond_host_counts, State.dc]
theorem State.respond_host_router {st : RegSt} : (s.respond .host d st).router j = s.router j := by
  rw [State.respond_host]
  rfl

theorem State.cntLo_open (hs : s.cntShut i = false) (hr : cReserved i = false) : s.cntLo i
    = (s.setCnt i { s.cnt i with latch := (s.cnt i).value.extractLsb' 32 16 }, (s.cnt i).value.setWidth 32) := by
  rw [State.cntLo, if_neg (by rw [hs]; decide), if_neg (by rw [hr]; decide)]

theorem execCntLoRead_latches {i : Fin 3584} (hu : s.portUp = true) (hm : s.mode ≠ .boot) (hs : s.cntShut i.val = false)
    (hr : cReserved i.val = false) : ∃ t, execCntLoRead i s = .next t
      ∧ t.hostRsp = some (RegRsp.mk ((s.cnt i.val).value.setWidth 32) .ok)
      ∧ t.cnt i.val = { s.cnt i.val with latch := (s.cnt i.val).value.extractLsb' 32 16 }
      ∧ (∀ j, j ≠ i.val → t.cnt j = s.cnt j) ∧ t.regs = s.regs := by
  have hnext := State.readBy_host (f := fun s => s.cntLo i.val) hu hm
  rw [State.cntLo_open hs hr] at hnext
  refine ⟨_, congrArg Host.Outcome.next hnext, State.respond_host_hostRsp, ?_, fun j hj => ?_, State.respond_host_regs⟩
  · rw [State.respond_host_cnt, State.cnt_setCnt_self]
  · rw [State.respond_host_cnt, State.cnt_setCnt, if_neg hj]

theorem State.dc_setDc {x : Dcyc} : (s.setDc i x).dc j = if j = i then x else s.dc j := Store.get_set

theorem execDcycLowRead_latches {k : Fin 40} (hu : s.portUp = true) (hm : s.mode ≠ .boot) : ∃ t, execDcycLowRead k s = .next t
    ∧ t.hostRsp = some (RegRsp.mk ((s.dc k.val).value.setWidth 32) .ok)
    ∧ t.dc k.val = { s.dc k.val with latch := (s.dc k.val).value.extractLsb' 32 16 } ∧ (∀ j, j ≠ k.val → t.dc j = s.dc j)
    ∧ t.regs = s.regs := by
  refine ⟨_, congrArg Host.Outcome.next (State.readBy_host (f := fun s => s.dcycLo k.val) hu hm), State.respond_host_hostRsp, ?_, fun j hj => ?_,
    State.respond_host_regs⟩
  · rw [State.respond_host_dc, State.dcycLo, State.dc_setDc, if_pos rfl]
  · rw [State.respond_host_dc, State.dcycLo, State.dc_setDc, if_neg hj]

theorem execPrbCntLowRead_latches0 {k : Fin 80} (hu : s.portUp = true) (hm : s.mode ≠ .boot) :
    ∃ t, execPrbCntLowRead k false s = .next t ∧ t.hostRsp = some (RegRsp.mk ((s.router k.val).prb0.setWidth 32) .ok)
      ∧ t.router k.val = { s.router k.val with latch0 := (s.router k.val).prb0.extractLsb' 32 16 }
      ∧ ∀ j, j ≠ k.val → t.router j = s.router j := by
  refine ⟨_, congrArg Host.Outcome.next (State.readBy_host (f := fun s => s.prbLo k.val false) hu hm), State.respond_host_hostRsp, ?_,
    fun j hj => ?_⟩
  · rw [State.respond_host_router]
    exact State.router_setRouter_self
  · rw [State.respond_host_router]
    exact State.router_setRouter.trans (if_neg hj)

theorem execPrbCntLowRead_latches1 {k : Fin 80} (hu : s.portUp = true) (hm : s.mode ≠ .boot) :
    ∃ t, execPrbCntLowRead k true s = .next t ∧ t.hostRsp = some (RegRsp.mk ((s.router k.val).prb1.setWidth 32) .ok)
      ∧ t.router k.val = { s.router k.val with latch1 := (s.router k.val).prb1.extractLsb' 32 16 }
      ∧ ∀ j, j ≠ k.val → t.router j = s.router j := by
  refine ⟨_, congrArg Host.Outcome.next (State.readBy_host (f := fun s => s.prbLo k.val true) hu hm), State.respond_host_hostRsp, ?_,
    fun j hj => ?_⟩
  · rw [State.respond_host_router]
    exact State.router_setRouter_self
  · rw [State.respond_host_router]
    exact State.router_setRouter.trans (if_neg hj)

theorem execTbNowLoRead_latches (hu : s.portUp = true) (hm : s.mode ≠ .boot) : ∃ t, execTbNowLoRead s = .next t
    ∧ t.hostRsp = some (RegRsp.mk (BitVec.ofNat 32 s.now) .ok) ∧ t.now = s.now
    ∧ t.plinth.hiLatch = BitVec.ofNat 32 (s.now / 2 ^ 32) ∧ t.regs = s.regs := by
  refine ⟨_, congrArg Host.Outcome.next (State.readBy_host (f := State.tbLo) hu hm), State.respond_host_hostRsp, ?_, ?_, State.respond_host_regs⟩
  · rw [State.now, State.respond_host_plinth]
    rfl
  · rw [State.respond_host_plinth]
    rfl

/-! ## Arming (R339) -/

theorem execArm_open {i : Fin 3584} (hu : s.fwUp = true) (hs : s.cntShut i.val = false) (hr : cReserved i.val = false) :
    execArm i s = .next (s.setCnt i.val { s.cnt i.val with
      value := BitVec.ofNat 48 (2 ^ 48 - (s.cnt i.val).preset.toNat), armed := true }) := by
  rw [execArm, if_pos hu, if_neg (by rw [hs]; decide), State.armCnt, if_neg (by rw [hr]; decide)]

theorem execDisarm_open {i : Fin 3584} (hu : s.fwUp = true) (hs : s.cntShut i.val = false) :
    execDisarm i s = .next (s.setCnt i.val { s.cnt i.val with armed := false }) := by
  rw [execDisarm, if_pos hu, if_neg (by rw [hs]; decide), State.disarmCnt]

/-! ## The wrap of an armed counter (R339) -/

/-- Going on after the wrap at 2^48, from the PRESET with RELOAD, is going on less the PRESET. -/
theorem goOn_eq (hp : p < 2 ^ 48) (hn : 2 ^ 48 ≤ m) : BitVec.ofNat 48 (if b = true then 2 ^ 48 - p + (m - 2 ^ 48) else m - 2 ^ 48)
    = BitVec.ofNat 48 (m - (if b = true then p else 0)) := by
  apply BitVec.eq_of_toNat_eq
  simp only [BitVec.toNat_ofNat]
  cases b
  case true =>
    rw [if_pos rfl, if_pos rfl, ← Nat.sub_add_comm (Nat.le_of_lt hp), Nat.add_sub_cancel' hn]
  case false => rw [if_neg Bool.false_ne_true, if_neg Bool.false_ne_true, Nat.sub_zero, ← Nat.mod_eq_sub_mod hn]

/-- The count of an armed counter that wraps goes on from where it wrapped, with RELOAD from its PRESET. -/
theorem Counter.add_wraps (ha : c.armed = true) (hn : 2 ^ 48 ≤ c.value.toNat + n) : (c.add n).1 = { c with
    value := BitVec.ofNat 48 (c.value.toNat + n - (if c.reload = true then c.preset.toNat else 0)), armed := c.reload, ovf := true } := by
  rw [Counter.add, if_neg (Nat.not_lt.mpr hn), if_pos ha, goOn_eq c.preset.isLt hn]

/-- Counting writes the counter alone in the counter logic. -/
theorem State.count_counts (hf : s.counts.frozen = false) (hr : cReserved i = false) :
    (s.count i n).counts = (s.setCnt i ((s.cnt i).add n).1).counts := by
  rw [State.count, if_neg (by rw [hf, hr]; decide)]
  dsimp only
  split
  · split
    · rw [State.modSl_counts, State.fire_counts]
    · rw [State.fire_counts]
  · rfl

theorem State.cnt_count_any (hf : s.counts.frozen = false) (hr : cReserved i = false) :
    (s.count i n).cnt j = if j = i then ((s.cnt i).add n).1 else s.cnt j := by
  rw [State.cnt, State.count_counts hf hr, ← State.cnt, State.cnt_setCnt]

theorem State.count_frozen (h : s.counts.frozen = true) : s.count i n = s := if_pos (by rw [h]; rfl)

theorem execCounterOverflow_wraps {i : Fin 3584} {n : BitVec 16} (ha : (s.cnt i.val).armed = true)
    (hn : 2 ^ 48 ≤ (s.cnt i.val).value.toNat + n.toNat) : execCounterOverflow i n s = .next (s.count i.val n.toNat) := if_pos ⟨ha, hn⟩

/-! ## FREEZE and CLEAR (R340) -/

/-- A counter that CLEAR has cleared. -/
def Counter.cleared (c : Counter) : Counter := { c with value := 0, armed := false, ovf := false }

/-- A key that a store does not list reads as what unlisted keys read as. -/
theorem Store.get_unlisted {α : Type} {r : α} {m : Store α} (h : i ∉ m.map (·.1)) : Store.get r m i = r := by
  induction m with
  | nil => rfl
  | cons x m ih =>
    obtain ⟨hne, hm⟩ := List.ne_and_not_mem_of_not_mem_cons h
    unfold Store.get
    rw [if_neg hne, ih hm, ite_self]

/-- Counters written key by key. -/
theorem State.cnt_foldl_setCnt {f : Counter → Counter} {m : Store Counter} (h : Store.wf (fun _ => Counter.reset) m = true) :
    (m.foldl (fun s e => s.setCnt e.1 (f e.2)) s).cnt i = if i ∈ m.map (·.1) then f (Store.get Counter.reset m i) else s.cnt i := by
  induction m generalizing s with
  | nil => rfl
  | cons x m ih =>
    have hgt : ∀ p ∈ m, x.1 < p.1 := Store.keys_gt h
    rw [List.foldl_cons, ih (Store.wf_tail h), State.cnt_setCnt, List.map_cons]
    by_cases hx : i = x.1
    · have hm : i ∉ m.map (·.1) := fun hi => by
        obtain ⟨p, hp, he⟩ := List.mem_map.mp hi
        exact absurd (hgt p hp) (by omega)
      rw [if_neg hm, if_pos hx, if_pos (by rw [hx]; exact List.mem_cons_self), Store.get, if_pos hx]
    · by_cases hm : i ∈ m.map (·.1)
      · obtain ⟨p, hp, he⟩ := List.mem_map.mp hm
        have hlt : ¬ i < x.1 := fun hi => absurd (hgt p hp) (by omega)
        rw [if_pos hm, if_pos (List.mem_cons_of_mem _ hm), Store.get, if_neg hx, if_neg hlt]
      · rw [if_neg hm, if_neg hx, if_neg (List.not_mem_cons_of_ne_of_not_mem hx hm)]

theorem execCounterClear_frozen (hu : s.fwUp = true) (hf : s.counts.frozen = true) : execCounterClear s
    = .next (s.counts.cnts.foldl (fun s e => s.setCnt e.1 e.2.cleared) s) := by
  rw [execCounterClear, if_pos hu, State.clearCnts, if_pos hf]
  rfl

theorem State.cnt_clear (h : Store.wf (fun _ => Counter.reset) s.counts.cnts = true) :
    (s.counts.cnts.foldl (fun s e => s.setCnt e.1 e.2.cleared) s).cnt i = (s.cnt i).cleared := by
  rw [State.cnt_foldl_setCnt h]
  split
  case isTrue => rfl
  case isFalse hm =>
    rw [State.cnt, Store.get_unlisted hm]
    rfl

theorem execCounterClear_running (hf : s.counts.frozen = false) : execCounterClear s = .next s := by
  have hclear : s.clearCnts = s := if_neg (by rw [hf]; decide)
  rw [execCounterClear, hclear, ite_self]

theorem foldl_setCnt_regs {f : Counter → Counter} {m : Store Counter} : (m.foldl (fun s e => s.setCnt e.1 (f e.2)) s).regs = s.regs :=
  m.foldlRecOn (motive := fun t : State => t.regs = s.regs) _ rfl fun _ h _ _ => h

theorem State.freezeTo_frozen {v : Bool} : (s.freezeTo v).counts.frozen = v ∧ (s.freezeTo v).fld ⟨0x20000, 0, 1⟩ = v.toNat
    ∧ (s.freezeTo v).counts.cnts = s.counts.cnts :=
  ⟨rfl, State.fld_putF_fits (by cases v <;> decide) (by decide), rfl⟩

end CounterReads

/-- Settles O53: each read answers and latches one cell, counting writes the one counter, and CLEAR each counter that the canonical
store lists, the others being as after reset. -/
theorem countersAreReadArmedAndFrozen : Obligations.CountersAreReadArmedAndFrozen := by
  unfold Obligations.CountersAreReadArmedAndFrozen
  refine ⟨fun s hu hm => ⟨fun i => execCntLoRead_latches hu hm, fun d => execDcycLowRead_latches hu hm,
      fun i => ⟨execPrbCntLowRead_latches0 hu hm, execPrbCntLowRead_latches1 hu hm⟩, execTbNowLoRead_latches hu hm⟩,
    fun i s hu hs hr => ⟨⟨_, execArm_open hu hs hr, State.cnt_setCnt_self, fun j hj => State.cnt_setCnt.trans (if_neg hj), rfl⟩,
      ⟨_, execDisarm_open hu hs, State.cnt_setCnt_self, fun j hj => State.cnt_setCnt.trans (if_neg hj), rfl⟩⟩,
    fun i n s hr hf ha hn => ?_, fun s hu => ⟨?_, ?_, execCounterClear_running, fun hf hw => ?_⟩⟩
  · have hcnt : (s.count i.val n.toNat).cnt i.val = ((s.cnt i.val).add n.toNat).1 := (State.cnt_count_any hf hr).trans (if_pos rfl)
    rw [Counter.add_wraps ha hn] at hcnt
    exact ⟨_, execCounterOverflow_wraps ha hn, by rw [hcnt], by rw [hcnt], by rw [hcnt],
      fun j hj => (State.cnt_count_any hf hr).trans (if_neg hj), State.count_regs, State.count_atts, State.count_ports⟩
  · obtain ⟨hfrozen, hbit, hcnts⟩ := State.freezeTo_frozen (s := s) (v := true)
    exact ⟨_, if_pos hu, hfrozen, hbit, hcnts, fun i n => State.count_frozen hfrozen⟩
  · obtain ⟨hfrozen, hbit, hcnts⟩ := State.freezeTo_frozen (s := s) (v := false)
    exact ⟨_, if_pos hu, hfrozen, hbit, hcnts⟩
  · exact ⟨_, execCounterClear_frozen hu hf, foldl_setCnt_regs, fun i => State.cnt_clear hw⟩

end Sys2Proof.Machine

/-! SUPPORT. The snapshot, sample records, and the counter window. -/

namespace Sys2Proof.Machine

section Snapshots

variable {s : State} {d : Fin 40} {n t0 k m : Nat} {stamp : BitVec 64} {f : Snap → Snap} {p : Snap}

/-! ## The start of a snapshot (R341) -/

theorem State.snapStart_idle (h : s.counts.snap.busy = none) : s.snapStart n = { s with counts := { s.counts with
    snap := (s.snapStart n).counts.snap } } ∧ (s.snapStart n).counts.snap = { s.counts.snap with
      busy := some n, left := List.finRange 40, miss := 0, late := 0, idle := false, done := false, t := BitVec.ofNat 64 n,
      behind := decide (n < s.plinth.now) } := by
  rw [State.snapStart, if_neg (by rw [h]; decide)]
  exact ⟨rfl, rfl⟩

theorem State.snapStart_busy (h : s.counts.snap.busy ≠ none) : s.snapStart n = s.incF ⟨0x20010, 16, 16⟩ :=
  if_pos (Option.isSome_iff_ne_none.mpr h)

/-! ## A domain's capture, and the end of the snapshot (R341, R342) -/

/-- The domains still to be captured after d. -/
def Snap.without (p : Snap) (d : Fin 40) : List (Fin 40) := p.left.filter (fun e => decide (e ≠ d))

/-- The snapshot with domain d's part in the SRAM. -/
def Snap.close (p : Snap) (d : Fin 40) : Snap :=
  if p.without d = [] then { p with left := p.without d, busy := none, done := true, seq := p.seq + 1 } else { p with left := p.without d }

theorem State.snapDone_last (h : (f s.counts.snap).without d = []) : s.snapDone d f
    = (({ s.crossing .service 59 with counts := { s.counts with snap := (f s.counts.snap).close d } } : State).putF ⟨0x20010, 3, 1⟩ 1).fire
        (evG 35) := by
  rw [Snap.close, if_pos h]
  exact if_pos h

theorem State.snapDone_open (h : (f s.counts.snap).without d ≠ []) : s.snapDone d f
    = { s.crossing .service 59 with counts := { s.counts with snap := (f s.counts.snap).close d } } := by
  rw [Snap.close, if_neg h]
  exact if_neg h

theorem State.snapDone_snap : (s.snapDone d f).counts.snap = (f s.counts.snap).close d := by
  by_cases h : (f s.counts.snap).without d = []
  · rw [State.snapDone_last h, State.fire_counts, State.putF_counts]
  · rw [State.snapDone_open h]

theorem State.snapDone_now : (s.snapDone d f).now = s.now := by
  by_cases h : (f s.counts.snap).without d = []
  · rw [State.snapDone_last h, State.fire_now, State.putF_now]
    rfl
  · rw [State.snapDone_open h]
    rfl

/-- The DONE bit stands after the last capture. -/
theorem State.snapDone_bit (h : (f s.counts.snap).without d = []) : (s.snapDone d f).fld ⟨0x20010, 3, 1⟩ = 1 := by
  rw [State.snapDone_last h, State.fire_fld, State.fld_putF_fits (by decide) (by decide)]

theorem Snap.not_mem_close : d ∉ (p.close d).left := by
  have hout : d ∉ p.without d := fun h => absurd rfl (of_decide_eq_true (List.mem_filter.mp h).2)
  unfold Snap.close
  split
  · exact hout
  · exact hout

theorem Snap.close_parts : (p.close d).doms = p.doms ∧ (p.close d).late = p.late ∧ (p.close d).miss = p.miss ∧ (p.close d).idle = p.idle := by
  unfold Snap.close
  split
  · exact ⟨rfl, rfl, rfl, rfl⟩
  · exact ⟨rfl, rfl, rfl, rfl⟩

theorem Snap.without_eq_nil : p.without d = [] ↔ ∀ e ∈ p.left, e = d := by simp [Snap.without]

theorem Snap.close_open (h : ∃ e ∈ p.left, e ≠ d) : (p.close d).busy = p.busy := by
  obtain ⟨e, he, hne⟩ := h
  rw [Snap.close, if_neg fun hnil => hne (Snap.without_eq_nil.mp hnil e he)]

theorem Snap.close_last (h : ∀ e ∈ p.left, e = d) : (p.close d).busy = none ∧ (p.close d).done = true ∧ (p.close d).seq = p.seq + 1 := by
  rw [Snap.close, if_pos (Snap.without_eq_nil.mpr h)]
  exact ⟨rfl, rfl, rfl⟩

theorem getLsbD_or_bit {x : BitVec 40} : (x ||| (1#40 <<< d.val)).getLsbD d.val = true := by
  simp [d.isLt]

/-- What a capture of domain d leaves in the snapshot. -/
def State.captured (s : State) (d : Fin 40) (stamp : BitVec 64) (p : Snap) : Snap :=
  { p.putCnts d.val s.counts.cnts with
    doms := Store.set (0, 0) p.doms d.val ((s.dc d.val).value, stamp),
    late := if p.behind then p.late ||| (1#40 <<< d.val) else p.late }

theorem execSnapCapture_due (hb : s.counts.snap.busy = some t0) (hd : d ∈ s.counts.snap.left) (ht : t0 ≤ stamp.toNat)
    (hf : (s.follower d.val).value ≤ stamp.toNat) : execSnapCapture d stamp s
      = .next (((s.reach stamp.toNat).followTo d.val stamp.toNat).snapDone d (s.captured d stamp)) := by
  rw [execSnapCapture, hb]
  exact if_pos ⟨List.contains_iff_mem.mpr hd, ht, hf⟩

theorem State.followTo_keeps : (s.followTo m n).counts = s.counts ∧ (s.followTo m n).now = s.now := by
  unfold State.followTo
  split
  · exact ⟨rfl, rfl⟩
  · exact ⟨rfl, rfl⟩

theorem State.followed_counts : ((s.reach n).followTo m n).counts = s.counts := State.followTo_keeps.1.trans State.reach_counts

theorem State.followed_now : ((s.reach n).followTo m n).now = max s.now n := State.followTo_keeps.2.trans State.plinth_now_reach

theorem State.captured_late {p : Snap} : (s.captured d stamp p).late.getLsbD d.val = (p.behind || p.late.getLsbD d.val) := by
  cases hb : p.behind with
  | true => rw [State.captured, if_pos hb, getLsbD_or_bit, Bool.true_or]
  | false => rw [State.captured, if_neg (by rw [hb]; decide), Bool.false_or]

/-- What the end of the wait for domain d leaves in the snapshot. -/
def State.missed (s : State) (d : Fin 40) (t0 : Nat) (p : Snap) : Snap :=
  if d.val = 36 then { p with idle := true, doms := Store.set (0, 0) p.doms 36 ((s.dc 36).value, BitVec.ofNat 64 t0) }
  else { p.putCnts d.val [] with doms := Store.set (0, 0) p.doms d.val (0, 0), miss := p.miss ||| (1#40 <<< d.val) }

theorem execSnapDomainTimeout_due (hb : s.counts.snap.busy = some t0) (hd : d ∈ s.counts.snap.left) :
    execSnapDomainTimeout d s = .next ((s.reach (t0 + 10000)).snapDone d (s.missed d t0)) := by
  rw [execSnapDomainTimeout, hb]
  exact if_pos (List.contains_iff_mem.mpr hd)

/-! ## Sample records (R346) -/

theorem State.ringPut_full (h : 4096 ≤ s.ringOcc) {r : BitVec 512} : s.ringPut r = s.incF ⟨0x20064, 0, 16⟩ := if_pos h

/-- A ring with room takes the record at its write pointer, which goes on. -/
theorem State.ringPut_room (h : s.ringOcc < 4096) {r : BitVec 512} :
    (s.ringPut r).counts = { s.counts with ring := Store.set 0 s.counts.ring (s.fld ⟨0x20060, 0, 13⟩ % 4096) r }
    ∧ (s.ringPut r).fld ⟨0x20060, 0, 13⟩ = (s.fld ⟨0x20060, 0, 13⟩ + 1) % 8192 ∧ (s.ringPut r).slices = s.slices := by
  rw [State.ringPut, if_neg (Nat.not_le.mpr h)]
  refine ⟨State.evLevel_counts, ?_, State.evLevel_slices⟩
  rw [State.ringLevel, State.evLevel_fld]
  exact State.fld_putF (by decide)

/-- The state after the hub read the head of the record queue. -/
def State.recRead (s : State) (x : Obs (BitVec 512)) (rest : List (Obs (BitVec 512))) : State :=
  { s with counts := { s.counts with recQ := rest, recLast := some x } }

theorem execSampleRecord_cons {x : Obs (BitVec 512)} {rest : List (Obs (BitVec 512))} (h : s.counts.recQ = x :: rest) :
    execSampleRecord s = .next ((s.recRead x rest).recTake x) := by
  rw [execSampleRecord, h]
  rfl

theorem State.recRead_ringOcc {x : Obs (BitVec 512)} {rest : List (Obs (BitVec 512))} : (s.recRead x rest).ringOcc = s.ringOcc := rfl

/-! ## The counter window (R347) -/

/-- The bits of the line that the first n values build. -/
theorem getLsbD_foldl_values {f : Nat → BitVec 64} {j : Nat} (hj : j < 512) (n : Nat) :
    ((List.range n).foldl (fun (d : LineData) k => d ||| ((f k).setWidth 512 <<< (64 * k))) 0).getLsbD j
      = (decide (j / 64 < n) && (f (j / 64)).getLsbD (j % 64)) := by
  induction n with
  | zero => simp
  | succ n ih =>
    rw [List.range_succ, List.foldl_append, List.foldl_cons, List.foldl_nil, BitVec.getLsbD_or, ih, BitVec.getLsbD_shiftLeft,
      BitVec.getLsbD_setWidth]
    rcases Nat.lt_trichotomy (j / 64) n with h | h | h
    · have hlow : j < 64 * n := by omega
      simp [h, hlow, Nat.lt_succ_of_lt h]
    · have hoff : j - 64 * n = j % 64 := by omega
      have hnot : ¬ j < 64 * n := by omega
      have hin : j % 64 < 512 := by omega
      simp [h, hoff, hnot, hj, hin]
    · have hfar : 64 ≤ j - 64 * n := by omega
      have hnot : ¬ j / 64 < n + 1 := by omega
      simp [Nat.not_lt.mpr (Nat.le_of_lt h), hnot, BitVec.getLsbD_of_ge _ _ hfar]

theorem extractLsb'_lineOf8 {f : Nat → BitVec 64} (h : k < 8) : (lineOf8 f).extractLsb' (64 * k) 64 = f k := by
  refine BitVec.eq_of_getLsbD_eq fun j hj => ?_
  have hb : 64 * k + j < 512 := by omega
  have hk : (64 * k + j) / 64 = k := by omega
  have hm : (64 * k + j) % 64 = j := by omega
  rw [BitVec.getLsbD_extractLsb', lineOf8, getLsbD_foldl_values hb, hk, hm]
  rw [decide_eq_true hj, decide_eq_true h, Bool.true_and, Bool.true_and]

theorem State.extractLsb'_winLine (hn : n < 448) (hk : k < 8) :
    (s.winLine n).extractLsb' (64 * k) 64 = (s.cnt (8 * n + k)).value.setWidth 64 := by
  rw [State.winLine, if_pos hn, extractLsb'_lineOf8 hk]

/-- Where no request waits for an order-table entry, a completion message writes the table alone. -/
theorem State.performPart_table {la : AttId} {a : AgentId} {t : BitVec 16} {parts : BitVec 2} (hw : (s.att la).waitIn = []) :
    s.performPart la a t parts = s
      ∨ ∃ g : List OrdEntry → List OrdEntry, s.performPart la a t parts = s.modAtt la (fun x => { x with order := g x.order }) := by
  have h0 : ∀ e, findEntry (s.att la).order a t = some e →
      s.freeEntry la a t = s.modAtt la (fun x => { x with order := dropEntry x.order a t }) := by
    intro e he
    rw [State.freeEntry, he]
    dsimp only
    rw [State.freeEntry0, he]
    exact State.pullWait_of_none (by rw [State.att_modAtt_self]; exact hw)
  unfold State.performPart
  split
  case h_1 => exact .inl rfl
  case h_2 e he =>
    rw [h0 e he]
    split
    · exact .inr ⟨fun o => modEntry (fun e => { e with left := 1 }) o a t, rfl⟩
    · exact .inr ⟨fun o => dropEntry o a t, rfl⟩

/-- The line at a window offset is a matter of the counter logic alone. -/
theorem State.winLine_of_counts {t : State} (h : t.counts = s.counts) : t.winLine n = s.winLine n := by
  have hcnt : ∀ j, t.cnt j = s.cnt j := fun j => by rw [State.cnt, h, State.cnt]
  have hring : ∀ j, t.ringAt j = s.ringAt j := fun j => by rw [State.ringAt, h, State.ringAt]
  simp only [State.winLine, hcnt, hring, h]

/-- A window read that left its attachment's queue, at the unit that holds line n of the window and back. -/
def State.winMsgs (s : State) (la : AttId) (rs : List Req) (n : Nat) : State :=
  let s := s.modAtt la (fun a => { a with winRd := rs })
  let s := (s.crossing .service 62).crossing .service 63
  (s.inject (.att la) (winPlace n) 0x26 (Config.body 0x26 [n]) []).inject (winPlace n) (.att la) 0x26 (Config.body 0x26 [n])
    (dataMsgs (s.winLine n))

/-- The answer to a window read. -/
def State.winDrs (s : State) (q : ReqHdr) : Drs := Drs.mk q.agent q.tag 0 0 false (s.winLine (q.laddr.toNat % 8192)) none

variable {la j : AttId} {r : Req} {rest : List Req} {x : Drs}

theorem State.crossing_counts {q : QUnit} : (s.crossing q m).counts = s.counts := rfl
theorem State.crossing_cox {q : QUnit} : (s.crossing q m).cox = s.cox := rfl
theorem State.crossing_pins {q : QUnit} : (s.crossing q m).pins = s.pins := rfl

theorem State.winMsgs_counts : (s.winMsgs la rest n).counts = s.counts := by
  unfold State.winMsgs
  simp only [State.inject_counts, State.crossing_counts, State.modAtt_counts]

theorem State.winMsgs_units : (s.winMsgs la rest n).slices = s.slices ∧ (s.winMsgs la rest n).ports = s.ports := by
  unfold State.winMsgs
  simp only [State.inject_slices, State.inject_ports, State.crossing_slices, State.crossing_ports, State.modAtt_slices,
    State.modAtt_ports, and_self]

theorem State.winMsgs_att : (s.winMsgs la rest n).att j = if j = la then { s.att la with winRd := rest } else s.att j := by
  unfold State.winMsgs
  simp only [State.inject_att, State.crossing_att]
  rw [State.att_modAtt]

theorem execCounterWindowRead_cons (h : (s.att la).winRd = r :: rest) : execCounterWindowRead la s = .next
    ((((s.winMsgs la rest (r.q.laddr.toNat % 8192)).egDrs la (s.winDrs r.q)).performPart la r.q.agent r.q.tag 0).count (cLa la 18) 1) := by
  rw [execCounterWindowRead, h, State.winDrs, ← State.winLine_of_counts (State.winMsgs_counts (la := la) (rest := rest)
    (n := r.q.laddr.toNat % 8192))]
  rfl

/-- An answer in an attachment's egress queue whose entry is then free. -/
theorem State.answered_parts {a : AgentId} {t : BitVec 16} {parts : BitVec 2} {u : State}
    (hu : (s.egDrs la x).performPart la a t parts = u) (hw : (s.att la).waitIn = []) : (u.att la).winRd = (s.att la).winRd
    ∧ (u.att la).drsQ = (s.att la).drsQ ++ [((s.att la).seq, x)] ∧ (∀ j, j ≠ la → u.att j = s.att j) ∧ u.slices = s.slices
    ∧ u.ports = s.ports := by
  have hself : (s.egDrs la x).att la = { s.att la with drsQ := (s.att la).drsQ ++ [((s.att la).seq, x)], seq := (s.att la).seq + 1 } :=
    State.att_modAtt_self
  have hne : ∀ j, j ≠ la → (s.egDrs la x).att j = s.att j := fun j hj => State.att_modAtt.trans (if_neg hj)
  rcases State.performPart_table (s := s.egDrs la x) (a := a) (t := t) (parts := parts) (by rw [hself]; exact hw) with h | ⟨g, h⟩
  · rw [← hu, h]
    exact ⟨by rw [hself], by rw [hself], hne, rfl, rfl⟩
  · rw [← hu, h]
    exact ⟨by rw [State.att_modAtt_self, hself], by rw [State.att_modAtt_self, hself],
      fun j hj => (State.att_modAtt.trans (if_neg hj)).trans (hne j hj), rfl, rfl⟩

theorem execCounterWindowRead_answers (hr : (s.att la).winRd = r :: rest) (hw : (s.att la).waitIn = []) :
    ∃ t, execCounterWindowRead la s = .next t ∧ (t.att la).winRd = rest
      ∧ (∃ n, (t.att la).drsQ = (s.att la).drsQ ++ [(n, s.winDrs r.q)]) ∧ (∀ k, k ≠ la → t.att k = s.att k) ∧ t.slices = s.slices
      ∧ t.ports = s.ports := by
  have hself : (s.winMsgs la rest (r.q.laddr.toNat % 8192)).att la = { s.att la with winRd := rest } :=
    State.winMsgs_att.trans (if_pos rfl)
  obtain ⟨u, hu⟩ : ∃ u, ((s.winMsgs la rest (r.q.laddr.toNat % 8192)).egDrs la (s.winDrs r.q)).performPart la r.q.agent r.q.tag 0 = u :=
    ⟨_, rfl⟩
  obtain ⟨hwin, hdrs, hne, hsl, hmp⟩ := State.answered_parts hu (by rw [hself]; exact hw)
  rw [hself] at hwin hdrs
  refine ⟨u.count (cLa la 18) 1, by rw [execCounterWindowRead_cons hr, hu], ?_, ⟨(s.att la).seq, ?_⟩, fun j hj => ?_, ?_, ?_⟩
  · rw [State.count_att, hwin]
  · rw [State.count_att, hdrs]
  · rw [State.count_att, hne j hj, State.winMsgs_att, if_neg hj]
  · rw [State.count_slices_of_ge cLa_ge, hsl, State.winMsgs_units.1]
  · rw [State.count_ports, hmp, State.winMsgs_units.2]

end Snapshots

/-- Settles O54: a snapshot's steps write the snapshot and its DONE bit alone, sample records the ring and its pointer, and a window
read its attachment's queues. -/
theorem snapshotsAndSamplesAreTaken : Obligations.SnapshotsAndSamplesAreTaken := by
  unfold Obligations.SnapshotsAndSamplesAreTaken
  refine ⟨⟨fun s hu => ⟨fun hb => ?_, fun hb => ?_, fun hb => ?_⟩, fun d stamp t0 s hb hd ht hf => ?_, fun d t0 s hb hd => ?_⟩,
    fun r rest s hq => ⟨fun hroom => ?_, fun hfull => ?_⟩, fun n rest s hq => ?_, fun la r rest s hr hw => ?_,
    fun n k s hn hk => State.extractLsb'_winLine hn hk⟩
  · obtain ⟨hall, hsnap⟩ := State.snapStart_idle (n := s.fld ⟨0x20008, 0, 32⟩ + 2 ^ 32 * s.fld ⟨0x2000C, 0, 32⟩) hb
    exact ⟨s.snapGo, if_pos hu, by rw [State.snapGo, hsnap], by rw [State.snapGo, hsnap], by rw [State.snapGo, hsnap],
      by rw [State.snapGo, hsnap], by rw [State.snapGo, hsnap], hall⟩
  · obtain ⟨hall, hsnap⟩ := State.snapStart_idle (n := s.now + 1000 * s.fld ⟨0x20010, 4, 8⟩) hb
    exact ⟨s.snapNow, if_pos hu, by rw [State.snapNow, hsnap], by rw [State.snapNow, hsnap], by rw [State.snapNow, hsnap],
      by rw [State.snapNow, hsnap], by rw [State.snapNow, hsnap], hall⟩
  · refine ⟨s.incF ⟨0x20010, 16, 16⟩, ?_, ?_, State.fld_incF_here (by decide), rfl⟩
    · exact (if_pos hu).trans (congrArg Host.Outcome.next (State.snapStart_busy hb))
    · exact (if_pos hu).trans (congrArg Host.Outcome.next (State.snapStart_busy hb))
  · have hsnap : (((s.reach stamp.toNat).followTo d.val stamp.toNat).snapDone d (s.captured d stamp)).counts.snap
        = (s.captured d stamp s.counts.snap).close d := by rw [State.snapDone_snap, State.followed_counts]
    obtain ⟨hdoms, hlate, -, -⟩ := Snap.close_parts (p := s.captured d stamp s.counts.snap) (d := d)
    refine ⟨_, execSnapCapture_due hb hd ht hf, State.snapDone_now.trans State.followed_now, ?_, ?_, ?_, fun hmore => ?_, fun hlast => ?_⟩
    · rw [hsnap]
      exact Snap.not_mem_close
    · rw [hsnap, hdoms]
      exact Store.get_set_self
    · rw [hsnap, hlate, State.captured_late]
    · rw [hsnap, Snap.close_open (p := s.captured d stamp s.counts.snap) hmore]
      exact hb
    · obtain ⟨hbusy, hdone, hseq⟩ := Snap.close_last (p := s.captured d stamp s.counts.snap) hlast
      rw [hsnap]
      refine ⟨hbusy, hdone, hseq, State.snapDone_bit ?_⟩
      rw [State.followed_counts]
      exact Snap.without_eq_nil.mpr hlast
  · have hsnap : ((s.reach (t0 + 10000)).snapDone d (s.missed d t0)).counts.snap = (s.missed d t0 s.counts.snap).close d := by
      rw [State.snapDone_snap, State.reach_counts]
    obtain ⟨hdoms, -, hmiss, hidle⟩ := Snap.close_parts (p := s.missed d t0 s.counts.snap) (d := d)
    refine ⟨_, execSnapDomainTimeout_due hb hd, State.snapDone_now.trans State.plinth_now_reach, ?_, fun hd => ?_, fun hd => ?_⟩
    · rw [hsnap]
      exact Snap.not_mem_close
    · rw [hsnap, hmiss, hdoms, State.missed, if_neg hd]
      exact ⟨getLsbD_or_bit, Store.get_set_self⟩
    · rw [hsnap, hmiss, hdoms, hidle, State.missed, if_pos hd]
      exact ⟨rfl, rfl, Store.get_set_self⟩
  · obtain ⟨hcounts, hptr, hsl⟩ := State.ringPut_room (s := s.recRead (.item r) rest) (r := r) (State.recRead_ringOcc.trans_lt hroom)
    refine ⟨_, execSampleRecord_cons hq, by rw [State.recTake, hcounts]; rfl, ?_, hptr, fun e he => ?_, hsl⟩
    · rw [State.recTake, State.ringAt, hcounts]
      exact Store.get_set_self
    · rw [State.recTake, State.ringAt, hcounts]
      exact Store.get_set_ne he
  · have hput : (s.recRead (.item r) rest).recTake (.item r) = (s.recRead (.item r) rest).incF ⟨0x20064, 0, 16⟩ :=
      State.ringPut_full (hfull.trans_eq State.recRead_ringOcc.symm)
    refine ⟨_, execSampleRecord_cons hq, by rw [hput]; rfl, ?_⟩
    rw [hput, State.fld_incF_here (by decide)]
    rfl
  · exact ⟨_, execSampleRecord_cons hq, rfl, State.fld_addF (by decide)⟩
  · exact execCounterWindowRead_answers hr hw

end Sys2Proof.Machine

/-! SUPPORT. Cox's core: its restarts, its watchdog, and the end of a restart. -/

namespace Sys2Proof.Machine

section CoxCore

variable {s t : State} {a b : List Byte} {c n : Nat} {g : Fld}

/-! ## What a restart writes (R353, R354) -/

theorem State.updEnd_cox : s.updEnd.cox = { s.cox with upd := none } := by
  cases hu : s.cox.upd with
  | none =>
    have hnone : s.updEnd = s := if_neg (by rw [hu]; decide)
    rw [hnone, ← hu]
  | some x => rw [State.updEnd_open hu, State.fire_cox, State.putF_cox]

theorem State.updEnd_fld (h : g.addr ≠ 0x30A00) : s.updEnd.fld g = s.fld g := by
  unfold State.updEnd
  split
  · rw [State.fire_fld]
    exact State.fld_putF_elsewhere h.symm
  · rfl

/-- The cause, no failed check, and the count of restarts (R353). -/
def State.restartNoted (s : State) (c : Nat) : State := ((s.putF ⟨0x30004, 1, 2⟩ c).putF ⟨0x30004, 3, 2⟩ 0).incF ⟨0x30004, 5, 16⟩

theorem State.dropClaims_agreeOff : s.agreeOff [.srcs] s.dropClaims := State.agreeOff_of_kept (by decide) State.dropClaims_kept

theorem State.coxRestart_cox : (s.coxRestart c).cox = { s.cox with running := false, restart := true, upd := none } := by
  rw [State.coxRestart, State.dropClaims_agreeOff .cox (by decide), State.updEnd_cox]
  rfl

theorem State.coxRestart_fld (h : g.addr ≠ 0x30A00) : (s.coxRestart c).fld g = (s.restartNoted c).fld g := by
  rw [State.coxRestart, State.fld_of_regs (State.dropClaims_agreeOff .regs (by decide)), State.updEnd_fld h]
  rfl

theorem State.restartNoted_cause (h : c < 4) : (s.restartNoted c).fld ⟨0x30004, 1, 2⟩ = c := by
  rw [State.restartNoted, State.fld_incF_apart (by decide) (.inr (by decide)), State.fld_putF_beside (by decide) (by decide),
    State.fld_putF_fits h (by decide)]

theorem State.restartNoted_count : (s.restartNoted c).fld ⟨0x30004, 5, 16⟩ = min 65535 (s.fld ⟨0x30004, 5, 16⟩ + 1) := by
  rw [State.restartNoted, State.fld_incF_here (by decide), State.fld_putF_beside (by decide) (by decide),
    State.fld_putF_beside (by decide) (by decide)]
  rfl

theorem State.coxRestart_agreeOff : s.agreeOff [.regs, .mesh, .events, .srcs, .cox] (s.coxRestart c) :=
  State.agreeOff_of_kept (by decide) State.coxRestart_kept

/-- What a restart by any cause leaves. -/
theorem State.coxRestart_leaves (h : c < 4) : (s.coxRestart c).cox.running = false ∧ (s.coxRestart c).cox.restart = true
    ∧ (s.coxRestart c).fld ⟨0x30004, 1, 2⟩ = c ∧ (s.coxRestart c).now = s.now ∧ (s.coxRestart c).slices = s.slices
    ∧ (s.coxRestart c).atts = s.atts := by
  refine ⟨by rw [State.coxRestart_cox], by rw [State.coxRestart_cox], ?_, ?_, State.coxRestart_agreeOff .slices (by decide),
    State.coxRestart_agreeOff .atts (by decide)⟩
  · rw [State.coxRestart_fld (by decide), State.restartNoted_cause h]
  · rw [State.now, State.coxRestart_agreeOff .plinth (by decide), State.now]

theorem State.wdtKick_on (h : s.wdtOn = true) : s.wdtKick.cox.wdtFrom = s.now := if_pos h

/-! ## The end of a restart (R353, R358) -/

theorem State.logHw_cox {x u d : Nat} : (s.logHw x u d).cox = { s.cox with logQ := (s.logHw x u d).cox.logQ } := by
  unfold State.logHw State.logPut
  dsimp only
  split
  · rw [State.classRec_cox, State.queueNote_cox]
  · rfl

theorem State.logRestart_core : s.logRestart.cox.running = s.cox.running ∧ s.logRestart.cox.restart = s.cox.restart
    ∧ s.logRestart.cox.sram = s.cox.sram := by
  rw [State.logRestart, State.logHw_cox]
  exact ⟨rfl, rfl, rfl⟩

theorem State.logRestart_fld (h : g.addr < 0x7003C) : s.logRestart.fld g = s.fld g := (State.Stands.logHw .refl).fld h

theorem State.coxStart_core : (s.coxStart a).cox.running = true ∧ (s.coxStart a).cox.restart = false ∧ (s.coxStart a).cox.sram = a :=
  ⟨rfl, rfl, rfl⟩

theorem State.coxStart_fld : (s.coxStart a).fld g = s.fld g := rfl

/-- What the SRAM holds passes: Cox starts with it. -/
theorem execCoxRestartDone_good (hr : s.cox.restart = true) (ha : a.length = s.boot.coxLen) (hh : Config.sha384 a = s.boot.coxHash) :
    execCoxRestartDone a b s = .next (s.coxStart a).logRestart := by
  rw [execCoxRestartDone, if_neg (by rw [hr]; decide), if_neg (not_not_intro ha), if_pos hh]

/-- The ROM reloads the section, which passes. -/
theorem execCoxRestartDone_reloaded (hr : s.cox.restart = true) (ha : a.length = s.boot.coxLen) (hb : b.length = s.boot.coxLen)
    (hh : Config.sha384 a ≠ s.boot.coxHash) (hg : Config.sha384 b = s.boot.coxHash) :
    execCoxRestartDone a b s = .next ((s.putF ⟨0x30004, 3, 1⟩ 1).coxStart b).logRestart := by
  rw [execCoxRestartDone, if_neg (by rw [hr]; decide), if_neg (not_not_intro ha), if_neg hh, if_neg (not_not_intro hb), if_pos hg]

/-- Cox where neither the section in SRAM nor the reloaded one passes. -/
def State.coxFailed (s : State) (b : List Byte) : State :=
  (({ s with cox := { s.cox with restart := false, sram := b } }).putF ⟨0x30004, 3, 1⟩ 1).putF ⟨0x30004, 4, 1⟩ 1

theorem execCoxRestartDone_failed (hr : s.cox.restart = true) (ha : a.length = s.boot.coxLen) (hb : b.length = s.boot.coxLen)
    (hh : Config.sha384 a ≠ s.boot.coxHash) (hg : Config.sha384 b ≠ s.boot.coxHash) :
    execCoxRestartDone a b s = .next (s.coxFailed b).logRestart := by
  rw [execCoxRestartDone, if_neg (by rw [hr]; decide), if_neg (not_not_intro ha), if_neg hh, if_neg (not_not_intro hb), if_neg hg]
  rfl

end CoxCore

/-- Settles O55: every restart is `coxRestart` with its cause, and its end is one of three states, by the two checks. -/
theorem coxRestarts : Obligations.CoxRestarts := by
  unfold Obligations.CoxRestarts
  refine ⟨fun s hu => ?_, fun s hr hw hm => ?_, fun s hr hm => ⟨?_, ?_⟩, fun a b s hr ha hb => ?_⟩
  · obtain ⟨hrun, hres, hcause, -, hsl, hatt⟩ := State.coxRestart_leaves (s := s) (c := 1) (by decide)
    exact ⟨_, if_pos hu, hrun, hres, by rw [State.coxRestart_cox], hcause,
      (State.coxRestart_fld (by decide)).trans State.restartNoted_count, hsl, hatt⟩
  · obtain ⟨hrun, hres, hcause, hnow, hsl, hatt⟩ := State.coxRestart_leaves (s := s.reach (s.cox.wdtFrom + s.wdtLen)) (c := 2) (by decide)
    exact ⟨_, if_pos ⟨hr, hw, hm⟩, hrun, hres, hcause, hnow.trans State.plinth_now_reach, hsl.trans State.reach_slices,
      hatt.trans State.reach_atts⟩
  · obtain ⟨hrun, hres, hcause, hnow, hsl, hatt⟩ := State.coxRestart_leaves (s := s) (c := 3) (by decide)
    exact ⟨_, if_pos ⟨hr, hm⟩, hrun, hres, hcause, hnow, hsl, hatt⟩
  · exact ⟨_, if_pos ⟨hr, hm⟩, State.wdtKick_on, rfl⟩
  · by_cases hh : Config.sha384 a = s.boot.coxHash
    · obtain ⟨hrun, hres, hsram⟩ := State.logRestart_core (s := s.coxStart a)
      exact ⟨_, execCoxRestartDone_good hr ha hh, hres, fun _ => ⟨hrun, hsram, State.logRestart_fld (by decide)⟩, fun h => absurd hh h⟩
    · by_cases hg : Config.sha384 b = s.boot.coxHash
      · obtain ⟨hrun, hres, hsram⟩ := State.logRestart_core (s := (s.putF ⟨0x30004, 3, 1⟩ 1).coxStart b)
        refine ⟨_, execCoxRestartDone_reloaded hr ha hb hh hg, hres, fun h => absurd h hh, fun _ => ⟨?_, hsram, fun _ => ⟨hrun, ?_⟩,
          fun h => absurd hg h⟩⟩
        · rw [State.logRestart_fld (by decide), State.coxStart_fld, State.fld_putF_fits (by decide) (by decide)]
        · rw [State.logRestart_fld (by decide), State.coxStart_fld, State.fld_putF_beside (by decide) (by decide)]
      · obtain ⟨hrun, hres, hsram⟩ := State.logRestart_core (s := s.coxFailed b)
        refine ⟨_, execCoxRestartDone_failed hr ha hb hh hg, hres, fun h => absurd h hh, fun _ => ⟨?_, hsram, fun h => absurd h hg,
          fun _ => ⟨hrun, ?_⟩⟩⟩
        · rw [State.logRestart_fld (by decide), State.coxFailed, State.fld_putF_beside (by decide) (by decide),
            State.fld_putF_fits (by decide) (by decide)]
        · rw [State.logRestart_fld (by decide), State.coxFailed, State.fld_putF_fits (by decide) (by decide)]

end Sys2Proof.Machine

/-! SUPPORT. The entry to HOLD, sensor samples, and clock monitors. -/

namespace Sys2Proof.Machine

section HoldEntry

variable {s t u : State} {a n cause kind num detail x y z : Nat}

/-! ## The entry to HOLD in its two steps (R390 to R392) -/

/-- A state with a FATAL cause recorded and in HOLD, before its snapshot. -/
def State.holdMode (s : State) (cause kind num detail : Nat) : State :=
  let t := (((s.causeNoted cause kind num detail).setReg 0x70108 (BitVec.ofNat 32 s.now)).setReg 0x7010C
    (BitVec.ofNat 32 (s.now / 2 ^ 32))).toMode .hold
  (({ t with
    pins := { t.pins with fatalOut := true, coreOffOk := t.pins.coreOffOk || t.modes.pwrFail },
    modes := { t.modes with restReqd := false, restPhase := 0, drainStep := 0 } }).evLevel (evG 0) true).logHw 5 (kind * 2 ^ 7 + num) cause

/-- A snapshot starts at the entry to HOLD where none runs (R343). -/
def State.holdSnap (s : State) : State :=
  if s.counts.snap.busy.isSome then s else s.snapStart (s.now + 1000 * s.fld ⟨0x20010, 4, 8⟩)

theorem State.fatal_eq (h : s.held = false) : s.fatal cause kind num detail
    = allAtts.foldl State.holdAnswer (s.holdMode cause kind num detail).holdSnap := by
  unfold State.fatal
  rw [if_neg (by rw [h]; decide), allAtts, List.foldl_map]
  rfl

theorem State.holdAnswer_agreeOff {k : AttId} : s.agreeOff [.regs, .atts] (s.holdAnswer k) :=
  State.agreeOff_of_kept (by decide) State.holdAnswer_kept

/-- What no edge's answer writes stands after all of them. -/
theorem State.holdAnswers_keep {α : Type} {view : State → α} {ks : List AttId} (h : ∀ (s : State) k, view (s.holdAnswer k) = view s) :
    view (ks.foldl State.holdAnswer s) = view s :=
  ks.foldlRecOn (motive := fun u => view u = view s) _ rfl fun u hu _ _ => (h u _).trans hu

theorem State.holdSnap_cox : s.holdSnap.cox = s.cox := by
  unfold State.holdSnap
  split
  · rfl
  · exact State.snapStart_cox

theorem State.toMode_clkPres {m : Mode} : (s.toMode m).cox.clkPres = s.cox.clkPres := by
  unfold State.toMode
  split
  · rfl
  · rw [State.logHw_cox, State.fire_cox]

theorem State.holdMode_clkPres : (s.holdMode cause kind num detail).cox.clkPres = s.cox.clkPres := by
  unfold State.holdMode
  rw [State.logHw_cox, State.evLevel_cox]
  exact State.toMode_clkPres

/-- The entry to HOLD leaves the clock monitors alone. -/
theorem State.fatal_clkPres : (s.fatal cause kind num detail).cox.clkPres = s.cox.clkPres := by
  cases h : s.held with
  | true =>
    have hcount : s.fatal cause kind num detail = s.incF ⟨0x70100, 8, 8⟩ := if_pos h
    rw [hcount]
    rfl
  | false =>
    rw [State.fatal_eq h, State.holdAnswers_keep (view := fun u : State => u.cox.clkPres)
      fun s k => congrArg Cox.clkPres (State.holdAnswer_agreeOff .cox (by decide)), State.holdSnap_cox, State.holdMode_clkPres]

end HoldEntry

section Sensors

variable {s t u : State} {i n a : Nat} {g : Fld} {d : BitVec 8} {v : BitVec 12}

/-! ## The levels of the droops and the aging monitors (R355, R356) -/

/-- The sources that follow the droops. -/
def State.droopLevels (s : State) : State :=
  (List.range 2).foldl (fun s i =>
    s.evLevel (evG (18 + i)) (decide (s.fld ⟨0x30480, 20, 8⟩ ≤ s.fld ⟨0x30450 + 4 * i, 0, 8⟩)))
    ((List.range 4).foldl (fun s i => s.evLevel (evG (14 + i)) (decide (s.shedT 1 ≤ s.fld ⟨0x30440 + 4 * i, 0, 8⟩))) s)

/-- DEGRADE of aging monitor i in its register, and the source that follows it. -/
def State.ageLevel (s : State) (i : Nat) : State :=
  (s.putF ⟨0x30460 + 4 * i, 20, 12⟩ (s.degrade i)).evLevel (evG (20 + i)) (decide (s.fld ⟨0x30484, 0, 8⟩ ≤ s.degrade i))

theorem State.sensLevels_eq : s.sensLevels = (List.range 4).foldl State.ageLevel s.droopLevels := rfl

theorem State.droopLevels_regs : s.droopLevels.regs = s.regs :=
  List.foldlRecOn (motive := fun u : State => u.regs = s.regs) _ _
    (List.foldlRecOn (motive := fun u : State => u.regs = s.regs) _ _ rfl fun _ hu _ _ => State.evLevel_regs.trans hu)
    fun _ hu _ _ => State.evLevel_regs.trans hu

theorem State.ageLevel_fld_apart (h : (Fld.mk (0x30460 + 4 * i) 20 12).apart g) : (s.ageLevel i).fld g = s.fld g := by
  rw [State.ageLevel, State.evLevel_fld, State.fld_putF_apart (Fld.fits (by decide)) h]

theorem State.ageLevels_fld_apart (h : ∀ i, (Fld.mk (0x30460 + 4 * i) 20 12).apart g) :
    ((List.range n).foldl State.ageLevel s).fld g = s.fld g :=
  List.foldlRecOn (motive := fun u : State => u.fld g = s.fld g) _ _ rfl fun _ hu i _ => (State.ageLevel_fld_apart (h i)).trans hu

theorem State.sensLevels_fld_apart (h : ∀ i, (Fld.mk (0x30460 + 4 * i) 20 12).apart g) : s.sensLevels.fld g = s.fld g := by
  rw [State.sensLevels_eq, State.ageLevels_fld_apart h, State.fld_of_regs State.droopLevels_regs]

/-- The low bits of a word lie apart from DEGRADE. -/
theorem degrade_apart_low {lo len : Nat} (h : lo + len ≤ 20) : (Fld.mk n 20 12).apart ⟨a, lo, len⟩ := .inr (.inr h)

/-- DEGRADE is what two fields say that it does not share bits with. -/
theorem State.degrade_of (h : ∀ a, t.fld ⟨a, 0, 20⟩ = s.fld ⟨a, 0, 20⟩) : t.degrade i = s.degrade i := by
  rw [State.degrade, h, h, State.degrade]

theorem State.ageLevels_degrade : ((List.range n).foldl State.ageLevel s).degrade i = s.degrade i :=
  State.degrade_of fun _ => State.ageLevels_fld_apart fun _ => degrade_apart_low (by decide)

theorem State.ageLevels_fld (h : i < n) :
    ((List.range n).foldl State.ageLevel s).fld ⟨0x30460 + 4 * i, 20, 12⟩ = s.degrade i % 4096 := by
  induction n with
  | zero => exact absurd h (Nat.not_lt_zero i)
  | succ n ih =>
    rw [List.range_succ, List.foldl_append, List.foldl_cons, List.foldl_nil]
    by_cases hi : i = n
    · rw [State.ageLevel, State.evLevel_fld, hi, State.fld_putF (Fld.fits (by decide)), State.ageLevels_degrade]
      rfl
    · rw [State.ageLevel_fld_apart (.inl (by dsimp only; omega)), ih (by omega)]

theorem State.sensLevels_degrade : s.sensLevels.degrade i = s.degrade i :=
  State.degrade_of fun _ => State.sensLevels_fld_apart fun _ => degrade_apart_low (by decide)

theorem State.sensLevels_fld (h : i < 4) : s.sensLevels.fld ⟨0x30460 + 4 * i, 20, 12⟩ = s.sensLevels.degrade i % 4096 := by
  have hdrop : s.droopLevels.degrade i = s.degrade i := State.degrade_of fun _ => State.fld_of_regs State.droopLevels_regs
  rw [State.sensLevels_degrade, State.sensLevels_eq, State.ageLevels_fld h, hdrop]

theorem State.sensLevels_agreeOff : s.agreeOff [.regs, .mesh, .events] s.sensLevels := State.agreeOff_of_kept (by decide) State.sensLevels_kept

/-! ## Samples (R355, R356) -/

/-- The words of a thermal sample: the reading with its two flags. -/
def State.thermalWord (s : State) (a : Nat) (v : BitVec 12) (warn trip : Bool) : State :=
  ((s.putF ⟨a, 0, 12⟩ v.toNat).putF ⟨a, 12, 1⟩ warn.toNat).putF ⟨a, 13, 1⟩ trip.toNat

theorem toNat_lt_two {b : Bool} : b.toNat < 2 ^ 1 := by cases b <;> decide

theorem State.thermalWord_fields {warn trip : Bool} : (s.thermalWord a v warn trip).fld ⟨a, 0, 12⟩ = v.toNat
    ∧ (s.thermalWord a v warn trip).fld ⟨a, 12, 1⟩ = warn.toNat ∧ (s.thermalWord a v warn trip).fld ⟨a, 13, 1⟩ = trip.toNat := by
  refine ⟨?_, ?_, State.fld_putF_fits toNat_lt_two (by decide)⟩
  · rw [State.thermalWord, State.fld_putF_beside (by decide) (by decide), State.fld_putF_beside (by decide) (by decide),
      State.fld_putF_fits v.isLt (by decide)]
  · rw [State.thermalWord, State.fld_putF_beside (by decide) (by decide), State.fld_putF_fits toNat_lt_two (by decide)]

theorem State.thermalWord_reg {b : Nat} {warn trip : Bool} (h : b ≠ a) : (s.thermalWord a v warn trip).reg b = s.reg b := by
  rw [State.thermalWord, State.reg_putF_ne h, State.reg_putF_ne h, State.reg_putF_ne h]

/-- A flag of sensor i after a sample v: bit `lo` of its word, and its threshold. -/
def State.thermFlag (s : State) (i : Nat) (v : BitVec 12) (lo thr : Nat) : Bool :=
  hystFlag (decide (s.fld ⟨0x30400 + 4 * i, lo, 1⟩ = 1)) (Machine.toInt 12 v.toNat) (s.fld ⟨0x30480, thr, 8⟩) (s.fld ⟨0x30480, 16, 4⟩)

/-- The registers of a state with a thermal sample. -/
def State.thermalRegs (s : State) (i : Nat) (v : BitVec 12) : State :=
  s.thermalWord (0x30400 + 4 * i) v (s.thermFlag i v 12 0) (s.thermFlag i v 13 8)

/-- What a thermal sample leaves: its word, its flags' sources, and the pin that any trip raises. -/
theorem State.thermal_leaves : (s.thermal i v).regs = (s.thermalRegs i v).regs ∧ (s.thermal i v).slices = s.slices
    ∧ (s.thermal i v).pins.thermTrip = (List.range 12).any (fun k => decide ((s.thermalRegs i v).fld ⟨0x30400 + 4 * k, 13, 1⟩ = 1)) := by
  unfold State.thermal
  dsimp only
  rw [State.evLevel_regs, State.evLevel_regs, State.evLevel_slices, State.evLevel_slices, State.evLevel_pins, State.evLevel_pins]
  exact ⟨rfl, rfl, rfl⟩

theorem execSensorSample_thermal {i : Fin 12} (h : s.portUp = true) :
    execSensorSample (.thermal i v) s = .next ((s.crossing .service (35 + i.val)).thermal i.val v) := if_neg (by rw [h]; decide)

/-- A droop in its register, the Plinth's copy of it beside. -/
def State.droopSeen (s : State) (i : Fin 6) (d : BitVec 8) : State :=
  let t := (s.crossing .service (47 + i.val)).putF ⟨0x30440 + 4 * i.val, 0, 8⟩ d.toNat
  if i.val < 4 then t.seeDroop i.val d else t

theorem execSensorSample_droop {i : Fin 6} (h : s.portUp = true) :
    execSensorSample (.droop i d) s = .next (s.droopSeen i d).sensLevels := if_neg (by rw [h]; decide)

theorem State.seeDroop_agreeOff : s.agreeOff [.modes] (s.seeDroop i d) := State.agreeOff_of_kept (by decide) State.seeDroop_kept

theorem State.seeDroop_mode : (s.seeDroop i d).mode = s.mode := by
  unfold State.seeDroop
  dsimp only
  split
  · rfl
  · rfl

theorem State.droopSeen_leaves {i : Fin 6} : (s.droopSeen i d).fld ⟨0x30440 + 4 * i.val, 0, 8⟩ = d.toNat
    ∧ (s.droopSeen i d).level = s.level ∧ (s.droopSeen i d).mode = s.mode ∧ (s.droopSeen i d).slices = s.slices := by
  unfold State.droopSeen
  dsimp only
  split
  · rw [State.seeDroop_fld, State.seeDroop_level, State.seeDroop_mode, State.seeDroop_agreeOff .slices (by decide)]
    exact ⟨State.fld_putF_fits d.isLt (by decide), rfl, rfl, rfl⟩
  · exact ⟨State.fld_putF_fits d.isLt (by decide), rfl, rfl, rfl⟩

theorem State.droopSeen_droops {i : Fin 6} (h : i.val < 4) : Store.get 0 (s.droopSeen i d).modes.droops i.val = d := by
  unfold State.droopSeen
  dsimp only
  rw [if_pos h, State.seeDroop_droops]

/-- An aging monitor's count in its register. -/
def State.ageSeen (s : State) (i : Fin 4) (n : BitVec 20) : State :=
  (s.crossing .service (53 + i.val)).putF ⟨0x30460 + 4 * i.val, 0, 20⟩ n.toNat

theorem execSensorSample_aging {i : Fin 4} {n : BitVec 20} (h : s.portUp = true) :
    execSensorSample (.aging i n) s = .next (s.ageSeen i n).sensLevels := if_neg (by rw [h]; decide)

end Sensors

section Clocks

variable {s : State} {d : Fin 40} {x : BitVec 40} {j n : Nat}

/-! ## Clock monitors (R357, R390) -/

theorem getLsbD_bit : (1#40 <<< d.val).getLsbD j = decide (j = d.val) := by
  have hd := d.isLt
  rw [Bool.eq_iff_iff, BitVec.getLsbD_shiftLeft, BitVec.getLsbD_one]
  simp only [Bool.and_eq_true, Bool.not_eq_true', decide_eq_true_eq, decide_eq_false_iff_not]
  omega

theorem getLsbD_clear_self : (x &&& ~~~ (1#40 <<< d.val)).getLsbD d.val = false := by
  rw [BitVec.getLsbD_and, BitVec.getLsbD_not, getLsbD_bit, decide_eq_true rfl, Bool.not_true, Bool.and_false, Bool.and_false]

theorem getLsbD_clear_ne (h : j ≠ d.val) : (x &&& ~~~ (1#40 <<< d.val)).getLsbD j = x.getLsbD j := by
  rw [BitVec.getLsbD_and, BitVec.getLsbD_not, getLsbD_bit, decide_eq_false h, Bool.not_false, Bool.and_true]
  by_cases hj : j < 40
  · rw [decide_eq_true hj, Bool.and_true]
  · rw [BitVec.getLsbD_of_ge x j (Nat.not_lt.mp hj), Bool.false_and]

theorem getLsbD_set_ne (h : j ≠ d.val) : (x ||| (1#40 <<< d.val)).getLsbD j = x.getLsbD j := by
  rw [BitVec.getLsbD_or, getLsbD_bit, decide_eq_false h, Bool.or_false]

/-- Domain d's monitor sees no clock. -/
def State.clkLost (s : State) (d : Fin 40) : State :=
  State.clkLevel { s with cox := { s.cox with clkPres := s.cox.clkPres &&& ~~~ (1#40 <<< d.val) } }

theorem State.clkLost_cox : (s.clkLost d).cox = { s.cox with clkPres := s.cox.clkPres &&& ~~~ (1#40 <<< d.val) } := State.evLevel_cox

theorem State.clkLost_regs : (s.clkLost d).regs = s.regs := State.evLevel_regs
theorem State.clkLost_mode : (s.clkLost d).mode = s.mode := State.evLevel_mode
theorem State.clkLost_held : (s.clkLost d).held = s.held := State.evLevel_held
theorem State.clkLost_portUp : (s.clkLost d).portUp = s.portUp := State.evLevel_portUp
theorem State.clkLost_clkFatal : (s.clkLost d).clkFatal n = s.clkFatal n := by
  unfold State.clkFatal State.gatedDom State.clkLost State.clkLevel
  simp only [State.evLevel_att, State.evLevel_mp]
  rfl

theorem execClockAbsent_seen (hm : s.mode ≠ .off) : execClockAbsent d s
    = .next (if s.cox.clkPres.getLsbD d.val = true ∧ s.clkFatal d.val = true ∧ s.portUp = true then (s.clkLost d).fatal 9 5 d.val 0
      else s.clkLost d) := by
  rw [← State.clkLost_clkFatal (d := d), ← State.clkLost_portUp (d := d)]
  exact if_neg hm

/-- Domain d's monitor sees its clock. -/
def State.clkBack (s : State) (d : Fin 40) : State :=
  { s with
    cox := { s.cox with clkPres := s.cox.clkPres ||| (1#40 <<< d.val) }
    modes := { s.modes with railCore := s.modes.railCore || decide (d = 0) } }

theorem execClockPresent_waits (h : s.mode ≠ .rest ∨ s.modes.warm = none) :
    ∃ t, execClockPresent d s = .next t ∧ t.cox = (s.clkBack d).cox ∧ t.modes = (s.clkBack d).modes ∧ t.regs = s.regs := by
  have hwait : (s.clkBack d).clkLevel.warmInRest = (s.clkBack d).clkLevel := by
    refine if_neg fun ⟨hrest, hwarm, _⟩ => ?_
    rw [State.clkLevel, State.evLevel_mode] at hrest
    rw [State.clkLevel, State.evLevel_modes] at hwarm
    rcases h with h | h
    · exact h hrest
    · exact absurd hwarm (by rw [State.clkBack, h]; decide)
  by_cases hoff : s.mode = .off
  · exact ⟨_, if_pos hoff, rfl, rfl, rfl⟩
  · refine ⟨_, (if_neg hoff).trans (congrArg Host.Outcome.next hwait), State.evLevel_cox, State.evLevel_modes, State.evLevel_regs⟩

/-- The internal reset while the input is asserted begins BOOT. -/
theorem State.warmEffect_boots {whole : Bool} (h : s.modes.warmPin = true) : (s.warmEffect whole).mode = .boot
    ∧ (s.warmEffect whole).modes.warmDone = true ∧ (s.warmEffect whole).modes.afterWarm = whole := by
  have hreset := State.resetCore_resets (s := s) (md := .boot)
  rw [State.warmEffect_held h]
  exact ⟨congrArg Modes.mode hreset.modes, rfl, rfl⟩

theorem State.clkBack_clocksUp (h : ∀ j, j < 40 → j ≠ d.val → s.cox.clkPres.getLsbD j = true) : (s.clkBack d).clkLevel.clocksUp = true := by
  have hall : ∀ j, j < 40 → (s.clkBack d).clkLevel.cox.clkPres.getLsbD j = true := fun j hj => by
    rw [State.clkLevel, State.evLevel_cox]
    by_cases hd : j = d.val
    · rw [hd]
      exact getLsbD_or_bit
    · exact (getLsbD_set_ne hd).trans (h j hj hd)
  have hdom : ∀ j ∈ [0, 33, 39] ++ (List.range 16).map (17 + ·), j < 40 := by decide
  exact List.all_eq_true.mpr fun j hj => hall j (hdom j hj)

theorem execClockPresent_effect (hr : s.mode = .rest) (hw : s.modes.warm.isSome = true)
    (h : ∀ j, j < 40 → j ≠ d.val → s.cox.clkPres.getLsbD j = true) :
    execClockPresent d s = .next ((s.clkBack d).clkLevel.warmEffect true) := by
  have hoff : (s.clkBack d).mode ≠ .off := fun hm => absurd (hr.symm.trans hm) (by decide)
  refine (if_neg hoff).trans (congrArg Host.Outcome.next (if_pos ⟨?_, ?_, State.clkBack_clocksUp h⟩))
  · rw [State.clkLevel, State.evLevel_mode]
    exact hr
  · rw [State.clkLevel, State.evLevel_modes]
    exact hw

end Clocks

/-- Settles O56: a sample writes its register and follows its levels; a clock monitor its bit, and what the FATAL entry or the reset
writes is known from their own lemmas. -/
theorem sensorsAndClocks : Obligations.SensorsAndClocks := by
  unfold Obligations.SensorsAndClocks
  refine ⟨fun i v s hu => ?_, fun i d s hu => ?_, fun i n s hu => ?_, fun d s hm => ?_, fun d s h => ?_, fun d s hr hw hp hc => ?_⟩
  · obtain ⟨hregs, hsl, htrip⟩ := State.thermal_leaves (s := s.crossing .service (35 + i.val)) (i := i.val) (v := v)
    obtain ⟨hv, hwarn, hflag⟩ := State.thermalWord_fields (s := s.crossing .service (35 + i.val)) (a := 0x30400 + 4 * i.val) (v := v)
      (warn := (s.crossing .service (35 + i.val)).thermFlag i.val v 12 0) (trip := (s.crossing .service (35 + i.val)).thermFlag i.val v 13 8)
    refine ⟨_, execSensorSample_thermal hu, (State.fld_of_regs hregs).trans hv, (State.fld_of_regs hregs).trans hwarn,
      (State.fld_of_regs hregs).trans hflag, fun h => ?_, fun a ha => ?_, hsl⟩
    · rw [State.fld_of_regs hregs] at h
      rw [htrip]
      exact List.any_eq_true.mpr ⟨i.val, List.mem_range.mpr i.isLt, decide_eq_true h⟩
    · rw [State.reg, hregs]
      exact State.thermalWord_reg ha
  · obtain ⟨hfld, hlevel, hmode, hsl⟩ := State.droopSeen_leaves (s := s) (i := i) (d := d)
    have hmodes : (s.droopSeen i d).sensLevels.modes = (s.droopSeen i d).modes := State.sensLevels_agreeOff .modes (by decide)
    refine ⟨_, execSensorSample_droop hu, ?_, fun hi => ?_, ?_, ?_, ?_⟩
    · rw [State.sensLevels_fld_apart fun k => .inl (by dsimp only; omega), hfld]
    · rw [hmodes, State.droopSeen_droops hi]
    · rw [State.level, hmodes]
      exact hlevel
    · rw [State.mode, hmodes]
      exact hmode
    · rw [State.sensLevels_agreeOff .slices (by decide), hsl]
  · refine ⟨_, execSensorSample_aging hu, ?_, State.sensLevels_fld i.isLt, ?_, State.sensLevels_agreeOff .slices (by decide)⟩
    · rw [State.sensLevels_fld_apart fun k => degrade_apart_low (by decide), State.ageSeen, State.fld_putF_fits n.isLt (by decide)]
    · rw [State.mode, State.sensLevels_agreeOff .modes (by decide)]
      rfl
  · have hclear : (s.clkLost d).cox.clkPres.getLsbD d.val = false := by
      rw [State.clkLost_cox]
      exact getLsbD_clear_self
    have hothers : ∀ j, j ≠ d.val → (s.clkLost d).cox.clkPres.getLsbD j = s.cox.clkPres.getLsbD j := fun j hj => by
      rw [State.clkLost_cox]
      exact getLsbD_clear_ne hj
    by_cases hloss : s.cox.clkPres.getLsbD d.val = true ∧ s.clkFatal d.val = true ∧ s.portUp = true
    · obtain ⟨hhad, hfatal, hup⟩ := hloss
      refine ⟨_, (execClockAbsent_seen hm).trans (congrArg Host.Outcome.next (if_pos ⟨hhad, hfatal, hup⟩)), ?_, ?_, fun _ _ _ hheld => ?_,
        fun hnot => ?_⟩
      · rw [State.fatal_clkPres, hclear]
      · rw [State.fatal_clkPres]
        exact hothers
      · exact State.fatal_records (State.clkLost_held.trans hheld) (by decide) (d.isLt.trans (by decide))
      · rw [hhad, hfatal, hup] at hnot
        exact absurd hnot (by decide)
    · refine ⟨_, (execClockAbsent_seen hm).trans (congrArg Host.Outcome.next (if_neg hloss)), hclear, hothers,
        fun h1 h2 h3 _ => absurd ⟨h1, h2, h3⟩ hloss, fun _ => ⟨State.clkLost_mode, State.clkLost_regs⟩⟩
  · obtain ⟨t, ht, hcox, hmodes, hregs⟩ := execClockPresent_waits (d := d) h
    refine ⟨t, ht, ?_, fun j hj => ?_, ?_, hregs, fun hd => ?_⟩
    · rw [hcox]
      exact getLsbD_or_bit
    · rw [hcox]
      exact getLsbD_set_ne hj
    · rw [State.mode, hmodes]
      rfl
    · rw [hmodes, State.clkBack, Fin.ext (b := 0) hd]
      exact Bool.or_true _
  · obtain ⟨hboot, hdone, hafter⟩ := State.warmEffect_boots (s := (s.clkBack d).clkLevel) (whole := true)
      (by rw [State.clkLevel, State.evLevel_modes]; exact hp)
    exact ⟨_, execClockPresent_effect hr hw hc, hboot, hdone, hafter⟩

end Sys2Proof.Machine

/-! SUPPORT. The event log, the journal, and HOLD. -/

namespace Sys2Proof.Machine

section Records

variable {s t : State} {r : LogRec} {rest : List (Obs LogRec)} {n sec : Nat} {b : Byte} {bs : List Byte}

/-! ## The event log (R358) -/

/-- A record as the log keeps it. -/
def logLine (now type unit data seq : Nat) : Nat := now % 2 ^ 64 + 2 ^ 64 * type + 2 ^ 80 * unit + 2 ^ 96 * data + 2 ^ 224 * seq

theorem logLine_parts {now type unit data seq : Nat} (ht : type < 2 ^ 16) (hu : unit < 2 ^ 16) (hd : data < 2 ^ 128) (hs : seq < 2 ^ 32) :
    logLine now type unit data seq % 2 ^ 256 / 2 ^ 64 % 2 ^ 16 = type ∧ logLine now type unit data seq % 2 ^ 256 / 2 ^ 96 % 2 ^ 128 = data
      ∧ logLine now type unit data seq % 2 ^ 256 / 2 ^ 224 % 2 ^ 32 = seq := by
  unfold logLine
  omega

theorem extractLsb'_ofNat {m lo len : Nat} {x : BitVec len} (h : m % 2 ^ 256 / 2 ^ lo % 2 ^ len = x.toNat) :
    (BitVec.ofNat 256 m).extractLsb' lo len = x := by
  apply BitVec.eq_of_toNat_eq
  rw [BitVec.extractLsb'_toNat, BitVec.toNat_ofNat, Nat.shiftRight_eq_div_pow, h]

theorem State.logWrite_cox : (s.logWrite r).cox = { s.cox with
    log := Store.set 0 s.cox.log (s.fld ⟨0x30800, 0, 11⟩)
      (BitVec.ofNat 256 (logLine s.now r.type.toNat r.unit.toNat r.data.toNat s.cox.logSeq.toNat)),
    logSeq := s.cox.logSeq + 1 } := by
  unfold State.logWrite
  dsimp only
  split
  · rfl
  · rfl

theorem State.logWrite_head : (s.logWrite r).fld ⟨0x30800, 0, 11⟩ = (s.fld ⟨0x30800, 0, 11⟩ + 1) % 2048 := State.fld_putF (by decide)

theorem State.logWrite_slices : (s.logWrite r).slices = s.slices := by
  unfold State.logWrite
  dsimp only
  split
  · rfl
  · rfl

/-- The state after the oldest hardware record left its queue. -/
def State.logRead (s : State) (x : Obs LogRec) (rest : List (Obs LogRec)) : State :=
  { s with cox := { s.cox with logQ := rest, logLast := some x } }

theorem execEventLogRecord_item (hu : s.portUp = true) (hq : s.cox.logQ = .item r :: rest) :
    execEventLogRecord none s = .next ((s.logRead (.item r) rest).logWrite r) := by
  rw [execEventLogRecord, if_neg (by rw [hu]; decide), hq]
  rfl

/-! ## The journal (R359, R360, R365) -/

/-- A command whose addresses lie in the journal is not guarded. -/
theorem State.not_guarded {c : BitVec 8 × Nat × List Byte} (ha : 0x402000 ≤ c.2.1) (hs : 0x402000 ≤ (spiSpan c).1) : s.guarded c = false := by
  have hset : setsOne s.boot.anchor.toNat c.2.1 c.2.2 = false := by
    refine List.any_eq_false.mpr fun e _ he => ?_
    obtain ⟨⟨-, hhi⟩, -⟩ := (Bool.and_eq_true _ _).mp he |>.imp_left (Bool.and_eq_true _ _).mp
    have := of_decide_eq_true hhi
    omega
  have hslot : s.fld ⟨0x1000, 0, 2⟩ < 2 → ¬ (spiSpan c).1 < 0x200000 * s.fld ⟨0x1000, 0, 2⟩ + 0x200000 := fun h => by omega
  unfold State.guarded
  simp only [hset, Bool.and_false, Bool.or_false, Bool.and_eq_false_iff, Bool.or_eq_false_iff, decide_eq_false_iff_not]
  refine .inr ⟨?_, ?_⟩
  · by_cases h : s.fld ⟨0x1000, 0, 2⟩ < 2
    · exact .inr (.inl (hslot h))
    · exact .inl h
  · exact .inr (.inl (by omega))

theorem State.spi_unguarded {cs : List (BitVec 8 × Nat × List Byte)} (hne : cs ≠ []) (h : ∀ c ∈ cs, s.guarded c = false) :
    s.spi cs = { s.crossing .service 29 with pins := { s.pins with spi := cs } } := by
  have hgood : cs.filter (fun c => !s.guarded c) = cs := List.filter_eq_self.mpr fun c hc => by rw [h c hc]; rfl
  unfold State.spi
  rw [hgood]
  dsimp only
  rw [if_pos rfl, if_neg hne]

/-- The commands that program a record: COMMIT only after a read-back that matches. -/
def journalCmds (sec n : Nat) (first ok : Bool) (body : List Byte) : List (BitVec 8 × Nat × List Byte) :=
  (if first then [(0, 0x402000 + 4096 * sec + 32 * n, [])] else []) ++ [(1, 0x402000 + 4096 * sec + 32 * n, body)]
    ++ (if ok then [(1, 0x402000 + 4096 * sec + 32 * n + 1, [0])] else [])

variable {first ok : Bool} {body : List Byte} {c : BitVec 8 × Nat × List Byte}

theorem mem_journalCmds : c ∈ journalCmds sec n first ok body ↔ (first = true ∧ c = (0, 0x402000 + 4096 * sec + 32 * n, []))
    ∨ c = (1, 0x402000 + 4096 * sec + 32 * n, body) ∨ (ok = true ∧ c = (1, 0x402000 + 4096 * sec + 32 * n + 1, [0])) := by
  unfold journalCmds
  cases first <;> cases ok <;> simp

theorem journalCmds_ne_nil : journalCmds sec n first ok body ≠ [] :=
  List.ne_nil_of_mem (mem_journalCmds.mpr (.inr (.inl rfl)))

theorem commit_mem_journalCmds : (1, 0x402000 + 4096 * sec + 32 * n + 1, [0]) ∈ journalCmds sec n first ok body ↔ ok = true := by
  rw [mem_journalCmds]
  refine ⟨?_, fun h => .inr (.inr ⟨h, rfl⟩)⟩
  rintro (⟨-, h⟩ | h | ⟨h, -⟩)
  · exact absurd (Prod.mk.inj h).1 (by decide)
  · have := (Prod.mk.inj (Prod.mk.inj h).2).1
    omega
  · exact h

theorem journalCmds_unguarded (hf : first = true → n = 0) (hc : c ∈ journalCmds sec n first ok body) : s.guarded c = false := by
  rcases mem_journalCmds.mp hc with ⟨h, rfl⟩ | rfl | ⟨-, rfl⟩
  · refine State.not_guarded (by dsimp only; omega) ?_
    have hn := hf h
    change 0x402000 ≤ (0x402000 + 4096 * sec + 32 * n) / 4096 * 4096
    omega
  · exact State.not_guarded (by dsimp only; omega) (by change 0x402000 ≤ 0x402000 + 4096 * sec + 32 * n; omega)
  · exact State.not_guarded (by dsimp only; omega) (by change 0x402000 ≤ 0x402000 + 4096 * sec + 32 * n + 1; omega)

/-- The journal's head after a record (R359). -/
def State.journalHead (s : State) (sec n : Nat) (cs : List (BitVec 8 × Nat × List Byte)) : State :=
  ((({ s.crossing .service 29 with pins := { s.pins with spi := cs } } : State).crossing .service 58).putF ⟨0x30900, 0, 6⟩
    (sec + (if n = 127 then 1 else 0))).putF ⟨0x30900, 6, 7⟩ (n + 1)

theorem State.journalHead_leaves {cs : List (BitVec 8 × Nat × List Byte)} : (s.journalHead sec n cs).fld ⟨0x30900, 6, 7⟩ = (n + 1) % 128
    ∧ (s.journalHead sec n cs).fld ⟨0x30900, 0, 6⟩ = (sec + (if n = 127 then 1 else 0)) % 64
    ∧ (s.journalHead sec n cs).fld ⟨0x30900, 13, 16⟩ = s.fld ⟨0x30900, 13, 16⟩ ∧ (s.journalHead sec n cs).pins.spi = cs
    ∧ (s.journalHead sec n cs).slices = s.slices := by
  unfold State.journalHead
  refine ⟨State.fld_putF (by decide), ?_, ?_, ?_, ?_⟩
  · rw [State.fld_putF_beside (by decide) (by decide), State.fld_putF (by decide)]
    rfl
  · rw [State.fld_putF_beside (by decide) (by decide), State.fld_putF_beside (by decide) (by decide), State.crossing_fld]
    rfl
  · rw [State.putF_pins, State.putF_pins, State.crossing_pins]
  · rw [State.putF_slices, State.putF_slices, State.crossing_slices]
    rfl

/-- A record whose read-back does not match is counted (R360). -/
def State.journalFailed (s : State) : State := (s.incF ⟨0x30900, 13, 16⟩).fire (evG 38)

theorem State.journalFailed_leaves : s.journalFailed.fld ⟨0x30900, 13, 16⟩ = min 65535 (s.fld ⟨0x30900, 13, 16⟩ + 1)
    ∧ s.journalFailed.fld ⟨0x30900, 6, 7⟩ = s.fld ⟨0x30900, 6, 7⟩ ∧ s.journalFailed.fld ⟨0x30900, 0, 6⟩ = s.fld ⟨0x30900, 0, 6⟩
    ∧ s.journalFailed.pins = s.pins ∧ s.journalFailed.slices = s.slices := by
  unfold State.journalFailed
  rw [State.fire_fld, State.fire_fld, State.fire_fld, State.fire_pins, State.fire_slices, State.fld_incF_here (by decide)]
  exact ⟨rfl, State.fld_incF_apart (by decide) (.inr (by decide)), State.fld_incF_apart (by decide) (.inr (by decide)), rfl, rfl⟩

/-- The commands of a record of the journal, by its read-back. -/
def recordCmds (sec : BitVec 6) (n : BitVec 7) (bs rb : List Byte) : List (BitVec 8 × Nat × List Byte) :=
  journalCmds sec.toNat n.toNat (decide (n = 0)) (decide (rb = setByte bs 1 0xFF)) (setByte bs 1 0xFF)

theorem execJournalProgram_writes {sec : BitVec 6} {n : BitVec 7} {rb : List Byte} (hb : bs.length = 32) (hr : rb.length = 32)
    (hc : s.cox.running = true) (hm : s.mode ≠ .rest) : execJournalProgram sec n bs rb s
      = .next (if rb = setByte bs 1 0xFF then s.journalHead sec.toNat n.toNat (recordCmds sec n bs rb)
        else (s.journalHead sec.toNat n.toNat (recordCmds sec n bs rb)).journalFailed) := by
  have hspi : s.spi (recordCmds sec n bs rb) = { s.crossing .service 29 with pins := { s.pins with spi := recordCmds sec n bs rb } } :=
    State.spi_unguarded journalCmds_ne_nil fun c h => journalCmds_unguarded (fun hn => by rw [of_decide_eq_true hn]; rfl) h
  have hlast : (n = 127) = (n.toNat = 127) := propext (BitVec.toNat_inj (x := n) (y := 127)).symm
  rw [execJournalProgram, if_neg (by rw [hb, hr]; decide), if_neg (by rw [hc]; simpa using hm), State.journalHead, ← hspi]
  simp only [hlast, recordCmds, journalCmds, decide_eq_true_eq]
  rfl

end Records

section Hold

variable {s t : State} {a cause kind num detail x u d : Nat} {j k : AttId}

/-! ## The answers of the edges on the entry to HOLD (R392) -/

theorem State.holdAnswer_att : ((s.holdAnswer k).att j).order = (if j = k then [] else (s.att j).order)
    ∧ ((s.holdAnswer k).att j).waitIn = (if j = k then [] else (s.att j).waitIn) := by
  unfold State.holdAnswer
  dsimp only
  rw [State.att_giveBack, State.att_modAtt, State.att_modAtt, if_pos rfl]
  by_cases h : j = k
  · rw [if_pos h, if_pos h, if_pos h]
    exact ⟨rfl, rfl⟩
  · simp only [if_neg h]
    have hkeep : ∀ (rs : List Req) (u : State), (rs.foldl (fun s r => s.egNdr k (errNdr r.q)) u).att j = u.att j := fun rs u =>
      rs.foldlRecOn (motive := fun v : State => v.att j = u.att j) _ rfl fun v hv r _ => (State.att_modAtt.trans (if_neg h)).trans hv
    rw [hkeep]
    exact ⟨rfl, rfl⟩

/-- What an edge holds of requests. -/
def State.requestsAt (s : State) (k : AttId) : List OrdEntry × List Req := ((s.att k).order, (s.att k).waitIn)

theorem State.holdAnswers_empty : (allAtts.foldl State.holdAnswer s).requestsAt k = ([], []) := by
  refine State.foldl_of_nodup (x := k) (view := fun s => s.requestsAt k) (R := fun _ v => v = ([], [])) mem_allAtts nodup_allAtts (fun s => ?_)
    fun s j hj => ?_
  · obtain ⟨ho, hw⟩ := State.holdAnswer_att (s := s) (j := k) (k := k)
    rw [State.requestsAt, ho, hw, if_pos rfl, if_pos rfl]
  · obtain ⟨ho, hw⟩ := State.holdAnswer_att (s := s) (j := k) (k := j)
    rw [State.requestsAt, ho, hw, if_neg hj.symm, if_neg hj.symm, State.requestsAt]

theorem State.holdAnswer_reg (h : a ≠ 0x70114) : (s.holdAnswer k).reg a = s.reg a := by
  unfold State.holdAnswer
  dsimp only
  generalize (s.att k).order.map (·.req) ++ (s.att k).waitIn = rs
  have hnoted : (s.addF ⟨0x70114, 16, 16⟩ rs.length).reg a = s.reg a := State.reg_putF_ne h
  have hsent : (rs.foldl (fun s r => s.egNdr k (errNdr r.q)) (s.addF ⟨0x70114, 16, 16⟩ rs.length)).reg a = s.reg a :=
    rs.foldlRecOn (motive := fun v : State => v.reg a = s.reg a) _ hnoted fun _ hv _ _ => hv
  exact hsent

/-! ## The time of the entry (R390) -/

theorem State.logHw_reg (h : a < queueBase .service) (hc : a ≠ 0x70120) : (s.logHw x u d).reg a = s.reg a := by
  have hq : ∀ n, a ≠ queueBase .service + n := fun n => by omega
  unfold State.logHw State.logPut
  dsimp only
  split
  · rw [State.classRec, State.incF, State.addF, State.reg_putF_ne hc, State.queueNote]
    rw [State.reg_putF_ne (hq 8), State.reg_putF_ne (hq 8), if_pos rfl, State.incF, State.addF, State.reg_putF_ne (hq 8)]
    rfl
  · rfl

theorem State.toMode_reg {m : Mode} (h : a < queueBase .service) (hc : a ≠ 0x70120) : (s.toMode m).reg a = s.reg a := by
  unfold State.toMode
  split
  · rfl
  · rw [State.logHw_reg h hc, State.fire_reg]
    rfl

theorem State.holdMode_time : (s.holdMode cause kind num detail).reg 0x70108 = BitVec.ofNat 32 s.now := by
  unfold State.holdMode
  dsimp only
  rw [State.logHw_reg (by decide) (by decide), State.evLevel_reg]
  refine (State.toMode_reg (by decide) (by decide)).trans ?_
  rw [State.reg_setReg, if_neg (by decide), State.reg_setReg_self]

theorem State.holdSnap_regs : s.holdSnap.regs = s.regs := by
  unfold State.holdSnap State.snapStart
  split
  · rfl
  · rfl

theorem State.fatal_time (h : s.held = false) : (s.fatal cause kind num detail).reg 0x70108 = BitVec.ofNat 32 s.now := by
  rw [State.fatal_eq h, State.holdAnswers_keep (view := fun u : State => u.reg 0x70108) fun s k => State.holdAnswer_reg (by decide),
    State.reg, State.holdSnap_regs, ← State.reg, State.holdMode_time]

theorem State.fatal_fatalOut (h : s.held = false) : (s.fatal cause kind num detail).pins.fatalOut = true := by
  have hsnap : ∀ u : State, u.holdSnap.pins = u.pins := fun u => by
    rw [State.holdSnap, apply_ite State.pins, State.snapStart_pins, ite_self]
  rw [State.fatal_eq h, State.holdAnswers_keep (view := State.pins) fun s k => State.holdAnswer_agreeOff .pins (by decide), hsnap]
  unfold State.holdMode
  dsimp only
  rw [State.logHw_pins, State.evLevel_pins]

theorem State.fatal_requestsAt (h : s.held = false) : (s.fatal cause kind num detail).requestsAt k = ([], []) := by
  rw [State.fatal_eq h, State.holdAnswers_empty]

end Hold

/-- Settles O57: a log record is one line of the ring, a journal record a list of SPI commands that no guard refuses, and the entry to
HOLD the FATAL record with every edge's answers. -/
theorem logsAndHold : Obligations.LogsAndHold := by
  unfold Obligations.LogsAndHold
  refine ⟨fun r rest s hu hq => ?_, fun sec n bs rb s hb hr hc hm => ?_, fun s hu hh => ?_, fun s hu hh hf => ?_, fun s hr ha => ?_,
    fun v s => rfl⟩
  · obtain ⟨htype, hdata, hseq⟩ := logLine_parts (now := s.now) r.type.isLt r.unit.isLt r.data.isLt s.cox.logSeq.isLt
    refine ⟨_, execEventLogRecord_item hu hq, by rw [State.logWrite_cox]; rfl, by rw [State.logWrite_cox]; rfl, State.logWrite_head, ?_, ?_, ?_,
      State.logWrite_slices⟩
    · rw [State.logWrite_cox]
      exact (congrArg (BitVec.extractLsb' 64 16) Store.get_set_self).trans (extractLsb'_ofNat htype)
    · rw [State.logWrite_cox]
      exact (congrArg (BitVec.extractLsb' 96 128) Store.get_set_self).trans (extractLsb'_ofNat hdata)
    · rw [State.logWrite_cox]
      exact (congrArg (BitVec.extractLsb' 224 32) Store.get_set_self).trans (extractLsb'_ofNat hseq)
  · obtain ⟨hn, hsec, hcount, hspi, hsl⟩ := State.journalHead_leaves (s := s) (sec := sec.toNat) (n := n.toNat) (cs := recordCmds sec n bs rb)
    have hlast : (n = 127) = (n.toNat = 127) := propext (BitVec.toNat_inj (x := n) (y := 127)).symm
    refine ⟨_, execJournalProgram_writes hb hr hc hm, ?_⟩
    by_cases hok : rb = setByte bs 1 0xFF
    · rw [if_pos hok]
      exact ⟨hn, by simpa only [hlast] using hsec, fun _ => ⟨hcount, by rw [hspi]; exact commit_mem_journalCmds.mpr (decide_eq_true hok)⟩,
        fun h => absurd hok h, hsl⟩
    · obtain ⟨hfail, hn', hsec', hpins, hsl'⟩ := State.journalFailed_leaves
        (s := s.journalHead sec.toNat n.toNat (recordCmds sec n bs rb))
      rw [if_neg hok]
      refine ⟨hn'.trans hn, by simpa only [hlast] using hsec'.trans hsec, fun h => absurd h hok, fun _ => ⟨by rw [hfail, hcount], ?_⟩,
        hsl'.trans hsl⟩
      rw [hpins, hspi]
      exact fun h => hok (of_decide_eq_true (commit_mem_journalCmds.mp h))
  · obtain ⟨hcause, hkind, -, -⟩ := State.fatal_record (cause := 0xB) (kind := 4) (num := 0) (detail := 0) hh (by decide) (by decide)
      (by decide) (by decide)
    exact ⟨s.fatal 0xB 4 0 0, if_pos hu, State.fatal_mode hh, hcause, hkind, State.fatal_fatalOut hh, State.fatal_time hh, State.fatal_slices,
      State.fatal_ports, fun k => Prod.mk.inj (State.fatal_requestsAt hh)⟩
  · exact (if_pos hu).trans (congrArg Host.Outcome.next (if_pos ⟨hh, hf⟩))
  · have hruns : ¬ ((!s.modes.railAon) = true ∨ s.modes.aonPin = true) := by rw [hr, ha]; decide
    by_cases hm : s.mode = .rest
    · exact ⟨_, (if_neg hruns).trans (if_pos hm), fun _ => rfl, fun h => absurd hm h⟩
    · exact ⟨_, (if_neg hruns).trans (if_neg hm), fun h => absurd h hm, fun _ => rfl⟩

end Sys2Proof.Machine

/-! SUPPORT. The mailbox, the sideband, and the answers to Cox's commands. -/

namespace Sys2Proof.Machine

section Mailbox

variable {s t : State} {ch : MbxCh} {msg bs payload : List Byte} {st : Byte} {p : Option Byte} {c : Byte} {i n opc len : Nat} {v x : Bool}
  {f : State → List Byte → State × Byte × List Byte}

/-! ## Posts, and messages taken (R362) -/

theorem State.evSend_global (hr : evReserved i = false) (hi : 1952 ≤ i) :
    s.evSend i v = { s with events := { s.events with globs := s.events.globs ++ [(BitVec.ofNat 11 i, v)] } } := by
  rw [State.evSend, if_neg (by rw [hr]; decide), if_neg (Nat.not_lt.mpr hi)]

theorem State.fire_globs (hr : evReserved i = false) (hi : 1952 ≤ i) :
    (s.fire i).events.globs = s.events.globs ++ [(BitVec.ofNat 11 i, true), (BitVec.ofNat 11 i, false)] := by
  rw [State.fire, State.evSend_global hr hi, State.evSend_global hr hi]
  exact List.append_assoc _ _ _

theorem State.mbxPost_free (h : s.cox.h2cFull = false) : s.mbxPost.cox = { s.cox with h2cFull := true } ∧ s.mbxPost.regs = s.regs
    ∧ s.mbxPost.events.globs = s.events.globs ++ [(BitVec.ofNat 11 (evG 32), true), (BitVec.ofNat 11 (evG 32), false)] := by
  rw [State.mbxPost, if_neg (by rw [h]; decide), State.fire_cox, State.fire_regs, State.fire_globs (by decide) (by decide)]
  exact ⟨rfl, rfl, rfl⟩

theorem State.mbxPost_full (h : s.cox.h2cFull = true) : s.mbxPost = s.incF ⟨0x30140, 8, 8⟩ := if_pos h

theorem execMailboxReply_posts (hm : msg.length ≤ 64) (hu : s.coxUp = true) : execMailboxReply ch msg s = .next (s.reply ch msg) := by
  rw [execMailboxReply, if_neg (Nat.not_lt.mpr hm), if_pos hu]

theorem State.reply_host : (s.reply .host msg).cox = { s.cox with c2h := pad64 msg, c2hReady := true } := State.fire_cox
theorem State.reply_sideband : (s.reply .sideband msg).cox = { s.cox with c2s := pad64 msg, c2sReady := true } := State.fire_cox

/-! ## The sideband (R363) -/

/-- The PEC of a block write. -/
def State.writePec (s : State) (bs : List Byte) : Byte := pec ([s.sbAddr false, 0x10, BitVec.ofNat 8 bs.length] ++ bs)

/-- A block that enters the channel from the sideband. -/
def State.sbTaken (s : State) (bs : List Byte) : State :=
  let s := (s.crossing .service 31).crossing .service 6
  ({ s with cox := { s.cox with s2c := pad64 bs, s2cFull := true } }).fire (evG 33)

/-- A block with a wrong PEC (R363). -/
def State.sbRefused (s : State) : State := ((s.crossing .service 31).crossing .service 6).incF ⟨0x30240, 8, 8⟩

theorem execSbBlockWrite_open (hn : bs ≠ []) (hl : bs.length ≤ 64) (hu : s.portUp = true) (hf : s.cox.s2cFull = false) :
    execSbBlockWrite bs p s = .next (if p = none ∨ p = some (s.writePec bs) then s.sbTaken bs else s.sbRefused) := by
  have hlen : ¬ (bs.length = 0 ∨ 64 < bs.length) := by
    rw [List.length_eq_zero_iff]
    exact not_or.mpr ⟨hn, Nat.not_lt.mpr hl⟩
  unfold execSbBlockWrite
  rw [if_neg hlen, if_neg (by rw [hu, hf]; decide)]
  cases p with
  | none => rfl
  | some c =>
    by_cases hc : c = s.writePec bs
    · exact (if_pos (decide_eq_true hc)).trans (congrArg Host.Outcome.next (if_pos (.inr (congrArg some hc))).symm)
    · have hnot : ¬ (some c = none ∨ some c = some (s.writePec bs)) :=
        not_or.mpr ⟨Option.some_ne_none c, fun h => hc (Option.some.inj h)⟩
      exact (if_neg fun h => hc (of_decide_eq_true h)).trans (congrArg Host.Outcome.next (if_neg hnot).symm)

theorem State.sbTaken_leaves : (s.sbTaken bs).cox = { s.cox with s2c := pad64 bs, s2cFull := true } ∧ (s.sbTaken bs).regs = s.regs := by
  unfold State.sbTaken
  simp only [State.fire_cox, State.fire_regs, State.crossing_cox, State.crossing_regs, and_self]

theorem State.sbRefused_leaves : s.sbRefused.cox = s.cox ∧ s.sbRefused.fld ⟨0x30240, 8, 8⟩ = min 255 (s.fld ⟨0x30240, 8, 8⟩ + 1) := by
  rw [State.sbRefused, State.fld_incF_here (by decide), State.crossing_fld, State.crossing_fld, State.incF_cox, State.crossing_cox,
    State.crossing_cox]
  exact ⟨rfl, rfl⟩

theorem withPec_head {pre : List Byte} : (withPec pre [c] x).head? = some c := by cases x <;> rfl

/-! ## Cox's answers (R364) -/

/-- The state once the message of a channel has been answered. -/
def State.replied (s : State) (ch : MbxCh) (st : Byte) (payload : List Byte) : State :=
  (s.served ch).reply ch (replyTo (s.taken ch) st payload)

theorem State.replied_posted : (s.replied ch st payload).posted ch = pad64 (replyTo (s.taken ch) st payload) := State.reply_posted
theorem State.replied_regs : (s.replied ch st payload).regs = s.regs := State.reply_regs
theorem State.replied_slices : (s.replied ch st payload).slices = s.slices := State.reply_agreeOff .slices (by decide)

theorem State.replied_taken : (s.replied ch st payload).taken ch = [] := by
  unfold State.replied State.taken
  cases ch
  · rw [State.reply_host]
    rfl
  · rw [State.reply_sideband]
    rfl

theorem State.replied_log : (s.replied ch st payload).cox.log = s.cox.log := by
  unfold State.replied
  cases ch
  · rw [State.reply_host]
    rfl
  · rw [State.reply_sideband]
    rfl

/-- A command that changes nothing of the state answers with its STATUS and payload. -/
theorem State.serve_replies (hup : s.coxUp = true) (ht : s.hasTaken ch opc len)
    (hf : f (s.served ch) (slice (s.taken ch) 4 len) = (s.served ch, st, payload)) :
    s.serve ch opc len f = s.replied ch st payload := State.serve_taken hup ht hf

theorem le_foldl_max {g : Nat → Nat} {l : List Nat} (h : i ∈ l) : g i ≤ l.foldl (fun m i => max m (g i)) n := by
  have hmono : ∀ (l : List Nat) m, m ≤ l.foldl (fun m i => max m (g i)) m := fun l m =>
    l.foldlRecOn (motive := fun k => m ≤ k) _ (Nat.le_refl m) fun k hk i _ => Nat.le_trans hk (Nat.le_max_left k (g i))
  induction l generalizing n with
  | nil => exact absurd h List.not_mem_nil
  | cons j l ih =>
    rcases List.mem_cons.mp h with rfl | h
    · exact Nat.le_trans (Nat.le_max_right n (g i)) (hmono l _)
    · exact ih h

theorem State.le_life (h : i < 4) : s.degrade i ≤ (List.range 4).foldl (fun m i => max m (s.degrade i)) 0 :=
  le_foldl_max (List.mem_range.mpr h)

end Mailbox

/-- Settles O58: each channel's step is one update of Cox's part, and each command is `serve` with a function that leaves the state
alone. -/
theorem theMailboxAnswers : Obligations.TheMailboxAnswers := by
  unfold Obligations.TheMailboxAnswers
  refine ⟨⟨fun s hu => ⟨fun hf => ?_, fun hf => ?_, if_pos hu⟩, fun s hu => ⟨fun hf => ?_, fun hf => ?_, fun msg hm => ⟨?_, ?_⟩⟩,
    fun bs p s hn hl hu hf => ⟨fun hp => ?_, fun c hp hc => ?_⟩, fun x s hu => ⟨?_, ?_⟩⟩,
    fun ch v s hu ht => ?_, fun ch s hu ht => ?_, fun ch r s hr hu ht => ?_, fun ch s hu ht => ?_, fun ch a r s hu ht => ?_⟩
  · obtain ⟨hcox, hregs, hglobs⟩ := State.mbxPost_free hf
    exact ⟨_, if_pos hu, hcox, hregs, hglobs⟩
  · exact ⟨_, (if_pos hu).trans (congrArg Host.Outcome.next (State.mbxPost_full hf)), rfl, State.fld_incF_here (by decide)⟩
  · exact (if_neg (by rw [hu]; decide)).trans (if_pos hf)
  · exact (if_neg (by rw [hu]; decide)).trans (if_pos hf)
  · exact ⟨_, execMailboxReply_posts hm hu, State.reply_host, State.reply_regs⟩
  · exact ⟨_, execMailboxReply_posts hm hu, State.reply_sideband, State.reply_regs⟩
  · obtain ⟨hcox, hregs⟩ := State.sbTaken_leaves (s := s) (bs := bs)
    exact ⟨_, (execSbBlockWrite_open hn hl hu hf).trans (congrArg Host.Outcome.next (if_pos hp)), hcox, hregs⟩
  · have hbad : ¬ (p = none ∨ p = some (s.writePec bs)) := by
      rw [hp]
      exact not_or.mpr ⟨Option.some_ne_none c, fun h => hc (Option.some.inj h)⟩
    exact ⟨_, (execSbBlockWrite_open hn hl hu hf).trans (congrArg Host.Outcome.next (if_neg hbad)), State.sbRefused_leaves⟩
  · exact ⟨_, if_neg (by rw [hu]; decide), rfl, rfl, rfl⟩
  · exact ⟨_, if_neg (by rw [hu]; decide), rfl, withPec_head⟩
  · exact ⟨_, congrArg Host.Outcome.next (State.serve_replies hu ht rfl), State.replied_posted, State.replied_taken, State.replied_regs,
      State.replied_slices⟩
  · intro n
    by_cases hn : 2048 ≤ n
    · exact ⟨_, congrArg Host.Outcome.next (State.serve_replies hu ht (if_pos hn)), State.replied_taken, State.replied_regs,
        State.replied_log, fun _ => State.replied_posted, fun h => absurd hn (Nat.not_le.mpr h)⟩
    · have hlog : (s.served ch).cox.log = s.cox.log := by cases ch <;> rfl
      refine ⟨_, congrArg Host.Outcome.next (State.serve_replies hu ht (if_neg hn)), State.replied_taken, State.replied_regs,
        State.replied_log, fun h => absurd h hn, fun _ => ?_⟩
      rw [← hlog]
      exact State.replied_posted
  · intro p
    by_cases hout : 64 ≤ hdrNat p 0 1 ∨ 128 ≤ hdrNat p 1 1
    · exact ⟨_, (if_neg (not_not_intro hr)).trans (congrArg Host.Outcome.next (State.serve_replies hu ht (if_pos hout))), State.replied_taken,
        State.replied_regs, fun _ => State.replied_posted, fun h1 h2 => absurd hout (not_or.mpr ⟨Nat.not_le.mpr h1, Nat.not_le.mpr h2⟩)⟩
    · exact ⟨_, (if_neg (not_not_intro hr)).trans (congrArg Host.Outcome.next (State.serve_replies hu ht (if_neg hout))), State.replied_taken,
        State.replied_regs, fun h => absurd h hout, fun _ _ => State.replied_posted⟩
  · exact ⟨_, congrArg Host.Outcome.next (State.serve_replies hu ht rfl), State.replied_posted, State.replied_taken, State.replied_regs⟩
  · exact ⟨_, (List.range 4).foldl (fun m i => max m (s.degrade i)) 0, congrArg Host.Outcome.next (State.serve_replies hu ht rfl),
      State.replied_posted, fun i => State.le_life, State.replied_taken, State.replied_regs⟩

end Sys2Proof.Machine

/-! SUPPORT. The timebase: TB_SET, pulses, and slewing. -/

namespace Sys2Proof.Machine

section Timebase

variable {s t : State} {a n : Nat} {e : Int}

/-! ## TB_SET (R368) -/

/-- The value that TB_SET moves the timebase to. -/
def State.tbNew (s : State) : Nat := s.fld ⟨0x30C08, 0, 32⟩ + 2 ^ 32 * s.fld ⟨0x30C0C, 0, 32⟩

theorem State.tbSet_moves (hm : s.mode = .calibrate) (hj : s.joinsDone = true) (hn : s.now < s.tbNew) :
    s.tbSet = (s.reach s.tbNew).logHw 7 0 (s.now % 2 ^ 64 + 2 ^ 64 * s.tbNew) := if_pos ⟨hm, hj, hn⟩

theorem State.tbSet_counts (h : s.mode ≠ .calibrate ∨ s.joinsDone = false ∨ s.tbNew ≤ s.now) : s.tbSet = s.incF ⟨0x30C14, 24, 8⟩ := by
  refine if_neg fun ⟨hm, hj, hn⟩ => ?_
  rcases h with h | h | h
  · exact h hm
  · exact absurd (hj.symm.trans h) (by decide)
  · exact Nat.not_lt.mpr h hn

/-! ## Pulses (R369) -/

/-- A pulse captured, before what it says of the timebase. -/
def State.pulseNoted (s : State) : State :=
  (((({ s with plinth := { s.plinth with lastPulse := some s.now } } : State).setReg 0x30C18 (BitVec.ofNat 32 s.now)).setReg 0x30C1C
    (BitVec.ofNat 32 (s.now / 2 ^ 32))).wrapF ⟨0x30C14, 8, 8⟩).fire (evG 37)

/-- The timebase is e ns from the pulse: it slews. -/
def State.pulseSlew (s : State) (e : Int) : State :=
  let s := ({ s with plinth := { s.plinth with slew := e } } : State).setReg 0x30C20 (BitVec.ofInt 32 e)
  if e.natAbs ≤ 20 then s.putF ⟨0x30C14, 0, 1⟩ 1 else s

theorem State.pulse_eq : s.pulse = if s.pulseNoted.fld ⟨0x30C10, 1, 2⟩ = 2
    then s.pulseNoted.pulseSlew ((nearest (1000000 * s.pulseNoted.fld ⟨0x30C10, 3, 10⟩) s.now : Int) - s.now) else s.pulseNoted := rfl

theorem State.pulseNoted_fld {lo len : Nat} : s.pulseNoted.fld ⟨0x30C10, lo, len⟩ = s.fld ⟨0x30C10, lo, len⟩ := by
  have hreg : s.pulseNoted.reg 0x30C10 = s.reg 0x30C10 := by
    rw [State.pulseNoted, State.fire_reg, State.wrapF, State.reg_putF_ne (by decide), State.reg_setReg, if_neg (by decide),
      State.reg_setReg, if_neg (by decide)]
    rfl
  exact congrArg (fun w => bits w lo len) hreg

theorem State.pulseNoted_plinth : s.pulseNoted.plinth = { s.plinth with lastPulse := some s.now } := State.fire_plinth

theorem State.pulseNoted_captures : s.pulseNoted.reg 0x30C18 = BitVec.ofNat 32 s.now
    ∧ s.pulseNoted.reg 0x30C1C = BitVec.ofNat 32 (s.now / 2 ^ 32)
    ∧ s.pulseNoted.fld ⟨0x30C14, 8, 8⟩ = (s.fld ⟨0x30C14, 8, 8⟩ + 1) % 256 := by
  refine ⟨?_, ?_, ?_⟩
  · rw [State.pulseNoted, State.fire_reg, State.wrapF, State.reg_putF_ne (by decide), State.reg_setReg, if_neg (by decide),
      State.reg_setReg_self]
  · rw [State.pulseNoted, State.fire_reg, State.wrapF, State.reg_putF_ne (by decide), State.reg_setReg_self]
  · rw [State.pulseNoted, State.fire_fld, State.fld_wrapF (by decide), State.fld, State.reg_setReg, if_neg (by decide),
      State.reg_setReg, if_neg (by decide)]
    rfl

theorem State.pulseSlew_plinth : (s.pulseSlew e).plinth = { s.plinth with slew := e } := by
  unfold State.pulseSlew
  dsimp only
  split
  · rfl
  · rfl

theorem State.pulseNoted_now : s.pulseNoted.now = s.now := by
  rw [State.now, State.pulseNoted_plinth, State.now]

theorem State.pulseSlew_now : (s.pulseSlew e).now = s.now := by
  rw [State.now, State.pulseSlew_plinth, State.now]

theorem State.pulseSlew_reg (h0 : a ≠ 0x30C14) (h : a ≠ 0x30C20) : (s.pulseSlew e).reg a = s.reg a := by
  unfold State.pulseSlew
  dsimp only
  split
  · exact (State.reg_putF_ne h0).trans (State.reg_setReg.trans (if_neg h))
  · exact State.reg_setReg.trans (if_neg h)

theorem State.pulseSlew_count : (s.pulseSlew e).fld ⟨0x30C14, 8, 8⟩ = s.fld ⟨0x30C14, 8, 8⟩ := by
  have hset : (({ s with plinth := { s.plinth with slew := e } } : State).setReg 0x30C20 (BitVec.ofInt 32 e)).fld ⟨0x30C14, 8, 8⟩
      = s.fld ⟨0x30C14, 8, 8⟩ := by
    rw [State.fld, State.reg_setReg, if_neg (by decide)]
    rfl
  unfold State.pulseSlew
  dsimp only
  split
  · exact Eq.trans (State.fld_putF_beside (by decide) (by decide)) hset
  · exact hset

/-- What an accepted pulse leaves. -/
theorem State.pulse_leaves : s.pulse.plinth.lastPulse = some s.now ∧ s.pulse.reg 0x30C18 = BitVec.ofNat 32 s.now
    ∧ s.pulse.reg 0x30C1C = BitVec.ofNat 32 (s.now / 2 ^ 32) ∧ s.pulse.fld ⟨0x30C14, 8, 8⟩ = (s.fld ⟨0x30C14, 8, 8⟩ + 1) % 256
    ∧ s.pulse.now = s.now := by
  obtain ⟨hlow, hhigh, hcount⟩ := State.pulseNoted_captures (s := s)
  rw [State.pulse_eq]
  split
  · rw [State.pulseSlew_now, State.pulseSlew_plinth, State.pulseSlew_reg (by decide) (by decide), State.pulseSlew_reg (by decide) (by decide),
      State.pulseSlew_count, State.pulseNoted_plinth]
    exact ⟨rfl, hlow, hhigh, hcount, State.pulseNoted_now⟩
  · rw [State.pulseNoted_plinth]
    exact ⟨rfl, hlow, hhigh, hcount, State.pulseNoted_now⟩

theorem State.pulse_slew (h : s.fld ⟨0x30C10, 1, 2⟩ = 2) :
    s.pulse.plinth.slew = (nearest (1000000 * s.fld ⟨0x30C10, 3, 10⟩) s.now : Int) - s.now := by
  rw [State.pulse_eq, State.pulseNoted_fld, State.pulseNoted_fld, if_pos h, State.pulseSlew_plinth]

theorem execTimePulse_early {p : Nat} (hu : s.portUp = true) (hs : s.fld ⟨0x30C10, 1, 2⟩ ≠ 0) (hp : s.plinth.lastPulse = some p)
    (hn : s.now < p + 500000 * s.fld ⟨0x30C10, 3, 10⟩) : execTimePulse s = .next (s.incF ⟨0x30C14, 16, 8⟩) := by
  rw [execTimePulse, if_neg (by rw [hu]; simpa using hs), hp]
  exact if_pos hn

theorem execTimePulse_accepted (hu : s.portUp = true) (hs : s.fld ⟨0x30C10, 1, 2⟩ ≠ 0)
    (h : ∀ p, s.plinth.lastPulse = some p → p + 500000 * s.fld ⟨0x30C10, 3, 10⟩ ≤ s.now) : execTimePulse s = .next s.pulse := by
  rw [execTimePulse, if_neg (by rw [hu]; simpa using hs)]
  split
  case h_1 p hp => exact if_neg (Nat.not_lt.mpr (h p hp))
  case h_2 => rfl

/-! ## Slewing (R369) -/

/-- A cycle of clk_ref adds its nanoseconds. -/
theorem State.tick_now (h : s.refRuns = true) : (s.tick n).now = s.now + n := by
  obtain ⟨g, ⟨slices, inj, cross, follow, msgs, counts, ht⟩, -⟩ := State.tick_running (ns := n) h
  rw [ht]
  rfl

/-- The state after a cycle of clk_ref that adds n ns in place of 10. -/
def State.slewed (s : State) (n : Nat) (e : Int) : State :=
  { s.tick n with plinth := { (s.tick n).plinth with slew := e, slewNext := (s.tick n).now + 150 } }

theorem execTimebaseSlewStep_due (hr : s.refRuns = true) (hn : s.plinth.slewNext ≤ s.now) (h : s.plinth.slew ≠ 0) :
    execTimebaseSlewStep s = .next (s.slewed (if 0 < s.plinth.slew then 11 else 9)
      (if 0 < s.plinth.slew then s.plinth.slew - 1 else s.plinth.slew + 1)) := by
  have hgo : ¬ (s.plinth.slew = 0 ∨ (!s.refRuns) = true ∨ s.now < s.plinth.slewNext) := by
    rw [hr]
    exact not_or.mpr ⟨h, not_or.mpr ⟨by decide, Nat.not_lt.mpr hn⟩⟩
  rw [execTimebaseSlewStep]
  dsimp only
  rw [if_neg hgo]
  simp only [decide_eq_true_eq]
  rfl

theorem execTimebaseSlewStep_up (hr : s.refRuns = true) (hn : s.plinth.slewNext ≤ s.now) (h : 0 < s.plinth.slew) :
    execTimebaseSlewStep s = .next (s.slewed 11 (s.plinth.slew - 1)) := by
  rw [execTimebaseSlewStep_due hr hn (Int.ne_of_gt h), if_pos h, if_pos h]

theorem execTimebaseSlewStep_down (hr : s.refRuns = true) (hn : s.plinth.slewNext ≤ s.now) (h : s.plinth.slew < 0) :
    execTimebaseSlewStep s = .next (s.slewed 9 (s.plinth.slew + 1)) := by
  rw [execTimebaseSlewStep_due hr hn (Int.ne_of_lt h), if_neg (Int.lt_asymm h), if_neg (Int.lt_asymm h)]

end Timebase

/-- Settles O60: each step of the timebase is one update of the Plinth and its registers. -/
theorem theTimebaseIsSetAndSlewed : Obligations.TheTimebaseIsSetAndSlewed := by
  unfold Obligations.TheTimebaseIsSetAndSlewed
  refine ⟨fun s hu => ⟨fun hm hj hn => ?_, fun h => ?_⟩, fun s hu hs => ⟨fun p hp hn => ?_, fun h => ?_⟩,
    fun s hr hn => ⟨fun h => ?_, fun h => ?_⟩⟩
  · refine ⟨_, (if_pos hu).trans (congrArg Host.Outcome.next (State.tbSet_moves hm hj hn)), ?_, ?_, ?_, ?_⟩
    · rw [State.logHw_now]
      exact State.plinth_now_reach.trans (Nat.max_eq_right (Nat.le_of_lt hn))
    · exact ((State.Stands.logHw .refl).fld (by decide)).trans (State.fld_of_regs State.reach_regs)
    · rw [State.logHw_agents, State.reach_agents]
    · rw [State.logHw_atts, State.reach_atts]
  · exact ⟨_, (if_pos hu).trans (congrArg Host.Outcome.next (State.tbSet_counts h)), rfl, State.fld_incF_here (by decide)⟩
  · exact ⟨_, execTimePulse_early hu hs hp hn, State.fld_incF_here (by decide), rfl⟩
  · obtain ⟨hlast, hlow, hhigh, hcount, hnow⟩ := State.pulse_leaves (s := s)
    exact ⟨_, execTimePulse_accepted hu hs h, hlast, hlow, hhigh, hcount, hnow, State.pulse_slew⟩
  · exact ⟨_, execTimebaseSlewStep_up hr hn h, State.tick_now hr, rfl, congrArg (· + 150) (State.tick_now hr)⟩
  · exact ⟨_, execTimebaseSlewStep_down hr hn h, State.tick_now hr, rfl, congrArg (· + 150) (State.tick_now hr)⟩

end Sys2Proof.Machine
